-- ==== Sys2Proof/Word.lean ====
section
/-! DEFINITION. The words the N9 computes with: a byte, and the 64-bit word of a cell store and of a sequencer
register (R64, R117). Register fields, descriptors and addresses that the spec lays out as bit strings of many
widths are natural numbers read through the field helpers of Machine/Bits.lean. -/

namespace Sys2Proof

/-- One byte. -/
abbrev Byte := BitVec 8

/-- One 64-bit data word (R64, R117). -/
abbrev Word := BitVec 64

end Sys2Proof
end

