-- ==== Sys2Proof/Machine/Bits.lean ====
section
/-! DEFINITION. Plain helpers with no machine in them: bit fields of a number, byte order (R3: little-endian),
sparse tables with rising keys, byte memories in canonical form, sets of numbers, and the shape of a register and
counter description (R5, R7). -/

namespace Sys2Proof.Machine

/-! ## Bit fields of a number -/

/-- Bits [lo + w - 1 : lo] of x. -/
def fld (x lo w : Nat) : Nat := (x >>> lo) % 2 ^ w

/-- x with bits [lo + w - 1 : lo] replaced by the low w bits of v. -/
def setFld (x lo w v : Nat) : Nat := x - (fld x lo w <<< lo) + ((v % 2 ^ w) <<< lo)

/-- Bit i of x. -/
def bit (x i : Nat) : Bool := x.testBit i

/-- x with bit i set to b. -/
def setBit (x i : Nat) (b : Bool) : Nat := setFld x i 1 (if b then 1 else 0)

/-- 1 or 0. -/
def b2n (b : Bool) : Nat := if b then 1 else 0

/-- The mask of w ones at bit lo. -/
def ones (lo w : Nat) : Nat := (2 ^ w - 1) <<< lo

/-- x without the bits set in m. -/
def clearBits (x m : Nat) : Nat := x - (x &&& m)

/-- The number of bits set among the low n bits of x. -/
def popCount : Nat → Nat → Nat
  | 0, _ => 0
  | n + 1, x => popCount n (x / 2) + x % 2

/-- The indices below n whose bit is set in x, lowest first. -/
def bitsOf (n x : Nat) : List Nat := (List.range n).filter (fun i => x.testBit i)

/-- x rounded up to a multiple of k. -/
def roundUp (x k : Nat) : Nat := (x + k - 1) / k * k

/-- x divided by k, rounded up. -/
def ceilDiv (x k : Nat) : Nat := (x + k - 1) / k

/-- The two's complement value of the low w bits of x. -/
def signed (w x : Nat) : Int :=
  let y := x % 2 ^ w
  if 2 * y < 2 ^ w then (y : Int) else (y : Int) - (2 ^ w : Nat)

/-- The low w bits of an integer, as two's complement. -/
def wrapInt (w : Nat) (i : Int) : Nat := (i % ((2 ^ w : Nat) : Int)).toNat

/-! ## Byte order (R3) -/

/-- The n bytes of x, the least significant first. -/
def leBytes : Nat → Nat → List Byte
  | 0, _ => []
  | n + 1, x => BitVec.ofNat 8 x :: leBytes n (x / 256)

/-- The number whose bytes, least significant first, are bs. -/
def leNat : List Byte → Nat
  | [] => 0
  | b :: bs => b.toNat + 256 * leNat bs

/-- The number whose bytes, most significant first, are bs (network order). -/
def beNat (bs : List Byte) : Nat := leNat bs.reverse

/-- The n bytes of x, the most significant first. -/
def beBytes (n x : Nat) : List Byte := (leBytes n x).reverse

/-- n zero bytes. -/
def zeroBytes (n : Nat) : List Byte := List.replicate n 0

/-- Bytes a to a + n - 1 of bs. -/
def bsub (bs : List Byte) (a n : Nat) : List Byte := (bs.drop a).take n

/-- Bytes a to a + n - 1 of bs as a little-endian number. -/
def leAt (bs : List Byte) (a n : Nat) : Nat := leNat (bsub bs a n)

/-- bs padded with zeros, or cut, to n bytes. -/
def fitBytes (bs : List Byte) (n : Nat) : List Byte := (bs ++ zeroBytes (n - bs.length)).take n

/-- True when every byte is 0. -/
def allZero (bs : List Byte) : Bool := bs.all (fun b => b == 0)

/-! ## Sparse tables: a list of (key, value) pairs with strictly rising keys -/

/-- A table from numbers to values, an absent key having no value. -/
abbrev Tbl (α : Type) := List (Nat × α)

/-- The value at k, if any. -/
def Tbl.find {α : Type} (t : Tbl α) (k : Nat) : Option α :=
  match t with
  | [] => none
  | (j, v) :: r => if j = k then some v else Tbl.find r k

/-- The value at k, or d. -/
def Tbl.get {α : Type} (t : Tbl α) (k : Nat) (d : α) : α := (Tbl.find t k).getD d

/-- t with v at k. -/
def Tbl.put {α : Type} (t : Tbl α) (k : Nat) (v : α) : Tbl α :=
  match t with
  | [] => [(k, v)]
  | (j, w) :: r => if k < j then (k, v) :: (j, w) :: r else if k = j then (k, v) :: r else (j, w) :: Tbl.put r k v

/-- t without k. -/
def Tbl.del {α : Type} (t : Tbl α) (k : Nat) : Tbl α := List.filter (fun p => p.1 ≠ k) t

/-- t with v at k, where the table lists no entry equal to the default d. -/
def Tbl.set {α : Type} [DecidableEq α] (t : Tbl α) (k : Nat) (v d : α) : Tbl α :=
  if v = d then Tbl.del t k else Tbl.put t k v

/-- t with f applied to the value at k, if there is one. -/
def Tbl.upd {α : Type} (t : Tbl α) (k : Nat) (f : α → α) : Tbl α := List.map (fun p => if p.1 = k then (p.1, f p.2) else p) t

/-- True when k has a value. -/
def Tbl.has {α : Type} (t : Tbl α) (k : Nat) : Bool := (Tbl.find t k).isSome

/-- t with f applied to every value. -/
def Tbl.mapV {α : Type} (t : Tbl α) (f : Nat → α → α) : Tbl α := List.map (fun p => (p.1, f p.1 p.2)) t

/-- The keys of t whose value satisfies p, rising. -/
def Tbl.keysWhere {α : Type} (t : Tbl α) (p : Nat → α → Bool) : List Nat :=
  List.map Prod.fst (List.filter (fun e => p e.1 e.2) t)

/-- True when the keys rise strictly. -/
def risingFrom {α : Type} : Nat → List (Nat × α) → Bool
  | _, [] => true
  | b, (k, _) :: r => decide (b ≤ k) && risingFrom (k + 1) r

/-- The canonical form of a table: its keys rise strictly. -/
def Tbl.wf {α : Type} (t : Tbl α) : Bool := risingFrom 0 t

/-- The lowest number from lo upward, below lo + fuel, that is not a key of t. -/
def lowestFree {α : Type} (t : Tbl α) : Nat → Nat → Option Nat
  | _, 0 => none
  | lo, fuel + 1 => if Tbl.has t lo then lowestFree t (lo + 1) fuel else some lo

/-! ## Byte memories: rising addresses, no listed byte equal to what an unlisted one reads as -/

/-- A byte memory. -/
abbrev Mem := List Host.Cell

/-- What a byte that nothing has written reads as: 0. DESIGN CHOICE, unsafe (log entry 3). -/
def unwrittenByte : Byte := 0

/-- The byte at address a. -/
def Mem.get (m : Mem) (a : Nat) : Byte := Tbl.get m a unwrittenByte

/-- m with byte v at address a, in canonical form. -/
def Mem.set (m : Mem) (a : Nat) (v : Byte) : Mem := Tbl.set m a v unwrittenByte

/-- The n bytes from address a. -/
def Mem.bytes (m : Mem) (a n : Nat) : List Byte := (List.range n).map (fun i => Mem.get m (a + i))

/-- The little-endian number in the n bytes from address a. -/
def Mem.num (m : Mem) (a n : Nat) : Nat := leNat (Mem.bytes m a n)

/-- m with bytes bs from address a. -/
def Mem.write (m : Mem) (a : Nat) (bs : List Byte) : Mem :=
  match bs with
  | [] => m
  | b :: r => Mem.write (Mem.set m a b) (a + 1) r

/-- m with the bytes of [a, a + n) as unwritten. -/
def Mem.clear (m : Mem) (a n : Nat) : Mem := List.filter (fun p => p.1 < a || a + n ≤ p.1) m

/-- The canonical form: strictly rising addresses and no entry equal to what an unlisted address reads as. -/
def Mem.wf (m : Mem) : Bool := Tbl.wf m && List.all m (fun p => p.2 ≠ unwrittenByte)

/-! ## Sets of numbers, strictly rising -/

/-- l with k. -/
def setIns (l : List Nat) (k : Nat) : List Nat :=
  match l with
  | [] => [k]
  | j :: r => if k < j then k :: j :: r else if k = j then j :: r else j :: setIns r k

/-- l without k. -/
def setDel (l : List Nat) (k : Nat) : List Nat := l.filter (fun j => j ≠ k)

/-- l without the numbers of [a, a + n). -/
def setDelRange (l : List Nat) (a n : Nat) : List Nat := l.filter (fun j => decide (j < a) || decide (a + n ≤ j))

/-- The first element satisfying p and the rest of the list without it. -/
def takeFirst {α : Type} (p : α → Bool) : List α → Option (α × List α)
  | [] => none
  | x :: xs => if p x then some (x, xs) else (takeFirst p xs).map (fun r => (r.1, x :: r.2))

/-- l with its first element satisfying p replaced by f of it. -/
def updFirst {α : Type} (p : α → Bool) (f : α → α) : List α → List α
  | [] => []
  | x :: xs => if p x then f x :: xs else x :: updFirst p f xs

/-- Element i of l, or d. -/
def nth {α : Type} (l : List α) (i : Nat) (d : α) : α := l.getD i d

/-- l with element i replaced by v, the list padded with d where it is shorter. -/
def setNth {α : Type} (l : List α) (i : Nat) (v d : α) : List α :=
  if i < l.length then l.set i v else l ++ List.replicate (i - l.length) d ++ [v]

/-! ## Registers and counters as data (R5, R7) -/

/-- An access code of R5, and `ev` for a field whose write is a command of its own in the opcode table. -/
inductive Acc
  | rw | ro | wo | w1c | w1s | rwl | rc | ev
deriving DecidableEq, Repr

/-- One field of a register: lowest bit, width, access code and reset value. -/
structure FieldSpec where
  lo : Nat
  width : Nat
  acc : Acc
  reset : Nat
deriving DecidableEq, Repr

/-- A register or an array of registers: n1 units s1 apart, in each n2 instances s2 apart, of the given bytes. -/
structure RegSpec where
  base : Nat
  n1 : Nat
  s1 : Nat
  n2 : Nat
  s2 : Nat
  bytes : Nat
  fields : List FieldSpec
deriving DecidableEq, Repr

/-- A counter class of R7; `m` is the class E meter counter of a TSH block, whose wrap-sticky bits lie in the meter
wrap bitmap (R511). -/
inductive CtrClass
  | e | s | l | m
deriving DecidableEq, Repr

/-- A counter or an array of counters, placed as a register is. -/
structure CtrSpec where
  base : Nat
  n1 : Nat
  s1 : Nat
  n2 : Nat
  s2 : Nat
  cls : CtrClass
  wrapBit : Nat
  wrapStep : Nat
deriving DecidableEq, Repr

/-- A counter block: the snap register of unit 0, the number of units and their stride, and the counters (R8). -/
structure CtrBlock where
  snap : Nat
  n1 : Nat
  s1 : Nat
  ctrs : List CtrSpec
deriving DecidableEq, Repr

/-- The first address of the instance of an array (base, n1, s1, n2, s2, size) that holds address a, if one does. -/
def instanceAt (base n1 s1 n2 s2 size a : Nat) : Option (Nat × Nat × Nat) :=
  if a < base then none else
    let u := (a - base) / s1
    let r := (a - base) % s1
    let i := if s2 = 0 then 0 else r / s2
    let o := r - i * s2
    if u < n1 && i < n2 && o < size then some (base + u * s1 + i * s2, u, i) else none

/-- The reset value of a register: its fields' reset values in place. -/
def RegSpec.resetValue (r : RegSpec) : Nat := r.fields.foldl (fun acc f => acc + ((f.reset % 2 ^ f.width) <<< f.lo)) 0

end Sys2Proof.Machine
end

