-- ==== Sys2Proof/Machine/TypesNet.lean ====
section
/-! DEFINITION. Plain data types of the transport (11_transport) and of collectives (08_collectives). -/

namespace Sys2Proof.Machine

/-- The slot that a neighbour access uses, with the words that routers corrected of its request (`ce`) and of its reply (`ce'`), and
whether the request (1) or the reply (2) was uncorrectable. -/
structure SlotUse where
  slot : Nat
  ce : Nat
  ce' : Nat
  bad : Nat
  deriving DecidableEq, Repr

/-- A PTP message that comes in: its port, its type, and the offset that it completes a measurement of. -/
structure PtpIn where
  port : Nat
  kind : Nat
  off : Int
  deriving DecidableEq, Repr

/-- What PF1's reads of host memory bring: their outcome, and the data. -/
structure HostData where
  bad : Nat
  bytes : List Byte
  deriving DecidableEq, Repr

/-- The read of a namespace's log, and whether the drive fails it. -/
structure LogRead where
  ns : Nat
  bad : Bool
  deriving DecidableEq, Repr

/-- A TMT packet as it arrives or leaves: the header of R261 and R262 field by field, the payload (with the GCM tag still
apart), the trailer of R263 where one follows, and whether the IP layer marked it CE. -/
structure Pkt where
  ptype : Nat
  path : Nat
  first : Bool
  last : Bool
  ackReq : Bool
  enc : Bool
  retx : Bool
  sched : Bool
  late : Bool
  keyPhase : Bool
  mapGen : Nat
  dstQp : Nat
  srcStation : Nat
  version : Nat
  psn : Nat
  tstamp : Nat
  msn : Nat
  /-- bytes 18–21, 22–27 and 28–31 -/
  w18 : Nat
  addr : Nat
  w28 : Nat
  payload : List Byte
  /-- the 8 trailer bytes, when the packet carries one -/
  trailer : List Byte
  tag : List Byte
  ce : Bool
deriving DecidableEq, Repr

/-- QP states (R266). -/
inductive QpState
  | init | rts | error
deriving DecidableEq, Repr

/-- A message of a QP, from its work request or from the collective engine (R270, R273): the descriptor it belongs to,
opcode, remote address, AK, decoded length, packets, decoded bytes per packet; its MSN, first PSN and ssn once it has
started; its data once gathered; how far it has been sent and acknowledged; RNR answers met. -/
structure Msg where
  sr : Nat
  tag : Nat
  op : Nat
  remote : Nat
  ak : Nat
  len : Nat
  per : Nat
  npkt : Nat
  comp : Nat
  zrw : Nat
  ctr : Nat
  imm : Nat
  operand : Nat
  compare : Nat
  lloc : Nat
  lhandle : Nat
  laddr : Nat
  data : Option (List Byte)
  started : Bool
  msn : Nat
  psn0 : Nat
  ssn : Nat
  sent : Nat
  got : List Nat
  old : Nat
  rnr : Nat
  rnrWait : Bool
  /-- when it last began to wait for an RNR (R283) -/
  rnrSince : Nat
  done : Bool
  /-- sent for a descriptor of another family, or for none: its end commits nothing -/
  inner : Bool
deriving DecidableEq, Repr

/-- An unacknowledged PSN: the path it went by, its send time, how often a later PSN of its path was acknowledged, and
whether it has been judged lost and waits to be sent again (R282), and, for a READ or atomic request that still waits for its
response, whether its arrival has been acknowledged. -/
structure Unacked where
  psn : Nat
  path : Nat
  time : Nat
  later : Nat
  lost : Bool
  acked : Bool
deriving DecidableEq, Repr

/-- A path of a QP (R282, R285, R286): pacing rate in units of 1 MB/s, smoothed RTT and its variation in ns, the time of
the last change, whether it is suspect, since when and when its last probe left, and the doublings of its timer. -/
structure Path where
  rate : Nat
  srtt : Nat
  rttvar : Nat
  changed : Nat
  suspect : Bool
  since : Nat
  probed : Nat
  backoff : Nat
  used : Nat
deriving DecidableEq, Repr

/-- A message being received (R275, R276): its MSN, type, first PSN and, once the last packet has come, its last PSN;
target address, AK, ssn, immediate, counter, decoded length so far known. -/
structure RxMsg where
  msn : Nat
  ptype : Nat
  psn0 : Nat
  psnEnd : Option Nat
  ssn : Nat
  imm : Nat
  ctr : Nat
  len : Nat
  body : List Byte
deriving DecidableEq, Repr

/-- A posted receive WR (R272): its descriptor and the bytes received. -/
structure RecvWr where
  sr : Nat
  tag : Nat
  ssn : Nat
  len : Nat
  loc : Nat
  handle : Nat
  addr : Nat
  got : Nat
deriving DecidableEq, Repr

/-- A queue pair (R264 to R266) with its parameters of R265 and its two directions. -/
structure Qp where
  slice : Nat
  rm : Bool
  sched : Bool
  encrypt : Bool
  ipv6 : Bool
  vlan : Bool
  payload : Nat
  port : Nat
  subport : Nat
  denux : Bool
  compAllowed : Nat
  pasid : Nat
  recvCr : Nat
  key : Nat
  nextKey : Nat
  dscp : Nat
  pcp : Nat
  peerIndex : Nat
  localIndex : Nat
  peerIp : List Byte
  peerMac : Nat
  peerQp : Nat
  retry : Nat
  rnrRetry : Nat
  ackCoalesce : Nat
  state : QpState
  paths : List Path
  /-- initiator side -/
  nextPsn : Nat
  nextMsn : Nat
  nextSsn : Nat
  ackBase : Nat
  unacked : List Unacked
  msgs : List Msg
  expiries : Nat
  paused : Bool
  keyPhase : Bool
  keyPkts : Nat
  rekey : Bool
  /-- an aborted WR whose ABORTED entry waits for the close, and the WRs that are flushed after it (R294) -/
  closing : Option (Nat × Nat)
  flushing : List (Nat × Nat)
  /-- target side -/
  base : Nat
  rxMsn : Nat
  rxSet : List Nat
  rxMsgs : List RxMsg
  recvs : List RecvWr
  recvNext : Nat
  atomics : List (Nat × Nat)
  sinceAck : Nat
  /-- when the first arrival not yet acknowledged came (R281) -/
  ackSince : Nat
  ceCount : Nat
  echoTs : Nat
  echoPath : Nat
  rxPhase : Bool
  grace : Bool
  /-- when the first packet in the new key phase came (R289) -/
  graceSince : Nat
  /-- responses and packets judged lost that wait to be sent -/
  responses : List Pkt
  /-- READ_REQs and ATOMIC_REQs that wait for target memory across PCIe or a Denux link -/
  waiting : List Pkt
  /-- the PSN of the packet whose target translation has an open fault (R295) -/
  rxFault : Option Nat
  /-- line-cipher parity mismatches since the last rekey (R399) -/
  parity : Nat
deriving DecidableEq, Repr

/-- An address-space key slot (R287): valid, slice, type 0 PASID 1 region 2 link, permissions [0] write [1] read
[2] atomic, handle. -/
structure Ak where
  slice : Nat
  kind : Nat
  perm : Nat
  handle : Nat
deriving DecidableEq, Repr

/-- A trigger counter (R290, R291): its slice, value, threshold, whether its list is armed, and the held descriptors in
post order. -/
structure Ctr where
  slice : Nat
  value : Nat
  threshold : Nat
  armed : Bool
  held : List (Nat × Nat)
deriving DecidableEq, Repr

/-- The transport's state: QPs by number, numbers not yet reissued (R264), key slots and their generations, counters. -/
structure Tmt where
  qps : Tbl Qp
  /-- destroyed QP numbers that are not yet issued again, with the time of their destruction (R264) -/
  cooling : Tbl Nat
  aks : Tbl Ak
  akGen : Tbl Nat
  ctrs : Tbl Ctr
deriving DecidableEq, Repr

/-! ## Collectives -/

/-- A phase of a plan (R192). -/
structure CPhase where
  operation : Nat
  algorithm : Nat
  operator : Nat
  elem : Nat
  accElem : Bool
  compression : Nat
  feedback : Bool
  saturate : Bool
  encrypt : Bool
  rounding : Nat
  root : Nat
  rows : Nat
  cols : Nat
  resid : Nat
  segment : Nat
deriving DecidableEq, Repr

/-- A step of a plan (R209). -/
structure CStep where
  sr : Nat
  tag : Nat
  count : Nat
  step : Nat
  inRegion : Nat
  inOff : Nat
  outRegion : Nat
  outOff : Nat
  onDone : Option Nat
  /-- the bytes of the tensor it writes here, with scales; 0 where this rank writes none -/
  outBytes : Nat
deriving DecidableEq, Repr

/-- A loaded plan: state (0 ABSENT, 1 LOADED, 2 RUNNING, 3 STOPPED), its header fields, ranks, QPs by rank, phases, its
pipeline, regions, the running step, step checks (QP, check) that have come and wait for their step here, oldest first, the QPs whose check
of the running step has come, checks of committed steps still due by QP, the queued steps, recorded stop steps, the steps that have ended
since the load, and residuals: for each phase element i of bank b under key 2 × i + b, binary32 bits, and the number of elements. -/
structure Plan where
  state : Nat
  slice : Nat
  planId : Nat
  deviceIndex : Nat
  ranks : List Nat
  qps : List (Nat × Nat)
  phases : List CPhase
  timeoutMs : Nat
  seed : Nat
  pipe : Nat
  regions : List Nat
  current : Option CStep
  checked : List (Nat × Nat)
  matched : List Nat
  owed : Tbl Nat
  queue : List CStep
  stopped : List Nat
  done : List Nat
  resid : List (Tbl Nat)
  residN : List Nat
deriving DecidableEq, Repr

/-- The collective plans: table by number and generations. -/
structure Colls where
  plans : Tbl Plan
  gen : Tbl Nat
deriving DecidableEq, Repr

end Sys2Proof.Machine
end

