-- ==== Sys2Proof/Syntax.lean ====
section
/-! DEFINITION. The commands of the block: one constructor for each row of spec/opcode_table.json, in its order, with the
operands the row's event takes. Descriptor commands take the submission ring and the tag of an outstanding descriptor;
instruction commands the sequencer that issues (0 to 1,535 a cell, 1,536 + k control core k). -/

namespace Sys2Proof

open Sys2Proof.Machine in
/-- The commands. -/
inductive Instr
  /-- REGISTER_WRITE (R5): A host, control-core or MC write to a register field that has no row of its own acts as its access code states (RW, W1C, W1S, RWL). -/
  | registerWrite (a n v : Nat)
  /-- COUNTER_SNAP (R8): Writing 1 to a block's SNAP bit captures every counter of that block into the host latch copy in the same cycle. -/
  | counterSnap (a : Nat)
  /-- S_COUNTER_CLEAR (R7): Any write to a class S counter clears it to 0 and re-arms its saturation event. -/
  | sCounterClear (a : Nat)
  /-- CELL_ARRAY_CLOCK_GATE (R33): A hub cell array that has been quiet for 50 us clock-gates with its PLLs kept locked. -/
  | cellArrayClockGate (h : Nat)
  /-- CELL_ARRAY_POWER_GATE (R33): A hub cell array that has been idle for 5 ms power-gates with stores in retention and its PLLs stopped. -/
  | cellArrayPowerGate (h : Nat)
  /-- UNIT_WAKE_DONE (R35): A waking unit's PLL locks and clock resumes, and the waiting work proceeds in order. -/
  | unitWakeDone (h : Nat)
  /-- RETENTION_STANDBY_ENTRY (R36): On an MC command the device enters retention standby with DRAM in self-refresh. -/
  | retentionStandbyEntry
  /-- RETENTION_STANDBY_EXIT (R454): An MC wake or run request brings the device out of retention standby. -/
  | retentionStandbyExit (width speed : Nat) (flit : Bool)
  /-- MERINGUE_ENTRY (R36): On D3cold or an MC command the device enters meringue, losing all volatile contents except the always-on domain. -/
  | meringueEntry
  /-- MERINGUE_EXIT (R36): WAKE#, PERST# deassertion with main power, or an MC command starts a full power-up out of meringue. -/
  | meringueExit (cause : Nat)
  /-- FEUILLE_WRITE (R25): Admin command that checks and writes a feuille table entry and reaches every hub copy before it completes. -/
  | feuilleWrite (sr tag : Nat)
  /-- FEUILLE_READ (R513): Admin command that copies a feuille table entry to a given host or pool address. -/
  | feuilleRead (sr tag : Nat)
  /-- FEUILLE_COMPLETION (R29): Once every cell that received work has reached its terminal state, the feuille's single aggregated completion commits. -/
  | feuilleCompletion (sr tag : Nat)
  /-- SR_DOORBELL (R42): A write to a doorbell page's SR word makes new descriptors available after the checks of R41. -/
  | srDoorbell (n off size word : Nat)
  /-- CR_DOORBELL (R40): A write to a doorbell page's CR word sets the new head, freeing entries and retrying held writes. -/
  | crDoorbell (n off size word : Nat)
  /-- EQ_DOORBELL (R40): A write to a doorbell page's EQ word sets the new head of an event queue. -/
  | eqDoorbell (n off size word : Nat)
  /-- DESCRIPTOR_FETCH (R43): The N9 fetches up to 16 descriptors of a ring in ring order, checks them and starts them. -/
  | descriptorFetch (n : Nat)
  /-- CR_ENTRY_WRITE (R48): A committed completion is written as one 32-byte entry with its phase once its CR has a free entry. -/
  | crEntryWrite (n : Nat)
  /-- MODERATION_TIMER_EXPIRY (R55): The moderation time t elapses after the first unreported completion of a CR, making a type 0x01 event due. -/
  | moderationTimerExpiry (n : Nat)
  /-- EVENT_WRITE (R55): A due event entry is written into its EQ when room exists and the EQ's MSI-X vector or Denux interrupt is raised. -/
  | eventWrite (n : Nat)
  /-- ABORT (R52): Abort descriptor (0xF0) ordered by the target SR's completion engine, committing ABORTED/DONE or ALREADY_DONE. -/
  | abort (sr tag : Nat)
  /-- ADMIN_RING_ENABLE (R444): Setting CTL_ADMIN_CTRL.enable creates SR 0, CR 0 and EQ 0, agrees features and sets ready. -/
  | adminRingEnable (word : Nat)
  /-- ADMIN_RING_RELEASE (R56): Clearing CTL_ADMIN_CTRL.enable with no admin command outstanding destroys the admin ring and orphans the driver's slices. -/
  | adminRingRelease (word : Nat)
  /-- LEASE_RENEW (R60): Writing CTL_LEASE.renew arms the driver lease if unarmed and restarts it at timeout_ms. -/
  | leaseRenew (word : Nat)
  /-- LEASE_EXPIRY (R60): The armed lease reaches 0: lease_expired is set, driver-bound slices become ORPHANED and the MC is signalled. -/
  | leaseExpiry
  /-- CREATE_SR (R58): Admin command that creates a submission ring and returns its number and new generation. -/
  | createSr (sr tag : Nat)
  /-- CREATE_CR (R58): Admin command that creates a completion ring bound to an EQ with moderation settings. -/
  | createCr (sr tag : Nat)
  /-- CREATE_EQ (R58): Admin command that creates an event queue bound to an MSI-X vector or accelerator interrupt. -/
  | createEq (sr tag : Nat)
  /-- DESTROY_RING (R514): Admin command that destroys an SR, CR or EQ that nothing still uses. -/
  | destroyRing (sr tag : Nat)
  /-- ADOPT_SLICE (R61): Admin command that resumes an orphaned slice or tears it down into a drain buffer. -/
  | adoptSlice (sr tag : Nat)
  /-- QUERY_RING (R59): Admin command that returns a ring's state, generation, head and tail. -/
  | queryRing (sr tag : Nat)
  /-- CELL_STORE_CE_REWRITE (R68): A corrected cell-store word is rewritten in the bank's next idle cycle. -/
  | cellStoreCeRewrite (c off : Nat)
  /-- CELL_STORE_SCRUB (R68): The background scrub reads a cell-store word in an unused bank cycle, correcting or counting an uncorrectable word. -/
  | cellStoreScrub (c off : Nat)
  /-- CRUMB_SEND (R72): In its owned slot a sender sends one crumb or leaves the slot empty. -/
  | crumbSend (h l d slot : Nat)
  /-- CRUMB_HOP (R73): A router checks a received crumb and forwards it two cycles later or writes it into the receive buffer. -/
  | crumbHop (i ce : Nat) (ue : Bool)
  /-- CREDIT_RETURN (R74): A coalesced credit record travels the sideband and restores the sender's credits. -/
  | creditReturn (i : Nat)
  /-- STORE_SLOT_ACCESS (R75): A neighbour store-slot request in its slot reads or writes the neighbour's store and replies four slots later. -/
  | storeSlotAccess (k : Nat) (slot : SlotUse)
  /-- FRAME_TABLE_COMMIT (R76): Writing LAT_HUB_COMMIT.commit schedules the staged frame table for the next frame boundary. -/
  | frameTableCommit (h : Nat)
  /-- FRAME_TABLE_APPLY (R76): At the next frame boundary the staged frame table takes effect on every link at once and pending clears. -/
  | frameTableApply (h : Nat)
  /-- SPINE_TABLE_COMMIT (R78): Writing SPN_CTRL.commit schedules the staged spine table for the next spine frame boundary. -/
  | spineTableCommit (h : Nat)
  /-- SPINE_TABLE_APPLY (R78): At the next spine frame boundary the staged spine table takes effect. -/
  | spineTableApply (h : Nat)
  /-- SPINE_SLOT (R79): In a spine slot a reserved crumb or arbitrated traffic crosses a spine link direction. -/
  | spineSlot (h n slot : Nat) (arb : Option (Nat × Nat × Bool))
  /-- DVFS_REQUEST (R483): Writing LAT_HUB_CTRL.dvfs_req starts locking the idle cell PLL to the new point. -/
  | dvfsRequest (h v : Nat)
  /-- DVFS_SWITCH (R483): At the first frame boundary at least 20 us after the request the array switches glitch-free to the new point. -/
  | dvfsSwitch (h : Nat)
  /-- STREAM_LINE_ISSUE (R80): A stream issues one 64-byte line request, checking it against the grant table. -/
  | streamLineIssue (k j : Nat)
  /-- STREAM_LINE_RETURN (R83): A read stream's line returns and enters the store with its declared tag, or machine-checks on an uncorrectable line. -/
  | streamLineReturn (k j : Nat)
  /-- STREAM_WRITE_VISIBLE (R82): A written stream line becomes visible and the stream's pending count falls. -/
  | streamWriteVisible (k j : Nat)
  /-- CELL_HALT_REQUEST (R86): Writing LAT_CELL_CTRL.halt_req = 1 halts the cell at the next instruction boundary. -/
  | cellHaltRequest (c : Nat)
  /-- CELL_RESUME (R86): Writing halt_req = 0 while HALTED resumes the cell to RUNNING. -/
  | cellResume (c : Nat)
  /-- CELL_STEP (R86): Writing LAT_CELL_CTRL.step while HALTED issues one instruction and halts again. -/
  | cellStep (c upset : Nat)
  /-- CELL_FAULT_CLEAR (R86): Writing fault_clear while FAULTED clears LAT_CELL_MCA.valid and returns the cell to LOADED. -/
  | cellFaultClear (c : Nat)
  /-- NOP (R130): Instruction that does nothing. -/
  | nop (k upset : Nat)
  /-- MOV (R130): Instruction that copies a register with its tag. -/
  | mov (k upset : Nat)
  /-- MOVI (R130): Instruction that loads a sign-extended immediate as INT. -/
  | movi (k upset : Nat)
  /-- MOVIU (R130): Instruction that loads a zero-extended immediate as UINT. -/
  | moviu (k upset : Nat)
  /-- CLR (R130): Instruction that sets a register EMPTY. -/
  | clr (k upset : Nat)
  /-- CAST (R130): Instruction that reinterprets an INT as UINT or back. -/
  | cast (k upset : Nat)
  /-- MKADDR (R132): Instruction that forms an ADDR from a grant index and a 60-bit offset. -/
  | mkaddr (k upset : Nat)
  /-- MOVS (R138): Instruction that writes a special register. -/
  | movs (k upset : Nat)
  /-- MOVG (R138): Instruction that reads a special register into a g register. -/
  | movg (k upset : Nat)
  /-- RETAG (R130): Privileged instruction that rewrites a register's tag. -/
  | retag (k upset : Nat)
  /-- LD (R137): Instruction that loads a tagged word from the store. -/
  | ld (k upset : Nat)
  /-- ST (R137): Instruction that stores a tagged word with a fresh check. -/
  | st (k upset : Nat)
  /-- LDP (R137): Instruction that loads from pool memory and stamps the declared tag. -/
  | ldp (k upset : Nat)
  /-- STP (R137): Instruction that stores to pool memory through stream S1. -/
  | stp (k upset : Nat)
  /-- XADD (R137): Atomic fetch-and-add instruction on the store or pool. -/
  | xadd (k upset : Nat)
  /-- XCHG (R137): Atomic exchange instruction on the store or pool. -/
  | xchg (k upset : Nat)
  /-- XCAS (R137): Atomic compare-and-swap instruction on the store or pool. -/
  | xcas (k upset : Nat)
  /-- POOL_ACCESS_RETURN (R137): The data or old value of an LDP or pool atomic returns and the stalled sequencer resumes. -/
  | poolAccessReturn (k : Nat)
  /-- ADD (R132): Integer or address add instruction. -/
  | add (k upset : Nat)
  /-- SUB (R132): Integer or address subtract instruction. -/
  | sub (k upset : Nat)
  /-- AND (R130): Bitwise AND instruction. -/
  | and (k upset : Nat)
  /-- OR (R130): Bitwise OR instruction. -/
  | or (k upset : Nat)
  /-- XOR (R130): Bitwise XOR instruction. -/
  | xor (k upset : Nat)
  /-- NOT (R132): Bitwise or logical NOT instruction. -/
  | not (k upset : Nat)
  /-- NEG (R132): Integer negate instruction. -/
  | neg (k upset : Nat)
  /-- ABS (R132): Integer absolute value instruction. -/
  | abs (k upset : Nat)
  /-- SHL (R132): Shift left instruction. -/
  | shl (k upset : Nat)
  /-- SHR (R132): Logical shift right instruction. -/
  | shr (k upset : Nat)
  /-- SAR (R132): Arithmetic shift right instruction. -/
  | sar (k upset : Nat)
  /-- ROL (R132): Rotate left instruction. -/
  | rol (k upset : Nat)
  /-- ROR (R132): Rotate right instruction. -/
  | ror (k upset : Nat)
  /-- MIN (R130): Integer minimum instruction. -/
  | min (k upset : Nat)
  /-- MAX (R130): Integer maximum instruction. -/
  | max (k upset : Nat)
  /-- CMPEQ (R130): Compare-equal instruction giving BOOL. -/
  | cmpeq (k upset : Nat)
  /-- CMPNE (R130): Compare-not-equal instruction giving BOOL. -/
  | cmpne (k upset : Nat)
  /-- CMPLT (R130): Compare-less-than instruction giving BOOL. -/
  | cmplt (k upset : Nat)
  /-- CMPLE (R130): Compare-less-or-equal instruction giving BOOL. -/
  | cmple (k upset : Nat)
  /-- POPC (R130): Population count instruction. -/
  | popc (k upset : Nat)
  /-- CLZ (R130): Count leading zeros instruction. -/
  | clz (k upset : Nat)
  /-- CTZ (R130): Count trailing zeros instruction. -/
  | ctz (k upset : Nat)
  /-- MUL (R122): Multiply instruction whose low result lands in an m register L issue cycles later. -/
  | mul (k upset : Nat)
  /-- MULH (R122): Multiply-high instruction into an m register. -/
  | mulh (k upset : Nat)
  /-- MAC (R123): Multiply-accumulate instruction into an m register. -/
  | mac (k upset : Nat)
  /-- DIV (R132): Divide instruction into d0 and d1 with 20 issue cycles of latency. -/
  | div (k upset : Nat)
  /-- MULTIPLIER_RESULT_LAND (R122): A multiplier result falls due and is written into its m register with its flags. -/
  | multiplierResultLand (k : Nat)
  /-- DIVIDER_RESULT_LAND (R122): A divider result falls due and is written into d0 and d1. -/
  | dividerResultLand (k : Nat)
  /-- FADD (R130): Lane-wise floating add instruction. -/
  | fadd (k upset : Nat)
  /-- FSUB (R130): Lane-wise floating subtract instruction. -/
  | fsub (k upset : Nat)
  /-- FMUL (R130): Lane-wise floating multiply instruction. -/
  | fmul (k upset : Nat)
  /-- FFMA (R130): Lane-wise fused multiply-add instruction. -/
  | ffma (k upset : Nat)
  /-- FMIN (R512): Lane-wise floating minimum instruction. -/
  | fmin (k upset : Nat)
  /-- FMAX (R512): Lane-wise floating maximum instruction. -/
  | fmax (k upset : Nat)
  /-- FCMPEQ (R130): Binary64 compare-equal instruction. -/
  | fcmpeq (k upset : Nat)
  /-- FCMPLT (R130): Binary64 compare-less instruction. -/
  | fcmplt (k upset : Nat)
  /-- FCMPLE (R130): Binary64 compare-less-or-equal instruction. -/
  | fcmple (k upset : Nat)
  /-- ICVT (R519): Instruction that converts between INT, UINT and F64. -/
  | icvt (k upset : Nat)
  /-- BR (R130): Unconditional relative branch instruction. -/
  | br (k upset : Nat)
  /-- BRT (R130): Branch-if-true instruction. -/
  | brt (k upset : Nat)
  /-- BRF (R130): Branch-if-false instruction. -/
  | brf (k upset : Nat)
  /-- JMP (R130): Jump to a UINT register address. -/
  | jmp (k upset : Nat)
  /-- CALL (R130): Call instruction saving the return address and branching. -/
  | call (k upset : Nat)
  /-- BRK (R140): Instruction that raises a BRK trap with its immediate. -/
  | brk (k upset : Nat)
  /-- TRET (R142): Instruction that leaves a trap handler at epc or the next instruction. -/
  | tret (k upset : Nat)
  /-- WEND (R137): Instruction that ends the cell's part of the wave after draining the multiplier and divider. -/
  | wend (k upset : Nat)
  /-- SWAIT (R130): Instruction that waits until a stream is not busy and has no pending writes. -/
  | swait (k upset : Nat)
  /-- SFENCE (R130): Instruction that orders later stream lines after earlier stream writes and STPs. -/
  | sfence (k upset : Nat)
  /-- CHWAIT (R137): Instruction that waits for received crumbs and returns the offset of the first. -/
  | chwait (k upset : Nat)
  /-- CHFREE (R137): Instruction that frees received crumbs and returns their credits. -/
  | chfree (k upset : Nat)
  /-- CHSPACE (R137): Instruction that waits for free send entries and returns the offset of the first. -/
  | chspace (k upset : Nat)
  /-- CHPUT (R137): Instruction that releases written crumbs for sending. -/
  | chput (k upset : Nat)
  /-- VADD (R131): Vector elementwise add. -/
  | vadd (k upset : Nat)
  /-- VSUB (R131): Vector elementwise subtract. -/
  | vsub (k upset : Nat)
  /-- VMUL (R131): Vector elementwise multiply. -/
  | vmul (k upset : Nat)
  /-- VFMA (R131): Vector elementwise fused multiply-add. -/
  | vfma (k upset : Nat)
  /-- VMIN (R512): Vector elementwise minimum. -/
  | vmin (k upset : Nat)
  /-- VMAX (R512): Vector elementwise maximum. -/
  | vmax (k upset : Nat)
  /-- VABS (R131): Vector elementwise absolute value. -/
  | vabs (k upset : Nat)
  /-- VNEG (R131): Vector elementwise negate. -/
  | vneg (k upset : Nat)
  /-- VCMPEQ (R131): Vector compare-equal to a byte vector. -/
  | vcmpeq (k upset : Nat)
  /-- VCMPLT (R131): Vector compare-less to a byte vector. -/
  | vcmplt (k upset : Nat)
  /-- VCMPLE (R131): Vector compare-less-or-equal to a byte vector. -/
  | vcmple (k upset : Nat)
  /-- VSEL (R518): Vector select by a byte vector. -/
  | vsel (k upset : Nat)
  /-- VADDS (R131): Vector saturating integer add. -/
  | vadds (k upset : Nat)
  /-- VSUBS (R131): Vector saturating integer subtract. -/
  | vsubs (k upset : Nat)
  /-- VCVT (R131): Vector format conversion. -/
  | vcvt (k upset : Nat)
  /-- VREDSUM (R135): Vector sum reduction in fixed order. -/
  | vredsum (k upset : Nat)
  /-- VREDMAX (R135): Vector max reduction in fixed order. -/
  | vredmax (k upset : Nat)
  /-- VQTB8 (R110): Vector TB8 quantization. -/
  | vqtb8 (k upset : Nat)
  /-- VQTB4 (R110): Vector TB4 quantization. -/
  | vqtb4 (k upset : Nat)
  /-- VDQTB8 (R111): Vector TB8 decode. -/
  | vdqtb8 (k upset : Nat)
  /-- VDQTB4 (R111): Vector TB4 decode. -/
  | vdqtb4 (k upset : Nat)
  /-- VQMX (R101): Vector microscaling quantization. -/
  | vqmx (k upset : Nat)
  /-- VDQMX (R101): Vector microscaling decode. -/
  | vdqmx (k upset : Nat)
  /-- TZERO (R131): Tensor instruction that zeroes a tile. -/
  | tzero (k upset : Nat)
  /-- TMMA (R136): Tensor multiply-accumulate steps into a tile. -/
  | tmma (k upset : Nat)
  /-- TMMAX (R136): Tensor multiply-accumulate steps with block scales. -/
  | tmmax (k upset : Nat)
  /-- TLOAD (R131): Tensor instruction that loads a tile from the store. -/
  | tload (k upset : Nat)
  /-- TREAD (R131): Tensor instruction that writes a tile out in a chosen format. -/
  | tread (k upset : Nat)
  /-- SFN_EXP2 (R105): Special-function exp2. -/
  | sfnExp2 (k upset : Nat)
  /-- SFN_LOG2 (R105): Special-function log2. -/
  | sfnLog2 (k upset : Nat)
  /-- SFN_RCP (R105): Special-function reciprocal. -/
  | sfnRcp (k upset : Nat)
  /-- SFN_RSQRT (R105): Special-function reciprocal square root. -/
  | sfnRsqrt (k upset : Nat)
  /-- SFN_SIN (R105): Special-function sine. -/
  | sfnSin (k upset : Nat)
  /-- SFN_COS (R105): Special-function cosine. -/
  | sfnCos (k upset : Nat)
  /-- SFN_TANH (R105): Special-function tanh. -/
  | sfnTanh (k upset : Nat)
  /-- SFN_ERF (R105): Special-function erf. -/
  | sfnErf (k upset : Nat)
  /-- UNIT_INSTRUCTION_FINISH (R133): A vector, tensor or special-function instruction finishes and sets its flags. -/
  | unitInstructionFinish (k u : Nat)
  /-- WFI (R517): Privileged instruction that waits for an enabled interrupt. -/
  | wfi (k upset : Nat)
  /-- IRET (R517): Privileged instruction that returns from an interrupt. -/
  | iret (k upset : Nat)
  /-- LDD (R517): Privileged load of 8 bytes from a DPA. -/
  | ldd (k upset : Nat)
  /-- STD (R517): Privileged store of 8 bytes to a DPA. -/
  | std (k upset : Nat)
  /-- DEFERRED_TRAP (R141): A trap raised inside a unit is taken in the first issue cycle after the unit stops. -/
  | deferredTrap (k : Nat)
  /-- INTERRUPT_ENTRY (R437): A control core takes an enabled pending interrupt into kernel mode. -/
  | interruptEntry (c : Nat)
  /-- PIPE_LAUNCH (R155): Pipeline descriptor that runs or queues one wave. -/
  | pipeLaunch (sr tag : Nat)
  /-- PIPE_LOAD (R149): Pipeline descriptor that checks and loads an image. -/
  | pipeLoad (sr tag : Nat)
  /-- PIPE_LOAD_COMMIT (R150): After frame and spine commits take effect, cells enter LOADED and the load completes with the handle. -/
  | pipeLoadCommit (pn : Nat)
  /-- PIPE_UNLOAD (R162): Pipeline descriptor that unloads a LOADED or STOPPED pipeline. -/
  | pipeUnload (sr tag : Nat)
  /-- PIPE_ARM (R154): Pipeline descriptor that runs one wave per trigger until a limit or disarm. -/
  | pipeArm (sr tag : Nat)
  /-- PIPE_DISARM (R157): Pipeline descriptor that ends an ARM after its running wave. -/
  | pipeDisarm (sr tag : Nat)
  /-- PIPE_HALT (R159): Pipeline descriptor that halts or resumes every cell of a pipeline. -/
  | pipeHalt (sr tag : Nat)
  /-- PIPE_RESET (R162): Pipeline descriptor that returns a STOPPED pipeline to LOADED. -/
  | pipeReset (sr tag : Nat)
  /-- PIPE_QUERY (R165): Pipeline descriptor that returns state and counts. -/
  | pipeQuery (sr tag : Nat)
  /-- WAVE_START (R155): At the first frame boundary after the start decision every running instance begins at its entry point with g0-g7 set. -/
  | waveStart (pn : Nat)
  /-- WAVE_END (R156): When every instance has executed WEND and all writes and crumbs have landed, the wave's status commits. -/
  | waveEnd (pn : Nat)
  /-- BEAT_TRIGGER (R154): A beat boundary matching an ARM's period and phase counts a pending trigger. -/
  | beatTrigger (pn : Nat)
  /-- TLN_ENABLE (R169): Setting TLN_CTRL.enable starts domain time, alignment and schedules. -/
  | tlnEnable
  /-- TLN_DISABLE (R169): Clearing TLN_CTRL.enable closes every scheduled-class gate and drops armed activations. -/
  | tlnDisable
  /-- TLN_TIME_READ (R169): A read of TLN_TIME bits [31:0] latches bits [63:32] for the next read. -/
  | tlnTimeRead (off bytes : Nat)
  /-- PTP_MESSAGE (R170): A PTP message is received, timestamped and handled by the time base and firmware. -/
  | ptpMessage (off : PtpIn)
  /-- BEAT_ALIGNMENT (R171): At each epoch boundary the station exchanges beat markers and steers toward its neighbours. -/
  | beatAlignment (marks : List (Nat × Nat × Nat))
  /-- REFERENCE_LOSS (R171): Loss of every time reference while LOCKED puts the station into HOLDOVER. -/
  | referenceLoss
  /-- HOLDOVER_EXPIRY (R172): HOLDOVER lasting limit_ms puts the station into FREE and signals the MC. -/
  | holdoverExpiry
  /-- GATE_CHANGE (R173): The next gate control list entry takes effect on a port. -/
  | gateChange (port : Nat)
  /-- TX_WINDOW_OPEN (R176): A transmit window opens and its QP sends pending scheduled data. -/
  | txWindowOpen (w : Nat)
  /-- TX_WINDOW_CLOSE (R176): A transmit window closes; unsent planned crumbs are counted as late and added to arrears. -/
  | txWindowClose (w : Nat)
  /-- SCHEDULE_STAGE (R184): Writing TLN_STAGE_CTRL.stage copies a record into the staging slot of the selected kind and checks it. -/
  | scheduleStage
  /-- STAGE_CHECK_DONE (R183): Staging finishes checking and reads STAGED or INVALID. -/
  | stageCheckDone (k : Nat)
  /-- SCHEDULE_ARM (R184): Writing TLN_STAGE_CTRL.arm arms the staged record for an epoch boundary or refuses it. -/
  | scheduleArm
  /-- SCHEDULE_CANCEL (R186): Writing TLN_STAGE_CTRL.cancel cancels an armed activation if early enough. -/
  | scheduleCancel
  /-- ACTIVATION (R185): At the armed epoch boundary a schedule and/or re-map takes effect in one cycle. -/
  | activation
  /-- COLL_LOAD (R208): Collective descriptor that loads a plan and its embedded pipeline. -/
  | collLoad (sr tag : Nat)
  /-- COLL_STEP (R209): Collective descriptor that runs or queues one step of a plan. -/
  | collStep (sr tag : Nat)
  /-- COLL_STEP_START (R210): A queued collective step starts when the previous step ends. -/
  | collStepStart (n : Nat)
  /-- COLL_STEP_COMMIT (R210): A step commits SUCCESS once outputs and residuals are written and visible. -/
  | collStepCommit (n : Nat) (arr : List (List Byte))
  /-- COLL_UNLOAD (R211): Collective descriptor that unloads a plan. -/
  | collUnload (sr tag : Nat)
  /-- COLL_RESET (R211): Collective descriptor that returns a STOPPED plan to LOADED. -/
  | collReset (sr tag : Nat)
  /-- COLL_RESID (R215): Collective descriptor that saves, restores or zeroes residuals. -/
  | collResid (sr tag : Nat)
  /-- COLL_QUERY (R215): Collective descriptor that returns state and counts. -/
  | collQuery (sr tag : Nat)
  /-- COLL_PEER_TIMEOUT (R213): No packet of a waiting step for peer_timeout_ms stops the step and sends stop notices. -/
  | collPeerTimeout (n : Nat)
  /-- REGION_ZERO_DONE (R222): An allocation completes once every granule of the new region reads as zero with valid checks. -/
  | regionZeroDone (n : Nat)
  /-- MEM_COPY (R236): Copy descriptor that moves bytes between operands. -/
  | memCopy (sr tag : Nat)
  /-- MEM_FILL (R236): Copy descriptor that fills with an 8-byte pattern. -/
  | memFill (sr tag : Nat)
  /-- MEM_CONVERT (R238): Copy descriptor that converts elements between formats. -/
  | memConvert (sr tag : Nat)
  /-- MEM_ENCODE (R238): Copy descriptor that encodes as TB8, TB4, MX, ZR or LZS. -/
  | memEncode (sr tag : Nat)
  /-- MEM_DECODE (R238): Copy descriptor that decodes an encoded source. -/
  | memDecode (sr tag : Nat)
  /-- PATROL_SCRUB (R233): The hub's patrol scrub reads the next allocated ECC-on line in arbitrated bandwidth. -/
  | patrolScrub (h : Nat)
  /-- HUB_STORE_SCRUB (R235): The background scrub reads a hub store, port buffer or control store word. -/
  | hubStoreScrub (a sr tag k upset : Nat)
  /-- DRAM_REFRESH (R217): A per-bank refresh or RFM is issued to a channel. -/
  | dramRefresh (h ch : Nat)
  /-- MR4_POLL (R217): Every 16 ms each die's refresh-rate requirement is re-read. -/
  | mr4Poll (h ch rate : Nat)
  /-- DRAM_POWER_DOWN (R217): A channel idle for 256 clocks enters active or precharge power-down. -/
  | dramPowerDown (h ch : Nat)
  /-- TRANSLATION_ENABLE (R257): Setting XLT_CTRL.enable starts translation and the fault ring, rewriting records for open faults. -/
  | translationEnable (word : Nat)
  /-- FAULT_RECORD_WRITE (R253): After the coalescing time and with room, a fault record is written and a type 0x04 event raised. -/
  | faultRecordWrite (slot : Nat)
  /-- FAULT_RESPONSE (R254): A write to XLT_FAULT_RESP retries or fails the accesses waiting on a fault. -/
  | faultResponse (word : Nat)
  /-- STALL_TIMEOUT (R255): A faulting access's stall timeout expires and its descriptor completes TRANSLATION_TIMEOUT. -/
  | stallTimeout (sr tag : Nat)
  /-- INVALIDATE (R249): A write to XLT_INVAL queues an invalidation of one ASID. -/
  | invalidate (word : Nat)
  /-- INVALIDATION_DONE (R250): After drain and entry check, XLT_INVAL_DONE and the optional host copy are written. -/
  | invalidationDone
  /-- ATS_TRANSLATION_COMPLETION (R258): A PCIe ATS Translation Completion is cached as a leaf of the ASID. -/
  | atsTranslationCompletion (asid page : Nat) (rd wr : Bool) (addr : Nat)
  /-- ATS_INVALIDATE_REQUEST (R258): A PCIe Invalidate Request drops the ASID's translations and is answered after drain. -/
  | atsInvalidateRequest (pasid itag : Nat)
  /-- PRG_RESPONSE (R258): A PRI PRG Response retries or fails the ATS fault in the slot its index names. -/
  | prgResponse (index pasid code : Nat)
  /-- TMT_WRITE (R271): Transport WR that writes bytes at the target. -/
  | tmtWrite (sr tag : Nat)
  /-- TMT_WRITE_IMM (R271): Transport WR that writes bytes and posts an arrival entry. -/
  | tmtWriteImm (sr tag : Nat)
  /-- TMT_READ (R271): Transport WR that reads bytes from the target. -/
  | tmtRead (sr tag : Nat)
  /-- TMT_SEND (R277): Transport WR that sends into the peer's receive WR. -/
  | tmtSend (sr tag : Nat)
  /-- TMT_FETCH_ADD (R271): Transport WR that performs a remote 64-bit fetch-add. -/
  | tmtFetchAdd (sr tag : Nat)
  /-- TMT_COMPARE_SWAP (R271): Transport WR that performs a remote 64-bit compare-swap. -/
  | tmtCompareSwap (sr tag : Nat)
  /-- TMT_ACCUMULATE (R271): Transport WR that adds elements into target pool memory. -/
  | tmtAccumulate (sr tag : Nat)
  /-- TMT_ARM (R291): Transport WR that sets a counter's threshold and arms its list. -/
  | tmtArm (sr tag : Nat)
  /-- TMT_RECV (R272): Transport WR that posts a receive buffer. -/
  | tmtRecv (sr tag : Nat)
  /-- TMT_QP_CREATE (R265): Transport command that creates a QP. -/
  | tmtQpCreate (sr tag : Nat)
  /-- TMT_QP_MODIFY (R267): Transport command that connects, errors, resets or rekeys a QP. -/
  | tmtQpModify (sr tag : Nat)
  /-- TMT_QP_DESTROY (R267): Transport command that destroys a QP in INIT or ERROR. -/
  | tmtQpDestroy (sr tag : Nat)
  /-- TMT_QP_QUERY (R267): Transport command that returns a QP's state and counts. -/
  | tmtQpQuery (sr tag : Nat)
  /-- TMT_KEY_BIND (R288): Transport command that binds an address-space key slot and returns the AK. -/
  | tmtKeyBind (sr tag : Nat)
  /-- TMT_KEY_REVOKE (R288): Transport command that revokes an AK once old-generation placements are visible. -/
  | tmtKeyRevoke (sr tag : Nat)
  /-- TMT_COUNTER (R292): Transport command that allocates, frees, sets or reads a trigger counter. -/
  | tmtCounter (sr tag : Nat)
  /-- TMT_PACKET_TRANSMIT (R286): A QP path sends its next packet under pacing on the path with most unused rate. -/
  | tmtPacketTransmit (qn : Nat) (parity : Bool)
  /-- RX_WRITE (R274): An arriving WRITE packet is checked and placed at addr plus msg_offset. -/
  | rxWrite (p : Pkt)
  /-- RX_WRITE_IMM (R274): An arriving WRITE_IMM packet is checked and placed. -/
  | rxWriteImm (p : Pkt)
  /-- RX_SEND (R277): An arriving SEND packet binds and fills the receive WR for its ssn. -/
  | rxSend (p : Pkt)
  /-- RX_ACCUMULATE (R271): An arriving ACCUMULATE packet adds its elements atomically into pool memory. -/
  | rxAccumulate (p : Pkt)
  /-- RX_READ_REQ (R280): An arriving READ_REQ is executed and answered with READ_RESP packets. -/
  | rxReadReq (p : Pkt)
  /-- RX_READ_RESP (R275): An arriving READ_RESP is placed in the initiator's local buffer. -/
  | rxReadResp (p : Pkt)
  /-- RX_ATOMIC_REQ (R280): An arriving ATOMIC_REQ is performed or answered from the record of recent results. -/
  | rxAtomicReq (p : Pkt)
  /-- RX_ATOMIC_RESP (R271): An arriving ATOMIC_RESP delivers the old value and commits the atomic. -/
  | rxAtomicResp (p : Pkt)
  /-- RX_ACK (R281): An arriving ACK updates acknowledged PSNs, congestion state, losses and WR commits. -/
  | rxAck (p : Pkt)
  /-- RX_CTRL_STOP_NOTICE (R213): An arriving stop notice stops, ignores or records the named collective step. -/
  | rxCtrlStopNotice (p : Pkt)
  /-- RX_CTRL_STEP_CHECK (R210): An arriving step check is compared with the local step, stopping with COLL_MISMATCH on disagreement. -/
  | rxCtrlStepCheck (p : Pkt)
  /-- RX_CTRL_CLOSE (R294): An arriving CTRL close puts the peer QP into ERROR. -/
  | rxCtrlClose (p : Pkt)
  /-- MESSAGE_DELIVERY (R276): A complete message whose predecessors are delivered writes its receive completion or arrival entry, increments its counter and advances the base. -/
  | messageDelivery (qn : Nat)
  /-- ACK_TIMER (R281): 2 us after the first unacknowledged arrival the receiver sends an ACK. -/
  | ackTimer (qn : Nat)
  /-- RETRANSMIT_TIMEOUT (R282): A path's RTO expires; the PSN is resent and the path marked suspect. -/
  | retransmitTimeout (qn k : Nat)
  /-- RNR_WAIT_EXPIRY (R283): 20 us after an RNR answer the sender resends the message. -/
  | rnrWaitExpiry (qn : Nat)
  /-- PATH_SUSPECT_EXPIRY (R285): A path's 1 ms suspect period ends. -/
  | pathSuspectExpiry (qn k : Nat)
  /-- REKEY_GRACE_EXPIRY (R289): 8 ms after the first new-phase packet the receiver stops accepting the old key phase. -/
  | rekeyGraceExpiry (qn : Nat)
  /-- QP_NUMBER_RELEASE (R264): 16 ms after destruction a QP number becomes reusable. -/
  | qpNumberRelease (qn : Nat)
  /-- CC_PARAMETER_APPLY (R286): A TMT_CC write reaches every QP of the slice within 10 us, clamping rates to r_min. -/
  | ccParameterApply (sl : Nat)
  /-- FRAME_RECEIVE (R298): A received Ethernet frame passes FCS, MTU, parse, termination, classification, metering and admission. -/
  | frameReceive (o j : Nat) (bytes : List Byte) (fcsOk parity : Bool)
  /-- PFC_REFRESH (R320): A PFC pause is repeated every half of its pause time while above xoff. -/
  | pfcRefresh (p n c : Nat)
  /-- PFC_RECEIVE (R320): A received PFC frame sets per-class pause timers. -/
  | pfcReceive (o j vector : Nat) (quanta : List Nat)
  /-- PFC_PAUSE_EXPIRY (R320): A class's pause timer expires and the class may transmit again. -/
  | pfcPauseExpiry (p n c : Nat)
  /-- TRANSMIT_SELECT (R315): The scheduler picks an eligible queue, charges shapers and starts a frame with egress edits. -/
  | transmitSelect (p n : Nat)
  /-- FIRMWARE_FRAME_SEND (R298): A frame that firmware originates enters the packet path at step 7 in its named queue. -/
  | firmwareFrameSend (p q : Nat) (bytes : List Byte)
  /-- GRAPH_COMMIT (R303): Writing PKT_CTRL.graph_commit requests a parse-graph copy swap. -/
  | graphCommit (p : Nat)
  /-- GRAPH_SWAP (R303): Between frames the port die swaps graph copies and clears graph_pending. -/
  | graphSwap (p : Nat)
  /-- SHAPER_WRITE_APPLY (R316): Within 10 us of a shaper write the new rate and depth apply. -/
  | shaperWriteApply (p kind i : Nat)
  /-- METER_WRITE (R319): A meter entry write fills buckets on enable or applies new rates with clamped tokens. -/
  | meterWrite (p m entry : Nat)
  /-- OCTET_ENABLE (R322): Setting PRT_OCTET.enable trains the octet in its mode. -/
  | octetEnable (o : Nat)
  /-- OCTET_DISABLE (R322): Clearing PRT_OCTET.enable takes the octet down. -/
  | octetDisable (o : Nat)
  /-- ETHERNET_LINK_UP (R324): An Ethernet sub-port finishes auto-negotiation and training and comes up. -/
  | ethernetLinkUp (o j : Nat)
  /-- ETHERNET_LINK_DOWN (R324): An Ethernet sub-port loses its link. -/
  | ethernetLinkDown (o j : Nat)
  /-- DENUX_LINK_ENABLE (R337): Setting DNX_LINK.enable moves the link from DISABLED to DETECT. -/
  | denuxLinkEnable (n : Nat)
  /-- DENUX_LINK_DISABLE (R337): Clearing DNX_LINK.enable moves the link to DISABLED. -/
  | denuxLinkDisable (n : Nat)
  /-- DENUX_SIGNAL_DETECT (R337): Signal on all 8 lanes moves the link from DETECT to TRAIN. -/
  | denuxSignalDetect (n : Nat)
  /-- DENUX_TRAIN_LOCK (R337): All lanes lock and the link moves to ALIGN. -/
  | denuxTrainLock (n : Nat)
  /-- DENUX_TRAIN_TIMEOUT (R337): Training not done in 100 ms sends the link DOWN. -/
  | denuxTrainTimeout (n : Nat)
  /-- DENUX_ALIGN_DONE (R323): Deskew, lane order and polarity are found and the link moves to INIT. -/
  | denuxAlignDone (n : Nat) (rev : Bool)
  /-- DENUX_INIT_DONE (R337): Both sides' init link flits are seen and the link goes ACTIVE, or DOWN on a peer mismatch. -/
  | denuxInitDone (n : Nat)
  /-- DENUX_RETRAIN_ENTRY (R338): Lock loss, NAKs, bad link flits or a request put the link in RETRAIN. -/
  | denuxRetrainEntry (n : Nat)
  /-- DENUX_RETRAIN_DONE (R337): Retrain completes and the link returns ACTIVE, replaying from the far ack_seq. -/
  | denuxRetrainDone (n ack : Nat)
  /-- DENUX_RETRAIN_TIMEOUT (R337): Retrain not done in 2 ms sends the link DOWN. -/
  | denuxRetrainTimeout (n : Nat)
  /-- FLIT_TRANSMIT (R326): A link or data flit is sent in its round position. -/
  | flitTransmit (n : Nat)
  /-- LINK_FLIT_RECEIVE (R327): A link flit is checked, updating acknowledgements, credits and NAK replay. -/
  | linkFlitReceive (n : Nat) (bytes : List Byte)
  /-- DATA_FLIT_RECEIVE (R328): A data flit is accepted if good and its messages released in order, or discarded with a NAK. -/
  | dataFlitReceive (n : Nat) (bytes : List Byte) (parity : Bool)
  /-- DNX_WRITE (R334): An inbound Denux WRITE is checked against inbound windows and placed. -/
  | dnxWrite (n : Nat) (msg : List Byte)
  /-- DNX_READ_REQ (R334): An inbound READ_REQ is checked and answered with READ_CPLs. -/
  | dnxReadReq (n : Nat) (msg : List Byte)
  /-- DNX_READ_CPL (R336): A READ_CPL for an outbound request delivers data or an error status. -/
  | dnxReadCpl (n : Nat) (msg : List Byte)
  /-- DNX_ATOMIC_REQ (R334): An inbound ATOMIC_REQ is checked and performed. -/
  | dnxAtomicReq (n : Nat) (msg : List Byte)
  /-- DNX_ATOMIC_CPL (R336): An ATOMIC_CPL delivers the old value or an error. -/
  | dnxAtomicCpl (n : Nat) (msg : List Byte)
  /-- DNX_DOORBELL (R42): A Denux DOORBELL message acts as a BAR2 doorbell write. -/
  | dnxDoorbell (n : Nat) (msg : List Byte)
  /-- DNX_TMT_MESSAGE (R260): A Denux TMT message carries a TMT packet over a peer link. -/
  | dnxTmtMessage (n : Nat) (msg : List Byte) (parity : Bool)
  /-- DNX_BEAT (R171): A Denux BEAT message carries the peer's domain time for beat alignment. -/
  | dnxBeat (n : Nat) (msg : List Byte)
  /-- DNX_CPL_TIMEOUT (R336): An outbound request without completion in cpl_timeout_us completes LINK_ERROR. -/
  | dnxCplTimeout (n tag : Nat)
  /-- WINDOW_REDUCE_DONE (R335): A write reducing an inbound window completes once old-entry accesses finish. -/
  | windowReduceDone (w : Nat)
  /-- NVME_CONTROLLER_ENABLE (R349): Setting PF1 CC.EN replays drive namespaces and then sets CSTS.RDY. -/
  | nvmeControllerEnable (mps aqa asq acq : Nat)
  /-- NVME_CONTROLLER_RESET (R352): Clearing CC.EN aborts outstanding commands, keeping cached writes whole. -/
  | nvmeControllerReset
  /-- NVME_SHUTDOWN (R427): A write of CC.SHN shuts down the PF1 controller. -/
  | nvmeShutdown
  /-- NVME_SQ_DOORBELL (R340): A PF1 submission queue tail doorbell makes commands available. -/
  | nvmeSqDoorbell (q tail : Nat)
  /-- NVME_CQ_DOORBELL (R340): A PF1 completion queue head doorbell frees entries. -/
  | nvmeCqDoorbell (q head : Nat)
  /-- IDENTIFY (R340): NVMe admin command returning identify data. -/
  | identify (sq cmd : Nat) (prps : List Nat)
  /-- GET_LOG_PAGE (R340): NVMe admin command returning a supported log page. -/
  | getLogPage (sq cmd : Nat) (prps : List Nat)
  /-- SET_FEATURES (R340): NVMe admin command setting a supported feature. -/
  | setFeatures (sq cmd : Nat)
  /-- GET_FEATURES (R340): NVMe admin command returning a supported feature. -/
  | getFeatures (sq cmd : Nat)
  /-- CREATE_IO_SQ (R340): NVMe admin command creating an I/O submission queue. -/
  | createIoSq (sq cmd : Nat)
  /-- CREATE_IO_CQ (R340): NVMe admin command creating an I/O completion queue. -/
  | createIoCq (sq cmd : Nat)
  /-- DELETE_IO_SQ (R340): NVMe admin command deleting an I/O submission queue. -/
  | deleteIoSq (sq cmd : Nat)
  /-- DELETE_IO_CQ (R340): NVMe admin command deleting an I/O completion queue. -/
  | deleteIoCq (sq cmd : Nat)
  /-- NVME_ABORT (R352): NVMe Abort, effective on a write only before its data reaches the cache. -/
  | nvmeAbort (sq cmd : Nat)
  /-- ASYNCHRONOUS_EVENT_REQUEST (R340): NVMe admin command posting a slot for an asynchronous event. -/
  | asynchronousEventRequest (sq cmd : Nat)
  /-- DEVICE_SELF_TEST (R353): NVMe admin command starting or aborting a short or extended self-test. -/
  | deviceSelfTest (sq cmd : Nat)
  /-- SELF_TEST_RESUME (R354): 1 ms after the last queued or outstanding command the paused self-test resumes. -/
  | selfTestResume
  /-- SELF_TEST_DONE (R354): A self-test finishes and writes its result to the Device Self-test log. -/
  | selfTestDone (seg : Nat)
  /-- NVME_READ (R351): NVMe Read ordered against overlapping writes. -/
  | nvmeRead (sq cmd : Nat) (prps : List Nat)
  /-- NVME_WRITE (R346): NVMe Write moved into the write cache and completed. -/
  | nvmeWrite (sq cmd : Nat) (data : HostData)
  /-- NVME_FLUSH (R352): NVMe Flush completing when earlier completed writes are committed. -/
  | nvmeFlush (sq cmd : Nat)
  /-- WRITE_ZEROES (R348): NVMe Write Zeroes recorded as a zero entry. -/
  | writeZeroes (sq cmd : Nat)
  /-- DATASET_MANAGEMENT (R348): NVMe Dataset Management with Deallocate recorded as a zero entry. -/
  | datasetManagement (sq cmd : Nat) (data : HostData)
  /-- BATCH_CLOSE (R346): A batch closes on count, blocks, 50 us, FUA or Flush, and its log data write begins. -/
  | batchClose (n : Nat)
  /-- BATCH_COMMIT (R346): The batch's commit record write completes with FUA and the batch is committed. -/
  | batchCommit (n : Nat)
  /-- HOME_WRITE_DONE (R346): Blocks written home and flushed leave the cache. -/
  | homeWriteDone (n : Nat)
  /-- SUPERBLOCK_WRITE (R346): The log superblock is rewritten with FUA. -/
  | superblockWrite (n : Nat)
  /-- REPLAY (R349): A drive namespace's log is replayed from its superblock and homed. -/
  | replay (n : LogRead)
  /-- DRIVE_COMPLETION (R343): A backing drive completes a command issued through a root port. -/
  | driveCompletion (id nv : Nat)
  /-- STOR_READ (R356): Storage-direct read descriptor. -/
  | storRead (sr tag : Nat)
  /-- STOR_WRITE (R356): Storage-direct write descriptor. -/
  | storWrite (sr tag : Nat)
  /-- STOR_FLUSH (R356): Storage-direct flush descriptor. -/
  | storFlush (sr tag : Nat)
  /-- STOR_WRITE_ZEROES (R356): Storage-direct write-zeroes descriptor. -/
  | storWriteZeroes (sr tag : Nat)
  /-- STOR_DEALLOCATE (R356): Storage-direct deallocate descriptor. -/
  | storDeallocate (sr tag : Nat)
  /-- NS_DEFINE (R344): Admin descriptor that defines a namespace and its backing. -/
  | nsDefine (sr tag size : Nat) (fmt vwc : Bool)
  /-- NS_DELETE (R345): Admin descriptor that homes cached blocks and removes a namespace. -/
  | nsDelete (sr tag : Nat)
  /-- NS_QUERY (R345): Descriptor that returns a namespace's type and state. -/
  | nsQuery (sr tag : Nat)
  /-- PEER_EXPORT (R358): Descriptor that binds a local namespace to a QP for export. -/
  | peerExport (sr tag : Nat)
  /-- PEER_UNEXPORT (R357): Descriptor that ends an export, refused while imported commands are outstanding. -/
  | peerUnexport (sr tag : Nat)
  /-- CAPSULE_COMMAND (R358): A command capsule arrives at the exporter and is applied under the write-cache rules. -/
  | capsuleCommand (qn : Nat) (cap data : List Byte)
  /-- CAPSULE_RESPONSE (R358): A response capsule arrives at the importer and completes its command. -/
  | capsuleResponse (qn : Nat) (cap : List Byte)
  /-- CKP_JOB_LOAD (R361): Checkpoint descriptor that loads a job record. -/
  | ckpJobLoad (sr tag : Nat)
  /-- CKP_JOB_UNLOAD (R379): Checkpoint descriptor that unloads a job. -/
  | ckpJobUnload (sr tag : Nat)
  /-- CKP_SNAPSHOT (R362): Checkpoint descriptor that snapshots a step to the buddy. -/
  | ckpSnapshot (sr tag : Nat) (isSealed : Bool)
  /-- GUARD_ARM (R362): At the first beat boundary after acceptance the copy guard arms on every shard page. -/
  | guardArm (n : Nat)
  /-- COPIER_PAGE (R363): The copier converts the next page into the snapshot area. -/
  | copierPage (n h : Nat)
  /-- PAGE_COPY_DONE (R365): The copier's read of a page finishes, its guard bit clears and waiting writes proceed. -/
  | pageCopyDone (n h : Nat)
  /-- SNAPSHOT_STREAM_DONE (R362): Every snapshot WRITE to the buddy has committed and the snapshot commits SUCCESS. -/
  | snapshotStreamDone (n : Nat)
  /-- BUDDY_VERIFY (R367): On trailer delivery the buddy's copier hashes the slot and writes verified entries to both holders. -/
  | buddyVerify (n slot : Nat)
  /-- CKP_SEAL (R370): Checkpoint descriptor that checks and seals a manifest slot. -/
  | ckpSeal (sr tag : Nat)
  /-- CKP_RESTORE (R373): Checkpoint descriptor that picks the highest consistent step and restores it. -/
  | ckpRestore (sr tag : Nat) (slots : List (List Byte))
  /-- CKP_WATCH (R376): Checkpoint descriptor that watches up to four indices for heartbeats. -/
  | ckpWatch (sr tag : Nat)
  /-- CKP_PERSIST (R378): Checkpoint descriptor that writes a sealed snapshot to a drive namespace. -/
  | ckpPersist (sr tag : Nat) (slot : List Byte)
  /-- CKP_QUERY (R379): Checkpoint descriptor that returns job state. -/
  | ckpQuery (sr tag : Nat)
  /-- HEARTBEAT_SEND (R376): Every period a loaded job writes its heartbeat to each watcher. -/
  | heartbeatSend (n : Nat)
  /-- WATCH_TICK (R376): At each period tick a watcher declares failed any index silent for miss_limit periods. -/
  | watchTick (n : Nat)
  /-- KCE_CIPHER (R390): Crypto descriptor for AES-GCM, CTR or XTS. -/
  | kceCipher (sr tag : Nat) (recordOk : Bool)
  /-- KCE_MAC (R390): Crypto descriptor that generates or verifies a MAC. -/
  | kceMac (sr tag : Nat) (recordOk : Bool)
  /-- KCE_HASH (R390): Crypto descriptor that computes a hash. -/
  | kceHash (sr tag : Nat)
  /-- KCE_SIGN (R390): Crypto descriptor that signs with Ed25519 or ML-DSA-65. -/
  | kceSign (sr tag : Nat) (recordOk : Bool)
  /-- KCE_VERIFY (R390): Crypto descriptor that verifies a signature. -/
  | kceVerify (sr tag : Nat) (recordOk : Bool)
  /-- KCE_KEY_IMPORT (R386): Crypto descriptor that unwraps a key blob into a slot. -/
  | kceKeyImport (sr tag : Nat) (recordOk : Bool)
  /-- KCE_KEY_GENERATE (R387): Crypto descriptor that generates a key in a slot. -/
  | kceKeyGenerate (sr tag : Nat)
  /-- KCE_KEM (R387): Crypto descriptor that encapsulates or decapsulates under ML-KEM-768. -/
  | kceKem (sr tag : Nat) (recordOk : Bool)
  /-- KCE_KEY_DESTROY (R384): Crypto descriptor that zeroes and frees a key slot. -/
  | kceKeyDestroy (sr tag : Nat)
  /-- KCE_KEY_QUERY (R390): Crypto descriptor that returns a slot's type, usage and public key. -/
  | kceKeyQuery (sr tag : Nat) (recordOk : Bool)
  /-- KCE_UNIT_RELEASE (R391): A checked 4 KiB output unit is released to its destination. -/
  | kceUnitRelease (sr tag : Nat) (ok : Bool)
  /-- KCE_SUSPEND (R394): A higher-priority message makes the lowest-priority pair suspend at a block boundary. -/
  | kceSuspend
  /-- KCE_RESUME (R394): A freed pair resumes a suspended message with fresh masks. -/
  | kceResume
  /-- ENTROPY_HEALTH_FAIL (R393): A noise-source health test fails and the KCE enters HALTED. -/
  | entropyHealthFail
  /-- CRC_DATA8 (R402): A one-byte write fed to a CRC unit's FIFO. -/
  | crcData8 (u n v : Nat)
  /-- CRC_DATA16 (R402): A two-byte write fed to a CRC unit's FIFO. -/
  | crcData16 (u n v : Nat)
  /-- CRC_DATA32 (R402): A four-byte write fed to a CRC unit's FIFO. -/
  | crcData32 (u n v : Nat)
  /-- CRC_FIFO_PROCESS (R401): The CRC unit folds the next FIFO entry into its register. -/
  | crcFifoProcess (u : Nat)
  /-- CRC_CONFIG_WRITE (R402): A write to CRC_CFG, CRC_POLY or CRC_INIT waits for an empty FIFO, then restarts the register. -/
  | crcConfigWrite (u off n v : Nat)
  /-- CRC_RESULT_READ (R402): A CRC_RESULT read returns after every earlier write is processed. -/
  | crcResultRead (u : Nat)
  /-- SLICE_CTL (R410): Admin command that creates, quiesces, resumes, resets or destroys a slice. -/
  | sliceCtl (sr tag : Nat)
  /-- SLICE_QUOTA (R409): Admin command that sets a slice quota or share. -/
  | sliceQuota (sr tag : Nat)
  /-- SLICE_PASID (R406): Admin command that binds or unbinds a PASID. -/
  | slicePasid (sr tag : Nat)
  /-- REGION_ALLOC (R407): Admin command that allocates and zero-fills a region. -/
  | regionAlloc (sr tag : Nat)
  /-- REGION_FREE (R223): Admin command that frees a region with no references. -/
  | regionFree (sr tag : Nat)
  /-- REGION_QUERY (R407): Admin command that copies a region entry to a destination. -/
  | regionQuery (sr tag : Nat)
  /-- SLICE_QUIESCED (R412): A QUIESCING slice meets every condition and becomes QUIESCED, writing a type 0x03 event. -/
  | sliceQuiesced (sl : Nat)
  /-- SCHED_WEIGHT_APPLY (R408): Within 10 us of the commit a changed sched_weight or fetch_rate takes effect. -/
  | schedWeightApply (sl : Nat)
  /-- BAR0_ACCESS_BAD (R421): A BAR0 access of the wrong size or alignment is refused and counted. -/
  | bar0AccessBad (fn a n : Nat) (rd : Bool)
  /-- BAR4_READ (R423): A host read through a BAR4 window is checked and served or denied. -/
  | bar4Read (w off n : Nat)
  /-- BAR4_WRITE (R423): A host write through a BAR4 window is checked and served or discarded. -/
  | bar4Write (w off : Nat) (data : List Byte)
  /-- WIN_SYNC (R424): Writing PCI_WIN_SYNC.seq requests notice when earlier BAR4 requests are done. -/
  | winSync (seq : Nat)
  /-- WIN_SYNC_DONE (R424): Every earlier BAR4 request has completed and done takes the sequence number. -/
  | winSyncDone
  /-- MSIX_UNMASK (R425): Unmasking a vector sends one message for its pending PBA bit. -/
  | msixUnmask (fn v : Nat)
  /-- HOST_READ_COMPLETION (R433): A completion for a host read arrives and delivers data or an error status. -/
  | hostReadCompletion (fn tag status : Nat) (data : List Byte)
  /-- COMPLETION_TIMEOUT (R432): A non-posted request's timer expires and its descriptor commits HOST_DMA_ERROR. -/
  | completionTimeout (tag : Nat)
  /-- POISONED_WRITE (R433): A poisoned posted write to a BAR is discarded and counted. -/
  | poisonedWrite (fn : Nat)
  /-- BME_CLEAR (R430): Clearing Bus Master Enable cuts host DMA and holds host-bound completions. -/
  | bmeClear (fn : Nat)
  /-- BME_SET (R430): Setting Bus Master Enable writes held entries, sends held messages and resumes fetch. -/
  | bmeSet (fn opts prg : Nat)
  /-- FLR (R431): Initiate FLR on a function cuts its host DMA and resets it within 100 ms. -/
  | flr (fn : Nat)
  /-- FLR_DONE (R493): 100 ms after FLR the function's state is reset and normal answers resume. -/
  | flrDone (fn : Nat)
  /-- D3HOT_ENTRY (R427): A function enters D3hot, cutting its host DMA and BAR access. -/
  | d3hotEntry (fn : Nat)
  /-- D0_ENTRY (R427): A function returns from D3hot to D0 with state intact. -/
  | d0Entry (fn : Nat)
  /-- PERST_ASSERT (R492): PERST# asserted resets the endpoint side, or enters meringue if both functions are in D3hot. -/
  | perstAssert
  /-- PERST_DEASSERT (R492): PERST# deasserted lets the link train. -/
  | perstDeassert (width speed : Nat) (flit : Bool)
  /-- HOT_RESET (R492): A hot reset received on the link resets the endpoint as PERST# does. -/
  | hotReset (width speed : Nat) (flit : Bool)
  /-- L1_ENTRY (R428): After l1_idle_us of idle in both directions the endpoint requests L1. -/
  | l1Entry (sub : Nat)
  /-- L1_EXIT (R428): New traffic brings the link out of L1 or its substate. -/
  | l1Exit
  /-- L0P_NARROW (R428): Traffic below 40 % for 1 ms halves the link width. -/
  | l0pNarrow
  /-- L0P_WIDEN (R428): Traffic above 80 % for 20 us widens the link. -/
  | l0pWiden
  /-- WATCHDOG_EXPIRY (R440): A control core that did not write wdog for 10 ms is reset by hardware. -/
  | watchdogExpiry (k : Nat)
  /-- CORE_CRASH (R441): A crashed core is held in reset, counted, and reloaded by another core, or taken OFFLINE on a third crash. -/
  | coreCrash (k cause : Nat)
  /-- CORE_RESTART_DONE (R441): The restarted core replays its journal, enters RUNNING and processes latched work. -/
  | coreRestartDone (k : Nat) (ue : Bool)
  /-- FW_QUERY (R447): Firmware admin command that writes per-core status records. -/
  | fwQuery (sr tag : Nat)
  /-- FW_CORE (R446): Firmware admin command that restarts a core or restores an OFFLINE one. -/
  | fwCore (sr tag : Nat)
  /-- SET_ENDPOINT_ID (R452): MCTP control command that assigns the binding's endpoint ID. -/
  | setEndpointId (b op eid : Nat) (ok : Bool)
  /-- GET_ENDPOINT_ID (R452): MCTP control command returning the endpoint ID. -/
  | getEndpointId (b : Nat) (ok : Bool)
  /-- GET_ENDPOINT_UUID (R452): MCTP control command returning the endpoint UUID. -/
  | getEndpointUuid (b : Nat) (ok : Bool)
  /-- GET_MCTP_VERSION_SUPPORT (R452): MCTP control command returning supported versions. -/
  | getMctpVersionSupport (b type : Nat) (ok : Bool)
  /-- GET_MESSAGE_TYPE_SUPPORT (R452): MCTP control command returning supported message types. -/
  | getMessageTypeSupport (b : Nat) (ok : Bool)
  /-- DYNAMIC_ADDRESS_ASSIGN (R451): SETDASA or ENTDAA assigns an I3C dynamic address and switches the lands to I3C. -/
  | dynamicAddressAssign (addr : Nat)
  /-- RSTDAA (R451): RSTDAA returns the side-band lands to SMBus. -/
  | rstdaa
  /-- MC_CLOCK_WAKE (R450): A side-band address match in meringue restarts the MC's 25 MHz clock. -/
  | mcClockWake
  /-- GET_TID (R453): PLDM base command returning the terminus ID. -/
  | getTid (b : Nat) (ok : Bool)
  /-- SET_TID (R453): PLDM base command setting the terminus ID. -/
  | setTid (b tid : Nat) (ok : Bool)
  /-- GET_PLDM_VERSION (R453): PLDM base command returning versions. -/
  | getPldmVersion (b type : Nat) (ok : Bool)
  /-- GET_PLDM_TYPES (R453): PLDM base command returning supported types. -/
  | getPldmTypes (b : Nat) (ok : Bool)
  /-- GET_PLDM_COMMANDS (R453): PLDM base command returning supported commands. -/
  | getPldmCommands (b type : Nat) (ok : Bool)
  /-- GET_PDR_REPOSITORY_INFO (R453): PLDM platform command returning repository info. -/
  | getPdrRepositoryInfo (b : Nat) (ok : Bool)
  /-- GET_PDR (R453): PLDM platform command returning a PDR. -/
  | getPdr (b record : Nat) (ok : Bool)
  /-- GET_SENSOR_READING (R453): PLDM platform command returning a numeric sensor reading. -/
  | getSensorReading (b sensor : Nat) (ok : Bool)
  /-- GET_STATE_SENSOR_READINGS (R453): PLDM platform command returning state sensor readings. -/
  | getStateSensorReadings (b : Nat) (ok : Bool)
  /-- SET_NUMERIC_EFFECTER_VALUE (R454): PLDM command setting the power cap effecter, applied within 10 ms. -/
  | setNumericEffecterValue (b eff v : Nat) (ok : Bool)
  /-- GET_NUMERIC_EFFECTER_VALUE (R454): PLDM command returning the power cap. -/
  | getNumericEffecterValue (b eff : Nat) (ok : Bool)
  /-- SET_STATE_EFFECTER_STATES (R454): PLDM command requesting a device power state: run, retention, meringue, reset or wake. -/
  | setStateEffecterStates (b eff v : Nat) (ok : Bool)
  /-- GET_STATE_EFFECTER_STATES (R454): PLDM command returning the device power state. -/
  | getStateEffecterStates (b eff : Nat) (ok : Bool)
  /-- SET_EVENT_RECEIVER (R455): PLDM command naming the receiver of platform events. -/
  | setEventReceiver (b tid eid : Nat) (on ok : Bool)
  /-- POLL_FOR_PLATFORM_EVENT_MESSAGE (R455): PLDM command that polls the next queued event. -/
  | pollForPlatformEventMessage (b : Nat) (ok : Bool)
  /-- PLATFORM_EVENT_MESSAGE (R455): The MC sends the next queued event to the receiver once the previous one is answered. -/
  | platformEventMessage
  /-- MC_REGISTER_READ (R458): Vendor command 0x01 reading 1-16 words of internal register space, MC latch copy for counters. -/
  | mcRegisterRead (b dpa n : Nat) (ok : Bool)
  /-- MC_CAPTURE (R458): Vendor command 0x02 capturing a block's counters into the MC latch copy. -/
  | mcCapture (b dpa : Nat) (ok : Bool)
  /-- MC_ARM_ACTIVATION (R476): Vendor command 0x03 arming or cancelling a firmware activation as CFG_ACT does. -/
  | mcArmActivation (b word : Nat) (ok : Bool)
  /-- MC_CONFIRM (R479): Vendor command 0x04 confirming the trial image. -/
  | mcConfirm (b : Nat) (ok : Bool)
  /-- GET_VERSION (R459): SPDM request returning versions. -/
  | getVersion (b eid : Nat) (ok : Bool) (req : List Byte)
  /-- GET_CAPABILITIES (R459): SPDM request returning capabilities. -/
  | getCapabilities (b eid : Nat) (ok : Bool) (req : List Byte)
  /-- NEGOTIATE_ALGORITHMS (R459): SPDM request negotiating SHA-384 and Ed25519. -/
  | negotiateAlgorithms (b eid : Nat) (ok : Bool) (req : List Byte)
  /-- GET_DIGESTS (R459): SPDM request returning certificate chain digests. -/
  | getDigests (b eid : Nat) (ok : Bool) (req : List Byte)
  /-- GET_CERTIFICATE (R459): SPDM request returning the slot 0 chain. -/
  | getCertificate (b eid : Nat) (ok : Bool) (req : List Byte)
  /-- CHALLENGE (R459): SPDM request answered with a signed challenge response. -/
  | challenge (b eid : Nat) (ok : Bool) (req : List Byte)
  /-- GET_MEASUREMENTS (R461): SPDM request returning signed measurements. -/
  | getMeasurements (b eid : Nat) (ok : Bool) (req : List Byte)
  /-- SPDM_PQ_SIGNATURE (R460): Vendor-defined SPDM command 0x01 returning the ML-DSA-65 signature of the last signed response. -/
  | spdmPqSignature (b eid : Nat) (ok : Bool)
  /-- SPDM_PQ_CHAIN (R460): Vendor-defined SPDM command 0x02 returning the ML-DSA-65 certificate chain. -/
  | spdmPqChain (b eid : Nat) (ok : Bool)
  /-- SENSOR_SAMPLE (R500): Every 1 ms each temperature sensor is sampled and compared with its thresholds. -/
  | sensorSample (temps : List Int)
  /-- RAIL_SAMPLE (R457): Every 100 us each rail's voltage, current, power and energy are sampled. -/
  | railSample (rails : List (List Nat))
  /-- FLOW_IDLE_TIMEOUT (R463): A flow without frames for idle_s ends and its record is exported. -/
  | flowIdleTimeout (p i : Nat)
  /-- FLOW_ACTIVE_TIMEOUT (R463): A flow that has lasted active_s is exported and restarted. -/
  | flowActiveTimeout (p i : Nat)
  /-- FLOW_EXPORT_ENABLE (R463): Setting MGT_FLOW.enable starts tracking and sends the templates. -/
  | flowExportEnable (p : Nat)
  /-- FLOW_EXPORT_DISABLE (R463): Clearing MGT_FLOW.enable ends every flow with reason 4. -/
  | flowExportDisable (p : Nat)
  /-- IPFIX_MESSAGE_FLUSH (R463): An IPFIX message is sent when full or 1 s after its first record. -/
  | ipfixMessageFlush (p : Nat) (v6 : Bool)
  /-- TEMPLATE_TIMER (R463): Every template_s the IPFIX templates are sent again. -/
  | templateTimer (p : Nat)
  /-- QUERY_DEVICE_IDENTIFIERS (R472): PLDM firmware update command returning device identifiers. -/
  | queryDeviceIdentifiers (b : Nat) (ok : Bool)
  /-- GET_FIRMWARE_PARAMETERS (R472): PLDM command reporting the active and pending banks. -/
  | getFirmwareParameters (b : Nat) (ok : Bool)
  /-- REQUEST_UPDATE (R472): PLDM command starting or resuming an update into the inactive bank. -/
  | requestUpdate (b maxXfer chunk : Nat) (ok : Bool)
  /-- PASS_COMPONENT_TABLE (R472): PLDM command passing the component table. -/
  | passComponentTable (b : Nat) (ok : Bool) (comps : List Nat)
  /-- UPDATE_COMPONENT (R473): PLDM command starting transfer of a component, header first. -/
  | updateComponent (b comp size : Nat) (ok : Bool)
  /-- REQUEST_FIRMWARE_DATA (R474): The MC requests the next header, chunk or missing 4 KiB unit. -/
  | requestFirmwareData
  /-- FIRMWARE_DATA_RECEIVE (R474): Received firmware data is checked or written, read back and marked in the bitmap. -/
  | firmwareDataReceive (b : Nat) (ok : Bool) (data : List Byte)
  /-- VERIFY_COMPLETE (R475): The body's SHA-384 is computed and compared, and the outcome reported. -/
  | verifyComplete
  /-- ACTIVATE_FIRMWARE (R476): PLDM command activating the applied image now or at the next reset. -/
  | activateFirmware (b : Nat) (selfContained ok : Bool)
  /-- GET_STATUS (R472): PLDM command returning the update status. -/
  | getStatus (b : Nat) (ok : Bool)
  /-- CANCEL_UPDATE_COMPONENT (R472): PLDM command cancelling a component transfer. -/
  | cancelUpdateComponent (b : Nat) (ok : Bool)
  /-- CANCEL_UPDATE (R474): PLDM command cancelling the update and persisting the bitmap. -/
  | cancelUpdate (b : Nat) (ok : Bool)
  /-- ACTIVATION_ARM (R476): Writing CFG_ACT.arm arms the applied image for now, a time or an epoch, or refuses. -/
  | activationArm (word : Nat)
  /-- ACTIVATION_CANCEL (R476): Writing CFG_ACT.cancel cancels an armed activation if early enough. -/
  | activationCancel (word : Nat)
  /-- FIRMWARE_ACTIVATION (R477): The armed activation fires: a firmware restart or a device reset into the new bank in trial state. -/
  | firmwareActivation (straps : Nat)
  /-- TRIAL_CONFIRM (R479): Writing CFG_CONFIRM.confirm clears trial and advances the anti-rollback counter. -/
  | trialConfirm
  /-- TRIAL_TIMEOUT (R479): After 24 h of unconfirmed running the MC reverts to the other bank. -/
  | trialTimeout (straps : Nat)
  /-- XTAL_AON_LOSS (R481): No XTAL_AON edge for 10 us switches the always-on domain to its internal oscillator and stops the main side. -/
  | xtalAonLoss
  /-- PLL_LOCK_LOSS (R482): A PLL loses lock and its clock stops at once. -/
  | pllLockLoss (n : Nat)
  /-- CROSSING_TIMEOUT (R486): A crossing whose sending clock stalls times out after 256 receiving cycles and ends the affected work. -/
  | crossingTimeout (die receiver a b : Nat)
  /-- POWER_ON (R490): 56 V rising through 44 V starts the power-on sequence up to running firmware. -/
  | powerOn (straps clks : Nat) (puf : Bool)
  /-- FIRMWARE_READY (R490): Firmware reaches RUNNING and sets fw_ready at the end of power-up. -/
  | firmwareReady (width speed : Nat) (flit : Bool)
  /-- DEVICE_RESET (R491): An MC-initiated device reset removes main rails and repeats the power-up from boot. -/
  | deviceReset (straps : Nat)
  /-- DIE_WARM_RESET (R495): Writing RST_DIE.go starts a warm reset of one hub or port die. -/
  | dieWarmReset (word : Nat)
  /-- DIE_WARM_RESET_DONE (R495): The die's PLLs relock, links train and waiting work proceeds; busy clears. -/
  | dieWarmResetDone (die : Nat)
  /-- SLICE_RESET_DONE (R494): A slice reset finishes removing objects and commits SUCCESS with a type 0x03 event. -/
  | sliceResetDone (sr tag : Nat)
  /-- BROWN_OUT (R496): Input outside 44-60 V for 20 us stops the main side and loses pool contents. -/
  | brownOut
  /-- BROWN_OUT_RECOVERY (R496): Input back in range for 10 ms starts a device reset with cause brown-out. -/
  | brownOutRecovery (straps : Nat)
  /-- INPUT_COLLAPSE (R496): Input below 36 V turns the always-on domain off. -/
  | inputCollapse
  /-- THROTTLE_STEP (R501): Every 1 ms while above a throttle point or a cap, the limiter lowers working hubs one DVFS step. -/
  | throttleStep
  /-- THROTTLE_RAISE (R501): Every 100 ms once cool and under the caps, the limiter raises each hub one step. -/
  | throttleRaise
  /-- TIME_PPS_EDGE (R480): A rising edge on the TIME_PPS input sets the time base phase when TLN_CTRL.ref = 1, and a reference returning moves the station toward LOCKED. -/
  | timePpsEdge (off : Int)
  /-- TIME_PPS_OUT_PULSE (R480): With TLN_CTRL.pps_out = 1, the device drives a 1 us pulse on TIME_PPS_OUT at each second of domain time. -/
  | timePpsOutPulse
  /-- PORT_DIE_CORE_GATE (R482): A port die core clock gates 50 us after the last octet of the die goes down. -/
  | portDieCoreGate (p : Nat)
  /-- CONFIGURATION_RETRY_END (R490): 100 ms after PERST# deassertion the endpoint stops answering configuration requests with Configuration Request Retry Status, once firmware is ready. -/
  | configurationRetryEnd
  /-- UNDEFINED_ENCODING (R140): A sequencer or control core meets an undefined opcode, escape or second byte and takes an ILLEGAL trap without effect. -/
  | undefinedEncoding (k : Nat)
  /-- UNSUPPORTED_SPDM_REQUEST (R459): An SPDM request outside the supported set is answered with ERROR UnsupportedRequest and counted in MGT_SPDM_ERR. -/
  | unsupportedSpdmRequest (b eid code : Nat) (ok : Bool)
  /-- INTERRUPT_COALESCING_TIME (R340): The PF1 Interrupt Coalescing aggregation time expires and the completion queue's MSI-X message is sent. -/
  | interruptCoalescingTime (q : Nat)
deriving DecidableEq, Repr

end Sys2Proof
end

