-- ==== Sys2Proof/Machine/Sha.lean ====
section
/-! DEFINITION. SHA-384 and HMAC-SHA-384, which the spec names as published algorithms (R146, R191, R388): the constants
and rounds are those of the published standard (PRESUMED, log entry 6). -/

namespace Sys2Proof.Machine

/-- The n 64-bit words that a number spells, the leftmost first. -/
def words64 (n x : Nat) : List Nat := (List.range n).map (fun i => fld x (64 * (n - 1 - i)) 64)

/-- The round constants, 16 words to a number: round t adds the first 64 bits behind the point of the cube root of the t-th prime. -/
def shaK : List Nat :=
  words64 16
    0x428a2f98d728ae227137449123ef65cdb5c0fbcfec4d3b2fe9b5dba58189dbbc3956c25bf348b53859f111f1b605d019923f82a4af194f9bab1c5ed5da6d8118d807aa98a303024212835b0145706fbe243185be4ee4b28c550c7dc3d5ffb4e272be5d74f27b896f80deb1fe3b1696b19bdc06a725c71235c19bf174cf692694 ++
  words64 16
    0xe49b69c19ef14ad2efbe4786384f25e30fc19dc68b8cd5b5240ca1cc77ac9c652de92c6f592b02754a7484aa6ea6e4835cb0a9dcbd41fbd476f988da831153b5983e5152ee66dfaba831c66d2db43210b00327c898fb213fbf597fc7beef0ee4c6e00bf33da88fc2d5a79147930aa72506ca6351e003826f142929670a0e6e70 ++
  words64 16
    0x27b70a8546d22ffc2e1b21385c26c9264d2c6dfc5ac42aed53380d139d95b3df650a73548baf63de766a0abb3c77b2a881c2c92e47edaee692722c851482353ba2bfe8a14cf10364a81a664bbc423001c24b8b70d0f89791c76c51a30654be30d192e819d6ef5218d69906245565a910f40e35855771202a106aa07032bbd1b8 ++
  words64 16
    0x19a4c116b8d2d0c81e376c085141ab532748774cdf8eeb9934b0bcb5e19b48a8391c0cb3c5c95a634ed8aa4ae3418acb5b9cca4f7763e373682e6ff3d6b2b8a3748f82ee5defb2fc78a5636f43172f6084c87814a1f0ab728cc702081a6439ec90befffa23631e28a4506cebde82bde9bef9a3f7b2c67915c67178f2e372532b ++
  words64 16
    0xca273eceea26619cd186b8c721c0c207eada7dd6cde0eb1ef57d4f7fee6ed17806f067aa72176fba0a637dc5a2c898a6113f9804bef90dae1b710b35131c471b28db77f523047d8432caab7b40c724933c9ebe0a15c9bebc431d67c49c100d4c4cc5d4becb3e42b6597f299cfc657e2a5fcb6fab3ad6faec6c44198c4a475817

/-- The initial hash words of SHA-384: the square roots of the ninth to the sixteenth prime, in the same way. -/
def shaH : List Nat := words64 8
  0xcbbb9d5dc1059ed8629a292a367cd5079159015a3070dd17152fecd8f70e593967332667ffc00b318eb44a8768581511db0c2e0d64f98fa747b5481dbefa4fa4

/-- Rotation right of a 64-bit word. -/
def ror64 (x n : Nat) : Nat := ((x >>> n) ||| (x <<< (64 - n))) % 2 ^ 64

/-- The message schedule, latest word first: n more words from the 16 latest. -/
def shaSchedule : Nat → List Nat → List Nat
  | 0, w => w
  | n + 1, w =>
    let w15 := nth w 14 0
    let w2 := nth w 1 0
    let s0 := ror64 w15 1 ^^^ ror64 w15 8 ^^^ (w15 >>> 7)
    let s1 := ror64 w2 19 ^^^ ror64 w2 61 ^^^ (w2 >>> 6)
    shaSchedule n ((nth w 15 0 + s0 + nth w 6 0 + s1) % 2 ^ 64 :: w)

/-- One round on the eight working words. -/
def shaRound (h : List Nat) (kw : Nat × Nat) : List Nat :=
  match h with
  | [a, b, c, d, e, f, g, i] =>
    let s1 := ror64 e 14 ^^^ ror64 e 18 ^^^ ror64 e 41
    let ch := (e &&& f) ^^^ ((2 ^ 64 - 1 - e) &&& g)
    let t1 := i + s1 + ch + kw.1 + kw.2
    let s0 := ror64 a 28 ^^^ ror64 a 34 ^^^ ror64 a 39
    let mj := (a &&& b) ^^^ (a &&& c) ^^^ (b &&& c)
    [(t1 + s0 + mj) % 2 ^ 64, a, b, c, (d + t1) % 2 ^ 64, e, f, g]
  | _ => h

/-- The hash words after one 128-byte block. -/
def shaBlock (h : List Nat) (bs : List Byte) : List Nat :=
  let w := (List.range 16).map (fun i => beNat (bsub bs (8 * i) 8))
  let ws := (shaSchedule 64 w.reverse).reverse
  let r := (shaK.zip ws).foldl shaRound h
  (h.zip r).map (fun p => (p.1 + p.2) % 2 ^ 64)

/-- The hash words after every block. -/
def shaBlocks : Nat → List Nat → List Byte → List Nat
  | 0, h, _ => h
  | n + 1, h, bs => shaBlocks n (shaBlock h (bs.take 128)) (bs.drop 128)

/-- The initial hash words of SHA-512: the square roots of the first eight primes. -/
def shaH512 : List Nat := words64 8
  0x6a09e667f3bcc908bb67ae8584caa73b3c6ef372fe94f82ba54ff53a5f1d36f1510e527fade682d19b05688c2b3e6c1f1f83d9abfb41bd6b5be0cd19137e2179

/-- The hash words of a byte string from initial words: padding and every block. -/
def shaWords (h : List Nat) (bs : List Byte) : List Nat :=
  let n := bs.length
  let z := (239 - n % 128) % 128
  let m := bs ++ [0x80#8] ++ zeroBytes z ++ beBytes 16 (8 * n)
  shaBlocks (m.length / 128) h m

/-- SHA-384 of a byte string: 48 bytes; and SHA-512: 64 bytes. -/
def sha384 (bs : List Byte) : List Byte := ((shaWords shaH bs).take 6).foldl (fun acc x => acc ++ beBytes 8 x) []
def sha512 (bs : List Byte) : List Byte := (shaWords shaH512 bs).foldl (fun acc x => acc ++ beBytes 8 x) []

/-- HMAC of a key and a message under a hash with 128-byte blocks. -/
def hmacOf (hash : List Byte → List Byte) (key msg : List Byte) : List Byte :=
  let k := fitBytes (if 128 < key.length then hash key else key) 128
  hash (k.map (fun b => b ^^^ 0x5C#8) ++ hash (k.map (fun b => b ^^^ 0x36#8) ++ msg))

/-- HMAC-SHA-384. -/
def hmac384 (key msg : List Byte) : List Byte := hmacOf sha384 key msg

end Sys2Proof.Machine
end

