-- ==== Sys2Proof/Config.lean ====
section
/-! DEFINITION. The free values: constants with no body, so that nothing proved of the machine rests on what they are.
Each stands where the spec leaves a value open, or names a published algorithm whose values it does not repeat.
A value that may differ from one use to the next takes the counter State.freeCtr, which each use advances. -/

namespace Sys2Proof

/-- A fresh value for a use the spec leaves open; the argument is State.freeCtr at the use (log entry 2). -/
opaque Config.freeValue : Nat → Nat

/-- A random bit string of the entropy source (R387, R390, R391); the argument is State.freeCtr (log entry 2). -/
opaque Config.randomBits : Nat → Nat

/-- A special function (R105, R107): function number, the formats and the rounding mode, and the input's bits give the result's bits,
which the machine writes where they lie within R105's bound. The spec fixes that bound and that the map never changes, and no more (log
entry 5). -/
opaque Config.sfnValue : Nat → Nat → Nat → Nat

/-- The hashes of R388 other than SHA-384, by algorithm number: the digest of a byte string (log entry 6). -/
opaque Config.hash : Nat → List Byte → List Byte

/-- A block-cipher operation of R388: algorithm, direction (true encrypts), key, nonce, data; gives the output bytes. -/
opaque Config.cipher : Nat → Bool → List Byte → List Byte → List Byte → List Byte

/-- The GCM or GMAC or CMAC tag of R388: algorithm, key, nonce, associated data, text. -/
opaque Config.macTag : Nat → List Byte → List Byte → List Byte → List Byte → List Byte

/-- A signature of R388: algorithm, private key, message, randomness. -/
opaque Config.sign : Nat → List Byte → List Byte → Nat → List Byte

/-- Verification of R388: algorithm, public key, message, signature. -/
opaque Config.verify : Nat → List Byte → List Byte → List Byte → Bool

/-- The public key that belongs to a private key, by algorithm (R387, R390). -/
opaque Config.publicKey : Nat → List Byte → List Byte

/-- ML-KEM-768 (R387): encapsulation to a public key with randomness gives (ciphertext, shared secret). -/
opaque Config.kemEncaps : List Byte → Nat → List Byte × List Byte

/-- ML-KEM-768 decapsulation of a ciphertext under a private key. -/
opaque Config.kemDecaps : List Byte → List Byte → List Byte

/-- AES key wrap with padding (R385, R386): the unwrapped bytes, or none where the check fails. -/
opaque Config.unwrap : List Byte → List Byte → Option (List Byte)

/-- The image's seed initial value (R148), for which R146 and R147 give no field: a function of the image's digest
(log entry 15). -/
opaque Config.imageSeed : Nat → Nat

/-- The bank of a neighbour's store that the requests of a store slot go to (R66, R75): Swekin chooses the targets, and the image's sections
do not say them. The arguments are the pipeline's digest and the frame entry (log entry 135). -/
opaque Config.storeSlotBank : Nat → Nat → Nat

/-- Where a cell's send entries of a local channel lie, in 64 B units of its store (R137): the spec gives no place. The
arguments are the pipeline's digest, the cell and the local channel index (log entry 16). -/
opaque Config.sendBase : Nat → Nat → Nat → Nat

/-- The 64-bit check of a collective step over plan_id, step and count (R210): the spec gives no function. -/
opaque Config.stepCheck : Nat → Nat → Nat → Nat

/-- The residual elements that phase `phase` of a device's plan quantizes (R201, R215): compiled into the plan, and given by no field of its
record. The arguments are plan_id, the device index and the phase (log entry 153). -/
opaque Config.residElems : Nat → Nat → Nat → Nat

/-- The cell of a plan's pipeline, by its place among the pipeline's cells, whose CS takes the flags of a step's arithmetic (R199, log entry
138): Swekin chooses the cells. -/
opaque Config.collCell : Nat → Nat

/-- The 4 check bytes of a pool line as a number (R225): the spec gives the code's field and size, not its polynomial (log entry 157). -/
opaque Config.lineCheck : List Byte → Nat

/-- Where a check line lies in the check cache of its hub store, in 64 B units (R226, R234), and where the entry of a walker cache does, in
8 B words: laid out by no rule (log entry 61). -/
opaque Config.checkSlot : Nat → Nat
opaque Config.walkSlot : Nat → Nat → Nat → Nat

/-- The domain ID of a packet or a beat message (R168), for which no layout gives a place: a function of its header's bytes (log entry 146). -/
opaque Config.domainOf : List Byte → Nat

/-- The delay of the way from a neighbour station to this one, in ns, which PTP's delay mechanisms measure (R170, R171): Denux link n as
n, the port of byte b as 16 + b. -/
opaque Config.pathDelay : Nat → Nat

/-- The quarter of a nanosecond in which an event timestamp falls (R170), from the time and a number of the event. -/
opaque Config.stampQuarter : Nat → Nat → Nat

/-- The seed of a rounding site of a collective expression, derived from the plan's seed by Swekin (R199, log entry 42). -/
opaque Config.siteSeed : Nat → Nat → Nat

/-- The inner flow hash of a frame that is pushed into a tunnel (R310): the spec gives no function (log entry 63). -/
opaque Config.flowHash : List Byte → Nat

/-- The trigger counter of a job's manifest (R367): the record of R360 gives no field for its number (log entry 45). -/
opaque Config.manifestCounter : Nat → Nat

/-- The MAC address of a sub-port (port byte of R181), which the spec does not give. -/
opaque Config.portMac : Nat → Nat

/-- What the flash holds at a byte address that nothing has written since manufacture (R465). -/
opaque Config.flashByte : Nat → Byte

/-- The boot ROM's table of R397: algorithm and entry (0 primary, 1 recovery) give the SHA-384 of an accepted key. -/
opaque Config.romKey : Nat → Nat → List Byte

/-- The silicon revision, as a bit number of header bytes 21 to 23 (R470). -/
opaque Config.siliconRev : Nat

/-- Whether the firmware of an image body knows a critical record type (R468). -/
opaque Config.knowsRecord : List Byte → Nat → Bool

/-- The first-stage image within a body, and its kernel and component images (R396), which the spec does not lay out. -/
opaque Config.firstStage : List Byte → List Byte
opaque Config.mainStage : List Byte → List Byte

/-- The unique device secret that the PUF yields (R395). -/
opaque Config.uds : List Byte

/-- A setting or a persistent record of one format, converted to the format of an image body (R478). -/
opaque Config.convert : List Byte → List Byte → List Byte

/-- A field of a management or update message whose contents the spec leaves to the device maker or to the named DMTF standard
(UUID, PDR contents, version words, device identifiers, certificates): by item number, its bytes. -/
opaque Config.mcItem : Nat → List Byte

/-- A certificate of the identity chains (R396, R459, R460): its layer (0 DeviceID, 1 Alias-1, 2 Alias-2), algorithm and subject key. -/
opaque Config.certificate : Nat → Nat → List Byte → List Byte

end Sys2Proof
end

