-- ==== Sys2Proof/Machine/RegMap.lean ====
section
/-! DEFINITION. The register map of spec/: the address of every register and counter, formed as R455 forms it
(a BAR0 offset of PF0, or 2^31 plus the offset in the internal register space), and for each register its fields
with their access codes (R5) and reset values, as the register tables of the chapters give them. -/

namespace Sys2Proof.Machine

/-! Addresses. A register of a per-unit block takes the unit number first, then its own index. -/

/-- CTL_ADMIN_SR_BASE (02_rings.md). -/
def R.CTL_ADMIN_SR_BASE : Nat := 0x100

/-- CTL_ADMIN_CR_BASE (02_rings.md). -/
def R.CTL_ADMIN_CR_BASE : Nat := 0x108

/-- CTL_ADMIN_EQ_BASE (02_rings.md). -/
def R.CTL_ADMIN_EQ_BASE : Nat := 0x118

/-- CTL_ADMIN_CTRL (02_rings.md). -/
def R.CTL_ADMIN_CTRL : Nat := 0x110

/-- CTL_ADMIN_STATUS (02_rings.md). -/
def R.CTL_ADMIN_STATUS : Nat := 0x114

/-- CTL_LEASE (02_rings.md). -/
def R.CTL_LEASE : Nat := 0x120

/-- CTL_LEASE_REMAIN (02_rings.md). -/
def R.CTL_LEASE_REMAIN : Nat := 0x124

/-- RNG_CTL (02_rings.md). -/
def R.RNG_CTL : Nat := 0x10000

/-- LAT_CELL_CTRL (03_cells.md). -/
def R.LAT_CELL_CTRL (u : Nat) : Nat := 0x90000000 + u * 0x1000

/-- LAT_CELL_STATE (03_cells.md). -/
def R.LAT_CELL_STATE (u : Nat) : Nat := 0x90000004 + u * 0x1000

/-- LAT_CELL_PC (03_cells.md). -/
def R.LAT_CELL_PC (u : Nat) : Nat := 0x90000008 + u * 0x1000

/-- LAT_CELL_MCA (03_cells.md). -/
def R.LAT_CELL_MCA (u : Nat) : Nat := 0x90000010 + u * 0x1000

/-- LAT_CELL_MCA_PC (03_cells.md). -/
def R.LAT_CELL_MCA_PC (u : Nat) : Nat := 0x90000014 + u * 0x1000

/-- LAT_CELL_MCA_ADDR (03_cells.md). -/
def R.LAT_CELL_MCA_ADDR (u : Nat) : Nat := 0x90000018 + u * 0x1000

/-- LAT_CELL_NBR (03_cells.md). -/
def R.LAT_CELL_NBR (u : Nat) : Nat := 0x90000020 + u * 0x1000

/-- LAT_CELL_GRANT (03_cells.md). -/
def R.LAT_CELL_GRANT (u i : Nat) : Nat := 0x90000100 + u * 0x1000 + i * 0x20

/-- LAT_CELL_STRM (03_cells.md). -/
def R.LAT_CELL_STRM (u i : Nat) : Nat := 0x90000300 + u * 0x1000 + i * 0x40

/-- LAT_CELL_SNAP (03_cells.md). -/
def R.LAT_CELL_SNAP (u : Nat) : Nat := 0x90000400 + u * 0x1000

/-- LAT_HUB_CTRL (03_cells.md). -/
def R.LAT_HUB_CTRL (u : Nat) : Nat := 0xa0000000 + u * 0x100000

/-- LAT_HUB_COMMIT (03_cells.md). -/
def R.LAT_HUB_COMMIT (u : Nat) : Nat := 0xa0000010 + u * 0x100000

/-- SPN_CTRL (03_cells.md). -/
def R.SPN_CTRL (u : Nat) : Nat := 0xb0000000 + u * 0x10000

/-- SPN_RESERVED (03_cells.md). -/
def R.SPN_RESERVED (u i : Nat) : Nat := 0xb0000010 + u * 0x10000 + i * 0x4

/-- TLN_CTRL (07_timeline.md). -/
def R.TLN_CTRL : Nat := 0x40000

/-- TLN_DOMAIN (07_timeline.md). -/
def R.TLN_DOMAIN : Nat := 0x40004

/-- TLN_CLASS (07_timeline.md). -/
def R.TLN_CLASS : Nat := 0x40008

/-- TLN_HOLDOVER (07_timeline.md). -/
def R.TLN_HOLDOVER : Nat := 0x4000c

/-- TLN_STATUS (07_timeline.md). -/
def R.TLN_STATUS : Nat := 0x40010

/-- TLN_SCHED_ID (07_timeline.md). -/
def R.TLN_SCHED_ID : Nat := 0x40014

/-- TLN_TIME (07_timeline.md). -/
def R.TLN_TIME : Nat := 0x40018

/-- TLN_OFFSET (07_timeline.md). -/
def R.TLN_OFFSET : Nat := 0x40020

/-- TLN_STAGE_BASE (07_timeline.md). -/
def R.TLN_STAGE_BASE : Nat := 0x40028

/-- TLN_STAGE_CTRL (07_timeline.md). -/
def R.TLN_STAGE_CTRL : Nat := 0x40030

/-- TLN_STAGE_EPOCH (07_timeline.md). -/
def R.TLN_STAGE_EPOCH : Nat := 0x40038

/-- TLN_STAGE_STATUS (07_timeline.md). -/
def R.TLN_STAGE_STATUS : Nat := 0x40040

/-- TLN_LATE_FIRST (07_timeline.md). -/
def R.TLN_LATE_FIRST : Nat := 0x40128

/-- MEM_CTRL (09_memory.md). -/
def R.MEM_CTRL (u : Nat) : Nat := 0xc0000000 + u * 0x10000

/-- MEM_STATUS (09_memory.md). -/
def R.MEM_STATUS (u : Nat) : Nat := 0xc0000004 + u * 0x10000

/-- MEM_GRANULES (09_memory.md). -/
def R.MEM_GRANULES (u : Nat) : Nat := 0xc0000008 + u * 0x10000

/-- MEM_CE_THRESH (09_memory.md). -/
def R.MEM_CE_THRESH (u : Nat) : Nat := 0xc000000c + u * 0x10000

/-- MEM_SCRUB_POS (09_memory.md). -/
def R.MEM_SCRUB_POS (u : Nat) : Nat := 0xc0000010 + u * 0x10000

/-- MEM_UE_LOG (09_memory.md). -/
def R.MEM_UE_LOG (u : Nat) : Nat := 0xc0000018 + u * 0x10000

/-- MEM_CE_LOG (09_memory.md). -/
def R.MEM_CE_LOG (u : Nat) : Nat := 0xc0000020 + u * 0x10000

/-- XLT_CTRL (10_translation.md). -/
def R.XLT_CTRL : Nat := 0x50000

/-- XLT_EQ (10_translation.md). -/
def R.XLT_EQ : Nat := 0x50004

/-- XLT_TABLE_REGION (10_translation.md). -/
def R.XLT_TABLE_REGION : Nat := 0x50008

/-- XLT_ASID_OFFSET (10_translation.md). -/
def R.XLT_ASID_OFFSET : Nat := 0x50010

/-- XLT_FAULT_BASE (10_translation.md). -/
def R.XLT_FAULT_BASE : Nat := 0x50018

/-- XLT_FAULT_HEAD (10_translation.md). -/
def R.XLT_FAULT_HEAD : Nat := 0x50020

/-- XLT_FAULT_TAIL (10_translation.md). -/
def R.XLT_FAULT_TAIL : Nat := 0x50024

/-- XLT_FAULT_RESP (10_translation.md). -/
def R.XLT_FAULT_RESP : Nat := 0x50028

/-- XLT_INVAL (10_translation.md). -/
def R.XLT_INVAL : Nat := 0x50030

/-- XLT_INVAL_DONE (10_translation.md). -/
def R.XLT_INVAL_DONE : Nat := 0x50038

/-- XLT_INVAL_CPL (10_translation.md). -/
def R.XLT_INVAL_CPL : Nat := 0x50040

/-- XLT_STATUS (10_translation.md). -/
def R.XLT_STATUS : Nat := 0x50048

/-- TMT_CTRL (11_transport.md). -/
def R.TMT_CTRL : Nat := 0x60000

/-- TMT_REORDER_FREE (11_transport.md). -/
def R.TMT_REORDER_FREE (i : Nat) : Nat := 0x60010 + i * 0x4

/-- TMT_CC (11_transport.md). -/
def R.TMT_CC (i : Nat) : Nat := 0x61000 + i * 0x10

/-- PKT_CTRL (12_packets.md). -/
def R.PKT_CTRL (u : Nat) : Nat := 0xd0000000 + u * 0x100000

/-- PKT_EXC (12_packets.md). -/
def R.PKT_EXC (u : Nat) : Nat := 0xd0000008 + u * 0x100000

/-- PKT_PORT (12_packets.md). -/
def R.PKT_PORT (u i : Nat) : Nat := 0xd0000100 + u * 0x100000 + i * 0x8

/-- TSH_CTRL (12_packets.md). -/
def R.TSH_CTRL (u : Nat) : Nat := 0xe0000000 + u * 0x400000

/-- TSH_PFC (12_packets.md). -/
def R.TSH_PFC (u i : Nat) : Nat := 0xe0000100 + u * 0x400000 + i * 0x4

/-- TSH_PFC_TH (12_packets.md). -/
def R.TSH_PFC_TH (u i : Nat) : Nat := 0xe0001000 + u * 0x400000 + i * 0x8

/-- TSH_DSCP_COLOUR (12_packets.md). -/
def R.TSH_DSCP_COLOUR (u : Nat) : Nat := 0xe0000200 + u * 0x400000

/-- PRT_CTRL (13_ports.md). -/
def R.PRT_CTRL : Nat := 0x70000

/-- PRT_OCTET (13_ports.md). -/
def R.PRT_OCTET (i : Nat) : Nat := 0x70100 + i * 0x10

/-- PRT_OCTET_STATUS (13_ports.md). -/
def R.PRT_OCTET_STATUS (i : Nat) : Nat := 0x70400 + i * 0x4

/-- DNX_CTRL (13_ports.md). -/
def R.DNX_CTRL : Nat := 0x80000

/-- DNX_LINK (13_ports.md). -/
def R.DNX_LINK (i : Nat) : Nat := 0x80100 + i * 0x10

/-- DNX_STATUS (13_ports.md). -/
def R.DNX_STATUS (i : Nat) : Nat := 0x80300 + i * 0x4

/-- NVM_CTRL (14_storage.md). -/
def R.NVM_CTRL : Nat := 0x90000

/-- NVM_CACHE (14_storage.md). -/
def R.NVM_CACHE : Nat := 0x90004

/-- NVM_STATUS (14_storage.md). -/
def R.NVM_STATUS : Nat := 0x90008

/-- NVM_CACHE_USE (14_storage.md). -/
def R.NVM_CACHE_USE : Nat := 0x90010

/-- CKP_CTRL (15_checkpoint.md). -/
def R.CKP_CTRL : Nat := 0xa0000

/-- CKP_HB (15_checkpoint.md). -/
def R.CKP_HB : Nat := 0xa0004

/-- CKP_STATUS (15_checkpoint.md). -/
def R.CKP_STATUS : Nat := 0xa0008

/-- KCE_CTRL (16_security.md). -/
def R.KCE_CTRL : Nat := 0xb0000

/-- KCE_STATUS (16_security.md). -/
def R.KCE_STATUS : Nat := 0xb0004

/-- KCE_LC_CTRL (16_security.md). -/
def R.KCE_LC_CTRL : Nat := 0xb0008

/-- KCE_MEAS (16_security.md). -/
def R.KCE_MEAS (i : Nat) : Nat := 0xb0140 + i * 0x40

/-- CRC_CFG (16_security.md). -/
def R.CRC_CFG (u : Nat) : Nat := 0xc0000 + u * 0x100

/-- CRC_POLY (16_security.md). -/
def R.CRC_POLY (u : Nat) : Nat := 0xc0008 + u * 0x100

/-- CRC_INIT (16_security.md). -/
def R.CRC_INIT (u : Nat) : Nat := 0xc0010 + u * 0x100

/-- CRC_RESULT (16_security.md). -/
def R.CRC_RESULT (u : Nat) : Nat := 0xc0030 + u * 0x100

/-- SLC_CTRL (17_slices.md). -/
def R.SLC_CTRL : Nat := 0xd0000

/-- SLC_STATUS (17_slices.md). -/
def R.SLC_STATUS (i : Nat) : Nat := 0xd0100 + i * 0x4

/-- SLC_QUOTA (17_slices.md). -/
def R.SLC_QUOTA (i : Nat) : Nat := 0xd1000 + i * 0x40

/-- SLC_USE (17_slices.md). -/
def R.SLC_USE (i : Nat) : Nat := 0xd2000 + i * 0x40

/-- PCI_CTRL (18_pcie.md). -/
def R.PCI_CTRL : Nat := 0xf0000

/-- PCI_PM (18_pcie.md). -/
def R.PCI_PM : Nat := 0xf0004

/-- PCI_STATUS (18_pcie.md). -/
def R.PCI_STATUS : Nat := 0xf0008

/-- PCI_WIN_SYNC (18_pcie.md). -/
def R.PCI_WIN_SYNC : Nat := 0xf0010

/-- FWC_CTRL (19_firmware.md). -/
def R.FWC_CTRL : Nat := 0xe0000

/-- FWC_STATUS (19_firmware.md). -/
def R.FWC_STATUS : Nat := 0xe0004

/-- FWC_VERSION (19_firmware.md). -/
def R.FWC_VERSION : Nat := 0xe0008

/-- FWC_DRV_VERSION (19_firmware.md). -/
def R.FWC_DRV_VERSION : Nat := 0xe000c

/-- FWC_DRV_FEAT (19_firmware.md). -/
def R.FWC_DRV_FEAT : Nat := 0xe0010

/-- FWC_FW_FEAT (19_firmware.md). -/
def R.FWC_FW_FEAT : Nat := 0xe0018

/-- FWC_AGREED (19_firmware.md). -/
def R.FWC_AGREED : Nat := 0xe0020

/-- FWC_CORE_STATUS (19_firmware.md). -/
def R.FWC_CORE_STATUS (i : Nat) : Nat := 0xe0100 + i * 0x4

/-- MGT_CTRL (20_management.md). -/
def R.MGT_CTRL : Nat := 0x30000

/-- MGT_STATUS (20_management.md). -/
def R.MGT_STATUS : Nat := 0x30004

/-- MGT_EID (20_management.md). -/
def R.MGT_EID : Nat := 0x30008

/-- MGT_TEMP (20_management.md). -/
def R.MGT_TEMP (i : Nat) : Nat := 0x31000 + i * 0x4

/-- MGT_RAIL (20_management.md). -/
def R.MGT_RAIL (i : Nat) : Nat := 0x32000 + i * 0x20

/-- MGT_FLOW (20_management.md). -/
def R.MGT_FLOW (i : Nat) : Nat := 0x33000 + i * 0x40

/-- CFG_STATUS (21_update.md). -/
def R.CFG_STATUS : Nat := 0x20000

/-- CFG_STRAPS (21_update.md). -/
def R.CFG_STRAPS : Nat := 0x20004

/-- CFG_SVN (21_update.md). -/
def R.CFG_SVN : Nat := 0x20008

/-- CFG_UPDATE (21_update.md). -/
def R.CFG_UPDATE : Nat := 0x20010

/-- CFG_ACT (21_update.md). -/
def R.CFG_ACT : Nat := 0x20018

/-- CFG_ACT_STATUS (21_update.md). -/
def R.CFG_ACT_STATUS : Nat := 0x20028

/-- CFG_CONFIRM (21_update.md). -/
def R.CFG_CONFIRM : Nat := 0x20030

/-- CLK_CTRL (22_clocks.md). -/
def R.CLK_CTRL : Nat := 0x130000

/-- CLK_STATUS (22_clocks.md). -/
def R.CLK_STATUS : Nat := 0x130004

/-- CLK_PLL_LOCK (22_clocks.md). -/
def R.CLK_PLL_LOCK : Nat := 0x130008

/-- CLK_XING_OVR (22_clocks.md). -/
def R.CLK_XING_OVR : Nat := 0x130010

/-- CLK_XING_STALL (22_clocks.md). -/
def R.CLK_XING_STALL : Nat := 0x130014

/-- RST_CAUSE (22_clocks.md). -/
def R.RST_CAUSE : Nat := 0x130100

/-- RST_DIE (22_clocks.md). -/
def R.RST_DIE : Nat := 0x130108

/-- PWR_STATUS (22_clocks.md). -/
def R.PWR_STATUS : Nat := 0x130200

/-- PWR_THERM (23_physical.md). -/
def R.PWR_THERM : Nat := 0x130204

/-- LAT_HUB_FRAME_ENTRY (03_cells.md). -/
def R.LAT_HUB_FRAME_ENTRY (u i : Nat) : Nat := 0xa0010000 + u * 0x100000 + i * 0x2

/-- SPN_TABLE_ENTRY (03_cells.md). -/
def R.SPN_TABLE_ENTRY (u i : Nat) : Nat := 0xb0001000 + u * 0x10000 + i * 0x2

/-- PKT_LOCAL (12_packets.md). -/
def R.PKT_LOCAL (u i : Nat) : Nat := 0xd0001000 + u * 0x100000 + i * 0x10

/-- PKT_TABLE (12_packets.md). -/
def R.PKT_TABLE (u i : Nat) : Nat := 0xd0009000 + u * 0x100000 + i * 0x40

/-- PKT_NODE (12_packets.md). -/
def R.PKT_NODE (u i : Nat) : Nat := 0xd0010000 + u * 0x100000 + i * 0x80

/-- PKT_DQ (12_packets.md). -/
def R.PKT_DQ (u i : Nat) : Nat := 0xd0014000 + u * 0x100000 + i * 0x20

/-- PKT_TEMPLATE (12_packets.md). -/
def R.PKT_TEMPLATE (u i : Nat) : Nat := 0xd0020000 + u * 0x100000 + i * 0x80

/-- PKT_MIRROR (12_packets.md). -/
def R.PKT_MIRROR (u i : Nat) : Nat := 0xd00a0000 + u * 0x100000 + i * 0x8

/-- TSH_SHAPER_PORT (12_packets.md). -/
def R.TSH_SHAPER_PORT (u i : Nat) : Nat := 0xe0010000 + u * 0x400000 + i * 0x10

/-- TSH_SHAPER_SLICE (12_packets.md). -/
def R.TSH_SHAPER_SLICE (u i : Nat) : Nat := 0xe0020000 + u * 0x400000 + i * 0x10

/-- TSH_CLASS (12_packets.md). -/
def R.TSH_CLASS (u i : Nat) : Nat := 0xe0100000 + u * 0x400000 + i * 0x20

/-- TSH_QUEUE (12_packets.md). -/
def R.TSH_QUEUE (u i : Nat) : Nat := 0xe0200000 + u * 0x400000 + i * 0x20

/-- TSH_METER (12_packets.md). -/
def R.TSH_METER (u i : Nat) : Nat := 0xe0240000 + u * 0x400000 + i * 0x20

/-- TSH_METER_WRAP (12_packets.md). -/
def R.TSH_METER_WRAP (u i : Nat) : Nat := 0xe0380000 + u * 0x400000 + i * 0x8

/-- DNX_OUT_WINDOW (13_ports.md). -/
def R.DNX_OUT_WINDOW (i : Nat) : Nat := 0x81000 + i * 0x20

/-- DNX_IN_WINDOW (13_ports.md). -/
def R.DNX_IN_WINDOW (i : Nat) : Nat := 0x84000 + i * 0x20

/-- PCI_WINDOW (18_pcie.md). -/
def R.PCI_WINDOW (i : Nat) : Nat := 0x100000 + i * 0x20

/-- PCI_MSIX (18_pcie.md). -/
def R.PCI_MSIX (i : Nat) : Nat := 0x200000 + i * 0x10

/-- PCI_PBA (18_pcie.md). -/
def R.PCI_PBA (i : Nat) : Nat := 0x208000 + i * 0x8

/-- NVM_MSIX1 (18_pcie.md). -/
def R.NVM_MSIX1 (i : Nat) : Nat := 0x100c00000 + i * 0x10

/-- NVM_PBA1 (18_pcie.md). -/
def R.NVM_PBA1 (i : Nat) : Nat := 0x100c08000 + i * 0x8

/-- RNG_WRAP (00_scope.md). -/
def R.RNG_WRAP : Nat := 0x100f8

/-- LAT_CELL_WRAP (00_scope.md). -/
def R.LAT_CELL_WRAP (u : Nat) : Nat := 0x900004f8 + u * 0x1000

/-- LAT_HUB_WRAP (00_scope.md). -/
def R.LAT_HUB_WRAP (u : Nat) : Nat := 0xa00000f8 + u * 0x100000

/-- SPN_WRAP (00_scope.md). -/
def R.SPN_WRAP (u : Nat) : Nat := 0xb00000f8 + u * 0x10000

/-- TLN_WRAP (00_scope.md). -/
def R.TLN_WRAP : Nat := 0x400f8

/-- MEM_WRAP (00_scope.md). -/
def R.MEM_WRAP (u : Nat) : Nat := 0xc00000f8 + u * 0x10000

/-- XLT_WRAP (00_scope.md). -/
def R.XLT_WRAP : Nat := 0x500f8

/-- TMT_WRAP (00_scope.md). -/
def R.TMT_WRAP : Nat := 0x600f8

/-- PKT_WRAP (00_scope.md). -/
def R.PKT_WRAP (u : Nat) : Nat := 0xd00000f8 + u * 0x100000

/-- TSH_WRAP (00_scope.md). -/
def R.TSH_WRAP (u : Nat) : Nat := 0xe00000f8 + u * 0x400000

/-- PRT_WRAP (00_scope.md). -/
def R.PRT_WRAP : Nat := 0x700f8

/-- DNX_WRAP (00_scope.md). -/
def R.DNX_WRAP : Nat := 0x800f8

/-- NVM_WRAP (00_scope.md). -/
def R.NVM_WRAP : Nat := 0x900f8

/-- CKP_WRAP (00_scope.md). -/
def R.CKP_WRAP : Nat := 0xa00f8

/-- KCE_WRAP (00_scope.md). -/
def R.KCE_WRAP : Nat := 0xb00f8

/-- SLC_WRAP (00_scope.md). -/
def R.SLC_WRAP : Nat := 0xd00f8

/-- PCI_WRAP (00_scope.md). -/
def R.PCI_WRAP : Nat := 0xf00f8

/-- FWC_WRAP (00_scope.md). -/
def R.FWC_WRAP : Nat := 0xe00f8

/-- MGT_WRAP (00_scope.md). -/
def R.MGT_WRAP : Nat := 0x300f8

/-- CLK_WRAP (00_scope.md). -/
def R.CLK_WRAP : Nat := 0x1300f8

/-- RNG_FETCHED (counter of block RNG). -/
def R.RNG_FETCHED : Nat := 0x10008

/-- RNG_COMPLETED (counter of block RNG). -/
def R.RNG_COMPLETED : Nat := 0x10010

/-- RNG_CR_FULL (counter of block RNG). -/
def R.RNG_CR_FULL : Nat := 0x10018

/-- RNG_DB_STALE (counter of block RNG). -/
def R.RNG_DB_STALE : Nat := 0x10020

/-- RNG_DB_RANGE (counter of block RNG). -/
def R.RNG_DB_RANGE : Nat := 0x10024

/-- RNG_DB_STOPPED (counter of block RNG). -/
def R.RNG_DB_STOPPED : Nat := 0x10028

/-- LAT_CELL_CYCLES (counter of block LAT_CELL). -/
def R.LAT_CELL_CYCLES (u : Nat) : Nat := 0x90000408 + u * 0x1000

/-- LAT_CELL_STALL_STRM (counter of block LAT_CELL). -/
def R.LAT_CELL_STALL_STRM (u : Nat) : Nat := 0x90000410 + u * 0x1000

/-- LAT_CELL_STALL_CREDIT (counter of block LAT_CELL). -/
def R.LAT_CELL_STALL_CREDIT (u : Nat) : Nat := 0x90000418 + u * 0x1000

/-- LAT_CELL_SLOT_EMPTY (counter of block LAT_CELL). -/
def R.LAT_CELL_SLOT_EMPTY (u : Nat) : Nat := 0x90000420 + u * 0x1000

/-- LAT_CELL_STORE_CE (counter of block LAT_CELL). -/
def R.LAT_CELL_STORE_CE (u : Nat) : Nat := 0x90000428 + u * 0x1000

/-- LAT_CELL_LINK_CE (counter of block LAT_CELL). -/
def R.LAT_CELL_LINK_CE (u : Nat) : Nat := 0x9000042c + u * 0x1000

/-- LAT_CELL_STORE_UE (counter of block LAT_CELL). -/
def R.LAT_CELL_STORE_UE (u : Nat) : Nat := 0x90000430 + u * 0x1000

/-- SPN_RES_EMPTY (counter of block SPN). -/
def R.SPN_RES_EMPTY (u i : Nat) : Nat := 0xb0000100 + u * 0x10000 + i * 0x10

/-- SPN_ARB_CRUMBS (counter of block SPN). -/
def R.SPN_ARB_CRUMBS (u i : Nat) : Nat := 0xb0000108 + u * 0x10000 + i * 0x10

/-- TLN_LATE_TX (counter of block TLN). -/
def R.TLN_LATE_TX : Nat := 0x40100

/-- TLN_LATE_RX (counter of block TLN). -/
def R.TLN_LATE_RX : Nat := 0x40108

/-- TLN_LATE_WINDOWS (counter of block TLN). -/
def R.TLN_LATE_WINDOWS : Nat := 0x40110

/-- TLN_GATE_HOLD (counter of block TLN). -/
def R.TLN_GATE_HOLD : Nat := 0x40118

/-- TLN_STALE_MAP (counter of block TLN). -/
def R.TLN_STALE_MAP : Nat := 0x40120

/-- TLN_ALIGN_LOSS (counter of block TLN). -/
def R.TLN_ALIGN_LOSS : Nat := 0x40124

/-- MEM_RMW (counter of block MEM). -/
def R.MEM_RMW (u : Nat) : Nat := 0xc0000100 + u * 0x10000

/-- MEM_CHECK_MISS (counter of block MEM). -/
def R.MEM_CHECK_MISS (u : Nat) : Nat := 0xc0000108 + u * 0x10000

/-- MEM_SCRUB_PASSES (counter of block MEM). -/
def R.MEM_SCRUB_PASSES (u : Nat) : Nat := 0xc0000110 + u * 0x10000

/-- MEM_CE (counter of block MEM). -/
def R.MEM_CE (u : Nat) : Nat := 0xc0000118 + u * 0x10000

/-- MEM_UE (counter of block MEM). -/
def R.MEM_UE (u : Nat) : Nat := 0xc000011c + u * 0x10000

/-- MEM_CHECK_REBUILD (counter of block MEM). -/
def R.MEM_CHECK_REBUILD (u : Nat) : Nat := 0xc0000120 + u * 0x10000

/-- MEM_STORE_CE (counter of block MEM). -/
def R.MEM_STORE_CE (u : Nat) : Nat := 0xc0000124 + u * 0x10000

/-- MEM_STORE_UE (counter of block MEM). -/
def R.MEM_STORE_UE (u : Nat) : Nat := 0xc0000128 + u * 0x10000

/-- MEM_CH_CE (counter of block MEM). -/
def R.MEM_CH_CE (u i : Nat) : Nat := 0xc0000200 + u * 0x10000 + i * 0x4

/-- XLT_WALKS (counter of block XLT). -/
def R.XLT_WALKS : Nat := 0x50100

/-- XLT_WALK_HITS (counter of block XLT). -/
def R.XLT_WALK_HITS : Nat := 0x50108

/-- XLT_FAULTS (counter of block XLT). -/
def R.XLT_FAULTS : Nat := 0x50110

/-- XLT_FAULT_JOINED (counter of block XLT). -/
def R.XLT_FAULT_JOINED : Nat := 0x50118

/-- XLT_INVALS (counter of block XLT). -/
def R.XLT_INVALS : Nat := 0x50120

/-- XLT_TIMEOUTS (counter of block XLT). -/
def R.XLT_TIMEOUTS : Nat := 0x50128

/-- XLT_STALE_RESP (counter of block XLT). -/
def R.XLT_STALE_RESP : Nat := 0x5012c

/-- XLT_INVAL_DROP (counter of block XLT). -/
def R.XLT_INVAL_DROP : Nat := 0x50130

/-- TMT_TX_PKTS (counter of block TMT). -/
def R.TMT_TX_PKTS : Nat := 0x60100

/-- TMT_RX_PKTS (counter of block TMT). -/
def R.TMT_RX_PKTS : Nat := 0x60108

/-- TMT_RETX (counter of block TMT). -/
def R.TMT_RETX : Nat := 0x60110

/-- TMT_RX_DUP (counter of block TMT). -/
def R.TMT_RX_DUP : Nat := 0x60118

/-- TMT_ECN_CE (counter of block TMT). -/
def R.TMT_ECN_CE : Nat := 0x60120

/-- TMT_RX_BAD (counter of block TMT). -/
def R.TMT_RX_BAD : Nat := 0x60128

/-- TMT_RX_AGED (counter of block TMT). -/
def R.TMT_RX_AGED : Nat := 0x6012c

/-- TMT_RX_OUT_WINDOW (counter of block TMT). -/
def R.TMT_RX_OUT_WINDOW : Nat := 0x60130

/-- TMT_RX_ACCESS (counter of block TMT). -/
def R.TMT_RX_ACCESS : Nat := 0x60134

/-- TMT_RX_NO_REORDER (counter of block TMT). -/
def R.TMT_RX_NO_REORDER : Nat := 0x60138

/-- TMT_AUTH_FAIL (counter of block TMT). -/
def R.TMT_AUTH_FAIL : Nat := 0x6013c

/-- TMT_CTR_REFUSED (counter of block TMT). -/
def R.TMT_CTR_REFUSED : Nat := 0x60140

/-- TMT_RNR (counter of block TMT). -/
def R.TMT_RNR : Nat := 0x60144

/-- PKT_RX_FRAMES (counter of block PKT). -/
def R.PKT_RX_FRAMES (u : Nat) : Nat := 0xd0000010 + u * 0x100000

/-- PKT_TMT_FRAMES (counter of block PKT). -/
def R.PKT_TMT_FRAMES (u : Nat) : Nat := 0xd0000018 + u * 0x100000

/-- PKT_MISSES (counter of block PKT). -/
def R.PKT_MISSES (u : Nat) : Nat := 0xd0000020 + u * 0x100000

/-- PKT_EXC_SENT (counter of block PKT). -/
def R.PKT_EXC_SENT (u : Nat) : Nat := 0xd0000028 + u * 0x100000

/-- PKT_PARSE_FAIL (counter of block PKT). -/
def R.PKT_PARSE_FAIL (u : Nat) : Nat := 0xd0000030 + u * 0x100000

/-- PKT_EXC_DROP (counter of block PKT). -/
def R.PKT_EXC_DROP (u : Nat) : Nat := 0xd0000034 + u * 0x100000

/-- PKT_RX_OVERSIZE (counter of block PKT). -/
def R.PKT_RX_OVERSIZE (u : Nat) : Nat := 0xd0000038 + u * 0x100000

/-- PKT_TX_OVERSIZE (counter of block PKT). -/
def R.PKT_TX_OVERSIZE (u : Nat) : Nat := 0xd000003c + u * 0x100000

/-- PKT_BAD_ACTION (counter of block PKT). -/
def R.PKT_BAD_ACTION (u : Nat) : Nat := 0xd0000040 + u * 0x100000

/-- PKT_RECIRC_LIMIT (counter of block PKT). -/
def R.PKT_RECIRC_LIMIT (u : Nat) : Nat := 0xd0000044 + u * 0x100000

/-- PKT_TABLE_UE (counter of block PKT). -/
def R.PKT_TABLE_UE (u : Nat) : Nat := 0xd0000048 + u * 0x100000

/-- PKT_DQ_FULL (counter of block PKT). -/
def R.PKT_DQ_FULL (u : Nat) : Nat := 0xd000004c + u * 0x100000

/-- PKT_DQ_OVERSIZE (counter of block PKT). -/
def R.PKT_DQ_OVERSIZE (u : Nat) : Nat := 0xd0000050 + u * 0x100000

/-- TSH_TX_FRAMES (counter of block TSH). -/
def R.TSH_TX_FRAMES (u : Nat) : Nat := 0xe0000010 + u * 0x400000

/-- TSH_TAIL_DROP (counter of block TSH). -/
def R.TSH_TAIL_DROP (u : Nat) : Nat := 0xe0000018 + u * 0x400000

/-- TSH_PFC_HEADROOM_DROP (counter of block TSH). -/
def R.TSH_PFC_HEADROOM_DROP (u : Nat) : Nat := 0xe000001c + u * 0x400000

/-- TSH_PAUSE_RX (counter of block TSH). -/
def R.TSH_PAUSE_RX (u : Nat) : Nat := 0xe0000020 + u * 0x400000

/-- TSH_COLOUR_DROP (counter of block TSH). -/
def R.TSH_COLOUR_DROP (u : Nat) : Nat := 0xe0000024 + u * 0x400000

/-- PRT_FEC_CW (counter of block PRT). -/
def R.PRT_FEC_CW (i : Nat) : Nat := 0x71000 + i * 0x40

/-- PRT_FEC_CORR (counter of block PRT). -/
def R.PRT_FEC_CORR (i : Nat) : Nat := 0x71008 + i * 0x40

/-- PRT_FEC_UNCORR (counter of block PRT). -/
def R.PRT_FEC_UNCORR (i : Nat) : Nat := 0x71010 + i * 0x40

/-- PRT_LINK_DOWN (counter of block PRT). -/
def R.PRT_LINK_DOWN (i : Nat) : Nat := 0x71014 + i * 0x40

/-- PRT_RX_FCS (counter of block PRT). -/
def R.PRT_RX_FCS (i : Nat) : Nat := 0x71018 + i * 0x40

/-- DNX_TX_FLITS (counter of block DNX). -/
def R.DNX_TX_FLITS (i : Nat) : Nat := 0x80800 + i * 0x40

/-- DNX_RX_FLITS (counter of block DNX). -/
def R.DNX_RX_FLITS (i : Nat) : Nat := 0x80808 + i * 0x40

/-- DNX_REPLAYS (counter of block DNX). -/
def R.DNX_REPLAYS (i : Nat) : Nat := 0x80810 + i * 0x40

/-- DNX_CRC_ERR (counter of block DNX). -/
def R.DNX_CRC_ERR (i : Nat) : Nat := 0x80818 + i * 0x40

/-- DNX_RETRAINS (counter of block DNX). -/
def R.DNX_RETRAINS (i : Nat) : Nat := 0x8081c + i * 0x40

/-- DNX_BAD_MSG (counter of block DNX). -/
def R.DNX_BAD_MSG (i : Nat) : Nat := 0x80820 + i * 0x40

/-- DNX_IN_DENIED (counter of block DNX). -/
def R.DNX_IN_DENIED (i : Nat) : Nat := 0x80824 + i * 0x40

/-- DNX_LATE_CPL (counter of block DNX). -/
def R.DNX_LATE_CPL (i : Nat) : Nat := 0x80828 + i * 0x40

/-- DNX_IRQ_DROP (counter of block DNX). -/
def R.DNX_IRQ_DROP (i : Nat) : Nat := 0x8082c + i * 0x40

/-- NVM_CMDS (counter of block NVM). -/
def R.NVM_CMDS : Nat := 0x90100

/-- NVM_BATCHES (counter of block NVM). -/
def R.NVM_BATCHES : Nat := 0x90108

/-- NVM_HOME_BLOCKS (counter of block NVM). -/
def R.NVM_HOME_BLOCKS : Nat := 0x90110

/-- NVM_CACHE_WAIT (counter of block NVM). -/
def R.NVM_CACHE_WAIT : Nat := 0x90118

/-- NVM_REPLAYED (counter of block NVM). -/
def R.NVM_REPLAYED : Nat := 0x90120

/-- NVM_DRIVE_ERR (counter of block NVM). -/
def R.NVM_DRIVE_ERR : Nat := 0x90124

/-- NVM_PEER_LOST (counter of block NVM). -/
def R.NVM_PEER_LOST : Nat := 0x90128

/-- CKP_BYTES_COPIED (counter of block CKP). -/
def R.CKP_BYTES_COPIED : Nat := 0xa0100

/-- CKP_GUARD_WAITS (counter of block CKP). -/
def R.CKP_GUARD_WAITS : Nat := 0xa0108

/-- CKP_OOO_TAKES (counter of block CKP). -/
def R.CKP_OOO_TAKES : Nat := 0xa0110

/-- CKP_SNAPSHOTS (counter of block CKP). -/
def R.CKP_SNAPSHOTS : Nat := 0xa0118

/-- CKP_DIGEST_FAIL (counter of block CKP). -/
def R.CKP_DIGEST_FAIL : Nat := 0xa0120

/-- CKP_SATURATED (counter of block CKP). -/
def R.CKP_SATURATED : Nat := 0xa0124

/-- CKP_GUARD_LOST (counter of block CKP). -/
def R.CKP_GUARD_LOST : Nat := 0xa0128

/-- CKP_HB_MISSED (counter of block CKP). -/
def R.CKP_HB_MISSED : Nat := 0xa012c

/-- KCE_OPS (counter of block KCE). -/
def R.KCE_OPS : Nat := 0xb0200

/-- KCE_SUSPENDS (counter of block KCE). -/
def R.KCE_SUSPENDS : Nat := 0xb0208

/-- KCE_DUAL_RETRY (counter of block KCE). -/
def R.KCE_DUAL_RETRY : Nat := 0xb0210

/-- KCE_DUAL_FAIL (counter of block KCE). -/
def R.KCE_DUAL_FAIL : Nat := 0xb0214

/-- KCE_AUTH_FAIL (counter of block KCE). -/
def R.KCE_AUTH_FAIL : Nat := 0xb0218

/-- KCE_UNWRAP_FAIL (counter of block KCE). -/
def R.KCE_UNWRAP_FAIL : Nat := 0xb021c

/-- KCE_LC_PARITY (counter of block KCE). -/
def R.KCE_LC_PARITY (i : Nat) : Nat := 0xb0220 + i * 0x4

/-- SLC_FETCHED (counter of block SLC). -/
def R.SLC_FETCHED (i : Nat) : Nat := 0xd4000 + i * 0x10

/-- SLC_REFUSED (counter of block SLC). -/
def R.SLC_REFUSED (i : Nat) : Nat := 0xd4008 + i * 0x10

/-- PCI_RD_REQ (counter of block PCI). -/
def R.PCI_RD_REQ : Nat := 0xf0100

/-- PCI_CPL_TIMEOUT (counter of block PCI). -/
def R.PCI_CPL_TIMEOUT : Nat := 0xf0108

/-- PCI_UNEXP_CPL (counter of block PCI). -/
def R.PCI_UNEXP_CPL : Nat := 0xf010c

/-- PCI_CPL_ERR (counter of block PCI). -/
def R.PCI_CPL_ERR : Nat := 0xf0110

/-- PCI_WIN_DENIED (counter of block PCI). -/
def R.PCI_WIN_DENIED : Nat := 0xf0114

/-- PCI_WIN_UE (counter of block PCI). -/
def R.PCI_WIN_UE : Nat := 0xf0118

/-- PCI_BAR_BAD (counter of block PCI). -/
def R.PCI_BAR_BAD : Nat := 0xf011c

/-- PCI_BME_CUT (counter of block PCI). -/
def R.PCI_BME_CUT : Nat := 0xf0120

/-- PCI_POISON_WR (counter of block PCI). -/
def R.PCI_POISON_WR : Nat := 0xf0124

/-- FWC_RESTARTS (counter of block FWC). -/
def R.FWC_RESTARTS : Nat := 0xe0200

/-- FWC_EXC_FRAMES (counter of block FWC). -/
def R.FWC_EXC_FRAMES : Nat := 0xe0208

/-- FWC_CRASHES (counter of block FWC). -/
def R.FWC_CRASHES : Nat := 0xe0210

/-- FWC_COMP_FAULTS (counter of block FWC). -/
def R.FWC_COMP_FAULTS : Nat := 0xe0214

/-- FWC_IMAGE_UE (counter of block FWC). -/
def R.FWC_IMAGE_UE : Nat := 0xe0218

/-- MGT_FLOW_RECORDS (counter of block MGT). -/
def R.MGT_FLOW_RECORDS : Nat := 0x30100

/-- MGT_FLOW_MSGS (counter of block MGT). -/
def R.MGT_FLOW_MSGS : Nat := 0x30108

/-- MGT_FLOW_EVICT (counter of block MGT). -/
def R.MGT_FLOW_EVICT : Nat := 0x30110

/-- MGT_FLOW_DROP (counter of block MGT). -/
def R.MGT_FLOW_DROP : Nat := 0x30114

/-- MGT_MCTP_DROP (counter of block MGT). -/
def R.MGT_MCTP_DROP : Nat := 0x30118

/-- MGT_EVENT_LOST (counter of block MGT). -/
def R.MGT_EVENT_LOST : Nat := 0x3011c

/-- MGT_SPDM_ERR (counter of block MGT). -/
def R.MGT_SPDM_ERR : Nat := 0x30120

/-- CLK_STALLS (counter of block CLK). -/
def R.CLK_STALLS : Nat := 0x130300

/-- RST_DIE_RESETS (counter of block CLK). -/
def R.RST_DIE_RESETS : Nat := 0x130304

/-- PWR_BROWNOUTS (counter of block CLK). -/
def R.PWR_BROWNOUTS : Nat := 0x130308

/-- PWR_TRIPS (counter of block CLK). -/
def R.PWR_TRIPS : Nat := 0x13030c

/-- PWR_THROTTLE_MS (counter of block CLK). -/
def R.PWR_THROTTLE_MS : Nat := 0x130310

/-- LAT_HUB_FRAMES (counter of block LAT_HUB). -/
def R.LAT_HUB_FRAMES (u : Nat) : Nat := 0xa0000008 + u * 0x100000

/-- MGT_RAIL_ENERGY (counter of block MGT). -/
def R.MGT_RAIL_ENERGY (i : Nat) : Nat := 0x32010 + i * 0x20

/-- TSH_METER_COUNT (counter of block TSH). -/
def R.TSH_METER_COUNT (u i : Nat) : Nat := 0xe0300000 + u * 0x400000 + i * 0x8

/-! Fields: lowest bit, width, access code, reset value. Bits of no field are Rsvd (R6). -/

/-- The registers of block CTL. -/
def regsCtl : List RegSpec := [
  ⟨0x100, 1, 0x10000000000, 1, 0x0, 8, [⟨12, 52, .rw, 0⟩]⟩,  -- CTL_ADMIN_SR_BASE
  ⟨0x108, 1, 0x10000000000, 1, 0x0, 8, [⟨12, 52, .rw, 0⟩]⟩,  -- CTL_ADMIN_CR_BASE
  ⟨0x118, 1, 0x10000000000, 1, 0x0, 8, [⟨12, 52, .rw, 0⟩]⟩,  -- CTL_ADMIN_EQ_BASE
  ⟨0x110, 1, 0x10000000000, 1, 0x0, 4, [⟨0, 1, .ev, 0⟩, ⟨1, 1, .ro, 0⟩, ⟨4, 4, .rw, 0⟩, ⟨8, 4, .rw, 0⟩, ⟨12, 4, .rw, 0⟩, ⟨16, 16, .ro, 0⟩]⟩,  -- CTL_ADMIN_CTRL
  ⟨0x114, 1, 0x10000000000, 1, 0x0, 4, [⟨0, 1, .w1c, 0⟩, ⟨1, 1, .w1c, 0⟩, ⟨2, 1, .ro, 0⟩]⟩,  -- CTL_ADMIN_STATUS
  ⟨0x120, 1, 0x10000000000, 1, 0x0, 4, [⟨0, 16, .rw, 1000⟩, ⟨31, 1, .ev, 0⟩]⟩,  -- CTL_LEASE
  ⟨0x124, 1, 0x10000000000, 1, 0x0, 4, [⟨0, 32, .ro, 0⟩]⟩  -- CTL_LEASE_REMAIN
  ]

/-- The registers of block RNG. -/
def regsRng : List RegSpec := [
  ⟨0x10000, 1, 0x10000000000, 1, 0x0, 4, [⟨0, 1, .ev, 0⟩]⟩,  -- RNG_CTL
  ⟨0x100f8, 1, 0x10000000000, 1, 0x0, 8, [⟨0, 64, .w1c, 0⟩]⟩  -- RNG_WRAP
  ]

/-- The registers of block LAT_CELL. -/
def regsLatCell : List RegSpec := [
  ⟨0x90000000, 1536, 0x1000, 1, 0x0, 4, [⟨0, 1, .ev, 0⟩, ⟨1, 1, .ev, 0⟩, ⟨2, 1, .ev, 0⟩]⟩,  -- LAT_CELL_CTRL
  ⟨0x90000004, 1536, 0x1000, 1, 0x0, 4, [⟨0, 3, .ro, 0⟩, ⟨3, 1, .ro, 0⟩, ⟨8, 6, .ro, 0⟩]⟩,  -- LAT_CELL_STATE
  ⟨0x90000008, 1536, 0x1000, 1, 0x0, 4, [⟨0, 21, .ro, 0⟩]⟩,  -- LAT_CELL_PC
  ⟨0x90000010, 1536, 0x1000, 1, 0x0, 4, [⟨0, 8, .ro, 0⟩, ⟨8, 1, .w1c, 0⟩, ⟨9, 1, .w1c, 0⟩]⟩,  -- LAT_CELL_MCA
  ⟨0x90000014, 1536, 0x1000, 1, 0x0, 4, [⟨0, 21, .ro, 0⟩]⟩,  -- LAT_CELL_MCA_PC
  ⟨0x90000018, 1536, 0x1000, 1, 0x0, 8, [⟨0, 64, .ro, 0⟩]⟩,  -- LAT_CELL_MCA_ADDR
  ⟨0x90000020, 1536, 0x1000, 1, 0x0, 4, [⟨0, 4, .rwl, 0⟩, ⟨4, 4, .rwl, 0⟩]⟩,  -- LAT_CELL_NBR
  ⟨0x90000100, 1536, 0x1000, 16, 0x20, 32, [⟨0, 32, .rwl, 0⟩, ⟨32, 1, .rwl, 0⟩, ⟨33, 1, .rwl, 0⟩, ⟨34, 1, .rwl, 0⟩, ⟨35, 1, .rwl, 0⟩, ⟨70, 58, .rwl, 0⟩, ⟨134, 58, .rwl, 0⟩]⟩,  -- LAT_CELL_GRANT
  ⟨0x90000300, 1536, 0x1000, 2, 0x40, 64, [⟨0, 1, .wo, 0⟩, ⟨1, 1, .rw, 0⟩, ⟨2, 1, .ro, 0⟩, ⟨8, 4, .rw, 0⟩, ⟨12, 4, .rw, 0⟩, ⟨32, 21, .rw, 0⟩, ⟨64, 64, .rw, 0⟩, ⟨128, 32, .rw, 0⟩, ⟨160, 32, .rw, 0⟩, ⟨192, 32, .rw, 0⟩, ⟨224, 32, .rw, 0⟩, ⟨256, 16, .ro, 0⟩, ⟨272, 16, .ro, 0⟩, ⟨288, 16, .ro, 0⟩]⟩,  -- LAT_CELL_STRM
  ⟨0x90000400, 1536, 0x1000, 1, 0x0, 4, [⟨0, 1, .ev, 0⟩]⟩,  -- LAT_CELL_SNAP
  ⟨0x900004f8, 1536, 0x1000, 1, 0x0, 8, [⟨0, 64, .w1c, 0⟩]⟩  -- LAT_CELL_WRAP
  ]

/-- The registers of block LAT_HUB. -/
def regsLatHub : List RegSpec := [
  ⟨0xa0000000, 12, 0x100000, 1, 0x0, 4, [⟨0, 3, .ev, 4⟩, ⟨4, 3, .ro, 4⟩, ⟨7, 1, .ev, 0⟩]⟩,  -- LAT_HUB_CTRL
  ⟨0xa0000010, 12, 0x100000, 1, 0x0, 4, [⟨0, 1, .ev, 0⟩, ⟨1, 1, .ro, 0⟩]⟩,  -- LAT_HUB_COMMIT
  ⟨0xa0010000, 12, 0x100000, 143360, 0x2, 2, [⟨0, 10, .rw, 1023⟩, ⟨10, 6, .rw, 0⟩]⟩,  -- LAT_HUB_FRAME_ENTRY
  ⟨0xa00000f8, 12, 0x100000, 1, 0x0, 8, [⟨0, 64, .w1c, 0⟩]⟩  -- LAT_HUB_WRAP
  ]

/-- The registers of block SPN. -/
def regsSpn : List RegSpec := [
  ⟨0xb0000000, 12, 0x10000, 1, 0x0, 4, [⟨0, 1, .ev, 0⟩, ⟨1, 1, .ro, 0⟩, ⟨2, 1, .ev, 0⟩]⟩,  -- SPN_CTRL
  ⟨0xb0000010, 12, 0x10000, 4, 0x4, 4, [⟨0, 10, .ro, 0⟩]⟩,  -- SPN_RESERVED
  ⟨0xb0001000, 12, 0x10000, 4000, 0x2, 2, [⟨0, 10, .rw, 1023⟩, ⟨10, 6, .rw, 0⟩]⟩,  -- SPN_TABLE_ENTRY
  ⟨0xb00000f8, 12, 0x10000, 1, 0x0, 8, [⟨0, 64, .w1c, 0⟩]⟩  -- SPN_WRAP
  ]

/-- The registers of block TLN. -/
def regsTln : List RegSpec := [
  ⟨0x40000, 1, 0x10000000000, 1, 0x0, 4, [⟨0, 1, .ev, 0⟩, ⟨1, 1, .ev, 0⟩, ⟨2, 2, .rw, 0⟩, ⟨4, 1, .rw, 0⟩]⟩,  -- TLN_CTRL
  ⟨0x40004, 1, 0x10000000000, 1, 0x0, 4, [⟨0, 16, .rwl, 0⟩, ⟨16, 10, .rwl, 0⟩]⟩,  -- TLN_DOMAIN
  ⟨0x40008, 1, 0x10000000000, 1, 0x0, 4, [⟨0, 3, .rwl, 6⟩, ⟨4, 3, .rwl, 5⟩, ⟨8, 12, .rw, 256⟩]⟩,  -- TLN_CLASS
  ⟨0x4000c, 1, 0x10000000000, 1, 0x0, 4, [⟨0, 16, .rw, 200⟩]⟩,  -- TLN_HOLDOVER
  ⟨0x40010, 1, 0x10000000000, 1, 0x0, 4, [⟨0, 2, .ro, 0⟩, ⟨2, 2, .ro, 0⟩, ⟨4, 10, .ro, 0⟩, ⟨16, 16, .ro, 0⟩]⟩,  -- TLN_STATUS
  ⟨0x40014, 1, 0x10000000000, 1, 0x0, 4, [⟨0, 16, .ro, 0⟩]⟩,  -- TLN_SCHED_ID
  ⟨0x40018, 1, 0x10000000000, 1, 0x0, 8, [⟨0, 64, .ro, 0⟩]⟩,  -- TLN_TIME
  ⟨0x40020, 1, 0x10000000000, 1, 0x0, 4, [⟨0, 32, .ro, 0⟩]⟩,  -- TLN_OFFSET
  ⟨0x40028, 1, 0x10000000000, 1, 0x0, 8, [⟨12, 52, .rw, 0⟩]⟩,  -- TLN_STAGE_BASE
  ⟨0x40030, 1, 0x10000000000, 1, 0x0, 4, [⟨0, 1, .ev, 0⟩, ⟨1, 1, .ev, 0⟩, ⟨2, 1, .ev, 0⟩, ⟨8, 4, .rw, 0⟩]⟩,  -- TLN_STAGE_CTRL
  ⟨0x40038, 1, 0x10000000000, 1, 0x0, 8, [⟨0, 44, .rw, 0⟩]⟩,  -- TLN_STAGE_EPOCH
  ⟨0x40040, 1, 0x10000000000, 1, 0x0, 4, [⟨0, 4, .ro, 0⟩, ⟨16, 16, .ro, 0⟩]⟩,  -- TLN_STAGE_STATUS
  ⟨0x40128, 1, 0x10000000000, 1, 0x0, 8, [⟨0, 16, .ro, 0⟩, ⟨16, 44, .ro, 0⟩, ⟨63, 1, .w1c, 0⟩]⟩,  -- TLN_LATE_FIRST
  ⟨0x400f8, 1, 0x10000000000, 1, 0x0, 8, [⟨0, 64, .w1c, 0⟩]⟩  -- TLN_WRAP
  ]

/-- The registers of block MEM. -/
def regsMem : List RegSpec := [
  ⟨0xc0000000, 12, 0x10000, 1, 0x0, 4, [⟨0, 1, .ev, 0⟩, ⟨1, 1, .rw, 1⟩, ⟨8, 8, .rw, 24⟩]⟩,  -- MEM_CTRL
  ⟨0xc0000004, 12, 0x10000, 1, 0x0, 4, [⟨0, 1, .ro, 0⟩, ⟨1, 1, .ro, 0⟩, ⟨2, 1, .ro, 0⟩]⟩,  -- MEM_STATUS
  ⟨0xc0000008, 12, 0x10000, 1, 0x0, 4, [⟨0, 18, .ro, 0⟩, ⟨18, 7, .ro, 0⟩]⟩,  -- MEM_GRANULES
  ⟨0xc000000c, 12, 0x10000, 1, 0x0, 4, [⟨0, 16, .rw, 1000⟩]⟩,  -- MEM_CE_THRESH
  ⟨0xc0000010, 12, 0x10000, 1, 0x0, 8, [⟨0, 39, .ro, 0⟩]⟩,  -- MEM_SCRUB_POS
  ⟨0xc0000018, 12, 0x10000, 1, 0x0, 8, [⟨0, 39, .ro, 0⟩, ⟨39, 3, .ro, 0⟩, ⟨42, 7, .ro, 0⟩, ⟨63, 1, .w1c, 0⟩]⟩,  -- MEM_UE_LOG
  ⟨0xc0000020, 12, 0x10000, 1, 0x0, 8, [⟨0, 39, .ro, 0⟩, ⟨39, 3, .ro, 0⟩, ⟨42, 7, .ro, 0⟩, ⟨63, 1, .w1c, 0⟩]⟩,  -- MEM_CE_LOG
  ⟨0xc00000f8, 12, 0x10000, 1, 0x0, 8, [⟨0, 64, .w1c, 0⟩]⟩  -- MEM_WRAP
  ]

/-- The registers of block XLT. -/
def regsXlt : List RegSpec := [
  ⟨0x50000, 1, 0x10000000000, 1, 0x0, 4, [⟨0, 1, .ev, 0⟩, ⟨1, 1, .ev, 0⟩, ⟨8, 8, .rw, 16⟩, ⟨16, 16, .rw, 50⟩]⟩,  -- XLT_CTRL
  ⟨0x50004, 1, 0x10000000000, 1, 0x0, 4, [⟨0, 12, .rwl, 0⟩]⟩,  -- XLT_EQ
  ⟨0x50008, 1, 0x10000000000, 1, 0x0, 4, [⟨0, 32, .rwl, 0⟩]⟩,  -- XLT_TABLE_REGION
  ⟨0x50010, 1, 0x10000000000, 1, 0x0, 8, [⟨12, 52, .rwl, 0⟩]⟩,  -- XLT_ASID_OFFSET
  ⟨0x50018, 1, 0x10000000000, 1, 0x0, 8, [⟨12, 52, .rwl, 0⟩]⟩,  -- XLT_FAULT_BASE
  ⟨0x50020, 1, 0x10000000000, 1, 0x0, 4, [⟨0, 12, .rw, 0⟩]⟩,  -- XLT_FAULT_HEAD
  ⟨0x50024, 1, 0x10000000000, 1, 0x0, 4, [⟨0, 12, .ro, 0⟩]⟩,  -- XLT_FAULT_TAIL
  ⟨0x50028, 1, 0x10000000000, 1, 0x0, 8, [⟨0, 16, .ev, 0⟩, ⟨16, 2, .ev, 0⟩]⟩,  -- XLT_FAULT_RESP
  ⟨0x50030, 1, 0x10000000000, 1, 0x0, 8, [⟨0, 16, .ev, 0⟩, ⟨16, 16, .ev, 0⟩]⟩,  -- XLT_INVAL
  ⟨0x50038, 1, 0x10000000000, 1, 0x0, 4, [⟨0, 16, .ro, 0⟩, ⟨16, 4, .ro, 0⟩]⟩,  -- XLT_INVAL_DONE
  ⟨0x50040, 1, 0x10000000000, 1, 0x0, 8, [⟨2, 62, .rw, 0⟩]⟩,  -- XLT_INVAL_CPL
  ⟨0x50048, 1, 0x10000000000, 1, 0x0, 4, [⟨0, 1, .w1c, 0⟩, ⟨1, 1, .w1c, 0⟩, ⟨2, 1, .w1c, 0⟩, ⟨16, 13, .ro, 0⟩]⟩,  -- XLT_STATUS
  ⟨0x500f8, 1, 0x10000000000, 1, 0x0, 8, [⟨0, 64, .w1c, 0⟩]⟩  -- XLT_WRAP
  ]

/-- The registers of block TMT. -/
def regsTmt : List RegSpec := [
  ⟨0x60000, 1, 0x10000000000, 1, 0x0, 4, [⟨0, 16, .rwl, 47332⟩, ⟨16, 1, .rw, 0⟩, ⟨17, 1, .ev, 0⟩]⟩,  -- TMT_CTRL
  ⟨0x60010, 1, 0x10000000000, 4, 0x4, 4, [⟨0, 19, .ro, 262144⟩]⟩,  -- TMT_REORDER_FREE
  ⟨0x61000, 1, 0x10000000000, 64, 0x10, 16, [⟨0, 16, .rw, 500⟩, ⟨16, 8, .rw, 64⟩, ⟨32, 32, .rw, 10000⟩, ⟨64, 16, .rw, 10⟩, ⟨80, 16, .rw, 2000⟩, ⟨96, 1, .rw, 1⟩]⟩,  -- TMT_CC
  ⟨0x600f8, 1, 0x10000000000, 1, 0x0, 8, [⟨0, 64, .w1c, 0⟩]⟩  -- TMT_WRAP
  ]

/-- The registers of block PKT. -/
def regsPkt : List RegSpec := [
  ⟨0xd0000000, 4, 0x100000, 1, 0x0, 4, [⟨0, 1, .ev, 0⟩, ⟨1, 1, .ev, 0⟩, ⟨2, 1, .ro, 0⟩, ⟨3, 1, .ro, 0⟩]⟩,  -- PKT_CTRL
  ⟨0xd0000008, 4, 0x100000, 1, 0x0, 8, [⟨0, 32, .rw, 50000⟩, ⟨32, 16, .rw, 64⟩]⟩,  -- PKT_EXC
  ⟨0xd0000100, 4, 0x100000, 64, 0x8, 8, [⟨0, 1, .rw, 0⟩, ⟨1, 5, .rw, 0⟩, ⟨6, 6, .rw, 0⟩, ⟨12, 1, .rw, 0⟩, ⟨13, 2, .rw, 0⟩, ⟨15, 10, .rw, 0⟩, ⟨32, 14, .rw, 9216⟩, ⟨48, 7, .rw, 20⟩]⟩,  -- PKT_PORT
  ⟨0xd0001000, 4, 0x100000, 512, 0x10, 16, [⟨0, 128, .rw, 0⟩]⟩,  -- PKT_LOCAL
  ⟨0xd0009000, 4, 0x100000, 32, 0x40, 64, [⟨0, 4, .rw, 0⟩, ⟨8, 5, .rw, 0⟩, ⟨32, 32, .rw, 0⟩, ⟨64, 64, .rw, 0⟩, ⟨128, 128, .rw, 0⟩, ⟨256, 8, .rw, 0⟩, ⟨264, 6, .rw, 0⟩, ⟨272, 14, .rw, 0⟩, ⟨288, 14, .rw, 0⟩, ⟨304, 7, .rw, 0⟩, ⟨312, 8, .rw, 0⟩, ⟨320, 8, .rw, 0⟩, ⟨336, 12, .rw, 0⟩, ⟨384, 64, .rw, 0⟩]⟩,  -- PKT_TABLE
  ⟨0xd0010000, 4, 0x100000, 128, 0x80, 128, [⟨0, 2, .rw, 0⟩, ⟨8, 6, .rw, 0⟩, ⟨16, 8, .rw, 0⟩, ⟨24, 8, .rw, 0⟩, ⟨32, 8, .rw, 0⟩, ⟨40, 2, .rw, 0⟩, ⟨48, 8, .rw, 0⟩, ⟨56, 1, .rw, 0⟩, ⟨64, 8, .rw, 0⟩, ⟨128, 41, .rw, 0⟩, ⟨176, 41, .rw, 0⟩, ⟨224, 41, .rw, 0⟩, ⟨272, 41, .rw, 0⟩, ⟨320, 41, .rw, 0⟩, ⟨368, 41, .rw, 0⟩, ⟨416, 41, .rw, 0⟩, ⟨464, 41, .rw, 0⟩, ⟨512, 24, .rw, 0⟩, ⟨544, 24, .rw, 0⟩, ⟨576, 24, .rw, 0⟩, ⟨608, 24, .rw, 0⟩, ⟨640, 24, .rw, 0⟩, ⟨672, 24, .rw, 0⟩, ⟨704, 24, .rw, 0⟩, ⟨736, 24, .rw, 0⟩]⟩,  -- PKT_NODE
  ⟨0xd0014000, 4, 0x100000, 1024, 0x20, 32, [⟨0, 3, .rw, 0⟩, ⟨8, 6, .rw, 0⟩, ⟨16, 8, .rw, 0⟩, ⟨24, 8, .rw, 0⟩, ⟨32, 32, .rw, 0⟩, ⟨64, 64, .rw, 0⟩, ⟨128, 16, .rw, 0⟩]⟩,  -- PKT_DQ
  ⟨0xd0020000, 4, 0x100000, 4096, 0x80, 128, [⟨0, 1024, .rw, 0⟩]⟩,  -- PKT_TEMPLATE
  ⟨0xd00a0000, 4, 0x100000, 16, 0x8, 8, [⟨0, 14, .rw, 0⟩, ⟨16, 14, .rw, 0⟩]⟩,  -- PKT_MIRROR
  ⟨0xd00000f8, 4, 0x100000, 1, 0x0, 8, [⟨0, 64, .w1c, 0⟩]⟩  -- PKT_WRAP
  ]

/-- The registers of block TSH. -/
def regsTsh : List RegSpec := [
  ⟨0xe0000000, 4, 0x400000, 1, 0x0, 4, [⟨0, 1, .ev, 0⟩]⟩,  -- TSH_CTRL
  ⟨0xe0000100, 4, 0x400000, 64, 0x4, 4, [⟨0, 8, .rw, 0⟩]⟩,  -- TSH_PFC
  ⟨0xe0001000, 4, 0x400000, 512, 0x8, 8, [⟨0, 16, .rw, 2048⟩, ⟨16, 16, .rw, 1024⟩, ⟨32, 16, .rw, 256⟩]⟩,  -- TSH_PFC_TH
  ⟨0xe0000200, 4, 0x400000, 1, 0x0, 16, [⟨0, 128, .rw, 0⟩]⟩,  -- TSH_DSCP_COLOUR
  ⟨0xe0010000, 4, 0x400000, 64, 0x10, 16, [⟨0, 32, .rw, 0⟩, ⟨32, 24, .rw, 0⟩]⟩,  -- TSH_SHAPER_PORT
  ⟨0xe0020000, 4, 0x400000, 8192, 0x10, 16, [⟨0, 32, .rw, 0⟩, ⟨32, 24, .rw, 0⟩]⟩,  -- TSH_SHAPER_SLICE
  ⟨0xe0100000, 4, 0x400000, 32768, 0x20, 32, [⟨0, 32, .rw, 0⟩, ⟨32, 24, .rw, 0⟩, ⟨128, 1, .rw, 0⟩, ⟨136, 8, .rw, 0⟩]⟩,  -- TSH_CLASS
  ⟨0xe0200000, 4, 0x400000, 4096, 0x20, 32, [⟨0, 6, .rw, 0⟩, ⟨6, 6, .rw, 0⟩, ⟨12, 3, .rw, 0⟩, ⟨15, 1, .rw, 0⟩, ⟨16, 8, .rw, 0⟩, ⟨32, 32, .rw, 0⟩, ⟨64, 32, .rw, 0⟩, ⟨128, 32, .rw, 0⟩, ⟨160, 24, .rw, 0⟩]⟩,  -- TSH_QUEUE
  ⟨0xe0240000, 4, 0x400000, 16384, 0x20, 32, [⟨0, 256, .ev, 0⟩]⟩,  -- TSH_METER
  ⟨0xe0380000, 4, 0x400000, 768, 0x8, 8, [⟨0, 64, .w1c, 0⟩]⟩,  -- TSH_METER_WRAP
  ⟨0xe00000f8, 4, 0x400000, 1, 0x0, 8, [⟨0, 64, .w1c, 0⟩]⟩  -- TSH_WRAP
  ]

/-- The registers of block PRT. -/
def regsPrt : List RegSpec := [
  ⟨0x70000, 1, 0x10000000000, 1, 0x0, 4, [⟨0, 1, .ev, 0⟩]⟩,  -- PRT_CTRL
  ⟨0x70100, 1, 0x10000000000, 32, 0x10, 16, [⟨0, 1, .ev, 0⟩, ⟨1, 3, .rwl, 0⟩, ⟨8, 2, .rwl, 0⟩, ⟨10, 1, .rwl, 1⟩, ⟨32, 24, .rwl, 16434824⟩, ⟨56, 8, .rwl, 0⟩, ⟨64, 24, .rwl, 16434824⟩, ⟨88, 8, .rwl, 0⟩]⟩,  -- PRT_OCTET
  ⟨0x70400, 1, 0x10000000000, 32, 0x4, 4, [⟨0, 3, .ro, 0⟩, ⟨3, 8, .ro, 0⟩, ⟨11, 8, .ro, 0⟩, ⟨19, 1, .ro, 0⟩, ⟨20, 1, .ro, 0⟩]⟩,  -- PRT_OCTET_STATUS
  ⟨0x700f8, 1, 0x10000000000, 1, 0x0, 8, [⟨0, 64, .w1c, 0⟩]⟩  -- PRT_WRAP
  ]

/-- The registers of block DNX. -/
def regsDnx : List RegSpec := [
  ⟨0x80000, 1, 0x10000000000, 1, 0x0, 4, [⟨0, 1, .ev, 0⟩]⟩,  -- DNX_CTRL
  ⟨0x80100, 1, 0x10000000000, 16, 0x10, 16, [⟨0, 1, .ev, 0⟩, ⟨1, 1, .rwl, 0⟩, ⟨8, 5, .rwl, 0⟩, ⟨16, 16, .rw, 10000⟩, ⟨32, 16, .rwl, 4096⟩, ⟨48, 16, .rwl, 1024⟩, ⟨64, 16, .rwl, 4096⟩]⟩,  -- DNX_LINK
  ⟨0x80300, 1, 0x10000000000, 16, 0x4, 4, [⟨0, 3, .ro, 0⟩, ⟨3, 1, .ro, 0⟩]⟩,  -- DNX_STATUS
  ⟨0x81000, 1, 0x10000000000, 256, 0x20, 32, [⟨0, 10, .rw, 0⟩, ⟨12, 52, .rw, 0⟩, ⟨64, 64, .rw, 0⟩]⟩,  -- DNX_OUT_WINDOW
  ⟨0x84000, 1, 0x10000000000, 1024, 0x20, 32, [⟨0, 10, .rw, 0⟩, ⟨12, 52, .rw, 0⟩, ⟨64, 64, .rw, 0⟩, ⟨128, 32, .rw, 0⟩, ⟨192, 64, .rw, 0⟩]⟩,  -- DNX_IN_WINDOW
  ⟨0x800f8, 1, 0x10000000000, 1, 0x0, 8, [⟨0, 64, .w1c, 0⟩]⟩  -- DNX_WRAP
  ]

/-- The registers of block NVM. -/
def regsNvm : List RegSpec := [
  ⟨0x90000, 1, 0x10000000000, 1, 0x0, 4, [⟨0, 1, .ev, 0⟩]⟩,  -- NVM_CTRL
  ⟨0x90004, 1, 0x10000000000, 1, 0x0, 4, [⟨0, 32, .rwl, 0⟩]⟩,  -- NVM_CACHE
  ⟨0x90008, 1, 0x10000000000, 1, 0x0, 4, [⟨0, 1, .ro, 0⟩, ⟨1, 1, .ro, 0⟩, ⟨2, 1, .ro, 0⟩, ⟨3, 1, .ro, 0⟩]⟩,  -- NVM_STATUS
  ⟨0x90010, 1, 0x10000000000, 1, 0x0, 4, [⟨0, 32, .ro, 0⟩]⟩,  -- NVM_CACHE_USE
  ⟨0x900f8, 1, 0x10000000000, 1, 0x0, 8, [⟨0, 64, .w1c, 0⟩]⟩  -- NVM_WRAP
  ]

/-- The registers of block CKP. -/
def regsCkp : List RegSpec := [
  ⟨0xa0000, 1, 0x10000000000, 1, 0x0, 4, [⟨0, 1, .ev, 0⟩, ⟨8, 8, .rw, 32⟩]⟩,  -- CKP_CTRL
  ⟨0xa0004, 1, 0x10000000000, 1, 0x0, 4, [⟨0, 16, .rw, 100⟩, ⟨16, 4, .rw, 4⟩]⟩,  -- CKP_HB
  ⟨0xa0008, 1, 0x10000000000, 1, 0x0, 4, [⟨0, 1, .ro, 0⟩, ⟨1, 1, .ro, 0⟩, ⟨16, 16, .ro, 0⟩]⟩,  -- CKP_STATUS
  ⟨0xa00f8, 1, 0x10000000000, 1, 0x0, 8, [⟨0, 64, .w1c, 0⟩]⟩  -- CKP_WRAP
  ]

/-- The registers of block KCE. -/
def regsKce : List RegSpec := [
  ⟨0xb0000, 1, 0x10000000000, 1, 0x0, 4, [⟨0, 1, .ev, 0⟩, ⟨8, 4, .rwl, 8⟩]⟩,  -- KCE_CTRL
  ⟨0xb0004, 1, 0x10000000000, 1, 0x0, 4, [⟨0, 2, .ro, 0⟩, ⟨4, 4, .ro, 0⟩, ⟨8, 5, .ro, 0⟩, ⟨16, 4, .ro, 0⟩]⟩,  -- KCE_STATUS
  ⟨0xb0008, 1, 0x10000000000, 1, 0x0, 4, [⟨0, 8, .rw, 8⟩]⟩,  -- KCE_LC_CTRL
  ⟨0xb0140, 1, 0x10000000000, 2, 0x40, 48, [⟨0, 384, .ro, 0⟩]⟩,  -- KCE_MEAS
  ⟨0xb00f8, 1, 0x10000000000, 1, 0x0, 8, [⟨0, 64, .w1c, 0⟩]⟩  -- KCE_WRAP
  ]

/-- The registers of block CRC. -/
def regsCrc : List RegSpec := [
  ⟨0xc0000, 4, 0x100, 1, 0x0, 4, [⟨0, 6, .ev, 0⟩, ⟨6, 1, .ev, 0⟩, ⟨7, 1, .ev, 0⟩, ⟨8, 1, .ev, 0⟩, ⟨10, 1, .w1c, 0⟩, ⟨16, 5, .ro, 0⟩]⟩,  -- CRC_CFG
  ⟨0xc0008, 4, 0x100, 1, 0x0, 8, [⟨0, 64, .ev, 0⟩]⟩,  -- CRC_POLY
  ⟨0xc0010, 4, 0x100, 1, 0x0, 8, [⟨0, 64, .ev, 0⟩]⟩,  -- CRC_INIT
  ⟨0xc0030, 4, 0x100, 1, 0x0, 8, [⟨0, 64, .ro, 0⟩]⟩  -- CRC_RESULT
  ]

/-- The registers of block SLC. -/
def regsSlc : List RegSpec := [
  ⟨0xd0000, 1, 0x10000000000, 1, 0x0, 4, [⟨0, 1, .ev, 0⟩]⟩,  -- SLC_CTRL
  ⟨0xd0100, 1, 0x10000000000, 64, 0x4, 4, [⟨0, 3, .ro, 0⟩, ⟨3, 1, .ro, 0⟩, ⟨16, 13, .ro, 0⟩]⟩,  -- SLC_STATUS
  ⟨0xd1000, 1, 0x10000000000, 64, 0x40, 64, [⟨0, 32, .ro, 0⟩, ⟨32, 32, .ro, 0⟩, ⟨64, 32, .ro, 0⟩, ⟨96, 32, .ro, 0⟩, ⟨128, 16, .ro, 0⟩, ⟨144, 16, .ro, 0⟩, ⟨160, 11, .ro, 0⟩, ⟨176, 9, .ro, 0⟩, ⟨192, 8, .ro, 0⟩, ⟨208, 16, .ro, 0⟩, ⟨224, 8, .ro, 0⟩, ⟨232, 9, .ro, 0⟩, ⟨256, 10, .ro, 0⟩, ⟨266, 10, .ro, 0⟩, ⟨288, 96, .ro, 0⟩]⟩,  -- SLC_QUOTA
  ⟨0xd2000, 1, 0x10000000000, 64, 0x40, 64, [⟨0, 192, .ro, 0⟩, ⟨192, 11, .ro, 0⟩, ⟨224, 32, .ro, 0⟩, ⟨256, 16, .ro, 0⟩]⟩,  -- SLC_USE
  ⟨0xd00f8, 1, 0x10000000000, 1, 0x0, 8, [⟨0, 64, .w1c, 0⟩]⟩  -- SLC_WRAP
  ]

/-- The registers of block PCI. -/
def regsPci : List RegSpec := [
  ⟨0xf0000, 1, 0x10000000000, 1, 0x0, 4, [⟨0, 1, .ev, 0⟩]⟩,  -- PCI_CTRL
  ⟨0xf0004, 1, 0x10000000000, 1, 0x0, 4, [⟨0, 16, .rw, 32⟩, ⟨16, 3, .rw, 4⟩, ⟨19, 1, .rw, 0⟩]⟩,  -- PCI_PM
  ⟨0xf0008, 1, 0x10000000000, 1, 0x0, 4, [⟨0, 3, .ro, 0⟩, ⟨3, 3, .ro, 0⟩, ⟨6, 1, .ro, 0⟩, ⟨7, 2, .ro, 0⟩, ⟨9, 2, .ro, 0⟩, ⟨11, 1, .ro, 0⟩, ⟨12, 1, .ro, 0⟩]⟩,  -- PCI_STATUS
  ⟨0xf0010, 1, 0x10000000000, 1, 0x0, 8, [⟨0, 16, .ev, 0⟩, ⟨16, 16, .ro, 0⟩]⟩,  -- PCI_WIN_SYNC
  ⟨0xf00f8, 1, 0x10000000000, 1, 0x0, 8, [⟨0, 64, .w1c, 0⟩]⟩  -- PCI_WRAP
  ]

/-- The registers of block FWC. -/
def regsFwc : List RegSpec := [
  ⟨0xe0000, 1, 0x10000000000, 1, 0x0, 4, [⟨0, 1, .ev, 0⟩]⟩,  -- FWC_CTRL
  ⟨0xe0004, 1, 0x10000000000, 1, 0x0, 4, [⟨0, 2, .ro, 0⟩, ⟨2, 1, .ro, 0⟩, ⟨3, 1, .ro, 0⟩]⟩,  -- FWC_STATUS
  ⟨0xe0008, 1, 0x10000000000, 1, 0x0, 4, [⟨0, 8, .ro, 0⟩, ⟨8, 8, .ro, 0⟩]⟩,  -- FWC_VERSION
  ⟨0xe000c, 1, 0x10000000000, 1, 0x0, 4, [⟨0, 8, .rwl, 0⟩, ⟨8, 8, .rwl, 0⟩]⟩,  -- FWC_DRV_VERSION
  ⟨0xe0010, 1, 0x10000000000, 1, 0x0, 8, [⟨0, 64, .rwl, 0⟩]⟩,  -- FWC_DRV_FEAT
  ⟨0xe0018, 1, 0x10000000000, 1, 0x0, 8, [⟨0, 64, .ro, 0⟩]⟩,  -- FWC_FW_FEAT
  ⟨0xe0020, 1, 0x10000000000, 1, 0x0, 8, [⟨0, 64, .ro, 0⟩]⟩,  -- FWC_AGREED
  ⟨0xe0100, 1, 0x10000000000, 16, 0x4, 4, [⟨0, 2, .ro, 0⟩, ⟨2, 2, .ro, 0⟩, ⟨4, 8, .ro, 0⟩]⟩,  -- FWC_CORE_STATUS
  ⟨0xe00f8, 1, 0x10000000000, 1, 0x0, 8, [⟨0, 64, .w1c, 0⟩]⟩  -- FWC_WRAP
  ]

/-- The registers of block MGT. -/
def regsMgt : List RegSpec := [
  ⟨0x30000, 1, 0x10000000000, 1, 0x0, 4, [⟨0, 1, .ev, 0⟩]⟩,  -- MGT_CTRL
  ⟨0x30004, 1, 0x10000000000, 1, 0x0, 4, [⟨0, 2, .ro, 0⟩, ⟨2, 1, .ro, 0⟩, ⟨3, 1, .ro, 0⟩, ⟨4, 7, .ro, 0⟩, ⟨11, 7, .ro, 0⟩]⟩,  -- MGT_STATUS
  ⟨0x30008, 1, 0x10000000000, 1, 0x0, 4, [⟨0, 8, .ro, 0⟩, ⟨8, 8, .ro, 0⟩]⟩,  -- MGT_EID
  ⟨0x31000, 1, 0x10000000000, 96, 0x4, 4, [⟨0, 16, .ro, 0⟩, ⟨16, 1, .ro, 0⟩]⟩,  -- MGT_TEMP
  ⟨0x32000, 1, 0x10000000000, 9, 0x20, 32, [⟨0, 16, .ro, 0⟩, ⟨32, 32, .ro, 0⟩, ⟨64, 32, .ro, 0⟩, ⟨96, 32, .ro, 0⟩, ⟨128, 64, .ro, 0⟩]⟩,  -- MGT_RAIL
  ⟨0x33000, 1, 0x10000000000, 4, 0x40, 64, [⟨0, 1, .ev, 0⟩, ⟨1, 1, .rw, 0⟩, ⟨2, 1, .rw, 0⟩, ⟨8, 4, .rw, 0⟩, ⟨16, 16, .rw, 10⟩, ⟨32, 16, .rw, 60⟩, ⟨48, 10, .rw, 0⟩, ⟨64, 12, .rw, 0⟩, ⟨80, 16, .rw, 60⟩, ⟨96, 16, .rw, 4739⟩, ⟨128, 128, .rw, 0⟩, ⟨256, 128, .rw, 0⟩, ⟨384, 48, .rw, 0⟩]⟩,  -- MGT_FLOW
  ⟨0x300f8, 1, 0x10000000000, 1, 0x0, 8, [⟨0, 64, .w1c, 0⟩]⟩  -- MGT_WRAP
  ]

/-- The registers of block CFG. -/
def regsCfg : List RegSpec := [
  ⟨0x20000, 1, 0x10000000000, 1, 0x0, 4, [⟨0, 1, .ro, 0⟩, ⟨1, 1, .ro, 0⟩, ⟨2, 1, .ro, 0⟩, ⟨3, 2, .ro, 0⟩, ⟨5, 1, .ro, 0⟩, ⟨6, 1, .w1c, 0⟩]⟩,  -- CFG_STATUS
  ⟨0x20004, 1, 0x10000000000, 1, 0x0, 4, [⟨0, 2, .ro, 0⟩, ⟨2, 1, .ro, 0⟩, ⟨3, 1, .ro, 0⟩]⟩,  -- CFG_STRAPS
  ⟨0x20008, 1, 0x10000000000, 1, 0x0, 8, [⟨0, 32, .ro, 0⟩, ⟨32, 32, .ro, 0⟩]⟩,  -- CFG_SVN
  ⟨0x20010, 1, 0x10000000000, 1, 0x0, 8, [⟨0, 3, .ro, 0⟩, ⟨3, 1, .ro, 0⟩, ⟨32, 32, .ro, 0⟩]⟩,  -- CFG_UPDATE
  ⟨0x20018, 1, 0x10000000000, 1, 0x0, 16, [⟨0, 1, .ev, 0⟩, ⟨1, 1, .ev, 0⟩, ⟨2, 2, .rw, 0⟩, ⟨4, 1, .rw, 0⟩, ⟨16, 16, .rw, 0⟩, ⟨64, 64, .rw, 0⟩]⟩,  -- CFG_ACT
  ⟨0x20028, 1, 0x10000000000, 1, 0x0, 4, [⟨0, 4, .ro, 0⟩, ⟨4, 1, .ro, 0⟩]⟩,  -- CFG_ACT_STATUS
  ⟨0x20030, 1, 0x10000000000, 1, 0x0, 4, [⟨0, 1, .ev, 0⟩]⟩  -- CFG_CONFIRM
  ]

/-- The registers of block CLK. -/
def regsClk : List RegSpec := [
  ⟨0x130000, 1, 0x10000000000, 1, 0x0, 4, [⟨0, 1, .ev, 0⟩]⟩,  -- CLK_CTRL
  ⟨0x130004, 1, 0x10000000000, 1, 0x0, 4, [⟨0, 1, .ro, 0⟩, ⟨1, 4, .ro, 0⟩, ⟨5, 1, .ro, 0⟩, ⟨6, 1, .ro, 0⟩, ⟨7, 1, .ro, 0⟩, ⟨8, 1, .ro, 0⟩]⟩,  -- CLK_STATUS
  ⟨0x130008, 1, 0x10000000000, 1, 0x0, 4, [⟨0, 12, .ro, 0⟩, ⟨12, 12, .ro, 0⟩, ⟨24, 4, .ro, 0⟩, ⟨28, 1, .ro, 0⟩, ⟨29, 1, .ro, 0⟩, ⟨30, 1, .ro, 0⟩]⟩,  -- CLK_PLL_LOCK
  ⟨0x130010, 1, 0x10000000000, 1, 0x0, 4, [⟨0, 17, .w1c, 0⟩]⟩,  -- CLK_XING_OVR
  ⟨0x130014, 1, 0x10000000000, 1, 0x0, 4, [⟨0, 17, .w1c, 0⟩]⟩,  -- CLK_XING_STALL
  ⟨0x130100, 1, 0x10000000000, 1, 0x0, 4, [⟨0, 3, .ro, 0⟩, ⟨3, 1, .w1c, 0⟩, ⟨4, 1, .w1c, 0⟩, ⟨5, 1, .w1c, 0⟩, ⟨6, 1, .w1c, 0⟩]⟩,  -- RST_CAUSE
  ⟨0x130108, 1, 0x10000000000, 1, 0x0, 4, [⟨0, 5, .rw, 0⟩, ⟨5, 1, .ev, 0⟩, ⟨6, 1, .ro, 0⟩]⟩,  -- RST_DIE
  ⟨0x130200, 1, 0x10000000000, 1, 0x0, 4, [⟨0, 1, .w1c, 0⟩]⟩,  -- PWR_STATUS
  ⟨0x130204, 1, 0x10000000000, 1, 0x0, 4, [⟨0, 1, .ro, 0⟩, ⟨1, 2, .ro, 0⟩, ⟨3, 1, .ro, 0⟩, ⟨4, 1, .w1c, 0⟩, ⟨5, 7, .ro, 0⟩]⟩,  -- PWR_THERM
  ⟨0x1300f8, 1, 0x10000000000, 1, 0x0, 8, [⟨0, 64, .w1c, 0⟩]⟩  -- CLK_WRAP
  ]

/-- The registers of block PCITAB. -/
def regsPcitab : List RegSpec := [
  ⟨0x100000, 1, 0x10000000000, 4096, 0x20, 32, [⟨0, 1, .rw, 0⟩, ⟨1, 1, .rw, 0⟩, ⟨2, 1, .rw, 0⟩, ⟨3, 2, .rw, 0⟩, ⟨8, 6, .rw, 0⟩, ⟨32, 32, .rw, 0⟩, ⟨64, 64, .rw, 0⟩, ⟨128, 32, .rw, 0⟩]⟩,  -- PCI_WINDOW
  ⟨0x200000, 1, 0x10000000000, 2048, 0x10, 16, [⟨0, 64, .rw, 0⟩, ⟨64, 32, .rw, 0⟩, ⟨96, 1, .w1s, 1⟩]⟩,  -- PCI_MSIX
  ⟨0x208000, 1, 0x10000000000, 32, 0x8, 8, [⟨0, 64, .ro, 0⟩]⟩  -- PCI_PBA
  ]

/-- The registers of block PF1. -/
def regsPf1 : List RegSpec := [
  ⟨0x100c00000, 1, 0x10000000000, 1025, 0x10, 16, [⟨0, 64, .rw, 0⟩, ⟨64, 32, .rw, 0⟩, ⟨96, 1, .w1s, 1⟩]⟩,  -- NVM_MSIX1
  ⟨0x100c08000, 1, 0x10000000000, 17, 0x8, 8, [⟨0, 64, .ro, 0⟩]⟩  -- NVM_PBA1
  ]

/-- Every block with the addresses it spans (lowest, one past the highest). -/
def regBlocks : List (Nat × Nat × List RegSpec) := [
  (0x100, 0x128, regsCtl),
  (0x10000, 0x10100, regsRng),
  (0x90000000, 0x905ff500, regsLatCell),
  (0xa0000000, 0xa0b56000, regsLatHub),
  (0xb0000000, 0xb00b2f40, regsSpn),
  (0x40000, 0x40130, regsTln),
  (0xc0000000, 0xc00b0100, regsMem),
  (0x50000, 0x50100, regsXlt),
  (0x60000, 0x61400, regsTmt),
  (0xd0000000, 0xd03a0080, regsPkt),
  (0xe0000000, 0xe0f81800, regsTsh),
  (0x70000, 0x70480, regsPrt),
  (0x80000, 0x8c000, regsDnx),
  (0x90000, 0x90100, regsNvm),
  (0xa0000, 0xa0100, regsCkp),
  (0xb0000, 0xb01b0, regsKce),
  (0xc0000, 0xc0338, regsCrc),
  (0xd0000, 0xd3000, regsSlc),
  (0xf0000, 0xf0100, regsPci),
  (0xe0000, 0xe0140, regsFwc),
  (0x30000, 0x33100, regsMgt),
  (0x20000, 0x20034, regsCfg),
  (0x130000, 0x130208, regsClk),
  (0x100000, 0x208100, regsPcitab),
  (0x100c00000, 0x100c08088, regsPf1)
  ]

/-! Counters: place as for a register, class (R7), and the index of the first instance's wrap-sticky bit and the
step of it from instance to instance (R511). -/

/-- The counters of block RNG. -/
def ctrsRng : List CtrSpec := [
  ⟨0x10008, 1, 0x10000000000, 1, 0x0, .e, 0, 0⟩,  -- RNG_FETCHED
  ⟨0x10010, 1, 0x10000000000, 1, 0x0, .e, 1, 0⟩,  -- RNG_COMPLETED
  ⟨0x10018, 1, 0x10000000000, 1, 0x0, .e, 2, 0⟩,  -- RNG_CR_FULL
  ⟨0x10020, 1, 0x10000000000, 1, 0x0, .s, 0, 0⟩,  -- RNG_DB_STALE
  ⟨0x10024, 1, 0x10000000000, 1, 0x0, .s, 0, 0⟩,  -- RNG_DB_RANGE
  ⟨0x10028, 1, 0x10000000000, 1, 0x0, .s, 0, 0⟩  -- RNG_DB_STOPPED
  ]

/-- The counters of block LAT_CELL. -/
def ctrsLatCell : List CtrSpec := [
  ⟨0x90000408, 1536, 0x1000, 1, 0x0, .e, 0, 0⟩,  -- LAT_CELL_CYCLES
  ⟨0x90000410, 1536, 0x1000, 1, 0x0, .e, 1, 0⟩,  -- LAT_CELL_STALL_STRM
  ⟨0x90000418, 1536, 0x1000, 1, 0x0, .e, 2, 0⟩,  -- LAT_CELL_STALL_CREDIT
  ⟨0x90000420, 1536, 0x1000, 1, 0x0, .e, 3, 0⟩,  -- LAT_CELL_SLOT_EMPTY
  ⟨0x90000428, 1536, 0x1000, 1, 0x0, .s, 0, 0⟩,  -- LAT_CELL_STORE_CE
  ⟨0x9000042c, 1536, 0x1000, 1, 0x0, .s, 0, 0⟩,  -- LAT_CELL_LINK_CE
  ⟨0x90000430, 1536, 0x1000, 1, 0x0, .s, 0, 0⟩  -- LAT_CELL_STORE_UE
  ]

/-- The counters of block SPN. -/
def ctrsSpn : List CtrSpec := [
  ⟨0xb0000100, 12, 0x10000, 4, 0x10, .e, 0, 2⟩,  -- SPN_RES_EMPTY
  ⟨0xb0000108, 12, 0x10000, 4, 0x10, .e, 1, 2⟩  -- SPN_ARB_CRUMBS
  ]

/-- The counters of block TLN. -/
def ctrsTln : List CtrSpec := [
  ⟨0x40100, 1, 0x10000000000, 1, 0x0, .e, 0, 0⟩,  -- TLN_LATE_TX
  ⟨0x40108, 1, 0x10000000000, 1, 0x0, .e, 1, 0⟩,  -- TLN_LATE_RX
  ⟨0x40110, 1, 0x10000000000, 1, 0x0, .e, 2, 0⟩,  -- TLN_LATE_WINDOWS
  ⟨0x40118, 1, 0x10000000000, 1, 0x0, .e, 3, 0⟩,  -- TLN_GATE_HOLD
  ⟨0x40120, 1, 0x10000000000, 1, 0x0, .s, 0, 0⟩,  -- TLN_STALE_MAP
  ⟨0x40124, 1, 0x10000000000, 1, 0x0, .s, 0, 0⟩  -- TLN_ALIGN_LOSS
  ]

/-- The counters of block MEM. -/
def ctrsMem : List CtrSpec := [
  ⟨0xc0000100, 12, 0x10000, 1, 0x0, .e, 0, 0⟩,  -- MEM_RMW
  ⟨0xc0000108, 12, 0x10000, 1, 0x0, .e, 1, 0⟩,  -- MEM_CHECK_MISS
  ⟨0xc0000110, 12, 0x10000, 1, 0x0, .e, 2, 0⟩,  -- MEM_SCRUB_PASSES
  ⟨0xc0000118, 12, 0x10000, 1, 0x0, .s, 0, 0⟩,  -- MEM_CE
  ⟨0xc000011c, 12, 0x10000, 1, 0x0, .s, 0, 0⟩,  -- MEM_UE
  ⟨0xc0000120, 12, 0x10000, 1, 0x0, .s, 0, 0⟩,  -- MEM_CHECK_REBUILD
  ⟨0xc0000124, 12, 0x10000, 1, 0x0, .s, 0, 0⟩,  -- MEM_STORE_CE
  ⟨0xc0000128, 12, 0x10000, 1, 0x0, .s, 0, 0⟩,  -- MEM_STORE_UE
  ⟨0xc0000200, 12, 0x10000, 96, 0x4, .s, 0, 0⟩  -- MEM_CH_CE
  ]

/-- The counters of block XLT. -/
def ctrsXlt : List CtrSpec := [
  ⟨0x50100, 1, 0x10000000000, 1, 0x0, .e, 0, 0⟩,  -- XLT_WALKS
  ⟨0x50108, 1, 0x10000000000, 1, 0x0, .e, 1, 0⟩,  -- XLT_WALK_HITS
  ⟨0x50110, 1, 0x10000000000, 1, 0x0, .e, 2, 0⟩,  -- XLT_FAULTS
  ⟨0x50118, 1, 0x10000000000, 1, 0x0, .e, 3, 0⟩,  -- XLT_FAULT_JOINED
  ⟨0x50120, 1, 0x10000000000, 1, 0x0, .e, 4, 0⟩,  -- XLT_INVALS
  ⟨0x50128, 1, 0x10000000000, 1, 0x0, .s, 0, 0⟩,  -- XLT_TIMEOUTS
  ⟨0x5012c, 1, 0x10000000000, 1, 0x0, .s, 0, 0⟩,  -- XLT_STALE_RESP
  ⟨0x50130, 1, 0x10000000000, 1, 0x0, .s, 0, 0⟩  -- XLT_INVAL_DROP
  ]

/-- The counters of block TMT. -/
def ctrsTmt : List CtrSpec := [
  ⟨0x60100, 1, 0x10000000000, 1, 0x0, .e, 0, 0⟩,  -- TMT_TX_PKTS
  ⟨0x60108, 1, 0x10000000000, 1, 0x0, .e, 1, 0⟩,  -- TMT_RX_PKTS
  ⟨0x60110, 1, 0x10000000000, 1, 0x0, .e, 2, 0⟩,  -- TMT_RETX
  ⟨0x60118, 1, 0x10000000000, 1, 0x0, .e, 3, 0⟩,  -- TMT_RX_DUP
  ⟨0x60120, 1, 0x10000000000, 1, 0x0, .e, 4, 0⟩,  -- TMT_ECN_CE
  ⟨0x60128, 1, 0x10000000000, 1, 0x0, .s, 0, 0⟩,  -- TMT_RX_BAD
  ⟨0x6012c, 1, 0x10000000000, 1, 0x0, .s, 0, 0⟩,  -- TMT_RX_AGED
  ⟨0x60130, 1, 0x10000000000, 1, 0x0, .s, 0, 0⟩,  -- TMT_RX_OUT_WINDOW
  ⟨0x60134, 1, 0x10000000000, 1, 0x0, .s, 0, 0⟩,  -- TMT_RX_ACCESS
  ⟨0x60138, 1, 0x10000000000, 1, 0x0, .s, 0, 0⟩,  -- TMT_RX_NO_REORDER
  ⟨0x6013c, 1, 0x10000000000, 1, 0x0, .s, 0, 0⟩,  -- TMT_AUTH_FAIL
  ⟨0x60140, 1, 0x10000000000, 1, 0x0, .s, 0, 0⟩,  -- TMT_CTR_REFUSED
  ⟨0x60144, 1, 0x10000000000, 1, 0x0, .s, 0, 0⟩  -- TMT_RNR
  ]

/-- The counters of block PKT. -/
def ctrsPkt : List CtrSpec := [
  ⟨0xd0000010, 4, 0x100000, 1, 0x0, .e, 0, 0⟩,  -- PKT_RX_FRAMES
  ⟨0xd0000018, 4, 0x100000, 1, 0x0, .e, 1, 0⟩,  -- PKT_TMT_FRAMES
  ⟨0xd0000020, 4, 0x100000, 1, 0x0, .e, 2, 0⟩,  -- PKT_MISSES
  ⟨0xd0000028, 4, 0x100000, 1, 0x0, .e, 3, 0⟩,  -- PKT_EXC_SENT
  ⟨0xd0000030, 4, 0x100000, 1, 0x0, .s, 0, 0⟩,  -- PKT_PARSE_FAIL
  ⟨0xd0000034, 4, 0x100000, 1, 0x0, .s, 0, 0⟩,  -- PKT_EXC_DROP
  ⟨0xd0000038, 4, 0x100000, 1, 0x0, .s, 0, 0⟩,  -- PKT_RX_OVERSIZE
  ⟨0xd000003c, 4, 0x100000, 1, 0x0, .s, 0, 0⟩,  -- PKT_TX_OVERSIZE
  ⟨0xd0000040, 4, 0x100000, 1, 0x0, .s, 0, 0⟩,  -- PKT_BAD_ACTION
  ⟨0xd0000044, 4, 0x100000, 1, 0x0, .s, 0, 0⟩,  -- PKT_RECIRC_LIMIT
  ⟨0xd0000048, 4, 0x100000, 1, 0x0, .s, 0, 0⟩,  -- PKT_TABLE_UE
  ⟨0xd000004c, 4, 0x100000, 1, 0x0, .s, 0, 0⟩,  -- PKT_DQ_FULL
  ⟨0xd0000050, 4, 0x100000, 1, 0x0, .s, 0, 0⟩  -- PKT_DQ_OVERSIZE
  ]

/-- The counters of block TSH. -/
def ctrsTsh : List CtrSpec := [
  ⟨0xe0000010, 4, 0x400000, 1, 0x0, .e, 0, 0⟩,  -- TSH_TX_FRAMES
  ⟨0xe0000018, 4, 0x400000, 1, 0x0, .s, 0, 0⟩,  -- TSH_TAIL_DROP
  ⟨0xe000001c, 4, 0x400000, 1, 0x0, .s, 0, 0⟩,  -- TSH_PFC_HEADROOM_DROP
  ⟨0xe0000020, 4, 0x400000, 1, 0x0, .s, 0, 0⟩,  -- TSH_PAUSE_RX
  ⟨0xe0000024, 4, 0x400000, 1, 0x0, .s, 0, 0⟩,  -- TSH_COLOUR_DROP
  ⟨0xe0300000, 4, 0x400000, 49152, 0x8, .m, 0, 0⟩  -- TSH_METER_COUNT
  ]

/-- The counters of block PRT. -/
def ctrsPrt : List CtrSpec := [
  ⟨0x71000, 1, 0x10000000000, 32, 0x40, .e, 0, 2⟩,  -- PRT_FEC_CW
  ⟨0x71008, 1, 0x10000000000, 32, 0x40, .e, 1, 2⟩,  -- PRT_FEC_CORR
  ⟨0x71010, 1, 0x10000000000, 32, 0x40, .s, 0, 0⟩,  -- PRT_FEC_UNCORR
  ⟨0x71014, 1, 0x10000000000, 32, 0x40, .s, 0, 0⟩,  -- PRT_LINK_DOWN
  ⟨0x71018, 1, 0x10000000000, 32, 0x40, .s, 0, 0⟩  -- PRT_RX_FCS
  ]

/-- The counters of block DNX. -/
def ctrsDnx : List CtrSpec := [
  ⟨0x80800, 1, 0x10000000000, 16, 0x40, .e, 0, 3⟩,  -- DNX_TX_FLITS
  ⟨0x80808, 1, 0x10000000000, 16, 0x40, .e, 1, 3⟩,  -- DNX_RX_FLITS
  ⟨0x80810, 1, 0x10000000000, 16, 0x40, .e, 2, 3⟩,  -- DNX_REPLAYS
  ⟨0x80818, 1, 0x10000000000, 16, 0x40, .s, 0, 0⟩,  -- DNX_CRC_ERR
  ⟨0x8081c, 1, 0x10000000000, 16, 0x40, .s, 0, 0⟩,  -- DNX_RETRAINS
  ⟨0x80820, 1, 0x10000000000, 16, 0x40, .s, 0, 0⟩,  -- DNX_BAD_MSG
  ⟨0x80824, 1, 0x10000000000, 16, 0x40, .s, 0, 0⟩,  -- DNX_IN_DENIED
  ⟨0x80828, 1, 0x10000000000, 16, 0x40, .s, 0, 0⟩,  -- DNX_LATE_CPL
  ⟨0x8082c, 1, 0x10000000000, 16, 0x40, .s, 0, 0⟩  -- DNX_IRQ_DROP
  ]

/-- The counters of block NVM. -/
def ctrsNvm : List CtrSpec := [
  ⟨0x90100, 1, 0x10000000000, 1, 0x0, .e, 0, 0⟩,  -- NVM_CMDS
  ⟨0x90108, 1, 0x10000000000, 1, 0x0, .e, 1, 0⟩,  -- NVM_BATCHES
  ⟨0x90110, 1, 0x10000000000, 1, 0x0, .e, 2, 0⟩,  -- NVM_HOME_BLOCKS
  ⟨0x90118, 1, 0x10000000000, 1, 0x0, .e, 3, 0⟩,  -- NVM_CACHE_WAIT
  ⟨0x90120, 1, 0x10000000000, 1, 0x0, .s, 0, 0⟩,  -- NVM_REPLAYED
  ⟨0x90124, 1, 0x10000000000, 1, 0x0, .s, 0, 0⟩,  -- NVM_DRIVE_ERR
  ⟨0x90128, 1, 0x10000000000, 1, 0x0, .s, 0, 0⟩  -- NVM_PEER_LOST
  ]

/-- The counters of block CKP. -/
def ctrsCkp : List CtrSpec := [
  ⟨0xa0100, 1, 0x10000000000, 1, 0x0, .e, 0, 0⟩,  -- CKP_BYTES_COPIED
  ⟨0xa0108, 1, 0x10000000000, 1, 0x0, .e, 1, 0⟩,  -- CKP_GUARD_WAITS
  ⟨0xa0110, 1, 0x10000000000, 1, 0x0, .e, 2, 0⟩,  -- CKP_OOO_TAKES
  ⟨0xa0118, 1, 0x10000000000, 1, 0x0, .e, 3, 0⟩,  -- CKP_SNAPSHOTS
  ⟨0xa0120, 1, 0x10000000000, 1, 0x0, .s, 0, 0⟩,  -- CKP_DIGEST_FAIL
  ⟨0xa0124, 1, 0x10000000000, 1, 0x0, .s, 0, 0⟩,  -- CKP_SATURATED
  ⟨0xa0128, 1, 0x10000000000, 1, 0x0, .s, 0, 0⟩,  -- CKP_GUARD_LOST
  ⟨0xa012c, 1, 0x10000000000, 1, 0x0, .s, 0, 0⟩  -- CKP_HB_MISSED
  ]

/-- The counters of block KCE. -/
def ctrsKce : List CtrSpec := [
  ⟨0xb0200, 1, 0x10000000000, 1, 0x0, .e, 0, 0⟩,  -- KCE_OPS
  ⟨0xb0208, 1, 0x10000000000, 1, 0x0, .e, 1, 0⟩,  -- KCE_SUSPENDS
  ⟨0xb0210, 1, 0x10000000000, 1, 0x0, .s, 0, 0⟩,  -- KCE_DUAL_RETRY
  ⟨0xb0214, 1, 0x10000000000, 1, 0x0, .s, 0, 0⟩,  -- KCE_DUAL_FAIL
  ⟨0xb0218, 1, 0x10000000000, 1, 0x0, .s, 0, 0⟩,  -- KCE_AUTH_FAIL
  ⟨0xb021c, 1, 0x10000000000, 1, 0x0, .s, 0, 0⟩,  -- KCE_UNWRAP_FAIL
  ⟨0xb0220, 1, 0x10000000000, 4, 0x4, .s, 0, 0⟩  -- KCE_LC_PARITY
  ]

/-- The counters of block SLC. -/
def ctrsSlc : List CtrSpec := [
  ⟨0xd4000, 1, 0x10000000000, 64, 0x10, .e, 0, 1⟩,  -- SLC_FETCHED
  ⟨0xd4008, 1, 0x10000000000, 64, 0x10, .s, 0, 0⟩  -- SLC_REFUSED
  ]

/-- The counters of block PCI. -/
def ctrsPci : List CtrSpec := [
  ⟨0xf0100, 1, 0x10000000000, 1, 0x0, .e, 0, 0⟩,  -- PCI_RD_REQ
  ⟨0xf0108, 1, 0x10000000000, 1, 0x0, .s, 0, 0⟩,  -- PCI_CPL_TIMEOUT
  ⟨0xf010c, 1, 0x10000000000, 1, 0x0, .s, 0, 0⟩,  -- PCI_UNEXP_CPL
  ⟨0xf0110, 1, 0x10000000000, 1, 0x0, .s, 0, 0⟩,  -- PCI_CPL_ERR
  ⟨0xf0114, 1, 0x10000000000, 1, 0x0, .s, 0, 0⟩,  -- PCI_WIN_DENIED
  ⟨0xf0118, 1, 0x10000000000, 1, 0x0, .s, 0, 0⟩,  -- PCI_WIN_UE
  ⟨0xf011c, 1, 0x10000000000, 1, 0x0, .s, 0, 0⟩,  -- PCI_BAR_BAD
  ⟨0xf0120, 1, 0x10000000000, 1, 0x0, .s, 0, 0⟩,  -- PCI_BME_CUT
  ⟨0xf0124, 1, 0x10000000000, 1, 0x0, .s, 0, 0⟩  -- PCI_POISON_WR
  ]

/-- The counters of block FWC. -/
def ctrsFwc : List CtrSpec := [
  ⟨0xe0200, 1, 0x10000000000, 1, 0x0, .e, 0, 0⟩,  -- FWC_RESTARTS
  ⟨0xe0208, 1, 0x10000000000, 1, 0x0, .e, 1, 0⟩,  -- FWC_EXC_FRAMES
  ⟨0xe0210, 1, 0x10000000000, 1, 0x0, .s, 0, 0⟩,  -- FWC_CRASHES
  ⟨0xe0214, 1, 0x10000000000, 1, 0x0, .s, 0, 0⟩,  -- FWC_COMP_FAULTS
  ⟨0xe0218, 1, 0x10000000000, 1, 0x0, .s, 0, 0⟩  -- FWC_IMAGE_UE
  ]

/-- The counters of block MGT. -/
def ctrsMgt : List CtrSpec := [
  ⟨0x30100, 1, 0x10000000000, 1, 0x0, .e, 0, 0⟩,  -- MGT_FLOW_RECORDS
  ⟨0x30108, 1, 0x10000000000, 1, 0x0, .e, 1, 0⟩,  -- MGT_FLOW_MSGS
  ⟨0x30110, 1, 0x10000000000, 1, 0x0, .s, 0, 0⟩,  -- MGT_FLOW_EVICT
  ⟨0x30114, 1, 0x10000000000, 1, 0x0, .s, 0, 0⟩,  -- MGT_FLOW_DROP
  ⟨0x30118, 1, 0x10000000000, 1, 0x0, .s, 0, 0⟩,  -- MGT_MCTP_DROP
  ⟨0x3011c, 1, 0x10000000000, 1, 0x0, .s, 0, 0⟩,  -- MGT_EVENT_LOST
  ⟨0x30120, 1, 0x10000000000, 1, 0x0, .s, 0, 0⟩,  -- MGT_SPDM_ERR
  ⟨0x32010, 1, 0x10000000000, 9, 0x20, .e, 2, 1⟩  -- MGT_RAIL_ENERGY
  ]

/-- The counters of block CLK. -/
def ctrsClk : List CtrSpec := [
  ⟨0x130300, 1, 0x10000000000, 1, 0x0, .s, 0, 0⟩,  -- CLK_STALLS
  ⟨0x130304, 1, 0x10000000000, 1, 0x0, .s, 0, 0⟩,  -- RST_DIE_RESETS
  ⟨0x130308, 1, 0x10000000000, 1, 0x0, .s, 0, 0⟩,  -- PWR_BROWNOUTS
  ⟨0x13030c, 1, 0x10000000000, 1, 0x0, .s, 0, 0⟩,  -- PWR_TRIPS
  ⟨0x130310, 1, 0x10000000000, 1, 0x0, .e, 0, 0⟩  -- PWR_THROTTLE_MS
  ]

/-- The counters of block LAT_HUB. -/
def ctrsLatHub : List CtrSpec := [
  ⟨0xa0000008, 12, 0x100000, 1, 0x0, .e, 0, 0⟩  -- LAT_HUB_FRAMES
  ]

/-- Every counter block: its snap register (unit 0), the number of units and their stride, and its counters (R8). -/
def ctrBlocks : List CtrBlock := [
  ⟨0x10000, 1, 0x10000000000, ctrsRng⟩,
  ⟨0x90000400, 1536, 0x1000, ctrsLatCell⟩,
  ⟨0xb0000000, 12, 0x10000, ctrsSpn⟩,
  ⟨0x40000, 1, 0x10000000000, ctrsTln⟩,
  ⟨0xc0000000, 12, 0x10000, ctrsMem⟩,
  ⟨0x50000, 1, 0x10000000000, ctrsXlt⟩,
  ⟨0x60000, 1, 0x10000000000, ctrsTmt⟩,
  ⟨0xd0000000, 4, 0x100000, ctrsPkt⟩,
  ⟨0xe0000000, 4, 0x400000, ctrsTsh⟩,
  ⟨0x70000, 1, 0x10000000000, ctrsPrt⟩,
  ⟨0x80000, 1, 0x10000000000, ctrsDnx⟩,
  ⟨0x90000, 1, 0x10000000000, ctrsNvm⟩,
  ⟨0xa0000, 1, 0x10000000000, ctrsCkp⟩,
  ⟨0xb0000, 1, 0x10000000000, ctrsKce⟩,
  ⟨0xd0000, 1, 0x10000000000, ctrsSlc⟩,
  ⟨0xf0000, 1, 0x10000000000, ctrsPci⟩,
  ⟨0xe0000, 1, 0x10000000000, ctrsFwc⟩,
  ⟨0x30000, 1, 0x10000000000, ctrsMgt⟩,
  ⟨0x130000, 1, 0x10000000000, ctrsClk⟩,
  ⟨0xa0000000, 12, 0x100000, ctrsLatHub⟩
  ]

end Sys2Proof.Machine
end

