-- ==== Sys2Proof/Machine/TypesCell.lean ====
section
/-! DEFINITION. Plain data types of the sequencers and their cells (03_cells, 05_isa, 19_firmware) and of the lattice. -/

namespace Sys2Proof.Machine

/-- A tagged value: a 4-bit tag of R118 and a 64-bit payload. -/
structure TW where
  tag : Nat
  val : Nat
deriving DecidableEq, Repr

/-- EMPTY with payload 0 (R117, R118). -/
def TW.empty : TW := ⟨0, 0⟩

/-- A multiplier or divider result in flight (R122, R123): the register (32 to 35 m0 to m3, 36 and 37 d0 and d1), the
issue cycle it falls due in, its tag and exact value, whether it adds to the register (MAC), the width, and whether it
sets OV whatever the addition does; where its instruction stands. -/
structure Flight where
  reg : Nat
  due : Nat
  tag : Nat
  val : Int
  mac : Bool
  width : Nat
  ov : Bool
  pc : Nat := 0
deriving DecidableEq, Repr

/-- What a unit holds until its instruction finishes (R124, R133): the CS flags it will set and the trap it will raise
(cause, tval, instruction length). -/
structure UnitWork where
  flags : Nat
  trap : Option (Nat × Nat × Nat)
deriving DecidableEq, Repr

/-- What a sequencer waits for in the middle of an instruction (R75, R137, R517). -/
inductive Stall
  /-- LDP: destination, tag, size, the ADDR payload -/
  | load (rd tag size addr : Nat)
  /-- pool atomic: kind 0 XADD, 1 XCHG, 2 XCAS; destination, its tag, data, swap value, the ADDR payload -/
  | atomic (kind rd tag data swap addr : Nat)
  /-- neighbour access: window 1 to 4, store offset; kind 0 XADD, 1 XCHG, 2 XCAS, 3 LD, 4 ST -/
  | nbr (kind window off rd tag data : Nat) (swap : TW)
  /-- a unit's operand lines in neighbours' stores: the windows of the requests still to be served, in order -/
  | slots (left : List Nat)
  /-- WFI -/
  | wfi
deriving DecidableEq, Repr

/-- A DRAM stream's progress (R80): row and line within it of the next line to issue, lines issued, consumed and produced
since start, and read lines in flight (index, ADDR payload). -/
structure Strm where
  busy : Bool
  row : Nat
  col : Nat
  issued : Nat
  cons : Nat
  prod : Nat
  inFlight : List (Nat × Nat)
deriving DecidableEq, Repr

/-- A stream that has not started. -/
def Strm.idle : Strm := ⟨false, 0, 0, 0, 0, 0, []⟩

/-- The state of a sequencer: a stage cell (number 0 to 1,535) or a control core (1,536 + k). Register keys: 0 to 31 g,
32 to 35 m, 36 and 37 d; unlisted registers are EMPTY. Lane masks unlisted are all ones; tile elements unlisted are +0. -/
structure Seq where
  r : Tbl TW
  k : Tbl Nat
  tiles : Tbl Nat
  cs : Nat
  pc : Nat
  vl : Nat
  icount : Nat
  tvec : Nat
  epc : Nat
  cause : Nat
  tval : Nat
  seed : Nat
  step : Nat
  sridx : Nat
  wave : Nat
  flight : List Flight
  units : Tbl UnitWork
  deferred : List (Nat × Nat × Nat)
  stall : Option Stall
  /-- the bytes fetched ahead of pc (R124) -/
  pre : List Byte
  /-- an SFENCE whose earlier writes are not yet all visible -/
  fence : Bool
  /-- the cell's part of the wave has ended -/
  ended : Bool
  /-- a halt that waits for the next instruction boundary (R86) -/
  haltAt : Bool
  /-- pool writes in flight, oldest first: stream, ADDR payload, and the pieces of the line by DPA (R82, R137) -/
  wq : List (Nat × Nat × List (Nat × List Byte))
  strm : Tbl Strm
  /-- S1's reads and writes that are not yet done, in order of issue: a line read, or a line or STP written (R137) -/
  s1 : List Bool
  /-- length of the instruction that `stall` has cut short -/
  stallLen : Nat
  /-- its last try to issue found an interlock or a wait: it is stalled (R72, R81) -/
  waits : Bool
  /-- the instruction at this pc has had all its store slots (R75) -/
  slotsDone : Option Nat
  /-- the loaded image's pipeline, stage and instance -/
  pipe : Option (Nat × Nat × Nat)
  /-- privileged state of a control core (R436) -/
  comp : Nat
  ivec : Nat
  iepc : Nat
  icause : Nat
  ival : Nat
  imask : Nat
  mpu : Tbl Nat
  /-- pending interrupt causes with their values (R437) -/
  pend : List (Nat × Nat)
deriving DecidableEq, Repr

/-- The state of R117 and zero everywhere else. -/
def Seq.fresh : Seq :=
  { r := [], k := [], tiles := [], cs := 0, pc := 0, vl := 0, icount := 0, tvec := 0, epc := 0, cause := 0, tval := 0, seed := 0
    step := 0, sridx := 0, wave := 0, flight := [], units := [], deferred := [], stall := none, pre := [], fence := false
    ended := false, haltAt := false, wq := [], strm := [], s1 := [], stallLen := 0, waits := false, slotsDone := none, pipe := none, comp := 0, ivec := 0, iepc := 0, icause := 0, ival := 0
    imask := 0, mpu := [], pend := [] }

/-- A crumb on a lattice link (R70, R73): its pipeline and the place of its channel in the pipeline's list, the hub, link,
direction and slot it travels in, its eight tagged words. -/
structure Crumb where
  pipe : Nat
  chan : Nat
  hub : Nat
  link : Nat
  dir : Nat
  slot : Nat
  words : List TW
deriving DecidableEq, Repr

/-- A crumb at a spine gate (R79): the hub, the gate's spine link, and whether it has arrived there over the spine
(`inb`) or waits in the gate's queue to leave by it. -/
structure GateCrumb where
  hub : Nat
  link : Nat
  inb : Bool
  pipe : Nat
  chan : Nat
  words : List TW
deriving DecidableEq, Repr

/-- The lattice and the spine: live frame tables by hub, key (link × 2 + direction) × 256 + slot; live spine tables by
hub, key link × 1,000 + slot; crumbs in flight; gate queues; credit records (pipeline, channel, credits). Unlisted
entries are 0x03FF. -/
structure Lattice where
  frames : Tbl (Tbl Nat)
  spines : Tbl (Tbl Nat)
  crumbs : List Crumb
  gates : List GateCrumb
  credits : List (Nat × Nat × Nat)
deriving DecidableEq, Repr

/-! ## Pipelines (R146 to R158) -/

/-- A stage of an image with the cells of its unit in member order (R147, R148). -/
structure Stage where
  unit : Nat
  always : Bool
  progOff : Nat
  progLen : Nat
  loadOff : Nat
  nbr : Nat
  weight : Nat
  cells : List Nat
deriving DecidableEq, Repr

/-- A channel of a loaded pipeline (R74, R147): its entry's fields; sender and receiver cells; sender credits; crumbs
released for sending so far and sent so far; crumbs received and freed so far. -/
structure Chan where
  hub : Nat
  num : Nat
  sCell : Nat
  sIdx : Nat
  rCell : Nat
  rIdx : Nat
  buf : Nat
  size : Nat
  credits : Nat
  put : Nat
  sent : Nat
  recv : Nat
  freed : Nat
deriving DecidableEq, Repr

/-- The sections of a checked image (R147); frame and spine entries as their 4-byte words, grants and initial values
field by field. -/
structure Image where
  stages : List Stage
  chans : List Chan
  frames : List Nat
  spines : List Nat
  /-- stage, index, region parameter, permissions, base, length -/
  grants : List (Nat × Nat × Nat × Nat × Nat × Nat)
  entryCount : Nat
  entries : List Nat
  /-- stage, instance, register, tag, payload -/
  inits : List (Nat × Nat × Nat × Nat × Nat)
  dvfs : List Nat
  /-- program bytes of each stage -/
  programs : List (List Byte)
  /-- the header's digest as a number -/
  digest : Nat
deriving DecidableEq, Repr

/-- What one wave runs: the descriptor it belongs to, and its parameters (R148, R153). -/
structure WaveReq where
  sr : Nat
  tag : Nat
  entry : Nat
  items : Nat
  step : Nat
  args : List Nat
  index : Nat
  armed : Bool
  onDone : Option Nat
deriving DecidableEq, Repr

/-- A running wave: `started` once its instances have begun; the cells that run with their LAT_CELL_CYCLES at start. -/
structure Wave where
  req : WaveReq
  number : Nat
  started : Bool
  cells : List (Nat × Nat)
deriving DecidableEq, Repr

/-- An active ARM (R154): its request, trigger source, flags, limit, waves begun, the PIPE_DISARM that ends it,
a pending overrun or lost source, and the time of the next matching beat of a beat source. -/
structure Arm where
  req : WaveReq
  source : Nat
  sourceId : Nat
  flags : Nat
  limit : Nat
  run : Nat
  disarm : Option (Nat × Nat)
  overrun : Bool
  lost : Bool
  nextBeat : Nat
deriving DecidableEq, Repr

/-- Pipeline states (R158). -/
inductive PState
  | absent | loading | loaded | armed | running | halted | stopped
deriving DecidableEq, Repr

/-- A pipeline of the table. -/
structure Pipe where
  state : PState
  prev : PState
  slice : Nat
  img : Image
  regions : List Nat
  pending : Nat
  late : Nat
  waves : Nat
  wave : Option Wave
  queue : List WaveReq
  arm : Option Arm
  /-- the collective plan it is embedded in -/
  plan : Option Nat
  /-- the descriptor that loads it -/
  loader : Nat × Nat
  /-- feuille entries it holds bound (R31) -/
  bound : List Nat
deriving DecidableEq, Repr

/-- The pipelines: table by number, generation of each number. -/
structure Pipes where
  tab : Tbl Pipe
  gen : Tbl Nat
  /-- completions of stopped waves held until the writes of these cells have landed (R160, R161): sr, tag, cells -/
  holds : List (Nat × Nat × List Nat)
deriving DecidableEq, Repr

end Sys2Proof.Machine
end

