-- ==== Sys2Proof/Machine/TypesHost.lean ====
section
/-! DEFINITION. Plain data types of the control path: rings and completions (02_rings), slices and regions
(17_slices, 09_memory), translation (10_translation), the host endpoint (18_pcie), power states and feuilles
(01_module). -/

namespace Sys2Proof.Machine

/-! ## Slices (R403, R410) -/

/-- The states of a slice (R410). -/
inductive SlState
  | absent | active | quiescing | quiesced | orphaned | error
deriving DecidableEq, Repr

/-- One slice: its state, the state it left for ORPHANED, whether its teardown is in progress, what is retiring from it (R409), the
weight and rate in effect (R408), the ring whose turn to be fetched it is and the reads left to it (R43), and what has been fetched
since the second of its fetch rate began (R404). Its quotas are SLC_QUOTA. -/
structure Slice where
  state : SlState
  prev : SlState
  tearing : Bool
  retGroups : Nat
  weight : Nat
  rate : Nat
  turn : Nat := 0
  left : Nat := 0
  since : Nat := 0
  taken : Nat := 0
deriving DecidableEq, Repr

/-! ## Rings (R37 to R49) -/

/-- Where a ring lies (R38): location code, link, base, log2 of its entries, and the PASID or region handle. -/
structure RingLoc where
  loc : Nat
  link : Nat
  base : Nat
  log2 : Nat
  por : Nat
deriving DecidableEq, Repr

/-- A submission ring: `fetched` entries have been read since its creation, and tail is that of the latest accepted doorbell (R42, R59). -/
structure Sr where
  slice : Nat
  at' : RingLoc
  weight : Nat
  fallback : Nat
  fetched : Nat
  tail : Nat
  /-- entries up to this count since creation complete FIRMWARE_ERROR when they are read: their core went OFFLINE (R443) -/
  doomed : Nat
deriving DecidableEq, Repr

/-- The next entry of a ring that is fetched (R47, R59). -/
def Sr.head (r : Sr) : Nat := r.fetched % 2 ^ r.at'.log2

/-- The entries that a ring's doorbells cover and that have not been read (R42). -/
def Sr.covered (r : Sr) : Nat := (r.tail + 2 ^ r.at'.log2 - r.head) % 2 ^ r.at'.log2

/-- A completion ring: head of the latest accepted doorbell, `freed` entries freed and `written` entries written since
creation, the moderation state of R55 (the completions written since the last event, and when the first of them was), and whether a write met
an uncorrectable line (R516). -/
structure Cr where
  slice : Nat
  at' : RingLoc
  eq : Nat
  modCount : Nat
  modTime : Nat
  head : Nat
  freed : Nat
  written : Nat
  since : Nat
  timer : Option Nat
  stuck : Bool
deriving DecidableEq, Repr

/-- An event queue (R54). -/
structure Eq where
  slice : Nat
  at' : RingLoc
  vector : Nat
  head : Nat
  freed : Nat
  written : Nat
  stuck : Bool
deriving DecidableEq, Repr

/-- A due event that is not yet written (R54, R55). -/
structure Ev where
  eq : Nat
  source : Nat
  kind : Nat
  detail : Nat
  time : Nat
deriving DecidableEq, Repr

/-- A committed completion that is not yet written (R47, R49). `counted` says that RNG_CR_FULL has counted it; `after` names the
descriptor whose completion must be written before it (R53). -/
structure Cpl where
  sr : Nat
  tag : Nat
  cr : Nat
  slice : Nat
  status : Nat
  unit : Nat
  detail : Nat
  result : Nat
  time : Nat
  irq : Bool
  counted : Bool
  after : Option (Nat × Nat) := none
deriving DecidableEq, Repr

/-- How far an outstanding descriptor has come: waiting for its start (a fence, R43); started, to be run by its own
command; running, with work in flight that later events end; stalled on a translation fault (R252); waiting for host
or accelerator data. -/
inductive JobPhase
  | waiting | started | running | faulted | reading
deriving DecidableEq, Repr

/-- An outstanding descriptor (R43, R46): its 64 bytes as a number, its place in ring order, how far it has come, the
bytes it has written so far, and the numbers its own family keeps while it runs. -/
structure Job where
  sr : Nat
  tag : Nat
  seq : Nat
  slice : Nat
  cr : Nat
  fence : Bool
  irq : Bool
  desc : Nat
  phase : JobPhase
  moved : Nat
  prog : List Nat
deriving DecidableEq, Repr

/-- The rings and everything that waits in them. -/
structure Rings where
  srs : Tbl Sr
  crs : Tbl Cr
  eqs : Tbl Eq
  srGen : Tbl Nat
  crGen : Tbl Nat
  eqGen : Tbl Nat
  jobs : List Job
  nextSeq : Nat
  unwritten : List Cpl
  events : List Ev
  leaseArmed : Bool
  leaseEnd : Nat
  /-- the slice whose turn to be fetched it is, and the reads left to it (R43) -/
  turn : Nat := 0
  left : Nat := 0
deriving DecidableEq, Repr

/-! ## Regions (R219, R220) -/

/-- A region entry (R220) with its granule list; refs are counted by this model as the spec's table names them. -/
structure Region where
  ecc : Bool
  interleave : Bool
  slice : Nat
  gen : Nat
  granules : List Nat
  refs : Nat
  listDpa : Nat
  hubMask : Nat
deriving DecidableEq, Repr

/-- A write that waits on the copy guard (R365): its bytes, the descriptor or command it belongs to (an owner number, 0 when none),
and its offset from the start of its access (R231). One with no bytes keeps the place of a ring entry, which is written by its own
command once the page is free (R516). -/
structure GuardWait where
  dpa : Nat
  bytes : List Byte
  owner : Nat
  off : Nat := 0
deriving DecidableEq, Repr

/-- The memories of the module and what protects them. -/
structure MemSt where
  /-- every byte the device holds, by DPA: pool, cell stores, hub stores, port buffers, control store -/
  bytes : Mem
  /-- the 4-bit tags of cell-store words, by the word's DPA (R64); unlisted is EMPTY -/
  tags : Tbl Nat
  /-- 64-byte pool lines and 8-byte store words that are uncorrectable, by DPA (R68, R230, R235) -/
  bad : List Nat
  /-- pool lines and store words with a correctable error, by DPA (R68, R229, R235) -/
  weak : List Nat
  /-- cell-store words read with a corrected error and not yet rewritten (R68) -/
  rewrite : List Nat
  /-- cached check lines, by the DPA of the check line; true is dirty (R226) -/
  checks : Tbl Bool
  /-- times of the corrected errors of a device channel, newest first, and channels the MC was told of (R229) -/
  ceTimes : Tbl (List Nat)
  ceTold : List Nat
  /-- guarded 4 KiB pages of pool DRAM, by DPA / 4,096, and the writes that wait on them in arrival order (R365) -/
  guard : List Nat
  guardWait : List GuardWait
  /-- owners of writes that waited and then met an uncorrectable line, with its offset in its access (R230) -/
  guardFail : Tbl Nat := []
  /-- device channels in power-down (R217) -/
  chDown : List Nat
  /-- refresh rate requirement last read from a device channel's die (R217) -/
  refreshRate : Tbl Nat
  regions : Tbl Region
  regionGen : Tbl Nat
  /-- allocations whose zero-fill runs: region number to (sr, tag) (R222) -/
  zeroing : List (Nat × Nat × Nat)
deriving DecidableEq, Repr

/-! ## Translation (R241 to R258) -/

/-- An ASID in effect (R243, R244). -/
structure Asid where
  mode : Nat
  slice : Nat
  pasid : Nat
  root : Nat
deriving DecidableEq, Repr

/-- A cached page-table entry: level 1 to 4 of the table it came from and the index path to it (R248). An ATS
translation is a level-1 leaf. -/
structure XCached where
  asid : Nat
  level : Nat
  path : Nat
  entry : Nat
  /-- whose cache: hubs 0 to 11, the TMT of port die p as 12 + p -/
  walker : Nat
deriving DecidableEq, Repr

/-- An access waiting on a fault: the descriptor (sr, tag), or a ring when `ring` is set (then sr is the ring number
and tag its kind), and the engine's requester bit (R253). -/
structure Waiter where
  ring : Bool
  sr : Nat
  tag : Nat
  req : Nat
  isWrite : Bool
  stopped : Bool
  /-- when its stall timeout began (R255) -/
  since : Nat
deriving DecidableEq, Repr

/-- An open fault of the fault table (R252 to R254); `written` is its record written, `late` an ATS slot whose fault
has left but whose PRG Response has not come (R258). -/
structure Fault' where
  gen : Nat
  asid : Nat
  page : Nat
  level : Nat
  reason : Nat
  reqs : Nat
  rd : Bool
  wr : Bool
  written : Bool
  ats : Bool
  late : Bool
  time : Nat
  waiters : List Waiter
deriving DecidableEq, Repr

/-- A faulting access that found no slot (R256). -/
structure Spilled where
  asid : Nat
  page : Nat
  level : Nat
  reason : Nat
  ats : Bool
  time : Nat
  waiter : Waiter
deriving DecidableEq, Repr

/-- Translation state. -/
structure Xlt where
  asids : Tbl Asid
  cache : List XCached
  /-- open faults by slot -/
  faults : Tbl Fault'
  /-- generation of each slot (R253) -/
  slotGen : Tbl Nat
  /-- accesses that stall without a slot (R256) -/
  spill : List Spilled
  /-- informational records waiting for ring space: the 32 bytes as a number (R247) -/
  info : List Nat
  /-- pending invalidations, oldest first: asid, sequence number (R249) -/
  invals : List (Nat × Nat)
  /-- records written since enable (R253) -/
  records : Nat
  /-- host-granted outstanding page requests left (R258) -/
  prgCredits : Nat
  /-- ATS enabled by the host on PF0 -/
  atsEnabled : Bool
  /-- PASID capability enabled by the host on PF0 -/
  pasidEnabled : Bool
  /-- page requests sent and not answered: slot -/
  prgOut : List Nat
  /-- ATS translation requests outstanding: asid, page, the access that waits -/
  atsOut : List (Nat × Nat × Waiter)
deriving DecidableEq, Repr

/-! ## The host endpoint (R418 to R434) -/

/-- What a host or accelerator read is for: the descriptor entries of a ring, data of a descriptor, or an AtomicOp that an ATOMIC_REQ performs in host memory (R271). A descriptor number sr of 65,536 or more stands for the
target side of QP sr − 65,536, tag then being the low bits of a PSN. -/
inductive ReadFor
  | ring (sr entry : Nat)
  | job (sr tag : Nat)
  | rxAtomic (qp psn : Nat)
deriving DecidableEq, Repr

/-- An outstanding non-posted host request (R426, R432): what it is for, and the place of its bytes in the operand it
belongs to. A request cut by R430 is discarded when it returns. -/
structure HostRead where
  fn : Nat
  addr : Nat
  len : Nat
  what : ReadFor
  pos : Nat
  discard : Bool
  /-- the request's AT field (R246) -/
  at' : Nat
  /-- when it was issued, from which its completion timer runs (R432) -/
  since : Nat
deriving DecidableEq, Repr

/-- A source operand of a descriptor that is being read from the host or an accelerator: the operand as the descriptor
names it, the bytes received so far in place, and how many requests have not returned. -/
structure Gather where
  sr : Nat
  tag : Nat
  loc : Nat
  handle : Nat
  off : Nat
  data : List Byte
  missing : Nat
deriving DecidableEq, Repr

/-- A descriptor whose outcome is settled but whose writes have not landed (R53, R333): the status it will commit, and the links on
which a landing read is outstanding. `over` says that its status has been committed already, by an abort, and only its entry waits. -/
structure Landing where
  sr : Nat
  tag : Nat
  status : Nat
  unit : Nat
  detail : Nat
  result : Nat
  links : List Nat
  past : Bool := false
deriving DecidableEq, Repr

/-- The link states of R428. -/
inductive LinkPm
  | l0 | l1 | l11 | l12
deriving DecidableEq, Repr

/-- A request of the host through BAR4 that waits behind a guarded write (R366, R423), with the window entry it was checked
against on arrival, or a sync of R424 behind such requests. -/
inductive HostReq
  | write (entry off : Nat) (bytes : List Byte)
  | read (entry off len : Nat)
  | sync (seq : Nat)
deriving DecidableEq, Repr

/-- The endpoint's state beside its registers. -/
structure Pcie where
  /-- host memory as this device has written it or last read it, by bus address -/
  host : Mem
  /-- outstanding requests by PCIe tag -/
  reads : Tbl HostRead
  nextTag : Nat
  /-- requests that wait for one of the outstanding ones of their function to end (R426), oldest first -/
  readWait : List HostRead
  /-- Max Read Request Size of PF0 in bytes (R426) -/
  mrrs : Nat
  /-- the completion timeout of PF0 in ns, none where it is disabled (R432) -/
  cplTime : Option Nat
  /-- source operands being gathered -/
  gathers : List Gather
  /-- links a descriptor has written and the last address it wrote there: sr, tag, link, address -/
  wroteLinks : List (Nat × Nat × Nat × Nat)
  landings : List Landing
  fnMask0 : Bool
  fnMask1 : Bool
  link : LinkPm
  linkUp : Bool
  /-- PERST# asserted -/
  perst : Bool
  /-- configuration requests answered with Retry Status: PF0, PF1 -/
  retry0 : Bool
  retry1 : Bool
  flr0 : Bool
  flr1 : Bool
  /-- when the FLR of PF0 and of PF1 began (R493) -/
  flrAt0 : Nat
  flrAt1 : Nat
  /-- when PERST# was deasserted last (R490) -/
  perstAt : Nat
  aer0 : Nat
  aer1 : Nat
  /-- BAR4 requests that wait in order (R366) -/
  held : List HostReq
  /-- window-sync numbers whose earlier requests have completed, not yet shown in `done` (R424) -/
  syncWait : List Nat
  atomicEnabled : Bool
  negWidth : Nat
deriving DecidableEq, Repr

/-! ## Power and feuilles (R24 to R36) -/

/-- The power state of a hub's cell array (R33, R35). -/
inductive HubPow
  | run | clockGated | powerGated | waking
deriving DecidableEq, Repr

/-- The device's whole state of power (R36, R449, R490). -/
inductive DevPow
  | off | boot | recovery | run | retention | meringue | railsOff
deriving DecidableEq, Repr

/-- A feuille table entry (R24). -/
structure Feu where
  valid : Bool
  mode : Nat
  owner : Nat
  granule : Nat
  depth : Nat
  cells : Nat
  gen : Nat
  members : List Nat
deriving DecidableEq, Repr

/-- Work dispatched through a feuille (R27 to R31): its descriptor, the entries it passed through, and for each cell of
it, in member order, the items it received and its terminal status once reached. -/
structure FeuWork where
  sr : Nat
  tag : Nat
  entries : List Nat
  parts : List (Nat × List (Nat × Nat) × Option Nat)
deriving DecidableEq, Repr

/-- A message the device sends: what it is, to whom, and its bytes or numbers. -/
inductive Out
  | readData (addr bytes value : Nat)
  | msix (fn vector : Nat)
  | mctp (binding : Nat) (kind cmd : Nat) (data : List Byte)
  | mcEvent (receiver : Nat) (data : List Byte)
  | hostRead (fn addr len at' : Nat)
  /-- the LTR value reported, in µs (R428) -/
  | ltr (us : Nat)
  | hostCpl (status : Nat) (data : List Byte)
  | ats (kind : Nat) (fields : List Nat)
  | frame (port sub : Nat) (bytes : List Byte)
  | tmt (qp path : Nat) (bytes : List Byte)
  | dnx (link : Nat) (bytes : List Byte)
  /-- to a drive: 1 write (no data: zeroes), 2 read, 3 write with FUA, 4 Flush, 5 Identify, 6 Device Self-test -/
  | drive (port op lba blocks : Nat) (data : List Byte)
  | pin (name : Nat) (level : Bool)
  | ptp (port kind : Nat) (fields : List Nat)
deriving DecidableEq, Repr

end Sys2Proof.Machine
end

