-- ==== Sys2Proof/Machine/TypesKeys.lean ====
section
/-! DEFINITION. Plain data types of the key and cipher engine and of the check-value units (16_security). -/

namespace Sys2Proof.Machine

/-- A key slot in use (R381, R382): owner, type, usage mask and key, the public key where the type has one, and whether its
record can no longer be read (R383). -/
structure KeySlot where
  slice : Nat
  kind : Nat
  usage : Nat
  key : List Byte
  pub : List Byte
  dead : Bool
deriving DecidableEq, Repr

/-- Where a KCE message stands (R394): in its queue, on a datapath pair, or in a context slot. -/
inductive KcePhase
  | queued | running | suspended
deriving DecidableEq, Repr

/-- A KCE message (R391 to R394): its descriptor, priority, order of arrival, when it last started, its checked output once
known with the bytes released, the key it will store, the status and result it commits, and whether it has been restarted
after a mismatch. -/
structure KceMsg where
  sr : Nat
  tag : Nat
  prio : Nat
  order : Nat
  started : Nat
  phase : KcePhase
  out : Option (List Byte)
  released : Nat
  newKey : Option KeySlot
  status : Nat
  result : Nat
  retried : Bool
deriving DecidableEq, Repr

/-- A check-value unit beside its registers (R401, R402): the w-bit register and the FIFO, whose entries are a size in
bytes and a value. -/
structure CrcUnit where
  reg : Nat
  fifo : List (Nat × Nat)
deriving DecidableEq, Repr

/-- The KCE: slots by number, generations, messages, its private keys and the device secret, and the CRC units. -/
structure Kce where
  slots : Tbl KeySlot
  gen : Tbl Nat
  msgs : List KceMsg
  nextOrder : Nat
  /-- the unique device secret, the device import key, and the alias and DeviceID keys (R395, R396), by number -/
  secrets : Tbl (List Byte)
  crcs : Tbl CrcUnit
deriving DecidableEq, Repr

end Sys2Proof.Machine
end

