-- ==== Sys2Proof/Machine/TypesMgmt.lean ====
section
/-! DEFINITION. Plain data types of the always-on side: management (20_management), flow records, firmware update
(21_update), clocks and resets (22_clocks), power and thermal limits (23_physical), the control cluster (19_firmware). -/

namespace Sys2Proof.Machine

/-- One queued platform event (R455): code, detail and the time base. -/
structure McEvent where
  code : Nat
  detail : Nat
  time : Nat
deriving DecidableEq, Repr

/-- An SPDM connection of one binding and endpoint (R459, R460): how far negotiation has come (0 none, 1 version, 2 capabilities,
3 algorithms), the messages exchanged for it, for digests and certificates, and for measurements since the last signature, and the
transcript hash of the last signed response. -/
structure Spdm where
  phase : Nat
  vca : List Byte
  certs : List Byte
  meas : List Byte
  signedHash : Option (List Byte)
deriving DecidableEq, Repr

/-- A tracked flow (R462, R463). -/
structure Flow where
  key : List Byte
  v6 : Bool
  packets : Nat
  octets : Nat
  first : Nat
  last : Nat
deriving DecidableEq, Repr

/-- The flow cache and the IPFIX state of one port die: flows with the least recently updated first, frames seen per
sub-port since enable, the records gathered for the next message of each template, and the sequence number. -/
structure FlowDie where
  flows : List Flow
  seen : Tbl Nat
  recs4 : List (List Byte)
  recs6 : List (List Byte)
  seqNo : Nat
  /-- when the first record of each message that gathers came, and when the templates were sent last (R463) -/
  at4 : Nat
  at6 : Nat
  tmplAt : Nat
deriving DecidableEq, Repr

/-- The management controller beside its registers (R449 to R461). -/
structure Mgt where
  events : List McEvent
  /-- events dropped since the last event of code 0x0B (R455) -/
  lost : Nat
  /-- the receiver's terminus ID and endpoint ID -/
  receiver : Option (Nat × Nat)
  tid : Nat
  /-- the 25 MHz clock runs (R450) -/
  fastClock : Bool
  /-- the power cap effecter, W (R454) -/
  capW : Nat
  /-- a device power state requested and not yet carried out, 0 none (R454) -/
  powerCmd : Nat
  /-- requests of a device power state that wait for that one, in arrival order: binding, effecter, state (R454) -/
  powerWait : List (Nat × Nat × Nat)
  /-- SPDM connections by binding (R459) -/
  spdm : Tbl Spdm
  flows : Tbl FlowDie
  /-- by sensor: the threshold last reported as crossed, 0 none, 1 warning, 2 critical, 3 fatal (R500) -/
  levels : Tbl Nat
deriving DecidableEq, Repr

/-- An armed firmware activation (R476): mode 0 now, 1 time, 2 epoch, 3 the next power-on or device reset. -/
structure Armed where
  mode : Nat
  when' : Nat
deriving DecidableEq, Repr

/-- An update session (R472 to R475): its binding, its stage (0 no transfer, 1 header, 2 body, 3 verify), the largest transfer, log2
of the chunk; the component in transfer (0 none), and the next request that has been sent and not answered: offset and length in
the component. -/
structure UpdSession where
  binding : Nat
  stage : Nat
  maxXfer : Nat
  chunk : Nat
  comp : Nat
  size : Nat
  request : Option (Nat × Nat)
deriving DecidableEq, Repr

/-- The values of a configuration image (R467). -/
structure Conf where
  boardId : List Byte
  staticAddr : Nat
  capW : Nat
  octets : Option (List Nat)
  groups : List Nat
  receiver : Option (Nat × Nat)
deriving DecidableEq, Repr

/-- Configuration and update (R464 to R479). -/
structure Upd where
  /-- flash bytes written since manufacture, by flash address (R465); the others hold what Config.flashByte names -/
  flash : Tbl Byte
  /-- the bank that runs or has been chosen to start, if one has -/
  runBank : Option Nat
  /-- the directory: active bank, trial, trial boots, trial running time in ms, reverted, sequence number -/
  active : Nat
  trial : Bool
  trialBoots : Nat
  trialMs : Nat
  reverted : Bool
  dirSeq : Nat
  /-- the anti-rollback counter of the flash device -/
  rollback : Nat
  /-- banks that hold an applied image -/
  applied : List Nat
  /-- the update state in the flash: the header of the image in transfer and the units marked (R474) -/
  header : List Byte
  persisted : List Nat
  /-- the working bitmap: 4 KiB units marked -/
  bitmap : List Nat
  session : Option UpdSession
  /-- components passed by PassComponentTable -/
  table : List Nat
  /-- bytes received and not yet written: of a header, of a configuration image, of the chunk in transfer -/
  recv : List Byte
  armed : Option Armed
  conf : Conf
  /-- banks activated whose image has not started yet, and so has not converted settings and data (R478); banks that an update gave a
  configuration image of their own -/
  toConvert : List Nat
  confNew : List Nat
  /-- a firmware restart is in progress (R477) -/
  restarting : Bool
deriving DecidableEq, Repr

/-- Clocks, crossings and resets (R480 to R496). -/
structure Clk where
  /-- dies under warm reset -/
  dieResets : List Nat
  /-- die-to-die links trained: step 8 of R490 -/
  linksUp : Bool
  /-- the rails are off for a brown-out (R496), or a thermal trip (R502) -/
  brownOut : Bool
  tripped : Bool
  /-- main-side clocks stopped for want of XTAL_AON (R481) -/
  aonStopped : Bool
  /-- by hub: fifths of a cell-clock period counted since the last frame boundary (R71) -/
  frameAcc : Tbl Nat
  /-- port dies whose core clock is gated (R482) -/
  gated : List Nat
  /-- spine gates whose crossing has timed out and is not yet reset, as 4 × hub + link (R486) -/
  xings : List Nat
  /-- bits of CLK_PLL_LOCK whose PLL lost lock, so that its clock is stopped (R482) -/
  stopped : List Nat
  /-- when the last edge came on TIME_PPS, and the second of domain time whose pulse went out last (R480) -/
  ppsAt : Nat
  ppsSec : Nat
  /-- by hub: when its pending change of DVFS point was requested (R483) -/
  dvfsAt : Tbl Nat
  /-- by port die: when an octet of it went down last (R482) -/
  octAt : Tbl Nat
  /-- the PUF yielded the unique device secret at power-on (R395) -/
  puf : Bool
deriving DecidableEq, Repr

/-- The limiter (R497 to R503). -/
structure Phys where
  /-- the DVFS point the limiter holds a hub at or below, where it holds one (R501) -/
  hold : Tbl Nat
  /-- hubs whose DRAM service is capped at 50 % (R501) -/
  dramCap : List Nat
  /-- samples in a row that were cool and under the cap (R501) -/
  coolMs : Nat
  /-- when the next sample of the sensors and of the rails is due, and the next step down (R456, R457, R501) -/
  nextTemp : Nat
  nextRail : Nat
  nextStep : Nat
deriving DecidableEq, Repr

/-- The control cluster beside its registers (R435 to R443): times of each core's crashes in the last 60 s, newest first;
the time of its last crash and of its last watchdog write; component faults since power-on or device reset, and those of
the last 60 s as (core, component, time). -/
structure Fw where
  crashTimes : Tbl (List Nat)
  lastCrash : Tbl Nat
  wdog : Tbl Nat
  compFaults : Tbl Nat
  compTimes : List (Nat × Nat × Nat)
deriving DecidableEq, Repr

end Sys2Proof.Machine
end

