-- ==== Sys2Proof/Machine/TypesPkt.lean ====
section
/-! DEFINITION. Plain data types of the packet path (12_packets). -/

namespace Sys2Proof.Machine

/-- A recorded edit (R309): a header operation with its template, a rewrite of a field, a TTL decrement. -/
inductive Edit
  | hdr (op template : Nat)
  | rewrite (field value : Nat)
  | ttl
deriving DecidableEq, Repr

/-- A frame on its way: bytes from the destination MAC up to the FCS, which stands apart; the headers parsed (hdr_id,
offset); the edits of step 8 and the remarks of meters; the ingress sub-port (die × 64 + n) and class it is charged to,
and its cells. -/
structure QFrame where
  bytes : List Byte
  heads : List (Nat × Nat)
  edits : List Edit
  dscp : Option Nat
  pcp : Option Nat
  ingress : Option (Nat × Nat)
  cells : Nat
  /-- metadata at its admission (R302), and whether R174 has already held it back -/
  mdata : List Byte
  gateHeld : Bool
  /-- a packet in the scheduled class: its queue pair, its window, and the packet as it was given (R176) -/
  win : Option (Nat × Nat × Pkt)
deriving DecidableEq, Repr

/-- A shaper in effect (R316): rate in kB/s, depth in bytes, tokens in 10^-6 B, and the time they were last brought up to
date. -/
structure Shaper where
  rate : Nat
  depth : Nat
  tokens : Int
  last : Nat
deriving DecidableEq, Repr

/-- A meter in effect (R318, R319): its entry as written, both buckets in 10^-6 B, and the time they were last refilled. -/
structure Meter where
  entry : Nat
  c : Nat
  e : Nat
  last : Nat
deriving DecidableEq, Repr

/-- The packet path of one port die. -/
structure PktDie where
  queues : Tbl (List QFrame)
  /-- deficits and turns of the schedulers' nodes by the address of their entry (R315) -/
  deficit : Tbl Nat
  turn : Tbl Nat
  shapers : Tbl Shaper
  meters : Tbl Meter
  /-- tokens of the exception bucket in 10^-9 packets, and the time of the last refill (R312) -/
  exc : Nat
  excLast : Nat
  /-- paused classes, n × 8 + class, with the time the pause ends (R320) -/
  paused : Tbl Nat
  /-- classes whose ingress cells stand above xoff, with the time their pause was last sent (R320) -/
  xoff : Tbl Nat
  /-- frames a delivery queue has taken, and the completion-ring entries of those not known to be freed (R313) -/
  dqs : Tbl (Nat × List Nat)
deriving DecidableEq, Repr

/-- A port die with nothing queued; the exception bucket starts full at its default depth of 64 (R312). -/
def PktDie.fresh : PktDie :=
  { queues := [], deficit := [], turn := [], shapers := [], meters := [], exc := 64 * 10 ^ 9, excLast := 0, paused := [], xoff := [], dqs := [] }

/-- The four port dies, and the frames that have reached firmware: port die, metadata, frame (R312). -/
structure Pkts where
  dies : Tbl PktDie
  toFw : List (Nat × List Byte × List Byte)
deriving DecidableEq, Repr

end Sys2Proof.Machine
end

