-- ==== Sys2Proof/Machine/TypesPort.lean ====
section
/-! DEFINITION. Plain data types of the Denux links (13_ports). -/

namespace Sys2Proof.Machine

/-- The three credit classes of R331, as numbers of units. -/
structure Credits where
  p : Nat
  np : Nat
  c : Nat
deriving DecidableEq, Repr

/-- What an outbound request serves: a read for a ring or a descriptor (R330), a landing read (R333), an atomic at
the target of a QP, the landing of an event entry. -/
inductive DnxFor
  | read (what : ReadFor) (pos : Nat)
  | landing (sr tag : Nat)
  | rxAtomic (qp msn : Nat)
  | eqIrq (eq : Nat)
deriving DecidableEq, Repr

/-- An outstanding outbound READ_REQ or ATOMIC_REQ (R336), with the data that has come and the time from which its timeout counts;
`reported` once it has timed out. -/
structure DnxReq where
  tag : Nat
  addr : Nat
  len : Nat
  what : DnxFor
  data : List Byte
  reported : Bool
  since : Nat
deriving DecidableEq, Repr

/-- A Denux link beside its registers (R326 to R331): the position in the round; the next sequence number to send, where a
resend goes on, the unacknowledged flits, and the flits the last link flit covers that are still to be sent (sequence number,
whether a resend, bytes); the next sequence number to receive, whether a NAK is due and whether flits are being discarded; the
NAKs and bad link flits that came in a row; units the far end has advertised and returned, and those sent and freed here;
messages waiting and the rest of the one being sent; bytes of the message under reassembly; the CRCs the last link flit gave and
the sequence number of the first of them; outstanding outbound requests; the time at which TRAIN or RETRAIN was entered (R337). -/
structure DnxLink where
  pos : Nat
  txSeq : Nat
  resend : Option Nat
  replay : List (Nat × List Byte)
  burst : List (Nat × Bool × List Byte)
  rxNext : Nat
  nakDue : Bool
  discarding : Bool
  naks : Nat
  badFlits : Nat
  advert : Credits
  ret : Credits
  sent : Credits
  freed : Credits
  initSeen : Bool
  sendQ : List (List Byte)
  sending : List Byte
  partial' : List Byte
  expect : List Nat
  expSeq : Nat
  reqs : List DnxReq
  nextTag : Nat
  since : Nat
  /-- messages that wait behind an inbound write or atomic on a guarded page, each with its parity mark (R332, R366) -/
  held : List (List Byte × Bool)
deriving DecidableEq, Repr

/-- A link with nothing in flight (R327: numbering from 0 at entry into ACTIVE). -/
def DnxLink.fresh : DnxLink :=
  { pos := 0, txSeq := 0, resend := none, replay := [], burst := [], rxNext := 0, nakDue := false, discarding := false, naks := 0, badFlits := 0
    advert := ⟨0, 0, 0⟩, ret := ⟨0, 0, 0⟩, sent := ⟨0, 0, 0⟩, freed := ⟨0, 0, 0⟩, initSeen := false, sendQ := []
    sending := [], partial' := [], expect := [], expSeq := 0, reqs := [], nextTag := 0, since := 0, held := [] }

/-- The Denux side of the device: links by index, accelerator memory as this device has written or read it, and inbound windows
whose reduction is not complete, with the region handle of the old entry (R335). -/
structure Ports where
  links : Tbl DnxLink
  acc : Tbl Mem
  windowBusy : List (Nat × Nat)
deriving DecidableEq, Repr

end Sys2Proof.Machine
end

