-- ==== Sys2Proof/Machine/TypesStor.lean ====
section
/-! DEFINITION. Plain data types of storage (14_storage) and of checkpoints (15_checkpoint). -/

namespace Sys2Proof.Machine

/-! ## Namespaces -/

/-- A cached write, or a zero entry (R348): first home LBA, blocks, whether it is a zero entry, and its data. -/
structure NsEntry where
  lba : Nat
  count : Nat
  zero : Bool
  data : List Byte
deriving DecidableEq, Repr

/-- A batch (R346): its sequence number, the log position of its commit record, its entries, and whether its data blocks are
on the drive. -/
structure Batch where
  seq : Nat
  recPos : Nat
  entries : List NsEntry
  ready : Bool
deriving DecidableEq, Repr

/-- A namespace (R342, R344): type, flags, backing; of a drive namespace whether the drive has a volatile cache, the log's
identity, the next batch's sequence number and position, the superblock as last written, the batch that collects, those that
are closed and those that are committed but not home. `since` is the time of the open batch's first write, `sbAt` the batch that was to commit
next when the superblock was last written (R346). -/
structure Ns where
  kind : Nat
  vis : Bool
  ro : Bool
  port : Nat
  owner : Nat
  backing : Nat
  remote : Nat
  start : Nat
  blocks : Nat
  logLba : Nat
  logBlocks : Nat
  staging : Nat
  vwc : Bool
  logId : Nat
  seq : Nat
  pos : Nat
  sbSeq : Nat
  sbPos : Nat
  sbAt : Nat
  since : Nat
  opened : List NsEntry
  closed : List Batch
  homing : List Batch
  lost : Bool
  notReady : Bool
  needReplay : Bool
  /-- the QP it is exported over, and whether read-only (R358) -/
  exported : Option (Nat × Bool)
deriving DecidableEq, Repr

/-- Who posted a storage command: a PF1 queue, with the pages its data goes to; a descriptor; a capsule from an importer, with
the key and offset of its staging region; a segment of a self-test; no one, of a capsule sent for a command that is gone. -/
inductive StorBy
  | nvme (sq cid : Nat) (prps : List Nat)
  | desc (sr tag : Nat)
  | capsule (qp cid ak off : Nat)
  | test (seg : Nat)
  | nobody
deriving DecidableEq, Repr

/-- An accepted storage command that is not complete: the drive operation it waits for, the batch that must commit, the peer
command it became; whether it reads, with the data it will return; and the bytes it moves. -/
structure StorWait where
  by' : StorBy
  nsid : Nat
  drive : Option Nat
  commit : Option Nat
  peer : Option Nat
  reads : Bool
  data : List Byte
  bytes : Nat
deriving DecidableEq, Repr

/-- An accepted command: its operation as a capsule numbers it (R358), first LBA and blocks, and what it writes. It is held while it waits
for cache space (R346), behind a held one (R351), for a guarded page of its pool region (R365), or for a capsule identifier (R358). -/
structure StorHeld where
  by' : StorBy
  nsid : Nat
  op : Nat
  slba : Nat
  nlb : Nat
  entries : List NsEntry
  fua : Bool
  bytes : Nat
deriving DecidableEq, Repr

/-- PF1 queues: base, entries, completion queue, head and tail; and for a completion queue its phase, vector and whether it
interrupts. -/
structure NvSq where
  base : Nat
  size : Nat
  cq : Nat
  head : Nat
  tail : Nat
deriving DecidableEq, Repr

structure NvCq where
  base : Nat
  size : Nat
  head : Nat
  tail : Nat
  phase : Bool
  vec : Nat
  ien : Bool
  /-- completions posted and not yet announced, and since when: Interrupt Coalescing -/
  due : Nat
  since : Nat
deriving DecidableEq, Repr

/-- A self-test (R353, R354): code, namespace, whether it is paused, whether its reads are issued. -/
structure SelfTest where
  code : Nat
  nsid : Nat
  paused : Bool
  issued : Bool
deriving DecidableEq, Repr

/-- The PF1 controller and the storage function. -/
structure Stor where
  /-- CSTS.CFS and CSTS.RDY, CC.EN, CSTS.SHST complete, log2 of the host page size over 4 KiB -/
  cfs : Bool
  rdy : Bool
  enabled : Bool
  shut : Bool
  mps : Nat
  sqs : Tbl NvSq
  cqs : Tbl NvCq
  /-- completions that wait for a completion queue entry: queue, 16 bytes as a number -/
  cqWait : List (Nat × Nat)
  features : Tbl Nat
  /-- asynchronous event requests held, changed namespaces not yet read, and whether a notice is due -/
  aers : List Nat
  changed : List Nat
  noticed : Bool
  nss : Tbl Ns
  waits : List StorWait
  held : List StorHeld
  nextDrive : Nat
  /-- drive operations of batches: number, namespace, batch, whether it is the Flush after the batch's data (R346) -/
  driveOps : List (Nat × Nat × Nat × Bool)
  /-- drive blocks by port + 4 × drive namespace, then LBA, as this device has written them -/
  drives : Tbl (Tbl (List Byte))
  /-- data a STOR_READ has and its buffer has not taken -/
  ready : List (Nat × Nat × List Byte)
  /-- definitions in the persistent data of the active bank, by NSID (R350) -/
  recorded : Tbl Ns
  selfTest : Option SelfTest
  /-- self-test log, newest first: code × 16 + result, segment, namespace -/
  stLog : List (Nat × Nat × Nat)
  /-- when the last PF1 or storage-direct command was gone (R354) -/
  lastUse : Nat
deriving DecidableEq, Repr

/-- The storage function without the commands that `stays` and `keeps` leave out: a capsule already sent for one goes on, as no one's. `now`
is noted where one was left out (R354). -/
def Stor.leave (x : Stor) (stays : StorBy → Bool) (keeps : Nat × Nat × List Byte → Bool) (now : Nat) : Stor :=
  let all := x.waits.all (fun w => stays w.by') && x.held.all (fun w => stays w.by') && x.ready.all keeps
  { x with
    waits := (x.waits.map (fun w => if stays w.by' then w else { w with by' := .nobody })).filter (fun w => !(w.by' = .nobody && w.peer.isNone))
    held := x.held.filter (fun w => stays w.by')
    ready := x.ready.filter keeps
    lastUse := if all then x.lastUse else now }

/-! ## Checkpoints -/

/-- A peer of a job (R360): device index, role, QPs, key. -/
structure CkPeer where
  index : Nat
  role : Nat
  qps : List Nat
  ak : Nat
deriving DecidableEq, Repr

/-- A page of a running snapshot: its number in ascending image order, its DPA page, the region offset it is written to in
the snapshot area, and its format code (R363, R369). -/
structure CkPage where
  num : Nat
  page : Nat
  out : Nat
  code : Nat
deriving DecidableEq, Repr

/-- A running snapshot (R362): its descriptor and step; phase 1 guard, 2 copy, 3 stream, 4 trailer; the pages to copy, those
being read by a hub's copier, those copied; bytes sent; whether a lost guard word spoilt it; and when it was accepted. -/
structure CkSnap where
  sr : Nat
  tag : Nat
  step : Nat
  phase : Nat
  left : List CkPage
  reading : List CkPage
  copied : List CkPage
  sent : Nat
  lost : Bool
  since : Nat
deriving DecidableEq, Repr

/-- A loaded job (R360, R361): its record, the last committed step, whether no snapshot has been taken since load or restore,
the step its snapshot area holds, the running snapshot, and the times of its last heartbeat and of its last watch tick (R376). -/
structure CkJob where
  slice : Nat
  index : Nat
  jobId : Nat
  standby : Bool
  holder : Bool
  second : Bool
  key : Nat
  snap : Nat
  buddy : Nat
  manifest : Nat
  hb : Nat
  slotBytes : Nat
  total : Nat
  peers : List CkPeer
  shards : List (List (Nat × Nat))
  last : Nat
  first : Bool
  holds : Option Nat
  run : Option CkSnap
  hbAt : Nat
  tickAt : Nat
deriving DecidableEq, Repr

/-- A watch (R376): its descriptor, job, indices and when it began. -/
structure CkWatch where
  sr : Nat
  tag : Nat
  job : Nat
  idx : List Nat
  since : Nat
deriving DecidableEq, Repr

/-- The checkpoint coordinator. -/
structure Ckp where
  jobs : Tbl CkJob
  gen : Tbl Nat
  watches : List CkWatch
deriving DecidableEq, Repr

end Sys2Proof.Machine
end

