-- ==== Sys2Proof/Machine/TypesTln.lean ====
section
/-! DEFINITION. Plain data types of timeline domains (07_timeline). -/

namespace Sys2Proof.Machine

/-- A window of a schedule (R175, R182); a length field of 0 stands as 1,048,576. -/
structure Win where
  start : Nat
  len : Nat
  port : Nat
  peer : Nat
  rx : Bool
  qp : Nat
  crumbs : Nat
deriving DecidableEq, Repr

/-- A checked schedule (R180 to R182): gate lists by port byte, each entry its gate states and interval. -/
structure Sched where
  id : Nat
  index : Nat
  cycle : Nat
  gates : Tbl (List (Nat × Nat))
  wins : List Win
deriving DecidableEq, Repr

/-- A station table entry (R187). -/
structure StationEntry where
  ip : List Byte
  mac : Nat
  listed : Bool
deriving DecidableEq, Repr

/-- A checked re-map record (R187): its generation, the station table by station number, and the station of each valid
device index. -/
structure Remap where
  gen : Nat
  stations : List StationEntry
  map : Tbl Nat
deriving DecidableEq, Repr

/-- A staging slot (R184): the code and detail TLN_STAGE_STATUS reports, the record's bytes as copied, whether it has been
checked and holds a record, and the epoch it is armed for. -/
structure TlnSlot where
  code : Nat
  detail : Nat
  bytes : List Byte
  held : Bool
  armed : Option Nat
deriving DecidableEq, Repr

/-- An empty slot. -/
def TlnSlot.empty : TlnSlot := ⟨0, 0, [], false, none⟩

/-- The timeline function beside its registers. -/
structure Tln where
  slots : Tbl TlnSlot
  sched : Option Sched
  map : Option Remap
  /-- the map before the one in effect, and the epoch in which that took effect (R190) -/
  prev : Option Remap
  since : Nat
  /-- the high half of TLN_TIME a read of the low half has latched -/
  latch : Nat
  /-- by port byte: the gate entry in force and the time it took effect -/
  gatePos : Tbl (Nat × Nat)
  /-- open transmit windows by window index: crumbs sent so far (R176) -/
  openWins : Tbl Nat
  /-- arrears by QP, in crumbs (R176) -/
  arrears : Tbl Nat
  /-- every scheduled-class gate is closed since TLN_CTRL.enable was cleared -/
  closed : Bool
  /-- nanoseconds the time base still has to stand still, where a step backward is slewed (R172), and whether it has just
  stood still for one -/
  slew : Nat
  stood : Bool
  /-- the beat markers that have come since the last epoch boundary (R171, R330), by Denux link: the time each carries, and the
  time here when it came -/
  beats : Tbl (Nat × Nat)
  /-- the last estimate of the offset from domain time, and whether one within 1 µs of the reference has been met since the
  station was last FREE (R171) -/
  est : Int
  fine : Bool
  /-- when the station last entered HOLDOVER (R172) -/
  holdSince : Nat
  /-- the receive timestamp of the last PTP event message by port byte, in quarters of a nanosecond (R170) -/
  stamps : Tbl Nat
  /-- by queue pair, the PSN of the packet R174 has last held back at its window (R174, R176) -/
  gateHeld : Tbl Nat
deriving DecidableEq, Repr

end Sys2Proof.Machine
end

