-- ==== Sys2Proof/Machine/State.lean ====
section
/-! DEFINITION. The state of the device, its state after reset, and the reasons a command can stop. Registers are held by their
address (R455's addresses, see Machine/RegMap.lean), each at its reset value where it is not listed. -/

namespace Sys2Proof.Machine

/-- Why the block could stop with a fault. No meaning of this model stops so: the spec names no command that stops the block. -/
inductive Fault where
  /-- A unit that the module does not have; raised by no meaning (safe). -/
  | noSuchUnit (n : Nat)
deriving DecidableEq, Repr

/-- Why a command could be refused. -/
inductive Refusal where
  /-- A command that has no meaning yet, by its mnemonic; raised by arms of Machine/Dispatch.lean alone (safe). -/
  | notModelled (mnemonic : String)
deriving DecidableEq, Repr

/-- The state of the N9. -/
structure State where
  /-- commands that wait, the first to run first -/
  pending : List Sys2Proof.Instr
  /-- the device time base, ns (R167) -/
  timeNs : Nat
  /-- the model's own: how many free values have been used (log entry 2) -/
  freeCtr : Nat
  /-- registers, by address, that are not at their reset value (R5) -/
  regs : Tbl Nat
  /-- registers whose set-up lock is set (R5) -/
  locks : List Nat
  /-- base registers of the admin ring last written with a Rsvd bit set (R56) -/
  badBases : List Nat
  /-- counters by address: live, the host's latch copy, the management controller's (R7, R8) -/
  ctr : Tbl Nat
  ctrHost : Tbl Nat
  ctrMc : Tbl Nat
  /-- memories, regions, guards (09_memory) -/
  mem : MemSt
  /-- rings and completions (02_rings) -/
  ring : Rings
  /-- slices by number (17_slices), and the slice each bound PASID belongs to -/
  slices : Tbl Slice
  pasids : Tbl Nat
  /-- feuille table entries that software wrote, and work dispatched through feuilles (01_module) -/
  feus : Tbl Feu
  feuWork : List FeuWork
  /-- sequencers of the cells, 0 to 1,535, and control cores, 1,536 to 1,551 (05_isa) -/
  seqs : Tbl Seq
  /-- lattice and spine (03_cells) -/
  lat : Lattice
  /-- pipelines and channels of cells (06_pipelines, 03_cells) -/
  pipes : Pipes
  chans : Tbl (List Chan)
  /-- transport (11_transport) -/
  tmt : Tmt
  /-- collectives (08_collectives) -/
  colls : Colls
  /-- control cores beside their registers (19_firmware) -/
  fw : Fw
  /-- storage and checkpoints (14_storage, 15_checkpoint) -/
  stor : Stor
  ckp : Ckp
  /-- timeline (07_timeline) -/
  tln : Tln
  /-- keys, ciphers, check values (16_security) -/
  kce : Kce
  /-- packet path (12_packets) -/
  pkt : Pkts
  /-- cell arrays by hub and the device's power state (01_module) -/
  hubPow : Tbl HubPow
  dev : DevPow
  /-- translation (10_translation) -/
  xlt : Xlt
  /-- the PCIe endpoint (18_pcie) -/
  pcie : Pcie
  /-- Denux links and accelerator memory (13_ports) -/
  ports : Ports
  /-- management (20_management), update (21_update), clocks (22_clocks), limits (23_physical) -/
  mgt : Mgt
  upd : Upd
  clk : Clk
  phys : Phys
  /-- what the device has sent, oldest first -/
  out : List Out
deriving DecidableEq, Repr

/-- Memories with nothing in them. -/
def MemSt.empty : MemSt :=
  { bytes := [], tags := [], bad := [], weak := [], rewrite := [], checks := [], ceTimes := [], ceTold := [], guard := [], guardWait := []
    chDown := [], refreshRate := [], regions := [], regionGen := [], zeroing := [] }

/-- No rings. -/
def Rings.empty : Rings :=
  { srs := [], crs := [], eqs := [], srGen := [], crGen := [], eqGen := [], jobs := [], nextSeq := 0, unwritten := [], events := []
    leaseArmed := false, leaseEnd := 0 }

/-- The storage function with no namespace. -/
def Stor.empty : Stor :=
  { cfs := false, rdy := false, enabled := false, shut := false, mps := 0, sqs := [], cqs := [], cqWait := [], features := [], aers := []
    changed := [], noticed := false, nss := [], waits := [], held := [], nextDrive := 0, driveOps := [], drives := [], ready := []
    recorded := [], selfTest := none, stLog := [], lastUse := 0 }

/-- Translation off, with the host's full allocation of page requests taken up only as the host grants it (R258). -/
def Xlt.empty : Xlt :=
  { asids := [], cache := [], faults := [], slotGen := [], spill := [], info := [], invals := [], records := 0, prgCredits := 0
    atsEnabled := false, pasidEnabled := false, prgOut := [], atsOut := [] }

/-- The endpoint with its link down. -/
def Pcie.empty : Pcie :=
  { host := [], reads := [], nextTag := 0, readWait := [], mrrs := 512, cplTime := some 50000000, gathers := [], wroteLinks := [], landings := [], fnMask0 := false, fnMask1 := false
    link := .l0, linkUp := false, perst := false, retry0 := true, retry1 := true, flr0 := false, flr1 := false, flrAt0 := 0, flrAt1 := 0, perstAt := 0, aer0 := 0, aer1 := 0
    held := [], syncWait := [], atomicEnabled := false, negWidth := 0 }

/-- The timeline function off. -/
def Tln.empty : Tln :=
  { slots := [], sched := none, map := none, prev := none, since := 0, latch := 0, gatePos := [], openWins := [], arrears := []
    closed := false, slew := 0, stood := false, beats := [], est := 0, fine := false, holdSince := 0, stamps := [], gateHeld := [] }

/-- The factory defaults of R467. -/
def Conf.factory : Conf := { boardId := [], staticAddr := 0x1D, capW := 2700, octets := none, groups := [], receiver := none }

/-- Management with the factory defaults. -/
def Mgt.empty : Mgt :=
  { events := [], lost := 0, receiver := none, tid := 0, fastClock := true, capW := 2700, powerCmd := 0, powerWait := [], spdm := []
    flows := [], levels := [] }

/-- The flash as manufactured and its directory. -/
def Upd.empty : Upd :=
  { flash := [], runBank := none, active := 0, trial := false, trialBoots := 0, trialMs := 0, reverted := false, dirSeq := 0, rollback := 0, applied := []
    header := [], persisted := [], bitmap := [], session := none, table := [], recv := [], armed := none, conf := Conf.factory
    toConvert := [], confNew := [], restarting := false }

/-- The device once its always-on domain is out of reset and the boot ROM runs (R490 step 3), every register at the value its
table states, every memory without contents. -/
def State.reset : State :=
  { pending := [], timeNs := 0, freeCtr := 0, regs := [], locks := [], badBases := [], ctr := [], ctrHost := [], ctrMc := []
    mem := MemSt.empty, ring := Rings.empty, slices := [], pasids := [], feus := [], feuWork := [], seqs := []
    lat := { frames := [], spines := [], crumbs := [], gates := [], credits := [] }
    pipes := { tab := [], gen := [], holds := [] }, chans := []
    tmt := { qps := [], cooling := [], aks := [], akGen := [], ctrs := [] }
    colls := { plans := [], gen := [] }
    fw := { crashTimes := [], lastCrash := [], wdog := [], compFaults := [], compTimes := [] }
    stor := Stor.empty, ckp := { jobs := [], gen := [], watches := [] }, tln := Tln.empty
    kce := { slots := [], gen := [], msgs := [], nextOrder := 0, secrets := [], crcs := [] }
    pkt := { dies := [], toFw := [] }, hubPow := [], dev := .boot, xlt := Xlt.empty, pcie := Pcie.empty
    ports := { links := [], acc := [], windowBusy := [] }, mgt := Mgt.empty, upd := Upd.empty
    clk := { dieResets := [], linksUp := false, brownOut := false, tripped := false, aonStopped := false, frameAcc := [], gated := [], xings := [], stopped := [], ppsAt := 0, ppsSec := 0, dvfsAt := [], octAt := [], puf := true }
    phys := { hold := [], dramCap := [], coolMs := 0, nextTemp := 0, nextRail := 0, nextStep := 0 }, out := [] }

end Sys2Proof.Machine
end

