-- ==== Sys2Proof/Machine/Ops.lean ====
section
/-! DEFINITION. Operations every chapter shares: the register file (R5, R6), counters (R7, R8, R511), events and the
signal to the management controller (R54, R455), MSI-X messages (R425), and fresh free values. -/

namespace Sys2Proof.Machine

/-! ## The register file -/

/-- The register whose bytes include address a: its description, its own address, unit and index. -/
def findReg (a : Nat) : Option (RegSpec × Nat × Nat × Nat) :=
  regBlocks.findSome? fun b =>
    if a < b.1 || b.2.1 ≤ a then none
    else b.2.2.findSome? fun r => (instanceAt r.base r.n1 r.s1 r.n2 r.s2 r.bytes a).map fun t => (r, t)

/-- The reset value of the register at address a (0 where there is none). -/
def resetAt (a : Nat) : Nat := match findReg a with
  | some (r, _) => r.resetValue
  | none => 0

/-- The stored value of the register at its own address a. -/
def State.rd (s : State) (a : Nat) : Nat := match Tbl.find s.regs a with
  | some v => v
  | none => resetAt a

/-- s with value v in the register at its own address a. -/
def State.wr (s : State) (a v : Nat) : State := { s with regs := Tbl.set s.regs a v (resetAt a) }

/-- A field of a register. -/
def State.rf (s : State) (a lo w : Nat) : Nat := fld (s.rd a) lo w

/-- s with a field of a register replaced. -/
def State.wf (s : State) (a lo w v : Nat) : State := s.wr a (setFld (s.rd a) lo w v)

/-- The block's set-up lock that governs RWL fields at address a (R5): the address of the lock's register, for the
blocks whose chapter names one; KCE names none (log entry 9). -/
def lockOf (a : Nat) : Option Nat :=
  if 0x50000 ≤ a && a < 0x60000 then some R.XLT_CTRL
  else if 0x60000 ≤ a && a < 0x70000 then some R.TMT_CTRL
  else if 0x70100 ≤ a && a < 0x70300 then some (R.PRT_OCTET ((a - 0x70100) / 0x10))
  else if 0x80100 ≤ a && a < 0x80200 then some (R.DNX_LINK ((a - 0x80100) / 0x10))
  else if 0xE0000 ≤ a && a < 0xF0000 then some R.CTL_ADMIN_CTRL
  else none

/-- Whether the set-up lock governing a is set: TLN_ fields while TLN_CTRL.enable = 1 (R168), LAT_CELL_ fields while the cell
is not IDLE, NVM_CACHE while PF1's CC.EN = 1; otherwise since the reset of the register (R5). -/
def State.isLocked (s : State) (a : Nat) : Bool :=
  if 0x40000 ≤ a && a < 0x50000 then s.rf R.TLN_CTRL 0 1 = 1
  else if 0x90000000 ≤ a && a < 0x90600000 then s.rf (R.LAT_CELL_STATE ((a - 0x90000000) / 0x1000)) 0 3 ≠ 0
  else if a = R.NVM_CACHE then s.stor.enabled
  else match lockOf a with
    | some l => s.locks.contains l
    | none => false

/-- The value of a field after a write of bits d (in place, under the byte mask m), by its access code (R5). -/
def FieldSpec.write (f : FieldSpec) (locked : Bool) (cur d m : Nat) : Nat :=
  let fm := ones f.lo f.width &&& m
  match f.acc with
  | .rw => clearBits cur fm + (d &&& fm)
  | .rwl => if locked then cur else clearBits cur fm + (d &&& fm)
  | .w1c => clearBits cur (d &&& fm)
  | .w1s => cur ||| (d &&& fm)
  | .ro | .wo | .rc | .ev => cur

/-- A register after a write of n bytes of v at byte offset o. -/
def RegSpec.write (r : RegSpec) (locked : Bool) (cur o n v : Nat) : Nat :=
  let m := ones (8 * o) (8 * n)
  let d := (v % 2 ^ (8 * n)) <<< (8 * o)
  r.fields.foldl (fun c f => f.write locked c d m) cur

/-- s after a write of n bytes of v at address a, by the access codes of the fields they cover, those with a command
of their own apart; bytes of no register are Rsvd and ignored (R5, R6). -/
def State.regWrite (s : State) (a n v : Nat) : State :=
  match findReg a with
  | none => s
  | some (r, base, _) => s.wr base (r.write (s.isLocked base) (s.rd base) (a - base) (min n (r.bytes - (a - base))) v)

/-- How many of the n bytes from a lie in the register at a; of a place of no register, up to the next even address. -/
def regSpan (a n : Nat) : Nat := match findReg a with
  | some (r, own, _) => min n (own + r.bytes - a)
  | none => min n (2 - a % 2)

/-! ## Free values -/

/-- The next free value below 2^w and the state that has used it (log entry 2). -/
def State.fresh (s : State) (w : Nat) : Nat × State :=
  (Config.freeValue s.freeCtr % 2 ^ w, { s with freeCtr := s.freeCtr + 1 })

/-- The next random bits, w of them, and the state that has used them (R387). -/
def State.random (s : State) (w : Nat) : Nat × State :=
  (Config.randomBits s.freeCtr % 2 ^ w, { s with freeCtr := s.freeCtr + 1 })

/-- s with a message added to what the device has sent. -/
def State.emit (s : State) (o : Out) : State := { s with out := s.out ++ [o] }

/-! ## Counters -/

/-- The counter at address a: its block, unit, description and instance. -/
def findCtr (a : Nat) : Option (CtrBlock × Nat × CtrSpec × Nat) :=
  ctrBlocks.findSome? fun b => b.ctrs.findSome? fun c =>
    (instanceAt c.base c.n1 c.s1 c.n2 c.s2 (match c.cls with | .s => 4 | _ => 8) a).map fun t => (b, t.2.1, c, t.2.2)

/-- The live value of the counter at address a. -/
def State.ctrVal (s : State) (a : Nat) : Nat := Tbl.get s.ctr a 0

/-- s with n more events on the counter at address a, and whether a class S counter has just saturated (R7, R511). -/
def State.bump (s : State) (a n : Nat) : State × Bool :=
  match findCtr a with
  | none => (s, false)
  | some (b, u, c, i) =>
    let old := s.ctrVal a
    match c.cls with
    | .s =>
      let new := min (old + n) 0xFFFFFFFF
      ({ s with ctr := Tbl.set s.ctr a new 0 }, decide (new = 0xFFFFFFFF) && decide (old ≠ 0xFFFFFFFF))
    | .l => (s, false)
    | .e =>
      let t := old + n
      let s1 : State := { s with ctr := Tbl.set s.ctr a (t % 2 ^ 64) 0 }
      let w := b.snap + u * b.s1 + 0xF8
      (if t < 2 ^ 64 then s1 else s1.wr w (setBit (s1.rd w) (c.wrapBit + i * c.wrapStep) true), false)
    | .m =>
      let t := old + n
      let s1 : State := { s with ctr := Tbl.set s.ctr a (t % 2 ^ 64) 0 }
      let w := R.TSH_METER_WRAP u (i / 64)
      (if t < 2 ^ 64 then s1 else s1.wr w (setBit (s1.rd w) (i % 64) true), false)

/-- s with an event due on an event queue. Events for an EQ that does not exist are discarded (R56); a type 0x01 event
merges with a pending one of the same CR (R55). -/
def State.postEvent (s : State) (eq source kind detail : Nat) : State :=
  if !(Tbl.has s.ring.eqs eq) then s
  else if kind = 1 && s.ring.events.any (fun e => e.eq = eq && e.kind = 1 && e.source = source) then s
  else { s with ring := { s.ring with events := s.ring.events ++ [⟨eq, source, kind, detail, s.timeNs⟩] } }

/-- s with one management event queued, or dropped and counted when the queue of 256 is full (R455). Where that count saturates, its own
type 0x05 event goes to EQ 0, and its MC event is lost with the rest (R7). -/
def State.mcSignal (s : State) (code detail : Nat) : State :=
  if s.mgt.events.length < 256 then
    { s with mgt := { s.mgt with events := s.mgt.events ++ [⟨code, detail % 2 ^ 32, s.timeNs⟩] } }
  else match State.bump { s with mgt := { s.mgt with lost := s.mgt.lost + 1 } } R.MGT_EVENT_LOST 1 with
    | (s, false) => s
    | (s, true) => State.postEvent { s with mgt := { s.mgt with lost := s.mgt.lost + 1 } } 0 0 5 R.MGT_EVENT_LOST

/-- s with n more events on the counter at a; a saturation raises one type 0x05 event on EQ 0 and MC code 0x0A
(R7, R54, R455). -/
def State.cnt (s : State) (a : Nat) (n : Nat := 1) : State :=
  match s.bump a n with
  | (s, false) => s
  | (s, true) => (s.postEvent 0 0 5 a).mcSignal 0x0A a

/-- A write to a class S counter: 0 again, its saturation event re-armed (R7). -/
def State.ctrClear (s : State) (a : Nat) : State := { s with ctr := Tbl.set s.ctr a 0 0 }

/-- Whether address a lies on a counter of block b, unit u. -/
def inBlock (b : CtrBlock) (u a : Nat) : Bool :=
  b.ctrs.any fun c => match instanceAt c.base c.n1 c.s1 c.n2 c.s2 8 a with
    | some (_, v, _) => v = u
    | none => false

/-- The counter block whose snap register is at address a, with its unit (R8). -/
def blockOfSnap (a : Nat) : Option (CtrBlock × Nat) :=
  ctrBlocks.findSome? fun b =>
    if b.snap ≤ a && (a - b.snap) % b.s1 = 0 && (a - b.snap) / b.s1 < b.n1 then some (b, (a - b.snap) / b.s1) else none

/-- The bit of a block's snap register that is its snap bit (the chapters' register tables). -/
def snapBit (a : Nat) : Nat :=
  if a = R.TLN_CTRL || a = R.XLT_CTRL then 1
  else if a = R.TMT_CTRL then 17
  else if R.SPN_CTRL 0 ≤ a && a < R.SPN_CTRL 12 then 2
  else if R.LAT_HUB_CTRL 0 ≤ a && a < R.LAT_HUB_CTRL 12 then 7
  else 0

/-- A latch copy after a capture of block b, unit u, from the live counters (R8). -/
def capture (live latch : Tbl Nat) (b : CtrBlock) (u : Nat) : Tbl Nat :=
  let kept : Tbl Nat := latch.filter fun p => !(inBlock b u p.1)
  (live.filter fun p => inBlock b u p.1).foldr (fun p t => Tbl.put t p.1 p.2) kept

/-! ## MSI-X (R425) -/

/-- The registers of a function's vector: its mask and its pending bit. -/
def msixEntry (fn v : Nat) : Nat := if fn = 0 then R.PCI_MSIX v else R.NVM_MSIX1 v
def pbaWord (fn v : Nat) : Nat := if fn = 0 then R.PCI_PBA (v / 64) else R.NVM_PBA1 (v / 64)

/-- Bus Master Enable of a function (PCI_STATUS). -/
def State.bme (s : State) (fn : Nat) : Bool := s.rf R.PCI_STATUS (11 + fn) 1 = 1

/-- Whether a function's BARs answer: D0, no reset under way, link up (R427, R429, R431). -/
def State.barOk (s : State) (fn : Nat) : Bool :=
  s.rf R.PCI_STATUS (7 + 2 * fn) 2 = 0 && !s.pcie.perst && s.pcie.linkUp && (if fn = 0 then !s.pcie.flr0 else !s.pcie.flr1)

/-- Whether a function may send toward the host: Bus Master Enable set, D0, no reset under way, link up and not in
retention or meringue (R427, R429 to R431). -/
def State.dmaOk (s : State) (fn : Nat) : Bool := s.bme fn && s.barOk fn

/-- PME of a function in D3hot: one type 0x08 event on EQ 0 (R427). -/
def State.pme (s : State) (fn : Nat) : State :=
  if s.rf R.PCI_STATUS (7 + 2 * fn) 2 = 3 && !s.ring.events.any (fun e => e.eq = 0 && e.kind = 8 && e.detail = fn) then s.postEvent 0 0 8 fn else s

/-- A message of a function's vector: sent, or held in its PBA bit while masked or while the function is cut. -/
def State.msix (s : State) (fn v : Nat) : State :=
  let masked := s.rf (msixEntry fn v) 96 1 = 1 || (if fn = 0 then s.pcie.fnMask0 else s.pcie.fnMask1)
  if masked || !s.dmaOk fn then (s.wf (pbaWord fn v) (v % 64) 1 1).pme fn else s.emit (.msix fn v)

/-- s with the messages that the PBA of a function holds sent, those that may be (R425, R430). -/
def State.msixFlush (s : State) (fn : Nat) : State :=
  (List.range (if fn = 0 then 2048 else 1025)).foldl (fun s v =>
    if s.rf (pbaWord fn v) (v % 64) 1 = 1 then (s.wf (pbaWord fn v) (v % 64) 1 0).msix fn v else s) s

/-- An AER report of a function: recorded, a type 0x07 event on EQ 0, and the MC informed (R434). -/
def State.aer (s : State) (fn statusBit : Nat) : State :=
  let p := s.pcie
  let s : State := { s with pcie := if fn = 0 then { p with aer0 := p.aer0 ||| 2 ^ statusBit } else { p with aer1 := p.aer1 ||| 2 ^ statusBit } }
  let d := fn + 2 * statusBit
  (s.postEvent 0 0 7 d).mcSignal 9 d

/-- The AER status bits of the PCI Express capability that the spec names by error (PRESUMED, log entry 10). -/
def Aer.cplTimeout : Nat := 14
def Aer.cplAbort : Nat := 15
def Aer.unexpCpl : Nat := 16
def Aer.poisoned : Nat := 12
def Aer.unsupported : Nat := 20

/-! ## Control cores -/

/-- The state of a control core: 0 RESET, 1 RUNNING, 2 RESTARTING, 3 OFFLINE. -/
def State.coreState (s : State) (k : Nat) : Nat := s.rf (R.FWC_CORE_STATUS k) 0 2

/-- What a control core owns (R435): CC4 to CC15 by ring or QP number. -/
def coreOf (n : Nat) : Nat := n % 12 + 4

/-- Whether the clock of a bit of CLK_PLL_LOCK has stopped for a lost lock, or with XTAL_AON (R481, R482). -/
def State.clockStops (s : State) (n : Nat) : Bool := s.clk.aonStopped || s.clk.stopped.contains n

/-- Whether control core k executes: it is RUNNING and the cluster's clock goes. -/
def State.coreRuns (s : State) (k : Nat) : Bool := decide (s.coreState k = 1) && !s.clockStops 28

/-- The core that schedules ring n (R435, R443): CC0 for the admin ring; where its own core is OFFLINE, the next RUNNING one. -/
def State.ringCore (s : State) (n : Nat) : Nat :=
  if n = 0 then 0
  else if s.coreState (coreOf n) ≠ 3 then coreOf n
  else (((List.range 12).map (fun i => coreOf (n + i))).find? (fun k => s.coreState k = 1)).getD (coreOf n)

end Sys2Proof.Machine
end

