-- ==== Sys2Proof/Machine/MemOps.lean ====
section
/-! DEFINITION. The memories of the module: the DPA map (R21), the channel map (R218), regions (R219 to R224), the
in-line check and its failures (R225 to R232), the on-chip stores (R68, R235) and the copy guard (R365). -/

namespace Sys2Proof.Machine

/-! ## The DPA map (R21) -/

/-- What a DPA names. -/
inductive Place
  | pool (hub off : Nat)
  | cell (c off : Nat)
  | hubStore (h off : Nat)
  | portBuf (p off : Nat)
  | control (off : Nat)
  | regs (off : Nat)
  | none
deriving DecidableEq, Repr

/-- The bytes of one hub's DRAM: 384 GiB. -/
def hubBytes : Nat := 0x6000000000

/-- The DPA of a byte of a cell's store (R21). -/
def cellDpa (c off : Nat) : Nat := 0x800000000000 + c * 0x200000 + off

/-- The place a DPA names (R21); addresses the map reserves name none. -/
def place (a : Nat) : Place :=
  if a < 0x48000000000 then .pool (a / hubBytes) (a % hubBytes)
  else if 0x800000000000 ≤ a && a < 0x8000C0000000 then
    let o := (a - 0x800000000000) % 0x200000
    if o < 0x180000 then .cell ((a - 0x800000000000) / 0x200000) o else .none
  else if 0x800100000000 ≤ a && a < 0x800130000000 then .hubStore ((a - 0x800100000000) / 0x4000000) ((a - 0x800100000000) % 0x4000000)
  else if 0x800200000000 ≤ a && a < 0x800210000000 then
    let o := (a - 0x800200000000) % 0x4000000
    if o < 0x3000000 then .portBuf ((a - 0x800200000000) / 0x4000000) o else .none
  else if 0x800300000000 ≤ a && a < 0x800302000000 then .control (a - 0x800300000000)
  else if 0x800400000000 ≤ a && a < 0x800500000000 then .regs (a - 0x800400000000)
  else .none

/-- The channel of a hub offset (R218). -/
def channelOf (o : Nat) : Nat :=
  let u := o >>> 8
  let k := u / 96
  let h := ((fld k 0 8) ^^^ (fld k 8 8) ^^^ (fld k 16 8)) % 96
  (u % 96 + h) % 96

/-- The channel address of a hub offset (R218). -/
def channelAddr (o : Nat) : Nat := (o >>> 8) / 96 * 256 + fld o 0 8

/-! ## Regions -/

/-- Data bytes per granule (R224). -/
def granData (ecc : Bool) : Nat := if ecc then 1966080 else 2097152

/-- Data bytes of a region (R220). -/
def Region.dataBytes (r : Region) : Nat := r.granules.length * granData r.ecc

/-- The first hub of a region's mask: where a single-hub region lies. -/
def Region.hubs (r : Region) : List Nat := bitsOf 12 r.hubMask

/-- The region a handle names for a slice, if it does (R219); one still being zeroed has not been given out (R222). -/
def State.region (s : State) (handle sl : Nat) : Option Region :=
  match Tbl.find s.mem.regions (handle % 65536) with
  | some r =>
    let zeroing := s.mem.zeroing.any (fun z => z.1 = handle % 65536)
    if handle / 65536 = r.gen && handle % 65536 ≠ 0 && r.slice = sl && handle < 2 ^ 32 && !zeroing then some r else none
  | none => none

/-- Whether a loaded job binds a region (R361): its snapshot area, buddy region and manifest region. -/
def State.bound (s : State) (handle : Nat) : Bool :=
  s.ckp.jobs.any (fun j => j.2.snap = handle || j.2.buddy = handle || (j.2.holder && j.2.manifest = handle))

/-- The DPA of a region offset (R224). -/
def Region.dpa (r : Region) (off : Nat) : Nat := nth r.granules (off / granData r.ecc) 0 * 2097152 + off % granData r.ecc

/-- s with a region's reference count changed (R220). -/
def State.addRef (s : State) (handle : Nat) (up : Bool) : State :=
  { s with mem := { s.mem with regions := Tbl.upd s.mem.regions (handle % 65536) (fun r => { r with refs := if up then r.refs + 1 else r.refs - 1 }) } }

/-- Whether a granule belongs to the system reservation: the 96 at the top of each hub (R221). -/
def sysGranule (g : Nat) : Bool := 196512 ≤ g % 196608

/-- The region that holds a granule, if any. -/
def State.granuleRegion (s : State) (g : Nat) : Option Region :=
  (s.mem.regions.find? (fun p => p.2.granules.contains g)).map Prod.snd

/-- Whether a pool DPA lies in an ECC-on granule: an ECC-on region or the system reservation (R221, R225). -/
def State.eccOn (s : State) (a : Nat) : Bool :=
  sysGranule (a / 2097152) || (match s.granuleRegion (a / 2097152) with | some r => r.ecc | none => false)

/-- Granules of a hub that are free: outside the system reservation and in no region. -/
def State.freeGranules (s : State) (h : Nat) : Nat :=
  196512 - (s.mem.regions.map (fun p => (p.2.granules.filter (fun g => g / 196608 = h)).length)).sum

/-! ## The check cache (R226) -/

/-- The DPA of the check line of a data line of an ECC-on granule (R225). -/
def checkLine (line : Nat) : Nat := line / 2097152 * 2097152 + 1966080 + (line % 2097152) / 64 / 16 * 64

/-- s with a data read's check line touched: a miss counts and brings the line in, clean; a full cache first gives up
one entry, which one being a free value (log entry 11). -/
def State.touchCheck (s : State) (line : Nat) (dirty : Bool) (isRead : Bool) : State :=
  let c := checkLine line
  let h := line / hubBytes
  match Tbl.find s.mem.checks c with
  | some d => if dirty && !d then { s with mem := { s.mem with checks := Tbl.put s.mem.checks c true } } else s
  | none =>
    let s := if isRead then s.cnt (R.MEM_CHECK_MISS h) else s
    let mine := (s.mem.checks.filter (fun p => p.1 / hubBytes = h)).map Prod.fst
    let s : State := if mine.length < 65536 then s else
      let (v, s) := s.fresh 16
      { s with mem := { s.mem with checks := Tbl.del s.mem.checks (nth mine (v % mine.length) 0) } }
    { s with mem := { s.mem with checks := Tbl.put s.mem.checks c dirty } }

/-! ## Lost words of the check cache and the copy guard (R232, R235) -/

/-- The DPA of byte o of hub h's store (R21), whose shares lie in the order of R234 (log entry 61). -/
def hubStoreAt (h o : Nat) : Nat := 0x800100000000 + h * 0x4000000 + o

/-- s after hub h has read word w of its store for its own use: a single-bit error is corrected, written back and counted; true where the
word is lost, which is counted and noted as found (R235). -/
def State.hubWord (s : State) (h w : Nat) : State × Bool :=
  if s.mem.bad.contains w then (State.cnt { s with mem := { s.mem with bad := setDel s.mem.bad w } } (R.MEM_STORE_UE h), true)
  else if s.mem.weak.contains w then (State.cnt { s with mem := { s.mem with weak := setDel s.mem.weak w } } (R.MEM_STORE_CE h), false)
  else (s, false)

/-- s with one data line of a check group taken as it is stored (R232): errors in it are in the data from now on. One of 1 or 2 symbols
leaves 2 bytes at free places with free values, one past correction a line of free values. -/
def State.keepErrors (s : State) (line : Nat) : State :=
  let clear := fun (s : State) => ({ s with mem := { s.mem with bad := setDel s.mem.bad line, weak := setDel s.mem.weak line } } : State)
  if s.mem.bad.contains line then
    let (v, s) := s.fresh 512
    clear { s with mem := { s.mem with bytes := Mem.write s.mem.bytes line (leBytes 64 v) } }
  else if s.mem.weak.contains line then
    let (v, s) := s.fresh 28
    let m := Mem.write s.mem.bytes (line + v % 64) (leBytes 1 (v / 4096))
    clear { s with mem := { s.mem with bytes := Mem.write m (line + v / 64 % 64) (leBytes 1 (v / 2 ^ 20)) } }
  else s

/-- s with a cached check line lost (R232): a clean one is dropped; a dirty one is made anew from the 16 lines of its group as stored, and
written back. -/
def State.checkLost (s : State) (c : Nat) : State :=
  match Tbl.find s.mem.checks c with
  | none => s
  | some false => { s with mem := { s.mem with checks := Tbl.del s.mem.checks c } }
  | some true =>
    let first := c / 2097152 * 2097152 + (c % 2097152 - 1966080) * 16
    let s := (List.range 16).foldl (fun s i => s.keepErrors (first + 64 * i)) s
    State.cnt { s with mem := { s.mem with checks := Tbl.put s.mem.checks c false } } (R.MEM_CHECK_REBUILD (c / hubBytes))

/-- The word of the hub store that holds the cached check of a line. -/
def checkWord (line : Nat) : Nat :=
  hubStoreAt (line / hubBytes) (Config.checkSlot (checkLine line) % 65536 * 64 + line / 64 % 16 / 2 * 8)

/-- s after the check of a line has been looked up in the check cache: a lost word shows here (R232, R235). -/
def State.checkLook (s : State) (line : Nat) : State :=
  if !Tbl.has s.mem.checks (checkLine line) then s
  else match s.hubWord (line / hubBytes) (checkWord line) with
    | (s, true) => s.checkLost (checkLine line)
    | (s, false) => s

/-- s with pages of a running snapshot to be copied again, those of one guard word of hub h: 64 pages from page number p0 of
the hub (R235). Those already copied spoil the snapshot (R366). -/
def State.guardWordLost (s : State) (h p0 : Nat) : State :=
  let hit := fun (p : CkPage) => p.page * 4096 / hubBytes = h && decide (p0 ≤ p.page - h * (hubBytes / 4096)) && decide (p.page - h * (hubBytes / 4096) < p0 + 64)
  s.ckp.jobs.foldl (fun s k => match k.2.run with
    | none => s
    | some r =>
      let again := r.copied.filter hit
      if r.phase ≠ 2 || again.isEmpty then s
      else
        let left := (again ++ r.left).mergeSort (fun a b => a.num ≤ b.num)
        let s : State := { s with mem := { s.mem with guard := again.foldl (fun g p => setIns g p.page) s.mem.guard } }
        { s with ckp := { s.ckp with jobs := Tbl.upd s.ckp.jobs k.1 (fun k =>
          { k with run := some { r with copied := r.copied.filter (fun p => !hit p), left := left, lost := true } }) } }) s

/-- s after the copy guard's bit of a pool DPA has been looked up: where its word is lost, every page the word covers counts as not yet
copied, so no write escapes the guard (R235, R365). -/
def State.guardLook (s : State) (a : Nat) : State :=
  let h := a / hubBytes
  let p := a % hubBytes / 4096
  match s.hubWord h (hubStoreAt h (0x400000 + p / 64 * 8)) with
  | (s, true) => s.guardWordLost h (p / 64 * 64)
  | (s, false) => s

/-! ## Reads of DRAM lines (R229, R230) -/

/-- s with a line noted in a log register that holds nothing yet (MEM_CE_LOG, MEM_UE_LOG). -/
def State.logLine (s : State) (reg line finder : Nat) : State :=
  if s.rf reg 63 1 = 1 then s
  else
    let o := line % hubBytes
    s.wr reg (o + finder * 2 ^ 39 + channelOf o * 2 ^ 42 + 2 ^ 63)

/-- 24 hours in ns. -/
def dayNs : Nat := 86400 * 10 ^ 9

/-- Whether a write to a line is queued: behind the copy guard, or of a cell (R229). -/
def State.lineQueued (s : State) (line : Nat) : Bool :=
  s.mem.guardWait.any (fun w => w.dpa / 64 = line / 64) || s.seqs.any (fun q => q.2.wq.any (fun w => w.2.2.any (fun p => p.1 / 64 = line / 64)))

/-- A corrected line: rewritten unless a write to it is queued, counted, logged, and the MC told once when the channel passes its
threshold (R229). -/
def State.correctLine (s : State) (line finder : Nat) : State :=
  let h := line / hubBytes
  let ch := channelOf (line % hubBytes)
  let dev := 96 * h + ch
  let s : State := if s.lineQueued line then s else { s with mem := { s.mem with weak := setDel s.mem.weak line } }
  let s := ((s.cnt (R.MEM_CE h)).cnt (R.MEM_CH_CE h ch)).logLine (R.MEM_CE_LOG h) line finder
  let times := (s.timeNs :: Tbl.get s.mem.ceTimes dev []).filter (fun t => s.timeNs < t + dayNs)
  let s : State := { s with mem := { s.mem with ceTimes := Tbl.put s.mem.ceTimes dev times } }
  let limit := s.rf (R.MEM_CE_THRESH h) 0 16
  if limit ≠ 0 && limit ≤ times.length && !s.mem.ceTold.contains dev then
    State.mcSignal { s with mem := { s.mem with ceTold := setIns s.mem.ceTold dev } } 3 (h + ch * 16)
  else s

/-- Reads one 64-byte pool line for use: false when it is uncorrectable (R229, R230). An ECC-off line is never
checked (R228). Finder: 1 requester, 2 scrub, 3 read-modify-write. -/
def State.readLine (s : State) (line finder : Nat) : State × Bool :=
  if !s.eccOn line then (s, true)
  else
    let s := (s.checkLook line).touchCheck line false true
    if s.mem.bad.contains line then
      let s := (s.cnt (R.MEM_UE (line / hubBytes))).logLine (R.MEM_UE_LOG (line / hubBytes)) line finder
      (if finder = 2 then s.mcSignal 4 (line / hubBytes) else s, false)
    else if s.mem.weak.contains line then (s.correctLine line finder, true)
    else (s, true)

/-- The counter of corrected, and of uncorrectable, words of an on-chip store (R68, R235). The counters of R235 are a hub's: those of port
buffer p count at HDp, those of the control store at HD0 (log entry 12). -/
def storeCtr (p : Place) (ue : Bool) : Option Nat := match p with
  | .cell c _ => some (if ue then R.LAT_CELL_STORE_UE c else R.LAT_CELL_STORE_CE c)
  | .hubStore h _ => some (if ue then R.MEM_STORE_UE h else R.MEM_STORE_CE h)
  | .portBuf p _ => some (if ue then R.MEM_STORE_UE p else R.MEM_STORE_CE p)
  | .control _ => some (if ue then R.MEM_STORE_UE 0 else R.MEM_STORE_CE 0)
  | _ => none

/-- Reads one 8-byte word of an on-chip store: false when it is uncorrectable. A cell store counts its uncorrectable
words at its scrub only, and a corrected one is rewritten later, by its own command (R68); the others count where an
access finds one (R235). -/
def State.readWord (s : State) (w : Nat) : State × Bool :=
  let p := place w
  if s.mem.bad.contains w then
    (match p, storeCtr p true with
      | .cell _ _, _ => s
      | _, some c => s.cnt c
      | _, none => s, false)
  else if s.mem.weak.contains w then
    let s : State := match p with
      | .cell _ _ => { s with mem := { s.mem with rewrite := setIns s.mem.rewrite w } }
      | _ => { s with mem := { s.mem with weak := setDel s.mem.weak w } }
    (match storeCtr p false with | some c => s.cnt c | none => s, true)
  else (s, true)

/-! ## Reads and writes by DPA -/

/-- The outcome of an access: the state after it, and the data or the status and detail it fails with. -/
inductive Res (α : Type)
  | ok (s : State) (a : α)
  | fail (s : State) (status detail : Nat)
deriving Repr

/-- The source number of MEM_UNCORRECTABLE's detail for a place (R231). -/
def sourceOf : Place → Nat
  | .pool _ _ => 1
  | .cell _ _ => 2
  | .hubStore _ _ => 3
  | .portBuf _ _ => 4
  | .control _ => 5
  | _ => 0

/-- MEM_UNCORRECTABLE and ADDRESS_ERROR (R50). -/
def stMemUncorrectable : Nat := 0x30
def stAddressError : Nat := 0x14

/-- The detail of MEM_UNCORRECTABLE: the source, and for pool DRAM the offset of the line in 4 KiB units from the start
of the access (R231). -/
def poolUeDetail (off : Nat) : Nat := 1 + 16 * min (off / 4096) 0x0FFFFFFF

/-- The detail by place; the on-chip stores give their source alone. -/
def ueDetail (p : Place) (off : Nat) : Nat := match p with
  | .pool _ _ => poolUeDetail off
  | p => sourceOf p

/-- The pieces of [a, a + n) cut at multiples of k: address and length. -/
def pieces (k : Nat) : Nat → Nat → Nat → List (Nat × Nat)
  | 0, _, _ => []
  | fuel + 1, a, n => if n = 0 then [] else
    let m := min n (k - a % k)
    (a, m) :: pieces k fuel (a + m) (n - m)

/-- The 64-byte pieces of a range. -/
def linePieces (a n : Nat) : List (Nat × Nat) := pieces 64 (n / 64 + 2) a n

/-- The 8-byte pieces of a range. -/
def wordPieces (a n : Nat) : List (Nat × Nat) := pieces 8 (n / 8 + 2) a n

/-- s with the channel of a pool DPA out of power-down: an access ends it (R217). -/
def State.touchChannel (s : State) (h o : Nat) : State := { s with mem := { s.mem with chDown := setDel s.mem.chDown (96 * h + channelOf o) } }

/-! ## Check lines (R225) -/

/-- Whether a pool DPA lies behind the data of an ECC-on granule: a check line, or the unused 8 KiB. -/
def State.checkArea (s : State) (a : Nat) : Bool := 1966080 ≤ a % 2097152 && s.eccOn a

/-- The check line at a DPA: the checks of its 16 data lines; the last 8 KiB reads as zero. -/
def State.checkLineBytes (s : State) (c : Nat) : List Byte :=
  if 2088960 ≤ c % 2097152 then zeroBytes 64
  else ((List.range 16).map (fun m =>
    leBytes 4 (Config.lineCheck (Mem.bytes s.mem.bytes (c / 2097152 * 2097152 + (c % 2097152 - 1966080) * 16 + 64 * m) 64)))).flatten

/-- n bytes of the check area that lie in one line. -/
def State.checkBytes (s : State) (a n : Nat) : List Byte := bsub (s.checkLineBytes (a - a % 64)) (a % 64) n

/-- s with bytes written into the check area: a data line whose check they change is uncorrectable from then on (log entry 157); the unused
8 KiB keeps nothing. -/
def State.pokeChecks (s : State) (a : Nat) (bs : List Byte) : State :=
  let c := a - a % 64
  if 2088960 ≤ c % 2097152 then s
  else
    let old := s.checkLineBytes c
    let new := old.take (a % 64) ++ bs ++ old.drop (a % 64 + bs.length)
    let hit := (List.range 16).filter (fun m => bsub old (4 * m) 4 ≠ bsub new (4 * m) 4)
    { s with mem := { s.mem with bad := hit.foldl (fun l m => setIns l (c / 2097152 * 2097152 + (c % 2097152 - 1966080) * 16 + 64 * m)) s.mem.bad } }

/-- Reads n bytes that lie in one line (pool) or one store, at DPA a; `off` is their offset from the start of the whole
access (R231). -/
def State.readPiece (s : State) (a n off finder : Nat) : Res (List Byte) :=
  match place a with
  | .none => .fail s stAddressError 0
  | .regs _ => .fail s stAddressError 0
  | .pool h o =>
    if s.checkArea a then .ok (s.touchChannel h o) (s.checkBytes a n)
    else match (s.touchChannel h o).readLine (a - a % 64) finder with
    | (s, true) => .ok s (Mem.bytes s.mem.bytes a n)
    | (s, false) => .fail s stMemUncorrectable (ueDetail (.pool h o) off)
  | p =>
    match (wordPieces a n).foldl (fun (acc : State × Bool) w => if acc.2 then acc.1.readWord (w.1 - w.1 % 8) else acc) (s, true) with
    | (s, true) => .ok s (Mem.bytes s.mem.bytes a n)
    | (s, false) => .fail s stMemUncorrectable (ueDetail p off)

/-- Puts bytes at a DPA with no check of any kind: what a write does once it is let through. Whole pool lines and whole
store words lose their error marks. -/
def State.poke (s : State) (a : Nat) (bs : List Byte) : State :=
  let n := bs.length
  let unit := match place a with | .pool _ _ => 64 | _ => 8
  let lo := roundUp a unit
  let hi := (a + n) / unit * unit
  let m := s.mem
  { s with mem := { m with
      bytes := Mem.write m.bytes a bs
      bad := if lo < hi then setDelRange m.bad lo (hi - lo) else m.bad
      weak := if lo < hi then setDelRange m.weak lo (hi - lo) else m.weak
      rewrite := if lo < hi then setDelRange m.rewrite lo (hi - lo) else m.rewrite } }

/-- Whether the page of a pool DPA is guarded (R365). -/
def State.guarded (s : State) (a : Nat) : Bool :=
  (match place a with | .pool _ _ => true | _ => false) && s.mem.guard.contains (a / 4096)

/-- Tags the whole words of [a, a + n) of a cell store. The tag of a word an engine writes is left open by the spec: a
free value for each word (log entry 13). -/
def State.tagWords (s : State) (a n : Nat) : State :=
  (wordPieces a n).foldl (fun s w =>
    if w.2 = 8 then
      let (t, s) := s.fresh 4
      { s with mem := { s.mem with tags := Tbl.set s.mem.tags w.1 t 0 } }
    else s) s

/-- Writes bytes that lie in one pool line or in one store at DPA a. A guarded page holds the write back (R365); a
partial line of an ECC-on region is a read-modify-write (R227, R230); a partial store word needs its old bytes (R68). -/
def State.writePiece (s : State) (a : Nat) (bs : List Byte) (off owner : Nat) : Res Unit :=
  match place a with
  | .none => .fail s stAddressError 0
  | .regs _ => .fail s stAddressError 0
  | .pool h o =>
    let s := s.guardLook a
    if s.checkArea a then .ok ((s.touchChannel h o).pokeChecks a bs) ()
    else if s.guarded a then
      let s := s.cnt R.CKP_GUARD_WAITS
      .ok { s with mem := { s.mem with guardWait := s.mem.guardWait ++ [⟨a, bs, owner, off⟩] } } ()
    else if s.eccOn a && bs.length < 64 then
      let s := (s.touchChannel h o).cnt (R.MEM_RMW h)
      match s.readLine (a - a % 64) 3 with
      | (s, true) => .ok (((s.poke a bs).checkLook (a - a % 64)).touchCheck (a - a % 64) true false) ()
      | (s, false) => .fail s stMemUncorrectable (ueDetail (.pool h o) off)
    else
      let s := s.touchChannel h o
      .ok (if s.eccOn a then ((s.poke a bs).checkLook (a - a % 64)).touchCheck (a - a % 64) true false else s.poke a bs) ()
  | p =>
    let whole := fun (w : Nat × Nat) => w.2 = 8
    match (wordPieces a bs.length).foldl (fun (acc : State × Bool) w =>
        if acc.2 && !whole w then acc.1.readWord (w.1 - w.1 % 8) else acc) (s, true) with
    | (s, true) => .ok (match p with | .cell _ _ => (s.poke a bs).tagWords a bs.length | _ => s.poke a bs) ()
    | (s, false) => .fail s stMemUncorrectable (ueDetail p off)

/-- Reads the pieces of an access in order, stopping at the first failure; `dpaOf` gives each piece's DPA. -/
def State.readPieces (s : State) (dpaOf : Nat → Nat) (start : Nat) : List (Nat × Nat) → List Byte → Res (List Byte)
  | [], acc => .ok s acc
  | (a, n) :: rest, acc =>
    match s.readPiece (dpaOf a) n (a - start) 1 with
    | .ok s bs => s.readPieces dpaOf start rest (acc ++ bs)
    | .fail s st d => .fail s st d

/-- Writes the pieces of an access in order, stopping at the first failure; gives the bytes written. -/
def State.writePieces (s : State) (dpaOf : Nat → Nat) (start owner : Nat) : List (Nat × Nat) → List Byte → Nat → State × Nat × Option (Nat × Nat)
  | [], _, done => (s, done, none)
  | (a, n) :: rest, bs, done =>
    match s.writePiece (dpaOf a) (bs.take n) (a - start) owner with
    | .ok s _ => s.writePieces dpaOf start owner rest (bs.drop n) (done + n)
    | .fail s st d => (s, done, some (st, d))

/-- Reads n bytes from region offset off (R224); an offset that does not resolve is ADDRESS_ERROR. -/
def State.readRegion (s : State) (r : Region) (off n : Nat) : Res (List Byte) :=
  if r.dataBytes < off + n then .fail s stAddressError 0 else s.readPieces r.dpa off (linePieces off n) []

/-- Writes bytes at region offset off: the state, the bytes written, and the failure if there was one. -/
def State.writeRegion (s : State) (r : Region) (off : Nat) (bs : List Byte) (owner : Nat := 0) : State × Nat × Option (Nat × Nat) :=
  if r.dataBytes < off + bs.length then (s, 0, some (stAddressError, 0))
  else s.writePieces r.dpa off owner (linePieces off bs.length) bs 0

/-- Region bytes as they stand once the writes to them that wait on the copy guard have proceeded, in arrival order (R365): what a later
read-modify-write finds. -/
def State.ahead (s : State) (r : Region) (off : Nat) (bs : List Byte) : List Byte :=
  if s.mem.guardWait.isEmpty then bs
  else (List.range bs.length).map (fun i =>
    let a := r.dpa (off + i)
    match s.mem.guardWait.reverse.find? (fun w => decide (w.dpa ≤ a) && decide (a < w.dpa + w.bytes.length)) with
    | some w => nth w.bytes (a - w.dpa) 0
    | none => nth bs i 0)

/-- s with a marker on the guarded page of a DPA for an access that waits as a whole (R365): it tells the copier, and counts once for its
owner. -/
def State.guardMark (s : State) (a owner : Nat) : State :=
  if s.mem.guardWait.any (fun w => w.owner = owner && w.bytes.isEmpty && w.dpa / 4096 = a / 4096) then s
  else State.cnt { s with mem := { s.mem with guardWait := s.mem.guardWait ++ [⟨a, [], owner, 0⟩] } } R.CKP_GUARD_WAITS

/-- Reads n bytes from DPA a. -/
def State.readDpa (s : State) (a n : Nat) : Res (List Byte) := s.readPieces id a (linePieces a n) []

/-- Writes bytes at DPA a. -/
def State.writeDpa (s : State) (a : Nat) (bs : List Byte) (owner : Nat := 0) : State × Nat × Option (Nat × Nat) :=
  s.writePieces id a owner (linePieces a bs.length) bs 0

/-- s with the contents of a region left undefined: a free value (log entry 60). -/
def State.scramble (s : State) (handle sl : Nat) : State :=
  match s.region handle sl with
  | none => s
  | some r =>
    let (v, s) := s.fresh (8 * r.dataBytes)
    (List.range r.granules.length).foldl (fun s i => s.poke (nth r.granules i 0 * 2097152) (leBytes (granData r.ecc) (v >>> (8 * granData r.ecc * i)))) s

/-- The owner number of a write of the host that waits on the copy guard (R366). -/
def hostOwner : Nat := 2 ^ 46

/-- s with a write of an owner noted as failed on an uncorrectable line (R230): the first one, by its offset in its access. A posted write
of the host, and one that belongs to nothing, has no one to tell. -/
def State.guardFails (s : State) (owner off : Nat) : State :=
  if owner = 0 || owner = hostOwner || Tbl.has s.mem.guardFail owner then s
  else { s with mem := { s.mem with guardFail := Tbl.put s.mem.guardFail owner off } }

/-- s with the failure of an owner's delayed writes taken note of. -/
def State.takeGuardFail (s : State) (owner : Nat) : State := { s with mem := { s.mem with guardFail := Tbl.del s.mem.guardFail owner } }

/-- Whether a page belongs to a running snapshot that has not copied it: it stays guarded then (R365). -/
def State.pageRuns (s : State) (page : Nat) : Bool :=
  s.ckp.jobs.any (fun k => match k.2.run with | some r => (r.left ++ r.reading).any (fun p => p.page = page) | none => false)

/-- The writes that wait on a page proceed in arrival order once its bit is clear (R365). A read-modify-write that then
finds its line uncorrectable is not performed, and its owner's access fails (R230). -/
def State.releaseGuard (s : State) (page : Nat) : State :=
  let mine := s.mem.guardWait.filter (fun w => w.dpa / 4096 = page)
  let s : State := { s with mem := { s.mem with guard := setDel s.mem.guard page
                                                guardWait := s.mem.guardWait.filter (fun w => w.dpa / 4096 ≠ page) } }
  mine.foldl (fun s w => if w.bytes.isEmpty then s else match s.writePiece w.dpa w.bytes w.off w.owner with
    | .ok s _ => s
    | .fail s _ _ => s.guardFails w.owner w.off) s

end Sys2Proof.Machine
end

