-- ==== Sys2Proof/Machine/XltOps.lean ====
section
/-! DEFINITION. Translation as an operation (R241 to R248, R252, R256, R258): finding the ASID of a PASID, walking the
device page table through the caches, and opening or joining a fault. -/

namespace Sys2Proof.Machine

/-- Status codes of R50 this file uses. -/
def stTranslationTimeout : Nat := 0x31
def stTranslationFault : Nat := 0x32
def stInvalidHandle : Nat := 0x12

/-- Reason codes of a fault record (R247). -/
def xrNotPresent : Nat := 1
def xrNoRead : Nat := 2
def xrNoWrite : Nat := 3
def xrMalformed : Nat := 4
def xrTableUe : Nat := 5

/-- How a walk ends (R247). -/
inductive Walk
  | host (s : State) (bus : Nat)
  | acc (s : State) (link addr : Nat)
  | fault (s : State) (level reason : Nat)
  | bad (s : State) (level reason : Nat)
  | ask (s : State)

/-- Page size of a leaf at a level, as the number of address bits (R246). -/
def pageBits (level : Nat) : Nat := 12 + 9 * (level - 1)

/-- Whether an entry breaks R246 at its level. -/
def entryBad (level e regionBytes : Nat) : Bool :=
  let leaf := bit e 1
  fld e 5 3 ≠ 0 || fld e 57 7 ≠ 0 ||
  (level = 4 && leaf) || (level = 1 && !leaf) ||
  (if leaf then (fld e 4 1 = 0 && fld e 8 4 ≠ 0) || fld e 12 (9 * (level - 1)) ≠ 0
   else fld e 8 4 ≠ 0 || regionBytes < (fld e 12 45) * 4096 + 4096)

/-- The walker that serves a requester (R248, R253): a hub's own, the TMT of a port die, and HD0's for ring fetch, storage and checkpoint (log
entry 158). -/
def walkerOf (req : Nat) : Nat := if 1 ≤ req && req ≤ 16 then req - 1 else 0

/-- The word of its cache that holds an entry. -/
def XCached.word (c : XCached) : Nat := Config.walkSlot c.asid c.level c.path % 2 ^ 20

/-- The entry that walker k has cached for a level on an IOVA's path (R248). -/
def Xlt.cached (x : Xlt) (k asid level iova : Nat) : Option Nat :=
  (x.cache.find? (fun c => c.walker = k && c.asid = asid && c.level = level && c.path = iova >>> pageBits level)).map (fun c => c.entry)

/-- s with an entry cached by walker k (R248). -/
def State.xcache (s : State) (k asid level iova e : Nat) : State :=
  if (s.xlt.cached k asid level iova).isSome then s
  else { s with xlt := { s.xlt with cache := s.xlt.cache ++ [⟨asid, level, iova >>> pageBits level, e, k⟩] } }

/-- s after walker k has looked up an IOVA's path: an entry whose word of the hub store is lost is dropped, and the walker walks again (R235). -/
def State.xlook (s : State) (k asid iova : Nat) : State :=
  if 12 ≤ k then s
  else (s.xlt.cache.filter (fun c => c.walker = k && c.asid = asid && c.path = iova >>> pageBits c.level)).foldl (fun s c =>
    match s.hubWord k (hubStoreAt k (0x1000000 + 8 * c.word)) with
    | (s, true) => { s with xlt := { s.xlt with cache := s.xlt.cache.erase c } }
    | (s, false) => s) s

/-- What a leaf gives for an access (R246, R247). -/
def useLeaf (s : State) (k asid level iova e : Nat) (isWrite : Bool) : Walk :=
  if !isWrite && !bit e 2 then .fault s level xrNoRead
  else if isWrite && !bit e 3 then .fault s level xrNoWrite
  else
    let s := s.xcache k asid level iova e
    let out := fld e 12 45 * 4096 + iova % 2 ^ pageBits level
    if bit e 4 then .acc s (fld e 8 4) out else .host s out

/-- The walk of walker k from a level down; `table` is the region offset of the level's table (R246, R247). -/
def walkFrom (k asid iova : Nat) (isWrite : Bool) (rg : Region) : Nat → Nat → State → Walk
  | 0, _, s => .bad s 1 xrMalformed
  | level + 1, table, s =>
    let lv := level + 1
    match s.xlt.cached k asid lv iova with
    | some e => if bit e 1 then useLeaf s k asid lv iova e isWrite
                else walkFrom k asid iova isWrite rg level (fld e 12 45 * 4096) s
    | none =>
      match s.readRegion rg (table + fld iova (pageBits lv) 9 * 8) 8 with
      | .fail s _ _ => .bad s lv xrTableUe
      | .ok s bs =>
        let e := leNat bs
        if !bit e 0 then .fault s lv xrNotPresent
        else if entryBad lv e rg.dataBytes then .bad s lv xrMalformed
        else if bit e 1 then useLeaf s k asid lv iova e isWrite
        else walkFrom k asid iova isWrite rg level (fld e 12 45 * 4096) (s.xcache k asid lv iova e)

/-- Whether an access is translated from a leaf that walker k has cached (XLT_WALK_HITS). -/
def Xlt.hit (x : Xlt) (k asid iova : Nat) : Bool :=
  [1, 2, 3].any (fun l => match x.cached k asid l iova with | some e => bit e 1 | none => false)

/-- One translation by walker k under an ASID in effect (R243, R247). ATS asks the host where nothing is cached (R258). -/
def State.walk (s : State) (k num : Nat) (a : Asid) (iova : Nat) (isWrite : Bool) : Walk :=
  if a.mode = 2 then .host s iova
  else if iova ≥ 2 ^ 48 && a.mode = 0 then .bad s 4 xrMalformed
  else
    let s := s.xlook k num iova
    let s := s.cnt (if s.xlt.hit k num iova then R.XLT_WALK_HITS else R.XLT_WALKS)
    if a.mode = 1 then
      match s.xlt.cached k num 1 iova with
      | some e => useLeaf s k num 1 iova e isWrite
      | none => .ask s
    else match s.region (s.rd R.XLT_TABLE_REGION) 0 with
      | none => .bad s 4 xrMalformed
      | some rg => walkFrom k num iova isWrite rg 4 a.root s

/-- The ASID in effect that holds a PASID. -/
def State.asidOf (s : State) (pasid : Nat) : Option (Nat × Asid) := s.xlt.asids.find? (fun p => p.2.pasid = pasid)

/-- A free fault table slot: ATS faults take slots 0 to 511; mirror faults 512 to 4,095 first (R258). -/
def State.freeSlot (s : State) (ats : Bool) : Option Nat :=
  if ats then lowestFree s.xlt.faults 0 512
  else (lowestFree s.xlt.faults 512 3584).orElse (fun _ => lowestFree s.xlt.faults 0 512)

/-- s after the Page Request of the ATS fault in a slot: it is sent, or waits for the host's allocation (R258). -/
def State.sendPrg (s : State) (slot : Nat) (f : Fault') : State :=
  if s.xlt.prgCredits = 0 then s.wf R.XLT_STATUS 1 1 1
  else State.emit { s with xlt := { s.xlt with prgCredits := s.xlt.prgCredits - 1, prgOut := s.xlt.prgOut ++ [slot] } }
    (.ats 1 [f.asid, f.page, slot, b2n f.rd, b2n f.wr])

/-- s with the Page Requests that waited for the host's allocation sent, as far as it goes (R256, R258). -/
def State.sendPrgs (s : State) : State :=
  (s.xlt.faults.filter (fun f => f.2.ats && !f.2.late && !s.xlt.prgOut.contains f.1)).foldl (fun s f =>
    if s.xlt.prgCredits = 0 then s else s.sendPrg f.1 f.2) s

/-- s with an access stalled on a fault: it joins an open one of its ASID and page, opens one, or waits without a slot
(R252, R256). -/
def State.openFault (s : State) (asid page level reason : Nat) (ats : Bool) (time : Nat) (w : Waiter) : State :=
  match s.xlt.faults.find? (fun p => p.2.asid = asid && p.2.page = page && !p.2.late) with
  | some (slot, f) =>
    let early := !f.written && decide (time ≤ f.time + s.rf R.XLT_CTRL 8 8 * 64)
    let f := { f with waiters := f.waiters ++ [w]
                      reqs := if early then f.reqs ||| 2 ^ w.req else f.reqs
                      rd := f.rd || (early && !w.isWrite)
                      wr := f.wr || (early && w.isWrite) }
    State.cnt { s with xlt := { s.xlt with faults := Tbl.put s.xlt.faults slot f } } R.XLT_FAULT_JOINED
  | none =>
    match s.freeSlot ats with
    | none =>
      let s := s.wf R.XLT_STATUS 0 1 1
      { s with xlt := { s.xlt with spill := s.xlt.spill ++ [⟨asid, page, level, reason, ats, time, w⟩] } }
    | some slot =>
      let g := Tbl.get s.xlt.slotGen slot 0
      let f : Fault' := { gen := g, asid := asid, page := page, level := level, reason := reason, reqs := 2 ^ w.req
                          rd := !w.isWrite, wr := w.isWrite, written := false, ats := ats, late := false
                          time := time, waiters := [w] }
      let s : State := { s with xlt := { s.xlt with faults := Tbl.put s.xlt.faults slot f } }
      if ats then s.sendPrg slot f else s

/-- An informational record of a malformed or unreadable entry (R247): its 32 bytes, the phase bit apart. -/
def faultRecord (iova asid faultId pasid : Nat) (rd wr : Bool) (level reason : Nat) (noResp : Bool) (reqs sl time : Nat) : Nat :=
  iova / 4096 * 4096 + asid * 2 ^ 64 + faultId * 2 ^ 80 +
  (pasid + b2n rd * 2 ^ 20 + b2n wr * 2 ^ 21 + level * 2 ^ 22 + reason * 2 ^ 25 + b2n noResp * 2 ^ 30) * 2 ^ 96 +
  (reqs % 2 ^ 32) * 2 ^ 128 + sl * 2 ^ 160 + (time % 2 ^ 32) * 2 ^ 192

/-- Where an access to host-side memory goes, or how it ends (R241, R245, R247). -/
inductive XRes
  | host (s : State) (bus : Nat)
  | acc (s : State) (link addr : Nat)
  | stall (s : State)
  | fail (s : State) (status detail : Nat)

/-- Translates one IOVA for an engine working for a slice under a PASID; a fault stalls the waiter. -/
def State.translate (s : State) (pasid sl iova : Nat) (isWrite : Bool) (w : Waiter) : XRes :=
  if Tbl.find s.pasids pasid ≠ some sl then .fail s stInvalidHandle 0
  else match s.asidOf pasid with
    | none => .fail s stTranslationFault 1
    | some (num, a) =>
      match s.walk (walkerOf w.req) num a iova isWrite with
      | .host s b => .host s b
      | .acc s l b => .acc s l b
      | .fault s lv rs => .stall (s.openFault num (iova / 4096) lv rs (a.mode = 1) s.timeNs { w with isWrite := isWrite, since := s.timeNs })
      | .ask s => .stall (State.emit { s with xlt := { s.xlt with atsOut := s.xlt.atsOut ++ [(num, iova / 4096, { w with isWrite := isWrite })] } }
                    (.ats 0 [num, pasid, iova / 4096, b2n isWrite]))
      | .bad s lv rs =>
        let rec32 := faultRecord iova num 0 pasid (!isWrite) isWrite lv rs true (2 ^ w.req) a.slice s.timeNs
        let s : State := { s with xlt := { s.xlt with info := s.xlt.info ++ [rec32] } }
        if rs = xrTableUe then .fail s stMemUncorrectable 1 else .fail s stTranslationFault 0

/-- A piece of a translated range: Denux link (none for the host), address, length. -/
abbrev HostPiece := Option Nat × Nat × Nat

/-- The pieces of an IOVA range, page by page, or how its translation ends. -/
inductive XRange
  | ok (s : State) (ps : List HostPiece)
  | stall (s : State)
  | fail (s : State) (status detail : Nat)

/-- Translates a list of page pieces of an IOVA range in order. -/
def State.translateAll (s : State) (pasid sl : Nat) (isWrite : Bool) (w : Waiter) : List (Nat × Nat) → List HostPiece → XRange
  | [], acc => .ok s acc
  | (a, n) :: rest, acc =>
    match s.translate pasid sl a isWrite w with
    | .host s b => s.translateAll pasid sl isWrite w rest (acc ++ [(none, b, n)])
    | .acc s l b => s.translateAll pasid sl isWrite w rest (acc ++ [(some l, b, n)])
    | .stall s => .stall s
    | .fail s st d => .fail s st d

/-- Translates [iova, iova + n). -/
def State.translateRange (s : State) (pasid sl iova n : Nat) (isWrite : Bool) (w : Waiter) : XRange :=
  s.translateAll pasid sl isWrite w (pieces 4096 (n / 4096 + 2) iova n) []

/-- s without a waiter in any fault; a fault whose last waiter leaves gives up its slot, its generation going up, an
ATS slot only once its PRG Response has come (R254, R258). -/
def State.leaveFaults (s : State) (p : Waiter → Bool) : State :=
  let touched := s.xlt.faults.filter (fun e => e.2.waiters.any p)
  let s : State := { s with xlt := { s.xlt with spill := s.xlt.spill.filter (fun e => !p e.waiter) } }
  touched.foldl (fun s e =>
    let ws := e.2.waiters.filter (fun w => !p w)
    let x := s.xlt
    if !ws.isEmpty then { s with xlt := { x with faults := Tbl.put x.faults e.1 { e.2 with waiters := ws } } }
    else if e.2.ats && x.prgOut.contains e.1 then { s with xlt := { x with faults := Tbl.put x.faults e.1 { e.2 with waiters := [], late := true } } }
    else { s with xlt := { x with faults := Tbl.del x.faults e.1
                                  slotGen := Tbl.set x.slotGen e.1 ((Tbl.get x.slotGen e.1 0 + 1) % 16) 0 } }) s

/-- The accesses that stall without a slot are given one, oldest first, as long as there are free ones (R256). -/
def State.promoteSpill (s : State) : State :=
  s.xlt.spill.foldl (fun s e =>
    if (s.freeSlot e.ats).isNone && !s.xlt.faults.any (fun p => p.2.asid = e.asid && p.2.page = e.page && !p.2.late) then s
    else
      let s : State := { s with xlt := { s.xlt with spill := s.xlt.spill.filter (fun k => k ≠ e) } }
      s.openFault e.asid e.page e.level e.reason e.ats e.time e.waiter) s

/-- s with the fault of a slot answered or emptied: the slot is freed and its generation goes up (R254). -/
def State.closeFault (s : State) (slot : Nat) : State :=
  State.promoteSpill { s with xlt := { s.xlt with
    faults := Tbl.del s.xlt.faults slot
    slotGen := Tbl.set s.xlt.slotGen slot ((Tbl.get s.xlt.slotGen slot 0 + 1) % 16) 0 } }

/-- The AT of a host request under a PASID (R246, R258): translated where ATS gave an address for the IOVA. -/
def State.atOf (s : State) (pasid iova bus : Nat) : Nat := match s.asidOf (pasid % 2 ^ 20) with
  | some (_, a) => if a.mode = 1 && bus ≠ iova then 2 else 0
  | none => 0

/-- A descriptor as a waiter of an engine (R253: requester bit). -/
def jobWaiter (sr tag req : Nat) : Waiter := ⟨false, sr, tag, req, false, false, 0⟩

end Sys2Proof.Machine
end

