-- ==== Sys2Proof/Machine/RingOps.lean ====
section
/-! DEFINITION. Descriptors and completions as shared operations: descriptor fields (R44), ring states (R39, R410),
starting in ring order (R43), the commit point (R47, R49, R53), and gathering of host and accelerator operands. -/

namespace Sys2Proof.Machine

/-! ## Status codes of R50 -/

def stSuccess : Nat := 0
def stDone : Nat := 1
def stAlreadyDone : Nat := 2
def stAborted : Nat := 3
def stInvalidDescriptor : Nat := 0x10
def stInvalidOpcode : Nat := 0x11
def stTagInUse : Nat := 0x13
def stUnsupported : Nat := 0x15
def stQuotaExceeded : Nat := 0x16
def stSliceBusy : Nat := 0x17
def stFeuilleInvalid : Nat := 0x18
def stFeuilleReadOnly : Nat := 0x19
def stFeuilleBusy : Nat := 0x1A
def stRingInvalid : Nat := 0x1B
def stBusMasterDisabled : Nat := 0x33
def stHostDmaError : Nat := 0x34
def stMachineCheck : Nat := 0x35
def stFirmwareError : Nat := 0x36
def stNoConsistentStep : Nat := 0x37
def stLinkError : Nat := 0x38
def stClockStall : Nat := 0x39
def stRegionBusy : Nat := 0x101

/-- Whether an agreed feature is on (FWC_AGREED). -/
def State.feature (s : State) (b : Nat) : Bool := bit (s.rd R.FWC_AGREED) b

/-! Status codes of R417 and R448. -/

def stFeatureOff : Nat := 0xA00
def stVersionMismatch : Nat := 0xA01
def stSliceState : Nat := 0x900

/-- The unit field of a completion that concerns no unit (R47). -/
def noUnit : Nat := 0xFFFFFFFF

/-! ## Descriptor fields (R44): byte offsets into the 64-byte number -/

/-- Bytes a to a + n - 1 of a descriptor. -/
def dby (d a n : Nat) : Nat := fld d (8 * a) (8 * n)

def dOpcode (d : Nat) : Nat := dby d 0 1
def dFence (d : Nat) : Bool := bit d 8
def dIrq (d : Nat) : Bool := bit d 9
def dTag (d : Nat) : Nat := dby d 2 2
def dSlice (d : Nat) : Nat := fld d 32 6
def dCr (d : Nat) : Nat := dby d 6 2

/-- Whether every bit of the body outside the given byte ranges (start, length) is 0 (R6). -/
def rsvdZero (d : Nat) (used : List (Nat × Nat)) : Bool :=
  clearBits (d >>> 64) (used.foldl (fun m u => m ||| ones (8 * (u.1 - 8)) (8 * u.2)) 0) % 2 ^ 448 = 0

/-! ## Slices and ring states -/

/-- The record of a slice. -/
def Slice.none : Slice :=
  { state := .absent, prev := .absent, tearing := false, retGroups := 0, weight := 1, rate := 0 }

def State.slice (s : State) (n : Nat) : Slice := Tbl.get s.slices n Slice.none

/-- The code of a slice state (SLC_STATUS). -/
def SlState.code : SlState → Nat
  | .absent => 0 | .active => 1 | .quiescing => 2 | .quiesced => 3 | .orphaned => 4 | .error => 5

/-- The state of an existing ring follows its slice's (R39, R410): 1 ACTIVE, 2 STOPPED, 3 ORPHANED, 4 ERROR. -/
def ringState (st : SlState) : Nat := match st with
  | .active => 1 | .quiescing => 2 | .quiesced => 2 | .orphaned => 3 | .error => 4 | .absent => 1

/-- s with a slice in a new state: a type 0x03 event on EQ 0 with the state in its detail (R410). -/
def State.setSlice (s : State) (n : Nat) (st : SlState) : State :=
  let r := s.slice n
  State.postEvent { s with slices := Tbl.put s.slices n { r with state := st } } 0 n 3 st.code

/-! ## Outstanding descriptors -/

/-- A number that stands for a descriptor as the owner of a waiting write. -/
def ownerNum (sr tag : Nat) : Nat := 1 + sr * 65536 + tag

def State.job (s : State) (sr tag : Nat) : Option Job := s.ring.jobs.find? (fun j => j.sr = sr && j.tag = tag)

/-- s with an outstanding descriptor changed. -/
def State.updJob (s : State) (sr tag : Nat) (f : Job → Job) : State :=
  { s with ring := { s.ring with jobs := updFirst (fun j => j.sr = sr && j.tag = tag) f s.ring.jobs } }

/-- The waiting descriptors of a ring that may start, in ring order: none passes a fence that still waits, and a fence
waits for every earlier one (R43). -/
def startJobs (sr : Nat) : Bool → Bool → List Job → List Job
  | _, _, [] => []
  | earlier, blocked, j :: rest =>
    if j.sr ≠ sr then j :: startJobs sr earlier blocked rest
    else if j.phase ≠ .waiting then j :: startJobs sr true blocked rest
    else if blocked || (j.fence && earlier) then j :: startJobs sr true true rest
    else { j with phase := .started } :: startJobs sr true blocked rest

/-- s with every descriptor of a ring started that may start. -/
def State.release (s : State) (sr : Nat) : State := { s with ring := { s.ring with jobs := startJobs sr false false s.ring.jobs } }

/-- Entries a completion ring has free (R49: every entry is usable). -/
def Cr.free (c : Cr) : Nat := 2 ^ c.at'.log2 - (c.written - c.freed)

/-- s with one completion committed and not yet written; a ring with no free entry counts it as held (R49). -/
def State.addCpl (s : State) (c : Cpl) : State :=
  let full := match Tbl.find s.ring.crs c.cr with | some r => decide (r.free = 0) | none => false
  let s : State := { s with ring := { s.ring with unwritten := s.ring.unwritten ++ [{ c with counted := full, time := s.timeNs % 2 ^ 32 }] } }
  if full then s.cnt R.RNG_CR_FULL else s

/-- s without the running snapshot of a descriptor, if it has one: its guard clears, waiting writes proceed,
and its snapshot area is undefined (R366). -/
def State.dropSnap (s : State) (sr tag : Nat) : State :=
  match s.ckp.jobs.find? (fun k => match k.2.run with | some r => r.sr = sr && r.tag = tag | none => false) with
  | some (n, k) =>
    let pages := match k.run with | some r => r.left ++ r.reading | none => []
    let s : State := { s with ckp := { s.ckp with jobs := Tbl.upd s.ckp.jobs n (fun k => { k with run := none }) } }
    ((pages.filter (fun p => !s.pageRuns p.page)).foldl (fun s p => s.releaseGuard p.page) s).scramble k.snap k.slice
  | none => s

/-- s with nothing of a descriptor left in the storage function, the checkpoint coordinator and the KCE; a
message it sent on a QP goes on, as no one's. -/
def State.dropWork (s : State) (sr tag : Nat) : State :=
  let s := s.dropSnap sr tag
  let other := fun (b : StorBy) => match b with | .desc a c => !(a = sr && c = tag) | _ => true
  { s with
    stor := s.stor.leave other (fun r => !(r.1 = sr && r.2.1 = tag)) s.timeNs
    ckp := { s.ckp with watches := s.ckp.watches.filter (fun w => !(w.sr = sr && w.tag = tag)) }
    tmt := { s.tmt with qps := Tbl.mapV s.tmt.qps (fun _ q => { q with msgs := q.msgs.map (fun m =>
      if m.inner && m.sr = sr && m.tag = tag then { m with sr := 0xFFFF } else m) }) }
    kce := { s.kce with msgs := s.kce.msgs.filter (fun m => !(m.sr = sr && m.tag = tag)) } }

/-- The state of a Denux link (DNX_STATUS). -/
def State.dnxState (s : State) (link : Nat) : Nat := s.rf (R.DNX_STATUS link) 0 3

/-- s with a message queued on a Denux link (R330, R332); a link that is DOWN takes none (R339). -/
def State.dnxSend (s : State) (link : Nat) (msg : List Byte) : State :=
  if s.dnxState link = 7 then s
  else
    let l := Tbl.get s.ports.links link DnxLink.fresh
    { s with ports := { s.ports with links := Tbl.put s.ports.links link { l with sendQ := l.sendQ ++ [msg] } } }

/-- A Denux message: header fields and data, padded to whole units (R329). -/
def dnxMsg (ty flags tag len addr operand compare : Nat) (data : List Byte) : List Byte :=
  leBytes 1 ty ++ leBytes 1 flags ++ leBytes 2 tag ++ leBytes 2 len ++ zeroBytes 2 ++ leBytes 8 addr ++ leBytes 8 operand ++
  leBytes 8 compare ++ data ++ zeroBytes (roundUp data.length 16 - data.length)

/-- s with an outbound request on a link: a fresh message tag, the READ_REQ or ATOMIC_REQ sent (R330, R336). -/
def State.dnxRequest (s : State) (link ty flags addr len operand compare : Nat) (what : DnxFor) : State :=
  let l := Tbl.get s.ports.links link DnxLink.fresh
  let t := l.nextTag % 65536
  let l := { l with nextTag := t + 1, reqs := l.reqs ++ [⟨t, addr, len, what, [], false, s.timeNs⟩]
                    sendQ := l.sendQ ++ [dnxMsg ty flags t len addr operand compare []] }
  { s with ports := { s.ports with links := Tbl.put s.ports.links link l } }

/-- The commit point of a descriptor: its status is fixed, it leaves every fault and every gather, requests of it still
out are discarded when they return, and later descriptors of the ring may start (R47, R52, R254). Writes of it to accelerator memory
that have not landed keep its entry back (R53, R333). -/
def State.commitNow (s : State) (j : Job) (status unit detail result : Nat) : State :=
  let mine := fun (a b : Nat) => decide (a = j.sr) && decide (b = j.tag)
  let s := (s.leaveFaults (fun w => !w.ring && mine w.sr w.tag)).dropWork j.sr j.tag
  let wrote := s.pcie.wroteLinks.filter (fun w => mine w.1 w.2.1 && s.dnxState w.2.2.1 ≠ 7)
  let s := wrote.foldl (fun s w => s.dnxRequest w.2.2.1 2 0 w.2.2.2 0 0 0 (.landing j.sr j.tag)) s
  let p := s.pcie
  let still := (p.landings.filter (fun l => !(mine l.sr l.tag && l.links.isEmpty))).map (fun l => if mine l.sr l.tag then { l with past := true } else l)
  let s : State := { s with
    ring := { s.ring with jobs := s.ring.jobs.filter (fun k => !mine k.sr k.tag) }
    pcie := { p with
      gathers := p.gathers.filter (fun g => !mine g.sr g.tag)
      readWait := p.readWait.filter (fun r => match r.what with | .job a b => !mine a b | _ => true)
      wroteLinks := p.wroteLinks.filter (fun w => !mine w.1 w.2.1)
      landings := if wrote.isEmpty then still else still ++ [⟨j.sr, j.tag, status, unit, detail, result, wrote.map (fun w => w.2.2.1), true⟩]
      reads := Tbl.mapV p.reads (fun _ r => match r.what with
        | .job a b => if mine a b then { r with discard := true } else r
        | _ => r) } }
  let s := s.addCpl { sr := j.sr, tag := j.tag, cr := j.cr, slice := j.slice, status := status, unit := unit, detail := detail % 2 ^ 32
                      result := result % 2 ^ 64, time := 0, irq := j.irq, counted := false }
  s.release j.sr

/-- Whether writes of a descriptor wait on the copy guard (R365). -/
def State.guardHolds (s : State) (sr tag : Nat) : Bool := s.mem.guardWait.any (fun w => w.owner = ownerNum sr tag)

/-- Commits a descriptor whose writes have all landed; one of which a delayed write met an uncorrectable line completes
MEM_UNCORRECTABLE (R230). -/
def State.commitLanded (s : State) (j : Job) (status unit detail result : Nat) : State :=
  match Tbl.find s.mem.guardFail (ownerNum j.sr j.tag) with
  | none => s.commitNow j status unit detail result
  | some off => (s.takeGuardFail (ownerNum j.sr j.tag)).commitNow j stMemUncorrectable noUnit (poolUeDetail off) result

/-- The descriptors whose outcome is settled and whose writes no longer wait on anything commit (R53, R365). -/
def State.settleWrites (s : State) : State :=
  (s.pcie.landings.filter (fun l => !l.past && l.sr < 65536 && l.links.isEmpty && !s.guardHolds l.sr l.tag)).foldl (fun s l =>
    match s.job l.sr l.tag with
    | some j => s.commitLanded j l.status l.unit l.detail l.result
    | none => s) s

/-- The commit of a descriptor; where it ends a snapshot, the writes that the guard let go settle theirs (R366). -/
def State.commit (s : State) (j : Job) (status unit detail result : Nat) : State :=
  let snaps := s.ckp.jobs.any (fun k => match k.2.run with | some r => r.sr = j.sr && r.tag = j.tag | none => false)
  if snaps then (s.commitNow j status unit detail result).settleWrites else s.commitNow j status unit detail result

/-- A commit with no unit and no detail. -/
def State.commit' (s : State) (j : Job) (status : Nat) (result : Nat := 0) : State := s.commit j status noUnit 0 result

/-- The terminal status of a descriptor: committed at once, or, when it wrote accelerator memory, once a landing read on
each link has returned (R333), and once no write of it waits on the copy guard (R365). -/
def State.finish (s : State) (j : Job) (status unit detail result : Nat) : State :=
  let mine := s.pcie.wroteLinks.filter (fun w => w.1 = j.sr && w.2.1 = j.tag)
  if mine.isEmpty && !s.guardHolds j.sr j.tag then
    (match Tbl.find s.mem.guardFail (ownerNum j.sr j.tag) with
      | none => s.commit j status unit detail result
      | some _ => s.commitLanded j status unit detail result)
  else
    let s := mine.foldl (fun s w => s.dnxRequest w.2.2.1 2 0 w.2.2.2 0 0 0 (.landing j.sr j.tag)) s
    let s := s.updJob j.sr j.tag (fun k => { k with phase := .running })
    { s with pcie := { s.pcie with
        wroteLinks := s.pcie.wroteLinks.filter (fun w => !(w.1 = j.sr && w.2.1 = j.tag))
        landings := s.pcie.landings ++ [⟨j.sr, j.tag, status, unit, detail, result, mine.map (fun w => w.2.2.1), false⟩] } }

/-- SUCCESS with a result. -/
def State.succeed (s : State) (j : Job) (result : Nat) : State := s.finish j stSuccess noUnit 0 result

/-- A failure status with a detail and the bytes written so far. -/
def State.failJob (s : State) (j : Job) (status detail : Nat) : State := s.finish j status noUnit detail j.moved

/-! ## Operands of descriptors -/

/-- The outcome of an operand access: done, waiting (the state says what for), or failed. -/
inductive Io (α : Type)
  | ok (s : State) (a : α)
  | wait (s : State)
  | fail (s : State) (status detail : Nat)

/-- Whether host DMA of a slice waits: its lease has run out (R60). -/
def State.hostWaits (s : State) (sl : Nat) : Bool := (s.slice sl).state = .orphaned

/-- The descriptor's job waits at an access. -/
def State.park (s : State) (j : Job) (p : JobPhase) : State := s.updJob j.sr j.tag (fun k => { k with phase := p })

/-- A window of a Denux link holds [a, a + n) with a permission for a slice (R334): perm bit 1 read, 2 write, 3 atomic. -/
def windowHolds (w sl a n perm : Nat) : Bool :=
  bit w 0 && bit w perm && fld w 4 6 = sl && fld w 12 52 * 4096 ≤ a && a + n ≤ fld w 12 52 * 4096 + fld w 64 64

/-- Whether an outbound access lies in one valid window of the slice (R334). -/
def State.dnxOutOk (s : State) (link sl a n perm : Nat) : Bool :=
  (List.range 16).any (fun w => windowHolds (s.rd (R.DNX_OUT_WINDOW (link * 16 + w))) sl a n perm)

/-- s with a host read request issued (R426): it takes a PCIe tag and counts, and its completion timer starts (R432). -/
def State.readIssue (s : State) (r : HostRead) : State :=
  let p := s.pcie
  let t := (lowestFree p.reads p.nextTag 20000).getD 0
  State.cnt (State.emit { s with pcie := { p with reads := Tbl.put p.reads t { r with since := s.timeNs } } } (.hostRead r.fn r.addr r.len r.at')) R.PCI_RD_REQ

/-- The outstanding requests of a function that may be added before 4,096 are out (R426). -/
def State.readRoom (s : State) (fn : Nat) : Nat := 4096 - (s.pcie.reads.filter (fun r => r.2.fn = fn)).length

/-- s with one host read request issued, or waiting behind those before it for one that is out to end (R426); its AT is untranslated (0)
or translated (2). -/
def State.hostRead (s : State) (fn addr len : Nat) (what : ReadFor) (pos : Nat) (at' : Nat := 0) : State :=
  let r : HostRead := ⟨fn, addr, len, what, pos, false, at', s.timeNs⟩
  if s.pcie.readWait.isEmpty && 0 < s.readRoom fn then s.readIssue r else { s with pcie := { s.pcie with readWait := s.pcie.readWait ++ [r] } }

/-- s with the requests issued that waited for an outstanding one to end (R426). -/
def State.readsGo (s : State) : State :=
  let k := s.readRoom 0
  (s.pcie.readWait.take k).foldl State.readIssue { s with pcie := { s.pcie with readWait := s.pcie.readWait.drop k } }

/-- s with host memory written (R426). -/
def State.hostPut (s : State) (bus : Nat) (bs : List Byte) : State := { s with pcie := { s.pcie with host := Mem.write s.pcie.host bus bs } }

/-- s with accelerator memory written over a link: WRITE messages of at most 4,096 bytes (R330), in order. -/
def State.accPut (s : State) (link addr : Nat) (bs : List Byte) : State :=
  let s := (pieces 4096 (bs.length / 4096 + 2) addr bs.length).foldl (fun s p =>
    s.dnxSend link (dnxMsg 1 0 0 p.2 p.1 0 0 (bsub bs (p.1 - addr) p.2))) s
  { s with ports := { s.ports with acc := Tbl.put s.ports.acc link (Mem.write (Tbl.get s.ports.acc link []) addr bs) } }

/-- Issues the requests that gather the pieces of an operand; true when a piece went to the host. -/
def State.gather (s : State) (j : Job) (loc handle off : Nat) (ps : List HostPiece) : State :=
  let total := (ps.map (fun p => p.2.2)).sum
  let step := fun (acc : State × Nat × Nat) (p : HostPiece) =>
    match p.1 with
    | none =>
      let m := s.pcie.mrrs
      let qs := pieces m (p.2.2 / m + 2) p.2.1 p.2.2
      (qs.foldl (fun s' q => s'.hostRead 0 q.1 q.2 (.job j.sr j.tag) (acc.2.1 + (q.1 - p.2.1)) (s.atOf handle (off + acc.2.1) p.2.1)) acc.1,
        acc.2.1 + p.2.2, acc.2.2 + qs.length)
    | some l =>
      let qs := pieces 4096 (p.2.2 / 4096 + 2) p.2.1 p.2.2
      (qs.foldl (fun s q => s.dnxRequest l 2 0 q.1 q.2 0 0 (.read (.job j.sr j.tag) (acc.2.1 + (q.1 - p.2.1)))) acc.1,
        acc.2.1 + p.2.2, acc.2.2 + qs.length)
  let r := ps.foldl step (s, 0, 0)
  let s := r.1
  let s : State := { s with pcie := { s.pcie with gathers := s.pcie.gathers ++ [⟨j.sr, j.tag, loc, handle, off, zeroBytes total, r.2.2⟩] } }
  s.park j .reading

/-- A free entry with the reset values of R24. -/
def Feu.free : Feu := { valid := false, mode := 0, owner := 0, granule := 1, depth := 0, cells := 0, gen := 0, members := [] }

/-- The handle of a feuille table entry. -/
def feuHandle (n : Nat) : Nat := 2 ^ 31 + n

/-- The preloaded entries 0 to 108 (R26). -/
def preFeu (n : Nat) : Feu :=
  let f := fun depth cells ms => { Feu.free with valid := true, mode := 2, depth := depth, cells := cells, members := ms }
  if n = 0 then f 2 1536 ((List.range 12).map (fun h => feuHandle (1 + h)))
  else if n ≤ 12 then f 1 128 ((List.range 8).map (fun i => feuHandle (13 + 8 * (n - 1) + i)))
  else f 0 16 ((List.range 16).map (fun c => 16 * (n - 13) + c))

/-- The entry n of the feuille table. -/
def State.feu (s : State) (n : Nat) : Feu := if n < 109 then preFeu n else Tbl.get s.feus n Feu.free

/-- The table entry a handle names, if it is a feuille handle with no Rsvd bit set (R23). -/
def feuIndex (h : Nat) : Option Nat := if 2 ^ 31 ≤ h && h < 2 ^ 31 + 4096 then some (h - 2 ^ 31) else none

/-- s with the hub's cell array woken, or on its way up, for work sent to it (R35). -/
def State.wakeHub (s : State) (h : Nat) : State := match Tbl.get s.hubPow h .run with
  | .clockGated => { s with hubPow := Tbl.put s.hubPow h .waking }
  | .powerGated => { s with hubPow := Tbl.put s.hubPow h .waking }
  | _ => s

/-- Whether a hub's cell array is gated (R33, R35). -/
def State.hubGated (s : State) (h : Nat) : Bool := Tbl.get s.hubPow h .run ≠ .run

/-- Whether a hub's cell array runs. -/
def State.hubAwake (s : State) (h : Nat) : Bool := !s.hubGated h && !s.clockStops h

/-- The state (LAT_CELL_STATE) and owner of a cell. -/
def State.cellState (s : State) (c : Nat) : Nat := s.rf (R.LAT_CELL_STATE c) 0 3
def State.cellOwner (s : State) (c : Nat) : Nat := s.rf (R.LAT_CELL_STATE c) 8 6

/-- The natural group of a cell (R9) as a bit of a group mask (R404). -/
def groupOf (c : Nat) : Nat := c / 16

/-- Checks a cell-store operand (R23, R237, R409): status it fails with, if it does. A feuille has no store of its own. -/
def State.cellOperand (s : State) (sl handle off n : Nat) : Option Nat :=
  if handle ≥ 2 ^ 31 then some (match feuIndex handle with
    | some k => if (s.feu k).valid then stAddressError else stInvalidHandle
    | none => stInvalidHandle)
  else if 1536 ≤ handle then some stInvalidHandle
  else if s.cellOwner handle ≠ sl || s.cellState handle = 0 then some stAddressError
  else if bit (s.slice sl).retGroups (groupOf handle) then some stQuotaExceeded
  else if 0x180000 < off + n then some stAddressError
  else none

/-- Whether hub h is under a die warm reset (R495): work whose next access targets it waits. -/
def State.hubDown (s : State) (h : Nat) : Bool := s.clk.dieResets.contains (h + 1) || s.clockStops (12 + h)

/-- Whether n bytes at a region offset touch a hub under warm reset. -/
def State.regionWaits (s : State) (r : Region) (off n : Nat) : Bool :=
  let g := granData r.ecc
  (!s.clk.dieResets.isEmpty || s.clk.aonStopped || !s.clk.stopped.isEmpty) && ((r.granules.drop (off / g)).take ((off % g + n + g - 1) / g)).any (fun g => s.hubDown (g / 196608))

/-- Whether an access to the store of cell c waits: its hub is under warm reset (R495), or its array sleeps (R35). -/
def State.cellWaits (s : State) (c : Nat) : Bool := s.hubDown (c / 128) || !s.hubAwake (c / 128)

/-- Reads a source operand of n bytes: location 0 host, 1 accelerator, 2 pool region, 3 cell store (R237). -/
def State.readOperand (s : State) (j : Job) (loc handle off n req : Nat) : Io (List Byte) :=
  match s.pcie.gathers.find? (fun g => g.sr = j.sr && g.tag = j.tag && g.loc = loc && g.handle = handle && g.off = off && g.data.length = n) with
  | some g => if g.missing = 0 then .ok s g.data else .wait s
  | none =>
    if n = 0 then .ok s []
    else if loc = 0 then
      if Tbl.find s.pasids (handle % 2 ^ 20) ≠ some j.slice then .fail s stInvalidHandle 0
      else if s.hostWaits j.slice then .wait s
      else if !s.dmaOk 0 then .fail (s.cnt R.PCI_BME_CUT) stBusMasterDisabled 0
      else match s.translateRange (handle % 2 ^ 20) j.slice off n false (jobWaiter j.sr j.tag req) with
        | .ok s ps => .wait (s.gather j loc handle off ps)
        | .stall s => .wait (s.park j .faulted)
        | .fail s st d => .fail s st d
    else if loc = 1 then
      if 16 ≤ handle || !s.dnxOutOk handle j.slice off n 1 then .fail s stAddressError 0
      else if s.dnxState handle = 7 then .fail s stLinkError (3 + 16 * handle)
      else .wait (s.gather j loc handle off [(some handle, off, n)])
    else if loc = 2 then
      match s.region handle j.slice with
      | none => .fail s stInvalidHandle 0
      | some r => if s.regionWaits r off n then .wait s else match s.readRegion r off n with
        | .ok s bs => .ok s bs
        | .fail s st d => .fail s st d
    else match s.cellOperand j.slice handle off n with
      | some st => .fail s st 0
      | none => if s.cellWaits handle then .wait (s.wakeHub (handle / 128)) else match s.readDpa (cellDpa handle off) n with
        | .ok s bs => .ok s bs
        | .fail s st d => .fail s st d

/-- Writes one translated piece. -/
def State.putPiece (s : State) (j : Job) (p : HostPiece) (bs : List Byte) : State :=
  match p.1 with
  | none => s.hostPut p.2.1 bs
  | some l =>
    let s := s.accPut l p.2.1 bs
    let p' := s.pcie
    { s with pcie := { p' with wroteLinks := p'.wroteLinks.filter (fun w => !(w.1 = j.sr && w.2.1 = j.tag && w.2.2.1 = l)) ++
                                             [(j.sr, j.tag, l, p.2.1 + bs.length - 1)] } }

/-- Writes the pieces of a translated range in order. -/
def State.putPieces (s : State) (j : Job) : List HostPiece → List Byte → State
  | [], _ => s
  | p :: ps, bs => (s.putPiece j p (bs.take p.2.2)).putPieces j ps (bs.drop p.2.2)

/-- The outcome of writing an operand: done, waiting, or failed with the bytes written before the failure. -/
inductive Wio
  | ok (s : State)
  | wait (s : State)
  | fail (s : State) (status detail moved : Nat)

/-- Writes a destination operand (R237), the locations as for a source. -/
def State.writeOperand (s : State) (j : Job) (loc handle off : Nat) (bs : List Byte) (req : Nat) : Wio :=
  if bs.isEmpty then .ok s
  else if loc = 0 then
    if Tbl.find s.pasids (handle % 2 ^ 20) ≠ some j.slice then .fail s stInvalidHandle 0 0
    else if s.hostWaits j.slice then .wait s
    else if !s.dmaOk 0 then .fail (s.cnt R.PCI_BME_CUT) stBusMasterDisabled 0 0
    else match s.translateRange (handle % 2 ^ 20) j.slice off bs.length true (jobWaiter j.sr j.tag req) with
      | .ok s ps => .ok (s.putPieces j ps bs)
      | .stall s => .wait (s.park j .faulted)
      | .fail s st d => .fail s st d 0
  else if loc = 1 then
    if 16 ≤ handle || !s.dnxOutOk handle j.slice off bs.length 2 then .fail s stAddressError 0 0
    else if s.dnxState handle = 7 then .fail s stLinkError (3 + 16 * handle) 0
    else .ok (s.putPieces j [(some handle, off, bs.length)] bs)
  else if loc = 2 then
    match s.region handle j.slice with
    | none => .fail s stInvalidHandle 0 0
    | some r => if s.bound handle then .fail s stAddressError 0 0 else if s.regionWaits r off bs.length then .wait s else match s.writeRegion r off bs (ownerNum j.sr j.tag) with
      | (s, _, none) => .ok s
      | (s, m, some (st, d)) => .fail s st d m
  else match s.cellOperand j.slice handle off bs.length with
    | some st => .fail s st 0 0
    | none => if s.cellWaits handle then .wait (s.wakeHub (handle / 128)) else match s.writeDpa (cellDpa handle off) bs (ownerNum j.sr j.tag) with
      | (s, _, none) => .ok s
      | (s, m, some (st, d)) => .fail s st d m

/-- The control core that accepts a descriptor of an opcode, where the whole family waits on one (R435): CC0 the admin commands, CC2
the storage family, CC3 checkpoints and the loading of pipelines and plans. -/
def acceptingCore (op : Nat) : Option Nat :=
  if 0x80 ≤ op && op < 0x90 then some 0
  else if 0x50 ≤ op && op < 0x60 then some 2
  else if (0x60 ≤ op && op < 0x70) || op = 0x11 || op = 0x20 then some 3
  else none

/-- Runs the descriptor (sr, tag) when it is outstanding, has started and carries the opcode; any other event of the command has no
effect (log entry 4). It waits while the core that accepts it restarts, and completes FIRMWARE_ERROR when that is OFFLINE (R435). -/
def State.withJob (s : State) (sr tag opcode : Nat) (f : State → Job → State) : State :=
  match s.job sr tag with
  | some j =>
    if j.phase = .started && dOpcode j.desc = opcode then
      match acceptingCore opcode with
      | some k => if s.coreState k = 1 then f s j else if s.coreState k = 3 then s.commit j stFirmwareError noUnit 0 0 else s
      | none => f s j
    else s
  | none => s

/-- A job's place for the numbers its family keeps. -/
def Job.p (j : Job) (i : Nat) : Nat := nth j.prog i 0

end Sys2Proof.Machine
end

