-- ==== Sys2Proof/Machine/FeuOps.lean ====
section
/-! DEFINITION. Units and feuilles as shared operations (R23 to R28, R405): handles, expansions, grants of groups, and
which items a cell receives. -/

namespace Sys2Proof.Machine

/-- The cells of a unit in member order (R24); none for an invalid handle (R23) or one that nests too deep. -/
def State.expand (s : State) : Nat → Nat → Option (List Nat)
  | 0, _ => none
  | fuel + 1, h =>
    if h < 1536 then some [h]
    else match feuIndex h with
      | none => none
      | some n =>
        let f := s.feu n
        if !f.valid then none
        else f.members.foldl (fun acc m => match acc, s.expand fuel m with
          | some cs, some ds => some (cs ++ ds)
          | _, _ => none) (some [])

/-- The table entries a unit passes through. -/
def State.feuPath (s : State) : Nat → Nat → List Nat
  | 0, _ => []
  | fuel + 1, h => match feuIndex h with
    | none => []
    | some n => n :: ((s.feu n).members.map (s.feuPath fuel)).flatten

/-- The cells of a unit. -/
def State.unitCells (s : State) (h : Nat) : Option (List Nat) := s.expand 9 h

/-- The groups in a slice's mask (SLC_QUOTA code 8). -/
def State.groups (s : State) (sl : Nat) : Nat := s.rf (R.SLC_QUOTA sl) 288 96

/-- Whether a cell is granted to a slice: its group is in the slice's mask or retiring from it (R405). -/
def State.granted (s : State) (sl c : Nat) : Bool := bit (s.groups sl) (groupOf c) || bit (s.slice sl).retGroups (groupOf c)

/-- Whether a unit is valid for a slice and wholly granted to it (R23, R26, R403). -/
def State.unitOk (s : State) (sl h : Nat) : Bool := match s.unitCells h with
  | none => false
  | some cs => cs.all (s.granted sl) && (match feuIndex h with | some n => n < 109 || (s.feu n).owner = sl | none => true)

/-- Whether a unit has a cell in a group that is retiring from the slice (R409). -/
def State.unitRetiring (s : State) (sl h : Nat) : Bool := match s.unitCells h with
  | none => false
  | some cs => cs.any (fun c => bit (s.slice sl).retGroups (groupOf c))

/-- A count quota of a slice (R404): granules, rings, qps, key_slots, counters, feuilles, pipelines, plans. -/
def State.quota (s : State) (sl code : Nat) : Nat :=
  let q := R.SLC_QUOTA sl
  match code with
  | 0 => s.rf q 0 32 | 1 => s.rf q 32 32 | 2 => s.rf q 64 32 | 3 => s.rf q 96 32
  | 4 => s.rf q 128 16 | 5 => s.rf q 144 16 | 6 => s.rf q 160 11 | _ => s.rf q 176 9

/-- s with an allocation refused for quota counted (SLC_REFUSED). -/
def State.refused (s : State) (sl : Nat) : State := s.cnt (R.SLC_REFUSED sl)

/-! ## Dispatch (R27, R28) -/

/-- The items member m of n receives, of N items in blocks of g: how many, and the place of its i-th item among the N. -/
def memberItems (mode n g N m : Nat) : Nat × (Nat → Nat) :=
  let g := if g = 0 then 1 else g
  let U := ceilDiv N g
  if mode = 0 then (N, id)
  else if mode = 1 then
    let k := if m < U then (U - m + n - 1) / n else 0
    let short := if k ≠ 0 && m + n * (k - 1) = U - 1 then U * g - N else 0
    (k * g - short, fun i => (m + n * (i / g)) * g + i % g)
  else
    let q := U / n
    let r := U % n
    let a := if m < r then m * (q + 1) else r * (q + 1) + (m - r) * q
    let k := if m < r then q + 1 else q
    (min N ((a + k) * g) - min N (a * g), fun i => a * g + i)

/-- What every cell of a unit receives of N items: the cell, the number of items, and the first one's place in the
descriptor's item space. -/
def State.dispatch (s : State) : Nat → Nat → Nat → (Nat → Nat) → List (Nat × Nat × Nat)
  | 0, _, _, _ => []
  | fuel + 1, h, N, place =>
    if h < 1536 then [(h, N, place 0)]
    else match feuIndex h with
      | none => []
      | some k =>
        let f := s.feu k
        ((List.range f.members.length).map (fun m =>
          let it := memberItems f.mode f.members.length f.granule N m
          s.dispatch fuel (nth f.members m 0) it.1 (fun i => place (it.2 i)))).flatten

end Sys2Proof.Machine
end

