-- ==== Sys2Proof/Machine/CellOps.lean ====
section
/-! DEFINITION. Cells and the lattice as shared operations: the mesh (R69), frame tables (R76, R90), cell states (R86),
tagged words of a sequencer's memory (R64, R65, R68), and halting. -/

namespace Sys2Proof.Machine

/-! ## The mesh (R69) -/

/-- An end of a lattice link within a hub: a cell of the hub, or a spine gate by spine link number (0 +x, 1 −x, 2 +y,
3 −y). -/
inductive LinkEnd
  | cell (i : Nat)
  | gate (n : Nat)
deriving DecidableEq, Repr

/-- The two ends of a link, in direction 0. -/
def linkEnds (l : Nat) : LinkEnd × LinkEnd :=
  if l < 120 then (.cell (l / 15 * 16 + l % 15), .cell (l / 15 * 16 + l % 15 + 1))
  else if l < 232 then (.cell (l - 120), .cell (l - 120 + 16))
  else if l < 240 then (.cell ((l - 232) * 16 + 15), .gate 0)
  else if l < 248 then (.cell ((l - 240) * 16), .gate 1)
  else if l < 264 then (.cell (l - 248), .gate 3)
  else (.cell (112 + (l - 264)), .gate 2)

/-- Where a link direction comes from and leads to. -/
def linkFrom (l d : Nat) : LinkEnd := if d = 0 then (linkEnds l).1 else (linkEnds l).2
def linkTo (l d : Nat) : LinkEnd := if d = 0 then (linkEnds l).2 else (linkEnds l).1

/-- The link and direction that leave a hub's cell i northward (1), eastward (2), southward (3) or westward (4); an edge
leads to its gate. -/
def outLink (i w : Nat) : Nat × Nat :=
  let f := i / 16
  let c := i % 16
  match w with
  | 1 => if f = 0 then (248 + c, 0) else (120 + (f - 1) * 16 + c, 1)
  | 2 => if c = 15 then (232 + f, 0) else (f * 15 + c, 0)
  | 3 => if f = 7 then (264 + c, 0) else (120 + f * 16 + c, 0)
  | _ => if c = 0 then (240 + f, 0) else (f * 15 + (c - 1), 1)

/-- The hub on the other side of a hub's spine link on the 4 × 3 torus of hubs (R16). -/
def spineTo (h n : Nat) : Nat :=
  let x := h % 4
  let y := h / 4
  match n with
  | 0 => y * 4 + (x + 1) % 4
  | 1 => y * 4 + (x + 3) % 4
  | 2 => (y + 1) % 3 * 4 + x
  | _ => (y + 2) % 3 * 4 + x

/-- The spine link of the opposite direction at the hub across. -/
def acrossLink (n : Nat) : Nat := if n % 2 = 0 then n + 1 else n - 1

/-- The hubs a port die's links, and the control links, reach (R16). -/
def portHubs (p : Nat) : List Nat := [p, p + 4, p + 8]
def controlHubs : List Nat := [0, 3, 8, 11]

/-- The spine link by which traffic for hub `dst` leaves hub `src`: in x first, then in y; none at the destination (R18). -/
def routeLink (src dst : Nat) : Option Nat :=
  let dx := (dst % 4 + 4 - src % 4) % 4
  let dy := (dst / 4 + 3 - src / 4) % 3
  if dx = 1 || dx = 2 then some 0 else if dx = 3 then some 1 else if dy = 1 then some 2 else if dy = 2 then some 3 else none

/-- The hops of a route as (hub, link leaving it), in order: at most three (R18). -/
def routeHops (src dst : Nat) : List (Nat × Nat) :=
  let rec go : Nat → Nat → List (Nat × Nat)
    | 0, _ => []
    | k + 1, h => match routeLink h dst with
      | none => []
      | some n => (h, n) :: go k (spineTo h n)
  go 3 src

/-- The corner hub by which the control die's traffic for a hub enters the spine: the fewest hops, a tie to the lowest
number (R19). -/
def controlEntry (dst : Nat) : Nat :=
  controlHubs.foldl (fun best h => if (routeHops h dst).length < (routeHops best dst).length then h else best) 0

/-- The hub by which traffic for a hub enters the spine: from a hub itself (0 to 11), from port die p (12 + p) the hub it
links to in the destination's row, from the control die (16) its corner (R19). -/
def entryHub (src dst : Nat) : Nat := if src < 12 then src else if src < 16 then dst / 4 * 4 + (src - 12) else controlEntry dst

/-- The hops of arbitrated traffic from a source to a hub, or of the traffic that returns by the same hubs in reverse
(R18, R19). -/
def trafficHops (src dst : Nat) (back : Bool) : List (Nat × Nat) :=
  let out := routeHops (entryHub src dst) dst
  if back then (out.map (fun x => (spineTo x.1 x.2, acrossLink x.2))).reverse else out

/-! ## Frame and spine tables (R76, R78, R90) -/

/-- The key of a frame entry within its hub, and of a spine entry. -/
def frameKey (l d slot : Nat) : Nat := (l * 2 + d) * 256 + slot
def spineKey (n slot : Nat) : Nat := n * 1000 + slot

/-- A free entry: channel 0x3FF, slice 0. -/
def freeEntry : Nat := 0x3FF

/-- The entry in effect. -/
def State.frame (s : State) (h l d slot : Nat) : Nat := Tbl.get (Tbl.get s.lat.frames h []) (frameKey l d slot) freeEntry
def State.spine (s : State) (h n slot : Nat) : Nat := Tbl.get (Tbl.get s.lat.spines h []) (spineKey n slot) freeEntry

/-- The channel and the slice of an entry (R90). -/
def entryChan (e : Nat) : Nat := fld e 0 10
def entrySlice (e : Nat) : Nat := fld e 10 6

/-! ## Cell states (R86) -/

/-- The codes of LAT_CELL_STATE. -/
def csIdle : Nat := 0
def csLoaded : Nat := 1
def csRunning : Nat := 2
def csHalted : Nat := 3
def csFaulted : Nat := 4

def State.setCellState (s : State) (c st : Nat) : State := s.wf (R.LAT_CELL_STATE c) 0 3 st
def State.setCellOwner (s : State) (c sl : Nat) : State := s.wf (R.LAT_CELL_STATE c) 8 6 sl

/-- The sequencer k: a cell, or control core k − 1,536. -/
def State.seq (s : State) (k : Nat) : Seq := Tbl.get s.seqs k Seq.fresh

/-- s with a sequencer replaced; one in its fresh state is not listed. -/
def State.setSeq (s : State) (k : Nat) (q : Seq) : State := { s with seqs := Tbl.set s.seqs k q Seq.fresh }

/-- s with a sequencer changed. -/
def State.updSeq (s : State) (k : Nat) (f : Seq → Seq) : State := s.setSeq k (f (s.seq k))

/-- Whether k is a control core. -/
def isCore (k : Nat) : Bool := decide (1536 ≤ k)

/-- A running cell halts at its next instruction boundary: at once, or when the access it waits for returns (R86). -/
def State.haltCell (s : State) (c : Nat) : State :=
  if s.cellState c ≠ csRunning then s
  else if (s.seq c).stall.isSome then s.updSeq c (fun q => { q with haltAt := true })
  else s.setCellState c csHalted

/-- A halt that was waiting for an instruction boundary takes effect. -/
def State.boundary (s : State) (k : Nat) : State :=
  if (s.seq k).haltAt && (s.seq k).stall.isNone then
    (s.updSeq k (fun q => { q with haltAt := false })).setCellState k csHalted
  else s

/-- Whether a cell has pool writes in flight, guarded ones included (R82): its streams' pending counts. -/
def State.cellPending (s : State) (c stream : Nat) : Nat :=
  ((s.seq c).wq.filter (fun w => w.1 = stream)).length +
  (s.mem.guardWait.filter (fun w => w.owner = 2 ^ 40 + 2 * c + stream)).length

/-- A cell-write's owner number for the copy guard. -/
def cellOwnerNum (c stream : Nat) : Nat := 2 ^ 40 + 2 * c + stream

/-! ## The words of a sequencer's memory -/

/-- The first address of a sequencer's own memory: a cell's store by DPA, a control core's local memory above the DPA
space of this model. -/
def memBase (k : Nat) : Nat := if isCore k then 2 ^ 50 + (k - 1536) * 0x40000 else cellDpa k 0

/-- The bytes of a sequencer's own memory. -/
def memSize (k : Nat) : Nat := if isCore k then 0x40000 else 0x180000

/-- The tagged word at an aligned address, or none when it is uncorrectable (R64, R68). -/
def State.wordAt (s : State) (a : Nat) : State × Option TW :=
  match s.readWord a with
  | (s, false) => (s, none)
  | (s, true) =>
    let t := Tbl.get s.mem.tags a 0
    (s, some ⟨t, if t = 0 then 0 else Mem.num s.mem.bytes a 8⟩)

/-- s with a tagged word at an aligned address, with a fresh check. -/
def State.putWord (s : State) (a : Nat) (w : TW) : State :=
  let s := s.poke a (leBytes 8 w.val)
  { s with mem := { s.mem with tags := Tbl.set s.mem.tags a w.tag 0 } }

/-- The words of [a, a + 8n), or none when one is uncorrectable. -/
def State.wordsAt (s : State) : Nat → Nat → List TW → State × Option (List TW)
  | _, 0, acc => (s, some acc)
  | a, n + 1, acc =>
    match s.wordAt a with
    | (s, none) => (s, none)
    | (s, some w) => s.wordsAt (a + 8) n (acc ++ [w])

/-- s with words from address a. -/
def State.putWords (s : State) (a : Nat) : List TW → State
  | [] => s
  | w :: ws => (s.putWord a w).putWords (a + 8) ws

/-- Whether a link direction out of a cell carries a store-slot pair: a slot of the cell's store slots outward and the
reply's slot, four later, back (R75). -/
def State.hasStoreSlot (s : State) (c w : Nat) : Bool :=
  let h := c / 128
  let (l, d) := outLink (c % 128) w
  (List.range 256).any (fun slot =>
    let e := s.frame h l d slot
    entryChan e = 0x3FE && entrySlice e = s.cellOwner c && entryChan (s.frame h l (1 - d) ((slot + 4) % 256)) = 0x3FE)

/-- Where a store address leads (R65): an address of the own memory, or a neighbour's cell, window and offset. -/
inductive StoreAt
  | own (a : Nat)
  | nbr (cell window off : Nat)
  | bad

/-- A store access of n bytes by sequencer k. -/
def State.storeAt (s : State) (k addr n : Nat) (isWrite : Bool) : StoreAt :=
  let off := fld addr 0 21
  let w := fld addr 21 3
  if addr / 2 ^ 24 ≠ 0 || memSize k < off + n then .bad
  else if w = 0 then .own (memBase k + off)
  else if isCore k || 4 < w then .bad
  else
    let (l, d) := outLink (k % 128) w
    match linkTo l d with
    | .gate _ => .bad
    | .cell i =>
      if s.rf (R.LAT_CELL_NBR k) ((if isWrite then 4 else 0) + (w - 1)) 1 = 1 && s.hasStoreSlot k w then .nbr (k / 128 * 128 + i) w off
      else .bad

/-- The memory address a store address leads to. -/
def StoreAt.addr : StoreAt → Option Nat
  | .own a => some a
  | .nbr c _ off => some (cellDpa c off)
  | .bad => none

end Sys2Proof.Machine
end

