-- ==== Sys2Proof/Machine/TrigOps.lean ====
section
/-! DEFINITION. What ties pipelines, collectives, trigger counters and queue pairs together, as shared operations:
triggers and wave decisions (R154, R155), the end of an ARM (R157), the stop of a wave (R160) and of a collective step
(R213), counter increments and lists that fire (R290, R291). -/

namespace Sys2Proof.Machine

/-! ## Status codes of R166, R216 and R297 -/

def stWaveDone : Nat := 0x200
def stUnhandledTrap : Nat := 0x201
def stImageInvalid : Nat := 0x202
def stPipeSlotConflict : Nat := 0x203
def stPipeCellBusy : Nat := 0x204
def stPipeBankConflict : Nat := 0x205
def stPipeDvfsConflict : Nat := 0x206
def stPipeBusy : Nat := 0x207
def stPipeStopped : Nat := 0x208
def stTriggerOverrun : Nat := 0x209
def stPipeInvalid : Nat := 0x20A
def stTriggerSourceLost : Nat := 0x20B
def stCollPlanInvalid : Nat := 0x300
def stCollInvalid : Nat := 0x301
def stCollBusy : Nat := 0x302
def stCollMismatch : Nat := 0x303
def stCollPeerStopped : Nat := 0x304
def stCollPeerTimeout : Nat := 0x305
def stCollRemapped : Nat := 0x306
def stCollStopped : Nat := 0x307
def stQpInvalid : Nat := 0x400
def stQpState : Nat := 0x401
def stFlushed : Nat := 0x402
def stRemoteAccess : Nat := 0x403
def stRemoteError : Nat := 0x404
def stRemoteFault : Nat := 0x405
def stRetryExceeded : Nat := 0x406
def stRnrExceeded : Nat := 0x407
def stRemapped : Nat := 0x408
def stCounterInvalid : Nat := 0x409
def stRecvOverflow : Nat := 0x40A
def stArrival : Nat := 0x410
def stResourceExhausted : Nat := 0x903
def stUnsupportedCombination : Nat := stUnsupported

/-- s with the descriptor (sr, tag) committed, where it is outstanding. -/
def State.commitTag (s : State) (sr tag status unit detail result : Nat) : State := match s.job sr tag with
  | some j => s.commit j status unit detail result
  | none => s

/-- s with a non-terminal completion entry for the tag of an outstanding descriptor (R157). -/
def State.progress (s : State) (sr tag status detail result : Nat) : State := match s.job sr tag with
  | some j => s.addCpl { sr := j.sr, tag := j.tag, cr := j.cr, slice := j.slice, status := status, unit := noUnit, detail := detail % 2 ^ 32
                         result := result % 2 ^ 64, time := 0, irq := j.irq, counted := false }
  | none => s

/-- s with the unwritten entries of (sr, tag) kept behind that of another tag (R53, R157). -/
def State.writtenAfter (s : State) (sr tag : Nat) (first : Nat × Nat) : State :=
  { s with ring := { s.ring with unwritten := s.ring.unwritten.map (fun c => if c.sr = sr && c.tag = tag then { c with after := some first } else c) } }

/-! ## Pipelines -/

def State.updPipe (s : State) (p : Nat) (f : Pipe → Pipe) : State := { s with pipes := { s.pipes with tab := Tbl.upd s.pipes.tab p f } }

/-- Whether a wave starts late: the previous wave of a beat-triggered ARM was still running (R155). -/
def countLate (p : Pipe) (late : Bool) : Nat := match p.arm with
  | some a => if a.source = 2 && late then min 0xFFFF (p.late + 1) else p.late
  | none => p.late

/-- The next wave of a pipeline with no wave, when a launch is queued or a trigger pends (R154, R155). `late` says the
trigger had to wait for the wave before. -/
def nextWave (p : Pipe) (late : Bool) : Pipe :=
  match p.queue with
  | r :: rest => { p with queue := rest, state := .running, wave := some ⟨r, p.waves, false, []⟩ }
  | [] => match p.arm with
    | some a =>
      if p.pending = 0 then { p with state := .armed }
      else
        let r := { a.req with step := (a.req.step + a.run) % 2 ^ 32, index := a.run }
        { p with pending := p.pending - 1, late := countLate p late, state := .running, wave := some ⟨r, p.waves, false, []⟩
                 arm := some { a with run := a.run + 1 } }
    | none => { p with state := .loaded }

/-- The end of an ARM: its terminal entry, then that of the PIPE_DISARM that waited for it (R157). -/
def State.endArm (s : State) (pn : Nat) (status detail result : Nat) : State :=
  match Tbl.find s.pipes.tab pn with
  | some p => match p.arm with
    | some a =>
      let s := s.updPipe pn (fun p => { p with arm := none, pending := 0, state := if p.state = .armed then .loaded else p.state })
      let s := s.commitTag a.req.sr a.req.tag status noUnit detail result
      match a.disarm with
      | some (sr, tag) => (s.commitTag sr tag stSuccess noUnit 0 0).writtenAfter sr tag (a.req.sr, a.req.tag)
      | none => s
    | none => s
  | none => s

/-- Whether an ARM ends now that no wave of it runs: its limit, a disarm, an overrun, or a lost source with nothing
pending (R154, R157). -/
def Arm.endStatus (a : Arm) (pending : Nat) : Option Nat :=
  if a.overrun then some stTriggerOverrun
  else if a.disarm.isSome || (a.limit ≠ 0 && a.limit ≤ a.run) then some stSuccess
  else if a.lost && pending = 0 then some stTriggerSourceLost
  else none

/-- After a wave has ended, or when nothing runs: the ARM ends if it is due, otherwise the next wave is decided. -/
def State.settle (s : State) (pn : Nat) (late : Bool) : State :=
  match Tbl.find s.pipes.tab pn with
  | none => s
  | some p =>
    if p.wave.isSome then s
    else match p.arm.bind (fun a => a.endStatus p.pending) with
      | some st =>
        let run := match p.arm with | some a => a.run | none => 0
        (s.updPipe pn (fun p => { p with state := .loaded })).endArm pn st 0 (if st = stSuccess then run else 0)
      | none => s.updPipe pn (fun p => nextWave p late)

/-- One trigger of a pipeline's active ARM (R154). -/
def State.trigger (s : State) (pn : Nat) : State :=
  match Tbl.find s.pipes.tab pn with
  | none => s
  | some p => match p.arm with
    | none => s
    | some a =>
      if a.overrun then s
      else if 65535 ≤ p.pending then
        let s := s.updPipe pn (fun p => { p with arm := some { a with overrun := true } })
        if p.state = .armed then s.settle pn false else s
      else
        let s := s.updPipe pn (fun p => { p with pending := p.pending + 1 })
        if p.state = .armed then s.settle pn false else s

/-- The active ARMs with a source of a kind and number; a source that was lost is none, whatever takes its number later (R154). -/
def State.armsOn (s : State) (source id : Nat) : List Nat :=
  Tbl.keysWhere s.pipes.tab (fun _ p => match p.arm with | some a => a.source = source && a.sourceId = id && !a.lost | none => false)

/-- Every cell of a pipeline, in stage and then instance order. -/
def Pipe.cells (p : Pipe) : List Nat := (p.img.stages.map (fun st => st.cells)).flatten

/-- Whether any cell of the pipeline has pool writes in flight. -/
def State.pipePending (s : State) (cells : List Nat) : Bool := cells.any (fun c => s.cellPending c 0 ≠ 0 || s.cellPending c 1 ≠ 0)

/-- A pipeline whose wave is cut short: its cells halt at their next instruction boundary and it is STOPPED (R160). -/
def State.haltPipe (s : State) (pn : Nat) : State :=
  match Tbl.find s.pipes.tab pn with
  | none => s
  | some p =>
    let s := p.cells.foldl (fun s c => s.haltCell c) s
    let s := s.updPipe pn (fun p => { p with state := .stopped, wave := none, pending := 0, queue := [] })
    match p.wave with
    | some w =>
      { s with
        feuWork := s.feuWork.filter (fun f => !(f.sr = w.req.sr && f.tag = w.req.tag))
        pipes := { s.pipes with holds := s.pipes.holds ++ [(w.req.sr, w.req.tag, p.cells)] } }
    | none => s

/-! ## Queue pairs: posting a message -/

def State.updQp (s : State) (q : Nat) (f : Qp → Qp) : State := { s with tmt := { s.tmt with qps := Tbl.upd s.tmt.qps q f } }

/-- A message of the collective engine or of firmware: CTRL subtype with its payload (R262). `op` is 0x100 + subtype. -/
def ctrlMsg (subtype : Nat) (data : List Byte) : Msg :=
  { sr := 0xFFFF, tag := 0xFFFF, op := 0x100 + subtype, remote := 0, ak := 0, len := data.length, per := 1, npkt := 1, comp := 0, zrw := 0, ctr := 0
    imm := 0, operand := 0, compare := 0, lloc := 2, lhandle := 0, laddr := 0, data := some data, started := false, msn := 0, psn0 := 0
    ssn := 0, sent := 0, got := [], old := 0, rnr := 0, rnrWait := false, rnrSince := 0, done := false, inner := false }

/-- s with a message posted to a QP. -/
def State.postMsg (s : State) (q : Nat) (m : Msg) : State := s.updQp q (fun p => { p with msgs := p.msgs ++ [m] })

/-! ## Collective steps -/

def State.updPlan (s : State) (n : Nat) (f : Plan → Plan) : State := { s with colls := { s.colls with plans := Tbl.upd s.colls.plans n f } }

/-- A stop notice for a step on every QP of a plan (R213). -/
def State.stopNotices (s : State) (p : Plan) (step : Nat) : State :=
  p.qps.foldl (fun s q => s.postMsg q.2 (ctrlMsg 1 (leBytes 4 p.planId ++ leBytes 4 step))) s

/-- The steps of a plan that have no terminal status: the one that runs, then the queued ones. -/
def Plan.steps (p : Plan) : List CStep := p.current.toList ++ p.queue

/-- s with the outputs of a stopped step undefined (R213): every byte of them a free value. -/
def State.spoil (s : State) (p : Plan) (c : CStep) : State :=
  match s.region c.outRegion p.slice with
  | some r => if c.outBytes = 0 then s else let f := s.fresh (8 * c.outBytes); (f.2.writeRegion r c.outOff (leBytes c.outBytes f.1)).1
  | none => s

/-- Steps of a plan stop (R213): the pipeline halts, the steps that `which` names commit the status and their notices go out with that of
the step that ran, all others complete COLL_STOPPED, and the plan is STOPPED. -/
def State.stopSteps (s : State) (n : Nat) (which : CStep → Bool) (status unit detail : Nat) : State :=
  match Tbl.find s.colls.plans n with
  | none => s
  | some p =>
    let s := s.haltPipe p.pipe
    let s := match p.current with | some c => s.spoil p c | none => s
    let s := p.steps.foldl (fun s c =>
      if which c then s.commitTag c.sr c.tag status unit detail 0 else s.commitTag c.sr c.tag stCollStopped noUnit 0 0) s
    let told := p.steps.filter (fun c => which c || p.current = some c)
    let s := told.foldl (fun s c => s.stopNotices p c.step) s
    s.updPlan n (fun p => { p with state := 3, current := none, queue := [], checked := [], matched := [], owed := []
                                   done := p.steps.foldl (fun d c => setIns d c.step) p.done })

/-- The step of a plan that runs, or else the first that waits, stops. -/
def State.stopPlan (s : State) (n status unit detail : Nat) : State :=
  s.stopSteps n (fun c => match Tbl.find s.colls.plans n with | some p => p.steps.head? = some c | none => false) status unit detail

/-- A wave stops with a status (R160, R161): the wave's descriptor, or the ARM, commits it, queued launches complete
PIPE_STOPPED; the step of an embedded pipeline stops with it. -/
def State.stopPipe (s : State) (pn status unit detail : Nat) : State :=
  match Tbl.find s.pipes.tab pn with
  | none => s
  | some p => match p.plan with
    | some n => s.stopPlan n status unit detail
    | none =>
      let s := s.haltPipe pn
      let s := match p.arm with
        | some a =>
          let s := s.updPipe pn (fun p => { p with arm := none })
          let s := s.commitTag a.req.sr a.req.tag status unit detail 0
          (match a.disarm with
            | some (sr, tag) => (s.commitTag sr tag stSuccess noUnit 0 0).writtenAfter sr tag (a.req.sr, a.req.tag)
            | none => s)
        | none => match p.wave with
          | some w => s.commitTag w.req.sr w.req.tag status unit detail 0
          | none => s
      p.queue.foldl (fun s r => s.commitTag r.sr r.tag stPipeStopped noUnit 0 0) s

/-! ## Trigger counters (R290 to R292) -/

def State.updCtr (s : State) (c : Nat) (f : Ctr → Ctr) : State := { s with tmt := { s.tmt with ctrs := Tbl.upd s.tmt.ctrs c f } }

/-- Whether an armed list's value meets its threshold (R291). -/
def Ctr.met (c : Ctr) : Bool := c.armed && decide ((c.value + 2 ^ 32 - c.threshold % 2 ^ 32) % 2 ^ 32 < 2 ^ 31)

/-- The message of a posted work request (R270, R273); its decoded bytes per packet and packets for a payload size. -/
def wrPer (P comp : Nat) : Nat :=
  if comp = 0 then P
  else if comp ≤ 2 then P - 128
  else if comp ≤ 5 then P / 33 * 32 * (if comp = 3 then 4 else 2)
  else P / 17 * 32 * (if comp = 6 then 4 else 2)

def wrMsg (j : Job) (P : Nat) : Msg :=
  let d := j.desc
  let op := dOpcode d
  let comp := if op = 0x36 then 0 else fld d 97 4
  let len := if op = 0x34 || op = 0x35 then 8 else dby d 44 4
  let per := wrPer P comp
  { sr := j.sr, tag := j.tag, op := op, remote := fld d 256 48, ak := dby d 40 4, len := len, per := per
    npkt := if op = 0x34 || op = 0x35 then 1 else if op = 0x32 && len = 0 then 0 else max 1 (ceilDiv len per)
    comp := fld d 97 4, zrw := fld d 101 2, ctr := dby d 14 2, imm := dby d 48 4, operand := dby d 48 8, compare := dby d 56 8
    lloc := fld d 224 2, lhandle := dby d 24 4, laddr := dby d 16 8, data := if op = 0x32 || op = 0x34 || op = 0x35 then some [] else none
    started := false, msn := 0, psn0 := 0, ssn := 0, sent := 0, got := [], old := 0, rnr := 0, rnrWait := false, rnrSince := 0, done := false, inner := false }

/-- A work request joins its QP (R291): a message in post order, or a receive WR; a QP in ERROR flushes it. The
descriptor is then started again, to gather its data (`prog` [1] says it is posted). -/
def State.joinQp (s : State) (j : Job) : State :=
  let qn := fld j.desc 64 20
  match Tbl.find s.tmt.qps qn with
  | none => s.commit' j stQpInvalid
  | some q =>
    if q.state = .error then s.commit' j stFlushed
    else if dOpcode j.desc = 0x38 then
      let r : RecvWr := ⟨j.sr, j.tag, q.recvNext, dby j.desc 44 4, fld j.desc 224 2, dby j.desc 24 4, dby j.desc 16 8, 0⟩
      (s.updQp qn (fun q => { q with recvs := q.recvs ++ [r], recvNext := q.recvNext + 1 })).updJob j.sr j.tag
        (fun k => { k with phase := .running, prog := [1] })
    else
      (s.postMsg qn (wrMsg j q.payload)).updJob j.sr j.tag (fun k => { k with phase := .started, prog := [1] })

mutual

/-- A counter's list fires if it is armed and met (R291): it disarms and releases its WRs in post order. The first
argument bounds the chain of held ARMs. -/
def State.fire (fuel : Nat) (s : State) (c : Nat) : State :=
  match fuel with
  | 0 => s
  | fuel + 1 => match Tbl.find s.tmt.ctrs c with
    | none => s
    | some k =>
      if !k.met then s
      else State.releaseAll fuel (s.updCtr c (fun k => { k with armed := false, held := [] })) k.held

/-- Releases held work requests in order. -/
def State.releaseAll (fuel : Nat) (s : State) (l : List (Nat × Nat)) : State :=
  match fuel, l with
  | 0, _ => s
  | _, [] => s
  | fuel + 1, (sr, tag) :: rest =>
    let s := match s.job sr tag with
      | none => s
      | some j => if dOpcode j.desc = 0x37 then State.armCtr fuel s j else s.joinQp j
    State.releaseAll fuel s rest

/-- ARM (R291): the threshold is set and the list armed, the value first set to 0 when asked; it commits at once. -/
def State.armCtr (fuel : Nat) (s : State) (j : Job) : State :=
  match fuel with
  | 0 => s
  | fuel + 1 =>
    let c := dby j.desc 14 2
    let s := s.updCtr c (fun k => { k with threshold := dby j.desc 44 4, armed := true, value := if bit (dby j.desc 48 8) 0 then 0 else k.value })
    State.fire fuel (s.commit' j stSuccess) c

end

/-- Enough fuel for every held WR and every counter to be met once. -/
def State.fireFuel (s : State) : Nat := 4 * (s.ring.jobs.length + s.tmt.ctrs.length + 4)

/-- One increment of a trigger counter (R290): it triggers pipelines ARMed on it, then its list may fire. -/
def State.counterInc (s : State) (c : Nat) : State :=
  match Tbl.find s.tmt.ctrs c with
  | none => s
  | some _ =>
    let s := s.updCtr c (fun k => { k with value := (k.value + 1) % 2 ^ 32 })
    let s := (s.armsOn 1 c).foldl (fun s p => s.trigger p) s
    State.fire s.fireFuel s c

/-- The counter of an ID, where it is allocated to a slice. -/
def State.counterOf (s : State) (c sl : Nat) : Option Ctr := match Tbl.find s.tmt.ctrs c with
  | some k => if k.slice = sl then some k else none
  | none => none

end Sys2Proof.Machine
end

