-- ==== Sys2Proof/Machine/PipeOps.lean ====
section
/-! DEFINITION. Pipeline images and their loading as shared operations (R146 to R151, R162): reading and checking an
image, installing it, and freeing what it holds. Where R147 gives an entry's fields and sizes but not their places, each
field lies at its natural alignment, in the order given (log entry 17). -/

namespace Sys2Proof.Machine

/-! ## Reading an image (R146, R147) -/

/-- Whether every byte of the given ranges of a header is 0. -/
def zeroAt (h : List Byte) (rs : List (Nat × Nat)) : Bool := rs.all (fun r => allZero (bsub h r.1 r.2))

/-- Entry i of a section at offset o with entries of n bytes. -/
def sect (img : List Byte) (o n i : Nat) : List Byte := bsub img (o + i * n) n

/-- The header checks of R146: magic, version, Rsvd bytes, ranges, and that each section lies inside the length. -/
def headerOk (h : List Byte) : Bool :=
  let f := leAt h
  let len := f 8 4
  let sizes := [(48, f 12 2 * 64), (52, f 14 2 * 32), (56, f 32 4 * 4), (60, f 36 4 * 4), (64, f 40 4 * 32),
                (68, f 17 1 * f 12 2 * 4), (72, f 44 4 * 16)]
  f 0 4 = 0x39504946 && f 4 1 = 0 && f 5 1 = 1 && zeroAt h [(6, 2), (18, 2), (76, 20), (144, 112)] &&
  256 ≤ len && len ≤ 2 ^ 31 && 1 ≤ f 12 2 && f 12 2 ≤ 1536 && f 14 2 ≤ 12264 && f 16 1 ≤ 8 && 1 ≤ f 17 1 && f 17 1 ≤ 16 &&
  (List.range 12).all (fun h' => f (20 + h') 1 ≤ 4 || f (20 + h') 1 = 0xFF) &&
  sizes.all (fun p => p.2 = 0 || (256 ≤ f p.1 4 && f p.1 4 + p.2 ≤ len))

/-- A stage entry; its cells are found when it is bound. -/
def stageOf (b : List Byte) : Stage :=
  { unit := leAt b 0 4, always := bit (leAt b 4 1) 0, progOff := leAt b 8 4, progLen := leAt b 12 4, loadOff := leAt b 16 4
    nbr := leAt b 20 4, weight := leAt b 24 2, cells := [] }

/-- Whether a stage entry keeps its ranges and its Rsvd bytes (R147). -/
def stageOk (len : Nat) (b : List Byte) : Bool :=
  let st := stageOf b
  leAt b 4 1 ≤ 1 && zeroAt b [(5, 3), (26, 38)] && st.progOff + st.progLen ≤ len && st.nbr < 256 && 1 ≤ st.weight && st.weight ≤ 1024

/-- A channel entry before its stages are bound: the cells stand as (stage, instance) numbers. -/
def chanOf (b : List Byte) (cellAt : Nat → Nat → Nat) : Chan :=
  { hub := leAt b 0 1, num := leAt b 2 2, sCell := cellAt (leAt b 4 2) (leAt b 6 2), sIdx := leAt b 12 1
    rCell := cellAt (leAt b 8 2) (leAt b 10 2), rIdx := leAt b 13 1, buf := leAt b 16 4, size := leAt b 20 2
    credits := leAt b 20 2, put := 0, sent := 0, recv := 0, freed := 0 }

/-- Whether a channel entry keeps its ranges and its Rsvd bytes. -/
def chanOk (stages : List Stage) (b : List Byte) : Bool :=
  leAt b 0 1 < 12 && leAt b 2 2 ≤ 1021 && leAt b 4 2 < stages.length && leAt b 8 2 < stages.length &&
  leAt b 12 1 < 32 && leAt b 13 1 < 32 && zeroAt b [(1, 1), (14, 2), (22, 10)]

/-- Whether the instances a channel entry names exist. -/
def chanInst (stages : List Stage) (b : List Byte) : Bool :=
  let inst := fun k i => i < ((stages.getD k (stageOf [])).cells).length
  inst (leAt b 4 2) (leAt b 6 2) && inst (leAt b 8 2) (leAt b 10 2)

/-- What makes two channel entries legs of one channel that crosses hubs (R79, R147): the same ends (log entry 18). -/
def Chan.key (c : Chan) : Nat × Nat × Nat × Nat := (c.sCell, c.sIdx, c.rCell, c.rIdx)

/-- One entry for every channel. -/
def oneEach : List Chan → List Chan
  | [] => []
  | c :: cs => if (oneEach cs).any (fun d => d.key = c.key) then oneEach cs else c :: oneEach cs

/-- A grant entry and an initial value. -/
def grantOf (b : List Byte) : Nat × Nat × Nat × Nat × Nat × Nat :=
  (leAt b 0 2, leAt b 2 1, leAt b 3 1, leAt b 4 1, leAt b 8 8, leAt b 16 8)
def initOf (b : List Byte) : Nat × Nat × Nat × Nat × Nat := (leAt b 0 2, leAt b 2 2, leAt b 4 1, leAt b 5 1, leAt b 8 8)

/-- The outcome of checking an image. -/
inductive ImgRes
  | ok (s : State) (i : Image)
  | fail (s : State) (status detail : Nat)

/-- The image with its stages bound to cells, from its bytes. -/
def imageOf (s : State) (b : List Byte) : Image :=
  let f := leAt b
  let range := fun n => List.range n
  let stages := (range (f 12 2)).map (fun i =>
    let st := stageOf (sect b (f 48 4) 64 i)
    { st with cells := (s.unitCells st.unit).getD [] })
  let cellAt := fun st i => nth (stages.getD st (stageOf [])).cells i 0
  { stages := stages
    chans := (range (f 14 2)).map (fun i => chanOf (sect b (f 52 4) 32 i) cellAt)
    frames := (range (f 32 4)).map (fun i => leAt b (f 56 4 + 4 * i) 4)
    spines := (range (f 36 4)).map (fun i => leAt b (f 60 4 + 4 * i) 4)
    grants := (range (f 40 4)).map (fun i => grantOf (sect b (f 64 4) 32 i))
    entryCount := f 17 1
    entries := (range (f 17 1 * f 12 2)).map (fun i => leAt b (f 68 4 + 4 * i) 4)
    inits := (range (f 44 4)).map (fun i => initOf (sect b (f 72 4) 16 i))
    dvfs := (range 12).map (fun h => f (20 + h) 1)
    programs := stages.map (fun st => bsub b st.progOff st.progLen)
    digest := f 96 48 }

/-- The field checks of the sections (R147): a malformed field makes the image invalid. -/
def sectionsOk (img : Image) (b : List Byte) : Bool :=
  let f := leAt b
  (List.range (f 12 2)).all (fun i => stageOk (f 8 4) (sect b (f 48 4) 64 i)) &&
  (List.range (f 14 2)).all (fun i => chanOk img.stages (sect b (f 52 4) 32 i)) &&
  img.frames.all (fun e => fld e 0 4 < 12 && fld e 4 9 < 280) &&
  img.spines.all (fun e => fld e 0 4 < 12 && fld e 6 10 < 1000 && fld e 26 6 = 0) &&
  img.grants.all (fun g => g.1 < img.stages.length && g.2.1 < 16 && g.2.2.1 < f 16 1 && g.2.2.2.1 < 8 && g.2.2.2.2.1 % 64 = 0 && g.2.2.2.2.2 % 64 = 0) &&
  (List.range (f 40 4)).all (fun i => zeroAt (sect b (f 64 4) 32 i) [(5, 3), (24, 8)]) &&
  img.entries.all (fun e => e < 2 ^ 21) &&
  img.inits.all (fun v => v.1 < img.stages.length && 8 ≤ v.2.2.1 && v.2.2.1 < 32 && 1 ≤ v.2.2.2.1 && v.2.2.2.1 ≤ 10) &&
  (List.range (f 44 4)).all (fun i => zeroAt (sect b (f 72 4) 16 i) [(6, 2)])

/-! ## Slots (R73, R78, R149) -/

/-- Fields of a frame entry of the image. -/
def feHub (e : Nat) : Nat := fld e 0 4
def feLink (e : Nat) : Nat := fld e 4 9
def feDir (e : Nat) : Nat := fld e 13 1
def feSlot (e : Nat) : Nat := fld e 14 8
def feChan (e : Nat) : Nat := fld e 22 10

/-- Fields of a spine entry of the image. -/
def seHub (e : Nat) : Nat := fld e 0 4
def seLink (e : Nat) : Nat := fld e 4 2
def seSlot (e : Nat) : Nat := fld e 6 10
def seChan (e : Nat) : Nat := fld e 16 10

/-- The staged table's entry for a frame or spine slot. -/
def stagedFrame (s : State) (h l d slot : Nat) : Nat := s.rd (R.LAT_HUB_FRAME_ENTRY h (frameKey l d slot))
def stagedSpine (s : State) (h n slot : Nat) : Nat := s.rd (R.SPN_TABLE_ENTRY h (spineKey n slot))

/-- The entries of a hub's staged table that are not free: keys within the table, from the registers at `base`, `n` of
them. -/
def State.staged (s : State) (base n : Nat) : Tbl Nat :=
  ((s.regs.filter (fun p => decide (base ≤ p.1) && decide (p.1 < base + 2 * n))).map (fun p => ((p.1 - base) / 2, p.2))).filter (fun p => p.2 ≠ freeEntry)

/-- Whether slot lies in the slice's lattice share, or spine share (R404 codes 9 and 10). -/
def inLattice (s : State) (sl slot : Nat) : Bool :=
  (slot + 256 - s.rf (R.SLC_QUOTA sl) 224 8) % 256 < s.rf (R.SLC_QUOTA sl) 232 9
def inSpine (s : State) (sl slot : Nat) : Bool :=
  s.rf (R.SLC_QUOTA sl) 256 10 ≤ slot && slot < s.rf (R.SLC_QUOTA sl) 256 10 + s.rf (R.SLC_QUOTA sl) 266 10

/-- The channel of an image with a number in a hub. -/
def chanIn (img : Image) (h num : Nat) : Option Chan := img.chans.find? (fun c => c.hub = h && c.num = num)

/-- Whether spine link n leaving hub h lies on a channel's route (R18). -/
def onRoute (c : Chan) (h n : Nat) : Bool := (routeHops (c.sCell / 128) (c.rCell / 128)).contains (h, n)

/-- Whether a frame entry continues its channel's path by R73: it leaves the channel's sender or a gate, or a crumb
reaches its cell two slots before; and it ends at the receiver or a gate, or leaves its cell two slots later. A gate is the
one by which the channel's route leaves its source's hub, or reaches its destination's (R18, R79). -/
def pathOk (img : Image) (e : Nat) : Bool :=
  if feChan e = 0x3FE then
    img.frames.any (fun r => feHub r = feHub e && feLink r = feLink e && feDir r ≠ feDir e && feChan r = 0x3FE &&
      (feSlot r = (feSlot e + 4) % 256 || feSlot e = (feSlot r + 4) % 256))
  else match chanIn img (feHub e) (feChan e) with
    | none => false
    | some c =>
      let same := fun r => feHub r = feHub e && feChan r = feChan e
      (match linkFrom (feLink e) (feDir e) with
        | .gate n => c.rCell / 128 = feHub e && onRoute c (spineTo (feHub e) n) (acrossLink n)
        | .cell i => c.sCell = feHub e * 128 + i ||
            img.frames.any (fun r => same r && linkTo (feLink r) (feDir r) = .cell i && feSlot e = (feSlot r + 2) % 256)) &&
      (match linkTo (feLink e) (feDir e) with
        | .gate n => c.sCell / 128 = feHub e && onRoute c (feHub e) n
        | .cell i => c.rCell = feHub e * 128 + i ||
            img.frames.any (fun r => same r && linkFrom (feLink r) (feDir r) = .cell i && feSlot r = (feSlot e + 2) % 256))

/-- No two elements of a list are equal. -/
def noRepeat {α : Type} [DecidableEq α] : List α → Bool
  | [] => true
  | x :: xs => !xs.contains x && noRepeat xs

/-- The reserved slots of a spine link direction, those of the image included. -/
def spineCount (s : State) (img : Image) (h n : Nat) : Nat :=
  ((List.range 1000).filter (fun k => entryChan (stagedSpine s h n k) ≠ 0x3FF)).length +
  (img.spines.filter (fun e => seHub e = h && seLink e = n)).length

/-- The slot checks of R149. -/
def slotsOk (s : State) (sl : Nat) (img : Image) : Bool :=
  img.frames.all (fun e => entryChan (stagedFrame s (feHub e) (feLink e) (feDir e) (feSlot e)) = 0x3FF &&
    inLattice s sl (feSlot e) && feChan e ≠ 0x3FF && pathOk img e) &&
  img.spines.all (fun e => entryChan (stagedSpine s (seHub e) (seLink e) (seSlot e)) = 0x3FF && inSpine s sl (seSlot e) &&
    (match chanIn img (spineTo (seHub e) (seLink e)) (seChan e) with | some c => onRoute c (seHub e) (seLink e) | none => false) && spineCount s img (seHub e) (seLink e) ≤ 750) &&
  noRepeat (img.frames.map (fun e => e % 2 ^ 22)) && noRepeat (img.spines.map (fun e => e % 2 ^ 16)) &&
  noRepeat (img.chans.map (fun c => (c.hub, c.num))) &&
  img.chans.all (fun c => s.pipes.tab.all (fun p => (chanIn p.2.img c.hub c.num).isNone))

/-- The lattice accesses of an image's slots, as cell, slot and bank (R66): a crumb read at its sender, one written at its receiver, and a
store-slot request served at the neighbour, in whichever bank the program's target lies: where Swekin put it the image does not say
(log entry 135). -/
def latticeAccesses (img : Image) : List (Nat × Nat × Nat) :=
  (img.frames.map (fun e =>
    let h := feHub e
    let cellOf := fun (x : LinkEnd) => match x with | .cell i => some (128 * h + i) | .gate _ => none
    match chanIn img h (feChan e) with
    | some c =>
      (if cellOf (linkFrom (feLink e) (feDir e)) = some c.sCell then [(c.sCell, feSlot e, 64 * Config.sendBase img.digest c.sCell c.sIdx / 0x8000)] else []) ++
      (if cellOf (linkTo (feLink e) (feDir e)) = some c.rCell then [(c.rCell, feSlot e, c.buf / 0x8000)] else [])
    | none =>
      let reply := img.frames.any (fun r => feHub r = h && feLink r = feLink e && feDir r ≠ feDir e && feChan r = 0x3FE && feSlot e = (feSlot r + 4) % 256)
      match cellOf (linkTo (feLink e) (feDir e)) with
      | some x => if feChan e = 0x3FE && !reply then [(x, feSlot e, Config.storeSlotBank img.digest e)] else []
      | none => [])).flatten

/-- The bank checks of R149 and R66: buffers of 2 to 4,096 crumbs in one bank, programs and buffers inside the store
without overlap, and no two lattice accesses of a bank of a cell in one cycle. -/
def banksOk (img : Image) : Bool :=
  let own := (img.chans.map (fun c => (c.rCell, c.rIdx, c.buf, 64 * c.size))).eraseDups
  let progs := (img.stages.map (fun st => st.cells.map (fun c => (c, st.loadOff, st.progLen)))).flatten
  let spans := own.map (fun o => (o.1, o.2.2.1, o.2.2.2)) ++ progs
  let apart := fun (a b : Nat × Nat × Nat) => a.1 ≠ b.1 || a.2.1 + a.2.2 ≤ b.2.1 || b.2.1 + b.2.2 ≤ a.2.1 || a.2.2 = 0 || b.2.2 = 0
  let rec pairs : List (Nat × Nat × Nat) → Bool
    | [] => true
    | x :: xs => xs.all (apart x) && pairs xs
  img.chans.all (fun c => 2 ≤ c.size && c.size ≤ 4096 && c.buf % 64 = 0 && c.buf / 0x8000 = (c.buf + 64 * c.size - 1) / 0x8000) &&
  spans.all (fun x => x.2.1 + x.2.2 ≤ 0x180000) && pairs spans && noRepeat (latticeAccesses img)

/-- The hubs an image uses. -/
def hubsOf (img : Image) : List Nat :=
  (List.range 12).filter (fun h => img.stages.any (fun st => st.cells.any (fun c => c / 128 = h)) ||
    img.frames.any (fun e => feHub e = h))

/-- The point another loaded image keeps a hub at, if any. -/
def State.hubPoint (s : State) (h : Nat) : Option Nat :=
  (s.pipes.tab.find? (fun p => (hubsOf p.2.img).contains h)).map (fun p => nth p.2.img.dvfs h 0)

/-- Every cell of an image. -/
def Image.cells (img : Image) : List Nat := (img.stages.map (fun st => st.cells)).flatten

/-- Whether an image's header gives a DVFS point for exactly the hubs it uses (R146). -/
def dvfsOk (img : Image) : Bool := (List.range 12).all (fun h => (hubsOf img).contains h = decide (nth img.dvfs h 0xFF ≠ 0xFF))

/-- Whether an image's slots fit the counts of its slice's shares beside those the slice holds, on every link direction (R149, R164), and the
slice stands within its feuille quota. -/
def State.slotQuotaOk (s : State) (sl : Nat) (img : Image) : Bool :=
  let mine := fun (t : Tbl Nat) (n k : Nat) => (t.filter (fun e => e.1 / n = k && entryChan e.2 ≠ 0x3FF && entrySlice e.2 = sl)).length
  img.frames.all (fun e =>
    let k := feLink e * 2 + feDir e
    mine (s.staged (R.LAT_HUB_FRAME_ENTRY (feHub e) 0) 143360) 256 k +
      (img.frames.filter (fun f => feHub f = feHub e && feLink f * 2 + feDir f = k)).length ≤ s.rf (R.SLC_QUOTA sl) 232 9) &&
  img.spines.all (fun e =>
    mine (s.staged (R.SPN_TABLE_ENTRY (seHub e) 0) 4000) 1000 (seLink e) +
      (img.spines.filter (fun f => seHub f = seHub e && seLink f = seLink e)).length ≤ s.rf (R.SLC_QUOTA sl) 266 10) &&
  (s.feus.filter (fun f => f.2.valid && f.2.owner = sl)).length ≤ s.quota sl 5

/-- The checks of R149, in order. -/
def State.checkImage (s : State) (sl base handle : Nat) (regions : List Nat) : ImgRes :=
  match s.region handle sl with
  | none => .fail s stImageInvalid 0
  | some r =>
    if r.dataBytes < base + 256 then .fail s stImageInvalid 0
    else match s.readRegion r base 256 with
      | .fail s st d => .fail s st d
      | .ok s h =>
        let len := leAt h 8 4
        if !headerOk h || r.dataBytes < base + len then .fail s stImageInvalid 0
        else match s.readRegion r base len with
          | .fail s st d => .fail s st d
          | .ok s b =>
            let img := imageOf s b
            if sha384 (b.drop 144) ≠ bsub h 96 48 then .fail s stImageInvalid 0
            else if !sectionsOk img b || (img.stages.all (fun st => (s.unitCells st.unit).isSome) && !dvfsOk img) then .fail s stImageInvalid 0
            else if !img.stages.all (fun st => s.unitOk sl st.unit) ||
                !(regions.take (leAt h 16 1)).all (fun g => (s.region g sl).isSome) then .fail s stInvalidHandle 0
            else if img.grants.any (fun g => 2 ≤ g.2.2.2.1 && s.bound (nth regions g.2.2.1 0)) then .fail s stAddressError 0
            else if !(List.range (leAt h 14 2)).all (fun i => chanInst img.stages (sect b (leAt h 52 4) 32 i)) then .fail s stImageInvalid 0
            else if !img.cells.all (fun c => s.cellState c = csIdle && !s.pipes.tab.any (fun p => p.2.state = .loading && p.2.cells.contains c)) ||
                !noRepeat img.cells then .fail s stPipeCellBusy 0
            else if !slotsOk s sl img then .fail s stPipeSlotConflict 0
            else if !banksOk img then .fail s stPipeBankConflict 0
            else if !(hubsOf img).all (fun k => nth img.dvfs k 0xFF ≤ 4 && (match s.hubPoint k with | some p => p = nth img.dvfs k 0 | none => true)) then
              .fail s stPipeDvfsConflict 0
            else if s.quota sl 6 < (s.pipes.tab.filter (fun p => p.2.slice = sl)).length + 1 || 1024 ≤ s.pipes.tab.length ||
                !s.slotQuotaOk sl img || img.stages.any (fun st => s.unitRetiring sl st.unit) then .fail (s.refused sl) stQuotaExceeded 0
            else .ok s img

/-! ## Installing and freeing (R150, R162) -/

/-- s with staged frame and spine entries replaced by those of an image for a slice, or freed, and the commits of its
hubs pending (R76, R78). -/
def State.stageSlots (s : State) (img : Image) (owner : Option Nat) : State :=
  let val := fun ch => match owner with | some sl => ch + sl * 1024 | none => freeEntry
  let s := img.frames.foldl (fun s e => s.wr (R.LAT_HUB_FRAME_ENTRY (feHub e) (frameKey (feLink e) (feDir e) (feSlot e))) (val (feChan e))) s
  let s := img.spines.foldl (fun s e => s.wr (R.SPN_TABLE_ENTRY (seHub e) (spineKey (seLink e) (seSlot e))) (val (seChan e))) s
  let s := ((List.range 12).filter (fun h => img.frames.any (fun e => feHub e = h))).foldl (fun s h => s.wf (R.LAT_HUB_COMMIT h) 1 1 1) s
  ((List.range 12).filter (fun h => img.spines.any (fun e => seHub e = h))).foldl (fun s h => s.wf (R.SPN_CTRL h) 1 1 1) s

/-- A grant register's value (LAT_CELL_GRANT). -/
def grantValue (region perm base len : Nat) : Nat :=
  region + 2 ^ 32 + perm * 2 ^ 33 + base / 64 * 2 ^ 70 + len / 64 * 2 ^ 134

/-- s with the grants and neighbour windows of an image's cells filled, or cleared (R150). -/
def State.fillGrants (s : State) (img : Image) (regions : List Nat) (on : Bool) : State :=
  let s := (img.stages.zip (List.range img.stages.length)).foldl (fun s st => st.1.cells.foldl (fun s c =>
    let s := s.wr (R.LAT_CELL_NBR c) (if on then st.1.nbr else 0)
    (img.grants.filter (fun g => g.1 = st.2)).foldl (fun s g =>
      s.wr (R.LAT_CELL_GRANT c g.2.1) (if on then grantValue (nth regions g.2.2.1 0) g.2.2.2.1 g.2.2.2.2.1 g.2.2.2.2.2 else 0)) s) s) s
  let s := img.grants.foldl (fun s g => s.addRef (nth regions g.2.2.1 0) on) s
  regions.foldl (fun s g => if g = 0 then s else s.addRef g on) s

/-- s with an image's programs and empty channel buffers in its cells' stores (R150 step 1). -/
def State.writePrograms (s : State) (img : Image) : State :=
  let s := (img.stages.zip img.programs).foldl (fun s sp => sp.1.cells.foldl (fun s c => (s.writeDpa (cellDpa c sp.1.loadOff) sp.2).1) s) s
  img.chans.foldl (fun s c => (s.writeDpa (cellDpa c.rCell c.buf) (zeroBytes (64 * c.size))).1) s

/-- Whether the cell arrays of an image's hubs run, so that their stores can be loaded (R35, R495), and s with those that sleep woken. -/
def State.hubsReady (s : State) (img : Image) : Bool := (hubsOf img).all (fun h => s.hubAwake h && !s.hubDown h)
def State.wakeHubs (s : State) (img : Image) : State := (hubsOf img).foldl (fun s h => s.wakeHub h) s

/-- Steps 1 to 3 of R150 for pipeline number pn: everything up to the commits' taking effect. -/
def State.installImage (s : State) (j : Job) (pn : Nat) (img : Image) (regions : List Nat) (plan : Option Nat) : State :=
  let s := ((s.writePrograms img).fillGrants img regions true).stageSlots img (some j.slice)
  let s := (hubsOf img).foldl (fun s h => s.wf (R.LAT_HUB_CTRL h) 0 3 (nth img.dvfs h 0)) s
  let p : Pipe := { state := .loading, prev := .loading, slice := j.slice, img := img, regions := regions, pending := 0, late := 0, waves := 0
                    wave := none, queue := [], arm := none, plan := plan, loader := (j.sr, j.tag)
                    bound := (img.stages.map (fun st => s.feuPath 9 st.unit)).flatten }
  { s with pipes := { s.pipes with tab := Tbl.put s.pipes.tab pn p }
           chans := Tbl.put s.chans pn (oneEach img.chans) }

/-- A pipeline's generation, and its handle (R150). -/
def State.pipeGen (s : State) (pn : Nat) : Nat := Tbl.get s.pipes.gen pn 0
def State.pipeHandle (s : State) (pn : Nat) : Nat := pn + s.pipeGen pn * 1024

/-- The pipeline a current handle of a slice names: a LOADING one has none (R150, R159). -/
def State.pipeOf (s : State) (handle sl : Nat) : Option (Nat × Pipe) :=
  match Tbl.find s.pipes.tab (handle % 1024) with
  | some p => if handle = s.pipeHandle (handle % 1024) && p.slice = sl && p.state ≠ .loading then some (handle % 1024, p) else none
  | none => none

/-- A sequencer with the reset values of R117, what it has already sent to memory kept. -/
def Seq.reload (q : Seq) (pipe : Option (Nat × Nat × Nat)) : Seq := { Seq.fresh with wq := q.wq, pipe := pipe }

/-- s with every cell of a pipeline LOADED and at its reset values (R117, R150, R162). -/
def State.loadCells (s : State) (pn : Nat) (p : Pipe) : State :=
  (p.img.stages.zip (List.range p.img.stages.length)).foldl (fun s st =>
    (st.1.cells.zip (List.range st.1.cells.length)).foldl (fun s ci =>
      ((s.updSeq ci.1 (fun q => q.reload (some (pn, st.2, ci.2)))).setCellState ci.1 csLoaded).setCellOwner ci.1 p.slice) s) s

/-- s with a STOPPED pipeline LOADED again (R162): its cells at their reset values, its channels empty. -/
def State.resetPipe (s : State) (pn : Nat) (p : Pipe) : State :=
  let s := p.cells.foldl (fun s c => s.wr (R.LAT_CELL_MCA c) 0) s
  let s := (s.loadCells pn p).updPipe pn (fun p => { p with state := .loaded })
  { s with chans := Tbl.upd s.chans pn (fun cs => cs.map (fun c => { c with credits := c.size, put := 0, sent := 0, recv := 0, freed := 0 }))
           lat := { s.lat with crumbs := s.lat.crumbs.filter (fun c => c.pipe ≠ pn), gates := s.lat.gates.filter (fun c => c.pipe ≠ pn)
                               credits := s.lat.credits.filter (fun c => c.1 ≠ pn) } }

/-- s with a slice's retiring groups given up whose cells are all IDLE (R409). -/
def State.dropRetired (s : State) (sl : Nat) : State :=
  let r := s.slice sl
  let keep := (bitsOf 96 r.retGroups).filter (fun g => (List.range 16).any (fun i => s.cellState (16 * g + i) ≠ csIdle))
  { s with slices := Tbl.upd s.slices sl (fun r => { r with retGroups := (keep.map (fun g => 2 ^ g)).sum }) }

/-- s with a pipeline removed (R162): its cells IDLE, its slots freed by a commit, its number free, the ARMs that wait
for it left without a source (R154). -/
def State.removePipe (s : State) (pn : Nat) : State :=
  match Tbl.find s.pipes.tab pn with
  | none => s
  | some p =>
    let s := p.cells.foldl (fun s c => ((s.updSeq c (fun q => q.reload none)).setCellState c csIdle).setCellOwner c 0) s
    let s := (s.fillGrants p.img p.regions false).stageSlots p.img none
    let s : State := { s with
      pipes := { s.pipes with tab := Tbl.del s.pipes.tab pn, gen := Tbl.set s.pipes.gen pn ((s.pipeGen pn + 1) % 65536) 0 }
      chans := Tbl.del s.chans pn
      lat := { s.lat with crumbs := s.lat.crumbs.filter (fun c => c.pipe ≠ pn), gates := s.lat.gates.filter (fun c => c.pipe ≠ pn)
                          credits := s.lat.credits.filter (fun c => c.1 ≠ pn) } }
    let s := s.dropRetired p.slice
    (s.armsOn 3 pn).foldl (fun s a =>
      let s := s.updPipe a (fun q => { q with arm := q.arm.map (fun m => { m with lost := true }) })
      match Tbl.find s.pipes.tab a with
      | some q => if q.state = .armed then s.settle a false else s
      | none => s) s

end Sys2Proof.Machine
end

