-- ==== Sys2Proof/Machine/StorOps.lean ====
section
/-! DEFINITION. Storage as shared operations: namespaces and what they read as, the write cache, batches and their log
(R346 to R348), completions on PF1 queues, descriptors and capsules (R351, R356 to R359). -/

namespace Sys2Proof.Machine

/-! ## Status (R357); NVMe statuses are (status code type << 8) | status code, as NVMe numbers them (log entry 51) -/

def stMediaError : Nat := 0x600
def stNsInvalid : Nat := 0x601
def stNsBusy : Nat := 0x602
def stPeerLost : Nat := 0x603
def stReadOnly : Nat := 0x604
def stLbaRange : Nat := 0x605

def nvOk : Nat := 0
def nvOpcode : Nat := 1
def nvField : Nat := 2
def nvTransfer : Nat := 4
def nvAborted : Nat := 7
def nvBadNs : Nat := 0x0B
def nvProtected : Nat := 0x20
def nvTransport : Nat := 0x22
def nvRange : Nat := 0x80
def nvNotReady : Nat := 0x82
def nvCqInvalid : Nat := 0x100
def nvQid : Nat := 0x101
def nvQsize : Nat := 0x102
def nvUnrecovered : Nat := 0x281

/-- The requester bit of the storage function (R253). -/
def reqStorage : Nat := 17

/-- Blocks of 4,096 bytes. -/
def blk : Nat := 4096

/-! ## Internal messages (R358, R362, R376) -/

/-- A message that work of another family, or none, sends on a QP: a WRITE (0x30), READ (0x32) or SEND (0x33). -/
def innerMsg (op sr tag remote ak ctr per n lhandle laddr : Nat) (data : Option (List Byte)) : Msg :=
  { sr := sr, tag := tag, op := op, remote := remote, ak := ak, len := n, per := per, npkt := ceilDiv n (max 1 per), comp := 0, zrw := 0, ctr := ctr
    imm := 0, operand := 0, compare := 0, lloc := 2, lhandle := lhandle, laddr := laddr, data := data, started := false, msn := 0, psn0 := 0
    ssn := 0, sent := 0, got := [], old := 0, rnr := 0, rnrWait := false, rnrSince := 0, done := false, inner := true }

/-- s with an internal message on a QP that is RTS, in packets of the QP's payload size. A SEND has at least one packet. -/
def State.postInner (s : State) (qn op sr tag remote ak ctr : Nat) (data : List Byte) : State :=
  match Tbl.find s.tmt.qps qn with
  | some q =>
    if q.state ≠ .rts then s
    else s.postMsg qn { innerMsg op sr tag remote ak ctr q.payload data.length 0 0 (some data) with npkt := max 1 (ceilDiv data.length q.payload) }
  | none => s

/-- The descriptor number internal messages of no descriptor carry. -/
def noJob : Nat := 0xFFFF

/-! ## Namespaces -/

def State.ns (s : State) (n : Nat) : Option Ns := Tbl.find s.stor.nss n
def State.updNs (s : State) (n : Nat) (f : Ns → Ns) : State := { s with stor := { s.stor with nss := Tbl.upd s.stor.nss n f } }

/-- The entries of a namespace not yet home, oldest first. -/
def Ns.pending (n : Ns) : List NsEntry :=
  (n.homing.map (fun b => b.entries)).flatten ++ (n.closed.map (fun b => b.entries)).flatten ++ n.opened

/-- Data blocks of a list of entries. -/
def dataBlocks (es : List NsEntry) : Nat := ((es.filter (fun e => !e.zero)).map (fun e => e.count)).sum

/-- Blocks cached and not yet home (NVM_CACHE_USE). -/
def State.cacheUse (s : State) : Nat := (s.stor.nss.map (fun n => dataBlocks n.2.pending)).sum

/-- The cache's size in blocks; none where no usable region is named (NVM_CACHE): every write then behaves as FUA. -/
def State.cacheBlocks (s : State) : Option Nat :=
  match s.region (s.rd R.NVM_CACHE) 0 with
  | some r => if r.ecc && 2 ^ 30 ≤ r.dataBytes then some (r.dataBytes / blk) else none
  | none => none

/-- The table of a drive's blocks. -/
def Ns.drive (n : Ns) : Nat := n.port + 4 * n.backing
def State.driveBlock (s : State) (d lba : Nat) : List Byte := Tbl.get (Tbl.get s.stor.drives d []) lba (zeroBytes blk)
def State.putDrive (s : State) (d lba : Nat) (b : List Byte) : State :=
  { s with stor := { s.stor with drives := Tbl.put s.stor.drives d (Tbl.put (Tbl.get s.stor.drives d []) lba b) } }

/-- s with whole blocks written on a drive from an LBA. -/
def State.putDriveAll (s : State) (d lba : Nat) (bs : List Byte) : State :=
  (List.range (bs.length / blk)).foldl (fun s i => s.putDrive d (lba + i) (bsub bs (i * blk) blk)) s

/-- The newest pending value of a block, if it has one. -/
def cachedBlock (es : List NsEntry) (b : Nat) : Option (List Byte) :=
  (es.reverse.find? (fun e => decide (e.lba ≤ b) && decide (b < e.lba + e.count))).map (fun e =>
    if e.zero then zeroBytes blk else bsub e.data ((b - e.lba) * blk) blk)

/-- n blocks of a drive namespace from an LBA, and whether all of them came from the cache. -/
def State.nsBlocks (s : State) (x : Ns) (slba n : Nat) : List Byte × Bool :=
  let es := x.pending
  let bs := (List.range n).map (fun i => match cachedBlock es (slba + i) with
    | some b => (b, true)
    | none => (s.driveBlock x.drive (x.start + slba + i), false))
  ((bs.map Prod.fst).flatten, bs.all Prod.snd)

/-! ## Completions -/

/-- s with one completion posted on a PF1 completion queue: written when there is room, and announced, or held back under Interrupt
Coalescing until threshold + 1 entries wait or its time expires (feature 0x08; never on the admin queue). While Bus Master Enable is
clear, or the controller shows CFS, none is written (R430). -/
def State.cqPost (s : State) (cq : Nat) (entry : Nat) : State :=
  match Tbl.find s.stor.cqs cq with
  | none => s
  | some q =>
    if !s.dmaOk 1 || s.stor.cfs then s
    else if (q.tail + 1) % q.size = q.head then { s with stor := { s.stor with cqWait := s.stor.cqWait ++ [(cq, entry)] } }
    else
      let s := s.hostPut (q.base + 16 * q.tail) (leBytes 16 (entry + (if q.phase then 2 ^ 112 else 0)))
      let t := (q.tail + 1) % q.size
      let co := if cq = 0 then 0 else Tbl.get s.stor.features 8 0
      let wait := q.ien && decide (fld co 8 8 ≠ 0) && decide (q.due < fld co 0 8)
      let q' : NvCq := { q with tail := t, phase := if t = 0 then !q.phase else q.phase, due := if wait then q.due + 1 else 0
                                since := if q.due = 0 then s.timeNs else q.since }
      let s : State := { s with stor := { s.stor with cqs := Tbl.put s.stor.cqs cq q' } }
      if q.ien && !wait then s.msix 1 q.vec else s

/-- s with a PF1 command complete: DW0, SQ head and identifier, command identifier, status. -/
def State.nvmeDone (s : State) (sq cid status dw0 : Nat) : State :=
  match Tbl.find s.stor.sqs sq with
  | none => s
  | some q =>
    let s : State := s.cnt R.NVM_CMDS
    State.cqPost { s with stor := { s.stor with lastUse := s.timeNs } } q.cq
      (dw0 % 2 ^ 32 + q.head * 2 ^ 64 + sq % 65536 * 2 ^ 80 + cid % 65536 * 2 ^ 96 + status % 2 ^ 15 * 2 ^ 113)

/-- s with a storage-direct command counted as complete (R357), and the time noted at which it was gone (R354). -/
def State.storCount (s : State) : State := State.cnt { s with stor := { s.stor with lastUse := s.timeNs } } R.NVM_CMDS

/-- s with bytes in the host pages of a command: the first may begin within a page. -/
def State.toPrps (s : State) : List Nat → List Byte → State
  | [], _ => s
  | a :: as, bs =>
    let m := 4096 * 2 ^ s.stor.mps - a % (4096 * 2 ^ s.stor.mps)
    (if !s.dmaOk 1 then s else s.hostPut a (bs.take m)).toPrps as (bs.drop m)

/-- The buffer of a STOR_READ takes the data it has; a stall keeps the data for another try. -/
def State.storTake (s : State) (j : Job) : State :=
  match s.stor.ready.find? (fun r => r.1 = j.sr && r.2.1 = j.tag) with
  | none => s
  | some r =>
    let d := j.desc
    let s := s.updJob j.sr j.tag (fun k => { k with phase := .started })
    match s.writeOperand j (dby d 28 1) (dby d 32 4) (dby d 40 8) r.2.2 reqStorage with
    | .ok s => s.storCount.succeed j r.2.2.length
    | .wait s => s
    | .fail s st dt m => s.storCount.finish j st noUnit dt m

/-- Whether a QP carries capsules still: it is RTS (R358, R359). -/
def State.qpRts (s : State) (q : Nat) : Bool := match Tbl.find s.tmt.qps q with
  | some x => x.state = .rts
  | none => false

/-- s with a self-test over, its result in the log (R354): what its steps read or asked is no one's now. -/
def State.stEnd (s : State) (result segment : Nat) : State :=
  match s.stor.selfTest with
  | none => s
  | some t =>
    let waits := (s.stor.waits.map (fun w => match w.by' with | .test _ => { w with by' := .nobody } | _ => w)).filter (fun w =>
      !(w.by' = .nobody && w.peer.isNone))
    { s with stor := { s.stor with selfTest := none, waits := waits, stLog := (result + 16 * t.code, segment, t.nsid) :: s.stor.stLog } }

/-- s with a storage command complete, with an NVMe status, a descriptor status and its detail. The response of an exporter whose QP has left
RTS is discarded (R359). -/
def State.storDone (s : State) (b : StorBy) (nv st detail : Nat) (reads : Bool) (data : List Byte) (bytes : Nat) : State :=
  match b with
  | .nvme sq cid prps => (if nv = 0 && reads then s.toPrps prps data else s).nvmeDone sq cid nv 0
  | .desc sr tag => match s.job sr tag with
    | none => s
    | some j =>
      if st ≠ 0 then s.storCount.finish j st noUnit detail 0
      else if reads then
        State.storTake { s with stor := { s.stor with ready := s.stor.ready ++ [(sr, tag, data)] } } j
      else s.storCount.succeed j bytes
  | .capsule qp cid ak off =>
    let s := if nv = 0 && reads then s.postInner qp 0x30 noJob cid off ak 0 data else s
    s.postInner qp 0x33 noJob cid 0 0 0 (leBytes 2 cid ++ leBytes 2 nv ++ zeroBytes 28)
  | .test seg => if nv = 0 then s else s.stEnd 7 seg
  | .nobody => s

def StorWait.end' (w : StorWait) (s : State) (nv st detail : Nat) : State := s.storDone w.by' nv st detail w.reads w.data w.bytes

/-! ## The write cache and its batches -/

/-- Where a log position lies after n more blocks: positions wrap past block 0 (R346). -/
def Ns.logPos (x : Ns) (p n : Nat) : Nat := if x.logBlocks ≤ 1 then 1 else (p - 1 + n) % (x.logBlocks - 1) + 1

/-- Blocks of the log between the superblock's position and the end of a batch. -/
def Ns.logUsed (x : Ns) (b : Batch) : Nat :=
  (b.recPos + (x.logBlocks - 1) - x.sbPos) % (x.logBlocks - 1) + 1 + dataBlocks b.entries

/-- s with a drive operation of a batch issued: its data, or the Flush after it. -/
def State.batchOp (s : State) (n : Nat) (b : Batch) (flush : Bool) (o : Out) : State :=
  let id := s.stor.nextDrive
  State.emit { s with stor := { s.stor with nextDrive := id + 1, driveOps := s.stor.driveOps ++ [(id, n, b.seq, flush)] } } o

/-- s with the data of the oldest closed batch that is not yet written sent to the drive, once the log has room for it (R346 step 3). -/
def State.batchWrite (s : State) (n : Nat) : State :=
  match s.ns n with
  | none => s
  | some x => match x.closed.find? (fun b => !b.ready && !(s.stor.driveOps.any (fun o => o.2.1 = n && o.2.2.1 = b.seq))) with
    | some b =>
      if x.logBlocks - 1 < x.logUsed b then s
      else s.batchOp n b false (.drive x.port 1 (x.logLba + x.logPos b.recPos 1) (dataBlocks b.entries)
        ((b.entries.map (fun e => if e.zero then [] else e.data)).flatten))
    | none => s

/-- The open batch of a namespace closes (R346 steps 2 and 3): its record's block and its data's are reserved, and its data is
written; a batch with no data has only its record to write. -/
def State.closeBatch (s : State) (n : Nat) : State :=
  match s.ns n with
  | none => s
  | some x =>
    if x.opened.isEmpty then s
    else
      let k := dataBlocks x.opened
      let b : Batch := { seq := x.seq, recPos := x.pos, entries := x.opened, ready := k = 0 }
      (s.updNs n (fun x => { x with opened := [], closed := x.closed ++ [b], seq := x.seq + 1, pos := x.logPos x.pos (1 + k) })).batchWrite n

/-- Whether the volatile write cache holds writes back from commitment: a cache region is named and the feature is on. -/
def State.vwcOn (s : State) : Bool := s.cacheBlocks.isSome && Tbl.get s.stor.features 6 1 % 2 = 1

/-- Whether an open batch takes an entry more, and whether it is full (R346 step 2). -/
def batchTakes (es : List NsEntry) (e : NsEntry) : Bool := decide (es.length < 252) && decide (dataBlocks es + dataBlocks [e] ≤ 8064)
def batchFull (es : List NsEntry) : Bool := decide (252 ≤ es.length) || decide (8064 ≤ dataBlocks es)

/-- s with an entry in the open batch of a namespace, which closes before it where it would not fit, and after it where it is full. -/
def State.addEntry (s : State) (n : Nat) (e : NsEntry) : State :=
  match s.ns n with
  | none => s
  | some x =>
    let s := if batchTakes x.opened e then s else s.closeBatch n
    let s := s.updNs n (fun x => { x with since := if x.opened.isEmpty then s.timeNs else x.since, opened := x.opened ++ [e] })
    match s.ns n with
    | some x => if batchFull x.opened then s.closeBatch n else s
    | none => s

/-- A write accepted by a drive namespace: its entries join the open batch. The command completes at once; or, with FUA or without the
volatile write cache, the batch closes and the command completes when it commits. -/
def State.cacheWrite (s : State) (b : StorBy) (n : Nat) (entries : List NsEntry) (fua : Bool) (bytes : Nat) : State :=
  let s := entries.foldl (fun s e => s.addEntry n e) s
  if (fua || !s.vwcOn) && !entries.isEmpty then
    let s := s.closeBatch n
    let seq := match s.ns n with | some x => x.seq - 1 | none => 0
    { s with stor := { s.stor with waits := s.stor.waits ++ [⟨b, n, none, some seq, none, false, [], bytes⟩] } }
  else s.storDone b nvOk 0 0 false [] bytes

/-- Pieces of a write of at most k blocks counted from its first LBA (R347, R348). -/
def nsPieces (lba n k : Nat) (zero : Bool) (data : List Byte) : List NsEntry :=
  (List.range (ceilDiv n k)).map (fun i => ⟨lba + i * k, min k (n - i * k), zero, if zero then [] else bsub data (i * k * blk) (min k (n - i * k) * blk)⟩)

/-- The key slot that names a region with slice 0 as its owner, for the importer's staging region. -/
def State.akOfRegion (s : State) (handle : Nat) : Nat :=
  match s.tmt.aks.find? (fun a => a.2.slice = 0 && a.2.kind = 1 && a.2.handle = handle) with
  | some a => a.1 * 16384 + Tbl.get s.tmt.akGen a.1 0
  | none => 0

/-- The capsules a command needs: one, or one for each range of a Deallocate. -/
def StorHeld.capsules (h : StorHeld) : List (Nat × Nat) :=
  if h.op = 4 || h.op = 5 then h.entries.map (fun e => (e.lba, e.count)) else [(h.slba, h.nlb)]

/-- Capsule identifiers of a peer namespace that no outstanding command uses. -/
def State.freeCids (s : State) (n : Nat) : List Nat :=
  let used := s.stor.waits.filterMap (fun w => if w.nsid = n then w.peer else none)
  (List.range 256).filter (fun c => !used.contains c)

/-- A capsule goes to the exporter of a peer namespace, a write's data into the staging region (R358). Each command identifier has 1 MiB
of it (log entry 52). -/
def State.peerSend (s : State) (x : Ns) (h : StorHeld) (cid : Nat) (at' : Nat × Nat) : State :=
  let off := cid * 2 ^ 20
  let data := if h.op = 2 then (h.entries.map (fun e => e.data)).flatten else []
  let s := match s.region x.staging 0 with
    | some r => if data.isEmpty then s else (s.writeRegion r off data).1
    | none => s
  let capsule := leBytes 1 h.op ++ leBytes 1 (b2n h.fua) ++ leBytes 2 cid ++ leBytes 4 x.remote ++ leBytes 8 at'.1 ++ leBytes 4 at'.2 ++
    leBytes 4 (s.akOfRegion x.staging) ++ leBytes 8 off ++ zeroBytes 32
  let s : State := { s with stor := { s.stor with waits := s.stor.waits ++ [⟨h.by', h.nsid, none, none, some cid, h.op = 1, [], h.bytes⟩] } }
  s.postInner x.backing 0x33 noJob cid 0 0 0 capsule

/-! ## Commands (R340, R351, R356) -/

/-- A read of nlb blocks of a drive or pool namespace: what it holds when the read is accepted (R351). -/
def State.storRead (s : State) (b : StorBy) (n : Nat) (x : Ns) (slba nlb : Nat) : State :=
  if x.kind = 1 then
    match Tbl.find s.mem.regions (x.backing % 65536) with
    | none => s.storDone b nvNotReady stMediaError nvNotReady true [] 0
    | some r => match s.readRegion r (slba * blk) (nlb * blk) with
      | .ok s bs => s.storDone b nvOk 0 0 true bs bs.length
      | .fail s st d => s.storDone b nvUnrecovered st d true [] 0
  else
    let r := s.nsBlocks x slba nlb
    if r.2 then s.storDone b nvOk 0 0 true r.1 r.1.length
    else
      let id := s.stor.nextDrive
      State.emit { s with stor := { s.stor with nextDrive := id + 1, waits := s.stor.waits ++ [⟨b, n, some id, none, none, true, r.1, nlb * blk⟩] } }
        (.drive x.port 2 (x.start + slba) nlb [])

/-- The entries of a write to a pool namespace go into its region. -/
def State.poolEntries (s : State) (r : Region) : List NsEntry → State × Option (Nat × Nat)
  | [] => (s, none)
  | e :: es => match s.writeRegion r (e.lba * blk) (if e.zero then zeroBytes (e.count * blk) else e.data) with
    | (s, _, none) => s.poolEntries r es
    | (s, _, some f) => (s, some f)

/-- A flush of a drive namespace (R352): its batch closes, and it is done when every write that completed before it is committed. -/
def State.storFlush (s : State) (b : StorBy) (n : Nat) (x : Ns) : State :=
  if x.opened.isEmpty && x.closed.isEmpty then s.storDone b nvOk 0 0 false [] 0
  else
    let s := s.closeBatch n
    let seq := match s.ns n with | some x => x.seq - 1 | none => 0
    { s with stor := { s.stor with waits := s.stor.waits ++ [⟨b, n, none, some seq, none, false, [], 0⟩] } }

/-- An accepted command runs. A peer namespace whose QP has left RTS has lost its exporter (R359). -/
def State.storRun (s : State) (h : StorHeld) (x : Ns) : State :=
  match x.kind with
  | 0 =>
    if h.op = 1 then s.storRead h.by' h.nsid x h.slba h.nlb
    else if h.op = 3 then s.storFlush h.by' h.nsid x
    else s.cacheWrite h.by' h.nsid h.entries h.fua h.bytes
  | 1 =>
    if h.op = 1 then s.storRead h.by' h.nsid x h.slba h.nlb
    else if h.op = 3 then s.storDone h.by' nvOk 0 0 false [] 0
    else (match Tbl.find s.mem.regions (x.backing % 65536) with
      | none => s.storDone h.by' nvNotReady stMediaError nvNotReady false [] 0
      | some r => match s.poolEntries r h.entries with
        | (s, none) => s.storDone h.by' nvOk 0 0 false [] h.bytes
        | (s, some (st, d)) => s.storDone h.by' nvUnrecovered st d false [] 0)
  | _ =>
    if !s.qpRts x.backing then (s.cnt R.NVM_PEER_LOST).storDone h.by' nvTransport stPeerLost 0 false [] 0
    else if h.capsules.isEmpty then s.storDone h.by' nvOk 0 0 false [] 0
    else ((s.freeCids h.nsid).zip h.capsules).foldl (fun s c => s.peerSend x h c.1 c.2) s

/-- The DPA pages of a pool namespace that a command touches. -/
def State.poolPages (s : State) (h : StorHeld) (x : Ns) : List Nat :=
  match Tbl.find s.mem.regions (x.backing % 65536) with
  | none => []
  | some r =>
    let runs := if h.op = 1 then [(h.slba, h.nlb)] else h.entries.map (fun e => (e.lba, e.count))
    (runs.map (fun e => (List.range e.2).map (fun i => r.dpa ((e.1 + i) * blk) / 4096))).flatten

/-- The owner number of a storage write that waits on the copy guard (R365). -/
def storOwner : Nat := 2 ^ 46 + 1

/-- Whether a command touches a block that a held one before it writes. -/
def StorHeld.meets (h k : StorHeld) : Bool :=
  h.nsid = k.nsid && k.entries.any (fun e => decide (h.slba < e.lba + e.count) && decide (e.lba < h.slba + h.nlb))

/-- Whether an accepted command must wait: behind a held one of its namespace that its blocks meet, as every write and capsule does behind
any (R351); for cache space (R346); while a write waits on the copy guard in a page it touches (R365); for capsule identifiers. -/
def State.storWaits (s : State) (h : StorHeld) (x : Ns) : Bool :=
  let before := s.stor.held.filter (fun k => k.nsid = h.nsid)
  (if h.op = 1 then before.any (fun k => h.meets k) else if h.op = 3 && x.kind ≠ 2 then false else !before.isEmpty) ||
  (match x.kind with
    | 0 => h.op ≠ 1 && h.op ≠ 3 && (match s.cacheBlocks with | some k => decide (k < s.cacheUse + dataBlocks h.entries) | none => false)
    | 1 => (s.poolPages h x).any (fun p => s.mem.guardWait.any (fun w => w.dpa / 4096 = p) || (h.op ≠ 1 && s.mem.guard.contains p))
    | _ => decide ((s.freeCids h.nsid).length < h.capsules.length) && s.qpRts x.backing)

/-- s with a command held. A write to guarded pages tells the copier (R365); one to a drive namespace counts as it waits (R346). -/
def State.storHold (s : State) (h : StorHeld) (x : Ns) : State :=
  let s : State := { s with stor := { s.stor with held := s.stor.held ++ [h] } }
  if h.op = 1 || h.op = 3 then s
  else if x.kind = 0 then s.cnt R.NVM_CACHE_WAIT
  else if x.kind = 1 then
    ((s.poolPages h x).filter (fun p => s.mem.guard.contains p)).foldl (fun s p => s.guardMark (p * 4096) storOwner) s
  else s

/-- A command is accepted: it runs, or is held until it may. -/
def State.storAccept (s : State) (h : StorHeld) : State :=
  match s.ns h.nsid with
  | none => s.storDone h.by' nvBadNs stInvalidHandle 0 false [] 0
  | some x => if s.storWaits h x then s.storHold h x else s.storRun h x

/-- A read, a write (zero: without data), a flush of nlb blocks from slba, accepted. -/
def State.storReadCmd (s : State) (b : StorBy) (n slba nlb : Nat) : State := s.storAccept ⟨b, n, 1, slba, nlb, [], false, nlb * blk⟩
def State.storWrite (s : State) (b : StorBy) (n slba nlb : Nat) (zero fua : Bool) (data : List Byte) (op : Nat) : State :=
  s.storAccept ⟨b, n, op, slba, nlb, nsPieces slba nlb (if zero then 65536 else 32) zero data, fua, if zero then 0 else nlb * blk⟩
def State.storFlushCmd (s : State) (b : StorBy) (n : Nat) : State := s.storAccept ⟨b, n, 3, 0, 0, [], false, 0⟩

/-- s with the held commands that may run now, in the order of their acceptance. -/
def State.storRetry (s : State) : State :=
  s.stor.held.foldl (fun s h => match s.ns h.nsid with
    | none => s.storDone h.by' nvBadNs stInvalidHandle 0 false [] 0
    | some x => if s.storWaits h x then { s with stor := { s.stor with held := s.stor.held ++ [h] } } else s.storRun h x)
    { s with stor := { s.stor with held := [] } }

/-- Whether a command of the storage function itself, or of no one. -/
def StorBy.own (b : StorBy) : Bool := match b with | .test _ | .nobody => true | _ => false

/-- Whether a storage-direct descriptor on a namespace has no terminal status (R345). -/
def State.storJobs (s : State) (n : Nat) : Bool :=
  s.ring.jobs.any (fun j => decide (0x50 ≤ dOpcode j.desc) && decide (dOpcode j.desc ≤ 0x54) && dby j.desc 8 4 = n)

/-- Whether any command on a namespace is outstanding (R345). -/
def State.nsBusy (s : State) (n : Nat) : Bool :=
  s.stor.waits.any (fun w => w.nsid = n && !w.by'.own) || s.stor.held.any (fun w => w.nsid = n) || s.storJobs n

/-- The peer commands over a QP that has entered ERROR are lost (R359). -/
def State.storPeerLost (s : State) (qn : Nat) : State :=
  let byQp := fun (n : Nat) => match s.ns n with | some x => x.kind = 2 && x.backing = qn | none => false
  let mine := fun (w : StorWait) => w.peer.isSome && byQp w.nsid
  let gone := (s.stor.waits.filter mine).map (fun w => w.by') ++ (s.stor.held.filter (fun h => byQp h.nsid)).map (fun h => h.by')
  let s : State := { s with stor := { s.stor with waits := s.stor.waits.filter (fun w => !mine w), held := s.stor.held.filter (fun h => !byQp h.nsid) } }
  let lost := (gone.filter (fun b => !b.own)).foldl (fun l b => if l.contains b then l else l ++ [b]) []
  let s := if lost.isEmpty then s else s.cnt R.NVM_PEER_LOST lost.length
  lost.foldl (fun s b => s.storDone b nvTransport stPeerLost 0 false [] 0)
    (if gone.any (fun b => match b with | .test _ => true | _ => false) then s.stEnd 7 4 else s)

/-- NVM_STATUS: replay while a namespace is to be replayed (R349), st_active, st_paused (R354), cache_full while writes wait for space. -/
def State.storStatus (s : State) : Nat :=
  b2n (s.stor.nss.any (fun x => x.2.needReplay)) + 2 * b2n s.stor.selfTest.isSome + 4 * b2n (s.stor.selfTest.any (fun t => t.paused)) +
  8 * b2n (s.stor.held.any (fun h => h.op ≠ 1 && h.op ≠ 3 && (match s.ns h.nsid with | some x => x.kind = 0 | none => false)))

end Sys2Proof.Machine
end

