-- ==== Sys2Proof/Machine/QpOps.lean ====
section
/-! DEFINITION. A queue pair entering ERROR (R266, R293, R294), as one shared operation. -/

namespace Sys2Proof.Machine

/-- CTRL close (R262, R294). -/
def ctrlClose : Msg := ctrlMsg 3 []

/-- The descriptors of a QP's work requests that wait on counters' lists (R291). -/
def State.heldWrs (s : State) (qn : Nat) : List Job :=
  s.ring.jobs.filter (fun j => 0x30 ≤ dOpcode j.desc && dOpcode j.desc ≤ 0x38 && dOpcode j.desc ≠ 0x37 && j.p 0 = 2 && fld j.desc 64 20 = qn)

/-- s with a QP's held work requests taken off their lists. -/
def State.unhold (s : State) (qn : Nat) : State :=
  let gone := (s.heldWrs qn).map (fun j => (j.sr, j.tag))
  if gone.isEmpty then s
  else { s with tmt := { s.tmt with ctrs := Tbl.mapV s.tmt.ctrs (fun _ c => { c with held := c.held.filter (fun h => !gone.contains h) }) } }

/-- The descriptors of every outstanding work request of a QP (R266): those sent or waiting, those held, then receive WRs. -/
def State.wrTags (s : State) (qn : Nat) (q : Qp) : List (Nat × Nat) :=
  (q.msgs.filter (fun m => m.op < 0x100)).map (fun m => (m.sr, m.tag)) ++ (s.heldWrs qn).map (fun j => (j.sr, j.tag)) ++ q.recvs.map (fun r => (r.sr, r.tag))

/-- s with a QP in ERROR (R266): its outstanding work requests complete in post order, `first`, the one that failed, with its
own status and every other one, as every posted receive WR, with TMT_FLUSHED; CTRL close is queued. -/
def State.qpError (s : State) (qn : Nat) (first : Option (Nat × Nat × Nat × Nat)) : State :=
  match Tbl.find s.tmt.qps qn with
  | none => s
  | some q =>
    if q.state = .error then s
    else
      let s := (s.wrTags qn q).foldl (fun s t => match first with
        | some (sr, tag, st, d) => if t = (sr, tag) then s.commitTag sr tag st noUnit d 0 else s.commitTag t.1 t.2 stFlushed noUnit 0 0
        | none => s.commitTag t.1 t.2 stFlushed noUnit 0 0) (s.unhold qn)
      let s := s.storPeerLost qn
      s.updQp qn (fun q => { q with state := .error, msgs := [ctrlClose], recvs := [], unacked := [], rxMsgs := [], rxSet := []
                                    responses := [], waiting := [], rxFault := none, closing := none, flushing := [] })

/-- The close of a QP in ERROR has been acknowledged, or given up (R294): the aborted work request's entry, then the flushed
ones. -/
def State.closeDone (s : State) (qn : Nat) : State :=
  match Tbl.find s.tmt.qps qn with
  | none => s
  | some q =>
    let s := match q.closing with | some (sr, tag) => s.commitTag sr tag stAborted noUnit 0 0 | none => s
    let s := q.flushing.foldl (fun s t => s.commitTag t.1 t.2 stFlushed noUnit 0 0) s
    s.updQp qn (fun q => { q with closing := none, flushing := [], msgs := [], unacked := [] })

end Sys2Proof.Machine
end

