-- ==== Sys2Proof/Machine/FirmOps.lean ====
section
/-! DEFINITION. Crashes of control cores and slices entering ERROR as shared operations (R411, R435, R439, R441, R443). -/

namespace Sys2Proof.Machine

/-- A slice enters ERROR (R411): waves and ARMs stop, steps with them, QPs enter ERROR, and every outstanding tag commits
FIRMWARE_ERROR. -/
def State.sliceError (s : State) (sl : Nat) : State :=
  if (s.slice sl).state = .absent || (s.slice sl).state = .error then s
  else
    let mine := Tbl.keysWhere s.pipes.tab (fun _ p => p.slice = sl)
    let s := mine.foldl (fun s pn => match Tbl.find s.pipes.tab pn with
      | some p => if p.wave.isSome then s.stopPipe pn stFirmwareError noUnit 0
                  else if p.arm.isSome then (s.endArm pn stFirmwareError 0 0) else s
      | none => s) s
    let s := (Tbl.keysWhere s.colls.plans (fun _ p => p.slice = sl && p.current.isSome)).foldl (fun s n => s.stopPlan n stFirmwareError noUnit 0) s
    let s := (Tbl.keysWhere s.tmt.qps (fun _ q => q.slice = sl)).foldl (fun s q => s.qpError q none) s
    let s := (s.ring.jobs.filter (fun j => j.slice = sl)).foldl (fun s j => s.commit j stFirmwareError noUnit 0 0) s
    s.setSlice sl .error

/-- Whether a control core serves a slice (R435): it owns a ring or a QP of it, or is one of CC0 to CC3. -/
def State.serves (s : State) (k sl : Nat) : Bool :=
  k < 4 || s.ring.srs.any (fun p => p.1 ≠ 0 && p.2.slice = sl && s.ringCore p.1 = k) || s.tmt.qps.any (fun p => p.2.slice = sl && s.ringCore p.1 = k)

/-- 60 s in ns. -/
def minuteNs : Nat := 60 * 10 ^ 9

/-- s with a lock state; the time at which HOLDOVER begins is kept, and FREE has met no reference. -/
def State.setLock (s : State) (l : Nat) : State :=
  State.wf { s with tln := { s.tln with holdSince := if l = 3 then s.timeNs else s.tln.holdSince, fine := s.tln.fine && l ≠ 0 } } R.TLN_STATUS 0 2 l

/-- What a core's going OFFLINE does (R435, R443). The slices that the core serves enter ERROR; what is outstanding on its rings of slice 0
completes FIRMWARE_ERROR; CC0's loss fails the cluster, CC2's the PF1 controller, CC1's puts the station into HOLDOVER (log entry 170). -/
def State.coreOffline (s : State) (k : Nat) : State :=
  let rings := (s.ring.srs.filter (fun p => p.1 ≠ 0 && p.2.slice = 0 && s.ringCore p.1 = k)).map Prod.fst
  let hit := (List.range 64).filter (fun sl => sl ≠ 0 && s.serves k sl)
  let s := (s.wf (R.FWC_CORE_STATUS k) 0 2 3).mcSignal 7 k
  let fail := fun (s : State) (p : Job → Bool) => (s.ring.jobs.filter p).foldl (fun s j => s.commit j stFirmwareError noUnit 0 0) s
  if k = 0 then fail (s.wf R.FWC_STATUS 0 2 2) (fun j => 0x80 ≤ dOpcode j.desc && dOpcode j.desc < 0x90)
  else if k = 1 then (match s.rf R.TLN_STATUS 0 2 with | 2 => s.setLock 3 | 1 => s.setLock 0 | _ => s)
  else if k = 2 then fail { s with stor := { s.stor with cfs := true } } (fun j => 0x50 ≤ dOpcode j.desc && dOpcode j.desc < 0x60)
  else if k = 3 then fail s (fun j => (0x60 ≤ dOpcode j.desc && dOpcode j.desc < 0x70) || dOpcode j.desc = 0x11 || dOpcode j.desc = 0x20)
  else
    let s := hit.foldl (fun s sl => s.sliceError sl) s
    let s : State := { s with ring := { s.ring with srs := Tbl.mapV s.ring.srs (fun n r => if rings.contains n then { r with doomed := r.fetched + r.covered } else r) } }
    fail s (fun j => rings.contains j.sr)

/-- The crashes of a core in the last 60 s, at most 3 (R447; FWC_CORE_STATUS). -/
def State.recentCrashes (s : State) (k : Nat) : Nat :=
  min 3 ((Tbl.get s.fw.crashTimes k []).filter (fun t => decide (s.timeNs < t + minuteNs))).length

/-- A control core crashes (R441 step 1, R443): it is held in reset; the third crash within 60 s takes it OFFLINE.
`cause` is its trap or interrupt cause, 0xFF the watchdog, 0xFE a memory error. -/
def State.coreCrash (s : State) (k cause : Nat) : State :=
  let times := (s.timeNs :: Tbl.get s.fw.crashTimes k []).filter (fun t => s.timeNs < t + minuteNs)
  let s : State := { s with fw := { s.fw with crashTimes := Tbl.put s.fw.crashTimes k times, lastCrash := Tbl.put s.fw.lastCrash k s.timeNs } }
  let a := R.FWC_CORE_STATUS k
  let s := ((s.wf a 4 8 cause).wf a 2 2 (min 3 times.length)).cnt R.FWC_CRASHES
  let s := { s with seqs := Tbl.upd s.seqs (1536 + k) (fun q => { q with stall := none, haltAt := false, pre := [] }) }
  if 3 ≤ times.length then s.coreOffline k else s.wf a 0 2 2

/-- A component takes a trap or cause 0x14 (R439): it is counted and restarted; its third fault within 60 s crashes the
core (true). -/
def State.compFault (s : State) (k comp : Nat) : State × Bool :=
  let ts := (k, comp, s.timeNs) :: s.fw.compTimes.filter (fun t => s.timeNs < t.2.2 + minuteNs)
  let n := (ts.filter (fun t => t.1 = k && t.2.1 = comp)).length
  let s : State := { s with fw := { s.fw with
    compTimes := if 3 ≤ n then ts.filter (fun t => !(t.1 = k && t.2.1 = comp)) else ts
    compFaults := Tbl.put s.fw.compFaults k (min 0xFFFFFFFF (Tbl.get s.fw.compFaults k 0 + 1)) } }
  (s.cnt R.FWC_COMP_FAULTS, decide (3 ≤ n))

/-- s with an interrupt cause pending on a control core (R437). -/
def State.pendIrq (s : State) (k cause val : Nat) : State :=
  { s with seqs := Tbl.put s.seqs (1536 + k) (let q := Tbl.get s.seqs (1536 + k) Seq.fresh; { q with pend := q.pend ++ [(cause, val)] }) }

end Sys2Proof.Machine
end

