-- ==== Sys2Proof/Machine/NumFmt.lean ====
section
/-! DEFINITION. Number formats and exact arithmetic (R91 to R99, R512): a finite value is a sign, a natural mantissa and
a power of two, so every sum, product and scaling is exact and each result is rounded once. -/

namespace Sys2Proof.Machine

/-- The value of a floating-point bit pattern. -/
inductive FV
  | nan
  | inf (neg : Bool)
  | fin (neg : Bool) (m : Nat) (e : Int)
deriving DecidableEq, Repr

/-- How a format codes what is not finite: as IEEE 754, as E4M3, not at all, or as a scale (R91). -/
inductive FKind
  | ieee | e4m3 | finite | scale
deriving DecidableEq, Repr

/-- A format's exponent and mantissa widths, bias and kind. -/
structure Fmt where
  eb : Nat
  mb : Nat
  bias : Nat
  kind : FKind
deriving DecidableEq, Repr

namespace Fmt
def binary64 : Fmt := ⟨11, 52, 1023, .ieee⟩
def binary32 : Fmt := ⟨8, 23, 127, .ieee⟩
def binary16 : Fmt := ⟨5, 10, 15, .ieee⟩
def bfloat16 : Fmt := ⟨8, 7, 127, .ieee⟩
def e4m3 : Fmt := ⟨4, 3, 7, .e4m3⟩
def e5m2 : Fmt := ⟨5, 2, 15, .ieee⟩
def e2m3 : Fmt := ⟨2, 3, 1, .finite⟩
def e3m2 : Fmt := ⟨3, 2, 3, .finite⟩
def e2m1 : Fmt := ⟨2, 1, 1, .finite⟩
def e8m0 : Fmt := ⟨8, 0, 127, .scale⟩
end Fmt

/-- Bits of a value of the format: sign, exponent, mantissa. -/
def Fmt.bits (f : Fmt) : Nat := if f.kind = .scale then 8 else 1 + f.eb + f.mb

/-- The exponent field of all ones. -/
def Fmt.eall (f : Fmt) : Nat := 2 ^ f.eb - 1

/-- The exponent field and the mantissa field of the largest finite value (R91). -/
def Fmt.topFields (f : Fmt) : Nat × Nat := match f.kind with
  | .ieee => (f.eall - 1, 2 ^ f.mb - 1)
  | .e4m3 => (f.eall, 2 ^ f.mb - 2)
  | .finite => (f.eall, 2 ^ f.mb - 1)
  | .scale => (f.eall - 1, 0)

/-- The largest finite value as mantissa and power of two. -/
def Fmt.maxFin (f : Fmt) : Nat × Int :=
  (2 ^ f.mb + f.topFields.2, (f.topFields.1 : Int) - f.bias - f.mb)

/-- The canonical NaN of the format, +0 where it has none (R93, R97). -/
def Fmt.nanBits (f : Fmt) : Nat := match f.kind with
  | .ieee => f.eall * 2 ^ f.mb + 2 ^ (f.mb - 1)
  | .e4m3 => 0x7F
  | .finite => 0
  | .scale => 0xFF

/-- The value of a bit pattern (R91, R92). -/
def Fmt.decode (f : Fmt) (b : Nat) : FV :=
  if f.kind = .scale then
    if b % 256 = 0xFF then .nan else .fin false 1 ((b % 256 : Nat) - (127 : Int))
  else
    let neg := b.testBit (f.eb + f.mb)
    let e := fld b f.mb f.eb
    let m := fld b 0 f.mb
    if f.kind = .ieee && e = f.eall then (if m = 0 then .inf neg else .nan)
    else if f.kind = .e4m3 && e = f.eall && m = 2 ^ f.mb - 1 then .nan
    else if e = 0 then .fin neg m (1 - (f.bias : Int) - f.mb)
    else .fin neg (2 ^ f.mb + m) ((e : Int) - f.bias - f.mb)

/-! ## Rounding (R94 to R96) -/

/-- The rounding modes of R94 by code. -/
def rmRNE : Nat := 0
def rmRTZ : Nat := 1
def rmRUP : Nat := 2
def rmRDN : Nat := 3
def rmRNA : Nat := 4
def rmSR : Nat := 5

/-- Flag bits in the order of CS bits [11:8] (R99, R139). -/
def fOV : Nat := 1
def fDZ : Nat := 2
def fNX : Nat := 4
def fTG : Nat := 8

/-- m × 2^e in units of 2^q, rounded toward zero, and what is left over as a fraction num / 2^k of a unit. -/
def scaleTo (m : Nat) (e q : Int) : Nat × Nat × Nat :=
  if q ≤ e then (m * 2 ^ (e - q).toNat, 0, 0)
  else
    let k := (q - e).toNat
    (m / 2 ^ k, m % 2 ^ k, k)

/-- Whether a magnitude with remainder r / 2^k above t rounds up; `u` are the stochastic bits (R95), used under SR. -/
def roundsUp (mode u : Nat) (neg : Bool) (t r k : Nat) : Bool :=
  if r = 0 then false
  else if mode = rmRTZ then false
  else if mode = rmRUP then !neg
  else if mode = rmRDN then neg
  else if mode = rmRNA then decide (2 ^ k ≤ 2 * r)
  else if mode = rmSR then decide (2 ^ 32 ≤ r * 2 ^ 32 / 2 ^ k + u)
  else decide (2 ^ k < 2 * r) || (decide (2 ^ k = 2 * r) && t % 2 = 1)

/-- floor(log2 (m × 2^e)) for m ≠ 0. -/
def log2Of (m : Nat) (e : Int) : Int := e + (Nat.log2 m : Nat)

/-- Whether m × 2^e > m' × 2^e'. -/
def magGt (m : Nat) (e : Int) (m' : Nat) (e' : Int) : Bool :=
  let lo := min e e'
  decide (m' * 2 ^ (e' - lo).toNat < m * 2 ^ (e - lo).toNat)

/-- What is written when a result overflows (R96), with its flags. -/
def Fmt.overflow (f : Fmt) (mode : Nat) (sat neg : Bool) : Nat × Nat :=
  let s := if neg then 2 ^ (f.eb + f.mb) else 0
  let big := s + f.topFields.1 * 2 ^ f.mb + f.topFields.2
  let infB := s + f.eall * 2 ^ f.mb
  let toward := mode = rmRTZ || (mode = rmRUP && neg) || (mode = rmRDN && !neg)
  (if toward then big
   else match f.kind with
     | .ieee => if sat && decide (f.mb + f.eb < 16) then big else infB
     | .e4m3 => if sat then big else f.nanBits
     | .finite => big
     | .scale => f.nanBits, fOV ||| fNX)

/-- A value rounded into a format under a mode (SAT as given, `u` the stochastic bits): its bits and flags (R93 to R97).
A value written as a scale keeps only its power of two, the mantissa rounded under the mode. -/
def Fmt.round (f : Fmt) (mode : Nat) (sat : Bool) (u : Nat) (v : FV) : Nat × Nat :=
  match v with
  | .nan => (f.nanBits, if f.kind = .finite then fOV else 0)
  | .inf neg => match f.kind with
    | .ieee => ((if neg then 2 ^ (f.eb + f.mb) else 0) + f.eall * 2 ^ f.mb, 0)
    | .scale => (f.nanBits, fOV)
    | _ => f.overflow mode sat neg
  | .fin neg m e =>
    if f.kind = .scale then
      if m = 0 then (0, fNX) else if neg then (f.nanBits, fOV)
      else
        let l := log2Of m e
        let (t, r, k) := scaleTo m e l
        let l' := if roundsUp mode u false t r k then l + 1 else l
        let nx := if r = 0 then 0 else fNX
        if l' < -127 then (0, fNX) else if 127 < l' then (0xFE, fOV ||| fNX) else ((l' + 127).toNat, nx)
    else
      let s := if neg then 2 ^ (f.eb + f.mb) else 0
      if m = 0 then (s, 0)
      else
        let q := max (log2Of m e - f.mb) (1 - (f.bias : Int) - f.mb)
        let (t, r, k) := scaleTo m e q
        let n := if roundsUp mode u neg t r k then t + 1 else t
        let nx := if r = 0 then 0 else fNX
        if magGt n q f.maxFin.1 f.maxFin.2 then f.overflow mode sat neg
        else if n < 2 ^ f.mb then (s + n, nx)
        else
          let (n', q') := if n = 2 ^ (f.mb + 1) then (2 ^ f.mb, q + 1) else (n, q)
          (s + (q' + f.mb + f.bias).toNat * 2 ^ f.mb + (n' - 2 ^ f.mb), nx)

/-- The mode arithmetic rounds under: SR acts as RNE (R94). -/
def arithMode (mode : Nat) : Nat := if mode = rmSR then rmRNE else mode

/-! ## Exact arithmetic -/

/-- A finite value as an integer multiple of 2^e. -/
def signedM (neg : Bool) (m : Nat) : Int := if neg then -(m : Int) else m

def FV.isNan : FV → Bool | .nan => true | _ => false
def FV.isFin : FV → Bool | .fin _ _ _ => true | _ => false
def FV.neg : FV → FV
  | .nan => .nan
  | .inf n => .inf (!n)
  | .fin n m e => .fin (!n) m e
def FV.abs : FV → FV
  | .nan => .nan
  | .inf _ => .inf false
  | .fin _ m e => .fin false m e
def FV.isZero : FV → Bool | .fin _ 0 _ => true | _ => false
def FV.zero : FV := .fin false 0 0
def FV.ofInt (i : Int) : FV := .fin (decide (i < 0)) i.natAbs 0

/-- An exact sum and whether it is an invalid operation (R97); the sign of an exact zero follows IEEE 754. -/
def FV.add (mode : Nat) (a b : FV) : FV × Bool := match a, b with
  | .nan, _ => (.nan, false)
  | _, .nan => (.nan, false)
  | .inf x, .inf y => if x = y then (.inf x, false) else (.nan, true)
  | .inf x, _ => (.inf x, false)
  | _, .inf y => (.inf y, false)
  | .fin n m e, .fin n' m' e' =>
    let lo := min e e'
    let v := signedM n m * 2 ^ (e - lo).toNat + signedM n' m' * 2 ^ (e' - lo).toNat
    if v = 0 then (.fin (if n = n' then n else decide (mode = rmRDN)) 0 0, false)
    else (.fin (decide (v < 0)) v.natAbs lo, false)

/-- An exact product and whether it is invalid. -/
def FV.mul (a b : FV) : FV × Bool := match a, b with
  | .nan, _ => (.nan, false)
  | _, .nan => (.nan, false)
  | .inf x, .inf y => (.inf (xor x y), false)
  | .inf x, .fin n m _ => if m = 0 then (.nan, true) else (.inf (xor x n), false)
  | .fin n m _, .inf y => if m = 0 then (.nan, true) else (.inf (xor n y), false)
  | .fin n m e, .fin n' m' e' => (.fin (xor n n') (m * m') (e + e'), false)

/-- c + a × b, exact, and whether it is invalid; a product 0 × ∞ is invalid whatever c is (R97). -/
def FV.fma (mode : Nat) (c a b : FV) : FV × Bool :=
  let p := FV.mul a b
  if p.2 then (.nan, true) else FV.add mode c p.1

/-- A value times 2^k. -/
def FV.scale (v : FV) (k : Int) : FV := match v with
  | .fin n m e => .fin n m (e + k)
  | x => x

/-- Whether a < b, for values that are no NaN. -/
def FV.lt (a b : FV) : Bool := match a, b with
  | .nan, _ => false
  | _, .nan => false
  | .inf x, .inf y => x && !y
  | .inf x, .fin _ _ _ => x
  | .fin _ _ _, .inf y => !y
  | .fin n m e, .fin n' m' e' =>
    let lo := min e e'
    decide (signedM n m * 2 ^ (e - lo).toNat < signedM n' m' * 2 ^ (e' - lo).toNat)

/-- Whether a and b are equal numbers. -/
def FV.eqv (a b : FV) : Bool := !a.isNan && !b.isNan && !FV.lt a b && !FV.lt b a

/-- The sign bit of a value (NaNs are read as positive). -/
def FV.signBit : FV → Bool | .nan => false | .inf n => n | .fin n _ _ => n

/-- The larger, or the smaller, of two values (R512); -0 orders below +0. -/
def FV.pick (isMax : Bool) (a b : FV) : FV :=
  if a.isNan || b.isNan then .nan
  else
    let aLow := FV.lt a b || (FV.eqv a b && a.signBit)
    if isMax then (if aLow then b else a) else (if aLow then a else b)

/-! ## Conversions between integers and floating point (R98, R519) -/

/-- A value rounded to an integer of w bits: the integer and the flags. Out of range, NX beside OV stands only where the rounding discarded
a fraction, and never for an infinity or a NaN (DEDUCED from R98 and R99, log entry 137). -/
def FV.toInt (mode u w : Nat) (isSigned : Bool) (v : FV) : Int × Nat :=
  let lo : Int := if isSigned then -((2 ^ (w - 1) : Nat) : Int) else 0
  let hi : Int := if isSigned then ((2 ^ (w - 1) : Nat) : Int) - 1 else ((2 ^ w : Nat) : Int) - 1
  match v with
  | .nan => (0, fOV)
  | .inf n => (if n then lo else hi, fOV)
  | .fin n m e =>
    let (t, r, k) := scaleTo m e 0
    let i := signedM n (if roundsUp mode u n t r k then t + 1 else t)
    let nx := if r = 0 then 0 else fNX
    if i < lo then (lo, fOV ||| nx) else if hi < i then (hi, fOV ||| nx) else (i, nx)

/-- The stochastic bits of R95. -/
def srBits (seed step index : Nat) : Nat :=
  let M := 2 ^ 64
  let rnd := fun (ab : Nat × Nat) =>
    let a := (ab.1 + ab.2) % M
    let a := a ^^^ (a >>> 29)
    let a := a * 0xA24BAED4963EE407 % M
    let b := ((ab.2 <<< 23) ||| (ab.2 >>> 41)) % M
    (a, b ^^^ a)
  let s0 := (index % M, (seed % M) ^^^ (step * 0xD1B54A32D192ED03 % M))
  (rnd (rnd (rnd (rnd s0)))).1 >>> 32

/-! ## Element formats by code (R134, R193, R237) -/

/-- The floating-point format of an element code; 0x20 is binary64. -/
def fmtOf (c : Nat) : Option Fmt := match c with
  | 1 => some .binary32 | 2 => some .bfloat16 | 3 => some .binary16 | 4 => some .e4m3 | 5 => some .e5m2
  | 6 => some .e2m3 | 7 => some .e3m2 | 8 => some .e2m1 | 0x20 => some .binary64 | _ => none

/-- The width in bits of an element code, 0 for a code that names no format. -/
def codeBits (c : Nat) : Nat := match c with
  | 1 => 32 | 2 => 16 | 3 => 16 | 4 => 8 | 5 => 8 | 6 => 6 | 7 => 6 | 8 => 4
  | 9 => 8 | 0xA => 16 | 0xB => 32 | 0xC => 64 | 0x20 => 64 | _ => 0

/-- Whether a code names a signed integer format. -/
def codeInt (c : Nat) : Bool := 9 ≤ c && c ≤ 0xC

/-- One element converted from format code a to format code b: its bits and flags (R94 to R98). Integer to integer
takes the nearest representable value. -/
def convert (a b mode : Nat) (sat : Bool) (u x : Nat) : Nat × Nat :=
  match fmtOf a, fmtOf b with
  | some f, some g => g.round mode sat u (f.decode x)
  | some f, none =>
    let r := FV.toInt mode u (codeBits b) true (f.decode x)
    (wrapInt (codeBits b) r.1, r.2)
  | none, some g => g.round mode sat u (FV.ofInt (signed (codeBits a) x))
  | none, none =>
    let i := signed (codeBits a) x
    let w := codeBits b
    let hi : Int := ((2 ^ (w - 1) : Nat) : Int) - 1
    let lo : Int := -((2 ^ (w - 1) : Nat) : Int)
    if i < lo then (wrapInt w lo, fOV) else if hi < i then (wrapInt w hi, fOV) else (wrapInt w i, 0)

end Sys2Proof.Machine
end

