-- ==== Sys2Proof/Machine/Flags.lean ====
section
/-! DEFINITION. What the sequencer's arithmetic computes, with the flags each result sets (R118, R119, R127, R132, R512,
R519). Each function answers the result with its flags (bits OV 1, DZ 2, NX 4, TG 8), or the position of the operand
that fails R119 (R140). -/

namespace Sys2Proof.Machine

/-! ## Tags (R118) -/

def tgInt : Nat := 1
def tgUint : Nat := 2
def tgF64 : Nat := 3
def tgF32x2 : Nat := 4
def tgBf16x4 : Nat := 5
def tgF16x4 : Nat := 6
def tgI32x2 : Nat := 7
def tgAddr : Nat := 8
def tgHandle : Nat := 9
def tgBool : Nat := 10

/-- A scalar result: a tagged value with the flags it sets, or the position that fails its tag check. -/
abbrev Alu := Except Nat (TW × Nat)

/-! ## Integers at a width -/

/-- The value of a payload's low w bits under an integer tag. -/
def tagVal (tag w p : Nat) : Int := if tag = tgInt then signed w p else ((p % 2 ^ w : Nat) : Int)

/-- A w-bit pattern extended to 64 bits: by sign for INT, by zero otherwise (R127). -/
def extend (tag w p : Nat) : Nat := if tag = tgInt then wrapInt 64 (signed w p) else p % 2 ^ w

/-- An exact integer written at width w under a tag, with OV when it does not fit (R132). -/
def narrow (tag w : Nat) (i : Int) : TW × Nat :=
  let p := wrapInt w i
  (⟨tag, extend tag w p⟩, if tagVal tag w p = i then 0 else fOV)

def isInt (t : Nat) : Bool := t = tgInt || t = tgUint

/-- Two operands with one tag out of a set, or the position that fails. -/
def sameTag (ok : Nat → Bool) (a b : TW) : Except Nat Nat :=
  if !ok a.tag then .error 1 else if b.tag ≠ a.tag then .error 2 else .ok a.tag

/-- ADD and SUB where an operand is an ADDR (R119, R132). -/
def addrArith (sub : Bool) (w : Nat) (a b : TW) : Alu :=
  let M : Int := ((2 ^ 60 : Nat) : Int)
  let put := fun (g : Nat) (o : Int) =>
    Except.ok (⟨tgAddr, g * 2 ^ 60 + wrapInt 60 o⟩, if 0 ≤ o && o < M then 0 else fOV)
  if a.tag = tgAddr then
    let off : Int := ((a.val % 2 ^ 60 : Nat) : Int)
    if isInt b.tag then
      let n := tagVal b.tag w b.val
      put (a.val / 2 ^ 60) (if sub then off - n else off + n)
    else if sub && b.tag = tgAddr && b.val / 2 ^ 60 = a.val / 2 ^ 60 then
      .ok (narrow tgInt w (off - ((b.val % 2 ^ 60 : Nat) : Int)))
    else .error 2
  else if !isInt a.tag then .error 1
  else if sub then .error 2
  else put (b.val / 2 ^ 60) (((b.val % 2 ^ 60 : Nat) : Int) + tagVal a.tag w a.val)

/-- ADD, or SUB. -/
def aluAddSub (sub : Bool) (w : Nat) (a b : TW) : Alu :=
  if a.tag = tgAddr || b.tag = tgAddr then addrArith sub w a b
  else match sameTag isInt a b with
    | .error e => .error e
    | .ok t =>
      let x := tagVal t w a.val
      let y := tagVal t w b.val
      .ok (narrow t w (if sub then x - y else x + y))

/-- AND, OR, XOR by a function of the payloads. -/
def aluLogic (f : Nat → Nat → Nat) (w : Nat) (a b : TW) : Alu :=
  match sameTag (fun t => isInt t || t = tgBool) a b with
  | .error e => .error e
  | .ok t => .ok (⟨t, extend t w (f (a.val % 2 ^ w) (b.val % 2 ^ w))⟩, 0)

/-- NOT: logical on a BOOL (R132). -/
def aluNot (w : Nat) (a : TW) : Alu :=
  if a.tag = tgBool then .ok (⟨tgBool, 1 - a.val % 2⟩, 0)
  else if isInt a.tag then .ok (⟨a.tag, extend a.tag w (2 ^ w - 1 - a.val % 2 ^ w)⟩, 0)
  else .error 1

/-- NEG, or ABS: of an INT; a UINT is a tag trap (R132). -/
def aluNegAbs (abs : Bool) (w : Nat) (a : TW) : Alu :=
  if a.tag ≠ tgInt then .error 1
  else
    let x := tagVal tgInt w a.val
    .ok (narrow tgInt w (if abs && 0 ≤ x then x else -x))

/-- The five shifts by kind: 0 SHL, 1 SHR, 2 SAR, 3 ROL, 4 ROR; the count is taken whole (R132). -/
def aluShift (kind w : Nat) (a b : TW) : Alu :=
  if !isInt a.tag then .error 1
  else if !isInt b.tag then .error 2
  else
    let v := a.val % 2 ^ w
    let c := b.val
    let rot := fun (k : Nat) => ((v <<< k) ||| (v >>> (w - k))) % 2 ^ w
    let r := match kind with
      | 0 => if c < w then v <<< c else 0
      | 1 => if c < w then v >>> c else 0
      | 2 => wrapInt w (signed w v / ((2 ^ min c w : Nat) : Int))
      | 3 => rot (c % w)
      | _ => rot ((w - c % w) % w)
    .ok (⟨a.tag, extend a.tag w r⟩, 0)

/-- MIN, or MAX. -/
def aluMinMax (isMax : Bool) (w : Nat) (a b : TW) : Alu :=
  match sameTag isInt a b with
  | .error e => .error e
  | .ok t =>
    let x := tagVal t w a.val
    let y := tagVal t w b.val
    .ok (narrow t w (if isMax then max x y else min x y))

def boolTW (b : Bool) : TW := ⟨tgBool, b2n b⟩

/-- CMPEQ, or CMPNE: an ADDR is compared whole (R127). -/
def aluEq (ne : Bool) (w : Nat) (a b : TW) : Alu :=
  match sameTag (fun t => isInt t || t = tgBool || t = tgAddr || t = tgHandle) a b with
  | .error e => .error e
  | .ok t =>
    let m := fun (p : Nat) => if t = tgAddr then p else p % 2 ^ w
    .ok (boolTW (decide (m a.val = m b.val) != ne), 0)

/-- CMPLT, or CMPLE. -/
def aluLt (orEq : Bool) (w : Nat) (a b : TW) : Alu :=
  match sameTag isInt a b with
  | .error e => .error e
  | .ok t =>
    let x := tagVal t w a.val
    let y := tagVal t w b.val
    .ok (boolTW (if orEq then decide (x ≤ y) else decide (x < y)), 0)

/-- POPC, CLZ or CTZ by kind 0, 1, 2: the count at width w, with the source's tag. -/
def aluCount (kind w : Nat) (a : TW) : Alu :=
  if !isInt a.tag then .error 1
  else
    let v := a.val % 2 ^ w
    let n := match kind with
      | 0 => popCount w v
      | 1 => if v = 0 then w else w - 1 - Nat.log2 v
      | _ => ((List.range w).find? (fun i => v.testBit i)).getD w
    .ok (⟨a.tag, n⟩, 0)

/-- CAST (R119). -/
def aluCast (a : TW) : Alu :=
  if a.tag = tgInt then .ok (⟨tgUint, a.val⟩, 0) else if a.tag = tgUint then .ok (⟨tgInt, a.val⟩, 0) else .error 1

/-- MKADDR (R132). -/
def aluMkaddr (grant : Nat) (a : TW) : Alu :=
  if a.tag ≠ tgUint then .error 1
  else .ok (⟨tgAddr, grant * 2 ^ 60 + a.val % 2 ^ 60⟩, if a.val / 2 ^ 60 = 0 then 0 else fOV)

/-! ## The multiplier and the divider -/

/-- MUL, MULH or MAC by kind 0, 1, 2: the tag and the exact value that will land (R122, R123), and whether it sets OV
whatever the landing adds. -/
def mulValue (kind w : Nat) (a b : TW) : Except Nat (Nat × Int × Bool) :=
  match sameTag isInt a b with
  | .error e => .error e
  | .ok t =>
    let p := tagVal t w a.val * tagVal t w b.val
    .ok (match kind with
      | 0 => (t, p, decide ((narrow t w p).2 ≠ 0))
      | 1 => (t, p / ((2 ^ w : Nat) : Int), false)
      | _ => (t, p, false))

/-- DIV: quotient, remainder and the flags of R132. -/
def divValue (w : Nat) (a b : TW) : Except Nat (Nat × Int × Int × Nat) :=
  match sameTag isInt a b with
  | .error e => .error e
  | .ok t =>
    let x := tagVal t w a.val
    let y := tagVal t w b.val
    .ok (if y = 0 then (t, 0, x, fDZ)
      else
        let q := Int.tdiv x y
        (t, q, Int.tmod x y, (narrow t w q).2))

/-! ## Floating point (R93 to R97, R512, R519) -/

/-- The format, lane width and lanes of a floating tag. -/
def fpTag (t : Nat) : Option (Fmt × Nat × Nat) :=
  if t = tgF64 then some (.binary64, 64, 1) else if t = tgF32x2 then some (.binary32, 32, 2)
  else if t = tgBf16x4 then some (.bfloat16, 16, 4) else if t = tgF16x4 then some (.binary16, 16, 4) else none

/-- One lane of FADD 0, FSUB 1, FMUL 2, FFMA 3 (c + a × b), FMIN 4, FMAX 5: bits and flags. -/
def fpLane (kind : Nat) (f : Fmt) (mode : Nat) (sat : Bool) (a b c : Nat) : Nat × Nat :=
  let m := arithMode mode
  let x := f.decode a
  let y := f.decode b
  let r := match kind with
    | 0 => FV.add m x y
    | 1 => FV.add m x y.neg
    | 2 => FV.mul x y
    | 3 => FV.fma m (f.decode c) x y
    | 4 => (FV.pick false x y, false)
    | _ => (FV.pick true x y, false)
  let o := f.round m sat 0 r.1
  (o.1, o.2 ||| (if r.2 then fOV else 0))

/-- The lane-wise operations on equal floating tags; `c` is rd, read by FFMA alone. -/
def aluFp (kind mode : Nat) (sat : Bool) (a b c : TW) : Alu :=
  match fpTag a.tag with
  | none => .error 1
  | some (f, w, n) =>
    if b.tag ≠ a.tag then .error 2
    else if kind = 3 && c.tag ≠ a.tag then .error 3
    else
      let rs := (List.range n).map (fun i => fpLane kind f mode sat (fld a.val (w * i) w) (fld b.val (w * i) w) (fld c.val (w * i) w))
      .ok (⟨a.tag, (rs.zip (List.range n)).foldl (fun acc r => acc + r.1.1 * 2 ^ (w * r.2)) 0⟩, rs.foldl (fun fl r => fl ||| r.2) 0)

/-- FCMPEQ 0, FCMPLT 1, FCMPLE 2: ordering a NaN is invalid (R97). -/
def aluFcmp (kind : Nat) (a b : TW) : Alu :=
  if a.tag ≠ tgF64 then .error 1
  else if b.tag ≠ tgF64 then .error 2
  else
    let x := Fmt.binary64.decode a.val
    let y := Fmt.binary64.decode b.val
    let nan := x.isNan || y.isNan
    match kind with
    | 0 => .ok (boolTW (FV.eqv x y), 0)
    | 1 => .ok (boolTW (FV.lt x y), if nan then fOV else 0)
    | _ => .ok (boolTW (!nan && (FV.lt x y || FV.eqv x y)), if nan then fOV else 0)

/-- ICVT to the tag `to` under a mode (R519); `u` are the stochastic bits. -/
def aluIcvt (dst mode u : Nat) (a : TW) : Alu :=
  if a.tag = tgF64 then
    let v := Fmt.binary64.decode a.val
    if dst = tgF64 then .ok (⟨tgF64, if v.isNan then Fmt.binary64.nanBits else a.val⟩, 0)
    else
      let r := FV.toInt mode u 64 (dst = tgInt) v
      .ok (⟨dst, wrapInt 64 r.1⟩, r.2)
  else if !isInt a.tag then .error 1
  else
    let i := tagVal a.tag 64 a.val
    if dst = tgF64 then
      let r := Fmt.binary64.round mode false u (FV.ofInt i)
      .ok (⟨tgF64, r.1⟩, r.2)
    else if dst = a.tag then .ok (a, 0)
    else if dst = tgUint then (if i < 0 then .ok (⟨tgUint, 0⟩, fOV) else .ok (⟨tgUint, a.val⟩, 0))
    else if i < ((2 ^ 63 : Nat) : Int) then .ok (⟨tgInt, a.val⟩, 0) else .ok (⟨tgInt, 2 ^ 63 - 1⟩, fOV)

end Sys2Proof.Machine
end

