-- ==== Sys2Proof/Machine/TtiDecode.lean ====
section
/-! DEFINITION. Decoding of TTI instructions from store bytes (R125 to R131, R137, R138, R517, R518): what the bytes
say, and which of step 1's conditions (R141) they break. Nothing here reads a register. -/

namespace Sys2Proof.Machine

/-- The prefix classes an opcode may allow (R130, R131), as bits of a mask. -/
def pWidth : Nat := 1
def pW32 : Nat := 2
def pPred : Nat := 4
def pCnt : Nat := 8
def pLmask : Nat := 16
def pAtom : Nat := 32
def pWaive : Nat := 64
def pRnd : Nat := 128

/-- A row of the opcode map: opcode (an escape and its second byte as one number), forms, immediate bytes (9 for the
operation width), prefixes, and what rd may be: 0 any, 1 zero, 2 at most 3. -/
structure OpRow where
  op : Nat
  forms : List Nat
  imm : Nat
  pre : Nat
  rd : Nat
deriving DecidableEq, Repr

/-- Vector, tensor and special-function prefixes (R131). -/
def pUnit : Nat := pPred + pCnt + pLmask + pRnd

/-- The one-byte opcodes (R130). -/
def opRows1 : List OpRow := [
  ⟨0x00, [7], 0, pPred + pCnt, 1⟩, ⟨0x01, [2], 0, pPred, 0⟩, ⟨0x02, [3], 9, pWidth + pPred, 0⟩,
  ⟨0x03, [3], 9, pWidth + pPred, 0⟩, ⟨0x04, [7], 0, pPred, 0⟩, ⟨0x05, [2], 0, pPred, 0⟩, ⟨0x06, [1], 1, pPred, 0⟩,
  ⟨0x07, [3], 1, pPred, 0⟩, ⟨0x08, [3], 1, pPred, 0⟩, ⟨0x09, [1], 1, pWaive + pPred, 0⟩,
  ⟨0x10, [4, 5], 0, pPred, 0⟩, ⟨0x11, [4, 5], 0, pPred, 0⟩, ⟨0x12, [4, 5], 1, pPred, 0⟩, ⟨0x13, [4, 5], 1, pPred, 0⟩,
  ⟨0x14, [4], 0, pAtom + pPred, 0⟩, ⟨0x15, [4], 0, pAtom + pPred, 0⟩, ⟨0x16, [4], 0, pAtom + pPred, 0⟩]

def opRows2 : List OpRow := [
  ⟨0x20, [0, 1], 9, pWidth + pPred + pCnt, 0⟩, ⟨0x21, [0, 1], 9, pWidth + pPred + pCnt, 0⟩,
  ⟨0x22, [0, 1], 9, pWidth + pPred + pCnt, 0⟩, ⟨0x23, [0, 1], 9, pWidth + pPred + pCnt, 0⟩,
  ⟨0x24, [0, 1], 9, pWidth + pPred + pCnt, 0⟩, ⟨0x25, [2], 0, pWidth + pPred, 0⟩, ⟨0x26, [2], 0, pWidth + pPred, 0⟩,
  ⟨0x27, [2], 0, pWidth + pPred, 0⟩, ⟨0x28, [0, 1], 1, pWidth + pPred, 0⟩, ⟨0x29, [0, 1], 1, pWidth + pPred, 0⟩,
  ⟨0x2A, [0, 1], 1, pWidth + pPred, 0⟩, ⟨0x2B, [0, 1], 1, pWidth + pPred, 0⟩, ⟨0x2C, [0, 1], 1, pWidth + pPred, 0⟩,
  ⟨0x2D, [0, 1], 9, pWidth + pPred, 0⟩, ⟨0x2E, [0, 1], 9, pWidth + pPred, 0⟩,
  ⟨0x30, [0, 1], 9, pWidth + pPred, 0⟩, ⟨0x31, [0, 1], 9, pWidth + pPred, 0⟩, ⟨0x32, [0, 1], 9, pWidth + pPred, 0⟩,
  ⟨0x33, [0, 1], 9, pWidth + pPred, 0⟩, ⟨0x34, [2], 0, pWidth + pPred, 0⟩, ⟨0x35, [2], 0, pWidth + pPred, 0⟩,
  ⟨0x36, [2], 0, pWidth + pPred, 0⟩]

def opRows3 : List OpRow := [
  ⟨0x40, [0], 0, pW32 + pPred + pCnt, 2⟩, ⟨0x41, [0], 0, pW32 + pPred + pCnt, 2⟩, ⟨0x42, [0], 0, pW32 + pPred + pCnt, 2⟩,
  ⟨0x43, [0], 0, pWidth + pPred, 1⟩, ⟨0x50, [0], 0, pRnd + pPred, 0⟩, ⟨0x51, [0], 0, pRnd + pPred, 0⟩,
  ⟨0x52, [0], 0, pRnd + pPred, 0⟩, ⟨0x53, [0], 0, pRnd + pPred, 0⟩, ⟨0x54, [0], 0, pRnd + pPred, 0⟩,
  ⟨0x55, [0], 0, pRnd + pPred, 0⟩, ⟨0x56, [0], 0, pPred, 0⟩, ⟨0x57, [0], 0, pPred, 0⟩, ⟨0x58, [0], 0, pPred, 0⟩,
  ⟨0x59, [1], 1, pRnd + pPred, 0⟩, ⟨0x60, [3], 4, pPred, 1⟩, ⟨0x61, [3], 4, 0, 0⟩, ⟨0x62, [3], 4, 0, 0⟩,
  ⟨0x63, [7], 0, pPred, 0⟩, ⟨0x64, [3], 4, pPred, 0⟩, ⟨0x65, [3], 1, pPred, 1⟩, ⟨0x66, [3], 1, 0, 1⟩,
  ⟨0x67, [7], 0, 0, 1⟩, ⟨0x70, [3], 1, 0, 1⟩, ⟨0x71, [7], 0, 0, 1⟩, ⟨0x72, [1], 1, 0, 0⟩, ⟨0x73, [1], 1, 0, 1⟩,
  ⟨0x74, [1], 1, 0, 0⟩, ⟨0x75, [1], 1, 0, 1⟩]

/-- The two-byte opcodes (R131, R517). -/
def opRows4 : List OpRow :=
  ([0x00, 0x01, 0x02, 0x03, 0x04, 0x05, 0x06, 0x07, 0x08, 0x09, 0x0A, 0x0B, 0x0C, 0x0D, 0x0E, 0x10, 0x11, 0x20, 0x21, 0x22,
    0x23, 0x24, 0x25].map fun b => ⟨0xF000 + b, [6], 1, pUnit, 0⟩) ++
  [⟨0xF100, [7], 0, pUnit, 2⟩, ⟨0xF101, [6], 1, pUnit, 2⟩, ⟨0xF102, [6], 1, pUnit, 2⟩, ⟨0xF103, [6], 0, pUnit, 2⟩,
   ⟨0xF104, [6], 1, pUnit, 2⟩] ++
  ((List.range 8).map fun b => ⟨0xF200 + b, [6], 1, pUnit, 0⟩) ++
  [⟨0xF300, [7], 0, pPred + pWaive, 1⟩, ⟨0xF301, [7], 0, pPred + pWaive, 1⟩, ⟨0xF302, [4], 0, pPred + pWaive, 0⟩,
   ⟨0xF303, [4], 0, pPred + pWaive, 0⟩]

/-- The row of an opcode. -/
def opRow (op : Nat) : Option OpRow :=
  (opRows1.find? (fun r => r.op = op)).orElse fun _ => (opRows2.find? (fun r => r.op = op)).orElse fun _ =>
    (opRows3.find? (fun r => r.op = op)).orElse fun _ => opRows4.find? (fun r => r.op = op)

/-- A decoded instruction: its length, opcode, form, rd, the two operand bytes, the displacement and the immediate as
written, the operation width, and the argument bytes of its prefixes; `dup` says a prefix kind stood twice. -/
structure Enc where
  len : Nat
  op : Nat
  form : Nat
  rd : Nat
  a : Nat
  b : Nat
  disp : Nat
  imm : Nat
  width : Nat
  pred : Option Nat
  cnt : Option Nat
  cntr : Option Nat
  lmask : Option Nat
  rnd : Option Nat
  atom : Bool
  waive : Bool
  dup : Bool
deriving DecidableEq, Repr

/-- An instruction with no prefixes and nothing in it yet. -/
def Enc.start : Enc :=
  { len := 0, op := 0, form := 0, rd := 0, a := 0, b := 0, disp := 0, imm := 0, width := 64, pred := none, cnt := none, cntr := none
    lmask := none, rnd := none, atom := false, waive := false, dup := false }

/-- Reads prefixes (R126, R127): the instruction so far and the bytes after them, or none for a Rsvd prefix byte or for
bytes that run out. -/
def readPrefixes : Nat → Enc → List Byte → Option (Enc × List Byte)
  | 0, _, _ => none
  | _, _, [] => none
  | fuel + 1, e, b :: rest =>
    let c := b.toNat
    if c < 0xE0 || 0xF0 ≤ c then some (e, b :: rest)
    else
      let arg := leAt rest 0 1
      let rest1 := rest.drop 1
      let e1 := { e with len := e.len + 1 }
      let e2 := { e with len := e.len + 2 }
      if c ≤ 0xE2 then readPrefixes fuel { e1 with dup := e.dup || e.width ≠ 64, width := 8 * 2 ^ (c - 0xE0) } rest
      else if c = 0xE3 then readPrefixes fuel { e2 with dup := e.dup || e.pred.isSome, pred := some arg } rest1
      else if c = 0xE4 then readPrefixes fuel { e2 with dup := e.dup || e.cnt.isSome || e.cntr.isSome, cnt := some arg } rest1
      else if c = 0xE5 then readPrefixes fuel { e2 with dup := e.dup || e.cnt.isSome || e.cntr.isSome, cntr := some arg } rest1
      else if c = 0xE6 then readPrefixes fuel { e2 with dup := e.dup || e.lmask.isSome, lmask := some arg } rest1
      else if c = 0xE7 then readPrefixes fuel { e1 with dup := e.dup || e.atom, atom := true } rest
      else if c = 0xE8 then readPrefixes fuel { e1 with dup := e.dup || e.waive, waive := true } rest
      else if c = 0xE9 then readPrefixes fuel { e2 with dup := e.dup || e.rnd.isSome, rnd := some arg } rest1
      else none

/-- Operand bytes of a form (R128). -/
def formBytes (f : Nat) : Nat := match f with
  | 0 => 2 | 1 => 1 | 2 => 1 | 4 => 1 | 5 => 2 | 6 => 2 | _ => 0

/-- Reads one instruction from the bytes at pc (R125): none where the opcode, escape, second byte or prefix is
undefined, where it would be longer than 16 bytes, or where the bytes run out. -/
def decode (bs : List Byte) : Option Enc :=
  match readPrefixes 16 Enc.start bs with
  | none => none
  | some (e, rest) =>
    let c := leAt rest 0 1
    let esc := 0xF0 ≤ c
    let op := if esc then c * 256 + leAt rest 1 1 else c
    let k := if esc then 2 else 1
    match opRow op with
    | none => none
    | some row =>
      let m := leAt rest k 1
      let form := m / 32
      let ob := formBytes form
      let db := if form = 4 || form = 5 then 4 else 0
      let w := if row.imm = 9 then e.width / 8 else row.imm
      let ib := if form = 0 || form = 2 || form = 7 then 0 else w
      let len := e.len + k + 1 + ob + db + ib
      if 16 < len || bs.length < len then none
      else some { e with
        len := len, op := op, form := form, rd := m % 32
        a := if 1 ≤ ob then leAt rest (k + 1) 1 else 0
        b := if 2 ≤ ob then leAt rest (k + 2) 1 else 0
        disp := leAt rest (k + 1 + ob) db
        imm := leAt rest (k + 1 + ob + db) ib }

/-- The classes of the prefixes an instruction carries; W8 and W16 count as a width, W32 as either class. -/
def Enc.preMask (e : Enc) : Nat :=
  (if e.width = 64 then 0 else if e.width = 32 then pW32 else pWidth) + (if e.pred.isSome then pPred else 0) +
  (if e.cnt.isSome || e.cntr.isSome then pCnt else 0) + (if e.lmask.isSome then pLmask else 0) +
  (if e.atom then pAtom else 0) + (if e.waive then pWaive else 0) + (if e.rnd.isSome then pRnd else 0)

/-- Whether the special register number n is listed for a sequencer (R138, R436). -/
def specialListed (core : Bool) (n : Nat) : Bool :=
  n ≤ 9 || (0x10 ≤ n && n ≤ 0x17) || (0x20 ≤ n && n ≤ 0x28) || (0x40 ≤ n && n ≤ 0x4F) ||
  (0x80 ≤ n && (!core || n ≤ 0x88 || (0x90 ≤ n && n ≤ 0xAF)))

/-- Whether a MOVS to special register n is ILLEGAL because it is RO; in a cell 0x80 and above are PRIV instead (R145). -/
def specialRO (core : Bool) (n : Nat) : Bool :=
  [0x01, 0x03, 0x22, 0x23, 0x27, 0x28].contains n || (core && [0x80, 0x84, 0x85, 0x88].contains n)

/-- The values R518 lets a vector or special-function immediate take. -/
def unitImmOk (op imm : Nat) : Bool :=
  let lo := imm % 16
  let hi := imm / 16
  let vec := (1 ≤ lo && lo ≤ 5) || (9 ≤ lo && lo ≤ 0xC)
  if op ≤ 0xF00B || op = 0xF010 || op = 0xF011 then vec && hi = 0
  else if op = 0xF00C || op = 0xF00D then 9 ≤ lo && lo ≤ 0xC && hi = 0
  else if op = 0xF00E then 1 ≤ lo && lo ≤ 0xC && 1 ≤ hi && hi ≤ 0xC
  else if op ≤ 0xF023 then 1 ≤ lo && lo ≤ 3 && hi = 0
  else if op ≤ 0xF025 then 1 ≤ lo && lo ≤ 3 && hi ≤ 5
  else 1 ≤ lo && lo ≤ 5 && 1 ≤ hi && hi ≤ 5

/-- Whether a tensor step may pair formats a and b (R136). -/
def tensorPairOk (a b : Nat) : Bool :=
  let narrow := fun x => x = 4 || x = 5 || x = 8
  (narrow a && narrow b) || (a = 9 && b = 9) || (a = 2 && b = 2) || (a = 3 && b = 3)

/-- The lane group of an element code in bytes and its lanes (R134). -/
def laneGroup (c : Nat) : Nat := if c = 6 || c = 7 then 96 else if c = 8 then 64 else 128
def lanesOf (c : Nat) : Nat := match c with
  | 1 => 32 | 2 => 64 | 3 => 64 | 0xA => 64 | 0xB => 32 | 0xC => 16 | _ => 128

/-- Whether a unit opcode leaves src2 unused. -/
def src2Unused (op : Nat) : Bool :=
  [0xF006, 0xF007, 0xF00E, 0xF010, 0xF011, 0xF020, 0xF021, 0xF022, 0xF023, 0xF103, 0xF104].contains op || 0xF200 ≤ op

/-- The step 1 conditions of R141 that depend on the encoding alone: true when none is broken. `core` says the
sequencer is a control core (R145), `ti` is CS.TI (TRET, R142). -/
def Enc.legal (e : Enc) (core ti : Bool) : Bool :=
  match opRow e.op with
  | none => false
  | some row =>
    let allowed := if row.pre &&& pWidth ≠ 0 then row.pre ||| pW32 else row.pre
    let fitsPre := e.preMask &&& allowed = e.preMask && !e.dup
    let args := (match e.pred with | some x => x < 64 | none => true) && (match e.cntr with | some x => x < 32 | none => true) &&
      (match e.lmask with | some x => x < 8 | none => true) && (match e.rnd with | some x => x < 8 | none => true)
    let rdOk := match row.rd with | 0 => true | 1 => e.rd = 0 | _ => e.rd ≤ 3
    let operands :=
      if e.form = 5 then e.a < 32 && e.b < 128
      else if e.form = 6 then !bit e.a 5 && fld e.b 5 2 = 0 && (!src2Unused e.op || e.b = 0) &&
        (e.op < 0xF100 || 0xF200 ≤ e.op || (fld e.a 5 3 = 0 && fld e.b 5 3 = 0))
      else e.a < 32 && e.b < 32
    let vec := 0xF000 ≤ e.op && e.op < 0xF100
    let byteVec := if lanesOf (e.imm % 16) = 128 then e.imm % 16 else 8
    let aFmt := if e.op = 0xF00B then byteVec else if 0xF022 ≤ e.op && e.op ≠ 0xF024 then 8 else e.imm % 16
    let dFmt := if 0xF008 ≤ e.op && e.op ≤ 0xF00A then byteVec else if e.op = 0xF00E then e.imm / 16 else if [0xF020, 0xF021, 0xF024].contains e.op then 8 else e.imm % 16
    let paired := !vec || ((!bit e.a 7 || laneGroup aFmt = 128) && (!bit e.a 6 || laneGroup dFmt = 128) && (!bit e.b 7 || e.op < 0xF020))
    let unit := 0xF000 ≤ e.op && e.op < 0xF300
    let onCore := !core || !(unit || [0x12, 0x13, 0x67, 0x70, 0x71, 0x72, 0x73, 0x74, 0x75].contains e.op)
    let imm :=
      if e.op = 0x06 then e.imm < 16
      else if e.op = 0x09 then 1 ≤ e.imm && e.imm ≤ 10
      else if e.op = 0x07 then specialListed core e.imm && !specialRO core e.imm
      else if e.op = 0x08 then specialListed core e.imm
      else if e.op = 0x12 || e.op = 0x13 then
        e.imm < 64 && 1 ≤ e.imm % 16 && e.imm % 16 ≤ 10 && (e.imm / 16 = 3 || [1, 2, 10].contains (e.imm % 16))
      else if e.op = 0x59 then [1, 2, 3].contains e.imm
      else if e.op = 0x66 then e.imm ≤ 1 && ti
      else if e.op = 0x70 then e.imm ≤ 1
      else if 0x72 ≤ e.op && e.op ≤ 0x75 then e.imm < 32
      else if e.op = 0xF101 || e.op = 0xF102 then tensorPairOk (e.imm % 16) (e.imm / 16)
      else if e.op = 0xF104 then [1, 2, 3, 4, 5, 6, 7, 8, 9, 0xA, 0xB, 0xC].contains e.imm
      else if (0xF000 ≤ e.op && e.op < 0xF100) || (0xF200 ≤ e.op && e.op < 0xF300) then unitImmOk e.op e.imm
      else true
    let atomic := 0x14 ≤ e.op && e.op ≤ 0x16
    row.forms.contains e.form && fitsPre && args && rdOk && operands && paired && onCore && imm &&
    (!atomic || e.atom) && (!(e.op = 0x16) || e.rd % 2 = 0) &&
    (!(e.op = 0xF102) || (e.a % 32 ≠ 31 && e.b % 32 ≠ 31))

/-- Whether an instruction needs kernel mode (R145, R436): step 2. RETAG without WAIVE is PRIV even there. -/
def Enc.privileged (e : Enc) : Bool :=
  e.waive || 0xF300 ≤ e.op || ((e.op = 0x07 || e.op = 0x08) && 0x80 ≤ e.imm) || e.op = 0x09

/-- The repeat count of a CNT prefix. -/
def Enc.count (e : Enc) : Option Nat := e.cnt.map (fun c => c + 1)

/-- The signed displacement of a memory form, and of a branch's immediate. -/
def Enc.dispInt (e : Enc) : Int := signed 32 e.disp

end Sys2Proof.Machine
end

