-- ==== Sys2Proof/Machine/Operands.lean ====
section
/-! DEFINITION. Operand forms of the sequencer (R128, R129, R137): which registers an instruction names, the value of an
immediate operand, addresses, and the tval of a tag trap (R140). -/

namespace Sys2Proof.Machine

/-- A register by key: 0 to 31 g, 32 to 35 m, 36 and 37 d. -/
def Seq.reg (q : Seq) (n : Nat) : TW := Tbl.get q.r n TW.empty
def Seq.setReg (q : Seq) (n : Nat) (v : TW) : Seq := { q with r := Tbl.set q.r n v TW.empty }

/-- A lane mask of 128 bits; an unlisted mask is all ones (R117). -/
def Seq.mask (q : Seq) (n : Nat) : Nat := Tbl.get q.k n (2 ^ 128 - 1)
def Seq.setMask (q : Seq) (n v : Nat) : Seq := { q with k := Tbl.set q.k n v (2 ^ 128 - 1) }

/-- CS fields (R139). -/
def Seq.rm (q : Seq) : Nat := fld q.cs 0 3
def Seq.sat (q : Seq) : Bool := bit q.cs 3
def Seq.dzTrap (q : Seq) : Bool := bit q.cs 4
def Seq.ti (q : Seq) : Bool := bit q.cs 12
def Seq.kernel (q : Seq) : Bool := bit q.cs 13

/-- q with flags set (bits OV, DZ, NX, TG of `fl`; R133, R139). -/
def Seq.flag (q : Seq) (fl : Nat) : Seq := { q with cs := q.cs ||| (fl % 16) <<< 8 }

/-- The rounding mode in effect (R94, R126). -/
def Enc.mode (e : Enc) (q : Seq) : Nat := e.rnd.getD q.rm

/-- An integer immediate as a second operand: it takes the tag of rs1 where that is UINT or BOOL, and INT otherwise; the
spec states no tag for it (DEDUCED, log entry 20). -/
def immTW (t w imm : Nat) : TW :=
  if t = tgUint then ⟨tgUint, imm⟩ else if t = tgBool then ⟨tgBool, imm % 2⟩ else ⟨tgInt, extend tgInt w imm⟩

/-- The second source: a register, or the immediate of a register-immediate form. -/
def Enc.src2 (e : Enc) (q : Seq) : TW := if e.form = 1 then immTW (q.reg e.a).tag e.width e.imm else q.reg e.b

/-- The count of a shift: a register, or the immediate as a UINT. -/
def Enc.count2 (e : Enc) (q : Seq) : TW := if e.form = 1 then ⟨tgUint, e.imm⟩ else q.reg e.b

/-- Whether rd is read as a source (R119, R128). -/
def Enc.readsRd (e : Enc) : Bool :=
  [0x07, 0x11, 0x13, 0x14, 0x15, 0x16, 0x53, 0x61, 0x62, 0x63, 0xF303].contains e.op || (0xF000 ≤ e.op && e.op < 0xF100) ||
  (0xF200 ≤ e.op && e.op < 0xF300)

/-- The g registers an instruction reads. -/
def Enc.reads (e : Enc) : List Nat :=
  (match e.form with
    | 0 => [e.a, e.b] | 1 => [e.a] | 2 => [e.a] | 4 => [e.a] | 5 => [e.a, e.b % 32] | 6 => [e.a % 32, e.b % 32] | _ => []) ++
  (if e.readsRd then [e.rd] else []) ++ (if e.op = 0x16 then [e.rd + 1] else []) ++
  (if e.op = 0xF102 then [e.a % 32 + 1, e.b % 32 + 1] else []) ++
  (match e.pred with | some p => [p % 32] | none => []) ++ (match e.cntr with | some c => [c % 32] | none => [])

/-- The tval of a tag trap at operand position 1 to 3 (R140): the tags of the operands read as sources; `t3` is the third
one's. An immediate and an operand field that the opcode leaves unused are no registers and show 0. -/
def Enc.tagTval (e : Enc) (q : Seq) (t3 pos : Nat) : Nat :=
  let t1 := match e.form with | 3 => 0 | 7 => 0 | 6 => (q.reg (e.a % 32)).tag | _ => (q.reg e.a).tag
  let t2 := match e.form with | 0 => (q.reg e.b).tag | 5 => (q.reg (e.b % 32)).tag | 6 => if src2Unused e.op then 0 else (q.reg (e.b % 32)).tag | _ => 0
  t1 + t2 * 16 + t3 * 256 + pos * 4096

/-- The tval of a tag trap at a position 4 to 8, with the one tag that fails. -/
def tagTval1 (t pos : Nat) : Nat := t + pos * 4096

/-- How many times a scalar instruction runs (R126). -/
def Enc.reps (e : Enc) (q : Seq) : Nat := match e.cnt, e.cntr with
  | some c, _ => c + 1
  | none, some r => (q.reg (r % 32)).val
  | none, none => 1

/-- The element or step count's basis: the prefix, or none for vl (R126, R135). -/
def Enc.countOf (e : Enc) (q : Seq) : Option Nat := match e.cnt, e.cntr with
  | none, none => none
  | _, _ => some (e.reps q)

/-- Whether the base and index of a memory form have tags the class accepts: the failing position, if any. -/
def Enc.memTags (e : Enc) (q : Seq) (baseOk : Nat → Bool) : Option Nat :=
  if !baseOk (q.reg e.a).tag then some 1
  else if e.form = 5 && !isInt (q.reg (e.b % 32)).tag then some 2
  else none

/-- Index × scale + displacement, as an integer modulo 2^64. -/
def Enc.memOffset (e : Enc) (q : Seq) : Int :=
  (if e.form = 5 then ((q.reg (e.b % 32)).val : Int) * ((2 ^ (e.b / 32 % 4) : Nat) : Int) else 0) + e.dispInt

/-- The store address, modulo 2^64; also the DPA of LDD and STD. -/
def Enc.storeAddr (e : Enc) (q : Seq) : Nat := wrapInt 64 (((q.reg e.a).val : Int) + e.memOffset q)

/-- The pool address: the grant of the base and the offset modulo 2^60. -/
def Enc.poolAddr (e : Enc) (q : Seq) : Nat :=
  let b := (q.reg e.a).val
  b / 2 ^ 60 * 2 ^ 60 + wrapInt 60 (((b % 2 ^ 60 : Nat) : Int) + e.memOffset q)

/-- Whether a control core's region lets the running component make an access (R438): perm 1 read, 2 write, 3 execute;
space 0 the local memory, 1 the DPA space. -/
def mpuAllows (m comp space a n perm : Nat) : Bool :=
  let l := fld m 10 6
  bit m 0 && bit m perm && (fld m 4 6 = 0 || fld m 4 6 = comp) && 12 ≤ l && l ≤ 47 && fld m 16 1 = space &&
  (let base := fld m 17 36 * 4096
   decide (base % 2 ^ l = 0) && decide (base ≤ a) && decide (a + n ≤ base + 2 ^ l))

/-- Whether a core in its present mode may make an access. -/
def Seq.mpuOk (q : Seq) (space a n perm : Nat) : Bool :=
  q.kernel || (List.range 32).any (fun i => mpuAllows (Tbl.get q.mpu i 0) q.comp space a n perm)

end Sys2Proof.Machine
end

