-- ==== Sys2Proof/Machine/SeqOps.lean ====
section
/-! DEFINITION. The sequencer's shared operations: fetch (R124, R125), the landing of multiplier and divider results
(R122, R123), issue in the order of R141, traps (R140 to R143, R437, R439), and machine-checks (R87 to R89, R144). -/

namespace Sys2Proof.Machine

/-! ## Issue cycles and landing -/

/-- s after n more issue cycles of sequencer k (R121). -/
def State.cycle (s : State) (k n : Nat) : State :=
  let s := s.updSeq k (fun q => { q with icount := q.icount + n })
  if isCore k then s else s.cnt (R.LAT_CELL_CYCLES k) n

/-- q after one result lands (R123, R133): a MAC adds to what its register holds now. -/
def Seq.land1 (q : Seq) (f : Flight) : Seq :=
  if f.mac then
    let r := narrow f.tag f.width (tagVal f.tag f.width (q.reg f.reg).val + f.val)
    (q.setReg f.reg r.1).flag r.2
  else (q.setReg f.reg ⟨f.tag, extend f.tag f.width (wrapInt f.width f.val)⟩).flag (if f.ov then fOV else 0)

/-- q after every result due by cycle n has landed, in due order; of two due in one register in one cycle only the
later-issued is written, the other setting its flags alone (DEDUCED, log entry 21). -/
def Seq.landTo : Nat → Nat → Seq → Seq
  | 0, _, q => q
  | fuel + 1, n, q =>
    match (q.flight.map (fun f => f.due)).min? with
    | none => q
    | some d =>
      if n < d then q
      else
        let now := q.flight.filter (fun f => f.due = d)
        let q := { q with flight := q.flight.filter (fun f => f.due ≠ d) }
        let rec go : List Flight → Seq → Seq
          | [], q => q
          | f :: rest, q => go rest (if rest.any (fun g => g.reg = f.reg) then q.flag (if f.ov then fOV else 0) else q.land1 f)
        Seq.landTo fuel n (go now q)

/-- s with every result due by the present issue cycle landed. -/
def State.land (s : State) (k : Nat) : State := s.updSeq k (fun q => q.landTo (q.flight.length + 1) q.icount)

/-- s with the multiplier and divider advanced until no result is in flight (step 1 of R142). -/
def State.drain (s : State) (k : Nat) : State :=
  let q := s.seq k
  let last := q.flight.foldl (fun m f => max m f.due) q.icount
  (s.cycle k (last - q.icount)).land k

/-! ## Fetch -/

/-- What the sequencer finds at pc. -/
inductive Fetched
  | bad (addr : Nat)
  | undef (bytes : List Byte)
  | instr (e : Enc) (bytes : List Byte)
deriving Repr

/-- Up to n bytes of a sequencer's memory from offset a, short of the first uncorrectable word and of the end. -/
def State.codeBytes (s : State) (k a n : Nat) : List Byte :=
  let m := min n (memSize k - a)
  let ok := (List.range m).takeWhile (fun i => !s.mem.bad.contains (memBase k + (a + i) / 8 * 8))
  Mem.bytes s.mem.bytes (memBase k + a) ok.length

/-- Whether bytes that begin an instruction can still become one, whatever follows them: they may end in an escape or at an opcode, in a
prefix's argument, or behind the ModOp byte. -/
def mayDecode (bs : List Byte) : Bool :=
  [[0x00, 0xE0], [0xE0], [0x00, 0x00, 0xE0]].any (fun (p : List Byte) => (decode (bs ++ p ++ zeroBytes 16)).isSome)

/-- The instruction at pc: the bytes fetched ahead, then the store's (R124, R125). Where an uncorrectable word cuts it short, ILLEGAL
comes first if the bytes before it already make no instruction (R141). -/
def State.fetchAt (s : State) (k : Nat) (q : Seq) : Fetched :=
  let have' := q.pre.take 16
  let a := q.pc + have'.length
  let bs := have' ++ s.codeBytes k a (16 - have'.length)
  match decode bs with
  | some e => .instr e bs
  | none => if bs.length < 16 && q.pc + bs.length < memSize k && mayDecode bs then .bad ((q.pc + bs.length) / 8 * 8) else .undef bs

/-- s after n bytes of code from offset a of sequencer k were read: a word with a single-bit error is corrected, counted and rewritten
(R68). -/
def State.codeRead (s : State) (k a n : Nat) : State :=
  let lo := memBase k + a
  (s.mem.weak.filter (fun w => decide (n ≠ 0) && decide (w % 8 = 0) && decide (lo < w + 8) && decide (w < lo + n) && !s.mem.bad.contains w)).foldl (fun s w => (s.readWord w).1) s

/-- s after an instruction of len bytes of sequencer k has left the buffer, the fetch running ahead to a distance that
the spec leaves open, at most 32 bytes (log entry 22). -/
def State.prefetch (s : State) (k len : Nat) : State :=
  let (v, s) := s.fresh 6
  let q := s.seq k
  let p := q.pre.drop len
  let got := s.codeBytes k (q.pc + p.length) (v % 33 - p.length)
  (s.codeRead k (q.pc + p.length) got.length).updSeq k (fun q => { q with pre := p ++ got })

/-! ## Machine-checks (R87 to R89) and core faults -/

def mcStoreUe : Nat := 1
def mcLatticeUe : Nat := 2
def mcMemUe : Nat := 3
def mcProtection : Nat := 4
def mcArith : Nat := 5
def mcCrossing : Nat := 6

/-- A cell takes a machine-check (R89); while it is FAULTED only `multi` is set. The control cluster is signalled by the
interrupt of R437, on CC0 (log entry 23). A wave that the cell's pipeline runs stops (R160). -/
def State.machineCheck (s : State) (c cls addr : Nat) : State :=
  if s.cellState c = csFaulted then s.wf (R.LAT_CELL_MCA c) 9 1 1
  else
    let s := ((s.wr (R.LAT_CELL_MCA c) (cls + 2 ^ 8)).wr (R.LAT_CELL_MCA_PC c) (s.seq c).pc).wr (R.LAT_CELL_MCA_ADDR c) (addr % 2 ^ 64)
    let s := (s.updSeq c (fun q => { q with stall := none, haltAt := false })).setCellState c csFaulted
    let s := s.pendIrq 0 0x15 c
    match (s.seq c).pipe.bind (fun p => (Tbl.find s.pipes.tab p.1).map (fun x => (p.1, x))) with
    | some (pn, p) => if p.wave.isSome then s.stopPipe pn stMachineCheck c cls else s
    | none => s

/-- A control core enters kernel mode (R437): iepc, icause and ival are written, CS.K set and pc at ivec. -/
def State.coreEnter (s : State) (k cause val : Nat) : State :=
  s.updSeq k (fun q => { q with iepc := q.pc + b2n q.kernel * 2 ^ 63, icause := cause, ival := val % 2 ^ 64, cs := setBit q.cs 13 true
                                pc := q.ivec % 2 ^ 21, stall := none, pre := [] })

/-- A trap or cause 0x14 on a control core: in kernel mode the core crashes; in component mode the component is counted,
and the core enters kernel mode unless that was its third fault within 60 s (R437, R439). -/
def State.coreFault (s : State) (k cause val : Nat) : State :=
  let s := s.drain k
  let q := s.seq k
  if q.kernel then s.coreCrash (k - 1536) cause
  else match s.compFault (k - 1536) q.comp with
    | (s, true) => s.coreCrash (k - 1536) cause
    | (s, false) => (s.coreEnter k cause val).cycle k 4

/-! ## Traps (R140 to R143) -/

def cTag : Nat := 1
def cDz : Nat := 2
def cIllegal : Nat := 3
def cPriv : Nat := 4
def cAlign : Nat := 5
def cBrk : Nat := 6
def cStreamTag : Nat := 7

/-- s with a cell's terminal status noted in the work it received through feuilles (R29). -/
def State.feuDone (s : State) (c status : Nat) : State :=
  { s with feuWork := s.feuWork.map (fun f => { f with parts := f.parts.map (fun p => if p.1 = c && p.2.2.isNone then (p.1, p.2.1, some status) else p) }) }

/-- A trap of sequencer k (R142, R143). -/
def State.takeTrap (s : State) (k cause tval len : Nat) : State :=
  if isCore k then (if cause = cTag then s.updSeq k (fun q => q.flag fTG) else s).coreFault k cause tval
  else
    let s := s.drain k
    let q := s.seq k
    let s := if cause = cTag || cause = cStreamTag then s.updSeq k (fun q => q.flag fTG) else s
    if q.ti || q.tvec = 0 then
      let s := ((s.updSeq k (fun q => { q with ended := true })).setCellState k csLoaded).feuDone k stUnhandledTrap
      match q.pipe with
      | some (pn, _) => s.stopPipe pn stUnhandledTrap k (cause + q.pc * 256)
      | none => s
    else (s.updSeq k (fun q => { q with epc := q.pc, cause := cause + (len - 1) % 16 * 256, tval := tval % 2 ^ 64, cs := setBit q.cs 12 true
                                        pc := q.tvec % 2 ^ 21, pre := [] })).cycle k 4

/-- ILLEGAL for bytes that decode to no instruction (R125, R130): their length, which cause holds, is a free value (log entry
2). -/
def State.undefTrap (s : State) (k : Nat) (bs : List Byte) : State :=
  let (v, s) := s.fresh 4
  s.takeTrap k cIllegal (leNat (bs.take 8)) (v + 1)

/-! ## Issue (R141) -/

/-- What an instruction that passed steps 1 to 5 does. -/
inductive Did
  /-- it retires after so many issue cycles, setting flags -/
  | done (s : State) (cycles flags : Nat)
  /-- it retires after so many issue cycles and continues at an offset -/
  | goto (s : State) (pc cycles : Nat)
  /-- it traps -/
  | trap (s : State) (cause tval : Nat)
  /-- an interlock or a wait holds it: nothing has happened -/
  | wait (s : State)
  /-- it waits in the middle of its access -/
  | park (s : State) (st : Stall)
  /-- operands in neighbours' stores wait for these request slots first, by window (R75) -/
  | slots (s : State) (windows : List Nat)
  /-- the access ends in a machine-check of a class, at an address -/
  | mc (s : State) (cls addr : Nat)
  /-- the cell's part of the wave is over -/
  | ended (s : State)

/-- Whether sequencer k issues: its cell runs in an array that is awake, or its core runs; nothing stalls it; no deferred
trap must be taken first. `halted` is the single step of a HALTED cell. -/
def State.canIssue (s : State) (k : Nat) (halted : Bool) : Bool :=
  let q := s.seq k
  q.stall.isNone && q.deferred.isEmpty && !q.ended &&
  (if isCore k then decide (k < 1552) && s.coreRuns (k - 1536)
   else s.hubAwake (k / 128) && decide (s.cellState k = if halted then csHalted else csRunning))

/-- The sequencer goes on behind an instruction of len bytes. -/
def State.retire (s : State) (k len cycles flags : Nat) : State :=
  ((s.updSeq k (fun q => { (q.flag flags) with pc := (q.pc + len) % 2 ^ 21 })).cycle k cycles).prefetch k len

/-- What becomes of the state after an instruction. -/
def Did.state (k len : Nat) : Did → State
  | .done s n fl => s.retire k len n fl
  | .goto s pc n => (s.updSeq k (fun q => { q with pc := pc % 2 ^ 21, pre := [] })).cycle k n
  | .trap s c v => s.takeTrap k c v len
  | .wait s => s.updSeq k (fun q => { q with waits := true })
  | .slots s ws => s.updSeq k (fun q => { q with stall := some (.slots ws), stallLen := len })
  | .park s st => (s.updSeq k (fun q => { q with stall := some st, stallLen := len })).cycle k 1
  | .mc s cls a => if isCore k then (if cls = mcProtection then s.coreFault k 0x14 a else s.coreCrash (k - 1536) 0xFE) else s.machineCheck k cls a
  | .ended s => s

/-- Whether a residue code covers the instruction's datapath (R108): the sequencer's multiplier and divider; integer add, subtract and
compare in the sequencer and the lanes; floating add, multiply and multiply-add in the lanes; the tensor unit's steps; conversions and
quantization; the special-function unit. Sign operations, comparisons and selections of floating lanes, scalar floating point, TZERO and
TLOAD pass through none of them. -/
def residueCovered (e : Enc) : Bool :=
  let int := 9 ≤ e.imm % 16
  if e.op < 0xF000 then [0x20, 0x21, 0x26, 0x27, 0x2D, 0x2E, 0x30, 0x31, 0x32, 0x33, 0x40, 0x41, 0x42, 0x43, 0x59].contains e.op
  else if e.op ≤ 0xF003 then true
  else if e.op ≤ 0xF00A || e.op = 0xF011 then int
  else e.op ≠ 0xF00B && e.op ≠ 0xF100 && e.op ≠ 0xF103 && e.op < 0xF300

/-- Whether a fault of the hardware meets the instruction (R88, R144): `upset` 1 is a residue mismatch, 2 + n a parity
mismatch in register n; the address it is recorded under. -/
def Enc.upsetBy (e : Enc) (upset : Nat) : Option Nat :=
  if upset = 0 then none
  else if upset = 1 then (if residueCovered e then some 0 else none)
  else
    let n := upset - 2
    let special := e.op = 0x08 && 4 ≤ e.imm && e.imm ≤ 9 && n = 28 + e.imm
    if e.reads.contains n || special then some n else none

/-- The number of a register of a key, as its instructions name it: g0 to g31, m0 to m3, d0 and d1 (DEDUCED, log entry 132). -/
def regNumber (n : Nat) : Nat := if n < 32 then n else if n < 36 then n - 32 else n - 36

/-- The MAC of sequencer q, due by its present issue cycle, whose read of its m register meets a parity mismatch (R144). -/
def Seq.macUpset (q : Seq) (upset : Nat) : Option Flight :=
  if upset < 2 then none else q.flight.find? (fun f => f.mac && f.reg = upset - 2 && f.due ≤ q.icount)

/-- A MAC's landing that meets a parity mismatch writes nothing: the cell takes ARITH_CHECK at the MAC, a core crashes (R88, R144). -/
def State.macCheck (s : State) (k : Nat) (f : Flight) : State :=
  let s := s.updSeq k (fun q => { q with flight := q.flight.filter (fun g => g ≠ f) })
  if isCore k then s.coreCrash (k - 1536) 0xFE
  else if s.cellState k = csFaulted then s.machineCheck k mcArith (regNumber f.reg)
  else (s.machineCheck k mcArith (regNumber f.reg)).wr (R.LAT_CELL_MCA_PC k) f.pc

/-- Two machine-checks of one instruction: the class nearest the top of R87's table is recorded, and `multi` is set. -/
def State.machineCheck2 (s : State) (k cls addr reg : Nat) : State :=
  if cls = mcProtection then (s.machineCheck k cls addr).machineCheck k mcArith reg else (s.machineCheck k mcArith reg).machineCheck k cls addr

/-! ## WAIVE (R145) -/

/-- A Did with its state changed. -/
def Did.map (f : State → State) : Did → Did
  | .done s n fl => .done (f s) n fl
  | .goto s pc n => .goto (f s) pc n
  | .trap s c v => .trap (f s) c v
  | .wait s => .wait (f s)
  | .park s st => .park (f s) st
  | .slots s ws => .slots (f s) ws
  | .mc s c a => .mc (f s) c a
  | .ended s => .ended (f s)

/-- The operand position a tag trap names (R140). -/
def Did.tagPos : Did → Option Nat
  | .trap _ c v => if c = cTag then some (v / 4096 % 16) else none
  | _ => none

/-- The g register of an operand position. -/
def Enc.regAt (e : Enc) (q : Seq) (pos : Nat) : Option Nat :=
  if pos = 1 then some (e.a % 32)
  else if pos = 2 then some (e.b % 32)
  else if pos = 3 then some (if e.op = 0x16 && isInt (q.reg e.rd).tag then e.rd + 1 else e.rd)
  else if pos = 7 then some e.rd
  else none

/-- The tags R119 may require of an operand. -/
def waiveTagList : List Nat := [tgUint, tgInt, tgBool, tgF64, tgF32x2, tgBf16x4, tgF16x4, tgAddr, tgHandle]

/-- Sequencer k's registers as a waived instruction reads them: each operand whose tag fails gets one that R119 requires there; where
several would do the spec does not say which, and a free value decides (log entry 67). -/
def State.waiveTags (body : State → Nat → Seq → Enc → Did) (k : Nat) (e : Enc) : Nat → State → State
  | 0, s => s
  | fuel + 1, s =>
    let q := s.seq k
    match (body s k q e).tagPos with
    | none => s
    | some pos =>
      match e.regAt q pos with
      | none => s
      | some n =>
        let with' := fun (t : Nat) => s.updSeq k (fun q => q.setReg n ⟨t, (q.reg n).val⟩)
        let fits := waiveTagList.filter (fun t => let s' := with' t; (body s' k (s'.seq k) e).tagPos ≠ some pos)
        let v := (s.fresh 8).1
        match fits[v % fits.length]? with
        | none => s
        | some t => State.waiveTags body k e fuel { with' t with freeCtr := s.freeCtr + 1 }

/-- Whether rd is only a source of the instruction (R119): its tag stands as it was. -/
def Enc.rdOnlyRead (e : Enc) : Bool := [0x07, 0x11, 0x13, 0x61, 0x62, 0x63, 0xF303].contains e.op

/-- The body of an instruction under WAIVE: the tags its sources were read with do not stay. -/
def State.waived (s : State) (k : Nat) (e : Enc) (body : State → Nat → Seq → Enc → Did) : Did :=
  let q := s.seq k
  let s' := State.waiveTags body k e 4 s
  let back := (List.range 32).filter (fun n => ((s'.seq k).reg n).tag ≠ (q.reg n).tag && (n ≠ e.rd || e.rdOnlyRead))
  (body s' k (s'.seq k) e).map (fun t => t.updSeq k (fun r => back.foldl (fun r n => r.setReg n (q.reg n)) r))

/-- Runs a decoded instruction through R141. Step 8 is `body`; the machine-check of R144 comes there, before its effect. -/
def State.runIssued (s : State) (k upset : Nat) (e : Enc) (bs : List Byte) (body : State → Nat → Seq → Enc → Did) : State :=
  let q := s.seq k
  let first8 := leNat (bs.take 8)
  let ill := s.takeTrap k cIllegal first8 e.len
  if isCore k && !q.mpuOk 0 q.pc e.len 3 then s.coreFault k 0x14 q.pc
  else if !e.legal (isCore k) q.ti then ill
  else if e.privileged && !(q.kernel && (e.op ≠ 0x09 || e.waive)) then s.takeTrap k cPriv first8 e.len
  else
    let pt := match e.pred with | some p => (q.reg (p % 32)).tag | none => tgBool
    let ct := match e.cntr with | some c => (q.reg (c % 32)).tag | none => tgUint
    if pt ≠ tgBool && !e.waive then s.takeTrap k cTag (tagTval1 pt 4) e.len
    else if ct ≠ tgUint && !e.waive then s.takeTrap k cTag (tagTval1 ct 5) e.len
    else
      let no : Bool := match e.pred with | some p => (q.reg (p % 32)).val % 2 ≠ 1 - b2n (bit p 5) | none => false
      if no then s.retire k e.len 1 0
      else if (match e.cntr with | some c => (q.reg (c % 32)).val = 0 || 2 ^ 20 < (q.reg (c % 32)).val | none => false) then ill
      else
        let did := if e.waive then s.waived k e body else body s k q e
        match did, e.upsetBy upset with
        | .trap _ _ _, _ => did.state k e.len
        | .wait _, _ => did.state k e.len
        | .slots _ _, _ => did.state k e.len
        | .mc _ cls at', some a => if isCore k then s.coreCrash (k - 1536) 0xFE else s.machineCheck2 k cls at' (regNumber a)
        | _, some a => if isCore k then s.coreCrash (k - 1536) 0xFE else s.machineCheck k mcArith (regNumber a)
        | _, none => did.state k e.len

/-- s as sequencer k issues an instruction: its bytes are read, results that are due land, and it no longer waits. -/
def State.issuing (s : State) (k : Nat) (e : Enc) : State :=
  let q := s.seq k
  let s := if q.waits then s else s.codeRead k (q.pc + q.pre.length) (e.len - q.pre.length)
  (s.land k).updSeq k (fun q => { q with waits := false })

/-- Sequencer k issues a decoded instruction, unless the landing of a MAC meets a parity mismatch. -/
def State.runInstr (s : State) (k upset : Nat) (e : Enc) (bs : List Byte) (body : State → Nat → Seq → Enc → Did) : State :=
  match (s.seq k).macUpset upset with
  | some f => s.macCheck k f
  | none => (s.issuing k e).runIssued k upset e bs body

/-- The row of R130 or R131 an instruction command stands for: sequencer k issues the instruction at its pc where that is
the command's own; otherwise the command has no effect (log entry 4). -/
def State.issue (s : State) (k upset : Nat) (mine : Nat → Bool) (body : State → Nat → Seq → Enc → Did) : State :=
  if !s.canIssue k false then s
  else match s.fetchAt k (s.seq k) with
    | .instr e bs => if mine e.op then s.runInstr k upset e bs body else s
    | _ => s

/-- Writes a scalar result to rd. -/
def State.putRd (s : State) (k rd : Nat) (v : TW) : State := s.updSeq k (fun q => q.setReg rd v)

/-- A scalar instruction of one result: written to rd with its flags, or a tag trap. `t3` is rd's tag where it is read. -/
def aluDid (s : State) (k : Nat) (q : Seq) (e : Enc) (r : Alu) : Did :=
  match r with
  | .ok (v, fl) => .done (s.putRd k e.rd v) 1 fl
  | .error pos => .trap s cTag (e.tagTval q (if e.readsRd then (q.reg e.rd).tag else 0) pos)

/-- A scalar instruction that may repeat (R121, R126): each repetition reads its operands again, in its own issue cycle. -/
def repeatDid (k : Nat) (e : Enc) (one : State → Seq → Except Nat State) : Nat → State → Did
  | 0, s => .done s 1 0
  | n + 1, s =>
    let q := s.seq k
    match one s q with
    | .error pos => .trap s cTag (e.tagTval q 0 pos)
    | .ok s => if n = 0 then .done s 1 0 else repeatDid k e one n ((s.cycle k 1).land k)

/-- A repeatable instruction with one result in rd. -/
def aluRepeat (f : Enc → Seq → Alu) (s : State) (k : Nat) (q : Seq) (e : Enc) : Did :=
  repeatDid k e (fun s q => match f e q with
    | .ok (v, fl) => .ok (s.updSeq k (fun q => (q.setReg e.rd v).flag fl))
    | .error pos => .error pos) (e.reps q) s

end Sys2Proof.Machine
end

