-- ==== Sys2Proof/Machine/StreamOps.lean ====
section
/-! DEFINITION. DRAM streams and grants as shared operations (R80 to R84): the checks of a pool access, ring positions, the
interlock between a stream's ring and the sequencer, and accesses of the own store. -/

namespace Sys2Proof.Machine

/-! ## Grants (R84) -/

/-- The region and the region offset an ADDR payload reaches for n bytes with a permission (33 read, 34 write, 35 atomic),
or none: a protection error. -/
def State.grant (s : State) (c addr n perm : Nat) : Option (Region × Nat) :=
  let g := s.rd (R.LAT_CELL_GRANT c (addr / 2 ^ 60 % 16))
  let o := addr % 2 ^ 60
  if !bit g 32 || !bit g perm || fld g 134 58 * 64 < o + n then none
  else match Tbl.find s.mem.regions (fld g 0 16) with
    | some r =>
      let off := fld g 70 58 * 64 + o
      if r.gen = fld g 16 16 && off + n ≤ r.dataBytes then some (r, off) else none
    | none => none

/-- The pieces, by DPA, of bytes written at a region offset. -/
def Region.splitWrite (r : Region) (off : Nat) (bs : List Byte) : List (Nat × List Byte) :=
  (linePieces off bs.length).map (fun p => (r.dpa p.1, bsub bs (p.1 - off) p.2))

/-! ## Streams (R80) -/

/-- Fields of LAT_CELL_STRM. -/
def State.strmReg (s : State) (c j : Nat) : Nat := s.rd (R.LAT_CELL_STRM c j)
def strmWrites (r : Nat) : Bool := bit r 1
def strmType (r : Nat) : Nat := fld r 8 4

/-- The bytes of a stream's ring, from buf_base on. A buf_log2 above 5, and a base that is not a multiple of the size, break R80, which
states no effect for either: the model takes 2^(11 + buf_log2) bytes from the base as they stand (DESIGN CHOICE, log entry 134). -/
def strmBytes (r : Nat) : Nat := 2 ^ (11 + fld r 12 4)
def strmBuf (r : Nat) : Nat := fld r 32 21
def strmLines (r : Nat) : Nat := (fld r 128 32 + 1) * (fld r 192 32 + 1)

/-- Lines the ring holds. -/
def strmCap (r : Nat) : Nat := strmBytes r / 64

/-- The ADDR payload of a pattern's line (R80): base plus row and line strides, on the offset. -/
def strmAddr (r row col : Nat) : Nat :=
  let b := fld r 64 64
  b / 2 ^ 60 * 2 ^ 60 + wrapInt 60 (((b % 2 ^ 60 : Nat) : Int) + (row : Int) * signed 32 (fld r 224 32) + (col : Int) * signed 32 (fld r 160 32))

def Seq.stream (q : Seq) (j : Nat) : Strm := Tbl.get q.strm j Strm.idle
def Seq.setStream (q : Seq) (j : Nat) (x : Strm) : Seq := { q with strm := Tbl.put q.strm j x }

/-- The streams whose ring holds a store offset and that have been started. -/
def State.ringsAt (s : State) (c off : Nat) : List Nat :=
  [0, 1].filter (fun j =>
    let r := s.strmReg c j
    Tbl.has (s.seq c).strm j && strmBuf r ≤ off && off < strmBuf r + strmBytes r)

/-- The line, counted from the stream's start, that an access of a ring offset means: the next one at or after `from'` that
lies in that slot. -/
def ringLine (r from' off : Nat) : Nat :=
  let cap := strmCap r
  let slot := (off - strmBuf r) / 64
  from' + (slot + cap - from' % cap) % cap

/-- Whether an access of an own store word must wait for a stream (R81): a consumer for a line still to come, a producer
for a line still to be sent. The positions are the model's (log entry 24). -/
def State.ringWaits (s : State) (c off : Nat) (isWrite : Bool) : Bool :=
  (s.ringsAt c off).any (fun j =>
    let r := s.strmReg c j
    let x := (s.seq c).stream j
    if strmWrites r then isWrite && x.busy && x.issued + strmCap r ≤ ringLine r x.prod off
    else !isWrite && (let l := ringLine r x.cons off
                      decide (x.prod ≤ l) && decide (l < strmLines r) && (x.busy || decide (l < x.issued))))

/-- s with the ring positions moved by an access of an own store word: the last word of a line consumes or produces it. -/
def State.ringTouch (s : State) (c off : Nat) (isWrite : Bool) : State :=
  if off % 64 < 56 then s
  else (s.ringsAt c off).foldl (fun s j =>
    let r := s.strmReg c j
    s.updSeq c (fun q =>
      let x := q.stream j
      if strmWrites r then
        if isWrite && ringLine r x.prod off < strmLines r then q.setStream j { x with prod := ringLine r x.prod off + 1 } else q
      else if !isWrite && ringLine r x.cons off < x.prod then q.setStream j { x with cons := ringLine r x.cons off + 1 } else q)) s

/-- Word w of a stream's registers as it reads (LAT_CELL_STRM): busy, head, tail and pending are the stream's own. -/
def State.strmWord (s : State) (c j w : Nat) : Nat :=
  let r := s.strmReg c j
  let x := (s.seq c).stream j
  let v := fld r (64 * w) 64
  let cap := strmCap r
  if w = 0 then setBit v 2 x.busy
  else if w = 4 then x.cons % cap + x.prod % cap * 2 ^ 16 + s.cellPending c j % 2 ^ 16 * 2 ^ 32
  else v

/-- s with a pattern begun (R80, R138): a declared type outside 1 to 10 raises a deferred STREAM_TAG trap instead; a start
while the stream is busy has no effect (log entry 25). -/
def State.strmStart (s : State) (c j len : Nat) : State :=
  if strmType (s.strmReg c j) = 0 || 10 < strmType (s.strmReg c j) then
    s.updSeq c (fun q => { q with deferred := q.deferred ++ [(cStreamTag, j, len)] })
  else if ((s.seq c).stream j).busy then s
  else s.updSeq c (fun q => q.setStream j { Strm.idle with busy := true })

/-! ## Own-store words of the sequencer -/

/-- What an access of own words finds. -/
inductive WordsRes
  | wait
  | bad (off : Nat)
  | ok (s : State) (ws : List TW)

/-- Reads own words at offsets, in order. -/
def State.readOwn (s : State) (k : Nat) : List Nat → List TW → WordsRes
  | [], acc => .ok s acc
  | off :: rest, acc =>
    if !isCore k && s.ringWaits k off false then .wait
    else match s.wordAt (memBase k + off) with
      | (_, none) => .bad off
      | (s, some w) => (if isCore k then s else s.ringTouch k off false).readOwn k rest (acc ++ [w])

/-- Whether writes of own words must wait. -/
def State.writeWaits (s : State) (k : Nat) (offs : List Nat) : Bool := !isCore k && offs.any (fun o => s.ringWaits k o true)

/-- s with one own word written. -/
def State.putOwn (s : State) (k off : Nat) (w : TW) : State :=
  let s := s.putWord (memBase k + off) w
  if isCore k then s else s.ringTouch k off true

end Sys2Proof.Machine
end

