-- ==== Sys2Proof/Machine/Scalar.lean ====
section
/-! DEFINITION. Scalar instructions of the sequencer: moves, integers, the multiplier and divider, floating point, and
control flow (R119 to R123, R130, R132, R133, R137, R142, R519). Each command takes the sequencer (0 to 1,535 a cell,
1,536 + k a control core) and `upset`: 0, or a fault of the hardware that meets the instruction (R88, R144). -/

namespace Sys2Proof.Machine

/-! ## Moves -/

def opNop (s : State) (_ : Nat) (q : Seq) (e : Enc) : Did := .done s (e.reps q) 0
def opMov (s : State) (k : Nat) (q : Seq) (e : Enc) : Did := .done (s.putRd k e.rd (q.reg e.a)) 1 0
def opMovi (s : State) (k : Nat) (_ : Seq) (e : Enc) : Did := .done (s.putRd k e.rd ⟨tgInt, extend tgInt e.width e.imm⟩) 1 0
def opMoviu (s : State) (k : Nat) (_ : Seq) (e : Enc) : Did := .done (s.putRd k e.rd ⟨tgUint, e.imm⟩) 1 0
def opClr (s : State) (k : Nat) (_ : Seq) (e : Enc) : Did := .done (s.putRd k e.rd TW.empty) 1 0
def opCast (s : State) (k : Nat) (q : Seq) (e : Enc) : Did := aluDid s k q e (aluCast (q.reg e.a))
def opMkaddr (s : State) (k : Nat) (q : Seq) (e : Enc) : Did := aluDid s k q e (aluMkaddr (e.imm % 16) (q.reg e.a))
def opRetag (s : State) (k : Nat) (q : Seq) (e : Enc) : Did := .done (s.putRd k e.rd ⟨e.imm % 16, (q.reg e.a).val⟩) 1 0

/-- NOP (R130). -/
def execNop (k upset : Nat) (s : State) : Host.Outcome State Fault Refusal := .next (s.issue k upset (· = 0x00) opNop)
/-- MOV (R130). -/
def execMov (k upset : Nat) (s : State) : Host.Outcome State Fault Refusal := .next (s.issue k upset (· = 0x01) opMov)
/-- MOVI (R130). -/
def execMovi (k upset : Nat) (s : State) : Host.Outcome State Fault Refusal := .next (s.issue k upset (· = 0x02) opMovi)
/-- MOVIU (R130). -/
def execMoviu (k upset : Nat) (s : State) : Host.Outcome State Fault Refusal := .next (s.issue k upset (· = 0x03) opMoviu)
/-- CLR (R130). -/
def execClr (k upset : Nat) (s : State) : Host.Outcome State Fault Refusal := .next (s.issue k upset (· = 0x04) opClr)
/-- CAST (R130). -/
def execCast (k upset : Nat) (s : State) : Host.Outcome State Fault Refusal := .next (s.issue k upset (· = 0x05) opCast)
/-- MKADDR (R132). -/
def execMkaddr (k upset : Nat) (s : State) : Host.Outcome State Fault Refusal := .next (s.issue k upset (· = 0x06) opMkaddr)
/-- RETAG (R130, R145): PRIV without WAIVE or outside kernel mode. -/
def execRetag (k upset : Nat) (s : State) : Host.Outcome State Fault Refusal := .next (s.issue k upset (· = 0x09) opRetag)

/-! ## Integers (R132) -/

def opAdd := aluRepeat fun e q => aluAddSub false e.width (q.reg e.a) (e.src2 q)
def opSub := aluRepeat fun e q => aluAddSub true e.width (q.reg e.a) (e.src2 q)
def opAnd := aluRepeat fun e q => aluLogic (· &&& ·) e.width (q.reg e.a) (e.src2 q)
def opOr := aluRepeat fun e q => aluLogic (· ||| ·) e.width (q.reg e.a) (e.src2 q)
def opXor := aluRepeat fun e q => aluLogic (· ^^^ ·) e.width (q.reg e.a) (e.src2 q)
def opNot (s : State) (k : Nat) (q : Seq) (e : Enc) : Did := aluDid s k q e (aluNot e.width (q.reg e.a))
def opNeg (s : State) (k : Nat) (q : Seq) (e : Enc) : Did := aluDid s k q e (aluNegAbs false e.width (q.reg e.a))
def opAbs (s : State) (k : Nat) (q : Seq) (e : Enc) : Did := aluDid s k q e (aluNegAbs true e.width (q.reg e.a))
def opShl (s : State) (k : Nat) (q : Seq) (e : Enc) : Did := aluDid s k q e (aluShift 0 e.width (q.reg e.a) (e.count2 q))
def opShr (s : State) (k : Nat) (q : Seq) (e : Enc) : Did := aluDid s k q e (aluShift 1 e.width (q.reg e.a) (e.count2 q))
def opSar (s : State) (k : Nat) (q : Seq) (e : Enc) : Did := aluDid s k q e (aluShift 2 e.width (q.reg e.a) (e.count2 q))
def opRol (s : State) (k : Nat) (q : Seq) (e : Enc) : Did := aluDid s k q e (aluShift 3 e.width (q.reg e.a) (e.count2 q))
def opRor (s : State) (k : Nat) (q : Seq) (e : Enc) : Did := aluDid s k q e (aluShift 4 e.width (q.reg e.a) (e.count2 q))
def opMin (s : State) (k : Nat) (q : Seq) (e : Enc) : Did := aluDid s k q e (aluMinMax false e.width (q.reg e.a) (e.src2 q))
def opMax (s : State) (k : Nat) (q : Seq) (e : Enc) : Did := aluDid s k q e (aluMinMax true e.width (q.reg e.a) (e.src2 q))
def opCmpeq (s : State) (k : Nat) (q : Seq) (e : Enc) : Did := aluDid s k q e (aluEq false e.width (q.reg e.a) (e.src2 q))
def opCmpne (s : State) (k : Nat) (q : Seq) (e : Enc) : Did := aluDid s k q e (aluEq true e.width (q.reg e.a) (e.src2 q))
def opCmplt (s : State) (k : Nat) (q : Seq) (e : Enc) : Did := aluDid s k q e (aluLt false e.width (q.reg e.a) (e.src2 q))
def opCmple (s : State) (k : Nat) (q : Seq) (e : Enc) : Did := aluDid s k q e (aluLt true e.width (q.reg e.a) (e.src2 q))
def opPopc (s : State) (k : Nat) (q : Seq) (e : Enc) : Did := aluDid s k q e (aluCount 0 e.width (q.reg e.a))
def opClz (s : State) (k : Nat) (q : Seq) (e : Enc) : Did := aluDid s k q e (aluCount 1 e.width (q.reg e.a))
def opCtz (s : State) (k : Nat) (q : Seq) (e : Enc) : Did := aluDid s k q e (aluCount 2 e.width (q.reg e.a))

/-- ADD (R132). -/
def execAdd (k upset : Nat) (s : State) : Host.Outcome State Fault Refusal := .next (s.issue k upset (· = 0x20) opAdd)
/-- SUB (R132). -/
def execSub (k upset : Nat) (s : State) : Host.Outcome State Fault Refusal := .next (s.issue k upset (· = 0x21) opSub)
/-- AND (R130). -/
def execAnd (k upset : Nat) (s : State) : Host.Outcome State Fault Refusal := .next (s.issue k upset (· = 0x22) opAnd)
/-- OR (R130). -/
def execOr (k upset : Nat) (s : State) : Host.Outcome State Fault Refusal := .next (s.issue k upset (· = 0x23) opOr)
/-- XOR (R130). -/
def execXor (k upset : Nat) (s : State) : Host.Outcome State Fault Refusal := .next (s.issue k upset (· = 0x24) opXor)
/-- NOT (R132). -/
def execNot (k upset : Nat) (s : State) : Host.Outcome State Fault Refusal := .next (s.issue k upset (· = 0x25) opNot)
/-- NEG (R132). -/
def execNeg (k upset : Nat) (s : State) : Host.Outcome State Fault Refusal := .next (s.issue k upset (· = 0x26) opNeg)
/-- ABS (R132). -/
def execAbs (k upset : Nat) (s : State) : Host.Outcome State Fault Refusal := .next (s.issue k upset (· = 0x27) opAbs)
/-- SHL (R132). -/
def execShl (k upset : Nat) (s : State) : Host.Outcome State Fault Refusal := .next (s.issue k upset (· = 0x28) opShl)
/-- SHR (R132). -/
def execShr (k upset : Nat) (s : State) : Host.Outcome State Fault Refusal := .next (s.issue k upset (· = 0x29) opShr)
/-- SAR (R132). -/
def execSar (k upset : Nat) (s : State) : Host.Outcome State Fault Refusal := .next (s.issue k upset (· = 0x2A) opSar)
/-- ROL (R132). -/
def execRol (k upset : Nat) (s : State) : Host.Outcome State Fault Refusal := .next (s.issue k upset (· = 0x2B) opRol)
/-- ROR (R132). -/
def execRor (k upset : Nat) (s : State) : Host.Outcome State Fault Refusal := .next (s.issue k upset (· = 0x2C) opRor)
/-- MIN (R130). -/
def execMin (k upset : Nat) (s : State) : Host.Outcome State Fault Refusal := .next (s.issue k upset (· = 0x2D) opMin)
/-- MAX (R130). -/
def execMax (k upset : Nat) (s : State) : Host.Outcome State Fault Refusal := .next (s.issue k upset (· = 0x2E) opMax)
/-- CMPEQ (R130). -/
def execCmpeq (k upset : Nat) (s : State) : Host.Outcome State Fault Refusal := .next (s.issue k upset (· = 0x30) opCmpeq)
/-- CMPNE (R130). -/
def execCmpne (k upset : Nat) (s : State) : Host.Outcome State Fault Refusal := .next (s.issue k upset (· = 0x31) opCmpne)
/-- CMPLT (R130). -/
def execCmplt (k upset : Nat) (s : State) : Host.Outcome State Fault Refusal := .next (s.issue k upset (· = 0x32) opCmplt)
/-- CMPLE (R130). -/
def execCmple (k upset : Nat) (s : State) : Host.Outcome State Fault Refusal := .next (s.issue k upset (· = 0x33) opCmple)
/-- POPC (R130). -/
def execPopc (k upset : Nat) (s : State) : Host.Outcome State Fault Refusal := .next (s.issue k upset (· = 0x34) opPopc)
/-- CLZ (R130). -/
def execClz (k upset : Nat) (s : State) : Host.Outcome State Fault Refusal := .next (s.issue k upset (· = 0x35) opClz)
/-- CTZ (R130). -/
def execCtz (k upset : Nat) (s : State) : Host.Outcome State Fault Refusal := .next (s.issue k upset (· = 0x36) opCtz)

/-! ## The multiplier and the divider (R122, R123, R132) -/

/-- MUL, MULH or MAC: the result falls due 4 issue cycles later, 3 with prefix W32. -/
def mulBody (kind : Nat) (s : State) (k : Nat) (q : Seq) (e : Enc) : Did :=
  repeatDid k e (fun s q => match mulValue kind e.width (q.reg e.a) (q.reg e.b) with
    | .error pos => .error pos
    | .ok (t, v, ov) =>
      let f : Flight := { reg := 32 + e.rd, due := q.icount + (if e.width = 64 then 4 else 3), tag := t, val := v, mac := kind = 2, width := e.width, ov := ov, pc := q.pc }
      .ok (s.updSeq k (fun q => { q with flight := q.flight ++ [f] }))) (e.reps q) s

def opMul := mulBody 0
def opMulh := mulBody 1
def opMac := mulBody 2

/-- DIV: d0 and d1 fall due 20 issue cycles later; DZ is set, or trapped, at issue (R132, R133). -/
def opDiv (s : State) (k : Nat) (q : Seq) (e : Enc) : Did :=
  match divValue e.width (q.reg e.a) (q.reg e.b) with
  | .error pos => .trap s cTag (e.tagTval q 0 pos)
  | .ok (t, x, r, fl) =>
    let dz := fl &&& fDZ ≠ 0
    if dz && q.dzTrap then .trap (s.updSeq k (fun q => q.flag fDZ)) cDz 0
    else
      let f := fun (reg : Nat) (v : Int) (ov : Bool) => ({ reg := reg, due := q.icount + 20, tag := t, val := v, mac := false, width := e.width, ov := ov, pc := q.pc } : Flight)
      .done (s.updSeq k (fun q => { q with flight := q.flight ++ [f 36 x (fl &&& fOV ≠ 0), f 37 r false] })) 1 (fl &&& fDZ)

/-- MUL (R122). -/
def execMul (k upset : Nat) (s : State) : Host.Outcome State Fault Refusal := .next (s.issue k upset (· = 0x40) opMul)
/-- MULH (R122). -/
def execMulh (k upset : Nat) (s : State) : Host.Outcome State Fault Refusal := .next (s.issue k upset (· = 0x41) opMulh)
/-- MAC (R123). -/
def execMac (k upset : Nat) (s : State) : Host.Outcome State Fault Refusal := .next (s.issue k upset (· = 0x42) opMac)
/-- DIV (R132). -/
def execDiv (k upset : Nat) (s : State) : Host.Outcome State Fault Refusal := .next (s.issue k upset (· = 0x43) opDiv)

/-- MULTIPLIER_RESULT_LAND (R122, R123, R133): the results due in m registers by the present issue cycle are written. -/
def execMultiplierResultLand (k : Nat) (s : State) : Host.Outcome State Fault Refusal :=
  .next (if (s.seq k).flight.any (fun f => f.due ≤ (s.seq k).icount && f.reg < 36) then s.land k else s)

/-- DIVIDER_RESULT_LAND (R122): the quotient and the remainder due by the present issue cycle are written. -/
def execDividerResultLand (k : Nat) (s : State) : Host.Outcome State Fault Refusal :=
  .next (if (s.seq k).flight.any (fun f => f.due ≤ (s.seq k).icount && 36 ≤ f.reg) then s.land k else s)

/-! ## Floating point -/

/-- A rounding mode of 6 or 7 in a RND argument takes a tag trap at position 8 (R94, R140), after the operand tags. -/
def rndGuard (s : State) (e : Enc) (r : Alu) (d : Did) : Did :=
  match r with
  | .error _ => d
  | .ok _ => if 6 ≤ e.rnd.getD 0 then .trap s cTag (tagTval1 0 8) else d

def fpBody (kind : Nat) (s : State) (k : Nat) (q : Seq) (e : Enc) : Did :=
  let r := aluFp kind (e.mode q) q.sat (q.reg e.a) (q.reg e.b) (q.reg e.rd)
  rndGuard s e r (aluDid s k q e r)

def opFadd := fpBody 0
def opFsub := fpBody 1
def opFmul := fpBody 2
def opFfma := fpBody 3
def opFmin := fpBody 4
def opFmax := fpBody 5
def opFcmpeq (s : State) (k : Nat) (q : Seq) (e : Enc) : Did := aluDid s k q e (aluFcmp 0 (q.reg e.a) (q.reg e.b))
def opFcmplt (s : State) (k : Nat) (q : Seq) (e : Enc) : Did := aluDid s k q e (aluFcmp 1 (q.reg e.a) (q.reg e.b))
def opFcmple (s : State) (k : Nat) (q : Seq) (e : Enc) : Did := aluDid s k q e (aluFcmp 2 (q.reg e.a) (q.reg e.b))
def opIcvt (s : State) (k : Nat) (q : Seq) (e : Enc) : Did :=
  let r := aluIcvt (e.imm % 16) (e.mode q) (srBits q.seed q.step q.sridx) (q.reg e.a)
  rndGuard s e r (aluDid s k q e r)

/-- FADD (R130). -/
def execFadd (k upset : Nat) (s : State) : Host.Outcome State Fault Refusal := .next (s.issue k upset (· = 0x50) opFadd)
/-- FSUB (R130). -/
def execFsub (k upset : Nat) (s : State) : Host.Outcome State Fault Refusal := .next (s.issue k upset (· = 0x51) opFsub)
/-- FMUL (R130). -/
def execFmul (k upset : Nat) (s : State) : Host.Outcome State Fault Refusal := .next (s.issue k upset (· = 0x52) opFmul)
/-- FFMA (R130). -/
def execFfma (k upset : Nat) (s : State) : Host.Outcome State Fault Refusal := .next (s.issue k upset (· = 0x53) opFfma)
/-- FMIN (R512). -/
def execFmin (k upset : Nat) (s : State) : Host.Outcome State Fault Refusal := .next (s.issue k upset (· = 0x54) opFmin)
/-- FMAX (R512). -/
def execFmax (k upset : Nat) (s : State) : Host.Outcome State Fault Refusal := .next (s.issue k upset (· = 0x55) opFmax)
/-- FCMPEQ (R130). -/
def execFcmpeq (k upset : Nat) (s : State) : Host.Outcome State Fault Refusal := .next (s.issue k upset (· = 0x56) opFcmpeq)
/-- FCMPLT (R130). -/
def execFcmplt (k upset : Nat) (s : State) : Host.Outcome State Fault Refusal := .next (s.issue k upset (· = 0x57) opFcmplt)
/-- FCMPLE (R130). -/
def execFcmple (k upset : Nat) (s : State) : Host.Outcome State Fault Refusal := .next (s.issue k upset (· = 0x58) opFcmple)
/-- ICVT (R519). -/
def execIcvt (k upset : Nat) (s : State) : Host.Outcome State Fault Refusal := .next (s.issue k upset (· = 0x59) opIcvt)

/-! ## Control flow -/

/-- The target of a relative branch: the first byte of this instruction plus the offset (R129). -/
def Enc.target (e : Enc) (q : Seq) : Nat := wrapInt 21 ((q.pc : Int) + signed 32 e.imm)

def opBr (s : State) (_ : Nat) (q : Seq) (e : Enc) : Did := .goto s (e.target q) 3

/-- BRT (true) and BRF (false). -/
def branchOn (want : Bool) (s : State) (_ : Nat) (q : Seq) (e : Enc) : Did :=
  let c := q.reg e.rd
  if c.tag ≠ tgBool then .trap s cTag (e.tagTval q c.tag 3)
  else if (c.val % 2 = 1) = (want = true) then .goto s (e.target q) 3
  else .done s 1 0

def opBrt := branchOn true
def opBrf := branchOn false

def opJmp (s : State) (_ : Nat) (q : Seq) (e : Enc) : Did :=
  let t := q.reg e.rd
  if t.tag ≠ tgUint then .trap s cTag (e.tagTval q t.tag 3) else .goto s t.val 3

def opCall (s : State) (k : Nat) (q : Seq) (e : Enc) : Did :=
  .goto (s.putRd k e.rd ⟨tgUint, (q.pc + e.len) % 2 ^ 21⟩) (e.target q) 3

def opBrk (s : State) (_ : Nat) (_ : Seq) (e : Enc) : Did := .trap s cBrk e.imm

/-- TRET (R142): with CS.TI = 0 it is ILLEGAL, which its legality decides. -/
def opTret (s : State) (k : Nat) (q : Seq) (e : Enc) : Did :=
  .goto (s.updSeq k (fun q => { q with cs := setBit q.cs 12 false })) (q.epc + (if e.imm = 1 then fld q.cause 8 4 + 1 else 0)) 3

/-- WEND (R137): once its units have finished, the multiplier and divider drain and the cell's part has ended. -/
def opWend (s : State) (k : Nat) (q : Seq) (e : Enc) : Did :=
  if !q.units.isEmpty then .wait s
  else
    let s := (s.retire k e.len 1 0).drain k
    .ended ((s.updSeq k (fun q => { q with ended := true, pre := [] })).feuDone k stSuccess)

/-- BR (R130). -/
def execBr (k upset : Nat) (s : State) : Host.Outcome State Fault Refusal := .next (s.issue k upset (· = 0x60) opBr)
/-- BRT (R130). -/
def execBrt (k upset : Nat) (s : State) : Host.Outcome State Fault Refusal := .next (s.issue k upset (· = 0x61) opBrt)
/-- BRF (R130). -/
def execBrf (k upset : Nat) (s : State) : Host.Outcome State Fault Refusal := .next (s.issue k upset (· = 0x62) opBrf)
/-- JMP (R130). -/
def execJmp (k upset : Nat) (s : State) : Host.Outcome State Fault Refusal := .next (s.issue k upset (· = 0x63) opJmp)
/-- CALL (R130). -/
def execCall (k upset : Nat) (s : State) : Host.Outcome State Fault Refusal := .next (s.issue k upset (· = 0x64) opCall)
/-- BRK (R140). -/
def execBrk (k upset : Nat) (s : State) : Host.Outcome State Fault Refusal := .next (s.issue k upset (· = 0x65) opBrk)
/-- TRET (R142). -/
def execTret (k upset : Nat) (s : State) : Host.Outcome State Fault Refusal := .next (s.issue k upset (· = 0x66) opTret)
/-- WEND (R137). -/
def execWend (k upset : Nat) (s : State) : Host.Outcome State Fault Refusal := .next (s.issue k upset (· = 0x67) opWend)

end Sys2Proof.Machine
end

