-- ==== Sys2Proof/Machine/SeqMem.lean ====
section
/-! DEFINITION. Special registers, memory and channel instructions of the sequencer (R137 to R139, R436). -/

namespace Sys2Proof.Machine

/-! ## Special registers (R138, R139, R436) -/

/-- The content of special register n at an instruction of sequencer k; what a control core has no use for reads as a
free value (log entry 26). -/
def State.special (s : State) (k : Nat) (q : Seq) (n : Nat) : State × TW :=
  let u := fun (v : Nat) => (s, TW.mk tgUint (v % 2 ^ 64))
  let open' := fun (t : Nat) => (((s.fresh 64).2, TW.mk t (s.fresh 64).1) : State × TW)
  match n with
  | 0x00 => u q.cs | 0x01 => u q.pc | 0x02 => u q.vl | 0x03 => u q.icount
  | 0x04 => (s, q.reg 32) | 0x05 => (s, q.reg 33) | 0x06 => (s, q.reg 34) | 0x07 => (s, q.reg 35)
  | 0x08 => (s, q.reg 36) | 0x09 => (s, q.reg 37)
  | 0x20 => u q.tvec | 0x21 => u q.epc | 0x22 => u q.cause | 0x23 => u q.tval | 0x24 => u q.seed | 0x25 => u q.step
  | 0x26 => u q.sridx
  | 0x27 => if isCore k then open' tgUint else u q.wave
  | 0x28 => if isCore k then open' tgHandle else (s, ⟨tgHandle, k⟩)
  | 0x80 => u (k - 1536) | 0x81 => u q.comp | 0x82 => u q.ivec | 0x83 => u q.iepc | 0x84 => u q.icause | 0x85 => u q.ival
  | 0x86 => u q.imask | 0x87 => u 0 | 0x88 => u s.timeNs
  | _ =>
    if 0x10 ≤ n && n ≤ 0x17 then u (q.mask ((n - 0x10) / 2) / 2 ^ (64 * (n % 2)))
    else if 0x90 ≤ n && n ≤ 0xAF then u (Tbl.get q.mpu (n - 0x90) 0)
    else if 0x40 ≤ n && n ≤ 0x4F then
      if isCore k then open' tgUint
      else (s, ⟨if n % 8 = 1 then tgAddr else tgUint, s.strmWord k ((n - 0x40) / 8) (n % 8)⟩)
    else u 0

/-- The tag a MOVS to special register n needs; none: any. -/
def specialTag (n : Nat) : Option Nat :=
  if 4 ≤ n && n ≤ 9 then none else if n = 0x41 || n = 0x49 then some tgAddr else some tgUint

/-- q after a MOVS to a special register held in the sequencer; `x` is a free value for a vl above its range. -/
def Seq.writeSpecial (q : Seq) (n : Nat) (w : TW) (x : Nat) : Seq :=
  let v := w.val
  match n with
  | 0x00 => { q with cs := clearBits q.cs 0xF1F + (v &&& 0xF1F) }
  | 0x02 => { q with vl := if v ≤ 2 ^ 20 then v else x % (2 ^ 20 + 1) }
  | 0x04 => q.setReg 32 w | 0x05 => q.setReg 33 w | 0x06 => q.setReg 34 w | 0x07 => q.setReg 35 w
  | 0x08 => q.setReg 36 w | 0x09 => q.setReg 37 w
  | 0x20 => { q with tvec := v } | 0x21 => { q with epc := v } | 0x24 => { q with seed := v }
  | 0x25 => { q with step := v % 2 ^ 32 } | 0x26 => { q with sridx := v }
  | 0x81 => { q with comp := v % 64 } | 0x82 => { q with ivec := v } | 0x83 => { q with iepc := v } | 0x86 => { q with imask := v }
  | _ =>
    if 0x10 ≤ n && n ≤ 0x17 then
      let i := (n - 0x10) / 2
      q.setMask i (setFld (q.mask i) (64 * (n % 2)) 64 v)
    else if 0x90 ≤ n && n ≤ 0xAF then { q with mpu := Tbl.set q.mpu (n - 0x90) v 0 }
    else q

/-- MOVS (R138): a tag mismatch traps at position 7, a CS with RM 6 or 7 at position 8; CS waits for busy units (R124). A
vl above 1,048,576 has no stated content: a free value in range (log entry 2). -/
def opMovs (s : State) (k : Nat) (q : Seq) (e : Enc) : Did :=
  let w := q.reg e.rd
  let n := e.imm
  if (specialTag n).any (fun t => w.tag ≠ t) then .trap s cTag (tagTval1 w.tag 7)
  else if n = 0 && 6 ≤ fld w.val 0 3 then .trap s cTag (tagTval1 w.tag 8)
  else if n = 0 && !q.units.isEmpty then .wait s
  else if 0x40 ≤ n && n ≤ 0x4F then
    if isCore k then .done s 1 0
    else
      let j := (n - 0x40) / 8
      let s := s.regWrite (R.LAT_CELL_STRM k j + 8 * (n % 8)) 8 w.val
      .done (if n % 8 = 0 && bit w.val 0 then s.strmStart k j e.len else s) 1 0
  else if n = 0x87 then .done { s with fw := { s.fw with wdog := Tbl.put s.fw.wdog (k - 1536) s.timeNs } } 1 0
  else if n = 2 && 2 ^ 20 < w.val then
    let (x, s) := s.fresh 32
    .done (s.updSeq k (fun q => q.writeSpecial n w x)) 1 0
  else .done (s.updSeq k (fun q => q.writeSpecial n w 0)) 1 0

/-- MOVG (R138). -/
def opMovg (s : State) (k : Nat) (q : Seq) (e : Enc) : Did :=
  if e.imm = 0 && !q.units.isEmpty then .wait s
  else
    let (s, v) := s.special k q e.imm
    .done (s.putRd k e.rd v) 1 0

/-- MOVS (R138). -/
def execMovs (k upset : Nat) (s : State) : Host.Outcome State Fault Refusal := .next (s.issue k upset (· = 0x07) opMovs)
/-- MOVG (R138). -/
def execMovg (k upset : Nat) (s : State) : Host.Outcome State Fault Refusal := .next (s.issue k upset (· = 0x08) opMovg)

/-! ## Store loads, stores and atomics (R65, R120, R137) -/

/-- The word a store atomic leaves, from the old one: 0 XADD, 1 XCHG, 2 XCAS (R130, R137). -/
def atomicNew (kind : Nat) (old : Nat) (data : Nat) (swap : TW) (t : Nat) : TW := match kind with
  | 0 => ⟨t, (old + data) % 2 ^ 64⟩
  | 1 => ⟨t, data⟩
  | _ => if old = data then swap else ⟨t, old⟩

/-- Whether a core may access its local memory so; a cell always may. -/
def coreMayTouch (k : Nat) (q : Seq) (addr n perm : Nat) : Bool := !isCore k || q.mpuOk 0 addr n perm

/-- One access of a store word by LD 3, ST 4 or an atomic 0 to 2. -/
def storeAccess (kind : Nat) (s : State) (k : Nat) (q : Seq) (e : Enc) : Did :=
  let a := e.storeAddr q
  let w := q.reg e.rd
  let swap := if kind = 2 then q.reg (e.rd + 1) else TW.empty
  if a % 8 ≠ 0 then .trap s cAlign a
  else if !(kind ≠ 4 → coreMayTouch k q a 8 1) || !(kind ≠ 3 → coreMayTouch k q a 8 2) then .mc s mcProtection a
  else match s.storeAt k a 8 (kind ≠ 3) with
    | .bad => .mc s mcProtection a
    | .nbr _ win off => .park s (.nbr kind win off e.rd w.tag w.val swap)
    | .own _ =>
      let off := fld a 0 21
      if kind = 4 then
        if s.writeWaits k [off] then .wait s else .done (s.putOwn k off w) 1 0
      else match s.readOwn k [off] [] with
        | .wait => .wait s
        | .bad _ => .mc s mcStoreUe a
        | .ok s' ws =>
          let old := ws.headD TW.empty
          if kind = 3 then .done (s'.putRd k e.rd old) 1 0
          else if old.tag ≠ w.tag && !e.waive then .trap s cTag (tagTval1 old.tag 6)
          else if s.writeWaits k [off] then .wait s
          else .done ((s'.putOwn k off (atomicNew kind old.val w.val swap w.tag)).putRd k e.rd old) 1 0

/-- LD and ST: base UINT, index INT or UINT. -/
def storeBody (kind : Nat) (s : State) (k : Nat) (q : Seq) (e : Enc) : Did :=
  match e.memTags q (· = tgUint) with
  | some pos => .trap s cTag (e.tagTval q (if kind = 4 then (q.reg e.rd).tag else 0) pos)
  | none => storeAccess kind s k q e

def opLd := storeBody 3
def opSt := storeBody 4

/-- LD (R137). -/
def execLd (k upset : Nat) (s : State) : Host.Outcome State Fault Refusal := .next (s.issue k upset (· = 0x10) opLd)
/-- ST (R137). -/
def execSt (k upset : Nat) (s : State) : Host.Outcome State Fault Refusal := .next (s.issue k upset (· = 0x11) opSt)

/-! ## Pool accesses (R84, R137) -/

/-- LDP: the sequencer stalls until the data returns. -/
def opLdp (s : State) (k : Nat) (q : Seq) (e : Enc) : Did :=
  match e.memTags q (· = tgAddr) with
  | some pos => .trap s cTag (e.tagTval q 0 pos)
  | none =>
    let size := 2 ^ (e.imm / 16 % 4)
    let a := e.poolAddr q
    if a % size ≠ 0 then .trap s cAlign a
    else if (s.grant k a size 33).isNone then .mc s mcProtection a
    else .park s (.load e.rd (e.imm % 16) size a)

/-- STP: the bytes join stream S1's writes; the data register is INT or UINT. -/
def opStp (s : State) (k : Nat) (q : Seq) (e : Enc) : Did :=
  let w := q.reg e.rd
  match e.memTags q (· = tgAddr) with
  | some pos => .trap s cTag (e.tagTval q w.tag pos)
  | none =>
    if !isInt w.tag then .trap s cTag (e.tagTval q w.tag 3)
    else
      let size := 2 ^ (e.imm / 16 % 4)
      let a := e.poolAddr q
      if a % size ≠ 0 then .trap s cAlign a
      else match s.grant k a size 34 with
        | none => .mc s mcProtection a
        | some (r, off) => .done (s.updSeq k (fun q => { q with wq := q.wq ++ [(1, a, r.splitWrite off (leBytes size w.val))], s1 := q.s1 ++ [false] })) 1 0

/-- An atomic: pool form under an ADDR base, store form under a UINT base; a control core has the store form alone. -/
def atomicBody (kind : Nat) (s : State) (k : Nat) (q : Seq) (e : Enc) : Did :=
  let w := q.reg e.rd
  match e.memTags q (fun t => t = tgUint || (t = tgAddr && !isCore k)) with
  | some pos => if isCore k && (q.reg e.a).tag = tgAddr then .trap s cIllegal (leNat (s.codeBytes k q.pc 8)) else .trap s cTag (e.tagTval q w.tag pos)
  | none =>
    let x := q.reg (e.rd + 1)
    if !isInt w.tag then .trap s cTag (e.tagTval q w.tag 3)
    else if kind = 2 && !isInt x.tag then .trap s cTag (e.tagTval q x.tag 3)
    else if (q.reg e.a).tag = tgUint then storeAccess kind s k q e
    else
      let a := e.poolAddr q
      if a % 8 ≠ 0 then .trap s cAlign a
      else if (s.grant k a 8 35).isNone then .mc s mcProtection a
      else .park s (.atomic kind e.rd w.tag w.val x.val a)

def opXadd := atomicBody 0
def opXchg := atomicBody 1
def opXcas := atomicBody 2

/-- LDP (R137). -/
def execLdp (k upset : Nat) (s : State) : Host.Outcome State Fault Refusal := .next (s.issue k upset (· = 0x12) opLdp)
/-- STP (R137). -/
def execStp (k upset : Nat) (s : State) : Host.Outcome State Fault Refusal := .next (s.issue k upset (· = 0x13) opStp)
/-- XADD (R137). -/
def execXadd (k upset : Nat) (s : State) : Host.Outcome State Fault Refusal := .next (s.issue k upset (· = 0x14) opXadd)
/-- XCHG (R137). -/
def execXchg (k upset : Nat) (s : State) : Host.Outcome State Fault Refusal := .next (s.issue k upset (· = 0x15) opXchg)
/-- XCAS (R137). -/
def execXcas (k upset : Nat) (s : State) : Host.Outcome State Fault Refusal := .next (s.issue k upset (· = 0x16) opXcas)

/-- The stalled instruction of sequencer k completes with a value in rd: the sequencer goes on behind it. -/
def State.resume (s : State) (k rd : Nat) (v : TW) : State :=
  let q := s.seq k
  let s := s.updSeq k (fun q => { (q.setReg rd v) with stall := none, pc := (q.pc + q.stallLen) % 2 ^ 21 })
  (s.prefetch k q.stallLen).boundary k

/-- POOL_ACCESS_RETURN (R83, R137): the access of the stalled sequencer is performed, after every S1 write issued before it, and an
atomic after every S1 line read before it, once no guarded page holds it, and once the hub is back from a warm reset (R34); an
uncorrectable line is a machine-check MEM_UE. -/
def execPoolAccessReturn (k : Nat) (s : State) : Host.Outcome State Fault Refusal :=
  .next (
    let q := s.seq k
    if s.cellPending k 1 ≠ 0 then s
    else match q.stall with
      | some (.load rd tag size a) => (match s.grant k a size 33 with
        | none => s.machineCheck k mcProtection a
        | some (r, off) => if s.regionWaits r off size then s else match s.readRegion r off size with
          | .fail s _ _ => s.machineCheck k mcMemUe a
          | .ok s bs => s.resume k rd ⟨tag, if tag = tgInt then extend tgInt (8 * size) (leNat bs) else leNat bs⟩)
      | some (.atomic kind rd tag data swap a) => (match s.grant k a 8 35 with
        | none => s.machineCheck k mcProtection a
        | some (r, off) =>
          if s.regionWaits r off 8 || q.s1.contains true then s
          else if s.guarded (r.dpa off) then s.guardMark (r.dpa off) (2 ^ 47 + k)
          else match s.readRegion r off 8 with
            | .fail s _ _ => s.machineCheck k mcMemUe a
            | .ok s bs => match s.writeRegion r off (leBytes 8 (atomicNew kind (leNat bs) data ⟨tag, swap⟩ tag).val) with
              | (s, _, none) => s.resume k rd ⟨tag, leNat bs⟩
              | (s, _, some _) => s.machineCheck k mcMemUe a)
      | _ => s)

/-! ## Stream waits and channels -/

/-- SWAIT (R130). -/
def opSwait (s : State) (k : Nat) (q : Seq) (e : Enc) : Did :=
  if (q.stream e.imm).busy || s.cellPending k e.imm ≠ 0 then .wait s else .done s 1 0

/-- SFENCE (R82, R130): lines issued after it wait while `fence` holds. -/
def opSfence (s : State) (k : Nat) (_ : Seq) (_ : Enc) : Did :=
  .done (s.updSeq k (fun q => { q with fence := s.cellPending k 0 ≠ 0 || s.cellPending k 1 ≠ 0 })) 1 0

/-- The channel that is local channel i of a cell as sender or as receiver: pipeline and place in its list. -/
def State.localChan (s : State) (k i : Nat) (sender : Bool) : Option (Nat × Nat × Chan) :=
  match (s.seq k).pipe with
  | none => none
  | some (pn, _) =>
    let cs := Tbl.get s.chans pn []
    ((List.range cs.length).zip cs).findSome? (fun p =>
      if (if sender then p.2.sCell = k && p.2.sIdx = i else p.2.rCell = k && p.2.rIdx = i) then some (pn, p.1, p.2) else none)

/-- s with a channel of a pipeline changed. -/
def State.updChan (s : State) (pn i : Nat) (f : Chan → Chan) : State :=
  { s with chans := Tbl.upd s.chans pn (fun cs => ((List.range cs.length).zip cs).map (fun p => if p.1 = i then f p.2 else p.2)) }

/-- Runs a channel operation on local channel imm with the count of rs1; a count of 0 or above the buffer is ILLEGAL, and
so is a channel that the image does not give (DEDUCED, log entry 27). -/
def chanBody (sender : Bool) (f : State → Nat → Nat → Chan → Nat → Did) (s : State) (k : Nat) (q : Seq) (e : Enc) : Did :=
  let c := q.reg e.a
  if c.tag ≠ tgUint then .trap s cTag (e.tagTval q 0 1)
  else match s.localChan k e.imm sender with
    | none => .trap s cIllegal (leNat (q.pre.take 8 ++ s.codeBytes k (q.pc + (q.pre.take 8).length) (8 - (q.pre.take 8).length)))
    | some (pn, i, ch) =>
      if c.val = 0 || ch.size < c.val then .trap s cIllegal (leNat (q.pre.take 8 ++ s.codeBytes k (q.pc + (q.pre.take 8).length) (8 - (q.pre.take 8).length)))
      else f s pn i ch c.val

/-- Returned credits as records of 1 to 16 (R74). -/
def creditRecords : Nat → Nat → List Nat
  | 0, _ => []
  | fuel + 1, n => if n = 0 then [] else min 16 n :: creditRecords fuel (n - min 16 n)

def opChwait (s : State) (k : Nat) (q : Seq) (e : Enc) : Did :=
  chanBody false (fun s _ _ ch c =>
    if ch.recv - ch.freed < c then .wait s else .done (s.putRd k e.rd ⟨tgUint, ch.buf + 64 * (ch.freed % ch.size)⟩) 1 0) s k q e

/-- CHFREE frees what has been received; a count beyond that frees no more (log entry 28). -/
def opChfree (s : State) (k : Nat) (q : Seq) (e : Enc) : Did :=
  chanBody false (fun s pn i ch c =>
    let n := min c (ch.recv - ch.freed)
    let s := s.updChan pn i (fun ch => { ch with freed := ch.freed + n })
    .done { s with lat := { s.lat with credits := s.lat.credits ++ (creditRecords n n).map (fun m => (pn, i, m)) } } 1 0) s k q e

def opChspace (s : State) (k : Nat) (q : Seq) (e : Enc) : Did :=
  chanBody true (fun s pn _ ch c =>
    let digest := match Tbl.find s.pipes.tab pn with | some p => p.img.digest | none => 0
    if ch.size - (ch.put - ch.sent) < c then .wait s
    else .done (s.putRd k e.rd ⟨tgUint, 64 * Config.sendBase digest k ch.sIdx + 64 * (ch.put % ch.size)⟩) 1 0) s k q e

/-- CHPUT releases entries for sending, no more than are free (log entry 28). -/
def opChput (s : State) (k : Nat) (q : Seq) (e : Enc) : Did :=
  chanBody true (fun s pn i _ c =>
    .done (s.updChan pn i (fun ch => { ch with put := ch.put + min c (ch.size - (ch.put - ch.sent)) })) 1 0) s k q e

/-- SWAIT (R130). -/
def execSwait (k upset : Nat) (s : State) : Host.Outcome State Fault Refusal := .next (s.issue k upset (· = 0x70) opSwait)
/-- SFENCE (R130). -/
def execSfence (k upset : Nat) (s : State) : Host.Outcome State Fault Refusal := .next (s.issue k upset (· = 0x71) opSfence)
/-- CHWAIT (R137). -/
def execChwait (k upset : Nat) (s : State) : Host.Outcome State Fault Refusal := .next (s.issue k upset (· = 0x72) opChwait)
/-- CHFREE (R137). -/
def execChfree (k upset : Nat) (s : State) : Host.Outcome State Fault Refusal := .next (s.issue k upset (· = 0x73) opChfree)
/-- CHSPACE (R137). -/
def execChspace (k upset : Nat) (s : State) : Host.Outcome State Fault Refusal := .next (s.issue k upset (· = 0x74) opChspace)
/-- CHPUT (R137). -/
def execChput (k upset : Nat) (s : State) : Host.Outcome State Fault Refusal := .next (s.issue k upset (· = 0x75) opChput)

end Sys2Proof.Machine
end

