-- ==== Sys2Proof/Machine/SpecialFn.lean ====
section
/-! DEFINITION. The special functions (R105 to R107): each exact result, as a fixed-point number with an error far below the bounds of R105,
and the result the machine gives: any value of the output format within the bound, chosen by a free value that the input fixes (log entry
5). -/

namespace Sys2Proof.Machine

/-! ## Fixed point: a number x stands as x × 2^480, rounded down -/

/-- 1, and the product of two numbers. -/
def fx1 : Nat := 2 ^ 480
def fxMul (a b : Nat) : Nat := a * b / fx1

/-- ln 2, π / 2 and 2 / √π. -/
def fxLn2 : Nat := 0xb17217f7d1cf79abc9e3b39803f2f6af40f343267298b62d8a0d175b8baafa2be7b876206debac98559552fb4afa1b10ed2eae35c138214427573b29
def fxHalfPi : Nat := 0x1921fb54442d18469898cc51701b839a252049c1114cf98e804177d4c76273644a29410f31c6809bbdf2a33679a748636605614dbe4be286e9fc26ada
def fxTwoRootPi : Nat := 0x120dd750429b6d11ae3a914fed7fd8688281341d7587cea2e7342b06199cc416180eb39f0b24e1e2281806c12d98f35d77a3e9ddc91c394f0e9eedf0f

/-- 2 / π × 2^640: the stored constant of the argument reduction. -/
def twoOverPi : Nat := 0xa2f9836e4e441529fc2757d1f534ddc0db6295993c439041fe5163abdebbc561b7246e3a424dd2e006492eea09d1921cfe1deb1cb129a73ee88235f52ebb4484e99c7026b45f7e413991d639835339f4

/-- 1 + t / k × (1 + t / (k + 1) × …) from the innermost of n terms outward: the sum of a series by its ratios t / d k. -/
def fxRatios (t : Nat) (d : Nat → Nat) (minus : Bool) (n : Nat) : Nat :=
  (List.range n).foldl (fun acc i => if minus then fx1 - fxMul t acc / d (n - i) else fx1 + fxMul t acc / d (n - i)) fx1

/-- e^t for t below 1, and 2^r. -/
def fxExp (t : Nat) : Nat := fxRatios t id false 96
def fxPow2 (r : Nat) : Nat := fxExp (fxMul r fxLn2)

/-- e^t for any t, as a number and a power of two it is scaled by. -/
def fxExpBig (t : Nat) : Nat :=
  let q := t * fx1 / fxLn2
  fxPow2 (q % fx1) * 2 ^ (q / fx1)

/-- sin r and cos r for r at most π / 4. -/
def fxSin (r : Nat) : Nat := fxMul r (fxRatios (fxMul r r) (fun k => 2 * k * (2 * k + 1)) true 48)
def fxCos (r : Nat) : Nat := fxRatios (fxMul r r) (fun k => (2 * k - 1) * (2 * k)) true 48

/-- The square root of a number below 2^962, rounded down, bit by bit. -/
def bitRoot (v : Nat) : Nat :=
  (List.range 481).foldl (fun r i => if (r + 2 ^ (480 - i)) * (r + 2 ^ (480 - i)) ≤ v then r + 2 ^ (480 - i) else r) 0

/-! ## The functions of ±m × 2^e, for e of -149 at least -/

/-- |x| in fixed point. -/
def fxOf (m : Nat) (e : Int) : Nat := m * 2 ^ (e + 480).toNat

def exp2Of (neg : Bool) (m : Nat) (e : Int) : FV :=
  let x := fxOf m e
  let i : Int := if neg then -(((x + fx1 - 1) / fx1 : Nat) : Int) else (x / fx1 : Nat)
  let r := if neg then (fx1 - x % fx1) % fx1 else x % fx1
  .fin false (fxPow2 r) (i - 480)

/-- k + log2 y, with y between 3/4 and 3/2, by the series of the inverse hyperbolic tangent. -/
def log2Val (m : Nat) (e : Int) : FV :=
  let l := Nat.log2 m
  let y := m * 2 ^ (480 - l)
  let big := 3 * fx1 / 2 < y
  let k : Int := e + (l : Nat) + (if big then 1 else 0)
  let y := if big then y / 2 else y
  let z := (if y < fx1 then fx1 - y else y - fx1) * fx1 / (y + fx1)
  let s := (List.range 110).foldl (fun acc i => fx1 / (2 * (109 - i) + 1) + fxMul (fxMul z z) acc) 0
  let g := 2 * fxMul z s * fx1 / fxLn2
  let v : Int := k * fx1 + (if y < fx1 then -(g : Int) else g)
  .fin (decide (v < 0)) v.natAbs (-480)

def rcpOf (neg : Bool) (m : Nat) (e : Int) : FV := .fin neg (2 ^ (Nat.log2 m + 480) / m) (-e - (Nat.log2 m : Nat) - 480)

def rsqrtOf (m : Nat) (e : Int) : FV :=
  let odd := e % 2 = 1
  let m := if odd then 2 * m else m
  .fin false (bitRoot (2 ^ 960 / m)) (-480 - e / 2)

/-- sin x, or cos x: x is n quarter turns and θ, |θ| at most an eighth of a turn. -/
def trigOf (cosine : Bool) (neg : Bool) (m : Nat) (e : Int) : FV :=
  let d := (640 - e).toNat
  let p := m * twoOverPi
  let up := 2 ^ d ≤ 2 * (p % 2 ^ d)
  let n := p / 2 ^ d + (if up then 1 else 0)
  let g := if up then 2 ^ d - p % 2 ^ d else p % 2 ^ d
  let r := fxMul (g * fx1 / 2 ^ d) fxHalfPi
  let n := (n + (if cosine then 1 else 0)) % 4
  let flip := xor (xor (decide (2 ≤ n)) (neg && !cosine)) (n % 2 = 0 && up)
  .fin flip (if n % 2 = 0 then fxSin r else fxCos r) (-480)

def tanhOf (neg : Bool) (m : Nat) (e : Int) : FV :=
  let x := fxOf m e
  if 20 * fx1 ≤ x then .fin neg 1 0
  else
    let t := fxExpBig (2 * x)
    .fin neg ((t - fx1) * fx1 / (t + fx1)) (-480)

def erfOf (neg : Bool) (m : Nat) (e : Int) : FV :=
  let x := fxOf m e
  if 6 * fx1 ≤ x then .fin neg 1 0
  else
    let q := fxMul x x
    let s := fxRatios (2 * q) (fun k => 2 * k + 1) false 320
    .fin neg (fxMul (fxMul x fxTwoRootPi) s * fx1 / fxExpBig q) (-480)

/-- Function fn of a finite input other than R106's: EXP2 0, LOG2 1, RCP 2, RSQRT 3, SIN 4, COS 5, TANH 6, ERF 7. The error is far below
R105's bounds; where the result is a number of a binary format it is exact. -/
def sfnOf (fn : Nat) (neg : Bool) (m : Nat) (e : Int) : FV := match fn with
  | 0 => exp2Of neg m e
  | 1 => log2Val m e
  | 2 => rcpOf neg m e
  | 3 => rsqrtOf m e
  | 4 => trigOf false neg m e
  | 5 => trigOf true neg m e
  | 6 => tanhOf neg m e
  | _ => erfOf neg m e

/-- Whether n is a power of two. -/
def isPow2 (n : Nat) : Bool := n ≠ 0 && n = 2 ^ Nat.log2 n

/-- Whether the exact result is a number of a binary format: else it is irrational, or a quotient with no end, and every result is rounded. -/
def sfnExact (fn : Nat) (m : Nat) (e : Int) : Bool := match fn with
  | 0 => m = 0 || 0 ≤ e || m % 2 ^ (-e).toNat = 0
  | 1 => isPow2 m
  | 2 => isPow2 m
  | 3 => isPow2 m && (log2Of m e) % 2 = 0
  | _ => m = 0

/-! ## The bounds (R105) -/

/-- |a - b| ≤ k × 2^q for finite values. -/
def FV.within (a b : FV) (k : Nat) (q : Int) : Bool := match a, b with
  | .fin n m e, .fin n' m' e' =>
    let lo := min (min e e') q
    decide ((signedM n m * 2 ^ (e - lo).toNat - signedM n' m' * 2 ^ (e' - lo).toNat).natAbs ≤ k * 2 ^ (q - lo).toNat)
  | _, _ => false

/-- The unit in the last place of a format at a value, as a power of two. -/
def Fmt.ulpAt (g : Fmt) (m : Nat) (e : Int) : Int := max (log2Of m e - g.mb) (1 - (g.bias : Int) - g.mb)

/-- Whether a result y of function fn in output format code outC meets R105, c being the exact result and x the input: its bound in units in
the last place, half a unit more under a mode other than RNE, or the absolute bound where that is larger. -/
def sfnMeets (fn outC mode : Nat) (g : Fmt) (x c y : FV) : Bool := match c with
  | .fin _ m e =>
    let extra := if outC = 1 || mode = rmRNE then 0 else 1
    let ulps := if outC = 1 && (4 ≤ fn) then 4 else 2
    let near := y.within c (ulps + extra) (g.ulpAt m e - 1)
    if fn = 4 || fn = 5 then near || (outC = 1 && y.within c 1 (-24)) || ((outC = 2 || outC = 3) && y.within c 1 (-9))
    else if fn = 1 && outC = 1 then near && (FV.lt x (.fin false 1 (-1)) || FV.lt (.fin false 2 0) x || y.within c 1 (-23))
    else near
  | _ => false

end Sys2Proof.Machine
end

