-- ==== Sys2Proof/Machine/Codec.lean ====
section
/-! DEFINITION. Block formats and lossless frames: microscaling (R100, R101), TB8 and TB4 (R109 to R111), ZR (R114),
LZS (R115) and what their decoders reject (R116). -/

namespace Sys2Proof.Machine

/-! ## Packed element arrays (R91) -/

/-- Element i of an array of w-bit elements, packed from bit 0 of byte 0 upward (FP6 four to 3 bytes, FP4 two to a
byte). -/
def elemAt (bs : List Byte) (w i : Nat) : Nat := fld (leAt bs (w * i / 8) ((w * i % 8 + w + 7) / 8)) (w * i % 8) w

/-- The elements of a byte string. -/
def elemsOf (w n : Nat) (bs : List Byte) : List Nat := (List.range n).map (elemAt bs w)

/-- Elements of w bits packed into whole bytes, the last one filled with zeros. -/
def packElems (w : Nat) (xs : List Nat) : List Byte :=
  leBytes ((xs.length * w + 7) / 8) (xs.foldr (fun x acc => x % 2 ^ w + acc * 2 ^ w) 0)

/-! ## Microscaling (R100, R101) -/

/-- The element format of an MX format code, none for MXINT8. -/
def mxElem (c : Nat) : Option Fmt := match c with
  | 0 => some .e4m3 | 1 => some .e5m2 | 2 => some .e2m3 | 3 => some .e3m2 | 4 => some .e2m1 | _ => none

/-- emax of an MX format (R100). -/
def mxEmax (c : Nat) : Nat := match c with
  | 0 => 8 | 1 => 15 | 2 => 2 | 3 => 4 | 4 => 2 | _ => 0

/-- Bits of an element of an MX format. -/
def mxBits (c : Nat) : Nat := match mxElem c with | some f => f.bits | none => 8

/-- The largest finite magnitude of a list of values, as mantissa and power of two (mantissa 0 when all are zero). -/
def maxMag (vs : List FV) : Nat × Int := vs.foldl (fun a v => match v with
  | .fin _ m e => if m ≠ 0 && (a.1 = 0 || magGt m e a.1 a.2) then (m, e) else a
  | _ => a) (0, 0)

/-- One element scaled by 2^-k into an MX element: its bits and flags (R101 steps 3 and 4). -/
def mxElement (c mode u : Nat) (k : Int) (v : FV) : Nat × Nat :=
  match v.scale (-k) with
  | .fin neg m e =>
    match mxElem c with
    | some f =>
      if magGt m e f.maxFin.1 f.maxFin.2 then
        ((if neg then 2 ^ (f.eb + f.mb) else 0) + f.topFields.1 * 2 ^ f.mb + f.topFields.2, fOV ||| fNX)
      else f.round mode true u (.fin neg m e)
    | none =>
      if magGt m (e + 6) 127 0 then (wrapInt 8 (signedM neg 127), fOV ||| fNX)
      else
        let (t, r, kk) := scaleTo m (e + 6) 0
        let n := if roundsUp mode u neg t r kk then t + 1 else t
        (wrapInt 8 (signedM neg (min n 127)), if r = 0 then 0 else fNX)
  | _ => (0, 0)

/-- A block of values quantized (R101): the scale byte, the element bits and the flags; `us` gives the stochastic bits
of each element. -/
def mxQuant (c mode : Nat) (us : Nat → Nat) (vs : List FV) : Nat × List Nat × Nat :=
  if vs.any (fun v => !v.isFin) then (0xFF, vs.map (fun _ => 0), fOV)
  else
    let a := maxMag vs
    if a.1 = 0 then (0, vs.map (fun _ => 0), 0)
    else
      let x : Int := log2Of a.1 a.2 - mxEmax c + 127
      let X := (min (max x 0) 254).toNat
      let es := (vs.zip (List.range vs.length)).map (fun p => mxElement c mode (us p.2) ((X : Int) - 127) p.1)
      (X, es.map Prod.fst, es.foldl (fun f e => f ||| e.2) 0)

/-- The value of an MX element under a scale byte (R100, R101). -/
def mxValue (c X bits : Nat) : FV :=
  if X = 0xFF then .nan
  else (match mxElem c with
    | some f => f.decode bits
    | none => (FV.ofInt (signed 8 bits)).scale (-6)).scale ((X : Int) - 127)

/-! ## TB8 and TB4 (R109 to R111) -/

/-- P and L of TB8 (false) or TB4 (true). -/
def tbP (four : Bool) : Nat := if four then 2 else 6
def tbL (four : Bool) : Nat := if four then 7 else 127
/-- Bytes of a block. -/
def tbBytes (four : Bool) : Nat := if four then 17 else 33

/-- One block of 32 values encoded (R110): its bytes and flags. -/
def tbEncode (four : Bool) (mode : Nat) (us : Nat → Nat) (vs : List FV) : List Byte × Nat :=
  let n := tbBytes four - 1
  if vs.any (fun v => !v.isFin) then (leBytes 1 0xFF ++ zeroBytes n, fOV)
  else
    let a := maxMag vs
    let P : Int := tbP four
    let L := tbL four
    let E : Int :=
      if a.1 = 0 || log2Of a.1 a.2 < -126 then -126
      else
        let e0 := log2Of a.1 a.2
        let bump := if mode = rmSR then magGt a.1 a.2 L (e0 - P) else !(magGt (2 * L + 1) (e0 - P - 1) a.1 a.2)
        if bump then e0 + 1 else e0
    let q := fun (p : FV × Nat) => match p.1 with
      | .fin neg m e =>
        let (t, r, k) := scaleTo m e (E - P)
        let i := if roundsUp mode (us p.2) neg t r k then t + 1 else t
        (signedM neg (min i L), if r = 0 && i ≤ L then 0 else fNX)
      | _ => ((0 : Int), 0)
    let qs := ((fitList vs 32).zip (List.range 32)).map q
    let flags := (qs.take vs.length).foldl (fun f p => f ||| p.2) 0
    (leBytes 1 (E + 126).toNat ++ packElems (if four then 4 else 8) (qs.map (fun p => wrapInt (if four then 4 else 8) p.1)), flags)
where
  /-- A list padded with +0 to n values. -/
  fitList (vs : List FV) (n : Nat) : List FV := (vs ++ List.replicate (n - vs.length) FV.zero).take n

/-- The value of element i of a block (R111). -/
def tbValue (four : Bool) (block : List Byte) (i : Nat) : FV :=
  let b := leAt block 0 1
  if b = 0xFF then .nan
  else
    let w := if four then 4 else 8
    (FV.ofInt (signed w (elemAt (block.drop 1) w i))).scale ((b : Int) - 126 - tbP four)

/-! ## ZR (R114) -/

/-- Splits a list into maximal runs of zero and of non-zero elements. -/
def zrRuns : List Nat → List (Bool × List Nat)
  | [] => []
  | x :: xs =>
    let z := x == 0
    match zrRuns xs with
    | (z', r) :: rest => if z == z' then (z, x :: r) :: rest else (z, [x]) :: (z', r) :: rest
    | [] => [(z, [x])]

/-- The chunks of at most k elements of a list. -/
def chunksOf {α : Type} (k : Nat) : Nat → List α → List (List α)
  | 0, _ => []
  | fuel + 1, l => if l.isEmpty then [] else l.take k :: chunksOf k fuel (l.drop k)

/-- The tokens of a run. -/
def zrTokens (w : Nat) (r : Bool × List Nat) : List Byte :=
  ((chunksOf 128 (r.2.length + 1) r.2).map (fun c =>
    if r.1 then leBytes 1 (c.length - 1) else leBytes 1 (128 + c.length - 1) ++ (c.map (leBytes w)).flatten)).flatten

/-- One ZR frame of at most 65,536 elements of w bytes. -/
def zrFrame (w : Nat) (xs : List Nat) : List Byte :=
  let body := ((zrRuns xs).map (zrTokens w)).flatten
  leBytes 4 (xs.length - 1 + Nat.log2 w * 65536) ++ leBytes 4 body.length ++ body

/-- Input bytes as ZR frames (R113, R238): frames of 65,536 elements, the last one shorter. -/
def zrEncode (w : Nat) (bs : List Byte) : List Byte :=
  let xs := (List.range (bs.length / w)).map (fun i => leAt bs (i * w) w)
  ((chunksOf 65536 (xs.length + 1) xs).map (zrFrame w)).flatten

/-- How a frame decodes: the bytes produced, the bytes of the frame, and the offset of an error (R116). -/
structure Decoded where
  out : List Byte
  used : Nat
  err : Option Nat
deriving DecidableEq, Repr

/-- Decodes the tokens of a ZR frame: `at'` is the offset of the next token in the frame, `left` the elements still due. -/
def zrBody (w len : Nat) : Nat → Nat → Nat → List Byte → List Byte → Decoded
  | 0, at', _, _, out => ⟨out, at', some at'⟩
  | fuel + 1, at', left, rest, out =>
    if left = 0 then (if at' = 8 + len then ⟨out, 8 + len, none⟩ else ⟨out, 8 + len, some at'⟩)
    else if 8 + len ≤ at' then ⟨out, 8 + len, some (8 + len)⟩
    else
      let c := leAt rest 0 1
      let n := c % 128 + 1
      let data := if c < 128 then 0 else n * w
      if left < n || 8 + len < at' + 1 + data || rest.length < 1 + data then ⟨out, 8 + len, some at'⟩
      else zrBody w len fuel (at' + 1 + data) (left - n) (rest.drop (1 + data))
        (out ++ (if c < 128 then zeroBytes (n * w) else bsub rest 1 data))

/-- Decodes the ZR frame at the start of bs. -/
def zrDecodeFrame (bs : List Byte) : Decoded :=
  let h := leAt bs 0 4
  let len := leAt bs 4 4
  if bs.length < 8 || fld h 18 14 ≠ 0 then ⟨[], 8 + len, some 0⟩
  else zrBody (2 ^ fld h 16 2) len (bs.length + 2) 8 (fld h 0 16 + 1) (bs.drop 8) []

/-! ## LZS (R115) -/

/-- The length of the match of xs (what follows p) with ys (what follows p - o), up to n. -/
def matchLen : Nat → List Byte → List Byte → Nat
  | 0, _, _ => 0
  | n + 1, x :: xs, y :: ys => if x = y then matchLen n xs ys + 1 else 0
  | _, _, _ => 0

/-- The best match at p: the largest length of at least 4, with its smallest offset. -/
def lzsBest (input : List Byte) (p : Nat) : Nat × Nat :=
  let here := input.drop p
  let cap := min 16451 (input.length - p)
  (List.range (min p 65535)).foldl (fun best i =>
    let l := matchLen cap here (input.drop (p - (i + 1)))
    if 4 ≤ l && best.1 < l then (l, i + 1) else best) (0, 0)

/-- Literal bytes as tokens. -/
def lzsLits (lit : List Byte) : List Byte :=
  ((chunksOf 64 (lit.length + 1) lit).map (fun c => leBytes 1 (c.length - 1) ++ c)).flatten

/-- A copy token. -/
def lzsCopy (l o : Nat) : List Byte :=
  if l ≤ 67 then leBytes 1 (64 + l - 4) ++ leBytes 2 o
  else leBytes 1 (128 + (l - 68) / 256) ++ leBytes 1 ((l - 68) % 256) ++ leBytes 2 o

/-- The greedy procedure of R115 from position p. -/
def lzsGreedy (input : List Byte) : Nat → Nat → List Byte → List Byte → List Byte
  | 0, _, lit, out => out ++ lzsLits lit
  | fuel + 1, p, lit, out =>
    if input.length ≤ p then out ++ lzsLits lit
    else
      let b := lzsBest input p
      if b.1 = 0 then lzsGreedy input fuel (p + 1) (lit ++ bsub input p 1) out
      else lzsGreedy input fuel (p + b.1) [] (out ++ lzsLits lit ++ lzsCopy b.1 b.2)

/-- One LZS frame of at most 65,536 bytes. -/
def lzsFrame (input : List Byte) : List Byte :=
  let tok := lzsGreedy input (input.length + 1) 0 [] []
  if tok.length < input.length then leBytes 4 input.length ++ leBytes 4 tok.length ++ tok
  else leBytes 4 (input.length + 2 ^ 17) ++ leBytes 4 input.length ++ input

/-- Input bytes as LZS frames. -/
def lzsEncode (bs : List Byte) : List Byte := ((chunksOf 65536 (bs.length + 1) bs).map lzsFrame).flatten

/-- n bytes copied from `o` bytes back, repeating what it has copied. -/
def copyBack : Nat → Nat → List Byte → List Byte
  | 0, _, out => out
  | n + 1, o, out => copyBack n o (out ++ bsub out (out.length - o) 1)

/-- Decodes the tokens of an LZS frame. -/
def lzsBody (inLen len : Nat) : Nat → Nat → List Byte → List Byte → Decoded
  | 0, at', _, out => ⟨out, 8 + len, some at'⟩
  | fuel + 1, at', rest, out =>
    if out.length = inLen then (if at' = 8 + len then ⟨out, 8 + len, none⟩ else ⟨out, 8 + len, some at'⟩)
    else if 8 + len ≤ at' then ⟨out, 8 + len, some (8 + len)⟩
    else
      let c := leAt rest 0 1
      let k := c / 64
      let (size, n) :=
        if k = 0 then (2 + c % 64, c % 64 + 1)
        else if k = 1 then (3, c % 64 + 4)
        else (4, 68 + (c % 64 * 256 + leAt rest 1 1))
      let o := if k = 1 then leAt rest 1 2 else leAt rest 2 2
      if k = 3 || 8 + len < at' + size || rest.length < size || inLen < out.length + n ||
          (k ≠ 0 && (o = 0 || out.length < o)) then ⟨out, 8 + len, some at'⟩
      else lzsBody inLen len fuel (at' + size) (rest.drop size) (if k = 0 then out ++ bsub rest 1 n else copyBack n o out)

/-- Decodes the LZS frame at the start of bs. R116 lists no case for a source that ends inside a frame: the model rejects it at 0 where the
header is cut short, at 8 where a stored frame is, and at the token whose bytes are missing (DESIGN CHOICE, log entry 136). -/
def lzsDecodeFrame (bs : List Byte) : Decoded :=
  let h := leAt bs 0 4
  let len := leAt bs 4 4
  let inLen := fld h 0 17
  if bs.length < 8 || fld h 18 14 ≠ 0 || inLen = 0 || 65536 < inLen || (bit h 17 && len ≠ inLen) then ⟨[], 8 + len, some 0⟩
  else if bit h 17 then
    (if bs.length < 8 + len then ⟨bs.drop 8, 8 + len, some 8⟩ else ⟨bsub bs 8 len, 8 + len, none⟩)
  else lzsBody inLen len (bs.length + 2) 8 (bs.drop 8) []

/-- Decodes a stream of frames: all the output before the first error, and the error's offset within its frame. -/
def decodeFrames (one : List Byte → Decoded) : Nat → List Byte → List Byte → List Byte × Option Nat
  | 0, _, out => (out, none)
  | fuel + 1, bs, out =>
    if bs.isEmpty then (out, none)
    else
      let d := one bs
      match d.err with
      | some e => (out ++ d.out, some e)
      | none => decodeFrames one fuel (bs.drop d.used) (out ++ d.out)

end Sys2Proof.Machine
end

