-- ==== Sys2Proof/Machine/UnitOps.lean ====
section
/-! DEFINITION. The vector, tensor and special-function units as shared operations (R103 to R107, R134 to R136, R518):
operands in the store, lanes and masks, and what a unit leaves for its finish (R124, R133, R140). -/

namespace Sys2Proof.Machine

/-! ## Operands -/

/-- The store word tag of an element code (R134). -/
def fmtTag (c : Nat) : Nat := match c with
  | 1 => tgF32x2 | 2 => tgBf16x4 | 3 => tgF16x4 | 0xB => tgI32x2 | 0xC => tgInt | _ => tgUint

/-- An operand: store address, layout (R135), bytes, and the tag its words carry. -/
structure Opnd where
  addr : Nat
  paired : Bool
  bytes : Nat
  tag : Nat
deriving Repr

/-- The store address of word i of an operand. -/
def Opnd.word (o : Opnd) (i : Nat) : Nat :=
  let off := 8 * i
  if o.paired then
    let g := off / 128
    let r := off % 128
    (if r < 64 then o.addr + 64 * g + r else o.addr + 0x8000 + 64 * g + (r - 64)) % 2 ^ 64
  else (o.addr + off) % 2 ^ 64

def Opnd.words (o : Opnd) : Nat := (o.bytes + 7) / 8

/-- What reading an operand finds: a stream to wait for, an access that is not allowed, an uncorrectable word, or the bytes
with the index of the first word whose tag is wrong. -/
inductive VRead
  | wait
  | prot (addr : Nat)
  | ue (addr : Nat)
  | ok (s : State) (bs : List Byte) (bad : Option Nat)

/-- Reads the words of an operand in order; with `check` false the old bytes are taken as they are. -/
def State.readWords (s : State) (k : Nat) (o : Opnd) : List Nat → List Byte → Option Nat → VRead
  | [], acc, bad => .ok s acc bad
  | i :: rest, acc, bad =>
    let a := o.word i
    match s.storeAt k a 8 false with
    | .bad => .prot a
    | at' =>
      if (match at' with | .own _ => s.ringWaits k (fld a 0 21) false | _ => false) then .wait
      else match s.wordAt (at'.addr.getD 0) with
        | (_, none) => .ue a
        | (s, some w) =>
          let s := match at' with | .own _ => s.ringTouch k (fld a 0 21) false | _ => s
          s.readWords k o rest (acc ++ leBytes 8 w.val) (if bad.isNone && w.tag ≠ o.tag then some i else bad)

def State.readOpnd (s : State) (k : Nat) (o : Opnd) : VRead := s.readWords k o (List.range o.words) [] none

/-- Reads several operands in order. -/
def State.readOpnds (s : State) (k : Nat) : List Opnd → List (List Byte × Option Nat) → (Except VRead (State × List (List Byte × Option Nat)))
  | [], acc => .ok (s, acc)
  | o :: rest, acc => match s.readOpnd k o with
    | .ok s bs bad => s.readOpnds k rest (acc ++ [(bs, bad)])
    | r => .error r

/-- Whether an operand may be written: the address that may not be, or a stream to wait for. -/
inductive VWrite
  | wait
  | prot (addr : Nat)
  | fine

def State.writeCheck (s : State) (k : Nat) (o : Opnd) : VWrite :=
  match (List.range o.words).find? (fun i => match s.storeAt k (o.word i) 8 true with | .bad => true | _ => false) with
  | some i => .prot (o.word i)
  | none =>
    if (List.range o.words).any (fun i => match s.storeAt k (o.word i) 8 true with
        | .own _ => s.ringWaits k (fld (o.word i) 0 21) true | _ => false) then .wait
    else .fine

/-- One field written into an operand: bit offset, width, bits. -/
abbrev VOut := Nat × Nat × Nat

/-- The words of an operand that fields fall in, and those of them that the fields cover only in part: the old bits are read there. -/
def touchedWords (o : Opnd) (fs : List VOut) : List Nat :=
  (List.range o.words).filter (fun i => fs.any (fun f => f.1 < 64 * (i + 1) && 64 * i < f.1 + f.2.1))
def mergedWords (o : Opnd) (fs : List VOut) : List Nat :=
  (touchedWords o fs).filter (fun i =>
    (fs.map (fun f => if f.1 < 64 * (i + 1) && 64 * i < f.1 + f.2.1 then min (f.1 + f.2.1) (64 * (i + 1)) - max f.1 (64 * i) else 0)).sum < 64)

/-- Reads the words of an operand that a write merges with, in order: the address of one that cannot be read, if any (R68). -/
def State.mergeRead (s : State) (k : Nat) (o : Opnd) : List Nat → State × Option Nat
  | [] => (s, none)
  | i :: rest => match s.readWord (((s.storeAt k (o.word i) 8 true).addr).getD 0) with
    | (s, false) => (s, some (o.word i))
    | (s, true) => s.mergeRead k o rest

/-- The windows of the store-slot requests that words of an operand take: one for every 64 B line in a neighbour's store (R75). -/
def nbrLines (o : Opnd) (words : List Nat) : List Nat :=
  ((words.map (fun i => o.word i / 64)).eraseDups.filter (fun l => 1 ≤ fld (64 * l) 21 3 && fld (64 * l) 21 3 ≤ 4)).map (fun l => fld (64 * l) 21 3)

/-- s with fields of an operand written; every word touched gets the operand's tag and a fresh check (R134). -/
def State.writeFields (s : State) (k : Nat) (o : Opnd) (fs : List VOut) : State :=
  (touchedWords o fs).foldl (fun s i =>
    let a := o.word i
    match s.storeAt k a 8 true with
    | .bad => s
    | at' =>
      let m := at'.addr.getD 0
      let old := Mem.num s.mem.bytes m 8
      let new := fs.foldl (fun v f =>
        if f.1 < 64 * (i + 1) && 64 * i < f.1 + f.2.1 then
          if 64 * i ≤ f.1 then setFld v (f.1 - 64 * i) f.2.1 f.2.2 % 2 ^ 64
          else setFld v 0 (f.1 + f.2.1 - 64 * i) (f.2.2 >>> (64 * i - f.1))
        else v) old
      let s := s.putWord m ⟨o.tag, new⟩
      match at' with | .own _ => s.ringTouch k (fld a 0 21) true | _ => s) s

/-! ## Lanes -/

/-- Whether the lane of element i is enabled (R126, R135). -/
def Enc.laneOn (e : Enc) (q : Seq) (lanes i : Nat) : Bool := match e.lmask with
  | none => true
  | some x => xor (bit (q.mask (x % 4)) (i % lanes)) (bit x 2)

/-- Elements of a vector or special-function instruction (R126, R135). -/
def Enc.elems (e : Enc) (q : Seq) (lanes : Nat) : Nat := match e.countOf q with
  | some c => c * lanes
  | none => q.vl

/-- The stochastic bits of element i (R95, R135): i is the element's place in the operand, disabled lanes before it counted as well (DEDUCED,
log entry 142). -/
def Seq.sr (q : Seq) (i : Nat) : Nat := srBits q.seed q.step (q.sridx + i)

/-! ## A unit's instruction -/

/-- What a unit computed: fields to write by operand, flags, tile elements, and the lane group a deferred trap arose in
with its cause. -/
structure UnitRes where
  outs : List (Opnd × List VOut)
  flags : Nat
  tiles : List (Nat × Nat)
  trap : Option (Nat × Nat)

/-- The first failing group of the sources: each with the lane group of a word. -/
def firstBad (rs : List (List Byte × Option Nat)) (groups : List (Nat → Nat)) : Option Nat :=
  ((rs.zip groups).filterMap (fun p => p.1.2.map p.2)).min?

/-- Runs an instruction of unit u (0 vector, 1 tensor, 2 special function): address registers by operand position, their
alignment, the accesses, then `f` on the bytes read and the first failing group. Lines in neighbours' stores wait for their request slots
first, in the sequencer (R75, log entry 133). The results are written at issue; flags and a deferred trap wait for the finish (R124, R133,
R140). -/
def unitBody (u : Nat) (regs : List (Nat × Nat)) (srcs dsts : List Opnd) (groups : List (Nat → Nat)) (empty : Bool)
    (f : List (List Byte) → Option Nat → UnitRes) (s : State) (k : Nat) (q : Seq) (e : Enc) : Did :=
  match regs.find? (fun r => (q.reg r.2).tag ≠ tgUint) with
  | some r => .trap s cTag (e.tagTval q (match regs.find? (fun x => x.1 = 3) with | some d => (q.reg d.2).tag | none => 0) r.1)
  | none =>
    if 6 ≤ e.rnd.getD 0 then .trap s cTag (tagTval1 0 8)
    else if Tbl.has q.units u then .wait s
    else if empty then .done s 1 0
    else match regs.find? (fun r => (q.reg r.2).val % 64 ≠ 0) with
      | some r => .trap s cAlign (q.reg r.2).val
      | none => match s.readOpnds k srcs [] with
        | .error (.prot a) => .mc s mcProtection a
        | .error (.ue a) => .mc s mcStoreUe a
        | .error _ => .wait s
        | .ok (s', rs) =>
          match (dsts.map (s.writeCheck k)).find? (fun r => match r with | .fine => false | _ => true) with
          | some (.prot a) => .mc s mcProtection a
          | some _ => .wait s
          | none =>
            let bad := firstBad rs groups
            let r := f (rs.map Prod.fst) bad
            let need := (srcs.map (fun o => nbrLines o (List.range o.words))).flatten ++ (r.outs.map (fun o => nbrLines o.1 (touchedWords o.1 o.2))).flatten
            if !need.isEmpty && q.slotsDone ≠ some q.pc then .slots s need
            else
            let merged := r.outs.foldl (fun (acc : State × Option Nat) o => match acc.2 with
              | some _ => acc
              | none => acc.1.mergeRead k o.1 (mergedWords o.1 o.2)) (s', none)
            match merged.2 with
            | some a => .mc s mcStoreUe a
            | none =>
            let s := r.outs.foldl (fun s o => s.writeFields k o.1 o.2) merged.1
            let trap := match r.trap with
              | some (c, g) => some (c, 2 ^ 63 + g % 2 ^ 21 * 2 ^ 32 + q.pc, e.len)
              | none => bad.map (fun g => (cTag, 2 ^ 63 + g % 2 ^ 21 * 2 ^ 32 + q.pc, e.len))
            .done (s.updSeq k (fun q => { q with
              slotsDone := none, units := Tbl.put q.units u ⟨r.flags, trap⟩
              tiles := r.tiles.foldl (fun t x => Tbl.set t x.1 x.2 0) q.tiles })) 1 0

/-- The operand an address register names. -/
def mkOpnd (q : Seq) (reg : Nat) (paired : Bool) (bits tag : Nat) : Opnd := ⟨(q.reg reg).val, paired, (bits + 7) / 8, tag⟩

/-- The lane group of a word of an operand with elements of w bits. -/
def wordGroup (w lanes i : Nat) : Nat := 64 * i / (w * lanes)

/-- An elementwise instruction: sources of widths and tags given (position, register, paired, width, tag), one destination
of w bits an element; `g` maps the source elements of i to bits and flags. A DZ with CS.DZ_TRAP is a deferred trap, and
no lane group from its own on is written (R99, R140). -/
def elementwise (u lanes n : Nat) (srcs : List (Nat × Nat × Bool × Nat × Nat)) (d : Nat × Bool × Nat × Nat)
    (g : Nat → List Nat → Nat × Nat) (s : State) (k : Nat) (q : Seq) (e : Enc) : Did :=
  let ops := srcs.map (fun x => mkOpnd q x.2.1 x.2.2.1 (n * x.2.2.2.1) x.2.2.2.2)
  let dst := mkOpnd q d.1 d.2.1 (n * d.2.2.1) d.2.2.2
  let regs := (srcs.map (fun x => (x.1, x.2.1))).filter (fun x => x.1 ≠ 3) ++ [(3, d.1)]
  unitBody u regs ops [dst] (srcs.map (fun x => wordGroup x.2.2.2.1 lanes)) (n = 0)
    (fun bs bad =>
      let lim := match bad with | some b => min n (b * lanes) | none => n
      let es := ((bs.zip srcs).map (fun p => (p.1, p.2.2.2.2.1)))
      let rs : List (Nat × Nat × Nat) := ((List.range lim).filter (e.laneOn q lanes)).map (fun i => (i, g i (es.map (fun p => elemAt p.1 p.2 i))))
      let dz := if q.dzTrap then (rs.find? (fun (r : Nat × Nat × Nat) => r.2.2 &&& fDZ ≠ 0)).map (fun (r : Nat × Nat × Nat) => r.1 / lanes) else none
      let keep := match dz with | some b => rs.filter (fun (r : Nat × Nat × Nat) => r.1 < b * lanes) | none => rs
      { outs := [(dst, keep.map (fun r => (r.1 * d.2.2.1, d.2.2.1, r.2.1)))]
        flags := keep.foldl (fun fl (r : Nat × Nat × Nat) => fl ||| r.2.2) (if dz.isSome then fDZ else 0)
        tiles := [], trap := dz.map (fun b => (cDz, b)) }) s k q e

end Sys2Proof.Machine
end

