-- ==== Sys2Proof/Machine/Units.lean ====
section
/-! DEFINITION. Vector, tensor and special-function instructions (R101, R103 to R107, R110, R111, R131, R134 to R136,
R512, R518). -/

namespace Sys2Proof.Machine

/-! ## Elementwise vector instructions -/

/-- One integer lane at width w: 0 add, 1 subtract, 2 multiply, 3 c + a × b, 4 minimum, 5 maximum; it wraps, or saturates
(R98), and sets OV when the exact value does not fit (DEDUCED from R99's integer overflow, log entry 29). -/
def intLane (kind w : Nat) (sat : Bool) (a b c : Nat) : Nat × Nat :=
  let x := signed w a
  let y := signed w b
  let v := match kind with
    | 0 => x + y | 1 => x - y | 2 => x * y | 3 => signed w c + x * y | 4 => min x y | _ => max x y
  let hi : Int := ((2 ^ (w - 1) : Nat) : Int) - 1
  let lo : Int := -((2 ^ (w - 1) : Nat) : Int)
  (wrapInt w (if sat && hi < v then hi else if sat && v < lo then lo else v), if v < lo || hi < v then fOV else 0)

/-- One lane of format code c. -/
def vecLane (kind c mode : Nat) (sat : Bool) (xs : List Nat) : Nat × Nat :=
  match fmtOf c with
  | some f => fpLane kind f mode sat (nth xs 0 0) (nth xs 1 0) (nth xs 2 0)
  | none => intLane kind (codeBits c) false (nth xs 0 0) (nth xs 1 0) (nth xs 2 0)

/-- The destination of a form-6 instruction, and its sources a and b, with element width w and tag t. -/
def Enc.opndD (e : Enc) (w t : Nat) : Nat × Bool × Nat × Nat := (e.rd, bit e.a 6, w, t)
def Enc.opndA (e : Enc) (w t : Nat) : Nat × Nat × Bool × Nat × Nat := (1, e.a % 32, bit e.a 7, w, t)
def Enc.opndB (e : Enc) (w t : Nat) : Nat × Nat × Bool × Nat × Nat := (2, e.b % 32, bit e.b 7, w, t)
def Enc.opndD' (e : Enc) (w t : Nat) : Nat × Nat × Bool × Nat × Nat := (3, e.rd, bit e.a 6, w, t)

/-- d ← a op b in one format. -/
def vecBody (kind : Nat) (s : State) (k : Nat) (q : Seq) (e : Enc) : Did :=
  let c := e.imm % 16
  let w := codeBits c
  let t := fmtTag c
  let L := lanesOf c
  elementwise 0 L (e.elems q L) ([e.opndA w t, e.opndB w t] ++ (if kind = 3 then [e.opndD' w t] else [])) (e.opndD w t)
    (fun _ xs => vecLane kind c (e.mode q) q.sat xs) s k q e

def opVadd := vecBody 0
def opVsub := vecBody 1
def opVmul := vecBody 2
def opVfma := vecBody 3
def opVmin := vecBody 4
def opVmax := vecBody 5

/-- VADDS, VSUBS: saturating integers. -/
def vecSat (kind : Nat) (s : State) (k : Nat) (q : Seq) (e : Enc) : Did :=
  let c := e.imm % 16
  let w := codeBits c
  let L := lanesOf c
  elementwise 0 L (e.elems q L) [e.opndA w (fmtTag c), e.opndB w (fmtTag c)] (e.opndD w (fmtTag c))
    (fun _ xs => intLane kind w true (nth xs 0 0) (nth xs 1 0) 0) s k q e

def opVadds := vecSat 0
def opVsubs := vecSat 1

/-- VABS, VNEG of one lane: the sign of a floating value, NaN becoming canonical; an integer negated with wrap. -/
def absNegLane (neg : Bool) (c : Nat) (x : Nat) : Nat × Nat :=
  match fmtOf c with
  | some f =>
    let v := f.decode x
    (if v.isNan then f.nanBits else setBit x (codeBits c - 1) (neg && !bit x (codeBits c - 1)), 0)
  | none =>
    let w := codeBits c
    let v := signed w x
    let r := if neg || v < 0 then -v else v
    (wrapInt w r, if r = ((2 ^ (w - 1) : Nat) : Int) then fOV else 0)

def vecUnary (neg : Bool) (s : State) (k : Nat) (q : Seq) (e : Enc) : Did :=
  let c := e.imm % 16
  let w := codeBits c
  let L := lanesOf c
  elementwise 0 L (e.elems q L) [e.opndA w (fmtTag c)] (e.opndD w (fmtTag c)) (fun _ xs => absNegLane neg c (nth xs 0 0)) s k q e

def opVabs := vecUnary false
def opVneg := vecUnary true

/-- One lane of VCMPEQ 0, VCMPLT 1, VCMPLE 2: a byte 0 or 1; ordering a NaN is invalid (R97). -/
def cmpLane (kind c a b : Nat) : Nat × Nat :=
  match fmtOf c with
  | some f =>
    let x := f.decode a
    let y := f.decode b
    let nan := x.isNan || y.isNan
    (b2n (match kind with | 0 => FV.eqv x y | 1 => FV.lt x y | _ => !nan && (FV.lt x y || FV.eqv x y)), if nan && kind ≠ 0 then fOV else 0)
  | none =>
    let x := signed (codeBits c) a
    let y := signed (codeBits c) b
    (b2n (match kind with | 0 => decide (x = y) | 1 => decide (x < y) | _ => decide (x ≤ y)), 0)

def vecCmp (kind : Nat) (s : State) (k : Nat) (q : Seq) (e : Enc) : Did :=
  let c := e.imm % 16
  let w := codeBits c
  let L := lanesOf c
  elementwise 0 L (e.elems q L) [e.opndA w (fmtTag c), e.opndB w (fmtTag c)] (e.opndD 8 tgUint)
    (fun _ xs => cmpLane kind c (nth xs 0 0) (nth xs 1 0)) s k q e

def opVcmpeq := vecCmp 0
def opVcmplt := vecCmp 1
def opVcmple := vecCmp 2

/-- VSEL: a is a byte vector, b and d are of the format (R518). -/
def opVsel (s : State) (k : Nat) (q : Seq) (e : Enc) : Did :=
  let c := e.imm % 16
  let w := codeBits c
  let L := lanesOf c
  elementwise 0 L (e.elems q L) [e.opndA 8 tgUint, e.opndB w (fmtTag c), e.opndD' w (fmtTag c)] (e.opndD w (fmtTag c))
    (fun _ xs => (if nth xs 0 0 ≠ 0 then nth xs 1 0 else nth xs 2 0, 0)) s k q e

/-- VCVT (R94 to R98). Of an instruction's two formats the source's gives the lanes for CNT, LMASK and the lane groups (DESIGN CHOICE, log
entry 141). -/
def opVcvt (s : State) (k : Nat) (q : Seq) (e : Enc) : Did :=
  let c := e.imm % 16
  let d := e.imm / 16
  let L := lanesOf c
  elementwise 0 L (e.elems q L) [e.opndA (codeBits c) (fmtTag c)] (e.opndD (codeBits d) (fmtTag d))
    (fun i xs => convert c d (e.mode q) q.sat (q.sr i) (nth xs 0 0)) s k q e

/-! ## Reductions (R135) -/

/-- A reduction step of two values. -/
def redLane (isMax : Bool) (c mode : Nat) (sat : Bool) (a b : Nat) : Nat × Nat := vecLane (if isMax then 5 else 0) c mode sat [a, b]

/-- Combines the lanes by halving: lane j with lane j + n/2; a lane that holds nothing leaves the other as it is. -/
def halve (f : Nat → Nat → Nat × Nat) : Nat → List (Option Nat) → Nat → Option Nat × Nat
  | 0, l, fl => (l.headD none, fl)
  | fuel + 1, l, fl =>
    if l.length ≤ 1 then (l.headD none, fl)
    else
      let h := l.length / 2
      let ps := (List.range h).map (fun j => match nth l j none, nth l (j + h) none with
        | some a, some b => (some (f a b).1, (f a b).2)
        | some a, none => (some a, 0)
        | none, x => (x, 0))
      halve f fuel (ps.map Prod.fst) (ps.foldl (fun g p => g ||| p.2) fl)

/-- VREDSUM, VREDMAX: lane j accumulates its enabled elements in increasing order, then the lanes are halved. A vector
with no enabled element writes nothing (log entry 30). -/
def vecReduce (isMax : Bool) (s : State) (k : Nat) (q : Seq) (e : Enc) : Did :=
  let c := e.imm % 16
  let w := codeBits c
  let L := lanesOf c
  let n := e.elems q L
  let f := redLane isMax c (e.mode q) q.sat
  let dst := mkOpnd q e.rd (bit e.a 6) w (fmtTag c)
  unitBody 0 [(1, e.a % 32), (3, e.rd)] [mkOpnd q (e.a % 32) (bit e.a 7) (n * w) (fmtTag c)] [dst] [wordGroup w L] (n = 0)
    (fun bs bad =>
      if bad.isSome then ⟨[], 0, [], none⟩
      else
        let lane := fun j => ((List.range n).filter (fun i => i % L = j && e.laneOn q L i)).foldl (fun (acc : Option Nat × Nat) i =>
          let x := elemAt (nth bs 0 []) w i
          match acc.1 with
          | none => (some x, acc.2)
          | some a => (some (f a x).1, acc.2 ||| (f a x).2)) (none, 0)
        let ls := (List.range L).map lane
        let r := halve f L (ls.map Prod.fst) (ls.foldl (fun g p => g ||| p.2) 0)
        match r.1 with
        | none => ⟨[], 0, [], none⟩
        | some v =>
          -- R93, R512: a NaN is the canonical one, a reduction of one element included
          let v := match fmtOf c with | some g => if (g.decode v).isNan then g.nanBits else v | none => v
          ⟨[(dst, [(0, w, v)])], r.2, [], none⟩) s k q e

def opVredsum := vecReduce false
def opVredmax := vecReduce true

/-! ## Block formats -/

/-- The lane group of the first element of the block that a byte of an array of blocks lies in. -/
def blockGroup (bytes lanes i : Nat) : Nat := 8 * i / bytes * 32 / lanes

/-- VQTB8, VQTB4 (R110): a disabled lane counts as +0 and its field is not written. -/
def vecQtb (four : Bool) (s : State) (k : Nat) (q : Seq) (e : Enc) : Did :=
  let c := e.imm % 16
  let w := codeBits c
  let L := lanesOf c
  let n := e.elems q L
  let nb := ceilDiv n 32
  let qb := if four then 4 else 8
  let dst := mkOpnd q e.rd (bit e.a 6) (8 * nb * tbBytes four) tgUint
  unitBody 0 [(1, e.a % 32), (3, e.rd)] [mkOpnd q (e.a % 32) (bit e.a 7) (n * w) (fmtTag c)] [dst] [wordGroup w L] (n = 0)
    (fun bs bad =>
      let lim := match bad with | some b => min n (b * L) | none => n
      let f := (fmtOf c).getD .binary32
      let rs := (List.range (if lim = n then nb else lim / 32)).map (fun b =>
        let idx := (List.range 32).map (fun i => 32 * b + i)
        let on := fun i => decide (i < n) && e.laneOn q L i
        let enc := tbEncode four (e.mode q) (fun i => q.sr (32 * b + i))
          (idx.map (fun i => if on i then f.decode (elemAt (nth bs 0 []) w i) else FV.zero))
        let at' := 8 * tbBytes four * b
        ((if idx.any on then [(at', 8, leAt enc.1 0 1)] else []) ++
          (idx.filter (fun i => on i || n ≤ i)).map (fun i => (at' + 8 + qb * (i % 32), qb, elemAt (enc.1.drop 1) qb (i % 32))), enc.2))
      ⟨[(dst, (rs.map Prod.fst).flatten)], rs.foldl (fun g r => g ||| r.2) 0, [], none⟩) s k q e

def opVqtb8 := vecQtb false
def opVqtb4 := vecQtb true

/-- VDQTB8, VDQTB4 (R111). -/
def vecDqtb (four : Bool) (s : State) (k : Nat) (q : Seq) (e : Enc) : Did :=
  let c := e.imm % 16
  let w := codeBits c
  let L := lanesOf c
  let n := e.elems q L
  let f := (fmtOf c).getD .binary32
  let dst := mkOpnd q e.rd (bit e.a 6) (n * w) (fmtTag c)
  unitBody 0 [(1, e.a % 32), (3, e.rd)] [mkOpnd q (e.a % 32) false (8 * ceilDiv n 32 * tbBytes four) tgUint] [dst] [blockGroup (tbBytes four) L] (n = 0)
    (fun bs bad =>
      let lim := match bad with | some b => min n (b * L) | none => n
      let rs := ((List.range lim).filter (e.laneOn q L)).map (fun i =>
        (i, f.round (e.mode q) q.sat (q.sr i) (tbValue four (bsub (nth bs 0 []) (i / 32 * tbBytes four) (tbBytes four)) (i % 32))))
      ⟨[(dst, rs.map (fun r => (r.1 * w, w, r.2.1)))], rs.foldl (fun g r => g ||| r.2.2) 0, [], none⟩) s k q e

def opVdqtb8 := vecDqtb false
def opVdqtb4 := vecDqtb true

/-- VQMX (R101): element data to d, one scale byte a block to the address in g(src2). A disabled lane's element counts as +0 in A and so in
the scale (DESIGN CHOICE, log entry 140). -/
def opVqmx (s : State) (k : Nat) (q : Seq) (e : Enc) : Did :=
  let c := e.imm % 16
  let m := e.imm / 16
  let w := codeBits c
  let L := lanesOf c
  let n := e.elems q L
  let nb := ceilDiv n 32
  let dst := mkOpnd q e.rd (bit e.a 6) (n * mxBits m) tgUint
  let scl := mkOpnd q (e.b % 32) false (8 * nb) tgUint
  unitBody 0 [(1, e.a % 32), (2, e.b % 32), (3, e.rd)] [mkOpnd q (e.a % 32) (bit e.a 7) (n * w) (fmtTag c)] [dst, scl] [wordGroup w L] (n = 0)
    (fun bs bad =>
      let lim := match bad with | some b => min n (b * L) | none => n
      let f := (fmtOf c).getD .binary32
      let rs := (List.range (if lim = n then nb else lim / 32)).map (fun b =>
        let idx := (List.range 32).map (fun i => 32 * b + i)
        let on := fun i => decide (i < n) && e.laneOn q L i
        let qz := mxQuant m (e.mode q) (fun i => q.sr (32 * b + i)) (idx.map (fun i => if on i then f.decode (elemAt (nth bs 0 []) w i) else FV.zero))
        (b, idx.any on, qz.1, (idx.filter on).map (fun i => (i * mxBits m, mxBits m, nth qz.2.1 (i % 32) 0)), qz.2.2))
      ⟨[(dst, (rs.map (fun r => r.2.2.2.1)).flatten), (scl, (rs.filter (fun r => r.2.1)).map (fun r => (8 * r.1, 8, r.2.2.1)))],
        rs.foldl (fun g r => g ||| r.2.2.2.2) 0, [], none⟩) s k q e

/-- VDQMX: element data from a, scales from the address in g(src2). -/
def opVdqmx (s : State) (k : Nat) (q : Seq) (e : Enc) : Did :=
  let c := e.imm % 16
  let m := e.imm / 16
  let w := codeBits c
  let L := lanesOf c
  let n := e.elems q L
  let f := (fmtOf c).getD .binary32
  let dst := mkOpnd q e.rd (bit e.a 6) (n * w) (fmtTag c)
  unitBody 0 [(1, e.a % 32), (2, e.b % 32), (3, e.rd)]
    [mkOpnd q (e.a % 32) (bit e.a 7) (n * mxBits m) tgUint, mkOpnd q (e.b % 32) false (8 * ceilDiv n 32) tgUint] [dst]
    [wordGroup (mxBits m) L, blockGroup 1 L] (n = 0)
    (fun bs bad =>
      let lim := match bad with | some b => min n (b * L) | none => n
      let rs := ((List.range lim).filter (e.laneOn q L)).map (fun i =>
        (i, f.round (e.mode q) q.sat (q.sr i) (mxValue m (elemAt (nth bs 1 []) 8 (i / 32)) (elemAt (nth bs 0 []) (mxBits m) i))))
      ⟨[(dst, rs.map (fun r => (r.1 * w, w, r.2.1)))], rs.foldl (fun g r => g ||| r.2.2) 0, [], none⟩) s k q e

/-! ## Tensor instructions (R103, R104, R136) -/

/-- TZERO. -/
def opTzero (s : State) (k : Nat) (q : Seq) (e : Enc) : Did :=
  unitBody 1 [] [] [] [] false (fun _ _ => ⟨[], 0, (List.range 64).map (fun i => (64 * e.rd + i, 0)), none⟩) s k q e

/-- TLOAD: 64 binary32 values, row-major. -/
def opTload (s : State) (k : Nat) (q : Seq) (e : Enc) : Did :=
  unitBody 1 [(1, e.a % 32)] [mkOpnd q (e.a % 32) false 2048 tgF32x2] [] [fun _ => 0] false
    (fun bs bad => if bad.isSome then ⟨[], 0, [], none⟩
      else ⟨[], 0, (List.range 64).map (fun i => (64 * e.rd + i, elemAt (nth bs 0 []) 32 i)), none⟩) s k q e

/-- TREAD: the tile in a format, row-major, rounded under the mode in effect (R103). Under SR element i takes the index sridx + i, which R135
says of vector and special-function instructions (DEDUCED, log entry 139). -/
def opTread (s : State) (k : Nat) (q : Seq) (e : Enc) : Did :=
  let c := e.imm % 16
  let w := codeBits c
  let dst := mkOpnd q (e.a % 32) false (64 * w) (fmtTag c)
  unitBody 1 [(1, e.a % 32)] [] [dst] [] false
    (fun _ _ =>
      let rs := (List.range 64).map (fun i => (i, convert 1 c (e.mode q) q.sat (q.sr i) (Tbl.get q.tiles (64 * e.rd + i) 0)))
      ⟨[(dst, rs.map (fun r => (r.1 * w, w, r.2.1)))], rs.foldl (fun g r => g ||| r.2.2) 0, [], none⟩) s k q e

/-- The value of a tensor operand's element. An INT8 element under block scales stands for MXINT8 (R100; log entry 31). -/
def tensorValue (c : Nat) (mx : Bool) (x : Nat) : FV := match fmtOf c with
  | some f => f.decode x
  | none => (FV.ofInt (signed 8 x)).scale (if mx then -6 else 0)

/-- One step of one tile element: the exact sum of the products, scaled, added with a single RNE rounding; OV when the
element is left infinite or NaN (R99, R103, R104). -/
def tensorStep (acc : Nat) (ps : List (FV × FV)) (scale : Option Int) : Nat × Nat :=
  let sum := match ps with
    | [] => FV.zero
    | p :: rest => rest.foldl (fun (v : FV) (p : FV × FV) => (FV.fma rmRNE v p.1 p.2).1) (FV.mul p.1 p.2).1
  let sum := match scale with | some x => sum.scale x | none => .nan
  let r := Fmt.binary32.round rmRNE false 0 (FV.add rmRNE (Fmt.binary32.decode acc) sum).1
  (r.1, if (Fmt.binary32.decode r.1).isFin then 0 else fOV)

/-- TMMA and TMMAX: n steps into tile rd. -/
def tensorBody (mx : Bool) (s : State) (k : Nat) (q : Seq) (e : Enc) : Did :=
  let ca := e.imm % 16
  let cb := e.imm / 16
  let n := (e.countOf q).getD q.vl
  let depth := if ca = 8 && cb = 8 then 8 else if ca = 2 || ca = 3 then 2 else 4
  let wa := codeBits ca
  let wb := codeBits cb
  let per := 32 / depth
  let ra := e.a % 32
  let rb := e.b % 32
  let regs := [(1, ra), (2, rb)] ++ (if mx then [(1, ra + 1), (2, rb + 1)] else [])
  let srcs := [mkOpnd q ra false (8 * depth * wa * n) (fmtTag ca), mkOpnd q rb false (8 * depth * wb * n) (fmtTag cb)] ++
    (if mx then [mkOpnd q (ra + 1) false (64 * ceilDiv n per) tgUint, mkOpnd q (rb + 1) false (64 * ceilDiv n per) tgUint] else [])
  unitBody 1 regs srcs [] ([fun i => 8 * i / (depth * wa), fun i => 8 * i / (depth * wb)] ++ (if mx then [fun i => i * per, fun i => i * per] else [])) (n = 0)
    (fun bs bad =>
      let lim := match bad with | some b => min n b | none => n
      let A := fun t r j => tensorValue ca mx (elemAt (nth bs 0 []) wa (8 * depth * t + depth * r + j))
      let B := fun t c j => tensorValue cb mx (elemAt (nth bs 1 []) wb (8 * depth * t + depth * c + j))
      let sc := fun (o t i : Nat) => elemAt (nth bs o []) 8 (8 * (t / per) + i)
      let cell := fun i => (List.range lim).foldl (fun (acc : Nat × Nat) t =>
        let scale : Option Int := if !mx then some 0
          else if sc 2 t (i / 8) = 0xFF || sc 3 t (i % 8) = 0xFF then none
          else some ((sc 2 t (i / 8) : Int) - 127 + ((sc 3 t (i % 8) : Int) - 127))
        let r := tensorStep acc.1 ((List.range depth).map (fun j => (A t (i / 8) j, B t (i % 8) j))) scale
        (r.1, acc.2 ||| r.2)) (Tbl.get q.tiles (64 * e.rd + i) 0, 0)
      let rs := (List.range 64).map (fun i => (64 * e.rd + i, cell i))
      ⟨[], rs.foldl (fun g r => g ||| r.2.2) 0, rs.map (fun r => (r.1, r.2.1)), none⟩) s k q e

def opTmma := tensorBody false
def opTmmax := tensorBody true

/-! ## Special functions (R105 to R107) -/

/-- 1/x correctly rounded to binary32 under RNE, for a finite x other than 0 (R105). -/
def recip32 (neg : Bool) (m : Nat) (e : Int) : Nat × Nat :=
  let p := 2 * Nat.log2 m + 64
  let t := 2 ^ p / m
  let sticky := if 2 ^ p % m = 0 then 0 else 1
  Fmt.binary32.round rmRNE false 0 (.fin neg (2 * t + sticky) (-e - p - 1))

/-- The special inputs of R106: the value and the flags, none for every other input. `fn` numbers EXP2 0, LOG2 1, RCP 2,
RSQRT 3, SIN 4, COS 5, TANH 6, ERF 7. -/
def sfnSpecial (fn : Nat) (v : FV) : Option (FV × Nat) :=
  let one := fun n => FV.fin n 1 0
  match v with
  | .nan => some (.nan, 0)
  | .inf n => match fn with
    | 0 => some (if n then FV.zero else .inf false, 0)
    | 1 => if n then some (.nan, fOV) else some (.inf false, 0)
    | 2 => some (.fin n 0 0, 0)
    | 3 => if n then some (.nan, fOV) else some (FV.zero, 0)
    | 4 => some (.nan, fOV)
    | 5 => some (.nan, fOV)
    | _ => some (one n, 0)
  | .fin n m _ =>
    if m = 0 then match fn with
      | 1 => some (.inf true, fDZ)
      | 2 => some (.inf n, fDZ)
      | 3 => some (.inf n, fDZ)
      | 4 => some (v, 0)
      | 6 => some (v, 0)
      | 7 => some (v, 0)
      | _ => none
    else match fn with
      | 0 => if !FV.lt v (.fin false 128 0) then some (.fin false 1 (128 : Int), fOV ||| fNX)
             else if FV.lt v (.fin true 150 0) then some (FV.zero, fNX) else none
      | 1 => if n then some (.nan, fOV) else none
      | 3 => if n then some (.nan, fOV) else none
      | _ => none

/-- One special-function result in an output format: bits and flags. A result in binary32 rounds under RNE. Where R105 bounds the value and
does not fix it, a free value of the function, the formats, the mode and the input stands wherever it is within the bound, and the exact
result rounded once where it is not (log entry 5). -/
def sfnLane (fn inC outC mode : Nat) (sat : Bool) (u x : Nat) : Nat × Nat :=
  let f := (fmtOf inC).getD .binary32
  let g := (fmtOf outC).getD .binary32
  let mode := if outC = 1 then rmRNE else mode
  match sfnSpecial fn (f.decode x) with
  | some (v, fl) =>
    let r := g.round mode sat u v
    (r.1, r.2 ||| fl)
  | none =>
    match fn, outC, f.decode x with
    | 2, 1, .fin neg m ex => recip32 neg m ex
    | _, _, .fin neg m ex =>
      let c := sfnOf fn neg m ex
      let r := g.round mode sat u c
      let p := Config.sfnValue fn (inC + 16 * outC + 256 * mode) x % 2 ^ codeBits outC
      let b := if sfnMeets fn outC mode g (f.decode x) c (g.decode p) then p else r.1
      (b, (if b = r.1 then r.2 &&& fOV else 0) ||| (if sfnExact fn m ex && FV.eqv (g.decode b) c then 0 else fNX))
    | _, _, _ => (g.nanBits, 0)

def sfnBody (fn : Nat) (s : State) (k : Nat) (q : Seq) (e : Enc) : Did :=
  let c := e.imm % 16
  let d := e.imm / 16
  let L := lanesOf c
  elementwise 2 L (e.elems q L) [e.opndA (codeBits c) (fmtTag c)] (e.opndD (codeBits d) (fmtTag d))
    (fun i xs => sfnLane fn c d (e.mode q) q.sat (q.sr i) (nth xs 0 0)) s k q e

/-! ## The commands -/

def opSfnExp2 := sfnBody 0
def opSfnLog2 := sfnBody 1
def opSfnRcp := sfnBody 2
def opSfnRsqrt := sfnBody 3
def opSfnSin := sfnBody 4
def opSfnCos := sfnBody 5
def opSfnTanh := sfnBody 6
def opSfnErf := sfnBody 7

/-- VADD (R131). -/
def execVadd (k upset : Nat) (s : State) : Host.Outcome State Fault Refusal := .next (s.issue k upset (· = 0xF000) opVadd)
/-- VSUB (R131). -/
def execVsub (k upset : Nat) (s : State) : Host.Outcome State Fault Refusal := .next (s.issue k upset (· = 0xF001) opVsub)
/-- VMUL (R131). -/
def execVmul (k upset : Nat) (s : State) : Host.Outcome State Fault Refusal := .next (s.issue k upset (· = 0xF002) opVmul)
/-- VFMA (R131). -/
def execVfma (k upset : Nat) (s : State) : Host.Outcome State Fault Refusal := .next (s.issue k upset (· = 0xF003) opVfma)
/-- VMIN (R512). -/
def execVmin (k upset : Nat) (s : State) : Host.Outcome State Fault Refusal := .next (s.issue k upset (· = 0xF004) opVmin)
/-- VMAX (R512). -/
def execVmax (k upset : Nat) (s : State) : Host.Outcome State Fault Refusal := .next (s.issue k upset (· = 0xF005) opVmax)
/-- VABS (R131). -/
def execVabs (k upset : Nat) (s : State) : Host.Outcome State Fault Refusal := .next (s.issue k upset (· = 0xF006) opVabs)
/-- VNEG (R131). -/
def execVneg (k upset : Nat) (s : State) : Host.Outcome State Fault Refusal := .next (s.issue k upset (· = 0xF007) opVneg)
/-- VCMPEQ (R131). -/
def execVcmpeq (k upset : Nat) (s : State) : Host.Outcome State Fault Refusal := .next (s.issue k upset (· = 0xF008) opVcmpeq)
/-- VCMPLT (R131). -/
def execVcmplt (k upset : Nat) (s : State) : Host.Outcome State Fault Refusal := .next (s.issue k upset (· = 0xF009) opVcmplt)
/-- VCMPLE (R131). -/
def execVcmple (k upset : Nat) (s : State) : Host.Outcome State Fault Refusal := .next (s.issue k upset (· = 0xF00a) opVcmple)
/-- VSEL (R518). -/
def execVsel (k upset : Nat) (s : State) : Host.Outcome State Fault Refusal := .next (s.issue k upset (· = 0xF00b) opVsel)
/-- VADDS (R131). -/
def execVadds (k upset : Nat) (s : State) : Host.Outcome State Fault Refusal := .next (s.issue k upset (· = 0xF00c) opVadds)
/-- VSUBS (R131). -/
def execVsubs (k upset : Nat) (s : State) : Host.Outcome State Fault Refusal := .next (s.issue k upset (· = 0xF00d) opVsubs)
/-- VCVT (R131). -/
def execVcvt (k upset : Nat) (s : State) : Host.Outcome State Fault Refusal := .next (s.issue k upset (· = 0xF00e) opVcvt)
/-- VREDSUM (R135). -/
def execVredsum (k upset : Nat) (s : State) : Host.Outcome State Fault Refusal := .next (s.issue k upset (· = 0xF010) opVredsum)
/-- VREDMAX (R135, R512). -/
def execVredmax (k upset : Nat) (s : State) : Host.Outcome State Fault Refusal := .next (s.issue k upset (· = 0xF011) opVredmax)
/-- VQTB8 (R110). -/
def execVqtb8 (k upset : Nat) (s : State) : Host.Outcome State Fault Refusal := .next (s.issue k upset (· = 0xF020) opVqtb8)
/-- VQTB4 (R110). -/
def execVqtb4 (k upset : Nat) (s : State) : Host.Outcome State Fault Refusal := .next (s.issue k upset (· = 0xF021) opVqtb4)
/-- VDQTB8 (R111). -/
def execVdqtb8 (k upset : Nat) (s : State) : Host.Outcome State Fault Refusal := .next (s.issue k upset (· = 0xF022) opVdqtb8)
/-- VDQTB4 (R111). -/
def execVdqtb4 (k upset : Nat) (s : State) : Host.Outcome State Fault Refusal := .next (s.issue k upset (· = 0xF023) opVdqtb4)
/-- VQMX (R101). -/
def execVqmx (k upset : Nat) (s : State) : Host.Outcome State Fault Refusal := .next (s.issue k upset (· = 0xF024) opVqmx)
/-- VDQMX (R101). -/
def execVdqmx (k upset : Nat) (s : State) : Host.Outcome State Fault Refusal := .next (s.issue k upset (· = 0xF025) opVdqmx)
/-- TZERO (R131). -/
def execTzero (k upset : Nat) (s : State) : Host.Outcome State Fault Refusal := .next (s.issue k upset (· = 0xF100) opTzero)
/-- TMMA (R136). -/
def execTmma (k upset : Nat) (s : State) : Host.Outcome State Fault Refusal := .next (s.issue k upset (· = 0xF101) opTmma)
/-- TMMAX (R136). -/
def execTmmax (k upset : Nat) (s : State) : Host.Outcome State Fault Refusal := .next (s.issue k upset (· = 0xF102) opTmmax)
/-- TLOAD (R131). -/
def execTload (k upset : Nat) (s : State) : Host.Outcome State Fault Refusal := .next (s.issue k upset (· = 0xF103) opTload)
/-- TREAD (R131). -/
def execTread (k upset : Nat) (s : State) : Host.Outcome State Fault Refusal := .next (s.issue k upset (· = 0xF104) opTread)
/-- SFN.EXP2 (R105). -/
def execSfnExp2 (k upset : Nat) (s : State) : Host.Outcome State Fault Refusal := .next (s.issue k upset (· = 0xF200) opSfnExp2)
/-- SFN.LOG2 (R105). -/
def execSfnLog2 (k upset : Nat) (s : State) : Host.Outcome State Fault Refusal := .next (s.issue k upset (· = 0xF201) opSfnLog2)
/-- SFN.RCP (R105). -/
def execSfnRcp (k upset : Nat) (s : State) : Host.Outcome State Fault Refusal := .next (s.issue k upset (· = 0xF202) opSfnRcp)
/-- SFN.RSQRT (R105). -/
def execSfnRsqrt (k upset : Nat) (s : State) : Host.Outcome State Fault Refusal := .next (s.issue k upset (· = 0xF203) opSfnRsqrt)
/-- SFN.SIN (R105). -/
def execSfnSin (k upset : Nat) (s : State) : Host.Outcome State Fault Refusal := .next (s.issue k upset (· = 0xF204) opSfnSin)
/-- SFN.COS (R105). -/
def execSfnCos (k upset : Nat) (s : State) : Host.Outcome State Fault Refusal := .next (s.issue k upset (· = 0xF205) opSfnCos)
/-- SFN.TANH (R105). -/
def execSfnTanh (k upset : Nat) (s : State) : Host.Outcome State Fault Refusal := .next (s.issue k upset (· = 0xF206) opSfnTanh)
/-- SFN.ERF (R105). -/
def execSfnErf (k upset : Nat) (s : State) : Host.Outcome State Fault Refusal := .next (s.issue k upset (· = 0xF207) opSfnErf)

/-- UNIT_INSTRUCTION_FINISH (R124, R133, R141): unit u of sequencer k (0 vector, 1 tensor, 2 special function) finishes: its
flags are set, and a trap raised inside it is deferred to the next issue. -/
def execUnitInstructionFinish (k u : Nat) (s : State) : Host.Outcome State Fault Refusal :=
  .next (match Tbl.find (s.seq k).units u with
    | none => s
    | some w => s.updSeq k (fun q => { (q.flag w.flags) with
        units := Tbl.del q.units u
        deferred := q.deferred ++ (match w.trap with | some t => [t] | none => []) }))

end Sys2Proof.Machine
end

