-- ==== Sys2Proof/Machine/Cells.lean ====
section
/-! DEFINITION. Cells and their streams: the commands of 03_cells that act on one cell (R68, R80 to R87). -/

namespace Sys2Proof.Machine

/-! ## The cell store (R68) -/

/-- CELL_STORE_CE_REWRITE (R68): the bank's next idle cycle rewrites a word of cell c that was read with a corrected
error. -/
def execCellStoreCeRewrite (c off : Nat) (s : State) : Host.Outcome State Fault Refusal :=
  .next (
    let w := cellDpa c (off / 8 * 8)
    if s.mem.rewrite.contains w then { s with mem := { s.mem with weak := setDel s.mem.weak w, rewrite := setDel s.mem.rewrite w } } else s)

/-- CELL_STORE_SCRUB (R68): the scrub reads one word of an awake store. An uncorrectable one is counted and left. -/
def execCellStoreScrub (c off : Nat) (s : State) : Host.Outcome State Fault Refusal :=
  .next (
    let w := cellDpa c (off / 8 * 8)
    if 1536 ≤ c || 0x180000 ≤ off || !s.hubAwake (c / 128) then s
    else if s.mem.bad.contains w then s.cnt (R.LAT_CELL_STORE_UE c)
    else (s.readWord w).1)

/-! ## Streams (R80 to R83) -/

/-- Row and line of a pattern's next line, after one at (row, col). -/
def strmNext (r row col : Nat) : Nat × Nat := if col < fld r 128 32 then (row, col + 1) else (row + 1, 0)

/-- A stream's state after one more line is issued: busy until the last (LAT_CELL_STRM). -/
def Strm.advance (x : Strm) (r : Nat) : Strm :=
  let p := strmNext r x.row x.col
  { x with row := p.1, col := p.2, issued := x.issued + 1, busy := x.issued + 1 < strmLines r }

/-- Whether stream j of a cell issues lines now: not in FAULTED or IDLE (R86), not behind an SFENCE with writes pending,
and S1 not while a pool access takes its request cycles (R137). -/
def State.strmMayIssue (s : State) (k j : Nat) : Bool :=
  let q := s.seq k
  (q.stream j).busy && s.hubAwake (k / 128) && s.cellState k ≠ csFaulted && s.cellState k ≠ csIdle &&
  (!q.fence || (s.cellPending k 0 = 0 && s.cellPending k 1 = 0)) &&
  (j = 0 || (match q.stall with | some (.load _ _ _ _) => false | some (.atomic _ _ _ _ _ _) => false | _ => true))

/-- STREAM_LINE_ISSUE (R80, R84): stream j of cell k issues its next line, checked against the grant table. A read line
needs free buffer space; a write line needs its words, whose tags must be the declared type. -/
def execStreamLineIssue (k j : Nat) (s : State) : Host.Outcome State Fault Refusal :=
  .next (
    if 1536 ≤ k || 2 ≤ j || !s.strmMayIssue k j then s
    else
      let s := s.updSeq k (fun q => { q with fence := false })
      let r := s.strmReg k j
      let x := (s.seq k).stream j
      let a := strmAddr r x.row x.col
      let cap := strmCap r
      if !strmWrites r then
        if cap ≤ x.issued - x.cons then s
        else if (s.grant k a 64 33).isNone then s.machineCheck k mcProtection a
        else s.updSeq k (fun q => { (q.setStream j { (x.advance r) with inFlight := x.inFlight ++ [(x.issued, a)] }) with s1 := if j = 1 then q.s1 ++ [true] else q.s1 })
      else if x.prod ≤ x.issued then s
      else
        let off := strmBuf r + x.issued % cap * 64
        match s.wordsAt (cellDpa k off) 8 [] with
        | (_, none) => s.machineCheck k mcStoreUe off
        | (s, some ws) =>
          if ws.any (fun w => w.tag ≠ strmType r) then
            s.updSeq k (fun q => { (q.setStream j { x with busy := false }) with deferred := q.deferred ++ [(cStreamTag, j + x.issued % 2 ^ 32 * 2 ^ 32, 1)] })
          else match s.grant k a 64 34 with
            | none => s.machineCheck k mcProtection a
            | some (rg, ro) =>
              let bs := (ws.map (fun w => leBytes 8 w.val)).flatten
              s.updSeq k (fun q => { (q.setStream j { (x.advance r) with cons := x.issued + 1 }) with wq := q.wq ++ [(j, a, rg.splitWrite ro bs)], s1 := if j = 1 then q.s1 ++ [false] else q.s1 }))

/-- STREAM_LINE_RETURN (R80, R83): the oldest line in flight of read stream j returns: into the ring with its declared tag,
or, uncorrectable, as a machine-check MEM_UE. A line of S1 comes behind the STPs issued before it (R137), and waits while its hub is under
a warm reset (R34). -/
def execStreamLineReturn (k j : Nat) (s : State) : Host.Outcome State Fault Refusal :=
  .next (
    let r := s.strmReg k j
    let x := (s.seq k).stream j
    match x.inFlight with
    | [] => s
    | (i, a) :: rest =>
      let down := match s.grant k a 64 33 with | some (rg, ro) => s.regionWaits rg ro 64 | none => false
      if down || (j = 1 && ((s.seq k).s1.head? = some false || s.mem.guardWait.any (fun w => w.owner = cellOwnerNum k 1))) then s
      else
      let s := s.updSeq k (fun q => { (q.setStream j { x with inFlight := rest }) with s1 := if j = 1 then q.s1.drop 1 else q.s1 })
      match s.grant k a 64 33 with
      | none => s.machineCheck k mcProtection a
      | some (rg, ro) => match s.readRegion rg ro 64 with
        | .fail s _ _ => s.machineCheck k mcMemUe a
        | .ok s bs =>
          let ws := (List.range 8).map (fun w => TW.mk (strmType r) (leAt bs (8 * w) 8))
          let s := s.putWords (cellDpa k (strmBuf r + i % strmCap r * 64)) ws
          s.updSeq k (fun q => q.setStream j { (q.stream j) with prod := i + 1 }))

/-- STREAM_WRITE_VISIBLE (R82, R137): the oldest write of stream j lands, behind any of its writes that a guarded page
holds and of S1's any line read before it; an uncorrectable line that a partial write must merge with is a machine-check MEM_UE (R230). It
waits while a hub it goes to is under a warm reset (R34). -/
def execStreamWriteVisible (k j : Nat) (s : State) : Host.Outcome State Fault Refusal :=
  .next (
    let q := s.seq k
    if s.mem.guardWait.any (fun w => w.owner = cellOwnerNum k j) then s
    else match Tbl.find s.mem.guardFail (cellOwnerNum k j) with
    | some a => (s.takeGuardFail (cellOwnerNum k j)).machineCheck k mcMemUe a
    | none => match takeFirst (fun w => w.1 = j) q.wq with
      | none => s
      | some (w, rest) =>
        if w.2.2.any (fun p => s.hubDown (p.1 / hubBytes)) || (j = 1 && q.s1.head? = some true) then s
        else
        let s := s.updSeq k (fun q => { q with wq := rest, s1 := if j = 1 then q.s1.drop 1 else q.s1 })
        w.2.2.foldl (fun s p => match s.writePiece p.1 p.2 w.2.1 (cellOwnerNum k j) with
          | .ok s _ => s
          | .fail s _ _ => s.machineCheck k mcMemUe w.2.1) s)

/-! ## Halting, stepping and fault clearing (R86) -/

/-- CELL_HALT_REQUEST (R86): halt_req = 1. -/
def execCellHaltRequest (c : Nat) (s : State) : Host.Outcome State Fault Refusal :=
  .next (if 1536 ≤ c then s else (s.wf (R.LAT_CELL_CTRL c) 0 1 1).haltCell c)

/-- CELL_RESUME (R86): halt_req = 0; a HALTED cell runs again. -/
def execCellResume (c : Nat) (s : State) : Host.Outcome State Fault Refusal :=
  .next (
    if 1536 ≤ c then s
    else
      let s := (s.wf (R.LAT_CELL_CTRL c) 0 1 0).updSeq c (fun q => { q with haltAt := false })
      if s.cellState c = csHalted then s.setCellState c csRunning else s)

/-- CELL_FAULT_CLEAR (R86): a FAULTED cell's record is cleared and it is LOADED. -/
def execCellFaultClear (c : Nat) (s : State) : Host.Outcome State Fault Refusal :=
  .next (if 1536 ≤ c || s.cellState c ≠ csFaulted then s else (s.wf (R.LAT_CELL_MCA c) 8 1 0).setCellState c csLoaded)

/-- Instructions by opcode, part 1. -/
def bodyTable0 : List (Nat × (State → Nat → Seq → Enc → Did)) := [
  (0x00, opNop), (0x01, opMov), (0x02, opMovi), (0x03, opMoviu), (0x04, opClr), (0x05, opCast), (0x06, opMkaddr),
  (0x09, opRetag), (0x20, opAdd), (0x21, opSub), (0x22, opAnd), (0x23, opOr), (0x24, opXor), (0x25, opNot),
  (0x26, opNeg), (0x27, opAbs), (0x28, opShl), (0x29, opShr), (0x2A, opSar), (0x2B, opRol), (0x2C, opRor),
  (0x2D, opMin), (0x2E, opMax), (0x30, opCmpeq), (0x31, opCmpne), (0x32, opCmplt), (0x33, opCmple),
  (0x34, opPopc), (0x35, opClz), (0x36, opCtz)]

/-- Instructions by opcode, part 2. -/
def bodyTable1 : List (Nat × (State → Nat → Seq → Enc → Did)) := [
  (0x40, opMul), (0x41, opMulh), (0x42, opMac), (0x43, opDiv), (0x50, opFadd), (0x51, opFsub), (0x52, opFmul),
  (0x53, opFfma), (0x54, opFmin), (0x55, opFmax), (0x56, opFcmpeq), (0x57, opFcmplt), (0x58, opFcmple),
  (0x59, opIcvt), (0x60, opBr), (0x61, opBrt), (0x62, opBrf), (0x63, opJmp), (0x64, opCall), (0x65, opBrk),
  (0x66, opTret), (0x67, opWend), (0x07, opMovs), (0x08, opMovg), (0x10, opLd), (0x11, opSt), (0x12, opLdp),
  (0x13, opStp), (0x14, opXadd), (0x15, opXchg)]

/-- Instructions by opcode, part 3. -/
def bodyTable2 : List (Nat × (State → Nat → Seq → Enc → Did)) := [
  (0x16, opXcas), (0x70, opSwait), (0x71, opSfence), (0x72, opChwait), (0x73, opChfree), (0x74, opChspace),
  (0x75, opChput), (0xF000, opVadd), (0xF001, opVsub), (0xF002, opVmul), (0xF003, opVfma), (0xF004, opVmin),
  (0xF005, opVmax), (0xF006, opVabs), (0xF007, opVneg), (0xF008, opVcmpeq), (0xF009, opVcmplt),
  (0xF00A, opVcmple), (0xF00B, opVsel), (0xF00C, opVadds), (0xF00D, opVsubs), (0xF00E, opVcvt),
  (0xF010, opVredsum), (0xF011, opVredmax), (0xF020, opVqtb8), (0xF021, opVqtb4), (0xF022, opVdqtb8),
  (0xF023, opVdqtb4), (0xF024, opVqmx), (0xF025, opVdqmx), (0xF100, opTzero), (0xF101, opTmma),
  (0xF102, opTmmax), (0xF103, opTload), (0xF104, opTread), (0xF200, opSfnExp2), (0xF201, opSfnLog2),
  (0xF202, opSfnRcp), (0xF203, opSfnRsqrt), (0xF204, opSfnSin), (0xF205, opSfnCos), (0xF206, opSfnTanh),
  (0xF207, opSfnErf)]

/-- What the instruction of an opcode does, for the single step of CELL_STEP: the meanings the instructions' own commands
have. Privileged opcodes end at PRIV in a cell before they would need one. -/
def bodyOf (op : Nat) : State → Nat → Seq → Enc → Did :=
  match (bodyTable0 ++ bodyTable1 ++ bodyTable2).find? (fun p => p.1 = op) with
  | some p => p.2
  | none => fun s _ _ _ => .wait s

/-- CELL_STEP (R86): a HALTED cell issues one instruction and is HALTED again. -/
def execCellStep (c upset : Nat) (s : State) : Host.Outcome State Fault Refusal :=
  .next (
    if 1536 ≤ c || !s.canIssue c true then s
    else match s.fetchAt c (s.seq c) with
      | .bad a => s.machineCheck c mcStoreUe a
      | .undef bs => s.undefTrap c bs
      | .instr e bs => s.runInstr c upset e bs (bodyOf e.op))

end Sys2Proof.Machine
end

