-- ==== Sys2Proof/Machine/PortOps.lean ====
section
/-! DEFINITION. Ports as shared operations: octet modes and sub-ports (R322), queues of the packet path and their ingress
accounting (R315, R317, R320), CRC-32C (R306, R327), the internet checksum, and the frames TMT sends (R259). -/

namespace Sys2Proof.Machine

/-! ## Octets and sub-ports (R322) -/

/-- The mode of an octet, Rsvd codes as 0. -/
def State.octetMode (s : State) (o : Nat) : Nat := let m := s.rf (R.PRT_OCTET o) 1 3; if 6 ≤ m then 0 else m

/-- Sub-ports of an Ethernet mode, and lanes of each. -/
def modeSubs (m : Nat) : Nat := match m with
  | 1 => 1 | 2 => 2 | 3 => 4 | 4 => 8 | _ => 0
def modeLanes (m : Nat) : Nat := match m with
  | 1 => 8 | 2 => 4 | 3 => 2 | 4 => 1 | _ => 0

/-- Whether a global octet and sub-port name an Ethernet sub-port that exists. -/
def State.ethPort (s : State) (o j : Nat) : Bool := decide (o < 32) && decide (j < modeSubs (s.octetMode o))

/-- The data rate of an Ethernet octet's sub-ports in bytes per ns: 200 Gb/s a lane. -/
def State.portRate (s : State) (o : Nat) : Nat := 25 * modeLanes (s.octetMode o)

/-- The port byte of R181 ([4:0] octet, [7:5] sub-port). -/
def portByte (o j : Nat) : Nat := o + 32 * j

/-- A port die and the number n of a sub-port on it (R322). -/
def dieOf (o : Nat) : Nat := o / 8
def subOf (o j : Nat) : Nat := o % 8 * 8 + j

/-! ## CRC-32C and checksums -/

/-- One bit of a reflected CRC-32C. -/
def crcBit (r : Nat) : Nat := if r % 2 = 1 then (r / 2) ^^^ 0x82F63B78 else r / 2

/-- One byte of a reflected CRC-32C. -/
def crcByte (r : Nat) (b : Byte) : Nat := crcBit (crcBit (crcBit (crcBit (crcBit (crcBit (crcBit (crcBit (r ^^^ b.toNat))))))))

/-- CRC-32C of a byte string (initial value and final inversion all ones). -/
def crc32c (bs : List Byte) : Nat := bs.foldl crcByte 0xFFFFFFFF ^^^ 0xFFFFFFFF

/-- The sum of 16-bit big-endian words of a byte string. -/
def wordSum : List Byte → Nat
  | [] => 0
  | [a] => a.toNat * 256
  | a :: b :: r => a.toNat * 256 + b.toNat + wordSum r

/-- A sum folded to 16 bits with end-around carry; three folds take any frame's sum. -/
def fold16 (n : Nat) : Nat :=
  let f := fun (k : Nat) => k % 65536 + k / 65536
  f (f (f n))

/-- The internet checksum of a byte string. -/
def ipChecksum (bs : List Byte) : Nat := 0xFFFF - fold16 (wordSum bs)

/-! ## Port dies and their queues -/

def State.die (s : State) (p : Nat) : PktDie := Tbl.get s.pkt.dies p PktDie.fresh
def State.setDie (s : State) (p : Nat) (d : PktDie) : State := { s with pkt := { s.pkt with dies := Tbl.put s.pkt.dies p d } }

/-- The default queue of a sub-port n, slice and class on a die (R315), lowest first. -/
def State.defaultQueue (s : State) (p n sl c : Nat) : Option Nat :=
  (List.range 4096).find? fun q =>
    let e := s.rd (R.TSH_QUEUE p q)
    fld e 0 6 = n && fld e 6 6 = sl && fld e 12 3 = c && bit e 15

/-- s with a frame at the end of a queue, unadmitted (R298: frames of TMT and of firmware enter at step 7). -/
def State.enqueue (s : State) (p q : Nat) (f : QFrame) : State :=
  let d := s.die p
  s.setDie p { d with queues := Tbl.put d.queues q (Tbl.get d.queues q [] ++ [f]) }

/-- Cells of 256 bytes a frame takes with its FCS (R317). -/
def frameCells (bs : List Byte) : Nat := (bs.length + 4 + 255) / 256

/-- A frame that this device originates. -/
def QFrame.own (bs : List Byte) : QFrame :=
  { bytes := bs, heads := [], edits := [], dscp := none, pcp := none, ingress := none, cells := frameCells bs, mdata := zeroBytes 256, gateHeld := false, win := none }

/-! ## Frames around a TMT packet (R259) -/

/-- True when a 16-byte address is IPv4-mapped. -/
def isV4 (ip : List Byte) : Bool := allZero (bsub ip 0 10) && leAt ip 10 2 = 0xFFFF

/-- The IP and UDP headers before n bytes of UDP payload `body`: IPv4 without options and a zero UDP checksum, or IPv6 with
the checksum computed. What the standards leave to the sender (identification, flow label) is 0, and the TTL and hop limit 64
(log entry 32). -/
def ipUdp (v6 : Bool) (dscp ecn : Nat) (src dst : List Byte) (sport dport : Nat) (body : List Byte) : List Byte :=
  let ul := 8 + body.length
  let udp := fun (ck : Nat) => beBytes 2 sport ++ beBytes 2 dport ++ beBytes 2 ul ++ beBytes 2 ck
  if v6 then
    let pseudo := src ++ dst ++ beBytes 4 ul ++ beBytes 4 17
    let ck := ipChecksum (pseudo ++ udp 0 ++ body)
    beBytes 4 (6 * 2 ^ 28 + (dscp * 4 + ecn) * 2 ^ 20) ++ beBytes 2 ul ++ beBytes 1 17 ++ beBytes 1 64 ++ src ++ dst ++ udp (if ck = 0 then 0xFFFF else ck)
  else
    let h := fun (ck : Nat) => beBytes 1 0x45 ++ beBytes 1 (dscp * 4 + ecn) ++ beBytes 2 (20 + ul) ++ beBytes 4 0 ++ beBytes 1 64 ++ beBytes 1 17 ++
      beBytes 2 ck ++ src.drop 12 ++ dst.drop 12
    h (ipChecksum (h 0)) ++ udp 0

/-- The Ethernet II header, with one 802.1Q tag of VLAN 0 where there is a tag. -/
def ethHeader (dst src : Nat) (tag : Option Nat) (v6 : Bool) : List Byte :=
  beBytes 6 dst ++ beBytes 6 src ++ (match tag with | some pcp => beBytes 2 0x8100 ++ beBytes 2 (pcp * 8192) | none => []) ++
  beBytes 2 (if v6 then 0x86DD else 0x0800)

/-- The lowest-numbered local address of a sub-port in a family (PKT_LOCAL): the source address of its frames. -/
def State.localIp (s : State) (p n : Nat) (v6 : Bool) : List Byte :=
  (((List.range 8).map (fun i => leBytes 16 (s.rd (R.PKT_LOCAL p (n * 8 + i))))).find? (fun a => !allZero a && (isV4 a ≠ v6))).getD (zeroBytes 16)

end Sys2Proof.Machine
end

