-- ==== Sys2Proof/Machine/CollOps.lean ====
section
/-! DEFINITION. Steps of collective plans as shared operations: a step's start, an arriving step check, an arriving stop
notice, and what a re-map stops (R210, R213, R214). -/

namespace Sys2Proof.Machine

/-- s with the step checks of plan n that have come compared with the running step (R210): on each QP the oldest is that of this step,
those behind it of steps this device has yet to run. A disagreement stops the step. -/
def State.matchChecks (s : State) (n : Nat) : State :=
  match Tbl.find s.colls.plans n with
  | none => s
  | some p => match p.current with
    | none => s
    | some c =>
      let mine := (p.qps.filter (fun q => !p.matched.contains q.2)).filterMap (fun q => p.checked.find? (fun k => k.1 = q.2))
      let s := s.updPlan n (fun p => { p with matched := p.matched ++ mine.map Prod.fst, checked := mine.foldl (fun l k => l.erase k) p.checked })
      if mine.all (fun k => k.2 % 2 ^ 64 = Config.stepCheck p.planId c.step c.count % 2 ^ 64) then s else s.stopPlan n stCollMismatch noUnit 0

/-- The step of a plan starts (R210, R211): its pipeline gets a wave, the step check goes out as the first packet on every
QP, and a check that has already come from a peer is compared. -/
def State.startStep (s : State) (n : Nat) (c : CStep) : State :=
  match Tbl.find s.colls.plans n with
  | none => s
  | some p =>
    let s := s.updPlan n (fun p => { p with state := 2, current := some c, matched := [], done := setDel p.done c.step })
    let r : WaveReq := { sr := c.sr, tag := c.tag, entry := 0, items := c.count, step := c.step, args := [], index := 0, armed := false, onDone := none }
    let s := s.updPipe p.pipe (fun q => { q with state := .running, wave := some ⟨r, q.waves, false, []⟩ })
    let check := Config.stepCheck p.planId c.step c.count
    let s := p.qps.foldl (fun s q => s.postMsg q.2 (ctrlMsg 2 (leBytes 8 check))) s
    s.matchChecks n

/-- The next queued step of a plan starts, where none runs. -/
def State.nextStep (s : State) (n : Nat) : State :=
  match Tbl.find s.colls.plans n with
  | none => s
  | some p => match p.current, p.queue with
    | none, c :: rest => if p.state = 3 then s else (s.updPlan n (fun p => { p with queue := rest })).startStep n c
    | _, _ => s

/-- A step check has arrived on a QP (R210): that of a step which has committed here is done with, any other waits for its step. -/
def State.stepCheckArrives (s : State) (qn check : Nat) : State :=
  (Tbl.keysWhere s.colls.plans (fun _ p => p.qps.any (fun q => q.2 = qn))).foldl (fun s n =>
    match Tbl.find s.colls.plans n with
    | none => s
    | some p =>
      if Tbl.get p.owed qn 0 ≠ 0 then s.updPlan n (fun p => { p with owed := Tbl.set p.owed qn (Tbl.get p.owed qn 0 - 1) 0 })
      else (s.updPlan n (fun p => { p with checked := p.checked ++ [(qn, check)] })).matchChecks n) s

/-- A stop notice (plan_id, step) has arrived on a QP (R213): a running or queued step stops, and with it the plan (log entry 33). -/
def State.stopNoticeArrives (s : State) (qn planId step : Nat) : State :=
  (Tbl.keysWhere s.colls.plans (fun _ p => p.planId = planId && p.qps.any (fun q => q.2 = qn))).foldl (fun s n =>
    match Tbl.find s.colls.plans n with
    | none => s
    | some p =>
      if p.steps.any (fun c => c.step = step) then s.stopSteps n (fun c => c.step = step) stCollPeerStopped noUnit 0
      else if p.done.contains step then s
      else s.updPlan n (fun p => { p with stopped := setIns p.stopped step })) s

/-- A step of a plan one of whose ranks a re-map has moved to another station stops (R214): the one that runs or is next. -/
def State.remapPlans (s : State) (moved : Nat → Bool) : State :=
  (Tbl.keysWhere s.colls.plans (fun _ p => p.ranks.any moved && (p.current.isSome || !p.queue.isEmpty))).foldl (fun s n =>
    s.stopPlan n stCollRemapped noUnit 0) s

end Sys2Proof.Machine
end

