-- ==== Sys2Proof/Machine/TmtOps.lean ====
section
/-! DEFINITION. Transport packets as shared operations: serial arithmetic (R280), header bytes (R261 to R263), the encoding of
a packet's data (R273), protection (R289), and sending a packet by a QP's port (R259, R286, R315). -/

namespace Sys2Proof.Machine

/-! ## Sequence numbers (R280) -/

/-- a − b in 32-bit serial arithmetic. -/
def psnDiff (a b : Nat) : Nat := (a + 2 ^ 32 - b % 2 ^ 32) % 2 ^ 32

/-- Whether a lies before b. -/
def psnBefore (a b : Nat) : Bool := decide (2 ^ 31 ≤ psnDiff a b)

/-! ## Header bytes -/

/-- The 32 header bytes of a packet (R261). -/
def Pkt.header (p : Pkt) : List Byte :=
  leBytes 1 (p.ptype % 16 + p.path % 16 * 16) ++
  leBytes 1 (b2n p.first + 2 * b2n p.last + 4 * b2n p.ackReq + 8 * b2n p.enc + 16 * b2n p.retx + 32 * b2n p.sched + 64 * b2n p.late + 128 * b2n p.keyPhase) ++
  leBytes 2 p.mapGen ++ leBytes 4 (p.dstQp % 2 ^ 20 + p.srcStation % 1024 * 2 ^ 20 + p.version % 4 * 2 ^ 30) ++ leBytes 4 p.psn ++ leBytes 4 p.tstamp ++
  leBytes 2 p.msn ++ leBytes 4 p.w18 ++ leBytes 6 p.addr ++ leBytes 4 p.w28

/-- Whether a packet of a type carries a trailer when it is the last of its message (R259). -/
def hasTrailer (ptype : Nat) : Bool := 1 ≤ ptype && ptype ≤ 4

/-- All bytes of a packet: header, payload, trailer, tag. -/
def Pkt.bytes (p : Pkt) : List Byte := p.header ++ p.payload ++ p.trailer ++ p.tag

/-- A packet read from its bytes (R259, R261): the tag stands apart where enc is set, the trailer where the packet is in
clear and carries one. -/
def parsePkt (bs : List Byte) (ce : Bool) : Option Pkt :=
  if bs.length < 32 then none
  else
    let w := leAt bs 4 4
    let f := leAt bs 1 1
    let body := bs.drop 32
    let enc := bit f 3
    if enc && body.length < 16 then none
    else
      let body' := if enc then body.take (body.length - 16) else body
      let tr := !enc && hasTrailer (leAt bs 0 1 % 16) && bit f 1
      if tr && body'.length < 8 then none
      else some {
        ptype := leAt bs 0 1 % 16, path := leAt bs 0 1 / 16, first := bit f 0, last := bit f 1, ackReq := bit f 2, enc := enc, retx := bit f 4
        sched := bit f 5, late := bit f 6, keyPhase := bit f 7, mapGen := leAt bs 2 2, dstQp := fld w 0 20, srcStation := fld w 20 10
        version := fld w 30 2, psn := leAt bs 8 4, tstamp := leAt bs 12 4, msn := leAt bs 16 2, w18 := leAt bs 18 4, addr := leAt bs 22 6
        w28 := leAt bs 28 4, payload := if tr then body'.take (body'.length - 8) else body'
        trailer := if tr then body'.drop (body'.length - 8) else [], tag := if enc then body.drop (body.length - 16) else [], ce := ce }

/-! ## The data of a packet (R273) -/

/-- The source format of a TB code of R270, and whether it is TB4. -/
def compFmt (comp : Nat) : Fmt := match comp with
  | 3 => .binary32 | 4 => .bfloat16 | 5 => .binary16 | 6 => .binary32 | 7 => .bfloat16 | _ => .binary16
def compFour (comp : Nat) : Bool := decide (6 ≤ comp)

/-- Bytes of a source element of a TB code. -/
def compElem (comp : Nat) : Nat := (compFmt comp).bits / 8

/-- Whether a code names a TB format. -/
def isTb (comp : Nat) : Bool := 3 ≤ comp && comp ≤ 8

/-- A piece of a message encoded as its packet carries it: TB blocks under RNE, one ZR or LZS frame, or the bytes. -/
def encodeData (comp zrw : Nat) (bs : List Byte) : List Byte :=
  if bs.isEmpty then []
  else if comp = 1 then zrEncode (2 ^ zrw) bs
  else if comp = 2 then lzsEncode bs
  else if isTb comp then
    let f := compFmt comp
    let vs := (elemsOf f.bits (bs.length / compElem comp) bs).map f.decode
    ((chunksOf 32 (vs.length + 1) vs).map (fun b => (tbEncode (compFour comp) rmRNE (fun _ => 0) b).1)).flatten
  else bs

/-- The decoded bytes of a payload, none where it does not decode (R273); a last packet's `n` bytes cut a short last block,
and every other packet gives all its bytes. -/
def decodeData (comp : Nat) (payload : List Byte) (n : Option Nat) : Option (List Byte) :=
  if payload.isEmpty then some []
  else if comp = 1 || comp = 2 then
    let r := decodeFrames (if comp = 1 then zrDecodeFrame else lzsDecodeFrame) (payload.length + 1) payload []
    if r.2.isSome then none else match n with
      | some k => if r.1.length = k then some r.1 else none
      | none => some r.1
  else if isTb comp then
    let f := compFmt comp
    let sz := tbBytes (compFour comp)
    if payload.length % sz ≠ 0 then none
    else
      let bl := chunksOf sz (payload.length + 1) payload
      let out := (bl.map (fun b => ((List.range 32).map (fun i => leBytes (compElem comp) (f.round rmRNE false 0 (tbValue (compFour comp) b i)).1)).flatten)).flatten
      match n with
      | some k => if k ≤ out.length then some (out.take k) else none
      | none => some out
  else match n with
    | some k => if payload.length = k then some payload else none
    | none => some payload

/-! ## Protection (R289) -/

/-- The key a QP's line cipher uses: the half of the pair for a direction (R382). -/
def State.lineKey (s : State) (handle : Nat) (send : Bool) : List Byte :=
  match Tbl.find s.kce.slots (handle % 2 ^ 20) with
  | some k => if send = bit k.usage 8 then bsub k.key 32 32 else bsub k.key 0 32
  | none => []

/-- The nonce of a packet. -/
def Pkt.nonce (p : Pkt) : List Byte := leBytes 4 p.psn ++ leBytes 4 p.tstamp ++ leBytes 4 (p.dstQp % 2 ^ 20)

/-- A packet protected with a key: payload and trailer become ciphertext and the tag follows. AES-GCM is algorithm 1. -/
def Pkt.protect (p : Pkt) (key : List Byte) : Pkt :=
  let q := { p with enc := true }
  let text := Config.cipher 1 true key q.nonce (p.payload ++ p.trailer)
  { q with payload := text, trailer := [], tag := Config.macTag 1 key q.nonce q.header text }

/-- A protected packet opened with a key, none where its tag fails. -/
def Pkt.unprotect (p : Pkt) (key : List Byte) : Option Pkt :=
  if Config.macTag 1 key p.nonce p.header p.payload ≠ p.tag then none
  else
    let text := Config.cipher 1 false key p.nonce p.payload
    let tr := hasTrailer p.ptype && p.last
    if tr && text.length < 8 then none
    else some { p with payload := if tr then text.take (text.length - 8) else text, trailer := if tr then text.drop (text.length - 8) else [], tag := [] }

/-! ## Where a QP sends -/

/-- The addresses a QP sends to: a scheduled QP's from the active station table (R265). -/
def State.qpPeer (s : State) (q : Qp) : List Byte × Nat :=
  if !q.sched then (q.peerIp, q.peerMac)
  else match s.tln.map with
    | none => (q.peerIp, q.peerMac)
    | some m => match Tbl.find m.map q.peerIndex with
      | some st => let e := m.stations.getD st ⟨zeroBytes 16, 0, false⟩; (e.ip, e.mac)
      | none => (q.peerIp, q.peerMac)

/-- The UDP destination port (TMT_CTRL.udp_port). -/
def State.udpPort (s : State) : Nat := s.rf R.TMT_CTRL 0 16

/-- The Ethernet frame of a packet of QP qn. -/
def State.tmtFrame (s : State) (qn : Nat) (q : Qp) (pcp : Nat) (p : Pkt) : List Byte :=
  let die := dieOf q.port
  let n := subOf q.port q.subport
  let ecn := if p.ptype ≠ 9 && s.rf (R.TMT_CC q.slice) 96 1 = 1 then 2 else 0
  let peer := s.qpPeer q
  ethHeader peer.2 (Config.portMac (portByte q.port q.subport) % 2 ^ 48) (if q.vlan then some pcp else none) q.ipv6 ++
  ipUdp q.ipv6 q.dscp ecn (s.localIp die n q.ipv6) peer.1 (49152 + (qn * 16 + p.path) % 16384) s.udpPort p.bytes ++ p.bytes

/-- A TMT message of a Denux link (R330). -/
def dnxTmt (bs : List Byte) : List Byte := dnxMsg 8 0 0 bs.length 0 0 0 bs

/-- Whether a QP's port can take a packet of a class: an ACTIVE or RETRAIN peer link, or a sub-port with a default queue for
the QP's slice and class (log entry 34). -/
def State.txQueue (s : State) (q : Qp) (c : Nat) : Option Nat :=
  if q.denux then some 0 else s.defaultQueue (dieOf q.port) (subOf q.port q.subport) q.slice c

/-- s with a packet of QP qn put out in a class: protected where the QP is encrypted, and queued on its port; `w` is the window
it leaves in. Not sent where the port has no queue for it. -/
def State.putPkt (s : State) (qn c : Nat) (w : Option Nat) (p0 : Pkt) : State :=
  match Tbl.find s.tmt.qps qn with
  | none => s
  | some q => match s.txQueue q c with
    | none => s
    | some tq =>
      let p := { p0 with dstQp := q.peerQp, version := 1, tstamp := s.timeNs % 2 ^ 32, keyPhase := q.encrypt && q.keyPhase
                         mapGen := if q.sched then s.rf R.TLN_STATUS 16 16 else 0
                         srcStation := if q.sched then s.rf R.TLN_DOMAIN 16 10 else 0 }
      let p := if q.encrypt then p.protect (s.lineKey (if q.keyPhase = q.rxPhase then q.key else q.nextKey) true) else p
      if q.denux then s.dnxSend q.port (dnxTmt p.bytes)
      else s.enqueue (dieOf q.port) tq
        { QFrame.own (s.tmtFrame qn q c p) with gateHeld := decide (Tbl.find s.tln.gateHeld qn = some p0.psn), win := w.map (fun w => (qn, w, p0)) }

/-- s with a packet of QP qn sent in a class, and counted. -/
def State.txPkt (s : State) (qn c : Nat) (w : Option Nat) (p : Pkt) : State :=
  match Tbl.find s.tmt.qps qn with
  | none => s
  | some q =>
    if (s.txQueue q c).isNone then s
    else
      let s := (s.cnt R.TMT_TX_PKTS).updQp qn (fun q => { q with keyPkts := q.keyPkts + 1, rekey := q.rekey || (q.encrypt && 2 ^ 31 ≤ q.keyPkts + 1) })
      s.putPkt qn c w p

/-- A packet with nothing set but its type. -/
def Pkt.ofType (t : Nat) : Pkt :=
  { ptype := t, path := 0, first := true, last := true, ackReq := false, enc := false, retx := false, sched := false, late := false
    keyPhase := false, mapGen := 0, dstQp := 0, srcStation := 0, version := 1, psn := 0, tstamp := 0, msn := 0, w18 := 0, addr := 0, w28 := 0
    payload := [], trailer := [], tag := [], ce := false }

/-- The SACK bitmap of a receive window from its base (R281). -/
def Qp.sack (q : Qp) : List Byte := leBytes 32 ((q.rxSet.filterMap (fun p => if psnDiff p q.base < 256 then some (2 ^ psnDiff p q.base) else none)).sum)

/-- s with an ACK of QP qn sent (R281, R293): syndrome 0 with the window, or another naming a message in sack_base with an
empty bitmap. ACKs go in the QP's own class (log entry 35). -/
def State.sendAck (s : State) (qn syn sackBase : Nat) : State :=
  match Tbl.find s.tmt.qps qn with
  | none => s
  | some q =>
    let p := { Pkt.ofType 9 with psn := q.base, msn := q.rxMsn % 65536, w18 := q.echoTs
                                 addr := syn + q.echoPath * 256 + min q.ceCount 0xFFFF * 65536
                                 w28 := if syn = 0 then q.base else sackBase, payload := if syn = 0 then q.sack else zeroBytes 32 }
    (s.txPkt qn q.pcp none p).updQp qn (fun q => { q with sinceAck := 0, ceCount := 0 })

/-- A non-zero answer that puts both QPs into ERROR (R293): ACCESS 2, OPERATIONAL 3, FAULT 4. -/
def State.answerError (s : State) (qn syn psn0 : Nat) : State :=
  ((if syn = 2 then s.cnt R.TMT_RX_ACCESS else s).sendAck qn syn psn0).qpError qn none

end Sys2Proof.Machine
end

