-- ==== Sys2Proof/Machine/TmtTx.lean ====
section
/-! DEFINITION. The sending side of the transport: gates and windows (R173 to R176), the packets of a message (R262, R263,
R273), path choice and pacing (R285, R286), losses (R282), commits in post order (R279). -/

namespace Sys2Proof.Machine

/-! ## Gates (R173, R174) -/

/-- How long a class stays open from entry i of a gate list on, in ns: entries are followed while they open the class, a whole
list that does counting as 2^20. -/
def openRun (es : List (Nat × Nat)) (c : Nat) : Nat → Nat → Nat
  | 0, _ => 2 ^ 20
  | fuel + 1, i =>
    let e := nth es (i % es.length) (0, 0)
    if bit e.1 c then e.2 + openRun es c fuel (i + 1) else 0

/-- The time for which a port's gate of a class stays open, none when it stays open for good. -/
def State.gateLeft (s : State) (o j c : Nat) : Option Nat :=
  if s.tln.closed && c = s.rf R.TLN_CLASS 0 3 then some 0
  else match s.tln.sched.bind (fun d => Tbl.find d.gates (portByte o j)) with
    | none => none
    | some es =>
      if es.isEmpty then none
      else
        let pos := Tbl.get s.tln.gatePos (portByte o j) (0, 0)
        let e := nth es (pos.1 % es.length) (0, 0)
        if !bit e.1 c then some 0 else some (openRun es c es.length pos.1 - (s.timeNs - pos.2))

/-- The overhead of a sub-port (R314), signed. -/
def State.overhead (s : State) (o j : Nat) : Int := signed 7 (s.rf (R.PKT_PORT (dieOf o) (subOf o j)) 48 7)

/-- Whether R174 admits a frame of n bytes, FCS included, of a class on a sub-port. -/
def State.gateAdmits (s : State) (o j c n : Nat) : Bool := match s.gateLeft o j c with
  | none => true
  | some t =>
    let l := n + (max (s.overhead o j) 20).toNat
    decide (l ≤ t * s.portRate o)

/-! ## The packets of a message -/

/-- The packet type of a work request (R262, R271). -/
def msgType (op : Nat) : Nat :=
  if op = 0x30 then 1 else if op = 0x31 then 2 else if op = 0x33 then 3 else if op = 0x36 then 4 else if op = 0x32 then 5
  else if op = 0x34 || op = 0x35 then 7 else 0xA

/-- READs and atomics wait for a response. -/
def Msg.answered (m : Msg) : Bool := m.op = 0x32 || m.op = 0x34 || m.op = 0x35

/-- The index of the first PSN of a READ that has not come, and how many follow it without a gap. -/
def Msg.missing (m : Msg) : Nat × Nat :=
  match (List.range m.npkt).find? (fun i => !m.got.contains i) with
  | none => (0, 0)
  | some i => (i, ((List.range (m.npkt - i)).takeWhile (fun k => !m.got.contains (i + k))).length)

/-- Packet k of a started message; of a READ, the request for what is missing. -/
def Msg.pkt (m : Msg) (k : Nat) (retx : Bool) : Pkt :=
  let t := msgType m.op
  let psn := (m.psn0 + k) % 2 ^ 32
  let last := decide (k + 1 = m.npkt)
  let base := { Pkt.ofType t with psn := psn, msn := m.msn % 65536, retx := retx }
  if t = 5 then
    let x := m.missing
    let off := x.1 * m.per
    let n := min (x.2 * m.per) (m.len - off)
    { base with psn := (m.psn0 + x.1) % 2 ^ 32, ackReq := true, w18 := m.ak, addr := m.remote + off, w28 := (n - 1) + m.comp * 2 ^ 28 }
  else if t = 7 then
    { base with ackReq := true, w18 := m.ak, addr := m.remote, w28 := if m.op = 0x34 then 0 else 1, payload := leBytes 8 m.operand ++ leBytes 8 m.compare }
  else if t = 0xA then { base with ackReq := true, w18 := m.op - 0x100, payload := m.data.getD [] }
  else
    let off := k * m.per
    let bs := bsub (m.data.getD []) off m.per
    { base with first := decide (k = 0), last := last, ackReq := last || psn % 16 = 15 || retx
                w18 := if t = 3 then m.ssn else m.ak, addr := if t = 3 then 0 else m.remote, w28 := off + m.comp * 2 ^ 28
                payload := if t = 4 then bs else encodeData m.comp m.zrw bs
                trailer := if last then leBytes 4 (if t = 2 then m.imm else 0) ++ leBytes 2 m.ctr ++ leBytes 2 bs.length else [] }

/-- Crumbs of a payload: 64 bytes each (R175). -/
def crumbsOf (n : Nat) : Nat := ceilDiv n 64

/-! ## Windows and classes (R176) -/

/-- The open transmit windows of a QP, each with the crumbs sent in it. -/
def State.ownWins (s : State) (qn : Nat) : Tbl Nat :=
  let wins := match s.tln.sched with | some d => d.wins | none => []
  s.tln.openWins.filter (fun w => match wins[w.1]? with | some x => !x.rx && x.qp = qn | none => false)

/-- Whether an open window has planned crumbs left. -/
def State.winRoom (s : State) (w : Nat × Nat) : Bool := match s.tln.sched.bind (fun d => d.wins[w.1]?) with
  | some x => decide (w.2 < x.crumbs)
  | none => false

/-- The class a packet of QP qn leaves in, with its sched and late flags and the window it is counted in; none while it must
wait: its data goes in no other way while a window of its QP is open. CTRL packets of a scheduled QP do not wait for a window (log entry 36). -/
def State.txClass (s : State) (qn : Nat) (q : Qp) (retx ctrl : Bool) (n : Nat) : Option (Nat × Bool × Bool × Option Nat) :=
  if !q.sched then some (q.pcp, false, false, none)
  else
    let late := some (s.rf R.TLN_CLASS 4 3, false, true, none)
    if retx || ctrl then late
    else
      let own := s.ownWins qn
      match own.find? (fun w => s.winRoom w && s.gateAdmits q.port q.subport (s.rf R.TLN_CLASS 0 3) n) with
      | some w => some (s.rf R.TLN_CLASS 0 3, true, false, some w.1)
      | none => if Tbl.get s.tln.arrears qn 0 = 0 || !own.isEmpty then none else late

/-- s with a packet of a QP noted that R174 keeps from leaving in a window with crumbs left: counted once. -/
def State.noteHeld (s : State) (qn psn : Nat) : State :=
  if (s.ownWins qn).any s.winRoom && Tbl.find s.tln.gateHeld qn ≠ some psn then
    State.cnt { s with tln := { s.tln with gateHeld := Tbl.put s.tln.gateHeld qn psn } } R.TLN_GATE_HOLD
  else s

/-- s with the crumbs of a sent packet counted in its window, or, of new data in the late class, taken off the QP's arrears. -/
def State.countCrumbs (s : State) (qn n : Nat) (fresh : Bool) (c : Nat × Bool × Bool × Option Nat) : State :=
  match c.2.2.2 with
  | some w => { s with tln := { s.tln with openWins := Tbl.upd s.tln.openWins w (fun k => k + n) } }
  | none =>
    if c.2.2.1 && fresh then { s with tln := { s.tln with arrears := Tbl.set s.tln.arrears qn (Tbl.get s.tln.arrears qn 0 - n) 0 } } else s

/-! ## Paths -/

/-- The RTO of a path in ns (R282): doubled at each consecutive expiry, up to 4 ms. -/
def Path.rto (p : Path) : Nat :=
  let t := max 50000 (p.srtt + 4 * p.rttvar)
  max t (min 4000000 (t * 2 ^ min p.backoff 16))

/-- Whether a path may take a new packet (R285): a suspect one only a probe, one in each RTO (log entry 160). -/
def Path.takes (p : Path) (now : Nat) : Bool := !p.suspect || decide (p.probed + p.rto ≤ now)

/-- The path a new packet takes (R285), if one may take it: the one whose pacing leaves the most unused rate, that is, frees earliest,
lowest index first. -/
def Qp.pickPath (q : Qp) (now : Nat) : Option Nat :=
  (((q.paths.zip (List.range q.paths.length)).filter (fun p => p.1.takes now)).foldl (fun (b : Option (Nat × Nat)) p =>
    let u := max p.1.used now
    match b with | some x => if u < x.1 then some (u, p.2) else b | none => some (u, p.2)) none).map Prod.snd

/-- Whether the pacing of a path lets a packet leave now (R286). -/
def Qp.paced (q : Qp) (k now : Nat) : Bool := match q.paths[k]? with
  | some p => decide (p.used ≤ now)
  | none => true

/-- The next path after k that is not suspect (R282), or k itself. -/
def Qp.nextPath (q : Qp) (k : Nat) : Nat :=
  let n := q.paths.length
  (((List.range n).map (fun i => (k + 1 + i) % n)).find? (fun i => match q.paths[i]? with | some p => !p.suspect | none => false)).getD k

/-- The per-packet framing of a QP (R260); over a Denux link its TMT header alone. -/
def Qp.framing (q : Qp) : Nat := if q.denux then 32 else 20 + 18 + (if q.vlan then 4 else 0) + (if q.ipv6 then 40 else 20) + 8 + 32 + (if q.encrypt then 16 else 0)

/-- A path after a packet of n payload bytes has left by it (R286). -/
def Path.charge (p : Path) (now n : Nat) : Path := { p with used := max p.used now + n * 1000 / max p.rate 1 }

def Qp.updPath (q : Qp) (k : Nat) (f : Path → Path) : Qp :=
  { q with paths := (q.paths.zip (List.range q.paths.length)).map (fun p => if p.2 = k then f p.1 else p.1) }

/-! ## Commits in post order (R271, R279) -/

/-- Whether a message is done: a data message and a CTRL packet once the target has delivered it, a READ once every response
has been placed, an atomic once its response has come. A READ of length 0 has nothing to wait for. -/
def Msg.finished (m : Msg) (ackBase : Nat) : Bool :=
  if m.op = 0x32 && m.npkt = 0 then true
  else if m.op = 0x32 then m.started && (List.range m.npkt).all (fun i => m.got.contains i)
  else if m.answered then m.done
  else m.started && m.sent = m.npkt && !psnBefore ackBase (m.psn0 + m.npkt)

/-- s with the finished messages at the head of a QP's list committed, in order; the first argument bounds their number. -/
def State.tmtCommits : Nat → State → Nat → State
  | 0, s, _ => s
  | fuel + 1, s, qn =>
    match Tbl.find s.tmt.qps qn with
    | none => s
    | some q => match q.msgs with
      | [] => s
      | m :: rest =>
        if q.state = .init || !m.finished q.ackBase then s
        else
          let s := s.updQp qn (fun q => { q with msgs := rest })
          let s := if 0x100 ≤ m.op then
              (if q.state = .error then s.closeDone qn else s)
            else if m.inner then s
            else match s.job m.sr m.tag with
              | some j =>
                let s := s.finish j stSuccess noUnit 0 (if m.op = 0x34 || m.op = 0x35 then m.old else m.len)
                if m.answered && m.ctr ≠ 0 then s.counterInc m.ctr else s
              | none => s
          State.tmtCommits fuel s qn

/-- Commits what is due on QP qn. -/
def State.tmtDue (s : State) (qn : Nat) : State :=
  match Tbl.find s.tmt.qps qn with
  | some q => State.tmtCommits q.msgs.length s qn
  | none => s

/-! ## Line-cipher parity (R399) -/

def stLineCipherFault : Nat := 0x807

/-- s with a parity mismatch of a line cipher on QP qn: counted, and at the limit the QP enters ERROR with the work request
whose packet hit it. -/
def State.parityHit (s : State) (qn : Nat) (first : Option (Nat × Nat)) : State :=
  match Tbl.find s.tmt.qps qn with
  | none => s
  | some q =>
    let s := s.cnt (R.KCE_LC_PARITY (dieOf q.port))
    let s := s.updQp qn (fun q => { q with parity := q.parity + 1 })
    let lim := s.rf R.KCE_LC_CTRL 0 8
    if (if lim = 0 then 8 else lim) ≤ q.parity + 1 then s.qpError qn (first.map (fun f => (f.1, f.2, stLineCipherFault, 0))) else s

/-! ## Sending -/

/-- s with a packet of a started message sent: `k` its index; `old` is the PSN it takes the place of. -/
def State.sendMsgPkt (s : State) (qn : Nat) (q : Qp) (m : Msg) (k old : Nat) (retx parity : Bool) (path : Nat) : State :=
  let p := { m.pkt k retx with path := path }
  match s.txClass qn q retx (0x100 ≤ m.op) (p.payload.length + p.trailer.length + q.framing - 20) with
  | none => s.noteHeld qn p.psn
  | some c =>
    if (s.txQueue q c.1).isNone || (c.2.2.2.isNone && !q.paced path s.timeNs) then s
    else
      let p := { p with sched := c.2.1, late := c.2.2.1 }
      let n := crumbsOf p.payload.length
      let s := (if parity && q.encrypt then s else s.txPkt qn c.1 c.2.2.2 p).countCrumbs qn n (!retx && m.op < 0x100) c
      let s := if retx then s.cnt R.TMT_RETX else s
      let u : Unacked := ⟨p.psn, path, s.timeNs, 0, parity && q.encrypt, false⟩
      let s := s.updQp qn (fun q =>
        let q := q.updPath path (fun x =>
          let x := if c.2.2.2.isSome then x else x.charge s.timeNs (p.payload.length + p.trailer.length + q.framing)
          if x.suspect && !retx then { x with probed := s.timeNs } else x)
        { q with unacked := q.unacked.filter (fun v => v.psn ≠ p.psn && v.psn ≠ old) ++ [u] })
      if parity && q.encrypt then s.parityHit qn (if m.op < 0x100 then some (m.sr, m.tag) else none) else s

/-- The message of a QP a PSN belongs to. -/
def Qp.msgOf (q : Qp) (psn : Nat) : Option Msg := q.msgs.find? (fun m => m.started && decide (psnDiff psn m.psn0 < max 1 m.npkt))

/-- s with one packet that was judged lost sent again (R282): the same PSN, MSN, offset and payload, on the next path that is
not suspect. -/
def State.resend (s : State) (qn : Nat) (q : Qp) (u : Unacked) (parity : Bool) : State :=
  match q.msgOf u.psn with
  | none => s.updQp qn (fun q => { q with unacked := q.unacked.filter (fun v => v.psn ≠ u.psn) })
  | some m => s.sendMsgPkt qn q m (psnDiff u.psn m.psn0) u.psn true parity (q.nextPath u.path)

/-- s with the next new packet of a QP sent: the first message in post order that has a packet to send, starting it when its
turn has come and its data is there. -/
def State.sendNew (s : State) (qn : Nat) (q : Qp) (parity : Bool) : State :=
  if q.encrypt && q.rekey then s
  else match q.msgs.find? (fun m => m.npkt ≠ 0 && !(m.started && (m.sent = m.npkt || (m.op = 0x32 && m.sent ≠ 0)))) with
    | none => s
    | some m =>
      let span := if m.op = 0x32 then m.npkt else 1
      let room := decide (psnDiff (q.nextPsn + span - 1) q.ackBase < 65536)
      match q.pickPath s.timeNs with
      | none => s
      | some path =>
        if m.data.isNone || m.rnrWait || !room || (q.msgs.any (fun k => k.rnrWait)) then s else
        let m' := if m.started then m else { m with started := true, msn := q.nextMsn, psn0 := q.nextPsn, ssn := q.nextSsn }
        let t := s.sendMsgPkt qn q m' m'.sent ((m'.psn0 + m'.sent) % 2 ^ 32) false parity path
        let sent := match Tbl.find t.tmt.qps qn with
          | some r => r.unacked.any (fun u => u.psn = (m'.psn0 + (if m.op = 0x32 then 0 else m'.sent)) % 2 ^ 32)
          | none => false
        if !sent then s
        else t.updQp qn (fun r =>
          if r.state ≠ q.state then r
          else
            { r with
              nextPsn := (r.nextPsn + span) % 2 ^ 32
              nextMsn := if m.started then r.nextMsn else r.nextMsn + 1
              nextSsn := if m.started || m.op ≠ 0x33 then r.nextSsn else (r.nextSsn + 1) % 2 ^ 32
              msgs := updFirst (fun x => x.sr = m.sr && x.tag = m.tag && x.op = m.op && x.started = m.started && x.sent = m.sent && x.psn0 = m.psn0)
                (fun _ => { m' with sent := if m.op = 0x32 then m.npkt else m'.sent + 1 }) r.msgs })

/-- One packet of QP qn (R286): a response that waits, a packet judged lost, or a new one. -/
def State.tmtTransmit (s : State) (qn : Nat) (parity : Bool) : State :=
  match Tbl.find s.tmt.qps qn with
  | none => s
  | some q =>
    if s.rf R.TMT_CTRL 16 1 = 0 || q.state = .init then s
    else match q.responses with
      | p :: rest =>
        (match s.txClass qn q false false (p.payload.length + q.framing - 20) with
          | none => s.noteHeld qn p.psn
          | some c =>
            match q.pickPath s.timeNs with
            | none => s
            | some path =>
              if (s.txQueue q c.1).isNone || (c.2.2.2.isNone && !q.paced path s.timeNs) then s else
              let s := (s.txPkt qn c.1 c.2.2.2 { p with path := path, sched := c.2.1, late := c.2.2.1 }).countCrumbs qn (crumbsOf p.payload.length) true c
              s.updQp qn (fun q =>
                { q.updPath path (fun x => if c.2.2.2.isSome then x else x.charge s.timeNs (p.payload.length + q.framing)) with responses := rest }))
      | [] => match q.unacked.find? (fun u => u.lost) with
        | some u => s.resend qn q u parity
        | none => s.sendNew qn q parity

end Sys2Proof.Machine
end

