-- ==== Sys2Proof/Machine/TmtRx.lean ====
section
/-! DEFINITION. The receiving side of the transport: the checks of an arriving packet in the order of R274, placement (R275),
delivery (R276 to R278), atomics and READs at the target (R271, R280), responses and acknowledgements at the initiator (R281 to
R283, R286, R293). -/

namespace Sys2Proof.Machine

/-! ## Target memory (R287, R295) -/

/-- The stand-in for a descriptor under which the target side of QP qn reads and writes: `tag` tells its accesses apart. -/
def rxJob (qn tag sl : Nat) : Job :=
  { sr := 65536 + qn, tag := tag % 65536, seq := 0, slice := sl, cr := 0, fence := false, irq := false, desc := 0, phase := .running, moved := 0, prog := [] }

/-- Whether an AK names a slot that covers an access of a QP's slice (R287); `perm`: 1 write, 2 read, 4 atomic. -/
def State.akFor (s : State) (sl ak perm : Nat) : Option Ak :=
  match Tbl.find s.tmt.aks (ak / 16384) with
  | some k => if Tbl.get s.tmt.akGen (ak / 16384) 0 = ak % 16384 && k.slice = sl && k.perm &&& perm = perm then some k else none
  | none => none

/-- The operand location of a key slot's memory: a PASID is host memory, then a region, then a link. -/
def Ak.loc (k : Ak) : Nat := if k.kind = 0 then 0 else if k.kind = 1 then 2 else 1

/-- Whether an access of n bytes lies within what a slot names. -/
def State.akHolds (s : State) (k : Ak) (addr n perm : Nat) : Bool :=
  if k.kind = 1 then (match s.region k.handle k.slice with | some r => decide (addr + n ≤ r.dataBytes) | none => false)
  else if k.kind = 2 then k.handle < 16 && s.dnxOutOk k.handle k.slice addr n (if perm = 2 then 1 else if perm = 4 then 3 else 2)
  else true

/-- The syndrome a failing access answers (R293): a translation that failed is FAULT, an address or a handle ACCESS, the rest
OPERATIONAL. -/
def synOf (status : Nat) : Nat :=
  if status = stTranslationFault || status = stTranslationTimeout then 4 else if status = stAddressError || status = stInvalidHandle then 2 else 3

/-- The requester bit of a QP's port die (R253). -/
def Qp.req (q : Qp) : Nat := 13 + (if q.denux then 0 else dieOf q.port)

/-- How an access at the target ends: done, PAUSE, waiting for a completion, or a syndrome. -/
inductive Rx (α : Type)
  | ok (s : State) (a : α)
  | pause (s : State)
  | wait (s : State)
  | bad (s : State) (syn : Nat)

/-- Writes bytes for the target side of a QP. -/
def State.rxWrite (s : State) (qn : Nat) (q : Qp) (tag loc handle addr : Nat) (bs : List Byte) : Rx Unit :=
  match s.writeOperand (rxJob qn tag q.slice) loc handle addr bs q.req with
  | .ok s => .ok s ()
  | .wait s => .pause s
  | .fail s st _ _ => .bad s (synOf st)

/-- Reads bytes for the target side of a QP; host and accelerator bytes come by completions. -/
def State.rxRead (s : State) (qn : Nat) (q : Qp) (tag loc handle addr n : Nat) : Rx (List Byte) :=
  match s.readOperand (rxJob qn tag q.slice) loc handle addr n q.req with
  | .ok s bs => .ok s bs
  | .wait s => if s.pcie.gathers.any (fun g => g.sr = 65536 + qn && g.tag = tag % 65536) then .wait s else .pause s
  | .fail s st _ => .bad s (synOf st)

/-- s without the gathered bytes of one access of the target side. -/
def State.dropGather (s : State) (qn tag : Nat) : State :=
  { s with pcie := { s.pcie with gathers := s.pcie.gathers.filter (fun g => !(g.sr = 65536 + qn && g.tag = tag % 65536)) } }

/-! ## Receive records -/

/-- Decoded bytes of a packet's data before its own (R262), and the code of its compression. -/
def Pkt.off (p : Pkt) : Nat := fld p.w28 0 28
def Pkt.comp (p : Pkt) : Nat := fld p.w28 28 4

/-- Decoded bytes of every packet of a message but the last (R273). -/
def Pkt.per (p : Pkt) (P : Nat) : Nat := if p.ptype = 4 then P else wrPer P p.comp

/-- The first PSN of an arriving packet's message (R273). -/
def Pkt.psn0 (p : Pkt) (P : Nat) : Nat :=
  if 1 ≤ p.ptype && p.ptype ≤ 4 then psnDiff p.psn (p.off / max 1 (p.per P)) else p.psn

/-- PSNs an arriving request occupies: a READ_REQ one for each response. -/
def Pkt.span (p : Pkt) (P : Nat) : Nat := if p.ptype = 5 then max 1 (ceilDiv (p.off + 1) (p.per P)) else 1

/-- s with an accepted packet's PSNs set and its message's record brought up to date (R275). -/
def State.rxNote (s : State) (qn : Nat) (p : Pkt) (n : Nat) : State :=
  s.updQp qn (fun q =>
    let span := p.span q.payload
    let first := p.psn0 q.payload
    let old := (q.rxMsgs.find? (fun m => m.msn = p.msn)).getD ⟨p.msn, p.ptype, first, none, p.w18, 0, 0, 0, []⟩
    let m := { old with
      psnEnd := if p.last || p.ptype = 5 then some ((p.psn + span - 1) % 2 ^ 32) else old.psnEnd
      imm := if p.trailer.isEmpty then old.imm else leAt p.trailer 0 4
      ctr := if p.trailer.isEmpty then old.ctr else leAt p.trailer 4 2
      len := if p.last then p.off + n else old.len
      body := if p.ptype = 0xA then p.payload else old.body
      ssn := if p.ptype = 0xA then fld p.w18 0 16 else old.ssn }
    { q with rxSet := (List.range span).foldl (fun l i => setIns l ((p.psn + i) % 2 ^ 32)) q.rxSet
             rxMsgs := q.rxMsgs.filter (fun k => k.msn ≠ p.msn) ++ [m] })

/-- Whether a record is complete: every PSN is set, no placement of it is held, and nothing of it still waits (R276). -/
def State.rxComplete (s : State) (qn : Nat) (q : Qp) (m : RxMsg) : Bool :=
  (match m.psnEnd with
    | none => false
    | some e => (List.range (psnDiff e m.psn0 + 1)).all (fun i => q.rxSet.contains ((m.psn0 + i) % 2 ^ 32))) &&
  !s.mem.guardWait.any (fun w => w.owner = ownerNum (65536 + qn) (m.msn % 65536)) &&
  !q.waiting.any (fun p => p.msn = m.msn) &&
  !s.pcie.landings.any (fun l => l.sr = 65536 + qn && l.tag = m.msn % 65536)

/-- s with a landing read on each link a complete message was placed over (R333). -/
def State.rxLand (s : State) (qn msn : Nat) : State :=
  let mine := s.pcie.wroteLinks.filter (fun w => w.1 = 65536 + qn && w.2.1 = msn % 65536)
  let s := mine.foldl (fun s w => s.dnxRequest w.2.2.1 2 0 w.2.2.2 0 0 0 (.landing (65536 + qn) (msn % 65536))) s
  { s with pcie := { s.pcie with
      wroteLinks := s.pcie.wroteLinks.filter (fun w => !(w.1 = 65536 + qn && w.2.1 = msn % 65536))
      landings := s.pcie.landings ++ [⟨65536 + qn, msn % 65536, 0, noUnit, 0, 0, mine.map (fun w => w.2.2.1), false⟩] } }

/-! ## Delivery (R276 to R278) -/

/-- s with the receive base moved past a delivered message. -/
def State.rxAdvance (s : State) (qn : Nat) (m : RxMsg) : State :=
  s.updQp qn (fun q =>
    let b := match m.psnEnd with | some e => (e + 1) % 2 ^ 32 | none => q.base
    { q with base := b, rxMsn := (q.rxMsn + 1) % 2 ^ 32, rxSet := q.rxSet.filter (fun p => !psnBefore p b)
             rxMsgs := q.rxMsgs.filter (fun k => k.msn ≠ m.msn) })

/-- s with a CTRL message acted on (R210, R213, R294). -/
def State.rxCtrl (s : State) (qn : Nat) (m : RxMsg) : State :=
  if m.ssn = 1 then s.stopNoticeArrives qn (leAt m.body 0 4) (leAt m.body 4 4)
  else if m.ssn = 2 then s.stepCheckArrives qn (leAt m.body 0 8)
  else if m.ssn = 3 then
    ((s.sendAck qn 0 0).qpError qn none).updQp qn (fun q => { q with msgs := [] })
  else s

/-- s with the next message of QP qn in MSN order delivered, where it is complete and what it must write has room. -/
def State.rxDeliver (s : State) (qn : Nat) : State :=
  match Tbl.find s.tmt.qps qn with
  | none => s
  | some q => match q.rxMsgs.find? (fun m => m.msn = q.rxMsn % 65536) with
    | none => s
    | some m =>
      if q.state ≠ .rts || !s.rxComplete qn q m then s
      else if Tbl.has s.mem.guardFail (ownerNum (65536 + qn) (m.msn % 65536)) then
        (s.takeGuardFail (ownerNum (65536 + qn) (m.msn % 65536))).answerError qn 3 m.psn0
      else if s.pcie.wroteLinks.any (fun w => w.1 = 65536 + qn && w.2.1 = m.msn % 65536) then s.rxLand qn m.msn
      else
        let room := match Tbl.find s.ring.crs q.recvCr with
          | some r => decide ((s.ring.unwritten.filter (fun c => c.cr = q.recvCr)).length < r.free)
          | none => true
        if m.ptype = 2 && !room then s
        else
          let s := if m.ptype = 3 then
              (match q.recvs.find? (fun r => r.ssn = m.ssn) with
                | some r => (s.commitTag r.sr r.tag stSuccess noUnit 0 m.len).updQp qn (fun q => { q with recvs := q.recvs.filter (fun x => x.ssn ≠ m.ssn) })
                | none => s)
            else if m.ptype = 2 then
              s.addCpl { sr := 0xFFFF, tag := 0xFFFF, cr := q.recvCr, slice := q.slice, status := stArrival, unit := noUnit, detail := qn
                         result := m.imm + m.len * 2 ^ 32, time := 0, irq := false, counted := false }
            else s
          let s := if m.ctr = 0 || m.ptype = 5 || m.ptype = 7 || m.ptype = 0xA then s
            else match s.counterOf m.ctr q.slice with
              | some _ => s.counterInc m.ctr
              | none => s.cnt R.TMT_CTR_REFUSED
          let s := s.rxAdvance qn m
          if m.ptype = 0xA then s.rxCtrl qn m else s

/-! ## The target's work on one packet -/

/-- Serial and floating-point sum of an ACCUMULATE element (R271): RNE, NaNs canonical. -/
def accElem (f : Fmt) (a b : Nat) : Nat := (f.round rmRNE false 0 (FV.add rmRNE (f.decode a) (f.decode b)).1).1

/-- The elements of two arrays added one by one. -/
def accBytes (fmt : Nat) (old add : List Byte) : List Byte :=
  let f := if fmt = 0 then Fmt.binary32 else .bfloat16
  let w := f.bits / 8
  ((List.range (add.length / w)).map (fun i => leBytes w (accElem f (leAt old (i * w) w) (leAt add (i * w) w)))).flatten

/-- The new value of an atomic (R271). -/
def rxAtomicNew (op old operand compare : Nat) : Nat :=
  if op = 0 then (old + operand) % 2 ^ 64 else if old = compare then operand else old

/-- s with READ responses queued for the bytes of a range (R271, R275): responses carry the request's MSN and PSNs counted from
the request's. The element width of a ZR frame, which the request does not carry, is one byte (log entry 37). -/
def State.readResponses (s : State) (qn : Nat) (p : Pkt) (bs : List Byte) : State :=
  s.updQp qn (fun q =>
    let per := max 1 (p.per q.payload)
    let n := p.span q.payload
    { q with responses := q.responses ++ (List.range n).map (fun i =>
        { Pkt.ofType 6 with psn := (p.psn + i) % 2 ^ 32, msn := p.msn, first := decide (i = 0), last := decide (i + 1 = n)
                            w28 := i * per + p.comp * 2 ^ 28, payload := encodeData p.comp 0 (bsub bs (i * per) per) }) })

/-- s with an atomic's old value recorded and its response queued (R271, R280). -/
def State.atomicResponse (s : State) (qn : Nat) (p : Pkt) (old : Nat) (record : Bool) : State :=
  s.updQp qn (fun q =>
    { q with
      atomics := if record then (q.atomics ++ [(p.psn, old)]).drop (q.atomics.length + 1 - 8) else q.atomics
      responses := q.responses ++ [{ Pkt.ofType 8 with psn := p.psn, msn := p.msn, payload := leBytes 8 old }] })

/-- s with an answer for a packet that is not placed: PAUSE leaves the PSN noted where a fault is open for it (R295). -/
def State.rxPause (s : State) (qn : Nat) (p : Pkt) (psn0 : Nat) : State :=
  let mine := fun (w : Waiter) => !w.ring && w.sr = 65536 + qn
  let open' := s.xlt.faults.any (fun f => f.2.waiters.any mine) || s.xlt.spill.any (fun e => mine e.waiter) || s.xlt.atsOut.any (fun e => mine e.2.2)
  (s.updQp qn (fun q => { q with rxFault := if open' then q.rxFault.orElse (fun _ => some p.psn) else q.rxFault })).sendAck qn 5 psn0

/-- s with an ACK where the packet asks for one or enough have arrived (R281). -/
def State.rxAck (s : State) (qn : Nat) (p : Pkt) : State :=
  match Tbl.find s.tmt.qps qn with
  | some q => if p.ackReq || q.ackCoalesce ≤ q.sinceAck then s.sendAck qn 0 0 else s
  | none => s

/-- The bytes of a packet's data as they are placed (R275): last_len cuts those of a last packet. -/
def Pkt.decoded (p : Pkt) : Option (List Byte) :=
  decodeData (if p.ptype = 4 then 0 else p.comp) p.payload (if p.last && !p.trailer.isEmpty then some (leAt p.trailer 6 2) else none)

/-- A data packet placed at an address of a memory (R275), or its failure. -/
def State.rxPlace (s : State) (qn : Nat) (q : Qp) (p : Pkt) (loc handle addr : Nat) (bs : List Byte) : State :=
  let psn0 := p.psn0 q.payload
  match s.rxWrite qn q p.msn loc handle addr bs with
  | .ok s _ => (s.rxNote qn p bs.length).rxAck qn p
  | .pause s => s.rxPause qn p psn0
  | .wait s => s
  | .bad s syn => s.answerError qn syn psn0

/-- A WRITE, WRITE_IMM or ACCUMULATE packet within the window (R274, R275, R271). -/
def State.rxData (s : State) (qn : Nat) (q : Qp) (p : Pkt) : State :=
  let psn0 := p.psn0 q.payload
  match s.akFor q.slice p.w18 (if p.ptype = 4 then 5 else 1) with
  | none => s.answerError qn 2 psn0
  | some k => match p.decoded with
    | none => s.answerError qn 3 psn0
    | some bs =>
      if !s.akHolds k (p.addr + p.off) bs.length (if p.ptype = 4 then 4 else 1) then s.answerError qn 2 psn0
      else if q.rxFault.isSome && k.kind = 0 then s.sendAck qn 5 psn0
      else if p.ptype = 4 then
        if k.kind ≠ 1 || 2 ≤ p.comp then s.answerError qn 3 psn0
        else match s.rxRead qn q p.msn 2 k.handle (p.addr + p.off) bs.length with
          | .ok s old =>
            let old := match s.region k.handle q.slice with | some r => s.ahead r (p.addr + p.off) old | none => old
            s.rxPlace qn q p 2 k.handle (p.addr + p.off) (accBytes p.comp old bs)
          | .pause s => s.rxPause qn p psn0
          | .wait s => s
          | .bad s syn => s.answerError qn syn psn0
      else s.rxPlace qn q p k.loc k.handle (p.addr + p.off) bs

/-- A SEND packet within the window (R277). -/
def State.rxSendPkt (s : State) (qn : Nat) (q : Qp) (p : Pkt) : State :=
  let psn0 := p.psn0 q.payload
  match q.recvs.find? (fun r => r.ssn = p.w18) with
  | none => (s.cnt R.TMT_RNR).sendAck qn 1 psn0
  | some r =>
    match p.decoded with
    | none => s.answerError qn 3 psn0
    | some bs =>
      if r.len < p.off + bs.length then
        let s := (s.commitTag r.sr r.tag stRecvOverflow noUnit 0 0).updQp qn (fun q => { q with recvs := q.recvs.filter (fun x => x.ssn ≠ r.ssn) })
        s.answerError qn 3 psn0
      else if q.rxFault.isSome && r.loc = 0 then s.sendAck qn 5 psn0
      else s.rxPlace qn q p r.loc r.handle (r.addr + p.off) bs

/-- A READ_REQ executed (R271, R280): its range is read and answered. -/
def State.rxReadReq (s : State) (qn : Nat) (q : Qp) (p : Pkt) (fresh : Bool) : State :=
  let n := p.off + 1
  match s.akFor q.slice p.w18 2 with
  | none => s.answerError qn 2 p.psn
  | some k =>
    if !s.akHolds k p.addr n 2 then s.answerError qn 2 p.psn
    else if q.rxFault.isSome && k.kind = 0 then s.sendAck qn 5 p.psn
    else match s.rxRead qn q p.psn k.loc k.handle p.addr n with
      | .ok s bs =>
        let s := (s.dropGather qn p.psn).readResponses qn p bs
        if fresh then (s.rxNote qn p 0).rxAck qn p else s
      | .wait s =>
        let s := s.updQp qn (fun q => { q with waiting := q.waiting.filter (fun w => w.psn ≠ p.psn) ++ [p] })
        if fresh then (s.rxNote qn p 0).rxAck qn p else s
      | .pause s => s.rxPause qn p p.psn
      | .bad s syn => s.answerError qn syn p.psn

/-- The 8-byte memory of an atomic exchanged, for a region (R271): of one that has just come (`fresh`), or of one that was held. -/
def State.poolExchange (s : State) (qn : Nat) (q : Qp) (p : Pkt) (handle : Nat) (fresh : Bool) : State :=
  let done := fun (s : State) => if fresh then s else s.updQp qn (fun q => { q with waiting := q.waiting.filter (fun w => w.psn ≠ p.psn) })
  match s.rxRead qn q p.psn 2 handle p.addr 8 with
  | .ok s bs =>
    let old := leNat bs
    (match s.rxWrite qn q p.msn 2 handle p.addr (leBytes 8 (rxAtomicNew (fld p.w28 0 4) old (leAt p.payload 0 8) (leAt p.payload 8 8))) with
      | .ok s _ =>
        let s := (done s).atomicResponse qn p old true
        if fresh then (s.rxNote qn p 0).rxAck qn p else s
      | .pause s => s
      | .wait s => s
      | .bad s syn => (done s).answerError qn syn p.psn)
  | .pause s => s
  | .wait s => s
  | .bad s syn => (done s).answerError qn syn p.psn

/-- The guarded page an atomic on a region meets, by a DPA in it. -/
def State.atomicGuard (s : State) (q : Qp) (p : Pkt) (handle : Nat) : Option Nat :=
  match s.region handle q.slice with
  | some r => if p.addr + 8 ≤ r.dataBytes && s.guarded (r.dpa p.addr) then some (r.dpa p.addr) else none
  | none => none

/-- An atomic on a region: at once, or, held in placement staging, once its page is copied (R366). -/
def State.poolAtomic (s : State) (qn : Nat) (q : Qp) (p : Pkt) (handle : Nat) : State :=
  match s.atomicGuard q p handle with
  | some a => (((s.updQp qn (fun q => { q with waiting := q.waiting ++ [p] })).guardMark a (ownerNum (65536 + qn) (p.msn % 65536))).rxNote qn p 0).rxAck qn p
  | none => s.poolExchange qn q p handle true

/-- s with the atomics performed that were held on the copy guard and no longer meet it (R366). -/
def State.rxHeldAtomics (s : State) : State :=
  s.tmt.qps.foldl (fun s e => e.2.waiting.foldl (fun s p =>
    match if p.ptype = 7 then s.akFor e.2.slice p.w18 4 else none with
    | some k =>
      if k.kind ≠ 1 || (s.atomicGuard e.2 p k.handle).isSome then s
      else s.poolExchange e.1 e.2 p k.handle false
    | none => s) s) s

/-- An ATOMIC_REQ within the window (R271, R280, R296): done at once in a region, by a PCIe AtomicOp in host memory, by an
ATOMIC_REQ of the link in accelerator memory. -/
def State.rxAtomicReq (s : State) (qn : Nat) (q : Qp) (p : Pkt) : State :=
  let op := fld p.w28 0 4
  match s.akFor q.slice p.w18 4 with
  | none => s.answerError qn 2 p.psn
  | some k =>
    if p.payload.length ≠ 16 || 2 ≤ op || p.addr % 8 ≠ 0 || !s.akHolds k p.addr 8 4 then s.answerError qn 2 p.psn
    else if k.kind = 1 then s.poolAtomic qn q p k.handle
    else
      let held := fun (s : State) => ((s.updQp qn (fun q => { q with waiting := q.waiting ++ [p] })).rxNote qn p 0).rxAck qn p
      if k.kind = 2 then
        held (s.dnxRequest k.handle 4 (if op = 0 then 0 else 2) p.addr 8 (leAt p.payload 0 8) (leAt p.payload 8 8) (.rxAtomic qn p.psn))
      else if !s.pcie.atomicEnabled then s.answerError qn 3 p.psn
      else if s.hostWaits q.slice || q.rxFault.isSome then s.sendAck qn 5 p.psn
      else if !s.dmaOk 0 then s.answerError qn 3 p.psn
      else match s.translate k.handle q.slice p.addr true (jobWaiter (65536 + qn) (p.psn % 65536) q.req) with
        | .host s bus => held (s.hostRead 0 bus 8 (.rxAtomic qn p.psn) 0 (s.atOf k.handle p.addr bus))
        | .acc s l a => held (s.dnxRequest l 4 (if op = 0 then 0 else 2) a 8 (leAt p.payload 0 8) (leAt p.payload 8 8) (.rxAtomic qn p.psn))
        | .stall s => s.rxPause qn p p.psn
        | .fail s st _ => s.answerError qn (synOf st) p.psn

/-- The old value of an atomic in host or accelerator memory has come: it is recorded and answered. -/
def State.rxAtomicDone (s : State) (qn psn old : Nat) : State :=
  match Tbl.find s.tmt.qps qn with
  | none => s
  | some q => match q.waiting.find? (fun p => p.psn = psn) with
    | none => s
    | some p => (s.updQp qn (fun q => { q with waiting := q.waiting.filter (fun w => w.psn ≠ psn) })).atomicResponse qn p old true

/-- The bytes of a READ across PCIe or a link have all come: it is answered. -/
def State.rxReadReady (s : State) (qn : Nat) : State :=
  match Tbl.find s.tmt.qps qn with
  | none => s
  | some q => q.waiting.foldl (fun s p =>
      match s.pcie.gathers.find? (fun g => g.sr = 65536 + qn && g.tag = p.psn % 65536) with
      | some g =>
        if g.missing ≠ 0 || p.ptype ≠ 5 then s
        else
          let s := (s.dropGather qn p.psn).readResponses qn p g.data
          s.updQp qn (fun q => { q with waiting := q.waiting.filter (fun w => w.psn ≠ p.psn) })
      | none => s) s

/-- A fault a target access waits on is to be tried again: the next retransmission places (R295). -/
def State.rxWaiterRetry (s : State) (w : Waiter) : State :=
  if 65536 ≤ w.sr then s.updQp (w.sr - 65536) (fun q => { q with rxFault := none }) else s

/-- A fault a target access waits on has failed or timed out: FAULT is answered (R295). -/
def State.rxWaiterEnds (s : State) (w : Waiter) : State :=
  if 65536 ≤ w.sr then
    match Tbl.find s.tmt.qps (w.sr - 65536) with
    | some q => (match q.rxFault with
      | some psn => s.answerError (w.sr - 65536) 4 psn
      | none => s)
    | none => s
  else s

/-- A descriptor's access has failed for good (R241, R251): it completes; of a posted transport work request the QP enters
ERROR as well (R295). -/
def State.jobFaults (s : State) (j : Job) (status : Nat) : State :=
  if 0x30 ≤ dOpcode j.desc && dOpcode j.desc ≤ 0x36 && j.p 0 = 1 then s.qpError (fld j.desc 64 20) (some (j.sr, j.tag, status, 0))
  else s.failJob j status 0

/-! ## The initiator -/

/-- A path's congestion state after an acknowledgement (R286); rates are in MB/s, whole (log entry 38). -/
def Path.onAck (p : Path) (now rtt ce ai beta target rmin rmax : Nat) : Path :=
  let d := if p.srtt < rtt then rtt - p.srtt else p.srtt - rtt
  let p := { p with rttvar := 3 * p.rttvar / 4 + d / 4, srtt := 7 * p.srtt / 8 + rtt / 8 }
  if now < p.changed + p.srtt then p
  else if 0 < ce || 3 * target < 2 * rtt then { p with rate := max rmin (p.rate * (256 - beta) / 256), changed := now }
  else if rtt ≤ target then { p with rate := min rmax (p.rate + ai), changed := now }
  else p

/-- The data rate of a QP's port in MB/s. -/
def State.qpPortRate (s : State) (q : Qp) : Nat := if q.denux then 188000 else 1000 * s.portRate q.port

/-- The unacknowledged PSNs after an ACK with a base and a bitmap: those it covers go, requests that wait for a response are
marked, and a PSN passed by three later ones of its path is lost (R282). -/
def ackUnacked (base : Nat) (sack : List Byte) (answered : Nat → Bool) (us : List Unacked) : List Unacked × Bool :=
  let hit := fun (u : Unacked) => psnBefore u.psn base || (psnDiff u.psn base < 256 && bit (leNat sack) (psnDiff u.psn base))
  let rec go : List Unacked → List Unacked
    | [] => []
    | u :: rest =>
      if hit u then (if answered u.psn then { u with acked := true } :: go rest else go rest)
      else
        let k := u.later + (rest.filter (fun v => v.path = u.path && hit v && !v.acked)).length
        { u with later := k, lost := u.lost || 3 ≤ k } :: go rest
  (go us, us.any (fun u => hit u && !u.acked))

/-- What every ACK brings (R281, R282, R286, R279): congestion control of the path it echoes, the base and the bitmap, and the commits that
follow. -/
def State.ackPlain (s : State) (qn : Nat) (q : Qp) (p : Pkt) : State :=
  let answered := fun psn => match q.msgOf psn with | some m => m.answered | none => false
  let r := ackUnacked p.psn p.payload answered q.unacked
  let cc := R.TMT_CC q.slice
  let rtt := psnDiff s.timeNs p.w18
  let ce := fld p.addr 16 16
  let rmin := 10 * s.rf cc 64 16
  let rmax := s.qpPortRate q
  let s := s.updQp qn (fun q =>
    let q := q.updPath (fld p.addr 8 8) (fun x =>
      { x.onAck s.timeNs rtt ce (s.rf cc 0 16) (s.rf cc 16 8) (s.rf cc 32 32) rmin rmax with backoff := if r.2 then 0 else x.backoff })
    { q with unacked := r.1, ackBase := if psnBefore p.psn q.ackBase then q.ackBase else p.psn, expiries := if r.2 then 0 else q.expiries, paused := false })
  s.tmtDue qn

/-- An ACK with a syndrome (R283, R293): `sack_base` names the message by its first PSN (log entry 39). -/
def State.ackSyndrome (s : State) (qn : Nat) (q : Qp) (syn psn : Nat) : State :=
  let m := q.msgOf psn
  let fail := fun (st : Nat) => s.qpError qn (m.bind (fun m => if m.op < 0x100 then some (m.sr, m.tag, st, 0) else none))
  if syn = 1 then
    match m with
    | none => s
    | some m =>
      if q.rnrRetry ≠ 15 && q.rnrRetry ≤ m.rnr + 1 then fail stRnrExceeded
      else s.updQp qn (fun q => { q with
        msgs := q.msgs.map (fun x => if x.started && x.psn0 = m.psn0 then { x with rnr := x.rnr + 1, rnrWait := true, rnrSince := s.timeNs } else x) })
  else if syn = 2 then fail stRemoteAccess
  else if syn = 3 then fail stRemoteError
  else if syn = 4 then fail stRemoteFault
  else if syn = 5 then s.updQp qn (fun q => { q with expiries := 0, paused := true })
  else s

/-- An arriving ACK. A QP in ERROR takes only what acknowledges its close (R294). -/
def State.ackArrives (s : State) (qn : Nat) (q : Qp) (p : Pkt) : State :=
  let syn := fld p.addr 0 8
  if syn = 0 then s.ackPlain qn q p
  else if q.state = .error then s
  else
    let s := s.ackPlain qn q p
    match Tbl.find s.tmt.qps qn with
    | some q => s.ackSyndrome qn q syn p.w28
    | none => s

/-- s with a QP's unacknowledged request dropped where its message is done. -/
def State.dropAnswered (s : State) (qn : Nat) : State :=
  s.updQp qn (fun q => { q with unacked := q.unacked.filter (fun u => match q.msgOf u.psn with
    | some m => !(m.answered && m.finished q.ackBase)
    | none => false) })

/-! ## Reorder blocks (R264) -/

/-- The PSNs of the atomic responses a QP has received and not yet committed. -/
def Qp.atomicPsns (q : Qp) : List Nat := (q.msgs.filter (fun m => (m.op = 0x34 || m.op = 0x35) && m.done)).map (fun m => m.psn0)

/-- The blocks that cover PSNs: one covers 256. -/
def reorderBlocks (psns : List Nat) : Nat := ((psns.map (fun p => p % 2 ^ 32 / 256)).eraseDups).length

/-- The blocks a QP holds: of its receive window, of each READ's responses, and of atomic responses. -/
def Qp.blocks (q : Qp) : Nat :=
  reorderBlocks q.rxSet + reorderBlocks q.atomicPsns + ((q.msgs.filter (fun m => m.op = 0x32)).map (fun m => reorderBlocks (m.got.map (fun i => m.psn0 + i)))).sum

/-- The blocks in use on a port die. -/
def State.reorderUse (s : State) (die : Nat) : Nat :=
  ((s.tmt.qps.filter (fun e => !e.2.denux && dieOf e.2.port = die)).map (fun e => e.2.blocks)).sum

/-- Whether a PSN lies in a block that its QP holds for `psns`, or a free one is left on its port die (R274). -/
def State.blockFor (s : State) (q : Qp) (psns : List Nat) (psn : Nat) : Bool :=
  q.denux || psns.any (fun k => k % 2 ^ 32 / 256 = psn / 256) || s.reorderUse (dieOf q.port) < 262144

/-- A READ_RESP (R275, R280): placed in the initiator's buffer at the place its PSN gives. -/
def State.readRespArrives (s : State) (qn : Nat) (q : Qp) (p : Pkt) : State :=
  match q.msgOf p.psn with
  | none => s.cnt R.TMT_RX_DUP
  | some m =>
    let i := psnDiff p.psn m.psn0
    if m.op ≠ 0x32 || m.got.contains i then s.cnt R.TMT_RX_DUP
    else if !s.blockFor q (m.got.map (fun i => m.psn0 + i)) p.psn then s.cnt R.TMT_RX_NO_REORDER
    else
      let n := min m.per (m.len - i * m.per)
      match decodeData p.comp p.payload (some n), s.job m.sr m.tag with
      | some bs, some j =>
        let setGot := fun (s : State) => (s.updQp qn (fun q => { q with
          msgs := q.msgs.map (fun x => if x.started && x.psn0 = m.psn0 then { x with got := setIns x.got i } else x) }))
        let put := if m.inner then
            (match s.region m.lhandle j.slice with
              | some r => (match s.writeRegion r (m.laddr + i * m.per) bs (ownerNum j.sr j.tag) with
                | (s, _, none) => Wio.ok s
                | (s, k, some (st, d)) => .fail s st d k)
              | none => .fail s stInvalidHandle 0 0)
          else s.writeOperand j m.lloc m.lhandle (m.laddr + i * m.per) bs q.req
        (match put with
          | .ok s => (((setGot s).dropAnswered qn).tmtDue qn).rxAck qn p
          | .wait s => s
          | .fail s st d _ => s.qpError qn (some (m.sr, m.tag, st, d)))
      | none, _ => s.qpError qn (some (m.sr, m.tag, stRemoteError, 0))
      | _, none => s

/-- An ATOMIC_RESP (R271). -/
def State.atomicRespArrives (s : State) (qn : Nat) (q : Qp) (p : Pkt) : State :=
  match q.msgOf p.psn with
  | none => s.cnt R.TMT_RX_DUP
  | some m =>
    if !(m.op = 0x34 || m.op = 0x35) || m.done then s.cnt R.TMT_RX_DUP
    else if !s.blockFor q q.atomicPsns p.psn then s.cnt R.TMT_RX_NO_REORDER
    else
      let s := s.updQp qn (fun q => { q with
        msgs := q.msgs.map (fun x => if x.started && x.psn0 = m.psn0 then { x with old := leAt p.payload 0 8, done := true } else x) })
      ((s.dropAnswered qn).tmtDue qn).rxAck qn p

/-! ## An arriving packet (R274) -/

/-- Whether this station drops every scheduled-class packet: DETACHED by R189; a SPARE receives none by R167 (log entry 150). -/
def State.schedShut (s : State) : Bool := 2 ≤ s.rf R.TLN_STATUS 2 2

/-- Whether the domain, the map generation and the station of a scheduled-class or late-class packet are accepted (R167, R168, R189,
R190). -/
def State.mapAccepts (s : State) (p : Pkt) : Bool :=
  if !(p.sched || p.late) then true
  else if s.schedShut || (p.sched && Config.domainOf p.header % 2 ^ 16 ≠ s.rf R.TLN_DOMAIN 0 16) then false
  else match s.tln.map with
    | none => false
    | some m =>
      if p.mapGen = m.gen then true
      else if (p.mapGen + 1) % 65536 ≠ m.gen || s.tln.since * 2 ^ 20 + 1024 ≤ s.timeNs then false
      else match s.tln.prev with
        | some o => m.map.any (fun e => e.2 = p.srcStation && Tbl.find o.map e.1 = some p.srcStation)
        | none => false

/-- s with the crumbs of a late packet counted (R177). -/
def State.countLate (s : State) (qn n : Nat) : State :=
  let wins := match s.tln.sched with | some d => d.wins.filter (fun (w : Win) => w.rx && w.qp = qn) | none => []
  let tol := s.rf R.TLN_CLASS 8 12
  let t := s.timeNs % 2 ^ 20
  let inside := fun (w : Win) => [t, t + 2 ^ 20].any (fun t => decide (w.start ≤ t + tol) && decide (t ≤ w.start + w.len + tol)) ||
    decide (w.start + 2 ^ 20 ≤ t + tol)
  if n = 0 || wins.isEmpty || wins.any inside then s else s.cnt R.TLN_LATE_RX (crumbsOf n)

/-- The packet opened, where its QP is encrypted: its key phase and tag are right (R289). -/
def State.openPkt (s : State) (q : Qp) (p : Pkt) : Option Pkt :=
  if !q.encrypt then (if p.enc then none else some p)
  else if !p.enc then none
  else if p.keyPhase = q.rxPhase then p.unprotect (s.lineKey q.key false)
  else if q.nextKey = 0 then none
  else p.unprotect (s.lineKey q.nextKey false)

/-- A request packet against the receive window (R274, R280). -/
def State.rxRequest (s : State) (qn : Nat) (q : Qp) (p : Pkt) : State :=
  let d := psnDiff p.psn q.base
  if 2 ^ 31 ≤ d then
    if p.ptype = 5 then s.rxReadReq qn q p false
    else if p.ptype = 7 then
      (match q.atomics.find? (fun a => a.1 = p.psn) with
        | some a => s.atomicResponse qn p a.2 false
        | none => (s.cnt R.TMT_RX_DUP).sendAck qn 0 0)
    else (s.cnt R.TMT_RX_DUP).sendAck qn 0 0
  else if 65536 ≤ d then (s.cnt R.TMT_RX_OUT_WINDOW).sendAck qn 0 0
  else if q.rxSet.contains p.psn then (s.cnt R.TMT_RX_DUP).sendAck qn 0 0
  else if !s.blockFor q q.rxSet p.psn then s.cnt R.TMT_RX_NO_REORDER
  else if p.ptype = 3 then s.rxSendPkt qn q p
  else if p.ptype = 5 then s.rxReadReq qn q p true
  else if p.ptype = 7 then s.rxAtomicReq qn q p
  else if p.ptype = 0xA then
    let s := (s.rxNote qn p 0).rxAck qn p
    (match Tbl.find s.tmt.qps qn with
      | some q => if q.rxMsn % 65536 = p.msn then s.rxDeliver qn else s
      | none => s)
  else s.rxData qn q p

/-- A packet that has arrived (R274); `parity` says that the line cipher that opened it found a mismatch (R399). -/
def State.tmtArrive (s : State) (p : Pkt) (parity : Bool) : State :=
  if s.rf R.TMT_CTRL 16 1 = 0 then s
  else
    let s := s.cnt R.TMT_RX_PKTS
    let s := if p.ce then s.cnt R.TMT_ECN_CE else s
    match Tbl.find s.tmt.qps p.dstQp with
    | none => s.cnt R.TMT_RX_BAD
    | some q =>
      let qn := p.dstQp
      if s.schedShut && p.sched && p.version = 1 then s.cnt R.TLN_STALE_MAP
      else if !(q.state = .rts || (q.state = .error && p.ptype = 9 && !q.msgs.isEmpty)) || p.version ≠ 1 || p.ptype = 0 || 0xB ≤ p.ptype then s.cnt R.TMT_RX_BAD
      else if parity && q.encrypt then s.parityHit qn none
      else match s.openPkt q p with
        | none => s.cnt R.TMT_AUTH_FAIL
        | some p =>
          let s := if q.encrypt && p.keyPhase ≠ q.rxPhase then s.updQp qn (fun q => { q with grace := true, graceSince := if q.grace then q.graceSince else s.timeNs }) else s
          let age := signed 32 (psnDiff s.timeNs p.tstamp)
          if 8000000 < age || age < -1000000 then s.cnt R.TMT_RX_AGED
          else if !s.mapAccepts p then s.cnt R.TLN_STALE_MAP
          else
            let s := s.countLate qn (p.payload.length)
            let s := if p.ptype = 9 then s else s.updQp qn (fun q =>
              { q with sinceAck := q.sinceAck + 1, ackSince := if q.sinceAck = 0 then s.timeNs else q.ackSince, ceCount := q.ceCount + b2n p.ce, echoTs := p.tstamp, echoPath := p.path })
            match Tbl.find s.tmt.qps qn with
            | none => s
            | some q =>
              if p.ptype = 9 then s.ackArrives qn q p
              else if p.ptype = 6 then s.readRespArrives qn q p
              else if p.ptype = 8 then s.atomicRespArrives qn q p
              else s.rxRequest qn q p

end Sys2Proof.Machine
end

