-- ==== Sys2Proof/Machine/UseOps.lean ====
section
/-! DEFINITION. What a slice holds against its quotas, as shared operations (R404, R409, SLC_USE, SLC_STATUS). -/

namespace Sys2Proof.Machine

/-- How many of the objects a count quota counts a slice holds (R404, codes 0 to 7). -/
def State.sliceUse (s : State) (sl code : Nat) : Nat :=
  match code with
  | 0 => ((s.mem.regions.filter (fun r => r.2.slice = sl)).map (fun r => r.2.granules.length)).sum
  | 1 => (s.ring.srs.filter (fun r => r.2.slice = sl)).length + (s.ring.crs.filter (fun r => r.2.slice = sl)).length +
         (s.ring.eqs.filter (fun r => r.2.slice = sl)).length
  | 2 => (s.tmt.qps.filter (fun q => q.2.slice = sl)).length
  | 3 => (s.kce.slots.filter (fun k => 256 ≤ k.1 && k.2.slice = sl)).length + (s.tmt.aks.filter (fun k => k.2.slice = sl)).length
  | 4 => (s.tmt.ctrs.filter (fun c => c.2.slice = sl)).length
  | 5 => (s.feus.filter (fun f => f.2.valid && f.2.owner = sl)).length
  | 6 => (s.pipes.tab.filter (fun p => p.2.slice = sl)).length
  | _ => (s.colls.plans.filter (fun p => p.2.slice = sl)).length

/-- Whether n more objects of a count quota fit (R404, R409). -/
def State.quotaRoom (s : State) (sl code n : Nat) : Bool := decide (s.sliceUse sl code + n ≤ s.quota sl code)

/-- Frame-table and spine-table entries a slice owns, over all hubs. -/
def State.frameUse (s : State) (sl : Nat) : List (Nat × Nat) :=
  (s.lat.frames.map (fun h => (h.2.filter (fun e => entryChan e.2 ≠ 0x3FF && entrySlice e.2 = sl)).map (fun e => (h.1, e.1)))).flatten
def State.spineUse (s : State) (sl : Nat) : List (Nat × Nat) :=
  (s.lat.spines.map (fun h => (h.2.filter (fun e => entryChan e.2 ≠ 0x3FF && entrySlice e.2 = sl)).map (fun e => (h.1, e.1)))).flatten

/-- Whether a frame slot number lies in a lattice share (R404), and a spine slot number in a spine share. -/
def slotInLattice (first count slot : Nat) : Bool := decide ((slot + 256 - first % 256) % 256 < count)
def slotInSpine (first count slot : Nat) : Bool := decide (first ≤ slot) && decide (slot < first + count)

/-- The shares of a slice (SLC_QUOTA): first and count. -/
def State.latticeShare (s : State) (sl : Nat) : Nat × Nat := (s.rf (R.SLC_QUOTA sl) 224 8, s.rf (R.SLC_QUOTA sl) 232 9)
def State.spineShare (s : State) (sl : Nat) : Nat × Nat := (s.rf (R.SLC_QUOTA sl) 256 10, s.rf (R.SLC_QUOTA sl) 266 10)

/-- Frame slot numbers a slice owns outside its share, and spine slot numbers (R409): retiring. -/
def State.retFrames (s : State) (sl : Nat) : List Nat :=
  ((s.frameUse sl).map (fun e => e.2 % 256)).filter (fun k => !slotInLattice (s.latticeShare sl).1 (s.latticeShare sl).2 k)
def State.retSpines (s : State) (sl : Nat) : List Nat :=
  ((s.spineUse sl).map (fun e => e.2 % 1000)).filter (fun k => !slotInSpine (s.spineShare sl).1 (s.spineShare sl).2 k)

/-- SLC_STATUS.over_mask: count quotas exceeded, and groups and slots retiring (R409). -/
def State.overMask (s : State) (sl : Nat) : Nat :=
  ((List.range 8).map (fun c => if s.quota sl c < s.sliceUse sl c then 2 ^ c else 0)).sum +
  (if (s.slice sl).retGroups ≠ 0 then 2 ^ 8 else 0) + (if (s.retFrames sl).isEmpty then 0 else 2 ^ 9) +
  (if (s.retSpines sl).isEmpty then 0 else 2 ^ 10)

end Sys2Proof.Machine
end

