-- ==== Sys2Proof/Machine/Transport.lean ====
section
/-! DEFINITION. The commands of 11_transport: work requests, QP, key and counter commands, arriving packets, timers. -/

namespace Sys2Proof.Machine

/-! ## Work requests (R269 to R273, R291) -/

/-- Whether the fields an opcode does not use are 0 and the rest are in range (R270, R273); P is the QP's payload size and
`comps` its comp_allowed. -/
def wrOk (d P comps : Nat) : Bool :=
  let op := dOpcode d
  let comp := fld d 97 4
  let len := dby d 44 4
  let loc8 := dby d 28 1
  let isLocal := op = 0x30 || op = 0x31 || op = 0x32 || op = 0x33 || op = 0x36 || op = 0x38
  let remote := op ≠ 0x33 && op ≠ 0x37 && op ≠ 0x38
  let compress := op = 0x30 || op = 0x31 || op = 0x32 || op = 0x33
  let tb := isTb comp
  let e := compElem comp
  let z := 2 ^ fld d 101 2
  dby d 10 2 < 16 && !bit d 103 && dby d 13 1 = 0 && dby d 29 1 = 0 && dby d 38 2 = 0 &&
  (op = 0x37 || dby d 8 4 < 2 ^ 20) && (op ≠ 0x37 || dby d 8 4 = 0) &&
  (bit d 96 || dby d 30 2 = 0) &&
  (if isLocal then loc8 ≤ 2 else loc8 = 0 && dby d 16 8 = 0 && dby d 24 4 = 0) &&
  (remote || (dby d 32 6 = 0 && dby d 40 4 = 0)) &&
  (op ≠ 0x38 || dby d 14 2 = 0) &&
  (compress || (if op = 0x36 then comp ≤ 1 else comp = 0)) &&
  (comp = 1 && compress || fld d 101 2 = 0) &&
  (!compress || comp = 0 || (comp ≤ 8 && bit comps (if comp = 1 then 0 else if comp = 2 then 1 else if comp ≤ 5 then 2 else 3))) &&
  (!(compress && tb) || (len % e = 0 && (dby d 32 6 % e = 0 || op = 0x33))) &&
  (!(compress && comp = 1) || len % z = 0) &&
  (op ≠ 0x36 || (len % (if comp = 0 then 4 else 2) = 0 && dby d 32 6 % (if comp = 0 then 4 else 2) = 0)) &&
  (!(op = 0x34 || op = 0x35) || (len = 0 && dby d 32 6 % 8 = 0)) &&
  (op = 0x37 || len ≤ 2 ^ 28) &&
  (op = 0x34 || op = 0x35 || op = 0x37 || op = 0x38 || ceilDiv len (max 1 (if op = 0x36 then P else wrPer P comp)) ≤ 65536) &&
  (match op with
    | 0x31 => dby d 52 4 = 0 && dby d 56 8 = 0
    | 0x34 => dby d 56 8 = 0
    | 0x35 => true
    | 0x37 => dby d 48 8 ≤ 1 && dby d 56 8 = 0
    | _ => dby d 48 8 = 0 && dby d 56 8 = 0)

/-- Whether a QP has room for one more work request (R264): 4,096 outstanding, 16 READs, 8 atomics. -/
def State.wrRoom (s : State) (qn : Nat) (q : Qp) (op : Nat) : Bool :=
  let of := fun (p : Nat → Bool) => (q.msgs.filter (fun m => p m.op)).length + ((s.heldWrs qn).filter (fun j => p (dOpcode j.desc))).length
  decide (of (fun o => o < 0x100) + q.recvs.length < 4096) &&
  (op ≠ 0x32 || decide (of (fun o => o = 0x32) < 16)) &&
  (!(op = 0x34 || op = 0x35) || decide (of (fun o => o = 0x34 || o = 0x35) < 8))

/-- s with a work request put on a counter's list (R291). A list of 65,536 lets no more join. -/
def State.holdWr (s : State) (j : Job) : State :=
  let c := dby j.desc 30 2
  match s.counterOf c j.slice with
  | none => s.failJob j stCounterInvalid 0
  | some k =>
    if 65536 ≤ k.held.length then s
    else (s.updCtr c (fun k => { k with held := k.held ++ [(j.sr, j.tag)] })).updJob j.sr j.tag (fun j => { j with phase := .running, prog := [2] })

/-- A posted work request's data is gathered; a local buffer that cannot be read puts the QP into ERROR with it (R295). -/
def State.gatherWr (s : State) (j : Job) : State :=
  let qn := fld j.desc 64 20
  match Tbl.find s.tmt.qps qn with
  | none => s
  | some q => match q.msgs.find? (fun m => m.sr = j.sr && m.tag = j.tag) with
    | none => s
    | some m =>
      if m.data.isSome then s.updJob j.sr j.tag (fun k => { k with phase := .running })
      else match s.readOperand j m.lloc m.lhandle m.laddr m.len q.req with
        | .ok s bs =>
          (s.updQp qn (fun q => { q with msgs := q.msgs.map (fun x => if x.sr = j.sr && x.tag = j.tag then { x with data := some bs } else x) })).updJob
            j.sr j.tag (fun k => { k with phase := .running })
        | .wait s => s
        | .fail s st d => s.qpError qn (some (j.sr, j.tag, st, d))

/-- A work request (R270, R291): checked, first for what no QP has a say in (R6), and posted to its QP or to a counter's list; posted,
its data is gathered. -/
def State.workRequest (s : State) (sr tag op : Nat) : State :=
  s.withJob sr tag op fun s j =>
    let d := j.desc
    if j.p 0 = 1 then s.gatherWr j
    else if !wrOk d (2 ^ 30) 15 then s.failJob j stInvalidDescriptor 0
    else match Tbl.find s.tmt.qps (fld d 64 20) with
      | none => s.failJob j stQpInvalid 0
      | some q =>
        if q.slice ≠ j.slice then s.failJob j stQpInvalid 0
        else if !wrOk d q.payload q.compAllowed then s.failJob j stInvalidDescriptor 0
        else if (op = 0x32 || op = 0x34 || op = 0x35) && dby d 14 2 ≠ 0 && (s.counterOf (dby d 14 2) j.slice).isNone then s.failJob j stCounterInvalid 0
        else if !s.wrRoom (fld d 64 20) q op then s
        else if bit d 96 then s.holdWr j
        else (s.joinQp j).tmtDue (fld d 64 20)

def execTmtWrite (sr tag : Nat) (s : State) : Host.Outcome State Fault Refusal := .next (s.workRequest sr tag 0x30)
def execTmtWriteImm (sr tag : Nat) (s : State) : Host.Outcome State Fault Refusal := .next (s.workRequest sr tag 0x31)
def execTmtRead (sr tag : Nat) (s : State) : Host.Outcome State Fault Refusal := .next (s.workRequest sr tag 0x32)
def execTmtSend (sr tag : Nat) (s : State) : Host.Outcome State Fault Refusal := .next (s.workRequest sr tag 0x33)
def execTmtFetchAdd (sr tag : Nat) (s : State) : Host.Outcome State Fault Refusal := .next (s.workRequest sr tag 0x34)
def execTmtCompareSwap (sr tag : Nat) (s : State) : Host.Outcome State Fault Refusal := .next (s.workRequest sr tag 0x35)
def execTmtAccumulate (sr tag : Nat) (s : State) : Host.Outcome State Fault Refusal := .next (s.workRequest sr tag 0x36)

/-- TMT_RECV (R272). -/
def execTmtRecv (sr tag : Nat) (s : State) : Host.Outcome State Fault Refusal := .next (s.workRequest sr tag 0x38)

/-- TMT_ARM (R291): the counter armed must be allocated to the slice. -/
def execTmtArm (sr tag : Nat) (s : State) : Host.Outcome State Fault Refusal :=
  .next (s.withJob sr tag 0x37 fun s j =>
    if !wrOk j.desc 1024 0 then s.failJob j stInvalidDescriptor 0
    else if (s.counterOf (dby j.desc 14 2) j.slice).isNone then s.failJob j stCounterInvalid 0
    else if bit j.desc 96 then s.holdWr j
    else State.armCtr s.fireFuel s j)

/-! ## Queue pairs (R264 to R267) -/

def stKeyUsage : Nat := 0x803

/-- The KCE key slot a handle names for a slice (R381). -/
def State.kceSlot (s : State) (handle sl : Nat) : Option KeySlot :=
  match Tbl.find s.kce.slots (handle % 2 ^ 20) with
  | some k => if Tbl.get s.kce.gen (handle % 2 ^ 20) 0 = handle / 2 ^ 20 && k.slice = sl then some k else none
  | none => none

/-- The status a line-cipher key is refused with, if it is (R382, R393). -/
def State.lineKeyBad (s : State) (handle sl : Nat) : Option Nat :=
  match s.kceSlot handle sl with
  | none => some stInvalidHandle
  | some k => if s.rf R.KCE_STATUS 0 2 = 2 then some 0x806 else if k.dead then some 0x805
              else if k.kind ≠ 8 || !bit k.usage 6 then some stKeyUsage else none

/-- A path at the initial rate of a slice (R286). -/
def State.newPath (s : State) (sl : Nat) : Path := ⟨10 * s.rf (R.TMT_CC sl) 80 16, 0, 0, 0, false, 0, 0, 0, 0⟩

/-- The QP a create body describes, in INIT (R265). -/
def State.newQp (s : State) (sl d : Nat) : Qp :=
  { slice := sl, rm := fld d 96 2 = 1, sched := bit d 98, encrypt := bit d 99, ipv6 := bit d 100, vlan := bit d 101, payload := 1024 * 2 ^ fld d 108 2
    port := fld d 112 5, subport := fld d 117 3, denux := bit d 120, compAllowed := fld d 121 4, pasid := dby d 16 4, recvCr := dby d 20 2
    key := dby d 24 4, nextKey := 0, dscp := dby d 28 1, pcp := dby d 29 1, peerIndex := dby d 30 2, localIndex := dby d 32 2
    peerIp := leBytes 16 (dby d 34 16), peerMac := beNat (leBytes 6 (dby d 50 6)), peerQp := dby d 56 4, retry := fld d 480 4, rnrRetry := fld d 484 4
    ackCoalesce := dby d 61 1, state := .init, paths := List.replicate (fld d 104 4 + 1) (s.newPath sl)
    nextPsn := 0, nextMsn := 0, nextSsn := 0, ackBase := 0, unacked := [], msgs := [], expiries := 0, paused := false, keyPhase := false, keyPkts := 0
    rekey := false, closing := none, flushing := [], base := 0, rxMsn := 0, rxSet := [], rxMsgs := [], recvs := [], recvNext := 0, atomics := []
    sinceAck := 0, ackSince := 0, ceCount := 0, echoTs := 0, echoPath := 0, rxPhase := false, grace := false, graceSince := 0, responses := [], waiting := [], rxFault := none
    parity := 0 }

/-- Whether the fields of a create body are in range (R265). -/
def qpFieldsOk (d : Nat) : Bool :=
  dby d 8 4 % 2 ^ 31 < 2 ^ 20 && (bit d 95 || dby d 8 4 ≠ 0) && fld d 96 2 ≤ 1 && fld d 102 2 = 0 && (fld d 96 2 = 1 || fld d 104 4 = 0) &&
  fld d 108 2 ≠ 3 && fld d 110 2 = 0 && fld d 125 3 = 0 && dby d 16 4 < 2 ^ 20 && dby d 22 2 = 0 && dby d 28 1 < 64 && dby d 29 1 < 8 &&
  dby d 30 2 < 1024 && dby d 32 2 < 1024 && dby d 56 4 < 2 ^ 20 && 1 ≤ fld d 480 4 && 1 ≤ dby d 61 1 && dby d 62 2 = 0 &&
  (!bit d 120 || fld d 112 5 < 16)

/-- TMT_QP_CREATE (R264, R265, R296). -/
def execTmtQpCreate (sr tag : Nat) (s : State) : Host.Outcome State Fault Refusal :=
  .next (s.withJob sr tag 0x40 fun s j =>
    let d := j.desc
    let free := fun n => !Tbl.has s.tmt.qps n && !Tbl.has s.tmt.cooling n
    let num := if bit d 95 then ((List.range (s.tmt.qps.length + s.tmt.cooling.length + 1)).map (· + 1)).find? (fun n => free n && n < 2 ^ 20)
               else if free (dby d 8 4 % 2 ^ 20) then some (dby d 8 4 % 2 ^ 20) else none
    if !qpFieldsOk d then s.failJob j stInvalidDescriptor 0
    else if fld d 96 2 = 1 && !s.feature 8 then s.failJob j stFeatureOff 0
    else if (bit d 120 && (bit d 99 || fld d 96 2 = 1 || bit d 98)) || (bit d 98 && !bit d 120 && !s.ethPort (fld d 112 5) (fld d 117 3)) then
      s.failJob j stUnsupported 0
    else match (if bit d 99 then s.lineKeyBad (dby d 24 4) j.slice else none) with
      | some st => s.failJob j st 0
      | none =>
        if !s.quotaRoom j.slice 2 1 then (s.refused j.slice).failJob j stQuotaExceeded 0
        else match num with
          | none => s.failJob j (if bit d 95 then stResourceExhausted else stInvalidDescriptor) 0
          | some n => State.succeed { s with tmt := { s.tmt with qps := Tbl.put s.tmt.qps n (s.newQp j.slice d) } } j n)

/-- Runs f on the QP a body names at bytes 8–11, if it belongs to the slice. -/
def State.withQp (s : State) (j : Job) (f : State → Nat → Qp → State) : State :=
  let n := dby j.desc 8 4
  match (if n < 2 ^ 20 then Tbl.find s.tmt.qps n else none) with
  | some q => if q.slice = j.slice then f s n q else s.failJob j stQpInvalid 0
  | none => s.failJob j stQpInvalid 0

/-- A QP entering RTS (R266): every number at 0; posted receive WRs keep their order. -/
def Qp.toRts (q : Qp) : Qp :=
  { q with state := .rts, nextPsn := 0, nextMsn := 0, nextSsn := 0, ackBase := 0, unacked := [], base := 0, rxMsn := 0, rxSet := [], rxMsgs := []
           expiries := 0, paused := false, responses := [], waiting := [], rxFault := none, atomics := [], sinceAck := 0, ceCount := 0
           recvs := (q.recvs.zip (List.range q.recvs.length)).map (fun r => { r.1 with ssn := r.2 }), recvNext := q.recvs.length }

/-- TMT_QP_MODIFY (R267, R289). -/
def execTmtQpModify (sr tag : Nat) (s : State) : Host.Outcome State Fault Refusal :=
  .next (s.withJob sr tag 0x41 fun s j =>
    let d := j.desc
    let a := dby d 12 1
    if 4 ≤ a || !rsvdZero d ([(8, 4), (12, 1)] ++ (if a = 3 then [(24, 4)] else [])) then s.failJob j stInvalidDescriptor 0
    else s.withQp j fun s n q =>
      if a = 0 then
        let member := s.rf R.TLN_STATUS 2 2 = 1 && s.rf R.TLN_STATUS 4 10 = q.localIndex
        if q.state ≠ .init || (q.sched && !member) then s.failJob j stQpState 0
        else ((s.updQp n Qp.toRts).tmtDue n).succeed j 0
      else if a = 1 then
        if q.state ≠ .rts then s.failJob j stQpState 0 else (s.qpError n none).succeed j 0
      else if a = 2 then
        if q.state ≠ .error || q.closing.isSome then s.failJob j stQpState 0
        else (s.updQp n (fun q => { q with state := .init, msgs := [], unacked := [] })).succeed j 0
      else if q.state ≠ .rts || !q.encrypt || q.nextKey ≠ 0 then s.failJob j stQpState 0
      else match s.lineKeyBad (dby d 24 4) j.slice with
        | some st => s.failJob j st 0
        | none => (s.updQp n (fun q => { q with nextKey := dby d 24 4, keyPhase := !q.rxPhase, keyPkts := 0, rekey := false, parity := 0 })).succeed j 0)

/-- Whether every work request of a QP has completed. -/
def State.wrIdle (s : State) (qn : Nat) (q : Qp) : Bool := (s.wrTags qn q).isEmpty && q.closing.isNone

/-- TMT_QP_DESTROY (R264, R267): the number is not reissued before its own timer. -/
def execTmtQpDestroy (sr tag : Nat) (s : State) : Host.Outcome State Fault Refusal :=
  .next (s.withJob sr tag 0x42 fun s j =>
    if !rsvdZero j.desc [(8, 4)] then s.failJob j stInvalidDescriptor 0
    else s.withQp j fun s n q =>
      if q.state = .rts || !s.wrIdle n q then s.failJob j stQpState 0
      else State.succeed { s with tmt := { s.tmt with qps := Tbl.del s.tmt.qps n, cooling := Tbl.put s.tmt.cooling n s.timeNs } } j 0)

def QpState.code : QpState → Nat
  | .init => 1 | .rts => 2 | .error => 3

/-- TMT_QP_QUERY (R267). -/
def execTmtQpQuery (sr tag : Nat) (s : State) : Host.Outcome State Fault Refusal :=
  .next (s.withJob sr tag 0x43 fun s j =>
    if !rsvdZero j.desc [(8, 4)] then s.failJob j stInvalidDescriptor 0
    else s.withQp j fun s n q =>
      let out := (s.wrTags n q).length
      s.succeed j (q.state.code + 8 * b2n q.rekey + out % 65536 * 2 ^ 16 + q.nextPsn * 2 ^ 32))

/-! ## Keys and counters (R288, R292) -/

/-- TMT_KEY_BIND (R287, R288). -/
def execTmtKeyBind (sr tag : Nat) (s : State) : Host.Outcome State Fault Refusal :=
  .next (s.withJob sr tag 0x44 fun s j =>
    let d := j.desc
    let any := dby d 8 4 = 0xFFFFFFFF
    let kind := dby d 12 1
    let h := dby d 16 4
    let slot := if any then lowestFree s.tmt.aks 0 262144 else if Tbl.has s.tmt.aks (dby d 8 4) then none else some (dby d 8 4)
    if !rsvdZero d [(8, 6), (16, 4)] || 2 < kind || 8 ≤ dby d 13 1 || (!any && 262144 ≤ dby d 8 4) then s.failJob j stInvalidDescriptor 0
    else if (kind = 0 && (2 ^ 20 ≤ h || Tbl.find s.pasids h ≠ some j.slice)) || (kind = 1 && (s.region h j.slice).isNone) || (kind = 2 && 16 ≤ h) then
      s.failJob j stInvalidHandle 0
    else if kind = 1 && dby d 13 1 % 2 + dby d 13 1 / 4 ≠ 0 && s.bound h then s.failJob j stAddressError 0
    else if !s.quotaRoom j.slice 3 1 then (s.refused j.slice).failJob j stQuotaExceeded 0
    else match slot with
      | none => s.failJob j (if any then stResourceExhausted else stInvalidHandle) 0
      | some n => State.succeed { s with tmt := { s.tmt with aks := Tbl.put s.tmt.aks n ⟨j.slice, kind, dby d 13 1, h⟩ } } j (n * 16384 + Tbl.get s.tmt.akGen n 0))

/-- Whether a placement of the target side of a slice's QPs waits: on the copy guard, or on an atomic's answer (R288). -/
def State.placing (s : State) (sl : Nat) : Bool :=
  s.tmt.qps.any (fun q => q.2.slice = sl && (!q.2.waiting.isEmpty ||
    s.mem.guardWait.any (fun w => ownerNum (65536 + q.1) 0 ≤ w.owner && w.owner < ownerNum (65537 + q.1) 0)))

/-- A revoked key's command commits, once a landing read on each link that a QP of its slice has written over has returned (R288, R333). -/
def State.revoked (s : State) (j : Job) : State :=
  let mine := s.pcie.wroteLinks.filter (fun w => s.tmt.qps.any (fun q => q.2.slice = j.slice && w.1 = 65536 + q.1))
  State.succeed { s with pcie := { s.pcie with wroteLinks := s.pcie.wroteLinks ++ mine.map (fun w => (j.sr, j.tag, w.2.2)) } } j 0

/-- TMT_KEY_REVOKE (R288): the generation goes up and the slot is free at once; the command commits once every placement under
the old generation is visible. -/
def execTmtKeyRevoke (sr tag : Nat) (s : State) : Host.Outcome State Fault Refusal :=
  .next (s.withJob sr tag 0x45 fun s j =>
    let n := dby j.desc 8 4 / 16384
    if !rsvdZero j.desc [(8, 4)] then s.failJob j stInvalidDescriptor 0
    else if j.p 0 = 1 then (if s.placing j.slice then s else s.revoked j)
    else match s.akFor j.slice (dby j.desc 8 4) 0 with
      | none => s.failJob j stInvalidHandle 0
      | some _ =>
        let s : State := { s with tmt := { s.tmt with aks := Tbl.del s.tmt.aks n, akGen := Tbl.set s.tmt.akGen n ((Tbl.get s.tmt.akGen n 0 + 1) % 16384) 0 } }
        if s.placing j.slice then s.updJob j.sr j.tag (fun k => { k with prog := [1] }) else s.revoked j)

/-- Whether something still names a counter (R292): held WRs, an active PIPE_ARM, a queued or running COLL_STEP. -/
def State.counterBusy (s : State) (c : Nat) : Bool :=
  (match Tbl.find s.tmt.ctrs c with | some k => !k.held.isEmpty | none => false) ||
  s.pipes.tab.any (fun p => match p.2.arm with | some a => (a.source = 1 && a.sourceId = c) || a.req.onDone = some c | none => false) ||
  s.colls.plans.any (fun p => (match p.2.current with | some k => decide (k.onDone = some c) | none => false) || p.2.queue.any (fun k => k.onDone = some c))

/-- TMT_COUNTER (R292). -/
def execTmtCounter (sr tag : Nat) (s : State) : Host.Outcome State Fault Refusal :=
  .next (s.withJob sr tag 0x46 fun s j =>
    let d := j.desc
    let a := dby d 12 1
    let c := dby d 14 2
    if 4 ≤ a || !rsvdZero d ([(12, 1), (14, 2)] ++ (if a = 2 then [(48, 4)] else [])) then s.failJob j stInvalidDescriptor 0
    else if a = 0 then
      if c ≠ 0 && Tbl.has s.tmt.ctrs c then s.failJob j stCounterInvalid 0
      else match (if c = 0 then lowestFree s.tmt.ctrs 1 65535 else some c) with
        | none => s.failJob j stResourceExhausted 0
        | some n =>
          if !s.quotaRoom j.slice 4 1 then (s.refused j.slice).failJob j stQuotaExceeded 0
          else State.succeed { s with tmt := { s.tmt with ctrs := Tbl.put s.tmt.ctrs n ⟨j.slice, 0, 0, false, []⟩ } } j n
    else match s.counterOf c j.slice with
      | none => s.failJob j stCounterInvalid 0
      | some k =>
        if a = 1 then
          if s.counterBusy c then s.failJob j stCounterInvalid 0
          else State.succeed { s with tmt := { s.tmt with ctrs := Tbl.del s.tmt.ctrs c } } j 0
        else if a = 2 then
          let s := s.updCtr c (fun k => { k with value := dby d 48 4 })
          (State.fire s.fireFuel s c).succeed j 0
        else s.succeed j (k.value + k.threshold * 2 ^ 32))

/-! ## Packets -/

/-- TMT_PACKET_TRANSMIT (R176, R285, R286, R289, R399): QP qn sends its next packet; `parity` says the line cipher found a
mismatch in it. -/
def execTmtPacketTransmit (qn : Nat) (parity : Bool) (s : State) : Host.Outcome State Fault Refusal := .next (s.tmtTransmit qn parity)

/-- A packet of one type arrives; another type is no event of the command (log entry 4). -/
def State.arriveAs (s : State) (t : Nat) (p : Pkt) : State := if p.ptype = t then s.tmtArrive p false else s

def execRxWrite (p : Pkt) (s : State) : Host.Outcome State Fault Refusal := .next (s.arriveAs 1 p)
def execRxWriteImm (p : Pkt) (s : State) : Host.Outcome State Fault Refusal := .next (s.arriveAs 2 p)
def execRxSend (p : Pkt) (s : State) : Host.Outcome State Fault Refusal := .next (s.arriveAs 3 p)
def execRxAccumulate (p : Pkt) (s : State) : Host.Outcome State Fault Refusal := .next (s.arriveAs 4 p)
def execRxReadReq (p : Pkt) (s : State) : Host.Outcome State Fault Refusal := .next (s.arriveAs 5 p)
def execRxReadResp (p : Pkt) (s : State) : Host.Outcome State Fault Refusal := .next (s.arriveAs 6 p)
def execRxAtomicReq (p : Pkt) (s : State) : Host.Outcome State Fault Refusal := .next (s.arriveAs 7 p)
def execRxAtomicResp (p : Pkt) (s : State) : Host.Outcome State Fault Refusal := .next (s.arriveAs 8 p)
def execRxAck (p : Pkt) (s : State) : Host.Outcome State Fault Refusal := .next (s.arriveAs 9 p)

/-- A CTRL packet of a subtype arrives. The subtype of a protected packet stands in its header, in clear. -/
def State.arriveCtrl (s : State) (sub : Nat) (p : Pkt) : State := if fld p.w18 0 16 = sub then s.arriveAs 0xA p else s

def execRxCtrlStopNotice (p : Pkt) (s : State) : Host.Outcome State Fault Refusal := .next (s.arriveCtrl 1 p)
def execRxCtrlStepCheck (p : Pkt) (s : State) : Host.Outcome State Fault Refusal := .next (s.arriveCtrl 2 p)
def execRxCtrlClose (p : Pkt) (s : State) : Host.Outcome State Fault Refusal := .next (s.arriveCtrl 3 p)

/-- MESSAGE_DELIVERY (R276 to R278). -/
def execMessageDelivery (qn : Nat) (s : State) : Host.Outcome State Fault Refusal := .next (s.rxDeliver qn)

/-! ## Timers -/

/-- ACK_TIMER (R281): 2 µs after the first arrival that is not acknowledged. -/
def execAckTimer (qn : Nat) (s : State) : Host.Outcome State Fault Refusal :=
  .next (match Tbl.find s.tmt.qps qn with
    | some q => if q.state = .rts && q.sinceAck ≠ 0 && q.ackSince + 2000 ≤ s.timeNs && s.rf R.TMT_CTRL 16 1 = 1 then s.sendAck qn 0 0 else s
    | none => s)

/-- The RTO on a path of a QP: a PAUSE holds it at 4 ms (R283). -/
def Qp.rto (q : Qp) (k : Nat) : Nat := if q.paused then 4000000 else match q.paths[k]? with
  | some p => p.rto
  | none => 50000

/-- RETRANSMIT_TIMEOUT (R282, R283, R285): the timer of path k of QP qn expires, its RTO over: its oldest PSN waits to be sent again and
the path is suspect. At the retry limit the QP enters ERROR, and one already in ERROR gives its close up (R294). -/
def execRetransmitTimeout (qn k : Nat) (s : State) : Host.Outcome State Fault Refusal :=
  .next (match Tbl.find s.tmt.qps qn with
    | none => s
    | some q => match q.unacked.find? (fun u => u.path = k && !u.lost) with
      | none => s
      | some u =>
        if s.timeNs < u.time + q.rto k then s
        else if q.retry ≤ q.expiries + 1 then
          if q.state = .error then s.closeDone qn
          else s.qpError qn ((q.msgOf u.psn).bind (fun m => if m.op < 0x100 then some (m.sr, m.tag, stRetryExceeded, 0) else none))
        else s.updQp qn (fun q =>
          { q.updPath k (fun p => { p with suspect := true, since := s.timeNs, probed := s.timeNs, backoff := p.backoff + 1 }) with
            expiries := q.expiries + 1
            unacked := q.unacked.map (fun v => if v.psn = u.psn then { v with lost := true, later := 0 } else v) }))

/-- RNR_WAIT_EXPIRY (R283): 20 µs after the answer the message waits no longer, and every packet of it is sent again. -/
def execRnrWaitExpiry (qn : Nat) (s : State) : Host.Outcome State Fault Refusal :=
  .next (match Tbl.find s.tmt.qps qn with
    | none => s
    | some q => match q.msgs.find? (fun m => m.rnrWait && m.rnrSince + 20000 ≤ s.timeNs) with
      | none => s
      | some m => s.updQp qn (fun q => { q with
          msgs := q.msgs.map (fun x => if x.started && x.psn0 = m.psn0 then { x with rnrWait := false } else x)
          unacked := q.unacked.map (fun u => if psnDiff u.psn m.psn0 < max 1 m.npkt then { u with lost := true, later := 0 } else u) }))

/-- PATH_SUSPECT_EXPIRY (R285): after 1 ms. -/
def execPathSuspectExpiry (qn k : Nat) (s : State) : Host.Outcome State Fault Refusal :=
  .next (s.updQp qn (fun q => q.updPath k (fun p => if p.since + 10 ^ 6 ≤ s.timeNs then { p with suspect := false } else p)))

/-- REKEY_GRACE_EXPIRY (R289): 8 ms after the first packet in the new key phase the old key phase is accepted no longer, and the next pair takes its place. -/
def execRekeyGraceExpiry (qn : Nat) (s : State) : Host.Outcome State Fault Refusal :=
  .next (s.updQp qn (fun q => if q.grace && q.nextKey ≠ 0 && q.graceSince + 8 * 10 ^ 6 ≤ s.timeNs then { q with key := q.nextKey, nextKey := 0, rxPhase := !q.rxPhase, grace := false } else q))

/-- QP_NUMBER_RELEASE (R264): after 16 ms. -/
def execQpNumberRelease (qn : Nat) (s : State) : Host.Outcome State Fault Refusal :=
  .next (match Tbl.find s.tmt.cooling qn with
    | some t => if t + 16 * 10 ^ 6 ≤ s.timeNs then { s with tmt := { s.tmt with cooling := Tbl.del s.tmt.cooling qn } } else s
    | none => s)

/-- CC_PARAMETER_APPLY (R286): what TMT_CC of a slice says reaches its QPs; rates below the new r_min are raised to it. -/
def execCcParameterApply (sl : Nat) (s : State) : Host.Outcome State Fault Refusal :=
  .next (
    let rmin := 10 * s.rf (R.TMT_CC sl) 64 16
    { s with tmt := { s.tmt with qps := Tbl.mapV s.tmt.qps (fun _ q =>
        if q.slice = sl then { q with paths := q.paths.map (fun p => { p with rate := max rmin p.rate }) } else q) } })

end Sys2Proof.Machine
end

