-- ==== Sys2Proof/Machine/Checkpoint.lean ====
section
/-! DEFINITION. The commands of 15_checkpoint, and the scrub of the hub stores, port buffers and control store (R235), which
meets the copy guard. -/

namespace Sys2Proof.Machine

def stJobInvalid : Nat := 0x700
def stCkpBusy : Nat := 0x701
def stUnsealed : Nat := 0x702
def stDigestMismatch : Nat := 0x703
def stSealInvalid : Nat := 0x704
def stPeerFailed : Nat := 0x705
def stSnapshotLost : Nat := 0x706

/-! ## Images and their formats (R363, R369, R372) -/

/-- Bytes stored of one 4 KiB page under a format code. -/
def outBytes (code : Nat) : Nat := match code with
  | 1 => 2048
  | 2 => 1032
  | 3 => 2064
  | _ => 4096

/-- A binary32 as code 1 stores it, and whether it saturated. -/
def toBf16 (x : Nat) : Nat × Nat := match Fmt.binary32.decode x with
  | .fin n m e => let r := Fmt.bfloat16.round rmRNE true 0 (.fin n m e); (r.1, if r.2 &&& fOV = 0 then 0 else 1)
  | v => ((Fmt.bfloat16.round rmRNE true 0 v).1, 0)

/-- The scale X of a block whose largest magnitude is m × 2^e. -/
def blockScale (m : Nat) (e : Int) : Nat :=
  let x := log2Of m e - 8 + 127
  let x := if magGt 464 (x - 127) m e then x else x + 1
  min x.toNat 254

/-- A block of 128 values as codes 2 and 3 store it: the scale, then the elements (log entry 50). -/
def packBlock (vs : List FV) : List Byte :=
  if !vs.all FV.isFin then leBytes 1 0xFF ++ zeroBytes 128
  else
    let a := maxMag vs
    if a.1 = 0 then zeroBytes 129
    else
      let x := blockScale a.1 a.2
      leBytes 1 x ++ vs.map (fun v => BitVec.ofNat 8 (Fmt.e4m3.round rmRNE true 0 (v.scale (127 - (x : Int)))).1)

/-- The 128 values of a stored block; under scale 0xFF they are NaN. -/
def unpackBlock (b : List Byte) : List FV :=
  let x := leAt b 0 1
  ((b.drop 1).take 128).map (fun e => if x = 0xFF then FV.nan else (Fmt.e4m3.decode e.toNat).scale ((x : Int) - 127))

/-- A page as its format code stores it, and how many results saturated. -/
def packPage (code : Nat) (b : List Byte) : List Byte × Nat := match code with
  | 1 => let r := (elemsOf 32 1024 b).map toBf16; ((r.map (fun x => leBytes 2 x.1)).flatten, (r.map Prod.snd).sum)
  | 2 => (((chunksOf 128 8 ((elemsOf 32 1024 b).map Fmt.binary32.decode)).map packBlock).flatten, 0)
  | 3 => (((chunksOf 128 16 ((elemsOf 16 2048 b).map Fmt.bfloat16.decode)).map packBlock).flatten, 0)
  | _ => (b, 0)

/-- A page restored from its stored form. -/
def unpackPage (code : Nat) (b : List Byte) : List Byte := match code with
  | 1 => ((elemsOf 16 1024 b).map (fun x => leBytes 4 (Fmt.binary32.round rmRNE false 0 (Fmt.bfloat16.decode x)).1)).flatten
  | 2 => ((chunksOf 129 8 b).map (fun k => ((unpackBlock k).map (fun v => leBytes 4 (Fmt.binary32.round rmRNE false 0 v).1)).flatten)).flatten
  | 3 => ((chunksOf 129 16 b).map (fun k => ((unpackBlock k).map (fun v => leBytes 2 (Fmt.bfloat16.round rmRNE false 0 v).1)).flatten)).flatten
  | _ => b

/-- Pages of a region; 0 when the handle names none. -/
def State.regionPages (s : State) (sl handle : Nat) : Nat := match s.region handle sl with
  | some r => r.dataBytes / 4096
  | none => 0

/-- Bytes of a shard's image (R363). -/
def State.imageBytes (s : State) (sl : Nat) (sh : List (Nat × Nat)) : Nat :=
  roundUp ((sh.map (fun g => s.regionPages sl g.1 * outBytes g.2)).sum) 4096

/-- Bytes of all images of a job's record. -/
def State.imagesBytes (s : State) (k : CkJob) : Nat := (k.shards.map (s.imageBytes k.slice)).sum

/-- The pages of a region list whose image begins at `base` of the snapshot area, in image order. -/
def State.pagesOf (s : State) (sl : Nat) : Nat → Nat → List (Nat × Nat) → List CkPage
  | _, _, [] => []
  | num, base, (h, code) :: rest =>
    let n := s.regionPages sl h
    let mine := match s.region h sl with
      | some r => (List.range n).map (fun p => ⟨num + p, r.dpa (p * 4096) / 4096, base + p * outBytes code, code⟩)
      | none => []
    mine ++ s.pagesOf sl (num + n) (base + n * outBytes code) rest

/-- Every page of a job's shards in image order. -/
def State.jobPages (s : State) (k : CkJob) : List CkPage :=
  (k.shards.foldl (fun (acc : List CkPage × Nat) sh =>
    (acc.1 ++ s.pagesOf k.slice acc.1.length acc.2 sh, acc.2 + s.imageBytes k.slice sh)) ([], 0)).1

/-! ## Job records (R360, R361) -/

/-- The job a handle names for a slice. -/
def State.ckJob (s : State) (handle sl : Nat) : Option (Nat × CkJob) :=
  match Tbl.find s.ckp.jobs (handle % 256) with
  | some k => if handle / 256 = Tbl.get s.ckp.gen (handle % 256) 0 && k.slice = sl then some (handle % 256, k) else none
  | none => none

def State.updCk (s : State) (n : Nat) (f : CkJob → CkJob) : State := { s with ckp := { s.ckp with jobs := Tbl.upd s.ckp.jobs n f } }

/-- Whether a record serves the station's active index (R167). -/
def State.ckIndexOk (s : State) (k : CkJob) : Bool := s.rf R.TLN_STATUS 2 2 = 1 && s.rf R.TLN_STATUS 4 10 = k.index

def peerOf (b : List Byte) : CkPeer :=
  ⟨leAt b 0 2, leAt b 2 1, (List.range (leAt b 3 1)).map (fun i => leAt b 4 4 + i), leAt b 8 4⟩

/-- The shard table's region lists: handle and format code. -/
def shardOf (b : List Byte) : List (Nat × Nat) := (List.range (leAt b 0 1)).map (fun i => (leAt b (8 + 8 * i) 4, leAt b (12 + 8 * i) 1))

/-- The job a record describes. -/
def ckJobOf (sl : Nat) (h : List Byte) (ps ss : List (List Byte)) : CkJob :=
  { slice := sl, index := leAt h 6 2, jobId := leAt h 8 4, standby := bit (leAt h 14 1) 0, holder := bit (leAt h 14 1) 1
    second := bit (leAt h 14 1) 2, key := leAt h 16 4, snap := leAt h 20 4, buddy := leAt h 24 4, manifest := leAt h 28 4, hb := leAt h 32 4
    slotBytes := leAt h 36 8, total := leAt h 44 4, peers := ps.map peerOf, shards := ss.map shardOf, last := 0, first := true, holds := none, run := none, hbAt := 0, tickAt := 0 }

def headerFits (h : List Byte) : Bool :=
  let f := leAt h 14 1
  leAt h 0 4 = 0x504B4343 && leAt h 4 1 = 0 && leAt h 5 1 = 1 && leAt h 6 2 < 1024 && 1 ≤ leAt h 12 1 && leAt h 12 1 ≤ 64 && 1 ≤ leAt h 13 1 && leAt h 13 1 ≤ 8 &&
  f < 8 && (!bit f 2 || bit f 1) && leAt h 36 8 % 4096 = 0 && 1 ≤ leAt h 44 4 && leAt h 44 4 ≤ 65536 && (bit f 1 || leAt h 28 4 = 0) &&
  zeroAt h [(15, 1), (48, 80)]

def peerFits (b : List Byte) : Bool :=
  leAt b 0 2 < 1024 && 1 ≤ leAt b 2 1 && leAt b 2 1 ≤ 5 && 1 ≤ leAt b 3 1 && leAt b 3 1 ≤ 16 && zeroAt b [(12, 4)]

def shardFits (b : List Byte) : Bool :=
  let n := leAt b 0 1
  1 ≤ n && n ≤ 15 && zeroAt b [(1, 7), (8 + 8 * n, 128 - 8 - 8 * n)] && (List.range n).all (fun i => leAt b (12 + 8 * i) 1 ≤ 3 && zeroAt b [(13 + 8 * i, 3)])

/-- Bytes of a manifest slot (R368). -/
def manifestBytes : Nat := 128 + 65536 * 80

/-- Whether a parsed record passes R361. -/
def State.ckJobOk (s : State) (k : CkJob) : Bool :=
  let regions := (k.shards.flatten.map Prod.fst) ++ [k.snap, k.buddy, k.hb] ++ (if k.holder then [k.manifest] else [])
  let primary := (k.peers.filter (fun p => p.role = 3)).length + b2n (k.holder && !k.second)
  let second := (k.peers.filter (fun p => p.role = 5)).length + b2n (k.holder && k.second)
  regions.all (fun h => (s.region h k.slice).isSome) && noRepeat regions &&
  k.shards.flatten.all (fun g => match s.region g.1 k.slice with | some r => g.2 = 0 || r.dataBytes % 4096 = 0 | none => false) &&
  (match s.region k.snap k.slice with | some r => decide (s.imagesBytes k ≤ r.dataBytes) | none => false) &&
  s.imagesBytes k + 8192 ≤ k.slotBytes && k.peers.any (fun p => p.role = 1) && primary = 1 && second ≤ 1 && (k.standby || s.ckIndexOk k)

/-- The status the job's seal key is refused with, if it is (R382). -/
def State.sealKeyBad (s : State) (handle sl : Nat) : Option Nat :=
  match s.kceSlot handle sl with
  | none => some stInvalidHandle
  | some k => if k.dead then some 0x805 else if k.kind ≠ 5 || !bit k.usage 7 then some stKeyUsage else none

/-- CKP_JOB_LOAD (R361). -/
def execCkpJobLoad (sr tag : Nat) (s : State) : Host.Outcome State Fault Refusal :=
  .next (s.withJob sr tag 0x60 fun s j =>
    let d := j.desc
    let off := dby d 8 8
    if !rsvdZero d [(8, 12)] then s.failJob j stInvalidDescriptor 0
    else match s.region (dby d 16 4) j.slice with
      | none => s.failJob j stInvalidHandle 0
      | some r => match s.readRegion r off 128 with
        | .fail s st d => s.failJob j st d
        | .ok s h =>
          let np := leAt h 13 1
          let ns := leAt h 12 1
          if !headerFits h then s.failJob j stJobInvalid 0
          else match s.readRegion r (off + 128) (16 * np + 128 * ns) with
            | .fail s st d => s.failJob j st d
            | .ok s b =>
              let ps := (List.range np).map (sect b 0 16)
              let ss := (List.range ns).map (sect b (16 * np) 128)
              let k := ckJobOf j.slice h ps ss
              if !ps.all peerFits || !ss.all shardFits || !s.ckJobOk k then s.failJob j stJobInvalid 0
              else match s.sealKeyBad k.key j.slice, lowestFree s.ckp.jobs 0 16 with
                | some st, _ => s.failJob j st 0
                | none, none => s.failJob j stResourceExhausted 0
                | none, some n =>
                  State.succeed { s with ckp := { s.ckp with jobs := Tbl.put s.ckp.jobs n { k with hbAt := s.timeNs, tickAt := s.timeNs } } } j (n + 256 * Tbl.get s.ckp.gen n 0))

/-- Runs a descriptor that names a job in bytes 8 to 11; a job whose index is not this station's is not in effect (R361, log
entry 58). -/
def State.withCk (s : State) (sr tag op : Nat) (used : List (Nat × Nat)) (live : Bool) (f : State → Job → Nat → CkJob → State) : State :=
  s.withJob sr tag op fun s j =>
    if !rsvdZero j.desc ((8, 4) :: used) then s.failJob j stInvalidDescriptor 0
    else match s.ckJob (dby j.desc 8 4) j.slice with
      | none => s.failJob j stJobInvalid 0
      | some (n, k) => if live && k.standby && !s.ckIndexOk k then s.failJob j stJobInvalid 0 else f s j n k

/-- Whether another outstanding descriptor of the job has one of the opcodes and has begun. -/
def State.ckBusy (s : State) (j : Job) (ops : List Nat) : Bool :=
  s.ring.jobs.any (fun i => !(i.sr = j.sr && i.tag = j.tag) && ops.contains (dOpcode i.desc) && dby i.desc 8 4 = dby j.desc 8 4 && i.slice = j.slice &&
    (i.phase = .running || !i.prog.isEmpty))

/-- CKP_JOB_UNLOAD (R379). -/
def execCkpJobUnload (sr tag : Nat) (s : State) : Host.Outcome State Fault Refusal :=
  .next (s.withCk sr tag 0x61 [] false fun s j n _ =>
    let busy := s.ring.jobs.any (fun i => 0x62 ≤ dOpcode i.desc && dOpcode i.desc ≤ 0x67 && dby i.desc 8 4 = dby j.desc 8 4 && i.slice = j.slice)
    if busy then s.failJob j stCkpBusy 0
    else State.succeed { s with ckp := { s.ckp with jobs := Tbl.del s.ckp.jobs n, gen := Tbl.put s.ckp.gen n ((Tbl.get s.ckp.gen n 0 + 1) % 65536) } } j 0)

/-! ## Snapshots (R362 to R366) -/

/-- A manifest slot's header: sealed, for a job and a step. -/
def sealedFor (b : List Byte) (k : CkJob) (step : Nat) : Bool :=
  leAt b 0 4 = 0x4E4D4B43 && leAt b 4 4 = k.jobId && leAt b 8 4 = step && bit (leAt b 16 1) 0

/-- n bytes of the manifest slot of a parity on this holder. -/
def State.slotRead (s : State) (k : CkJob) (parity n : Nat) : State × List Byte :=
  match s.region k.manifest k.slice with
  | none => (s, [])
  | some r => match s.readRegion r (parity % 2 * manifestBytes) n with
    | .ok s b => (s, b)
    | .fail s _ _ => (s, [])

/-- CKP_SNAPSHOT: `isSealed` is what the primary holder answers about step T − 1 where this device is not that holder (log
entry 46). -/
def execCkpSnapshot (sr tag : Nat) (isSealed : Bool) (s : State) : Host.Outcome State Fault Refusal :=
  .next (s.withCk sr tag 0x62 [(12, 4)] true fun s j n k =>
    let T := dby j.desc 12 4
    if s.ckBusy j [0x62, 0x64, 0x66] then s.failJob j stCkpBusy 0
    else
      let (s, ok) := if k.first then (s, true) else if T = 0 then (s, false)
        else if k.holder && !k.second then (let r := s.slotRead k (T - 1) 128; (r.1, sealedFor r.2 k (T - 1)))
        else (s, isSealed)
      if !ok then s.failJob j stUnsealed 0
      else (s.park j .running).updCk n (fun k => { k with run := some ⟨sr, tag, T, 1, [], [], [], 0, false, s.timeNs⟩ }))

/-- GUARD_ARM: at the first beat boundary after acceptance every page is guarded (R362); a beat is 1,024 ns (R168). -/
def execGuardArm (n : Nat) (s : State) : Host.Outcome State Fault Refusal :=
  .next (match Tbl.find s.ckp.jobs n with
    | none => s
    | some k => match k.run with
      | none => s
      | some r =>
        if r.phase ≠ 1 || s.timeNs < (r.since / 1024 + 1) * 1024 then s
        else
          let ps := s.jobPages k
          let s : State := { s with mem := { s.mem with guard := ps.foldl (fun g p => setIns g p.page) s.mem.guard } }
          s.updCk n (fun k => { k with holds := none, run := some { r with phase := 2, left := ps } }))

/-- The hub whose DRAM holds a page. -/
def CkPage.hub (p : CkPage) : Nat := p.page * 4096 / hubBytes

/-- s with a snapshot's descriptor ended by a failure. -/
def State.snapFails (s : State) (r : CkSnap) (st d : Nat) : State := match s.job r.sr r.tag with
  | some j => s.finish j st noUnit d r.sent
  | none => s

/-- COPIER_PAGE (R363, R365): hub h's copier takes the page of its earliest waiting write, else the next in image order, and
writes its stored form into the snapshot area. -/
def execCopierPage (n h : Nat) (s : State) : Host.Outcome State Fault Refusal :=
  .next (match Tbl.find s.ckp.jobs n with
    | none => s
    | some k => match k.run with
      | none => s
      | some r =>
        let mine := r.left.filter (fun p => p.hub = h)
        let wanted := s.mem.guardWait.findSome? (fun w => mine.find? (fun p => p.page = w.dpa / 4096))
        match mine with
        | [] => s
        | p0 :: _ =>
          if r.phase ≠ 2 || r.reading.any (fun p => p.hub = h) then s
          else
            let p := wanted.getD p0
            let s := if p.num = p0.num then s else s.cnt R.CKP_OOO_TAKES
            match s.readDpa (p.page * 4096) 4096 with
            | .fail s st d => s.snapFails r st d
            | .ok s b =>
              let o := packPage p.code b
              match s.region k.snap k.slice with
              | none => s.snapFails r stInvalidHandle 0
              | some a => match s.writeRegion a p.out o.1 (ownerNum r.sr r.tag) with
                | (s, _, some (st, d)) => s.snapFails r st d
                | (s, _, none) =>
                  let r := { r with left := r.left.filter (fun q => q.num ≠ p.num), reading := r.reading ++ [p] }
                  ((s.cnt R.CKP_BYTES_COPIED o.1.length).cnt R.CKP_SATURATED o.2).updCk n (fun k => { k with run := some r }))

/-- s with data sent to a peer over its QPs in turn, in messages of at most 2^28 bytes, to an offset of what its key names. -/
def State.sendOver (s : State) (p : CkPeer) (sr tag at' ctr : Nat) (data : List Byte) : State :=
  (pieces (2 ^ 28) (data.length / 2 ^ 28 + 2) 0 data.length).foldl (fun s x =>
    s.postInner (nth p.qps (x.1 / 2 ^ 28 % p.qps.length) 0) 0x30 sr tag (at' + x.1) p.ak ctr (bsub data x.1 x.2)) s

/-- Whether every QP of a peer is a slice's own and may send. -/
def State.peerReady (s : State) (sl : Nat) (p : CkPeer) : Bool :=
  p.qps.all (fun q => match Tbl.find s.tmt.qps q with | some x => x.slice = sl && x.state = .rts | none => false)

def CkJob.peer (k : CkJob) (role : Nat) : Option CkPeer := k.peers.find? (fun p => p.role = role)

/-- Phase 3 begins: the images leave for the buddy's slot of the step's parity. -/
def State.snapStream (s : State) (n : Nat) (k : CkJob) (r : CkSnap) : State :=
  match k.peer 1, s.region k.snap k.slice with
  | some p, some a =>
    if !s.peerReady k.slice p then s.snapFails r stQpState 0
    else match s.readRegion a 0 (s.imagesBytes k) with
      | .fail s st d => s.snapFails r st d
      | .ok s b =>
        (s.sendOver p r.sr r.tag (r.step % 2 * k.slotBytes) 0 b).updCk n (fun k => { k with run := some { r with phase := 3, sent := b.length } })
  | _, _ => s.snapFails r stInvalidHandle 0

/-- PAGE_COPY_DONE (R365, R366): the copier's read has returned its last line; the bit clears and waiting writes proceed. The
last page of all ends the copy phase. -/
def execPageCopyDone (n h : Nat) (s : State) : Host.Outcome State Fault Refusal :=
  .next (match Tbl.find s.ckp.jobs n with
    | none => s
    | some k => match k.run with
      | none => s
      | some r => match r.reading.find? (fun p => p.hub = h) with
        | none => s
        | some p =>
          let r := { r with reading := r.reading.filter (fun q => q.num ≠ p.num), copied := r.copied ++ [p] }
          let s := s.updCk n (fun k => { k with run := some r })
          let s := if s.pageRuns p.page then s else ((s.releaseGuard p.page).settleWrites.storRetry).rxHeldAtomics
          if !(r.left.isEmpty && r.reading.isEmpty) then s
          else if r.lost then (s.cnt R.CKP_GUARD_LOST).snapFails r stSnapshotLost 0
          else s.snapStream n k r)

/-- Whether a message of a descriptor's is still on a QP. -/
def State.innerLeft (s : State) (sr tag : Nat) : Bool := s.tmt.qps.any (fun q => q.2.msgs.any (fun m => m.inner && m.sr = sr && m.tag = tag))

/-- An entry of R371. -/
def entryOf (index shard flags step bytes fmts : Nat) (digest : List Byte) : List Byte :=
  leBytes 2 index ++ leBytes 1 shard ++ leBytes 1 flags ++ leBytes 4 step ++ leBytes 8 bytes ++ leBytes 8 fmts ++ digest ++ zeroBytes 8

/-- The trailer a job's images are sent with: 64 entries, absent ones all zero. -/
def State.trailer (s : State) (k : CkJob) (step : Nat) (images : List Byte) : List Byte :=
  let go := fun (acc : List Byte × Nat × Nat) (sh : List (Nat × Nat)) =>
    let n := s.imageBytes k.slice sh
    let fmts := ((sh.zip (List.range 15)).map (fun g => g.1.2 * 16 ^ g.2)).sum
    (acc.1 ++ entryOf k.index acc.2.1 1 step n fmts (sha384 (bsub images acc.2.2 n)), acc.2.1 + 1, acc.2.2 + n)
  fitBytes (k.shards.foldl go ([], 0, 0)).1 8192

/-- SNAPSHOT_STREAM_DONE (R362): the images have been delivered, and the trailer follows; the trailer has, and the snapshot
commits. -/
def execSnapshotStreamDone (n : Nat) (s : State) : Host.Outcome State Fault Refusal :=
  .next (match Tbl.find s.ckp.jobs n with
    | none => s
    | some k => match k.run with
      | none => s
      | some r =>
        if r.phase < 3 || s.innerLeft r.sr r.tag then s
        else if r.phase = 3 then
          match k.peer 1, s.region k.snap k.slice with
          | some p, some a => match s.readRegion a 0 (s.imagesBytes k) with
            | .fail s st d => s.snapFails r st d
            | .ok s b =>
              if !s.peerReady k.slice p then s.snapFails r stQpState 0
              else (s.sendOver p r.sr r.tag (r.step % 2 * k.slotBytes + k.slotBytes - 8192) 0 (s.trailer k r.step b)).updCk n
                (fun k => { k with run := some { r with phase := 4, sent := r.sent + 8192 } })
          | _, _ => s.snapFails r stInvalidHandle 0
        else
          let s := (s.cnt R.CKP_SNAPSHOTS).updCk n (fun k => { k with run := none, last := r.step, first := false, holds := some r.step })
          match s.job r.sr r.tag with
          | some j => s.succeed j r.sent
          | none => s)

/-! ## The buddy and the manifest holder (R367 to R371) -/

/-- s with an entry written to the manifests of both holders; each write increments the holder's counter. -/
def State.toHolders (s : State) (k : CkJob) (e : List Byte) : State :=
  let at' := leAt e 4 4 % 2 * manifestBytes + 128 + (leAt e 0 2 * 64 + leAt e 2 1) * 80
  let c := Config.manifestCounter k.jobId
  let s := if k.holder then
      (match s.region k.manifest k.slice with | some r => (s.writeRegion r at' e).1.counterInc c | none => s)
    else s
  (k.peers.filter (fun p => p.role = 3 || p.role = 5)).foldl (fun s p => s.sendOver p noJob 0 at' c e) s

/-- BUDDY_VERIFY: the trailer of slot `slot` of job n has been delivered (R367). -/
def execBuddyVerify (n slot : Nat) (s : State) : Host.Outcome State Fault Refusal :=
  .next (match Tbl.find s.ckp.jobs n with
    | none => s
    | some k => match s.region k.buddy k.slice with
      | none => s
      | some r =>
        let base := slot % 2 * k.slotBytes
        match s.readRegion r (base + k.slotBytes - 8192) (64 * 80) with
        | .fail s _ _ => s
        | .ok s t =>
          let one := fun (acc : State × Nat) (i : Nat) =>
            let e := sect t 0 80 i
            if !bit (leAt e 3 1) 0 then acc
            else
              let len := leAt e 8 8
              let (s, ok) := match acc.1.readRegion r (base + acc.2) len with
                | .ok s b => (s, decide (sha384 b = bsub e 24 48))
                | .fail s _ _ => (s, false)
              let s := if ok then s else s.cnt R.CKP_DIGEST_FAIL
              (s.toHolders k (e.take 3 ++ leBytes 1 (if ok then 3 else 1) ++ e.drop 4), acc.2 + len)
          ((List.range 64).foldl one (s, 0)).1)

/-- The entries of a slot: number of those present with a step, and whether every one of them is verified. -/
def countEntries (b : List Byte) (step : Nat) : Nat × Bool :=
  let es := ((List.range 65536).map (sect b 128 80)).filter (fun e => bit (leAt e 3 1) 0 && leAt e 4 4 = step)
  (es.length, es.all (fun e => bit (leAt e 3 1) 1))

/-- The seal of a slot under a key: over header bytes 0 to 15 and the digest. -/
def sealOf (key head digest : List Byte) : List Byte := hmac384 key (head.take 16 ++ digest)

/-- CKP_SEAL (R370). A device that is no holder of the job has no manifest to seal. -/
def execCkpSeal (sr tag : Nat) (s : State) : Host.Outcome State Fault Refusal :=
  .next (s.withCk sr tag 0x63 [(12, 4)] true fun s j _ k =>
    let T := dby j.desc 12 4
    match s.region k.manifest k.slice with
    | none => s.failJob j stSealInvalid 0
    | some r => if !k.holder then s.failJob j stSealInvalid 0 else match s.readRegion r (T % 2 * manifestBytes) manifestBytes with
      | .fail s st d => s.failJob j st d
      | .ok s b =>
        let c := countEntries b T
        if c.1 ≠ k.total then s.failJob j stSealInvalid 0
        else if !c.2 then s.failJob j stDigestMismatch 0
        else match s.sealKeyBad k.key k.slice, s.kceSlot k.key k.slice with
          | some st, _ => s.failJob j st 0
          | none, none => s.failJob j stInvalidHandle 0
          | none, some key =>
            let head := leBytes 4 0x4E4D4B43 ++ leBytes 4 k.jobId ++ leBytes 4 T ++ leBytes 4 k.total
            let digest := sha384 (b.drop 128)
            match s.writeRegion r (T % 2 * manifestBytes) (head ++ leBytes 1 1 ++ zeroBytes 15 ++ digest ++ sealOf key.key head digest) (ownerNum sr tag) with
            | (s, _, none) => s.succeed j 0
            | (s, m, some (st, d)) => s.finish j st noUnit d m)

/-! ## Restore (R373 to R375) -/

/-- Whether a slot is a candidate (R373). -/
def candidate (k : CkJob) (key slot : List Byte) (maxStep : Nat) : Bool :=
  let S := leAt slot 8 4
  let digest := sha384 ((slot.take manifestBytes).drop 128)
  slot.length = manifestBytes && sealedFor slot k S && decide (S ≤ maxStep) && bsub slot 32 48 = digest && bsub slot 80 48 = sealOf key slot digest &&
  countEntries slot S = (k.total, true)

/-- The digests of a job's own shards in a slot. -/
def CkJob.digests (k : CkJob) (slot : List Byte) : List Nat :=
  (List.range k.shards.length).map (fun i => leAt slot (128 + (k.index * 64 + i) * 80 + 24) 48)

/-- s with an image expanded into a list of regions; the first access that fails ends it. -/
def State.expandRegions (s : State) (sl owner : Nat) : List Byte → List (Nat × Nat) → State × Option (Nat × Nat)
  | _, [] => (s, none)
  | img, (h, code) :: rest =>
    let n := s.regionPages sl h
    let out := ((List.range n).map (fun p => unpackPage code (bsub img (p * outBytes code) (outBytes code)))).flatten
    match s.region h sl with
    | none => (s, some (stInvalidHandle, 0))
    | some r => match s.writeRegion r 0 out owner with
      | (s, _, none) => s.expandRegions sl owner (img.drop (n * outBytes code)) rest
      | (s, _, e) => (s, e)

/-- Expands images in order, checking each digest. On a mismatch the shard regions are undefined (log entry 60). -/
def State.expandImages (s : State) (k : CkJob) (owner : Nat) : List Byte → List (List (Nat × Nat) × Nat) → State × Option (Nat × Nat)
  | _, [] => (s, none)
  | b, (sh, dg) :: rest =>
    let n := s.imageBytes k.slice sh
    if leNat (sha384 (b.take n)) ≠ dg then
      (k.shards.flatten.foldl (fun s g => s.scramble g.1 k.slice) (s.cnt R.CKP_DIGEST_FAIL), some (stDigestMismatch, 0))
    else match s.expandRegions k.slice owner (b.take n) sh with
      | (s, none) => s.expandImages k owner (b.drop n) rest
      | (s, e) => (s, e)

/-- s with a restore of step S finished from the images at hand; `area` says that they stand in the snapshot area. -/
def State.restoreFrom (s : State) (j : Job) (n : Nat) (k : CkJob) (S : Nat) (dg : List Nat) (images : List Byte) (area : Bool) : State :=
  match s.expandImages k (ownerNum j.sr j.tag) images (k.shards.zip dg) with
  | (s, some (st, d)) => s.failJob j st d
  | (s, none) => (s.updCk n (fun k => { k with first := true, holds := if area then some S else k.holds })).succeed j S

/-- Blocks of a slot on a drive. -/
def slotBlocks : Nat := ceilDiv manifestBytes blk

/-- CKP_RESTORE: `slots` are both manifest slots as a remote holder returned them (log entry 46), none where the primary did not answer; the
primary, and then the standby, reads its own, and a namespace's block range has one. While the buddy's slot is being pulled, the command finds its messages on the QPs. -/
def execCkpRestore (sr tag : Nat) (slots : List (List Byte)) (s : State) : Host.Outcome State Fault Refusal :=
  .next (s.withCk sr tag 0x64 [(12, 5), (20, 12)] true fun s j n k =>
    let d := j.desc
    let src := dby d 16 1
    let total := s.imagesBytes k
    if 1 < src then s.failJob j stInvalidDescriptor 0
    else match j.prog with
      | S :: dg =>
        if s.innerLeft sr tag then s
        else (match s.region k.snap k.slice with
          | none => s.failJob j stInvalidHandle 0
          | some a => match s.readRegion a 0 total with
            | .fail s st d => s.failJob j st d
            | .ok s b => s.restoreFrom j n k S dg b true)
      | [] =>
        if s.ckBusy j [0x62, 0x64, 0x66] then s.failJob j stCkpBusy 0
        else match s.sealKeyBad k.key k.slice, s.kceSlot k.key k.slice with
          | some st, _ => s.failJob j st 0
          | none, none => s.failJob j stInvalidHandle 0
          | none, some key =>
            let lba := dby d 24 8
            let x := if src = 1 then (s.ns (dby d 20 4)).filter (fun x => x.kind = 0 && x.owner = j.slice) else none
            if x.any (fun x => x.needReplay) then s
            else
            let (s, mine) := if src = 1 then (match x with
                | some x => (s, [((s.nsBlocks x lba slotBlocks).1).take manifestBytes])
                | none => (s, []))
              else if k.holder && (!k.second || slots.isEmpty) then
                (let a := s.slotRead k 0 manifestBytes
                 let b := a.1.slotRead k 1 manifestBytes
                 (b.1, [a.2, b.2]))
              else (s, slots)
            let good := mine.filter (fun m => candidate k key.key m (dby d 12 4))
            if src = 1 && x.isNone then s.failJob j stInvalidHandle 0
            else match good with
            | [] => s.failJob j stNoConsistentStep 0
            | g0 :: gs =>
              let g := gs.foldl (fun a b => if leAt a 8 4 < leAt b 8 4 then b else a) g0
              let S := leAt g 8 4
              let dg := k.digests g
              match x with
              | some x => s.restoreFrom j n k S dg ((s.nsBlocks x (lba + slotBlocks) (total / blk)).1) false
              | none =>
                if k.holds = some S then
                  (match s.region k.snap k.slice with
                    | none => s.failJob j stInvalidHandle 0
                    | some a => match s.readRegion a 0 total with
                      | .fail s st d => s.failJob j st d
                      | .ok s b => s.restoreFrom j n k S dg b true)
                else match k.peer 1 with
                  | none => s.failJob j stJobInvalid 0
                  | some p =>
                    if !s.peerReady k.slice p then s.failJob j stQpState 0
                    else
                      let s := (pieces (2 ^ 28) (total / 2 ^ 28 + 2) 0 total).foldl (fun s y =>
                        let q := nth p.qps (y.1 / 2 ^ 28 % p.qps.length) 0
                        match Tbl.find s.tmt.qps q with
                        | some x => s.postMsg q (innerMsg 0x32 sr tag (S % 2 * k.slotBytes + y.1) p.ak 0 x.payload y.2 k.snap y.1 (some []))
                        | none => s) s
                      (s.updCk n (fun k => { k with holds := none })).updJob sr tag (fun i => { i with prog := S :: dg }))

/-! ## Watches and heartbeats (R376) -/

/-- CKP_WATCH. -/
def execCkpWatch (sr tag : Nat) (s : State) : Host.Outcome State Fault Refusal :=
  .next (s.withCk sr tag 0x65 [(16, 8)] true fun s j n _ =>
    let idx := ((List.range 4).map (fun i => dby j.desc (16 + 2 * i) 2)).filter (fun i => i ≠ 0xFFFF)
    if idx.isEmpty || idx.any (fun i => 1024 ≤ i) then s.failJob j stInvalidDescriptor 0
    else ({ s with ckp := { s.ckp with watches := s.ckp.watches ++ [⟨sr, tag, n, idx, s.timeNs⟩] } } : State).park j .running)

/-- The period and the limit of CKP_HB, in ns and periods. -/
def State.hbPeriod (s : State) : Nat := (let p := s.rf R.CKP_HB 0 16; if p = 0 then 100 else p) * 10 ^ 6
def State.hbLimit (s : State) : Nat := let m := s.rf R.CKP_HB 16 4; if m = 0 then 4 else m

/-- HEARTBEAT_SEND: a loaded job's period has come, counted from its load; the last step at bytes 0 to 7 and domain time at 8 to 15 (log entry 57). -/
def execHeartbeatSend (n : Nat) (s : State) : Host.Outcome State Fault Refusal :=
  .next (match Tbl.find s.ckp.jobs n with
    | none => s
    | some k =>
      if (k.standby && !s.ckIndexOk k) || s.timeNs < k.hbAt + s.hbPeriod then s
      else (k.peers.filter (fun p => p.role = 4)).foldl (fun s p =>
        s.sendOver p noJob 0 (k.index * 16) 0 (leBytes 8 k.last ++ leBytes 8 s.timeNs)) (s.updCk n (fun k => { k with hbAt := s.timeNs })))

/-- WATCH_TICK of job n, once in each period: the first watched index of each watch that has been silent too long is declared failed. -/
def execWatchTick (n : Nat) (s : State) : Host.Outcome State Fault Refusal :=
  .next (match Tbl.find s.ckp.jobs n with
    | none => s
    | some k => if s.timeNs < k.tickAt + s.hbPeriod then s else (s.ckp.watches.filter (fun w => w.job = n)).foldl (fun s w =>
        let limit := s.hbLimit * s.hbPeriod
        let (s, bad) := w.idx.foldl (fun (acc : State × Option Nat) i =>
          if acc.2.isSome then acc
          else match acc.1.region k.hb k.slice with
            | none => acc
            | some r => match acc.1.readRegion r (i * 16 + 8) 8 with
              | .fail s _ _ => (s, none)
              | .ok s b => (s, if max (leNat b) w.since + limit ≤ s.timeNs then some i else none)) (s, none)
        match bad, s.job w.sr w.tag with
        | some i, some j => ((s.cnt R.CKP_HB_MISSED).mcSignal 8 i).finish j stPeerFailed noUnit i 0
        | _, _ => s) (s.updCk n (fun k => { k with tickAt := s.timeNs })))

/-! ## Persistence and query (R378, R379) -/

/-- CKP_PERSIST: `slot` is the sealed manifest slot as a remote holder returned it (log entry 46). -/
def execCkpPersist (sr tag : Nat) (slot : List Byte) (s : State) : Host.Outcome State Fault Refusal :=
  .next (s.withCk sr tag 0x66 [(12, 4), (20, 12)] true fun s j _ k =>
    let T := dby j.desc 12 4
    let lba := dby j.desc 24 8
    if s.ckBusy j [0x62, 0x64, 0x66] then s.failJob j stCkpBusy 0
    else
      let (s, m) := if k.holder then s.slotRead k T manifestBytes else (s, fitBytes slot manifestBytes)
      if k.holds ≠ some T || !sealedFor m k T then s.failJob j stUnsealed 0
      else match s.ns (dby j.desc 20 4), s.region k.snap k.slice with
        | some x, some a =>
          if x.owner ≠ j.slice then s.failJob j stInvalidHandle 0
          else if x.needReplay then s
          else if x.notReady then s.failJob j stMediaError nvNotReady
          else
          let total := s.imagesBytes k
          let nlb := slotBlocks + total / blk
          if x.kind ≠ 0 then s.failJob j stNsInvalid 0
          else if x.ro then s.failJob j stReadOnly 0
          else if x.blocks < lba + nlb then s.failJob j stLbaRange 0
          else (match s.readRegion a 0 total with
            | .fail s st d => s.failJob j st d
            | .ok s b =>
              let data := fitBytes m (slotBlocks * blk) ++ b
              let s := (s.park j .running)
              let tooBig := match s.cacheBlocks with | some c => decide (c < nlb) | none => false
              if tooBig then s.cacheWrite (.desc sr tag) (dby j.desc 20 4) (nsPieces lba nlb 32 false data) true data.length
              else s.storWrite (.desc sr tag) (dby j.desc 20 4) lba nlb false true data 2)
        | _, _ => s.failJob j stInvalidHandle 0)

/-- CKP_QUERY. -/
def execCkpQuery (sr tag : Nat) (s : State) : Host.Outcome State Fault Refusal :=
  .next (s.withCk sr tag 0x67 [] false fun s j _ k =>
    let left := match k.run with | some r => r.left.length + r.reading.length | none => 0
    s.succeed j (k.last % 2 ^ 32 + b2n k.run.isSome * 2 ^ 32 + b2n (decide (0 < left)) * 2 ^ 33 + left * 2 ^ 34))

/-! ## The scrub of hub stores, port buffers and the control store (R232, R235) -/

/-- A lost word of hub h's store at offset o, by the share it lies in (R232, R234, R235); (sr, tag) owns the staged data of a staging word. -/
def State.hubWordLost (s : State) (h o sr tag : Nat) : State :=
  if o < 0x400000 then
    ((s.mem.checks.map Prod.fst).filter (fun c => c / hubBytes = h && Config.checkSlot c % 65536 = o / 64)).foldl (fun s c => s.checkLost c) s
  else if o < 0x1000000 then s.guardWordLost h ((o - 0x400000) * 8)
  else if o < 0x1800000 then
    { s with xlt := { s.xlt with cache := s.xlt.cache.filter (fun c => !(c.walker = h && c.word = (o - 0x1000000) / 8)) } }
  else if o < 0x3800000 then
    match s.job sr tag with
    | some j => s.failJob j stMemUncorrectable 3
    | none => s
  else s

/-- s after an upset of one bit (1) or of more (2) has struck the word at w of an on-chip store; 0 is none. -/
def State.strike (s : State) (w upset : Nat) : State :=
  if upset = 1 then { s with mem := { s.mem with weak := setIns s.mem.weak w } }
  else if upset = 2 then { s with mem := { s.mem with bad := setIns s.mem.bad w } } else s

/-- HUB_STORE_SCRUB: the scrub reads the word at DPA a. For a word that holds staged data (sr, tag) is the descriptor that owns
it; for one of the control store k is the core. `upset` is what has struck the word since its last access (log entry 122). -/
def execHubStoreScrub (a sr tag k upset : Nat) (s : State) : Host.Outcome State Fault Refusal :=
  .next (
    let w := a - a % 8
    let p := place w
    let inScope := match p with | .hubStore _ _ => true | .portBuf _ _ => true | .control _ => true | _ => false
    if !inScope then s
    else match (s.strike w upset).readWord w with
      | (s, true) => s
      | (s, false) =>
        let s : State := { s with mem := { s.mem with bad := setDel s.mem.bad w } }
        match p with
        | .hubStore h o => s.hubWordLost h o sr tag
        | .portBuf _ _ => (match s.job sr tag with | some j => s.failJob j stMemUncorrectable 4 | none => s)
        | .control _ => s.coreCrash k 0xFE
        | _ => s)

end Sys2Proof.Machine
end

