-- ==== Sys2Proof/Machine/Security.lean ====
section
/-! DEFINITION. The commands of 16_security: the key and cipher engine and the check-value units. The hashes of the SHA-2 family
are computed; every other published algorithm of R388 is a function of Config (log entry 6). -/

namespace Sys2Proof.Machine

def stAuthFail : Nat := 0x800
def stVerifyFail : Nat := 0x801
def stUnwrapFail : Nat := 0x802
def stKeyBusy : Nat := 0x804
def stKceFault : Nat := 0x805
def stKceHalted : Nat := 0x806

/-- The KCE's requester bit for translation faults: it stands with the rings' requester. -/
def reqKce : Nat := 0

/-! ## Types, usages and sizes (R382, R388) -/

/-- Bytes of a key of each type; the private keys of the signature and key-encapsulation schemes have the sizes of their
standards (PRESUMED, log entry 6). -/
def keyBytes (kind : Nat) : Nat := match kind with
  | 1 => 16
  | 2 => 32
  | 3 => 32
  | 4 => 64
  | 5 => 48
  | 6 => 64
  | 7 => 32
  | 8 => 64
  | 9 => 32
  | 10 => 4032
  | _ => 2400

/-- Bytes of the public key of types 9 to 11 (R387). -/
def pubBytes (kind : Nat) : Nat := match kind with
  | 9 => 32
  | 10 => 1952
  | 11 => 1184
  | _ => 0

/-- The usage bits a type allows. -/
def usageAllowed (kind : Nat) : Nat := match kind with
  | 1 => 7
  | 2 => 7
  | 3 => 3
  | 4 => 3
  | 5 => 0x84
  | 6 => 4
  | 7 => 0x10
  | 8 => 0x140
  | 9 => 8
  | 10 => 8
  | _ => 0x20

def usageOk (kind usage : Nat) : Bool := clearBits usage (usageAllowed kind) = 0

/-- The bytes of a digest; 0 for a code that is no hash. SHAKE takes its length from the descriptor. -/
def digestBytes (alg auxLen : Nat) : Nat := match alg with
  | 0x10 => 48
  | 0x11 => 64
  | 0x12 => 32
  | 0x13 => 48
  | 0x14 => 64
  | 0x15 => auxLen
  | 0x16 => auxLen
  | _ => 0

/-- The digest of a message. -/
def digestOf (alg n : Nat) (m : List Byte) : List Byte := match alg with
  | 0x10 => sha384 m
  | 0x11 => sha512 m
  | _ => fitBytes (Config.hash (alg + 256 * n) m) n

/-- SHAKE256 to n bytes. -/
def shake256 (n : Nat) (m : List Byte) : List Byte := digestOf 0x16 n m

/-- The bytes of a MAC, and the MAC. -/
def macBytes (alg : Nat) : Nat := match alg with
  | 4 => 16
  | 0x18 => 48
  | _ => 64
def macOf (alg : Nat) (key m : List Byte) : List Byte := match alg with
  | 0x18 => hmac384 key m
  | 0x19 => hmacOf sha512 key m
  | _ => fitBytes (Config.macTag alg key [] [] m) 16

/-- The bytes of a signature. -/
def sigBytes (alg : Nat) : Nat := if alg = 0x20 then 64 else 3309

/-! ## Faults and the halt (R392, R393) -/

def State.kceState (s : State) : Nat := s.rf R.KCE_STATUS 0 2

/-- KCE_STATUS: ctx_used is the number of suspended messages (R394). -/
def State.kceStatus (s : State) : Nat := setFld (s.rd R.KCE_STATUS) 8 5 (s.kce.msgs.filter (fun m => m.phase = .suspended)).length

/-- s with a crypto descriptor committed. -/
def State.kceEnd (s : State) (j : Job) (st result : Nat) : State := (s.cnt R.KCE_OPS).finish j st noUnit 0 result

/-- s with the KCE's state signalled to the MC (R392, R393, R455). -/
def State.kceTell (s : State) : State := s.mcSignal 5 s.kceStatus

/-- s with the KCE halted (R393): every crypto descriptor completes KCE_HALTED. -/
def State.kceHalt (s : State) (cause : Nat) : State :=
  let s := ((s.wf R.KCE_STATUS 0 2 2).wf R.KCE_STATUS 4 4 cause).kceTell
  s.kce.msgs.foldl (fun s m => match s.job m.sr m.tag with
    | some j => s.kceEnd j stKceHalted 0
    | none => s) s

/-- s with a descriptor completed KCE_FAULT: the count may halt the engine. -/
def State.kceFault (s : State) (j : Job) : State :=
  let s := s.kceEnd j stKceFault 0
  let n := min 15 (s.rf R.KCE_STATUS 16 4 + 1)
  let s := s.wf R.KCE_STATUS 16 4 n
  let limit := let l := s.rf R.KCE_CTRL 8 4; if l = 0 then 8 else l
  if limit ≤ n && s.kceState ≠ 2 then s.kceHalt 2 else s

/-! ## Messages, pairs and context slots (R394) -/

def KceMsg.waits (m : KceMsg) : Bool := m.phase = .queued
def KceMsg.runs (m : KceMsg) : Bool := m.phase = .running
def KceMsg.held (m : KceMsg) : Bool := m.phase = .suspended

/-- The message that goes first: the highest priority, then the one fetched first. -/
def firstOf (ms : List KceMsg) : Option KceMsg := ms.foldl (fun b m => match b with
  | none => some m
  | some x => if x.prio < m.prio || (x.prio = m.prio && m.order < x.order) then some m else b) none

def State.updMsg (s : State) (m : KceMsg) (f : KceMsg → KceMsg) : State :=
  { s with kce := { s.kce with msgs := s.kce.msgs.map (fun x => if x.sr = m.sr && x.tag = m.tag then f x else x) } }

/-- s with a message on a pair. -/
def State.kceStart (s : State) (m : KceMsg) : State :=
  let s := s.updMsg m (fun x => { x with phase := .running, started := s.kce.nextOrder })
  { s with kce := { s.kce with nextOrder := s.kce.nextOrder + 1 } }

/-- s with free pairs given waiting messages, as long as no suspended message of their priority or a higher one comes first. -/
def State.kceFill : Nat → State → State
  | 0, s => s
  | n + 1, s =>
    if 4 ≤ (s.kce.msgs.filter KceMsg.runs).length then s
    else match firstOf (s.kce.msgs.filter KceMsg.waits) with
      | none => s
      | some m => if s.kce.msgs.any (fun x => x.held && m.prio ≤ x.prio) then s else State.kceFill n (s.kceStart m)

/-- The message a waiting one displaces: lowest priority, the latest started among equals. -/
def latestLow (ms : List KceMsg) : Option KceMsg := ms.foldl (fun b m => match b with
  | none => some m
  | some x => if m.prio < x.prio || (m.prio = x.prio && x.started < m.started) then some m else b) none

/-- Whether a message runs to its end once begun. -/
def indivisible (d : Nat) : Bool := dOpcode d = 0x77 || ((dOpcode d = 0x73 || dOpcode d = 0x74) && dby d 12 1 = 0x20)

/-- KCE_SUSPEND: a message waits and every pair is busy with a lower priority. -/
def execKceSuspend (s : State) : Host.Outcome State Fault Refusal :=
  .next (
    let s := s.kceFill 4
    let run := s.kce.msgs.filter KceMsg.runs
    match firstOf (s.kce.msgs.filter KceMsg.waits), latestLow run with
    | some w, some m =>
      let whole := match s.job m.sr m.tag with | some j => indivisible j.desc | none => true
      if run.length < 4 || run.any (fun x => w.prio ≤ x.prio) || 16 ≤ (s.kce.msgs.filter KceMsg.held).length || whole then s
      else ((s.updMsg m (fun x => { x with phase := .suspended })).cnt R.KCE_SUSPENDS).kceStart w
    | _, _ => s)

/-- KCE_RESUME: a free pair takes the first suspended message, unless a waiting one has a higher priority. -/
def execKceResume (s : State) : Host.Outcome State Fault Refusal :=
  .next (match firstOf (s.kce.msgs.filter KceMsg.held) with
    | none => s
    | some m =>
      if 4 ≤ (s.kce.msgs.filter KceMsg.runs).length || s.kce.msgs.any (fun w => w.waits && m.prio < w.prio) then s
      else (s.kceStart m).kceFill 4)

/-- s with a descriptor's message in the queues: the output that will be released, the key that will be stored, or the status
it fails with. -/
def State.kceQueue (s : State) (j : Job) (out : List Byte) (key : Option KeySlot) (st result : Nat) : State :=
  let m : KceMsg := { sr := j.sr, tag := j.tag, prio := dby j.desc 14 1, order := j.seq, started := 0, phase := .queued, out := some out, released := 0
                      newKey := key, status := st, result := result, retried := false }
  State.kceFill 4 ({ s with kce := { s.kce with msgs := s.kce.msgs ++ [m] } } : State) |>.park j .running

/-! ## Descriptors (R389, R390) -/

def kKey (d : Nat) : Nat := dby d 8 4
def kAlg (d : Nat) : Nat := dby d 12 1
def kDir (d : Nat) : Bool := bit (dby d 13 1) 0
def kSrc (d : Nat) : Nat := fld (dby d 15 1) 0 2
def kDst (d : Nat) : Nat := fld (dby d 15 1) 2 2
def kLen (d : Nat) : Nat := dby d 40 4
def kAux (d : Nat) : Nat := dby d 44 4
def kCtx (d : Nat) : Nat := dby d 56 2
def kUsage (d : Nat) : Nat := dby d 58 2
def kType (d : Nat) : Nat := dby d 60 1

/-- Runs a crypto descriptor whose unused fields are 0, once: a message already in the engine goes its own way. -/
def State.withKce (s : State) (sr tag op : Nat) (used : List (Nat × Nat)) (dir : Bool) (f : State → Job → State) : State :=
  s.withJob sr tag op fun s j =>
    let d := j.desc
    if s.kce.msgs.any (fun m => m.sr = sr && m.tag = tag) then s
    else if s.kceState = 2 || (s.kceState = 1 && op ≠ 0x72) then s.kceEnd j stKceHalted 0
    else if !rsvdZero d ((13, 3) :: used) || 1 < dby d 13 1 || (kDir d && !dir) || 3 < dby d 14 1 || 15 < dby d 15 1 || kSrc d = 3 || kDst d = 3 then
      s.kceEnd j stInvalidDescriptor 0
    else f s j

/-- The slot a descriptor names, with a usage and one of the types an algorithm takes. `recordOk` says that the slot's record
could be read (R383); one that could not leaves the slot unusable. -/
def State.useKey (s : State) (j : Job) (usage : Option Nat) (kinds : List Nat) (recordOk : Bool) (f : State → KeySlot → State) : State :=
  match s.kceSlot (kKey j.desc) j.slice with
  | none => s.kceEnd j stInvalidHandle 0
  | some k =>
    if k.dead then s.kceFault j
    else if !recordOk then
      State.kceFault { s with kce := { s.kce with slots := Tbl.upd s.kce.slots (kKey j.desc % 2 ^ 20) (fun k => { k with dead := true }) } } j
    else if !kinds.contains k.kind || (match usage with | some u => !bit k.usage u | none => false) then s.kceEnd j stKeyUsage 0
    else f s k

/-- Reads an operand; a failure ends the descriptor. -/
def State.kceRead (s : State) (j : Job) (off n : Nat) (f : State → List Byte → State) : State :=
  match s.readOperand j (kSrc j.desc) (dby j.desc 16 4) off n reqKce with
  | .ok s b => f s b
  | .wait s => s
  | .fail s st d => (s.cnt R.KCE_OPS).failJob j st d

def State.kceSource (s : State) (j : Job) (f : State → List Byte → State) : State := s.kceRead j (dby j.desc 24 8) (kLen j.desc) f
def State.kceAux (s : State) (j : Job) (n : Nat) (f : State → List Byte → State) : State := s.kceRead j (dby j.desc 48 8) n f

/-- Source and destination fields of a body. -/
def srcUsed : List (Nat × Nat) := [(16, 4), (24, 8), (40, 4)]
def dstUsed : List (Nat × Nat) := [(20, 4), (32, 8)]
def auxUsed : List (Nat × Nat) := [(44, 12)]

/-- KCE_CIPHER. -/
def execKceCipher (sr tag : Nat) (recordOk : Bool) (s : State) : Host.Outcome State Fault Refusal :=
  .next (s.withKce sr tag 0x70 ([(8, 5)] ++ srcUsed ++ dstUsed ++ auxUsed) true fun s j =>
    let d := j.desc
    let alg := kAlg d
    let aux := kAux d
    let dec := kDir d
    let n := kLen d
    let ok := match alg with
      | 1 => decide (12 ≤ aux) && decide (aux ≤ 12 + 65535) && (!dec || (16 ≤ n && decide (n ≤ 2 ^ 20 + 16)))
      | 2 => aux = 16
      | 3 => decide (16 ≤ aux) && decide (aux ≤ 2 ^ 24) && n % max aux 1 = 0
      | _ => false
    if !ok then s.kceEnd j stInvalidDescriptor 0
    else s.useKey j (some (b2n dec)) (if alg = 3 then [3, 4] else [1, 2]) recordOk fun s k =>
      s.kceAux j (if alg = 1 then aux else 16) fun s a => s.kceSource j fun s b =>
        match alg with
        | 1 =>
          let iv := a.take 12
          let aad := a.drop 12
          if dec then
            let text := b.take (n - 16)
            if Config.macTag 1 k.key iv aad text ≠ b.drop (n - 16) then s.kceQueue j [] none stAuthFail 0
            else s.kceQueue j (fitBytes (Config.cipher 1 false k.key iv text) (n - 16)) none stSuccess (n - 16)
          else
            let text := fitBytes (Config.cipher 1 true k.key iv b) n
            s.kceQueue j (text ++ fitBytes (Config.macTag 1 k.key iv aad text) 16) none stSuccess (n + 16)
        | 2 => s.kceQueue j (fitBytes (Config.cipher 2 (!dec) k.key a b) n) none stSuccess n
        | _ => s.kceQueue j (fitBytes (Config.cipher 3 (!dec) k.key (a ++ leBytes 4 aux) b) n) none stSuccess n)

/-- KCE_MAC. -/
def execKceMac (sr tag : Nat) (recordOk : Bool) (s : State) : Host.Outcome State Fault Refusal :=
  .next (s.withKce sr tag 0x71 ([(8, 5)] ++ srcUsed ++ dstUsed ++ auxUsed) true fun s j =>
    let d := j.desc
    let alg := kAlg d
    let m := macBytes alg
    let fits := if kDir d then kAux d = m && dby d 20 4 = 0 && dby d 32 8 = 0 else kAux d = 0 && dby d 48 8 = 0
    if !(alg = 4 || alg = 0x18 || alg = 0x19) || !fits then s.kceEnd j stInvalidDescriptor 0
    else s.useKey j (some 2) (if alg = 4 then [1, 2] else [5, 6]) recordOk fun s k =>
      s.kceAux j (kAux d) fun s a => s.kceSource j fun s b =>
        let t := macOf alg k.key b
        if kDir d then s.kceQueue j [] none (if t = a then stSuccess else stVerifyFail) 0
        else s.kceQueue j t none stSuccess m)

/-- KCE_HASH. -/
def execKceHash (sr tag : Nat) (s : State) : Host.Outcome State Fault Refusal :=
  .next (s.withKce sr tag 0x72 ([(12, 1), (44, 4)] ++ srcUsed ++ dstUsed) false fun s j =>
    let alg := kAlg j.desc
    let n := digestBytes alg (kAux j.desc)
    let xof := alg = 0x15 || alg = 0x16
    if n = 0 || 65535 < n || (!xof && kAux j.desc ≠ 0) then s.kceEnd j stInvalidDescriptor 0
    else s.kceSource j fun s b => s.kceQueue j (digestOf alg n b) none stSuccess n)

/-- KCE_SIGN. -/
def execKceSign (sr tag : Nat) (recordOk : Bool) (s : State) : Host.Outcome State Fault Refusal :=
  .next (s.withKce sr tag 0x73 ([(8, 5), (56, 2)] ++ srcUsed ++ dstUsed ++ auxUsed) false fun s j =>
    let d := j.desc
    let alg := kAlg d
    if !(alg = 0x20 || alg = 0x21) || 2 ^ 26 < kLen d || kAux d ≠ kCtx d || (if alg = 0x20 then kCtx d ≠ 0 else 255 < kCtx d) then
      s.kceEnd j stInvalidDescriptor 0
    else s.useKey j (some 3) (if alg = 0x20 then [9] else [10]) recordOk fun s k =>
      s.kceAux j (kAux d) fun s c => s.kceSource j fun s b =>
        let (r, s) := s.random 256
        let m := if alg = 0x20 then b else leBytes 1 0 ++ leBytes 1 c.length ++ c ++ b
        s.kceQueue j (fitBytes (Config.sign alg k.key m (if alg = 0x20 then 0 else r)) (sigBytes alg)) none stSuccess (sigBytes alg))

/-- KCE_VERIFY: the public key is the named slot's, or stands in aux before context and signature. -/
def execKceVerify (sr tag : Nat) (recordOk : Bool) (s : State) : Host.Outcome State Fault Refusal :=
  .next (s.withKce sr tag 0x74 ([(8, 5), (56, 2)] ++ srcUsed ++ auxUsed) true fun s j =>
    let d := j.desc
    let alg := kAlg d
    let kind := if alg = 0x20 then 9 else 10
    let p := if kKey d = 0xFFFFFFFF then pubBytes kind else 0
    if !(alg = 0x20 || alg = 0x21) || (if alg = 0x20 then kCtx d ≠ 0 else 255 < kCtx d) || kAux d ≠ p + kCtx d + sigBytes alg then
      s.kceEnd j stInvalidDescriptor 0
    else
      let go := fun (s : State) (pub : List Byte) => s.kceAux j (kAux d) fun s a => s.kceSource j fun s b =>
        let pub := if p = 0 then pub else a.take p
        let c := bsub a p (kCtx d)
        let m := if alg = 0x20 then b else leBytes 1 0 ++ leBytes 1 c.length ++ c ++ b
        s.kceQueue j [] none (if Config.verify alg pub m (a.drop (p + kCtx d)) then stSuccess else stVerifyFail) 0
      if p = 0 then s.useKey j none [kind] recordOk fun s k => go s k.pub
      else go s [])

/-- The key slot record of a new key. -/
def newSlot (sl kind usage : Nat) (key : List Byte) : KeySlot :=
  { slice := sl, kind := kind, usage := usage, key := key, pub := if 9 ≤ kind then fitBytes (Config.publicKey kind key) (pubBytes kind) else [], dead := false }

/-- Whether a slice may store one more key, and where: the status it is refused with otherwise (R381, R404). -/
def State.keyRoom (s : State) (sl : Nat) : Except Nat Nat :=
  if !s.quotaRoom sl 3 1 then .error stQuotaExceeded
  else match lowestFree s.kce.slots 256 (2 ^ 20 - 256) with
    | some n => .ok n
    | none => .error stResourceExhausted

/-- s with a descriptor refused a slot. -/
def State.keyRefused (s : State) (j : Job) (st : Nat) : State := (if st = stQuotaExceeded then s.refused j.slice else s).kceEnd j st 0

/-- KCE_KEY_IMPORT (R386). -/
def execKceKeyImport (sr tag : Nat) (recordOk : Bool) (s : State) : Host.Outcome State Fault Refusal :=
  .next (s.withKce sr tag 0x75 ([(8, 4)] ++ srcUsed) false fun s j =>
    let unwrapFails := fun (s : State) => (s.cnt R.KCE_UNWRAP_FAIL).kceEnd j stUnwrapFail 0
    match s.keyRoom j.slice with
    | .error st => s.keyRefused j st
    | .ok _ => s.kceSource j fun s b =>
      let kind := leAt b 4 1
      let wrap := leAt b 5 1
      let usage := leAt b 6 2
      let wlen := leAt b 16 2
      let at' := if wrap = 1 then 32 + 1088 else 32
      if wrap = 1 && !s.feature 9 then s.kceEnd j stFeatureOff 0
      else if leAt b 0 4 ≠ 0x424B4346 || kind < 1 || 11 < kind || 1 < wrap || !allZero (bsub b 18 14) || wlen ≠ roundUp (keyBytes kind) 8 + 8 ||
          b.length ≠ at' + wlen then unwrapFails s
      else
        let go := fun (s : State) (kek : List Byte) => match Config.unwrap kek (bsub b at' wlen) with
          | none => unwrapFails s
          | some key =>
            if key.length ≠ keyBytes kind then unwrapFails s
            else if !usageOk kind usage then s.kceEnd j stKeyUsage 0
            else s.kceQueue j [] (some (newSlot j.slice kind usage key)) stSuccess 0
        if wrap = 0 then s.useKey j (some 4) [7] recordOk fun s k => go s k.key
        else go s (shake256 32 (Config.kemDecaps (Tbl.get s.kce.secrets 1 []) (bsub b 32 1088) ++ b.take 16)))

/-- KCE_KEY_GENERATE (R387). -/
def execKceKeyGenerate (sr tag : Nat) (s : State) : Host.Outcome State Fault Refusal :=
  .next (s.withKce sr tag 0x76 ([(58, 3)] ++ dstUsed) false fun s j =>
    let kind := kType j.desc
    if kind < 1 || 11 < kind then s.kceEnd j stInvalidDescriptor 0
    else if !usageOk kind (kUsage j.desc) then s.kceEnd j stKeyUsage 0
    else match s.keyRoom j.slice with
      | .error st => s.keyRefused j st
      | .ok _ =>
        let (r, s) := s.random (8 * keyBytes kind)
        let k := newSlot j.slice kind (kUsage j.desc) (leBytes (keyBytes kind) r)
        s.kceQueue j k.pub (some k) stSuccess 0)

/-- KCE_KEM (R387). -/
def execKceKem (sr tag : Nat) (recordOk : Bool) (s : State) : Host.Outcome State Fault Refusal :=
  .next (s.withKce sr tag 0x77 ([(8, 4), (58, 3)] ++ srcUsed ++ dstUsed ++ auxUsed) true fun s j =>
    let d := j.desc
    let kind := kType d
    let dec := kDir d
    let usage := if kind = 8 then setBit (kUsage d) 8 dec else kUsage d
    let fits := if dec then kLen d = 1088 && dby d 20 4 = 0 && dby d 32 8 = 0 else kLen d = 1184 && kKey d = 0
    if kind < 1 || 11 < kind || !fits then s.kceEnd j stInvalidDescriptor 0
    else if !usageOk kind usage then s.kceEnd j stKeyUsage 0
    else match s.keyRoom j.slice with
      | .error st => s.keyRefused j st
      | .ok _ =>
        let go := fun (s : State) (sk : List Byte) => s.kceAux j (kAux d) fun s ctx => s.kceSource j fun s b =>
          let derived := fun (ss : List Byte) => newSlot j.slice kind usage (shake256 (keyBytes kind) (ss ++ ctx))
          if dec then s.kceQueue j [] (some (derived (Config.kemDecaps sk b))) stSuccess 0
          else
            let (r, s) := s.random 256
            let e := Config.kemEncaps b r
            s.kceQueue j (fitBytes e.1 1088) (some (derived e.2)) stSuccess 0
        if dec then s.useKey j (some 5) [11] recordOk fun s k => go s k.key
        else go s [])

/-- What refers to a key slot (R384): QPs, loaded jobs, running and suspended messages. -/
def State.keyRefs (s : State) (handle : Nat) : Nat :=
  (s.tmt.qps.filter (fun q => q.2.encrypt && (q.2.key = handle || q.2.nextKey = handle))).length +
  (s.ckp.jobs.filter (fun k => k.2.key = handle)).length +
  (s.kce.msgs.filter (fun m => !m.waits && (match s.job m.sr m.tag with | some j => kKey j.desc = handle && dOpcode j.desc ≠ 0x79 | none => false))).length

/-- KCE_KEY_DESTROY (R384): a slot whose record cannot be read can still be destroyed. -/
def execKceKeyDestroy (sr tag : Nat) (s : State) : Host.Outcome State Fault Refusal :=
  .next (s.withKce sr tag 0x78 [(8, 4)] false fun s j =>
    let h := kKey j.desc
    match s.kceSlot h j.slice with
    | none => s.kceEnd j stInvalidHandle 0
    | some _ =>
      if 0 < s.keyRefs h then s.kceEnd j stKeyBusy 0
      else State.kceEnd { s with kce := { s.kce with slots := Tbl.del s.kce.slots (h % 2 ^ 20)
                                                     gen := Tbl.put s.kce.gen (h % 2 ^ 20) ((h / 2 ^ 20 + 1) % 4096) } } j stSuccess 0)

/-- KCE_KEY_QUERY: type, usage, slice and references as four 32-bit numbers (log entry 62), then the public key. -/
def execKceKeyQuery (sr tag : Nat) (recordOk : Bool) (s : State) : Host.Outcome State Fault Refusal :=
  .next (s.withKce sr tag 0x79 ([(8, 4)] ++ dstUsed) false fun s j =>
    s.useKey j none (List.range 12) recordOk fun s k =>
      let out := leBytes 4 k.kind ++ leBytes 4 k.usage ++ leBytes 4 k.slice ++ leBytes 4 (s.keyRefs (kKey j.desc)) ++ k.pub
      s.kceQueue j out none stSuccess out.length)

/-- s with a message at its end: the key it makes is stored, its descriptor commits, and its pair is free. -/
def State.kceFinish (s : State) (j : Job) (m : KceMsg) : State :=
  let done := match m.newKey with
    | none => (let s := if m.status = stAuthFail || m.status = stVerifyFail then s.cnt R.KCE_AUTH_FAIL else s
               s.kceEnd j m.status m.result)
    | some k => match s.keyRoom j.slice with
      | .error st => s.keyRefused j st
      | .ok n => State.kceEnd { s with kce := { s.kce with slots := Tbl.put s.kce.slots n k } } j stSuccess (n + Tbl.get s.kce.gen n 0 * 2 ^ 20)
  done.kceFill 4

/-- KCE_UNIT_RELEASE (R391, R392): free pairs, as an abort leaves them, take what waits. Then it is a running message's next 4 KiB unit; `ok` says that both datapaths agree. The last unit, or
the outcome of an operation with no output, ends the message. -/
def execKceUnitRelease (sr tag : Nat) (ok : Bool) (s : State) : Host.Outcome State Fault Refusal :=
  let s := s.kceFill 4
  .next (match s.kce.msgs.find? (fun m => m.sr = sr && m.tag = tag), s.job sr tag with
    | some m, some j =>
      if !m.runs || j.phase = .faulted then s
      else if !ok then
        if m.retried then (((s.cnt R.KCE_DUAL_FAIL).kceFault j).kceTell).kceFill 4
        else (s.cnt R.KCE_DUAL_RETRY).updMsg m (fun x => { x with retried := true, released := 0 })
      else
        let out := m.out.getD []
        if out.length ≤ m.released then s.kceFinish j m
        else
          let u := bsub out m.released 4096
          (match s.writeOperand j (kDst j.desc) (dby j.desc 20 4) (dby j.desc 32 8 + m.released) u reqKce with
            | .wait s => s
            | .fail s st dt _ => ((s.cnt R.KCE_OPS).finish j st noUnit dt m.released).kceFill 4
            | .ok s =>
              let m' := { m with released := m.released + u.length }
              if out.length ≤ m'.released then s.kceFinish j m' else s.updMsg m (fun _ => m'))
    | _, _ => s)

/-- ENTROPY_HEALTH_FAIL (R393). -/
def execEntropyHealthFail (s : State) : Host.Outcome State Fault Refusal := .next (if s.kceState = 2 then s else s.kceHalt 1)

/-! ## Check-value units (R401, R402) -/

/-- The register of a CRC of width w after one message bit. -/
def cvBit (w poly r : Nat) (b : Bool) : Nat :=
  let top := xor (r.testBit (w - 1)) b
  let r := r * 2 % 2 ^ w
  if top then r ^^^ (poly % 2 ^ w) else r

/-- The bits of a byte in the order they are taken. -/
def crcOrder (refin : Bool) (x : Nat) : List Bool :=
  let bs := (List.range 8).map (fun i => x.testBit i)
  if refin then bs else bs.reverse

/-- A number bit-reversed over w bits. -/
def revBits (w x : Nat) : Nat := ((List.range w).map (fun i => if x.testBit i then 2 ^ (w - 1 - i) else 0)).sum

def State.crcUnit (s : State) (u : Nat) : CrcUnit := Tbl.get s.kce.crcs u ⟨0, []⟩
def State.setCrc (s : State) (u : Nat) (c : CrcUnit) : State :=
  State.wf { s with kce := { s.kce with crcs := Tbl.put s.kce.crcs u c } } (R.CRC_CFG u) 16 5 (min 16 c.fifo.length)

def State.crcWidth (s : State) (u : Nat) : Nat := s.rf (R.CRC_CFG u) 0 6 + 1

/-- The register after a FIFO entry of n bytes, lowest offset first. -/
def State.crcFold (s : State) (u r : Nat) (e : Nat × Nat) : Nat :=
  (leBytes e.1 e.2).foldl (fun r b => (crcOrder (s.rf (R.CRC_CFG u) 6 1 = 1) b.toNat).foldl (cvBit (s.crcWidth u) (s.rd (R.CRC_POLY u))) r) r

/-- s with a unit's FIFO worked off. -/
def State.crcDrain (s : State) (u : Nat) : State :=
  let c := s.crcUnit u
  s.setCrc u ⟨c.fifo.foldl (s.crcFold u) c.reg, []⟩

/-- A write of n bytes to the data register of width w: a write of another size sets size_err. One that finds the FIFO full is
held until there is room, in order. -/
def State.crcFeed (s : State) (u w n v : Nat) : State :=
  if 4 ≤ u then s
  else if n ≠ w then s.wf (R.CRC_CFG u) 10 1 1
  else let c := s.crcUnit u; s.setCrc u { c with fifo := c.fifo ++ [(w, v % 2 ^ (8 * w))] }

def execCrcData8 (u n v : Nat) (s : State) : Host.Outcome State Fault Refusal := .next (s.crcFeed u 1 n v)
def execCrcData16 (u n v : Nat) (s : State) : Host.Outcome State Fault Refusal := .next (s.crcFeed u 2 n v)
def execCrcData32 (u n v : Nat) (s : State) : Host.Outcome State Fault Refusal := .next (s.crcFeed u 4 n v)

/-- CRC_FIFO_PROCESS. -/
def execCrcFifoProcess (u : Nat) (s : State) : Host.Outcome State Fault Refusal :=
  .next (match (s.crcUnit u).fifo with
    | [] => s
    | e :: rest => s.setCrc u ⟨s.crcFold u (s.crcUnit u).reg e, rest⟩)

/-- s with n bytes written at byte `off` of a unit's CRC_CFG (0), CRC_POLY (8) or CRC_INIT (16): the write waits for the FIFO, takes effect
and restarts the register (R402). -/
def State.crcConfig (s : State) (u off n v : Nat) : State :=
  if 4 ≤ u || !(off < 4 || (8 ≤ off && off < 24)) then s
  else
    let s := s.crcDrain u
    let x := v % 2 ^ (8 * n)
    let base := if off < 4 then R.CRC_CFG u else if off < 16 then R.CRC_POLY u else R.CRC_INIT u
    let lo := 8 * (off - (if off < 4 then 0 else if off < 16 then 8 else 16))
    let new := setFld (s.rd base) lo (8 * n) x
    let s := if off < 4 then
        (let s := s.wf base 0 9 new
         if lo ≤ 10 && 10 < lo + 8 * n && new.testBit 10 then s.wf base 10 1 0 else s)
      else s.wr base (new % 2 ^ 64)
    s.setCrc u ⟨s.rd (R.CRC_INIT u) % 2 ^ s.crcWidth u, []⟩

/-- CRC_CONFIG_WRITE. -/
def execCrcConfigWrite (u off n v : Nat) (s : State) : Host.Outcome State Fault Refusal := .next (s.crcConfig u off n v)

/-- A write of n bytes at byte `off` of a unit's registers, as firmware's STD makes one (R401, R402). -/
def State.crcWrite (s : State) (u off n v : Nat) : State :=
  if off = 0x20 then s.crcFeed u 1 n v
  else if off = 0x24 then s.crcFeed u 2 n v
  else if off = 0x28 then s.crcFeed u 4 n v
  else s.crcConfig u off n v

/-- CRC_RESULT of a unit: every write that arrived before has been processed (R402). -/
def State.crcResult (s : State) (u : Nat) : Nat :=
  let w := s.crcWidth u
  let r := (s.crcUnit u).fifo.foldl (s.crcFold u) (s.crcUnit u).reg
  let r := if s.rf (R.CRC_CFG u) 7 1 = 1 then revBits w r else r
  if s.rf (R.CRC_CFG u) 8 1 = 1 then 2 ^ w - 1 - r else r

/-- CRC_RESULT_READ: it returns after every write that arrived before it. -/
def execCrcResultRead (u : Nat) (s : State) : Host.Outcome State Fault Refusal :=
  .next (
    if 4 ≤ u then s
    else
      let s := s.crcDrain u
      s.emit (.readData (R.CRC_RESULT u) 8 (s.crcResult u)))

end Sys2Proof.Machine
end

