-- ==== Sys2Proof/Machine/RegRead.lean ====
section
/-! DEFINITION. Reading registers (R5 to R8, R511): the value of a register, those that show other state included, and the
captured value of a counter. -/

namespace Sys2Proof.Machine

/-- The holdings of a slice as SLC_USE lays them out (R404): the count quotas of SLC_QUOTA, then cells and slots. -/
def State.useWord (s : State) (sl : Nat) : Nat :=
  let u := s.sliceUse sl
  u 0 + u 1 * 2 ^ 32 + u 2 * 2 ^ 64 + u 3 * 2 ^ 96 + u 4 * 2 ^ 128 + u 5 * 2 ^ 144 + u 6 * 2 ^ 160 + u 7 * 2 ^ 176 +
  ((List.range 1536).filter (fun c => s.cellOwner c = sl && s.cellState c ≠ 0)).length * 2 ^ 192 +
  (s.frameUse sl).length * 2 ^ 224 + (s.spineUse sl).length * 2 ^ 256

/-- Whether the driver's lease runs, and the µs it has left (CTL_LEASE_REMAIN). -/
def State.leaseLeft (s : State) : Nat := if s.ring.leaseArmed then (s.ring.leaseEnd - s.timeNs) / 1000 else 0

/-- SLC_STATUS of a slice (R409, R410). -/
def State.sliceStatus (s : State) (sl : Nat) : Nat :=
  let m := s.overMask sl
  (s.slice sl).state.code + (if m = 0 then 0 else 8) + m * 2 ^ 16

/-- CKP_STATUS: a copier runs, a page is guarded, the jobs that are loaded. -/
def State.ckpStatus (s : State) : Nat :=
  b2n (s.ckp.jobs.any (fun j => j.2.run.isSome)) + b2n (!s.mem.guard.isEmpty) * 2 +
  (s.ckp.jobs.map (fun j => 2 ^ (16 + j.1 % 16))).sum

/-- The value of the register of base r.base, unit u and instance i: what it holds, or what it shows. -/
def State.regValue (s : State) (r : RegSpec) (own u i : Nat) : Nat :=
  let b := r.base
  if b = R.CTL_LEASE_REMAIN then s.leaseLeft
  else if b = R.TLN_TIME then s.timeNs % 2 ^ 64
  else if b = R.TLN_STAGE_STATUS then
    let t := Tbl.get s.tln.slots (s.rf R.TLN_STAGE_CTRL 8 4) TlnSlot.empty
    t.code + t.detail % 2 ^ 16 * 2 ^ 16
  else if b = R.MEM_GRANULES 0 then s.freeGranules u + (if s.rf R.CTL_ADMIN_STATUS 2 1 = 1 then 96 * 2 ^ 18 else 0)
  else if b = R.XLT_STATUS then setFld (s.rd own) 16 13 (s.xlt.faults.filter (fun f => !f.2.late)).length
  else if b = R.TMT_REORDER_FREE 0 then 262144 - s.reorderUse i
  else if b = R.NVM_CACHE_USE then s.cacheUse
  else if b = R.NVM_STATUS then s.storStatus
  else if b = R.CKP_STATUS then s.ckpStatus
  else if b = R.KCE_STATUS then s.kceStatus
  else if b = R.CRC_RESULT 0 then s.crcResult u
  else if b = R.CRC_CFG 0 then setFld (s.rd own) 16 5 (s.crcUnit u).fifo.length
  else if b = R.FWC_CORE_STATUS 0 then setFld (s.rd own) 2 2 (s.recentCrashes i)
  else if b = R.CLK_STATUS then setBit (s.rd own) 8 (bit (s.rd own) 8 && decide (s.timeNs ≤ s.clk.ppsAt + 1100000000))
  else if b = R.SLC_STATUS 0 then s.sliceStatus i
  else if b = R.SLC_USE 0 then s.useWord i
  else if b = R.LAT_CELL_PC 0 then (s.seq u).pc % 2 ^ 21
  else if b = R.LAT_CELL_STATE 0 then setBit (s.rd own) 3 (s.hubGated (u / 128))
  else if b = R.LAT_CELL_STRM 0 0 then ((List.range 8).map (fun w => s.strmWord u i w * 2 ^ (64 * w))).sum
  else s.rd own

/-- The bits of a register that a read returns: Rsvd and WO fields read 0 (R5, R6). -/
def RegSpec.readMask (r : RegSpec) : Nat := r.fields.foldl (fun m f => match f.acc with
  | .wo => m
  | _ => m ||| ones f.lo f.width) 0

/-- The class L gauges of a counter block, by the address of its snap register: SLC_USE, TMT_REORDER_FREE and NVM_CACHE_USE (R7, R8). -/
def gaugesOf (snap : Nat) : List Nat :=
  if snap = R.SLC_CTRL then (List.range 64).map R.SLC_USE
  else if snap = R.TMT_CTRL then (List.range 4).map R.TMT_REORDER_FREE
  else if snap = R.NVM_CTRL then [R.NVM_CACHE_USE]
  else []

/-- Whether the register at its own address a is a class L gauge. -/
def isGauge (a : Nat) : Bool := (gaugesOf R.SLC_CTRL).contains a || (gaugesOf R.TMT_CTRL).contains a || a = R.NVM_CACHE_USE

/-- What a register shows now, its Rsvd and WO fields as 0. -/
def State.shown (s : State) (a : Nat) : Nat := match findReg a with
  | some (r, own, u, i) => s.regValue r own u i &&& r.readMask
  | none => 0

/-- A latch copy after a capture of block b, unit u: its counters, and its gauges at their level now (R8). -/
def State.captured (s : State) (latch : Tbl Nat) (b : CtrBlock) (u : Nat) : Tbl Nat :=
  (gaugesOf b.snap).foldl (fun t g => Tbl.put t g (s.shown g)) (capture s.ctr latch b u)

/-- The side that reads (R8): the host and the control cores share one latch copy, the management controller has its own. A gauge that
nothing has captured yet reads its reset value. -/
def State.latched (s : State) (mc : Bool) (a : Nat) : Nat := Tbl.get (if mc then s.ctrMc else s.ctrHost) a (if isGauge a then resetAt a else 0)

/-- Reads n bytes at register-space address a, with no side effect; a place of no register reads 0. -/
def State.readReg (s : State) (mc : Bool) (a n : Nat) : Nat :=
  match findCtr a with
  | some (_, u, c, i) =>
    let own := c.base + u * c.s1 + i * c.s2
    fld (s.latched mc own) (8 * (a - own)) (8 * n)
  | none => match findReg a with
    | some (r, own, u, i) =>
      let v := if isGauge own then s.latched mc own else s.regValue r own u i &&& r.readMask
      fld v (8 * (a - own)) (8 * n)
    | none => 0

/-- How many of the n bytes from a one register or counter holds. -/
def readSpan (a n : Nat) : Nat := match findCtr a with
  | some (_, u, c, i) => min n (c.base + u * c.s1 + i * c.s2 + (match c.cls with | .s => 4 | _ => 8) - a)
  | none => regSpan a n

/-- A read over as many registers and counters as its bytes reach, at most k of them. -/
def State.readOver (s : State) (mc : Bool) : Nat → Nat → Nat → Nat
  | 0, _, _ => 0
  | k + 1, a, n =>
    if n = 0 then 0
    else
      let m := readSpan a n
      s.readReg mc a m + s.readOver mc k (a + m) (n - m) * 2 ^ (8 * m)

/-- A read of n bytes, at most 8: the narrowest registers have 2 bytes. -/
def State.readWide (s : State) (mc : Bool) (a n : Nat) : Nat := s.readOver mc 4 a n

/-- The address, in this model's register space, of an offset of the internal register space (R21, R455): the set-up registers of
BAR0, then the blocks that only it holds. -/
def regAddr (off : Nat) : Nat := if off < 0x4000000 then off else off + 2 ^ 31


end Sys2Proof.Machine
end

