-- ==== Sys2Proof/Machine/Rings.lean ====
section
/-! DEFINITION. Rings, doorbells, completions, events, the admin ring and the lease: the commands of 02_rings but for
ABORT and ADOPT_SLICE. -/

namespace Sys2Proof.Machine

/-! ## Doorbells (R40 to R42) -/

/-- The checks of R41 in their order, for a ring given as its state, generation and size: none when the doorbell
passes, otherwise the counter that counts it. `whole` says the write is 8 bytes, naturally aligned, on its word. -/
def doorbellCheck (whole linkOk : Bool) (word : Nat) (ring : Option (Nat × Nat)) (gen : Nat) : Option Nat :=
  if !whole || word / 2 ^ 32 ≠ 0 || !linkOk then some R.RNG_DB_RANGE
  else match ring with
    | none => some R.RNG_DB_STALE
    | some (st, log2) =>
      if fld word 16 16 ≠ gen then some R.RNG_DB_STALE
      else if st = 2 || st = 4 then some R.RNG_DB_STOPPED
      else if 2 ^ log2 ≤ fld word 0 16 then some R.RNG_DB_RANGE
      else none

/-- Whether a write of `size` bytes at page offset `off` reaches the doorbell word at `at'`; other offsets are Rsvd, and a write there is
ignored (R40). -/
def onWord (at' off size : Nat) : Bool := decide (off < at' + 8) && decide (at' < off + size)

/-- SR doorbell of page n (R42): the latest tail wins. -/
def State.srDoorbell (s : State) (n : Nat) (whole linkOk : Bool) (word : Nat) : State :=
  match doorbellCheck whole linkOk word ((Tbl.find s.ring.srs n).map (fun r => (ringState (s.slice r.slice).state, r.at'.log2)))
      (Tbl.get s.ring.srGen n 0) with
  | some c => s.cnt c
  | none => { s with ring := { s.ring with srs := Tbl.upd s.ring.srs n (fun r => { r with tail := fld word 0 16 }) } }

/-- SR_DOORBELL (R40 to R42): a write of `size` bytes of `word` at page offset `off` of page n. -/
def execSrDoorbell (n off size word : Nat) (s : State) : Host.Outcome State Fault Refusal :=
  .next (if !s.barOk 0 || !onWord 0 off size then s else s.srDoorbell n (decide (off = 0) && decide (size = 8)) true word)

/-- CR_DOORBELL (R40, R41, R49, R516): the new head frees entries, and a held write is tried again. -/
def execCrDoorbell (n off size word : Nat) (s : State) : Host.Outcome State Fault Refusal :=
  .next (if !s.barOk 0 || !onWord 0x100 off size then s else match doorbellCheck (decide (off = 0x100) && decide (size = 8)) true word
      ((Tbl.find s.ring.crs n).map (fun r => (ringState (s.slice r.slice).state, r.at'.log2))) (Tbl.get s.ring.crGen n 0) with
    | some c => s.cnt c
    | none => { s with ring := { s.ring with crs := Tbl.upd s.ring.crs n (fun r =>
        let k := (fld word 0 16 + 2 ^ r.at'.log2 - r.head) % 2 ^ r.at'.log2
        { r with head := fld word 0 16, freed := r.freed + k, stuck := false }) } })

/-- EQ_DOORBELL (R40, R41, R516); pages 4,096 and above have no event queue word. -/
def execEqDoorbell (n off size word : Nat) (s : State) : Host.Outcome State Fault Refusal :=
  .next (if !s.barOk 0 || 4096 ≤ n || !onWord 0x200 off size then s else match doorbellCheck (decide (off = 0x200) && decide (size = 8)) true word
      ((Tbl.find s.ring.eqs n).map (fun r => (ringState (s.slice r.slice).state, r.at'.log2))) (Tbl.get s.ring.eqGen n 0) with
    | some c => s.cnt c
    | none => { s with ring := { s.ring with eqs := Tbl.upd s.ring.eqs n (fun r =>
        let k := (fld word 0 16 + 2 ^ r.at'.log2 - r.head) % 2 ^ r.at'.log2
        { r with head := fld word 0 16, freed := r.freed + k, stuck := false }) } })

/-! ## Fetch (R43 to R46, R413, R444, R445, R515) -/

/-- The opcodes the spec defines (R45, R57, R236, R389, R407, R446 and the family tables). -/
def opcodeDefined (op : Nat) : Bool :=
  (1 ≤ op && op ≤ 5) || (0x10 ≤ op && op ≤ 0x17) || (0x20 ≤ op && op ≤ 0x25) || (0x30 ≤ op && op ≤ 0x38) ||
  (0x40 ≤ op && op ≤ 0x46) || (0x50 ≤ op && op ≤ 0x54) || (0x58 ≤ op && op ≤ 0x5C) || (0x60 ≤ op && op ≤ 0x67) ||
  (0x70 ≤ op && op ≤ 0x79) || (0x80 ≤ op && op ≤ 0x8F) || op = 0xF0

/-- Whether an opcode is accepted on a ring: the ring, slice and firmware commands only on SR 0 (R57, R407, R446). -/
def opcodeOnRing (op sr : Nat) : Bool :=
  sr = 0 || !((0x80 ≤ op && op ≤ 0x84) || (0x88 ≤ op && op ≤ 0x8F) || op = 0x58)

/-- What slice 0 may post for a QUIESCING or QUIESCED slice (R413): descriptors that end, remove or query objects. -/
def quiescedOk (d : Nat) : Bool :=
  let op := dOpcode d
  [0xF0, 0x14, 0x15, 0x16, 0x12, 0x17, 0x23, 0x22, 0x25, 0x42, 0x43, 0x78, 0x45, 0x8C, 0x8D, 0x61, 0x67, 0x88, 0x89, 0x84].contains op ||
  (op = 0x41 && (dby d 12 1 = 1 || dby d 12 1 = 2)) || (op = 0x46 && (dby d 12 1 = 1 || dby d 12 1 = 3))

/-- The feature bit a family as a whole needs (R444); the bits for single fields are checked by the command itself. -/
def familyFeature (op : Nat) : Option Nat :=
  if 0x20 ≤ op && op ≤ 0x25 then some 3
  else if 0x60 ≤ op && op ≤ 0x67 then some 4
  else if op = 0x5B || op = 0x5C then some 5
  else none

/-- The status a fetched descriptor is rejected with, if it is: version, opcode, slice and cr, Rsvd header bits, tag,
slice state, feature (R46, R45, R6, R413, R445, R444). Where several apply, the spec gives no order: DESIGN CHOICE (log entry 14), the
first in that list wins; a descriptor that repeats an outstanding tag and has a bad opcode or header is so rejected for the latter. -/
def State.rejectStatus (s : State) (n : Nat) (r : Sr) (d : Nat) : Option Nat :=
  let op := dOpcode d
  let crOk := match Tbl.find s.ring.crs (dCr d) with | some c => decide (c.slice = r.slice) | none => false
  if n = 0 && s.rf R.FWC_STATUS 2 1 = 1 && !(op = 0x87 || op = 0x8E) then some stVersionMismatch
  else if !opcodeDefined op || !opcodeOnRing op n then some stInvalidOpcode
  else if !crOk || (n ≠ 0 && dSlice d ≠ r.slice) || fld d 10 6 ≠ 0 || fld d 38 10 ≠ 0 then some stInvalidDescriptor
  else if (s.job n (dTag d)).isSome then some stTagInUse
  else if n = 0 && !(op = 0x88) && (s.slice (dSlice d)).state = .absent then some stSliceState
  else if ((s.slice (dSlice d)).state = .quiescing || (s.slice (dSlice d)).state = .quiesced) && n = 0 && dSlice d ≠ 0 && !quiescedOk d then some stSliceState
  else match familyFeature op with
    | some b => if s.feature b then none else some stFeatureOff
    | none => none

/-- s with the fetch position of a ring moved on by one entry. -/
def State.advanceHead (s : State) (n : Nat) : State :=
  { s with ring := { s.ring with srs := Tbl.upd s.ring.srs n (fun r => { r with fetched := r.fetched + 1 }) } }

/-- What an abort notes of its target's ring when it is fetched (R51): the entries that doorbells have covered by then, as a count since the
ring's creation, and the ring's generation. Every other descriptor notes nothing. -/
def State.abortNote (s : State) (d : Nat) : List Nat :=
  if dOpcode d ≠ 0xF0 then []
  else match Tbl.find s.ring.srs (dby d 8 2) with
    | some r => [0, r.fetched + r.covered, Tbl.get s.ring.srGen (dby d 8 2) 0]
    | none => [0, 0, 0]

/-- One fetched descriptor (R43, R46): rejected without effect, or outstanding and started when it may. Of a slice in ERROR it completes
FIRMWARE_ERROR at once (R39; log entry 125), and so does one that a ring of slice 0 had outstanding as its core went OFFLINE (R443). -/
def State.takeDescriptor (s : State) (n d : Nat) : State :=
  match Tbl.find s.ring.srs n with
  | none => s
  | some r =>
    let s := ((s.advanceHead n).cnt R.RNG_FETCHED).cnt (R.SLC_FETCHED r.slice)
    let crOk := match Tbl.find s.ring.crs (dCr d) with | some c => decide (c.slice = r.slice) | none => false
    match if (s.slice r.slice).state = .error || r.fetched < r.doomed then some stFirmwareError else s.rejectStatus n r d with
    | some st =>
      s.addCpl { sr := n, tag := dTag d, cr := if crOk then dCr d else r.fallback, slice := r.slice, status := st, unit := noUnit
                 detail := 0, result := 0, time := 0, irq := dIrq d, counted := false }
    | none =>
      let j : Job := { sr := n, tag := dTag d, seq := s.ring.nextSeq, slice := dSlice d, cr := dCr d, fence := dFence d, irq := dIrq d
                       desc := d, phase := .waiting, moved := 0, prog := s.abortNote d }
      State.release { s with ring := { s.ring with jobs := s.ring.jobs ++ [j], nextSeq := s.ring.nextSeq + 1 } } n

/-- An entry that returned no usable data (R515): one completion with tag 0xFFFF on the fallback CR, and a type 0x02
event, cause 1. The spec does not say whether such an entry counts as fetched: DESIGN CHOICE (log entry 126), it does, in RNG_FETCHED and
in SLC_FETCHED. -/
def State.fetchFailure (s : State) (n entry status detail : Nat) : State :=
  match Tbl.find s.ring.srs n with
  | none => s
  | some r =>
    let s := ((s.advanceHead n).cnt R.RNG_FETCHED).cnt (R.SLC_FETCHED r.slice)
    let s := s.addCpl { sr := n, tag := 0xFFFF, cr := r.fallback, slice := r.slice, status := status, unit := noUnit, detail := detail
                        result := entry, time := 0, irq := false, counted := false }
    match Tbl.find s.ring.crs r.fallback with
    | some c => s.postEvent c.eq n 2 (0 + 1 * 256 + entry * 65536)
    | none => s

/-- The entries k to k + m - 1 of a read of descriptors, taken in ring order. -/
def State.takeAll (s : State) (n : Nat) : Nat → List Byte → State
  | 0, _ => s
  | m + 1, bs => (s.takeDescriptor n (leAt bs 0 64)).takeAll n m (bs.drop 64)

/-- Fetches m entries of a ring in pool memory one line at a time; an uncorrectable line fails only its own entry. -/
def State.fetchPool (s : State) (n : Nat) (rg : Region) : Nat → State
  | 0 => s
  | m + 1 =>
    match Tbl.find s.ring.srs n with
    | none => s
    | some r =>
      match s.readRegion rg (r.at'.base + 64 * r.head) 64 with
      | .ok s bs => (s.takeDescriptor n (leNat bs)).fetchPool n rg m
      | .fail s st _ => (s.fetchFailure n r.head st 1).fetchPool n rg m

/-- m entries of a ring that cannot be read at all, their slice being in ERROR: each ends as R515 has it, with FIRMWARE_ERROR (log entry 125). -/
def State.fetchLost (s : State) (n : Nat) : Nat → State
  | 0 => s
  | m + 1 => match Tbl.find s.ring.srs n with
    | none => s
    | some r => (s.fetchFailure n r.head stFirmwareError 0).fetchLost n m

/-- The entries one fetch takes: up to 16 in ring order, not past the end of the ring's memory. -/
def Sr.fetchable (r : Sr) : Nat := min 16 (min r.covered (2 ^ r.at'.log2 - r.head))

/-- Whether a fetch of this ring is under way, so that the next one waits its turn. -/
def State.fetching (s : State) (n : Nat) : Bool :=
  let isMine := fun (w : ReadFor) => match w with | .ring m _ => decide (m = n) | _ => false
  s.pcie.reads.any (fun p => isMine p.2.what && !p.2.discard) || s.pcie.readWait.any (fun p => isMine p.what) ||
  s.ports.links.any (fun l => l.2.reqs.any (fun q => match q.what with | .read w _ => isMine w | _ => false)) ||
  s.xlt.faults.any (fun f => f.2.waiters.any (fun w => w.ring && w.sr = n && w.tag = 0)) ||
  s.xlt.spill.any (fun f => f.waiter.ring && f.waiter.sr = n && f.waiter.tag = 0)

/-- Whether a teardown of a slice has been accepted and waits for what the slice's doorbells covered to be fetched (R61). -/
def State.adopting (s : State) (sl : Nat) : Bool :=
  s.ring.jobs.any (fun j => j.sr = 0 && j.slice = sl && dOpcode j.desc = 0x84 && nth j.prog 0 0 = 1)

/-- The descriptors that the fetch rate of a slice lets be fetched now, at most 16 (R404): `taken` have been in the second from `since`. -/
def State.rateLeft (s : State) (sl : Nat) : Nat :=
  let c := s.slice sl
  if c.rate = 0 then 16 else min 16 (c.rate * 10000 - (if c.since + 10 ^ 9 ≤ s.timeNs then 0 else c.taken))

/-- Whether a fetch of SR n, whose record is r, may begin now: it has entries, no fetch of it is under way, its core schedules (SR 0's goes
on with CC0 OFFLINE, to complete FIRMWARE_ERROR, R435), its slice's rate allows it, and its memory can be read. A host ring of an ORPHANED slice is fetched for its teardown alone (R60, R61), and none while
the function is cut (R430). -/
def State.fetchReady (s : State) (n : Nat) (r : Sr) : Bool :=
  decide (0 < r.fetchable) && decide (0 < s.rateLeft r.slice) && (s.coreRuns (s.ringCore n) || (decide (n = 0) && decide (s.coreState 0 = 3))) && !s.fetching n &&
  (n ≠ 0 || s.rf R.CTL_ADMIN_CTRL 1 1 = 1) &&
  (if r.at'.loc = 2 then (match s.region r.at'.por r.slice with
      | some rg => !s.regionWaits rg (r.at'.base + 64 * r.head) (64 * r.fetchable)
      | none => false)
   else if r.at'.loc = 1 then s.dnxState r.at'.link = 5
   else ((s.slice r.slice).state ≠ .orphaned || s.adopting r.slice) && s.dmaOk 0)

/-- Whose turn it is in a weighted round robin: the one served last while it has turns left, else the next ready one upward, cyclically.
`ready` rises. -/
def nextTurn (ready : List Nat) (cur left : Nat) : Option Nat :=
  if 0 < left && ready.contains cur then some cur
  else match ready.find? (fun k => cur < k) with
    | some k => some k
    | none => ready.head?

/-- The turns left after one more is taken by k, of weight w. -/
def turnsLeft (cur left k w : Nat) : Nat := if k = cur && 0 < left then left - 1 else w - 1

/-- The slice and the ring that are fetched next (R43): weighted round robin among the slices that have a ring to fetch, and among those
rings of the slice. A turn is one read (log entry 127). -/
def State.fetchTurn (s : State) : Option Nat :=
  let ready := s.ring.srs.filter (fun r => s.fetchReady r.1 r.2)
  match nextTurn ((List.range 64).filter (fun sl => ready.any (fun r => r.2.slice = sl))) s.ring.turn s.ring.left with
  | none => none
  | some sl => nextTurn ((ready.filter (fun r => r.2.slice = sl)).map Prod.fst) (s.slice sl).turn (s.slice sl).left

/-- s with a turn of m descriptors taken by SR n. -/
def State.takeTurn (s : State) (n m : Nat) (r : Sr) : State :=
  let sl := r.slice
  let c := s.slice sl
  let fresh := decide (c.since + 10 ^ 9 ≤ s.timeNs)
  let c' := { c with turn := n, left := turnsLeft c.turn c.left n r.weight, since := if fresh then s.timeNs else c.since
                     taken := if fresh then m else c.taken + m }
  { s with slices := Tbl.put s.slices sl c'
           ring := { s.ring with turn := sl, left := turnsLeft s.ring.turn s.ring.left sl (max 1 c.weight) } }

/-- DESCRIPTOR_FETCH (R43): where it is SR n's turn, fetches and starts what it may of it. -/
def State.fetch (s : State) (n : Nat) : State :=
  match Tbl.find s.ring.srs n with
  | none => s
  | some r =>
    let m := min r.fetchable (s.rateLeft r.slice)
    if s.fetchTurn ≠ some n then s
    else
      let s := s.takeTurn n m r
      if r.at'.loc = 2 then
        match s.region r.at'.por r.slice with
        | some rg => s.fetchPool n rg m
        | none => s
      else if r.at'.loc = 1 then s.dnxRequest r.at'.link 2 0 (r.at'.base + 64 * r.head) (64 * m) 0 0 (.read (.ring n r.head) 0)
      else if n = 0 then s.hostRead 0 (r.at'.base + 64 * r.head) (64 * min m (s.pcie.mrrs / 64)) (.ring n r.head) 0
      else
        let a := r.at'.base + 64 * r.head
        let m := min (min m (s.pcie.mrrs / 64)) ((4096 - a % 4096) / 64)
        match s.translate r.at'.por r.slice a false ⟨true, n, 0, 0, false, false, 0⟩ with
        | .host s bus => s.hostRead 0 bus (64 * m) (.ring n r.head) 0 (s.atOf r.at'.por a bus)
        | .acc s l b => s.dnxRequest l 2 0 b (64 * m) 0 0 (.read (.ring n r.head) 0)
        | .stall s => s
        | .fail s _ _ => (s.sliceError r.slice).fetchLost n m

/-- DESCRIPTOR_FETCH. -/
def execDescriptorFetch (n : Nat) (s : State) : Host.Outcome State Fault Refusal := .next (s.fetch n)

/-! ## Writing completions and events (R47 to R49, R54, R55, R516) -/

/-- How the write of a ring entry ends: landed, held for now, or held for an uncorrectable line (R516). -/
inductive RingWrite
  | done (s : State)
  | held (s : State)
  | stuck (s : State)

/-- The owner number of an entry of ring n, of a kind, that the copy guard keeps waiting (R365). -/
def ringOwner (kind n : Nat) : Nat := 2 ^ 47 + kind * 65536 + n

/-- Writes an entry of a ring of a slice at byte offset off; `bus` says its base is an untranslated bus address (the
admin ring), `kind` and `n` name the ring to a fault. One that meets a guarded page waits for it (R365), and one whose hub is under warm
reset for that (R495). -/
def State.writeEntry (s : State) (l : RingLoc) (sl n kind off : Nat) (bs : List Byte) : RingWrite :=
  if l.loc = 2 then
    match s.region l.por sl with
    | none => .held s
    | some r =>
      let a := r.dpa (l.base + off)
      if s.regionWaits r (l.base + off) bs.length then .held s
      else if s.guarded a then
        if s.mem.guardWait.any (fun w => w.owner = ringOwner kind n) then .held s
        else .held (State.cnt { s with mem := { s.mem with guardWait := s.mem.guardWait ++ [⟨a, [], ringOwner kind n, 0⟩] } } R.CKP_GUARD_WAITS)
      else match s.writeRegion r (l.base + off) bs with
        | (s, _, none) => .done s
        | (s, _, some _) => .stuck s
  else if l.loc = 1 then
    if s.dnxState l.link ≠ 5 then .held s else .done (s.accPut l.link (l.base + off) bs)
  else if (s.slice sl).state = .orphaned || !s.dmaOk 0 then .held s
  else if n = 0 then .done (s.hostPut (l.base + off) bs)
  else match s.translate l.por sl (l.base + off) true ⟨true, n, kind, 0, true, false, 0⟩ with
    | .host s bus => .done (s.hostPut bus bs)
    | .acc s k a => .done (s.accPut k a bs)
    | .stall s => .held s
    | .fail s _ _ => .held (s.sliceError sl)

/-- The 32 bytes of a completion entry (R47). -/
def cplBytes (c : Cpl) (srHead : Nat) (phase : Bool) : List Byte :=
  leBytes 2 c.tag ++ leBytes 2 c.sr ++ leBytes 2 srHead ++ leBytes 2 c.status ++ leBytes 4 c.unit ++ leBytes 4 c.detail ++
  leBytes 8 c.result ++ leBytes 4 c.time ++ leBytes 4 (if phase then 2 ^ 31 else 0)

/-- The phase of entry j of a ring of 2^log2 entries (R48). -/
def phaseOf (j log2 : Nat) : Bool := (j / 2 ^ log2) % 2 = 0

/-- The 16 bytes of an event entry (R54). -/
def evBytes (e : Ev) (phase : Bool) : List Byte :=
  leBytes 2 e.source ++ leBytes 1 e.kind ++ leBytes 1 (if phase then 128 else 0) ++ leBytes 4 e.detail ++ leBytes 8 e.time

/-- Whether a fault or a held write already keeps a ring's entries back. -/
def State.ringStalled (s : State) (n kind : Nat) : Bool :=
  s.xlt.faults.any (fun f => f.2.waiters.any (fun w => w.ring && w.sr = n && w.tag = kind)) ||
  s.xlt.spill.any (fun f => f.waiter.ring && f.waiter.sr = n && f.waiter.tag = kind)

/-- Whether a completion still waits (R53, R161, R239, R333): for writes of its descriptor held by the copy guard or not landed in an
accelerator, for stream writes in flight of the cells of a stopped wave, or, an abort's, for its target's entry. -/
def State.writesPending (s : State) (c : Cpl) : Bool :=
  (match c.after with | some (sr, tag) => s.ring.unwritten.any (fun k => k.sr = sr && k.tag = tag) | none => false) ||
  s.guardHolds c.sr c.tag || s.pcie.landings.any (fun l => l.past && l.sr = c.sr && l.tag = c.tag) ||
  s.pipes.holds.any (fun h => h.1 = c.sr && h.2.1 = c.tag && s.pipePending h.2.2)

/-- s with the type 0x01 event of a CR due when R55 says so. -/
def State.moderate (s : State) (n : Nat) (c : Cr) (irq : Bool) : State :=
  if irq || c.modTime = 0 || c.modCount ≤ c.since then s.postEvent c.eq n 1 0 else s

/-- The fetch position that a completion of SR n shows (R47). Of a ring destroyed before its entry is written the spec gives none:
DESIGN CHOICE (log entry 128), 0. -/
def State.srHead (s : State) (n : Nat) : Nat := match Tbl.find s.ring.srs n with | some q => q.head | none => 0

/-- CR_ENTRY_WRITE (R48, R49, R55, R516): the oldest unwritten completion of CR n is written, if its ring lets it. -/
def State.writeCpl (s : State) (n : Nat) : State :=
  match Tbl.find s.ring.crs n, takeFirst (fun c => c.cr = n) s.ring.unwritten with
  | some r, some (c, rest) =>
    if r.free = 0 || r.stuck || s.ringStalled n 1 || s.writesPending c then s
    else
      let srHead := s.srHead c.sr
      let j := r.written
      match s.writeEntry r.at' r.slice n 1 (32 * (j % 2 ^ r.at'.log2)) (cplBytes c srHead (phaseOf j r.at'.log2)) with
      | .held s => s
      | .stuck s =>
        State.postEvent { s with ring := { s.ring with crs := Tbl.put s.ring.crs n { r with stuck := true } } } 0 n 2
          (1 + 2 * 256 + (j % 2 ^ r.at'.log2) * 65536)
      | .done s =>
        let r' := { r with written := j + 1, since := r.since + 1, timer := some (r.timer.getD s.timeNs) }
        let s := State.cnt { s with ring := { s.ring with crs := Tbl.put s.ring.crs n r', unwritten := rest }
                                    pipes := { s.pipes with holds := s.pipes.holds.filter (fun h => !(h.1 = c.sr && h.2.1 = c.tag)) } } R.RNG_COMPLETED
        let s := s.moderate n r' c.irq
        if r'.free = 0 then
          let late := (rest.filter (fun k => k.cr = n && !k.counted)).length
          let s : State := { s with ring := { s.ring with unwritten := rest.map (fun k => if k.cr = n then { k with counted := true } else k) } }
          if late = 0 then s else s.cnt R.RNG_CR_FULL late
        else s
  | _, _ => s

/-- CR_ENTRY_WRITE. -/
def execCrEntryWrite (n : Nat) (s : State) : Host.Outcome State Fault Refusal := .next (s.writeCpl n)

/-- MODERATION_TIMER_EXPIRY (R55): t has elapsed since the first completion written after the last event. -/
def execModerationTimerExpiry (n : Nat) (s : State) : Host.Outcome State Fault Refusal :=
  .next (match Tbl.find s.ring.crs n with
    | some c => (match c.timer with
      | some t => if 0 < c.since && t + c.modTime * 1000 ≤ s.timeNs then s.postEvent c.eq n 1 0 else s
      | none => s)
    | none => s)

/-- EVENT_WRITE (R54, R55, R425, R516): the oldest due event of EQ n is written and its interrupt raised. -/
def State.writeEvent (s : State) (n : Nat) : State :=
  match Tbl.find s.ring.eqs n, takeFirst (fun e => e.eq = n) s.ring.events with
  | some q, some (e, rest) =>
    if 2 ^ q.at'.log2 ≤ q.written - q.freed || q.stuck || s.ringStalled n 2 then s
    else
      let e := if e.kind = 1 then
          match Tbl.find s.ring.crs e.source with | some c => { e with detail := c.written % 2 ^ c.at'.log2 } | none => e
        else e
      let j := q.written
      match s.writeEntry q.at' q.slice n 2 (16 * (j % 2 ^ q.at'.log2)) (evBytes { e with time := s.timeNs } (phaseOf j q.at'.log2)) with
      | .held s => s
      | .stuck s =>
        State.postEvent { s with ring := { s.ring with eqs := Tbl.put s.ring.eqs n { q with stuck := true } } } 0 n 2
          (2 + 2 * 256 + (j % 2 ^ q.at'.log2) * 65536)
      | .done s =>
        let crs := if e.kind = 1 then Tbl.upd s.ring.crs e.source (fun c => { c with since := 0, timer := none }) else s.ring.crs
        let s : State := { s with ring := { s.ring with eqs := Tbl.put s.ring.eqs n { q with written := j + 1 }, events := rest, crs := crs } }
        if q.at'.loc = 1 then s.dnxRequest q.at'.link 2 0 (q.at'.base + 16 * (j % 2 ^ q.at'.log2)) 0 0 0 (.eqIrq n) else s.msix 0 q.vector
  | _, _ => s

/-- EVENT_WRITE. -/
def execEventWrite (n : Nat) (s : State) : Host.Outcome State Fault Refusal := .next (s.writeEvent n)

/-! ## The admin ring (R56, R58, R444, R445) -/

/-- Firmware's part of the enable (R444, R445): the agreed features, valid, the mismatch, and then ready. -/
def State.adminAgree (s : State) : State :=
  let drv := s.rf R.FWC_DRV_VERSION 8 8
  let s := s.wr R.FWC_AGREED (s.rd R.FWC_DRV_FEAT &&& s.rd R.FWC_FW_FEAT)
  let s := s.wf R.FWC_STATUS 2 1 (if drv = 0 || drv ≠ s.rf R.FWC_VERSION 8 8 then 1 else 0)
  (s.wf R.FWC_STATUS 3 1 1).wf R.CTL_ADMIN_CTRL 1 1 1

/-- Slice 0's quotas at enable (R404). -/
def slice0Quota : Nat :=
  2358144 + 135168 * 2 ^ 32 + 1048575 * 2 ^ 64 + 1310464 * 2 ^ 96 + 65535 * 2 ^ 128 + 3987 * 2 ^ 144 + 1024 * 2 ^ 160 + 256 * 2 ^ 176 +
  1 * 2 ^ 192 + 0 * 2 ^ 224 + 0 * 2 ^ 232 + 0 * 2 ^ 256 + 750 * 2 ^ 266 + (2 ^ 96 - 1) * 2 ^ 288

/-- The three rings of the admin ring come into existence under the next generation (R58). -/
def State.adminCreate (s : State) : State :=
  let g := (s.rf R.CTL_ADMIN_CTRL 16 16 + 1) % 65536
  let ctrl := s.rd R.CTL_ADMIN_CTRL
  let at' := fun (reg lo : Nat) => (⟨0, 0, s.rf reg 12 52 * 4096, fld ctrl lo 4, 0⟩ : RingLoc)
  let rg := s.ring
  { s.wf R.CTL_ADMIN_CTRL 16 16 g with ring := { rg with
      srs := Tbl.put rg.srs 0 ⟨0, at' R.CTL_ADMIN_SR_BASE 4, 1, 0, 0, 0, 0⟩
      crs := Tbl.put rg.crs 0 ⟨0, at' R.CTL_ADMIN_CR_BASE 8, 0, 1, 0, 0, 0, 0, 0, none, false⟩
      eqs := Tbl.put rg.eqs 0 ⟨0, at' R.CTL_ADMIN_EQ_BASE 12, 0, 0, 0, 0, false⟩
      srGen := Tbl.set rg.srGen 0 g 0
      crGen := Tbl.set rg.crGen 0 g 0
      eqGen := Tbl.set rg.eqGen 0 g 0 } }

/-- The unwritten completions that p picks are written to their CRs in commit order, as far as their rings let them (R61, R430). -/
def State.writeHeld (s : State) (p : Cpl → Bool) : State := (s.ring.unwritten.filter p).foldl (fun s c => s.writeCpl c.cr) s

/-- ADMIN_RING_ENABLE (R56, R61, R403, R404, R444): a write of `word` to CTL_ADMIN_CTRL with enable = 1. -/
def execAdminRingEnable (word : Nat) (s : State) : Host.Outcome State Fault Refusal :=
  .next (if s.rf R.CTL_ADMIN_CTRL 0 1 = 1 || !bit word 0 then s
    else
      let s := s.regWrite R.CTL_ADMIN_CTRL 4 word
      let ok := fun (lo : Nat) => decide (4 ≤ fld word lo 4) && decide (fld word lo 4 ≤ 12)
      if !(ok 4 && ok 8 && ok 12) || !s.badBases.isEmpty then s.wf R.CTL_ADMIN_STATUS 0 1 1
      else
        let s := (s.wf R.CTL_ADMIN_CTRL 0 1 1).adminCreate
        let s : State := { s with locks := setIns s.locks R.CTL_ADMIN_CTRL }
        let s := if (s.slice 0).state = .absent then
            State.setSlice { s.wr (R.SLC_QUOTA 0) (setFld slice0Quota 232 9 256) with slices := Tbl.put s.slices 0 Slice.none } 0 .active
          else if (s.slice 0).state = .orphaned then (s.setSlice 0 .active).writeHeld (fun c => c.slice = 0 || c.sr = 0) else s
        if s.rf R.CTL_ADMIN_STATUS 2 1 = 1 then s.adminAgree else s)

/-- Every slice bound to the PF0 driver enters ORPHANED (R56, R60, R410): all that are ACTIVE, QUIESCING or QUIESCED.
The stall timeouts of waiting accesses stop (R257). -/
def State.orphanAll (s : State) : State :=
  let s := (List.range 64).foldl (fun s n =>
    let r := s.slice n
    if r.state = .active || r.state = .quiescing || r.state = .quiesced then
      State.setSlice { s with slices := Tbl.put s.slices n { r with prev := r.state } } n .orphaned
    else s) s
  let stop := fun (w : Waiter) => { w with stopped := true }
  { s with xlt := { s.xlt with faults := Tbl.mapV s.xlt.faults (fun _ f => { f with waiters := f.waiters.map stop })
                               spill := s.xlt.spill.map (fun e => { e with waiter := stop e.waiter }) } }

/-- The admin ring goes: ready and enable clear, the three rings are destroyed, the lease is disarmed (R56). -/
def State.adminDestroy (s : State) : State :=
  let s := (s.wf R.CTL_ADMIN_CTRL 1 1 0).wf R.CTL_ADMIN_CTRL 0 1 0
  { s with ring := { s.ring with srs := Tbl.del s.ring.srs 0, crs := Tbl.del s.ring.crs 0, eqs := Tbl.del s.ring.eqs 0
                                 events := s.ring.events.filter (fun e => e.eq ≠ 0), leaseArmed := false } }

/-- ADMIN_RING_RELEASE (R56): a write of `word` with enable = 0; refused while an admin command is outstanding. -/
def execAdminRingRelease (word : Nat) (s : State) : Host.Outcome State Fault Refusal :=
  .next (if s.rf R.CTL_ADMIN_CTRL 0 1 = 0 || bit word 0 then s
    else if s.ring.jobs.any (fun j => j.sr = 0) || s.fetching 0 ||
        (match Tbl.find s.ring.srs 0 with | some r => decide (r.head ≠ r.tail) | none => false) then s
    else (s.regWrite R.CTL_ADMIN_CTRL 4 word).adminDestroy.orphanAll.mcSignal 1 0)

/-- LEASE_RENEW (R60): a write of `word` to CTL_LEASE with renew = 1. -/
def execLeaseRenew (word : Nat) (s : State) : Host.Outcome State Fault Refusal :=
  .next (
    let s := s.regWrite R.CTL_LEASE 4 word
    if !bit word 31 then s
    else
      let t := s.rf R.CTL_LEASE 0 16
      let ms := if t = 0 then 1000 else min t 60000
      { s with ring := { s.ring with leaseArmed := true, leaseEnd := s.timeNs + ms * 1000000 } })

/-- s with the armed lease expired where its time is over (R60). -/
def State.leaseEnds (s : State) : State :=
  if !s.ring.leaseArmed || s.timeNs < s.ring.leaseEnd then s
  else
    let s : State := { s with ring := { s.ring with leaseArmed := false } }
    ((s.wf R.CTL_ADMIN_STATUS 1 1 1).postEvent 0 0 6 0).orphanAll.mcSignal 1 0

/-- LEASE_EXPIRY (R60): the armed lease reaches 0. -/
def execLeaseExpiry (s : State) : Host.Outcome State Fault Refusal := .next s.leaseEnds

/-! ## Creating, destroying and querying rings (R58, R59, R514) -/

/-- Bytes of one entry by ring kind: SR, CR, EQ. -/
def entryBytes (kind : Nat) : Nat := if kind = 0 then 64 else if kind = 1 then 32 else 16

/-- The checks every create command shares (R58, R38, R444): the status it fails with, if it does. -/
def State.createCheck (s : State) (j : Job) (kind : Nat) (exists' : Nat → Bool) : Option Nat :=
  let d := j.desc
  let loc := dby d 16 1
  let k := dby d 18 1
  let por := dby d 20 4
  let base := dby d 8 8
  let num := dby d 24 2
  let any := bit d (29 * 8)
  let top := if kind = 2 then 4096 else 65536
  let size := entryBytes kind * 2 ^ k
  if !rsvdZero d [(8, 26)] || fld loc 2 6 ≠ 0 || fld (dby d 29 1) 1 7 ≠ 0 then some stInvalidDescriptor
  else if s.rf R.FWC_STATUS 2 1 = 1 then some stVersionMismatch
  else if (loc = 2 && !s.feature 0) || (loc = 1 && !s.feature 1) then some stFeatureOff
  else if loc = 3 || (if loc = 1 then 16 ≤ dby d 17 1 else dby d 17 1 ≠ 0) || k < 4 || 16 < k then some stRingInvalid
  else if loc = 0 && 2 ^ 20 ≤ por || (loc = 1 && por ≠ 0) then some stRingInvalid
  else if loc = 0 && Tbl.find s.pasids por ≠ some j.slice then some stInvalidHandle
  else if loc = 2 && (s.region por j.slice).isNone then some stInvalidHandle
  else if (if loc = 2 then base % min size 4096 ≠ 0 || (match s.region por j.slice with | some r => decide (r.dataBytes < base + size) | none => true)
           else base % 4096 ≠ 0) then some stRingInvalid
  else if loc = 2 && kind ≠ 0 && s.bound por then some stAddressError
  else if !any && (num = 0 || top ≤ num || exists' num) then some stRingInvalid
  else none

/-- The number a create command takes: the one it names, or the lowest free from 1 upward. -/
def createNumber {α : Type} (t : Tbl α) (d top : Nat) : Option Nat :=
  if bit d (29 * 8) then lowestFree t 1 (top - 1) else some (dby d 24 2)

/-- Where a created ring lies. -/
def createLoc (d : Nat) : RingLoc := ⟨fld d 128 2, dby d 17 1, dby d 8 8, dby d 18 1, dby d 20 4⟩

/-- s with the rings quota checked for one more ring of a slice (R404): true when it may be created. -/
def State.ringQuota (s : State) (sl : Nat) : State × Bool :=
  if s.sliceUse sl 1 + 1 ≤ s.quota sl 1 then (s, true) else (s.cnt (R.SLC_REFUSED sl), false)

/-- Counts the reference of a ring in pool memory on its region (R220). -/
def State.ringRef (s : State) (l : RingLoc) (up : Bool) : State := if l.loc = 2 then s.addRef l.por up else s

/-- CREATE_SR (R58). -/
def execCreateSr (sr tag : Nat) (s : State) : Host.Outcome State Fault Refusal :=
  .next (s.withJob sr tag 0x80 fun s j =>
    let d := j.desc
    match s.createCheck j 0 (fun n => Tbl.has s.ring.srs n) with
    | some st => s.failJob j st 0
    | none =>
      if dby d 19 1 = 0 || !(match Tbl.find s.ring.crs (dby d 26 2) with | some c => decide (c.slice = j.slice) | none => false) then s.failJob j stRingInvalid 0
      else match createNumber s.ring.srs d 65536 with
        | none => s.failJob j stRingInvalid 0
        | some n =>
          match s.ringQuota j.slice with
          | (s, false) => s.failJob j stQuotaExceeded 0
          | (s, true) =>
            let g := (Tbl.get s.ring.srGen n 0 + 1) % 65536
            let s : State := { s with ring := { s.ring with srs := Tbl.put s.ring.srs n ⟨j.slice, createLoc d, dby d 19 1, dby d 26 2, 0, 0, 0⟩
                                                            srGen := Tbl.set s.ring.srGen n g 0 } }
            (s.ringRef (createLoc d) true).succeed j (n + g * 65536))

/-- CREATE_CR (R58). -/
def execCreateCr (sr tag : Nat) (s : State) : Host.Outcome State Fault Refusal :=
  .next (s.withJob sr tag 0x81 fun s j =>
    let d := j.desc
    match s.createCheck j 1 (fun n => Tbl.has s.ring.crs n) with
    | some st => s.failJob j st 0
    | none =>
      if 1023 < dby d 30 2 || !(match Tbl.find s.ring.eqs (dby d 26 2) with | some c => decide (c.slice = j.slice) | none => false) then s.failJob j stRingInvalid 0
      else match createNumber s.ring.crs d 65536 with
        | none => s.failJob j stRingInvalid 0
        | some n =>
          match s.ringQuota j.slice with
          | (s, false) => s.failJob j stQuotaExceeded 0
          | (s, true) =>
            let g := (Tbl.get s.ring.crGen n 0 + 1) % 65536
            let s : State := { s with ring := { s.ring with
              crs := Tbl.put s.ring.crs n ⟨j.slice, createLoc d, dby d 26 2, dby d 28 1 + 1, dby d 30 2, 0, 0, 0, 0, none, false⟩
              crGen := Tbl.set s.ring.crGen n g 0 } }
            (s.ringRef (createLoc d) true).succeed j (n + g * 65536))

/-- CREATE_EQ (R58). -/
def execCreateEq (sr tag : Nat) (s : State) : Host.Outcome State Fault Refusal :=
  .next (s.withJob sr tag 0x82 fun s j =>
    let d := j.desc
    match s.createCheck j 2 (fun n => Tbl.has s.ring.eqs n) with
    | some st => s.failJob j st 0
    | none =>
      if fld d 128 2 ≠ 1 && 2047 < dby d 32 2 then s.failJob j stRingInvalid 0
      else match createNumber s.ring.eqs d 4096 with
        | none => s.failJob j stRingInvalid 0
        | some n =>
          match s.ringQuota j.slice with
          | (s, false) => s.failJob j stQuotaExceeded 0
          | (s, true) =>
            let g := (Tbl.get s.ring.eqGen n 0 + 1) % 65536
            let s : State := { s with ring := { s.ring with
              eqs := Tbl.put s.ring.eqs n ⟨j.slice, createLoc d, dby d 32 2, 0, 0, 0, false⟩
              eqGen := Tbl.set s.ring.eqGen n g 0 } }
            (s.ringRef (createLoc d) true).succeed j (n + g * 65536))

/-- Whether everything the doorbells of a slice's rings covered has been fetched (R410). -/
def State.allFetched (s : State) (sl : Nat) : Bool := s.ring.srs.all (fun r => r.2.slice ≠ sl || (r.2.head = r.2.tail && !s.fetching r.1))

/-- DESTROY_RING (R514). A tag that a doorbell covers is outstanding, but the ring it names is known only once it has been read, so a CR
waits until its slice's rings have no entry to read (log entry 129). -/
def execDestroyRing (sr tag : Nat) (s : State) : Host.Outcome State Fault Refusal :=
  .next (s.withJob sr tag 0x83 fun s j =>
    let d := j.desc
    let n := dby d 8 2
    let kind := dby d 10 1
    if !rsvdZero d [(8, 3)] then s.failJob j stInvalidDescriptor 0
    else if n = 0 then s.failJob j stRingInvalid 0
    else if kind = 0 then
      match Tbl.find s.ring.srs n with
      | some r =>
        if r.slice ≠ j.slice || s.ring.jobs.any (fun k => k.sr = n) || r.head ≠ r.tail || s.fetching n then s.failJob j stRingInvalid 0
        else (State.ringRef { s with ring := { s.ring with srs := Tbl.del s.ring.srs n } } r.at' false).succeed j 0
      | none => s.failJob j stRingInvalid 0
    else if kind = 1 then
      match Tbl.find s.ring.crs n with
      | some r =>
        if r.slice ≠ j.slice || s.ring.srs.any (fun q => q.2.fallback = n) || s.ring.jobs.any (fun k => k.cr = n) ||
            s.ring.unwritten.any (fun c => c.cr = n) then s.failJob j stRingInvalid 0
        else if !s.allFetched r.slice then s
        else (State.ringRef { s with ring := { s.ring with crs := Tbl.del s.ring.crs n } } r.at' false).succeed j 0
      | none => s.failJob j stRingInvalid 0
    else if kind = 2 then
      match Tbl.find s.ring.eqs n with
      | some r =>
        if r.slice ≠ j.slice || s.ring.crs.any (fun q => q.2.eq = n) then s.failJob j stRingInvalid 0
        else (State.ringRef { s with ring := { s.ring with eqs := Tbl.del s.ring.eqs n, events := s.ring.events.filter (fun e => e.eq ≠ n) } } r.at' false).succeed j 0
      | none => s.failJob j stRingInvalid 0
    else s.failJob j stRingInvalid 0)

/-- QUERY_RING's result word (R59). -/
def queryWord (state gen head tail : Nat) : Nat := state + gen * 2 ^ 16 + head * 2 ^ 32 + tail * 2 ^ 48

/-- QUERY_RING (R59). -/
def execQueryRing (sr tag : Nat) (s : State) : Host.Outcome State Fault Refusal :=
  .next (s.withJob sr tag 0x87 fun s j =>
    let d := j.desc
    let n := dby d 8 2
    let kind := dby d 10 1
    let mine := fun (sl : Nat) => decide (sl = j.slice)
    let st := fun (sl : Nat) => ringState (s.slice sl).state
    if !rsvdZero d [(8, 3)] then s.failJob j stInvalidDescriptor 0
    else if kind = 0 then
      match Tbl.find s.ring.srs n with
      | some r => if mine r.slice then s.succeed j (queryWord (st r.slice) (Tbl.get s.ring.srGen n 0) r.head r.tail) else s.failJob j stRingInvalid 0
      | none => s.succeed j (queryWord 0 (Tbl.get s.ring.srGen n 0) 0 0)
    else if kind = 1 then
      match Tbl.find s.ring.crs n with
      | some r => if mine r.slice then s.succeed j (queryWord (st r.slice) (Tbl.get s.ring.crGen n 0) r.head (r.written % 2 ^ r.at'.log2)) else s.failJob j stRingInvalid 0
      | none => s.succeed j (queryWord 0 (Tbl.get s.ring.crGen n 0) 0 0)
    else if kind = 2 then
      match Tbl.find s.ring.eqs n with
      | some r => if mine r.slice then s.succeed j (queryWord (st r.slice) (Tbl.get s.ring.eqGen n 0) r.head (r.written % 2 ^ r.at'.log2)) else s.failJob j stRingInvalid 0
      | none => s.succeed j (queryWord 0 (Tbl.get s.ring.eqGen n 0) 0 0)
    else s.failJob j stRingInvalid 0)

end Sys2Proof.Machine
end

