-- ==== Sys2Proof/Machine/HostOps.lean ====
section
/-! DEFINITION. What becomes of a read across PCIe or a Denux link once its bytes have come or it has failed (R333, R336, R432,
R433, R515), shared by both. -/

namespace Sys2Proof.Machine

/-- s with the bytes of a read in place: descriptors of a ring are taken, bytes of a gathered operand are noted, and once none is
missing their descriptor's command may run again; an atomic's old value is answered. -/
def State.dataArrives (s : State) (what : ReadFor) (pos : Nat) (bs : List Byte) : State :=
  match what with
  | .ring n _ => s.takeAll n (bs.length / 64) bs
  | .rxAtomic qn psn => s.rxAtomicDone qn psn (leNat bs)
  | .job sr tag =>
    let mine := fun (g : Gather) => decide (g.sr = sr) && decide (g.tag = tag) && decide (g.missing ≠ 0)
    let s : State := { s with pcie := { s.pcie with gathers := updFirst mine (fun g =>
      { g with data := g.data.take pos ++ bs ++ g.data.drop (pos + bs.length), missing := g.missing - 1 }) s.pcie.gathers } }
    if s.pcie.gathers.any mine then s
    else if 65536 ≤ sr then s.rxReadReady (sr - 65536)
    else s.updJob sr tag (fun j => if j.phase = .reading then { j with phase := .started } else j)

/-- s with a descriptor ended by a failed access; of a posted transport work request the QP enters ERROR as well (R295). -/
def State.jobStops (s : State) (j : Job) (status detail : Nat) : State :=
  if 0x30 ≤ dOpcode j.desc && dOpcode j.desc ≤ 0x36 && j.p 0 = 1 then s.qpError (fld j.desc 64 20) (some (j.sr, j.tag, status, detail))
  else s.failJob j status detail

/-- s with a descriptor, or the target side of a QP, ended by an access that failed (R293, R336, R433). -/
def State.accessFails (s : State) (sr tag status detail : Nat) : State :=
  if 65536 ≤ sr then
    match Tbl.find s.tmt.qps (sr - 65536) with
    | none => s
    | some q => match q.waiting.find? (fun p => p.psn % 65536 = tag) with
      | some p => (s.dropGather (sr - 65536) tag).answerError (sr - 65536) 3 p.psn
      | none => s
  else match s.job sr tag with
    | some j => s.jobStops j status detail
    | none => s

/-- s with a read of n bytes failed: each entry of a ring fetch fails on its own (R515). -/
def State.dataFails (s : State) (what : ReadFor) (n status detail : Nat) : State :=
  match what with
  | .ring r e => (List.range (n / 64)).foldl (fun s i => s.fetchFailure r (e + i) status detail) s
  | .rxAtomic qn psn =>
    (s.updQp qn (fun q => { q with waiting := q.waiting.filter (fun w => w.psn ≠ psn) })).answerError qn 3 psn
  | .job sr tag => s.accessFails sr tag status detail

/-- s with a landing read on a link returned: once the last has, the status is committed, or what a QP received is complete
(R333). -/
def State.landed (s : State) (link sr tag : Nat) : State :=
  let mine := fun (l : Landing) => decide (l.sr = sr) && decide (l.tag = tag)
  let s : State := { s with pcie := { s.pcie with landings := updFirst mine (fun l => { l with links := l.links.filter (fun k => k ≠ link) }) s.pcie.landings } }
  match s.pcie.landings.find? (fun l => mine l && l.links.isEmpty) with
  | none => s
  | some l =>
    if !l.past && sr < 65536 && s.guardHolds sr tag then s
    else
    let s : State := { s with pcie := { s.pcie with landings := s.pcie.landings.filter (fun l => !(mine l && l.links.isEmpty)) } }
    if l.past then s
    else if 65536 ≤ sr then s.rxDeliver (sr - 65536)
    else match s.job sr tag with
      | some j => s.commitLanded j l.status l.unit l.detail l.result
      | none => s

/-- s with a landing read failed: the descriptor completes with that status, or the target answers OPERATIONAL. -/
def State.landingFails (s : State) (sr tag status detail : Nat) : State :=
  let past := s.pcie.landings.any (fun l => l.sr = sr && l.tag = tag && l.past)
  let s : State := { s with pcie := { s.pcie with landings := s.pcie.landings.filter (fun l => !(l.sr = sr && l.tag = tag)) } }
  if past then s
  else if 65536 ≤ sr then
    match (Tbl.find s.tmt.qps (sr - 65536)).bind (fun q => q.rxMsgs.find? (fun m => m.msn % 65536 = tag)) with
    | some m => s.answerError (sr - 65536) 3 m.psn0
    | none => s
  else match s.job sr tag with
    | some j => s.commit j status noUnit detail j.moved
    | none => s

end Sys2Proof.Machine
end

