-- ==== Sys2Proof/Machine/Pipelines.lean ====
section
/-! DEFINITION. Pipelines and waves: the commands of 06_pipelines. -/

namespace Sys2Proof.Machine

/-! ## Shared parts of the descriptors (R153, R159) -/

/-- Runs the descriptor (sr, tag) of a pipeline opcode that names a pipeline at bytes 8–11: its other body bytes must
be zero but for `used`, and a stale handle completes PIPE_INVALID (R150). -/
def State.withPipe (s : State) (sr tag op : Nat) (used : List (Nat × Nat)) (f : State → Job → Nat → Pipe → State) : State :=
  s.withJob sr tag op fun s j =>
    if !rsvdZero j.desc ((8, 4) :: used) then s.commit' j stInvalidDescriptor
    else match s.pipeOf (dby j.desc 8 4) j.slice with
      | none => s.commit' j stPipeInvalid
      | some (pn, p) => f s j pn p

/-- The wave a PIPE_LAUNCH or PIPE_ARM body asks for. -/
def waveReq (j : Job) (armed : Bool) : WaveReq :=
  let d := j.desc
  { sr := j.sr, tag := j.tag, entry := dby d 12 1, items := dby d 16 8, step := dby d 24 4
    args := [dby d 40 8, dby d 48 8, dby d 56 8], index := 0, armed := armed
    onDone := if bit (dby d 14 1) 1 then some (dby d 36 4) else none }

/-- The checks PIPE_LAUNCH and PIPE_ARM share: the status they fail with, if they do. -/
def State.waveBad (s : State) (j : Job) (p : Pipe) : Option Nat :=
  let d := j.desc
  if p.img.entryCount ≤ dby d 12 1 || 2 ^ 48 ≤ dby d 16 8 then some stInvalidDescriptor
  else if bit (dby d 14 1) 1 && (s.counterOf (dby d 36 4) j.slice).isNone then some stCounterInvalid
  else none

/-- The descriptor's job keeps running until its own end. -/
def State.runs (s : State) (j : Job) (prog : List Nat) : State := s.updJob j.sr j.tag (fun k => { k with phase := .running, prog := prog })

/-! ## Descriptors -/

/-- PIPE_LAUNCH (R155, R159). -/
def execPipeLaunch (sr tag : Nat) (s : State) : Host.Outcome State Fault Refusal :=
  .next (s.withPipe sr tag 0x10 [(12, 1), (14, 1), (16, 12), (36, 28)] fun s j pn p =>
    if fld (dby j.desc 14 1) 0 1 ≠ 0 || fld (dby j.desc 14 1) 2 6 ≠ 0 then s.commit' j stInvalidDescriptor
    else match s.waveBad j p with
      | some st => s.commit' j st
      | none =>
        if p.state = .stopped then s.commit' j stPipeStopped
        else if p.arm.isSome || 64 ≤ p.queue.length then s.commit' j stPipeBusy
        else
          let s := (s.updPipe pn (fun p => { p with queue := p.queue ++ [waveReq j false] })).runs j [pn]
          if p.state = .loaded then s.settle pn false else s)

/-- PIPE_LOAD (R149, R150): an accepted load installs the image, once the arrays of its hubs are awake (R35), and waits for its commits. -/
def execPipeLoad (sr tag : Nat) (s : State) : Host.Outcome State Fault Refusal :=
  .next (s.withJob sr tag 0x11 fun s j =>
    if !rsvdZero j.desc [(8, 12), (20, 32)] then s.commit' j stInvalidDescriptor
    else
      let regions := (List.range 8).map (fun i => dby j.desc (20 + 4 * i) 4)
      match s.checkImage j.slice (dby j.desc 8 8) (dby j.desc 16 4) regions with
      | .fail s st d => s.commit j st noUnit d 0
      | .ok s img => if !s.hubsReady img then s.wakeHubs img else match lowestFree s.pipes.tab 0 1024 with
        | none => (s.refused j.slice).commit' j stQuotaExceeded
        | some pn => (s.installImage j pn img ((List.range 8).map (fun i => if i < (img.grants.foldl (fun m g => max m (g.2.2.1 + 1)) 0) then nth regions i 0 else 0)) none).runs j [pn])

/-- Whether every commit a pipeline's load waits for has taken effect (R150 step 3). -/
def State.commitsDone (s : State) (img : Image) : Bool :=
  (List.range 12).all (fun h =>
    (!img.frames.any (fun e => feHub e = h) || s.rf (R.LAT_HUB_COMMIT h) 1 1 = 0) &&
    (!img.spines.any (fun e => seHub e = h) || s.rf (R.SPN_CTRL h) 1 1 = 0))

/-- PIPE_LOAD_COMMIT (R150 steps 4 and 5): the commits of pipeline pn's load have taken effect. The pipeline embedded in
a collective plan reports through COLL_LOAD, with its number in result [41:32] (R208). -/
def execPipeLoadCommit (pn : Nat) (s : State) : Host.Outcome State Fault Refusal :=
  .next (match Tbl.find s.pipes.tab pn with
    | none => s
    | some p =>
      if p.state ≠ .loading || !s.commitsDone p.img then s
      else
        let s := (s.loadCells pn p).updPipe pn (fun p => { p with state := .loaded })
        match p.plan with
        | none => s.commitTag p.loader.1 p.loader.2 stSuccess noUnit 0 (s.pipeHandle pn)
        | some n =>
          let s := s.updPlan n (fun q => { q with state := 1 })
          match s.job p.loader.1 p.loader.2 with
          | some j => s.succeed j (n + Tbl.get s.colls.gen n 0 * 1024 + pn * 2 ^ 32)
          | none => s)

/-- PIPE_UNLOAD (R158, R162). -/
def execPipeUnload (sr tag : Nat) (s : State) : Host.Outcome State Fault Refusal :=
  .next (s.withPipe sr tag 0x12 [] fun s j pn p =>
    if p.state = .loaded || p.state = .stopped then (s.removePipe pn).commit' j stSuccess else s.commit' j stPipeBusy)

/-- The first matching beat of a beat source, from the next epoch boundary (R154): a beat is 1,024 ns and an epoch 1,024
beats (R168). -/
def firstBeat (now id : Nat) : Nat :=
  let period := if fld id 0 10 = 0 then 1024 else fld id 0 10
  (now / 2 ^ 20 + 1) * 2 ^ 20 + fld id 10 10 % period * 1024

/-- PIPE_ARM (R154, R159). -/
def execPipeArm (sr tag : Nat) (s : State) : Host.Outcome State Fault Refusal :=
  .next (s.withPipe sr tag 0x13 [(12, 3), (16, 48)] fun s j pn p =>
    let d := j.desc
    let source := dby d 13 1
    let id := dby d 28 4
    if source = 0 || 3 < source || fld (dby d 14 1) 2 6 ≠ 0 || (source = 2 && fld id 20 12 ≠ 0) then s.commit' j stInvalidDescriptor
    else match s.waveBad j p with
      | some st => s.commit' j st
      | none =>
        if source = 1 && (s.counterOf id j.slice).isNone then s.commit' j stCounterInvalid
        else if source = 3 && (s.pipeOf id j.slice).isNone then s.commit' j stPipeInvalid
        else if p.state = .stopped then s.commit' j stPipeStopped
        else if p.state ≠ .loaded then s.commit' j stPipeBusy
        else
          let a : Arm := { req := waveReq j true, source := source, sourceId := if source = 3 then id % 1024 else id
                           flags := dby d 14 1, limit := dby d 32 4, run := 0, disarm := none, overrun := false, lost := false
                           nextBeat := firstBeat s.timeNs id }
          (s.updPipe pn (fun p => { p with state := .armed, arm := some a, pending := 0 })).runs j [pn])

/-- PIPE_DISARM (R157, R159). -/
def execPipeDisarm (sr tag : Nat) (s : State) : Host.Outcome State Fault Refusal :=
  .next (s.withPipe sr tag 0x14 [] fun s j pn p => match p.arm with
    | none => s.commit' j stPipeBusy
    | some a =>
      if p.state = .stopped || a.disarm.isSome then s.commit' j stPipeBusy
      else
        let s := (s.updPipe pn (fun p => { p with arm := some { a with disarm := some (sr, tag) } })).runs j [pn]
        if p.state = .armed then s.settle pn false else s)

/-- Whether cell c runs in the pipeline's wave. -/
def Pipe.runs (p : Pipe) (c : Nat) : Bool := match p.wave with
  | some w => w.started && w.cells.any (fun x => x.1 = c)
  | none => false

/-- Every cell of the pipeline halts (R158), or goes back to RUNNING in its wave, but for those halted by their own halt_req, and to LOADED
outside it. -/
def State.haltAll (s : State) (p : Pipe) (resume : Bool) : State :=
  p.cells.foldl (fun s c =>
    if resume then
      let s := s.updSeq c (fun q => { q with haltAt := s.rf (R.LAT_CELL_CTRL c) 0 1 = 1 && q.haltAt })
      if s.cellState c ≠ csHalted then s
      else if !p.runs c then s.setCellState c csLoaded
      else if s.rf (R.LAT_CELL_CTRL c) 0 1 = 0 then s.setCellState c csRunning
      else s
    else if s.cellState c = csLoaded then s.setCellState c csHalted
    else s.haltCell c) s

/-- PIPE_HALT (R159): byte 12 bit 0 is resume. -/
def execPipeHalt (sr tag : Nat) (s : State) : Host.Outcome State Fault Refusal :=
  .next (s.withPipe sr tag 0x15 [(12, 1)] fun s j pn p =>
    if 2 ≤ dby j.desc 12 1 then s.commit' j stInvalidDescriptor
    else if p.state = .stopped then s.commit' j stPipeStopped
    else if dby j.desc 12 1 = 0 then
      if p.state = .halted then s.commit' j stSuccess
      else ((s.haltAll p false).updPipe pn (fun p => { p with prev := p.state, state := .halted })).commit' j stSuccess
    else if p.state ≠ .halted then s.commit' j stSuccess
    else (((s.haltAll p true).updPipe pn (fun p => { p with state := p.prev })).settle pn false).commit' j stSuccess)

/-- PIPE_RESET (R162). -/
def execPipeReset (sr tag : Nat) (s : State) : Host.Outcome State Fault Refusal :=
  .next (s.withPipe sr tag 0x16 [] fun s j pn p =>
    if p.state ≠ .stopped then s.commit' j stPipeBusy
    else
      (s.resetPipe pn p).commit' j stSuccess)

/-- The code of a pipeline state (R165). -/
def PState.code : PState → Nat
  | .absent => 0 | .loading => 1 | .loaded => 2 | .armed => 3 | .running => 4 | .halted => 5 | .stopped => 6

/-- PIPE_QUERY (R165). -/
def execPipeQuery (sr tag : Nat) (s : State) : Host.Outcome State Fault Refusal :=
  .next (s.withPipe sr tag 0x17 [] fun s j _ p =>
    s.commit' j stSuccess (p.state.code + p.pending % 65536 * 2 ^ 8 + min p.late 0xFFFF * 2 ^ 24 + p.waves % 2 ^ 24 * 2 ^ 40))

/-! ## Waves -/

/-- s with the initial registers of one instance that runs (R148): the image's values, then g0 to g7, step and seed. A halt_req that the
cell holds halts it at its first instruction boundary (R86). -/
def State.startCell (s : State) (p : Pipe) (w : Wave) (stage inst : Nat) (c : Nat) (first count : Nat) : State :=
  let uint := fun v : Nat => TW.mk 2 (v % 2 ^ 64)
  let inits := p.img.inits.filter (fun v => v.1 = stage && (v.2.1 = inst || v.2.1 = 0xFFFF))
  let r := fun (q : Seq) => inits.foldl (fun r v => Tbl.set r v.2.2.1 (TW.mk v.2.2.2.1 v.2.2.2.2) TW.empty) q.r
  let gs := [first, count, inst, w.number, nth w.req.args 0 0, nth w.req.args 1 0, nth w.req.args 2 0, w.req.index]
  let s := s.updSeq c (fun q => { q with
    r := (gs.zip (List.range 8)).foldl (fun r g => Tbl.set r g.2 (uint g.1) TW.empty) (r q)
    pc := nth p.img.entries (w.req.entry * p.img.stages.length + stage) 0
    wave := w.number, step := w.req.step, seed := Config.imageSeed p.img.digest % 2 ^ 64, icount := 0, ended := false, pre := []
    haltAt := false, fence := false, waits := false, slotsDone := none })
  s.setCellState c (if s.rf (R.LAT_CELL_CTRL c) 0 1 = 1 then csHalted else csRunning)

/-- WAVE_START (R148, R155): the decided wave of pipeline pn begins in every instance that runs, once its hubs' cell
arrays are awake. -/
def execWaveStart (pn : Nat) (s : State) : Host.Outcome State Fault Refusal :=
  .next (match Tbl.find s.pipes.tab pn with
    | none => s
    | some p => match p.wave with
      | none => s
      | some w =>
        if w.started || p.state ≠ .running then s
        else if !s.hubsReady p.img then s.wakeHubs p.img
        else
          let parts := (p.img.stages.zip (List.range p.img.stages.length)).map (fun st =>
            let d := s.dispatch 9 st.1.unit w.req.items id
            (st.2, st.1.unit, ((st.1.cells.zip (List.range st.1.cells.length)).map (fun ci =>
              let it := (d.find? (fun x => x.1 = ci.1)).map (fun x => x.2)
              (ci.1, ci.2, (it.getD (0, 0)).1, (it.getD (0, 0)).2))).filter (fun x => x.2.2.1 ≠ 0 || st.1.always)))
          let s := parts.foldl (fun s st => st.2.2.foldl (fun s x => s.startCell p w st.1 x.2.1 x.1 (if x.2.2.1 = 0 then 0 else x.2.2.2) x.2.2.1) s) s
          let cells := (parts.map (fun st => st.2.2.map (fun x => (x.1, s.ctrVal (R.LAT_CELL_CYCLES x.1))))).flatten
          let work := (parts.filter (fun st => 1536 ≤ st.2.1)).map (fun st =>
            ({ sr := w.req.sr, tag := w.req.tag, entries := s.feuPath 9 st.2.1
               parts := (st.2.2.filter (fun x => x.2.2.1 ≠ 0)).map (fun x => (x.1, [(x.2.2.2, x.2.2.1)], none)) } : FeuWork))
          let s := s.updPipe pn (fun p => { p with wave := some { w with started := true, cells := cells } })
          { s with feuWork := s.feuWork ++ work })

/-- Whether a started wave is over (R156): every instance has ended its part, no stream write is pending, and every crumb
sent lies in its receive buffer. -/
def State.waveOver (s : State) (pn : Nat) (p : Pipe) (w : Wave) : Bool :=
  w.started && w.cells.all (fun c => (s.seq c.1).ended) && !s.pipePending p.cells &&
  !s.lat.crumbs.any (fun c => c.pipe = pn) && !s.lat.gates.any (fun c => c.pipe = pn) &&
  !s.feuWork.any (fun f => f.sr = w.req.sr && f.tag = w.req.tag)

/-- WAVE_END (R156, R157): the wave's status commits. The cycles an instance spent stalled, and those of them on a
stream (R81), are free values (log entry 19). A wave of an embedded pipeline ends without a completion of its own: COLL_STEP_COMMIT completes the step. -/
def execWaveEnd (pn : Nat) (s : State) : Host.Outcome State Fault Refusal :=
  .next (match Tbl.find s.pipes.tab pn with
    | none => s
    | some p => match p.wave with
      | none => s
      | some w =>
        if !s.waveOver pn p w || p.state ≠ .running then s
        else
          let s := w.cells.foldl (fun s c =>
            let (v, s) := s.fresh 32
            let (u, s) := s.fresh 32
            ((s.cnt (R.LAT_CELL_CYCLES c.1) v).cnt (R.LAT_CELL_STALL_STRM c.1) (min u v)).setCellState c.1 csLoaded) s
          let cyc := w.cells.foldl (fun m c => max m (s.ctrVal (R.LAT_CELL_CYCLES c.1) - c.2)) 0
          let result := w.number % 2 ^ 32 + cyc % 2 ^ 32 * 2 ^ 32
          let s := s.updPipe pn (fun p => { p with wave := none, waves := p.waves + 1 })
          if p.plan.isSome then s.updPipe pn (fun p => { p with state := .loaded })
          else
            let s := match p.arm with
              | some a => if bit a.flags 0 then s.progress w.req.sr w.req.tag stWaveDone w.req.index result else s
              | none => s.commitTag w.req.sr w.req.tag stSuccess noUnit 0 result
            let s := match w.req.onDone with | some c => s.counterInc c | none => s
            let s := (s.armsOn 3 pn).foldl (fun s a => s.trigger a) s
            s.settle pn true)

/-- BEAT_TRIGGER (R154): a beat boundary that matches the period and phase of pipeline pn's ARM has come. -/
def execBeatTrigger (pn : Nat) (s : State) : Host.Outcome State Fault Refusal :=
  .next (match Tbl.find s.pipes.tab pn with
    | none => s
    | some p => match p.arm with
      | none => s
      | some a =>
        if a.source ≠ 2 || s.timeNs < a.nextBeat then s
        else
          let period := if fld a.sourceId 0 10 = 0 then 1024 else fld a.sourceId 0 10
          (s.updPipe pn (fun p => { p with arm := some { a with nextBeat := a.nextBeat + period * 1024 } })).trigger pn)

/-- FEUILLE_COMPLETION (R29, R31): every cell that received work of (sr, tag) through a feuille has reached its terminal
status; the entries the work passed through are no longer busy with it. The wave's completion then follows at its end. -/
def execFeuilleCompletion (sr tag : Nat) (s : State) : Host.Outcome State Fault Refusal :=
  .next (
    let mine := s.feuWork.filter (fun f => f.sr = sr && f.tag = tag)
    if mine.isEmpty || !mine.all (fun f => f.parts.all (fun p => p.2.2.isSome)) then s
    else { s with feuWork := s.feuWork.filter (fun f => !(f.sr = sr && f.tag = tag)) })

/-! ## Aborts (R161) -/

/-- What an abort does to an outstanding descriptor of this family; none when it has no rule of its own. -/
def State.abortPipe (s : State) (j : Job) : State :=
  let pn := j.p 0
  match Tbl.find s.pipes.tab pn with
  | none => s.commit' j stAborted
  | some p =>
    if dOpcode j.desc = 0x11 then
      let s := (s.fillGrants p.img p.regions false).stageSlots p.img none
      State.commit' { s with pipes := { s.pipes with tab := Tbl.del s.pipes.tab pn }, chans := Tbl.del s.chans pn } j stAborted
    else if dOpcode j.desc = 0x14 then
      (s.updPipe pn (fun p => { p with arm := p.arm.map (fun a => { a with disarm := none }) })).commit' j stAborted
    else if p.queue.any (fun r => r.sr = j.sr && r.tag = j.tag) then
      (s.updPipe pn (fun p => { p with queue := p.queue.filter (fun r => !(r.sr = j.sr && r.tag = j.tag)) })).commit' j stAborted
    else s.stopPipe pn stAborted noUnit 0

end Sys2Proof.Machine
end

