-- ==== Sys2Proof/Machine/PktOps.lean ====
section
/-! DEFINITION. The packet path as shared operations: the parse graph (R300 to R302), edits (R309, R310), the exception path and
delivery queues (R312, R313), lengths (R314), shapers (R316), admission and priority flow control (R317, R320), meters (R318,
R319). -/

namespace Sys2Proof.Machine

/-! ## Frames -/

/-- The FCS of a frame (IEEE 802.3), 4 bytes. -/
def fcsOf (bs : List Byte) : List Byte :=
  let one := fun (r : Nat) (b : Byte) => (List.range 8).foldl (fun r _ => if r % 2 = 1 then (r / 2) ^^^ 0xEDB88320 else r / 2) (r ^^^ b.toNat)
  leBytes 4 (bs.foldl one 0xFFFFFFFF ^^^ 0xFFFFFFFF)

/-- Bytes of a frame from the destination MAC to the end of the FCS. -/
def frameLen (bs : List Byte) : Nat := bs.length + 4

/-- The bytes L that shapers and meters count (R314). -/
def State.countedLen (s : State) (o j : Nat) (bs : List Byte) : Nat := (max 1 ((frameLen bs : Int) + s.overhead o j)).toNat

/-- The MTU of a sub-port (R299). -/
def State.mtu (s : State) (p n : Nat) : Nat := let m := s.rf (R.PKT_PORT p n) 32 14; if m < 64 || 9216 < m then 9216 else m

/-! ## Parsing (R300 to R302) -/

/-- What a parse gives: whether it accepts, with the payload offset; the failing node and reason; the recorded headers; and the
metadata bytes extractions wrote. -/
structure Parsed where
  ok : Bool
  off : Nat
  node : Nat
  reason : Nat
  heads : List (Nat × Nat)
  ext : List Byte

/-- Bytes n of a node entry from byte a. -/
def nodeBy (e a n : Nat) : Nat := dby e a n

/-- The metadata after a node's extractions; none when one reaches past the header or the metadata. -/
def extracts (e len off : Nat) (frame : List Byte) (ext : List Byte) : Option (List Byte) :=
  (List.range 8).foldl (fun acc x => acc.bind (fun (ext : List Byte) =>
    let src := nodeBy e (64 + 4 * x) 1
    let n := nodeBy e (65 + 4 * x) 1
    let dst := nodeBy e (66 + 4 * x) 1
    if n = 0 then some ext
    else if len < src + n || 256 < dst + n then none
    else some (ext.take dst ++ bsub frame (off + src) n ++ ext.drop (dst + n)))) (some ext)

/-- The node after one: the lowest valid transition that matches, else the default. -/
def nextNode (e off : Nat) (frame : List Byte) : Nat :=
  let so := nodeBy e 6 1
  let sel := if bit (nodeBy e 7 1) 0 then beNat (bsub frame (off + so) 2) else leAt frame (off + so) 1
  match (List.range 8).find? (fun t => bit (nodeBy e (21 + 6 * t) 1) 0 &&
      (sel &&& nodeBy e (18 + 6 * t) 2) = (nodeBy e (16 + 6 * t) 2 &&& nodeBy e (18 + 6 * t) 2)) with
  | some t => nodeBy e (20 + 6 * t) 1
  | none => nodeBy e 8 1

/-- The parse loop of R301 over a frame that ends with its FCS; the first number is the nodes still allowed. -/
def parseFrom (graph : Nat → Nat) (frame : List Byte) : Nat → Nat → Nat → List (Nat × Nat) → List Byte → Parsed
  | left, node, off, heads, ext =>
    let fail := fun (r : Nat) => (⟨false, off, node, r, heads, ext⟩ : Parsed)
    let e := graph node
    if 63 < node || !bit e 0 then fail 1
    else match left with
      | 0 => fail 2
      | left + 1 =>
        let extra := (leAt frame (off + nodeBy e 3 1) 1 >>> fld (nodeBy e 4 1) 0 4) % 2 ^ fld (nodeBy e 4 1) 4 4 * 2 ^ fld (nodeBy e 5 1) 0 2
        let len := nodeBy e 2 1 + (if bit e 1 then extra else 0)
        if 512 < off + len || frame.length < off + len then fail 3
        else
          let id := fld (nodeBy e 1 1) 0 6
          let heads := if id ≠ 0 && heads.length < 6 then heads ++ [(id, off)] else heads
          match extracts e len off frame ext with
          | none => ⟨false, off, node, 3, heads, ext⟩
          | some ext =>
            let next := nextNode e off frame
            if next = 0x40 then ⟨true, off + len, node, 0, heads, ext⟩
            else if 0x41 ≤ next then ⟨false, off + len, node, 4, heads, ext⟩
            else parseFrom graph frame left next (off + len) heads ext

/-- Parses a frame of sub-port n of port die p under the active copy of the graph. -/
def State.parse (s : State) (p n : Nat) (bytes : List Byte) : Parsed :=
  let copy := s.rf (R.PKT_CTRL p) 3 1
  parseFrom (fun k => s.rd (R.PKT_NODE p (64 * copy + k))) (bytes ++ fcsOf bytes) 16 (s.rf (R.PKT_PORT p n) 6 6) 0 [] (zeroBytes 256)

/-- The metadata of a frame (R302). -/
def metadata (o j : Nat) (bytes : List Byte) (r : Parsed) (tmt : Bool) (pass colour word time : Nat) : List Byte :=
  leBytes 1 (portByte o j) ++ leBytes 1 (b2n r.ok + 2 * b2n (!r.ok) + 4 * b2n tmt + 8 * pass + 32 * colour) ++ leBytes 2 (frameLen bytes) ++
  leBytes 2 r.off ++ leBytes 1 (if r.ok then 0xFF else r.node) ++ leBytes 1 r.reason ++
  fitBytes ((r.heads.map (fun h => leBytes 2 (h.1 + h.2 % 512 * 64))).flatten) 12 ++ leBytes 4 time ++ leBytes 8 word ++ r.ext.drop 32

/-! ## Headers of a frame -/

/-- Where the first recorded header with one of some identities lies. -/
def headOf (heads : List (Nat × Nat)) (ids : List Nat) : Option (Nat × Nat) := heads.find? (fun h => ids.contains h.1)

/-- The outer PCP and DEI, from the first 802.1Q tag; the DSCP, from the first IP header. -/
def outerTci (bytes : List Byte) (heads : List (Nat × Nat)) : Option Nat := (headOf heads [2]).map (fun h => beNat (bsub bytes h.2 2))
def outerDscp (bytes : List Byte) (heads : List (Nat × Nat)) : Option Nat := (headOf heads [3, 4]).map (fun h =>
  if h.1 = 3 then leAt bytes (h.2 + 1) 1 / 4 else beNat (bsub bytes h.2 2) / 64 % 64)

/-- Replaces bytes at an offset. -/
def putAt (bytes : List Byte) (a : Nat) (new : List Byte) : List Byte := bytes.take a ++ new ++ bytes.drop (a + new.length)

/-- An IPv4 header at an offset with its checksum right. -/
def fixIpv4 (bytes : List Byte) (a : Nat) : List Byte :=
  let n := leAt bytes a 1 % 16 * 4
  let b := putAt bytes (a + 10) [0, 0]
  putAt b (a + 10) (beBytes 2 (ipChecksum (bsub b a n)))

/-! ## Edits (R309, R310) -/

/-- A frame under edit: its bytes and recorded headers; `control` when an edit sends it there. -/
structure Editing where
  bytes : List Byte
  heads : List (Nat × Nat)
  control : Bool

/-- Recorded headers after n bytes went in at an offset, or came out from it. -/
def headsIn (heads : List (Nat × Nat)) (a n : Nat) : List (Nat × Nat) := heads.map (fun h => if a ≤ h.2 then (h.1, h.2 + n) else h)
def headsOut (heads : List (Nat × Nat)) (a n : Nat) : List (Nat × Nat) :=
  (heads.filter (fun h => decide (h.2 < a) || decide (a + n ≤ h.2))).map (fun h => if a + n ≤ h.2 then (h.1, h.2 - n) else h)

/-- A tunnel's outer headers with lengths, checksum and source port filled in before an inner frame. -/
def tunnel (hdr inner : List Byte) : List Byte :=
  let ip := if beNat (bsub hdr 12 2) = 0x8100 || beNat (bsub hdr 12 2) = 0x88A8 then 18 else 14
  let v6 := leAt hdr ip 1 / 16 = 6
  let udp := ip + (if v6 then 40 else leAt hdr ip 1 % 16 * 4)
  let total := hdr.length + inner.length
  let h := putAt hdr (udp + 4) (beBytes 2 (total - udp))
  let h := putAt h udp (beBytes 2 (49152 + Config.flowHash inner % 16384))
  let h := putAt h (udp + 6) [0, 0]
  if v6 then
    let h := putAt h (ip + 4) (beBytes 2 (total - ip - 40))
    let pseudo := bsub h (ip + 8) 32 ++ beBytes 4 (total - udp) ++ beBytes 4 17
    let ck := ipChecksum (pseudo ++ h.drop udp ++ inner)
    putAt h (udp + 6) (beBytes 2 (if ck = 0 then 0xFFFF else ck)) ++ inner
  else fixIpv4 (putAt h (ip + 2) (beBytes 2 (total - ip))) ip ++ inner

/-- A header operation with its template. -/
def hdrEdit (op t : Nat) (f : Editing) : Editing :=
  let n := dby t 0 1
  let body := leBytes n (dby t 8 n)
  match op with
  | 1 => { f with bytes := f.bytes.take 12 ++ body ++ f.bytes.drop 12, heads := (headsIn (f.heads.take 1) 1 0) ++ [(2, 14)] ++ headsIn (f.heads.drop 1) 1 n }
  | 2 => match headOf f.heads [2] with
    | none => f
    | some h => { f with bytes := f.bytes.take (h.2 - 2) ++ f.bytes.drop (h.2 + 2), heads := headsOut f.heads h.2 4 }
  | 3 => match headOf f.heads [8, 3, 4] with
    | none => f
    | some h =>
      let b := putAt f.bytes (h.2 - 2) (beBytes 2 0x8847)
      { f with bytes := b.take h.2 ++ body ++ b.drop h.2, heads := f.heads.filter (fun k => k.2 < h.2) ++ [(8, h.2)] ++ headsIn (f.heads.filter (fun k => h.2 ≤ k.2)) h.2 n }
  | 4 => match headOf f.heads [8] with
    | none => f
    | some h =>
      let bottom := leAt f.bytes (h.2 + 2) 1 % 2 = 1
      let b := f.bytes.take h.2 ++ f.bytes.drop (h.2 + 4)
      { f with bytes := if bottom then putAt b (h.2 - 2) (leBytes 2 (dby t 2 2)) else b, heads := headsOut f.heads h.2 4 }
  | 6 => match headOf f.heads [6] with
    | none => f
    | some h => { f with bytes := f.bytes.drop (h.2 + 8), heads := headsOut f.heads 0 (h.2 + 8) }
  | 8 => match headOf f.heads [7] with
    | none => f
    | some h =>
      let m := h.2 + 8 + 4 * (leAt f.bytes h.2 1 % 64)
      if bit (leAt f.bytes (h.2 + 1) 1) 6 then { f with control := true }
      else { f with bytes := f.bytes.drop m, heads := headsOut f.heads 0 m }
  | _ =>
    let ip := if beNat (bsub body 12 2) = 0x8100 || beNat (bsub body 12 2) = 0x88A8 then 18 else 14
    let v6 := leAt body ip 1 / 16 = 6
    let udp := ip + (if v6 then 40 else 20)
    { f with bytes := tunnel body f.bytes
             heads := [(1, 0)] ++ (if ip = 18 then [(2, 14)] else []) ++ [(if v6 then 4 else 3, ip), (5, udp), (if op = 5 then 6 else 7, udp + 8)] ++ headsIn f.heads 0 n }

/-- A field rewrite: the value as a number in network byte order (log entry 64). A header the frame lacks leaves it alone. -/
def fieldEdit (field v : Nat) (f : Editing) : Editing :=
  let tag := headOf f.heads [2]
  match field with
  | 1 => { f with bytes := putAt f.bytes 0 (beBytes 6 (v % 2 ^ 48)) }
  | 2 => { f with bytes := putAt f.bytes 6 (beBytes 6 (v % 2 ^ 48)) }
  | 3 => match tag with
    | some h => { f with bytes := putAt f.bytes h.2 (beBytes 2 (setFld (beNat (bsub f.bytes h.2 2)) 0 12 v)) }
    | none => f
  | 4 => match tag with
    | some h => { f with bytes := putAt f.bytes h.2 (beBytes 2 (setFld (beNat (bsub f.bytes h.2 2)) 13 3 v)) }
    | none => f
  | 5 => match headOf f.heads [3, 4] with
    | some (3, a) => { f with bytes := fixIpv4 (putAt f.bytes (a + 1) (leBytes 1 (setFld (leAt f.bytes (a + 1) 1) 2 6 v))) a }
    | some (_, a) => { f with bytes := putAt f.bytes a (beBytes 2 (setFld (beNat (bsub f.bytes a 2)) 6 6 v)) }
    | none => f
  | 6 => match headOf f.heads [3] with
    | some h => { f with bytes := fixIpv4 (putAt f.bytes (h.2 + 16) (beBytes 4 (v % 2 ^ 32))) h.2 }
    | none => f
  | _ => match headOf f.heads [3] with
    | some h => { f with bytes := fixIpv4 (putAt f.bytes (h.2 + 12) (beBytes 4 (v % 2 ^ 32))) h.2 }
    | none => f

/-- A decrement of the IPv4 TTL or the IPv6 hop limit; 0 or 1 goes to control. -/
def ttlEdit (f : Editing) : Editing := match headOf f.heads [3, 4] with
  | none => f
  | some (id, a) =>
    let at' := a + (if id = 3 then 8 else 7)
    let t := leAt f.bytes at' 1
    if t ≤ 1 then { f with control := true }
    else
      let b := putAt f.bytes at' (leBytes 1 (t - 1))
      { f with bytes := if id = 3 then fixIpv4 b a else b }

/-- A frame after its edits in order. -/
def State.edited (s : State) (p : Nat) (bytes : List Byte) (heads : List (Nat × Nat)) (es : List Edit) : Editing :=
  es.foldl (fun f e => if f.control then f else match e with
    | .hdr op t => hdrEdit op (s.rd (R.PKT_TEMPLATE p t)) f
    | .rewrite fl v => fieldEdit fl v f
    | .ttl => ttlEdit f) ⟨bytes, heads, false⟩

/-- A frame as it leaves: its edits, then the remarks of its meters. -/
def State.egress (s : State) (p : Nat) (f : QFrame) : Editing :=
  let e := s.edited p f.bytes f.heads f.edits
  let e := match f.dscp with | some v => fieldEdit 5 v e | none => e
  match f.pcp with | some v => fieldEdit 4 v e | none => e

/-! ## The exception path (R312) -/

/-- s with a frame sent to control: passed to firmware with its metadata when a token is there; CC1 is told of it, and where it is
OFFLINE, or 4,096 frames wait for it, the frame is dropped (R312, R435, R437). -/
def State.toControl (s : State) (p : Nat) (mdata bytes : List Byte) : State :=
  let d := s.die p
  let depth := max 1 (s.rf (R.PKT_EXC p) 32 16)
  let have' := min (depth * 10 ^ 9) (d.exc + (s.timeNs - d.excLast) * s.rf (R.PKT_EXC p) 0 32)
  if 10 ^ 9 ≤ have' then
    let s := s.setDie p { d with exc := have' - 10 ^ 9, excLast := s.timeNs }
    if s.coreState 1 = 3 || 4096 ≤ s.pkt.toFw.length then s.cnt (R.PKT_EXC_DROP p)
    else
      let (v, s) := s.fresh 64
      State.pendIrq (State.cnt { s with pkt := { s.pkt with toFw := s.pkt.toFw ++ [(p, mdata, bytes)] } } (R.PKT_EXC_SENT p)) 1 0x12 v
  else (s.setDie p { d with exc := have', excLast := s.timeNs }).cnt (R.PKT_EXC_DROP p)

/-! ## Delivery queues (R313) -/

/-- Whether a delivery queue exists. -/
def dqOk (e : Nat) : Bool :=
  bit e 0 && (fld e 1 2 = 0 || fld e 1 2 = 2) && 11 ≤ dby e 2 1 && dby e 2 1 ≤ 14 && 4 ≤ dby e 3 1 && dby e 3 1 ≤ 16

/-- A frame for delivery queue q of die p: written to its next slot and reported, or dropped; true when it was taken. Its entry waits with
the frame's bytes where those wait on the copy guard. -/
def State.dqPut (s : State) (p q c off word : Nat) (bytes : List Byte) : State × Bool :=
  let e := s.rd (R.PKT_DQ p q)
  let sl := fld (dby e 1 1) 0 6
  let size := 2 ^ dby e 2 1
  let full := (s.cnt (R.PKT_DQ_FULL p), false)
  if size < bytes.length then (s.cnt (R.PKT_DQ_OVERSIZE p), false)
  else match Tbl.find s.ring.crs (dby e 16 2) with
    | none => full
    | some r =>
      let st := Tbl.get (s.die p).dqs q (0, [])
      let live := st.2.filter (fun k => r.freed ≤ k)
      if r.slice ≠ sl || 2 ^ dby e 3 1 ≤ live.length then full
      else
        let at' := dby e 8 8 + st.1 % 2 ^ dby e 3 1 * size
        let put : Option State := if fld e 1 2 = 0 then (if s.hostWaits sl || !s.dmaOk 0 then none else some (s.hostPut at' bytes))
          else match s.region (dby e 4 4) sl with
            | none => none
            | some g => match s.writeRegion g at' bytes (ownerNum 0xFFFF 0xFFFF) with
              | (s, _, none) => some s
              | _ => none
        match put with
        | none => full
        | some s =>
          let seq := r.written + (s.ring.unwritten.filter (fun k => k.cr = dby e 16 2)).length
          let s := s.setDie p { s.die p with dqs := Tbl.put (s.die p).dqs q (st.1 + 1, live ++ [seq]) }
          (s.addCpl { sr := 0xFFFF, tag := 0xFFFF, cr := dby e 16 2, slice := sl, status := 0x500, unit := noUnit, detail := q + p * 1024 + c * 4096
                      result := bytes.length % 65536 + off % 65536 * 2 ^ 16 + word % 2 ^ 32 * 2 ^ 32, time := 0, irq := false, counted := false }, true)

/-! ## Shapers (R316) -/

/-- The shapers of a die by kind (0 port, 1 slice, 2 class, 3 queue) and number: the key they have, and what their entry
holds. -/
def shaperKey (kind i : Nat) : Nat := kind * 2 ^ 20 + i
def State.shaperEntry (s : State) (p kind i : Nat) : Nat := match kind with
  | 0 => s.rd (R.TSH_SHAPER_PORT p i)
  | 1 => s.rd (R.TSH_SHAPER_SLICE p i)
  | 2 => s.rd (R.TSH_CLASS p i) % 2 ^ 128
  | _ => s.rd (R.TSH_QUEUE p i) / 2 ^ 128

/-- A shaper with its tokens brought up to a time; an unlimited one holds its depth. -/
def Shaper.upTo (h : Shaper) (now : Nat) : Shaper :=
  if h.rate = 0 then { h with tokens := h.depth * 10 ^ 6, last := now }
  else { h with tokens := min ((h.depth * 10 ^ 6 : Nat) : Int) (h.tokens + ((now - h.last) * h.rate : Nat)), last := now }

/-- The shaper in effect. -/
def State.shaper (s : State) (p kind i : Nat) : Shaper := (Tbl.get (s.die p).shapers (shaperKey kind i) ⟨0, 0, 0, 0⟩).upTo s.timeNs

/-- Whether a shaper lets a frame start. -/
def State.shaperOpen (s : State) (p kind i : Nat) : Bool := let h := s.shaper p kind i; h.rate = 0 || decide (0 < h.tokens)

/-- s with L bytes charged to a shaper. -/
def State.shaperCharge (s : State) (p kind i n : Nat) : State :=
  let h := s.shaper p kind i
  if h.rate = 0 then s
  else s.setDie p { s.die p with shapers := Tbl.put (s.die p).shapers (shaperKey kind i) { h with tokens := h.tokens - (n * 10 ^ 6 : Nat) } }

/-! ## Admission and priority flow control (R317, R320) -/

def packetCells : Nat := 18 * 2 ^ 20 / 256

def cellsOf (fs : List QFrame) : Nat := (fs.map (fun f => f.cells)).sum
def PktDie.used (d : PktDie) : Nat := (d.queues.map (fun q => cellsOf q.2)).sum

/-- Ingress cells of a class of a sub-port, given as die × 64 + n. -/
def State.ingressCells (s : State) (port c : Nat) : Nat :=
  (s.pkt.dies.map (fun d => (d.2.queues.map (fun q => cellsOf (q.2.filter (fun f => f.ingress = some (port, c))))).sum)).sum

/-- A PFC frame of a sub-port: one class, one time in quanta. -/
def State.sendPfc (s : State) (p n c quanta : Nat) : State :=
  let o := p * 8 + n / 8
  let j := n % 8
  let times := ((List.range 8).map (fun k => beBytes 2 (if k = c then quanta else 0))).flatten
  let bs := beBytes 6 0x0180C2000001 ++ beBytes 6 (Config.portMac (portByte o j) % 2 ^ 48) ++ beBytes 2 0x8808 ++ beBytes 2 0x0101 ++ beBytes 2 (2 ^ c) ++ times
  s.emit (.frame o j (fitBytes bs 60))

/-- xoff, xon and headroom of a class of a sub-port. -/
def State.pfcLimits (s : State) (p n c : Nat) : Nat × Nat × Nat :=
  let t := s.rd (R.TSH_PFC_TH p (n * 8 + c))
  let xoff := fld t 0 16
  (xoff, if xoff ≤ fld t 16 16 then xoff - 1 else fld t 16 16, fld t 32 16)

def State.pfcOn (s : State) (p n c : Nat) : Bool := bit (s.rd (R.TSH_PFC p n)) c

/-- s with the pause of a class of a sub-port sent, or ended, as its ingress cells have it. -/
def State.pfcCheck (s : State) (port c : Nat) : State :=
  let p := port / 64
  let n := port % 64
  let d := s.die p
  let key := n * 8 + c
  let used := s.ingressCells port c
  let t := s.pfcLimits p n c
  if s.pfcOn p n c && t.1 ≤ used && !Tbl.has d.xoff key then (s.setDie p { d with xoff := Tbl.put d.xoff key s.timeNs }).sendPfc p n c 0xFFFF
  else if Tbl.has d.xoff key && used ≤ t.2.1 then (s.setDie p { d with xoff := Tbl.del d.xoff key }).sendPfc p n c 0
  else s

/-- A frame for queue q of die p (R317): taken, or refused with its counter; true when it was taken. -/
def State.takeIn (s : State) (p q : Nat) (f : QFrame) (eligible : Bool) : State × Bool :=
  let e := s.rd (R.TSH_QUEUE p q)
  let mine := cellsOf (Tbl.get (s.die p).queues q [])
  let pfc := match f.ingress with | some (port, c) => s.pfcOn (port / 64) (port % 64) c | none => false
  let full := match f.ingress with
    | some (port, c) => (let t := s.pfcLimits (port / 64) (port % 64) c; decide (t.1 + t.2.2 < s.ingressCells port c + f.cells))
    | none => false
  let limit := if eligible then min (dby e 4 4) (dby e 8 4) else dby e 4 4
  if pfc && full then (s.cnt (R.TSH_PFC_HEADROOM_DROP ((f.ingress.getD (0, 0)).1 / 64)), false)
  else if packetCells < (s.die p).used + f.cells || (!pfc && limit < mine + f.cells) then (s.cnt (R.TSH_TAIL_DROP p), false)
  else
    let s := s.enqueue p q f
    (match f.ingress with | some (port, c) => s.pfcCheck port c | none => s, true)

/-! ## Meters (R318, R319) -/

/-- A meter with its buckets refilled to a time. -/
def Meter.upTo (m : Meter) (now : Nat) : Meter :=
  let e := m.entry
  let dt := now - m.last
  let cbs := dby e 16 4 * 10 ^ 6
  let ebs := dby e 20 4 * 10 ^ 6
  let c := m.c + dt * dby e 8 4
  if fld e 0 2 = 1 then { m with c := min cbs c, e := min ebs (m.e + (c - cbs)), last := now }
  else { m with c := min cbs c, e := min ebs (m.e + dt * dby e 12 4), last := now }

/-- The colour a meter gives n bytes of a frame with a pre-colour, and the meter after it (0 green, 1 yellow, 2 red). -/
def Meter.mark (m : Meter) (n pre : Nat) : Nat × Meter :=
  let b := n * 10 ^ 6
  if fld m.entry 0 2 = 1 then
    if pre = 0 && b ≤ m.c then (0, { m with c := m.c - b })
    else if pre ≤ 1 && b ≤ m.e then (1, { m with e := m.e - b })
    else (2, m)
  else
    if 2 ≤ pre || m.e < b then (2, m)
    else if pre = 1 || m.c < b then (1, { m with e := m.e - b })
    else (0, { m with c := m.c - b, e := m.e - b })

/-- What meters have done to a frame: colour, drop eligibility, remarks and class, and whether one drops it. -/
structure Marked where
  colour : Nat
  met : Bool
  eligible : Bool
  dscp : Option Nat
  pcp : Option Nat
  cls : Option Nat
  drop : Bool

/-- s with a frame of n bytes metered by meter i of die p. -/
def State.meter (s : State) (p i n : Nat) (bytes : List Byte) (heads : List (Nat × Nat)) (k : Marked) : State × Marked :=
  match Tbl.find (s.die p).meters i with
  | none => (s, { k with colour := 0, met := true })
  | some m =>
    let e := m.entry
    let mode := fld e 0 2
    if mode = 0 || mode = 3 then (s, { k with colour := 0, met := true })
    else
      let source := fld e 3 2
      let pre := if !bit e 2 then 0
        else if source = 1 then (match outerTci bytes heads with | some t => fld t 12 1 | none => 0)
        else if source = 2 then (match outerDscp bytes heads with | some d => min 2 (fld (s.rd (R.TSH_DSCP_COLOUR p)) (2 * d) 2) | none => 0)
        else if k.met then k.colour else 0
      let r := (m.upTo s.timeNs).mark n pre
      let s := (s.setDie p { s.die p with meters := Tbl.put (s.die p).meters i r.2 }).cnt (R.TSH_METER_COUNT p (3 * i + r.1))
      let a := dby e (2 + 2 * r.1) 2
      let act := fld a 0 3
      let v := fld a 4 6
      (s, { colour := r.1, met := true, eligible := k.eligible || bit a 3, drop := act = 1, dscp := if act = 2 then some v else k.dscp
            pcp := if act = 3 then some (v % 8) else k.pcp, cls := if act = 4 then some (v % 8) else k.cls })

end Sys2Proof.Machine
end

