-- ==== Sys2Proof/Machine/Slices.lean ====
section
/-! DEFINITION. Slices, quotas and regions: the commands of 17_slices. -/

namespace Sys2Proof.Machine

def stPasidInvalid : Nat := 0x901
def stShareConflict : Nat := 0x902
def stResExhausted : Nat := 0x903

/-- Runs a slice command: its body bytes, and its turn among the commands that name its slice (R407, R408). -/
def State.withSlice (s : State) (sr tag op : Nat) (used : List (Nat × Nat)) (f : State → Job → State) : State :=
  s.withJob sr tag op fun s j =>
    if s.ring.jobs.any (fun k => k.sr = 0 && k.seq < j.seq && k.slice = j.slice && 0x88 ≤ dOpcode k.desc && dOpcode k.desc ≤ 0x8D) then s
    else if !rsvdZero j.desc used then s.commit' j stInvalidDescriptor
    else f s j

/-! ## Regions (R219 to R223, R407) -/

/-- s with region number n gone: its cached check lines are written back, and of the translation region the walkers' cached entries are
dropped; its number's generation goes up (R219, R223). Writes into it that are still on their way reach no later owner (R222). -/
def State.freeRegion (s : State) (n : Nat) : State :=
  match Tbl.find s.mem.regions n with
  | none => s
  | some r =>
    let m := s.mem
    let mine := fun (a : Nat) => r.granules.contains (a / 2097152)
    let mem := { m with
      regions := Tbl.del m.regions n, regionGen := Tbl.set m.regionGen n ((r.gen + 1) % 65536) 0, zeroing := m.zeroing.filter (fun z => z.1 ≠ n)
      checks := m.checks.filter (fun c => !mine c.1), guardWait := m.guardWait.filter (fun w => !mine w.dpa) }
    let mirror := fun (c : XCached) => match Tbl.find s.xlt.asids c.asid with | some a => decide (a.mode ≠ 1) | none => true
    { s with
      mem := mem
      seqs := Tbl.mapV s.seqs (fun _ q => { q with wq := q.wq.filter (fun w => !w.2.2.any (fun p => mine p.1)) })
      xlt := if s.rd R.XLT_TABLE_REGION % 65536 = n then { s.xlt with cache := s.xlt.cache.filter (fun c => !mirror c) } else s.xlt }

/-- The lowest n granules of a hub that no region holds, outside the system reservation. -/
def takeGranules (used : List Nat) : Nat → Nat → Nat → List Nat
  | 0, _, _ => []
  | _, _, 0 => []
  | fuel + 1, g, n + 1 => if used.contains g then takeGranules used fuel (g + 1) (n + 1) else g :: takeGranules used fuel (g + 1) n

/-- The granules of a new region, entry by entry: entry i lies in hub i mod H of the mask (R220); none when a hub lacks them. -/
def State.pickGranules (s : State) (hubs : List Nat) (count : Nat) : Option (List Nat) :=
  let H := hubs.length
  let per := fun (k : Nat) => (count + H - 1 - k) / H
  let each := (List.range H).map (fun k =>
    let h := nth hubs k 0
    let used := (s.mem.regions.map (fun r => r.2.granules.filter (fun g => g / 196608 = h))).flatten
    if s.freeGranules h < per k then [] else takeGranules used 196512 (h * 196608) (per k))
  if (List.range H).any (fun k => (nth each k []).length < per k) then none
  else some ((List.range count).map (fun i => nth (nth each (i % H) []) (i / H) 0))

/-- The data byte o of the system reservation of hub 0, as a DPA, and back (R221, R224, R225). -/
def reserveDpa (o : Nat) : Nat := (196512 + o / granData true) * 2097152 + o % granData true
def reserveOff (a : Nat) : Nat := (a / 2097152 - 196512) * granData true + a % 2097152

/-- Where a new granule list lies: the first room, aligned to 64 B, in the data of the reservation of hub 0 (R220, log entry 101). -/
def State.listPlace (s : State) (count : Nat) : Nat :=
  let lists := s.mem.regions.map (fun r => (reserveOff r.2.listDpa, roundUp (4 * r.2.granules.length) 64))
  let free := fun (a : Nat) => lists.all (fun l => decide (a + 4 * count ≤ l.1) || decide (l.1 + l.2 ≤ a))
  let cands := (0 :: lists.map (fun l => l.1 + l.2)).filter free
  reserveDpa (cands.foldl min (cands.headD 0))

/-- s with region n made: its granule list stands in the reservation (R220). -/
def State.newRegion (s : State) (n : Nat) (r : Region) : State :=
  let s := (r.granules.zip (List.range r.granules.length)).foldl (fun (s : State) e => s.poke (reserveDpa (reserveOff r.listDpa + 4 * e.2)) (leBytes 4 e.1)) s
  { s with mem := { s.mem with regions := Tbl.put s.mem.regions n r } }

/-- REGION_ALLOC (R407): the region exists at once and its handle is given when its zero-fill is done (R222). -/
def execRegionAlloc (sr tag : Nat) (s : State) : Host.Outcome State Fault Refusal :=
  .next (s.withSlice sr tag 0x8B [(8, 1), (12, 4), (16, 2)] fun s j =>
    let d := j.desc
    let count := dby d 12 4
    let hubs := bitsOf 12 (dby d 16 2)
    let inter := bit (dby d 8 1) 1
    if 4 ≤ dby d 8 1 || count = 0 || 2359296 < count || 4096 ≤ dby d 16 2 || hubs.isEmpty || (!inter && hubs.length ≠ 1) then s.commit' j stInvalidDescriptor
    else if !s.quotaRoom j.slice 0 count then (s.refused j.slice).commit' j stQuotaExceeded
    else match lowestFree s.mem.regions 1 65535, s.pickGranules hubs count with
      | some n, some gs =>
        let r : Region := { ecc := bit (dby d 8 1) 0, interleave := inter, slice := j.slice, gen := Tbl.get s.mem.regionGen n 0, granules := gs
                            refs := 0, listDpa := s.listPlace count, hubMask := dby d 16 2 }
        let s : State := s.newRegion n r
        let s : State := { s with mem := { s.mem with zeroing := s.mem.zeroing ++ [(n, j.sr, j.tag)] } }
        s.updJob j.sr j.tag (fun k => { k with phase := .running })
      | _, _ => s.commit' j stResExhausted)

/-- REGION_FREE (R223). -/
def execRegionFree (sr tag : Nat) (s : State) : Host.Outcome State Fault Refusal :=
  .next (s.withSlice sr tag 0x8C [(8, 4)] fun s j =>
    let h := dby j.desc 8 4
    match s.region h j.slice with
    | none => s.commit' j stInvalidHandle
    | some r => if 0 < r.refs || s.bound h then s.commit' j stRegionBusy else (s.freeRegion (h % 65536)).commit' j stSuccess)

/-- A region entry (R220). -/
def Region.entry (r : Region) : List Byte :=
  fitBytes (leBytes 4 (1 + 2 * b2n r.ecc + 4 * b2n r.interleave + r.slice * 2 ^ 16) ++ leBytes 4 r.gen ++ leBytes 4 r.granules.length ++ leBytes 4 r.refs ++
    leBytes 8 r.listDpa ++ leBytes 8 r.dataBytes ++ leBytes 2 r.hubMask) 64

/-- REGION_QUERY (R407). -/
def execRegionQuery (sr tag : Nat) (s : State) : Host.Outcome State Fault Refusal :=
  .next (s.withSlice sr tag 0x8D [(8, 4), (16, 9), (28, 4)] fun s j =>
    let d := j.desc
    if dby d 24 1 ≠ 0 && dby d 24 1 ≠ 2 then s.commit' j stInvalidDescriptor
    else match s.region (dby d 8 4) j.slice with
      | none => s.commit' j stInvalidHandle
      | some r => match s.writeOperand j (dby d 24 1) (dby d 28 4) (dby d 16 8) r.entry 0 with
        | .ok s => s.succeed j 64
        | .wait s => s
        | .fail s st dt _ => s.failJob j st dt)

/-! ## Quotas (R404, R405, R409) -/

/-- Range of a count quota, and its place in SLC_QUOTA. -/
def quotaMax (c : Nat) : Nat := nth [2358144, 135168, 1048575, 1310464, 65535, 3987, 1024, 256] c 0
def quotaField (c : Nat) : Nat × Nat := nth [(0, 32), (32, 32), (64, 32), (96, 32), (128, 16), (144, 16), (160, 11), (176, 9)] c (0, 0)

/-- Slices other than one that exist. -/
def State.others (s : State) (sl : Nat) : List Nat := (List.range 64).filter (fun t => t ≠ sl && (s.slice t).state ≠ .absent)

/-- Groups of a mask some cell of which is not IDLE. -/
def State.busyGroups (s : State) (m : Nat) : Nat :=
  ((bitsOf 96 m).map (fun g => if (List.range 16).any (fun i => s.cellState (16 * g + i) ≠ csIdle) then 2 ^ g else 0)).sum

/-- Whether lattice slots, or spine slots, of a new share belong to another slice or retire from one. -/
def State.latticeTaken (s : State) (sl first count : Nat) : Bool :=
  (s.others sl).any (fun t => (List.range count).any (fun i =>
    let k := (first + i) % 256
    slotInLattice (s.latticeShare t).1 (s.latticeShare t).2 k || (s.retFrames t).contains k))
def State.spineTaken (s : State) (sl first count : Nat) : Bool :=
  (s.others sl).any (fun t => (List.range count).any (fun i => slotInSpine (s.spineShare t).1 (s.spineShare t).2 (first + i) || (s.retSpines t).contains (first + i)))

/-- SLICE_QUOTA. A weight or rate takes effect later (R408). -/
def execSliceQuota (sr tag : Nat) (s : State) : Host.Outcome State Fault Refusal :=
  .next (s.withSlice sr tag 0x89 [(8, 1), (16, 20)] fun s j =>
    let d := j.desc
    let c := dby d 8 1
    let v := dby d 16 8
    let m := dby d 24 12
    let sl := j.slice
    let q := R.SLC_QUOTA sl
    let first := fld v 0 10
    let count := fld v 16 10
    let shareOk := clearBits v 0x03FF03FF = 0 && m = 0
    let bad := s.commit' j stInvalidDescriptor
    if c < 8 then (if v ≤ quotaMax c && m = 0 then (s.wf q (quotaField c).1 (quotaField c).2 v).commit' j stSuccess else bad)
    else if c = 8 then
      if v ≠ 0 then bad
      else if (s.others sl).any (fun t => (s.groups t ||| (s.slice t).retGroups) &&& m ≠ 0) then s.commit' j stShareConflict
      else
        let gone := clearBits (s.groups sl ||| (s.slice sl).retGroups) m
        let s : State := { s with slices := Tbl.upd s.slices sl (fun r => { r with retGroups := s.busyGroups gone }) }
        (s.wf q 288 96 m).commit' j stSuccess
    else if c = 9 then
      if !shareOk || 255 < first || 256 < count then bad
      else if s.latticeTaken sl first count then s.commit' j stShareConflict
      else ((s.wf q 224 8 first).wf q 232 9 count).commit' j stSuccess
    else if c = 10 then
      if !shareOk || 999 < first || 750 < count || 1000 < first + count then bad
      else if s.spineTaken sl first count then s.commit' j stShareConflict
      else ((s.wf q 256 10 first).wf q 266 10 count).commit' j stSuccess
    else if c = 11 then (if 1 ≤ v && v ≤ 255 && m = 0 then (s.wf q 192 8 v).commit' j stSuccess else bad)
    else if c = 12 then (if v ≤ 65535 && m = 0 then (s.wf q 208 16 v).commit' j stSuccess else bad)
    else bad)

/-- SCHED_WEIGHT_APPLY (R408): a slice's weight and rate as its quota has them take effect. -/
def execSchedWeightApply (sl : Nat) (s : State) : Host.Outcome State Fault Refusal :=
  .next { s with slices := Tbl.upd s.slices sl (fun r => { r with weight := s.rf (R.SLC_QUOTA sl) 192 8, rate := s.rf (R.SLC_QUOTA sl) 208 16 }) }

/-! ## PASIDs (R406) -/

/-- Whether an outstanding copy, storage or crypto descriptor names a PASID. -/
def jobNames (j : Job) (pasid : Nat) : Bool :=
  let d := j.desc
  let op := dOpcode d
  if 1 ≤ op && op ≤ 5 then (dby d 20 1 = 0 && op ≠ 2 && dby d 16 4 = pasid) || (dby d 36 1 = 0 && dby d 32 4 = pasid)
  else if op = 0x50 || op = 0x51 then dby d 28 1 = 0 && dby d 32 4 = pasid
  else if 0x70 ≤ op && op ≤ 0x79 then (fld d 120 2 = 0 && dby d 16 4 = pasid) || (fld d 122 2 = 0 && dby d 20 4 = pasid)
  else false

/-- Whether something of a slice names a PASID it would unbind. -/
def State.pasidBusy (s : State) (sl pasid : Nat) : Bool :=
  let host := fun (n : Nat) (l : RingLoc) => n ≠ 0 && l.loc = 0 && l.por = pasid
  s.xlt.asids.any (fun a => a.2.pasid = pasid) || s.ring.srs.any (fun r => host r.1 r.2.at') || s.ring.crs.any (fun r => host r.1 r.2.at') ||
  s.ring.eqs.any (fun r => host r.1 r.2.at') || s.tmt.qps.any (fun q => q.2.slice = sl && q.2.pasid = pasid) ||
  s.tmt.aks.any (fun k => k.2.kind = 0 && k.2.handle = pasid) || s.ring.jobs.any (fun j => j.slice = sl && jobNames j pasid)

/-- SLICE_PASID. -/
def execSlicePasid (sr tag : Nat) (s : State) : Host.Outcome State Fault Refusal :=
  .next (s.withSlice sr tag 0x8A [(8, 1), (12, 4)] fun s j =>
    let a := dby j.desc 8 1
    let p := dby j.desc 12 4
    if 1 < a || 2 ^ 20 ≤ p then s.commit' j stInvalidDescriptor
    else if a = 0 then (if Tbl.has s.pasids p then s.commit' j stPasidInvalid else State.commit' { s with pasids := Tbl.put s.pasids p j.slice } j stSuccess)
    else if Tbl.find s.pasids p ≠ some j.slice then s.commit' j stPasidInvalid
    else if s.pasidBusy j.slice p then s.commit' j stSliceBusy
    else State.commit' { s with pasids := Tbl.del s.pasids p } j stSuccess)

/-! ## Creating, quiescing, emptying (R410, R412, R414) -/

/-- s without the register entries of [a, b) that satisfy p. -/
def State.clearEntries (s : State) (a b : Nat) (p : Nat → Bool) : State :=
  { s with regs := s.regs.filter (fun e => !(a ≤ e.1 && e.1 < b && p e.2)) }

/-- s without the rings of a slice and their events (R414 row 4). -/
def State.dropRings (s : State) (sl : Nat) : State :=
  let locs := ((s.ring.srs.filter (fun r => r.2.slice = sl)).map (fun r => r.2.at')) ++ ((s.ring.crs.filter (fun r => r.2.slice = sl)).map (fun r => r.2.at')) ++
    ((s.ring.eqs.filter (fun r => r.2.slice = sl)).map (fun r => r.2.at'))
  let eqs := (s.ring.eqs.filter (fun r => r.2.slice = sl)).map Prod.fst
  let s := locs.foldl (fun s l => s.ringRef l false) s
  let g := s.ring
  { s with ring := { g with
      srs := g.srs.filter (fun r => r.2.slice ≠ sl), crs := g.crs.filter (fun r => r.2.slice ≠ sl), eqs := g.eqs.filter (fun r => r.2.slice ≠ sl)
      events := g.events.filter (fun e => !eqs.contains e.eq) } }

/-- s without what a slice holds, in the order of R414; quotas and PASIDs stay. -/
def State.emptySlice (s : State) (sl : Nat) : State :=
  let bump := fun (g : Tbl Nat) (ns : List Nat) (m : Nat) => ns.foldl (fun g n => Tbl.set g n ((Tbl.get g n 0 + 1) % m) 0) g
  let s := (Tbl.keysWhere s.pipes.tab (fun _ p => p.slice = sl)).foldl (fun s n => s.removePipe n) s
  let plans := Tbl.keysWhere s.colls.plans (fun _ p => p.slice = sl)
  let jobs := Tbl.keysWhere s.ckp.jobs (fun _ p => p.slice = sl)
  let qps := Tbl.keysWhere s.tmt.qps (fun _ q => q.slice = sl)
  let s : State := { s with
    colls := { s.colls with plans := s.colls.plans.filter (fun p => p.2.slice ≠ sl), gen := bump s.colls.gen plans 65536 }
    ckp := { s.ckp with jobs := s.ckp.jobs.filter (fun p => p.2.slice ≠ sl), gen := bump s.ckp.gen jobs 65536 }
    tmt := { s.tmt with qps := s.tmt.qps.filter (fun q => q.2.slice ≠ sl), cooling := qps.foldl (fun t n => Tbl.put t n s.timeNs) s.tmt.cooling } }
  let s := s.dropRings sl
  let s : State := { s with
    feus := Tbl.mapV s.feus (fun _ f => if f.valid && f.owner = sl then { f with valid := false } else f)
    tmt := { s.tmt with ctrs := s.tmt.ctrs.filter (fun c => c.2.slice ≠ sl) } }
  let s := (List.range 4).foldl (fun s p =>
    let mine := (List.range 1024).filter (fun q => fld (s.rd (R.PKT_DQ p q)) 8 6 = sl && bit (s.rd (R.PKT_DQ p q)) 0)
    let s := s.setDie p { s.die p with dqs := (s.die p).dqs.filter (fun e => !mine.contains e.1) }
    mine.foldl (fun s q => s.wr (R.PKT_DQ p q) 0) s) s
  let windows := fun (e : Nat) => bit e 0 && fld e 4 6 = sl
  let s := ((s.regs.filter (fun e => 0x84000 ≤ e.1 && e.1 < 0x8C000 && windows e.2)).map (fun e => fld e.2 128 32)).foldl (fun s h => s.addRef h false) s
  let s := s.clearEntries 0x81000 0x83000 windows |>.clearEntries 0x84000 0x8C000 windows
  let keys := Tbl.keysWhere s.kce.slots (fun n k => 256 ≤ n && k.slice = sl)
  let aks := Tbl.keysWhere s.tmt.aks (fun _ k => k.slice = sl)
  let s : State := { s with
    kce := { s.kce with slots := s.kce.slots.filter (fun k => !keys.contains k.1), gen := bump s.kce.gen keys 4096 }
    tmt := { s.tmt with aks := s.tmt.aks.filter (fun k => k.2.slice ≠ sl), akGen := bump s.tmt.akGen aks 16384 } }
  let s := (Tbl.keysWhere s.mem.regions (fun _ r => r.slice = sl)).foldl (fun s n => s.freeRegion n) s
  { s with slices := Tbl.upd s.slices sl (fun r => { r with retGroups := 0 }) }

/-- Whether a completion belongs to a slice: its descriptor lay on a ring of the slice. Those of SR 0 belong to slice 0, whatever slice
they act upon. -/
def Cpl.ofSlice (c : Cpl) (sl : Nat) : Bool := if c.sr = 0 then sl = 0 else c.slice = sl

/-- Whether the rings of a slice can go with nothing lost (R11): what its doorbells covered has been fetched, every tag of them has
committed, and every completion of it has been written (log entry 125). -/
def State.drained (s : State) (sl : Nat) : Bool :=
  s.allFetched sl && !s.ring.jobs.any (fun j => j.sr ≠ 0 && j.slice = sl) && !s.ring.unwritten.any (fun c => c.ofSlice sl)

/-- SLICE_CTL (R407, R410, R414). A quiesce stops the rings at once and completes when what their doorbells covered has been
fetched; a reset is accepted here and completes with SLICE_RESET_DONE. -/
def execSliceCtl (sr tag : Nat) (s : State) : Host.Outcome State Fault Refusal :=
  .next (s.withSlice sr tag 0x88 [(8, 1)] fun s j =>
    let a := dby j.desc 8 1
    let sl := j.slice
    let st := (s.slice sl).state
    let done' := fun (s : State) => if s.allFetched sl then s.commit' j stSuccess else s
    if j.p 0 = 1 then done' s
    else if 4 < a then s.commit' j stInvalidDescriptor
    else if a = 0 then
      if st ≠ .absent then s.commit' j stSliceState
      else
        let s : State := { s with slices := Tbl.put s.slices sl Slice.none }
        (State.setSlice (s.wr (R.SLC_QUOTA sl) (2 ^ 192)) sl .active).commit' j stSuccess
    else if sl = 0 || st = .absent then s.commit' j stSliceState
    else if a = 1 then
      if st ≠ .active then s.commit' j stSliceState
      else done' ((s.setSlice sl .quiescing).updJob j.sr j.tag (fun k => { k with prog := [1] }))
    else if a = 2 then
      if st = .quiescing || st = .quiesced then (s.setSlice sl .active).commit' j stSuccess else s.commit' j stSliceState
    else if st ≠ .quiesced && st ≠ .error then s.commit' j stSliceBusy
    else if a = 3 then s.updJob j.sr j.tag (fun k => { k with phase := .running, prog := [3] })
    else if s.xlt.asids.any (fun x => x.2.slice = sl) then s.commit' j stSliceBusy
    else
      if !s.drained sl then s
      else
      let s := (s.emptySlice sl).wr (R.SLC_QUOTA sl) 0
      State.commit' ({ s.setSlice sl .absent with pasids := s.pasids.filter (fun p => p.2 ≠ sl) }) j stSuccess)

/-- SLICE_RESET_DONE (R414, R494): an accepted reset removes the slice's objects, commits SUCCESS, and the slice is ACTIVE. It
waits while a die is under warm reset (R489), and, in a slice that is in ERROR, until its tags have their entries (R11). -/
def execSliceResetDone (sr tag : Nat) (s : State) : Host.Outcome State Fault Refusal :=
  .next (match s.job sr tag with
    | none => s
    | some j =>
      if j.phase ≠ .running || dOpcode j.desc ≠ 0x88 || j.p 0 ≠ 3 || !s.clk.dieResets.isEmpty || !s.drained j.slice then s
      else ((s.emptySlice j.slice).setSlice j.slice .active).commit' j stSuccess)

/-- Whether nothing of a slice is in flight (R412), an entry that a doorbell covers and that has not been read among it (R42). Slice commands
and aborts of slice 0 that name it do not count. -/
def State.quiet (s : State) (sl : Nat) : Bool :=
  s.allFetched sl &&
  !s.ring.jobs.any (fun j => j.slice = sl && !(j.sr = 0 && (0x80 ≤ dOpcode j.desc))) &&
  !s.pipes.tab.any (fun p => p.2.slice = sl && (p.2.state = .loading || p.2.state = .armed || p.2.state = .running || p.2.state = .halted)) &&
  !s.colls.plans.any (fun p => p.2.slice = sl && (p.2.current.isSome || !p.2.queue.isEmpty)) &&
  !s.tmt.qps.any (fun q => q.2.slice = sl && q.2.state = .rts) &&
  !s.xlt.faults.any (fun f => match Tbl.find s.xlt.asids f.2.asid with | some a => decide (a.slice = sl) | none => false) &&
  !s.ring.unwritten.any (fun c => c.ofSlice sl)

/-- SLICE_QUIESCED (R410, R412). -/
def execSliceQuiesced (sl : Nat) (s : State) : Host.Outcome State Fault Refusal :=
  .next (
    let r := s.slice sl
    if (r.state = .quiescing || (r.state = .orphaned && r.tearing)) && s.quiet sl then
      let s := s.setSlice sl .quiesced
      { s with slices := Tbl.upd s.slices sl (fun r => { r with tearing := false }) }
    else s)

end Sys2Proof.Machine
end

