-- ==== Sys2Proof/Machine/Storage.lean ====
section
/-! DEFINITION. The commands of 14_storage. A PF1 command comes with its 64 bytes as the controller fetched them, the host
pages its data goes to (its PRP entries resolved), and the data those pages held (log entry 48). -/

namespace Sys2Proof.Machine

/-! ## PF1 commands -/

/-- Fields of a PF1 command: opcode, identifier, NSID and CDW10 to CDW13. -/
def nvOp (c : Nat) : Nat := dby c 0 1
def nvCid (c : Nat) : Nat := dby c 2 2
def nvNsid (c : Nat) : Nat := dby c 4 4
def nvPrp1 (c : Nat) : Nat := dby c 24 8
def cdw (c i : Nat) : Nat := dby c (4 * i) 4

/-- The opcodes PF1 implements (R340): admin, and I/O. -/
def nvAdmin : List Nat := [0x00, 0x01, 0x02, 0x04, 0x05, 0x06, 0x08, 0x09, 0x0A, 0x0C, 0x14]
def nvIo : List Nat := [0x00, 0x01, 0x02, 0x08, 0x09]

/-- The controller fetches the next command of a submission queue: an opcode it does not implement completes with Invalid Command
Opcode; another row's command is not this event. -/
def State.nvme (s : State) (admin : Bool) (sq cmd op : Nat) (f : State → Nat → State) : State :=
  match Tbl.find s.stor.sqs sq with
  | none => s
  | some q =>
    if !s.stor.rdy || s.stor.shut || s.stor.cfs || !s.dmaOk 1 || s.coreState 2 ≠ 1 || (sq = 0) ≠ admin || q.head = q.tail then s
    else
      let s : State := { s with stor := { s.stor with sqs := Tbl.put s.stor.sqs sq { q with head := (q.head + 1) % q.size } } }
      if nvOp cmd = op then f s (nvCid cmd)
      else if (if admin then nvAdmin else nvIo).contains (nvOp cmd) then { s with stor := { s.stor with sqs := Tbl.put s.stor.sqs sq q } }
      else s.nvmeDone sq (nvCid cmd) nvOpcode 0

/-- A structure of n bytes from fields (offset, width, value); the rest is 0. -/
def blob (n : Nat) (fs : List (Nat × Nat × Nat)) : List Byte :=
  leBytes n ((fs.map (fun f => f.2.2 % 2 ^ (8 * f.2.1) * 2 ^ (8 * f.1))).sum)

/-- Whether PF1 sees a namespace (R344). -/
def State.pf1Ns (s : State) (n : Nat) : Option Ns := match s.ns n with
  | some x => if x.vis then some x else none
  | none => none

/-- Identify Namespace (CNS 0x00): size, one 4 KiB format, atomicity, deallocated blocks reading zero, write protection, and the
vendor byte of R342; the places of the fields are NVMe's (log entry 53). -/
def Ns.identify (x : Ns) : List Byte :=
  blob 4096 [(0, 8, x.blocks), (8, 8, x.blocks), (16, 8, x.blocks), (24, 1, 2), (33, 1, 1), (34, 2, 31), (36, 2, 31), (99, 1, b2n x.ro), (128, 4, 12 * 65536),
    (3072, 1, if x.kind = 1 then 1 + 2 * b2n x.lost else 0)]

/-- Identify Controller (CNS 0x01). -/
def ctrlIdentify : List Byte :=
  blob 4096 [(0, 2, 0x2C4F), (2, 2, 0x2C4F), (77, 1, 8), (80, 4, 0x20000), (92, 4, 256), (111, 1, 1), (256, 2, 16), (260, 1, 3), (316, 2, 40),
    (512, 1, 0x66), (513, 1, 0x44), (516, 4, 256), (520, 2, 12), (525, 1, 1), (526, 2, 31), (528, 2, 31)]

/-- Namespace Identification Descriptor list (CNS 0x03): an NGUID that for pool scratch begins SCRATCH (R342). -/
def Ns.descriptors (x : Ns) (n : Nat) : List Byte :=
  fitBytes ([2, 16, 0, 0] ++ (if x.kind = 1 then [0x53, 0x43, 0x52, 0x41, 0x54, 0x43, 0x48] else zeroBytes 7) ++ zeroBytes 5 ++ leBytes 4 n) 4096

def execIdentify (sq cmd : Nat) (prps : List Nat) (s : State) : Host.Outcome State Fault Refusal :=
  .next (s.nvme true sq cmd 0x06 fun s cid =>
    let n := nvNsid cmd
    let give := fun (b : List Byte) => (s.toPrps prps b).nvmeDone sq cid nvOk 0
    match cdw cmd 10 % 256 with
    | 0 => if n = 0 || 256 < n then s.nvmeDone sq cid nvBadNs 0 else give (match s.pf1Ns n with | some x => x.identify | none => zeroBytes 4096)
    | 1 => give ctrlIdentify
    | 2 => give (fitBytes (((s.stor.nss.filter (fun x => x.2.vis && decide (n < x.1))).map (fun x => leBytes 4 x.1)).flatten) 4096)
    | 3 => (match s.pf1Ns n with | some x => give (x.descriptors n) | none => s.nvmeDone sq cid nvBadNs 0)
    | _ => s.nvmeDone sq cid nvField 0)

/-- The pages of Get Log Page (R340). What SMART / Health reports is left open by the spec: free values. -/
def State.logPage (s : State) (lid : Nat) : Option (List Byte × State) :=
  match lid with
  | 1 => some (zeroBytes 64, s)
  | 2 => let r := s.fresh 4096; some (leBytes 512 r.1, r.2)
  | 3 => some (blob 512 [(0, 1, 1)], s)
  | 4 => some (fitBytes ((s.stor.changed.map (leBytes 4)).flatten) 4096, s)
  | 5 => some (blob 4096 (nvAdmin.map (fun o => (4 * o, 4, 1)) ++ nvIo.map (fun o => (1024 + 4 * o, 4, 1))), s)
  | 6 =>
    let cur := match s.stor.selfTest with | some t => t.code | none => 0
    let es := (s.stor.stLog.take 20).map (fun e => blob 28 [(0, 1, e.1), (1, 1, e.2.1), (2, 1, 1), (12, 4, e.2.2)])
    some (fitBytes (blob 4 [(0, 1, cur)] ++ es.flatten) 564, s)
  | _ => none

def execGetLogPage (sq cmd : Nat) (prps : List Nat) (s : State) : Host.Outcome State Fault Refusal :=
  .next (s.nvme true sq cmd 0x02 fun s cid =>
    let lid := cdw cmd 10 % 256
    let n := 4 * (fld (cdw cmd 10) 16 16 + fld (cdw cmd 11) 0 16 * 65536 + 1)
    let off := cdw cmd 12 + cdw cmd 13 * 2 ^ 32
    match s.logPage lid with
    | none => s.nvmeDone sq cid nvField 0
    | some (b, s) =>
      let s := if lid = 4 && !bit (cdw cmd 10) 15 then { s with stor := { s.stor with changed := [], noticed := false } } else s
      (s.toPrps prps (fitBytes (b.drop off) n)).nvmeDone sq cid nvOk 0)

/-- The feature identifiers of R340, with the value each has until it is set. -/
def nvFeature (f : Nat) : Option Nat := match f with
  | 1 => some 0 | 6 => some 1 | 7 => some 0x03FF03FF | 8 => some 0 | 0x0B => some 0 | _ => none

def execSetFeatures (sq cmd : Nat) (s : State) : Host.Outcome State Fault Refusal :=
  .next (s.nvme true sq cmd 0x09 fun s cid =>
    let f := cdw cmd 10 % 256
    match nvFeature f with
    | none => s.nvmeDone sq cid nvField 0
    | some d =>
      if f = 7 then s.nvmeDone sq cid nvOk d
      else ({ s with stor := { s.stor with features := Tbl.put s.stor.features f (cdw cmd 11) } } : State).nvmeDone sq cid nvOk 0)

def execGetFeatures (sq cmd : Nat) (s : State) : Host.Outcome State Fault Refusal :=
  .next (s.nvme true sq cmd 0x0A fun s cid =>
    let f := cdw cmd 10 % 256
    match nvFeature f with
    | none => s.nvmeDone sq cid nvField 0
    | some d => s.nvmeDone sq cid nvOk (Tbl.get s.stor.features f d))

/-- CREATE_IO_CQ: physically contiguous only (CAP.CQR). -/
def execCreateIoCq (sq cmd : Nat) (s : State) : Host.Outcome State Fault Refusal :=
  .next (s.nvme true sq cmd 0x05 fun s cid =>
    let q := fld (cdw cmd 10) 0 16
    let n := fld (cdw cmd 10) 16 16 + 1
    let c := cdw cmd 11
    if q = 0 || 1024 < q || Tbl.has s.stor.cqs q then s.nvmeDone sq cid nvQid 0
    else if n < 2 || 16384 < n then s.nvmeDone sq cid nvQsize 0
    else if !bit c 0 then s.nvmeDone sq cid nvField 0
    else if 1024 < fld c 16 16 then s.nvmeDone sq cid 0x108 0
    else
      ({ s with stor := { s.stor with cqs := Tbl.put s.stor.cqs q ⟨nvPrp1 cmd, n, 0, 0, true, fld c 16 16, bit c 1, 0, 0⟩ } } : State).nvmeDone sq cid nvOk 0)

def execCreateIoSq (sq cmd : Nat) (s : State) : Host.Outcome State Fault Refusal :=
  .next (s.nvme true sq cmd 0x01 fun s cid =>
    let q := fld (cdw cmd 10) 0 16
    let n := fld (cdw cmd 10) 16 16 + 1
    let c := cdw cmd 11
    let cq := fld c 16 16
    if q = 0 || 1024 < q || Tbl.has s.stor.sqs q then s.nvmeDone sq cid nvQid 0
    else if cq = 0 || !(Tbl.has s.stor.cqs cq) then s.nvmeDone sq cid nvCqInvalid 0
    else if n < 2 || 16384 < n then s.nvmeDone sq cid nvQsize 0
    else if !bit c 0 then s.nvmeDone sq cid nvField 0
    else ({ s with stor := { s.stor with sqs := Tbl.put s.stor.sqs q ⟨nvPrp1 cmd, n, cq, 0, 0⟩ } } : State).nvmeDone sq cid nvOk 0)

/-- Whether a command came from a submission queue. -/
def StorBy.fromSq (b : StorBy) (q : Nat) : Bool := match b with | .nvme sq _ _ => sq = q | _ => false

/-- s with the commands of a submission queue aborted (status Command Aborted due to SQ Deletion). -/
def State.abortSq (s : State) (q : Nat) : State :=
  let gone := (s.stor.waits.filter (fun w => w.by'.fromSq q)).map (fun w => w.by') ++ (s.stor.held.filter (fun w => w.by'.fromSq q)).map (fun w => w.by')
  let s : State := { s with stor := s.stor.leave (fun b => !b.fromSq q) (fun _ => true) s.timeNs }
  gone.foldl (fun s b => s.storDone b 8 0 0 false [] 0) s

def execDeleteIoSq (sq cmd : Nat) (s : State) : Host.Outcome State Fault Refusal :=
  .next (s.nvme true sq cmd 0x00 fun s cid =>
    let q := fld (cdw cmd 10) 0 16
    if q = 0 || !(Tbl.has s.stor.sqs q) then s.nvmeDone sq cid nvQid 0
    else
      let s := s.abortSq q
      ({ s with stor := { s.stor with sqs := Tbl.del s.stor.sqs q } } : State).nvmeDone sq cid nvOk 0)

def execDeleteIoCq (sq cmd : Nat) (s : State) : Host.Outcome State Fault Refusal :=
  .next (s.nvme true sq cmd 0x04 fun s cid =>
    let q := fld (cdw cmd 10) 0 16
    if q = 0 || !(Tbl.has s.stor.cqs q) then s.nvmeDone sq cid nvQid 0
    else if s.stor.sqs.any (fun x => x.2.cq = q) then s.nvmeDone sq cid 0x10C 0
    else ({ s with stor := { s.stor with cqs := Tbl.del s.stor.cqs q, cqWait := s.stor.cqWait.filter (fun w => w.1 ≠ q) } } : State).nvmeDone sq cid nvOk 0)

/-- NVME_ABORT (R352): a write still waiting for the cache is aborted; of any other command it reports that it was not. -/
def execNvmeAbort (sq cmd : Nat) (s : State) : Host.Outcome State Fault Refusal :=
  .next (s.nvme true sq cmd 0x08 fun s cid =>
    let q := fld (cdw cmd 10) 0 16
    let c := fld (cdw cmd 10) 16 16
    let mine := fun (b : StorBy) => match b with | .nvme a i _ => a = q && i = c | _ => false
    if s.stor.held.any (fun w => mine w.by' && w.op ≠ 1 && w.op ≠ 3) then
      let s : State := { s with stor := { s.stor with held := s.stor.held.filter (fun w => !mine w.by') } }
      (s.nvmeDone q c nvAborted 0).nvmeDone sq cid nvOk 0
    else s.nvmeDone sq cid nvOk 1)

/-- s with a due notice of changed namespaces given to a held request (R344): type 2, information 0, log page 4. -/
def State.nsNotice (s : State) : State :=
  match s.stor.aers with
  | cid :: rest =>
    if s.stor.changed.isEmpty || s.stor.noticed then s
    else ({ s with stor := { s.stor with aers := rest, noticed := true } } : State).nvmeDone 0 cid nvOk 0x040002
  | [] => s

/-- s with a Namespace Attribute Changed event for a namespace PF1 sees (R344, R345). -/
def State.nsChanged (s : State) (n : Nat) (x : Ns) : State :=
  if x.vis && s.stor.enabled then State.nsNotice { s with stor := { s.stor with changed := setIns s.stor.changed n } } else s

def execAsynchronousEventRequest (sq cmd : Nat) (s : State) : Host.Outcome State Fault Refusal :=
  .next (s.nvme true sq cmd 0x0C fun s cid => State.nsNotice { s with stor := { s.stor with aers := s.stor.aers ++ [cid] } })

/-! ## Self-tests (R353, R354) -/

/-- Whether a self-test pauses: a queue holds a command not yet fetched, or a command is outstanding. -/
def State.stBusy (s : State) : Bool :=
  s.stor.sqs.any (fun q => q.1 ≠ 0 && q.2.head ≠ q.2.tail) || s.stor.waits.any (fun w => !w.by'.own) || !s.stor.held.isEmpty || !s.stor.ready.isEmpty

/-- s with a running self-test paused where there is cause. -/
def State.stPause (s : State) : State :=
  if s.stBusy then { s with stor := { s.stor with selfTest := s.stor.selfTest.map (fun t => { t with paused := true }) } } else s

/-- s with a read, an Identify or a Device Self-test that a self-test's segment sends to a drive. -/
def State.stDrive (s : State) (n seg : Nat) (o : Out) : State :=
  let id := s.stor.nextDrive
  State.emit { s with stor := { s.stor with nextDrive := id + 1, waits := s.stor.waits ++ [⟨.test seg, n, some id, none, none, false, [], 0⟩] } } o

/-- s with what a self-test reads of one namespace (R353): Identify and superblock of a drive namespace, 1 MiB of a pool one, a step-check
capsule to a peer; an extended test reads the log area as well, and starts the drive's own short test. -/
def State.stNs (s : State) (long : Bool) (n : Nat) (x : Ns) : State :=
  match x.kind with
  | 0 =>
    let s := (s.stDrive n 2 (.drive x.port 5 0 0 [])).stDrive n 2 (.drive x.port 2 x.logLba 1 [])
    if long then (s.stDrive n 5 (.drive x.port 2 x.logLba x.logBlocks [])).stDrive n 6 (.drive x.port 6 1 0 []) else s
  | 1 => (match Tbl.find s.mem.regions (x.backing % 65536) with
    | none => s
    | some r => match s.readRegion r 0 (min (2 ^ 20) (x.blocks * blk)) with
      | .ok s _ => s
      | .fail s _ _ => s.stEnd 7 3)
  | _ => (match s.freeCids n with
    | cid :: _ => if s.qpRts x.backing then s.peerSend x ⟨.test 4, n, 6, 0, 0, [], false, 0⟩ cid (0, 0) else s.stEnd 7 4
    | [] => s)

/-- s with the reads of a self-test issued that is not paused and has not issued them (R353, R354). -/
def State.stIssue (s : State) : State :=
  match s.stor.selfTest with
  | none => s
  | some t =>
    if t.paused || t.issued then s
    else (s.stor.nss.filter (fun x => t.nsid = x.1 || t.nsid = 0xFFFFFFFF)).foldl (fun s x => if s.stor.selfTest.isSome then s.stNs (t.code = 2) x.1 x.2 else s)
      { s with stor := { s.stor with selfTest := some { t with issued := true } } }

/-- DEVICE_SELF_TEST: code 1 short, 2 extended, 0xF abort. One already running refuses another (NVMe 0x11D). -/
def execDeviceSelfTest (sq cmd : Nat) (s : State) : Host.Outcome State Fault Refusal :=
  .next (s.nvme true sq cmd 0x14 fun s cid =>
    let c := cdw cmd 10 % 16
    let n := nvNsid cmd
    if c = 0xF then (s.stEnd 1 0).nvmeDone sq cid nvOk 0
    else if c ≠ 1 && c ≠ 2 then s.nvmeDone sq cid nvField 0
    else if n ≠ 0xFFFFFFFF && (s.pf1Ns n).isNone then s.nvmeDone sq cid nvBadNs 0
    else if s.stor.selfTest.isSome then s.nvmeDone sq cid 0x11D 0
    else
      let s : State := { s with stor := { s.stor with selfTest := some ⟨c, n, false, false⟩ } }
      (s.nvmeDone sq cid nvOk 0).stPause.stIssue)

/-- SELF_TEST_RESUME (R354): 1 ms after the last command was gone. -/
def execSelfTestResume (s : State) : Host.Outcome State Fault Refusal :=
  .next (if s.stBusy || s.timeNs < s.stor.lastUse + 1000000 then s
    else State.stIssue { s with stor := { s.stor with selfTest := s.stor.selfTest.map (fun t => { t with paused := false }) } })

/-- SELF_TEST_DONE (R354): every step is done, or one found an error in segment `seg` (0 for none). A test whose reads are not all
answered is not done. -/
def execSelfTestDone (seg : Nat) (s : State) : Host.Outcome State Fault Refusal :=
  .next (match s.stor.selfTest with
    | some t =>
      if t.paused || s.stBusy || (seg = 0 && s.stor.waits.any (fun w => match w.by' with | .test _ => true | _ => false)) then s
      else s.stEnd (if seg = 0 then 0 else 7) seg
    | none => s)

/-! ## Doorbells and the controller (R340, R341, R349, R352) -/

/-- NVME_SQ_DOORBELL. -/
def execNvmeSqDoorbell (q tail : Nat) (s : State) : Host.Outcome State Fault Refusal :=
  .next (match Tbl.find s.stor.sqs q with
    | none => s
    | some x => if x.size ≤ tail then s else State.stPause { s with stor := { s.stor with sqs := Tbl.put s.stor.sqs q { x with tail := tail } } })

/-- s with the completions written that waited for room on a queue. -/
def State.cqDrain (s : State) (q : Nat) : State :=
  let mine := s.stor.cqWait.filter (fun w => w.1 = q)
  let s : State := { s with stor := { s.stor with cqWait := s.stor.cqWait.filter (fun w => w.1 ≠ q) } }
  mine.foldl (fun s w => s.cqPost q w.2) s

/-- INTERRUPT_COALESCING_TIME: the aggregation time of completion queue q, in units of 100 µs, expires, and its message is sent. -/
def execInterruptCoalescingTime (q : Nat) (s : State) : Host.Outcome State Fault Refusal :=
  .next (match Tbl.find s.stor.cqs q with
    | some c => if c.due = 0 || s.timeNs < c.since + fld (Tbl.get s.stor.features 8 0) 8 8 * 100000 then s else State.msix { s with stor := { s.stor with cqs := Tbl.put s.stor.cqs q { c with due := 0 } } } 1 c.vec
    | none => s)

/-- NVME_CQ_DOORBELL. -/
def execNvmeCqDoorbell (q head : Nat) (s : State) : Host.Outcome State Fault Refusal :=
  .next (match Tbl.find s.stor.cqs q with
    | none => s
    | some x => if x.size ≤ head then s else State.cqDrain { s with stor := { s.stor with cqs := Tbl.put s.stor.cqs q { x with head := head } } } q)

/-- s ready when it is enabled and nothing is left to replay (R349). -/
def State.storReady (s : State) : State :=
  if s.stor.nss.any (fun x => x.2.needReplay) || s.stor.cfs || !s.stor.enabled then s else { s with stor := { s.stor with rdy := true } }

/-- s with the cache lost whose region is gone: what was not home of a drive namespace is to be replayed (R349). -/
def State.cacheLost (s : State) : State :=
  if s.rd R.NVM_CACHE = 0 || (s.region (s.rd R.NVM_CACHE) 0).isSome then s
  else { s with stor := { s.stor with nss := Tbl.mapV s.stor.nss (fun _ x =>
    if x.kind = 0 && !x.pending.isEmpty then { x with opened := [], closed := [], homing := [], needReplay := true } else x) } }

/-- NVME_CONTROLLER_ENABLE: CC.EN 0 to 1 with CC.MPS, AQA, ASQ and ACQ as they stand. Page sizes are 4 KiB to 64 KiB. -/
def execNvmeControllerEnable (mps aqa asq acq : Nat) (s : State) : Host.Outcome State Fault Refusal :=
  .next (
    if s.stor.enabled || 4 < mps then s
    else
      let s := s.cacheLost
      State.storReady { s with stor := { s.stor with
        enabled := true, shut := false, mps := mps
        sqs := [(0, ⟨asq, fld aqa 0 12 + 1, 0, 0, 0⟩)]
        cqs := [(0, ⟨acq, fld aqa 16 12 + 1, 0, 0, true, 0, true, 0, 0⟩)] } })

/-- The reset of the PF1 controller (R352): its commands are gone, a write not yet in the cache is not applied, and cached data
stays. -/
def State.storReset (s : State) : State :=
  let mine := fun (b : StorBy) => match b with | .nvme _ _ _ => true | _ => false
  let s := s.stEnd 2 0
  let wasReady := s.stor.rdy
  let x := s.stor.leave (fun b => !mine b) (fun _ => true) s.timeNs
  { s with stor := { x with
      cfs := false, rdy := false, enabled := false, shut := false, sqs := [], cqs := [], cqWait := [], features := [], aers := [], changed := []
      noticed := false
      nss := Tbl.mapV s.stor.nss (fun _ x => if wasReady then { x with lost := false } else x) } }

/-- NVME_CONTROLLER_RESET: CC.EN 1 to 0. -/
def execNvmeControllerReset (s : State) : Host.Outcome State Fault Refusal := .next (if s.stor.enabled then s.storReset else s)

/-- NVME_SHUTDOWN (R427): the controller takes no more commands; what the cache holds goes on to its home. -/
def execNvmeShutdown (s : State) : Host.Outcome State Fault Refusal :=
  .next (if s.stor.enabled then { s with stor := { s.stor with shut := true } } else s)

/-! ## I/O commands (R340, R346, R351, R352) -/

/-- Runs an I/O command on the namespace it names. -/
def State.nvmeIo (s : State) (sq cmd op : Nat) (f : State → Nat → Nat → Ns → State) : State :=
  State.stPause (s.nvme false sq cmd op fun s cid =>
    let n := nvNsid cmd
    match s.pf1Ns n with
    | none => s.nvmeDone sq cid nvBadNs 0
    | some x => if x.notReady then s.nvmeDone sq cid nvNotReady 0 else f s cid n x)

/-- First LBA and blocks of a command. -/
def nvSlba (c : Nat) : Nat := cdw c 10 + cdw c 11 * 2 ^ 32
def nvNlb (c : Nat) : Nat := fld (cdw c 12) 0 16 + 1

def execNvmeRead (sq cmd : Nat) (prps : List Nat) (s : State) : Host.Outcome State Fault Refusal :=
  .next (s.nvmeIo sq cmd 0x02 fun s cid n x =>
    if 256 < nvNlb cmd then s.nvmeDone sq cid nvField 0
    else if x.blocks < nvSlba cmd + nvNlb cmd then s.nvmeDone sq cid nvRange 0
    else s.storReadCmd (.nvme sq cid prps) n (nvSlba cmd) (nvNlb cmd))

/-- s with n bytes of the host's pages read for a command, or with the read failed (R432, R433): `bad` 0 success, 1 Unsupported Request,
2 Completer Abort, 3 timed out, 4 poisoned. A failed one ends the command with Data Transfer Error. -/
def State.pf1Read (s : State) (sq cid bad : Nat) (f : State → State) : State :=
  if bad = 0 then f s
  else
    let s := if bad = 3 then (s.cnt R.PCI_CPL_TIMEOUT).aer 1 Aer.cplTimeout
             else if bad = 4 then (s.cnt R.PCI_CPL_ERR).aer 1 Aer.poisoned else s.cnt R.PCI_CPL_ERR
    s.nvmeDone sq cid nvTransfer 0

/-- NVME_WRITE: `data` is what the host's pages hold, `bad` how their read ended. -/
def execNvmeWrite (sq cmd : Nat) (data : HostData) (s : State) : Host.Outcome State Fault Refusal :=
  .next (s.nvmeIo sq cmd 0x01 fun s cid n x =>
    if 256 < nvNlb cmd then s.nvmeDone sq cid nvField 0
    else if x.blocks < nvSlba cmd + nvNlb cmd then s.nvmeDone sq cid nvRange 0
    else if x.ro then s.nvmeDone sq cid nvProtected 0
    else s.pf1Read sq cid data.bad fun s =>
      s.storWrite (.nvme sq cid []) n (nvSlba cmd) (nvNlb cmd) false (bit (cdw cmd 12) 30) (fitBytes data.bytes (nvNlb cmd * blk)) 2)

def execNvmeFlush (sq cmd : Nat) (s : State) : Host.Outcome State Fault Refusal :=
  .next (s.nvmeIo sq cmd 0x00 fun s cid n _ => s.storFlushCmd (.nvme sq cid []) n)

def execWriteZeroes (sq cmd : Nat) (s : State) : Host.Outcome State Fault Refusal :=
  .next (s.nvmeIo sq cmd 0x08 fun s cid n x =>
    if x.blocks < nvSlba cmd + nvNlb cmd then s.nvmeDone sq cid nvRange 0
    else if x.ro then s.nvmeDone sq cid nvProtected 0
    else s.storWrite (.nvme sq cid []) n (nvSlba cmd) (nvNlb cmd) true (bit (cdw cmd 12) 30) [] 4)

/-- DATASET_MANAGEMENT with Deallocate: `data` holds the ranges, 16 bytes each. Every range becomes zero entries; the command
completes with the last. Another attribute alone does nothing. -/
def execDatasetManagement (sq cmd : Nat) (data : HostData) (s : State) : Host.Outcome State Fault Refusal :=
  .next (s.nvmeIo sq cmd 0x09 fun s cid n x => s.pf1Read sq cid data.bad fun s =>
    let rs := (List.range (cdw cmd 10 % 256 + 1)).map (fun i => (leAt data.bytes (16 * i + 8) 8, leAt data.bytes (16 * i + 4) 4))
    if !bit (cdw cmd 11) 2 then s.nvmeDone sq cid nvOk 0
    else if rs.any (fun r => decide (x.blocks < r.1 + r.2)) then s.nvmeDone sq cid nvRange 0
    else if x.ro then s.nvmeDone sq cid nvProtected 0
    else s.storAccept ⟨.nvme sq cid [], n, 5, 0, x.blocks, (rs.map (fun r => nsPieces r.1 r.2 65536 true [])).flatten, false, 0⟩)

/-! ## Batches and the log (R346 to R349) -/

/-- BATCH_CLOSE of namespace n: 50 µs after its first write (R346). The other causes close it with the write or Flush that brings them. -/
def execBatchClose (n : Nat) (s : State) : Host.Outcome State Fault Refusal :=
  .next (match s.ns n with
    | some x => if s.timeNs < x.since + 50000 then s else s.closeBatch n
    | none => s)

/-- A block with a CRC-32C at byte `at'` over the rest of it. -/
def withCheck (b : List Byte) (at' : Nat) : List Byte :=
  let rest := b.take at' ++ b.drop (at' + 4)
  b.take at' ++ leBytes 4 (crc32c rest) ++ b.drop (at' + 4)
def checkOk (b : List Byte) (at' : Nat) : Bool := decide (withCheck b at' = b)

/-- A commit record (R348). -/
def Batch.record (b : Batch) (n : Nat) (x : Ns) : List Byte :=
  let es := (b.entries.map (fun e => leBytes 8 e.lba ++ leBytes 4 e.count ++ leBytes 1 (b2n e.zero) ++ zeroBytes 3)).flatten
  withCheck (fitBytes (leBytes 4 0x5243564E ++ leBytes 4 n ++ leBytes 8 b.seq ++ leBytes 8 (x.logPos b.recPos 1) ++ leBytes 2 b.entries.length ++
    leBytes 2 (dataBlocks b.entries) ++ zeroBytes 4 ++ leBytes 8 x.logId ++ zeroBytes 24 ++ es) blk) 28

/-- A superblock (R350). -/
def superblock (n seq pos logId : Nat) : List Byte :=
  withCheck (fitBytes (leBytes 4 0x4253564E ++ leBytes 4 n ++ leBytes 8 seq ++ leBytes 8 pos ++ leBytes 8 logId) blk) 32

/-- s with a batch's data blocks and its record in the log area, positions wrapping. -/
def State.writeLog (s : State) (n : Nat) (x : Ns) (b : Batch) : State :=
  let data := (b.entries.map (fun e => if e.zero then [] else e.data)).flatten
  let s := (List.range (dataBlocks b.entries)).foldl (fun s i => s.putDrive x.drive (x.logLba + x.logPos b.recPos (1 + i)) (bsub data (i * blk) blk)) s
  s.putDrive x.drive (x.logLba + b.recPos) (b.record n x)

/-- The lowest sequence number not wholly home, and where its record lies. -/
def Ns.lowest (x : Ns) : Nat × Nat := match x.homing ++ x.closed with
  | b :: _ => (b.seq, b.recPos)
  | [] => (x.seq, x.pos)

/-- The operation that writes with FUA: only a drive with a volatile write cache gets it (R343). -/
def Ns.fuaOp (x : Ns) : Nat := if x.vwc then 3 else 1

/-- s with a Flush sent to a drive that has a volatile write cache (R343). -/
def State.driveFlush (s : State) (x : Ns) : State := if x.vwc then s.emit (.drive x.port 4 0 0 []) else s

/-- s with a namespace's superblock written: a batch that waited for room in the log is written too. -/
def State.putSuper (s : State) (n seq pos : Nat) : State :=
  match s.ns n with
  | none => s
  | some x => (((s.putDrive x.drive x.logLba (superblock n seq pos x.logId)).emit (.drive x.port x.fuaOp x.logLba 1 [])).updNs n (fun x =>
      { x with sbSeq := seq, sbPos := pos, sbAt := x.seq })).batchWrite n

/-- s with the superblock written where it is due (R346 step 6): 4,096 batches after the last time, or with the log area three quarters full
and a batch home that it still names. -/
def State.superDue (s : State) (n : Nat) : State :=
  match s.ns n with
  | none => s
  | some x =>
    let used := (x.pos + (x.logBlocks - 1) - x.sbPos) % (x.logBlocks - 1)
    if x.sbAt + 4096 ≤ x.seq || (x.lowest.1 ≠ x.sbSeq && 3 * x.logBlocks ≤ 4 * (used + 1)) then s.putSuper n x.lowest.1 x.lowest.2 else s

/-- BATCH_COMMIT (R346 step 4) of the oldest closed batch of namespace n, once its data is on the drive and the log has room:
commands that waited for it complete. -/
def execBatchCommit (n : Nat) (s : State) : Host.Outcome State Fault Refusal :=
  .next (match s.ns n with
    | none => s
    | some x => match x.closed with
      | [] => s
      | b :: rest =>
        if !b.ready || x.logBlocks - 1 < x.logUsed b then s
        else
          let s := (s.writeLog n x b).emit (.drive x.port x.fuaOp (x.logLba + b.recPos) 1 [])
          let s := (s.updNs n (fun x => { x with closed := rest, homing := x.homing ++ [b] })).cnt R.NVM_BATCHES
          let due := fun (w : StorWait) => w.nsid = n && w.commit.any (fun q => decide (q ≤ b.seq))
          let done := s.stor.waits.filter due
          let s : State := { s with stor := { s.stor with waits := s.stor.waits.filter (fun w => !due w) } }
          (done.foldl (fun s w => w.end' s nvOk 0 0) s).superDue n)

/-- s with an entry written to its home blocks. -/
def State.entryHome (s : State) (x : Ns) (e : NsEntry) : State :=
  (s.putDriveAll x.drive (x.start + e.lba) (if e.zero then zeroBytes (e.count * blk) else e.data)).emit
    (.drive x.port 1 (x.start + e.lba) e.count (if e.zero then [] else e.data))

/-- s with entries written home in order, the drive flushed, and the blocks counted (R346 step 5). -/
def State.entriesHome (s : State) (x : Ns) (es : List NsEntry) : State :=
  ((es.foldl (fun s e => s.entryHome x e) s).driveFlush x).cnt R.NVM_HOME_BLOCKS ((es.map (fun e => e.count)).sum)

/-- HOME_WRITE_DONE (R346 step 5): the oldest committed batch of namespace n is home and leaves the cache. -/
def execHomeWriteDone (n : Nat) (s : State) : Host.Outcome State Fault Refusal :=
  .next (match s.ns n with
    | none => s
    | some x => match x.homing with
      | [] => s
      | b :: rest =>
        (((s.entriesHome x b.entries).updNs n (fun x => { x with homing := rest })).superDue n).storRetry)

/-- SUPERBLOCK_WRITE (R346 step 6). -/
def execSuperblockWrite (n : Nat) (s : State) : Host.Outcome State Fault Refusal :=
  .next (match s.ns n with
    | some x => if x.kind = 0 then s.putSuper n x.lowest.1 x.lowest.2 else s
    | none => s)

/-- The records a replay accepts from a position on, each written home (R349 steps 2 and 3): the state, the sequence number
and position after the last. -/
def State.replayFrom (n : Nat) (x : Ns) : Nat → State → Nat → Nat → State × Nat × Nat
  | 0, s, seq, pos => (s, seq, pos)
  | fuel + 1, s, seq, pos =>
    let b := s.driveBlock x.drive (x.logLba + pos)
    if leAt b 0 4 ≠ 0x5243564E || leAt b 4 4 ≠ n || leAt b 32 8 ≠ x.logId || leAt b 8 8 ≠ seq || !checkOk b 28 then (s, seq, pos)
    else
      let es := (List.range (leAt b 24 2)).map (fun i => (leAt b (64 + 16 * i) 8, leAt b (72 + 16 * i) 4, bit (leAt b (76 + 16 * i) 1) 0))
      let step := fun (a : State × Nat) (e : Nat × Nat × Bool) =>
        if e.2.2 then (a.1.putDriveAll x.drive (x.start + e.1) (zeroBytes (e.2.1 * blk)), a.2)
        else ((List.range e.2.1).foldl (fun s i => s.putDrive x.drive (x.start + e.1 + i) (s.driveBlock x.drive (x.logLba + x.logPos pos (1 + a.2 + i)))) a.1, a.2 + e.2.1)
      let r := es.foldl step (s, 0)
      let s := r.1.cnt R.NVM_HOME_BLOCKS ((es.map (fun e => e.2.1)).sum)
      State.replayFrom n x fuel (s.cnt R.NVM_REPLAYED) (seq + 1) (x.logPos pos (1 + leAt b 26 2))

/-- REPLAY (R349) of a namespace. A drive read error, or a superblock that fails its checks, sets CSTS.CFS, and the namespace is not
ready. -/
def execReplay (n : LogRead) (s : State) : Host.Outcome State Fault Refusal :=
  let bad := n.bad
  let n := n.ns
  .next (match s.ns n with
    | none => s
    | some x =>
      if x.kind ≠ 0 || !x.needReplay then s
      else
        let b := s.driveBlock x.drive x.logLba
        if leAt b 0 4 ≠ 0x4253564E || leAt b 4 4 ≠ n || !checkOk b 32 || bad then
          let s := if bad then s.cnt R.NVM_DRIVE_ERR else s
          State.storReady (State.updNs { s with stor := { s.stor with cfs := true } } n (fun x => { x with notReady := true, needReplay := false }))
        else
          let x := { x with logId := leAt b 24 8 }
          let r := State.replayFrom n x x.logBlocks s (leAt b 8 8) (leAt b 16 8)
          let s := r.1.updNs n (fun y => { y with logId := x.logId, seq := r.2.1, pos := r.2.2, needReplay := false, opened := [], closed := [], homing := [] })
          ((s.driveFlush x).putSuper n r.2.1 r.2.2).storReady)

/-- DRIVE_COMPLETION (R343, R357): drive operation `id` ends with NVMe status nv. An error ends the command that waits for it;
of a batch it ends the commands that wait for its commitment, and the data is written again (log entry 54). A batch's data is followed by
a Flush where the drive has a volatile write cache (R346 step 3). -/
def execDriveCompletion (id nv : Nat) (s : State) : Host.Outcome State Fault Refusal :=
  .next (
    let s := if nv = 0 || !(s.stor.waits.any (fun w => w.drive = some id) || s.stor.driveOps.any (fun o => o.1 = id)) then s else s.cnt R.NVM_DRIVE_ERR
    match s.stor.waits.find? (fun w => w.drive = some id), s.stor.driveOps.find? (fun o => o.1 = id) with
    | some w, _ =>
      let s : State := { s with stor := { s.stor with waits := s.stor.waits.filter (fun w => w.drive ≠ some id) } }
      w.end' s nv (if nv = 0 then 0 else stMediaError) nv
    | none, some o =>
      let s : State := { s with stor := { s.stor with driveOps := s.stor.driveOps.filter (fun o => o.1 ≠ id) } }
      let batch : Option (Ns × Batch) := match s.ns o.2.1 with | some x => (x.closed.find? (fun (b : Batch) => b.seq = o.2.2.1)).map (fun b => (x, b)) | none => none
      (match batch with
        | none => s
        | some (x, b) =>
          if nv = 0 && x.vwc && !o.2.2.2 then s.batchOp o.2.1 b true (.drive x.port 4 0 0 [])
          else if nv = 0 then
            (s.updNs o.2.1 (fun x => { x with closed := x.closed.map (fun c => if c.seq = b.seq then { c with ready := true } else c) })).batchWrite o.2.1
          else
            let due := fun (w : StorWait) => w.nsid = o.2.1 && w.commit = some b.seq
            let gone := s.stor.waits.filter due
            let s : State := { s with stor := { s.stor with waits := s.stor.waits.filter (fun w => !due w) } }
            (gone.foldl (fun s w => w.end' s nv stMediaError nv) s).batchWrite o.2.1)
    | none, none => s)

/-! ## Storage-direct (R355, R356) -/

/-- The fields of a storage-direct body. -/
def sdSlba (d : Nat) : Nat := dby d 16 8
def sdNlb (d : Nat) : Nat := dby d 24 4

/-- Runs a storage-direct descriptor: body, namespace, range; one whose namespace is still being replayed waits (R349). -/
def State.storDirect (s : State) (sr tag op : Nat) (f : State → Job → Nat → Ns → State) : State :=
  State.stPause (s.withJob sr tag op fun s j =>
    let d := j.desc
    let data := op = 0x50 || op = 0x51
    let used := [(8, 5)] ++ (if op = 0x52 then [] else [(16, 12)]) ++ (if data then [(28, 1), (32, 4), (40, 8)] else [])
    let flags := if op = 0x51 || op = 0x53 || op = 0x54 then 2 else 1
    let n := dby d 8 4
    let failed := fun (st dt : Nat) => s.storCount.failJob j st dt
    if s.stor.ready.any (fun r => r.1 = sr && r.2.1 = tag) then s.storTake j
    else if !rsvdZero d used || flags ≤ dby d 12 1 || (data && (2 < dby d 28 1 || dby d 40 8 % blk ≠ 0)) ||
        (op ≠ 0x52 && (sdNlb d = 0 || (if data then 256 else 65536) < sdNlb d)) then failed stInvalidDescriptor 0
    else match s.ns n with
      | none => failed stInvalidHandle 0
      | some x =>
        if x.owner ≠ j.slice then failed stInvalidHandle 0
        else if x.needReplay then s
        else if x.notReady then failed stMediaError nvNotReady
        else if op ≠ 0x52 && x.blocks < sdSlba d + sdNlb d then failed stLbaRange 0
        else if flags = 2 && x.ro then failed stReadOnly 0
        else f s j n x)

/-- The descriptor's command is accepted. -/
def State.storStart (s : State) (j : Job) : State := s.updJob j.sr j.tag (fun k => { k with phase := .running })

def execStorRead (sr tag : Nat) (s : State) : Host.Outcome State Fault Refusal :=
  .next (s.storDirect sr tag 0x50 fun s j n _ => (s.storStart j).storReadCmd (.desc sr tag) n (sdSlba j.desc) (sdNlb j.desc))

def execStorWrite (sr tag : Nat) (s : State) : Host.Outcome State Fault Refusal :=
  .next (s.storDirect sr tag 0x51 fun s j n _ =>
    let d := j.desc
    match s.readOperand j (dby d 28 1) (dby d 32 4) (dby d 40 8) (sdNlb d * blk) reqStorage with
    | .wait s => s
    | .fail s st dt => s.storCount.failJob j st dt
    | .ok s bs => (s.storStart j).storWrite (.desc sr tag) n (sdSlba d) (sdNlb d) false (bit (dby d 12 1) 0) bs 2)

def execStorFlush (sr tag : Nat) (s : State) : Host.Outcome State Fault Refusal :=
  .next (s.storDirect sr tag 0x52 fun s j n _ => (s.storStart j).storFlushCmd (.desc sr tag) n)

def execStorWriteZeroes (sr tag : Nat) (s : State) : Host.Outcome State Fault Refusal :=
  .next (s.storDirect sr tag 0x53 fun s j n _ =>
    (s.storStart j).storWrite (.desc sr tag) n (sdSlba j.desc) (sdNlb j.desc) true (bit (dby j.desc 12 1) 0) [] 4)

def execStorDeallocate (sr tag : Nat) (s : State) : Host.Outcome State Fault Refusal :=
  .next (s.storDirect sr tag 0x54 fun s j n _ =>
    (s.storStart j).storWrite (.desc sr tag) n (sdSlba j.desc) (sdNlb j.desc) true (bit (dby j.desc 12 1) 0) [] 5)

/-! ## Namespace commands (R344, R345, R350, R358) -/

/-- Whether two ranges of blocks overlap. -/
def meets (a n b m : Nat) : Bool := decide (a < b + m) && decide (b < a + n)

/-- Whether home and log of a drive namespace lie on the drive and apart from each other and from every other one. -/
def State.driveRoom (s : State) (x : Ns) (size : Nat) : Bool :=
  x.start + x.blocks ≤ size && x.logLba + x.logBlocks ≤ size && !meets x.start x.blocks x.logLba x.logBlocks &&
  s.stor.nss.all (fun y => y.2.kind ≠ 0 || y.2.drive ≠ x.drive ||
    !(meets x.start x.blocks y.2.start y.2.blocks || meets x.start x.blocks y.2.logLba y.2.logBlocks ||
      meets x.logLba x.logBlocks y.2.start y.2.blocks || meets x.logLba x.logBlocks y.2.logLba y.2.logBlocks))

/-- Whether a QP may carry capsules (R344, R358). -/
def State.capsuleQp (s : State) (q : Nat) : Bool := match Tbl.find s.tmt.qps q with
  | some x => x.state = .rts && !x.sched && x.slice = 0
  | none => false

/-- NS_DEFINE (R344, R350). `size`, `fmt` and `vwc` are what the drive's own Identify data reports: its blocks, whether its
format is 4,096 B, whether it has a volatile write cache (log entry 55). -/
def execNsDefine (sr tag size : Nat) (fmt vwc : Bool) (s : State) : Host.Outcome State Fault Refusal :=
  .next (s.withJob sr tag 0x58 fun s j =>
    let d := j.desc
    let n := dby d 8 4
    let kind := dby d 12 1
    let x : Ns := { kind := kind, vis := bit (dby d 13 1) 0, ro := bit (dby d 13 1) 1, port := dby d 14 1, owner := dby d 15 1, backing := dby d 16 4
                    remote := dby d 20 4, start := dby d 24 8, blocks := dby d 32 8, logLba := dby d 40 8, logBlocks := dby d 48 4, staging := dby d 52 4
                    vwc := vwc, logId := 0, seq := 1, pos := 1, sbSeq := 1, sbPos := 1, sbAt := 1, since := 0, opened := [], closed := [], homing := [], lost := false
                    notReady := false, needReplay := false, exported := none }
    if !rsvdZero d [(8, 48)] || n = 0 || 256 < n || 2 < kind || 4 ≤ dby d 13 1 || 3 < x.port || (kind ≠ 0 && x.port ≠ 0) || 64 ≤ x.owner || x.blocks = 0 ||
        (kind = 0 && (x.logBlocks < 16384 || 2 ^ 24 < x.logBlocks)) then s.failJob j stInvalidDescriptor 0
    else if kind = 2 && !s.feature 5 then s.failJob j stFeatureOff 0
    else
      let ok := match kind with
        | 0 => fmt && s.driveRoom x size
        | 1 => (match s.region x.backing x.owner with | some r => decide (x.blocks * blk ≤ r.dataBytes) | none => false)
        | _ => s.capsuleQp x.backing && (s.region x.staging 0).isSome
      if (s.ns n).isSome || !ok then s.failJob j stNsInvalid 0
      else
        let put := fun (s : State) (x : Ns) =>
          ({ s with stor := { s.stor with nss := Tbl.put s.stor.nss n x, recorded := if kind = 2 then s.stor.recorded else Tbl.put s.stor.recorded n x } } : State)
        let s := if kind = 0 then
            (let r := s.random 64
             (put r.2 { x with logId := r.1 }).putSuper n 1 1)
          else if kind = 1 then (put s x).addRef x.backing true else put s x
        (s.nsChanged n x).succeed j 0)

/-- NS_DELETE (R345, R350): every cached block goes home first, those of its log too (R349). Slice 0 and the owner may delete. -/
def execNsDelete (sr tag : Nat) (s : State) : Host.Outcome State Fault Refusal :=
  .next (s.withJob sr tag 0x59 fun s j =>
    let n := dby j.desc 8 4
    if !rsvdZero j.desc [(8, 4)] then s.failJob j stInvalidDescriptor 0
    else match s.ns n with
      | none => s.failJob j stInvalidHandle 0
      | some x =>
        if j.slice ≠ 0 && x.owner ≠ j.slice then s.failJob j stInvalidHandle 0
        else if s.nsBusy n then s.failJob j stNsBusy 0
        else if x.needReplay then s
        else
          let s := if x.kind = 0 then s.entriesHome x x.pending
                   else if x.kind = 1 then s.addRef x.backing false else s
          let s := if s.stor.selfTest.any (fun t => t.nsid = n) then s.stEnd 3 0 else s
          let s : State := { s with stor := { s.stor with nss := Tbl.del s.stor.nss n, recorded := Tbl.del s.stor.recorded n
                                                          driveOps := s.stor.driveOps.filter (fun o => o.2.1 ≠ n)
                                                          waits := s.stor.waits.filter (fun w => w.nsid ≠ n) } }
          (s.nsChanged n x).succeed j 0)

/-- NS_QUERY (R345): an absent namespace reads 0. -/
def execNsQuery (sr tag : Nat) (s : State) : Host.Outcome State Fault Refusal :=
  .next (s.withJob sr tag 0x5A fun s j =>
    let n := dby j.desc 8 4
    if !rsvdZero j.desc [(8, 4)] then s.failJob j stInvalidDescriptor 0
    else match s.ns n with
      | none => s.succeed j 0
      | some x =>
        let st := s.stor.selfTest.any (fun t => t.nsid = n || t.nsid = 0xFFFFFFFF)
        s.succeed j (x.kind + 1 + 8 * b2n x.lost + 16 * b2n st + dataBlocks x.pending * 2 ^ 32))

/-- PEER_EXPORT (R358). -/
def execPeerExport (sr tag : Nat) (s : State) : Host.Outcome State Fault Refusal :=
  .next (s.withJob sr tag 0x5B fun s j =>
    let d := j.desc
    let n := dby d 8 4
    if !rsvdZero d [(8, 4), (13, 1), (16, 4)] || clearBits (dby d 13 1) 2 ≠ 0 then s.failJob j stInvalidDescriptor 0
    else match s.ns n with
      | none => s.failJob j stInvalidHandle 0
      | some x =>
        if j.slice ≠ 0 && x.owner ≠ j.slice then s.failJob j stInvalidHandle 0
        else if x.kind = 2 || !s.capsuleQp (dby d 16 4) then s.failJob j stNsInvalid 0
        else (s.updNs n (fun x => { x with exported := some (dby d 16 4, bit (dby d 13 1) 1) })).succeed j 0)

/-- PEER_UNEXPORT (R357). -/
def execPeerUnexport (sr tag : Nat) (s : State) : Host.Outcome State Fault Refusal :=
  .next (s.withJob sr tag 0x5C fun s j =>
    let n := dby j.desc 8 4
    let imported := fun (b : StorBy) => match b with | .capsule _ _ _ _ => true | _ => false
    let busy := s.stor.waits.any (fun w => w.nsid = n && imported w.by') || s.stor.held.any (fun w => w.nsid = n && imported w.by')
    if !rsvdZero j.desc [(8, 4)] then s.failJob j stInvalidDescriptor 0
    else match s.ns n with
      | none => s.failJob j stInvalidHandle 0
      | some x =>
        if j.slice ≠ 0 && x.owner ≠ j.slice then s.failJob j stInvalidHandle 0
        else if x.exported.isNone then s.failJob j stNsInvalid 0
        else if busy then s.failJob j stNsBusy 0
        else (s.updNs n (fun x => { x with exported := none })).succeed j 0)

/-- CAPSULE_COMMAND (R358): the command capsule `cap` has come over QP qn; `data` is what a READ of the importer's staging
region brought for a write (log entry 56). -/
def execCapsuleCommand (qn : Nat) (cap data : List Byte) (s : State) : Host.Outcome State Fault Refusal :=
  .next (
    let op := leAt cap 0 1
    let cid := leAt cap 2 2
    let n := leAt cap 4 4
    let slba := leAt cap 8 8
    let nlb := leAt cap 16 4
    let b := StorBy.capsule qn cid (leAt cap 20 4) (leAt cap 24 8)
    let bad := fun (st : Nat) => s.storDone b st 0 0 false [] 0
    match s.ns n with
    | none => bad nvBadNs
    | some x => match x.exported with
      | none => bad nvBadNs
      | some (q, ro) =>
        let writes := op = 2 || op = 4 || op = 5
        if q ≠ qn then bad nvBadNs
        else if x.notReady || x.needReplay then bad nvNotReady
        else if op = 3 then s.storFlushCmd b n
        else if op = 6 then bad nvOk
        else if op = 0 || 6 < op then bad nvOpcode
        else if nlb = 0 || ((op = 1 || op = 2) && 256 < nlb) then bad nvField
        else if x.blocks < slba + nlb then bad nvRange
        else if writes && (ro || x.ro) then bad nvProtected
        else if op = 1 then s.storReadCmd b n slba nlb
        else s.storWrite b n slba nlb (op ≠ 2) (bit (leAt cap 1 1) 0) (fitBytes data (nlb * blk)) op)

/-- CAPSULE_RESPONSE (R357, R358): the response capsule over QP qn ends the importer's command, or the last of its capsules, or the first that
failed; what it read stands in the staging region. -/
def execCapsuleResponse (qn : Nat) (cap : List Byte) (s : State) : Host.Outcome State Fault Refusal :=
  .next (
    let cid := leAt cap 0 2
    let nv := leAt cap 2 2
    let mine := fun (w : StorWait) => w.peer = some cid && (match s.ns w.nsid with | some x => x.kind = 2 && x.backing = qn | none => false)
    match s.stor.waits.find? mine with
    | none => s
    | some w =>
      let left := s.stor.waits.filter (fun w => !mine w)
      let more := !w.by'.own && left.any (fun v => v.by' = w.by')
      let s : State := { s with stor := { s.stor with waits := if nv = 0 then left else left.map (fun v => if v.by' = w.by' then { v with by' := .nobody } else v) } }
      State.storRetry (
        if nv ≠ 0 then w.end' s nv stMediaError nv
        else if more then s
        else if w.reads then
          let staging := match s.ns w.nsid with | some x => x.staging | none => 0
          match s.region staging 0 with
          | none => w.end' s nvTransport stPeerLost 0
          | some r => match s.readRegion r (cid * 2 ^ 20) w.bytes with
            | .ok s bs => StorWait.end' { w with data := bs } s nvOk 0 0
            | .fail s st d => w.end' s nvUnrecovered st d
        else w.end' s nvOk 0 0))

end Sys2Proof.Machine
end

