-- ==== Sys2Proof/Machine/Translation.lean ====
section
/-! DEFINITION. The commands of 10_translation: enabling, fault records and their answers, stall timeouts,
invalidations, ATS and PRI. -/

namespace Sys2Proof.Machine

/-- The end of one waiting access when the driver answers with failure, or its ASID is unbound (R241, R251): a ring puts
its slice into ERROR, a descriptor completes TRANSLATION_FAULT, a TMT access ends as R295 states. -/
def State.waiterFails (s : State) (w : Waiter) (status : Nat) : State :=
  if w.ring then
    let sl := if w.tag = 0 then (Tbl.find s.ring.srs w.sr).map (fun r => r.slice)
              else if w.tag = 1 then (Tbl.find s.ring.crs w.sr).map (fun r => r.slice)
              else (Tbl.find s.ring.eqs w.sr).map (fun r => r.slice)
    match sl with | some n => s.sliceError n | none => s
  else match s.job w.sr w.tag with
    | some j => s.jobFaults j status
    | none => s.rxWaiterEnds w

/-- The end of one waiting access when it is to try again (R254): its command runs again. -/
def State.waiterRetries (s : State) (w : Waiter) : State :=
  if w.ring then s
  else if 65536 ≤ w.sr then s.rxWaiterRetry w
  else s.updJob w.sr w.tag (fun j => if j.phase = .faulted then { j with phase := .started } else j)

/-- TRANSLATION_ENABLE (R253, R257, the XLT_CTRL table): a write of `word` to XLT_CTRL that concerns enable. Setting
it starts the fault ring at record 0; after a lease expiry it writes every open fault again. Clearing it is ignored
while faults are open, and frees ATS slots whose fault has left (R258). -/
def execTranslationEnable (word : Nat) (s : State) : Host.Outcome State Fault Refusal :=
  .next (
    let s := s.regWrite R.XLT_CTRL 4 word
    let was := s.rf R.XLT_CTRL 0 1 = 1
    let stopped := s.xlt.faults.any (fun f => f.2.waiters.any (fun w => w.stopped)) || s.xlt.spill.any (fun e => e.waiter.stopped)
    let again := fun (w : Waiter) => { w with stopped := false, since := s.timeNs }
    if bit word 0 then
      if was && !stopped then s
      else
        let s := if was then s else s.addRef (s.rd R.XLT_TABLE_REGION) true
        let s := (s.wf R.XLT_CTRL 0 1 1).wr R.XLT_FAULT_TAIL 0
        { s with
          locks := setIns s.locks R.XLT_CTRL
          xlt := { s.xlt with records := 0
                              faults := Tbl.mapV s.xlt.faults (fun _ f => { f with written := false, waiters := f.waiters.map again })
                              spill := s.xlt.spill.map (fun e => { e with waiter := again e.waiter }) } }
    else if !was || s.xlt.faults.any (fun f => !f.2.late) || !s.xlt.spill.isEmpty then s
    else (State.addRef { s with xlt := { s.xlt with faults := [] } } (s.rd R.XLT_TABLE_REGION) false).wf R.XLT_CTRL 0 1 0)

/-- FAULT_RECORD_WRITE (R253, R256): the record of the fault in `slot`, once XLT_CTRL.coalesce × 64 ns have passed since it opened, or with slot 4,096 the oldest informational
record (R247), goes to the fault ring. A full ring keeps it and sets FAULT_OVF. -/
def execFaultRecordWrite (slot : Nat) (s : State) : Host.Outcome State Fault Refusal :=
  .next (
    let tail := s.rf R.XLT_FAULT_TAIL 0 12
    let due := if slot = 4096 then s.xlt.info.head?
      else match Tbl.find s.xlt.faults slot with
        | some f =>
          if f.written || f.ats || f.late || s.timeNs < f.time + s.rf R.XLT_CTRL 8 8 * 64 then none
          else
            let pasid := match Tbl.find s.xlt.asids f.asid with | some a => a.pasid | none => 0
            let sl := match Tbl.find s.xlt.asids f.asid with | some a => a.slice | none => 0
            some (faultRecord (f.page * 4096) f.asid (slot + f.gen * 4096) pasid f.rd f.wr f.level f.reason false f.reqs sl f.time)
        | none => none
    match due with
    | none => s
    | some r =>
      if s.rf R.XLT_CTRL 0 1 = 0 || (s.slice 0).state = .orphaned || !s.dmaOk 0 then s
      else if (tail + 1) % 4096 = s.rf R.XLT_FAULT_HEAD 0 12 then s.wf R.XLT_STATUS 0 1 1
      else
        let j := s.xlt.records
        let bs := leBytes 32 (r + (if (j / 4096) % 2 = 0 then 2 ^ 255 else 0))
        let s := s.hostPut (s.rf R.XLT_FAULT_BASE 12 52 * 4096 + 32 * (j % 4096)) bs
        let s := (s.wr R.XLT_FAULT_TAIL ((j + 1) % 4096)).cnt R.XLT_FAULTS
        let s : State := { s with xlt := { s.xlt with
          records := j + 1
          info := if slot = 4096 then s.xlt.info.tail else s.xlt.info
          faults := Tbl.upd s.xlt.faults slot (fun f => { f with written := true }) } }
        let eq := s.rf R.XLT_EQ 0 12
        if s.ring.events.any (fun e => e.eq = eq && e.kind = 4) then s
        else s.postEvent eq 0 4 ((j + 1) % 4096))

/-- Ends a fault with an answer: retry drops the page's cached leaves and lets every waiter walk again; fail ends
them (R254). -/
def State.answerFault (s : State) (slot : Nat) (f : Fault') (retry : Bool) : State :=
  let s : State := if retry then { s with xlt := { s.xlt with cache := s.xlt.cache.filter (fun c =>
      !(c.asid = f.asid && bit c.entry 1 && c.path = (f.page * 4096) >>> pageBits c.level)) } } else s
  let s := s.closeFault slot
  f.waiters.foldl (fun s w => if retry then s.waiterRetries w else s.waiterFails w stTranslationFault) s

/-- FAULT_RESPONSE (R254): an 8-byte write of `word` to XLT_FAULT_RESP. -/
def execFaultResponse (word : Nat) (s : State) : Host.Outcome State Fault Refusal :=
  .next (
    let slot := fld word 0 12
    match Tbl.find s.xlt.faults slot with
    | some f =>
      if f.gen ≠ fld word 12 4 || 2 ≤ fld word 16 2 || f.late then s.cnt R.XLT_STALE_RESP
      else s.answerFault slot f (fld word 16 2 = 0)
    | none => s.cnt R.XLT_STALE_RESP)

/-- STALL_TIMEOUT (R255): the stall timeout of the descriptor (sr, tag) expires; it leaves the fault. Ring accesses wait
without a timeout (R241), and after a lease expiry no timeout runs (R257). Nothing happens before XLT_CTRL.timeout_ms have passed. -/
def execStallTimeout (sr tag : Nat) (s : State) : Host.Outcome State Fault Refusal :=
  .next (
    let mine := fun (w : Waiter) => !w.ring && w.sr = sr && w.tag = tag
    let ws := (s.xlt.faults.map (fun f => f.2.waiters)).flatten ++ s.xlt.spill.map (fun e => e.waiter)
    match ws.find? mine with
    | none => s
    | some w =>
      let ms := s.rf R.XLT_CTRL 16 16
      if w.stopped || s.timeNs < w.since + (if ms = 0 then 50 else ms) * 10 ^ 6 then s
      else
        let s := s.cnt R.XLT_TIMEOUTS
        match s.job sr tag with
        | some j => (s.jobFaults j stTranslationTimeout).promoteSpill
        | none => ((s.leaveFaults mine).rxWaiterEnds w).promoteSpill)

/-- INVALIDATE (R249): an 8-byte write of `word` to XLT_INVAL. -/
def execInvalidate (word : Nat) (s : State) : Host.Outcome State Fault Refusal :=
  .next (if 64 ≤ s.xlt.invals.length then (s.cnt R.XLT_INVAL_DROP).wf R.XLT_STATUS 2 1 1
    else { s with xlt := { s.xlt with invals := s.xlt.invals ++ [(fld word 0 16, fld word 16 16)] } })

/-- The check of an ASID entry (R244): the result code of XLT_INVAL_DONE and the entry when ACTIVE. -/
def State.checkAsid (s : State) (num e : Nat) (regionBytes : Nat) : Nat × Option Asid :=
  let mode := fld e 1 2
  let sl := fld e 8 6
  let pasid := fld e 32 20
  let root := fld e 64 64
  if !bit e 0 then (1, none)
  else if Tbl.find s.pasids pasid ≠ some sl then (2, none)
  else if s.xlt.asids.any (fun p => p.1 ≠ num && p.2.pasid = pasid) then (3, none)
  else if mode = 3 || (mode = 2 && sl ≠ 0) || (mode = 1 && !(s.xlt.atsEnabled && s.xlt.pasidEnabled && s.feature 2)) then (4, none)
  else if fld e 3 5 ≠ 0 || fld e 14 18 ≠ 0 || fld e 52 12 ≠ 0 || fld e 128 128 ≠ 0 ||
      (mode = 0 && (root % 4096 ≠ 0 || regionBytes < root + 4096)) then (5, none)
  else (0, some ⟨mode, sl, pasid, root⟩)

/-- s with the accesses of an unbound ASID that wait without a slot ended (R251, R256). -/
def State.failSpilled (s : State) (asid : Nat) : State :=
  let gone := s.xlt.spill.filter (fun e => e.asid = asid)
  gone.foldl (fun s e => s.waiterFails e.waiter stTranslationFault) { s with xlt := { s.xlt with spill := s.xlt.spill.filter (fun e => e.asid ≠ asid) } }

/-- s with the open faults of an unbound ASID answered as failed (R251). -/
def State.failFaults (s : State) (asid : Nat) : State :=
  (s.xlt.faults.filter (fun f => f.2.asid = asid && !f.2.late)).foldl (fun s f => s.answerFault f.1 f.2 false) s

/-- INVALIDATION_DONE (R250, R251): the oldest invalidation completes. -/
def execInvalidationDone (s : State) : Host.Outcome State Fault Refusal :=
  .next (match s.xlt.invals with
    | [] => s
    | (num, seq) :: rest =>
      let cpl := s.rf R.XLT_INVAL_CPL 2 62 * 4
      if cpl ≠ 0 && !s.dmaOk 0 then s
      else
        let s : State := { s with xlt := { s.xlt with invals := rest, cache := s.xlt.cache.filter (fun c => c.asid ≠ num) } }
        let r := match s.region (s.rd R.XLT_TABLE_REGION) 0 with
          | none => (s, 5, none)
          | some rg => match s.readRegion rg (s.rf R.XLT_ASID_OFFSET 12 52 * 4096 + 32 * num) 32 with
            | .ok s bs => (s, s.checkAsid num (leNat bs) rg.dataBytes)
            | .fail s _ _ => (s, 5, none)
        let s := r.1
        let s : State := { s with xlt := { s.xlt with asids := match r.2.2 with
          | some a => Tbl.put s.xlt.asids num a
          | none => Tbl.del s.xlt.asids num } }
        let s := if r.2.2.isSome then s
          else (s.failSpilled num).failFaults num
        let done := seq + r.2.1 * 65536
        let s := (s.wr R.XLT_INVAL_DONE done).cnt R.XLT_INVALS
        if cpl = 0 then s else s.hostPut cpl (leBytes 4 done))

/-- ATS_TRANSLATION_COMPLETION (R258): the host answers the translation request for a page of an ASID with permissions
and an address (the IOVA's own page where only untranslated accesses are allowed). -/
def execAtsTranslationCompletion (asid page : Nat) (rd wr : Bool) (addr : Nat) (s : State) : Host.Outcome State Fault Refusal :=
  .next (match takeFirst (fun (q : Nat × Nat × Waiter) => q.1 = asid && q.2.1 = page) s.xlt.atsOut with
    | none => s
    | some (q, rest) =>
      let s : State := { s with xlt := { s.xlt with atsOut := rest } }
      let w := q.2.2
      if (if w.isWrite then wr else rd) then
        (s.xcache (walkerOf w.req) asid 1 (page * 4096) (3 + b2n rd * 4 + b2n wr * 8 + (addr / 4096 % 2 ^ 45) * 4096)).waiterRetries w
      else s.openFault asid page 1 (if !rd && !wr then xrNotPresent else if w.isWrite then xrNoWrite else xrNoRead) true s.timeNs { w with since := s.timeNs })

/-- ATS_INVALIDATE_REQUEST (R258): every cached translation of the ASID holding the PASID is dropped, whatever the
range, and the completion is sent. -/
def execAtsInvalidateRequest (pasid itag : Nat) (s : State) : Host.Outcome State Fault Refusal :=
  .next (
    let s : State := match s.asidOf pasid with
      | some (num, _) => { s with xlt := { s.xlt with cache := s.xlt.cache.filter (fun c => c.asid ≠ num) } }
      | none => s
    s.emit (.ats 2 [pasid, itag]))

/-- PRG_RESPONSE (R258): code 0 Success acts as retry, any other as fail; a response that matches no open ATS fault of
its PASID is stale. -/
def execPrgResponse (index pasid code : Nat) (s : State) : Host.Outcome State Fault Refusal :=
  .next (
    let was := s.xlt.prgOut.contains index
    let s : State := State.sendPrgs { s with xlt := { s.xlt with prgOut := s.xlt.prgOut.erase index
                                                                 prgCredits := s.xlt.prgCredits + b2n was } }
    match Tbl.find s.xlt.faults index with
    | some f =>
      if !f.ats then s.cnt R.XLT_STALE_RESP
      else if f.late then (s.closeFault index).cnt R.XLT_STALE_RESP
      else if (match Tbl.find s.xlt.asids f.asid with | some a => decide (a.pasid = pasid) | none => false) then s.answerFault index f (code = 0)
      else s.cnt R.XLT_STALE_RESP
    | none => s.cnt R.XLT_STALE_RESP)

end Sys2Proof.Machine
end

