-- ==== Sys2Proof/Machine/ResetOps.lean ====
section
/-! DEFINITION. What resets and cuts of the endpoint do, and what the main side loses with its rails (R36, R427 to R431, R488, R490
to R493), as shared operations. -/

namespace Sys2Proof.Machine

/-- s with the registers of [a, b) at their reset values. -/
def State.resetRange (s : State) (a b : Nat) : State := { s with regs := s.regs.filter (fun e => !(a ≤ e.1 && e.1 < b)) }

/-! ## The host endpoint -/

/-- s with a descriptor ended by a cut of Bus Master Enable (R430). -/
def State.bmeCut (s : State) (j : Job) : State := match s.job j.sr j.tag with
  | some j => (s.cnt R.PCI_BME_CUT).jobStops j stBusMasterDisabled 0
  | none => s

/-- Host DMA of PF0 is cut (R430): descriptors with a host read outstanding or stalled on a fault commit BUS_MASTER_DISABLED, the fault
table is emptied, ring fetches are given up, and what returns later is discarded. -/
def State.cutPf0 (s : State) : State :=
  let reads := s.pcie.reads.filter (fun r => r.2.fn = 0 && !r.2.discard)
  let reads := reads ++ s.pcie.readWait.map (fun r => (0, r))
  let hit := fun (j : Job) => decide (j.phase = .faulted) || reads.any (fun r => match r.2.what with | .job a b => decide (a = j.sr) && decide (b = j.tag) | _ => false)
  let s := (s.ring.jobs.filter hit).foldl (fun s j => s.bmeCut j) s
  let s := reads.foldl (fun s r => match r.2.what with
    | .ring _ _ => s
    | .job a b => if 65536 ≤ a then s.accessFails a b stBusMasterDisabled 0 else s
    | .rxAtomic q p => s.dataFails (.rxAtomic q p) 8 stBusMasterDisabled 0) s
  let ws := ((s.xlt.faults.map (fun f => f.2.waiters)).flatten ++ s.xlt.spill.map (fun e => e.waiter) ++ s.xlt.atsOut.map (fun e => e.2.2)).filter (fun w => !w.ring && 65536 ≤ w.sr)
  let s := ws.foldl (fun s w => s.rxWaiterEnds w) s
  let x := s.xlt
  let gen := x.faults.foldl (fun g f => Tbl.set g f.1 ((Tbl.get g f.1 0 + 1) % 16) 0) x.slotGen
  let s : State := { s with xlt := { x with faults := [], spill := [], atsOut := [], prgOut := [], prgCredits := x.prgCredits + x.prgOut.length, slotGen := gen } }
  { s with pcie := { s.pcie with reads := Tbl.mapV s.pcie.reads (fun _ r => if r.fn = 0 then { r with discard := true } else r), readWait := [] } }

/-- Whether the PF1 controller has a command outstanding. -/
def State.pf1Busy (s : State) : Bool :=
  let mine := fun (b : StorBy) => match b with | .nvme _ _ _ => true | _ => false
  s.stor.waits.any (fun w => mine w.by') || s.stor.held.any (fun w => mine w.by') || !s.stor.aers.isEmpty || !s.stor.cqWait.isEmpty

/-- Host DMA of PF1 is cut (R430): with a command outstanding the controller sets CSTS.CFS. -/
def State.cutPf1 (s : State) : State := if s.pf1Busy then { s with stor := { s.stor with cfs := true } } else s

/-- Host DMA of a function is cut. -/
def State.cut (s : State) (fn : Nat) : State := if fn = 0 then s.cutPf0 else s.cutPf1

/-- The window table at its reset value, its regions no longer named by it (R422). -/
def State.resetWindows (s : State) : State :=
  let named := (s.regs.filter (fun e => R.PCI_WINDOW 0 ≤ e.1 && e.1 < R.PCI_WINDOW 4096 && bit e.2 0 && fld e.2 3 2 = 0)).map (fun e => fld e.2 32 32)
  (named.foldl (fun s h => s.addRef h false) s).resetRange (R.PCI_WINDOW 0) (R.PCI_WINDOW 4096)

/-- CTL_ at its reset values: the admin ring is gone and the lease unarmed; fw_ready shows that firmware runs on (R429). -/
def State.resetCtl (s : State) : State :=
  let ready := s.rf R.CTL_ADMIN_STATUS 2 1
  let s := (s.adminDestroy.resetRange 0x100 0x200).wf R.CTL_ADMIN_STATUS 2 1 ready
  { s with badBases := [], locks := setDel s.locks R.CTL_ADMIN_CTRL }

/-- The configuration of a function at reset: Bus Master Enable, power state, AER, enables (R429). -/
def State.resetConf (s : State) (fn : Nat) : State :=
  let s := (s.wf R.PCI_STATUS (11 + fn) 1 0).wf R.PCI_STATUS (7 + 2 * fn) 2 0
  let p := s.pcie
  if fn = 0 then
    { s with
      pcie := { p with fnMask0 := false, aer0 := 0, atomicEnabled := false, mrrs := 512, cplTime := some 50000000 }
      xlt := { s.xlt with atsEnabled := false, pasidEnabled := false, prgCredits := 0
                          cache := s.xlt.cache.filter (fun c => match Tbl.find s.xlt.asids c.asid with | some a => a.mode ≠ 1 | none => true) } }
  else { s with pcie := { p with fnMask1 := false, aer1 := 0 } }

/-- The PF0 side of a reset (R429): CTL_, the window table and MSI-X at reset, slices ORPHANED, the MC signalled (R60). -/
def State.resetPf0 (s : State) : State :=
  (((s.resetConf 0).resetCtl.resetWindows.resetRange (R.PCI_MSIX 0) (R.PCI_PBA 32)).orphanAll).mcSignal 1 0

/-- The PF1 side of a reset (R352, R429). -/
def State.resetPf1 (s : State) : State :=
  ((s.resetConf 1).resetRange (R.NVM_MSIX1 0) (R.NVM_PBA1 17)).storReset

/-- PERST# or a hot reset reaches the endpoint (R492): both functions cut and reset; `cause` is the bit of RST_CAUSE. BAR4 reads and
syncs that waited have no one to answer; posted writes go on. -/
def State.endpointReset (s : State) (cause : Nat) : State :=
  let s := ((s.cutPf0.cutPf1).resetPf0.resetPf1).wf R.RST_CAUSE cause 1 1
  let p := s.pcie
  let writes := p.held.filter (fun r => match r with | .write _ _ _ => true | _ => false)
  { s with pcie := { p with held := writes, syncWait := [], linkUp := false, link := .l0, retry0 := true, retry1 := true, flr0 := false, flr1 := false } }

/-- The link trains (R490): the width and rate it reaches, and whether in flit mode; 64 GT/s is always flit mode (R419). -/
def State.linkTrain (s : State) (width speed : Nat) (flit : Bool) : State :=
  if 4 < width || speed = 0 || 6 < speed || s.pcie.perst || !s.clk.linksUp || s.rf R.CLK_STATUS 0 1 = 0 then s
  else
    let s := ((s.wf R.PCI_STATUS 0 3 width).wf R.PCI_STATUS 3 3 speed).wf R.PCI_STATUS 6 1 (b2n (flit || speed = 6))
    { s with pcie := { s.pcie with linkUp := true, link := .l0, negWidth := width } }

/-! ## What the main side loses -/

/-- Registers and counters of the always-on domain: configuration, management, clocks, resets and power. -/
def alwaysOn (a : Nat) : Bool := (0x20000 ≤ a && a < 0x40000) || (0x130000 ≤ a && a < 0x140000)

/-- s with the readings of main-side sensors and rails unavailable (R449, R456, R457). -/
def State.sensorsGone (s : State) : State :=
  let s := (List.range 80).foldl (fun s i => if i = 78 then s else s.wr (R.MGT_TEMP i) 0) s
  (List.range 7).foldl (fun s j => s.wr (R.MGT_RAIL (j + 1)) 0) s

/-- s with no hub held by the limiter (PWR_THERM). -/
def State.noThrottle (s : State) : State := s.wf R.PWR_THERM 0 3 0

/-- s with the main rails off (R36, R491 steps 1 to 3, R488): everything on the main side of every die is lost, no completion is
written, and what lies outside the module, in the flash and in the always-on domain stays. -/
def State.loseMain (s : State) (dev : DevPow) : State :=
  let keep := fun (t : Tbl Nat) => t.filter (fun e => alwaysOn e.1)
  State.sensorsGone <| State.noThrottle { State.reset with
    pending := s.pending, timeNs := s.timeNs, freeCtr := s.freeCtr, regs := (keep s.regs : Tbl Nat)
    ctr := keep s.ctr, ctrHost := keep s.ctrHost, ctrMc := keep s.ctrMc
    stor := { Stor.empty with drives := s.stor.drives, recorded := s.stor.recorded }
    pcie := { Pcie.empty with host := s.pcie.host, perst := s.pcie.perst }
    ports := { State.reset.ports with acc := s.ports.acc }
    mgt := { s.mgt with flows := [] }, upd := s.upd, kce := { State.reset.kce with secrets := s.kce.secrets }
    clk := { s.clk with dieResets := [], linksUp := false, frameAcc := [], gated := [], stopped := [], dvfsAt := [], octAt := [] }
    phys := { s.phys with hold := [], dramCap := [] }
    dev := dev, out := s.out }

/-- Meringue (R36): only the always-on domain is left, on its 32.768 kHz oscillator (R450, R481). -/
def State.enterMeringue (s : State) : State :=
  let s := s.loseMain .meringue
  { (s.wr R.CLK_PLL_LOCK 0).wf R.CLK_STATUS 5 1 0 with mgt := { s.mgt with fastClock := false } }

end Sys2Proof.Machine
end

