-- ==== Sys2Proof/Machine/Pcie.lean ====
section
/-! DEFINITION. The commands of 18_pcie: BAR accesses, windows, MSI-X, host reads, Bus Master Enable, resets, power states. -/

namespace Sys2Proof.Machine

/-! ## BARs and windows (R421 to R424) -/

/-- A read of the host ended with no data: Unsupported Request (1) or Completer Abort (2), reported by AER (R434). -/
def State.hostRefuse (s : State) (fn status : Nat) : State :=
  (s.emit (.hostCpl status [])).aer fn (if status = 1 then Aer.unsupported else Aer.cplAbort)

/-- BAR0_ACCESS_BAD (R421): an access of n bytes at offset a of a function's BAR0; `rd` is a read. -/
def execBar0AccessBad (fn a n : Nat) (rd : Bool) (s : State) : Host.Outcome State Fault Refusal :=
  .next (
    let f := min fn 1
    if s.pcie.perst || !s.pcie.linkUp then s
    else if !s.barOk f then (if rd then s.hostRefuse f 1 else s)
    else if (n = 4 || n = 8) && a % n = 0 then s
    else
      let s := s.cnt R.PCI_BAR_BAD
      if rd then s.hostRefuse f 1 else s)

/-- What a window entry lets an access reach (R423). -/
inductive WinPlace
  | region (r : Region) (handle off : Nat)
  | cell (c off : Nat)
  | regs (a : Nat)
deriving DecidableEq, Repr

/-- The check of an access of n bytes at offset w of the window whose entry is e (R423); none is a denied one. -/
def State.winCheck (s : State) (e w n : Nat) (wr : Bool) : Option WinPlace :=
  let h := fld e 32 32
  let at' := fld e 76 52 * 4096 + w
  let sl := fld e 8 6
  if !bit e 0 || !bit e (if wr then 2 else 1) || fld e 128 32 < w + n then none
  else match fld e 3 2 with
    | 0 => match s.region h sl with
      | some r => if r.dataBytes < at' + n || (wr && s.bound h) then none else some (.region r h at')
      | none => none
    | 1 => if 1536 ≤ h || s.cellOwner h ≠ sl || s.cellState h = 0 || 0x180000 < at' + n then none else some (.cell h at')
    | 2 => if sl ≠ 0 || bit e 2 || wr then none
           else match place at' with
             | .regs off => if 0x100000000 < off + n then none else some (.regs off)
             | _ => none
    | _ => none

/-- Whether a posted write of the host is held by the copy guard, so that what follows waits. -/
def State.hostBlocked (s : State) : Bool := s.mem.guardWait.any (fun w => w.owner = hostOwner)

/-- Whether a request of the host waits for a hub: one under warm reset (R495), or one whose cell array sleeps (R35), and that hub's
array, which the request wakes. -/
def State.hostMustWait (s : State) (r : HostReq) : Bool × Option Nat :=
  let at' := fun (e w n : Nat) (wr : Bool) => match s.winCheck e w n wr with
    | some (.region g _ off) => (s.regionWaits g off n, none)
    | some (.cell c _) => (s.cellWaits c, some (c / 128))
    | _ => (false, none)
  match r with
  | .write e w bs => at' e w bs.length true
  | .read e w n => at' e w n false
  | .sync _ => (false, none)

/-- A host request that has passed its check, served. -/
def State.serveWrite (s : State) (e w : Nat) (bs : List Byte) : State :=
  match s.winCheck e w bs.length true with
  | some (.region r _ off) => (s.writeRegion r off bs hostOwner).1
  | some (.cell c off) => (s.writeDpa (cellDpa c off) bs hostOwner).1
  | _ => s

def State.serveRead (s : State) (e w n : Nat) : State :=
  let fails := fun (s : State) => (s.cnt R.PCI_WIN_UE).hostRefuse 0 2
  match s.winCheck e w n false with
  | some (.region r _ off) => match s.readRegion r off n with
    | .ok s bs => s.emit (.hostCpl 0 bs)
    | .fail s _ _ => fails s
  | some (.cell c off) => match s.readDpa (cellDpa c off) n with
    | .ok s bs => s.emit (.hostCpl 0 bs)
    | .fail s _ _ => fails s
  | some (.regs off) =>
    s.emit (.hostCpl 0 ((pieces 4 (n / 4 + 2) off n).map (fun p => leBytes p.2 (s.readReg false (regAddr p.1) p.2))).flatten)
  | none => s.hostRefuse 0 1

def State.serveHost (s : State) (r : HostReq) : State := match r with
  | .write e w bs => s.serveWrite e w bs
  | .read e w n => s.serveRead e w n
  | .sync q => { s with pcie := { s.pcie with syncWait := s.pcie.syncWait ++ [q] } }

/-- The requests of a list served in order as far as no posted write is held and no hub sleeps; the rest waits. -/
def State.drainHost (s : State) : List HostReq → State
  | [] => { s with pcie := { s.pcie with held := [] } }
  | r :: rs =>
    let w := s.hostMustWait r
    if s.hostBlocked then { s with pcie := { s.pcie with held := r :: rs } }
    else if w.1 then
      let s : State := { s with pcie := { s.pcie with held := r :: rs } }
      match w.2 with | some h => s.wakeHub h | none => s
    else (s.serveHost r).drainHost rs

/-- s with a request of the host behind those that wait (R366, R423). -/
def State.hostRequest (s : State) (r : HostReq) : State := s.drainHost (s.pcie.held ++ [r])

/-- BAR4_READ (R423): n bytes at offset `off` of window w. -/
def execBar4Read (w off n : Nat) (s : State) : Host.Outcome State Fault Refusal :=
  .next (
    let e := s.rd (R.PCI_WINDOW w)
    if 4096 ≤ w || s.pcie.perst || !s.pcie.linkUp then s
    else if !s.barOk 0 then s.hostRefuse 0 1
    else if (s.winCheck e off n false).isNone then (s.cnt R.PCI_WIN_DENIED).hostRefuse 0 1
    else s.hostRequest (.read e off n))

/-- BAR4_WRITE (R423). -/
def execBar4Write (w off : Nat) (data : List Byte) (s : State) : Host.Outcome State Fault Refusal :=
  .next (
    let e := s.rd (R.PCI_WINDOW w)
    if 4096 ≤ w || !s.barOk 0 then s
    else if (s.winCheck e off data.length true).isNone then s.cnt R.PCI_WIN_DENIED
    else s.hostRequest (.write e off data))

/-- WIN_SYNC (R424): a write of PCI_WIN_SYNC.seq. -/
def execWinSync (seq : Nat) (s : State) : Host.Outcome State Fault Refusal :=
  .next (if !s.barOk 0 then s else s.hostRequest (.sync (seq % 65536)))

/-- WIN_SYNC_DONE (R424): once the requests before it have completed, `done` takes the sequence number. -/
def execWinSyncDone (s : State) : Host.Outcome State Fault Refusal :=
  .next (
    let s := s.drainHost s.pcie.held
    match s.pcie.syncWait with
    | q :: rest => State.wf { s with pcie := { s.pcie with syncWait := rest } } R.PCI_WIN_SYNC 16 16 q
    | [] => s)

/-! ## MSI-X (R425) -/

/-- MSIX_UNMASK: vector v of a function is unmasked, or with a v past its vectors its Function Mask is cleared. -/
def execMsixUnmask (fn v : Nat) (s : State) : Host.Outcome State Fault Refusal :=
  .next (
    let f := min fn 1
    if v < (if f = 0 then 2048 else 1025) then
      let s := s.wf (msixEntry f v) 96 1 0
      if s.rf (pbaWord f v) (v % 64) 1 = 1 then (s.wf (pbaWord f v) (v % 64) 1 0).msix f v else s
    else State.msixFlush { s with pcie := if f = 0 then { s.pcie with fnMask0 := false } else { s.pcie with fnMask1 := false } } f)

/-! ## The endpoint as requester (R426, R432, R433) -/

/-- HOST_READ_COMPLETION (R432, R433): a completion for `tag` of a function, status 0 with its data, 1 Unsupported Request, 2
Completer Abort, 4 poisoned. One that matches no request is unexpected. -/
def execHostReadCompletion (fn tag status : Nat) (data : List Byte) (s : State) : Host.Outcome State Fault Refusal :=
  .next (match Tbl.find s.pcie.reads tag with
    | none => (s.cnt R.PCI_UNEXP_CPL).aer (min fn 1) Aer.unexpCpl
    | some r =>
      let s' : State := State.readsGo { s with pcie := { s.pcie with reads := Tbl.del s.pcie.reads tag } }
      if r.fn ≠ fn || (status = 0 && data.length ≠ r.len) then (s.cnt R.PCI_UNEXP_CPL).aer (min fn 1) Aer.unexpCpl
      else if r.discard then s'
      else if status = 0 then (s'.hostPut r.addr data).dataArrives r.what r.pos data
      else if status = 1 || status = 2 || status = 4 then
        let s := s'.cnt R.PCI_CPL_ERR
        (if status = 4 then s.aer fn Aer.poisoned else s).dataFails r.what r.len stHostDmaError status
      else s)

/-- Whether the completion timer of a request has expired (R432). -/
def State.cplExpired (s : State) (r : HostRead) : Bool := match s.pcie.cplTime with
  | some t => decide (r.since + t ≤ s.timeNs)
  | none => false

/-- COMPLETION_TIMEOUT (R432). -/
def execCompletionTimeout (tag : Nat) (s : State) : Host.Outcome State Fault Refusal :=
  .next (match Tbl.find s.pcie.reads tag with
    | none => s
    | some r =>
      if !s.cplExpired r then s
      else
      let s : State := State.readsGo { s with pcie := { s.pcie with reads := Tbl.del s.pcie.reads tag } }
      let s := (s.cnt R.PCI_CPL_TIMEOUT).aer r.fn Aer.cplTimeout
      if r.discard then s else s.dataFails r.what r.len stHostDmaError 3)

/-- POISONED_WRITE (R433): a poisoned posted write to a BAR of a function. -/
def execPoisonedWrite (fn : Nat) (s : State) : Host.Outcome State Fault Refusal :=
  .next ((s.cnt R.PCI_POISON_WR).aer (min fn 1) Aer.poisoned)

/-! ## Bus Master Enable (R430) -/

/-- What was held for a function is written in commit order, then its held messages are sent (R430, R425). -/
def State.hostResume (s : State) (fn : Nat) : State :=
  if !s.dmaOk fn then s
  else
    let s := if fn = 0 then s.ring.events.foldl (fun s e => s.writeEvent e.eq) (s.writeHeld (fun _ => true)) else s
    s.msixFlush fn

/-- BME_CLEAR. -/
def execBmeClear (fn : Nat) (s : State) : Host.Outcome State Fault Refusal :=
  .next (
    let f := min fn 1
    if !s.bme f then s else (s.cut f).wf R.PCI_STATUS (11 + f) 1 0)

/-- The completion timeout in ns of a Completion Timeout Value of Device Control 2 (R432): 50 ms by default, else the lower end of its range. -/
def cplTimeOf (v : Nat) : Nat := match v with
  | 1 => 50000 | 2 => 1000000 | 5 => 16000000 | 6 => 65000000 | 9 => 260000000 | 10 => 1000000000 | 13 => 4000000000 | 14 => 17000000000
  | _ => 50000000

/-- BME_SET: `opts` and `prg` are the rest of the function's configuration as the host has it by then: bit 0 AtomicOp Requester
Enable, bit 1 ATS, bit 2 PASID, bit 3 MSI-X Function Mask, bits [6:4] Max Read Request Size, [10:7] Completion Timeout Value, [11]
Completion Timeout Disable; and the page requests it allocates (R258). -/
def execBmeSet (fn opts prg : Nat) (s : State) : Host.Outcome State Fault Refusal :=
  .next (
    let f := min fn 1
    if s.pcie.perst || !s.pcie.linkUp then s
    else
      let p := s.pcie
      let time := if bit opts 11 then none else some (cplTimeOf (fld opts 7 4))
      let s : State :=
        if f = 0 then { s with pcie := { p with atomicEnabled := bit opts 0, fnMask0 := bit opts 3, mrrs := 128 * 2 ^ min 5 (fld opts 4 3), cplTime := time }
                               xlt := { s.xlt with atsEnabled := bit opts 1, pasidEnabled := bit opts 2, prgCredits := min prg 512 - s.xlt.prgOut.length } }
        else { s with pcie := { p with fnMask1 := bit opts 3 } }
      (s.wf R.PCI_STATUS (11 + f) 1 1).hostResume f)

/-! ## Resets (R429, R431, R490, R492, R493) -/

/-- FLR of a function. -/
def execFlr (fn : Nat) (s : State) : Host.Outcome State Fault Refusal :=
  .next (
    let f := min fn 1
    if s.pcie.perst || !s.pcie.linkUp || (if f = 0 then s.pcie.flr0 else s.pcie.flr1) then s
    else
      let s := s.cut f
      let p := s.pcie
      { s with pcie := if f = 0 then { p with flr0 := true, retry0 := true, flrAt0 := s.timeNs } else { p with flr1 := true, retry1 := true, flrAt1 := s.timeNs } })

/-- FLR_DONE: 100 ms after the FLR (R493). -/
def execFlrDone (fn : Nat) (s : State) : Host.Outcome State Fault Refusal :=
  .next (
    let f := min fn 1
    if !(if f = 0 then s.pcie.flr0 else s.pcie.flr1) || s.timeNs < (if f = 0 then s.pcie.flrAt0 else s.pcie.flrAt1) + 100000000 then s
    else
      let s := (if f = 0 then s.resetPf0 else s.resetPf1).wf R.RST_CAUSE (5 + f) 1 1
      let p := s.pcie
      { s with pcie := if f = 0 then { p with flr0 := false, retry0 := false } else { p with flr1 := false, retry1 := false } })

/-- PERST_ASSERT: meringue where both functions are in D3hot (R427). -/
def execPerstAssert (s : State) : Host.Outcome State Fault Refusal :=
  .next (
    if s.pcie.perst then s
    else
      let cold := s.rf R.PCI_STATUS 7 2 = 3 && s.rf R.PCI_STATUS 9 2 = 3
      let s := if s.dev = .run || s.dev = .retention then (if cold then s.enterMeringue else s.endpointReset 3) else s
      { s with pcie := { s.pcie with perst := true, linkUp := false, retry0 := true, retry1 := true } })

/-- PERST_DEASSERT: the link may train (R490), as it then does with the width and rate given. -/
def execPerstDeassert (width speed : Nat) (flit : Bool) (s : State) : Host.Outcome State Fault Refusal :=
  .next (if !s.pcie.perst then s else State.linkTrain { s with pcie := { s.pcie with perst := false, perstAt := s.timeNs } } width speed flit)

/-- HOT_RESET: the link trains again at once. -/
def execHotReset (width speed : Nat) (flit : Bool) (s : State) : Host.Outcome State Fault Refusal :=
  .next (if s.pcie.perst || !s.pcie.linkUp then s else (s.endpointReset 4).linkTrain width speed flit)

/-- CONFIGURATION_RETRY_END (R490): firmware runs and 100 ms have passed since PERST# was deasserted. -/
def execConfigurationRetryEnd (s : State) : Host.Outcome State Fault Refusal :=
  .next (if s.pcie.perst || !s.pcie.linkUp || s.rf R.CTL_ADMIN_STATUS 2 1 = 0 || s.timeNs < s.pcie.perstAt + 100000000 then s
    else { s with pcie := { s.pcie with retry0 := s.pcie.flr0, retry1 := s.pcie.flr1 } })

/-! ## Power states of functions and of the link (R427, R428) -/

/-- D3HOT_ENTRY. PF1 not shut down first takes it as a controller reset; messages that the PBA holds signal PME. -/
def execD3hotEntry (fn : Nat) (s : State) : Host.Outcome State Fault Refusal :=
  .next (
    let f := min fn 1
    if !s.pcie.linkUp || s.rf R.PCI_STATUS (7 + 2 * f) 2 ≠ 0 then s
    else
      let s := s.cut f
      let s := if f = 1 && s.stor.enabled && !s.stor.shut then s.storReset else s
      let s := s.wf R.PCI_STATUS (7 + 2 * f) 2 3
      if (List.range (if f = 0 then 32 else 17)).any (fun i => s.rd (if f = 0 then R.PCI_PBA i else R.NVM_PBA1 i) ≠ 0) then s.pme f else s)

/-- D0_ENTRY. -/
def execD0Entry (fn : Nat) (s : State) : Host.Outcome State Fault Refusal :=
  .next (
    let f := min fn 1
    if s.rf R.PCI_STATUS (7 + 2 * f) 2 ≠ 3 then s else (s.wf R.PCI_STATUS (7 + 2 * f) 2 0).hostResume f)

/-- The LTR value of PF0 in µs (R428): 50 while no ring of the host is ACTIVE, else 10. -/
def State.ltrUs (s : State) : Nat := if s.ring.srs.any (fun r => r.2.at'.loc = 0) then 10 else 50

/-- L1_ENTRY: an idle link enters L1, or the substate that is enabled: 1 L1.1, 2 L1.2; PF0 reports its LTR value. -/
def execL1Entry (sub : Nat) (s : State) : Host.Outcome State Fault Refusal :=
  .next (
    if !s.pcie.linkUp || s.pcie.link ≠ .l0 || !s.pcie.reads.isEmpty then s
    else State.emit { s with pcie := { s.pcie with link := if sub = 1 then .l11 else if sub = 2 then .l12 else .l1 } } (.ltr s.ltrUs))

/-- L1_EXIT. -/
def execL1Exit (s : State) : Host.Outcome State Fault Refusal := .next { s with pcie := { s.pcie with link := .l0 } }

/-- L0P_NARROW: half the width, not below l0p_min. -/
def execL0pNarrow (s : State) : Host.Outcome State Fault Refusal :=
  .next (
    let w := s.rf R.PCI_STATUS 0 3
    if !s.pcie.linkUp || s.rf R.PCI_PM 19 1 = 0 || w ≤ min 4 (s.rf R.PCI_PM 16 3) then s else s.wf R.PCI_STATUS 0 3 (w - 1))

/-- L0P_WIDEN: twice the width, up to what was negotiated. -/
def execL0pWiden (s : State) : Host.Outcome State Fault Refusal :=
  .next (
    let w := s.rf R.PCI_STATUS 0 3
    if !s.pcie.linkUp || s.rf R.PCI_PM 19 1 = 0 || s.pcie.negWidth ≤ w then s else s.wf R.PCI_STATUS 0 3 (w + 1))

end Sys2Proof.Machine
end

