-- ==== Sys2Proof/Machine/DnxOps.lean ====
section
/-! DEFINITION. Denux links as shared operations: flits and retry (R326 to R328), messages and credits (R329 to R332), inbound
accesses (R334), the ends of outbound requests (R336), and leaving ACTIVE (R337 to R339). -/

namespace Sys2Proof.Machine

def State.link (s : State) (n : Nat) : DnxLink := Tbl.get s.ports.links n DnxLink.fresh
def State.setLink (s : State) (n : Nat) (l : DnxLink) : State := { s with ports := { s.ports with links := Tbl.put s.ports.links n l } }
def State.updLink (s : State) (n : Nat) (f : DnxLink → DnxLink) : State := s.setLink n (f (s.link n))

/-- The octet of a link, and whether the link is in peer mode (DNX_LINK). -/
def State.linkOctet (s : State) (n : Nat) : Nat := s.rf (R.DNX_LINK n) 8 5
def State.linkPeer (s : State) (n : Nat) : Bool := s.rf (R.DNX_LINK n) 1 1 = 1
def State.linkOn (s : State) (n : Nat) : Bool := s.rf (R.DNX_LINK n) 0 1 = 1

/-- a reached before b + 2^31, modulo 2^32. -/
def seqDiff (a b : Nat) : Nat := (a % 2 ^ 32 + 2 ^ 32 - b % 2 ^ 32) % 2 ^ 32

/-! ## Credits (R331) -/

/-- The class of a message type: 0 posted, 1 non-posted, 2 completion. -/
def typeClass (ty : Nat) : Nat := if ty = 2 || ty = 4 then 1 else if ty = 3 || ty = 5 then 2 else 0

def Credits.of (c : Credits) (k : Nat) : Nat := match k with
  | 0 => c.p | 1 => c.np | _ => c.c
def Credits.add (c : Credits) (k n : Nat) : Credits := match k with
  | 0 => { c with p := (c.p + n) % 2 ^ 32 } | 1 => { c with np := (c.np + n) % 2 ^ 32 } | _ => { c with c := (c.c + n) % 2 ^ 32 }

/-- Units of a message. -/
def units (m : List Byte) : Nat := m.length / 16

/-- What the N9 advertises on a link. -/
def State.advertised (s : State) (n : Nat) : Credits :=
  let f := fun (lo least : Nat) => max least (s.rf (R.DNX_LINK n) lo 16)
  ⟨f 32 261, f 48 4, f 64 261⟩

/-- Whether a whole message fits in the units left of its class. -/
def DnxLink.room (l : DnxLink) (m : List Byte) : Bool :=
  let k := typeClass (leAt m 0 1)
  decide (units m ≤ seqDiff (l.advert.of k + l.ret.of k) (l.sent.of k))

/-- The next message to send: the first that fits, none passing a posted one that waits (R332). -/
def DnxLink.pickMsg (l : DnxLink) : List (List Byte) → Option (List Byte × List (List Byte))
  | [] => none
  | m :: r => if l.room m then some (m, r) else if typeClass (leAt m 0 1) = 0 then none else (l.pickMsg r).map (fun x => (x.1, m :: x.2))

/-! ## Sending flits (R326 to R328) -/

/-- The units of one new data flit, the rest filler. -/
def DnxLink.fill : Nat → DnxLink → List Byte → DnxLink × List Byte
  | 0, l, acc => (l, fitBytes acc 256)
  | fuel + 1, l, acc =>
    if 256 ≤ acc.length then (l, acc)
    else if l.sending.isEmpty then
      match l.pickMsg l.sendQ with
      | none => (l, fitBytes acc 256)
      | some (m, rest) => DnxLink.fill fuel { l with sendQ := rest, sending := m, sent := l.sent.add (typeClass (leAt m 0 1)) (units m) } acc
    else
      let n := min (256 - acc.length) l.sending.length
      DnxLink.fill fuel { l with sending := l.sending.drop n } (acc ++ l.sending.take n)

/-- The next k data flits: those to be resent, then new ones while the replay buffer of 512 has room. -/
def DnxLink.compose : Nat → DnxLink → DnxLink
  | 0, l => l
  | k + 1, l =>
    match l.resend.bind (fun q => l.replay.find? (fun r => r.1 = q)) with
    | some (q, b) =>
      let next := (q + 1) % 2 ^ 32
      DnxLink.compose k { l with burst := l.burst ++ [(q, true, b)], resend := if next = l.txSeq then none else some next }
    | none =>
      if 512 ≤ l.replay.length then { l with resend := none }
      else
        let r := DnxLink.fill 40 { l with resend := none } []
        let l := r.1
        DnxLink.compose k { l with burst := l.burst ++ [(l.txSeq, false, r.2)], replay := l.replay ++ [(l.txSeq, r.2)], txSeq := (l.txSeq + 1) % 2 ^ 32 }

/-- The link flit of a round position (R327). -/
def State.linkFlit (s : State) (n at' : Nat) (init : Bool) : List Byte :=
  let l := s.link n
  let a := s.advertised n
  let body := leBytes 2 0x444C ++ leBytes 1 at' ++ leBytes 1 (b2n l.nakDue + 2 * b2n init) ++ leBytes 4 (seqDiff l.rxNext 1) ++
    leBytes 4 ((l.burst.head?.map (fun f => f.1)).getD l.txSeq) ++ leBytes 4 l.freed.p ++ leBytes 4 l.freed.np ++ leBytes 4 l.freed.c ++
    fitBytes ((l.burst.map (fun f => leBytes 4 (crc32c f.2.2))).flatten) 64 ++
    fitBytes (if init then leBytes 4 a.p ++ leBytes 4 a.np ++ leBytes 4 a.c ++ leBytes 2 512 ++ leBytes 1 (b2n (s.linkPeer n)) else []) 164
  body ++ leBytes 4 (crc32c body)

/-! ## Leaving ACTIVE (R337 to R339) -/

/-- s with a link and its octet in new states: 0 to 7 of DNX_STATUS, 0 to 4 of PRT_OCTET_STATUS; leaving ACTIVE counts. The lanes are
locked, with FEC lock, from ALIGN on as long as the link is not in RETRAIN or DOWN. -/
def State.linkState (s : State) (n st octet : Nat) : State :=
  let o := s.linkOctet n
  let s : State := if octet = 0 then { s with clk := { s.clk with octAt := Tbl.put s.clk.octAt (dieOf o) s.timeNs } } else s
  let s := if s.dnxState n = 5 && st ≠ 5 then s.cnt (R.PRT_LINK_DOWN o) else s
  ((s.wf (R.DNX_STATUS n) 0 3 st).wf (R.PRT_OCTET_STATUS o) 0 3 octet).wf (R.PRT_OCTET_STATUS o) 11 9 (if 3 ≤ st && st ≤ 5 then 0x1FF else 0)

/-- LINK_ERROR's detail: the cause, and the link index. -/
def linkDetail (n cause : Nat) : Nat := cause + 16 * n

/-- s with an outbound request ended by a failure. -/
def State.reqFails (s : State) (r : DnxReq) (status detail : Nat) : State :=
  match r.what with
  | .read w _ => s.dataFails w r.len status detail
  | .landing sr tag => s.landingFails sr tag status detail
  | .rxAtomic qn psn => s.dataFails (.rxAtomic qn psn) 8 status detail
  | .eqIrq _ => s

/-- Whether a request fetches a ring: it waits for the link to come back. -/
def DnxReq.ofRing (r : DnxReq) : Bool := match r.what with
  | .read (.ring _ _) _ => true
  | _ => false

/-- s with everything that depends on a link ended as R339 says: requests fail, writes not landed fail, ring fetches wait and are
asked for again. -/
def State.linkLost (s : State) (n : Nat) : State :=
  let l := s.link n
  let keep := l.reqs.filter (fun r => r.ofRing && !r.reported)
  let lost := l.reqs.filter (fun r => !r.ofRing && !r.reported)
  let ask := fun (r : DnxReq) => dnxMsg 2 0 r.tag r.len r.addr 0 0 []
  let irqs := (lost.filter (fun r => match r.what with | .eqIrq _ => true | _ => false)).length + (l.sendQ.filter (fun m => leAt m 0 1 = 7)).length
  let s := s.setLink n { DnxLink.fresh with held := l.held, sendQ := keep.map ask, reqs := keep.map (fun r => { r with data := [] }), nextTag := l.nextTag }
  let s := if irqs = 0 then s else s.cnt (R.DNX_IRQ_DROP n) irqs
  let d := linkDetail n 3
  let s := lost.foldl (fun s r => s.reqFails r stLinkError d) s
  let mine := s.pcie.wroteLinks.filter (fun w => w.2.2.1 = n)
  let s : State := { s with pcie := { s.pcie with wroteLinks := s.pcie.wroteLinks.filter (fun w => w.2.2.1 ≠ n) } }
  mine.foldl (fun s w =>
    if 65536 ≤ w.1 then (match (Tbl.find s.tmt.qps (w.1 - 65536)).bind (fun q => q.rxMsgs.find? (fun m => m.msn % 65536 = w.2.1)) with
      | some m => s.answerError (w.1 - 65536) 3 m.psn0
      | none => s)
    else match s.job w.1 w.2.1 with
      | some j => s.jobStops j stLinkError d
      | none => s) s

/-- s with a link DOWN. -/
def State.linkDown (s : State) (n : Nat) : State := ((s.linkState n 7 4).linkLost n).mcSignal 6 n

/-- s with a link in RETRAIN; sequence numbers, credits and replay buffers stay (R338). -/
def State.retrain (s : State) (n : Nat) : State :=
  ((s.linkState n 6 1).cnt (R.DNX_RETRAINS n)).updLink n (fun l => { l with naks := 0, badFlits := 0, burst := [], expect := [], since := s.timeNs })

/-! ## Inbound messages (R329, R330, R334) -/

/-- The fields of a message. -/
def mType (m : List Byte) : Nat := leAt m 0 1
def mFlags (m : List Byte) : Nat := leAt m 1 1
def mTag (m : List Byte) : Nat := leAt m 2 2
def mLen (m : List Byte) : Nat := leAt m 4 2
def mAddr (m : List Byte) : Nat := leAt m 8 8
def mOperand (m : List Byte) : Nat := leAt m 16 8
def mCompare (m : List Byte) : Nat := leAt m 24 8
/-- Bytes of data a message carries after its header. -/
def mData (ty len : Nat) : Nat := if ty = 1 || ty = 3 || ty = 8 then len else 0

/-- Whether a message is well formed and allowed on a link (R330). -/
def msgOk (peer : Bool) (m : List Byte) : Bool :=
  let ty := mType m
  let f := mFlags m
  let len := mLen m
  let inLen := fun (lo hi : Nat) => decide (lo ≤ len) && decide (len ≤ hi)
  let plain := mOperand m = 0 && mCompare m = 0
  let addrOk := decide (mAddr m < 2 ^ 57)
  m.length = 32 + roundUp (mData ty len) 16 && leAt m 6 2 = 0 &&
  (match ty with
    | 1 => !peer && f = 0 && mTag m = 0 && inLen 1 4096 && addrOk && plain
    | 2 => !peer && f = 0 && inLen 0 4096 && addrOk && plain
    | 3 => !peer && f / 8 = 0 && fld f 1 2 ≠ 3 && inLen 0 4096 && addrOk && plain
    | 4 => !peer && f < 3 && len = 0 && addrOk && (f = 2 || mCompare m = 0)
    | 5 => !peer && f / 8 = 0 && f % 2 = 0 && fld f 1 2 ≠ 3 && len = 0 && mAddr m = 0 && mCompare m = 0
    | 6 => !peer && f = 0 && mTag m = 0 && len = 0 && mAddr m = 0 && mCompare m < 65536
    | 8 => peer && f = 0 && mTag m = 0 && inLen 32 4136 && mAddr m = 0 && plain
    | 9 => peer && f = 0 && mTag m = 0 && len = 0 && mAddr m = 0 && mCompare m = 0
    | _ => false)

/-- A number that stands for an inbound window as the owner of a waiting write. -/
def windowOwner (w : Nat) : Nat := 2 ^ 45 + w

/-- The pool bytes an inbound access names (R334): the window, its region, the region offset. `perm` is the permission's bit. -/
def State.inbound (s : State) (n a len perm : Nat) : Option (Nat × Region × Nat) :=
  (List.range 64).findSome? fun w =>
    let e := s.rd (R.DNX_IN_WINDOW (n * 64 + w))
    if !windowHolds e (fld e 4 6) a len perm then none
    else match s.region (fld e 128 32) (fld e 4 6) with
      | some r =>
        let off := fld e 192 64 + (a - fld e 12 52 * 4096)
        if r.dataBytes < off + len || (perm ≠ 1 && s.bound (fld e 128 32)) then none else some (n * 64 + w, r, off)
      | none => none

/-- READ_CPL, ATOMIC_CPL with a status. -/
def readCpl (tag status : Nat) (data : List Byte) : List Byte := dnxMsg 3 (1 + 2 * status) tag data.length 0 0 0 data
def atomicCpl (tag status old : Nat) : List Byte := dnxMsg 5 (2 * status) tag 0 0 old 0 []

/-- An inbound WRITE. -/
def State.dnxWriteIn (s : State) (n : Nat) (m : List Byte) : State :=
  match s.inbound n (mAddr m) (mLen m) 2 with
  | none => s.cnt (R.DNX_IN_DENIED n)
  | some (w, r, off) => (s.writeRegion r off (bsub m 32 (mLen m)) (windowOwner w)).1

/-- An inbound READ_REQ: answered by one READ_CPL, which takes any length a request has. -/
def State.dnxReadIn (s : State) (n : Nat) (m : List Byte) : State :=
  match s.inbound n (mAddr m) (mLen m) 1 with
  | none => (s.cnt (R.DNX_IN_DENIED n)).dnxSend n (readCpl (mTag m) 1 [])
  | some (_, r, off) => match s.readRegion r off (mLen m) with
    | .ok s bs => s.dnxSend n (readCpl (mTag m) 0 bs)
    | .fail s _ _ => s.dnxSend n (readCpl (mTag m) 2 [])

/-- An inbound ATOMIC_REQ, 8 bytes at an aligned address (log entry 66). -/
def State.dnxAtomicIn (s : State) (n : Nat) (m : List Byte) : State :=
  match if mAddr m % 8 = 0 then s.inbound n (mAddr m) 8 3 else none with
  | none => (s.cnt (R.DNX_IN_DENIED n)).dnxSend n (atomicCpl (mTag m) 1 0)
  | some (w, r, off) => match s.readRegion r off 8 with
    | .fail s _ _ => s.dnxSend n (atomicCpl (mTag m) 2 0)
    | .ok s bs =>
      let old := leNat bs
      let new := match mFlags m with
        | 0 => old + mOperand m
        | 1 => mOperand m
        | _ => if old = mCompare m then mOperand m else old
      match s.writeRegion r off (leBytes 8 new) (windowOwner w) with
      | (s, _, none) => s.dnxSend n (atomicCpl (mTag m) 0 old)
      | (s, _, some _) => s.dnxSend n (atomicCpl (mTag m) 2 0)

/-- s with an outbound request answered in full (R333, R336). -/
def State.reqDone (s : State) (n : Nat) (r : DnxReq) (bs : List Byte) : State :=
  match r.what with
  | .read w pos => s.dataArrives w pos bs
  | .landing sr tag => s.landed n sr tag
  | .rxAtomic qn psn => s.dataArrives (.rxAtomic qn psn) 0 bs
  | .eqIrq q => match Tbl.find s.ring.eqs q with
    | some e => if s.dnxState n = 7 then s.cnt (R.DNX_IRQ_DROP n) else s.dnxSend n (dnxMsg 7 0 0 0 0 e.vector 0 [])
    | none => s

/-- A READ_CPL or ATOMIC_CPL (R336): data in increasing offsets, or a status; one for no request, or after its timeout, is late. -/
def State.dnxCplIn (s : State) (n : Nat) (m : List Byte) : State :=
  let l := s.link n
  let st := fld (mFlags m) 1 2
  match l.reqs.find? (fun r => r.tag = mTag m) with
  | none => s.cnt (R.DNX_LATE_CPL n)
  | some r =>
    let drop := fun (s : State) => s.updLink n (fun l => { l with reqs := l.reqs.filter (fun x => x.tag ≠ r.tag) })
    let last := mType m = 5 || bit (mFlags m) 0
    if r.reported then (if last then drop s else s).cnt (R.DNX_LATE_CPL n)
    else if st = 1 then (drop s).reqFails r stAddressError 0
    else if st = 2 then (drop s).reqFails r stLinkError (linkDetail n 1)
    else if mType m = 5 then (drop s).reqDone n r (leBytes 8 (mOperand m))
    else
      let data := r.data ++ bsub m 32 (mLen m)
      if mAddr m ≠ r.data.length || r.len < data.length || (bit (mFlags m) 0 && data.length ≠ r.len) then s.cnt (R.DNX_BAD_MSG n)
      else if bit (mFlags m) 0 then (drop s).reqDone n r data
      else s.updLink n (fun l => { l with reqs := l.reqs.map (fun x => if x.tag = r.tag then { x with data := data } else x) })

/-- An inbound DOORBELL (R42, R334). -/
def State.dnxDoorbellIn (s : State) (n : Nat) (m : List Byte) : State :=
  let page := mCompare m
  let ok := match Tbl.find s.ring.srs page with
    | some r => (List.range 64).any (fun w => let e := s.rd (R.DNX_IN_WINDOW (n * 64 + w)); bit e 0 && fld e 4 6 = r.slice)
    | none => false
  s.srDoorbell page true ok (mOperand m)

/-- An inbound TMT packet (R260, R265). -/
def State.dnxTmtIn (s : State) (m : List Byte) (parity : Bool) : State :=
  match parsePkt (bsub m 32 (mLen m)) false with
  | some p => s.tmtArrive p parity
  | none => s.cnt R.TMT_RX_BAD

/-- A neighbour's beat marker (R168, R171). -/
def State.dnxBeatIn (s : State) (n : Nat) (m : List Byte) : State :=
  if Config.domainOf m % 2 ^ 16 ≠ s.rf R.TLN_DOMAIN 0 16 then s.cnt R.TLN_STALE_MAP
  else { s with tln := { s.tln with beats := Tbl.put s.tln.beats n (mOperand m, s.timeNs) } }

/-- One message of the far end, whose units are freed, served. -/
def State.dnxServe (s : State) (n : Nat) (m : List Byte) (parity : Bool) : State :=
  let s := s.updLink n (fun l => { l with freed := l.freed.add (typeClass (mType m)) (units m) })
  if !msgOk (s.linkPeer n) m then s.cnt (R.DNX_BAD_MSG n)
  else match mType m with
    | 1 => s.dnxWriteIn n m
    | 2 => s.dnxReadIn n m
    | 3 => s.dnxCplIn n m
    | 4 => s.dnxAtomicIn n m
    | 5 => s.dnxCplIn n m
    | 6 => s.dnxDoorbellIn n m
    | 8 => s.dnxTmtIn m parity
    | _ => s.dnxBeatIn n m

/-- Whether an inbound write or atomic of link n waits on the copy guard (R366). -/
def State.dnxHeld (s : State) (n : Nat) : Bool :=
  s.mem.guardWait.any (fun g => decide (windowOwner (n * 64) ≤ g.owner) && decide (g.owner < windowOwner (n * 64 + 64)))

/-- Where an inbound atomic meets a guarded page: its window, and a DPA there. -/
def State.dnxAtomicMeets (s : State) (n : Nat) (m : List Byte) : Option (Nat × Nat) :=
  if mType m ≠ 4 || mAddr m % 8 ≠ 0 then none
  else match s.inbound n (mAddr m) 8 3 with
    | some (w, r, off) => if s.guarded (r.dpa off) then some (w, r.dpa off) else none
    | none => none

/-- The messages of a list served in order, as far as no earlier one waits on the copy guard; the rest waits (R332, R366). -/
def State.dnxDrain (s : State) (n : Nat) : List (List Byte × Bool) → State
  | [] => s.updLink n (fun l => { l with held := [] })
  | m :: ms =>
    let hold := fun (s : State) => s.updLink n (fun l => { l with held := m :: ms })
    if s.dnxHeld n then hold s
    else match s.dnxAtomicMeets n m.1 with
      | some (w, a) => hold (s.guardMark a (windowOwner w))
      | none => (s.dnxServe n m.1 m.2).dnxDrain n ms

/-- One message of the far end, behind those that wait. -/
def State.dnxMessage (s : State) (n : Nat) (m : List Byte) (parity : Bool) : State := s.dnxDrain n ((s.link n).held ++ [(m, parity)])

/-- s with the inbound messages served that waited on the copy guard and wait no longer. -/
def State.dnxRelease (s : State) : State :=
  (List.range 16).foldl (fun s n => if (s.link n).held.isEmpty then s else s.dnxDrain n (s.link n).held) s

/-- The whole messages at the front of a byte string of units, and what is left; a unit whose first byte is 0 at a message
boundary makes the rest of its flit filler. -/
def unpack : Nat → List Byte → List (List Byte) × List Byte
  | 0, bs => ([], bs)
  | fuel + 1, bs =>
    if bs.isEmpty || leAt bs 0 1 = 0 then ([], [])
    else if bs.length < 32 then ([], bs)
    else
      let need := 32 + roundUp (mData (mType bs) (mLen bs)) 16
      if bs.length < need then ([], bs)
      else
        let r := unpack fuel (bs.drop need)
        (bs.take need :: r.1, r.2)

end Sys2Proof.Machine
end

