-- ==== Sys2Proof/Machine/FlowOps.lean ====
section
/-! DEFINITION. Flow records as shared operations: tracking, ending and export of flows (R462, R463). -/

namespace Sys2Proof.Machine

def FlowDie.none : FlowDie := { flows := [], seen := [], recs4 := [], recs6 := [], seqNo := 0, at4 := 0, at6 := 0, tmplAt := 0 }
def State.flowDie (s : State) (p : Nat) : FlowDie := Tbl.get s.mgt.flows p FlowDie.none
def State.setFlowDie (s : State) (p : Nat) (d : FlowDie) : State := { s with mgt := { s.mgt with flows := Tbl.put s.mgt.flows p d } }
def State.flowOn (s : State) (p : Nat) : Bool := s.rf (R.MGT_FLOW p) 0 1 = 1

/-- Flows a die's cache holds (20_management, "Flow records"). -/
def flowRoom : Nat := 65536

/-- A number of ns of the time base as a dateTimeNanoseconds: seconds and a 32-bit fraction. -/
def dateNs (t : Nat) : List Byte := beBytes 4 (t / 10 ^ 9) ++ beBytes 4 (t % 10 ^ 9 * 2 ^ 32 / 10 ^ 9)

/-- The key of a flow (R462): sub-port, version, addresses, protocol, ports. -/
def flowKey (port : Nat) (bytes : List Byte) (h : Nat × Nat) : List Byte × Nat :=
  let v6 := h.1 = 4
  let b := bytes.drop h.2
  let proto := leAt b (if v6 then 6 else 9) 1
  let ports := b.drop (if v6 then 40 else leAt b 0 1 % 16 * 4)
  let addrs := if v6 then bsub b 8 32 else bsub b 12 8
  ([BitVec.ofNat 8 port, if v6 then 6 else 4] ++ addrs ++ leBytes 1 proto ++
    (if proto = 6 || proto = 17 || proto = 132 then fitBytes ports 4 else zeroBytes 4),
   if v6 then 40 + beNat (bsub b 4 2) else beNat (bsub b 2 2))

/-- The data record of a flow (R463): the elements of template 256 or 257 in order. -/
def Flow.record (f : Flow) (reason : Nat) : List Byte :=
  let n := if f.v6 then 16 else 4
  let k := f.key.drop 2
  bsub k 0 (2 * n) ++ bsub k (2 * n + 1) 4 ++ bsub k (2 * n) 1 ++ beBytes 4 (leAt f.key 0 1) ++ beBytes 8 f.packets ++ beBytes 8 f.octets ++
  dateNs f.first ++ dateNs (max f.first f.last) ++ beBytes 1 reason

/-- An IPFIX message of one set (RFC 7011). -/
def State.ipfix (s : State) (p set : Nat) (body : List Byte) : List Byte :=
  beBytes 2 10 ++ beBytes 2 (20 + body.length) ++ beBytes 4 (s.timeNs / 10 ^ 9) ++ beBytes 4 (s.flowDie p).seqNo ++
  beBytes 4 (s.rf R.TLN_DOMAIN 16 10 * 4 + p) ++ beBytes 2 set ++ beBytes 2 (4 + body.length) ++ body

/-- s with an IPFIX message sent: into the delivery queue, or as UDP to the collector (R463); a refused one is lost. -/
def State.flowSend (s : State) (p set records : Nat) (body : List Byte) : State :=
  let r := s.rd (R.MGT_FLOW p)
  let msg := s.ipfix p set body
  let res : State × Bool :=
    if bit r 2 then
      let q := fld r 64 12
      let n := s.rf (R.TSH_QUEUE p q) 0 6
      let src := leBytes 16 (fld r 256 128)
      let coll := leBytes 16 (fld r 128 128)
      let v6 := !isV4 coll
      let frame := ethHeader (fld r 384 48) (Config.portMac (portByte (p * 8 + n / 8) (n % 8)) % 2 ^ 48) none v6 ++
        ipUdp v6 0 0 src coll (fld r 96 16) (fld r 96 16) msg ++ msg
      s.takeIn p q (QFrame.own frame) false
    else if dqOk (s.rd (R.PKT_DQ p (fld r 48 10))) then s.dqPut p (fld r 48 10) 0 0 0 msg
    else (s, false)
  let s := res.1.setFlowDie p { res.1.flowDie p with seqNo := ((res.1.flowDie p).seqNo + records) % 2 ^ 32 }
  if res.2 then (s.cnt R.MGT_FLOW_RECORDS records).cnt R.MGT_FLOW_MSGS else s.cnt R.MGT_FLOW_DROP

/-- Records of a template a message of 1,400 B holds. -/
def flowRecs (v6 : Bool) : Nat := if v6 then 18 else 27

/-- s with the records gathered for a template sent, if there are any. -/
def State.flowFlush (s : State) (p : Nat) (v6 : Bool) : State :=
  let d := s.flowDie p
  let rs := if v6 then d.recs6 else d.recs4
  if rs.isEmpty then s
  else (s.setFlowDie p (if v6 then { d with recs6 := [] } else { d with recs4 := [] })).flowSend p (if v6 then 257 else 256) rs.length rs.flatten

/-- s with the record of an ended flow; a full message goes out. -/
def State.flowEnd (s : State) (p : Nat) (f : Flow) (reason : Nat) : State :=
  let d := s.flowDie p
  let r := f.record reason
  let d := if f.v6 then { d with recs6 := d.recs6 ++ [r], at6 := if d.recs6.isEmpty then s.timeNs else d.at6 }
           else { d with recs4 := d.recs4 ++ [r], at4 := if d.recs4.isEmpty then s.timeNs else d.at4 }
  let s := s.setFlowDie p d
  if flowRecs f.v6 ≤ (if f.v6 then d.recs6 else d.recs4).length then s.flowFlush p f.v6 else s

/-- The two template records (R463). -/
def flowTemplate (v6 : Bool) : List Byte :=
  let els : List (Nat × Nat) := (if v6 then [(27, 16), (28, 16)] else [(8, 4), (12, 4)]) ++ [(7, 2), (11, 2), (4, 1), (10, 4), (2, 8), (1, 8), (156, 8), (157, 8), (136, 1)]
  beBytes 2 (if v6 then 257 else 256) ++ beBytes 2 11 ++ (els.map (fun e => beBytes 2 e.1 ++ beBytes 2 e.2)).flatten

/-- s with both templates sent, as one template set. -/
def State.flowTemplates (s : State) (p : Nat) : State := (s.setFlowDie p { s.flowDie p with tmplAt := s.timeNs }).flowSend p 2 0 (flowTemplate false ++ flowTemplate true)

/-- s with a received frame tracked (R462). -/
def State.flowTrack (s : State) (p o j : Nat) (bytes : List Byte) (heads : List (Nat × Nat)) (tmt : Bool) : State :=
  match heads.find? (fun h => h.1 ≠ 1 && h.1 ≠ 2) with
  | none => s
  | some h =>
    let r := s.rd (R.MGT_FLOW p)
    if !bit r 0 || (tmt && !bit r 1) || (h.1 ≠ 3 && h.1 ≠ 4) then s
    else
      let d := s.flowDie p
      let n := subOf o j
      let seen := Tbl.get d.seen n 0 + 1
      let s := s.setFlowDie p { d with seen := Tbl.put d.seen n seen }
      if seen % 2 ^ fld r 8 4 ≠ 0 then s
      else
        let k := flowKey (portByte o j) bytes h
        match takeFirst (fun (f : Flow) => f.key = k.1) d.flows with
        | some (f, rest) =>
          let f := { f with packets := f.packets + 1, octets := f.octets + k.2, last := s.timeNs }
          s.setFlowDie p { s.flowDie p with flows := rest ++ [f] }
        | none =>
          let s := if d.flows.length < flowRoom then s else match d.flows with
            | [] => s
            | f :: rest => State.cnt ((s.setFlowDie p { s.flowDie p with flows := rest }).flowEnd p f 5) R.MGT_FLOW_EVICT
          let f : Flow := { key := k.1, v6 := h.1 = 4, packets := 1, octets := k.2, first := s.timeNs, last := s.timeNs }
          s.setFlowDie p { s.flowDie p with flows := (s.flowDie p).flows ++ [f] }

end Sys2Proof.Machine
end

