-- ==== Sys2Proof/Machine/Packets.lean ====
section
/-! DEFINITION. The packet path (R298 to R320): receiving a frame, classification, transmit selection, priority flow control, the
parse graph, shapers and meters. -/

namespace Sys2Proof.Machine

/-! ## Classification (R305 to R309) -/

/-- What classification has gathered of a frame: pass word, edits to be applied and how many the frame has had, meters named and
how many of them have run, their marks, class, mirror session. -/
structure Cls where
  word : Nat
  edits : List Edit
  nEdits : Nat
  meters : List Nat
  metered : Nat
  marks : Marked
  cls : Option Nat
  mirror : Option Nat

def Cls.start : Cls :=
  { word := 0, edits := [], nEdits := 0, meters := [], metered := 0, cls := none, mirror := none
    marks := { colour := 0, met := false, eligible := false, dscp := none, pcp := none, cls := none, drop := false } }

/-- How a pass ends. -/
inductive Ends
  | forward (q : Nat)
  | deliver (q : Nat)
  | tmt
  | control
  | drop
  | recirculate
  | miss
  | bad
  | ue
deriving DecidableEq, Repr

/-- The key of a lookup, none when it is longer than 32 bytes (R306). -/
def tableKey (e : Nat) (mdata : List Byte) (word : Nat) : Option (List Byte) :=
  let k := ((List.range 8).map (fun i => bsub mdata (dby e (16 + 2 * i) 1) (dby e (17 + 2 * i) 1))).flatten ++ (if bit e 3 then leBytes 8 word else [])
  if 32 < k.length then none else some k

/-- The port buffer of a die in the DPA map, and where its share of the on-chip table entries starts (log entry 65). -/
def onChipTables (p : Nat) : Nat := 0x800200000000 + p * 0x4000000 + 42 * 2 ^ 20

/-- What a table gives: an action and whether it is that of a miss, a lookup that drops the frame, an uncorrectable entry. -/
inductive Look
  | act (a : Nat)
  | bad
  | ue

/-- Reads entry idx of a table. -/
def State.tableEntry (s : State) (p e idx : Nat) : State × Option (Except Unit Nat) :=
  let r := if bit e 2 then (match s.region (dby e 4 4) 0 with
      | some g => if !g.ecc then (s, none, false)
        else (match s.readRegion g (dby e 8 8 + 64 * idx) 64 with | .ok s bs => (s, some bs, false) | .fail s st _ => (s, none, decide (st = stMemUncorrectable)))
      | none => (s, none, false))
    else if 65536 ≤ dby e 8 8 + idx then (s, none, false)
    else (match s.readDpa (onChipTables p + 64 * (dby e 8 8 + idx)) 64 with | .ok s bs => (s, some bs, false) | .fail s st _ => (s, none, decide (st = stMemUncorrectable)))
  match r with
  | (s, some bs, _) => (s, some (.ok (leNat bs)))
  | (s, none, true) => (s, some (.error ()))
  | (s, none, false) => (s, none)

/-- Tries entries in order until one hits. -/
def State.tryEntries (s : State) (p e : Nat) (hit : Nat → Bool) : List Nat → State × Look
  | [] => (s, .act (dby e 32 24))
  | i :: is => match s.tableEntry p e i with
    | (s, none) => (s, .bad)
    | (s, some (.error _)) => (s, .ue)
    | (s, some (.ok v)) => if hit v then (s, .act (dby v 40 24)) else s.tryEntries p e hit is

/-- A lookup in table t (R306, R307). -/
def State.lookup (s : State) (p t : Nat) (mdata : List Byte) (word : Nat) : State × Look :=
  let e := s.rd (R.PKT_TABLE p t)
  let lg := fld e 8 5
  if !bit e 0 then (s, .bad)
  else match tableKey e mdata word with
    | none => (s, .bad)
    | some k =>
      if bit e 1 then s.tryEntries p e (fun v => bit v 0) [leAt (fitBytes k 4) 0 4 % 2 ^ lg]
      else if lg < 4 || 20 < lg then (s, .bad)
      else s.tryEntries p e (fun v => bit v 0 && fld v 8 5 = t && dby v 8 32 = leNat k) ((List.range 4).map (fun w => w * 2 ^ lg + crc32c (leBytes 4 w ++ k) % 2 ^ lg))

/-- Fields of an action. -/
def aVerdict (a : Nat) : Nat := dby a 0 1
def aNext (a : Nat) : Nat := fld a 56 4
def aHdr (a : Nat) : Nat := fld a 60 4

/-- Whether a queue exists: its sub-port does. -/
def State.queueOk (s : State) (p q : Nat) : Bool := let n := s.rf (R.TSH_QUEUE p q) 0 6; s.ethPort (p * 8 + n / 8) (n % 8)

/-- Whether an action drops its frame (R309). -/
def State.actionBad (s : State) (p a : Nat) : Bool :=
  let t := fld a 16 14
  decide (6 < aVerdict a) || decide (8 < aHdr a) || (bit a 11 && (dby a 8 1 = 0 || decide (7 < dby a 8 1))) || (bit a 10 && bit a 11) ||
  (aVerdict a = 0 && decide (12 ≤ aNext a) && aNext a ≠ 15) ||
  (aVerdict a = 1 && !s.queueOk (t / 4096) (t % 4096)) || (aVerdict a = 2 && !dqOk (s.rd (R.PKT_DQ p (t % 1024))))

/-- What an action records. -/
def Cls.record (c : Cls) (a : Nat) : Cls :=
  let es := (if aHdr a ≠ 0 then [Edit.hdr (aHdr a) (fld a 80 12)] else []) ++ (if bit a 11 then [Edit.rewrite (dby a 8 1) (dby a 16 8)] else []) ++ (if bit a 12 then [Edit.ttl] else [])
  { c with word := if bit a 10 then dby a 16 8 else c.word
           edits := c.edits ++ es, nEdits := c.nEdits + es.length
           meters := if bit a 9 && c.meters.length < 2 then c.meters ++ [fld a 32 14] else c.meters
           cls := if bit a 13 then some (fld a 52 3) else c.cls
           mirror := if bit a 8 then some (fld a 48 4) else c.mirror }

/-- One pass from table t with so many lookups left; md gives the metadata for a pass word. -/
def State.pass (s : State) (p : Nat) (multi : Bool) (md : Nat → List Byte) : Nat → Nat → Cls → State × Cls × Ends
  | 0, _, c => (s, c, .bad)
  | left + 1, t, c =>
    match s.lookup p t (md c.word) c.word with
    | (s, .bad) => (s, c, .bad)
    | (s, .ue) => (s, c, .ue)
    | (s, .act a) =>
      let c' := c.record a
      if s.actionBad p a || 4 < c'.nEdits then (s, c, .bad)
      else
        let t := fld a 16 14
        match aVerdict a with
        | 1 => (s, c', .forward t)
        | 2 => (s, c', .deliver (t % 1024))
        | 3 => (s, c', .tmt)
        | 4 => (s, c', .control)
        | 5 => (s, c', .drop)
        | 6 => (s, c', .recirculate)
        | _ => if !multi then (s, c', .bad) else if aNext a = 15 then (s, c', .miss) else s.pass p multi md left (aNext a) c'

/-- The meters of a frame that have not run, in order; a drop ends them. -/
def State.runMeters (s : State) (p n : Nat) (bytes : List Byte) (heads : List (Nat × Nat)) : List Nat → Marked → State × Marked
  | [], k => (s, k)
  | i :: is, k => if k.drop then (s, k) else
    let r := s.meter p i n bytes heads k
    r.1.runMeters p n bytes heads is r.2

/-! ## Receiving a frame (R298) -/

/-- s with the TMT packet of a frame handed to the TMT engine (R274, R304): the payload of the UDP header after the first IP
header; an IPv4 header with options is malformed (R259). -/
def State.toTmt (s : State) (bytes : List Byte) (heads : List (Nat × Nat)) (parity : Bool) : State :=
  match heads.find? (fun h => h.1 = 3 || h.1 = 4), heads.find? (fun h => h.1 = 5) with
  | some ip, some u =>
    let n := beNat (bsub bytes (u.2 + 4) 2)
    let tos := if ip.1 = 3 then leAt bytes (ip.2 + 1) 1 else beNat (bsub bytes ip.2 2) / 16 % 256
    if ip.1 = 3 && leAt bytes ip.2 1 % 16 ≠ 5 then s.cnt R.TMT_RX_BAD
    else match parsePkt (bsub bytes (u.2 + 8) (n - 8)) (decide (tos % 4 = 3)) with
      | some q => s.tmtArrive q parity
      | none => s.cnt R.TMT_RX_BAD
  | _, _ => s.cnt R.TMT_RX_BAD

/-- Whether a parsed frame is TMT-terminated (R304). -/
def State.tmtTerminated (s : State) (p n : Nat) (bytes : List Byte) (r : Parsed) : Bool :=
  match r.heads.dropWhile (fun h => h.1 ≠ 3 && h.1 ≠ 4) with
  | ip :: u :: _ =>
    let dst := if ip.1 = 3 then zeroBytes 10 ++ [0xFF, 0xFF] ++ bsub bytes (ip.2 + 16) 4 else bsub bytes (ip.2 + 24) 16
    u.1 = 5 && beNat (bsub bytes (u.2 + 2) 2) = s.udpPort &&
      (List.range 8).any (fun i => let a := leBytes 16 (s.rd (R.PKT_LOCAL p (n * 8 + i))); !allZero a && a = dst)
  | _ => false

/-- The class of a frame (R309, R319). -/
def frameClass (bytes : List Byte) (heads : List (Nat × Nat)) (c : Cls) : Nat :=
  (c.marks.cls.orElse fun _ => c.cls.orElse fun _ => ((outerTci bytes heads).map (fun t => fld t 13 3)).orElse fun _ => (outerDscp bytes heads).map (fun d => d / 8)).getD 0

/-- s with the mirror copy of a frame as received (R311). -/
def State.mirror (s : State) (p : Nat) (bytes : List Byte) (session : Option Nat) : State :=
  match session with
  | none => s
  | some i =>
    let e := s.rd (R.PKT_MIRROR p i)
    let n := min 9216 (max 64 (fld e 16 14))
    if s.queueOk (fld e 12 2) (fld e 0 12) then (s.takeIn (fld e 12 2) (fld e 0 12) (QFrame.own (bytes.take n)) false).1 else s

/-- A frame as received, and where it stands: octet, sub-port, its bytes and the parse of the bytes now, the time it came. -/
structure Arrived where
  o : Nat
  j : Nat
  orig : List Byte
  bytes : List Byte
  parsed : Parsed
  time : Nat
  parity : Bool

def Arrived.p (a : Arrived) : Nat := dieOf a.o
def Arrived.n (a : Arrived) : Nat := subOf a.o a.j
def Arrived.md (a : Arrived) (pass colour word : Nat) : List Byte := metadata a.o a.j a.bytes a.parsed false pass colour word a.time

/-- The end of a frame's classification, recirculation apart. -/
def State.classified (s : State) (a : Arrived) (pass : Nat) (c : Cls) (e : Ends) : State :=
  let p := a.p
  let md := a.md pass c.marks.colour c.word
  let k := frameClass a.bytes a.parsed.heads c
  let deliver := fun (s : State) (q : Nat) => if dqOk (s.rd (R.PKT_DQ p q)) then (s.dqPut p q k a.parsed.off c.word a.bytes).1 else s.cnt (R.PKT_DQ_FULL p)
  match e with
  | .bad => s.cnt (R.PKT_BAD_ACTION p)
  | .ue => s.cnt (R.PKT_TABLE_UE p)
  | e =>
    let s := s.mirror p a.orig c.mirror
    match e with
    | .forward t =>
      if c.marks.drop then s.cnt (R.TSH_COLOUR_DROP p)
      else (s.takeIn (t / 4096) (t % 4096) { bytes := a.bytes, heads := a.parsed.heads, edits := c.edits, dscp := c.marks.dscp, pcp := c.marks.pcp
                                             ingress := some (p * 64 + a.n, k), cells := frameCells a.orig, mdata := md, gateHeld := false, win := none } c.marks.eligible).1
    | .deliver q => deliver s q
    | .tmt => s.toTmt a.bytes a.parsed.heads a.parity
    | .control => s.toControl p md a.bytes
    | .miss =>
      let s := s.cnt (R.PKT_MISSES p)
      let e := s.rd (R.PKT_PORT p a.n)
      (match fld e 13 2 with
        | 0 => s.toControl p md a.bytes
        | 2 => deliver s (fld e 15 10)
        | _ => s)
    | _ => s

/-- Steps 2 to 6 of a frame, with so many passes left (R308). -/
def State.passes (s : State) (pass : Nat) : Nat → Arrived → Cls → State
  | 0, a, _ => s.cnt (R.PKT_RECIRC_LIMIT a.p)
  | left + 1, a, c =>
    let p := a.p
    let n := a.n
    if !a.parsed.ok then
      let s := s.cnt (R.PKT_PARSE_FAIL p)
      if s.rf (R.PKT_PORT p n) 12 1 = 1 then s else s.toControl p (a.md pass c.marks.colour c.word) a.bytes
    else
      let tmt := s.tmtTerminated p n a.bytes a.parsed
      let s := if pass = 0 then s.flowTrack p a.o a.j a.bytes a.parsed.heads tmt else s
      if tmt then (s.cnt (R.PKT_TMT_FRAMES p)).toTmt a.bytes a.parsed.heads a.parity
      else
        match s.pass p (s.rf (R.PKT_PORT p n) 0 1 = 1) (a.md pass c.marks.colour) 12 (s.rf (R.PKT_PORT p n) 1 5) c with
        | (s, c, e) =>
          let metered : State × Marked := match e with
            | .forward _ => s.runMeters p (s.countedLen a.o a.j a.orig) a.bytes a.parsed.heads (c.meters.drop c.metered) c.marks
            | .recirculate => s.runMeters p (s.countedLen a.o a.j a.orig) a.bytes a.parsed.heads (c.meters.drop c.metered) c.marks
            | _ => (s, c.marks)
          let s := metered.1
          let c := { c with marks := metered.2, metered := if e = .recirculate then c.meters.length else c.metered }
          if e ≠ .recirculate then s.classified a pass c e
          else if c.marks.drop then (s.mirror p a.orig c.mirror).cnt (R.TSH_COLOUR_DROP p)
          else
            let f := s.edited p a.bytes a.parsed.heads c.edits
            if f.control then s.classified a pass c .control
            else s.passes (pass + 1) left { a with bytes := f.bytes, parsed := s.parse p n f.bytes } { c with edits := [] }

/-- s with the pauses of a received PFC frame (R320): a time in quanta for each class the vector names. -/
def State.pfcReceive (s : State) (o j vector : Nat) (quanta : List Nat) : State :=
  let p := dieOf o
  let n := subOf o j
  let d := s.die p
  let ends := fun (c : Nat) => s.timeNs + ceilDiv (nth quanta c 0 * 64) (s.portRate o)
  let paused := (List.range 8).foldl (fun t c =>
    if !(bit vector c && s.pfcOn p n c) then t
    else if nth quanta c 0 = 0 then Tbl.del t (n * 8 + c) else Tbl.put t (n * 8 + c) (ends c)) d.paused
  s.setDie p { d with paused := paused }

/-- Whether a sub-port is up (PRT_OCTET_STATUS). -/
def State.portUp (s : State) (o j : Nat) : Bool := s.ethPort o j && bit (s.rf (R.PRT_OCTET_STATUS o) 3 8) j

/-- FRAME_RECEIVE (R298, R299, R324): a frame arrives on sub-port j of octet o, its bytes up to the FCS; `fcsOk` says that the FCS
matches, `parity` that the line cipher that opens a TMT packet in it finds a mismatch (R399). -/
def execFrameReceive (o j : Nat) (bytes : List Byte) (fcsOk parity : Bool) (s : State) : Host.Outcome State Fault Refusal :=
  let p := dieOf o
  .next (
    if !s.portUp o j then s
    else if !fcsOk then s.cnt (R.PRT_RX_FCS o)
    else
      let s := s.cnt (R.PKT_RX_FRAMES p)
      let ty := beNat (bsub bytes 12 2)
      let op := beNat (bsub bytes 14 2)
      if ty = 0x8808 && op = 1 then s.cnt (R.TSH_PAUSE_RX p)
      else if ty = 0x8808 && op = 0x0101 then s.pfcReceive o j (beNat (bsub bytes 16 2)) ((List.range 8).map (fun c => beNat (bsub bytes (18 + 2 * c) 2)))
      else if s.mtu p (subOf o j) < frameLen bytes then s.cnt (R.PKT_RX_OVERSIZE p)
      else s.passes 0 4 { o := o, j := j, orig := bytes, bytes := bytes, parsed := s.parse p (subOf o j) bytes, time := s.timeNs % 2 ^ 32, parity := parity } Cls.start)

/-! ## Priority flow control (R320) -/

/-- PFC_RECEIVE: a PFC frame with a class vector and eight times. -/
def execPfcReceive (o j vector : Nat) (quanta : List Nat) (s : State) : Host.Outcome State Fault Refusal :=
  .next (if s.portUp o j then s.pfcReceive o j vector quanta else s)

/-- Whether a class of a sub-port is paused now. -/
def State.pausedNow (s : State) (p n c : Nat) : Bool := match Tbl.find (s.die p).paused (n * 8 + c) with
  | some t => decide (s.timeNs < t)
  | none => false

/-- PFC_PAUSE_EXPIRY: the pause of class c of sub-port n ends, its time over. -/
def execPfcPauseExpiry (p n c : Nat) (s : State) : Host.Outcome State Fault Refusal :=
  .next (if s.pausedNow p n c then s else s.setDie p { s.die p with paused := Tbl.del (s.die p).paused (n * 8 + c) })

/-- PFC_REFRESH: the pause of a class is sent again, half its time after the last, while its ingress cells stand above xoff. -/
def execPfcRefresh (p n c : Nat) (s : State) : Host.Outcome State Fault Refusal :=
  .next (match Tbl.find (s.die p).xoff (n * 8 + c) with
    | none => s
    | some t =>
      if !s.pfcOn p n c || s.timeNs < t + 0xFFFF * 64 / s.portRate (p * 8 + n / 8) / 2 then s
      else (s.setDie p { s.die p with xoff := Tbl.put (s.die p).xoff (n * 8 + c) s.timeNs }).sendPfc p n c 0xFFFF)

/-! ## Transmit selection (R315, R316) -/

/-- One deficit round robin: children as (key, quantum, length of the frame each would send), the one whose turn it is first. A
child whose deficit covers its frame is served; each later one gains its quantum as the turn reaches it. -/
def drr : Nat → Tbl Nat → List (Nat × Nat × Nat) → Option (Nat × Tbl Nat)
  | 0, _, _ => none
  | _, _, [] => none
  | fuel + 1, d, (k, q, l) :: rest =>
    if l ≤ Tbl.get d k 0 then some (k, Tbl.set d k (Tbl.get d k 0 - l) 0)
    else
      let rot := rest ++ [(k, q, l)]
      match rot with
      | (k', q', _) :: _ => drr fuel (Tbl.put d k' (Tbl.get d k' 0 + q')) rot
      | [] => none

/-- Children in turn order: from key t on, then those before it. -/
def inTurn {α : Type} (t : Nat) (kids : List (Nat × α)) : List (Nat × α) := kids.filter (fun k => t ≤ k.1) ++ kids.filter (fun k => k.1 < t)

/-- A frame chosen: its queue, its length L, and the deficits and turns of the die after the choice. -/
structure Pick where
  q : Nat
  len : Nat
  deficit : Tbl Nat
  turn : Tbl Nat

/-- The choice of one node among its children by deficit round robin; each child is its key, its weight and its own choice. -/
def drrPick (node : Nat) (turn : Tbl Nat) (kids : List (Nat × Nat × Pick)) : Option Pick :=
  let t := Tbl.get turn node 0
  let ks := inTurn t kids
  match ks with
  | [] => none
  | (k0, w0, c0) :: _ =>
    let d := c0.deficit
    let d := if k0 = t then d else Tbl.put d k0 (Tbl.get d k0 0 + max 1 w0 * 1024)
    (drr (16 * (ks.length + 1)) d (ks.map (fun k => (k.1, max 1 k.2.1 * 1024, k.2.2.len)))).bind fun r =>
      (Tbl.find ks r.1).map fun c =>
        let own := c.2.deficit.filter (fun e => !(kids.any (fun k => k.1 = e.1)))
        let mine : Tbl Nat := r.2.filter (fun e => kids.any (fun k => k.1 = e.1))
        { c.2 with deficit := mine.foldl (fun acc e => Tbl.put acc e.1 e.2) own, turn := Tbl.put c.2.turn node r.1 }

/-- Keys of the nodes of a die's trees: queues, classes, slices, ports. -/
def qKey (q : Nat) : Nat := q
def cKey (n sl c : Nat) : Nat := 2 ^ 20 + n * 512 + sl * 8 + c
def sKey (n sl : Nat) : Nat := 2 ^ 21 + n * 64 + sl
def pKey (n : Nat) : Nat := 2 ^ 22 + n

/-- Whether queue q of sub-port n may send its head frame of length L now (R315), beside the gate. -/
def State.eligible (s : State) (p n q : Nat) : Bool :=
  let e := s.rd (R.TSH_QUEUE p q)
  let sl := fld e 6 6
  let c := fld e 12 3
  !s.pausedNow p n c && s.shaperOpen p 0 n && s.shaperOpen p 1 (2 * (n * 64 + sl) + 1) && s.shaperOpen p 2 (n * 512 + sl * 8 + c) && s.shaperOpen p 3 q

/-- Choice among the queues of a class. -/
def State.pickQueue (s : State) (p n sl c : Nat) (qs : List (Nat × Nat)) : Option Pick :=
  let d := s.die p
  let mine := qs.filter (fun q => let e := s.rd (R.TSH_QUEUE p q.1); fld e 6 6 = sl && fld e 12 3 = c)
  drrPick (cKey n sl c) d.turn (mine.map (fun q => (qKey q.1, s.rf (R.TSH_QUEUE p q.1) 16 8, ⟨q.1, q.2, d.deficit, d.turn⟩)))

/-- Choice among the classes of a slice: strict ones first, the highest number; then by weight. -/
def State.pickClass (s : State) (p n sl : Nat) (qs : List (Nat × Nat)) : Option Pick :=
  let entry := fun (c : Nat) => s.rd (R.TSH_CLASS p (n * 512 + sl * 8 + c))
  match [7, 6, 5, 4, 3, 2, 1, 0].findSome? (fun c => if bit (entry c) 128 then s.pickQueue p n sl c qs else none) with
  | some k => some k
  | none => drrPick (sKey n sl) (s.die p).turn ((List.range 8).filterMap (fun c => if bit (entry c) 128 then none else (s.pickQueue p n sl c qs).map (fun k => (cKey n sl c, dby (entry c) 17 1, k))))

/-- Choice of a port: round robin among the slices whose committed shaper holds tokens, then by slice weight; the flag says that
the committed shaper served. -/
def State.pickSlice (s : State) (p n : Nat) (qs : List (Nat × Nat)) : Option (Nat × Bool × Pick) :=
  let turn := (s.die p).turn
  let kids := (List.range 64).filterMap (fun sl => (s.pickClass p n sl qs).map (fun k => (sKey n sl, sl, k)))
  let committed := kids.filter (fun k => s.shaperOpen p 1 (2 * (n * 64 + k.2.1)))
  match inTurn (Tbl.get turn (pKey n) 0 + 1) committed with
  | k :: _ => some (k.2.1, true, { k.2.2 with turn := Tbl.put k.2.2.turn (pKey n) k.1 })
  | [] => (drrPick (pKey n + 64) turn (kids.map (fun k => (k.1, (s.slice k.2.1).weight, k.2.2)))).map (fun k => (s.rf (R.TSH_QUEUE p k.q) 6 6, false, k))

/-- s with the head of a queue taken. -/
def State.dequeue (s : State) (p q : Nat) : State :=
  let d := s.die p
  let rest := (Tbl.get d.queues q []).drop 1
  if rest.isEmpty then s.setDie p { d with queues := Tbl.del d.queues q, deficit := Tbl.del d.deficit (qKey q) }
  else s.setDie p { d with queues := Tbl.put d.queues q rest }

/-- TRANSMIT_SELECT (R174, R298 steps 7 to 10, R315, R316): sub-port n of port die p chooses a frame, charges its shapers and sends
it with its egress edits. Head frames that a gate holds back count once each. -/
def execTransmitSelect (p n : Nat) (s : State) : Host.Outcome State Fault Refusal :=
  let o := p * 8 + n / 8
  let j := n % 8
  .next (
    if 64 ≤ n || !s.portUp o j then s
    else
      let heads := (s.die p).queues.filterMap (fun q => if s.rf (R.TSH_QUEUE p q.1) 0 6 = n && s.eligible p n q.1 then q.2.head?.map (fun f => (q.1, f)) else none)
      let gated := heads.filter (fun h => !s.gateAdmits o j (s.rf (R.TSH_QUEUE p h.1) 12 3) (frameLen (s.egress p h.2).bytes))
      let s := gated.foldl (fun s h =>
        if h.2.gateHeld then s
        else State.cnt (s.setDie p { s.die p with queues := Tbl.upd (s.die p).queues h.1 (fun fs => match fs with | f :: r => { f with gateHeld := true } :: r | [] => []) }) R.TLN_GATE_HOLD) s
      let able := heads.filter (fun h => !(gated.any (fun g => g.1 = h.1)))
      match s.pickSlice p n (able.map (fun h => (h.1, s.countedLen o j (s.egress p h.2).bytes))) with
      | none => s
      | some (sl, committed, k) => match able.find? (fun h => h.1 = k.q) with
        | none => s
        | some (q, f) =>
          let s := (s.setDie p { s.die p with deficit := k.deficit, turn := k.turn }).dequeue p q
          let e := s.egress p f
          let s :=
            if e.control then s.toControl p f.mdata e.bytes
            else if s.mtu p n < frameLen e.bytes then s.cnt (R.PKT_TX_OVERSIZE p)
            else
              let c := s.rf (R.TSH_QUEUE p q) 12 3
              let s := (((s.shaperCharge p 0 n k.len).shaperCharge p 1 (2 * (n * 64 + sl) + 1) k.len).shaperCharge p 2 (n * 512 + sl * 8 + c) k.len).shaperCharge p 3 q k.len
              let s := if committed then s.shaperCharge p 1 (2 * (n * 64 + sl)) k.len else s
              (s.emit (.frame o j e.bytes)).cnt (R.TSH_TX_FRAMES p)
          match f.ingress with
          | some (port, c) => s.pfcCheck port c
          | none => s)

/-- FIRMWARE_FRAME_SEND (R298): a frame of firmware enters at step 7 in the queue it names. -/
def execFirmwareFrameSend (p q : Nat) (bytes : List Byte) (s : State) : Host.Outcome State Fault Refusal :=
  .next (if p < 4 && q < 4096 && s.queueOk p q then s.enqueue p q (QFrame.own bytes) else s)

/-! ## The parse graph, shapers and meters -/

/-- GRAPH_COMMIT (R303). -/
def execGraphCommit (p : Nat) (s : State) : Host.Outcome State Fault Refusal := .next (if p < 4 then s.wf (R.PKT_CTRL p) 2 1 1 else s)

/-- GRAPH_SWAP (R303): the active copy is the other one, and nothing is pending. -/
def execGraphSwap (p : Nat) (s : State) : Host.Outcome State Fault Refusal :=
  .next (if p < 4 && s.rf (R.PKT_CTRL p) 2 1 = 1 then (s.wf (R.PKT_CTRL p) 2 1 0).wf (R.PKT_CTRL p) 3 1 (1 - s.rf (R.PKT_CTRL p) 3 1) else s)

/-- SHAPER_WRITE_APPLY (R316): what the entry of a shaper holds takes effect. -/
def execShaperWriteApply (p kind i : Nat) (s : State) : Host.Outcome State Fault Refusal :=
  let e := s.shaperEntry p kind i
  let depth := fld e 32 24
  let h : Shaper := { rate := fld e 0 32, depth := depth, tokens := min (s.shaper p kind i).tokens ((depth * 10 ^ 6 : Nat) : Int), last := s.timeNs }
  .next (s.setDie p { s.die p with shapers := Tbl.put (s.die p).shapers (shaperKey kind i) h })

/-- The bits of a meter's entry that are no Rsvd field (R6, R318). -/
def meterBits (e : Nat) : Nat :=
  ones 0 5 ||| ones 16 10 ||| ones 32 10 ||| ones 48 10 ||| ones 64 32 ||| (if fld e 0 2 = 1 then 0 else ones 96 32) ||| ones 128 64

/-- METER_WRITE (R318, R319): meter m of die p is written with a 32-byte entry. -/
def execMeterWrite (p m entry : Nat) (s : State) : Host.Outcome State Fault Refusal :=
  let entry := entry &&& meterBits entry
  let on := fun (x : Nat) => fld x 0 2 = 1 || fld x 0 2 = 2
  let cbs := dby entry 16 4 * 10 ^ 6
  let ebs := dby entry 20 4 * 10 ^ 6
  .next (
    if 4 ≤ p || 16384 ≤ m then s
    else
      let old := (Tbl.find (s.die p).meters m).map (fun k => if on k.entry then k.upTo s.timeNs else k)
      let new : Meter := match old with
        | some k => if on k.entry then { entry := entry, c := min k.c cbs, e := min k.e ebs, last := s.timeNs } else { entry := entry, c := cbs, e := ebs, last := s.timeNs }
        | none => { entry := entry, c := cbs, e := ebs, last := s.timeNs }
      (s.wr (R.TSH_METER p m) entry).setDie p { s.die p with meters := Tbl.put (s.die p).meters m new })

end Sys2Proof.Machine
end

