-- ==== Sys2Proof/Machine/Ports.lean ====
section
/-! DEFINITION. Ports and Denux links: the commands of 13_ports. -/

namespace Sys2Proof.Machine

/-! ## Octets (R322 to R324) -/

/-- A lane map of 3 bits per logical lane names every physical lane. -/
def mapOk (m : Nat) : Bool := noRepeat ((List.range 8).map (fun k => fld m (3 * k) 3))

/-- OCTET_ENABLE: the octet trains in its mode; a map that names a lane twice fails (R323), and so does a die without
its reference clock (R480). The die's core clock wakes (R482). -/
def execOctetEnable (o : Nat) (s : State) : Host.Outcome State Fault Refusal :=
  .next (
    if 32 ≤ o || s.rf (R.PRT_OCTET o) 0 1 = 1 then s
    else
      let s : State := { s.wf (R.PRT_OCTET o) 0 1 1 with
        locks := setIns s.locks (R.PRT_OCTET o), clk := { s.clk with gated := setDel s.clk.gated (dieOf o) } }
      let e := s.rd (R.PRT_OCTET o)
      s.wr (R.PRT_OCTET_STATUS o) (if s.octetMode o = 0 then 0 else if s.rf R.CLK_STATUS (1 + dieOf o) 1 = 1 && mapOk (fld e 32 24) && mapOk (fld e 64 24) then 1 else 4))

/-- The Denux link an octet carries: the one enabled link index that names it (R325). -/
def State.linkOf (s : State) (o : Nat) : Option Nat :=
  match (List.range 16).filter (fun n => s.linkOn n && s.linkOctet n = o) with
  | [n] => if s.octetMode o = 5 then some n else none
  | _ => none

/-- OCTET_DISABLE: sub-ports go down; a link that loses its lanes retrains, and comes DOWN when that fails (R338). -/
def execOctetDisable (o : Nat) (s : State) : Host.Outcome State Fault Refusal :=
  .next (
    if 32 ≤ o || s.rf (R.PRT_OCTET o) 0 1 = 0 then s
    else
      let s := if s.octetMode o ≠ 5 && s.rf (R.PRT_OCTET_STATUS o) 0 3 = 2 then s.cnt (R.PRT_LINK_DOWN o) else s
      let s := match s.linkOf o with
        | some n => if s.dnxState n = 5 then s.retrain n else s
        | none => s
      let s : State := { s with clk := { s.clk with octAt := Tbl.put s.clk.octAt (dieOf o) s.timeNs } }
      (s.wf (R.PRT_OCTET o) 0 1 0).wr (R.PRT_OCTET_STATUS o) 0)

/-- Physical receive lanes of a sub-port. -/
def State.subLanes (s : State) (o j : Nat) : Nat :=
  let w := modeLanes (s.octetMode o)
  ((List.range w).map (fun k => 2 ^ fld (s.rd (R.PRT_OCTET o)) (64 + 3 * (w * j + k)) 3)).sum

/-- s with the status of an Ethernet octet as its sub-ports are: UP, PARTIAL, TRAINING. -/
def State.octetShow (s : State) (o up lanes : Nat) : State :=
  let all := 2 ^ modeSubs (s.octetMode o) - 1
  let st := if up = all then 2 else if up = 0 then 1 else 3
  let s := if s.rf (R.PRT_OCTET_STATUS o) 0 3 = 2 && st ≠ 2 then s.cnt (R.PRT_LINK_DOWN o) else s
  s.wr (R.PRT_OCTET_STATUS o) (st + up * 8 + lanes * 2 ^ 11 + b2n (decide (lanes = 255)) * 2 ^ 19)

/-- ETHERNET_LINK_UP: sub-port j of octet o is up, its lanes locked. -/
def execEthernetLinkUp (o j : Nat) (s : State) : Host.Outcome State Fault Refusal :=
  .next (
    let e := s.rd (R.PRT_OCTET_STATUS o)
    if !s.ethPort o j || fld e 0 3 = 0 || fld e 0 3 = 4 then s
    else s.octetShow o (fld e 3 8 ||| 2 ^ j) (fld e 11 8 ||| s.subLanes o j))

/-- ETHERNET_LINK_DOWN. -/
def execEthernetLinkDown (o j : Nat) (s : State) : Host.Outcome State Fault Refusal :=
  .next (
    let e := s.rd (R.PRT_OCTET_STATUS o)
    if !s.portUp o j then s else s.octetShow o (clearBits (fld e 3 8) (2 ^ j)) (clearBits (fld e 11 8) (s.subLanes o j)))

/-! ## Link states (R325, R337, R338) -/

/-- DENUX_LINK_ENABLE: DISABLED becomes DETECT. -/
def execDenuxLinkEnable (n : Nat) (s : State) : Host.Outcome State Fault Refusal :=
  .next (
    if 16 ≤ n || s.linkOn n then s
    else
      let s : State := { s.wf (R.DNX_LINK n) 0 1 1 with locks := setIns s.locks (R.DNX_LINK n) }
      if s.dnxState n = 0 then s.wf (R.DNX_STATUS n) 0 3 1 else s)

/-- DENUX_LINK_DISABLE: the link is DISABLED, and what was in flight ends as at DOWN. -/
def execDenuxLinkDisable (n : Nat) (s : State) : Host.Outcome State Fault Refusal :=
  .next (
    if 16 ≤ n || !s.linkOn n then s
    else
      let st := s.dnxState n
      let s := (s.linkState n 0 (if s.rf (R.PRT_OCTET_STATUS (s.linkOctet n)) 0 3 = 0 then 0 else 1)).wf (R.DNX_LINK n) 0 1 0
      if st = 5 || st = 6 then s.linkLost n else s)

/-- Whether a link's octet can train: enabled, in Denux mode, its maps whole, named by this link alone (R323, R325). -/
def State.canTrain (s : State) (n : Nat) : Bool :=
  let o := s.linkOctet n
  s.linkOf o = some n && s.rf (R.PRT_OCTET o) 0 1 = 1 && s.rf (R.PRT_OCTET_STATUS o) 0 3 ≠ 4

/-- DENUX_SIGNAL_DETECT. -/
def execDenuxSignalDetect (n : Nat) (s : State) : Host.Outcome State Fault Refusal :=
  .next (if n < 16 && s.dnxState n = 1 && s.canTrain n then (s.linkState n 2 1).updLink n (fun l => { l with since := s.timeNs }) else s)

/-- DENUX_TRAIN_LOCK: every lane is locked, with FEC lock. -/
def execDenuxTrainLock (n : Nat) (s : State) : Host.Outcome State Fault Refusal :=
  .next (if n < 16 && s.dnxState n = 2 then s.linkState n 3 1 else s)

/-- DENUX_TRAIN_TIMEOUT: 100 ms in TRAIN. -/
def execDenuxTrainTimeout (n : Nat) (s : State) : Host.Outcome State Fault Refusal :=
  .next (if n < 16 && s.dnxState n = 2 && (s.link n).since + 10 ^ 8 ≤ s.timeNs then s.linkDown n else s)

/-- DENUX_ALIGN_DONE: `rev` says that the lane order is reversed (R323). Numbering and credits start afresh (R327, R339). -/
def execDenuxAlignDone (n : Nat) (rev : Bool) (s : State) : Host.Outcome State Fault Refusal :=
  .next (
    if n < 16 && s.dnxState n = 3 then
      let s := (s.linkState n 4 1).wf (R.PRT_OCTET_STATUS (s.linkOctet n)) 20 1 (b2n rev)
      s.updLink n (fun l => { DnxLink.fresh with held := l.held, sendQ := l.sendQ, reqs := l.reqs, nextTag := l.nextTag })
    else s)

/-- DENUX_INIT_DONE: the far end's init flit has come, and it has had this one's. -/
def execDenuxInitDone (n : Nat) (s : State) : Host.Outcome State Fault Refusal :=
  .next (
    if n < 16 && s.dnxState n = 4 && (s.link n).initSeen then
      if (s.rf (R.DNX_STATUS n) 3 1 = 1) ≠ s.linkPeer n then s.linkDown n
      else (s.linkState n 5 2).updLink n (fun l => { l with reqs := l.reqs.map (fun r => { r with since := s.timeNs }) })
    else s)

/-- DENUX_RETRAIN_ENTRY (R338). -/
def execDenuxRetrainEntry (n : Nat) (s : State) : Host.Outcome State Fault Refusal :=
  .next (if n < 16 && s.dnxState n = 5 then s.retrain n else s)

/-- s with what the far end has acknowledged up to a sequence number dropped from the replay buffer. -/
def DnxLink.ackTo (l : DnxLink) (a : Nat) : DnxLink := { l with replay := l.replay.filter (fun r => let d := seqDiff r.1 a; decide (0 < d) && decide (d < 2 ^ 31)) }

/-- l with everything unacknowledged to be sent again. -/
def DnxLink.goBack (l : DnxLink) : DnxLink := { l with resend := l.replay.head?.map (fun r => r.1) }

/-- DENUX_RETRAIN_DONE: ACTIVE again, replaying from the far end's ack_seq. -/
def execDenuxRetrainDone (n ack : Nat) (s : State) : Host.Outcome State Fault Refusal :=
  .next (
    if n < 16 && s.dnxState n = 6 && s.canTrain n then
      (s.linkState n 5 2).updLink n (fun l => { (l.ackTo ack).goBack with pos := 0, discarding := true, nakDue := false })
    else s)

/-- DENUX_RETRAIN_TIMEOUT: 2 ms in RETRAIN. -/
def execDenuxRetrainTimeout (n : Nat) (s : State) : Host.Outcome State Fault Refusal :=
  .next (if n < 16 && s.dnxState n = 6 && (s.link n).since + 2 * 10 ^ 6 ≤ s.timeNs then s.linkDown n else s)

/-! ## Flits (R326 to R328) -/

/-- FLIT_TRANSMIT: the flit of the round's next position leaves. A link flit fixes the data flits it covers, and carries a NAK that
is due; a data position with nothing covered carries filler. -/
def execFlitTransmit (n : Nat) (s : State) : Host.Outcome State Fault Refusal :=
  .next (
    let st := s.dnxState n
    let l := s.link n
    let next := (l.pos + 1) % 50
    if 16 ≤ n || (st ≠ 4 && st ≠ 5) then s
    else if l.pos = 0 || l.pos = 17 || l.pos = 34 then
      let k := if st = 4 then 0 else if l.pos = 34 then 15 else 16
      let s := s.setLink n ({ l with burst := [] }.compose k)
      (s.emit (.dnx n (s.linkFlit n (l.pos / 17) (decide (st = 4))))).updLink n (fun l => { l with pos := next, nakDue := false })
    else match l.burst with
      | [] => (s.emit (.dnx n (zeroBytes 256))).setLink n { l with pos := next }
      | f :: rest =>
        let s := ((s.emit (.dnx n f.2.2)).setLink n { l with pos := next, burst := rest }).cnt (R.DNX_TX_FLITS n)
        if f.2.1 then s.cnt (R.DNX_REPLAYS n) else s)

/-- LINK_FLIT_RECEIVE: 256 bytes, checked; then acknowledgements, credits, a NAK, the CRCs of the data flits it covers. -/
def execLinkFlitReceive (n : Nat) (bytes : List Byte) (s : State) : Host.Outcome State Fault Refusal :=
  .next (
    let st := s.dnxState n
    let l := s.link n
    if 16 ≤ n || (st ≠ 4 && st ≠ 5) then s
    else if bytes.length ≠ 256 || leAt bytes 0 2 ≠ 0x444C || leAt bytes 252 4 ≠ crc32c (bytes.take 252) then
      let s := s.setLink n { l with badFlits := l.badFlits + 1, expect := [], nakDue := true, discarding := true }
      if 4 ≤ l.badFlits + 1 && st = 5 then s.retrain n else s
    else
      let flags := leAt bytes 3 1
      let l := { l with badFlits := 0, ret := ⟨leAt bytes 12 4, leAt bytes 16 4, leAt bytes 20 4⟩
                        expect := (List.range 16).map (fun i => leAt bytes (24 + 4 * i) 4), expSeq := leAt bytes 8 4 }
      let l := if bit flags 1 then { l with initSeen := true, advert := ⟨leAt bytes 88 4, leAt bytes 92 4, leAt bytes 96 4⟩ } else l
      let s := if bit flags 1 then s.wf (R.DNX_STATUS n) 3 1 (leAt bytes 102 1 % 2) else s
      if st = 4 then s.setLink n { l with expect := [] }
      else
        let a := l.ackTo (leAt bytes 4 4)
        let naks := if !bit flags 0 || a.replay.length < l.replay.length then b2n (bit flags 0) else l.naks + 1
        let s := s.setLink n { (if bit flags 0 then a.goBack else a) with naks := naks }
        if bit flags 2 || 16 ≤ naks then s.retrain n else s)

/-- DATA_FLIT_RECEIVE: 256 bytes; a good flit in sequence releases its whole messages in order, any other is discarded and a NAK is
due for the first. -/
def execDataFlitReceive (n : Nat) (bytes : List Byte) (parity : Bool) (s : State) : Host.Outcome State Fault Refusal :=
  .next (
    let l := s.link n
    let bad := fun (l : DnxLink) (first : Bool) =>
      (s.setLink n { l with discarding := true, nakDue := l.nakDue || first || !l.discarding }).cnt (R.DNX_CRC_ERR n)
    if 16 ≤ n || s.dnxState n ≠ 5 then s
    else match l.expect with
      | [] => bad l false
      | c :: rest =>
        let seq := l.expSeq
        let l := { l with expect := rest, expSeq := (seq + 1) % 2 ^ 32 }
        let d := seqDiff seq l.rxNext
        if c = 0 then s.setLink n l
        else if bytes.length ≠ 256 || crc32c bytes ≠ c then bad l (decide (d = 0))
        else if 2 ^ 31 ≤ d then s.setLink n l
        else if d ≠ 0 then bad l false
        else
          let r := unpack 20 (l.partial' ++ bytes)
          let s := (s.setLink n { l with rxNext := (l.rxNext + 1) % 2 ^ 32, discarding := false, partial' := r.2 }).cnt (R.DNX_RX_FLITS n)
          r.1.foldl (fun s m => s.dnxMessage n m parity) s)

/-! ## Messages (R329 to R336) -/

/-- A message of one type arrives on link n, whole. -/
def State.dnxArrives (s : State) (n ty : Nat) (m : List Byte) (parity : Bool) : State :=
  if n < 16 && s.dnxState n = 5 && mType m = ty then s.dnxMessage n m parity else s

def execDnxWrite (n : Nat) (msg : List Byte) (s : State) : Host.Outcome State Fault Refusal := .next (s.dnxArrives n 1 msg false)
def execDnxReadReq (n : Nat) (msg : List Byte) (s : State) : Host.Outcome State Fault Refusal := .next (s.dnxArrives n 2 msg false)
def execDnxReadCpl (n : Nat) (msg : List Byte) (s : State) : Host.Outcome State Fault Refusal := .next (s.dnxArrives n 3 msg false)
def execDnxAtomicReq (n : Nat) (msg : List Byte) (s : State) : Host.Outcome State Fault Refusal := .next (s.dnxArrives n 4 msg false)
def execDnxAtomicCpl (n : Nat) (msg : List Byte) (s : State) : Host.Outcome State Fault Refusal := .next (s.dnxArrives n 5 msg false)
def execDnxDoorbell (n : Nat) (msg : List Byte) (s : State) : Host.Outcome State Fault Refusal := .next (s.dnxArrives n 6 msg false)
def execDnxTmtMessage (n : Nat) (msg : List Byte) (parity : Bool) (s : State) : Host.Outcome State Fault Refusal := .next (s.dnxArrives n 8 msg parity)
def execDnxBeat (n : Nat) (msg : List Byte) (s : State) : Host.Outcome State Fault Refusal := .next (s.dnxArrives n 9 msg false)

/-- DNX_CPL_TIMEOUT (R336): no completion of a request in cpl_timeout_us. Ring fetches of a link that is not ACTIVE wait (R339). -/
def execDnxCplTimeout (n tag : Nat) (s : State) : Host.Outcome State Fault Refusal :=
  .next (match (s.link n).reqs.find? (fun r => r.tag = tag && !r.reported) with
    | none => s
    | some r =>
      let us := s.rf (R.DNX_LINK n) 16 16
      if (r.ofRing && s.dnxState n ≠ 5) || s.timeNs < r.since + (if us = 0 then 10000 else us) * 1000 then s
      else (s.updLink n (fun l => { l with reqs := l.reqs.map (fun x => if x.tag = tag then { x with reported := true } else x) })).reqFails r
        stLinkError (linkDetail n 2))

/-- WINDOW_REDUCE_DONE (R335): no access under the old entry of inbound window w is left, and its region loses the window's
reference. -/
def execWindowReduceDone (w : Nat) (s : State) : Host.Outcome State Fault Refusal :=
  .next (match s.ports.windowBusy.find? (fun b => b.1 = w) with
    | none => s
    | some b =>
      if s.mem.guardWait.any (fun g => g.owner = windowOwner w) then s
      else State.addRef { s with ports := { s.ports with windowBusy := s.ports.windowBusy.erase b } } b.2 false)

end Sys2Proof.Machine
end

