-- ==== Sys2Proof/Machine/TlnOps.lean ====
section
/-! DEFINITION. Timeline records and their checks (R180 to R183, R187, R188), roles (R167, R189) and what a re-map does to
queue pairs (R268), as shared operations. -/

namespace Sys2Proof.Machine

/-- One epoch in ns (R169). -/
def epochNs : Nat := 2 ^ 20

/-- The current epoch number. -/
def State.epoch (s : State) : Nat := s.timeNs / epochNs

/-! ## Schedule records -/

/-- A gate list at offset o of a record: its port, its entries and where the next list begins; none where it leaves the
record or breaks R173 or R181. -/
def gateAt (b : List Byte) (o : Nat) : Option (Nat × List (Nat × Nat) × Nat) :=
  let n := leAt b (o + 2) 2
  let stop := o + 16 + 4 * n
  if b.length < o + 16 || n = 0 || 1024 < n || b.length < stop || leAt b (o + 1) 1 ≠ 0 || !allZero (bsub b (o + 4) 12) then none
  else some (leAt b o 1, (List.range n).map (fun i => (leAt b (o + 16 + 4 * i) 1, leAt b (o + 17 + 4 * i) 3)), stop)

/-- The gate lists of a record from offset o: those before the first that fails, and its index if one does. -/
def gatesFrom (b : List Byte) (ok : Nat × List (Nat × Nat) → Bool) : Nat → Nat → List (Nat × List (Nat × Nat)) → List (Nat × List (Nat × Nat)) × Option Nat
  | 0, _, acc => (acc, none)
  | n + 1, o, acc => match gateAt b o with
    | none => (acc, some acc.length)
    | some (p, es, o') => if ok (p, es) && !acc.any (fun g => g.1 = p) then gatesFrom b ok n o' (acc ++ [(p, es)]) else (acc, some acc.length)

/-- A window entry (R182). -/
def winOf (b : List Byte) : Win :=
  { start := fld (leAt b 0 4) 0 20, len := (let l := fld (leAt b 4 4) 0 20; if l = 0 then 1048576 else l), port := fld (leAt b 0 4) 24 8
    peer := fld (leAt b 4 4) 20 10, rx := bit (leAt b 4 4) 30, qp := fld (leAt b 8 4) 0 20, crumbs := fld (leAt b 12 4) 0 24 }

/-- The Rsvd fields of a window entry are 0. -/
def winRsvd (b : List Byte) : Bool :=
  fld (leAt b 0 4) 20 4 = 0 && fld (leAt b 4 4) 31 1 = 0 && fld (leAt b 8 4) 20 12 = 0 && fld (leAt b 12 4) 24 8 = 0

/-- Where each entry of a gate list begins in a cycle. -/
def starts : Nat → List (Nat × Nat) → List (Nat × Nat × Nat)
  | _, [] => []
  | t, (g, n) :: r => (t, n, g) :: starts (t + n) r

/-- Whether a window meets no interval in which its port's list closes class c, in any cycle of the epoch (R183). -/
def winOpen (cycle c : Nat) (es : List (Nat × Nat)) (w : Win) : Bool :=
  (List.range (epochNs / cycle)).all fun k =>
    (starts (k * cycle) es).all fun e => bit e.2.2 c || decide (w.start + w.len ≤ e.1) || decide (e.1 + e.2.1 ≤ w.start)

/-- Whether a transmit window is long enough for its crumbs (R183): f bytes of framing a packet, r bytes a ns. -/
def winFits (w : Win) (f r : Nat) : Bool := decide (ceilDiv (w.crumbs * 64) 4096 * f + w.crumbs * 64 ≤ w.len * r)

/-- The checks of one window against the earlier ones. -/
def State.winOk (s : State) (cycle : Nat) (gates : List (Nat × List (Nat × Nat))) (before : List Win) (w : Win) : Bool :=
  let o := w.port % 32
  let c := s.rf R.TLN_CLASS 0 3
  s.ethPort o (w.port / 32) && decide (w.start + w.len ≤ epochNs) &&
  (match gates.find? (fun g => g.1 = w.port) with | some g => winOpen cycle c g.2 w | none => true) &&
  (w.rx || before.all (fun x => x.rx || x.port ≠ w.port || decide (x.start + x.len ≤ w.start) || decide (w.start + w.len ≤ x.start))) &&
  (match Tbl.find s.tmt.qps w.qp with
    | some q => q.sched && (w.rx || winFits w q.framing (s.portRate o))
    | none => false)

/-- The index of the first window that fails. -/
def State.winsBad (s : State) (cycle : Nat) (gates : List (Nat × List (Nat × Nat))) : List (List Byte) → List Win → Option Nat
  | [], _ => none
  | b :: r, acc =>
    let w := winOf b
    if winRsvd b && s.winOk cycle gates acc w then s.winsBad cycle gates r (acc ++ [w]) else some acc.length

/-- The windows of a record. -/
def recWins (b : List Byte) : List (List Byte) := (List.range (leAt b 14 2)).map (fun i => bsub b (leAt b 20 4 + 16 * i) 16)

/-- A schedule record as a schedule. -/
def schedOf (b : List Byte) : Sched :=
  { id := leAt b 4 2, index := leAt b 6 2, cycle := leAt b 8 4
    gates := ((gatesFrom b (fun _ => true) (leAt b 12 2) (leAt b 16 4) []).1).foldl (fun t g => Tbl.put t g.1 g.2) []
    wins := (recWins b).map winOf }

/-- The checks of R183 on a schedule record staged as kind k: the detail of the first failure. A schedule (kind 0) must be of
the device index this station has, where it has one; a standby schedule may be of any. Gate lists are checked before
windows. A port that windows name and no gate list does has its gates open. -/
def State.schedBad (s : State) (k : Nat) (b : List Byte) : Option Nat :=
  let idx := leAt b 6 2
  let cycle := leAt b 8 4
  let nw := leAt b 14 2
  let member := s.rf R.TLN_STATUS 2 2 = 1
  if b.length < 128 || leAt b 0 4 ≠ 0x31534C54 || leAt b 24 4 ≠ b.length || !zeroAt b [(28, 4), (80, 48)] ||
      bsub b 32 48 ≠ sha384 (b.drop 128) || 1024 ≤ idx || (k = 0 && member && idx ≠ s.rf R.TLN_STATUS 4 10) ||
      !(List.range 11).any (fun e => cycle * 2 ^ e = epochNs) || 256 < leAt b 12 2 || 4096 < nw || b.length < leAt b 20 4 + 16 * nw then some 0xFFFF
  else
    let ok := fun (g : Nat × List (Nat × Nat)) =>
      s.ethPort (g.1 % 32) (g.1 / 32) && g.2.all (fun e => e.2 ≠ 0) && decide ((g.2.map Prod.snd).sum = cycle)
    match gatesFrom b ok (leAt b 12 2) (leAt b 16 4) [] with
    | (_, some i) => some i
    | (gs, none) => s.winsBad cycle gs (recWins b) []

/-! ## Re-map records -/

/-- The bytes of a re-map record with n stations. -/
def remapBytes (n : Nat) : Nat := 64 + 32 * n + 4096

/-- A re-map record as a map. -/
def remapOf (b : List Byte) : Remap :=
  let n := leAt b 6 2
  { gen := leAt b 4 2
    stations := (List.range n).map (fun i => ⟨bsub b (64 + 32 * i) 16, beNat (bsub b (80 + 32 * i) 6), bit (leAt b (86 + 32 * i) 1) 0⟩)
    map := (List.range 1024).filterMap (fun d => let e := leAt b (64 + 32 * n + 4 * d) 4; if bit e 15 then some (d, e % 1024) else none) }

/-- The index a map gives a station. -/
def Remap.indexOf (m : Remap) (st : Nat) : Option Nat := (m.map.find? (fun p => p.2 = st)).map Prod.fst

/-- Whether a map lists a station. -/
def Remap.lists (m : Remap) (st : Nat) : Bool := match m.stations[st]? with
  | some e => e.listed
  | none => false

/-- The slot of kind k. -/
def State.tlnSlot (s : State) (k : Nat) : TlnSlot := Tbl.get s.tln.slots k TlnSlot.empty
def State.setTlnSlot (s : State) (k : Nat) (t : TlnSlot) : State := { s with tln := { s.tln with slots := Tbl.put s.tln.slots k t } }

/-- The lowest kind whose slot holds a standby schedule for an index (R188). -/
def State.standby (s : State) (d : Nat) : Option Nat :=
  ((List.range 8).map (· + 2)).find? (fun k => (s.tlnSlot k).held && leAt (s.tlnSlot k).bytes 6 2 = d)

/-- The checks of R188 on a re-map record, with its magic, digest and Rsvd fields. -/
def State.remapOk (s : State) (b : List Byte) : Bool :=
  let n := leAt b 6 2
  let m := remapOf b
  let mine := m.indexOf (s.rf R.TLN_DOMAIN 16 10)
  1 ≤ n && n ≤ 1024 && b.length = remapBytes n && leAt b 0 4 = 0x504D4C54 && bsub b 8 48 = sha384 (b.drop 64) && zeroAt b [(56, 8)] &&
  (List.range n).all (fun i => leAt b (86 + 32 * i) 1 ≤ 1 && allZero (bsub b (87 + 32 * i) 9)) &&
  (List.range 1024).all (fun d => let e := leAt b (64 + 32 * n + 4 * d) 4; fld e 10 5 = 0 && e < 65536) &&
  (match s.tln.map with | some a => decide (m.gen = (a.gen + 1) % 65536) | none => true) &&
  noRepeat (m.map.map Prod.snd) && m.map.all (fun p => m.lists p.2) &&
  (match mine with
    | none => true
    | some d => (match s.tln.sched with | some c => decide (c.index = d) | none => false) || (s.standby d).isSome)

/-! ## Roles and lock -/

def roleUnmapped : Nat := 0
def roleMember : Nat := 1
def roleSpare : Nat := 2
def roleDetached : Nat := 3

/-- The station's role under a map, from the role it had (R167, R189): DETACHED lasts until a map maps the station again. A
station that the map does not list stays UNMAPPED. -/
def newRole (m : Remap) (st old : Nat) : Nat :=
  if (m.indexOf st).isSome then roleMember
  else if old = roleMember || old = roleDetached then roleDetached
  else if m.lists st then roleSpare else roleUnmapped

/-- s with the role, index and generation of TLN_STATUS set. -/
def State.setRole (s : State) (role idx gen : Nat) : State :=
  ((s.wf R.TLN_STATUS 2 2 role).wf R.TLN_STATUS 4 10 idx).wf R.TLN_STATUS 16 16 gen

/-- Whether this station is alone in its domain, or keeps local time only (R171). -/
def State.aloneInDomain (s : State) : Bool :=
  s.rf R.TLN_CTRL 2 2 = 2 || (match s.tln.map with | some m => decide ((m.stations.filter (fun e => e.listed)).length ≤ 1) | none => false)

/-- s with an offset of `off` ns from domain time taken away (R171, R172). A step backward that would pass a beat boundary is
slewed: the time base stands still for as many ns, up to 100 an epoch. The state after is LOCKED within 16 ns, else ACQUIRING; a FREE
station goes through ACQUIRING. With CC1 OFFLINE nothing selects a reference, and the time base runs free (R435). -/
def State.steer (s : State) (off : Int) : State :=
  if s.coreState 1 = 3 then s
  else
  let near := -16 ≤ off && off ≤ 16 && s.rf R.TLN_STATUS 0 2 ≠ 0
  let s := s.setLock (if near then 2 else 1)
  let back := off.toNat
  let slew := if back ≤ s.timeNs % 1024 then 0 else back
  let tln := { s.tln with est := off, fine := s.tln.fine || (-1000 ≤ off && off ≤ 1000), slew := slew }
  { s with timeNs := if off ≤ 0 then s.timeNs + (-off).toNat else if slew = 0 then s.timeNs - back else s.timeNs, tln := tln }

/-- s out of HOLDOVER where that has lasted TLN_HOLDOVER.limit_ms (R172): FREE, counted and signalled; the schedule keeps running. -/
def State.holdEnds (s : State) : State :=
  let lim := s.rf R.TLN_HOLDOVER 0 16
  if s.rf R.TLN_STATUS 0 2 = 3 && s.tln.holdSince + (if lim = 0 then 200 else lim) * 10 ^ 6 ≤ s.timeNs then
    ((s.setLock 0).cnt R.TLN_ALIGN_LOSS).mcSignal 2 1
  else s

/-! ## Activation -/

/-- The entry of a gate list in effect at a time, and since when (R173): a cycle restarts at every epoch boundary. -/
def gateEntry (cycle : Nat) (es : List (Nat × Nat)) (t : Nat) : Nat × Nat :=
  let begun := t - t % epochNs % max 1 cycle
  let past := (starts begun es).filter (fun e => e.1 ≤ t)
  (past.length - 1, (past.getLast?.elim begun Prod.fst))

/-- A schedule takes effect: no window is open at the switch, and every list runs from the epoch boundary (R173, R185). -/
def State.useSched (s : State) (d : Sched) : State :=
  State.wr { s with tln := { s.tln with sched := some d, openWins := []
                                        gatePos := d.gates.map (fun g => (g.1, gateEntry d.cycle g.2 s.timeNs)) } } R.TLN_SCHED_ID d.id

/-! ## Frames in the scheduled class (R176, R189) -/

/-- s without the frames of the scheduled class that wait on a port and meet a test on queue pair and window, and those frames. -/
def State.pull (s : State) (which : Nat → Nat → Bool) : State × List (Nat × Nat × Pkt) :=
  let hit := fun (f : QFrame) => match f.win with | some x => which x.1 x.2.1 | none => false
  let out := (s.pkt.dies.map (fun d => (d.2.queues.map (fun q => q.2.filterMap (fun f => if hit f then f.win else none))).flatten)).flatten
  let keep := fun (_ : Nat) (d : PktDie) =>
    { d with queues := (Tbl.mapV d.queues (fun _ fs => fs.filter (fun f => !hit f))).filter (fun q => !q.2.isEmpty) }
  ({ s with pkt := { s.pkt with dies := Tbl.mapV s.pkt.dies keep } }, out)

/-- s with the transmit window w closed (R176): crumbs unsent are late and become the QP's arrears. Frames that still wait on the port
were not sent in the window; they leave in the late class. -/
def State.closeWindow (s : State) (w : Nat) : State :=
  match s.tln.sched.bind (fun d => d.wins[w]?), Tbl.find s.tln.openWins w with
  | some x, some put =>
    let (s, left) := s.pull (fun _ v => v = w)
    let d := x.crumbs - (put - (left.map (fun f => crumbsOf f.2.2.payload.length)).sum)
    let s : State := { s with tln := { s.tln with openWins := Tbl.del s.tln.openWins w } }
    let s :=
      if d = 0 then s
      else
        let s : State := { s with tln := { s.tln with arrears := Tbl.set s.tln.arrears x.qp (Tbl.get s.tln.arrears x.qp 0 + d) 0 } }
        let s := (s.cnt R.TLN_LATE_TX d).cnt R.TLN_LATE_WINDOWS
        if bit (s.rd R.TLN_LATE_FIRST) 63 then s else s.wr R.TLN_LATE_FIRST (w % 65536 + s.epoch % 2 ^ 44 * 65536 + 2 ^ 63)
    let c := (s.rf R.TLN_CLASS 4 3, false, true, none)
    left.foldl (fun s f => (s.putPkt f.1 c.1 none { f.2.2 with sched := false, late := true }).countCrumbs f.1 (crumbsOf f.2.2.payload.length) true c) s
  | _, _ => s

/-- s with the work requests of a QP that are outstanding when its peer moves or its station loses its index completed (R268), receive
WRs apart. Its frames that wait in the scheduled class go. -/
def State.remapWrs (s : State) (qn : Nat) (q : Qp) : State :=
  (s.wrTags qn { q with recvs := [] }).foldl (fun s t => s.commitTag t.1 t.2 stRemapped noUnit 0 0) ((s.unhold qn).pull (fun n _ => n = qn)).1

/-- What a re-map does to one QP (R268). `moved` says which indices have another station now; `now` is this station's index. -/
def State.remapQp (s : State) (qn : Nat) (moved : Nat → Bool) (was now : Option Nat) : State :=
  match Tbl.find s.tmt.qps qn with
  | none => s
  | some q =>
    if !q.sched || q.state = .error then s
    else if was = some q.localIndex && now ≠ some q.localIndex then
      let s := q.recvs.foldl (fun s r => s.commitTag r.sr r.tag stRemapped noUnit 0 0) (s.remapWrs qn q)
      s.updQp qn (fun q => { q.toRts with state := .init, msgs := [], recvs := [], recvNext := 0 })
    else if now = some q.localIndex && was ≠ now then
      (if q.state = .init && !moved q.peerIndex then s.updQp qn Qp.toRts
       else (s.remapWrs qn q).updQp qn (fun q => { q.toRts with msgs := [] }))
    else if moved q.peerIndex then
      (s.remapWrs qn q).updQp qn (fun q => { q.toRts with msgs := [], state := q.state })
    else s

/-- A re-map takes effect at epoch e (R189, R190, R214, R268). -/
def State.useRemap (s : State) (m : Remap) (e : Nat) : State :=
  let st := s.rf R.TLN_DOMAIN 16 10
  let old := s.tln.map
  let oldRole := s.rf R.TLN_STATUS 2 2
  let was := if oldRole = roleMember then some (s.rf R.TLN_STATUS 4 10) else none
  let now := m.indexOf st
  let moved := fun (d : Nat) => match old with
    | some o => (Tbl.find o.map d).isSome && Tbl.find o.map d ≠ Tbl.find m.map d
    | none => false
  let role := newRole m st oldRole
  let s : State := { s with tln := { s.tln with map := some m, prev := old, since := e } }
  let s := s.setRole role (now.getD 0) m.gen
  let s := match now with
    | none => s
    | some d =>
      if (match s.tln.sched with | some c => decide (c.index = d) | none => false) then s
      else match s.standby d with
        | none => s
        | some k => (s.useSched (schedOf (s.tlnSlot k).bytes)).setTlnSlot k { s.tlnSlot k with code := 5, held := false }
  let s := if role = roleDetached && oldRole ≠ roleDetached then s.mcSignal 2 2 else s
  let s := (s.tmt.qps.map Prod.fst).foldl (fun s qn => s.remapQp qn moved was now) s
  s.remapPlans moved

end Sys2Proof.Machine
end

