-- ==== Sys2Proof/Machine/Timeline.lean ====
section
/-! DEFINITION. The commands of 07_timeline. -/

namespace Sys2Proof.Machine

/-- TLN_ENABLE (R167, R169, R171): domain time, alignment and schedules run. The station takes its role from the active map, and
scheduled QPs follow the index it now has. A station alone in its domain is LOCKED at once. -/
def execTlnEnable (s : State) : Host.Outcome State Fault Refusal :=
  .next (
    let s := s.wf R.TLN_CTRL 0 1 1
    let s : State := { s with tln := { s.tln with closed := false } }
    let st := s.rf R.TLN_DOMAIN 16 10
    let s := match s.tln.map with
      | some m =>
        let now := m.indexOf st
        let s := s.setRole (newRole m st (s.rf R.TLN_STATUS 2 2)) (now.getD 0) m.gen
        s.tmt.qps.foldl (fun (s : State) (e : Nat × Qp) => s.remapQp e.1 (fun _ => false) (if e.2.state = QpState.rts then some e.2.localIndex else none) now) s
      | none => s
    if s.aloneInDomain then s.setLock 2 else s)

/-- TLN_DISABLE (TLN_CTRL, R167): every scheduled-class gate closes, with the windows that are open (log entry 147), and every armed
activation is dropped. -/
def execTlnDisable (s : State) : Host.Outcome State Fault Refusal :=
  .next (
    let drop := fun (_ : Nat) (t : TlnSlot) => if t.armed.isSome then { t with armed := none, code := 2 } else t
    let s := s.tln.openWins.foldl (fun s w => s.closeWindow w.1) s
    let s : State := { s with tln := { s.tln with closed := true, openWins := [], slots := Tbl.mapV s.tln.slots drop } }
    ((s.wf R.TLN_CTRL 0 1 0).wf R.TLN_STATUS 2 2 roleUnmapped).setLock 0)

/-- TLN_TIME_READ (TLN_TIME): a read of 4 or 8 bytes at byte off of the register; one that takes the low half latches the high
half for the next read. -/
def execTlnTimeRead (off bytes : Nat) (s : State) : Host.Outcome State Fault Refusal :=
  .next (
    let t := s.timeNs % 2 ^ 64
    if off = 0 then
      let s := s.emit (.readData (R.TLN_TIME) bytes (t % 2 ^ (8 * bytes)))
      { s with tln := { s.tln with latch := t / 2 ^ 32 } }
    else s.emit (.readData (R.TLN_TIME + off) bytes s.tln.latch))

/-- s with the event timestamp of a message sent over a port, in quarters of a nanosecond (R170). -/
def State.stampNow (s : State) (port : Nat) : Nat := s.timeNs * 4 + Config.stampQuarter port s.timeNs % 4

/-- PTP_MESSAGE (R170, R171): a message of a PTP type (log entry 148) comes in over a port, named by its byte. An event message is
timestamped as it arrives; a delay request or a peer delay request is answered with the timestamps its mechanism needs; one that
completes a measurement (Sync, Follow_Up, Delay_Resp, Pdelay_Resp, Pdelay_Resp_Follow_Up) gives an offset in ns from the
reference, which a time receiver steers by. A grandmaster and a station on local time steer by no PTP message. Announce, management and
signalling are firmware's, and change nothing here. -/
def execPtpMessage (off : PtpIn) (s : State) : Host.Outcome State Fault Refusal :=
  .next (
    let t := s.stampNow off.port
    let s : State := if off.kind < 4 then { s with tln := { s.tln with stamps := Tbl.put s.tln.stamps off.port t } } else s
    if s.rf R.TLN_CTRL 0 1 = 0 then s
    else if off.kind = 1 then (if s.rf R.TLN_CTRL 2 2 = 2 then s else s.emit (.ptp off.port 9 [t]))
    else if off.kind = 2 then s.emit (.ptp off.port 3 [t, t])
    else if [0, 3, 8, 9, 10].contains off.kind && (s.rf R.TLN_CTRL 2 2 = 0 || s.rf R.TLN_CTRL 2 2 = 3) then s.steer off.off
    else s)

/-- The beat marker a neighbour gets: the epoch boundary's time (R171, R330). -/
def beatMsg (t : Nat) : List Byte := dnxMsg 9 0 0 0 0 (t % 2 ^ 64) 0 []

/-- The offsets from its neighbours that a station's beat markers show: how far this station is ahead of each, the delay of the way
taken off (R171). -/
def State.beatOffsets (s : State) (marks : List (Nat × Nat × Nat)) : List Int :=
  s.tln.beats.map (fun b => (b.2.2 : Int) - (b.2.1 : Int) - (Config.pathDelay b.1 : Int)) ++
  marks.map (fun m => (s.timeNs : Int) - (m.2.2 : Int) - (Config.pathDelay (16 + m.1) : Int))

/-- BEAT_ALIGNMENT (R168, R171): at an epoch boundary the station sends its marker over every Denux link in peer mode that is ACTIVE
and every Ethernet port that carries the scheduled class. Each entry of `marks` is a marker that has come over Ethernet: port, domain ID
and the time it carries; one of another domain is dropped. Once PTP has brought the station within 1 µs, it steers by the mean offset
of the neighbours heard since the last boundary (rounded down, log entry 149). TLN_OFFSET shows the estimate. -/
def execBeatAlignment (marks : List (Nat × Nat × Nat)) (s : State) : Host.Outcome State Fault Refusal :=
  .next (
    if s.rf R.TLN_CTRL 0 1 = 0 then s
    else
      let bad := marks.filter (fun m => m.2.1 % 2 ^ 16 ≠ s.rf R.TLN_DOMAIN 0 16)
      let offs := s.beatOffsets (marks.filter (fun m => m.2.1 % 2 ^ 16 = s.rf R.TLN_DOMAIN 0 16))
      let s := if bad.isEmpty then s else s.cnt R.TLN_STALE_MAP bad.length
      let s : State := { s with tln := { s.tln with beats := [] } }
      let t := s.epoch * epochNs
      let peers := (List.range 16).filter (fun l => s.rf (R.DNX_LINK l) 1 1 = 1 && s.dnxState l = 5)
      let s := peers.foldl (fun s l => s.dnxSend l (beatMsg t)) s
      let ports := match s.tln.sched with | some d => (d.wins.map (fun (w : Win) => w.port)).eraseDups | none => []
      let s := ports.foldl (fun (s : State) p => s.emit (.ptp p 16 [s.rf R.TLN_DOMAIN 0 16, t])) s
      let s := if !s.tln.fine || s.aloneInDomain || offs.isEmpty then s else s.steer (offs.sum / (offs.length : Int))
      s.wr R.TLN_OFFSET (if s.aloneInDomain then 0 else wrapInt 32 s.tln.est))

/-- REFERENCE_LOSS (R171): LOCKED becomes HOLDOVER; a station still acquiring has no reference left. -/
def execReferenceLoss (s : State) : Host.Outcome State Fault Refusal :=
  .next (
    let l := s.rf R.TLN_STATUS 0 2
    if s.aloneInDomain then s else if l = 2 then s.setLock 3 else if l = 1 then s.setLock 0 else s)

/-- HOLDOVER_EXPIRY (R172). -/
def execHoldoverExpiry (s : State) : Host.Outcome State Fault Refusal := .next s.holdEnds

/-- GATE_CHANGE (R173): the entry of a port's list whose interval has begun takes effect; the first at the start of every cycle. -/
def execGateChange (port : Nat) (s : State) : Host.Outcome State Fault Refusal :=
  .next (match s.tln.sched with
    | none => s
    | some d => match Tbl.find d.gates port with
      | none => s
      | some es => { s with tln := { s.tln with gatePos := Tbl.put s.tln.gatePos port (gateEntry d.cycle es s.timeNs) } })

/-- TX_WINDOW_OPEN (R176): a transmit window of the active schedule opens. A SPARE or DETACHED station sends nothing in the scheduled
class (R167, R189); with the function disabled the gates are closed. -/
def execTxWindowOpen (w : Nat) (s : State) : Host.Outcome State Fault Refusal :=
  .next (match s.tln.sched.bind (fun d => d.wins[w]?) with
    | none => s
    | some x => if x.rx || s.schedShut || s.tln.closed then s
                else { s with tln := { s.tln with openWins := Tbl.put s.tln.openWins w 0 } })

/-- TX_WINDOW_CLOSE (R176). -/
def execTxWindowClose (w : Nat) (s : State) : Host.Outcome State Fault Refusal := .next (s.closeWindow w)

/-- The kind TLN_STAGE_CTRL selects. -/
def State.stageKind (s : State) : Nat := s.rf R.TLN_STAGE_CTRL 8 4

/-- SCHEDULE_STAGE (R184): the record at TLN_STAGE_BASE is copied into the selected slot. A target outside pool DRAM, or a
record that cannot be read, makes it INVALID; a slot being checked, or armed, takes no other record. -/
def execScheduleStage (s : State) : Host.Outcome State Fault Refusal :=
  .next (
    let k := s.stageKind
    let a := s.rf R.TLN_STAGE_BASE 12 52 * 4096
    let t := s.tlnSlot k
    if 10 ≤ k || t.code = 1 || t.armed.isSome then s
    else
      let bad := fun (s : State) => s.setTlnSlot k { TlnSlot.empty with code := 3, detail := 0xFFFF }
      let take := fun (s : State) (n : Nat) =>
        if 0x48000000000 < a + n then bad s
        else match s.readDpa a n with
          | .ok s b => s.setTlnSlot k ⟨1, 0, b, false, none⟩
          | .fail s _ _ => bad s
      if 0x48000000000 < a + 128 then bad s
      else match s.readDpa a 128 with
        | .fail s _ _ => bad s
        | .ok s h => if k = 1 then take s (remapBytes (min (leAt h 6 2) 1024)) else take s (max 128 (leAt h 24 4)))

/-- STAGE_CHECK_DONE (R183, R184, R188) of kind k. -/
def execStageCheckDone (k : Nat) (s : State) : Host.Outcome State Fault Refusal :=
  .next (
    let t := s.tlnSlot k
    if t.code ≠ 1 then s
    else
      let bad := if k = 1 then (if s.remapOk t.bytes then none else some 0xFFFF) else s.schedBad k t.bytes
      match bad with
      | some d => s.setTlnSlot k { TlnSlot.empty with code := 3, detail := d }
      | none => s.setTlnSlot k { t with code := 2, held := true })

/-- SCHEDULE_ARM (R184): the refusals are looked for in the order the rule lists them. -/
def execScheduleArm (s : State) : Host.Outcome State Fault Refusal :=
  .next (
    let k := s.stageKind
    let e := s.rf R.TLN_STAGE_EPOCH 0 44
    let t := s.tlnSlot k
    if 10 ≤ k then s
    else s.setTlnSlot k (
      if 2 ≤ k then { t with code := 9 }
      else if e < s.epoch + 2 then { t with code := 6 }
      else if !t.held then { t with code := 7 }
      else if s.rf R.TLN_STATUS 0 2 ≠ 2 then { t with code := 8 }
      else if t.armed.isSome then { t with code := 9 }
      else { t with code := 4, armed := some e }))

/-- SCHEDULE_CANCEL (R186). -/
def execScheduleCancel (s : State) : Host.Outcome State Fault Refusal :=
  .next (
    let k := s.stageKind
    let t := s.tlnSlot k
    match t.armed with
    | some e => if s.epoch + 1 < e then s.setTlnSlot k { t with armed := none, code := 2 } else s
    | none => s)

/-- ACTIVATION (R185, R189): what is armed for an epoch that has begun takes effect, a schedule and a re-map together. -/
def execActivation (s : State) : Host.Outcome State Fault Refusal :=
  .next (
    let due := fun (k : Nat) => ((s.tlnSlot k).armed.any (fun e => decide (e ≤ s.epoch)) : Bool)
    let d0 := due 0
    let d1 := due 1
    let e := ((s.tlnSlot 1).armed).getD 0
    let spend := fun (s : State) (k : Nat) => s.setTlnSlot k { s.tlnSlot k with code := 5, held := false, armed := none }
    let s := if d0 = true then spend (s.useSched (schedOf (s.tlnSlot 0).bytes)) 0 else s
    if d1 = true then spend (s.useRemap (remapOf (s.tlnSlot 1).bytes) e) 1 else s)

end Sys2Proof.Machine
end

