-- ==== Sys2Proof/Machine/UpdOps.lean ====
section
/-! DEFINITION. The flash, firmware images, the configuration image and the boot ROM's choice of a bank, as shared operations
(R464 to R471, R478, R479), and the keys and measurements derived from what runs (R395, R396). -/

namespace Sys2Proof.Machine

/-- The bytes of an ASCII text. -/
def ascii (t : String) : List Byte := t.toList.map (fun c => BitVec.ofNat 8 c.toNat)

/-! ## The flash (R465) -/

/-- The byte of the flash at an address. -/
def Upd.byte (u : Upd) (a : Nat) : Byte := match Tbl.find u.flash a with
  | some v => v
  | none => Config.flashByte a

/-- n bytes of the flash from an address. -/
def Upd.bytes (u : Upd) (a n : Nat) : List Byte := (List.range n).map (fun i => u.byte (a + i))

/-- The flash with bytes written from an address. -/
def Upd.write (u : Upd) (a : Nat) : List Byte → Upd
  | [] => u
  | b :: bs => Upd.write { u with flash := Tbl.put u.flash a b } (a + 1) bs

/-- Where a bank begins: 0 is bank A, 1 bank B. -/
def bankBase (b : Nat) : Nat := if b = 0 then 0x100000 else 0x3D00000

/-- The other bank. -/
def otherBank (b : Nat) : Nat := if b = 0 then 1 else 0

/-- Bytes of a firmware header, of a configuration image, of a bank's persistent data and of its firmware area (R465, R470). -/
def hdrBytes : Nat := 8192
def confBytes : Nat := 65536
def dataBytes : Nat := 8 * 2 ^ 20
def bodyMax : Nat := 48 * 2 ^ 20 - 8192

/-- Where the configuration image and the persistent data of a bank begin (R465). -/
def confBase (b : Nat) : Nat := bankBase b + 0x3000000
def dataBase (b : Nat) : Nat := bankBase b + 0x3100000

/-- The header in a bank, the length of its body, and the body as it lies there. -/
def Upd.hdr (u : Upd) (b : Nat) : List Byte := u.bytes (bankBase b) hdrBytes
def hdrLen (h : List Byte) : Nat := leAt h 16 4
def Upd.body (u : Upd) (b : Nat) : List Byte := u.bytes (bankBase b + hdrBytes) (hdrLen (u.hdr b))

/-- The security version, the interface major version and the device-reset flag of a header (R470). -/
def hdrSvn (h : List Byte) : Nat := leAt h 4 4
def hdrMajor (h : List Byte) : Nat := leAt h 13 1
def hdrReset (h : List Byte) : Bool := bit (leAt h 20 1) 0

/-! ## Images (R397, R470) -/

/-- A public key is in the boot ROM's table (R397). -/
def romAccepts (alg : Nat) (key : List Byte) : Bool := sha384 key == Config.romKey alg 0 || sha384 key == Config.romKey alg 1

/-- What an ML-DSA-65 signature with a context covers: FIPS 204's pure message, domain byte 0 and the context's length in front. -/
def withContext (ctx : String) (m : List Byte) : List Byte := 0 :: BitVec.ofNat 8 ctx.length :: (ascii ctx ++ m)

/-- A header is valid (R397, R470): both signatures verify under keys of the boot ROM's table, the silicon revision is accepted, and
the Rsvd bits are 0. Magic and body length must be ones that R470 gives. -/
def hdrValid (h : List Byte) : Bool :=
  let ed := bsub h 72 32
  let ml := bsub h 104 1952
  let m := bsub h 0 2056
  decide (leAt h 0 4 = 0x4D574646) && decide (1 ≤ hdrLen h) && decide (hdrLen h ≤ bodyMax) && decide (fld (leAt h 20 1) 1 7 = 0) &&
  bit (leAt h 21 3) Config.siliconRev && allZero (bsub h 5429 2763) && romAccepts 0x20 ed && romAccepts 0x21 ml &&
  Config.verify 0x20 ed m (bsub h 2056 64) && Config.verify 0x21 ml (withContext "FJT9-FW" m) (bsub h 2120 3309)

/-- A header may start or be transferred: valid, and not below the anti-rollback counter (R471, R473). -/
def Upd.hdrOk (u : Upd) (h : List Byte) : Bool := hdrValid h && decide (u.rollback ≤ hdrSvn h)

/-- The body in a bank has the digest that its header names (R471, R475). -/
def Upd.bodyOk (u : Upd) (b : Nat) : Bool := sha384 (u.body b) == bsub (u.hdr b) 24 48

/-- A bank passes the boot ROM's checks (R471). -/
def Upd.passes (u : Upd) (b : Nat) : Bool := u.hdrOk (u.hdr b) && u.bodyOk b

/-- A bank marked empty (R475, R479): no header is left in it. -/
def Upd.emptyBank (u : Upd) (b : Nat) : Upd :=
  let u := u.write (bankBase b) (zeroBytes hdrBytes)
  { u with applied := setDel u.applied b }

/-! ## The configuration image (R466 to R468) -/

/-- One record's effect on the settings, or none where its value is out of range, or its critical type is not known. -/
def Conf.record (known : Nat → Bool) (c : Conf) (ty : Nat) (v : List Byte) : Option Conf :=
  let n := v.length
  if ty = 1 then (if 1 ≤ n && n ≤ 64 && v.all (fun b => b.toNat < 128) then some { c with boardId := v } else none)
  else if ty = 2 then (if n = 1 && 0x08 ≤ leNat v && leNat v ≤ 0x77 then some { c with staticAddr := leNat v } else none)
  else if ty = 3 then (if n = 2 && 1000 ≤ leNat v && leNat v ≤ 2700 then some { c with capW := leNat v } else none)
  else if ty = 4 then (if n = 512 then some { c with octets := some ((List.range 32).map (fun i => leAt v (16 * i) 16)) } else none)
  else if ty = 5 then
    let gs := (List.range (n / 2)).map (fun i => leAt v (2 * i) 2)
    if n % 2 = 0 && 1 ≤ n / 2 && n / 2 ≤ 8 && gs.all (fun g => g ≠ 0) then some { c with groups := gs } else none
  else if ty = 6 then (if n = 2 then some { c with receiver := some (leAt v 0 1, leAt v 1 1) } else none)
  else if 0x8000 ≤ ty && ty ≤ 0xFFFE then (if known ty then some c else none)
  else some c

/-- The records of a configuration image from offset o of its record area, which ends at `stop`. The bytes after the end record
up to byte 65,531 are 0. -/
def confRecords (b : List Byte) (known : Nat → Bool) (stop : Nat) : Nat → Nat → Conf → Option Conf
  | 0, _, _ => none
  | k + 1, o, c =>
    if stop < o + 4 then none
    else
      let ty := leAt b o 2
      let n := leAt b (o + 2) 2
      if ty = 0xFFFF then (if allZero (bsub b (o + 4) (65532 - (o + 4))) then some c else none)
      else if stop < o + 4 + n then none
      else match Conf.record known c ty (bsub b (o + 4) n) with
        | some c => confRecords b known stop k (o + 4 + roundUp n 4) c
        | none => none

/-- The settings of a configuration image, or none where R468 falls back to defaults. -/
def confOf (known : Nat → Bool) (b : List Byte) : Option Conf :=
  if leAt b 0 4 ≠ 0x47464343 || leAt b 65532 4 ≠ crc32c (b.take 65532) || 65532 - 16 < leAt b 8 4 then none
  else confRecords b known (16 + leAt b 8 4) 16384 16 Conf.factory

/-! ## What the registers show -/

/-- The number of 4 KiB units of a body of n bytes (R474). -/
def unitsOf (n : Nat) : Nat := ceilDiv n 4096

/-- s with CFG_STATUS, CFG_SVN and CFG_UPDATE as the update state stands. -/
def State.showUpd (s : State) : State :=
  let u := s.upd
  let st := s.rd R.CFG_STATUS
  let st := setFld (setFld (setFld st 1 1 u.active) 2 1 (b2n u.trial)) 3 2 (if u.trial then min u.trialBoots 3 else 0)
  let code := if u.armed.isSome then 5 else match u.session with
    | some x => if x.stage ≠ 0 then x.stage else if u.applied.contains (otherBank u.active) then 4 else 0
    | none => if u.applied.contains (otherBank u.active) then 4 else 0
  let held := !u.header.isEmpty && !u.bitmap.isEmpty && decide (u.bitmap.length < unitsOf (hdrLen u.header))
  ((s.wr R.CFG_STATUS st).wr R.CFG_SVN (u.rollback % 2 ^ 32 + hdrSvn (u.hdr u.active) * 2 ^ 32)).wr R.CFG_UPDATE
    (code + (if held then 8 else 0) + u.bitmap.length * 2 ^ 32)

/-- s with the update state changed and shown. -/
def State.setUpd (s : State) (u : Upd) : State := State.showUpd { s with upd := u }

/-! ## Boot (R468, R471, R479) -/

/-- The directory after a reversion or a fallback: the other bank active, no trial (R471, R479). -/
def Upd.revert (u : Upd) : Upd := { u with active := otherBank u.active, trial := false, trialBoots := 0, trialMs := 0, reverted := true, dirSeq := u.dirSeq + 1 }

/-- The start of the active bank, counted while it is on trial (R479). -/
def Upd.startActive (u : Upd) : Upd :=
  if u.trial then { u with trialBoots := u.trialBoots + 1, dirSeq := u.dirSeq + 1, runBank := some u.active } else { u with runBank := some u.active }

/-- The trial bank's fourth start is not made: the other bank becomes active and the trial bank is empty (R479). -/
def Upd.fourthStart (u : Upd) : Upd := if u.trial && decide (3 ≤ u.trialBoots) then (u.emptyBank u.active).revert else u

/-- The new bank of an activation: active, in trial state (R477). -/
def Upd.activate (u : Upd) : Upd :=
  { u with active := otherBank u.active, trial := true, trialBoots := 0, trialMs := 0, armed := none, dirSeq := u.dirSeq + 1
           applied := setDel u.applied (otherBank u.active), toConvert := setIns u.toConvert (otherBank u.active) }

/-- The boot ROM's choice of a bank under the straps (R469, R471, R476, R479); no bank leaves recovery. -/
def Upd.boot (u : Upd) (strap : Nat) : Upd :=
  let u : Upd := { u with session := none, table := [], recv := [], bitmap := u.persisted, restarting := false, runBank := none }
  let u := match u.armed with
    | some a => if a.mode = 3 then u.activate else { u with armed := none }
    | none => u
  if strap = 2 then u
  else if strap = 1 && u.passes (otherBank u.active) then { u with runBank := some (otherBank u.active) }
  else
    let u := u.fourthStart
    if u.passes u.active then u.startActive
    else if u.passes (otherBank u.active) then u.revert.startActive
    else u

/-- s with the settings of a bank's configuration image in force, or the factory defaults (R467, R468), under STRAP_SBADDR (R469).
Critical records are known to the firmware of the bank that runs. -/
def State.loadConf (s : State) : State :=
  let u := s.upd
  let known := fun ty => match u.runBank with
    | some b => Config.knowsRecord (u.body b) ty
    | none => false
  let got := confOf known (u.bytes (confBase u.active) confBytes)
  let c := got.getD Conf.factory
  let s : State := { s with upd := { u with conf := c }, mgt := { s.mgt with capW := c.capW, receiver := c.receiver } }
  let addr := if s.rf R.CFG_STRAPS 2 1 = 1 then 0x1E else c.staticAddr
  ((s.wf R.CFG_STATUS 0 1 (b2n got.isNone)).wf R.MGT_STATUS 4 7 addr).wf R.MGT_STATUS 3 1 (b2n c.receiver.isSome)

/-- The boot ROM and the MC's first-stage firmware run (R490 steps 3 to 6, R491 step 5), under the straps that CFG_STRAPS holds. -/
def State.bootRom (s : State) : State :=
  let was := s.upd.reverted
  let s : State := { s with upd := { s.upd with reverted := false }.boot (s.rf R.CFG_STRAPS 0 2) }
  let s := if s.upd.reverted then s.wf R.CFG_STATUS 6 1 1 else s
  let s : State := { s with upd := { s.upd with reverted := was || s.upd.reverted } }
  let s := s.loadConf.showUpd
  let s := s.wf R.MGT_STATUS 0 2 1
  match s.upd.runBank with
  | some _ => { s.wf R.CFG_STATUS 5 1 0 with dev := .boot }
  | none => { s.wf R.CFG_STATUS 5 1 1 with dev := .recovery }

/-- A sensor of the dies is at or above 90 °C, at which a trip lets the rails come on (R502). -/
def State.tooHot (s : State) : Bool :=
  s.clk.tripped && (List.range 96).any (fun i => s.rf (R.MGT_TEMP i) 16 1 = 1 && decide (90 * 8 ≤ signed 16 (s.rf (R.MGT_TEMP i) 0 16)))

/-- The end of a device reset, with its cause (R491 steps 4 and 5): straps are sampled and the boot ROM runs. After a thermal trip
the rails stay off while a sensor is too hot (R502). -/
def State.deviceReset (s : State) (cause straps : Nat) : State :=
  let hot := s.tooHot
  let s := s.loseMain .boot
  let s := (s.wf R.RST_CAUSE 0 3 cause).wr R.CFG_STRAPS (straps % 16)
  let s := s.wf R.MGT_STATUS 2 1 0
  let s := s.wf R.MGT_STATUS 11 7 0
  if hot then { s with dev := .railsOff, mgt := { s.mgt with powerCmd := 0 } }
  else
    let s : State := { s with clk := { s.clk with brownOut := false, tripped := false, aonStopped := false }, mgt := { s.mgt with powerCmd := 0 } }
    s.bootRom

/-! ## Identity (R395, R396) -/

/-- KDF of R396. -/
def kdf (k : List Byte) (label : String) (m : List Byte) : List Byte := hmac384 k (ascii label ++ m)

/-- A seed of 32 or 64 bytes from a secret under a label (R396). -/
def seed32 (k : List Byte) (label : String) : List Byte := (kdf k label []).take 32
def seed64 (k : List Byte) (label : String) : List Byte := (kdf k label [] ++ kdf k (label ++ "2") []).take 64

/-- The layered secrets of R396, by number: 0 UDS, 1 import key, 2 and 3 DeviceID, 4 and 5 Alias-1, 6 and 7 Alias-2 (Ed25519, then
ML-DSA-65), 8 the storage KEK. -/
def secretsOf (m1 m2 : List Byte) : Tbl (List Byte) :=
  let uds := Config.uds
  let cdi1 := kdf uds "CDI1" m1
  let cdi2 := kdf cdi1 "CDI2" m2
  [(0, uds), (1, seed64 uds "IMPORT"), (2, seed32 uds "ID"), (3, seed32 uds "ID"), (4, seed32 cdi1 "ALIAS"), (5, seed32 cdi1 "ALIAS"),
   (6, seed32 cdi2 "ALIAS"), (7, seed32 cdi2 "ALIAS"), (8, (kdf cdi2 "STORE" []).take 32)]

/-- s with M2 of the bank that runs measured, M1 as given, and the keys derived from both where the UDS is there (R395, R396). -/
def State.measure (s : State) (m1 : List Byte) (bank : Nat) : State :=
  let m2 := sha384 (Config.mainStage (s.upd.body bank) ++ s.upd.bytes (confBase s.upd.active) confBytes)
  let s := (s.wr (R.KCE_MEAS 0) (leNat m1)).wr (R.KCE_MEAS 1) (leNat m2)
  if s.clk.puf then { s with kce := { s.kce with secrets := secretsOf m1 m2 } } else s

/-- s measured as it comes up; without the UDS the KCE is in NO_IDENTITY (R395). -/
def State.identify (s : State) (bank : Nat) : State :=
  let s := s.measure (sha384 (Config.firstStage (s.upd.body bank))) bank
  if s.clk.puf then s.wf R.KCE_STATUS 0 2 0 else (s.wf R.KCE_STATUS 0 2 1).wf R.KCE_STATUS 4 4 3

/-! ## Starts of an image (R477, R478) -/

/-- The first start of an activated image: the other bank's settings, unless the update gave a configuration image, and its data are
written, converted, into the bank's own areas (R478). -/
def State.convertBank (s : State) : State := match s.upd.runBank with
  | none => s
  | some b =>
    let u := s.upd
    if !u.toConvert.contains b then s
    else
      let body := u.body b
      let src := otherBank b
      let v := if u.confNew.contains b then u else u.write (confBase b) (fitBytes (Config.convert body (u.bytes (confBase src) confBytes)) confBytes)
      let v := v.write (dataBase b) (fitBytes (Config.convert body (u.bytes (dataBase src) dataBytes)) dataBytes)
      s.setUpd { v with toConvert := setDel u.toConvert b }

/-- A firmware restart is complete (R477): the new image converts what it needs and is measured. -/
def State.restarted (s : State) : State :=
  if !s.upd.restarting then s
  else
    let s := State.convertBank { s with upd := { s.upd with restarting := false } }
    match s.upd.runBank with
    | some b => (s.measure (leBytes 48 (s.rd (R.KCE_MEAS 0))) b).wr R.FWC_VERSION (leAt (s.upd.hdr b) 12 1 + 2 ^ 8)
    | none => s

end Sys2Proof.Machine
end

