-- ==== Sys2Proof/Machine/Clocks.lean ====
section
/-! DEFINITION. Power-up, resets, clocks and crossings (22_clocks) and DVFS points (R77, R483). -/

namespace Sys2Proof.Machine

/-- Lands of the module that the device drives, by number. -/
def pinPps : Nat := 0
def pinThermAlert : Nat := 1
def pinWake : Nat := 2

/-! ## Power-on and device reset (R488, R490, R491, R496) -/

/-- The module without power: what is left lies outside it, in the flash or in the flash's counter. The bank directory keeps an
activation that waits for the next power-on (R476). -/
def State.dark (s : State) : State :=
  { State.reset with
    pending := s.pending, freeCtr := s.freeCtr
    stor := { Stor.empty with drives := s.stor.drives, recorded := s.stor.recorded }
    pcie := { Pcie.empty with host := s.pcie.host, perst := s.pcie.perst }
    ports := { State.reset.ports with acc := s.ports.acc }
    upd := { s.upd with armed := s.upd.armed.filter (fun a => a.mode = 3), session := none, table := [], recv := []
                        conf := Conf.factory, runBank := none, restarting := false }
    dev := .off, out := s.out }

/-- POWER_ON (R490 steps 1 to 6): 56 V rises, the always-on domain comes up on XTAL_AON, the straps are sampled, the PUF yields the
unique device secret or fails to (`puf`), and the boot ROM chooses a bank. `clks` are the clock inputs present, as CLK_STATUS. -/
def execPowerOn (straps clks : Nat) (puf : Bool) (s : State) : Host.Outcome State Fault Refusal :=
  .next (
    if s.dev ≠ .off || !bit clks 5 then s
    else
      let s := ((s.dark).wr R.CFG_STRAPS (straps % 16)).wr R.CLK_STATUS (setFld (clks % 2 ^ 9) 6 1 0)
      State.bootRom { s with clk := { s.clk with puf := puf }, dev := .boot })

/-- INPUT_COLLAPSE (R496). -/
def execInputCollapse (s : State) : Host.Outcome State Fault Refusal := .next (if s.dev = .off then s else s.dark)

/-- DEVICE_RESET (R454, R491): the MC's device reset, under the straps as they stand. -/
def execDeviceReset (straps : Nat) (s : State) : Host.Outcome State Fault Refusal :=
  .next (if s.dev = .off || s.mgt.powerCmd ≠ 4 then s else s.deviceReset 2 straps)

/-- BROWN_OUT (R496): the rails go off at once. -/
def execBrownOut (s : State) : Host.Outcome State Fault Refusal :=
  .next (
    if s.dev = .off || s.clk.brownOut then s
    else
      let s := ((s.loseMain .railsOff).cnt R.PWR_BROWNOUTS).wf R.PWR_STATUS 0 1 1
      { s with clk := { s.clk with brownOut := true } })

/-- BROWN_OUT_RECOVERY (R496). -/
def execBrownOutRecovery (straps : Nat) (s : State) : Host.Outcome State Fault Refusal :=
  .next (if s.clk.brownOut then s.deviceReset 1 straps else s)

/-! ## Firmware comes up (R396, R444, R445, R490 steps 7 to 11) -/

/-- s with every recorded namespace re-created, owned by slice 0 (R350): a drive namespace to be replayed, a pool scratch on a new
zeroed ECC-on region of slice 0, or not ready where granules are lacking. -/
def State.recreate (s : State) : State :=
  s.stor.recorded.foldl (fun s e =>
    let x : Ns := { e.2 with owner := 0, since := 0, sbAt := e.2.seq, opened := [], closed := [], homing := [], exported := none, notReady := false }
    let put := fun (s : State) (x : Ns) => ({ s with stor := { s.stor with nss := Tbl.put s.stor.nss e.1 x } } : State)
    if x.kind = 0 then put s { x with needReplay := true, lost := false }
    else
      let count := ceilDiv (x.blocks * 4096) (granData true)
      match lowestFree s.mem.regions 1 65535, s.pickGranules (List.range 12) count with
      | some n, some gs =>
        let r : Region := { ecc := true, interleave := true, slice := 0, gen := Tbl.get s.mem.regionGen n 0, granules := gs, refs := 1
                            listDpa := s.listPlace count, hubMask := 0xFFF }
        let s : State := s.newRegion n r
        put s { x with backing := n + r.gen * 65536, lost := true }
      | _, _ => put s { x with notReady := true, lost := true }) s

/-- s with the sixteen control cores started: kernel mode, at their entry (R435, R490 step 9). -/
def State.startCores (s : State) : State :=
  (List.range 16).foldl (fun s k => (s.wr (R.FWC_CORE_STATUS k) 1).setSeq (1536 + k) { Seq.fresh with cs := 2 ^ 13 })
    { s with fw := { s.fw with wdog := (List.range 16).map (fun k => (k, s.timeNs)) } }

/-- s with the main clocks running: PLLs locked where their reference is present, memory paths clocked, links of the dies trained
(R480, R482, R490 step 8). -/
def State.startClocks (s : State) : State :=
  let pcie := if s.rf R.CLK_STATUS 0 1 = 1 then 3 * 2 ^ 29 else 0
  let s := (List.range 12).foldl (fun s h => s.wr (R.MEM_STATUS h) 1) (s.wr R.CLK_PLL_LOCK (2 ^ 29 - 1 + pcie))
  { s with clk := { s.clk with linksUp := true, stopped := [] } }

/-- s with the octet defaults of the configuration image as the reset values of PRT_OCTET (R467). -/
def State.octetDefaults (s : State) : State := match s.upd.conf.octets with
  | none => s
  | some os => (os.zip (List.range 32)).foldl (fun s e => s.wr (R.PRT_OCTET e.2) (setFld e.1 0 1 0)) s

/-- FIRMWARE_READY (R490 steps 7 to 11): rails, clocks, firmware from the chosen bank. The PCIe link trains to a width, a rate and a
mode when PERST# allows. Where the boot ROM has not yet chosen a bank, it does so first. -/
def execFirmwareReady (width speed : Nat) (flit : Bool) (s : State) : Host.Outcome State Fault Refusal :=
  .next (
    if s.dev ≠ .boot then s
    else
      let s := if s.upd.runBank.isNone then s.bootRom else s
      match s.upd.runBank with
      | none => s
      | some b =>
        let s := { s with dev := .run }
        let s := s.startClocks.startCores.octetDefaults.convertBank
        let s := ((s.wf R.FWC_STATUS 0 2 1).wr R.FWC_VERSION (leAt (s.upd.hdr b) 12 1 + 2 ^ 8)).wr R.FWC_FW_FEAT 0x3FF
        let s := ((s.identify b).recreate).wf R.CTL_ADMIN_STATUS 2 1 1
        s.linkTrain width speed flit)

/-! ## Clock inputs and PLLs (R480 to R482) -/

/-- XTAL_AON_LOSS (R481): the always-on domain runs on, main-side clocks stop and the time base leaves LOCKED. -/
def execXtalAonLoss (s : State) : Host.Outcome State Fault Refusal :=
  .next (
    if s.dev = .off || s.dev = .meringue || s.rf R.CLK_STATUS 5 1 = 0 then s
    else
      let s := ((s.wf R.CLK_STATUS 5 1 0).wf R.CLK_STATUS 6 1 1).wr R.CLK_PLL_LOCK 0
      let s := if s.rf R.TLN_STATUS 0 2 = 2 then s.setLock 3 else s
      { s with clk := { s.clk with aonStopped := true } })

/-- PLL_LOCK_LOSS (R482): the PLL of bit n of CLK_PLL_LOCK loses lock, and its clock stops. -/
def execPllLockLoss (n : Nat) (s : State) : Host.Outcome State Fault Refusal :=
  .next (if 31 ≤ n || s.rf R.CLK_PLL_LOCK n 1 = 0 then s
    else State.wf { s with clk := { s.clk with stopped := setIns s.clk.stopped n } } R.CLK_PLL_LOCK n 1 0)

/-- TIME_PPS_EDGE (R480): the edge shows an offset of `off` ns from the reference, which the station steers by when it is a
grandmaster. -/
def execTimePpsEdge (off : Int) (s : State) : Host.Outcome State Fault Refusal :=
  .next (
    if s.dev = .off then s
    else
      let s := s.wf R.CLK_STATUS 8 1 1
      let s := if s.rf R.TLN_CTRL 0 1 = 1 && s.rf R.TLN_CTRL 2 2 = 1 then s.steer off else s
      { s with clk := { s.clk with ppsAt := s.timeNs } })

/-- TIME_PPS_OUT_PULSE (R480): once at each second of domain time, while TLN_CTRL.pps_out = 1. -/
def execTimePpsOutPulse (s : State) : Host.Outcome State Fault Refusal :=
  .next (
    if s.rf R.TLN_CTRL 4 1 = 0 || s.timeNs / 10 ^ 9 = s.clk.ppsSec then s
    else (State.emit { s with clk := { s.clk with ppsSec := s.timeNs / 10 ^ 9 } } (.pin pinPps true)).emit (.pin pinPps false))

/-- PORT_DIE_CORE_GATE (R482): every octet of the die is down, the last for 50 µs. -/
def execPortDieCoreGate (p : Nat) (s : State) : Host.Outcome State Fault Refusal :=
  .next (
    let idle := (List.range 8).all (fun i => s.rf (R.PRT_OCTET_STATUS (8 * p + i)) 0 3 = 0)
    if 4 ≤ p || !idle || s.timeNs < Tbl.get s.clk.octAt p 0 + 50000 then s else { s with clk := { s.clk with gated := setIns s.clk.gated p } })

/-! ## Crossings (R484 to R487) -/

/-- The cells of hub h whose channels come in by the gate of spine link n, with each channel's number there (R79). -/
def State.gateCells (s : State) (h n : Nat) : List (Nat × Nat) :=
  (s.pipes.tab.map (fun p => (p.2.img.chans.filter (fun c => c.hub = h && c.rCell / 128 = h && onRoute c (spineTo h n) (acrossLink n))).map
    (fun c => (c.rCell, c.num)))).flatten

/-- The crossing at a spine gate times out (R79, R486, R487): what it holds and what later comes to it is discarded, and the cells whose
channels cross it take CROSSING_STALL naming the channel. -/
def State.gateStall (s : State) (h n : Nat) : State :=
  let s : State := { s with
    lat := { s.lat with gates := s.lat.gates.filter (fun g => !(g.hub = h && g.link = n && g.inb)) }
    clk := { s.clk with xings := setIns s.clk.xings (4 * h + n) } }
  (s.gateCells h n).foldl (fun s c => s.machineCheck c.1 mcCrossing c.2) s

/-- A cell's crossing to the memory path times out for an address: lines and writes of it that have not crossed are gone (R87). -/
def State.pathStall (s : State) (c a : Nat) : State :=
  let s := s.updSeq c (fun q => { q with
    wq := q.wq.filter (fun w => w.2.1 ≠ a)
    s1 := []
    strm := Tbl.mapV q.strm (fun _ x => { x with inFlight := x.inFlight.filter (fun l => l.2 ≠ a) }) })
  s.machineCheck c mcCrossing a

/-- CROSSING_TIMEOUT (R486): the sending die's clock has stopped. The receiver, a cell of hub a / 128 at its memory path for address b, the
engine of descriptor (a, b), control core a, a host read (the oldest that BAR4 holds, else one of BAR0), the MC for a message on binding a
(whose one word reads as unavailable), or the gate of spine link b of hub a with the sending hub across. -/
def execCrossingTimeout (die receiver a b : Nat) (s : State) : Host.Outcome State Fault Refusal :=
  .next (
    if 16 < die || s.dev ≠ .run then s
    else
      let s := (s.wf R.CLK_XING_STALL die 1 1).cnt R.CLK_STALLS
      match receiver with
      | 0 => if a < 1536 then s.pathStall a b else s
      | 1 => (match s.job a b with | some j => s.jobStops j stClockStall die | none => s)
      | 2 => if a < 16 then s.pendIrq a 0x11 die else s
      | 3 => (match s.pcie.held with
          | .read _ _ _ :: _ => State.hostRefuse { s with pcie := { s.pcie with held := s.pcie.held.drop 1 } } 0 2
          | _ => s.hostRefuse 0 2)
      | 4 => if a < 3 then s.emit (.mctp a 0x7E 1 [0, 0]) else s
      | 5 => if a < 12 && b < 4 && spineTo a b + 1 = die then s.gateStall a b else s
      | _ => s)

/-! ## Die warm reset (R487, R489, R495) -/

/-- The pipelines with a cell in a hub. -/
def State.pipesIn (s : State) (h : Nat) : List Nat := Tbl.keysWhere s.pipes.tab (fun _ p => p.cells.any (fun c => c / 128 = h))

/-- A pipeline of a hub under warm reset (R495 step 3): a wave or ARM commits MACHINE_CHECK, class CROSSING_STALL, and it is
unloaded. -/
def State.pipeLost (s : State) (pn : Nat) : State := match Tbl.find s.pipes.tab pn with
  | none => s
  | some p =>
    let s := if p.wave.isSome || p.arm.isSome then s.stopPipe pn stMachineCheck (p.cells.headD 0) mcCrossing else s
    s.removePipe pn

/-- The snapshots that a hub's warm reset spoils: those with a page there that is not yet copied (R366, R495). -/
def State.snapshotsLost (s : State) (h : Nat) : State :=
  let here := fun (p : CkPage) => decide (p.hub = h)
  { s with ckp := { s.ckp with jobs := Tbl.mapV s.ckp.jobs (fun _ k => match k.run with
      | some r => if (r.left ++ r.reading).any here then { k with run := some { r with lost := true } } else k
      | none => k) } }

/-- Hub h under warm reset (R495 steps 1 to 5). -/
def State.hubReset (s : State) (h : Nat) : State :=
  let s := ((s.pipesIn h).foldl (fun s pn => s.pipeLost pn) s).snapshotsLost h
  let pages := fun (p : Nat) => decide (h * (hubBytes / 4096) ≤ p) && decide (p < (h + 1) * (hubBytes / 4096))
  let m := s.mem
  let freed := m.guard.filter pages
  let s : State := { s with mem := { m with checks := m.checks.filter (fun c => c.1 / hubBytes ≠ h) }, xlt := { s.xlt with cache := s.xlt.cache.filter (fun c => c.walker ≠ h) } }
  let s := (freed.foldl (fun s p => State.releaseGuard { s with mem := { s.mem with guard := setDel s.mem.guard p } } p) s).settleWrites
  let s := (((s.wf (R.MEM_STATUS h) 0 1 0).wf (R.MEM_STATUS h) 1 1 1).wf R.CLK_PLL_LOCK h 1 0).wf R.CLK_PLL_LOCK (12 + h) 1 0
  { s with lat := { s.lat with crumbs := s.lat.crumbs.filter (fun c => c.hub ≠ h), gates := s.lat.gates.filter (fun c => c.hub ≠ h) } }

/-- An octet of a port die under warm reset goes down: sub-ports drop, a Denux link is DOWN (R339). -/
def State.octetDrops (s : State) (o : Nat) : State :=
  let up := s.rf (R.PRT_OCTET_STATUS o) 0 3
  let s := if s.octetMode o ≠ 5 && up = 2 then s.cnt (R.PRT_LINK_DOWN o) else s
  let s := match s.linkOf o with
    | some n => if s.dnxState n = 0 || s.dnxState n = 7 then s else s.linkDown n
    | none => s
  if up = 0 then s else s.wr (R.PRT_OCTET_STATUS o) (if s.octetMode o = 5 then 4 else 1)

/-- Port die p under warm reset (R495): octets down, queued frames dropped and counted, reorder blocks cleared. -/
def State.portReset (s : State) (p : Nat) : State :=
  let s := (List.range 8).foldl (fun s i => s.octetDrops (8 * p + i)) s
  let d := s.die p
  let s := d.queues.foldl (fun s q => s.cnt (R.TSH_TAIL_DROP p) q.2.length) s
  let s := s.setDie p { d with queues := [], deficit := [], turn := [], paused := [], xoff := [] }
  let s : State := { s with xlt := { s.xlt with cache := s.xlt.cache.filter (fun c => c.walker ≠ 12 + p) }, tmt := { s.tmt with qps := Tbl.mapV s.tmt.qps (fun _ q => if !q.denux && dieOf q.port = p then { q with rxSet := [] } else q) } }
  s.wf R.CLK_PLL_LOCK (24 + p) 1 0

/-- DIE_WARM_RESET: RST_DIE is written with go; a die out of range, or one already under reset, is ignored (R489). -/
def execDieWarmReset (word : Nat) (s : State) : Host.Outcome State Fault Refusal :=
  .next (
    let die := fld word 0 5
    let s := s.wf R.RST_DIE 0 5 die
    if !bit word 5 || die = 0 || 16 < die || s.dev ≠ .run || s.clk.dieResets.contains die then s
    else
      let s : State := { s with clk := { s.clk with dieResets := setIns s.clk.dieResets die } }
      let s := s.wf R.RST_DIE 6 1 1
      if die ≤ 12 then s.hubReset (die - 1) else s.portReset (die - 13))

/-- A hub back from its warm reset (R495 step 6): stores zeroed with valid checks, cells IDLE, frame counter restarted. -/
def State.hubBack (s : State) (h : Nat) : State :=
  let lo := cellDpa (128 * h) 0
  let m := s.mem
  let out := fun (a : Nat) => decide (a < lo) || decide (lo + 128 * 0x200000 ≤ a)
  let hub := fun (a : Nat) => match place a with | .hubStore g _ => decide (g ≠ h) | _ => true
  let s : State := { s with mem := { m with
    bytes := (m.bytes.filter (fun e => out e.1 && hub e.1) : Mem), tags := (m.tags.filter (fun e => out e.1) : Tbl Nat)
    bad := m.bad.filter (fun a => out a && hub a), weak := m.weak.filter (fun a => out a && hub a), rewrite := m.rewrite.filter out } }
  let s := (List.range 128).foldl (fun s i => ((s.setSeq (128 * h + i) Seq.fresh).setCellState (128 * h + i) csIdle).setCellOwner (128 * h + i) 0) s
  let s := ((s.wr (R.MEM_STATUS h) (1 + s.rf (R.MEM_STATUS h) 2 1 * 4)).wf R.CLK_PLL_LOCK h 1 1).wf R.CLK_PLL_LOCK (12 + h) 1 1
  let s := s.ctrClear (R.LAT_HUB_FRAMES h)
  { s with clk := { s.clk with frameAcc := Tbl.del s.clk.frameAcc h, stopped := s.clk.stopped.filter (fun n => n ≠ h && n ≠ 12 + h), xings := s.clk.xings.filter (fun x => x / 4 ≠ h && spineTo (x / 4) (x % 4) ≠ h) }
           hubPow := Tbl.del s.hubPow h }

/-- DIE_WARM_RESET_DONE. -/
def execDieWarmResetDone (die : Nat) (s : State) : Host.Outcome State Fault Refusal :=
  .next (
    if !s.clk.dieResets.contains die then s
    else
      let left := setDel s.clk.dieResets die
      let s : State := { s with clk := { s.clk with dieResets := left } }
      let s := (s.wf R.RST_DIE 6 1 (b2n (!left.isEmpty))).cnt R.RST_DIE_RESETS
      if die ≤ 12 then s.hubBack (die - 1) else State.wf { s with clk := { s.clk with stopped := setDel s.clk.stopped (24 + (die - 13)) } } R.CLK_PLL_LOCK (24 + (die - 13)) 1 1)

/-! ## DVFS points (R77, R440, R483) -/

/-- s with a change of hub h's DVFS point requested now (R483). -/
def State.dvfsAsked (s : State) (h : Nat) : State := { s with clk := { s.clk with dvfsAt := Tbl.put s.clk.dvfsAt h s.timeNs } }

/-- DVFS_REQUEST: LAT_HUB_CTRL.dvfs_req of hub h is written; a point above 4 acts as 4. -/
def execDvfsRequest (h v : Nat) (s : State) : Host.Outcome State Fault Refusal :=
  .next (if 12 ≤ h then s else State.wf (s.dvfsAsked h) (R.LAT_HUB_CTRL h) 0 3 (min (v % 8) 4))

/-- The point a hub is wanted at: while an image is loaded on it the point the image was compiled for, whatever is requested (R32, R150). -/
def State.dvfsWanted (s : State) (h : Nat) : Nat := match s.hubPoint h with
  | some p => p
  | none => s.rf (R.LAT_HUB_CTRL h) 0 3

/-- The point a hub is to run at: as wanted, no higher than the limiter holds it. -/
def State.dvfsTarget (s : State) (h : Nat) : Nat := min (s.dvfsWanted h) (Tbl.get s.phys.hold h 4)

/-- DVFS_SWITCH: at a frame boundary at least 20 µs after the request the hub's array takes the pending point. -/
def execDvfsSwitch (h : Nat) (s : State) : Host.Outcome State Fault Refusal :=
  .next (if 12 ≤ h || (Tbl.find s.clk.dvfsAt h).any (fun t => decide (s.timeNs < t + 20000)) then s else s.wf (R.LAT_HUB_CTRL h) 4 3 (s.dvfsTarget h))

end Sys2Proof.Machine
end

