-- ==== Sys2Proof/Machine/CollRun.lean ====
section
/-! DEFINITION. What one device computes in a step of a collective plan (R194 to R201): chunks, the fixed reduction order as
this rank takes part in it, quantization sites with their residuals, and the data that moves in and out of tensors. Data
that arrives comes as a list, one entry for each transfer of a chunk to this rank, in the order of the algorithm. -/

namespace Sys2Proof.Machine

/-! ## Element formats (R193, R199) -/

/-- Microscaling formats have codes from 0x10; their number among those of R100. -/
def isMx (c : Nat) : Bool := 0x10 ≤ c && c ≤ 0x15
def elemBits (c : Nat) : Nat := if isMx c then mxBits (c - 0x10) else codeBits c

/-- Elements of a tensor, and the scale of each block of 32 for a microscaling format. -/
structure Elems where
  xs : List Nat
  sc : List Nat
deriving DecidableEq, Repr

/-- The code of the accumulation format. -/
def CPhase.accCode (p : CPhase) : Nat := if p.accElem then p.elem else 1

/-- The sources of stochastic bits: the plan's seed, the step, and the index of the first element. -/
structure SrKey where
  seed : Nat
  step : Nat
  at' : Nat
deriving DecidableEq, Repr

/-- The stochastic bits of element i at a rounding site (R95, R199): the seed of each site is Swekin's (log entry 42). -/
def SrKey.bits (k : SrKey) (site i : Nat) : Nat := srBits (Config.siteSeed k.seed site) k.step (k.at' + i)

/-- A floating-point format of an element code; the accumulation formats that are no integers have one. -/
def fmtFor (c : Nat) : Fmt := (fmtOf c).getD .binary32

/-- The flags of a list of results. -/
def orFlags (l : List (Nat × Nat)) : Nat := l.foldl (fun f x => f ||| x.2) 0

/-- Elements as accumulation-format bits: an exact conversion, microscaling elements decoded in the phase's mode (R101, R199). A decoded
element has too few bits for its rounding to depend on stochastic ones. -/
def CPhase.toAcc (p : CPhase) (e : Elems) : List Nat :=
  if isMx p.elem then
    (e.xs.zip (List.range e.xs.length)).map (fun x => (Fmt.binary32.round p.rounding false 0 (mxValue (p.elem - 0x10) (nth e.sc (x.2 / 32) 0) x.1)).1)
  else if p.accElem then e.xs
  else e.xs.map (fun x => (convert p.elem 1 rmRNE false 0 x).1)

/-- Accumulation-format bits as elements, each rounded once (R199), with the flags: a microscaling result is quantized (R101). -/
def CPhase.fromAcc (p : CPhase) (k : SrKey) (site : Nat) (xs : List Nat) : Elems × Nat :=
  if isMx p.elem then
    let qs := (chunksOf 32 (xs.length + 1) xs).zip (List.range (xs.length / 32 + 1))
    let rs := qs.map (fun q => mxQuant (p.elem - 0x10) p.rounding (fun i => k.bits site (32 * q.2 + i)) (q.1.map Fmt.binary32.decode))
    (⟨(rs.map (fun r => r.2.1)).flatten, rs.map (fun r => r.1)⟩, rs.foldl (fun f r => f ||| r.2.2) 0)
  else if p.accElem then (⟨xs, []⟩, 0)
  else
    let rs := (xs.zip (List.range xs.length)).map (fun x => convert 1 p.elem p.rounding false (k.bits site x.2) x.1)
    (⟨rs.map Prod.fst, []⟩, orFlags rs)

/-- An integer at width w: wrapped, or saturated with OV. -/
def wrapOrSat (sat : Bool) (w : Nat) (i : Int) : Nat × Nat :=
  let hi : Int := ((2 ^ (w - 1) : Nat) : Int) - 1
  let lo : Int := -((2 ^ (w - 1) : Nat) : Int)
  if sat then (wrapInt w (min (max i lo) hi), if i < lo || hi < i then fOV else 0) else (wrapInt w i, 0)

/-- a ⊕ b and its flags, the arriving partial on the left (R199, R512). SR acts as RNE where R94 does not let it act. CS.SAT of R96 counts
as 0 (DESIGN CHOICE, log entry 138). -/
def CPhase.op (p : CPhase) (a b : Nat) : Nat × Nat :=
  let c := p.accCode
  if codeInt c then
    let w := codeBits c
    let x := signed w a
    let y := signed w b
    match p.operator with
    | 0 => wrapOrSat p.saturate w (x + y)
    | 1 => (wrapInt w (max x y), 0)
    | 2 => (wrapInt w (min x y), 0)
    | _ => wrapOrSat p.saturate w (x * y)
  else
    let f := fmtFor c
    let m := arithMode p.rounding
    let v := match p.operator with
      | 0 => FV.add m (f.decode a) (f.decode b)
      | 1 => (FV.pick true (f.decode a) (f.decode b), false)
      | 2 => (FV.pick false (f.decode a) (f.decode b), false)
      | _ => FV.mul (f.decode a) (f.decode b)
    let r := f.round m false 0 v.1
    (r.1, r.2 ||| (if v.2 then fOV else 0))

/-- Elementwise ⊕, with the flags. -/
def CPhase.combine (p : CPhase) (a b : List Nat) : List Nat × Nat :=
  let rs := (a.zip b).map (fun x => p.op x.1 x.2)
  (rs.map Prod.fst, orFlags rs)

/-! ## Chunks (R195) -/

/-- A run of blocks: the first and how many. -/
abbrev Run := Nat × Nat

/-- The run of member j when a run of blocks is partitioned over n (R27, granule 1). -/
def partOf (r : Run) (n j : Nat) : Run := let m := memberItems 2 n 1 r.2 j; (r.1 + m.2 0, m.1)

/-- The blocks of N elements, and a run's first element and number of elements. -/
def blocksOf (N : Nat) : Run := (0, ceilDiv N 32)
def runAt (r : Run) : Nat := 32 * r.1
def runLen (N : Nat) (r : Run) : Nat := min N (32 * (r.1 + r.2)) - min N (32 * r.1)

/-- Chunk c(r) of rank r: on a torus the subchunk of its column's row chunk. -/
def CPhase.chunk (p : CPhase) (P N r : Nat) : Run :=
  if p.algorithm = 2 then partOf (partOf (blocksOf N) p.cols (r % p.cols)) p.rows (r / p.cols) else partOf (blocksOf N) P r

/-- The elements of a run within elements that begin at block b0. -/
def Elems.part (e : Elems) (N b0 : Nat) (r : Run) : Elems :=
  ⟨(e.xs.drop (32 * (r.1 - b0))).take (runLen N r), (e.sc.drop (r.1 - b0)).take r.2⟩
def accPart (xs : List Nat) (N b0 : Nat) (r : Run) : List Nat := (xs.drop (32 * (r.1 - b0))).take (runLen N r)

/-- Elements one after the other. -/
def Elems.cat (l : List Elems) : Elems := ⟨(l.map (fun e => e.xs)).flatten, (l.map (fun e => e.sc)).flatten⟩

/-- Pieces of a tensor: the block each begins at, and its elements. -/
abbrev Pieces := List (Nat × Elems)

/-- A tensor of N elements made of pieces; what no piece covers is +0 here and is not written (log entry 155). -/
def Pieces.fill (ps : Pieces) (code N : Nat) : Elems :=
  let get := fun (i : Nat) => (ps.find? (fun p => 32 * p.1 ≤ i && i < 32 * p.1 + p.2.xs.length)).elim 0 (fun p => nth p.2.xs (i - 32 * p.1) 0)
  let scale := fun (b : Nat) => (ps.find? (fun p => p.1 ≤ b && b < p.1 + p.2.sc.length)).elim 0 (fun p => nth p.2.sc (b - p.1) 0)
  ⟨(List.range N).map get, if isMx code then (List.range (ceilDiv N 32)).map scale else []⟩

/-! ## Transfers and quantization sites (R195, R200, R201) -/

/-- The state of a running computation: what has not arrived yet, one entry a segment; bytes sent, and what was sent to which rank; the
residuals of the phase (element i of bank b under 2 × i + b) and the index of the next one; the number of the next rounding site; the flags
that arithmetic has raised. -/
structure CRun where
  arr : List (List Byte)
  sent : Nat
  outs : List (Nat × List Byte)
  resid : Tbl Nat
  next : Nat
  site : Nat
  flags : Nat
deriving DecidableEq, Repr

/-- What every function of a step needs: the phase and its number, ranks, this rank, the elements, the seed and the step. -/
structure CEnv where
  p : CPhase
  P : Nat
  r : Nat
  N : Nat
  seed : Nat
  step : Nat
  ph : Nat
deriving DecidableEq, Repr

def CEnv.key (v : CEnv) (r : Run) : SrKey := ⟨v.seed, v.step, runAt r⟩

/-- The number of a rounding site: sites of different ranks differ; that of the decoding of results is the phase's, and the same on every
rank (R198, R199). -/
def CEnv.siteNo (v : CEnv) (site : Nat) : Nat := v.r * 2 ^ 40 + v.ph * 2 ^ 32 + site
def CEnv.decodeSite (v : CEnv) : Nat := 2 ^ 60 + v.ph

def CRun.raise (c : CRun) (fl : Nat) : CRun := { c with flags := c.flags ||| fl }

/-- What one segment takes on the wire: ZR encodes each segment of its own (R200). -/
def CEnv.wire (v : CEnv) (bits : Nat) (seg : List Byte) : List Byte := if v.p.compression = 1 then zrEncode (max 1 (bits / 8)) seg else seg

/-- s with the segments of a transfer sent to a rank. -/
def CRun.send (c : CRun) (v : CEnv) (dst bits : Nat) (segs : List (List Byte)) : CRun :=
  let ws := segs.map (v.wire bits)
  { c with sent := c.sent + (ws.map List.length).sum, outs := c.outs ++ ws.map (fun w => (dst, w)) }

/-- The bytes of a segment that has arrived, when it decodes to n. -/
def CEnv.unwire (v : CEnv) (n : Nat) (w : List Byte) : Option (List Byte) :=
  let b := if v.p.compression = 1 then decodeFrames zrDecodeFrame (w.length + 1) w [] else (w, none)
  if b.2.isNone && b.1.length = n then some b.1 else none

/-- The next segments that have arrived, when they have the lengths `ns`. -/
def CRun.take (v : CEnv) : CRun → List Nat → Option (CRun × List (List Byte))
  | c, [] => some (c, [])
  | c, n :: ns => match c.arr with
    | [] => none
    | a :: rest => match v.unwire n a with
      | none => none
      | some b => (CRun.take v { c with arr := rest } ns).map (fun x => (x.1, b :: x.2))

/-- TB8 (2) and TB4 (3). -/
def CEnv.tb (v : CEnv) : Bool := 2 ≤ v.p.compression
def CEnv.four (v : CEnv) : Bool := v.p.compression = 3

/-- The elements of each segment of a run (R195): the phase's segment, the last one shorter. -/
def CEnv.segs (v : CEnv) (r : Run) : List Nat :=
  let n := runLen v.N r
  (List.range (ceilDiv n (max 1 v.p.segment))).map (fun i => min v.p.segment (n - i * v.p.segment))

/-- Elements cut into segments. -/
def CEnv.cut {α : Type} (v : CEnv) (xs : List α) : List (List α) := chunksOf (max 1 v.p.segment) (xs.length + 1) xs

/-- Blocks of a segment encoded under TB8 or TB4. -/
def CEnv.tbSegs (v : CEnv) (blocks : List (List Byte)) : List (List Byte) :=
  (chunksOf (max 1 (v.p.segment / 32)) (blocks.length + 1) blocks).map List.flatten

/-- Values encoded under TB8 or TB4 at a quantization site, with the residuals where there is feedback: the segments. -/
def CRun.quant (c : CRun) (v : CEnv) (r : Run) (xs : List Nat) : CRun × List (List Byte) :=
  let f := fmtFor v.p.accCode
  let bank := v.step % 2
  let olds := (List.range xs.length).map (fun i => Tbl.get c.resid (2 * (c.next + i) + bank) 0)
  let ys := if v.p.feedback then (xs.zip olds).map (fun x => Fmt.binary32.decode (Fmt.binary32.round rmRNE false 0 (FV.add rmRNE (f.decode x.1) (Fmt.binary32.decode x.2)).1).1)
            else xs.map f.decode
  let k := v.key r
  let blocks := (chunksOf 32 (ys.length + 1) ys).zip (List.range (ys.length / 32 + 1))
  let coded := blocks.map (fun b => (b.1, tbEncode v.four v.p.rounding (fun i => k.bits (v.siteNo c.site) (32 * b.2 + i)) b.1))
  let c := { c with site := c.site + 1, flags := coded.foldl (fun f b => f ||| b.2.2) c.flags }
  let c := if !v.p.feedback then c
    else
      let news := (coded.map (fun b => (b.1.zip (List.range b.1.length)).map (fun y =>
        (Fmt.binary32.round rmRNE false 0 (FV.add rmRNE y.1 (FV.neg (tbValue v.four b.2.1 y.2))).1).1))).flatten
      { c with next := c.next + xs.length
               resid := (news.zip (List.range news.length)).foldl (fun t e => Tbl.set t (2 * (c.next + e.2) + (1 - bank)) e.1 0) c.resid }
  (c, v.tbSegs (coded.map (fun b => b.2.1)))

/-- The values of a run from TB8 or TB4 segments, in the accumulation format under the phase's mode (R95, R111), with the flags. -/
def CEnv.unquant (v : CEnv) (r : Run) (site : Nat) (segs : List (List Byte)) : List Nat × Nat :=
  let f := fmtFor v.p.accCode
  let b := tbBytes v.four
  let bs := segs.flatten
  let rs := (List.range (runLen v.N r)).map (fun i =>
    f.round v.p.rounding false ((v.key r).bits site i) (tbValue v.four (bsub bs (i / 32 * b) b) (i % 32)))
  (rs.map Prod.fst, orFlags rs)

/-- A partial as it is sent, and read by its receiver (R200). -/
def CRun.sendPartial (c : CRun) (v : CEnv) (dst : Nat) (r : Run) (xs : List Nat) : CRun :=
  if v.tb then let q := c.quant v r xs; q.1.send v dst 8 q.2
  else let w := elemBits v.p.accCode; c.send v dst w ((v.cut xs).map (packElems w))

def CRun.takePartial (c : CRun) (v : CEnv) (r : Run) : Option (CRun × List Nat) :=
  if v.tb then
    (CRun.take v c ((v.segs r).map (fun n => ceilDiv n 32 * tbBytes v.four))).map (fun x =>
      let y := v.unquant r (v.siteNo x.1.site) x.2
      (({ x.1 with site := x.1.site + 1 } : CRun).raise y.2, y.1))
  else
    let w := elemBits v.p.accCode
    (CRun.take v c ((v.segs r).map (fun n => (n * w + 7) / 8))).map (fun x =>
      (x.1, ((x.2.zip (v.segs r)).map (fun y => elemsOf w y.2 y.1)).flatten))

/-- The segments of elements on the wire: each its elements, then their scales. -/
def CEnv.elemWire (v : CEnv) (e : Elems) : List (List Byte) :=
  ((v.cut e.xs).zip (List.range e.xs.length)).map (fun x =>
    packElems (elemBits v.p.elem) x.1 ++ (((e.sc.drop (x.2 * (v.p.segment / 32))).take (ceilDiv x.1.length 32)).map (leBytes 1)).flatten)

/-- The bytes of each segment of an encoded result on the wire. -/
def CEnv.resultLens (v : CEnv) (r : Run) : List Nat :=
  (v.segs r).map (fun n => if v.tb then ceilDiv n 32 * tbBytes v.four else (n * elemBits v.p.elem + 7) / 8 + (if isMx v.p.elem then ceilDiv n 32 else 0))

/-- A result's one encoding by its holder, from accumulation-format bits (R198, R200). -/
def CRun.encode (c : CRun) (v : CEnv) (r : Run) (xs : List Nat) : CRun × List (List Byte) :=
  if v.tb then c.quant v r xs
  else
    let e := v.p.fromAcc (v.key r) (v.siteNo c.site) xs
    (({ c with site := c.site + 1 } : CRun).raise e.2, v.elemWire e.1)

/-- A result as every rank writes it, from its encoding. -/
def CEnv.decode (v : CEnv) (r : Run) (segs : List (List Byte)) : Elems × Nat :=
  if v.tb then
    let x := v.unquant r v.decodeSite segs
    let e := v.p.fromAcc (v.key r) (v.decodeSite + 16) x.1
    (e.1, e.2 ||| x.2)
  else
    let w := elemBits v.p.elem
    let parts := (segs.zip (v.segs r)).map (fun s => (⟨elemsOf w s.2 s.1, if isMx v.p.elem then elemsOf 8 (ceilDiv s.2 32) (s.1.drop ((s.2 * w + 7) / 8)) else []⟩ : Elems))
    (Elems.cat parts, 0)

/-- Source data's one encoding (all-gather, broadcast, all-to-all): unquantized data goes as it is. -/
def CRun.encodeSrc (c : CRun) (v : CEnv) (r : Run) (e : Elems) : CRun × List (List Byte) :=
  if v.tb then c.quant v r (v.p.toAcc e) else (c, v.elemWire e)

/-- An encoding is sent on to a rank. -/
def CRun.pass (c : CRun) (v : CEnv) (dst : Nat) (segs : List (List Byte)) : CRun := c.send v dst (if v.tb then 8 else elemBits v.p.elem) segs

/-! ## Rings (R196) -/

/-- The reduction ring over n members, this one `me`: chunk me − 1 leaves first; what arrives is combined and, but for the
last, sent on to member me + 1, whose rank is `dst`. `run` gives each chunk's run; the local values begin at block b0. -/
def ringReduce (v : CEnv) (n me dst : Nat) (run : Nat → Run) (b0 : Nat) (xs : List Nat) (c : CRun) : Option (CRun × List Nat) :=
  let mine := fun j => accPart xs v.N b0 (run (j % n))
  (List.range (n - 1)).foldl (fun acc k => match acc with
    | none => none
    | some (c, cur) =>
      let c := c.sendPartial v dst (run ((me + 2 * n - 1 - k) % n)) cur
      let j := (me + 2 * n - 2 - k) % n
      (c.takePartial v (run j)).map (fun x => let y := v.p.combine x.2 (mine j); (x.1.raise y.2, y.1))) (some (c, mine (me + n - 1)))

/-- Transfers of a list of runs taken one after the other. -/
def CRun.takeAll (v : CEnv) (c : CRun) : List Run → Option (CRun × List (List (List Byte)))
  | [] => some (c, [])
  | r :: rs => match CRun.take v c (v.resultLens r) with
    | none => none
    | some (c, b) => (c.takeAll v rs).map (fun x => (x.1, b :: x.2))

/-- The gathering ring: each member's encodings go round once. Gives every member's, in member order. -/
def ringGather (v : CEnv) (n me dst : Nat) (units : Nat → List Run) (own : List (List (List Byte))) (c : CRun) :
    Option (CRun × List (List (List (List Byte)))) :=
  let go := (List.range (n - 1)).foldl (fun (acc : Option (CRun × List (List (List Byte)) × List (Nat × List (List (List Byte))))) k => match acc with
    | none => none
    | some (c, cur, got) =>
      let c := cur.foldl (fun (c : CRun) b => c.pass v dst b) c
      let j := (me + n - 1 - k) % n
      (c.takeAll v (units j)).map (fun x => (x.1, x.2, got ++ [(j, x.2)]))) (some (c, own, [(me, own)]))
  go.map (fun x => (x.1, (List.range n).map (fun j => ((x.2.2.find? (fun g => g.1 = j)).map Prod.snd).getD [])))

/-! ## Trees (R196) -/

/-- The levels of a tree over P ranks. -/
def levels (P : Nat) : List Nat := (List.range 11).filter (fun l => 2 ^ l < P)

/-- The relative rank above relative rank q, and those below it. -/
def treeUp (P q : Nat) : Option Nat := ((levels P).find? (fun l => q % 2 ^ (l + 1) = 2 ^ l)).map (fun l => q - 2 ^ l)
def treeKids (P q : Nat) : List Nat := ((levels P).filter (fun l => q % 2 ^ (l + 1) = 0 && q + 2 ^ l < P)).map (fun l => q + 2 ^ l)

/-- Reduction up the tree of relative rank q: at the end relative rank 0 holds the result. -/
def treeReduce (v : CEnv) (root q : Nat) (xs : List Nat) (c : CRun) : Option (CRun × List Nat) :=
  let all := blocksOf v.N
  (levels v.P).foldl (fun acc l => match acc with
    | none => none
    | some (c, cur) =>
      if q % 2 ^ (l + 1) = 0 then
        (if q + 2 ^ l < v.P then (CRun.takePartial c v all).map (fun x => let y := v.p.combine x.2 cur; (x.1.raise y.2, y.1)) else some (c, cur))
      else if q % 2 ^ (l + 1) = 2 ^ l then some (c.sendPartial v ((q - 2 ^ l + root) % v.P) all cur, cur)
      else some (c, cur)) (some (c, xs))

/-- One encoding of all the data moves to this rank, where it is not the root, and on to `kids`. -/
def spread (v : CEnv) (isRoot : Bool) (own : List (List Byte)) (kids : List Nat) (c : CRun) : Option (CRun × List (List Byte)) :=
  let go := fun (x : CRun × List (List Byte)) => (kids.foldl (fun (c : CRun) k => c.pass v k x.2) x.1, x.2)
  if isRoot then some (go (c, own)) else (CRun.take v c (v.resultLens (blocksOf v.N))).map go

/-! ## Operations (R194, R205) -/

/-- Position on the torus: row and column, and the rank at a position. -/
def CEnv.y (v : CEnv) (r : Nat) : Nat := r / v.p.cols
def CEnv.x (v : CEnv) (r : Nat) : Nat := r % v.p.cols
def CEnv.rank (v : CEnv) (y x : Nat) : Nat := y % v.p.rows * v.p.cols + x % v.p.cols

/-- The next rank on this rank's ring, row and column. -/
def CEnv.nextRing (v : CEnv) : Nat := (v.r + 1) % v.P
def CEnv.nextRow (v : CEnv) : Nat := v.rank (v.y v.r) (v.x v.r + 1)
def CEnv.nextCol (v : CEnv) : Nat := v.rank (v.y v.r + 1) (v.x v.r)

/-- The run of a row chunk, and of its subchunk. -/
def CEnv.rowRun (v : CEnv) (x : Nat) : Run := partOf (blocksOf v.N) v.p.cols x
def CEnv.subRun (v : CEnv) (x j : Nat) : Run := partOf (v.rowRun x) v.p.rows j

/-- Reduce-scatter: this rank's chunk of the reduction, in the accumulation format. -/
def reduceScatter (v : CEnv) (xs : List Nat) (c : CRun) : Option (CRun × List Nat) :=
  if v.p.algorithm = 2 then
    match ringReduce v v.p.cols (v.x v.r) v.nextRow v.rowRun 0 xs c with
    | none => none
    | some (c, row) => ringReduce v v.p.rows (v.y v.r) v.nextCol (v.subRun (v.x v.r)) (v.rowRun (v.x v.r)).1 row c
  else ringReduce v v.P v.r v.nextRing (fun j => v.p.chunk v.P v.N j) 0 xs c

/-- The runs of all chunks and the encodings of all ranks, from this rank's. -/
def gatherAll (v : CEnv) (own : List (List Byte)) (c : CRun) : Option (CRun × List (Run × List (List Byte))) :=
  if v.p.algorithm = 2 then
    match ringGather v v.p.rows (v.y v.r) v.nextCol (fun j => [v.subRun (v.x v.r) j]) [own] c with
    | none => none
    | some (c, col) =>
      let subs := fun x => (List.range v.p.rows).map (fun j => v.subRun x j)
      (ringGather v v.p.cols (v.x v.r) v.nextRow subs (col.map (fun l => l.headD [])) c).map (fun g =>
        (g.1, ((g.2.zip (List.range v.p.cols)).map (fun u => (subs u.2).zip u.1)).flatten))
  else
    (ringGather v v.P v.r v.nextRing (fun j => [v.p.chunk v.P v.N j]) [own] c).map (fun g =>
      (g.1, (g.2.zip (List.range v.P)).map (fun u => (v.p.chunk v.P v.N u.2, u.1.headD []))))

/-- Every encoding decoded, each at its run. -/
def CEnv.joinAll (v : CEnv) (c : CRun) (l : List (Run × List (List Byte))) : CRun × Pieces :=
  let ds := l.map (fun u => (u.1.1, v.decode u.1 u.2))
  (c.raise (ds.foldl (fun f d => f ||| d.2.2) 0), ds.map (fun d => (d.1, d.2.1)))

/-- The ranks that a broadcast's data comes from and goes to (R196, R205): the chain from the root, the tree, or the root's row and then
every column. -/
def bcastFrom (p : CPhase) (P r root : Nat) : Option Nat × List Nat :=
  let q := (r + P - root % P) % P
  if p.algorithm = 0 then (if q = 0 then none else some ((r + P - 1) % P), if q + 1 < P then [(r + 1) % P] else [])
  else if p.algorithm = 1 then ((treeUp P q).map (fun k => (k + root) % P), (treeKids P q).map (fun k => (k + root) % P))
  else
    let at' := fun (y x : Nat) => y % p.rows * p.cols + x % p.cols
    let y := r / p.cols
    let x := r % p.cols
    let qy := (y + p.rows - root / p.cols) % p.rows
    let qx := (x + p.cols - root % p.cols) % p.cols
    let down := if qy + 1 < p.rows then [at' (y + 1) x] else []
    if qy = 0 then (if qx = 0 then none else some (at' y (x + p.cols - 1)), (if qx + 1 < p.cols then [at' y (x + 1)] else []) ++ down)
    else (some (at' (y + p.rows - 1) x), down)

/-- Broadcast from a root. -/
def bcast (v : CEnv) (root : Nat) (own : List (List Byte)) (c : CRun) : Option (CRun × List (List Byte)) :=
  let w := bcastFrom v.p v.P v.r root
  spread v w.1.isNone own w.2 c

/-- The parts an all-to-all brings to this rank, as (source, destination) in order of arrival: around a ring of n members by
distance of the source, then of the destination beyond this rank. -/
def ringRoutes (n me : Nat) : List (Nat × Nat) :=
  ((List.range (n - 1)).map (fun d => (List.range (n - 1 - d)).map (fun t => ((me + n - 1 - d) % n, (me + t) % n)))).flatten

def CEnv.routes (v : CEnv) : List (Nat × Nat) :=
  if v.p.algorithm = 2 then
    let C := v.p.cols
    let row := (ringRoutes C (v.x v.r)).map (fun e => (List.range v.p.rows).map (fun y => (v.y v.r * C + e.1, y * C + e.2)))
    let col := (ringRoutes v.p.rows (v.y v.r)).map (fun e => (List.range C).map (fun x => (e.1 * C + x, e.2 * C + v.x v.r)))
    row.flatten ++ col.flatten
  else ringRoutes v.P v.r

/-- The rank a part for rank k goes to next: along the ring, or along the row and then the column (R196). -/
def CEnv.toward (v : CEnv) (k : Nat) : Nat :=
  if v.p.algorithm = 2 then (if v.x k = v.x v.r then v.nextCol else v.nextRow) else v.nextRing

/-- All-to-all (R194, R205): own parts leave, parts for others pass through, and part c(k) of the output is what rank k had for
this rank. A rank's part to itself is encoded as any other (R198). Where that part is longer than c(k), its end is not written (log
entry 155). -/
def allToAll (v : CEnv) (e : Elems) (c : CRun) : Option (CRun × Pieces) :=
  let run := fun k => v.p.chunk v.P v.N k
  let out := (List.range v.P).foldl (fun (a : CRun × List (List Byte)) k =>
    let q := a.1.encodeSrc v (run k) (e.part v.N 0 (run k))
    if k = v.r then (q.1, q.2) else (q.1.pass v (v.toward k) q.2, a.2)) (c, [])
  let go := v.routes.foldl (fun (acc : Option (CRun × List (Nat × List (List Byte)))) u => match acc with
    | none => none
    | some (c, got) => match CRun.take v c (v.resultLens (run u.2)) with
      | none => none
      | some (c, b) => some (if u.2 = v.r then (c, got ++ [(u.1, b)]) else (c.pass v (v.toward u.2) b, got))) (some (out.1, [(v.r, out.2)]))
  go.map (fun x =>
    let ds := (List.range v.P).map (fun k => (run k, v.decode (run v.r) (((x.2.find? (fun g => g.1 = k)).map Prod.snd).getD [])))
    (x.1.raise (ds.foldl (fun f d => f ||| d.2.2) 0),
     ds.map (fun d => (d.1.1, ⟨d.2.1.xs.take (runLen v.N d.1), d.2.1.sc.take d.1.2⟩))))

/-- The chunks of a reduction sent to the root, or taken there from the other ranks in rank order. -/
def toRoot (v : CEnv) (xs : List Nat) (c : CRun) : Option (CRun × Option Pieces) :=
  let run := fun k => v.p.chunk v.P v.N k
  if v.r ≠ v.p.root then
    let q := c.encode v (run v.r) xs
    some (q.1.pass v v.p.root q.2, none)
  else
    let mine := v.p.fromAcc (v.key (run v.r)) (v.siteNo c.site) xs
    let go := (List.range v.P).foldl (fun (acc : Option (CRun × Pieces)) k => match acc with
      | none => none
      | some (c, got) =>
        if k = v.r then some (c, got ++ [((run k).1, mine.1)])
        else (CRun.take v c (v.resultLens (run k))).map (fun x => let d := v.decode (run k) x.2; (x.1.raise d.2, got ++ [((run k).1, d.1)])))
        (some (({ c with site := c.site + 1 } : CRun).raise mine.2, []))
    go.map (fun x => (x.1, some x.2))

/-- What one phase makes of its input: the pieces it writes, if it writes any. With one rank the input is copied through the
same conversions (R199). -/
def phaseOut (v : CEnv) (e : Elems) (c : CRun) : Option (CRun × Option Pieces) :=
  let p := v.p
  let round := fun (x : CRun × List Nat) (r : Run) =>
    let e := p.fromAcc (v.key r) (v.siteNo x.1.site) x.2
    (({ x.1 with site := x.1.site + 1 } : CRun).raise e.2, some [(0, e.1)])
  if v.P = 1 then some (if 2 ≤ p.operation && p.operation ≠ 4 || isMx p.elem then (c, some [(0, e)]) else round (c, p.toAcc e) (0, 0))
  else match p.operation with
    | 0 =>
      if p.algorithm = 1 then
        match treeReduce v 0 v.r (p.toAcc e) c with
        | none => none
        | some (c, xs) =>
          let own := if v.r = 0 then c.encode v (blocksOf v.N) xs else (c, [])
          (bcast v 0 own.2 own.1).map (fun x => let j := v.joinAll x.1 [(blocksOf v.N, x.2)]; (j.1, some j.2))
      else match reduceScatter v (p.toAcc e) c with
        | none => none
        | some (c, xs) =>
          let own := c.encode v (p.chunk v.P v.N v.r) xs
          (gatherAll v own.2 own.1).map (fun x => let j := v.joinAll x.1 x.2; (j.1, some j.2))
    | 1 => (reduceScatter v (p.toAcc e) c).map (fun x => round x (p.chunk v.P v.N v.r))
    | 2 =>
      let own := c.encodeSrc v (p.chunk v.P v.N v.r) e
      (gatherAll v own.2 own.1).map (fun x => let j := v.joinAll x.1 x.2; (j.1, some j.2))
    | 3 =>
      let own := if v.r = p.root then c.encodeSrc v (blocksOf v.N) e else (c, [])
      (bcast v p.root own.2 own.1).map (fun x => let j := v.joinAll x.1 [(blocksOf v.N, x.2)]; (j.1, some j.2))
    | 4 =>
      if p.algorithm = 1 then
        let q := (v.r + v.P - p.root) % v.P
        (treeReduce v p.root q (p.toAcc e) c).map (fun x => if q = 0 then round x (0, 0) else (x.1, none))
      else match reduceScatter v (p.toAcc e) c with
        | none => none
        | some (c, xs) => toRoot v xs c
    | _ => (allToAll v e c).map (fun x => (x.1, some x.2))

/-! ## Tensors in memory -/

/-- How many elements a phase reads on a rank, of N. -/
def CEnv.inLen (v : CEnv) : Nat :=
  if v.P = 1 then v.N
  else if v.p.operation = 2 then runLen v.N (v.p.chunk v.P v.N v.r)
  else if v.p.operation = 3 && v.r ≠ v.p.root then 0 else v.N

/-- The bytes of n elements of a code, and where the scales of a microscaling tensor begin (log entry 40). -/
def tensorBytes (code n : Nat) : Nat := (n * elemBits code + 7) / 8
def scalesAt (code n : Nat) : Nat := roundUp (tensorBytes code n) 64

/-- Reads n elements of a code at a region offset. -/
def State.readElems (s : State) (r : Region) (off code n : Nat) : Res Elems :=
  match s.readRegion r off (tensorBytes code n) with
  | .fail s st d => .fail s st d
  | .ok s b =>
    let xs := elemsOf (elemBits code) n b
    if !isMx code then .ok s ⟨xs, []⟩
    else match s.readRegion r (off + scalesAt code n) (ceilDiv n 32) with
      | .fail s st d => .fail s st d
      | .ok s c => .ok s ⟨xs, elemsOf 8 (ceilDiv n 32) c⟩

/-- Writes the pieces of a tensor of n elements at a region offset. -/
def State.writeElems (s : State) (owner : Nat) (r : Region) (off code n : Nat) (ps : Pieces) : State × Option (Nat × Nat) :=
  ps.foldl (fun a p => match a with
    | (s, some f) => (s, some f)
    | (s, none) => match s.writeRegion r (off + 32 * p.1 * elemBits code / 8) (packElems (elemBits code) p.2.xs) owner with
      | (s, _, some f) => (s, some f)
      | (s, _, none) =>
        if isMx code then let w := s.writeRegion r (off + scalesAt code n + p.1) ((p.2.sc.map (leBytes 1)).flatten) owner; (w.1, w.2.2) else (s, none)) (s, none)

/-- How many elements the tensor that a phase writes has, of N. -/
def CEnv.outLen (v : CEnv) : Nat := if v.P ≠ 1 && v.p.operation = 1 then runLen v.N (v.p.chunk v.P v.N v.r) else v.N

/-- The bytes of a tensor with its scales. -/
def tensorSize (code n : Nat) : Nat := if isMx code then scalesAt code n + ceilDiv n 32 else tensorBytes code n

/-- What a step has done: its computation, the residuals of each phase, how many each has, and the tensor it writes with its number of
elements. -/
structure Done where
  run : CRun
  resids : List (Tbl Nat)
  counts : List Nat
  out : Option Pieces
  len : Nat
deriving DecidableEq, Repr

/-- The phases of a step in table order, each reading what the one before wrote (R193). A chunk that feeds a phase that is no
all-gather is that phase's whole item space (log entry 41). -/
def phasesOut (P r seed step N : Nat) (resids : List (Tbl Nat)) : Nat → List CPhase → Option Elems → Done → Option Done
  | _, [], _, d => some d
  | ph, p :: ps, e, d =>
    let e := e.getD ⟨[], []⟩
    let n := if p.operation = 2 then N else if e.xs.isEmpty then N else e.xs.length
    let v : CEnv := ⟨p, P, r, n, seed, step, ph⟩
    match phaseOut v e { d.run with resid := nth resids ph [], next := 0, site := 0 } with
    | none => none
    | some (c, out) =>
      let d := { run := c, resids := d.resids ++ [c.resid], counts := d.counts ++ [c.next], out := out, len := v.outLen }
      phasesOut P r seed step N resids (ph + 1) ps (out.map (fun o => Pieces.fill o p.elem v.outLen)) d

end Sys2Proof.Machine
end

