-- ==== Sys2Proof/Machine/Collectives.lean ====
section
/-! DEFINITION. The commands of 08_collectives. -/

namespace Sys2Proof.Machine

/-! ## Plan records (R191 to R193) -/

/-- A phase entry. -/
def collPhase (b : List Byte) : CPhase :=
  let f := leAt b 6 1
  { operation := leAt b 0 1, algorithm := leAt b 1 1, operator := leAt b 2 1, elem := leAt b 3 1, accElem := bit (leAt b 4 1) 0
    compression := fld (leAt b 5 1) 0 2, feedback := bit f 0, saturate := bit f 1, encrypt := bit f 2, rounding := fld (leAt b 7 1) 0 3
    root := leAt b 8 2, rows := leAt b 10 2, cols := leAt b 12 2, resid := leAt b 14 1, segment := leAt b 16 4 }

/-- Whether a phase entry keeps its codes, ranges and Rsvd fields, for P ranks. -/
def phaseOk (P : Nat) (b : List Byte) : Bool :=
  let p := collPhase b
  let e := p.elem
  p.operation ≤ 5 && p.algorithm ≤ 2 && p.operator ≤ 3 && ((1 ≤ e && e ≤ 0xC) || isMx e || e = 0x20) && leAt b 4 1 ≤ 1 && leAt b 5 1 ≤ 3 &&
  leAt b 6 1 < 8 && leAt b 7 1 ≤ 5 && (!(p.operation = 2 || p.operation = 3 || p.operation = 5) || p.operator = 0) &&
  (if p.operation = 3 || p.operation = 4 then decide (p.root < P) else p.root = 0) &&
  (if p.algorithm = 2 then 2 ≤ p.rows && p.rows ≤ 512 && 2 ≤ p.cols && p.cols ≤ 512 else p.rows = 0 && p.cols = 0) &&
  (p.resid < 8 || p.resid = 0xFF) && zeroAt b [(15, 1), (20, 44)] && p.segment % 32 = 0 && 32 ≤ p.segment && p.segment ≤ 2 ^ 24

/-- The ranks a rank exchanges data with in a phase (R196, R205). -/
def peersOf (P r : Nat) (p : CPhase) : List Nat :=
  let ring := fun (n me : Nat) (of : Nat → Nat) => if n ≤ 1 then [] else [of ((me + 1) % n), of ((me + n - 1) % n)]
  let root := if p.operation = 4 then (if r = p.root then List.range P else [p.root]) else []
  let chain := fun (_ : Unit) => let w := bcastFrom p P r p.root; w.1.toList ++ w.2
  let l := match p.algorithm with
    | 0 => if p.operation = 3 then chain () else ring P r id ++ root
    | 1 => chain ()
    | _ => if p.operation = 3 then chain ()
           else ring p.cols (r % p.cols) (fun x => r / p.cols * p.cols + x) ++ ring p.rows (r / p.cols) (fun y => y * p.cols + r % p.cols) ++ root
  l.filter (fun k => k ≠ r)

/-- A combination that R204 to R206 refuse. Binary64 is copied where there is no operator, and has no TB8 or TB4 encoding (log entry 154). -/
def comboBad (P : Nat) (p : CPhase) : Bool :=
  let e := p.elem
  let tb := 2 ≤ p.compression
  let noOp := p.operation = 2 || p.operation = 3 || p.operation = 5
  let fl := 1 ≤ e && e ≤ 8
  (p.algorithm = 2 && p.rows * p.cols ≠ P) || (p.algorithm = 1 && (p.operation = 1 || p.operation = 2 || p.operation = 5)) ||
  (p.feedback && !tb) ||
  (if noOp then tb && !fl
   else if e = 0x20 then true
   else if codeInt e then !p.accElem || tb
   else if isMx e then p.accElem || (tb && p.operator ≠ 0)
   else if 4 ≤ e then (if p.accElem then tb else tb && p.operator ≠ 0)
   else tb && p.operator ≠ 0)

/-- The header, tables and codes of a plan's record (R191 to R193); `stop` is its length. -/
def planOk (b : List Byte) : Bool :=
  let P := leAt b 12 2
  let n := leAt b 14 1
  let ranks := (List.range P).map (fun i => leAt b (leAt b 20 4 + 2 * i) 2)
  let phases := (List.range n).map (fun i => sect b (leAt b 24 4) 64 i)
  let me := ranks.idxOf (leAt b 6 2)
  let peers := ((phases.map (fun x => peersOf P me (collPhase x))).flatten).eraseDups
  let qps := (List.range peers.length).map (fun i => leAt b (leAt b 32 4 + 4 * i) 4)
  leAt b 0 4 = 0x4C504343 && leAt b 5 1 = 1 && leAt b 6 2 < 1024 && 1 ≤ P && P ≤ 1024 && 1 ≤ n && n ≤ 16 && zeroAt b [(15, 1), (96, 32)] &&
  leAt b 36 4 ≤ 60000 && leAt b 20 4 + 2 * P ≤ b.length && leAt b 24 4 + 64 * n ≤ b.length && leAt b 28 4 ≤ b.length &&
  leAt b 32 4 + 4 * peers.length ≤ b.length && bsub b 48 48 = sha384 (b.drop 128) &&
  noRepeat ranks && ranks.all (fun d => d < 1024) && ranks.contains (leAt b 6 2) && phases.all (phaseOk P) &&
  noRepeat (qps.map (fun q => q % 1024)) && qps.all (fun q => peers.contains (q % 1024) && fld q 30 2 = 0)

/-- The residual elements of each phase: those with error feedback have some (R201, log entry 153). -/
def planResid (planId device : Nat) (phases : List CPhase) : List Nat :=
  (phases.zip (List.range phases.length)).map (fun p => if p.1.feedback then Config.residElems planId device p.2 else 0)

/-- The plan a record describes. -/
def planOf (sl : Nat) (b : List Byte) (regions : List Nat) (pipe : Nat) : Plan :=
  let P := leAt b 12 2
  let ranks := (List.range P).map (fun i => leAt b (leAt b 20 4 + 2 * i) 2)
  let phases := (List.range (leAt b 14 1)).map (fun i => collPhase (sect b (leAt b 24 4) 64 i))
  let peers := ((phases.map (peersOf P (ranks.idxOf (leAt b 6 2)))).flatten).eraseDups
  { state := 0, slice := sl, planId := leAt b 8 4, deviceIndex := leAt b 6 2, ranks := ranks
    qps := (List.range peers.length).map (fun i => let q := leAt b (leAt b 32 4 + 4 * i) 4; (q % 1024, fld q 10 20))
    phases := phases, timeoutMs := (if leAt b 36 4 = 0 then 1000 else leAt b 36 4), seed := leAt b 40 8, pipe := pipe, regions := regions
    current := none, checked := [], matched := [], owed := [], queue := [], stopped := [], done := []
    resid := phases.map (fun _ => []), residN := planResid (leAt b 8 4) (leAt b 6 2) phases }

/-- Whether a QP of the table is a scheduled one of the slice that connects to its rank's device index (R208). -/
def State.planQpOk (s : State) (p : Plan) (q : Nat × Nat) : Bool := match Tbl.find s.tmt.qps q.2 with
  | some x => x.sched && x.slice = p.slice && x.peerIndex = nth p.ranks q.1 1024
  | none => false

/-- Whether the encryption of a phase and of the plan's QPs disagree, or an encrypted phase crosses a Denux link (R206). -/
def State.cryptBad (s : State) (p : Plan) : Bool :=
  p.phases.any (fun f => p.qps.any (fun q => match Tbl.find s.tmt.qps q.2 with
    | some x => x.encrypt ≠ f.encrypt || (f.encrypt && x.denux)
    | none => false))

/-! ## Residuals (R201, R203, R215) -/

/-- The region that holds the residuals of a phase: none where they live in cell stores (R201). -/
def Plan.residHome (p : Plan) (ph : Nat) : Option Nat := match p.phases[ph]? with
  | some f => if f.feedback && f.resid < 8 then some (nth p.regions f.resid 0) else none
  | none => none

/-- Where the residuals of a phase begin in their region: behind those of earlier phases in the same one (log entry 153). -/
def Plan.residAt (p : Plan) (ph : Nat) : Nat :=
  8 * ((List.range ph).map (fun k => if p.residHome k = p.residHome ph then nth p.residN k 0 else 0)).sum

/-- The residuals of bank b of a phase as bytes. -/
def Plan.bankBytes (p : Plan) (ph b : Nat) : List Byte :=
  ((List.range (nth p.residN ph 0)).map (fun i => leBytes 4 (Tbl.get (nth p.resid ph []) (2 * i + b) 0))).flatten

/-- The residuals of a phase from n elements of bank 0 and n of bank 1. -/
def residFrom (n : Nat) (bs : List Byte) : Tbl Nat :=
  (List.range n).foldl (fun t i => Tbl.set (Tbl.set t (2 * i) (leAt bs (4 * i) 4) 0) (2 * i + 1) (leAt bs (4 * (n + i)) 4) 0) []

/-- A plan with the residuals that live in regions read from there. -/
def State.residIn (s : State) (p : Plan) : Res Plan :=
  (List.range p.phases.length).foldl (fun a ph => match a with
    | .fail s st d => .fail s st d
    | .ok s q => match q.residHome ph with
      | none => .ok s q
      | some h =>
        let n := nth q.residN ph 0
        (match s.region h q.slice with
        | none => .fail s stInvalidHandle 0
        | some r => match s.readRegion r (q.residAt ph) (8 * n) with
          | .fail s st d => .fail s st d
          | .ok s bs => .ok s { q with resid := (q.resid.zip (List.range q.resid.length)).map (fun x => if x.2 = ph then residFrom n bs else x.1) })) (.ok s p)

/-- s with banks of a plan's residuals that live in regions written there. -/
def State.residOut (s : State) (owner sl : Nat) (p : Plan) (banks : List Nat) : State × Option (Nat × Nat) :=
  (List.range p.phases.length).foldl (fun a ph => banks.foldl (fun a b => match a with
    | (s, some f) => (s, some f)
    | (s, none) => match p.residHome ph with
      | none => (s, none)
      | some h => match s.region h sl with
        | none => (s, some (stInvalidHandle, 0))
        | some r => let w := s.writeRegion r (p.residAt ph + 4 * nth p.residN ph 0 * b) (p.bankBytes ph b) owner; (w.1, w.2.2)) a) (s, none)

/-- Both banks of a plan's residuals as bytes: bank 0 of every element, phase by phase, then bank 1 (log entry 43). -/
def Plan.residBytes (p : Plan) : List Byte :=
  ([0, 1].map (fun b => ((List.range p.phases.length).map (fun ph => p.bankBytes ph b)).flatten)).flatten

/-- The residual elements of a plan on this device (R215). -/
def Plan.residCount (p : Plan) : Nat := p.residN.sum

/-- A plan with its residuals taken from such bytes. -/
def Plan.fromBytes (p : Plan) (bs : List Byte) : Plan :=
  { p with resid := (List.range p.phases.length).map (fun ph =>
      let n := nth p.residN ph 0
      let at' := 4 * (p.residN.take ph).sum
      residFrom n (bsub bs at' (4 * n) ++ bsub bs (4 * p.residCount + at') (4 * n))) }

/-- COLL_LOAD (R203, R208): the checks in their order; an accepted load installs the embedded image and waits for its commits. -/
def execCollLoad (sr tag : Nat) (s : State) : Host.Outcome State Fault Refusal :=
  .next (s.withJob sr tag 0x20 fun s j =>
    let d := j.desc
    let base := dby d 8 8
    let handle := dby d 16 4
    let regions := (List.range 8).map (fun i => dby d (20 + 4 * i) 4)
    if !s.feature 3 then s.commit' j stFeatureOff
    else if !rsvdZero d [(8, 12), (20, 32)] then s.commit' j stInvalidDescriptor
    else match s.region handle j.slice with
      | none => s.commit' j stCollPlanInvalid
      | some r =>
        if r.dataBytes < base + 128 then s.commit' j stCollPlanInvalid
        else match s.readRegion r base 128 with
          | .fail s st d => s.commit j st noUnit d 0
          | .ok s h =>
            let len := leAt h 16 4
            if len < 128 || r.dataBytes < base + len then s.commit' j stCollPlanInvalid
            else match s.readRegion r base len with
              | .fail s st d => s.commit j st noUnit d 0
              | .ok s b =>
                let p := planOf j.slice b regions 0
                if !planOk b || s.rf R.TLN_STATUS 2 2 ≠ 1 || s.rf R.TLN_STATUS 4 10 ≠ p.deviceIndex then s.commit' j stCollPlanInvalid
                else if p.phases.any (comboBad p.ranks.length) || s.cryptBad p then s.commit' j stUnsupported
                else if !p.qps.all (s.planQpOk p) then s.commit' j stCollPlanInvalid
                else match s.checkImage j.slice (base + leAt b 28 4) handle regions with
                  | .fail s st d => s.commit j st noUnit d 0
                  | .ok s img => match lowestFree s.pipes.tab 0 1024, lowestFree s.colls.plans 0 256 with
                    | some pn, some n =>
                      if !s.quotaRoom j.slice 7 1 then (s.refused j.slice).commit' j stQuotaExceeded
                      else if !s.hubsReady img then s.wakeHubs img
                      else match s.residOut (ownerNum j.sr j.tag) p.slice p [0, 1] with
                      | (s, some (st, d)) => s.commit j st noUnit d 0
                      | (s, none) =>
                        let used := img.grants.foldl (fun m g => max m (g.2.2.1 + 1)) 0
                        let s := s.installImage j pn img ((List.range 8).map (fun i => if i < used then nth regions i 0 else 0)) (some n)
                        let s : State := { s with colls := { s.colls with plans := Tbl.put s.colls.plans n { p with pipe := pn } } }
                        s.updJob sr tag (fun k => { k with phase := .running, prog := [pn] })
                    | _, _ => (s.refused j.slice).commit' j stQuotaExceeded)

/-- The plan a current handle of a slice names; a plan being loaded has none. -/
def State.collOf (s : State) (h sl : Nat) : Option (Nat × Plan) :=
  match Tbl.find s.colls.plans (h % 1024) with
  | some p => if h = h % 1024 + Tbl.get s.colls.gen (h % 1024) 0 * 1024 && p.slice = sl && p.state ≠ 0 then some (h % 1024, p) else none
  | none => none

/-- Runs the descriptor (sr, tag) of a collective opcode that names a plan at bytes 8–11. -/
def State.withColl (s : State) (sr tag op : Nat) (used : List (Nat × Nat)) (f : State → Job → Nat → Plan → State) : State :=
  s.withJob sr tag op fun s j =>
    if !s.feature 3 then s.commit' j stFeatureOff
    else if !rsvdZero j.desc ((8, 4) :: used) then s.commit' j stInvalidDescriptor
    else match s.collOf (dby j.desc 8 4) j.slice with
      | none => s.commit' j stCollInvalid
      | some (n, p) => f s j n p

/-- The bytes of the tensor that a step of N elements writes on this device (R194). -/
def Plan.outBytes (p : Plan) (N : Nat) : Nat := match p.phases.getLast? with
  | none => 0
  | some f =>
    let v : CEnv := ⟨f, p.ranks.length, p.ranks.idxOf p.deviceIndex, N, 0, 0, 0⟩
    if f.operation = 4 && v.P ≠ 1 && v.r ≠ f.root then 0 else tensorSize f.elem v.outLen

/-- The step a COLL_STEP body asks for (R209). -/
def stepOf (j : Job) (p : Plan) : CStep :=
  let d := j.desc
  { outBytes := p.outBytes (dby d 16 8),  sr := j.sr, tag := j.tag, count := dby d 16 8, step := dby d 24 4, inRegion := dby d 28 4, inOff := dby d 32 8, outRegion := dby d 40 4
    outOff := dby d 48 8, onDone := if bit (dby d 12 1) 0 then some (dby d 44 4) else none }

/-- COLL_STEP (R209, R210, R212, R213). -/
def execCollStep (sr tag : Nat) (s : State) : Host.Outcome State Fault Refusal :=
  .next (s.withColl sr tag 0x21 [(12, 1), (16, 40)] fun s j n p =>
    let c := stepOf j p
    let start := fun (s : State) => s.updJob sr tag (fun k => { k with phase := .running, prog := [n] })
    if 2 ≤ dby j.desc 12 1 || c.count = 0 || 2 ^ 40 < c.count || c.inOff % 64 ≠ 0 || c.outOff % 64 ≠ 0 then
      s.commit' j stInvalidDescriptor
    else if (s.region c.inRegion j.slice).isNone || (s.region c.outRegion j.slice).isNone then s.commit' j stInvalidHandle
    else if s.bound c.outRegion then s.commit' j stAddressError
    else if c.onDone.any (fun k => (s.counterOf k j.slice).isNone) then s.commit' j stCounterInvalid
    else if p.stopped.contains c.step then s.commit' j stCollPeerStopped
    else if p.state = 3 then s.commit' j stCollStopped
    else if p.state = 2 then
      if 64 ≤ p.queue.length then s.commit' j stCollBusy else start (s.updPlan n (fun p => { p with queue := p.queue ++ [c] }))
    else (start s).startStep n c)

/-- COLL_STEP_START (R210): the next queued step of plan n. -/
def execCollStepStart (n : Nat) (s : State) : Host.Outcome State Fault Refusal := .next (s.nextStep n)

/-- What the step of a plan makes of its input and of what has arrived; none while segments are missing, or too many. -/
def Plan.compute (p : Plan) (c : CStep) (e : Elems) (arr : List (List Byte)) : Option Done :=
  let r := p.ranks.idxOf p.deviceIndex
  match phasesOut p.ranks.length r p.seed c.step c.count p.resid 0 p.phases (some e) ⟨⟨arr, 0, [], [], 0, 0, 0⟩, [], [], none, 0⟩ with
  | some d => if d.run.arr.isEmpty then some d else none
  | none => none

/-- A plan with room for the residuals a step has used. -/
def Plan.withCounts (p : Plan) (d : Done) : Plan := { p with residN := (p.residN.zip d.counts).map (fun x => max x.1 x.2) }

/-- s with what a step sends out on the plan's QPs (R192, R195, R200); the transport's messages for it are not laid down (log entry
152). -/
def State.collSend (s : State) (p : Plan) (outs : List (Nat × List Byte)) : State :=
  outs.foldl (fun s o => match p.qps.find? (fun q => q.1 = o.1) with
    | some q => s.emit (.tmt q.2 0 o.2)
    | none => s) s

/-- s with flags raised in the CS of a cell of a plan's pipeline (R199). -/
def State.collFlags (s : State) (p : Plan) (fl : Nat) : State :=
  if fl = 0 then s
  else match Tbl.find s.pipes.tab p.pipe with
    | none => s
    | some q => match q.cells[Config.collCell p.planId % max 1 q.cells.length]? with
      | some k => s.setSeq k ((s.seq k).flag fl)
      | none => s

/-- s with the running step of plan n done (R210): the plan, its pipeline and its descriptor. -/
def State.stepDone (s : State) (n : Nat) (p : Plan) (c : CStep) (d : Done) : State :=
  let s := s.updPlan n (fun p => { p with
    state := (if p.queue.isEmpty then 1 else 2), current := none, done := setIns p.done c.step, resid := d.resids, residN := (p.withCounts d).residN
    owed := (p.qps.filter (fun q => !p.matched.contains q.2)).foldl (fun t q => Tbl.set t q.2 (Tbl.get t q.2 0 + 1) 0) p.owed, matched := [] })
  let s := s.updPipe p.pipe (fun q => { q with wave := none, state := if q.state = PState.running then PState.loaded else q.state })
  let s := match s.job c.sr c.tag with | some j => s.finish j stSuccess noUnit 0 d.run.sent | none => s
  match c.onDone with | some k => s.counterInc k | none => s

/-- COLL_STEP_COMMIT (R195 to R201, R210) of plan n: every segment of chunks to this rank has arrived, `arr` in the order of
the plan's algorithms, as it stood on the wire. What this device sends has left, the output and the residuals are written, the wave of the
embedded pipeline has ended, and the step commits with the bytes this device sent. -/
def execCollStepCommit (n : Nat) (arr : List (List Byte)) (s : State) : Host.Outcome State Fault Refusal :=
  .next (match Tbl.find s.colls.plans n with
    | none => s
    | some p => match p.current, Tbl.find s.pipes.tab p.pipe with
      | some c, some q =>
        if q.wave.isSome then s
        else match s.region c.inRegion p.slice, s.region c.outRegion p.slice with
          | some ri, some ro =>
            let p0 := p.phases.headD (collPhase [])
            let v : CEnv := ⟨p0, p.ranks.length, p.ranks.idxOf p.deviceIndex, c.count, p.seed, c.step, 0⟩
            (match s.readElems ri c.inOff p0.elem v.inLen with
            | .fail s st d => s.stopPlan n st noUnit d
            | .ok s e => match p.compute c e arr with
              | none => s
              | some d0 => match s.residIn (p.withCounts d0) with
                | .fail s st d => s.stopPlan n st noUnit d
                | .ok s p => match p.compute c e arr with
                  | none => s
                  | some d =>
                    let code := (p.phases.getLast?.map (fun (f : CPhase) => f.elem)).getD p0.elem
                    let w := match d.out with | some ps => s.writeElems (ownerNum c.sr c.tag) ro c.outOff code d.len ps | none => (s, none)
                    (match w with
                    | (s, some (st, k)) => s.stopPlan n st noUnit k
                    | (s, none) => match s.residOut (ownerNum c.sr c.tag) p.slice { p with resid := d.resids } [1 - c.step % 2] with
                      | (s, some (st, k)) => s.stopPlan n st noUnit k
                      | (s, none) => ((s.collSend p d.run.outs).collFlags p d.run.flags).stepDone n p c d))
          | _, _ => s.stopPlan n stInvalidHandle noUnit 0
      | _, _ => s)

/-- COLL_UNLOAD (R211, R212): a plan with nothing queued and nothing running. -/
def execCollUnload (sr tag : Nat) (s : State) : Host.Outcome State Fault Refusal :=
  .next (s.withColl sr tag 0x22 [] fun s j n p =>
    if p.state = 2 then s.commit' j stCollBusy
    else
      let s := s.removePipe p.pipe
      State.commit' { s with colls := { s.colls with plans := Tbl.del s.colls.plans n, gen := Tbl.set s.colls.gen n ((Tbl.get s.colls.gen n 0 + 1) % 65536) 0 } }
        j stSuccess)

/-- COLL_RESET (R211, R212). -/
def execCollReset (sr tag : Nat) (s : State) : Host.Outcome State Fault Refusal :=
  .next (s.withColl sr tag 0x23 [] fun s j n p =>
    if p.state = 2 then s.commit' j stCollBusy
    else if p.state ≠ 3 then s.commit' j stSuccess
    else
      let s := match Tbl.find s.pipes.tab p.pipe with | some q => s.resetPipe p.pipe q | none => s
      (s.updPlan n (fun p => { p with state := 1, stopped := [], checked := [], matched := [], owed := [] })).commit' j stSuccess)

/-- COLL_RESID (R203, R215). -/
def execCollResid (sr tag : Nat) (s : State) : Host.Outcome State Fault Refusal :=
  .next (s.withColl sr tag 0x24 [(12, 1), (16, 4), (24, 8)] fun s j n p =>
    let d := j.desc
    let a := dby d 12 1
    let put := fun (s : State) (p : Plan) (moved : Nat) => match s.residOut (ownerNum j.sr j.tag) j.slice p [0, 1] with
      | (s, some (st, k)) => s.commit j st noUnit k 0
      | (s, none) => (s.updPlan n (fun _ => p)).succeed j moved
    if 3 ≤ a then s.commit' j stInvalidDescriptor
    else if p.state = 2 then s.commit' j stCollBusy
    else if a = 0 then put s { p with resid := p.resid.map (fun _ => []) } 0
    else match s.region (dby d 16 4) j.slice with
      | none => s.commit' j stInvalidHandle
      | some r =>
        let off := dby d 24 8
        if a = 1 && s.bound (dby d 16 4) then s.commit' j stAddressError
        else if a = 1 then match s.residIn p with
          | .fail s st d => s.commit j st noUnit d 0
          | .ok s p => match s.writeRegion r off p.residBytes (ownerNum sr tag) with
            | (s, m, none) => s.succeed j m
            | (s, m, some (st, d)) => s.commit j st noUnit d m
        else match s.readRegion r off (8 * p.residCount) with
          | .fail s st d => s.commit j st noUnit d 0
          | .ok s b => put s (p.fromBytes b) b.length)

/-- COLL_QUERY (R215). -/
def execCollQuery (sr tag : Nat) (s : State) : Host.Outcome State Fault Refusal :=
  .next (s.withColl sr tag 0x25 [] fun s j _ p =>
    s.commit' j stSuccess (p.state + p.queue.length * 4 + p.residCount % 2 ^ 32 * 2 ^ 32))

/-- COLL_PEER_TIMEOUT (R213): no packet of the running step of plan n has come for its peer_timeout_ms. -/
def execCollPeerTimeout (n : Nat) (s : State) : Host.Outcome State Fault Refusal :=
  .next (match Tbl.find s.colls.plans n with
    | some p => if p.current.isSome then s.stopPlan n stCollPeerTimeout noUnit 0 else s
    | none => s)

end Sys2Proof.Machine
end

