-- ==== Sys2Proof/Machine/Feuilles.lean ====
section
/-! DEFINITION. The feuille table: FEUILLE_WRITE and FEUILLE_READ (R24 to R26, R31, R513). -/

namespace Sys2Proof.Machine

/-- The fields of 128 bytes laid out as R24, those that software writes; a member count above 28 takes 28 members. -/
def feuOf (b : List Byte) : Feu :=
  let w := leAt b 0 4
  { valid := bit w 0, mode := fld w 1 2, owner := fld w 16 6, granule := leAt b 4 4, depth := 0, cells := 0, gen := 0
    members := (List.range (min 28 (fld w 3 5))).map (fun i => leAt b (16 + 4 * i) 4) }

/-- Whether the Rsvd fields of an entry are 0, and its member count is one (R25 step 4). -/
def feuFieldsOk (b : List Byte) : Bool :=
  let w := leAt b 0 4
  let n := fld w 3 5
  fld w 9 7 = 0 && fld w 22 10 = 0 && fld (leAt b 8 4) 4 12 = 0 && fld (leAt b 8 4) 27 5 = 0 && fld w 1 2 ≠ 3 && 1 ≤ n && n ≤ 28 &&
  allZero (bsub b (16 + 4 * n) (4 * (28 - n)))

/-- The levels of feuilles below a unit (R24). -/
def State.levels (s : State) : Nat → Nat → Nat
  | 0, _ => 0
  | fuel + 1, h => match feuIndex h with
    | none => 0
    | some n => ((s.feu n).members.map (fun m => if m < 1536 then 0 else 1 + s.levels fuel m)).foldl max 0

/-- Whether an entry's expansion is whole, without a cell twice, and granted to its owner (R25 step 4). Nesting deeper than eight levels,
an entry that contains itself among them, has no expansion. -/
def State.feuOk (s : State) (n : Nat) : Bool := match s.unitCells (feuHandle n) with
  | none => false
  | some cs => noRepeat cs && cs.all (s.granted (s.feu n).owner)

/-- The bytes of an entry (R24). -/
def State.feuBytes (s : State) (n : Nat) : List Byte :=
  let f := s.feu n
  leBytes 4 (b2n f.valid + f.mode * 2 + f.members.length * 8 + (if n < 109 then 2 ^ 8 else 0) + f.owner * 2 ^ 16) ++ leBytes 4 f.granule ++
  leBytes 4 (f.depth + f.cells * 2 ^ 16) ++ leBytes 4 f.gen ++ fitBytes (f.members.map (leBytes 4)).flatten 112

/-- Whether an entry is busy (R31). -/
def State.feuBusy (s : State) (n : Nat) : Bool :=
  s.feuWork.any (fun w => w.entries.contains n) || s.pipes.tab.any (fun p => p.2.bound.contains n)

/-- The checks of R25 on a write of 128 bytes to entry n by a slice: the table after it, or the status that refuses it. -/
def State.feuWrite (s : State) (sl n : Nat) (b : List Byte) : Except Nat State :=
  let old := s.feu n
  let f := feuOf b
  if n < 109 then .error stFeuilleReadOnly
  else if sl ≠ 0 && ((old.valid && old.owner ≠ sl) || f.owner ≠ sl) then .error stFeuilleInvalid
  else if s.feuBusy n then .error stFeuilleBusy
  else
    let put := fun (f : Feu) => ({ s with feus := Tbl.set s.feus n { f with gen := (old.gen + 1) % 2 ^ 32 } Feu.free } : State)
    let t := put (if f.valid then f else Feu.free)
    let others := (s.feus.filter (fun e => e.1 ≠ n && e.2.valid && (s.feuPath 9 (feuHandle e.1)).contains n)).map Prod.fst
    if f.valid && !(feuFieldsOk b && t.feuOk n) then .error stFeuilleInvalid
    else if !others.all t.feuOk then .error stFeuilleInvalid
    else
      let charged := f.valid && (!old.valid || old.owner ≠ f.owner)
      if charged && (!s.quotaRoom f.owner 5 1 || t.unitRetiring f.owner (feuHandle n)) then .error stQuotaExceeded
      else if f.valid then .ok (put { f with depth := t.levels 9 (feuHandle n), cells := ((t.unitCells (feuHandle n)).getD []).length })
      else .ok t

/-- s with the derived fields of every entry computed again, as a write below them may change them (R24). -/
def State.feuDerive (s : State) : State :=
  { s with feus := Tbl.mapV s.feus (fun n f => if f.valid then
      { f with depth := s.levels 9 (feuHandle n), cells := ((s.unitCells (feuHandle n)).getD []).length } else f) }

/-- Runs a feuille command: its body, its entry number. -/
def State.withFeu (s : State) (sr tag op : Nat) (f : State → Job → State) : State :=
  s.withJob sr tag op fun s j =>
    let d := j.desc
    if !rsvdZero d [(8, 4), (16, 9), (28, 4)] || (dby d 24 1 ≠ 0 && dby d 24 1 ≠ 2) || 4096 ≤ dby d 8 4 then s.commit' j stInvalidDescriptor
    else if dby d 24 1 = 2 && (match s.region (dby d 28 4) j.slice with | some r => decide (r.dataBytes < dby d 16 8 + 128) | none => false) then
      s.failJob j stAddressError 0
    else f s j

/-- FEUILLE_WRITE. -/
def execFeuilleWrite (sr tag : Nat) (s : State) : Host.Outcome State Fault Refusal :=
  .next (s.withFeu sr tag 0x85 fun s j =>
    let d := j.desc
    let n := dby d 8 4
    match s.readOperand j (dby d 24 1) (dby d 28 4) (dby d 16 8) 128 0 with
    | .wait s => s
    | .fail s st dt => s.failJob j st dt
    | .ok s b => match s.feuWrite j.slice n b with
      | .error st => (if st = stQuotaExceeded then s.refused (feuOf b).owner else s).failJob j st 0
      | .ok s => s.feuDerive.succeed j (s.feu n).gen)

/-- FEUILLE_READ. -/
def execFeuilleRead (sr tag : Nat) (s : State) : Host.Outcome State Fault Refusal :=
  .next (s.withFeu sr tag 0x86 fun s j =>
    let d := j.desc
    let n := dby d 8 4
    let f := s.feu n
    if j.slice ≠ 0 && 109 ≤ n && f.valid && f.owner ≠ j.slice then s.failJob j stInvalidHandle 0
    else match s.writeOperand j (dby d 24 1) (dby d 28 4) (dby d 16 8) (s.feuBytes n) 0 with
      | .ok s => s.succeed j 128
      | .wait s => s
      | .fail s st dt _ => s.failJob j st dt)

end Sys2Proof.Machine
end

