-- ==== Sys2Proof/Machine/Firmware.lean ====
section
/-! DEFINITION. The control cluster's own commands (R440 to R447). -/

namespace Sys2Proof.Machine

def stFwCoreState : Nat := 0xA02

/-- WATCHDOG_EXPIRY (R440, R441): core k wrote wdog last 10 ms ago or more. -/
def execWatchdogExpiry (k : Nat) (s : State) : Host.Outcome State Fault Refusal :=
  .next (if k < 16 && s.coreState k = 1 && Tbl.get s.fw.wdog k 0 + 10 ^ 7 ≤ s.timeNs then s.coreCrash k 0xFF else s)

/-- CORE_CRASH: core k crashes with a cause: a trap, a component's third fault, or 0xFE for a memory error (R441). -/
def execCoreCrash (k cause : Nat) (s : State) : Host.Outcome State Fault Refusal :=
  .next (if k < 16 && s.coreState k = 1 then s.coreCrash k (cause % 256) else s)

/-- CORE_RESTART_DONE (R441 steps 3 to 5): the core runs from the control store image, its local memory reloaded; `ue` says that the
first copy of the image had an uncorrectable word. Latched work proceeds. A firmware restart's first core converts the settings
and data of the other bank (R478). -/
def execCoreRestartDone (k : Nat) (ue : Bool) (s : State) : Host.Outcome State Fault Refusal :=
  .next (
    if 16 ≤ k || s.coreState k ≠ 2 then s
    else
      let s := (s.wf (R.FWC_CORE_STATUS k) 0 2 1).cnt R.FWC_RESTARTS
      let s := if ue then s.cnt R.FWC_IMAGE_UE else s
      let q := s.seq (1536 + k)
      let s := s.setSeq (1536 + k) { Seq.fresh with cs := 2 ^ 13, pend := q.pend }
      let base := memBase (1536 + k)
      let m := s.mem
      let mine := fun (a : Nat) => decide (base ≤ a) && decide (a < base + 0x40000)
      let s : State := { s with
        mem := { m with bytes := (m.bytes.filter (fun e => !mine e.1) : Mem), tags := (m.tags.filter (fun e => !mine e.1) : Tbl Nat)
                        bad := m.bad.filter (fun a => !mine a), weak := m.weak.filter (fun a => !mine a), rewrite := m.rewrite.filter (fun a => !mine a) }
        fw := { s.fw with wdog := Tbl.put s.fw.wdog k s.timeNs } }
      if (List.range 16).any (fun i => decide (s.coreState i = 2)) then s else s.restarted)

/-- The bytes of FW_QUERY (R447). -/
def State.fwRecords (s : State) : List Byte :=
  ((List.range 16).map (fun k =>
    let st := s.rd (R.FWC_CORE_STATUS k)
    leBytes 1 (fld st 0 2) ++ leBytes 1 (s.recentCrashes k) ++ leBytes 1 (fld st 4 8) ++ leBytes 1 0 ++
    leBytes 4 (min 0xFFFFFFFF (Tbl.get s.fw.compFaults k 0)) ++ leBytes 8 (Tbl.get s.fw.lastCrash k 0))).flatten

/-- FW_QUERY. -/
def execFwQuery (sr tag : Nat) (s : State) : Host.Outcome State Fault Refusal :=
  .next (s.withJob sr tag 0x8E fun s j =>
    let d := j.desc
    if !rsvdZero d [(16, 9), (28, 4)] || (dby d 24 1 ≠ 0 && dby d 24 1 ≠ 2) then s.commit' j stInvalidDescriptor
    else match s.writeOperand j (dby d 24 1) (dby d 28 4) (dby d 16 8) s.fwRecords 0 with
      | .ok s => s.succeed j 256
      | .wait s => s
      | .fail s st dt _ => s.failJob j st dt)

/-- FW_CORE (R446): a restart through R441, which is no crash; or the return of an OFFLINE core, its crash count cleared. -/
def execFwCore (sr tag : Nat) (s : State) : Host.Outcome State Fault Refusal :=
  .next (s.withJob sr tag 0x8F fun s j =>
    let d := j.desc
    let a := dby d 8 1
    let k := dby d 12 1
    if !rsvdZero d [(8, 1), (12, 1)] || 1 < a || 16 ≤ k then s.commit' j stInvalidDescriptor
    else if k < 4 || (a = 1 && s.coreState k ≠ 3) || (a = 0 && s.coreState k = 3) then s.failJob j stFwCoreState 0
    else
      let s := s.wf (R.FWC_CORE_STATUS k) 0 2 2
      let s := s.updSeq (1536 + k) (fun q => { q with stall := none, haltAt := false, pre := [] })
      let s := if a = 1 then { s.wf (R.FWC_CORE_STATUS k) 2 2 0 with fw := { s.fw with crashTimes := Tbl.del s.fw.crashTimes k } } else s
      s.succeed j 0)

end Sys2Proof.Machine
end

