-- ==== Sys2Proof/Machine/Flows.lean ====
section
/-! DEFINITION. The flow-record commands (R463). -/

namespace Sys2Proof.Machine

/-- A timeout of MGT_FLOW in ns: a field of 0 acts as its default. -/
def State.flowSpan (s : State) (p lo dflt : Nat) : Nat :=
  let v := s.rf (R.MGT_FLOW p) lo 16
  (if v = 0 then dflt else v) * 10 ^ 9

/-- FLOW_IDLE_TIMEOUT: flow i of port die p has seen no frame for idle_s. -/
def execFlowIdleTimeout (p i : Nat) (s : State) : Host.Outcome State Fault Refusal :=
  .next (match (s.flowDie p).flows[i]? with
    | some f => if s.timeNs < f.last + s.flowSpan p 16 10 then s
                else (s.setFlowDie p { s.flowDie p with flows := (s.flowDie p).flows.eraseIdx i }).flowEnd p f 1
    | none => s)

/-- FLOW_ACTIVE_TIMEOUT: flow i has lasted active_s; it starts again with zero counts. -/
def execFlowActiveTimeout (p i : Nat) (s : State) : Host.Outcome State Fault Refusal :=
  .next (match (s.flowDie p).flows[i]? with
    | some f =>
      if s.timeNs < f.first + s.flowSpan p 32 60 then s
      else
        let g : Flow := { f with packets := 0, octets := 0, first := s.timeNs }
        (s.setFlowDie p { s.flowDie p with flows := (s.flowDie p).flows.set i g }).flowEnd p f 2
    | none => s)

/-- FLOW_EXPORT_ENABLE: MGT_FLOW.enable goes from 0 to 1; frames are counted from here, and the templates are sent. -/
def execFlowExportEnable (p : Nat) (s : State) : Host.Outcome State Fault Refusal :=
  .next (
    if 4 ≤ p || s.flowOn p then s
    else ((s.wf (R.MGT_FLOW p) 0 1 1).setFlowDie p { s.flowDie p with flows := [], seen := [] }).flowTemplates p)

/-- FLOW_EXPORT_DISABLE: enable goes from 1 to 0, which ends every flow. -/
def execFlowExportDisable (p : Nat) (s : State) : Host.Outcome State Fault Refusal :=
  .next (
    if 4 ≤ p || !s.flowOn p then s
    else
      let fs := (s.flowDie p).flows
      let s := (s.wf (R.MGT_FLOW p) 0 1 0).setFlowDie p { s.flowDie p with flows := [], seen := [] }
      fs.foldl (fun s f => s.flowEnd p f 4) s)

/-- IPFIX_MESSAGE_FLUSH: 1 s after the first record of the message that gathers for a template. -/
def execIpfixMessageFlush (p : Nat) (v6 : Bool) (s : State) : Host.Outcome State Fault Refusal :=
  .next (
    let d := s.flowDie p
    if s.timeNs < (if v6 then d.at6 else d.at4) + 10 ^ 9 then s else s.flowFlush p v6)

/-- TEMPLATE_TIMER: every template_s. -/
def execTemplateTimer (p : Nat) (s : State) : Host.Outcome State Fault Refusal := .next (
    if s.flowOn p && (s.flowDie p).tmplAt + s.flowSpan p 80 60 ≤ s.timeNs then s.flowTemplates p else s)

end Sys2Proof.Machine
end

