-- ==== Sys2Proof/Machine/Lattice.lean ====
section
/-! DEFINITION. The lattice and the spine: the commands of 03_cells that act on slots, crumbs, credits and tables (R70 to
R79, R90). -/

namespace Sys2Proof.Machine

/-- The channel of a loaded pipeline with a number in a hub: pipeline, place in its list, the channel (R147). -/
def State.chanAt (s : State) (h num : Nat) : Option (Nat × Nat × Chan) :=
  s.pipes.tab.findSome? (fun p =>
    if p.2.state = .loading then none
    else match chanIn p.2.img h num with
      | none => none
      | some leg =>
        let cs := Tbl.get s.chans p.1 []
        ((List.range cs.length).zip cs).findSome? (fun x => if x.2.key = leg.key then some (p.1, x.1, x.2) else none))

/-- A slot left empty by a cell (R72). -/
def State.slotEmpty (s : State) (c : Nat) : State := s.cnt (R.LAT_CELL_SLOT_EMPTY c)

/-- Whether a cell sends in its slots now: running in an awake array, its sequencer stalled neither in an access nor at an interlock or a
wait (R72, R81, R86). -/
def State.sends (s : State) (c : Nat) : Bool :=
  s.hubAwake (c / 128) && s.cellState c = csRunning && (s.seq c).stall.isNone && !(s.seq c).waits

/-- The window of the store-slot request that a cell waits with, if any (R75). -/
def Seq.nbrWindow (q : Seq) : Option Nat := match q.stall with
  | some (.nbr _ w _ _ _ _ _) => some w
  | some (.slots ws) => ws.head?
  | _ => none

/-- Whether the store-slot request that a cell waits with leaves by a link direction (R75). -/
def State.nbrWaits (s : State) (c l d : Nat) : Bool := (s.seq c).nbrWindow.any (fun w => decide (outLink (c % 128) w = (l, d)))

/-- Crumbs of a channel at a gate of a hub, on one side of it. -/
def State.gateCount (s : State) (h n : Nat) (inb : Bool) (pn i : Nat) : Nat :=
  (s.lat.gates.filter (fun g => g.hub = h && g.link = n && g.inb = inb && g.pipe = pn && g.chan = i)).length

/-- Whether the gate by which a channel leaves its sender's hub has no room for one more crumb, those on their way to it counted: its queue
holds 16 (R79). -/
def State.gateFull (s : State) (h pn i : Nat) (k : Chan) : Bool := match routeLink h (k.rCell / 128) with
  | none => false
  | some n => decide (16 ≤ s.gateCount h n false pn i + (s.lat.crumbs.filter (fun c => c.hub = h && c.pipe = pn && c.chan = i)).length)

/-- CRUMB_SEND (R72 to R74, R79): slot `slot` of a link direction of hub h comes. A free slot carries nothing. The sender of
the slot's channel sends the next released crumb when it has a credit and the gate it goes to has room, or leaves the slot empty; a gate sends on a crumb
that has come over the spine; a store slot belongs to STORE_SLOT_ACCESS when its cell has a request. -/
def execCrumbSend (h l d slot : Nat) (s : State) : Host.Outcome State Fault Refusal :=
  .next (
    let e := s.frame h l d slot
    let ch := entryChan e
    if 12 ≤ h || 280 ≤ l || 2 ≤ d || 256 ≤ slot || ch = 0x3FF then s
    else match linkFrom l d with
      | .gate n =>
        (match s.chanAt h ch with
          | none => s
          | some (pn, i, _) => match takeFirst (fun g => g.hub = h && g.link = n && g.inb && g.pipe = pn && g.chan = i) s.lat.gates with
            | none => s
            | some (g, rest) => { s with lat := { s.lat with gates := rest, crumbs := s.lat.crumbs ++ [⟨pn, i, h, l, d, slot, g.words⟩] } })
      | .cell x =>
        let c := h * 128 + x
        if ch = 0x3FE then (if s.nbrWaits c l d then s else s.slotEmpty c)
        else match s.chanAt h ch with
          | none => s
          | some (pn, i, k) =>
            if k.sCell ≠ c then s
            else if !s.sends c || k.put ≤ k.sent || s.gateFull h pn i k then s.slotEmpty c
            else if k.credits = 0 then (s.cnt (R.LAT_CELL_STALL_CREDIT c)).slotEmpty c
            else
              let digest := match Tbl.find s.pipes.tab pn with | some p => p.img.digest | none => 0
              let off := 64 * Config.sendBase digest c k.sIdx + 64 * (k.sent % k.size)
              match s.wordsAt (cellDpa c off) 8 [] with
              | (_, none) => s.machineCheck c mcStoreUe off
              | (s, some ws) =>
                let s := s.updChan pn i (fun k => { k with sent := k.sent + 1, credits := k.credits - 1 })
                { s with lat := { s.lat with crumbs := s.lat.crumbs ++ [⟨pn, i, h, l, d, slot, ws⟩] } })

/-- The frame entry by which a crumb of a channel leaves a cell two slots after it came (R73). -/
def nextLink (img : Image) (h num x slot : Nat) : Option (Nat × Nat × Nat) :=
  (img.frames.find? (fun e => feHub e = h && feChan e = num && linkFrom (feLink e) (feDir e) = .cell x && feSlot e = (slot + 2) % 256)).map
    (fun e => (feLink e, feDir e, feSlot e))

/-- The channel's number in a hub. -/
def legNum (img : Image) (k : Chan) (h : Nat) : Nat := match img.chans.find? (fun c => c.hub = h && c.key = k.key) with
  | some c => c.num
  | none => 0

/-- CRUMB_HOP (R70, R73, R79): crumb number i of those in flight reaches the end of its link. `ce` words came with a
corrected error; `ue` says that one is uncorrectable, which discards the crumb and machine-checks the cell. A crumb that
reaches its receiver is written into the channel buffer; at a gate it joins the channel's queue of 16. -/
def execCrumbHop (i ce : Nat) (ue : Bool) (s : State) : Host.Outcome State Fault Refusal :=
  .next (match s.lat.crumbs[i]? with
    | none => s
    | some c =>
      let gone := { s with lat := { s.lat with crumbs := s.lat.crumbs.eraseIdx i } }
      let ch := nth (Tbl.get s.chans c.pipe []) c.chan ⟨0, 0, 0, 0, 0, 0, 0, 0, 0, 0, 0, 0, 0⟩
      match Tbl.find s.pipes.tab c.pipe with
      | none => gone
      | some p =>
        let num := legNum p.img ch c.hub
        match linkTo c.link c.dir with
        | .gate n =>
          if 16 ≤ s.gateCount c.hub n false c.pipe c.chan then s
          else { gone with lat := { gone.lat with gates := gone.lat.gates ++ [⟨c.hub, n, false, c.pipe, c.chan, c.words⟩] } }
        | .cell x =>
          let k := c.hub * 128 + x
          let count := fun (s : State) => if ce = 0 then s else s.cnt (R.LAT_CELL_LINK_CE k) ce
          if ue then State.machineCheck (count gone) k mcLatticeUe num
          else
            if ch.rCell = k then
              let s := (count gone).putWords (cellDpa k (ch.buf + 64 * (ch.recv % ch.size))) c.words
              s.updChan c.pipe c.chan (fun q => { q with recv := q.recv + 1 })
            else match nextLink p.img c.hub num x c.slot with
              | none => count gone
              | some (l, d, sl) => count { s with lat := { s.lat with crumbs := s.lat.crumbs.set i { c with link := l, dir := d, slot := sl } } })

/-- CREDIT_RETURN (R74): credit record number i reaches the sender. -/
def execCreditReturn (i : Nat) (s : State) : Host.Outcome State Fault Refusal :=
  .next (match s.lat.credits[i]? with
    | none => s
    | some (pn, c, n) =>
      State.updChan { s with lat := { s.lat with credits := s.lat.credits.eraseIdx i } } pn c (fun k => { k with credits := min k.size (k.credits + n) }))

/-- Whether `slot` of the link direction toward a window is a store slot of cell k whose reply slot is there too (R75). -/
def State.storeSlotAt (s : State) (k win slot : Nat) : Bool :=
  let (l, d) := outLink (k % 128) win
  let h := k / 128
  slot < 256 && entryChan (s.frame h l d slot) = 0x3FE && entryChan (s.frame h l (1 - d) ((slot + 4) % 256)) = 0x3FE

/-- The neighbour of cell k through a window, if it is no gate. -/
def nbrCell (k win : Nat) : Option Nat := match linkTo (outLink (k % 128) win).1 (outLink (k % 128) win).2 with
  | .gate _ => none
  | .cell x => some (k / 128 * 128 + x)

/-- s with the words of a store-slot crumb that cell c's router corrected counted (R70). -/
def State.crumbCe (s : State) (c n : Nat) : State := if n = 0 then s else s.cnt (R.LAT_CELL_LINK_CE c) n

/-- A store-slot request of cell k is served by its neighbour x, whatever that cell's state (R75, R137). `lost` says that the reply was
uncorrectable at k: k takes LATTICE_UE, its access performed. -/
def State.storeSlotServe (s : State) (k x : Nat) (lost : Bool) : State :=
  let q := s.seq k
  match q.stall with
  | some (.nbr kind win off rd tag data swap) =>
    let sa := win * 2 ^ 21 + off
    let a := cellDpa x off
    let back := fun (s : State) (v : TW) => if lost then s.machineCheck k mcLatticeUe 0x3FE else s.resume k rd v
    if kind = 4 then back (s.putWord a ⟨tag, data⟩) (q.reg rd)
    else match s.wordAt a with
      | (s, none) => s.machineCheck k mcStoreUe sa
      | (s, some old) =>
        if kind = 3 then back s old
        else if old.tag ≠ tag then
          (if lost then s.machineCheck k mcLatticeUe 0x3FE
           else (s.updSeq k (fun q => { q with stall := none })).takeTrap k cTag (tagTval1 old.tag 6) q.stallLen)
        else back (s.putWord a (atomicNew kind old.val data swap tag)) old
  | some (.slots (_ :: rest)) =>
    if lost then s.machineCheck k mcLatticeUe 0x3FE
    else if rest.isEmpty then (s.updSeq k (fun q => { q with stall := none, slotsDone := some q.pc })).boundary k
    else s.updSeq k (fun q => { q with stall := some (.slots rest) })
  | _ => s

/-- STORE_SLOT_ACCESS (R70, R75, R137): cell k's request slot on the link of its waiting neighbour access comes: the access is served by
the neighbour's store, and the reply returns four slots later. The neighbour's router corrected `ce` words of the request and k's `ce'` of
the reply; `bad` 1 is an uncorrectable request, which the neighbour discards with a machine-check, so that k asks again in its next slot,
and 2 an uncorrectable reply. -/
def execStoreSlotAccess (k : Nat) (slot : SlotUse) (s : State) : Host.Outcome State Fault Refusal :=
  .next (match (s.seq k).nbrWindow with
    | none => s
    | some win =>
      if !s.storeSlotAt k win slot.slot then s
      else match nbrCell k win with
        | none => s
        | some x =>
          let s := s.crumbCe x slot.ce
          if slot.bad = 1 then s.machineCheck x mcLatticeUe 0x3FE
          else (s.crumbCe k slot.ce').storeSlotServe k x (slot.bad = 2))

/-! ## Frame and spine tables (R76, R78) -/

/-- FRAME_TABLE_COMMIT (R76): LAT_HUB_COMMIT.commit of hub h is written. -/
def execFrameTableCommit (h : Nat) (s : State) : Host.Outcome State Fault Refusal :=
  .next (if 12 ≤ h then s else s.wf (R.LAT_HUB_COMMIT h) 1 1 1)

/-- The frame slots of hub h that pipelines which stay loaded own, by key (R76). -/
def State.heldFrames (s : State) (h : Nat) : List Nat :=
  ((s.pipes.tab.filter (fun p => p.2.state ≠ .loading)).map (fun p =>
    (p.2.img.frames.filter (fun e => feHub e = h)).map (fun e => frameKey (feLink e) (feDir e) (feSlot e)))).flatten

/-- FRAME_TABLE_APPLY (R76): at the hub's next frame boundary the staged table takes effect on every link; slots of a pipeline that stays
loaded keep their owner. -/
def execFrameTableApply (h : Nat) (s : State) : Host.Outcome State Fault Refusal :=
  .next (
    if 12 ≤ h || s.rf (R.LAT_HUB_COMMIT h) 1 1 = 0 then s
    else
      let t := s.staged (R.LAT_HUB_FRAME_ENTRY h 0) 143360
      let t := (s.heldFrames h).foldl (fun t k => Tbl.set t k (Tbl.get (Tbl.get s.lat.frames h []) k freeEntry) freeEntry) t
      State.wf { s with lat := { s.lat with frames := Tbl.set s.lat.frames h t [] } } (R.LAT_HUB_COMMIT h) 1 1 0)

/-- SPINE_TABLE_COMMIT (R78): SPN_CTRL.commit of hub h is written. -/
def execSpineTableCommit (h : Nat) (s : State) : Host.Outcome State Fault Refusal :=
  .next (if 12 ≤ h then s else s.wf (R.SPN_CTRL h) 1 1 1)

/-- SPINE_TABLE_APPLY (R78): at the next spine frame boundary the staged spine table takes effect; SPN_RESERVED shows the
reserved slots. -/
def execSpineTableApply (h : Nat) (s : State) : Host.Outcome State Fault Refusal :=
  .next (
    if 12 ≤ h || s.rf (R.SPN_CTRL h) 1 1 = 0 then s
    else
      let t := s.staged (R.SPN_TABLE_ENTRY h 0) 4000
      let s := State.wf { s with lat := { s.lat with spines := Tbl.set s.lat.spines h t [] } } (R.SPN_CTRL h) 1 1 0
      (List.range 4).foldl (fun s n => s.wf (R.SPN_RESERVED h n) 0 10
        (t.filter (fun p => p.1 / 1000 = n && entryChan p.2 ≠ 0x3FF)).length) s)

/-- SPINE_SLOT (R78, R79): slot `slot` of spine link n of hub h comes. A reserved slot takes the next crumb of its channel
from the gate's queue; at the receiver's hub it waits at the gate across, at another it goes on to the next spine link of
its route (R18). A queue across that holds 16 leaves the slot empty, and what reaches a crossing that has timed out is discarded (R79,
R486). `arb` names arbitrated traffic that wants a slot not reserved: its source, its destination hub, and
whether it is the traffic that returns. It uses the slot where this link lies on its route (R18, R19), and waits where the
hub across is under a warm reset (R495). -/
def execSpineSlot (h n slot : Nat) (arb : Option (Nat × Nat × Bool)) (s : State) : Host.Outcome State Fault Refusal :=
  .next (
    if 12 ≤ h || 4 ≤ n || 1000 ≤ slot then s
    else
      let ch := entryChan (s.spine h n slot)
      if ch = 0x3FF then
        (match arb with
          | none => s
          | some (src, dst, back) =>
            if (trafficHops src dst back).contains (h, n) && !s.hubDown (spineTo h n) then s.cnt (R.SPN_ARB_CRUMBS h n) else s)
      else
        let hub := spineTo h n
        match s.chanAt hub ch with
        | none => s.cnt (R.SPN_RES_EMPTY h n)
        | some (pn, i, k) => match takeFirst (fun g => g.hub = h && g.link = n && !g.inb && g.pipe = pn && g.chan = i) s.lat.gates with
          | none => s.cnt (R.SPN_RES_EMPTY h n)
          | some (g, rest) =>
            let g' := match routeLink hub (k.rCell / 128) with
              | some m => { g with hub := hub, link := m, inb := false }
              | none => { g with hub := hub, link := acrossLink n, inb := true }
            if 16 ≤ s.gateCount g'.hub g'.link g'.inb pn i then s.cnt (R.SPN_RES_EMPTY h n)
            else if s.clk.xings.contains (4 * hub + acrossLink n) then { s with lat := { s.lat with gates := rest } }
            else { s with lat := { s.lat with gates := rest ++ [g'] } })

end Sys2Proof.Machine
end

