-- ==== Sys2Proof/Machine/Limits.lean ====
section
/-! DEFINITION. Sensors and the limiter (23_physical, R449, R454, R456, R457): samples, thermal limits, throttling and the trip. -/

namespace Sys2Proof.Machine

/-- The thresholds of a sensor in 0.125 °C: throttle (none for the always-on domain's), alert, trip (R500). -/
def throttleAt (i : Nat) : Option Int := if i = 78 then none else if 80 ≤ i then some 680 else some 760
def alertAt (i : Nat) : Int := if i = 78 then 840 else if 80 ≤ i then 720 else 800
def tripAt (i : Nat) : Int := if i = 78 then 920 else if 80 ≤ i then 800 else 880

/-- 3 K in 0.125 °C (R501). -/
def coolBy : Int := 24

/-- Whether a sensor, or a rail, can be read (R449): main-side ones while the device runs. -/
def State.sensed (s : State) (i : Nat) : Bool := i = 78 || 80 ≤ i || s.dev = .run
def State.railSensed (s : State) (j : Nat) : Bool := j = 0 || j = 8 || s.dev = .run

/-- A sensor's reading, where it has one. -/
def State.temp (s : State) (i : Nat) : Option Int :=
  if s.rf (R.MGT_TEMP i) 16 1 = 1 then some (signed 16 (s.rf (R.MGT_TEMP i) 0 16)) else none

/-- Whether some sensor's reading satisfies p. -/
def State.anyTemp (s : State) (p : Nat → Int → Bool) : Bool :=
  (List.range 96).any (fun i => (s.temp i).any (fun t => p i t))

/-- Some sensor stands at its throttle point; every one is 3 K below it (R501). -/
def State.hot (s : State) : Bool := s.anyTemp (fun i t => (throttleAt i).any (fun x => decide (x ≤ t)))
def State.cool (s : State) : Bool := !s.anyTemp (fun i t => (throttleAt i).any (fun x => decide (x - coolBy < t)))

/-- The input power stands above a limit of R499, in mW: the cap over 1 s, 3,200 W over 1 ms. -/
def State.overPower (s : State) : Bool :=
  decide (s.mgt.capW * 1000 < s.rf (R.MGT_RAIL 0) 96 32) || decide (3200 * 1000 < s.rf (R.MGT_RAIL 0) 64 32)

/-- Whether the limiter holds some hub below the point wanted. -/
def State.holds (s : State) : Bool := (List.range 12).any (fun h => decide (s.dvfsTarget h < s.dvfsWanted h))

/-- s with PWR_THERM.throttling and cause as they stand; the cause lasts while a hub is held. -/
def State.showThrottle (s : State) : State :=
  let now := b2n s.hot + 2 * b2n s.overPower
  let s := s.wf R.PWR_THERM 0 1 (b2n s.holds)
  if !s.holds then s.wf R.PWR_THERM 1 2 0 else if now = 0 then s else s.wf R.PWR_THERM 1 2 now

/-- The level a reading has crossed: 0 none, 1 warning, 2 critical, 3 fatal (R500). -/
def levelOf (i : Nat) (t : Int) : Nat :=
  if tripAt i ≤ t then 3 else if alertAt i ≤ t then 2 else if (throttleAt i).any (fun x => decide (x ≤ t)) then 1 else 0

/-- s with one sensor's sample, and a numeric sensor event queued where it crosses a threshold (R500): code 0x100 plus the level. -/
def State.sampleTemp (s : State) (i : Nat) (t : Int) : State :=
  if !s.sensed i then s.wr (R.MGT_TEMP i) 0
  else
    let s := s.wr (R.MGT_TEMP i) (wrapInt 16 t + 2 ^ 16)
    let l := levelOf i t
    if l = Tbl.get s.mgt.levels i 0 then s
    else State.mcSignal { s with mgt := { s.mgt with levels := Tbl.set s.mgt.levels i l 0 } } (0x100 + l) i

/-- The sensor with the highest reading relative to its throttle point. -/
def State.hottest (s : State) : Nat :=
  let all := (List.range 96).filterMap (fun i => match s.temp i, throttleAt i with
    | some t, some x => some (i, t - x)
    | _, _ => none)
  (all.foldl (fun (b : Option (Nat × Int)) e => match b with
    | none => some e
    | some d => if d.2 < e.2 then some e else some d) none).elim 0 Prod.fst

/-- s with THERM_ALERT# as the readings have it: low at a critical point, released 3 K below every one (R501). -/
def State.showAlert (s : State) : State :=
  let was := s.rf R.PWR_THERM 3 1 = 1
  let now := s.anyTemp (fun i t => decide (alertAt i ≤ t)) || (was && s.anyTemp (fun i t => decide (alertAt i - coolBy < t)))
  if now = was then s else (s.wf R.PWR_THERM 3 1 (b2n now)).emit (.pin pinThermAlert (!now))

/-- A thermal trip (R502): the main rails go off, whatever else is in progress (R503). -/
def State.thermalTrip (s : State) : State :=
  let s := ((s.loseMain .railsOff).cnt R.PWR_TRIPS).wf R.PWR_THERM 4 1 1
  { s with clk := { s.clk with tripped := true } }

/-- SENSOR_SAMPLE: the 96 readings of a 1 ms sample, in 0.125 °C. -/
def execSensorSample (temps : List Int) (s : State) : Host.Outcome State Fault Refusal :=
  .next (
    if s.dev = .off || s.timeNs < s.phys.nextTemp then s
    else
      let s : State := { s with phys := { s.phys with nextTemp := s.timeNs + 1000000 } }
      let throttled := s.rf R.PWR_THERM 0 1 = 1
      let s := (temps.zip (List.range 96)).foldl (fun s e => s.sampleTemp e.2 e.1) s
      let s := (s.wf R.PWR_THERM 5 7 s.hottest).showAlert
      let s := if throttled then s.cnt R.PWR_THROTTLE_MS else s
      let s : State := { s with phys := { s.phys with coolMs := if s.cool && !s.overPower then s.phys.coolMs + 1 else 0 } }
      let s : State := { s with phys := { s.phys with dramCap := s.phys.dramCap.filter (fun h =>
        (List.range 16).any (fun k => decide (9 * k < 12 * (h + 1)) && decide (12 * h < 9 * k + 9) && (s.temp (80 + k)).any (fun t => decide (680 ≤ t)))) } }
      let s := s.showThrottle
      if s.anyTemp (fun i t => decide (tripAt i ≤ t)) && !s.clk.brownOut && !s.clk.tripped then s.thermalTrip else s)

/-- One rail's sample (R457): mV, mA, the power averaged over 1 ms and over 1 s in mW, and the energy since the last sample in mJ. -/
def State.sampleRail (s : State) (j : Nat) (v : List Nat) : State :=
  let g := fun (i : Nat) => nth v i 0
  if !s.railSensed j then s.wr (R.MGT_RAIL j) 0
  else
    (s.wr (R.MGT_RAIL j) (g 0 % 2 ^ 16 + g 1 % 2 ^ 32 * 2 ^ 32 + g 2 % 2 ^ 32 * 2 ^ 64 + g 3 % 2 ^ 32 * 2 ^ 96)).cnt (R.MGT_RAIL_ENERGY j) (g 4)

/-- RAIL_SAMPLE: the nine rails. -/
def execRailSample (rails : List (List Nat)) (s : State) : Host.Outcome State Fault Refusal :=
  .next (if s.dev = .off || s.timeNs < s.phys.nextRail then s
    else (rails.zip (List.range 9)).foldl (fun s e => s.sampleRail e.2 e.1) { s with phys := { s.phys with nextRail := s.timeNs + 100000 } })

/-- Whether a hub runs work. -/
def State.hubWorks (s : State) (h : Nat) : Bool := (List.range 128).any (fun i => decide (s.cellState (128 * h + i) = csRunning))

/-- The hubs whose memory packages lie beside substrate sensor 80 + k (R217, R456). -/
def hubsBeside (k : Nat) : List Nat := (List.range 12).filter (fun h => decide (9 * k < 12 * (h + 1)) && decide (12 * h < 9 * k + 9))

/-- THROTTLE_STEP (R501): above a throttle point or a power limit, every hub that runs work is held one step lower, and the DRAM
service beside a hot substrate sensor is capped. -/
def execThrottleStep (s : State) : Host.Outcome State Fault Refusal :=
  .next (
    if s.dev ≠ .run || !(s.hot || s.overPower) || s.timeNs < s.phys.nextStep then s
    else
      let down := (List.range 12).filter s.hubWorks
      let hold := down.foldl (fun t h => Tbl.put t h (s.dvfsTarget h - 1)) s.phys.hold
      let s := down.foldl (fun s h => s.dvfsAsked h) s
      let caps := ((List.range 16).filter (fun k => (s.temp (80 + k)).any (fun t => decide (680 ≤ t)))).flatMap hubsBeside
      State.showThrottle { s with phys := { s.phys with hold := hold, coolMs := 0, nextStep := s.timeNs + 1000000, dramCap := caps.foldl setIns s.phys.dramCap } })

/-- THROTTLE_RAISE (R501): after 100 ms cool and under the caps, each hub is held one step higher, up to its request. -/
def execThrottleRaise (s : State) : Host.Outcome State Fault Refusal :=
  .next (
    if s.dev ≠ .run || s.phys.coolMs < 100 || !s.cool || s.overPower then s
    else
      let up := (Tbl.mapV s.phys.hold (fun _ v => v + 1)).filter (fun e => decide (e.2 < s.dvfsWanted e.1))
      let s := s.phys.hold.foldl (fun s e => s.dvfsAsked e.1) s
      State.showThrottle { s with phys := { s.phys with hold := up, coolMs := 0 } })

end Sys2Proof.Machine
end

