-- ==== Sys2Proof/Machine/Memory.lean ====
section
/-! DEFINITION. Copy and transform descriptors, scrubs and DRAM upkeep: the commands of 09_memory but for the hub-store scrub. -/

namespace Sys2Proof.Machine

def stFormatError : Nat := 0x100

/-! ## The body (R237) -/

/-- The fields of a copy or transform body. -/
structure CopyArgs where
  srcOff : Nat
  srcHandle : Nat
  srcLoc : Nat
  dstOff : Nat
  dstHandle : Nat
  dstLoc : Nat
  len : Nat
  srcFmt : Nat
  dstFmt : Nat
  mode : Nat
  sat : Bool
  step : Nat
  seed : Nat
deriving DecidableEq, Repr

def copyArgs (d : Nat) : CopyArgs :=
  { srcOff := dby d 8 8, srcHandle := dby d 16 4, srcLoc := dby d 20 1, dstOff := dby d 24 8, dstHandle := dby d 32 4, dstLoc := dby d 36 1
    len := dby d 40 6, srcFmt := dby d 46 1, dstFmt := dby d 47 1, mode := fld (dby d 48 1) 0 3, sat := bit (dby d 48 1) 3
    step := dby d 52 4, seed := dby d 56 8 }

/-- The body bytes an opcode uses; the rest must be 0. -/
def copyUsed (op : Nat) : List (Nat × Nat) :=
  [(8, 8), (24, 13), (40, 6)] ++ (if op = 2 then [] else [(16, 5)]) ++ (if 3 ≤ op then [(46, 3), (52, 12)] else [])

/-- Whether a code names an element format: those of R134 and binary64. -/
def isElem (c : Nat) : Bool := (1 ≤ c && c ≤ 0xC) || c = 0x20
/-- A floating-point element format, one that TB8 and TB4 take (R109), and an encoding of MEM_ENCODE. -/
def isFloat (c : Nat) : Bool := (1 ≤ c && c ≤ 8) || c = 0x20
def isTbElem (c : Nat) : Bool := 1 ≤ c && c ≤ 3
def encZr : Nat := 1
def encLzs : Nat := 2
def isTbEnc (c : Nat) : Bool := c = 3 || c = 4

/-- Whether length and formats fit the opcode (R238). -/
def copyLenOk (op : Nat) (a : CopyArgs) : Bool :=
  1 ≤ a.len && a.srcLoc ≤ 3 && a.dstLoc ≤ 3 && a.mode ≤ 5 &&
  match op with
  | 1 => true
  | 2 => true
  | 3 => isElem a.srcFmt && isElem a.dstFmt && a.len * 8 % codeBits a.srcFmt = 0
  | 4 =>
    if a.dstFmt = encZr then isElem a.srcFmt && codeBits a.srcFmt % 8 = 0 && a.len * 8 % codeBits a.srcFmt = 0
    else if a.dstFmt = encLzs then isElem a.srcFmt
    else if isTbEnc a.dstFmt then isTbElem a.srcFmt && a.len * 8 % codeBits a.srcFmt = 0
    else isMx a.dstFmt && isFloat a.srcFmt && a.len * 8 % codeBits a.srcFmt = 0
  | _ =>
    if a.srcFmt = encZr || a.srcFmt = encLzs then isElem a.dstFmt
    else if isTbEnc a.srcFmt then isTbElem a.dstFmt && a.len % tbBytes (a.srcFmt = 4) = 0
    else isMx a.srcFmt && isFloat a.dstFmt && a.len % (4 * elemBits a.srcFmt) = 0

/-! ## The engine that runs it (R236) -/

/-- The hub of a pool or cell operand's first line. -/
def State.operandHub (s : State) (sl loc handle off : Nat) : Option Nat :=
  if loc = 2 then (s.region handle sl).map (fun r => r.dpa off / hubBytes) else if loc = 3 then some (handle / 128) else none

/-- The requester bit of the copy engines that run a descriptor. -/
def State.copyReq (s : State) (j : Job) (op : Nat) (a : CopyArgs) : Nat :=
  1 + ((s.operandHub j.slice a.dstLoc a.dstHandle a.dstOff).getD
    ((if op = 2 then none else s.operandHub j.slice a.srcLoc a.srcHandle a.srcOff).getD (j.sr % 12)))

/-! ## Transforms (R238) -/

/-- The stochastic bits of element i of a descriptor whose first element has index at'. -/
def CopyArgs.bits (a : CopyArgs) (at' i : Nat) : Nat := srBits a.seed a.step (at' + i)

/-- Elements and their positions. -/
def indexed (xs : List Nat) : List (Nat × Nat) := xs.zip (List.range xs.length)

/-- MEM_CONVERT. -/
def CopyArgs.convert (a : CopyArgs) (bs : List Byte) : List Byte :=
  let w := codeBits a.srcFmt
  packElems (codeBits a.dstFmt) ((indexed (elemsOf w (bs.length * 8 / w) bs)).map (fun x =>
    (Machine.convert a.srcFmt a.dstFmt a.mode a.sat (a.bits (a.srcOff * 8 / w) x.2) x.1).1))

/-- MEM_ENCODE: the bytes at the destination offset, and for microscaling the scale array. -/
def CopyArgs.encode (a : CopyArgs) (bs : List Byte) : List Byte × List Byte :=
  if a.dstFmt = encZr then (zrEncode (codeBits a.srcFmt / 8) bs, [])
  else if a.dstFmt = encLzs then (lzsEncode bs, [])
  else
    let w := codeBits a.srcFmt
    let f := fmtFor a.srcFmt
    let at' := a.srcOff * 8 / w
    let vs := (elemsOf w (bs.length * 8 / w) bs).map f.decode
    let blocks := (chunksOf 32 (vs.length + 1) vs).zip (List.range (vs.length / 32 + 1))
    if isTbEnc a.dstFmt then
      ((blocks.map (fun b => (tbEncode (a.dstFmt = 4) a.mode (fun i => a.bits at' (32 * b.2 + i)) b.1).1)).flatten, [])
    else
      let m := a.dstFmt - 0x10
      let qs := blocks.map (fun b => mxQuant m a.mode (fun i => a.bits at' (32 * b.2 + i)) b.1)
      (packElems (mxBits m) ((qs.map (fun q => q.2.1)).flatten), (qs.map (fun q => leBytes 1 q.1)).flatten)

/-- MEM_DECODE: the decoded bytes, and the offset of an error in its frame; `sc` is the scale array of a microscaling source. -/
def CopyArgs.decode (a : CopyArgs) (bs sc : List Byte) : List Byte × Option Nat :=
  if a.srcFmt = encZr then decodeFrames zrDecodeFrame (bs.length + 1) bs []
  else if a.srcFmt = encLzs then decodeFrames lzsDecodeFrame (bs.length + 1) bs []
  else
    let g := fmtFor a.dstFmt
    let out := fun (at' n : Nat) (v : Nat → FV) => packElems g.bits ((List.range n).map (fun i => (g.round a.mode a.sat (a.bits at' i) (v i)).1))
    if isTbEnc a.srcFmt then
      let B := tbBytes (a.srcFmt = 4)
      (out (a.srcOff / B * 32) (bs.length / B * 32) (fun i => tbValue (a.srcFmt = 4) (bsub bs (i / 32 * B) B) (i % 32)), none)
    else
      let m := a.srcFmt - 0x10
      let w := mxBits m
      (out (a.srcOff / (4 * w) * 32) (bs.length * 8 / w) (fun i => mxValue m (leAt sc (i / 32) 1) (elemAt bs w i)), none)

/-- The repeated pattern of MEM_FILL. -/
def fillBytes (pat n : Nat) : List Byte := ((List.replicate (n / 8 + 1) (leBytes 8 pat)).flatten).take n

/-- What a transform writes: each piece with its destination offset, and the offset of a format error. -/
def CopyArgs.output (a : CopyArgs) (op : Nat) (bs sc : List Byte) : List (Nat × List Byte) × Option Nat :=
  match op with
  | 1 => ([(a.dstOff, bs)], none)
  | 2 => ([(a.dstOff, fillBytes a.srcOff a.len)], none)
  | 3 => ([(a.dstOff, a.convert bs)], none)
  | 4 => let e := a.encode bs; (if e.2.isEmpty then [(a.dstOff, e.1)] else [(a.dstOff, e.1), (roundUp (a.dstOff + e.1.length) 64, e.2)], none)
  | _ => let e := a.decode bs sc; ([(a.dstOff, e.1)], e.2)

/-- The ranges of the source: its bytes, and the scale array of a microscaling one at the next 64 B boundary. -/
def CopyArgs.sources (a : CopyArgs) (op : Nat) : List (Nat × Nat) :=
  (a.srcOff, a.len) :: (if op = 5 && isMx a.srcFmt then [(roundUp (a.srcOff + a.len) 64, a.len / (4 * elemBits a.srcFmt))] else [])

/-- Whether a destination piece overlaps the source, both named through one handle and location. -/
def CopyArgs.overlaps (a : CopyArgs) (op : Nat) (p : Nat × List Byte) : Bool :=
  a.srcLoc = a.dstLoc && a.srcHandle = a.dstHandle && !p.2.isEmpty &&
  (a.sources op).any (fun q => decide (q.1 < p.1 + p.2.length) && decide (p.1 < q.1 + q.2))

/-- The places a range of host or accelerator memory names: Denux link (none for the host), address, length. A range that does not translate
names none. -/
def State.outside (s : State) (j : Job) (loc handle off n req : Nat) : List HostPiece :=
  if loc = 0 then (match s.translateRange (handle % 2 ^ 20) j.slice off n false (jobWaiter j.sr j.tag req) with | .ok _ ps => ps | _ => [])
  else if loc = 1 then [(some handle, off, n)]
  else []

/-- Whether the destination lies over the source outside the module under another name: two PASIDs, or a PASID and a link (R238). -/
def State.aliased (s : State) (j : Job) (op : Nat) (a : CopyArgs) (req : Nat) (out : List (Nat × List Byte)) : Bool :=
  op ≠ 2 && a.srcLoc ≤ 1 && a.dstLoc ≤ 1 && !(a.srcLoc = a.dstLoc && a.srcHandle = a.dstHandle) &&
  (let src := ((a.sources op).map (fun q => s.outside j a.srcLoc a.srcHandle q.1 q.2 req)).flatten
   let dst := (out.map (fun p => s.outside j a.dstLoc a.dstHandle p.1 p.2.length req)).flatten
   src.any (fun x => dst.any (fun y => x.1 = y.1 && decide (x.2.1 < y.2.1 + y.2.2) && decide (y.2.1 < x.2.1 + x.2.2))))

/-- s with the bytes of each piece free values. -/
def State.freePieces (s : State) (out : List (Nat × List Byte)) : State × List (Nat × List Byte) :=
  out.foldl (fun a p => let f := a.1.fresh (8 * p.2.length); (f.2, a.2 ++ [(p.1, leBytes p.2.length f.1)])) (s, [])

/-! ## Running a descriptor -/

/-- Writes the pieces in order: waiting, failed with the bytes written, or all written. -/
def State.writeOut (s : State) (j : Job) (a : CopyArgs) (req : Nat) : List (Nat × List Byte) → Nat → Wio × Nat
  | [], n => (.ok s, n)
  | p :: ps, n => match s.writeOperand j a.dstLoc a.dstHandle p.1 p.2 req with
    | .ok s => s.writeOut j a req ps (n + p.2.length)
    | .wait s => (.wait s, n)
    | .fail s st d m => (.fail s st d (n + m), n + m)

/-- The 4 KiB unit of a failing line of the scale array, counted from the start of the descriptor's access range (R231): the first line of
the array that lies in unit `u` of it and is uncorrectable. -/
def CopyArgs.scaleUe (a : CopyArgs) (s : State) (j : Job) (u : Nat) : Nat :=
  let at' := roundUp (a.srcOff + a.len) 64
  let n := a.len / (4 * elemBits a.srcFmt)
  let bad := fun (o : Nat) => match s.region a.srcHandle j.slice with
    | some r => s.mem.bad.contains (r.dpa o - r.dpa o % 64)
    | none => false
  match (linePieces at' n).find? (fun p => (p.1 - at') / 4096 = u && bad p.1) with
  | some p => (p.1 - a.srcOff) / 4096
  | none => (at' + 4096 * u - a.srcOff) / 4096

/-- The bytes a transform has read: the source, and the scale array of a microscaling one, which begins at the next 64 B
boundary after its elements. -/
def State.readSource (s : State) (j : Job) (op : Nat) (a : CopyArgs) (req : Nat) : Io (List Byte × List Byte) :=
  if op = 2 then .ok s ([], [])
  else match s.readOperand j a.srcLoc a.srcHandle a.srcOff a.len req with
    | .wait s => .wait s
    | .fail s st d => .fail s st d
    | .ok s bs =>
      if op = 5 && isMx a.srcFmt then
        let at' := roundUp (a.srcOff + a.len) 64
        match s.readOperand j a.srcLoc a.srcHandle at' (a.len / (4 * elemBits a.srcFmt)) req with
        | .ok s sc => .ok s (bs, sc)
        | .wait s => .wait s
        | .fail s st d => .fail s st (if st = stMemUncorrectable && d % 16 = 1 then 1 + 16 * min (a.scaleUe s j (d / 16)) 0x0FFFFFFF else d)
      else .ok s (bs, [])

/-- A copy or transform descriptor (R236 to R239). A result that overlaps its source under another name is undefined: free values. The engine reads its whole source before its first write (log entry 44). -/
def State.copyRun (s : State) (sr tag op : Nat) : State :=
  s.withJob sr tag op fun s j =>
    let a := copyArgs j.desc
    if !rsvdZero j.desc (copyUsed op) || (op ≠ 2 && 16 ≤ dby j.desc 48 1) || !copyLenOk op a then s.failJob j stInvalidDescriptor 0
    else
      let req := s.copyReq j op a
      match s.readSource j op a req with
      | .wait s => s
      | .fail s st d => s.failJob j st d
      | .ok s (bs, sc) =>
        let out := a.output op bs sc
        let (s, put) := if s.aliased j op a req out.1 then s.freePieces out.1 else (s, out.1)
        if 3 ≤ op && out.1.any (a.overlaps op) then s.failJob j stInvalidDescriptor 0
        else match s.writeOut j a req put 0 with
          | (.wait s, _) => s
          | (.fail s st d m, _) => s.finish j st noUnit d m
          | (.ok s, n) => match out.2 with
            | some o => s.finish j stFormatError noUnit o n
            | none => s.succeed j n

def execMemCopy (sr tag : Nat) (s : State) : Host.Outcome State Fault Refusal := .next (s.copyRun sr tag 1)
def execMemFill (sr tag : Nat) (s : State) : Host.Outcome State Fault Refusal := .next (s.copyRun sr tag 2)
def execMemConvert (sr tag : Nat) (s : State) : Host.Outcome State Fault Refusal := .next (s.copyRun sr tag 3)
def execMemEncode (sr tag : Nat) (s : State) : Host.Outcome State Fault Refusal := .next (s.copyRun sr tag 4)
def execMemDecode (sr tag : Nat) (s : State) : Host.Outcome State Fault Refusal := .next (s.copyRun sr tag 5)

/-! ## Regions -/

/-- s with every byte of a granule zero, its checks valid (R222). -/
def State.zeroGranule (s : State) (g : Nat) : State :=
  let a := g * 2097152
  let m := s.mem
  { s with mem := { m with bytes := Mem.clear m.bytes a 2097152, bad := setDelRange m.bad a 2097152, weak := setDelRange m.weak a 2097152 } }

/-- REGION_ZERO_DONE (R222): the granules of region number n read as zero, and its allocation commits with its handle. -/
def execRegionZeroDone (n : Nat) (s : State) : Host.Outcome State Fault Refusal :=
  .next (match s.mem.zeroing.find? (fun z => z.1 = n), Tbl.find s.mem.regions n with
    | some z, some r =>
      let s := r.granules.foldl (fun s g => s.zeroGranule g) s
      let s : State := { s with mem := { s.mem with zeroing := s.mem.zeroing.filter (fun z => z.1 ≠ n) } }
      s.commitTag z.2.1 z.2.2 stSuccess noUnit 0 (n + r.gen * 65536)
    | _, _ => s)

/-! ## Scrub and upkeep -/

/-- The allocated ECC-on granules of a hub, numbered within it (R221, R233). -/
def State.scrubGranules (s : State) (h : Nat) : List Nat :=
  ((s.mem.regions.filter (fun r => r.2.ecc)).map (fun r => (r.2.granules.filter (fun g => g / 196608 = h)).map (fun g => g % 196608))).flatten ++
  (List.range 96).map (· + 196512)

/-- The lowest line of those granules at or above a hub offset. -/
def State.scrubNext (s : State) (h pos : Nat) : Option Nat :=
  let c := (s.scrubGranules h).filterMap (fun g =>
    let b := g * 2097152
    if pos ≤ b then some b else if pos < b + 1966080 then some (roundUp pos 64) else none)
  c.foldl (fun m x => match m with | some y => some (min x y) | none => some x) none

/-- PATROL_SCRUB (R233) of hub h: the line at MEM_SCRUB_POS, or the next one there is; past the last one the pass is complete.
It pauses in self-refresh and in retention. -/
def execPatrolScrub (h : Nat) (s : State) : Host.Outcome State Fault Refusal :=
  .next (
    if 12 ≤ h || s.rf (R.MEM_CTRL h) 1 1 = 0 || s.rf (R.MEM_STATUS h) 1 1 = 1 || s.dev = .retention then s
    else
      let s := s.wf (R.MEM_STATUS h) 2 1 1
      match s.scrubNext h (s.rf (R.MEM_SCRUB_POS h) 0 39) with
      | none => (((s.cnt (R.MEM_SCRUB_PASSES h)).wr (R.MEM_SCRUB_POS h) 0)).wf (R.MEM_STATUS h) 2 1 0
      | some o => ((s.touchChannel h o).readLine (h * hubBytes + o) 2).1.wr (R.MEM_SCRUB_POS h) (o + 64))

/-- DRAM_REFRESH (R217): a refresh or RFM of a channel changes latency only (R12). -/
def execDramRefresh (_h _ch : Nat) (s : State) : Host.Outcome State Fault Refusal := .next s

/-- MR4_POLL (R217): a die's refresh-rate requirement as read. -/
def execMr4Poll (h ch rate : Nat) (s : State) : Host.Outcome State Fault Refusal :=
  .next (if 12 ≤ h || 96 ≤ ch then s else { s with mem := { s.mem with refreshRate := Tbl.set s.mem.refreshRate (96 * h + ch) rate 0 } })

/-- DRAM_POWER_DOWN (R217): an idle channel enters power-down, which ends at its next access. -/
def execDramPowerDown (h ch : Nat) (s : State) : Host.Outcome State Fault Refusal :=
  .next (if 12 ≤ h || 96 ≤ ch then s else { s with mem := { s.mem with chDown := setIns s.mem.chDown (96 * h + ch) } })

end Sys2Proof.Machine
end

