-- ==== Sys2Proof/Machine/Power.lean ====
section
/-! DEFINITION. Power states (R33 to R36, R449, R454): gating of cell arrays, retention standby and meringue. -/

namespace Sys2Proof.Machine

/-- A hub's array is quiet when every cell of it is IDLE or LOADED (R33). -/
def State.hubQuiet (s : State) (h : Nat) : Bool := (List.range 128).all (fun i => decide (s.cellState (128 * h + i) ≤ csLoaded))

/-- It is idle when no loaded pipeline binds to it either and no timeline schedule is active: a schedule names no hub, so an active one
is taken to name every hub. -/
def State.hubIdle (s : State) (h : Nat) : Bool :=
  s.hubQuiet h && !s.pipes.tab.any (fun p => (hubsOf p.2.img).contains h) && (s.tln.sched.isNone || s.rf R.TLN_CTRL 0 1 = 0)

/-- CELL_ARRAY_CLOCK_GATE: PLLs stay locked. -/
def execCellArrayClockGate (h : Nat) (s : State) : Host.Outcome State Fault Refusal :=
  .next (if 12 ≤ h || !s.hubQuiet h || !s.hubAwake h then s else { s with hubPow := Tbl.put s.hubPow h .clockGated })

/-- CELL_ARRAY_POWER_GATE: stores in retention, PLLs stopped. -/
def execCellArrayPowerGate (h : Nat) (s : State) : Host.Outcome State Fault Refusal :=
  .next (
    let p := Tbl.get s.hubPow h .run
    if 12 ≤ h || !s.hubIdle h || (p ≠ .run && p ≠ .clockGated) then s
    else State.wf { s with hubPow := Tbl.put s.hubPow h .powerGated } R.CLK_PLL_LOCK h 1 0)

/-- UNIT_WAKE_DONE (R35): the array runs again, its PLL locked. -/
def execUnitWakeDone (h : Nat) (s : State) : Host.Outcome State Fault Refusal :=
  .next (
    if Tbl.get s.hubPow h .run ≠ .waking then s
    else State.wf { s with hubPow := Tbl.del s.hubPow h, clk := { s.clk with stopped := setDel s.clk.stopped h } } R.CLK_PLL_LOCK h 1 1)

/-- Whether retention may be entered (R454): no slice ACTIVE, QUIESCING, ORPHANED or ERROR, but slice 0 with no outstanding tag. -/
def State.mayRetain (s : State) : Bool :=
  s.dev = .run && s.slices.all (fun e => e.2.state = .absent || e.2.state = .quiesced ||
    (decide (e.1 = 0) && !s.ring.jobs.any (fun j => j.slice = 0)))

/-- Whether the bytes at a DPA are pool DRAM. -/
def inPool (a : Nat) : Bool := match place a with | .pool _ _ => true | _ => false

/-- RETENTION_STANDBY_ENTRY (R36): DRAM in self-refresh; on-chip stores lose their contents; ports and links are down. -/
def execRetentionStandbyEntry (s : State) : Host.Outcome State Fault Refusal :=
  .next (
    if s.mgt.powerCmd ≠ 2 || s.dev ≠ .run then s
    else
      let s := (List.range 32).foldl (fun s o => s.octetDrops o) s
      let s := (List.range 12).foldl (fun s h => (s.wf (R.MEM_STATUS h) 0 1 0).wf (R.MEM_STATUS h) 1 1 1) s
      let m := s.mem
      State.sensorsGone { s.wr R.CLK_PLL_LOCK 0 with
        mem := { m with bytes := (m.bytes.filter (fun e => inPool e.1) : Mem), tags := [], rewrite := []
                        bad := m.bad.filter inPool, weak := m.weak.filter inPool }
        pcie := { s.pcie with linkUp := false, link := .l0 }
        clk := { s.clk with linksUp := false }
        mgt := { s.mgt with powerCmd := 0 }, dev := .retention })

/-- RETENTION_STANDBY_EXIT (R454): clocks return, DRAM leaves self-refresh, and the PCIe link trains. -/
def execRetentionStandbyExit (width speed : Nat) (flit : Bool) (s : State) : Host.Outcome State Fault Refusal :=
  .next (
    if s.dev ≠ .retention || (s.mgt.powerCmd ≠ 1 && s.mgt.powerCmd ≠ 5) then s
    else
      let s := ({ s with dev := .run, mgt := { s.mgt with powerCmd := 0 } } : State).startClocks
      s.linkTrain width speed flit)

/-- MERINGUE_ENTRY (R36) on the MC's command; D3cold enters it by PERST# (R427). -/
def execMeringueEntry (s : State) : Host.Outcome State Fault Refusal :=
  .next (
    if s.mgt.powerCmd ≠ 3 || s.dev = .off || s.dev = .meringue then s
    else State.enterMeringue { s with mgt := { s.mgt with powerCmd := 0 } })

/-- MERINGUE_EXIT (R36): WAKE# (0), PERST# deasserted with main power present (1), or the MC's command (2). XTAL_AON starts again, and
the boot ROM runs; straps are not sampled (R469). -/
def execMeringueExit (cause : Nat) (s : State) : Host.Outcome State Fault Refusal :=
  .next (
    let asked := match cause with
      | 0 => true
      | 1 => !s.pcie.perst
      | _ => decide (s.mgt.powerCmd = 1) || decide (s.mgt.powerCmd = 5)
    if s.dev ≠ .meringue || !asked then s
    else State.bootRom { s.wf R.CLK_STATUS 5 1 1 with dev := .boot, mgt := { s.mgt with powerCmd := 0, fastClock := true } })

end Sys2Proof.Machine
end

