-- ==== Sys2Proof/Machine/McOps.lean ====
section
/-! DEFINITION. Messages of the management controller as shared operations (R449 to R455): when it answers, replies, its event queue,
and the arming of activations that the host's register and a vendor command share (R476). Bindings: 0 I3C, 1 SMBus, 2 PCIe VDM. The
layout of a reply is the completion code and then the response fields of the command's standard (log entry 70). -/

namespace Sys2Proof.Machine

/-- MCTP message types (R452). -/
def mtControl : Nat := 0
def mtPldm : Nat := 1
def mtSpdm : Nat := 5
def mtVendor : Nat := 0x7E

/-- Completion codes of the standards. -/
def ccOk : Nat := 0
def ccInvalidData : Nat := 2
def ccNotReady : Nat := 4
def ccUnsupported : Nat := 5

/-- Whether the MC answers on a binding (R449 to R451). -/
def State.mcAnswers (s : State) (b : Nat) : Bool :=
  s.rf R.MGT_STATUS 0 2 = 1 && s.dev ≠ .off && s.mgt.fastClock &&
  (match b with
    | 0 => decide (s.rf R.MGT_STATUS 2 1 = 1)
    | 1 => decide (s.rf R.MGT_STATUS 2 1 = 0)
    | 2 => decide (s.dev = .run) && s.pcie.linkUp && !s.pcie.perst
    | _ => false)

/-- Runs a message that reached the MC on a binding. `ok` says that its packets were good: PEC, endpoint ID, packet sequence (R452);
a bad one is dropped and counted. -/
def State.mc (s : State) (b : Nat) (ok : Bool) (f : State → State) : State :=
  if !s.mcAnswers b then s else if !ok then s.cnt R.MGT_MCTP_DROP else f s

/-- s with a reply sent: message type, command, completion code and fields. -/
def State.reply (s : State) (b kind cmd cc : Nat) (body : List Byte) : State := s.emit (.mctp b kind cmd (BitVec.ofNat 8 cc :: body))

/-- A reply to a PLDM command of a type. -/
def State.pldm (s : State) (b type cmd cc : Nat) (body : List Byte) : State := s.reply b mtPldm (type * 256 + cmd) cc body

/-! ## Events (R455, R500) -/

/-- A queued event as a message carries it: class 0xF0 with code, detail and time; a threshold crossing as the sensor event of its sensor. -/
def McEvent.data (e : McEvent) : List Byte :=
  if 0x100 ≤ e.code then 0 :: leBytes 2 e.detail ++ [2, BitVec.ofNat 8 (e.code - 0x100)]
  else 0xF0 :: leBytes 1 e.code ++ leBytes 4 e.detail ++ leBytes 8 e.time

/-- The next event taken from the queue; lost ones are then told of in one event (code 0x0B). -/
def State.mcPop (s : State) : Option McEvent × State := match s.mgt.events with
  | [] => (none, s)
  | e :: es =>
    let s : State := { s with mgt := { s.mgt with events := es } }
    (some e, if s.mgt.lost = 0 then s else State.mcSignal { s with mgt := { s.mgt with lost := 0 } } 0x0B s.mgt.lost)

/-! ## Activation (R476, R477) -/

/-- CFG_ACT_STATUS.code. -/
def actNone : Nat := 0
def actArmed : Nat := 1
def actDone : Nat := 2
def actNoImage : Nat := 3
def actTooSoon : Nat := 4
def actNotMember : Nat := 5
def actBusy : Nat := 6
def actResetRequired : Nat := 7
def actNotLocked : Nat := 8

/-- Whether starting a bank's image needs a device reset (R476, R477). Where no firmware runs, it does. -/
def State.needsReset (s : State) (bank : Nat) : Bool :=
  let h := s.upd.hdr bank
  hdrReset h || decide (hdrMajor h ≠ s.rf R.FWC_VERSION 8 8) || decide (s.dev ≠ .run)

/-- Why an arm is refused, or ARMED (R476). -/
def State.armCode (s : State) (mode : Nat) (allow : Bool) (group when' : Nat) : Nat :=
  let other := otherBank s.upd.active
  if mode = 3 || !s.upd.applied.contains other then actNoImage
  else if s.upd.armed.isSome then actBusy
  else if group ≠ 0 && !s.upd.conf.groups.contains group then actNotMember
  else if (mode = 1 && when' < s.timeNs + 10 ^ 7) || (mode = 2 && when' < s.epoch + 2) then actTooSoon
  else if mode = 2 && s.rf R.TLN_STATUS 0 2 ≠ 2 then actNotLocked
  else if s.needsReset other && !allow then actResetRequired
  else actArmed

/-- s with an arm tried: source 0 the host, 1 the MC. -/
def State.arm (s : State) (src mode : Nat) (allow : Bool) (group when' : Nat) : State :=
  let c := s.armCode mode allow group when'
  let s := s.wr R.CFG_ACT_STATUS (c + src * 16)
  if c = actArmed then s.setUpd { s.upd with armed := some ⟨mode, when'⟩ } else s

/-- s with the armed activation cancelled, where it is early enough. -/
def State.disarm (s : State) : State := match s.upd.armed with
  | none => s
  | some a =>
    let early := match a.mode with
      | 0 => false
      | 1 => decide (s.timeNs + 10 ^ 6 ≤ a.when')
      | 2 => decide (s.epoch + 1 < a.when')
      | _ => true
    if early then (s.setUpd { s.upd with armed := none }).wf R.CFG_ACT_STATUS 0 4 actNone else s

/-- s with the fields of CFG_ACT, as a 128-bit word, applied: arm, else cancel. -/
def State.actWord (s : State) (src word : Nat) : State :=
  if bit word 0 then s.arm src (fld word 2 2) (bit word 4) (fld word 16 16) (fld word 64 64)
  else if bit word 1 then s.disarm
  else s

/-- s with a bank's image started by a firmware restart: sixteen cores reset at once (R477). Their restarts end by themselves. -/
def State.firmwareRestart (s : State) : State :=
  let s := s.setUpd { s.upd.startActive with restarting := true }
  (List.range 16).foldl (fun s k => (s.wf (R.FWC_CORE_STATUS k) 0 2 2).updSeq (1536 + k) (fun q => { q with stall := none, haltAt := false, pre := [] })) s

/-- s with the active bank started as R477 or R479 says: a device reset with a cause, or a firmware restart. -/
def State.startBank (s : State) (cause straps : Nat) : State :=
  if s.needsReset s.upd.active then s.deviceReset cause straps else s.firmwareRestart

/-- s with the trial image confirmed (R479): the anti-rollback counter advances to its security version. -/
def State.confirm (s : State) : State :=
  let u := s.upd
  if !u.trial then s
  else s.setUpd { u with trial := false, trialBoots := 0, trialMs := 0, rollback := max u.rollback (hdrSvn (u.hdr u.active)), dirSeq := u.dirSeq + 1 }

end Sys2Proof.Machine
end

