-- ==== Sys2Proof/Machine/Mgmt.lean ====
section
/-! DEFINITION. The management controller's commands (R449 to R458): MCTP control, PLDM base and platform, events, vendor commands. -/

namespace Sys2Proof.Machine

/-! ## MCTP control (R452) -/

/-- The endpoint ID of a binding (MGT_EID): the side-band bindings share one. -/
def eidLo (b : Nat) : Nat := if b = 2 then 8 else 0

/-- SET_ENDPOINT_ID: operation 0 sets, 1 forces; IDs 0 and 0xFF name no endpoint, and no ID is static to be reset to (2). Operation 3, the
discovered flag, changes no endpoint ID. -/
def execSetEndpointId (b op eid : Nat) (ok : Bool) (s : State) : Host.Outcome State Fault Refusal :=
  .next (s.mc b ok fun s =>
    if op = 3 then s.reply b mtControl 1 ccOk [0, BitVec.ofNat 8 (s.rf R.MGT_EID (eidLo b) 8), 0]
    else if 1 < op || eid = 0 || 255 ≤ eid then s.reply b mtControl 1 ccInvalidData []
    else (s.wf R.MGT_EID (eidLo b) 8 eid).reply b mtControl 1 ccOk [0, BitVec.ofNat 8 eid, 0])

/-- GET_ENDPOINT_ID. -/
def execGetEndpointId (b : Nat) (ok : Bool) (s : State) : Host.Outcome State Fault Refusal :=
  .next (s.mc b ok fun s => s.reply b mtControl 2 ccOk [BitVec.ofNat 8 (s.rf R.MGT_EID (eidLo b) 8), 0, 0])

/-- GET_ENDPOINT_UUID. -/
def execGetEndpointUuid (b : Nat) (ok : Bool) (s : State) : Host.Outcome State Fault Refusal :=
  .next (s.mc b ok fun s => s.reply b mtControl 3 ccOk (fitBytes (Config.mcItem 0) 16))

/-- The message types the MC supports (R452). -/
def mcTypes : List Nat := [mtControl, mtPldm, mtSpdm, mtVendor]

/-- GET_MCTP_VERSION_SUPPORT of a message type, 0xFF the base specification. -/
def execGetMctpVersionSupport (b type : Nat) (ok : Bool) (s : State) : Host.Outcome State Fault Refusal :=
  .next (s.mc b ok fun s =>
    if type = 0xFF || mcTypes.contains type then s.reply b mtControl 4 ccOk (1 :: fitBytes (Config.mcItem (256 + type)) 4)
    else s.reply b mtControl 4 0x80 [])

/-- GET_MESSAGE_TYPE_SUPPORT. -/
def execGetMessageTypeSupport (b : Nat) (ok : Bool) (s : State) : Host.Outcome State Fault Refusal :=
  .next (s.mc b ok fun s => s.reply b mtControl 5 ccOk ((mcTypes.length :: mcTypes).map (BitVec.ofNat 8)))

/-- DYNAMIC_ADDRESS_ASSIGN (R451): an I3C controller assigns a dynamic address; the lands are I3C's. -/
def execDynamicAddressAssign (addr : Nat) (s : State) : Host.Outcome State Fault Refusal :=
  .next (
    if s.rf R.MGT_STATUS 0 2 ≠ 1 || s.dev = .off || !s.mgt.fastClock then s
    else (s.wf R.MGT_STATUS 2 1 1).wf R.MGT_STATUS 11 7 addr)

/-- RSTDAA (R451): the lands are SMBus's again. -/
def execRstdaa (s : State) : Host.Outcome State Fault Refusal :=
  .next (if s.rf R.MGT_STATUS 2 1 = 0 || s.dev = .off then s else (s.wf R.MGT_STATUS 2 1 0).wf R.MGT_STATUS 11 7 0)

/-- MC_CLOCK_WAKE (R450): an address match in meringue starts the MC's 25 MHz clock. -/
def execMcClockWake (s : State) : Host.Outcome State Fault Refusal :=
  .next (if s.dev = .meringue then { s with mgt := { s.mgt with fastClock := true } } else s)

/-! ## PLDM base (R453) -/

/-- GET_TID. -/
def execGetTid (b : Nat) (ok : Bool) (s : State) : Host.Outcome State Fault Refusal :=
  .next (s.mc b ok fun s => s.pldm b 0 2 ccOk (leBytes 1 s.mgt.tid))

/-- SET_TID: 0 and 0xFF name no terminus. -/
def execSetTid (b tid : Nat) (ok : Bool) (s : State) : Host.Outcome State Fault Refusal :=
  .next (s.mc b ok fun s =>
    if tid = 0 || 255 ≤ tid then s.pldm b 0 1 ccInvalidData []
    else State.pldm { s with mgt := { s.mgt with tid := tid } } b 0 1 ccOk [])

/-- The commands of a PLDM type that the MC supports (R453, R472), by number in the type's standard; PlatformEventMessage is sent. -/
def pldmCommands (type : Nat) : Option (List Nat) := match type with
  | 0 => some [1, 2, 3, 4, 5]
  | 2 => some [0x04, 0x0A, 0x0B, 0x11, 0x21, 0x31, 0x32, 0x39, 0x3A, 0x50, 0x51]
  | 5 => some [0x01, 0x02, 0x10, 0x13, 0x14, 0x15, 0x16, 0x17, 0x18, 0x1A, 0x1B, 0x1C, 0x1D]
  | _ => none

/-- A set of numbers as bits. -/
def bitSet (l : List Nat) : Nat := (l.map (fun n => 2 ^ n)).sum

/-- GET_PLDM_VERSION of a type. -/
def execGetPldmVersion (b type : Nat) (ok : Bool) (s : State) : Host.Outcome State Fault Refusal :=
  .next (s.mc b ok fun s =>
    if (pldmCommands type).isSome then s.pldm b 0 3 ccOk (leBytes 4 0 ++ [5] ++ fitBytes (Config.mcItem (512 + type)) 8) else s.pldm b 0 3 0x83 [])

/-- GET_PLDM_TYPES: types 0, 2 and 5. -/
def execGetPldmTypes (b : Nat) (ok : Bool) (s : State) : Host.Outcome State Fault Refusal :=
  .next (s.mc b ok fun s => s.pldm b 0 4 ccOk (leBytes 8 (bitSet [0, 2, 5])))

/-- GET_PLDM_COMMANDS of a type. -/
def execGetPldmCommands (b type : Nat) (ok : Bool) (s : State) : Host.Outcome State Fault Refusal :=
  .next (s.mc b ok fun s => match pldmCommands type with
    | some l => s.pldm b 0 5 ccOk (leBytes 32 (bitSet l))
    | none => s.pldm b 0 5 0x83 [])

/-! ## The PDR repository and sensors (R449, R453 to R457) -/

/-- Numeric sensors: 0 to 95 the temperatures of R456, then five of each rail of R457: voltage, current, power over 1 ms and over 1 s,
energy. Effecters: 1 the power cap, 2 the power state. Records: one of each sensor and effecter (log entry 71). -/
def sensorCount : Nat := 96 + 45
def effPowerCap : Nat := 1
def effPowerState : Nat := 2
def recordCount : Nat := sensorCount + 2

/-- GET_PDR_REPOSITORY_INFO: the repository changes only with an activation. -/
def execGetPdrRepositoryInfo (b : Nat) (ok : Bool) (s : State) : Host.Outcome State Fault Refusal :=
  .next (s.mc b ok fun s => s.pldm b 2 0x50 ccOk (0 :: leBytes 4 recordCount ++ Config.mcItem 30))

/-- GET_PDR: records are numbered from 1, and 0 asks for the first. -/
def execGetPdr (b record : Nat) (ok : Bool) (s : State) : Host.Outcome State Fault Refusal :=
  .next (s.mc b ok fun s =>
    let r := if record = 0 then 1 else record
    if recordCount < r then s.pldm b 2 0x51 0x82 []
    else s.pldm b 2 0x51 ccOk (leBytes 4 (if r = recordCount then 0 else r + 1) ++ Config.mcItem (1024 + r)))

/-- A sensor's value in its bytes, where it can be read (R449). -/
def State.sensorValue (s : State) (i : Nat) : Option (List Byte) :=
  if i < 96 then (if s.rf (R.MGT_TEMP i) 16 1 = 1 then some (leBytes 2 (s.rf (R.MGT_TEMP i) 0 16)) else none)
  else
    let j := (i - 96) / 5
    let a := R.MGT_RAIL j
    if !s.railSensed j then none
    else some (match (i - 96) % 5 with
      | 0 => leBytes 4 (s.rf a 0 16)
      | 1 => leBytes 4 (s.rf a 32 32)
      | 2 => leBytes 4 (s.rf a 64 32)
      | 3 => leBytes 4 (s.rf a 96 32)
      | _ => leBytes 8 (s.ctrVal (R.MGT_RAIL_ENERGY j)))

/-- GET_SENSOR_READING: operational state 0 enabled, 2 unavailable, with no value. -/
def execGetSensorReading (b sensor : Nat) (ok : Bool) (s : State) : Host.Outcome State Fault Refusal :=
  .next (s.mc b ok fun s =>
    if sensorCount ≤ sensor then s.pldm b 2 0x11 0x80 []
    else match s.sensorValue sensor with
      | some v => s.pldm b 2 0x11 ccOk (BitVec.ofNat 8 v.length :: 0 :: v)
      | none => s.pldm b 2 0x11 ccOk [0, 2])

/-- GET_STATE_SENSOR_READINGS: the repository holds no state sensor (R453), so no identifier is one. -/
def execGetStateSensorReadings (b : Nat) (ok : Bool) (s : State) : Host.Outcome State Fault Refusal :=
  .next (s.mc b ok fun s => s.pldm b 2 0x21 0x80 [])

/-! ## Effecters (R454) -/

/-- SET_NUMERIC_EFFECTER_VALUE: the power cap, 1,000 to 2,700 W. -/
def execSetNumericEffecterValue (b eff v : Nat) (ok : Bool) (s : State) : Host.Outcome State Fault Refusal :=
  .next (s.mc b ok fun s =>
    if eff ≠ effPowerCap then s.pldm b 2 0x31 0x80 []
    else if v < 1000 || 2700 < v then s.pldm b 2 0x31 ccInvalidData []
    else State.pldm { s with mgt := { s.mgt with capW := v } } b 2 0x31 ccOk [])

/-- GET_NUMERIC_EFFECTER_VALUE. -/
def execGetNumericEffecterValue (b eff : Nat) (ok : Bool) (s : State) : Host.Outcome State Fault Refusal :=
  .next (s.mc b ok fun s =>
    if eff ≠ effPowerCap then s.pldm b 2 0x32 0x80 []
    else s.pldm b 2 0x32 ccOk ([2, 0] ++ leBytes 2 s.mgt.capW ++ leBytes 2 s.mgt.capW))

/-- The state that the power state effecter shows. -/
def State.powerState (s : State) : Nat := match s.dev with
  | .run => 1
  | .retention => 2
  | .meringue => 3
  | .boot | .recovery | .railsOff | .off => 4

/-- s with a request of a device power state taken or refused (R454): the power commands carry it out. In meringue after D3cold a wake
asserts WAKE# (R427). -/
def State.stateRequest (s : State) (b eff v : Nat) : State :=
  let done := fun (s : State) => s.pldm b 2 0x39 ccOk []
  let ask := fun (s : State) => done { s with mgt := { s.mgt with powerCmd := v } }
  if eff ≠ effPowerState then s.pldm b 2 0x39 0x80 []
  else match v with
    | 1 | 5 =>
      if s.dev = .meringue then (if s.pcie.perst then (ask s).emit (.pin pinWake false) else ask s)
      else if s.dev = .retention then ask s
      else done s
    | 2 => if s.mayRetain then ask s else s.pldm b 2 0x39 ccNotReady []
    | 3 | 4 => ask s
    | _ => s.pldm b 2 0x39 0x81 []

/-- s with the oldest request of a power state served that waited for one before it (R454). -/
def State.powerNext (s : State) : State :=
  match s.mgt.powerCmd, s.mgt.powerWait with
  | 0, (b, eff, v) :: rest => State.stateRequest { s with mgt := { s.mgt with powerWait := rest } } b eff v
  | _, _ => s

/-- SET_STATE_EFFECTER_STATES: a device power state is requested. One request is served at a time, in arrival order (R454). -/
def execSetStateEffecterStates (b eff v : Nat) (ok : Bool) (s : State) : Host.Outcome State Fault Refusal :=
  .next (s.mc b ok fun s =>
    if s.mgt.powerCmd ≠ 0 then { s with mgt := { s.mgt with powerWait := s.mgt.powerWait ++ [(b, eff, v)] } } else s.stateRequest b eff v)

/-- GET_STATE_EFFECTER_STATES: the pending and the present state. -/
def execGetStateEffecterStates (b eff : Nat) (ok : Bool) (s : State) : Host.Outcome State Fault Refusal :=
  .next (s.mc b ok fun s =>
    if eff ≠ effPowerState then s.pldm b 2 0x3A 0x80 []
    else
      let now := s.powerState
      let next := if s.mgt.powerCmd = 0 then now else s.mgt.powerCmd
      s.pldm b 2 0x3A ccOk [1, 0, BitVec.ofNat 8 next, BitVec.ofNat 8 now])

/-! ## Events (R455) -/

/-- SET_EVENT_RECEIVER: `on` false takes the receiver away. -/
def execSetEventReceiver (b tid eid : Nat) (on ok : Bool) (s : State) : Host.Outcome State Fault Refusal :=
  .next (s.mc b ok fun s =>
    let r := if on then some (tid % 256, eid % 256) else none
    let s : State := { s with mgt := { s.mgt with receiver := r } }
    (s.wf R.MGT_STATUS 3 1 (b2n on)).pldm b 2 0x04 ccOk [])

/-- POLL_FOR_PLATFORM_EVENT_MESSAGE. -/
def execPollForPlatformEventMessage (b : Nat) (ok : Bool) (s : State) : Host.Outcome State Fault Refusal :=
  .next (s.mc b ok fun s => match s.mcPop with
    | (some e, s) => s.pldm b 2 0x0B ccOk (leBytes 1 s.mgt.tid ++ e.data)
    | (none, s) => s.pldm b 2 0x0B ccOk (leBytes 1 s.mgt.tid ++ leBytes 2 0))

/-- PLATFORM_EVENT_MESSAGE: the one sent before has been answered, and the next queued event goes to the receiver. -/
def execPlatformEventMessage (s : State) : Host.Outcome State Fault Refusal :=
  .next (match s.mgt.receiver with
    | none => s
    | some r =>
      if s.rf R.MGT_STATUS 0 2 ≠ 1 || s.dev = .off || !s.mgt.fastClock then s
      else match s.mcPop with
        | (some e, s) => State.emit s (.mcEvent r.2 (leBytes 1 s.mgt.tid ++ e.data))
        | (none, s) => s)

/-! ## Vendor commands (R458) -/

/-- The DPA at which the internal register space begins (R21, R455). -/
def regSpace : Nat := 0x800400000000

/-- Whether the MC can read a register now: those of the always-on domain at any time. -/
def State.mcReads (s : State) (a : Nat) : Bool := s.dev = .run || alwaysOn a

/-- MC_REGISTER_READ: 1 to 16 consecutive 8-byte words from a DPA of the register space; a counter gives the MC's latch copy. A word that is
unavailable is marked by a leading 0 byte. -/
def execMcRegisterRead (b dpa n : Nat) (ok : Bool) (s : State) : Host.Outcome State Fault Refusal :=
  .next (s.mc b ok fun s =>
    if n = 0 || 16 < n || dpa < regSpace || regSpace + 2 ^ 31 < dpa + 8 * n || dpa % 8 ≠ 0 then s.reply b mtVendor 1 ccInvalidData []
    else
      let words := (List.range n).map (fun i =>
        let a := regAddr (dpa - regSpace + 8 * i)
        if s.mcReads a then 1 :: leBytes 8 (s.readWide true a 8) else [0])
      s.reply b mtVendor 1 ccOk words.flatten)

/-- MC_CAPTURE: the counters of the block whose snap register lies at a DPA, into the MC's copy. -/
def execMcCapture (b dpa : Nat) (ok : Bool) (s : State) : Host.Outcome State Fault Refusal :=
  .next (s.mc b ok fun s =>
    let a := regAddr (dpa - regSpace)
    match blockOfSnap a with
    | some (c, u) =>
      if dpa < regSpace then s.reply b mtVendor 2 ccInvalidData []
      else if !s.mcReads a then s.reply b mtVendor 2 ccNotReady []
      else State.reply { s with ctrMc := s.captured s.ctrMc c u } b mtVendor 2 ccOk []
    | none => s.reply b mtVendor 2 ccInvalidData [])

end Sys2Proof.Machine
end

