-- ==== Sys2Proof/Machine/Reclaim.lean ====
section
/-! DEFINITION. Ending descriptors from outside: ABORT (R51 to R53, with what R30, R161, R213, R294 and R391 narrow) and ADOPT_SLICE
(R61). -/

namespace Sys2Proof.Machine

/-- A collective step that runs or waits stops its plan (R213). -/
def State.abortPlan (s : State) (t : Job) : State :=
  let mine := fun (c : CStep) => decide (c.sr = t.sr) && decide (c.tag = t.tag)
  match s.colls.plans.find? (fun p => p.2.steps.any mine) with
  | some (n, _) => s.stopSteps n mine stAborted noUnit 0
  | none => s.commit t stAborted noUnit 0 t.moved

/-- A load under way: what it has staged goes (PIPE_LOAD, COLL_LOAD). -/
def State.abortLoad (s : State) (t : Job) : State :=
  let s := match s.pipes.tab.find? (fun p => p.2.state = .loading && p.2.loader = (t.sr, t.tag)) with
    | some (n, p) =>
      let s := s.removePipe n
      (match p.plan with | some k => { s with colls := { s.colls with plans := Tbl.del s.colls.plans k } } | none => s)
    | none => s
  s.commit t stAborted noUnit 0 t.moved

/-- A transport work request (R294): one that has sent no packet goes; of one that has, the QP enters ERROR, and the ABORTED entry,
and after it those of the other work requests, wait for the close. -/
def State.abortWr (s : State) (t : Job) : State :=
  let mine := fun (m : Msg) => m.op < 0x100 && m.sr = t.sr && m.tag = t.tag
  let held := Tbl.mapV s.tmt.ctrs (fun _ c => { c with held := c.held.filter (fun h => !(h = (t.sr, t.tag))) })
  match s.tmt.qps.find? (fun q => q.2.msgs.any mine) with
  | some (n, q) =>
    if q.msgs.any (fun m => mine m && m.started) then
      let others := (s.wrTags n q).filter (fun x => x ≠ (t.sr, t.tag))
      ((s.unhold n).storPeerLost n).updQp n (fun q =>
        { q with state := .error, msgs := [ctrlClose], recvs := [], unacked := [], rxMsgs := [], rxSet := [], responses := [], waiting := []
                 rxFault := none, closing := some (t.sr, t.tag), flushing := others })
    else (s.updQp n (fun q => { q with msgs := q.msgs.filter (fun m => !mine m) })).commit t stAborted noUnit 0 0
  | none =>
    let s : State := { s with tmt := { s.tmt with ctrs := held, qps := Tbl.mapV s.tmt.qps (fun _ q => { q with recvs := q.recvs.filter (fun r => !(r.sr = t.sr && r.tag = t.tag)) }) } }
    s.commit t stAborted noUnit 0 0

/-- s with an outstanding descriptor aborted: its family's own steps, then ABORTED. -/
def State.abortTarget (s : State) (t : Job) : State :=
  let op := dOpcode t.desc
  if op = 0x11 || op = 0x20 then s.abortLoad t
  else if 0x10 ≤ op && op ≤ 0x17 && t.phase = .running then s.abortPipe t
  else if op = 0x21 && t.phase = .running then s.abortPlan t
  else if 0x30 ≤ op && op ≤ 0x38 then s.abortWr t
  else if op = 0x8B && t.phase = .running then
    ((s.mem.zeroing.filter (fun z => z.2 = (t.sr, t.tag))).foldl (fun s z => s.freeRegion z.1) s).commit t stAborted noUnit 0 0
  else (s.commit t stAborted noUnit 0 t.moved).kceFill 4

/-- Whether everything that doorbells of ring n covered when an abort was fetched has been read (R51): the abort's note has the ring's
generation, and the entries covered by then. -/
def State.abortFetched (s : State) (n : Nat) (r : Sr) (j : Job) : Bool :=
  Tbl.get s.ring.srGen n 0 ≠ j.p 2 || decide (j.p 1 ≤ r.fetched)

/-- Whether every cell that received work of a launch with a stage bound to a feuille has reached its terminal status: the aggregated
status is then settled, and the wave's end will commit it (R29, R30). -/
def State.feuEnded (s : State) (t : Job) : Bool :=
  s.pipes.tab.any (fun p => p.2.img.stages.any (fun st => (feuIndex st.unit).isSome) && (match p.2.wave with
    | some w => w.started && !w.req.armed && w.req.sr = t.sr && w.req.tag = t.tag && w.cells.all (fun c => (s.seq c.1).ended)
    | none => false))

/-- ABORT (R51, R52): once everything the target SR's doorbells covered has been fetched. An abort whose target's entry waits for a
close waits with it; its own entry follows the target's (R53). A restarting core's rings wait (R62, R442). -/
def execAbort (sr tag : Nat) (s : State) : Host.Outcome State Fault Refusal :=
  .next (s.withJob sr tag 0xF0 fun s j =>
    let n := dby j.desc 8 2
    let t := dby j.desc 10 2
    let done := fun (s : State) => (s.commit' j stDone).writtenAfter j.sr j.tag (n, t)
    match Tbl.find s.ring.srs n with
    | none => s.commit' j stInvalidDescriptor
    | some r =>
      if !rsvdZero j.desc [(8, 4)] || (r.slice ≠ j.slice && j.sr ≠ 0 && j.slice ≠ 0) || (n = sr && t = tag) then s.commit' j stInvalidDescriptor
      else if j.p 0 = 1 then (if (s.job n t).isSome then s else done s)
      else if s.coreState (s.ringCore n) = 2 || !s.abortFetched n r j then s
      else match s.job n t with
        | none => s.commit' j stAlreadyDone
        | some target =>
          if s.feuEnded target then s.commit' j stAlreadyDone
          else
            let s := s.abortTarget target
            if (s.job n t).isSome then s.updJob j.sr j.tag (fun k => { k with prog := [1] }) else done s)

/-- The checks of a teardown (R61): the status it fails with, if it does; n entries are to be drained. -/
def State.drainBad (s : State) (d n : Nat) : Option Nat :=
  let base := dby d 16 8
  let loc := dby d 24 1
  let size := dby d 28 4
  let h := dby d 32 4
  if (loc ≠ 0 && loc ≠ 2) || (loc = 0 && h ≠ 0) || base % 32 ≠ 0 then some stInvalidDescriptor
  else if loc = 2 then match s.region h 0 with
    | none => some stInvalidHandle
    | some r => if r.dataBytes < base + 32 * size then some stAddressError else if size < n then some stRingInvalid else none
  else if size < n then some stRingInvalid
  else if !s.dmaOk 0 then some stBusMasterDisabled
  else none

/-- The lines of a drain buffer in a region of which n entries from `base` fill only a part: their writes read them first (R227). -/
def drainEdges (base n : Nat) : List Nat :=
  (if base % 64 = 0 then [] else [base / 64 * 64]) ++ (if (base + 32 * n) % 64 = 0 then [] else [(base + 32 * n) / 64 * 64])

/-- Reads those lines: how the first failure ends, if there is one. A teardown that could not write its buffer fails so before any change
(log entry 130). -/
def State.drainRead (s : State) (r : Region) : List Nat → Res Unit
  | [] => .ok s ()
  | a :: rest => match s.readRegion r a 64 with
    | .ok s _ => s.drainRead r rest
    | .fail s st d => .fail s st d

/-- The outcome of the test of a drain buffer of n entries (R61, R230). -/
def State.drainReady (s : State) (d n : Nat) : Res Unit :=
  if dby d 24 1 = 0 then .ok s ()
  else match s.region (dby d 32 4) 0 with
    | none => .fail s stInvalidHandle 0
    | some r => if r.ecc then s.drainRead r (drainEdges (dby d 16 8) n) else .ok s ()

/-- s with the unwritten completions of a slice in the drain buffer, in commit order, each with phase 1. -/
def State.drainTo (s : State) (j : Job) (sl : Nat) : State :=
  let d := j.desc
  let mine := s.ring.unwritten.filter (fun c => c.ofSlice sl)
  let bs := (mine.map (fun c => cplBytes c (s.srHead c.sr) true)).flatten
  let s := if dby d 24 1 = 0 then s.hostPut (dby d 16 8) bs
    else match s.region (dby d 32 4) 0 with
      | some r => (s.writeRegion r (dby d 16 8) bs (ownerNum j.sr j.tag)).1
      | none => s
  State.cnt { s with ring := { s.ring with unwritten := s.ring.unwritten.filter (fun c => !c.ofSlice sl) } } R.RNG_COMPLETED mine.length

/-- The tags of a slice's rings that a teardown ends: those that doorbells cover and that have not been read, those outstanding, and those
that have committed and have no entry yet. -/
def State.tornTags (s : State) (sl : Nat) : Nat × List Job × Nat :=
  (((s.ring.srs.filter (fun r => r.2.slice = sl)).map (fun r => r.2.covered)).sum,
   s.ring.jobs.filter (fun k => k.slice = sl && k.sr ≠ 0), (s.ring.unwritten.filter (fun c => c.ofSlice sl)).length)

/-- ADOPT_SLICE (R61, R410). The spec gives no status for a slice that is not ORPHANED, is slice 0 or is being torn down already: DESIGN
CHOICE (log entry 131), SLICE_STATE. A teardown first waits until what the doorbells of the slice covered has been read, as only then
are the tags known that it ends. -/
def execAdoptSlice (sr tag : Nat) (s : State) : Host.Outcome State Fault Refusal :=
  .next (s.withJob sr tag 0x84 fun s j =>
    let d := j.desc
    let a := dby d 8 1
    let sl := j.slice
    if !rsvdZero d [(8, 1), (16, 9), (28, 8)] || 1 < a || (a = 0 && !rsvdZero d [(8, 1)]) then s.commit' j stInvalidDescriptor
    else if sl = 0 || (s.slice sl).state ≠ .orphaned || (s.slice sl).tearing then s.commit' j stSliceState
    else if a = 0 then ((s.setSlice sl (s.slice sl).prev).writeHeld (fun c => c.ofSlice sl)).commit' j stSuccess
    else
      let (covered, jobs, held) := s.tornTags sl
      let n := covered + jobs.length + held
      match s.drainBad d n with
      | some st => s.commit' j st
      | none => match s.drainReady d n with
        | .fail s st dt => s.failJob j st dt
        | .ok s _ =>
          if covered ≠ 0 then s.updJob j.sr j.tag (fun k => { k with prog := [1] })
          else
            let s := jobs.foldl (fun s k => match s.job k.sr k.tag with
              | none => s
              | some k =>
                let s := s.abortTarget k
                match s.job k.sr k.tag with
                | some k => s.commit k stAborted noUnit 0 k.moved
                | none => s) s
            let n := (s.ring.unwritten.filter (fun c => c.ofSlice sl)).length
            let s := (s.drainTo j sl).dropRings sl
            State.succeed { s with slices := Tbl.upd s.slices sl (fun r => { r with tearing := true }) } j n)

end Sys2Proof.Machine
end

