-- ==== Sys2Proof/Machine/RegWrite.lean ====
section
/-! DEFINITION. Software's register writes (R5 to R8): the write by access codes, and what a write of a few registers moves besides. -/

namespace Sys2Proof.Machine

/-- s with the region reference of a window moved from its old entry to its new one (R220, R422). -/
def State.moveRef (s : State) (old new : Option Nat) : State :=
  if old = new then s
  else
    let s := match old with | some h => s.addRef h false | none => s
    match new with | some h => s.addRef h true | none => s

/-- The region a PCIe window entry names, if it is valid and of target 0 (R422). -/
def winRegion (e : Nat) : Option Nat := if bit e 0 && fld e 3 2 = 0 then some (fld e 32 32) else none

/-- What a write to a register changes beside its own bits, from the state before and the state after: windows move their regions'
references, an inbound Denux window's old region keeps its reference until accesses under it are over (R335); a base of the admin ring
with Rsvd bits is noted (R56); a cleared `reverted` leaves the directory too (R465); a stream start begins its pattern (R80); a snap bit
fills the host's latch copy (R8). -/
def State.afterWrite (s : State) (r : RegSpec) (own u i a n v : Nat) (before : Nat) : State :=
  let now := s.rd own
  let b := r.base
  let s := match blockOfSnap own with
    | some (c, k) => if a = own && bit v (snapBit own) then { s with ctrHost := s.captured s.ctrHost c k } else s
    | none => s
  if b = R.PCI_WINDOW 0 then s.moveRef (winRegion before) (winRegion now)
  else if b = R.DNX_IN_WINDOW 0 then
    let w := u * r.n2 + i
    if before = now then s
    else
      let s := if bit now 0 then s.addRef (fld now 128 32) true else s
      if bit before 0 then { s with ports := { s.ports with windowBusy := s.ports.windowBusy ++ [(w, fld before 128 32)] } } else s
  else if b = R.CTL_ADMIN_SR_BASE || b = R.CTL_ADMIN_CR_BASE || b = R.CTL_ADMIN_EQ_BASE then
    if a = own then { s with badBases := if v % 4096 = 0 then setDel s.badBases own else setIns s.badBases own } else s
  else if b = R.CFG_STATUS then { s with upd := { s.upd with reverted := bit now 6 } }
  else if b = R.LAT_CELL_STRM 0 0 && a = own && bit v 0 && n ≠ 0 then s.strmStart u (i % 2) 1
  else s

/-- A software write to one register or counter: n bytes at a, all within it. The bases of the admin ring take none while it is
enabled (R56); a counter of class S clears (R7). -/
def State.softWriteOne (s : State) (a n v : Nat) : State :=
  match findCtr a with
  | some (_, u, c, i) => (match c.cls with | .s => s.ctrClear (c.base + u * c.s1 + i * c.s2) | _ => s)
  | none => match findReg a with
    | none => s
    | some (r, own, u, i) =>
      if (own = R.CTL_ADMIN_SR_BASE || own = R.CTL_ADMIN_CR_BASE || own = R.CTL_ADMIN_EQ_BASE) && s.rf R.CTL_ADMIN_CTRL 0 1 = 1 then s
      else (s.regWrite a n v).afterWrite r own u i a n v (s.rd own)

/-- A software write over as many registers and counters as its bytes reach, at most k of them. -/
def State.softWriteOver : Nat → State → Nat → Nat → Nat → State
  | 0, s, _, _, _ => s
  | k + 1, s, a, n, v =>
    if n = 0 then s
    else
      let m := readSpan a n
      (s.softWriteOne a m (v % 2 ^ (8 * m))).softWriteOver k (a + m) (n - m) (v >>> (8 * m))

/-- A software write of n bytes (4 or 8, aligned) at address a of the register space: each register and counter it covers takes its part. A
check-value unit takes a write as its own commands do (R402). -/
def State.softWrite (s : State) (a n v : Nat) : State :=
  if R.CRC_CFG 0 ≤ a && a < R.CRC_CFG 4 then s.crcWrite ((a - R.CRC_CFG 0) / 0x100) ((a - R.CRC_CFG 0) % 0x100) n v
  else State.softWriteOver 4 s a n v

/-- REGISTER_WRITE (R5, R6, R421): n bytes of v at address a of the register space; fields with a command of their own are left to
it. -/
def execRegisterWrite (a n v : Nat) (s : State) : Host.Outcome State Fault Refusal :=
  .next (if (n = 4 || n = 8) && a % n = 0 then s.softWrite a n v else s)

/-- COUNTER_SNAP (R8): a 1 written to the snap bit of the register at a fills the host's latch copy of its block. -/
def execCounterSnap (a : Nat) (s : State) : Host.Outcome State Fault Refusal :=
  .next (match blockOfSnap a with
    | some (b, u) => { s with ctrHost := s.captured s.ctrHost b u }
    | none => s)

/-- S_COUNTER_CLEAR (R7): a write to the counter at a. -/
def execSCounterClear (a : Nat) (s : State) : Host.Outcome State Fault Refusal :=
  .next (match findCtr a with
    | some (_, u, c, i) => (match c.cls with | .s => s.ctrClear (c.base + u * c.s1 + i * c.s2) | _ => s)
    | none => s)

end Sys2Proof.Machine
end

