-- ==== Sys2Proof/Machine/Spdm.lean ====
section
/-! DEFINITION. Attestation (R459 to R461): the SPDM 1.3 responder. Requests are given as their bytes; a response is its four header
bytes, version 0x13, code and two parameters, and its fields (log entry 70). -/

namespace Sys2Proof.Machine

def Spdm.none : Spdm := { phase := 0, vca := [], certs := [], meas := [], signedHash := Option.none }

/-- The connection of a binding and an endpoint. -/
def spdmKey (b eid : Nat) : Nat := b * 256 + eid % 256
def State.spdm (s : State) (b eid : Nat) : Spdm := Tbl.get s.mgt.spdm (spdmKey b eid) Spdm.none
def State.setSpdm (s : State) (b eid : Nat) (c : Spdm) : State := { s with mgt := { s.mgt with spdm := Tbl.put s.mgt.spdm (spdmKey b eid) c } }

/-- A response's bytes. -/
def spdmBytes (code p1 p2 : Nat) (body : List Byte) : List Byte := 0x13 :: BitVec.ofNat 8 code :: BitVec.ofNat 8 p1 :: BitVec.ofNat 8 p2 :: body

/-- s with a response sent. -/
def State.spdmSend (s : State) (b : Nat) (rsp : List Byte) : State := s.emit (.mctp b mtSpdm (leAt rsp 1 1) rsp)

/-- ERROR with a code: 1 InvalidRequest, 4 UnexpectedRequest, 7 UnsupportedRequest. -/
def State.spdmError (s : State) (b code data : Nat) : State := s.spdmSend b (spdmBytes 0x7F code data [])

/-- Runs a request of a connection that has come to a phase; the held transcript hash is given up (R460). -/
def State.spdmRun (s : State) (b eid phase : Nat) (ok : Bool) (f : State → Spdm → State) : State :=
  s.mc b ok fun s =>
    let c := { s.spdm b eid with signedHash := Option.none }
    let s := s.setSpdm b eid c
    if c.phase < phase then s.spdmError b 4 0 else f s c

/-- GET_VERSION: the connection begins again. -/
def execGetVersion (b eid : Nat) (ok : Bool) (req : List Byte) (s : State) : Host.Outcome State Fault Refusal :=
  .next (s.spdmRun b eid 0 ok fun s _ =>
    let rsp := 0x10 :: (spdmBytes 0x04 0 0 ([0, 1] ++ leBytes 2 0x1300)).drop 1
    (s.setSpdm b eid { Spdm.none with phase := 1, vca := req ++ rsp }).spdmSend b rsp)

/-- GET_CAPABILITIES: certificates, challenge and signed measurements. -/
def execGetCapabilities (b eid : Nat) (ok : Bool) (req : List Byte) (s : State) : Host.Outcome State Fault Refusal :=
  .next (s.spdmRun b eid 1 ok fun s c =>
    if c.phase ≠ 1 then s.spdmError b 4 0
    else
      let rsp := spdmBytes 0x61 0 0 (fitBytes (Config.mcItem 40) 16)
      (s.setSpdm b eid { c with phase := 2, vca := c.vca ++ req ++ rsp }).spdmSend b rsp)

/-- NEGOTIATE_ALGORITHMS: EdDSA Ed25519 and SHA-384, which the request must offer. -/
def execNegotiateAlgorithms (b eid : Nat) (ok : Bool) (req : List Byte) (s : State) : Host.Outcome State Fault Refusal :=
  .next (s.spdmRun b eid 2 ok fun s c =>
    if c.phase ≠ 2 then s.spdmError b 4 0
    else if !bit (leAt req 8 4) 9 || !bit (leAt req 12 4) 1 then s.spdmError b 1 0
    else
      let rsp := spdmBytes 0x63 0 0 (leBytes 2 36 ++ [1, 0] ++ leBytes 4 2 ++ leBytes 4 (2 ^ 9) ++ leBytes 4 2 ++ zeroBytes 16)
      (s.setSpdm b eid { c with phase := 3, vca := c.vca ++ req ++ rsp }).spdmSend b rsp)

/-- A secret of R396 by number. -/
def State.secret (s : State) (n : Nat) : List Byte := Tbl.get s.kce.secrets n []

/-- A certificate chain: DeviceID, Alias-1, Alias-2, under an algorithm (0x20 Ed25519, 0x21 ML-DSA-65). -/
def State.chain (s : State) (alg : Nat) : List Byte :=
  let at' := if alg = 0x20 then 0 else 1
  ((List.range 3).map (fun l => Config.certificate l alg (Config.publicKey alg (s.secret (2 + 2 * l + at'))))).flatten

/-- s with a response outside signatures sent and held in the transcript of digests and certificates; a run of measurements is broken. -/
def State.certSend (s : State) (b eid : Nat) (c : Spdm) (req rsp : List Byte) : State :=
  (s.setSpdm b eid { c with certs := c.certs ++ req ++ rsp, meas := [] }).spdmSend b rsp

/-- GET_DIGESTS: slot 0. -/
def execGetDigests (b eid : Nat) (ok : Bool) (req : List Byte) (s : State) : Host.Outcome State Fault Refusal :=
  .next (s.spdmRun b eid 3 ok fun s c => s.certSend b eid c req (spdmBytes 0x01 1 1 (sha384 (s.chain 0x20))))

/-- A part of a chain as CERTIFICATE returns it: offset and length of the request, portion, what remains. -/
def chainPart (chain : List Byte) (off len : Nat) : List Byte :=
  let p := bsub chain off len
  leBytes 2 p.length ++ leBytes 2 (chain.length - off - p.length) ++ p

/-- GET_CERTIFICATE: the slot 0 chain, from an offset. -/
def execGetCertificate (b eid : Nat) (ok : Bool) (req : List Byte) (s : State) : Host.Outcome State Fault Refusal :=
  .next (s.spdmRun b eid 3 ok fun s c =>
    let chain := s.chain 0x20
    if leAt req 2 1 ≠ 0 || chain.length ≤ leAt req 4 2 then s.spdmError b 1 0
    else s.certSend b eid c req (spdmBytes 0x02 0 0 (chainPart chain (leAt req 4 2) (leAt req 6 2))))

/-- A signature by the Alias-2 Ed25519 key over a transcript hash (R459), under the standard's signing context. -/
def State.spdmSign (s : State) (hash : List Byte) : List Byte := Config.sign 0x20 (s.secret 6) (Config.mcItem 41 ++ hash) 0

/-- The measurement of an index (R461). -/
def State.measurement (s : State) (i : Nat) : List Byte := match i with
  | 1 => leBytes 48 (s.rd (R.KCE_MEAS 0))
  | 2 => leBytes 48 (s.rd (R.KCE_MEAS 1))
  | 3 => fitBytes (Config.mcItem 42) 48
  | _ => leBytes 4 (hdrSvn (s.upd.hdr s.upd.active)) ++ leBytes 4 s.upd.rollback

/-- Its measurement block: index, DMTF specification, value type (0x80 a raw bit stream), size, value. -/
def State.measBlock (s : State) (i : Nat) : List Byte :=
  let v := s.measurement i
  [BitVec.ofNat 8 i, 1] ++ leBytes 2 (v.length + 3) ++ [if i = 4 then 0x87 else BitVec.ofNat 8 (i - 1)] ++ leBytes 2 v.length ++ v

/-- CHALLENGE: signed over the whole transcript. -/
def execChallenge (b eid : Nat) (ok : Bool) (req : List Byte) (s : State) : Host.Outcome State Fault Refusal :=
  .next (s.spdmRun b eid 3 ok fun s c =>
    if leAt req 2 1 ≠ 0 then s.spdmError b 1 0
    else
      let n := s.random 256
      let s := n.2
      let summary := if leAt req 3 1 = 0 then [] else sha384 (((List.range 4).map (fun i => s.measBlock (i + 1))).flatten)
      let head := spdmBytes 0x03 0 1 (sha384 (s.chain 0x20) ++ leBytes 32 n.1 ++ summary ++ leBytes 2 0)
      let hash := sha384 (c.vca ++ c.certs ++ req ++ head)
      (s.setSpdm b eid { c with certs := [], meas := [], signedHash := some hash }).spdmSend b (head ++ s.spdmSign hash))

/-- GET_MEASUREMENTS: how many there are (0), one of them, or all (0xFF); signed where asked. -/
def execGetMeasurements (b eid : Nat) (ok : Bool) (req : List Byte) (s : State) : Host.Outcome State Fault Refusal :=
  .next (s.spdmRun b eid 3 ok fun s c =>
    let op := leAt req 3 1
    let sign := bit (leAt req 2 1) 0
    if 4 < op && op ≠ 0xFF then s.spdmError b 1 0
    else
      let n := s.random 256
      let s := n.2
      let which := if op = 0 then [] else if op = 0xFF then [1, 2, 3, 4] else [op]
      let blocks := (which.map s.measBlock).flatten
      let head := spdmBytes 0x60 (if op = 0 then 4 else 0) 0 (leBytes 1 which.length ++ leBytes 3 blocks.length ++ blocks ++ leBytes 32 n.1 ++ leBytes 2 0)
      let hash := sha384 (c.vca ++ c.meas ++ req ++ head)
      if sign then (s.setSpdm b eid { c with meas := [], signedHash := some hash }).spdmSend b (head ++ s.spdmSign hash)
      else (s.setSpdm b eid { c with meas := c.meas ++ req ++ head }).spdmSend b head)

/-- A vendor-defined response: registry PCI-SIG (3), vendor 0x2C4F. -/
def vendorRsp (payload : List Byte) : List Byte := spdmBytes 0x7E 0 0 (leBytes 2 3 ++ [2] ++ leBytes 2 0x2C4F ++ leBytes 2 payload.length ++ payload)

/-- SPDM_PQ_SIGNATURE (R460): the ML-DSA-65 signature over the held transcript hash; none held is an unexpected request. -/
def execSpdmPqSignature (b eid : Nat) (ok : Bool) (s : State) : Host.Outcome State Fault Refusal :=
  .next (s.mc b ok fun s => match (s.spdm b eid).signedHash with
    | Option.none => s.spdmError b 4 0
    | some h =>
      let n := s.random 256
      n.2.spdmSend b (vendorRsp (Config.sign 0x21 (n.2.secret 7) (withContext "FJT9-SPDM" h) n.1)))

/-- SPDM_PQ_CHAIN (R460). -/
def execSpdmPqChain (b eid : Nat) (ok : Bool) (s : State) : Host.Outcome State Fault Refusal :=
  .next (s.spdmRun b eid 3 ok fun s _ => s.spdmSend b (vendorRsp (s.chain 0x21)))

/-- UNSUPPORTED_SPDM_REQUEST (R459): a request of any other code. -/
def execUnsupportedSpdmRequest (b eid code : Nat) (ok : Bool) (s : State) : Host.Outcome State Fault Refusal :=
  .next (s.spdmRun b eid 0 ok fun s _ => (s.cnt R.MGT_SPDM_ERR).spdmError b 7 code)

end Sys2Proof.Machine
end

