-- ==== Sys2Proof/Machine/SysInstr.lean ====
section
/-! DEFINITION. The privileged instructions of control cores (R517), interrupts (R437), deferred traps and undefined encodings (R140,
R141). -/

namespace Sys2Proof.Machine

/-- WFI: the core stops issuing behind the instruction until its interrupt comes. -/
def opWfi (s : State) (k : Nat) (_ : Seq) (e : Enc) : Did :=
  .ended ((s.retire k e.len 1 0).updSeq k (fun q => { q with stall := some .wfi }))

/-- IRET: one issue cycle (R121). -/
def opIret (s : State) (k : Nat) (q : Seq) (_ : Enc) : Did :=
  .goto (s.updSeq k (fun q => { q with cs := setBit q.cs 13 (bit q.iepc 63) })) (fld q.iepc 0 21) 1

/-- The address of LDD or STD, or how the access ends before it is made. -/
def ddAddr (s : State) (q : Seq) (e : Enc) (perm : Nat) (t3 : Nat) : Except Did Nat :=
  match e.memTags q (· = tgUint) with
  | some pos => .error (.trap s cTag (e.tagTval q t3 pos))
  | none =>
    let a := e.storeAddr q
    if perm = 2 && !isInt t3 then .error (.trap s cTag (e.tagTval q t3 3))
    else if a % 8 ≠ 0 then .error (.trap s cAlign a)
    else if !q.mpuOk 1 a 8 perm || (match place a with | .none => true | _ => false) then .error (.mc s mcProtection a)
    else .ok a

/-- LDD: 8 bytes of memory or of the register space; a check-value unit's result waits for its FIFO (R402). -/
def opLdd (s : State) (k : Nat) (q : Seq) (e : Enc) : Did :=
  match ddAddr s q e 1 0 with
  | .error d => d
  | .ok a => match place a with
    | .regs off =>
      let r := regAddr off
      let s := if R.CRC_CFG 0 ≤ r && r < R.CRC_CFG 0 + 0x1000 then s.crcDrain ((r - R.CRC_CFG 0) / 0x100) else s
      .done (s.putRd k e.rd ⟨tgUint, s.readWide false r 8⟩) 1 0
    | _ => match s.readDpa a 8 with
      | .ok s bs => .done (s.putRd k e.rd ⟨tgUint, leNat bs⟩) 1 0
      | .fail s _ _ => .mc s mcMemUe a

/-- STD. -/
def opStd (s : State) (_ : Nat) (q : Seq) (e : Enc) : Did :=
  let w := q.reg e.rd
  match ddAddr s q e 2 w.tag with
  | .error d => d
  | .ok a => match place a with
    | .regs off => .done (s.softWrite (regAddr off) 8 w.val) 1 0
    | _ => match s.writeDpa a (leBytes 8 w.val) with
      | (s, _, none) => .done s 1 0
      | (s, _, some _) => .mc s mcMemUe a

/-- WFI (R517). -/
def execWfi (k upset : Nat) (s : State) : Host.Outcome State Fault Refusal := .next (s.issue k upset (· = 0xF300) opWfi)
/-- IRET (R517). -/
def execIret (k upset : Nat) (s : State) : Host.Outcome State Fault Refusal := .next (s.issue k upset (· = 0xF301) opIret)
/-- LDD (R517). -/
def execLdd (k upset : Nat) (s : State) : Host.Outcome State Fault Refusal := .next (s.issue k upset (· = 0xF302) opLdd)
/-- STD (R517). -/
def execStd (k upset : Nat) (s : State) : Host.Outcome State Fault Refusal := .next (s.issue k upset (· = 0xF303) opStd)

/-- DEFERRED_TRAP (R141, R142): the oldest trap of a unit or stream of sequencer k is taken, epc at the next instruction to issue. -/
def execDeferredTrap (k : Nat) (s : State) : Host.Outcome State Fault Refusal :=
  .next (
    let q := s.seq k
    let runs := if isCore k then decide (k < 1552) && s.coreRuns (k - 1536) else s.hubAwake (k / 128) && decide (s.cellState k = csRunning)
    match q.deferred with
    | (cause, tval, len) :: rest =>
      if !runs || q.ended || q.stall.isSome then s
      else (s.updSeq k (fun q => { q with deferred := rest })).takeTrap k cause tval len
    | [] => s)

/-- INTERRUPT_ENTRY (R437, R517): control core c takes the oldest pending cause that imask enables. Behind WFI iepc is at the next
instruction. An exception frame passes from the queue to CC1 (R435). -/
def execInterruptEntry (c : Nat) (s : State) : Host.Outcome State Fault Refusal :=
  .next (
    let k := 1536 + c
    let q := s.seq k
    if 16 ≤ c || !s.coreRuns c || (match q.stall with | some .wfi => false | some _ => true | none => false) then s
    else match takeFirst (fun p => decide (0x10 ≤ p.1) && bit q.imask (p.1 - 0x10)) q.pend with
      | none => s
      | some ((cause, val), rest) =>
        let s := (s.updSeq k (fun q => { q with pend := rest })).coreEnter k cause val
        if c = 1 && cause = 0x12 then State.cnt { s with pkt := { s.pkt with toFw := s.pkt.toFw.drop 1 } } R.FWC_EXC_FRAMES else s)

/-- UNDEFINED_ENCODING (R130, R140, R235): what sequencer k finds at its pc is no instruction: ILLEGAL, or where a word of it cannot be
read, a machine-check, and on a control core a crash. -/
def execUndefinedEncoding (k : Nat) (s : State) : Host.Outcome State Fault Refusal :=
  .next (
    if !s.canIssue k false then s
    else match s.fetchAt k (s.seq k) with
      | .undef bs => if isCore k && !(s.seq k).mpuOk 0 (s.seq k).pc (max 1 bs.length) 3 then s.coreFault k 0x14 (s.seq k).pc else s.undefTrap k bs
      | .bad a => if isCore k then s.coreCrash (k - 1536) 0xFE else s.machineCheck k mcStoreUe a
      | .instr _ _ => s)

end Sys2Proof.Machine
end

