-- ==== Sys2Proof/Machine/Update.lean ====
section
/-! DEFINITION. Firmware update (R472 to R479): the PLDM type 5 commands, activation, trial and confirmation. -/

namespace Sys2Proof.Machine

/-! ## Completion codes and results of DSP0267 (log entry 70) -/

def ccNotInUpdate : Nat := 0x80
def ccAlreadyInUpdate : Nat := 0x81
def ccInvalidState : Nat := 0x84
def ccIncomplete : Nat := 0x85
def ccNotSelfContained : Nat := 0x8C

/-- A reply to a firmware-update command, and a request of the MC to the update agent. -/
def State.fwu (s : State) (b cmd cc : Nat) (body : List Byte) : State := s.pldm b 5 cmd cc body
def State.fwuAsk (s : State) (b cmd : Nat) (body : List Byte) : State := s.emit (.mctp b mtPldm (5 * 256 + cmd) body)

/-- The bank that updates go to (R472). -/
def Upd.target (u : Upd) : Nat := otherBank u.active

/-- Runs a command of an update session that the binding holds. -/
def State.inUpdate (s : State) (b cmd : Nat) (f : State → UpdSession → State) : State := match s.upd.session with
  | none => s.fwu b cmd ccNotInUpdate []
  | some x => if x.binding ≠ b then s.fwu b cmd ccNotInUpdate [] else f s x

/-- s with the session changed. -/
def State.setSession (s : State) (x : UpdSession) : State := s.setUpd { s.upd with session := some x }

/-- QUERY_DEVICE_IDENTIFIERS. -/
def execQueryDeviceIdentifiers (b : Nat) (ok : Bool) (s : State) : Host.Outcome State Fault Refusal :=
  .next (s.mc b ok fun s => s.fwu b 0x01 ccOk (Config.mcItem 20))

/-- The image version of a header. -/
def hdrVersion (h : List Byte) : List Byte := bsub h 8 4

/-- GET_FIRMWARE_PARAMETERS (R472): the active bank's image is active, the other's pending. -/
def execGetFirmwareParameters (b : Nat) (ok : Bool) (s : State) : Host.Outcome State Fault Refusal :=
  .next (s.mc b ok fun s =>
    let u := s.upd
    s.fwu b 0x02 ccOk (leBytes 2 2 ++ hdrVersion (u.hdr u.active) ++ (if u.applied.contains u.target then hdrVersion (u.hdr u.target) else []) ++ Config.mcItem 21))

/-- REQUEST_UPDATE (R472): one update at a time, none while an activation is armed. `chunk` is the chunk size the MC takes, 2^12 to 2^16. -/
def execRequestUpdate (b maxXfer chunk : Nat) (ok : Bool) (s : State) : Host.Outcome State Fault Refusal :=
  .next (s.mc b ok fun s =>
    if s.upd.session.isSome || s.upd.armed.isSome then s.fwu b 0x10 ccAlreadyInUpdate []
    else if maxXfer = 0 || chunk < 12 || 16 < chunk then s.fwu b 0x10 ccInvalidData []
    else
      let x : UpdSession := { binding := b, stage := 0, maxXfer := maxXfer, chunk := chunk, comp := 0, size := 0, request := none }
      (s.setUpd { s.upd with session := some x, table := [], recv := [] }).fwu b 0x10 ccOk (leBytes 2 0 ++ [0]))

/-- PASS_COMPONENT_TABLE: components 0x0001 and 0x0002 are known. -/
def execPassComponentTable (b : Nat) (ok : Bool) (comps : List Nat) (s : State) : Host.Outcome State Fault Refusal :=
  .next (s.mc b ok fun s => s.inUpdate b 0x13 fun s _ =>
    let known := comps.filter (fun c => c = 1 || c = 2)
    let bad := b2n (decide (known.length < comps.length))
    (s.setUpd { s.upd with table := known.foldl setIns s.upd.table }).fwu b 0x13 ccOk [BitVec.ofNat 8 bad, BitVec.ofNat 8 (6 * bad)])

/-- The target bank with the active bank's firmware image copied in (R472). -/
def Upd.copyFirmware (u : Upd) : Upd := u.write (bankBase u.target) (u.hdr u.active ++ u.body u.active)

/-- UPDATE_COMPONENT (R473): the transfer of a component begins with the header, or with the configuration image. An update of the
configuration alone first copies the active firmware image. -/
def execUpdateComponent (b comp size : Nat) (ok : Bool) (s : State) : Host.Outcome State Fault Refusal :=
  .next (s.mc b ok fun s => s.inUpdate b 0x14 fun s x =>
    let u := s.upd
    if x.stage ≠ 0 then s.fwu b 0x14 ccInvalidState []
    else if !u.table.contains comp then s.fwu b 0x14 ccOk [1, 6]
    else
      let t := u.target
      let u : Upd := if comp = 2 && u.table = [2] then
          { u.copyFirmware with applied := setDel u.applied t, confNew := setDel u.confNew t, header := [], persisted := [], bitmap := [] }
        else u
      let u : Upd := { u with recv := [], session := some { x with stage := if comp = 1 then 1 else 2, comp := comp, size := size, request := none } }
      (s.setUpd u).fwu b 0x14 ccOk [0, 0])

/-- The end of the run of missing units that begins at unit u0, within its chunk (R474). -/
def runEnd (have' : List Nat) (units chunkUnits : Nat) : Nat → Nat → Nat
  | 0, u => u
  | fuel + 1, u => if units ≤ u || have'.contains u || u % chunkUnits = 0 then u else runEnd have' units chunkUnits fuel (u + 1)

/-- The first missing unit of the body, and the body offsets at which its run begins and ends. -/
def Upd.nextRun (u : Upd) (chunk : Nat) : Option (Nat × Nat) :=
  let len := hdrLen u.header
  let units := unitsOf len
  match (List.range units).find? (fun i => !u.bitmap.contains i) with
  | none => none
  | some i => some (i * 4096, min len (runEnd u.bitmap units (2 ^ (chunk - 12)) 16 (i + 1) * 4096))

/-- The offset and length in the component that the MC asks for next. -/
def Upd.nextRequest (u : Upd) (x : UpdSession) : Option (Nat × Nat) :=
  let part := fun (total : Nat) => if u.recv.length < total then some (u.recv.length, min x.maxXfer (total - u.recv.length)) else none
  match x.stage, x.comp with
  | 1, _ => part hdrBytes
  | 2, 1 => (u.nextRun x.chunk).map (fun r => (hdrBytes + r.1 + u.recv.length, min x.maxXfer (r.2 - r.1 - u.recv.length)))
  | 2, 2 => part confBytes
  | _, _ => none

/-- REQUEST_FIRMWARE_DATA (R473, R474): the header first, then missing units in ascending order. -/
def execRequestFirmwareData (s : State) : Host.Outcome State Fault Refusal :=
  .next (match s.upd.session with
    | none => s
    | some x =>
      if x.request.isSome || !s.mcAnswers x.binding then s
      else match s.upd.nextRequest x with
        | none => s
        | some r => (s.setSession { x with request := some r }).fwuAsk x.binding 0x15 (leBytes 4 r.1 ++ leBytes 4 r.2))

/-- TransferComplete with a result, 0 success; a failed component is over. -/
def State.transferEnds (s : State) (x : UpdSession) (good : Bool) : State :=
  let x := { x with request := none, stage := if good then 3 else 0, comp := if good then x.comp else 0 }
  (s.setUpd { s.upd with session := some x, recv := [], persisted := s.upd.bitmap }).fwuAsk x.binding 0x16 [if good then 0 else 1]

/-- A whole header is there (R473, R474): a bad one ends the component; a good one resumes the held body where its SHA-384 is that of the
held header, and else begins again in the target bank. -/
def State.headerDone (s : State) (x : UpdSession) (h : List Byte) : State :=
  let u := s.upd
  if !u.hdrOk h then s.transferEnds x false
  else
    let t := u.target
    let same := !u.header.isEmpty && sha384 h == sha384 u.header
    let v := u.write (bankBase t) h
    let v : Upd := { v with applied := setDel u.applied t, confNew := setDel u.confNew t, toConvert := setDel u.toConvert t, header := h, recv := []
                            bitmap := if same then u.bitmap else [], persisted := if same then u.persisted else []
                            session := some { x with stage := 2, request := none } }
    let s := s.setUpd v
    if (v.nextRun x.chunk).isNone then s.transferEnds x true else s

/-- A whole run of the body is there: written to the bank, read back, marked; the persisted copy follows at each further MiB (R474). -/
def State.runDone (s : State) (x : UpdSession) (r : Nat × Nat) (bs : List Byte) : State :=
  let u := s.upd
  let v := u.write (bankBase u.target + hdrBytes + r.1) bs
  let marks := ((List.range (unitsOf (r.2 - r.1))).map (fun i => r.1 / 4096 + i)).foldl setIns u.bitmap
  let v : Upd := { v with bitmap := marks, recv := [], session := some { x with request := none }
                          persisted := if u.bitmap.length / 256 < marks.length / 256 then marks else u.persisted }
  let s := s.setUpd v
  if (v.nextRun x.chunk).isNone then s.transferEnds x true else s

/-- Whether the running firmware knows a critical record (R468). -/
def Upd.knows (u : Upd) (ty : Nat) : Bool := match u.runBank with
  | some b => Config.knowsRecord (u.body b) ty
  | none => false

/-- A whole configuration image is there: checked under R468 before it is written (R473). -/
def State.confDone (s : State) (x : UpdSession) (b : List Byte) : State :=
  let u := s.upd
  if (confOf u.knows b).isNone then s.transferEnds x false
  else (s.setUpd (u.write (confBase u.target) b)).transferEnds x true

/-- FIRMWARE_DATA_RECEIVE: the data of the request that is outstanding; data of another length is asked for again. -/
def execFirmwareDataReceive (b : Nat) (ok : Bool) (data : List Byte) (s : State) : Host.Outcome State Fault Refusal :=
  .next (s.mc b ok fun s => match s.upd.session with
    | none => s
    | some x => match x.request with
      | none => s
      | some r =>
        if x.binding ≠ b then s
        else if data.length ≠ r.2 then s.setSession { x with request := none }
        else
          let got := s.upd.recv ++ data
          let s := s.setUpd { s.upd with recv := got, session := some { x with request := none } }
          if x.stage = 1 then (if hdrBytes ≤ got.length then s.headerDone x got else s)
          else if x.comp = 2 then (if confBytes ≤ got.length then s.confDone x got else s)
          else match s.upd.nextRun x.chunk with
            | some run => if run.2 - run.1 ≤ got.length then s.runDone x run got else s
            | none => s)

/-- VERIFY_COMPLETE (R475): the body as it lies in the bank against the header's digest; a match is followed by ApplyComplete, a mismatch
empties the bank. -/
def execVerifyComplete (s : State) : Host.Outcome State Fault Refusal :=
  .next (match s.upd.session with
    | none => s
    | some x =>
      if x.stage ≠ 3 || !s.mcAnswers x.binding then s
      else
        let u := s.upd
        let t := u.target
        let x' := { x with stage := 0, comp := 0 }
        if x.comp = 1 && !u.bodyOk t then
          (s.setUpd { u.emptyBank t with bitmap := [], persisted := [], header := [], session := some x' }).fwuAsk x.binding 0x17 [1]
        else
          let v : Upd := if x.comp = 1 then { u with applied := setIns u.applied t, header := [], bitmap := [], persisted := [] }
            else { u with confNew := setIns u.confNew t, applied := if u.table = [2] then setIns u.applied t else u.applied }
          ((s.setUpd { v with session := some x' }).fwuAsk x.binding 0x17 [0]).fwuAsk x.binding 0x18 [0])

/-- ACTIVATE_FIRMWARE (R476): self-contained at once, else at the next power-on or device reset. -/
def execActivateFirmware (b : Nat) (selfContained ok : Bool) (s : State) : Host.Outcome State Fault Refusal :=
  .next (s.mc b ok fun s => s.inUpdate b 0x1A fun s x =>
    let u := s.upd
    if x.stage ≠ 0 then s.fwu b 0x1A ccInvalidState []
    else if !u.applied.contains u.target || u.armed.isSome then s.fwu b 0x1A ccIncomplete []
    else if selfContained && s.needsReset u.target then s.fwu b 0x1A ccNotSelfContained []
    else
      let s := s.wr R.CFG_ACT_STATUS (actArmed + 16)
      (s.setUpd { u with session := none, armed := some ⟨if selfContained then 0 else 3, 0⟩ }).fwu b 0x1A ccOk (leBytes 2 0))

/-- GET_STATUS. -/
def execGetStatus (b : Nat) (ok : Bool) (s : State) : Host.Outcome State Fault Refusal :=
  .next (s.mc b ok fun s => s.fwu b 0x1B ccOk (leBytes 1 (s.rf R.CFG_UPDATE 0 3)))

/-- CANCEL_UPDATE_COMPONENT. -/
def execCancelUpdateComponent (b : Nat) (ok : Bool) (s : State) : Host.Outcome State Fault Refusal :=
  .next (s.mc b ok fun s => s.inUpdate b 0x1C fun s x =>
    if x.stage = 0 then s.fwu b 0x1C ccInvalidState []
    else (s.setUpd { s.upd with recv := [], session := some { x with stage := 0, comp := 0, request := none } }).fwu b 0x1C ccOk [])

/-- CANCEL_UPDATE (R474): the bitmap is persisted. -/
def execCancelUpdate (b : Nat) (ok : Bool) (s : State) : Host.Outcome State Fault Refusal :=
  .next (s.mc b ok fun s => s.inUpdate b 0x1D fun s _ =>
    (s.setUpd { s.upd with session := none, recv := [], table := [], persisted := s.upd.bitmap }).fwu b 0x1D ccOk (0 :: zeroBytes 8))

/-! ## Activation, trial, confirmation -/

/-- s with the RW fields of CFG_ACT written. -/
def State.actFields (s : State) (word : Nat) : State :=
  (((s.wf R.CFG_ACT 2 2 (fld word 2 2)).wf R.CFG_ACT 4 1 (fld word 4 1)).wf R.CFG_ACT 16 16 (fld word 16 16)).wf R.CFG_ACT 64 64 (fld word 64 64)

/-- ACTIVATION_ARM: CFG_ACT is written with arm = 1. -/
def execActivationArm (word : Nat) (s : State) : Host.Outcome State Fault Refusal := .next ((s.actFields word).actWord 0 (setFld word 0 2 1))

/-- ACTIVATION_CANCEL: CFG_ACT is written with cancel = 1. -/
def execActivationCancel (word : Nat) (s : State) : Host.Outcome State Fault Refusal := .next ((s.actFields word).actWord 0 (setFld word 0 2 2))

/-- MC_ARM_ACTIVATION: vendor command 0x03, with the fields of CFG_ACT. -/
def execMcArmActivation (b word : Nat) (ok : Bool) (s : State) : Host.Outcome State Fault Refusal :=
  .next (s.mc b ok fun s => let s := s.actWord 1 word; s.reply b mtVendor 3 ccOk (leBytes 1 (s.rf R.CFG_ACT_STATUS 0 4)))

/-- FIRMWARE_ACTIVATION (R477): at its time or epoch, after a schedule activation of the same boundary (R186), the armed image becomes the
active one, on trial, and starts; the device reset that may carry it samples the straps. -/
def execFirmwareActivation (straps : Nat) (s : State) : Host.Outcome State Fault Refusal :=
  .next (match s.upd.armed with
    | none => s
    | some a =>
      let due := match a.mode with
        | 0 => true
        | 1 => decide (a.when' ≤ s.timeNs)
        | 2 => decide (a.when' ≤ s.epoch) && !s.tln.slots.any (fun t => (t.2.armed.any (fun e => decide (e ≤ s.epoch)) : Bool))
        | _ => false
      if !due || s.dev = .off then s
      else
        let s := s.wf R.CFG_ACT_STATUS 0 4 actDone
        (s.setUpd s.upd.activate).startBank 3 straps)

/-- TRIAL_CONFIRM: CFG_CONFIRM.confirm is written. -/
def execTrialConfirm (s : State) : Host.Outcome State Fault Refusal := .next s.confirm

/-- MC_CONFIRM: vendor command 0x04. -/
def execMcConfirm (b : Nat) (ok : Bool) (s : State) : Host.Outcome State Fault Refusal :=
  .next (s.mc b ok fun s => s.confirm.reply b mtVendor 4 ccOk [])

/-- 24 h in ms. -/
def trialLimit : Nat := 86400000

/-- TRIAL_TIMEOUT (R479): the image on trial has run for 24 h; the other bank becomes active and starts. -/
def execTrialTimeout (straps : Nat) (s : State) : Host.Outcome State Fault Refusal :=
  .next (
    let u := s.upd
    if !u.trial || u.trialMs < trialLimit || s.dev = .off then s
    else
      let s := s.wf R.CFG_STATUS 6 1 1
      (s.setUpd (u.emptyBank u.active).revert).startBank 3 straps)

end Sys2Proof.Machine
end

