-- ==== Sys2Proof/Machine/Dispatch.lean ====
section
/-! DEFINITION. What each command does: one arm for each constructor of Instr. -/

namespace Sys2Proof.Machine

/-- The effect of a command on everything but the queue of pending commands. -/
def exec (i : Instr) (s : State) : Host.Outcome State Fault Refusal :=
  match i with
  | .registerWrite a n v => Sys2Proof.Machine.execRegisterWrite a n v s
  | .counterSnap a => Sys2Proof.Machine.execCounterSnap a s
  | .sCounterClear a => Sys2Proof.Machine.execSCounterClear a s
  | .cellArrayClockGate h => Sys2Proof.Machine.execCellArrayClockGate h s
  | .cellArrayPowerGate h => Sys2Proof.Machine.execCellArrayPowerGate h s
  | .unitWakeDone h => Sys2Proof.Machine.execUnitWakeDone h s
  | .retentionStandbyEntry => Sys2Proof.Machine.execRetentionStandbyEntry s
  | .retentionStandbyExit width speed flit => Sys2Proof.Machine.execRetentionStandbyExit width speed flit s
  | .meringueEntry => Sys2Proof.Machine.execMeringueEntry s
  | .meringueExit cause => Sys2Proof.Machine.execMeringueExit cause s
  | .feuilleWrite sr tag => Sys2Proof.Machine.execFeuilleWrite sr tag s
  | .feuilleRead sr tag => Sys2Proof.Machine.execFeuilleRead sr tag s
  | .feuilleCompletion sr tag => Sys2Proof.Machine.execFeuilleCompletion sr tag s
  | .srDoorbell n off size word => Sys2Proof.Machine.execSrDoorbell n off size word s
  | .crDoorbell n off size word => Sys2Proof.Machine.execCrDoorbell n off size word s
  | .eqDoorbell n off size word => Sys2Proof.Machine.execEqDoorbell n off size word s
  | .descriptorFetch n => Sys2Proof.Machine.execDescriptorFetch n s
  | .crEntryWrite n => Sys2Proof.Machine.execCrEntryWrite n s
  | .moderationTimerExpiry n => Sys2Proof.Machine.execModerationTimerExpiry n s
  | .eventWrite n => Sys2Proof.Machine.execEventWrite n s
  | .abort sr tag => Sys2Proof.Machine.execAbort sr tag s
  | .adminRingEnable word => Sys2Proof.Machine.execAdminRingEnable word s
  | .adminRingRelease word => Sys2Proof.Machine.execAdminRingRelease word s
  | .leaseRenew word => Sys2Proof.Machine.execLeaseRenew word s
  | .leaseExpiry => Sys2Proof.Machine.execLeaseExpiry s
  | .createSr sr tag => Sys2Proof.Machine.execCreateSr sr tag s
  | .createCr sr tag => Sys2Proof.Machine.execCreateCr sr tag s
  | .createEq sr tag => Sys2Proof.Machine.execCreateEq sr tag s
  | .destroyRing sr tag => Sys2Proof.Machine.execDestroyRing sr tag s
  | .adoptSlice sr tag => Sys2Proof.Machine.execAdoptSlice sr tag s
  | .queryRing sr tag => Sys2Proof.Machine.execQueryRing sr tag s
  | .cellStoreCeRewrite c off => Sys2Proof.Machine.execCellStoreCeRewrite c off s
  | .cellStoreScrub c off => Sys2Proof.Machine.execCellStoreScrub c off s
  | .crumbSend h l d slot => Sys2Proof.Machine.execCrumbSend h l d slot s
  | .crumbHop ix ce ue => Sys2Proof.Machine.execCrumbHop ix ce ue s
  | .creditReturn ix => Sys2Proof.Machine.execCreditReturn ix s
  | .storeSlotAccess k slot => Sys2Proof.Machine.execStoreSlotAccess k slot s
  | .frameTableCommit h => Sys2Proof.Machine.execFrameTableCommit h s
  | .frameTableApply h => Sys2Proof.Machine.execFrameTableApply h s
  | .spineTableCommit h => Sys2Proof.Machine.execSpineTableCommit h s
  | .spineTableApply h => Sys2Proof.Machine.execSpineTableApply h s
  | .spineSlot h n slot arb => Sys2Proof.Machine.execSpineSlot h n slot arb s
  | .dvfsRequest h v => Sys2Proof.Machine.execDvfsRequest h v s
  | .dvfsSwitch h => Sys2Proof.Machine.execDvfsSwitch h s
  | .streamLineIssue k j => Sys2Proof.Machine.execStreamLineIssue k j s
  | .streamLineReturn k j => Sys2Proof.Machine.execStreamLineReturn k j s
  | .streamWriteVisible k j => Sys2Proof.Machine.execStreamWriteVisible k j s
  | .cellHaltRequest c => Sys2Proof.Machine.execCellHaltRequest c s
  | .cellResume c => Sys2Proof.Machine.execCellResume c s
  | .cellStep c upset => Sys2Proof.Machine.execCellStep c upset s
  | .cellFaultClear c => Sys2Proof.Machine.execCellFaultClear c s
  | .nop k upset => Sys2Proof.Machine.execNop k upset s
  | .mov k upset => Sys2Proof.Machine.execMov k upset s
  | .movi k upset => Sys2Proof.Machine.execMovi k upset s
  | .moviu k upset => Sys2Proof.Machine.execMoviu k upset s
  | .clr k upset => Sys2Proof.Machine.execClr k upset s
  | .cast k upset => Sys2Proof.Machine.execCast k upset s
  | .mkaddr k upset => Sys2Proof.Machine.execMkaddr k upset s
  | .movs k upset => Sys2Proof.Machine.execMovs k upset s
  | .movg k upset => Sys2Proof.Machine.execMovg k upset s
  | .retag k upset => Sys2Proof.Machine.execRetag k upset s
  | .ld k upset => Sys2Proof.Machine.execLd k upset s
  | .st k upset => Sys2Proof.Machine.execSt k upset s
  | .ldp k upset => Sys2Proof.Machine.execLdp k upset s
  | .stp k upset => Sys2Proof.Machine.execStp k upset s
  | .xadd k upset => Sys2Proof.Machine.execXadd k upset s
  | .xchg k upset => Sys2Proof.Machine.execXchg k upset s
  | .xcas k upset => Sys2Proof.Machine.execXcas k upset s
  | .poolAccessReturn k => Sys2Proof.Machine.execPoolAccessReturn k s
  | .add k upset => Sys2Proof.Machine.execAdd k upset s
  | .sub k upset => Sys2Proof.Machine.execSub k upset s
  | .and k upset => Sys2Proof.Machine.execAnd k upset s
  | .or k upset => Sys2Proof.Machine.execOr k upset s
  | .xor k upset => Sys2Proof.Machine.execXor k upset s
  | .not k upset => Sys2Proof.Machine.execNot k upset s
  | .neg k upset => Sys2Proof.Machine.execNeg k upset s
  | .abs k upset => Sys2Proof.Machine.execAbs k upset s
  | .shl k upset => Sys2Proof.Machine.execShl k upset s
  | .shr k upset => Sys2Proof.Machine.execShr k upset s
  | .sar k upset => Sys2Proof.Machine.execSar k upset s
  | .rol k upset => Sys2Proof.Machine.execRol k upset s
  | .ror k upset => Sys2Proof.Machine.execRor k upset s
  | .min k upset => Sys2Proof.Machine.execMin k upset s
  | .max k upset => Sys2Proof.Machine.execMax k upset s
  | .cmpeq k upset => Sys2Proof.Machine.execCmpeq k upset s
  | .cmpne k upset => Sys2Proof.Machine.execCmpne k upset s
  | .cmplt k upset => Sys2Proof.Machine.execCmplt k upset s
  | .cmple k upset => Sys2Proof.Machine.execCmple k upset s
  | .popc k upset => Sys2Proof.Machine.execPopc k upset s
  | .clz k upset => Sys2Proof.Machine.execClz k upset s
  | .ctz k upset => Sys2Proof.Machine.execCtz k upset s
  | .mul k upset => Sys2Proof.Machine.execMul k upset s
  | .mulh k upset => Sys2Proof.Machine.execMulh k upset s
  | .mac k upset => Sys2Proof.Machine.execMac k upset s
  | .div k upset => Sys2Proof.Machine.execDiv k upset s
  | .multiplierResultLand k => Sys2Proof.Machine.execMultiplierResultLand k s
  | .dividerResultLand k => Sys2Proof.Machine.execDividerResultLand k s
  | .fadd k upset => Sys2Proof.Machine.execFadd k upset s
  | .fsub k upset => Sys2Proof.Machine.execFsub k upset s
  | .fmul k upset => Sys2Proof.Machine.execFmul k upset s
  | .ffma k upset => Sys2Proof.Machine.execFfma k upset s
  | .fmin k upset => Sys2Proof.Machine.execFmin k upset s
  | .fmax k upset => Sys2Proof.Machine.execFmax k upset s
  | .fcmpeq k upset => Sys2Proof.Machine.execFcmpeq k upset s
  | .fcmplt k upset => Sys2Proof.Machine.execFcmplt k upset s
  | .fcmple k upset => Sys2Proof.Machine.execFcmple k upset s
  | .icvt k upset => Sys2Proof.Machine.execIcvt k upset s
  | .br k upset => Sys2Proof.Machine.execBr k upset s
  | .brt k upset => Sys2Proof.Machine.execBrt k upset s
  | .brf k upset => Sys2Proof.Machine.execBrf k upset s
  | .jmp k upset => Sys2Proof.Machine.execJmp k upset s
  | .call k upset => Sys2Proof.Machine.execCall k upset s
  | .brk k upset => Sys2Proof.Machine.execBrk k upset s
  | .tret k upset => Sys2Proof.Machine.execTret k upset s
  | .wend k upset => Sys2Proof.Machine.execWend k upset s
  | .swait k upset => Sys2Proof.Machine.execSwait k upset s
  | .sfence k upset => Sys2Proof.Machine.execSfence k upset s
  | .chwait k upset => Sys2Proof.Machine.execChwait k upset s
  | .chfree k upset => Sys2Proof.Machine.execChfree k upset s
  | .chspace k upset => Sys2Proof.Machine.execChspace k upset s
  | .chput k upset => Sys2Proof.Machine.execChput k upset s
  | .vadd k upset => Sys2Proof.Machine.execVadd k upset s
  | .vsub k upset => Sys2Proof.Machine.execVsub k upset s
  | .vmul k upset => Sys2Proof.Machine.execVmul k upset s
  | .vfma k upset => Sys2Proof.Machine.execVfma k upset s
  | .vmin k upset => Sys2Proof.Machine.execVmin k upset s
  | .vmax k upset => Sys2Proof.Machine.execVmax k upset s
  | .vabs k upset => Sys2Proof.Machine.execVabs k upset s
  | .vneg k upset => Sys2Proof.Machine.execVneg k upset s
  | .vcmpeq k upset => Sys2Proof.Machine.execVcmpeq k upset s
  | .vcmplt k upset => Sys2Proof.Machine.execVcmplt k upset s
  | .vcmple k upset => Sys2Proof.Machine.execVcmple k upset s
  | .vsel k upset => Sys2Proof.Machine.execVsel k upset s
  | .vadds k upset => Sys2Proof.Machine.execVadds k upset s
  | .vsubs k upset => Sys2Proof.Machine.execVsubs k upset s
  | .vcvt k upset => Sys2Proof.Machine.execVcvt k upset s
  | .vredsum k upset => Sys2Proof.Machine.execVredsum k upset s
  | .vredmax k upset => Sys2Proof.Machine.execVredmax k upset s
  | .vqtb8 k upset => Sys2Proof.Machine.execVqtb8 k upset s
  | .vqtb4 k upset => Sys2Proof.Machine.execVqtb4 k upset s
  | .vdqtb8 k upset => Sys2Proof.Machine.execVdqtb8 k upset s
  | .vdqtb4 k upset => Sys2Proof.Machine.execVdqtb4 k upset s
  | .vqmx k upset => Sys2Proof.Machine.execVqmx k upset s
  | .vdqmx k upset => Sys2Proof.Machine.execVdqmx k upset s
  | .tzero k upset => Sys2Proof.Machine.execTzero k upset s
  | .tmma k upset => Sys2Proof.Machine.execTmma k upset s
  | .tmmax k upset => Sys2Proof.Machine.execTmmax k upset s
  | .tload k upset => Sys2Proof.Machine.execTload k upset s
  | .tread k upset => Sys2Proof.Machine.execTread k upset s
  | .sfnExp2 k upset => Sys2Proof.Machine.execSfnExp2 k upset s
  | .sfnLog2 k upset => Sys2Proof.Machine.execSfnLog2 k upset s
  | .sfnRcp k upset => Sys2Proof.Machine.execSfnRcp k upset s
  | .sfnRsqrt k upset => Sys2Proof.Machine.execSfnRsqrt k upset s
  | .sfnSin k upset => Sys2Proof.Machine.execSfnSin k upset s
  | .sfnCos k upset => Sys2Proof.Machine.execSfnCos k upset s
  | .sfnTanh k upset => Sys2Proof.Machine.execSfnTanh k upset s
  | .sfnErf k upset => Sys2Proof.Machine.execSfnErf k upset s
  | .unitInstructionFinish k u => Sys2Proof.Machine.execUnitInstructionFinish k u s
  | .wfi k upset => Sys2Proof.Machine.execWfi k upset s
  | .iret k upset => Sys2Proof.Machine.execIret k upset s
  | .ldd k upset => Sys2Proof.Machine.execLdd k upset s
  | .std k upset => Sys2Proof.Machine.execStd k upset s
  | .deferredTrap k => Sys2Proof.Machine.execDeferredTrap k s
  | .interruptEntry c => Sys2Proof.Machine.execInterruptEntry c s
  | .pipeLaunch sr tag => Sys2Proof.Machine.execPipeLaunch sr tag s
  | .pipeLoad sr tag => Sys2Proof.Machine.execPipeLoad sr tag s
  | .pipeLoadCommit pn => Sys2Proof.Machine.execPipeLoadCommit pn s
  | .pipeUnload sr tag => Sys2Proof.Machine.execPipeUnload sr tag s
  | .pipeArm sr tag => Sys2Proof.Machine.execPipeArm sr tag s
  | .pipeDisarm sr tag => Sys2Proof.Machine.execPipeDisarm sr tag s
  | .pipeHalt sr tag => Sys2Proof.Machine.execPipeHalt sr tag s
  | .pipeReset sr tag => Sys2Proof.Machine.execPipeReset sr tag s
  | .pipeQuery sr tag => Sys2Proof.Machine.execPipeQuery sr tag s
  | .waveStart pn => Sys2Proof.Machine.execWaveStart pn s
  | .waveEnd pn => Sys2Proof.Machine.execWaveEnd pn s
  | .beatTrigger pn => Sys2Proof.Machine.execBeatTrigger pn s
  | .tlnEnable => Sys2Proof.Machine.execTlnEnable s
  | .tlnDisable => Sys2Proof.Machine.execTlnDisable s
  | .tlnTimeRead off bytes => Sys2Proof.Machine.execTlnTimeRead off bytes s
  | .ptpMessage off => Sys2Proof.Machine.execPtpMessage off s
  | .beatAlignment marks => Sys2Proof.Machine.execBeatAlignment marks s
  | .referenceLoss => Sys2Proof.Machine.execReferenceLoss s
  | .holdoverExpiry => Sys2Proof.Machine.execHoldoverExpiry s
  | .gateChange port => Sys2Proof.Machine.execGateChange port s
  | .txWindowOpen w => Sys2Proof.Machine.execTxWindowOpen w s
  | .txWindowClose w => Sys2Proof.Machine.execTxWindowClose w s
  | .scheduleStage => Sys2Proof.Machine.execScheduleStage s
  | .stageCheckDone k => Sys2Proof.Machine.execStageCheckDone k s
  | .scheduleArm => Sys2Proof.Machine.execScheduleArm s
  | .scheduleCancel => Sys2Proof.Machine.execScheduleCancel s
  | .activation => Sys2Proof.Machine.execActivation s
  | .collLoad sr tag => Sys2Proof.Machine.execCollLoad sr tag s
  | .collStep sr tag => Sys2Proof.Machine.execCollStep sr tag s
  | .collStepStart n => Sys2Proof.Machine.execCollStepStart n s
  | .collStepCommit n arr => Sys2Proof.Machine.execCollStepCommit n arr s
  | .collUnload sr tag => Sys2Proof.Machine.execCollUnload sr tag s
  | .collReset sr tag => Sys2Proof.Machine.execCollReset sr tag s
  | .collResid sr tag => Sys2Proof.Machine.execCollResid sr tag s
  | .collQuery sr tag => Sys2Proof.Machine.execCollQuery sr tag s
  | .collPeerTimeout n => Sys2Proof.Machine.execCollPeerTimeout n s
  | .regionZeroDone n => Sys2Proof.Machine.execRegionZeroDone n s
  | .memCopy sr tag => Sys2Proof.Machine.execMemCopy sr tag s
  | .memFill sr tag => Sys2Proof.Machine.execMemFill sr tag s
  | .memConvert sr tag => Sys2Proof.Machine.execMemConvert sr tag s
  | .memEncode sr tag => Sys2Proof.Machine.execMemEncode sr tag s
  | .memDecode sr tag => Sys2Proof.Machine.execMemDecode sr tag s
  | .patrolScrub h => Sys2Proof.Machine.execPatrolScrub h s
  | .hubStoreScrub a sr tag k upset => Sys2Proof.Machine.execHubStoreScrub a sr tag k upset s
  | .dramRefresh h ch => Sys2Proof.Machine.execDramRefresh h ch s
  | .mr4Poll h ch rate => Sys2Proof.Machine.execMr4Poll h ch rate s
  | .dramPowerDown h ch => Sys2Proof.Machine.execDramPowerDown h ch s
  | .translationEnable word => Sys2Proof.Machine.execTranslationEnable word s
  | .faultRecordWrite slot => Sys2Proof.Machine.execFaultRecordWrite slot s
  | .faultResponse word => Sys2Proof.Machine.execFaultResponse word s
  | .stallTimeout sr tag => Sys2Proof.Machine.execStallTimeout sr tag s
  | .invalidate word => Sys2Proof.Machine.execInvalidate word s
  | .invalidationDone => Sys2Proof.Machine.execInvalidationDone s
  | .atsTranslationCompletion asid page rd wr addr => Sys2Proof.Machine.execAtsTranslationCompletion asid page rd wr addr s
  | .atsInvalidateRequest pasid itag => Sys2Proof.Machine.execAtsInvalidateRequest pasid itag s
  | .prgResponse index pasid code => Sys2Proof.Machine.execPrgResponse index pasid code s
  | .tmtWrite sr tag => Sys2Proof.Machine.execTmtWrite sr tag s
  | .tmtWriteImm sr tag => Sys2Proof.Machine.execTmtWriteImm sr tag s
  | .tmtRead sr tag => Sys2Proof.Machine.execTmtRead sr tag s
  | .tmtSend sr tag => Sys2Proof.Machine.execTmtSend sr tag s
  | .tmtFetchAdd sr tag => Sys2Proof.Machine.execTmtFetchAdd sr tag s
  | .tmtCompareSwap sr tag => Sys2Proof.Machine.execTmtCompareSwap sr tag s
  | .tmtAccumulate sr tag => Sys2Proof.Machine.execTmtAccumulate sr tag s
  | .tmtArm sr tag => Sys2Proof.Machine.execTmtArm sr tag s
  | .tmtRecv sr tag => Sys2Proof.Machine.execTmtRecv sr tag s
  | .tmtQpCreate sr tag => Sys2Proof.Machine.execTmtQpCreate sr tag s
  | .tmtQpModify sr tag => Sys2Proof.Machine.execTmtQpModify sr tag s
  | .tmtQpDestroy sr tag => Sys2Proof.Machine.execTmtQpDestroy sr tag s
  | .tmtQpQuery sr tag => Sys2Proof.Machine.execTmtQpQuery sr tag s
  | .tmtKeyBind sr tag => Sys2Proof.Machine.execTmtKeyBind sr tag s
  | .tmtKeyRevoke sr tag => Sys2Proof.Machine.execTmtKeyRevoke sr tag s
  | .tmtCounter sr tag => Sys2Proof.Machine.execTmtCounter sr tag s
  | .tmtPacketTransmit qn parity => Sys2Proof.Machine.execTmtPacketTransmit qn parity s
  | .rxWrite p => Sys2Proof.Machine.execRxWrite p s
  | .rxWriteImm p => Sys2Proof.Machine.execRxWriteImm p s
  | .rxSend p => Sys2Proof.Machine.execRxSend p s
  | .rxAccumulate p => Sys2Proof.Machine.execRxAccumulate p s
  | .rxReadReq p => Sys2Proof.Machine.execRxReadReq p s
  | .rxReadResp p => Sys2Proof.Machine.execRxReadResp p s
  | .rxAtomicReq p => Sys2Proof.Machine.execRxAtomicReq p s
  | .rxAtomicResp p => Sys2Proof.Machine.execRxAtomicResp p s
  | .rxAck p => Sys2Proof.Machine.execRxAck p s
  | .rxCtrlStopNotice p => Sys2Proof.Machine.execRxCtrlStopNotice p s
  | .rxCtrlStepCheck p => Sys2Proof.Machine.execRxCtrlStepCheck p s
  | .rxCtrlClose p => Sys2Proof.Machine.execRxCtrlClose p s
  | .messageDelivery qn => Sys2Proof.Machine.execMessageDelivery qn s
  | .ackTimer qn => Sys2Proof.Machine.execAckTimer qn s
  | .retransmitTimeout qn k => Sys2Proof.Machine.execRetransmitTimeout qn k s
  | .rnrWaitExpiry qn => Sys2Proof.Machine.execRnrWaitExpiry qn s
  | .pathSuspectExpiry qn k => Sys2Proof.Machine.execPathSuspectExpiry qn k s
  | .rekeyGraceExpiry qn => Sys2Proof.Machine.execRekeyGraceExpiry qn s
  | .qpNumberRelease qn => Sys2Proof.Machine.execQpNumberRelease qn s
  | .ccParameterApply sl => Sys2Proof.Machine.execCcParameterApply sl s
  | .frameReceive o j bytes fcsOk parity => Sys2Proof.Machine.execFrameReceive o j bytes fcsOk parity s
  | .pfcRefresh p n c => Sys2Proof.Machine.execPfcRefresh p n c s
  | .pfcReceive o j vector quanta => Sys2Proof.Machine.execPfcReceive o j vector quanta s
  | .pfcPauseExpiry p n c => Sys2Proof.Machine.execPfcPauseExpiry p n c s
  | .transmitSelect p n => Sys2Proof.Machine.execTransmitSelect p n s
  | .firmwareFrameSend p q bytes => Sys2Proof.Machine.execFirmwareFrameSend p q bytes s
  | .graphCommit p => Sys2Proof.Machine.execGraphCommit p s
  | .graphSwap p => Sys2Proof.Machine.execGraphSwap p s
  | .shaperWriteApply p kind ix => Sys2Proof.Machine.execShaperWriteApply p kind ix s
  | .meterWrite p m entry => Sys2Proof.Machine.execMeterWrite p m entry s
  | .octetEnable o => Sys2Proof.Machine.execOctetEnable o s
  | .octetDisable o => Sys2Proof.Machine.execOctetDisable o s
  | .ethernetLinkUp o j => Sys2Proof.Machine.execEthernetLinkUp o j s
  | .ethernetLinkDown o j => Sys2Proof.Machine.execEthernetLinkDown o j s
  | .denuxLinkEnable n => Sys2Proof.Machine.execDenuxLinkEnable n s
  | .denuxLinkDisable n => Sys2Proof.Machine.execDenuxLinkDisable n s
  | .denuxSignalDetect n => Sys2Proof.Machine.execDenuxSignalDetect n s
  | .denuxTrainLock n => Sys2Proof.Machine.execDenuxTrainLock n s
  | .denuxTrainTimeout n => Sys2Proof.Machine.execDenuxTrainTimeout n s
  | .denuxAlignDone n rev => Sys2Proof.Machine.execDenuxAlignDone n rev s
  | .denuxInitDone n => Sys2Proof.Machine.execDenuxInitDone n s
  | .denuxRetrainEntry n => Sys2Proof.Machine.execDenuxRetrainEntry n s
  | .denuxRetrainDone n ack => Sys2Proof.Machine.execDenuxRetrainDone n ack s
  | .denuxRetrainTimeout n => Sys2Proof.Machine.execDenuxRetrainTimeout n s
  | .flitTransmit n => Sys2Proof.Machine.execFlitTransmit n s
  | .linkFlitReceive n bytes => Sys2Proof.Machine.execLinkFlitReceive n bytes s
  | .dataFlitReceive n bytes parity => Sys2Proof.Machine.execDataFlitReceive n bytes parity s
  | .dnxWrite n msg => Sys2Proof.Machine.execDnxWrite n msg s
  | .dnxReadReq n msg => Sys2Proof.Machine.execDnxReadReq n msg s
  | .dnxReadCpl n msg => Sys2Proof.Machine.execDnxReadCpl n msg s
  | .dnxAtomicReq n msg => Sys2Proof.Machine.execDnxAtomicReq n msg s
  | .dnxAtomicCpl n msg => Sys2Proof.Machine.execDnxAtomicCpl n msg s
  | .dnxDoorbell n msg => Sys2Proof.Machine.execDnxDoorbell n msg s
  | .dnxTmtMessage n msg parity => Sys2Proof.Machine.execDnxTmtMessage n msg parity s
  | .dnxBeat n msg => Sys2Proof.Machine.execDnxBeat n msg s
  | .dnxCplTimeout n tag => Sys2Proof.Machine.execDnxCplTimeout n tag s
  | .windowReduceDone w => Sys2Proof.Machine.execWindowReduceDone w s
  | .nvmeControllerEnable mps aqa asq acq => Sys2Proof.Machine.execNvmeControllerEnable mps aqa asq acq s
  | .nvmeControllerReset => Sys2Proof.Machine.execNvmeControllerReset s
  | .nvmeShutdown => Sys2Proof.Machine.execNvmeShutdown s
  | .nvmeSqDoorbell q tail => Sys2Proof.Machine.execNvmeSqDoorbell q tail s
  | .nvmeCqDoorbell q head => Sys2Proof.Machine.execNvmeCqDoorbell q head s
  | .identify sq cmd prps => Sys2Proof.Machine.execIdentify sq cmd prps s
  | .getLogPage sq cmd prps => Sys2Proof.Machine.execGetLogPage sq cmd prps s
  | .setFeatures sq cmd => Sys2Proof.Machine.execSetFeatures sq cmd s
  | .getFeatures sq cmd => Sys2Proof.Machine.execGetFeatures sq cmd s
  | .createIoSq sq cmd => Sys2Proof.Machine.execCreateIoSq sq cmd s
  | .createIoCq sq cmd => Sys2Proof.Machine.execCreateIoCq sq cmd s
  | .deleteIoSq sq cmd => Sys2Proof.Machine.execDeleteIoSq sq cmd s
  | .deleteIoCq sq cmd => Sys2Proof.Machine.execDeleteIoCq sq cmd s
  | .nvmeAbort sq cmd => Sys2Proof.Machine.execNvmeAbort sq cmd s
  | .asynchronousEventRequest sq cmd => Sys2Proof.Machine.execAsynchronousEventRequest sq cmd s
  | .deviceSelfTest sq cmd => Sys2Proof.Machine.execDeviceSelfTest sq cmd s
  | .selfTestResume => Sys2Proof.Machine.execSelfTestResume s
  | .selfTestDone seg => Sys2Proof.Machine.execSelfTestDone seg s
  | .nvmeRead sq cmd prps => Sys2Proof.Machine.execNvmeRead sq cmd prps s
  | .nvmeWrite sq cmd data => Sys2Proof.Machine.execNvmeWrite sq cmd data s
  | .nvmeFlush sq cmd => Sys2Proof.Machine.execNvmeFlush sq cmd s
  | .writeZeroes sq cmd => Sys2Proof.Machine.execWriteZeroes sq cmd s
  | .datasetManagement sq cmd data => Sys2Proof.Machine.execDatasetManagement sq cmd data s
  | .batchClose n => Sys2Proof.Machine.execBatchClose n s
  | .batchCommit n => Sys2Proof.Machine.execBatchCommit n s
  | .homeWriteDone n => Sys2Proof.Machine.execHomeWriteDone n s
  | .superblockWrite n => Sys2Proof.Machine.execSuperblockWrite n s
  | .replay n => Sys2Proof.Machine.execReplay n s
  | .driveCompletion id nv => Sys2Proof.Machine.execDriveCompletion id nv s
  | .storRead sr tag => Sys2Proof.Machine.execStorRead sr tag s
  | .storWrite sr tag => Sys2Proof.Machine.execStorWrite sr tag s
  | .storFlush sr tag => Sys2Proof.Machine.execStorFlush sr tag s
  | .storWriteZeroes sr tag => Sys2Proof.Machine.execStorWriteZeroes sr tag s
  | .storDeallocate sr tag => Sys2Proof.Machine.execStorDeallocate sr tag s
  | .nsDefine sr tag size fmt vwc => Sys2Proof.Machine.execNsDefine sr tag size fmt vwc s
  | .nsDelete sr tag => Sys2Proof.Machine.execNsDelete sr tag s
  | .nsQuery sr tag => Sys2Proof.Machine.execNsQuery sr tag s
  | .peerExport sr tag => Sys2Proof.Machine.execPeerExport sr tag s
  | .peerUnexport sr tag => Sys2Proof.Machine.execPeerUnexport sr tag s
  | .capsuleCommand qn cap data => Sys2Proof.Machine.execCapsuleCommand qn cap data s
  | .capsuleResponse qn cap => Sys2Proof.Machine.execCapsuleResponse qn cap s
  | .ckpJobLoad sr tag => Sys2Proof.Machine.execCkpJobLoad sr tag s
  | .ckpJobUnload sr tag => Sys2Proof.Machine.execCkpJobUnload sr tag s
  | .ckpSnapshot sr tag isSealed => Sys2Proof.Machine.execCkpSnapshot sr tag isSealed s
  | .guardArm n => Sys2Proof.Machine.execGuardArm n s
  | .copierPage n h => Sys2Proof.Machine.execCopierPage n h s
  | .pageCopyDone n h => Sys2Proof.Machine.execPageCopyDone n h s
  | .snapshotStreamDone n => Sys2Proof.Machine.execSnapshotStreamDone n s
  | .buddyVerify n slot => Sys2Proof.Machine.execBuddyVerify n slot s
  | .ckpSeal sr tag => Sys2Proof.Machine.execCkpSeal sr tag s
  | .ckpRestore sr tag slots => Sys2Proof.Machine.execCkpRestore sr tag slots s
  | .ckpWatch sr tag => Sys2Proof.Machine.execCkpWatch sr tag s
  | .ckpPersist sr tag slot => Sys2Proof.Machine.execCkpPersist sr tag slot s
  | .ckpQuery sr tag => Sys2Proof.Machine.execCkpQuery sr tag s
  | .heartbeatSend n => Sys2Proof.Machine.execHeartbeatSend n s
  | .watchTick n => Sys2Proof.Machine.execWatchTick n s
  | .kceCipher sr tag recordOk => Sys2Proof.Machine.execKceCipher sr tag recordOk s
  | .kceMac sr tag recordOk => Sys2Proof.Machine.execKceMac sr tag recordOk s
  | .kceHash sr tag => Sys2Proof.Machine.execKceHash sr tag s
  | .kceSign sr tag recordOk => Sys2Proof.Machine.execKceSign sr tag recordOk s
  | .kceVerify sr tag recordOk => Sys2Proof.Machine.execKceVerify sr tag recordOk s
  | .kceKeyImport sr tag recordOk => Sys2Proof.Machine.execKceKeyImport sr tag recordOk s
  | .kceKeyGenerate sr tag => Sys2Proof.Machine.execKceKeyGenerate sr tag s
  | .kceKem sr tag recordOk => Sys2Proof.Machine.execKceKem sr tag recordOk s
  | .kceKeyDestroy sr tag => Sys2Proof.Machine.execKceKeyDestroy sr tag s
  | .kceKeyQuery sr tag recordOk => Sys2Proof.Machine.execKceKeyQuery sr tag recordOk s
  | .kceUnitRelease sr tag ok => Sys2Proof.Machine.execKceUnitRelease sr tag ok s
  | .kceSuspend => Sys2Proof.Machine.execKceSuspend s
  | .kceResume => Sys2Proof.Machine.execKceResume s
  | .entropyHealthFail => Sys2Proof.Machine.execEntropyHealthFail s
  | .crcData8 u n v => Sys2Proof.Machine.execCrcData8 u n v s
  | .crcData16 u n v => Sys2Proof.Machine.execCrcData16 u n v s
  | .crcData32 u n v => Sys2Proof.Machine.execCrcData32 u n v s
  | .crcFifoProcess u => Sys2Proof.Machine.execCrcFifoProcess u s
  | .crcConfigWrite u off n v => Sys2Proof.Machine.execCrcConfigWrite u off n v s
  | .crcResultRead u => Sys2Proof.Machine.execCrcResultRead u s
  | .sliceCtl sr tag => Sys2Proof.Machine.execSliceCtl sr tag s
  | .sliceQuota sr tag => Sys2Proof.Machine.execSliceQuota sr tag s
  | .slicePasid sr tag => Sys2Proof.Machine.execSlicePasid sr tag s
  | .regionAlloc sr tag => Sys2Proof.Machine.execRegionAlloc sr tag s
  | .regionFree sr tag => Sys2Proof.Machine.execRegionFree sr tag s
  | .regionQuery sr tag => Sys2Proof.Machine.execRegionQuery sr tag s
  | .sliceQuiesced sl => Sys2Proof.Machine.execSliceQuiesced sl s
  | .schedWeightApply sl => Sys2Proof.Machine.execSchedWeightApply sl s
  | .bar0AccessBad fn a n rd => Sys2Proof.Machine.execBar0AccessBad fn a n rd s
  | .bar4Read w off n => Sys2Proof.Machine.execBar4Read w off n s
  | .bar4Write w off data => Sys2Proof.Machine.execBar4Write w off data s
  | .winSync seq => Sys2Proof.Machine.execWinSync seq s
  | .winSyncDone => Sys2Proof.Machine.execWinSyncDone s
  | .msixUnmask fn v => Sys2Proof.Machine.execMsixUnmask fn v s
  | .hostReadCompletion fn tag status data => Sys2Proof.Machine.execHostReadCompletion fn tag status data s
  | .completionTimeout tag => Sys2Proof.Machine.execCompletionTimeout tag s
  | .poisonedWrite fn => Sys2Proof.Machine.execPoisonedWrite fn s
  | .bmeClear fn => Sys2Proof.Machine.execBmeClear fn s
  | .bmeSet fn opts prg => Sys2Proof.Machine.execBmeSet fn opts prg s
  | .flr fn => Sys2Proof.Machine.execFlr fn s
  | .flrDone fn => Sys2Proof.Machine.execFlrDone fn s
  | .d3hotEntry fn => Sys2Proof.Machine.execD3hotEntry fn s
  | .d0Entry fn => Sys2Proof.Machine.execD0Entry fn s
  | .perstAssert => Sys2Proof.Machine.execPerstAssert s
  | .perstDeassert width speed flit => Sys2Proof.Machine.execPerstDeassert width speed flit s
  | .hotReset width speed flit => Sys2Proof.Machine.execHotReset width speed flit s
  | .l1Entry sub => Sys2Proof.Machine.execL1Entry sub s
  | .l1Exit => Sys2Proof.Machine.execL1Exit s
  | .l0pNarrow => Sys2Proof.Machine.execL0pNarrow s
  | .l0pWiden => Sys2Proof.Machine.execL0pWiden s
  | .watchdogExpiry k => Sys2Proof.Machine.execWatchdogExpiry k s
  | .coreCrash k cause => Sys2Proof.Machine.execCoreCrash k cause s
  | .coreRestartDone k ue => Sys2Proof.Machine.execCoreRestartDone k ue s
  | .fwQuery sr tag => Sys2Proof.Machine.execFwQuery sr tag s
  | .fwCore sr tag => Sys2Proof.Machine.execFwCore sr tag s
  | .setEndpointId b op eid ok => Sys2Proof.Machine.execSetEndpointId b op eid ok s
  | .getEndpointId b ok => Sys2Proof.Machine.execGetEndpointId b ok s
  | .getEndpointUuid b ok => Sys2Proof.Machine.execGetEndpointUuid b ok s
  | .getMctpVersionSupport b type ok => Sys2Proof.Machine.execGetMctpVersionSupport b type ok s
  | .getMessageTypeSupport b ok => Sys2Proof.Machine.execGetMessageTypeSupport b ok s
  | .dynamicAddressAssign addr => Sys2Proof.Machine.execDynamicAddressAssign addr s
  | .rstdaa => Sys2Proof.Machine.execRstdaa s
  | .mcClockWake => Sys2Proof.Machine.execMcClockWake s
  | .getTid b ok => Sys2Proof.Machine.execGetTid b ok s
  | .setTid b tid ok => Sys2Proof.Machine.execSetTid b tid ok s
  | .getPldmVersion b type ok => Sys2Proof.Machine.execGetPldmVersion b type ok s
  | .getPldmTypes b ok => Sys2Proof.Machine.execGetPldmTypes b ok s
  | .getPldmCommands b type ok => Sys2Proof.Machine.execGetPldmCommands b type ok s
  | .getPdrRepositoryInfo b ok => Sys2Proof.Machine.execGetPdrRepositoryInfo b ok s
  | .getPdr b record ok => Sys2Proof.Machine.execGetPdr b record ok s
  | .getSensorReading b sensor ok => Sys2Proof.Machine.execGetSensorReading b sensor ok s
  | .getStateSensorReadings b ok => Sys2Proof.Machine.execGetStateSensorReadings b ok s
  | .setNumericEffecterValue b eff v ok => Sys2Proof.Machine.execSetNumericEffecterValue b eff v ok s
  | .getNumericEffecterValue b eff ok => Sys2Proof.Machine.execGetNumericEffecterValue b eff ok s
  | .setStateEffecterStates b eff v ok => Sys2Proof.Machine.execSetStateEffecterStates b eff v ok s
  | .getStateEffecterStates b eff ok => Sys2Proof.Machine.execGetStateEffecterStates b eff ok s
  | .setEventReceiver b tid eid on ok => Sys2Proof.Machine.execSetEventReceiver b tid eid on ok s
  | .pollForPlatformEventMessage b ok => Sys2Proof.Machine.execPollForPlatformEventMessage b ok s
  | .platformEventMessage => Sys2Proof.Machine.execPlatformEventMessage s
  | .mcRegisterRead b dpa n ok => Sys2Proof.Machine.execMcRegisterRead b dpa n ok s
  | .mcCapture b dpa ok => Sys2Proof.Machine.execMcCapture b dpa ok s
  | .mcArmActivation b word ok => Sys2Proof.Machine.execMcArmActivation b word ok s
  | .mcConfirm b ok => Sys2Proof.Machine.execMcConfirm b ok s
  | .getVersion b eid ok req => Sys2Proof.Machine.execGetVersion b eid ok req s
  | .getCapabilities b eid ok req => Sys2Proof.Machine.execGetCapabilities b eid ok req s
  | .negotiateAlgorithms b eid ok req => Sys2Proof.Machine.execNegotiateAlgorithms b eid ok req s
  | .getDigests b eid ok req => Sys2Proof.Machine.execGetDigests b eid ok req s
  | .getCertificate b eid ok req => Sys2Proof.Machine.execGetCertificate b eid ok req s
  | .challenge b eid ok req => Sys2Proof.Machine.execChallenge b eid ok req s
  | .getMeasurements b eid ok req => Sys2Proof.Machine.execGetMeasurements b eid ok req s
  | .spdmPqSignature b eid ok => Sys2Proof.Machine.execSpdmPqSignature b eid ok s
  | .spdmPqChain b eid ok => Sys2Proof.Machine.execSpdmPqChain b eid ok s
  | .sensorSample temps => Sys2Proof.Machine.execSensorSample temps s
  | .railSample rails => Sys2Proof.Machine.execRailSample rails s
  | .flowIdleTimeout p ix => Sys2Proof.Machine.execFlowIdleTimeout p ix s
  | .flowActiveTimeout p ix => Sys2Proof.Machine.execFlowActiveTimeout p ix s
  | .flowExportEnable p => Sys2Proof.Machine.execFlowExportEnable p s
  | .flowExportDisable p => Sys2Proof.Machine.execFlowExportDisable p s
  | .ipfixMessageFlush p v6 => Sys2Proof.Machine.execIpfixMessageFlush p v6 s
  | .templateTimer p => Sys2Proof.Machine.execTemplateTimer p s
  | .queryDeviceIdentifiers b ok => Sys2Proof.Machine.execQueryDeviceIdentifiers b ok s
  | .getFirmwareParameters b ok => Sys2Proof.Machine.execGetFirmwareParameters b ok s
  | .requestUpdate b maxXfer chunk ok => Sys2Proof.Machine.execRequestUpdate b maxXfer chunk ok s
  | .passComponentTable b ok comps => Sys2Proof.Machine.execPassComponentTable b ok comps s
  | .updateComponent b comp size ok => Sys2Proof.Machine.execUpdateComponent b comp size ok s
  | .requestFirmwareData => Sys2Proof.Machine.execRequestFirmwareData s
  | .firmwareDataReceive b ok data => Sys2Proof.Machine.execFirmwareDataReceive b ok data s
  | .verifyComplete => Sys2Proof.Machine.execVerifyComplete s
  | .activateFirmware b selfContained ok => Sys2Proof.Machine.execActivateFirmware b selfContained ok s
  | .getStatus b ok => Sys2Proof.Machine.execGetStatus b ok s
  | .cancelUpdateComponent b ok => Sys2Proof.Machine.execCancelUpdateComponent b ok s
  | .cancelUpdate b ok => Sys2Proof.Machine.execCancelUpdate b ok s
  | .activationArm word => Sys2Proof.Machine.execActivationArm word s
  | .activationCancel word => Sys2Proof.Machine.execActivationCancel word s
  | .firmwareActivation straps => Sys2Proof.Machine.execFirmwareActivation straps s
  | .trialConfirm => Sys2Proof.Machine.execTrialConfirm s
  | .trialTimeout straps => Sys2Proof.Machine.execTrialTimeout straps s
  | .xtalAonLoss => Sys2Proof.Machine.execXtalAonLoss s
  | .pllLockLoss n => Sys2Proof.Machine.execPllLockLoss n s
  | .crossingTimeout die receiver a b => Sys2Proof.Machine.execCrossingTimeout die receiver a b s
  | .powerOn straps clks puf => Sys2Proof.Machine.execPowerOn straps clks puf s
  | .firmwareReady width speed flit => Sys2Proof.Machine.execFirmwareReady width speed flit s
  | .deviceReset straps => Sys2Proof.Machine.execDeviceReset straps s
  | .dieWarmReset word => Sys2Proof.Machine.execDieWarmReset word s
  | .dieWarmResetDone die => Sys2Proof.Machine.execDieWarmResetDone die s
  | .sliceResetDone sr tag => Sys2Proof.Machine.execSliceResetDone sr tag s
  | .brownOut => Sys2Proof.Machine.execBrownOut s
  | .brownOutRecovery straps => Sys2Proof.Machine.execBrownOutRecovery straps s
  | .inputCollapse => Sys2Proof.Machine.execInputCollapse s
  | .throttleStep => Sys2Proof.Machine.execThrottleStep s
  | .throttleRaise => Sys2Proof.Machine.execThrottleRaise s
  | .timePpsEdge off => Sys2Proof.Machine.execTimePpsEdge off s
  | .timePpsOutPulse => Sys2Proof.Machine.execTimePpsOutPulse s
  | .portDieCoreGate p => Sys2Proof.Machine.execPortDieCoreGate p s
  | .configurationRetryEnd => Sys2Proof.Machine.execConfigurationRetryEnd s
  | .undefinedEncoding k => Sys2Proof.Machine.execUndefinedEncoding k s
  | .unsupportedSpdmRequest b eid code ok => Sys2Proof.Machine.execUnsupportedSpdmRequest b eid code ok s
  | .interruptCoalescingTime q => Sys2Proof.Machine.execInterruptCoalescingTime q s

end Sys2Proof.Machine
end

