-- ==== Sys2Proof/Machine/Tick.lean ====
section
/-! DEFINITION. What the passing of one nanosecond does when no command waits (log entry 72): the time base counts (R167, R172),
frame counters run (R71), the driver's lease runs out (R60), HOLDOVER ends (R172), a trial image's running time grows (R479), what waited on guarded writes goes on (R366), and a waiting power request is served (R454). -/

namespace Sys2Proof.Machine

/-- Fifths of a cell-clock period that a hub's clock makes in a nanosecond at a DVFS point: 0.8 to 1.6 GHz in steps of 0.2 (R77). -/
def fifths (point : Nat) : Nat := 4 + min point 4

/-- Fifths of a period in a frame of 256 slots (R71). -/
def frameFifths : Nat := 256 * 5

/-- Hub h's frame counter a nanosecond on. -/
def State.frameTick (s : State) (h : Nat) : State :=
  if s.hubDown h || s.clockStops h then s
  else
    let a := Tbl.get s.clk.frameAcc h 0 + fifths (s.rf (R.LAT_HUB_CTRL h) 4 3)
    let s : State := { s with clk := { s.clk with frameAcc := Tbl.put s.clk.frameAcc h (a % frameFifths) } }
    if a < frameFifths then s else s.cnt (R.LAT_HUB_FRAMES h)

/-- The time base a nanosecond on. While it is slewed it stands still for one nanosecond in 10,486, which makes 100 in an epoch (R172,
log entry 151). -/
def State.timeTick (s : State) : State :=
  if s.tln.slew ≠ 0 && !s.tln.stood && s.timeNs % 2 ^ 20 % 10486 = 0 then { s with tln := { s.tln with slew := s.tln.slew - 1, stood := true } }
  else { s with timeNs := s.timeNs + 1, tln := { s.tln with stood := false } }

/-- The running time of a trial image, in ms (R479). -/
def State.trialTick (s : State) : State :=
  if s.upd.trial && s.dev = .run && s.timeNs % 10 ^ 6 = 0 then { s with upd := { s.upd with trialMs := s.upd.trialMs + 1 } } else s

/-- One nanosecond. A device that is off does nothing. -/
def State.tick (s : State) : State :=
  if s.dev = .off then s
  else
    let s := s.timeTick.trialTick.powerNext
    if s.dev ≠ .run || s.clk.aonStopped then s
    else
      let s := ((List.range 12).foldl (fun s h => s.frameTick h) s).leaseEnds.holdEnds
      let s := (if s.stor.held.isEmpty then s else s.storRetry).rxHeldAtomics.dnxRelease
      s.drainHost s.pcie.held

end Sys2Proof.Machine
end

