-- ==== Sys2Proof/Machine/Step.lean ====
section
/-! DEFINITION. The step of the block: the command at the front of its queue, or a nanosecond when none waits. -/

namespace Sys2Proof.Machine

/-- Takes the command at the front of the queue and runs it with the rest of the queue; on an empty queue a nanosecond passes (log
entry 72). -/
def step (s : State) : Host.Outcome State Fault Refusal :=
  match s.pending with
  | [] => .next s.tick
  | c :: rest => exec c { s with pending := rest }

/-- s with the command that a word of the opcode table spells at the front of its queue. The table gives no row any bits, so no word
spells a command. -/
def State.withFetchWord (s : State) (nbits w : Nat) : State :=
  match Sys2Proof.decodeTableWord nbits w with
  | some c => { s with pending := c :: s.pending }
  | none => s

end Sys2Proof.Machine
end

