-- ==== Sys2Proof/WellFormed.lean ====
section
/-! DEFINITION. Which commands are well formed: every operand within the range that the spec gives what it names (a ring number, a
tag, a die, a link, a message's field). The meanings are total and run on any operands; a sender sends only well-formed commands. -/

namespace Sys2Proof

/-- The fields of a transport packet within their widths (R261). -/
def Machine.Pkt.wf (p : Machine.Pkt) : Bool :=
  p.ptype < 16 && p.path < 16 && p.mapGen < 65536 && p.dstQp < 2 ^ 20 && p.srcStation < 1024 && p.version < 4 && p.psn < 2 ^ 32 &&
    p.tstamp < 2 ^ 32 && p.msn < 65536 && p.w18 < 2 ^ 32 && p.addr < 2 ^ 48 && p.w28 < 2 ^ 32 && p.payload.length ≤ 4096

/-- Whether every operand of a command lies within its range. -/
def Instr.wf : Instr → Bool
  | .registerWrite a n v => a < 2 ^ 64 && 1 ≤ n && n ≤ 8 && v < 2 ^ 64
  | .counterSnap a => a < 2 ^ 64
  | .sCounterClear a => a < 2 ^ 64
  | .cellArrayClockGate h => h < 12
  | .cellArrayPowerGate h => h < 12
  | .unitWakeDone h => h < 12
  | .retentionStandbyEntry => true
  | .retentionStandbyExit width speed _ => width < 5 && speed < 7
  | .meringueEntry => true
  | .meringueExit cause => cause < 3
  | .feuilleWrite sr tag => sr < 65536 && tag < 65536
  | .feuilleRead sr tag => sr < 65536 && tag < 65536
  | .feuilleCompletion sr tag => sr < 65536 && tag < 65536
  | .srDoorbell n off size word => n < 65536 && off < 4096 && size < 65 && word < 2 ^ 64
  | .crDoorbell n off size word => n < 65536 && off < 4096 && size < 65 && word < 2 ^ 64
  | .eqDoorbell n off size word => n < 65536 && off < 4096 && size < 65 && word < 2 ^ 64
  | .descriptorFetch n => n < 65536
  | .crEntryWrite n => n < 65536
  | .moderationTimerExpiry n => n < 65536
  | .eventWrite n => n < 4096
  | .abort sr tag => sr < 65536 && tag < 65536
  | .adminRingEnable word => word < 2 ^ 32
  | .adminRingRelease word => word < 2 ^ 32
  | .leaseRenew word => word < 2 ^ 32
  | .leaseExpiry => true
  | .createSr sr tag => sr < 65536 && tag < 65536
  | .createCr sr tag => sr < 65536 && tag < 65536
  | .createEq sr tag => sr < 65536 && tag < 65536
  | .destroyRing sr tag => sr < 65536 && tag < 65536
  | .adoptSlice sr tag => sr < 65536 && tag < 65536
  | .queryRing sr tag => sr < 65536 && tag < 65536
  | .cellStoreCeRewrite c off => c < 1536 && off < 2 ^ 21
  | .cellStoreScrub c off => c < 1536 && off < 2 ^ 21
  | .crumbSend h _ _ _ => h < 12
  | .crumbHop _ _ _ => true
  | .creditReturn _ => true
  | .storeSlotAccess k slot => k < 1536 && slot.bad ≤ 2
  | .frameTableCommit h => h < 12
  | .frameTableApply h => h < 12
  | .spineTableCommit h => h < 12
  | .spineTableApply h => h < 12
  | .spineSlot h _ _ arb => h < 12 && (match arb with | some (src, dst, _) => src ≤ 16 && dst < 12 | none => true)
  | .dvfsRequest h v => h < 12 && v < 8
  | .dvfsSwitch h => h < 12
  | .streamLineIssue k j => k < 1536 && j < 32
  | .streamLineReturn k j => k < 1536 && j < 32
  | .streamWriteVisible k j => k < 1536 && j < 32
  | .cellHaltRequest c => c < 1536
  | .cellResume c => c < 1536
  | .cellStep c _ => c < 1536
  | .cellFaultClear c => c < 1536
  | .nop k _ => k < 1552
  | .mov k _ => k < 1552
  | .movi k _ => k < 1552
  | .moviu k _ => k < 1552
  | .clr k _ => k < 1552
  | .cast k _ => k < 1552
  | .mkaddr k _ => k < 1552
  | .movs k _ => k < 1552
  | .movg k _ => k < 1552
  | .retag k _ => k < 1552
  | .ld k _ => k < 1552
  | .st k _ => k < 1552
  | .ldp k _ => k < 1552
  | .stp k _ => k < 1552
  | .xadd k _ => k < 1552
  | .xchg k _ => k < 1552
  | .xcas k _ => k < 1552
  | .poolAccessReturn k => k < 1552
  | .add k _ => k < 1552
  | .sub k _ => k < 1552
  | .and k _ => k < 1552
  | .or k _ => k < 1552
  | .xor k _ => k < 1552
  | .not k _ => k < 1552
  | .neg k _ => k < 1552
  | .abs k _ => k < 1552
  | .shl k _ => k < 1552
  | .shr k _ => k < 1552
  | .sar k _ => k < 1552
  | .rol k _ => k < 1552
  | .ror k _ => k < 1552
  | .min k _ => k < 1552
  | .max k _ => k < 1552
  | .cmpeq k _ => k < 1552
  | .cmpne k _ => k < 1552
  | .cmplt k _ => k < 1552
  | .cmple k _ => k < 1552
  | .popc k _ => k < 1552
  | .clz k _ => k < 1552
  | .ctz k _ => k < 1552
  | .mul k _ => k < 1552
  | .mulh k _ => k < 1552
  | .mac k _ => k < 1552
  | .div k _ => k < 1552
  | .multiplierResultLand k => k < 1552
  | .dividerResultLand k => k < 1552
  | .fadd k _ => k < 1552
  | .fsub k _ => k < 1552
  | .fmul k _ => k < 1552
  | .ffma k _ => k < 1552
  | .fmin k _ => k < 1552
  | .fmax k _ => k < 1552
  | .fcmpeq k _ => k < 1552
  | .fcmplt k _ => k < 1552
  | .fcmple k _ => k < 1552
  | .icvt k _ => k < 1552
  | .br k _ => k < 1552
  | .brt k _ => k < 1552
  | .brf k _ => k < 1552
  | .jmp k _ => k < 1552
  | .call k _ => k < 1552
  | .brk k _ => k < 1552
  | .tret k _ => k < 1552
  | .wend k _ => k < 1552
  | .swait k _ => k < 1552
  | .sfence k _ => k < 1552
  | .chwait k _ => k < 1552
  | .chfree k _ => k < 1552
  | .chspace k _ => k < 1552
  | .chput k _ => k < 1552
  | .vadd k _ => k < 1552
  | .vsub k _ => k < 1552
  | .vmul k _ => k < 1552
  | .vfma k _ => k < 1552
  | .vmin k _ => k < 1552
  | .vmax k _ => k < 1552
  | .vabs k _ => k < 1552
  | .vneg k _ => k < 1552
  | .vcmpeq k _ => k < 1552
  | .vcmplt k _ => k < 1552
  | .vcmple k _ => k < 1552
  | .vsel k _ => k < 1552
  | .vadds k _ => k < 1552
  | .vsubs k _ => k < 1552
  | .vcvt k _ => k < 1552
  | .vredsum k _ => k < 1552
  | .vredmax k _ => k < 1552
  | .vqtb8 k _ => k < 1552
  | .vqtb4 k _ => k < 1552
  | .vdqtb8 k _ => k < 1552
  | .vdqtb4 k _ => k < 1552
  | .vqmx k _ => k < 1552
  | .vdqmx k _ => k < 1552
  | .tzero k _ => k < 1552
  | .tmma k _ => k < 1552
  | .tmmax k _ => k < 1552
  | .tload k _ => k < 1552
  | .tread k _ => k < 1552
  | .sfnExp2 k _ => k < 1552
  | .sfnLog2 k _ => k < 1552
  | .sfnRcp k _ => k < 1552
  | .sfnRsqrt k _ => k < 1552
  | .sfnSin k _ => k < 1552
  | .sfnCos k _ => k < 1552
  | .sfnTanh k _ => k < 1552
  | .sfnErf k _ => k < 1552
  | .unitInstructionFinish k u => k < 1552 && u < 3
  | .wfi k _ => k < 1552
  | .iret k _ => k < 1552
  | .ldd k _ => k < 1552
  | .std k _ => k < 1552
  | .deferredTrap k => k < 1552
  | .interruptEntry c => c < 16
  | .pipeLaunch sr tag => sr < 65536 && tag < 65536
  | .pipeLoad sr tag => sr < 65536 && tag < 65536
  | .pipeLoadCommit pn => pn < 1024
  | .pipeUnload sr tag => sr < 65536 && tag < 65536
  | .pipeArm sr tag => sr < 65536 && tag < 65536
  | .pipeDisarm sr tag => sr < 65536 && tag < 65536
  | .pipeHalt sr tag => sr < 65536 && tag < 65536
  | .pipeReset sr tag => sr < 65536 && tag < 65536
  | .pipeQuery sr tag => sr < 65536 && tag < 65536
  | .waveStart pn => pn < 1024
  | .waveEnd pn => pn < 1024
  | .beatTrigger pn => pn < 1024
  | .tlnEnable => true
  | .tlnDisable => true
  | .tlnTimeRead off bytes => off ≤ 7 && 1 ≤ bytes && bytes ≤ 8
  | .ptpMessage off => off.port < 256 && off.kind < 16
  | .beatAlignment marks => marks.all (fun m => m.1 < 256 && m.2.1 < 65536 && m.2.2 < 2 ^ 64)
  | .referenceLoss => true
  | .holdoverExpiry => true
  | .gateChange port => port < 65536
  | .txWindowOpen w => w < 4096
  | .txWindowClose w => w < 4096
  | .scheduleStage => true
  | .stageCheckDone k => k < 3
  | .scheduleArm => true
  | .scheduleCancel => true
  | .activation => true
  | .collLoad sr tag => sr < 65536 && tag < 65536
  | .collStep sr tag => sr < 65536 && tag < 65536
  | .collStepStart n => n < 4096
  | .collStepCommit n _ => n < 4096
  | .collUnload sr tag => sr < 65536 && tag < 65536
  | .collReset sr tag => sr < 65536 && tag < 65536
  | .collResid sr tag => sr < 65536 && tag < 65536
  | .collQuery sr tag => sr < 65536 && tag < 65536
  | .collPeerTimeout n => n < 4096
  | .regionZeroDone n => n < 65536
  | .memCopy sr tag => sr < 65536 && tag < 65536
  | .memFill sr tag => sr < 65536 && tag < 65536
  | .memConvert sr tag => sr < 65536 && tag < 65536
  | .memEncode sr tag => sr < 65536 && tag < 65536
  | .memDecode sr tag => sr < 65536 && tag < 65536
  | .patrolScrub h => h < 12
  | .hubStoreScrub a sr tag k upset => a < 2 ^ 64 && sr < 65536 && tag < 65536 && k < 16 && upset ≤ 2
  | .dramRefresh h ch => h < 12 && ch < 96
  | .mr4Poll h ch rate => h < 12 && ch < 96 && rate < 16
  | .dramPowerDown h ch => h < 12 && ch < 96
  | .translationEnable word => word < 2 ^ 64
  | .faultRecordWrite slot => slot < 4097
  | .faultResponse word => word < 2 ^ 64
  | .stallTimeout sr tag => sr < 65536 && tag < 65536
  | .invalidate word => word < 2 ^ 64
  | .invalidationDone => true
  | .atsTranslationCompletion asid page _ _ addr => asid < 65536 && page < 2 ^ 52 && addr < 2 ^ 64
  | .atsInvalidateRequest pasid itag => pasid < 2 ^ 20 && itag < 32
  | .prgResponse index pasid code => index < 512 && pasid < 2 ^ 20 && code < 16
  | .tmtWrite sr tag => sr < 65536 && tag < 65536
  | .tmtWriteImm sr tag => sr < 65536 && tag < 65536
  | .tmtRead sr tag => sr < 65536 && tag < 65536
  | .tmtSend sr tag => sr < 65536 && tag < 65536
  | .tmtFetchAdd sr tag => sr < 65536 && tag < 65536
  | .tmtCompareSwap sr tag => sr < 65536 && tag < 65536
  | .tmtAccumulate sr tag => sr < 65536 && tag < 65536
  | .tmtArm sr tag => sr < 65536 && tag < 65536
  | .tmtRecv sr tag => sr < 65536 && tag < 65536
  | .tmtQpCreate sr tag => sr < 65536 && tag < 65536
  | .tmtQpModify sr tag => sr < 65536 && tag < 65536
  | .tmtQpDestroy sr tag => sr < 65536 && tag < 65536
  | .tmtQpQuery sr tag => sr < 65536 && tag < 65536
  | .tmtKeyBind sr tag => sr < 65536 && tag < 65536
  | .tmtKeyRevoke sr tag => sr < 65536 && tag < 65536
  | .tmtCounter sr tag => sr < 65536 && tag < 65536
  | .tmtPacketTransmit qn _ => qn < 2 ^ 20
  | .rxWrite p => p.wf
  | .rxWriteImm p => p.wf
  | .rxSend p => p.wf
  | .rxAccumulate p => p.wf
  | .rxReadReq p => p.wf
  | .rxReadResp p => p.wf
  | .rxAtomicReq p => p.wf
  | .rxAtomicResp p => p.wf
  | .rxAck p => p.wf
  | .rxCtrlStopNotice p => p.wf
  | .rxCtrlStepCheck p => p.wf
  | .rxCtrlClose p => p.wf
  | .messageDelivery qn => qn < 2 ^ 20
  | .ackTimer qn => qn < 2 ^ 20
  | .retransmitTimeout qn k => qn < 2 ^ 20 && k < 16
  | .rnrWaitExpiry qn => qn < 2 ^ 20
  | .pathSuspectExpiry qn k => qn < 2 ^ 20 && k < 16
  | .rekeyGraceExpiry qn => qn < 2 ^ 20
  | .qpNumberRelease qn => qn < 2 ^ 20
  | .ccParameterApply sl => sl < 64
  | .frameReceive o j _ _ _ => o < 32 && j < 8
  | .pfcRefresh p n c => p < 4 && n < 64 && c < 8
  | .pfcReceive o j vector quanta => o < 32 && j < 8 && vector < 256 && quanta.length = 8
  | .pfcPauseExpiry p n c => p < 4 && n < 64 && c < 8
  | .transmitSelect p n => p < 4 && n < 64
  | .firmwareFrameSend p _ _ => p < 4
  | .graphCommit p => p < 4
  | .graphSwap p => p < 4
  | .shaperWriteApply p kind _ => p < 4 && kind < 4
  | .meterWrite p _ entry => p < 4 && entry < 2 ^ 256
  | .octetEnable o => o < 32
  | .octetDisable o => o < 32
  | .ethernetLinkUp o j => o < 32 && j < 8
  | .ethernetLinkDown o j => o < 32 && j < 8
  | .denuxLinkEnable n => n < 16
  | .denuxLinkDisable n => n < 16
  | .denuxSignalDetect n => n < 16
  | .denuxTrainLock n => n < 16
  | .denuxTrainTimeout n => n < 16
  | .denuxAlignDone n _ => n < 16
  | .denuxInitDone n => n < 16
  | .denuxRetrainEntry n => n < 16
  | .denuxRetrainDone n ack => n < 16 && ack < 2 ^ 32
  | .denuxRetrainTimeout n => n < 16
  | .flitTransmit n => n < 16
  | .linkFlitReceive n bytes => n < 16 && bytes.length = 256
  | .dataFlitReceive n bytes _ => n < 16 && bytes.length = 256
  | .dnxWrite n _ => n < 16
  | .dnxReadReq n _ => n < 16
  | .dnxReadCpl n _ => n < 16
  | .dnxAtomicReq n _ => n < 16
  | .dnxAtomicCpl n _ => n < 16
  | .dnxDoorbell n _ => n < 16
  | .dnxTmtMessage n _ _ => n < 16
  | .dnxBeat n _ => n < 16
  | .dnxCplTimeout n tag => n < 16 && tag < 65536
  | .windowReduceDone w => w < 1024
  | .nvmeControllerEnable mps aqa asq acq => mps < 16 && aqa < 2 ^ 32 && asq < 2 ^ 64 && acq < 2 ^ 64
  | .nvmeControllerReset => true
  | .nvmeShutdown => true
  | .nvmeSqDoorbell q tail => q < 65 && tail < 65536
  | .nvmeCqDoorbell q head => q < 65 && head < 65536
  | .identify sq cmd _ => sq < 65 && cmd < 2 ^ 512
  | .getLogPage sq cmd _ => sq < 65 && cmd < 2 ^ 512
  | .setFeatures sq cmd => sq < 65 && cmd < 2 ^ 512
  | .getFeatures sq cmd => sq < 65 && cmd < 2 ^ 512
  | .createIoSq sq cmd => sq < 65 && cmd < 2 ^ 512
  | .createIoCq sq cmd => sq < 65 && cmd < 2 ^ 512
  | .deleteIoSq sq cmd => sq < 65 && cmd < 2 ^ 512
  | .deleteIoCq sq cmd => sq < 65 && cmd < 2 ^ 512
  | .nvmeAbort sq cmd => sq < 65 && cmd < 2 ^ 512
  | .asynchronousEventRequest sq cmd => sq < 65 && cmd < 2 ^ 512
  | .deviceSelfTest sq cmd => sq < 65 && cmd < 2 ^ 512
  | .selfTestResume => true
  | .selfTestDone _ => true
  | .nvmeRead sq cmd _ => sq < 65 && cmd < 2 ^ 512
  | .nvmeWrite sq cmd data => sq < 65 && data.bad < 5 && cmd < 2 ^ 512
  | .nvmeFlush sq cmd => sq < 65 && cmd < 2 ^ 512
  | .writeZeroes sq cmd => sq < 65 && cmd < 2 ^ 512
  | .datasetManagement sq cmd data => sq < 65 && data.bad < 5 && cmd < 2 ^ 512
  | .batchClose n => n < 257
  | .batchCommit n => n < 257
  | .homeWriteDone n => n < 257
  | .superblockWrite n => n < 257
  | .replay n => n.ns < 257
  | .driveCompletion _ nv => nv < 32768
  | .storRead sr tag => sr < 65536 && tag < 65536
  | .storWrite sr tag => sr < 65536 && tag < 65536
  | .storFlush sr tag => sr < 65536 && tag < 65536
  | .storWriteZeroes sr tag => sr < 65536 && tag < 65536
  | .storDeallocate sr tag => sr < 65536 && tag < 65536
  | .nsDefine sr tag _ _ _ => sr < 65536 && tag < 65536
  | .nsDelete sr tag => sr < 65536 && tag < 65536
  | .nsQuery sr tag => sr < 65536 && tag < 65536
  | .peerExport sr tag => sr < 65536 && tag < 65536
  | .peerUnexport sr tag => sr < 65536 && tag < 65536
  | .capsuleCommand qn _ _ => qn < 2 ^ 20
  | .capsuleResponse qn _ => qn < 2 ^ 20
  | .ckpJobLoad sr tag => sr < 65536 && tag < 65536
  | .ckpJobUnload sr tag => sr < 65536 && tag < 65536
  | .ckpSnapshot sr tag _ => sr < 65536 && tag < 65536
  | .guardArm n => n < 16
  | .copierPage n h => n < 16 && h < 12
  | .pageCopyDone n h => n < 16 && h < 12
  | .snapshotStreamDone n => n < 16
  | .buddyVerify n _ => n < 16
  | .ckpSeal sr tag => sr < 65536 && tag < 65536
  | .ckpRestore sr tag _ => sr < 65536 && tag < 65536
  | .ckpWatch sr tag => sr < 65536 && tag < 65536
  | .ckpPersist sr tag _ => sr < 65536 && tag < 65536
  | .ckpQuery sr tag => sr < 65536 && tag < 65536
  | .heartbeatSend n => n < 16
  | .watchTick n => n < 16
  | .kceCipher sr tag _ => sr < 65536 && tag < 65536
  | .kceMac sr tag _ => sr < 65536 && tag < 65536
  | .kceHash sr tag => sr < 65536 && tag < 65536
  | .kceSign sr tag _ => sr < 65536 && tag < 65536
  | .kceVerify sr tag _ => sr < 65536 && tag < 65536
  | .kceKeyImport sr tag _ => sr < 65536 && tag < 65536
  | .kceKeyGenerate sr tag => sr < 65536 && tag < 65536
  | .kceKem sr tag _ => sr < 65536 && tag < 65536
  | .kceKeyDestroy sr tag => sr < 65536 && tag < 65536
  | .kceKeyQuery sr tag _ => sr < 65536 && tag < 65536
  | .kceUnitRelease sr tag _ => sr < 65536 && tag < 65536
  | .kceSuspend => true
  | .kceResume => true
  | .entropyHealthFail => true
  | .crcData8 _ _ _ => true
  | .crcData16 _ _ _ => true
  | .crcData32 _ _ _ => true
  | .crcFifoProcess _ => true
  | .crcConfigWrite _ _ _ _ => true
  | .crcResultRead _ => true
  | .sliceCtl sr tag => sr < 65536 && tag < 65536
  | .sliceQuota sr tag => sr < 65536 && tag < 65536
  | .slicePasid sr tag => sr < 65536 && tag < 65536
  | .regionAlloc sr tag => sr < 65536 && tag < 65536
  | .regionFree sr tag => sr < 65536 && tag < 65536
  | .regionQuery sr tag => sr < 65536 && tag < 65536
  | .sliceQuiesced sl => sl < 64
  | .schedWeightApply sl => sl < 64
  | .bar0AccessBad fn a _ _ => fn < 2 && a < 2 ^ 64
  | .bar4Read w off _ => w < 4096 && off < 2 ^ 24
  | .bar4Write w off _ => w < 4096 && off < 2 ^ 24
  | .winSync seq => seq < 2 ^ 32
  | .winSyncDone => true
  | .msixUnmask fn v => fn < 2 && v < 2049
  | .hostReadCompletion fn tag status _ => fn < 2 && tag < 16384 && status < 5
  | .completionTimeout tag => tag < 16384
  | .poisonedWrite fn => fn < 2
  | .bmeClear fn => fn < 2
  | .bmeSet fn opts _ => fn < 2 && opts < 4096
  | .flr fn => fn < 2
  | .flrDone fn => fn < 2
  | .d3hotEntry fn => fn < 2
  | .d0Entry fn => fn < 2
  | .perstAssert => true
  | .perstDeassert width speed _ => width < 5 && speed < 7
  | .hotReset width speed _ => width < 5 && speed < 7
  | .l1Entry sst => sst < 3
  | .l1Exit => true
  | .l0pNarrow => true
  | .l0pWiden => true
  | .watchdogExpiry k => k < 16
  | .coreCrash k cause => k < 16 && cause < 256
  | .coreRestartDone k _ => k < 16
  | .fwQuery sr tag => sr < 65536 && tag < 65536
  | .fwCore sr tag => sr < 65536 && tag < 65536
  | .setEndpointId b op eid _ => b < 3 && op < 4 && eid < 256
  | .getEndpointId b _ => b < 3
  | .getEndpointUuid b _ => b < 3
  | .getMctpVersionSupport b type _ => b < 3 && type < 256
  | .getMessageTypeSupport b _ => b < 3
  | .dynamicAddressAssign addr => addr < 128
  | .rstdaa => true
  | .mcClockWake => true
  | .getTid b _ => b < 3
  | .setTid b tid _ => b < 3 && tid < 256
  | .getPldmVersion b type _ => b < 3 && type < 256
  | .getPldmTypes b _ => b < 3
  | .getPldmCommands b type _ => b < 3 && type < 256
  | .getPdrRepositoryInfo b _ => b < 3
  | .getPdr b record _ => b < 3 && record < 2 ^ 32
  | .getSensorReading b sensor _ => b < 3 && sensor < 65536
  | .getStateSensorReadings b _ => b < 3
  | .setNumericEffecterValue b eff v _ => b < 3 && eff < 65536 && v < 2 ^ 32
  | .getNumericEffecterValue b eff _ => b < 3 && eff < 65536
  | .setStateEffecterStates b eff v _ => b < 3 && eff < 65536 && v < 256
  | .getStateEffecterStates b eff _ => b < 3 && eff < 65536
  | .setEventReceiver b tid eid _ _ => b < 3 && tid < 256 && eid < 256
  | .pollForPlatformEventMessage b _ => b < 3
  | .platformEventMessage => true
  | .mcRegisterRead b dpa n _ => b < 3 && dpa < 2 ^ 64 && 1 ≤ n && n ≤ 8
  | .mcCapture b dpa _ => b < 3 && dpa < 2 ^ 64
  | .mcArmActivation b word _ => b < 3 && word < 2 ^ 128
  | .mcConfirm b _ => b < 3
  | .getVersion b eid _ _ => b < 3 && eid < 256
  | .getCapabilities b eid _ _ => b < 3 && eid < 256
  | .negotiateAlgorithms b eid _ _ => b < 3 && eid < 256
  | .getDigests b eid _ _ => b < 3 && eid < 256
  | .getCertificate b eid _ _ => b < 3 && eid < 256
  | .challenge b eid _ _ => b < 3 && eid < 256
  | .getMeasurements b eid _ _ => b < 3 && eid < 256
  | .spdmPqSignature b eid _ => b < 3 && eid < 256
  | .spdmPqChain b eid _ => b < 3 && eid < 256
  | .sensorSample temps => temps.length = 96
  | .railSample rails => rails.length = 9
  | .flowIdleTimeout p i => p < 4 && i < 65536
  | .flowActiveTimeout p i => p < 4 && i < 65536
  | .flowExportEnable p => p < 4
  | .flowExportDisable p => p < 4
  | .ipfixMessageFlush p _ => p < 4
  | .templateTimer p => p < 4
  | .queryDeviceIdentifiers b _ => b < 3
  | .getFirmwareParameters b _ => b < 3
  | .requestUpdate b maxXfer chunk _ => b < 3 && maxXfer < 2 ^ 32 && chunk < 2 ^ 32
  | .passComponentTable b _ _ => b < 3
  | .updateComponent b comp size _ => b < 3 && comp < 65536 && size < 2 ^ 32
  | .requestFirmwareData => true
  | .firmwareDataReceive b _ _ => b < 3
  | .verifyComplete => true
  | .activateFirmware b _ _ => b < 3
  | .getStatus b _ => b < 3
  | .cancelUpdateComponent b _ => b < 3
  | .cancelUpdate b _ => b < 3
  | .activationArm word => word < 2 ^ 128
  | .activationCancel word => word < 2 ^ 128
  | .firmwareActivation straps => straps < 16
  | .trialConfirm => true
  | .trialTimeout straps => straps < 16
  | .xtalAonLoss => true
  | .pllLockLoss n => n < 64
  | .crossingTimeout die receiver _ b => die < 17 && receiver < 6
  | .powerOn straps clks _ => straps < 16 && clks < 256
  | .firmwareReady width speed _ => width < 5 && speed < 7
  | .deviceReset straps => straps < 16
  | .dieWarmReset word => word < 2 ^ 32
  | .dieWarmResetDone die => die < 17
  | .sliceResetDone sr tag => sr < 65536 && tag < 65536
  | .brownOut => true
  | .brownOutRecovery straps => straps < 16
  | .inputCollapse => true
  | .throttleStep => true
  | .throttleRaise => true
  | .timePpsEdge _ => true
  | .timePpsOutPulse => true
  | .portDieCoreGate p => p < 4
  | .configurationRetryEnd => true
  | .undefinedEncoding k => k < 1552
  | .unsupportedSpdmRequest b eid code _ => b < 3 && eid < 256 && code < 256
  | .interruptCoalescingTime q => q < 65

end Sys2Proof
end

