-- ==== Sys2Proof/Safety.lean ====
section
/-! DEFINITION. What counts as a safe run of the block: the terms in which claims about runs are stated. The block names no command
that stops it, so a safe step is one that answers a next state; what a run must keep is the form of the data that the state holds. -/

namespace Sys2Proof.Machine

/-- The step from s answers a next state: no fault, no refusal. -/
def State.stepsOn (s : State) : Prop := ∃ t, step s = .next t

/-- A step leads from s to t. -/
def State.stepsTo (s t : State) : Prop := step s = .next t

/-- A run of steps, each from where the one before it ended. -/
inductive State.reaches : State → State → Prop
  | refl (s : State) : State.reaches s s
  | step (s t u : State) (h : State.reaches s t) (k : State.stepsTo t u) : State.reaches s u

/-- Every command that waits is well formed. -/
def State.waitingWf (s : State) : Prop := ∀ c ∈ s.pending, Sys2Proof.Instr.wf c = true

/-- The bytes of memory in their canonical form: addresses rising, and no entry equal to what an unwritten byte reads as. -/
def State.memOk (s : State) : Prop := Mem.wf s.mem.bytes = true

/-- A completion with this status stands committed for the tag (R47, R49). -/
def State.reports (s : State) (sr tag status : Nat) : Prop := ∃ c ∈ s.ring.unwritten, c.sr = sr ∧ c.tag = tag ∧ c.status = status

/-- A completion with this status and this result stands committed for the tag (R47, R49). -/
def State.reportsWith (s : State) (sr tag status result : Nat) : Prop :=
  ∃ c ∈ s.ring.unwritten, c.sr = sr ∧ c.tag = tag ∧ c.status = status ∧ c.result = result

/-- No snapshot of the descriptor runs: its commit then leaves memory alone (R366). -/
def State.noSnap (s : State) (sr tag : Nat) : Prop := ∀ k ∈ s.ckp.jobs, ∀ r, k.2.run = some r → ¬(r.sr = sr ∧ r.tag = tag)

/-- The descriptor j stands at (sr, tag), has started, carries the opcode, and may run: the control core that accepts its family runs
(R435), no write of it to accelerator memory is still to land (R333), none has waited on the copy guard (R230, R365), and
no snapshot of it runs (R366). -/
def State.ready (s : State) (sr tag opcode : Nat) (j : Job) : Prop :=
  s.job sr tag = some j ∧ j.phase = .started ∧ dOpcode j.desc = opcode ∧
  (∀ k, acceptingCore opcode = some k → s.coreState k = 1) ∧
  (s.pcie.wroteLinks.filter (fun w => w.1 = sr && w.2.1 = tag)) = [] ∧
  s.guardHolds sr tag = false ∧ Tbl.find s.mem.guardFail (ownerNum sr tag) = none ∧ s.noSnap sr tag

/-- Nothing that the descriptor (sr, tag) wrote keeps its completion back: no write of it is still to land on a link (R333), none waits on the
copy guard or has met an uncorrectable line there (R230, R365), and no snapshot of it runs (R366). -/
def State.allLanded (s : State) (sr tag : Nat) : Prop :=
  (s.pcie.wroteLinks.filter (fun w => w.1 = sr && w.2.1 = tag)) = [] ∧ s.guardHolds sr tag = false ∧
  Tbl.find s.mem.guardFail (ownerNum sr tag) = none ∧ s.noSnap sr tag

/-- The command answers a next state, and p holds of it. -/
def answers (c : Sys2Proof.Instr) (s : State) (p : State → Prop) : Prop := ∃ t, exec c s = .next t ∧ p t

/-- An invariant that every step keeps, from every state that has it. -/
def State.kept (p : State → Prop) : Prop := ∀ s t, p s → State.stepsTo s t → p t

/-- What a command leaves as it was in every unit but rings, host interface, memory, translation, keys, storage, transport and counters: what the
commit of a descriptor can reach (R47, R52) is no part of it. -/
def State.sameUnits (s t : State) : Prop :=
  t.pending = s.pending ∧ t.slices = s.slices ∧ t.pasids = s.pasids ∧ t.feus = s.feus ∧ t.seqs = s.seqs ∧ t.lat = s.lat ∧ t.pipes = s.pipes ∧
  t.chans = s.chans ∧ t.colls = s.colls ∧ t.fw = s.fw ∧ t.tln = s.tln ∧ t.pkt = s.pkt ∧ t.hubPow = s.hubPow ∧ t.dev = s.dev ∧ t.upd = s.upd ∧
  t.clk = s.clk ∧ t.phys = s.phys

/-! ## Packets that arrive -/

/-- The packet passes the first checks of R274: the transport runs, its QP sends and receives, the version is 1, it is in clear on a QP that is not
encrypted, its age is in range (R284), and it is of neither the scheduled class nor the late class. -/
def State.hears (s : State) (p : Pkt) (q : Qp) : Prop :=
  s.rf R.TMT_CTRL 16 1 = 1 ∧ Tbl.find s.tmt.qps p.dstQp = some q ∧ q.state = .rts ∧ p.version = 1 ∧ q.encrypt = false ∧ p.enc = false ∧
  -1000000 ≤ signed 32 (psnDiff s.timeNs p.tstamp) ∧ signed 32 (psnDiff s.timeNs p.tstamp) ≤ 8000000 ∧ p.sched = false ∧ p.late = false

/-- q as the packet p, which comes at time `now`, leaves it before its own effect, if it is no acknowledgement. -/
def Qp.heard (q : Qp) (now : Nat) (p : Pkt) : Qp :=
  if p.ptype = 9 then q
  else { q with sinceAck := q.sinceAck + 1, ackSince := if q.sinceAck = 0 then now else q.ackSince, ceCount := q.ceCount + b2n p.ce, echoTs := p.tstamp, echoPath := p.path }

/-- s with an arriving packet counted, and noted as what the next acknowledgement answers (R281, R286). -/
def State.heard (s : State) (p : Pkt) : State :=
  let s := s.cnt R.TMT_RX_PKTS
  let s := if p.ce then s.cnt R.TMT_ECN_CE else s
  let s := s.countLate p.dstQp p.payload.length
  if p.ptype = 9 then s else s.updQp p.dstQp (fun q => q.heard s.timeNs p)

/-- The packet's PSN lies within the window of its QP and has not come, and there is a reorder block for it (R274, R280). -/
def State.inWindow (s : State) (p : Pkt) (q : Qp) : Prop :=
  psnDiff p.psn q.base < 65536 ∧ q.rxSet.contains p.psn = false ∧ s.blockFor q q.rxSet p.psn = true

/-! ## Messages of a Denux link -/

/-- Nothing holds message m of link n back: no earlier one waits on the copy guard, and m does not meet a guarded page (R332, R366). -/
def State.linkFree (s : State) (n : Nat) (m : List Byte) : Prop :=
  (s.link n).held = [] ∧ s.dnxHeld n = false ∧ s.dnxAtomicMeets n m = none

/-- s with no inbound message of link n waiting. -/
def State.served (s : State) (n : Nat) : State := s.updLink n (fun l => { l with held := [] })

/-- Link n is ACTIVE and message m, well formed and of type ty, is the next of it to be served (R329, R330). -/
def State.linkTakes (s : State) (n ty : Nat) (m : List Byte) : Prop :=
  n < 16 ∧ s.dnxState n = 5 ∧ mType m = ty ∧ msgOk (s.linkPeer n) m = true ∧ s.linkFree n m

/-- s with the units of a message that has left the reassembly buffer freed (R331). -/
def State.took (s : State) (n : Nat) (m : List Byte) : State :=
  s.updLink n (fun l => { l with freed := l.freed.add (typeClass (mType m)) (units m) })

/-! ## Commands of storage -/

/-- PF1 takes commands, and the next one of submission queue sq is cmd, whose opcode is op (R340). -/
def State.nvmeNext (s : State) (sq cmd op : Nat) : Prop :=
  s.stor.rdy = true ∧ s.stor.shut = false ∧ s.stor.cfs = false ∧ s.dmaOk 1 = true ∧ s.coreState 2 = 1 ∧ nvOp cmd = op ∧
  ∃ q, Tbl.find s.stor.sqs sq = some q ∧ q.head ≠ q.tail

/-- s with the head of a submission queue moved past the command it has given. -/
def State.nvmeTaken (s : State) (sq : Nat) : State := match Tbl.find s.stor.sqs sq with
  | some q => { s with stor := { s.stor with sqs := Tbl.put s.stor.sqs sq { q with head := (q.head + 1) % q.size } } }
  | none => s

/-- An I/O command of PF1 on a namespace x that it sees and that is ready. -/
def State.nvmeIoNext (s : State) (sq cmd op : Nat) (x : Ns) : Prop :=
  s.nvmeNext sq cmd op ∧ sq ≠ 0 ∧ s.pf1Ns (nvNsid cmd) = some x ∧ x.notReady = false

/-- A storage-direct descriptor that passes its checks (R356, R357), for namespace x. -/
def State.storNext (s : State) (sr tag op : Nat) (j : Job) (x : Ns) : Prop :=
  s.ready sr tag op j ∧ s.stor.ready.any (fun r => r.1 = sr && r.2.1 = tag) = false ∧
  rsvdZero j.desc ([(8, 5)] ++ (if op = 0x52 then [] else [(16, 12)]) ++ (if op = 0x50 ∨ op = 0x51 then [(28, 1), (32, 4), (40, 8)] else [])) = true ∧
  dby j.desc 12 1 < (if op = 0x51 ∨ op = 0x53 ∨ op = 0x54 then 2 else 1) ∧ ((op = 0x50 ∨ op = 0x51) → dby j.desc 28 1 ≤ 2 ∧ dby j.desc 40 8 % blk = 0) ∧
  (op ≠ 0x52 → 1 ≤ sdNlb j.desc ∧ sdNlb j.desc ≤ (if op = 0x50 ∨ op = 0x51 then 256 else 65536) ∧ sdSlba j.desc + sdNlb j.desc ≤ x.blocks) ∧
  s.ns (dby j.desc 8 4) = some x ∧ x.owner = j.slice ∧ x.needReplay = false ∧ x.notReady = false ∧ ((op = 0x51 ∨ op = 0x53 ∨ op = 0x54) → x.ro = false)

/-! ## Checkpoints -/

/-- A checkpoint descriptor that names a loaded job of its slice which is in effect (R361, R379). -/
def State.ckNext (s : State) (sr tag op : Nat) (used : List (Nat × Nat)) (j : Job) (n : Nat) (k : CkJob) : Prop :=
  s.ready sr tag op j ∧ rsvdZero j.desc ((8, 4) :: used) = true ∧ s.ckJob (dby j.desc 8 4) j.slice = some (n, k) ∧ (k.standby = false ∨ s.ckIndexOk k = true)

/-! ## Crypto descriptors -/

/-- A crypto descriptor that starts in an engine that runs, with its header, its direction, its priority and its locations in range (R389, R394). -/
def State.kceNext (s : State) (sr tag op : Nat) (used : List (Nat × Nat)) (dir : Bool) (j : Job) : Prop :=
  s.ready sr tag op j ∧ (∀ m ∈ s.kce.msgs, ¬(m.sr = sr ∧ m.tag = tag)) ∧ s.kceState ≠ 1 ∧ s.kceState ≠ 2 ∧ rsvdZero j.desc ((13, 3) :: used) = true ∧
  dby j.desc 13 1 ≤ 1 ∧ (kDir j.desc = true → dir = true) ∧ dby j.desc 14 1 ≤ 3 ∧ dby j.desc 15 1 ≤ 15 ∧ kSrc j.desc ≠ 3 ∧ kDst j.desc ≠ 3

/-- The descriptor names a live key of its slice, of one of these types, which the usage allows (R381, R382). -/
def State.holdsKey (s : State) (j : Job) (usage : Option Nat) (kinds : List Nat) (k : KeySlot) : Prop :=
  s.kceSlot (kKey j.desc) j.slice = some k ∧ k.dead = false ∧ kinds.contains k.kind = true ∧ (∀ u, usage = some u → bit k.usage u = true)

/-- From s to t, the engine has taken the descriptor's message with this output, key, status and result; nothing is released yet. -/
def State.computes (s t : State) (j : Job) (out : List Byte) (key : Option KeySlot) (st result : Nat) : Prop :=
  (∃ m ∈ t.kce.msgs, m.sr = j.sr ∧ m.tag = j.tag ∧ m.prio = dby j.desc 14 1 ∧ m.out = some out ∧ m.released = 0 ∧ m.newKey = key ∧ m.status = st ∧ m.result = result) ∧
  t.kce.slots = s.kce.slots ∧ t.mem = s.mem ∧ t.ring.unwritten = s.ring.unwritten ∧ s.sameUnits t

/-- The slice may store one more key, and n is the slot it goes to (R381, R404). -/
def State.roomAt (s : State) (sl n : Nat) : Prop := s.quotaRoom sl 3 1 = true ∧ lowestFree s.kce.slots 256 (2 ^ 20 - 256) = some n

/-! ## Slice commands -/

/-- A slice command whose turn it is among those that name its slice, with its unused bytes 0 (R407, R408). -/
def State.sliceNext (s : State) (sr tag op : Nat) (used : List (Nat × Nat)) (j : Job) : Prop :=
  s.ready sr tag op j ∧ rsvdZero j.desc used = true ∧ j.slice < 64 ∧
  ∀ k ∈ s.ring.jobs, k.sr = 0 → k.seq < j.seq → k.slice = j.slice → dOpcode k.desc < 0x88 ∨ 0x8D < dOpcode k.desc

/-- Where entry i of the granule list of a region of `count` granules goes that is allocated now (R220, log entry 101). -/
def State.listEntry (s : State) (count i : Nat) : Nat := reserveDpa (reserveOff (s.listPlace count) + 4 * i)

/-- Slice sl has no object left (R414). -/
def State.emptied (t : State) (sl : Nat) : Prop :=
  (∀ p ∈ t.pipes.tab, p.2.slice ≠ sl) ∧ (∀ p ∈ t.colls.plans, p.2.slice ≠ sl) ∧ (∀ p ∈ t.ckp.jobs, p.2.slice ≠ sl) ∧ (∀ q ∈ t.tmt.qps, q.2.slice ≠ sl) ∧
  (∀ r ∈ t.ring.srs, r.2.slice ≠ sl) ∧ (∀ r ∈ t.ring.crs, r.2.slice ≠ sl) ∧ (∀ r ∈ t.ring.eqs, r.2.slice ≠ sl) ∧ (∀ c ∈ t.tmt.ctrs, c.2.slice ≠ sl) ∧
  (∀ k ∈ t.kce.slots, 256 ≤ k.1 → k.2.slice ≠ sl) ∧ (∀ k ∈ t.tmt.aks, k.2.slice ≠ sl) ∧ (∀ r ∈ t.mem.regions, r.2.slice ≠ sl)

/-! ## Instructions of a sequencer -/

/-- Sequencer k issues now and finds the instruction e, whose opcode is op, at its pc (R124, R141). -/
def State.finds (s : State) (k op : Nat) (e : Enc) (bs : List Byte) : Prop :=
  s.canIssue k false = true ∧ s.fetchAt k (s.seq k) = .instr e bs ∧ e.op = op

/-- e is legal, its privilege holds, its predicate is met and its count is in range: it comes to step 8 of R141. -/
def State.clearsChecks (s : State) (k : Nat) (e : Enc) : Prop :=
  (isCore k = true → (s.seq k).mpuOk 0 (s.seq k).pc e.len 3 = true) ∧ e.legal (isCore k) (s.seq k).ti = true ∧
  (e.privileged = true → (s.seq k).kernel = true) ∧ (e.op = 0x09 → e.waive = true) ∧
  (∀ p, e.pred = some p → ((s.seq k).reg (p % 32)).tag = tgBool ∧ ((s.seq k).reg (p % 32)).val % 2 = 1 - b2n (bit p 5)) ∧
  (∀ c, e.cntr = some c → ((s.seq k).reg (c % 32)).tag = tgUint ∧ 0 < ((s.seq k).reg (c % 32)).val ∧ ((s.seq k).reg (c % 32)).val ≤ 2 ^ 20)

/-- Sequencer k issues now, finds an instruction of opcode op without WAIVE, and it comes to step 8 of R141 once its bytes are read and the
results due have landed. -/
def State.executes (s : State) (k op : Nat) (e : Enc) : Prop := (∃ bs, s.finds k op e bs) ∧ (s.issuing k e).clearsChecks k e ∧ e.waive = false

/-- From s to t no byte, tag or uncorrectable word of memory has changed; words that the fetch met with a single-bit error are corrected, or
wait to be (R68, R124). -/
def State.memStands (s t : State) : Prop := t.mem = { s.mem with rewrite := t.mem.rewrite, weak := t.mem.weak }

/-- From s to t, sequencer k has gone on behind an instruction e of n issue cycles that set the flags fl and left memory and every
other sequencer. -/
def State.wentOn (s t : State) (k : Nat) (e : Enc) (n fl : Nat) : Prop :=
  (t.seq k).pc = ((s.seq k).pc + e.len) % 2 ^ 21 ∧ (t.seq k).icount = (s.seq k).icount + n ∧ (t.seq k).cs = (s.seq k).cs ||| (fl % 16) <<< 8 ∧
  s.memStands t ∧ (∀ j, j ≠ k → t.seq j = s.seq j)

/-- As wentOn, with v in rd and every other register as it was. -/
def State.wrote (s t : State) (k : Nat) (e : Enc) (v : TW) (fl : Nat) : Prop :=
  s.wentOn t k e 1 fl ∧ (t.seq k).reg e.rd = v ∧ (∀ r, r ≠ e.rd → (t.seq k).reg r = (s.seq k).reg r)

/-- From s to t, sequencer k has branched to an offset; the registers, the memory and the other sequencers stand. -/
def State.branched (s t : State) (k pc : Nat) : Prop :=
  (t.seq k).pc = pc % 2 ^ 21 ∧ (t.seq k).icount = (s.seq k).icount + 3 ∧ t.mem = s.mem ∧ (∀ j, j ≠ k → t.seq j = s.seq j)

/-- A command that runs one instruction: the command of a sequencer and an upset, the opcode, the meaning of step 8 of R141. -/
abbrev InstructionRow := (Nat → Nat → Sys2Proof.Instr) × Nat × (State → Nat → Seq → Enc → Did)

/-- Instruction commands with their opcodes (R130, R131, R517) and the meanings of step 8, part 1. -/
def instructionRows0 : List InstructionRow := [
  (.nop, 0x00, opNop), (.mov, 0x01, opMov), (.movi, 0x02, opMovi), (.moviu, 0x03, opMoviu), (.clr, 0x04, opClr), (.cast, 0x05, opCast),
  (.mkaddr, 0x06, opMkaddr), (.retag, 0x09, opRetag), (.add, 0x20, opAdd), (.sub, 0x21, opSub), (.and, 0x22, opAnd), (.or, 0x23, opOr),
  (.xor, 0x24, opXor), (.not, 0x25, opNot), (.neg, 0x26, opNeg), (.abs, 0x27, opAbs), (.shl, 0x28, opShl), (.shr, 0x29, opShr),
  (.sar, 0x2A, opSar), (.rol, 0x2B, opRol), (.ror, 0x2C, opRor), (.min, 0x2D, opMin), (.max, 0x2E, opMax), (.cmpeq, 0x30, opCmpeq),
  (.cmpne, 0x31, opCmpne), (.cmplt, 0x32, opCmplt), (.cmple, 0x33, opCmple), (.popc, 0x34, opPopc)]

/-- Instruction commands with their opcodes (R130, R131, R517) and the meanings of step 8, part 2. -/
def instructionRows1 : List InstructionRow := [
  (.clz, 0x35, opClz), (.ctz, 0x36, opCtz), (.mul, 0x40, opMul), (.mulh, 0x41, opMulh), (.mac, 0x42, opMac), (.div, 0x43, opDiv),
  (.fadd, 0x50, opFadd), (.fsub, 0x51, opFsub), (.fmul, 0x52, opFmul), (.ffma, 0x53, opFfma), (.fmin, 0x54, opFmin), (.fmax, 0x55, opFmax),
  (.fcmpeq, 0x56, opFcmpeq), (.fcmplt, 0x57, opFcmplt), (.fcmple, 0x58, opFcmple), (.icvt, 0x59, opIcvt), (.br, 0x60, opBr),
  (.brt, 0x61, opBrt), (.brf, 0x62, opBrf), (.jmp, 0x63, opJmp), (.call, 0x64, opCall), (.brk, 0x65, opBrk), (.tret, 0x66, opTret),
  (.wend, 0x67, opWend), (.movs, 0x07, opMovs), (.movg, 0x08, opMovg), (.ld, 0x10, opLd), (.st, 0x11, opSt)]

/-- Instruction commands with their opcodes (R130, R131, R517) and the meanings of step 8, part 3. -/
def instructionRows2 : List InstructionRow := [
  (.ldp, 0x12, opLdp), (.stp, 0x13, opStp), (.xadd, 0x14, opXadd), (.xchg, 0x15, opXchg), (.xcas, 0x16, opXcas), (.swait, 0x70, opSwait),
  (.sfence, 0x71, opSfence), (.chwait, 0x72, opChwait), (.chfree, 0x73, opChfree), (.chspace, 0x74, opChspace), (.chput, 0x75, opChput),
  (.wfi, 0xF300, opWfi), (.iret, 0xF301, opIret), (.ldd, 0xF302, opLdd), (.std, 0xF303, opStd), (.vadd, 0xF000, opVadd),
  (.vsub, 0xF001, opVsub), (.vmul, 0xF002, opVmul), (.vfma, 0xF003, opVfma), (.vmin, 0xF004, opVmin), (.vmax, 0xF005, opVmax),
  (.vabs, 0xF006, opVabs), (.vneg, 0xF007, opVneg), (.vcmpeq, 0xF008, opVcmpeq), (.vcmplt, 0xF009, opVcmplt), (.vcmple, 0xF00a, opVcmple),
  (.vsel, 0xF00b, opVsel), (.vadds, 0xF00c, opVadds)]

/-- Instruction commands with their opcodes (R130, R131, R517) and the meanings of step 8, part 4. -/
def instructionRows3 : List InstructionRow := [
  (.vsubs, 0xF00d, opVsubs), (.vcvt, 0xF00e, opVcvt), (.vredsum, 0xF010, opVredsum), (.vredmax, 0xF011, opVredmax),
  (.vqtb8, 0xF020, opVqtb8), (.vqtb4, 0xF021, opVqtb4), (.vdqtb8, 0xF022, opVdqtb8), (.vdqtb4, 0xF023, opVdqtb4), (.vqmx, 0xF024, opVqmx),
  (.vdqmx, 0xF025, opVdqmx), (.tzero, 0xF100, opTzero), (.tmma, 0xF101, opTmma), (.tmmax, 0xF102, opTmmax), (.tload, 0xF103, opTload),
  (.tread, 0xF104, opTread), (.sfnExp2, 0xF200, opSfnExp2), (.sfnLog2, 0xF201, opSfnLog2), (.sfnRcp, 0xF202, opSfnRcp),
  (.sfnRsqrt, 0xF203, opSfnRsqrt), (.sfnSin, 0xF204, opSfnSin), (.sfnCos, 0xF205, opSfnCos), (.sfnTanh, 0xF206, opSfnTanh),
  (.sfnErf, 0xF207, opSfnErf)]

/-- Every instruction command. -/
def instructionRows : List InstructionRow := instructionRows0 ++ instructionRows1 ++ instructionRows2 ++ instructionRows3

/-! ## Operands of unit instructions (R131, R134 to R136) -/

/-- The address registers of a unit instruction. -/
def Enc.unitRegs (e : Enc) : List Nat :=
  if e.op = 0xF100 then []
  else if e.op = 0xF103 || e.op = 0xF104 then [e.a % 32]
  else if e.op = 0xF101 then [e.a % 32, e.b % 32]
  else if e.op = 0xF102 then [e.a % 32, e.b % 32, e.a % 32 + 1, e.b % 32 + 1]
  else if src2Unused e.op then [e.a % 32, e.rd] else [e.a % 32, e.b % 32, e.rd]

/-- The operands that a unit instruction reads, in order. -/
def Enc.unitSources (e : Enc) (q : Seq) : List Opnd :=
  let c := e.imm % 16
  let m := e.imm / 16
  let w := codeBits c
  let n := e.elems q (lanesOf c)
  let t := fmtTag c
  let a := fun (w t : Nat) => mkOpnd q (e.a % 32) (bit e.a 7) (n * w) t
  let b := fun (w t : Nat) => mkOpnd q (e.b % 32) (bit e.b 7) (n * w) t
  let d := fun (w t : Nat) => mkOpnd q e.rd (bit e.a 6) (n * w) t
  let steps := (e.countOf q).getD q.vl
  let depth := if c = 8 && m = 8 then 8 else if c = 2 || c = 3 then 2 else 4
  let tiles := [mkOpnd q (e.a % 32) false (8 * depth * w * steps) t, mkOpnd q (e.b % 32) false (8 * depth * codeBits m * steps) (fmtTag m)]
  let scales := [mkOpnd q (e.a % 32 + 1) false (64 * ceilDiv steps (32 / depth)) tgUint, mkOpnd q (e.b % 32 + 1) false (64 * ceilDiv steps (32 / depth)) tgUint]
  if e.op = 0xF003 then [a w t, b w t, d w t]
  else if e.op = 0xF00B then [a 8 tgUint, b w t, d w t]
  else if e.op = 0xF022 || e.op = 0xF023 then [mkOpnd q (e.a % 32) false (8 * ceilDiv n 32 * tbBytes (e.op = 0xF023)) tgUint]
  else if e.op = 0xF025 then [a (mxBits m) tgUint, mkOpnd q (e.b % 32) false (8 * ceilDiv n 32) tgUint]
  else if e.op = 0xF100 || e.op = 0xF104 then []
  else if e.op = 0xF101 then tiles
  else if e.op = 0xF102 then tiles ++ scales
  else if e.op = 0xF103 then [mkOpnd q (e.a % 32) false 2048 tgF32x2]
  else if src2Unused e.op || e.op = 0xF024 then [a w t] else [a w t, b w t]

/-- The operands that a unit instruction writes. -/
def Enc.unitDests (e : Enc) (q : Seq) : List Opnd :=
  let c := e.imm % 16
  let m := e.imm / 16
  let n := e.elems q (lanesOf c)
  let d := fun (bits t : Nat) => mkOpnd q e.rd (bit e.a 6) bits t
  if 0xF008 ≤ e.op && e.op ≤ 0xF00A then [d (n * 8) tgUint]
  else if e.op = 0xF00E || 0xF200 ≤ e.op then [d (n * codeBits m) (fmtTag m)]
  else if e.op = 0xF010 || e.op = 0xF011 then [d (codeBits c) (fmtTag c)]
  else if e.op = 0xF020 || e.op = 0xF021 then [d (8 * ceilDiv n 32 * tbBytes (e.op = 0xF021)) tgUint]
  else if e.op = 0xF024 then [d (n * mxBits m) tgUint, mkOpnd q (e.b % 32) false (8 * ceilDiv n 32) tgUint]
  else if e.op = 0xF104 then [mkOpnd q (e.a % 32) false (64 * codeBits c) (fmtTag c)]
  else if 0xF100 ≤ e.op && e.op < 0xF200 then [] else [d (n * codeBits c) (fmtTag c)]

end Sys2Proof.Machine
end

