-- ==== Sys2Proof/Certificates/Slice0/Obligations.lean ====
section
/-! DEFINITION. The statements: what the model is claimed to do, command by command, in the order of the manual's chapters. Each says of which
rules of spec/ it speaks. A statement of several parts numbers them. -/

open Sys2Proof Sys2Proof.Machine Host

/-- A step runs the command at the front of the queue on the state with the rest of the queue, and every command answers a next state; on an empty queue a
nanosecond passes, and the words of the table, which have no bits, spell no command (the model's choices, log entries 72 and 1). -/
def Obligations.StepRunsFrontCommand : Prop :=
  (∀ (c : Instr) (rest : List Instr) (s : State), step { s with pending := c :: rest } = exec c { s with pending := rest }) ∧
  (∀ (s : State), s.pending = [] → step s = .next s.tick) ∧
  (∀ (c : Instr) (s : State), ∃ t, exec c s = .next t) ∧
  (∀ (n w : Nat) (s : State), decodeTableWord n w = none ∧ s.withFetchWord n w = s)

/-- Right after reset every register reads as the tables of the manual give it or the log names it, no counter has counted, memory lists no byte, no
command and no descriptor waits, no ring, pipeline, QP or slice is there and no PASID is bound, and every sequencer stands fresh. In part the model's
choices: log entries 3, 7 and 8. -/
def Obligations.ResetState : Prop :=
  (∀ a, State.reset.rd a = resetAt a ∧ State.reset.ctrVal a = 0) ∧ State.reset.pending = [] ∧ State.reset.mem = MemSt.empty ∧ State.reset.ring = Rings.empty ∧
  State.reset.pipes.tab = [] ∧ State.reset.tmt.qps = [] ∧ State.reset.slices = [] ∧ State.reset.pasids = [] ∧ (∀ k, State.reset.seq k = Seq.fresh) ∧
  State.reset.waitingWf ∧ State.reset.memOk

/-- From every state, a step keeps the waiting commands well formed. -/
def Obligations.StepsKeepQueueForm : Prop := State.kept State.waitingWf

/-- From every state, a step keeps the bytes of memory in their canonical form: addresses rising, no entry equal to what an unlisted byte reads as. -/
def Obligations.StepsKeepMemoryForm : Prop := State.kept State.memOk

/-- (1) REGISTER_WRITE: within one register whose write moves nothing else, the register afterwards is the one its access codes give (R5), and a write to
what is no register has no effect (R6). A write of another size or alignment has none either. The check-value units take writes as their own commands
do (R402), stated with them. (2) What a write does to each bit of a field, by the field's access code (R5): RW and unlocked RWL take the written bit,
W1C clears and W1S sets where a 1 is written, RO, RC, WO and a locked RWL keep the bit; bits outside the field or the byte mask stay. (3)
S_COUNTER_CLEAR: a write to a class S counter clears it, whatever is written (R7), and no other counter. (4) Counting (R7, R511): a class S counter
stops at 0xFFFF_FFFF, a class E counter wraps at 2^64; no other counter moves. -/
def Obligations.RegistersAndCounters : Prop :=
  ((∀ (a n v : Nat) (s : State) (r : RegSpec) (own u i : Nat),
     (a < R.CRC_CFG 0 ∨ R.CRC_CFG 4 ≤ a) → findCtr a = none → findReg a = some (r, own, u, i) → (n = 4 ∨ n = 8) → a % n = 0 → own ≤ a → a + n ≤ own + r.bytes →
     r.base ∉ [R.CTL_ADMIN_SR_BASE, R.CTL_ADMIN_CR_BASE, R.CTL_ADMIN_EQ_BASE, R.PCI_WINDOW 0, R.DNX_IN_WINDOW 0, R.LAT_CELL_STRM 0 0, R.CFG_STATUS] →
     own ∉ [R.CTL_ADMIN_SR_BASE, R.CTL_ADMIN_CR_BASE, R.CTL_ADMIN_EQ_BASE] →
     answers (.registerWrite a n v) s fun t =>
       t.rd own = r.write (s.isLocked own) (s.rd own) (a - own) n v ∧ (∀ b, b ≠ own → t.rd b = s.rd b) ∧ t.mem = s.mem ∧ t.ring = s.ring) ∧
   (∀ (a n v : Nat) (s : State), (a + n ≤ R.CRC_CFG 0 ∨ R.CRC_CFG 4 ≤ a) → (∀ b, a ≤ b → b < a + n → findCtr b = none ∧ findReg b = none) →
     exec (.registerWrite a n v) s = .next s) ∧
   (∀ (a n v : Nat) (s : State), ¬((n = 4 ∨ n = 8) ∧ a % n = 0) → exec (.registerWrite a n v) s = .next s)) ∧
  (∀ (f : FieldSpec) (locked : Bool) (cur d m k : Nat),
     (f.write locked cur d m).testBit k =
       if f.lo ≤ k ∧ k < f.lo + f.width ∧ m.testBit k = true then
         match f.acc with
         | .rw => d.testBit k
         | .rwl => if locked then cur.testBit k else d.testBit k
         | .w1c => cur.testBit k && !d.testBit k
         | .w1s => cur.testBit k || d.testBit k
         | .ro | .wo | .rc | .ev => cur.testBit k
       else cur.testBit k) ∧
  (∀ (a : Nat) (s : State) (b : CtrBlock) (u i : Nat) (c : CtrSpec), findCtr a = some (b, u, c, i) → c.cls = .s →
     answers (.sCounterClear a) s fun t =>
       t.ctrVal (c.base + u * c.s1 + i * c.s2) = 0 ∧ (∀ k, k ≠ c.base + u * c.s1 + i * c.s2 → t.ctrVal k = s.ctrVal k) ∧
       t.ctrHost = s.ctrHost ∧ t.ctrMc = s.ctrMc ∧ t.regs = s.regs ∧ t.mem = s.mem) ∧
  ((∀ (s : State) (a n : Nat) (b : CtrBlock) (u i : Nat) (c : CtrSpec), findCtr a = some (b, u, c, i) → c.cls = .s → R.MGT_EVENT_LOST ≠ a →
     (s.cnt a n).ctrVal a = min (s.ctrVal a + n) 0xFFFFFFFF) ∧
   (∀ (s : State) (a n : Nat) (b : CtrBlock) (u i : Nat) (c : CtrSpec), findCtr a = some (b, u, c, i) → c.cls = .e →
     (s.cnt a n).ctrVal a = (s.ctrVal a + n) % 2 ^ 64) ∧
   (∀ (s : State) (a n k : Nat), k ≠ a → k ≠ R.MGT_EVENT_LOST → (s.cnt a n).ctrVal k = s.ctrVal k))

/-- Counter reads and snapshots (R8): a read of a counter or a gauge returns its latch copy of the side that reads; a snap write captures every counter of
its block at once in the host's copy, and its gauges at their level, and the management controller's capture does so in its own copy; neither disturbs
the other copy, the counters or another block; a register write of the snap bit captures too; and counting leaves the captured values. -/
def Obligations.CounterReads : Prop :=
  (∀ (a n : Nat) (s : State) (b : CtrBlock) (u i own : Nat) (c : CtrSpec) (mc : Bool), findCtr a = some (b, u, c, i) → own = c.base + u * c.s1 + i * c.s2 →
    s.readReg mc a n = fld (s.latched mc own) (8 * (a - own)) (8 * n)) ∧
  (∀ (a n : Nat) (s : State) (r : RegSpec) (own u i : Nat) (mc : Bool), findCtr a = none → findReg a = some (r, own, u, i) → isGauge own = true →
    s.readReg mc a n = fld (s.latched mc own) (8 * (a - own)) (8 * n)) ∧
  (∀ (c : Nat) (s : State), isGauge c = false → s.latched false c = Tbl.get s.ctrHost c 0 ∧ s.latched true c = Tbl.get s.ctrMc c 0) ∧
  (∀ (a : Nat) (s : State) (b : CtrBlock) (u : Nat), blockOfSnap a = some (b, u) → answers (.counterSnap a) s fun t =>
    (∀ c, inBlock b u c = true → c ∉ gaugesOf b.snap → Tbl.get t.ctrHost c 0 = s.ctrVal c) ∧ (∀ c, c ∈ gaugesOf b.snap → Tbl.get t.ctrHost c 0 = s.shown c) ∧
    (∀ c, inBlock b u c = false → c ∉ gaugesOf b.snap → Tbl.get t.ctrHost c 0 = Tbl.get s.ctrHost c 0) ∧
    t.ctr = s.ctr ∧ t.ctrMc = s.ctrMc ∧ t.regs = s.regs ∧ t.mem = s.mem) ∧
  (∀ (m dpa u : Nat) (s : State) (b : CtrBlock), s.mcAnswers m = true → s.dev = .run → regSpace ≤ dpa → blockOfSnap (regAddr (dpa - regSpace)) = some (b, u) →
    answers (.mcCapture m dpa true) s fun t =>
      (∀ c, inBlock b u c = true → c ∉ gaugesOf b.snap → Tbl.get t.ctrMc c 0 = s.ctrVal c) ∧ (∀ c, c ∈ gaugesOf b.snap → Tbl.get t.ctrMc c 0 = s.shown c) ∧
      (∀ c, inBlock b u c = false → c ∉ gaugesOf b.snap → Tbl.get t.ctrMc c 0 = Tbl.get s.ctrMc c 0) ∧
      t.ctr = s.ctr ∧ t.ctrHost = s.ctrHost ∧ t.regs = s.regs ∧ t.mem = s.mem) ∧
  (∀ (a v u i w : Nat) (s : State) (b : CtrBlock) (r : RegSpec), blockOfSnap a = some (b, u) → bit v (snapBit a) = true → a % 4 = 0 → v < 2 ^ 32 → findCtr a = none →
    findReg a = some (r, a, w, i) → readSpan a 4 = 4 → (a < R.CRC_CFG 0 ∨ R.CRC_CFG 4 ≤ a) → answers (.registerWrite a 4 v) s fun t =>
      (∀ c, inBlock b u c = true → c ∉ gaugesOf b.snap → Tbl.get t.ctrHost c 0 = s.ctrVal c) ∧
      (∀ c, inBlock b u c = false → c ∉ gaugesOf b.snap → Tbl.get t.ctrHost c 0 = Tbl.get s.ctrHost c 0) ∧ t.ctr = s.ctr ∧ t.ctrMc = s.ctrMc) ∧
  (∀ (s : State) (a n : Nat), (s.cnt a n).ctrHost = s.ctrHost ∧ (s.cnt a n).ctrMc = s.ctrMc)

/-- (1) The feuille commands (R25, R29, R513): a checked FEUILLE_WRITE returns the entry's new generation; FEUILLE_READ delivers the entry's 128 bytes and
returns 128; the completion of a feuille's work ends its record once every part has a terminal state. In part the model's choices: log entry 88. (2) A
feuille entry that another slice owns is not read (R403, R513): INVALID_HANDLE, and nothing is written. -/
def Obligations.Feuilles : Prop :=
  ((∀ (sr tag : Nat) (s s1 s2 : State) (j : Job) (b : List Byte), s.ready sr tag 0x85 j →
     rsvdZero j.desc [(8, 4), (16, 9), (28, 4)] = true → dby j.desc 8 4 < 4096 → (dby j.desc 24 1 = 0 ∨ dby j.desc 24 1 = 2) →
     (dby j.desc 24 1 = 2 → ∀ r, s.region (dby j.desc 28 4) j.slice = some r → dby j.desc 16 8 + 128 ≤ r.dataBytes) →
     s.readOperand j (dby j.desc 24 1) (dby j.desc 28 4) (dby j.desc 16 8) 128 0 = .ok s1 b → s1.feuWrite j.slice (dby j.desc 8 4) b = .ok s2 →
     exec (.feuilleWrite sr tag) s = .next (s2.feuDerive.succeed j (s2.feu (dby j.desc 8 4)).gen)) ∧
   (∀ (sr tag : Nat) (s s1 : State) (j : Job), s.ready sr tag 0x86 j →
     rsvdZero j.desc [(8, 4), (16, 9), (28, 4)] = true → dby j.desc 8 4 < 4096 → (dby j.desc 24 1 = 0 ∨ dby j.desc 24 1 = 2) →
     (dby j.desc 24 1 = 2 → ∀ r, s.region (dby j.desc 28 4) j.slice = some r → dby j.desc 16 8 + 128 ≤ r.dataBytes) →
     (j.slice = 0 ∨ dby j.desc 8 4 < 109 ∨ (s.feu (dby j.desc 8 4)).valid = false ∨ (s.feu (dby j.desc 8 4)).owner = j.slice) →
     s.writeOperand j (dby j.desc 24 1) (dby j.desc 28 4) (dby j.desc 16 8) (s.feuBytes (dby j.desc 8 4)) 0 = .ok s1 →
     exec (.feuilleRead sr tag) s = .next (s1.succeed j 128)) ∧
   (∀ (sr tag : Nat) (s : State), s.feuWork.any (fun f => f.sr = sr && f.tag = tag) = true →
     (∀ f ∈ s.feuWork, f.sr = sr → f.tag = tag → f.parts.all (fun p => p.2.2.isSome) = true) →
     answers (.feuilleCompletion sr tag) s fun t =>
       t.feuWork = s.feuWork.filter (fun f => !(f.sr = sr && f.tag = tag)) ∧ t.feus = s.feus ∧ t.mem = s.mem ∧ t.ring = s.ring)) ∧
  (∀ (sr tag : Nat) (s : State) (j : Job), s.ready sr tag 0x86 j →
     rsvdZero j.desc [(8, 4), (16, 9), (28, 4)] = true → dby j.desc 24 1 = 0 → dby j.desc 8 4 < 4096 →
     j.slice ≠ 0 → 109 ≤ dby j.desc 8 4 → (s.feu (dby j.desc 8 4)).valid = true → (s.feu (dby j.desc 8 4)).owner ≠ j.slice →
     answers (.feuilleRead sr tag) s fun t => t.reports sr tag stInvalidHandle ∧ t.pcie.host = s.pcie.host ∧ t.feus = s.feus)

/-- (1) Doorbells (R40 to R42): one that passes the checks of R41 sets the ring's tail or head, the latest winning; other rings stand. (2) The checks of a
doorbell in their order (R41): each first failing check drops the doorbell and counts it once, in the counter named, and does nothing else. In part
the model's choices: log entry 110. -/
def Obligations.Doorbells : Prop :=
  ((∀ (n word : Nat) (s : State) (r : Sr), s.barOk 0 = true → Tbl.find s.ring.srs n = some r → word < 2 ^ 32 →
     fld word 16 16 = Tbl.get s.ring.srGen n 0 → ringState (s.slice r.slice).state ≠ 2 → ringState (s.slice r.slice).state ≠ 4 →
     fld word 0 16 < 2 ^ r.at'.log2 →
     answers (.srDoorbell n 0 8 word) s fun t => Tbl.find t.ring.srs n = some { r with tail := fld word 0 16 } ∧
       (∀ m, m ≠ n → Tbl.find t.ring.srs m = Tbl.find s.ring.srs m) ∧ t.ring.crs = s.ring.crs ∧ t.ring.jobs = s.ring.jobs ∧ t.mem = s.mem ∧ t.regs = s.regs) ∧
   (∀ (n word : Nat) (s : State) (r : Cr), s.barOk 0 = true → Tbl.find s.ring.crs n = some r → word < 2 ^ 32 →
     fld word 16 16 = Tbl.get s.ring.crGen n 0 → ringState (s.slice r.slice).state ≠ 2 → ringState (s.slice r.slice).state ≠ 4 →
     fld word 0 16 < 2 ^ r.at'.log2 →
     answers (.crDoorbell n 0x100 8 word) s fun t => (∃ q, Tbl.find t.ring.crs n = some q ∧ q.head = fld word 0 16 ∧ q.stuck = false ∧ q.written = r.written) ∧
       (∀ m, m ≠ n → Tbl.find t.ring.crs m = Tbl.find s.ring.crs m) ∧ t.ring.srs = s.ring.srs ∧ t.mem = s.mem ∧ t.regs = s.regs) ∧
   (∀ (n word : Nat) (s : State) (r : Eq), s.barOk 0 = true → n < 4096 → Tbl.find s.ring.eqs n = some r → word < 2 ^ 32 →
     fld word 16 16 = Tbl.get s.ring.eqGen n 0 → ringState (s.slice r.slice).state ≠ 2 → ringState (s.slice r.slice).state ≠ 4 →
     fld word 0 16 < 2 ^ r.at'.log2 →
     answers (.eqDoorbell n 0x200 8 word) s fun t => (∃ q, Tbl.find t.ring.eqs n = some q ∧ q.head = fld word 0 16 ∧ q.stuck = false ∧ q.written = r.written) ∧
       (∀ m, m ≠ n → Tbl.find t.ring.eqs m = Tbl.find s.ring.eqs m) ∧ t.ring.crs = s.ring.crs ∧ t.mem = s.mem ∧ t.regs = s.regs)) ∧
  ((∀ (n off size word : Nat) (s : State), s.barOk 0 = true → onWord 0 off size = true → (¬(off = 0 ∧ size = 8) ∨ 2 ^ 32 ≤ word) →
     exec (.srDoorbell n off size word) s = .next (s.cnt R.RNG_DB_RANGE)) ∧
   (∀ (n word : Nat) (s : State), s.barOk 0 = true → word < 2 ^ 32 → Tbl.find s.ring.srs n = none →
     exec (.srDoorbell n 0 8 word) s = .next (s.cnt R.RNG_DB_STALE)) ∧
   (∀ (n word : Nat) (s : State) (r : Sr), s.barOk 0 = true → word < 2 ^ 32 → Tbl.find s.ring.srs n = some r →
     fld word 16 16 ≠ Tbl.get s.ring.srGen n 0 → exec (.srDoorbell n 0 8 word) s = .next (s.cnt R.RNG_DB_STALE)) ∧
   (∀ (n word : Nat) (s : State) (r : Sr), s.barOk 0 = true → word < 2 ^ 32 → Tbl.find s.ring.srs n = some r →
     fld word 16 16 = Tbl.get s.ring.srGen n 0 → (ringState (s.slice r.slice).state = 2 ∨ ringState (s.slice r.slice).state = 4) →
     exec (.srDoorbell n 0 8 word) s = .next (s.cnt R.RNG_DB_STOPPED)) ∧
   (∀ (n word : Nat) (s : State) (r : Sr), s.barOk 0 = true → word < 2 ^ 32 → Tbl.find s.ring.srs n = some r →
     fld word 16 16 = Tbl.get s.ring.srGen n 0 → ringState (s.slice r.slice).state ≠ 2 → ringState (s.slice r.slice).state ≠ 4 →
     2 ^ r.at'.log2 ≤ fld word 0 16 → exec (.srDoorbell n 0 8 word) s = .next (s.cnt R.RNG_DB_RANGE)))

/-- (1) Fetch (R43, R46): when its turn has come, a fetch of the admin ring asks the host for the entries from the head, as many as the slice's rate and
one read request allow; the head moves only as they arrive, and a ring whose turn it is not is not fetched. A descriptor whose tag is outstanding is
rejected with TAG_IN_USE and the earlier one stands; one that passes every check becomes outstanding. In part the model's choices: log entries 14 and
126. (2) Entries that the N9 writes (R47, R48, R54, R55): the oldest unwritten completion of CR 0 is written as its 32 bytes at entry j mod size with
the phase of its pass; the moderation timer makes an event due; the oldest due event of EQ 0 is written and its vector sent. In part the model's
choices: log entry 128. -/
def Obligations.FetchAndWriteback : Prop :=
  ((∀ (s : State) (r : Sr), Tbl.find s.ring.srs 0 = some r → r.at'.loc = 0 → s.fetchTurn = some 0 → s.pcie.readWait = [] → 0 < s.readRoom 0 →
     answers (.descriptorFetch 0) s fun t =>
       Out.hostRead 0 (r.at'.base + 64 * r.head) (64 * min (min r.fetchable (s.rateLeft r.slice)) (s.pcie.mrrs / 64)) 0 ∈ t.out ∧
       t.ring.srs = s.ring.srs ∧ t.ring.jobs = s.ring.jobs ∧ t.mem = s.mem) ∧
   (∀ (n : Nat) (s : State), s.fetchTurn ≠ some n → exec (.descriptorFetch n) s = .next s) ∧
   (∀ (s : State) (n d : Nat) (r : Sr), Tbl.find s.ring.srs n = some r → (s.slice r.slice).state ≠ .error → r.doomed ≤ r.fetched →
     s.rejectStatus n r d = some stTagInUse →
     (∃ c ∈ (s.takeDescriptor n d).ring.unwritten, c.sr = n ∧ c.tag = dTag d ∧ c.status = stTagInUse) ∧ (s.takeDescriptor n d).ring.jobs = s.ring.jobs) ∧
   (∀ (s : State) (n d : Nat) (r : Sr), Tbl.find s.ring.srs n = some r → (s.slice r.slice).state ≠ .error → r.doomed ≤ r.fetched → s.rejectStatus n r d = none →
     ∃ j, (s.takeDescriptor n d).job n (dTag d) = some j ∧ j.desc = d ∧ j.slice = dSlice d ∧ j.cr = dCr d)) ∧
  ((∀ (s : State) (r : Cr) (c : Cpl) (rest : List Cpl), Tbl.find s.ring.crs 0 = some r → takeFirst (fun c => c.cr = 0) s.ring.unwritten = some (c, rest) →
     r.at'.loc = 0 → r.free ≠ 0 → r.stuck = false → s.ringStalled 0 1 = false → s.writesPending c = false → (s.slice r.slice).state ≠ .orphaned → s.dmaOk 0 = true →
     answers (.crEntryWrite 0) s fun t =>
       Mem.bytes t.pcie.host (r.at'.base + 32 * (r.written % 2 ^ r.at'.log2)) 32 =
         cplBytes c (s.srHead c.sr) (phaseOf r.written r.at'.log2) ∧
       t.ring.unwritten.length = rest.length ∧ (∃ q, Tbl.find t.ring.crs 0 = some q ∧ q.written = r.written + 1) ∧ t.mem = s.mem) ∧
   (∀ (n a : Nat) (s : State) (c : Cr), Tbl.find s.ring.crs n = some c → c.timer = some a → a + c.modTime * 1000 ≤ s.timeNs → 0 < c.since → Tbl.has s.ring.eqs c.eq = true →
     answers (.moderationTimerExpiry n) s fun t => (∃ e ∈ t.ring.events, e.eq = c.eq ∧ e.kind = 1 ∧ e.source = n) ∧ t.ring.crs = s.ring.crs ∧ t.mem = s.mem) ∧
   (∀ (s : State) (q : Eq) (e : Ev) (rest : List Ev), Tbl.find s.ring.eqs 0 = some q → takeFirst (fun e => e.eq = 0) s.ring.events = some (e, rest) →
     e.kind ≠ 1 → q.at'.loc = 0 → q.written - q.freed < 2 ^ q.at'.log2 → q.stuck = false → s.ringStalled 0 2 = false →
     (s.slice q.slice).state ≠ .orphaned → s.dmaOk 0 = true →
     answers (.eventWrite 0) s fun t =>
       Mem.bytes t.pcie.host (q.at'.base + 16 * (q.written % 2 ^ q.at'.log2)) 16 = evBytes { e with time := s.timeNs } (phaseOf q.written q.at'.log2) ∧
       t.ring.events = rest ∧ Tbl.find t.ring.eqs 0 = some { q with written := q.written + 1 } ∧ t.mem = s.mem))

/-- (1) The admin ring and the lease (R56, R58, R60): enabling with good sizes and bases creates SR 0, CR 0 and EQ 0 under the next generation; a release
destroys them and disarms the lease; a renewal arms it at timeout_ms, 0 meaning 1,000 and never above 60,000; its expiry when that time is over, and
not before, orphans slice 0 and disarms it. In part the model's choices: log entry 110. (2) The ring commands of the admin ring (R58, R59, R514): a
create command that passes its checks and the quota returns the number and its next generation; DESTROY_RING removes an unused ring of each kind;
QUERY_RING of an SR answers its state, generation, head and tail, of an absent number its generation alone. In part the model's choices: log entry
129. (3) Ending from outside (R51 to R53, R61): an abort whose target is not outstanding completes with ALREADY_DONE and changes no other descriptor;
one whose target is ends it with ABORTED and the bytes it has moved, and itself with DONE; one of a work request that has sent no packet takes the
request off its queue. Resuming an orphaned slice returns it to the state it had; tearing it down writes the completions it held to the drain buffer
and takes its rings. In part the model's choices: log entries 100, 130 and 131. -/
def Obligations.RingsAndLease : Prop :=
  ((∀ (word : Nat) (s : State), s.rf R.CTL_ADMIN_CTRL 0 1 = 0 → bit word 0 = true → s.badBases = [] →
     (∀ lo ∈ [4, 8, 12], 4 ≤ fld word lo 4 ∧ fld word lo 4 ≤ 12) →
     answers (.adminRingEnable word) s fun t =>
       Tbl.has t.ring.srs 0 = true ∧ Tbl.has t.ring.crs 0 = true ∧ Tbl.has t.ring.eqs 0 = true ∧
       Tbl.get t.ring.srGen 0 0 = Tbl.get t.ring.crGen 0 0 ∧ Tbl.get t.ring.crGen 0 0 = Tbl.get t.ring.eqGen 0 0 ∧ R.CTL_ADMIN_CTRL ∈ t.locks ∧
       ((s.slice 0).state ≠ .orphaned → t.mem = s.mem)) ∧
   (∀ (word : Nat) (s : State), s.rf R.CTL_ADMIN_CTRL 0 1 = 1 → bit word 0 = false → (∀ j ∈ s.ring.jobs, j.sr ≠ 0) → s.fetching 0 = false →
     (∀ r, Tbl.find s.ring.srs 0 = some r → r.head = r.tail) →
     answers (.adminRingRelease word) s fun t =>
       Tbl.find t.ring.srs 0 = none ∧ Tbl.find t.ring.crs 0 = none ∧ Tbl.find t.ring.eqs 0 = none ∧ t.ring.leaseArmed = false ∧ t.mem = s.mem) ∧
   (∀ (word : Nat) (s : State), bit word 31 = true →
     answers (.leaseRenew word) s fun t =>
       t.ring.leaseArmed = true ∧
       t.ring.leaseEnd = s.timeNs + (if word % 65536 = 0 then 1000 else min (word % 65536) 60000) * 1000000 ∧ t.mem = s.mem ∧ t.slices = s.slices) ∧
   (∀ (s : State), s.ring.leaseArmed = true → s.ring.leaseEnd ≤ s.timeNs → (s.slice 0).state = .active →
     answers .leaseExpiry s fun t => t.ring.leaseArmed = false ∧ (t.slice 0).state = .orphaned ∧ t.mem = s.mem) ∧
   (∀ (s : State), s.timeNs < s.ring.leaseEnd → exec .leaseExpiry s = .next s)) ∧
  ((∀ (sr tag n : Nat) (s : State) (j : Job), s.ready sr tag 0x80 j → s.createCheck j 0 (fun n => Tbl.has s.ring.srs n) = none →
     dby j.desc 19 1 ≠ 0 → (∃ c, Tbl.find s.ring.crs (dby j.desc 26 2) = some c ∧ c.slice = j.slice) → createNumber s.ring.srs j.desc 65536 = some n →
     s.sliceUse j.slice 1 + 1 ≤ s.quota j.slice 1 →
     answers (.createSr sr tag) s fun t =>
       t.reportsWith sr tag stSuccess ((n + (Tbl.get s.ring.srGen n 0 + 1) % 65536 * 65536) % 2 ^ 64) ∧
       Tbl.find t.ring.srs n = some ⟨j.slice, createLoc j.desc, dby j.desc 19 1, dby j.desc 26 2, 0, 0, 0⟩ ∧
       Tbl.get t.ring.srGen n 0 = (Tbl.get s.ring.srGen n 0 + 1) % 65536) ∧
   (∀ (sr tag n : Nat) (s : State) (j : Job), s.ready sr tag 0x81 j → s.createCheck j 1 (fun n => Tbl.has s.ring.crs n) = none →
     dby j.desc 30 2 ≤ 1023 → (∃ c, Tbl.find s.ring.eqs (dby j.desc 26 2) = some c ∧ c.slice = j.slice) → createNumber s.ring.crs j.desc 65536 = some n →
     s.sliceUse j.slice 1 + 1 ≤ s.quota j.slice 1 →
     answers (.createCr sr tag) s fun t =>
       t.reportsWith sr tag stSuccess ((n + (Tbl.get s.ring.crGen n 0 + 1) % 65536 * 65536) % 2 ^ 64) ∧ Tbl.has t.ring.crs n = true ∧
       Tbl.get t.ring.crGen n 0 = (Tbl.get s.ring.crGen n 0 + 1) % 65536) ∧
   (∀ (sr tag n : Nat) (s : State) (j : Job), s.ready sr tag 0x82 j → s.createCheck j 2 (fun n => Tbl.has s.ring.eqs n) = none →
     (fld j.desc 128 2 = 1 ∨ dby j.desc 32 2 ≤ 2047) → createNumber s.ring.eqs j.desc 4096 = some n → s.sliceUse j.slice 1 + 1 ≤ s.quota j.slice 1 →
     answers (.createEq sr tag) s fun t =>
       t.reportsWith sr tag stSuccess ((n + (Tbl.get s.ring.eqGen n 0 + 1) % 65536 * 65536) % 2 ^ 64) ∧ Tbl.has t.ring.eqs n = true ∧
       Tbl.get t.ring.eqGen n 0 = (Tbl.get s.ring.eqGen n 0 + 1) % 65536) ∧
   (∀ (sr tag n : Nat) (s : State) (j : Job) (r : Sr), s.ready sr tag 0x83 j → rsvdZero j.desc [(8, 3)] = true → dby j.desc 8 2 = n → n ≠ 0 →
     dby j.desc 10 1 = 0 → Tbl.find s.ring.srs n = some r → r.slice = j.slice → (∀ k ∈ s.ring.jobs, k.sr ≠ n) → r.head = r.tail → s.fetching n = false →
     answers (.destroyRing sr tag) s fun t => t.reportsWith sr tag stSuccess 0 ∧ Tbl.find t.ring.srs n = none ∧ Tbl.get t.ring.srGen n 0 = Tbl.get s.ring.srGen n 0) ∧
   (∀ (sr tag n : Nat) (s : State) (j : Job) (r : Cr), s.ready sr tag 0x83 j → rsvdZero j.desc [(8, 3)] = true → dby j.desc 8 2 = n → n ≠ 0 →
     dby j.desc 10 1 = 1 → Tbl.find s.ring.crs n = some r → r.slice = j.slice → (∀ q ∈ s.ring.srs, q.2.fallback ≠ n) → (∀ k ∈ s.ring.jobs, k.cr ≠ n) →
     (∀ c ∈ s.ring.unwritten, c.cr ≠ n) → s.allFetched r.slice = true →
     answers (.destroyRing sr tag) s fun t => t.reportsWith sr tag stSuccess 0 ∧ Tbl.find t.ring.crs n = none ∧ t.ring.srs = s.ring.srs) ∧
   (∀ (sr tag n : Nat) (s : State) (j : Job) (r : Eq), s.ready sr tag 0x83 j → rsvdZero j.desc [(8, 3)] = true → dby j.desc 8 2 = n → n ≠ 0 →
     dby j.desc 10 1 = 2 → Tbl.find s.ring.eqs n = some r → r.slice = j.slice → (∀ q ∈ s.ring.crs, q.2.eq ≠ n) →
     answers (.destroyRing sr tag) s fun t => t.reportsWith sr tag stSuccess 0 ∧ Tbl.find t.ring.eqs n = none ∧ t.ring.srs = s.ring.srs) ∧
   (∀ (sr tag n : Nat) (s : State) (j : Job) (r : Sr), s.ready sr tag 0x87 j → rsvdZero j.desc [(8, 3)] = true → dby j.desc 8 2 = n → dby j.desc 10 1 = 0 →
     Tbl.find s.ring.srs n = some r → r.slice = j.slice →
     answers (.queryRing sr tag) s fun t => t.ring.srs = s.ring.srs ∧
       t.reportsWith sr tag stSuccess (queryWord (ringState (s.slice r.slice).state) (Tbl.get s.ring.srGen n 0) r.head r.tail % 2 ^ 64)) ∧
   (∀ (sr tag n : Nat) (s : State) (j : Job), s.ready sr tag 0x87 j → rsvdZero j.desc [(8, 3)] = true → dby j.desc 8 2 = n → dby j.desc 10 1 = 0 →
     Tbl.find s.ring.srs n = none →
     answers (.queryRing sr tag) s fun t => t.reportsWith sr tag stSuccess (queryWord 0 (Tbl.get s.ring.srGen n 0) 0 0 % 2 ^ 64) ∧ t.ring.srs = s.ring.srs)) ∧
  ((∀ (sr tag n k : Nat) (s : State) (j : Job) (r : Sr), s.ready sr tag 0xF0 j → dby j.desc 8 2 = n → dby j.desc 10 2 = k → rsvdZero j.desc [(8, 4)] = true →
     Tbl.find s.ring.srs n = some r → (r.slice = j.slice ∨ j.sr = 0 ∨ j.slice = 0) → ¬(n = sr ∧ k = tag) → j.p 0 ≠ 1 → s.coreState (s.ringCore n) ≠ 2 →
     s.abortFetched n r j = true → s.job n k = none →
     answers (.abort sr tag) s fun t => t.reports sr tag stAlreadyDone ∧ (∀ q ∈ s.ring.jobs, ¬(q.sr = sr ∧ q.tag = tag) → ∃ q' ∈ t.ring.jobs, q'.sr = q.sr ∧ q'.tag = q.tag ∧ q'.desc = q.desc)) ∧
   (∀ (sr tag n k : Nat) (s : State) (j target : Job) (r : Sr), s.ready sr tag 0xF0 j → dby j.desc 8 2 = n → dby j.desc 10 2 = k → rsvdZero j.desc [(8, 4)] = true →
     Tbl.find s.ring.srs n = some r → (r.slice = j.slice ∨ j.sr = 0 ∨ j.slice = 0) → ¬(n = sr ∧ k = tag) → j.p 0 ≠ 1 → s.coreState (s.ringCore n) ≠ 2 →
     s.abortFetched n r j = true → s.job n k = some target → s.feuEnded target = false → s.noSnap n k → 0x38 < dOpcode target.desc → dOpcode target.desc ≠ 0x8B →
     answers (.abort sr tag) s fun t => t.reportsWith n k stAborted (target.moved % 2 ^ 64) ∧ t.reports sr tag stDone ∧ (∀ q ∈ t.ring.jobs, ¬(q.sr = sr ∧ q.tag = tag))) ∧
   (∀ (sr tag n k m : Nat) (s : State) (j target : Job) (r : Sr) (q : Qp), s.ready sr tag 0xF0 j → dby j.desc 8 2 = n → dby j.desc 10 2 = k →
     rsvdZero j.desc [(8, 4)] = true → Tbl.find s.ring.srs n = some r → (r.slice = j.slice ∨ j.sr = 0 ∨ j.slice = 0) → ¬(n = sr ∧ k = tag) → j.p 0 ≠ 1 →
     s.coreState (s.ringCore n) ≠ 2 → s.abortFetched n r j = true → s.job n k = some target → s.feuEnded target = false → s.noSnap n k →
     0x30 ≤ dOpcode target.desc → dOpcode target.desc ≤ 0x38 → s.tmt.qps = [(m, q)] → q.msgs.any (fun x => x.op < 0x100 && x.sr = n && x.tag = k) = true →
     (∀ x ∈ q.msgs, x.sr = n → x.tag = k → x.started = false ∧ x.op < 0x100) → (∀ x ∈ q.msgs, ¬(x.sr = sr ∧ x.tag = tag)) →
     answers (.abort sr tag) s fun t => t.reportsWith n k stAborted 0 ∧ t.reports sr tag stDone ∧
       ∃ q', Tbl.find t.tmt.qps m = some q' ∧ q'.msgs = q.msgs.filter (fun x => !(x.sr = n && x.tag = k)) ∧ q'.state = q.state) ∧
   (∀ (sr tag : Nat) (s : State) (j : Job), s.ready sr tag 0x84 j → rsvdZero j.desc [(8, 1)] = true → dby j.desc 8 1 = 0 → j.slice ≠ 0 →
     (s.slice j.slice).state = .orphaned → (s.slice j.slice).tearing = false → (∀ c ∈ s.ring.unwritten, c.ofSlice j.slice = false) →
     answers (.adoptSlice sr tag) s fun t => t.reports sr tag stSuccess ∧ (t.slice j.slice).state = (s.slice j.slice).prev) ∧
   (∀ (sr tag : Nat) (s : State) (j : Job), s.ready sr tag 0x84 j → rsvdZero j.desc [(8, 1), (16, 9), (28, 8)] = true → dby j.desc 8 1 = 1 → j.slice ≠ 0 → sr = 0 →
     (s.slice j.slice).state = .orphaned → (s.slice j.slice).tearing = false → dby j.desc 24 1 = 0 → dby j.desc 32 4 = 0 → dby j.desc 16 8 % 32 = 0 → s.dmaOk 0 = true →
     (∀ q ∈ s.ring.srs, q.2.slice = j.slice → q.2.covered = 0) → (∀ q ∈ s.ring.jobs, q.slice = j.slice → q.sr = 0) →
     (s.ring.unwritten.filter (fun c => c.ofSlice j.slice)).length ≤ dby j.desc 28 4 → (s.ring.unwritten.filter (fun c => c.ofSlice j.slice)).length < 2 ^ 32 →
     answers (.adoptSlice sr tag) s fun t =>
       t.reportsWith sr tag stSuccess (s.ring.unwritten.filter (fun c => c.ofSlice j.slice)).length ∧ (t.slice j.slice).tearing = true ∧
       Mem.bytes t.pcie.host (dby j.desc 16 8) (32 * (s.ring.unwritten.filter (fun c => c.ofSlice j.slice)).length) =
         ((s.ring.unwritten.filter (fun c => c.ofSlice j.slice)).map (fun c => cplBytes c (s.srHead c.sr) true)).flatten ∧
       (∀ q ∈ t.ring.srs, q.2.slice ≠ j.slice) ∧ (∀ q ∈ t.ring.crs, q.2.slice ≠ j.slice)))

/-- (1) Cells by command (R86): a halt request halts a running cell at its boundary; a resumed one runs; a single step issues one instruction of a HALTED
cell and leaves it HALTED when it goes on; clearing a fault clears the record's valid bit and leaves the cell LOADED. Other cells and all memory
stand. (2) The cell store (R68): a word read with a corrected error is rewritten, and its marks go; the scrub counts an uncorrectable word of an awake
store and leaves it, and counts a corrected one, which then waits to be rewritten. No byte of memory changes. In part the model's choices: log entries
13 and 122. -/
def Obligations.CellCommandsAndStores : Prop :=
  ((∀ (c : Nat) (s : State), c < 1536 → s.cellState c = csRunning → (s.seq c).stall = none →
     answers (.cellHaltRequest c) s fun t => t.cellState c = csHalted ∧ t.rf (R.LAT_CELL_CTRL c) 0 1 = 1 ∧ t.seqs = s.seqs ∧ t.mem = s.mem) ∧
   (∀ (c : Nat) (s : State), c < 1536 → s.cellState c = csRunning → (s.seq c).stall ≠ none →
     answers (.cellHaltRequest c) s fun t => t.cellState c = csRunning ∧ (t.seq c).haltAt = true ∧ t.mem = s.mem) ∧
   (∀ (c : Nat) (s : State), c < 1536 → s.cellState c = csHalted →
     answers (.cellResume c) s fun t => t.cellState c = csRunning ∧ t.rf (R.LAT_CELL_CTRL c) 0 1 = 0 ∧ (t.seq c).pc = (s.seq c).pc ∧ t.mem = s.mem) ∧
   (∀ (c : Nat) (s : State), c < 1536 → s.cellState c = csFaulted →
     answers (.cellFaultClear c) s fun t => t.cellState c = csLoaded ∧ t.rf (R.LAT_CELL_MCA c) 8 1 = 0 ∧ t.seqs = s.seqs ∧ t.mem = s.mem) ∧
   (∀ (c : Nat) (s : State) (e : Enc) (bs : List Byte), c < 1536 → s.canIssue c true = true → s.fetchAt c (s.seq c) = .instr e bs → e.op = 0x02 →
     (s.land c).clearsChecks c e → e.waive = false →
     answers (.cellStep c 0) s fun t => (s.land c).wrote t c e ⟨tgInt, extend tgInt e.width e.imm⟩ 0 ∧ t.cellState c = csHalted)) ∧
  ((∀ (c off : Nat) (s : State), s.mem.rewrite.contains (cellDpa c (off / 8 * 8)) = true →
     answers (.cellStoreCeRewrite c off) s fun t =>
       t.mem.rewrite.contains (cellDpa c (off / 8 * 8)) = false ∧ t.mem.weak.contains (cellDpa c (off / 8 * 8)) = false ∧
       t.mem.bytes = s.mem.bytes ∧ t.mem.bad = s.mem.bad ∧ t.regs = s.regs ∧ t.seqs = s.seqs) ∧
   (∀ (c off : Nat) (s : State), c < 1536 → off < 0x180000 → s.hubAwake (c / 128) = true → s.mem.bad.contains (cellDpa c (off / 8 * 8)) = true →
     answers (.cellStoreScrub c off) s fun t =>
       t.ctrVal (R.LAT_CELL_STORE_UE c) = min (s.ctrVal (R.LAT_CELL_STORE_UE c) + 1) 0xFFFFFFFF ∧ t.mem = s.mem ∧ t.seqs = s.seqs) ∧
   (∀ (c off : Nat) (s : State), c < 1536 → off < 0x180000 → s.hubAwake (c / 128) = true → s.mem.bad.contains (cellDpa c (off / 8 * 8)) = false →
     s.mem.weak.contains (cellDpa c (off / 8 * 8)) = true →
     answers (.cellStoreScrub c off) s fun t =>
       t.ctrVal (R.LAT_CELL_STORE_CE c) = min (s.ctrVal (R.LAT_CELL_STORE_CE c) + 1) 0xFFFFFFFF ∧
       t.mem.rewrite.contains (cellDpa c (off / 8 * 8)) = true ∧ t.mem.bytes = s.mem.bytes ∧ t.mem.weak = s.mem.weak))

/-- (1) Frame and spine tables (R76, R78): a commit marks the staged table pending; at the frame boundary it takes effect in every entry but those of
pipelines that stay loaded, which keep theirs, the tables of other hubs standing, and pending clears. (2) Crumbs and credits (R72 to R75, R78, R79):
in its slot a sender with a released crumb and a credit sends its next 64 bytes and gives up one credit; a crumb that reaches its receiver is written
at the channel buffer's next place; a credit record gives its credits back, never above the channel's size; a reserved spine slot takes the crumb from
the gate's queue to the gate across at the receiver's hub, or on to the next link of its route, and a free one serves arbitrated traffic whose route
it lies on; a store slot serves a waiting neighbour load or store. In part the model's choices: log entry 145. (3) Streams (R80 to R83): an idle
buffer's next read line is requested under its grant and counted; a read line that returns is written into the ring with the declared tag; a write
that is due lands and leaves the write queue. In part the model's choices: log entries 24, 25 and 134. -/
def Obligations.LatticeMoves : Prop :=
  ((∀ (h : Nat) (s : State), h < 12 →
     exec (.frameTableCommit h) s = .next (s.wf (R.LAT_HUB_COMMIT h) 1 1 1) ∧ exec (.spineTableCommit h) s = .next (s.wf (R.SPN_CTRL h) 1 1 1)) ∧
   (∀ (h : Nat) (s : State), h < 12 → Tbl.wf s.regs = true → s.rf (R.LAT_HUB_COMMIT h) 1 1 = 1 →
     answers (.frameTableApply h) s fun t =>
       t.rf (R.LAT_HUB_COMMIT h) 1 1 = 0 ∧ (∀ j, j ≠ h → Tbl.get t.lat.frames j [] = Tbl.get s.lat.frames j []) ∧
       (∀ l d slot, l < 280 → d < 2 → slot < 256 →
         t.frame h l d slot = if frameKey l d slot ∈ s.heldFrames h then s.frame h l d slot
           else Tbl.get s.regs (R.LAT_HUB_FRAME_ENTRY h 0 + 2 * frameKey l d slot) freeEntry) ∧
       t.lat.crumbs = s.lat.crumbs ∧ t.mem = s.mem) ∧
   (∀ (h : Nat) (s : State), h < 12 → Tbl.wf s.regs = true → s.rf (R.SPN_CTRL h) 1 1 = 1 →
     answers (.spineTableApply h) s fun t =>
       t.rf (R.SPN_CTRL h) 1 1 = 0 ∧ (∀ j, j ≠ h → Tbl.get t.lat.spines j [] = Tbl.get s.lat.spines j []) ∧
       (∀ n slot, n < 4 → slot < 1000 → t.spine h n slot = Tbl.get s.regs (R.SPN_TABLE_ENTRY h 0 + 2 * spineKey n slot) freeEntry) ∧
       t.lat.crumbs = s.lat.crumbs ∧ t.mem = s.mem)) ∧
  ((∀ (h l d slot x pn i : Nat) (k : Chan) (s s1 : State) (p : Pipe) (ws : List TW), h < 12 → l < 280 → d < 2 → slot < 256 → linkFrom l d = .cell x →
     entryChan (s.frame h l d slot) < 0x3FE → s.chanAt h (entryChan (s.frame h l d slot)) = some (pn, i, k) → k.sCell = h * 128 + x →
     s.sends (h * 128 + x) = true → k.sent < k.put → s.gateFull h pn i k = false → k.credits ≠ 0 → Tbl.find s.pipes.tab pn = some p →
     s.wordsAt (cellDpa (h * 128 + x) (64 * Config.sendBase p.img.digest (h * 128 + x) k.sIdx + 64 * (k.sent % k.size))) 8 [] = (s1, some ws) →
     answers (.crumbSend h l d slot) s fun t =>
       t.lat.crumbs = s1.lat.crumbs ++ [⟨pn, i, h, l, d, slot, ws⟩] ∧
       t.chans = Tbl.upd s1.chans pn (fun cs => ((List.range cs.length).zip cs).map (fun p => if p.1 = i then { p.2 with sent := p.2.sent + 1, credits := p.2.credits - 1 } else p.2)) ∧
       t.mem = s1.mem) ∧
   (∀ (i : Nat) (s : State) (c : Crumb) (ch : Chan) (p : Pipe) (x : Nat), s.lat.crumbs[i]? = some c → (Tbl.get s.chans c.pipe [])[c.chan]? = some ch →
     Tbl.find s.pipes.tab c.pipe = some p → linkTo c.link c.dir = .cell x → ch.rCell = c.hub * 128 + x →
     answers (.crumbHop i 0 false) s fun t =>
       t.lat.crumbs = s.lat.crumbs.eraseIdx i ∧ t.mem = (s.putWords (cellDpa ch.rCell (ch.buf + 64 * (ch.recv % ch.size))) c.words).mem ∧
       (Tbl.get t.chans c.pipe [])[c.chan]? = some { ch with recv := ch.recv + 1 } ∧ t.regs = s.regs) ∧
   (∀ (i pn c n : Nat) (s : State) (ch : Chan), s.lat.credits[i]? = some (pn, c, n) → (Tbl.get s.chans pn [])[c]? = some ch →
     answers (.creditReturn i) s fun t =>
       (Tbl.get t.chans pn [])[c]? = some { ch with credits := min ch.size (ch.credits + n) } ∧ t.lat.credits = s.lat.credits.eraseIdx i ∧
       (∀ p, p ≠ pn → Tbl.get t.chans p [] = Tbl.get s.chans p []) ∧ t.lat.crumbs = s.lat.crumbs ∧ t.mem = s.mem ∧ t.regs = s.regs) ∧
   (∀ (h n slot pn i : Nat) (arb : Option (Nat × Nat × Bool)) (k : Chan) (s : State) (g : GateCrumb) (rest : List GateCrumb), h < 12 → n < 4 → slot < 1000 →
     entryChan (s.spine h n slot) ≠ 0x3FF → s.chanAt (spineTo h n) (entryChan (s.spine h n slot)) = some (pn, i, k) →
     takeFirst (fun g => g.hub = h && g.link = n && !g.inb && g.pipe = pn && g.chan = i) s.lat.gates = some (g, rest) →
     s.clk.xings.contains (4 * spineTo h n + acrossLink n) = false →
     (routeLink (spineTo h n) (k.rCell / 128) = none → s.gateCount (spineTo h n) (acrossLink n) true pn i < 16 →
       exec (.spineSlot h n slot arb) s =
         .next { s with lat := { s.lat with gates := rest ++ [{ g with hub := spineTo h n, link := acrossLink n, inb := true }] } }) ∧
     (∀ m, routeLink (spineTo h n) (k.rCell / 128) = some m → s.gateCount (spineTo h n) m false pn i < 16 →
       exec (.spineSlot h n slot arb) s = .next { s with lat := { s.lat with gates := rest ++ [{ g with hub := spineTo h n, link := m, inb := false }] } })) ∧
   (∀ (h n slot : Nat) (s : State), h < 12 → n < 4 → slot < 1000 → entryChan (s.spine h n slot) = 0x3FF →
     exec (.spineSlot h n slot none) s = .next s ∧
     (∀ src dst back, (trafficHops src dst back).contains (h, n) = true → s.hubDown (spineTo h n) = false →
       exec (.spineSlot h n slot (some (src, dst, back))) s = .next (s.cnt (R.SPN_ARB_CRUMBS h n)))) ∧
   (∀ (k slot win off rd tag data x : Nat) (swap old : TW) (s s1 : State), (s.seq k).stall = some (.nbr 3 win off rd tag data swap) →
     s.storeSlotAt k win slot = true → nbrCell k win = some x → s.wordAt (cellDpa x off) = (s1, some old) →
     exec (.storeSlotAccess k ⟨slot, 0, 0, 0⟩) s = .next (s1.resume k rd old)) ∧
   (∀ (k slot win off rd tag data x : Nat) (swap : TW) (s : State), (s.seq k).stall = some (.nbr 4 win off rd tag data swap) →
     s.storeSlotAt k win slot = true → nbrCell k win = some x →
     exec (.storeSlotAccess k ⟨slot, 0, 0, 0⟩) s = .next ((s.putWord (cellDpa x off) ⟨tag, data⟩).resume k rd ((s.seq k).reg rd)))) ∧
  ((∀ (k j : Nat) (s : State) (g : Region × Nat), k < 1536 → j < 2 → s.strmMayIssue k j = true → (s.seq k).fence = false → strmWrites (s.strmReg k j) = false →
     ((s.seq k).stream j).issued - ((s.seq k).stream j).cons < strmCap (s.strmReg k j) →
     s.grant k (strmAddr (s.strmReg k j) ((s.seq k).stream j).row ((s.seq k).stream j).col) 64 33 = some g →
     answers (.streamLineIssue k j) s fun t =>
       ((t.seq k).stream j).inFlight = ((s.seq k).stream j).inFlight ++
         [(((s.seq k).stream j).issued, strmAddr (s.strmReg k j) ((s.seq k).stream j).row ((s.seq k).stream j).col)] ∧
       ((t.seq k).stream j).issued = ((s.seq k).stream j).issued + 1 ∧
       ((t.seq k).stream j).busy = decide (((s.seq k).stream j).issued + 1 < strmLines (s.strmReg k j)) ∧ t.mem = s.mem ∧ t.regs = s.regs) ∧
   (∀ (k j i a : Nat) (rest : List (Nat × Nat)) (s u : State) (g : Region × Nat) (bs : List Byte), ((s.seq k).stream j).inFlight = (i, a) :: rest →
     s.grant k a 64 33 = some g → s.regionWaits g.1 g.2 64 = false →
     (j = 1 → (s.seq k).s1.head? ≠ some false ∧ s.mem.guardWait.any (fun w => w.owner = cellOwnerNum k 1) = false) →
     (s.updSeq k (fun q => { (q.setStream j { ((s.seq k).stream j) with inFlight := rest }) with s1 := if j = 1 then q.s1.drop 1 else q.s1 })).readRegion g.1 g.2 64 = .ok u bs →
     answers (.streamLineReturn k j) s fun t =>
       ((t.seq k).stream j).prod = i + 1 ∧
       t.mem = (u.putWords (cellDpa k (strmBuf (s.strmReg k j) + i % strmCap (s.strmReg k j) * 64))
         ((List.range 8).map (fun w => TW.mk (strmType (s.strmReg k j)) (leAt bs (8 * w) 8)))).mem) ∧
   (∀ (k j a dpa : Nat) (bs : List Byte) (rest : List (Nat × Nat × List (Nat × List Byte))) (s u : State),
     s.mem.guardWait.any (fun w => w.owner = cellOwnerNum k j) = false → Tbl.find s.mem.guardFail (cellOwnerNum k j) = none →
     takeFirst (fun w => w.1 = j) (s.seq k).wq = some ((j, a, [(dpa, bs)]), rest) → s.hubDown (dpa / hubBytes) = false →
     (j = 1 → (s.seq k).s1.head? ≠ some true) →
     (s.updSeq k (fun q => { q with wq := rest, s1 := if j = 1 then q.s1.drop 1 else q.s1 })).writePiece dpa bs a (cellOwnerNum k j) = .ok u () →
     exec (.streamWriteVisible k j) s = .next u))

/-- (1) Every instruction command runs its instruction (R130, R131, R141): where sequencer k issues and finds the command's opcode, the command's meaning
is that opcode's; where it finds another, or does not issue, nothing happens. CELL_STEP gives the same opcode the same meaning. In part the model's
choices: log entries 22 and 122. (2) The checks before an instruction's effect, in the order of R141: an illegal one takes ILLEGAL, a privileged one
outside kernel mode PRIV; one whose predicate is false retires in one cycle and does nothing else; a predicate that is no BOOL takes a tag trap at
position 4. (3) Tag traps (R119, R140): an integer instruction whose first operand is no integer takes TAG at position 1 and writes no register of its
destination; nothing but the trap's own state changes. In part the model's choices: log entry 20. -/
def Obligations.InstructionChecks : Prop :=
  (∀ p ∈ instructionRows, ∀ (k u : Nat) (s : State),
     (∀ e bs, s.finds k p.2.1 e bs → exec (p.1 k u) s = .next (s.runInstr k u e bs p.2.2)) ∧
     (∀ e bs, s.canIssue k false = true → s.fetchAt k (s.seq k) = .instr e bs → e.op ≠ p.2.1 → exec (p.1 k u) s = .next s) ∧
     (s.canIssue k false = false → exec (p.1 k u) s = .next s) ∧
     (p.2.1 < 0xF300 → ∀ e bs, k < 1536 → s.canIssue k true = true → s.fetchAt k (s.seq k) = .instr e bs → e.op = p.2.1 →
       exec (.cellStep k u) s = .next (s.runInstr k u e bs p.2.2))) ∧
  (∀ (k u : Nat) (s : State) (e : Enc) (bs : List Byte) (body : State → Nat → Seq → Enc → Did), k < 1536 → (s.seq k).macUpset u = none →
     (e.legal false ((s.issuing k e).seq k).ti = false → s.runInstr k u e bs body = (s.issuing k e).takeTrap k cIllegal (leNat (bs.take 8)) e.len) ∧
     (e.legal false ((s.issuing k e).seq k).ti = true → e.privileged = true → ((s.issuing k e).seq k).kernel = false →
       s.runInstr k u e bs body = (s.issuing k e).takeTrap k cPriv (leNat (bs.take 8)) e.len) ∧
     (∀ p, e.legal false ((s.issuing k e).seq k).ti = true → e.privileged = false → e.pred = some p → (((s.issuing k e).seq k).reg (p % 32)).tag ≠ tgBool →
       s.runInstr k u e bs body = (s.issuing k e).takeTrap k cTag (tagTval1 (((s.issuing k e).seq k).reg (p % 32)).tag 4) e.len) ∧
     (∀ p, e.legal false ((s.issuing k e).seq k).ti = true → e.privileged = false → e.pred = some p → e.cntr = none →
       (((s.issuing k e).seq k).reg (p % 32)).tag = tgBool → (((s.issuing k e).seq k).reg (p % 32)).val % 2 = b2n (bit p 5) →
       s.runInstr k u e bs body = (s.issuing k e).retire k e.len 1 0)) ∧
  (∀ (k : Nat) (s : State) (e : Enc) (c : Nat → Nat → Instr) (op : Nat),
     (c, op) ∈ ([(.shl, 0x28), (.shr, 0x29), (.sar, 0x2A), (.rol, 0x2B), (.ror, 0x2C), (.min, 0x2D), (.max, 0x2E), (.cmplt, 0x32), (.cmple, 0x33),
       (.popc, 0x34), (.clz, 0x35), (.ctz, 0x36), (.neg, 0x26), (.abs, 0x27), (.not, 0x25)] : List ((Nat → Nat → Instr) × Nat)) →
     s.executes k op e → (((s.issuing k e).seq k).reg e.a).tag = tgF64 →
     exec (c k 0) s = .next ((s.issuing k e).takeTrap k cTag (e.tagTval ((s.issuing k e).seq k) 0 1) e.len))

/-- (1) Moves (R130, R138): rd takes the value and tag the instruction gives it; NOP takes none. (2) RETAG in kernel mode under WAIVE (R130, R145): rd
takes the payload of rs1 under the tag of the immediate. -/
def Obligations.MovesAndRetag : Prop :=
  ((∀ (k : Nat) (s : State) (e : Enc), s.executes k 0x00 e →
     answers (.nop k 0) s fun t => (s.issuing k e).wentOn t k e (e.reps ((s.issuing k e).seq k)) 0 ∧ (t.seq k).r = ((s.issuing k e).seq k).r) ∧
   (∀ (k : Nat) (s : State) (e : Enc), s.executes k 0x01 e →
     answers (.mov k 0) s fun t => (s.issuing k e).wrote t k e (((s.issuing k e).seq k).reg e.a) 0) ∧
   (∀ (k : Nat) (s : State) (e : Enc), s.executes k 0x02 e →
     answers (.movi k 0) s fun t => (s.issuing k e).wrote t k e ⟨tgInt, wrapInt 64 (signed e.width e.imm)⟩ 0) ∧
   (∀ (k : Nat) (s : State) (e : Enc), s.executes k 0x03 e → answers (.moviu k 0) s fun t => (s.issuing k e).wrote t k e ⟨tgUint, e.imm⟩ 0) ∧
   (∀ (k : Nat) (s : State) (e : Enc), s.executes k 0x04 e → answers (.clr k 0) s fun t => (s.issuing k e).wrote t k e ⟨0, 0⟩ 0) ∧
   (∀ (k : Nat) (s : State) (e : Enc), s.executes k 0x05 e → (((s.issuing k e).seq k).reg e.a).tag = tgInt →
     answers (.cast k 0) s fun t => (s.issuing k e).wrote t k e ⟨tgUint, (((s.issuing k e).seq k).reg e.a).val⟩ 0) ∧
   (∀ (k : Nat) (s : State) (e : Enc), s.executes k 0x05 e → (((s.issuing k e).seq k).reg e.a).tag = tgUint →
     answers (.cast k 0) s fun t => (s.issuing k e).wrote t k e ⟨tgInt, (((s.issuing k e).seq k).reg e.a).val⟩ 0) ∧
   (∀ (k : Nat) (s : State) (e : Enc), s.executes k 0x06 e → (((s.issuing k e).seq k).reg e.a).tag = tgUint →
     answers (.mkaddr k 0) s fun t => (s.issuing k e).wrote t k e ⟨tgAddr, e.imm * 2 ^ 60 + (((s.issuing k e).seq k).reg e.a).val % 2 ^ 60⟩
       (if (((s.issuing k e).seq k).reg e.a).val < 2 ^ 60 then 0 else fOV)) ∧
   (∀ (k : Nat) (s : State) (e : Enc), s.executes k 0x08 e → (e.imm = 0 → ((s.issuing k e).seq k).units = []) →
     (∀ t v, (s.issuing k e).special k ((s.issuing k e).seq k) e.imm = (t, v) → answers (.movg k 0) s fun t => (s.issuing k e).wrote t k e v 0)) ∧
   (∀ (k : Nat) (s : State) (e : Enc), s.executes k 0x07 e → specialTag e.imm = some tgUint → e.imm ≠ 0 → e.imm ≠ 2 → e.imm ≠ 0x87 →
     ¬(0x40 ≤ e.imm ∧ e.imm ≤ 0x4F) → (((s.issuing k e).seq k).reg e.rd).tag = tgUint →
     answers (.movs k 0) s fun t => (s.issuing k e).wentOn t k e 1 0 ∧ (t.seq k).r = ((s.issuing k e).seq k).r ∧
       (∀ n, specialListed (isCore k) n = true → n ≠ 1 → n ≠ 3 → ¬(0x40 ≤ n ∧ n ≤ 0x4F) → ¬(isCore k = true ∧ (n = 0x27 ∨ n = 0x28)) → n ≠ 0x88 →
         n ≠ e.imm → (t.special k (t.seq k) n).2 = ((s.issuing k e).special k ((s.issuing k e).seq k) n).2) ∧
       (e.imm ∈ [0x20, 0x21, 0x24, 0x26, 0x82, 0x83, 0x86] → (t.special k (t.seq k) e.imm).2 = ⟨tgUint, (((s.issuing k e).seq k).reg e.rd).val % 2 ^ 64⟩)) ∧
   (∀ (k : Nat) (s : State) (e : Enc), s.executes k 0x07 e → e.imm = 2 → (((s.issuing k e).seq k).reg e.rd).tag = tgUint →
     (((s.issuing k e).seq k).reg e.rd).val ≤ 2 ^ 20 →
     answers (.movs k 0) s fun t => (t.seq k).vl = (((s.issuing k e).seq k).reg e.rd).val ∧ (s.issuing k e).wentOn t k e 1 0)) ∧
  (∀ (k : Nat) (s : State) (e : Enc) (bs : List Byte), s.finds k 0x09 e bs → (s.issuing k e).clearsChecks k e →
     answers (.retag k 0) s fun t => (s.issuing k e).wrote t k e ⟨e.imm, (((s.issuing k e).seq k).reg e.a).val⟩ 0)

/-- (1) Integer results at the operation width (R127, R132): each instruction writes the exact result, reduced to the width and extended by its tag, and
sets OV where it does not fit; logic, shifts and counts set no flag. (2) Comparisons (R119, R130): the result is a BOOL, and no flag is set but by an
ordering of a NaN (R97). (3) The multiplier and divider (R122, R123, R132): a product falls due four issue cycles later, three at width 32, in the m
register named; a quotient and a remainder fall due twenty later; what is due lands, and only then is the register written. In part the model's
choices: log entry 21. -/
def Obligations.IntegerArithmetic : Prop :=
  ((∀ (k t : Nat) (s : State) (e : Enc) (c : Nat → Nat → Instr) (op : Nat) (f : Int → Int → Int),
     (c, op, f) ∈ ([(.add, 0x20, (· + ·)), (.sub, 0x21, (· - ·)), (.min, 0x2D, min), (.max, 0x2E, max)] : List ((Nat → Nat → Instr) × Nat × (Int → Int → Int))) →
     s.executes k op e → e.reps ((s.issuing k e).seq k) = 1 → (t = tgInt ∨ t = tgUint) → (((s.issuing k e).seq k).reg e.a).tag = t →
     (e.src2 ((s.issuing k e).seq k)).tag = t →
     answers (c k 0) s fun u => (s.issuing k e).wrote u k e
       (narrow t e.width (f (tagVal t e.width (((s.issuing k e).seq k).reg e.a).val) (tagVal t e.width (e.src2 ((s.issuing k e).seq k)).val))).1
       (narrow t e.width (f (tagVal t e.width (((s.issuing k e).seq k).reg e.a).val) (tagVal t e.width (e.src2 ((s.issuing k e).seq k)).val))).2) ∧
   (∀ (k t : Nat) (s : State) (e : Enc) (c : Nat → Nat → Instr) (op : Nat) (f : Nat → Nat → Nat),
     (c, op, f) ∈ ([(.and, 0x22, Nat.land), (.or, 0x23, Nat.lor), (.xor, 0x24, Nat.xor)] : List ((Nat → Nat → Instr) × Nat × (Nat → Nat → Nat))) →
     s.executes k op e → e.reps ((s.issuing k e).seq k) = 1 → (t = tgInt ∨ t = tgUint ∨ t = tgBool) → (((s.issuing k e).seq k).reg e.a).tag = t →
     (e.src2 ((s.issuing k e).seq k)).tag = t →
     answers (c k 0) s fun u => (s.issuing k e).wrote u k e
       ⟨t, extend t e.width (f ((((s.issuing k e).seq k).reg e.a).val % 2 ^ e.width) ((e.src2 ((s.issuing k e).seq k)).val % 2 ^ e.width))⟩ 0) ∧
   (∀ (k : Nat) (s : State) (e : Enc), s.executes k 0x25 e → (((s.issuing k e).seq k).reg e.a).tag = tgBool →
     answers (.not k 0) s fun u => (s.issuing k e).wrote u k e ⟨tgBool, 1 - (((s.issuing k e).seq k).reg e.a).val % 2⟩ 0) ∧
   (∀ (k t : Nat) (s : State) (e : Enc), s.executes k 0x25 e → (t = tgInt ∨ t = tgUint) → (((s.issuing k e).seq k).reg e.a).tag = t →
     answers (.not k 0) s fun u => (s.issuing k e).wrote u k e ⟨t, extend t e.width (2 ^ e.width - 1 - (((s.issuing k e).seq k).reg e.a).val % 2 ^ e.width)⟩ 0) ∧
   (∀ (k x y t : Nat) (s : State) (e : Enc), s.executes k 0x20 e → e.reps ((s.issuing k e).seq k) = 1 → ((s.issuing k e).seq k).reg e.a = ⟨tgAddr, x⟩ →
     e.src2 ((s.issuing k e).seq k) = ⟨t, y⟩ → (t = tgInt ∨ t = tgUint) →
     answers (.add k 0) s fun u => (s.issuing k e).wrote u k e ⟨tgAddr, x / 2 ^ 60 * 2 ^ 60 + wrapInt 60 ((x % 2 ^ 60 : Nat) + tagVal t e.width y)⟩
       (if 0 ≤ ((x % 2 ^ 60 : Nat) : Int) + tagVal t e.width y ∧ ((x % 2 ^ 60 : Nat) : Int) + tagVal t e.width y < 2 ^ 60 then 0 else fOV)) ∧
   (∀ (k : Nat) (s : State) (e : Enc), s.executes k 0x26 e → (((s.issuing k e).seq k).reg e.a).tag = tgInt →
     answers (.neg k 0) s fun u => (s.issuing k e).wrote u k e (narrow tgInt e.width (-signed e.width (((s.issuing k e).seq k).reg e.a).val)).1
       (narrow tgInt e.width (-signed e.width (((s.issuing k e).seq k).reg e.a).val)).2) ∧
   (∀ (k : Nat) (s : State) (e : Enc), s.executes k 0x27 e → (((s.issuing k e).seq k).reg e.a).tag = tgInt →
     answers (.abs k 0) s fun u => (s.issuing k e).wrote u k e (narrow tgInt e.width ((signed e.width (((s.issuing k e).seq k).reg e.a).val).natAbs : Int)).1
       (narrow tgInt e.width ((signed e.width (((s.issuing k e).seq k).reg e.a).val).natAbs : Int)).2) ∧
   (∀ (k t x c : Nat) (s : State) (e : Enc), (t = tgInt ∨ t = tgUint) → ((s.issuing k e).seq k).reg e.a = ⟨t, x⟩ → (e.count2 ((s.issuing k e).seq k)).val = c →
     isInt (e.count2 ((s.issuing k e).seq k)).tag = true →
     (s.executes k 0x28 e → answers (.shl k 0) s fun u => (s.issuing k e).wrote u k e ⟨t, extend t e.width (x % 2 ^ e.width * 2 ^ c)⟩ 0) ∧
     (s.executes k 0x29 e → answers (.shr k 0) s fun u => (s.issuing k e).wrote u k e ⟨t, extend t e.width (x % 2 ^ e.width / 2 ^ c)⟩ 0) ∧
     (s.executes k 0x2A e → answers (.sar k 0) s fun u => (s.issuing k e).wrote u k e ⟨t, extend t e.width (wrapInt e.width (signed e.width x / 2 ^ c))⟩ 0) ∧
     (s.executes k 0x2B e → answers (.rol k 0) s fun u => (s.issuing k e).wrote u k e
       ⟨t, extend t e.width (x % 2 ^ e.width * 2 ^ (c % e.width) + x % 2 ^ e.width / 2 ^ (e.width - c % e.width))⟩ 0) ∧
     (s.executes k 0x2C e → answers (.ror k 0) s fun u => (s.issuing k e).wrote u k e
       ⟨t, extend t e.width (x % 2 ^ e.width / 2 ^ (c % e.width) + x % 2 ^ e.width * 2 ^ (e.width - c % e.width))⟩ 0)) ∧
   (∀ (k t x : Nat) (s : State) (e : Enc), (t = tgInt ∨ t = tgUint) → ((s.issuing k e).seq k).reg e.a = ⟨t, x⟩ →
     (s.executes k 0x34 e → answers (.popc k 0) s fun u => (s.issuing k e).wrote u k e
       ⟨t, ((List.range e.width).filter (fun i => x.testBit i)).length⟩ 0) ∧
     (s.executes k 0x35 e → ∃ n, (answers (.clz k 0) s fun u => (s.issuing k e).wrote u k e ⟨t, n⟩ 0) ∧ n ≤ e.width ∧ x % 2 ^ e.width < 2 ^ (e.width - n) ∧
       (n < e.width → 2 ^ (e.width - n - 1) ≤ x % 2 ^ e.width)) ∧
     (s.executes k 0x36 e → ∃ n, (answers (.ctz k 0) s fun u => (s.issuing k e).wrote u k e ⟨t, n⟩ 0) ∧ n ≤ e.width ∧
       (∀ i, i < n → x.testBit i = false) ∧ (n < e.width → x.testBit n = true)))) ∧
  ((∀ (k t : Nat) (s : State) (e : Enc) (x y : Int), (t = tgInt ∨ t = tgUint) → (((s.issuing k e).seq k).reg e.a).tag = t → (e.src2 ((s.issuing k e).seq k)).tag = t →
     tagVal t e.width (((s.issuing k e).seq k).reg e.a).val = x → tagVal t e.width (e.src2 ((s.issuing k e).seq k)).val = y →
     (s.executes k 0x30 e → answers (.cmpeq k 0) s fun u => (s.issuing k e).wrote u k e ⟨tgBool, if x = y then 1 else 0⟩ 0) ∧
     (s.executes k 0x31 e → answers (.cmpne k 0) s fun u => (s.issuing k e).wrote u k e ⟨tgBool, if x = y then 0 else 1⟩ 0) ∧
     (s.executes k 0x32 e → answers (.cmplt k 0) s fun u => (s.issuing k e).wrote u k e ⟨tgBool, if x < y then 1 else 0⟩ 0) ∧
     (s.executes k 0x33 e → answers (.cmple k 0) s fun u => (s.issuing k e).wrote u k e ⟨tgBool, if x ≤ y then 1 else 0⟩ 0)) ∧
   (∀ (k x y : Nat) (s : State) (e : Enc), ((s.issuing k e).seq k).reg e.a = ⟨tgF64, x⟩ → ((s.issuing k e).seq k).reg e.b = ⟨tgF64, y⟩ →
     ((Fmt.binary64.decode x).isNan || (Fmt.binary64.decode y).isNan) = true →
     (s.executes k 0x56 e → answers (.fcmpeq k 0) s fun u => (s.issuing k e).wrote u k e ⟨tgBool, 0⟩ 0) ∧
     (s.executes k 0x57 e → answers (.fcmplt k 0) s fun u => (s.issuing k e).wrote u k e ⟨tgBool, 0⟩ fOV) ∧
     (s.executes k 0x58 e → answers (.fcmple k 0) s fun u => (s.issuing k e).wrote u k e ⟨tgBool, 0⟩ fOV)) ∧
   (∀ (k x : Nat) (s : State) (e : Enc), ((s.issuing k e).seq k).reg e.a = ⟨tgF64, x⟩ → ((s.issuing k e).seq k).reg e.b = ⟨tgF64, x⟩ →
     (Fmt.binary64.decode x).isNan = false →
     (s.executes k 0x56 e → answers (.fcmpeq k 0) s fun u => (s.issuing k e).wrote u k e ⟨tgBool, 1⟩ 0) ∧
     (s.executes k 0x57 e → answers (.fcmplt k 0) s fun u => (s.issuing k e).wrote u k e ⟨tgBool, 0⟩ 0) ∧
     (s.executes k 0x58 e → answers (.fcmple k 0) s fun u => (s.issuing k e).wrote u k e ⟨tgBool, 1⟩ 0))) ∧
  ((∀ (k t : Nat) (s : State) (e : Enc) (c : Nat → Nat → Instr) (op kind : Nat) (v : Nat × Int × Bool),
     (c, op, kind) ∈ ([(.mul, 0x40, 0), (.mulh, 0x41, 1), (.mac, 0x42, 2)] : List ((Nat → Nat → Instr) × Nat × Nat)) →
     s.executes k op e → e.reps ((s.issuing k e).seq k) = 1 → (t = tgInt ∨ t = tgUint) → (((s.issuing k e).seq k).reg e.a).tag = t → (((s.issuing k e).seq k).reg e.b).tag = t →
     mulValue kind e.width (((s.issuing k e).seq k).reg e.a) (((s.issuing k e).seq k).reg e.b) = .ok v →
     answers (c k 0) s fun u => (s.issuing k e).wentOn u k e 1 0 ∧ (u.seq k).r = ((s.issuing k e).seq k).r ∧
       (u.seq k).flight = ((s.issuing k e).seq k).flight ++
         [⟨32 + e.rd, ((s.issuing k e).seq k).icount + (if e.width = 64 then 4 else 3), v.1, v.2.1, decide (kind = 2), e.width, v.2.2, ((s.issuing k e).seq k).pc⟩]) ∧
   (∀ (w t x y : Nat) (v : Nat × Int × Bool), (t = tgInt ∨ t = tgUint) →
     (mulValue 0 w ⟨t, x⟩ ⟨t, y⟩ = .ok v → v.2.1 = tagVal t w x * tagVal t w y ∧ (v.2.2 = true ↔ tagVal t w (wrapInt w (tagVal t w x * tagVal t w y)) ≠ tagVal t w x * tagVal t w y)) ∧
     (mulValue 1 w ⟨t, x⟩ ⟨t, y⟩ = .ok v → v.2.1 = tagVal t w x * tagVal t w y / 2 ^ w ∧ v.2.2 = false) ∧
     (mulValue 2 w ⟨t, x⟩ ⟨t, y⟩ = .ok v → v.2.1 = tagVal t w x * tagVal t w y ∧ v.2.2 = false)) ∧
   (∀ (k t x y : Nat) (s : State) (e : Enc), s.executes k 0x43 e → (t = tgInt ∨ t = tgUint) → ((s.issuing k e).seq k).reg e.a = ⟨t, x⟩ →
     ((s.issuing k e).seq k).reg e.b = ⟨t, y⟩ → tagVal t e.width y ≠ 0 →
     answers (.div k 0) s fun u => (s.issuing k e).wentOn u k e 1 0 ∧ (u.seq k).r = ((s.issuing k e).seq k).r ∧
       ∃ ov p, (u.seq k).flight = ((s.issuing k e).seq k).flight ++
         [⟨36, ((s.issuing k e).seq k).icount + 20, t, Int.tdiv (tagVal t e.width x) (tagVal t e.width y), false, e.width, ov, p⟩,
          ⟨37, ((s.issuing k e).seq k).icount + 20, t, Int.tmod (tagVal t e.width x) (tagVal t e.width y), false, e.width, false, p⟩]) ∧
   (∀ (k t x y : Nat) (s : State) (e : Enc), s.executes k 0x43 e → (t = tgInt ∨ t = tgUint) → ((s.issuing k e).seq k).reg e.a = ⟨t, x⟩ →
     ((s.issuing k e).seq k).reg e.b = ⟨t, y⟩ → tagVal t e.width y = 0 →
     (((s.issuing k e).seq k).dzTrap = false → answers (.div k 0) s fun u => (s.issuing k e).wentOn u k e 1 fDZ ∧
       (u.seq k).flight.map (fun f => (f.reg, f.val)) = ((s.issuing k e).seq k).flight.map (fun f => (f.reg, f.val)) ++ [(36, 0), (37, tagVal t e.width x)]) ∧
     (((s.issuing k e).seq k).dzTrap = true →
       exec (.div k 0) s = .next (((s.issuing k e).updSeq k (fun q => q.flag fDZ)).takeTrap k cDz 0 e.len))) ∧
   (∀ (k : Nat) (s : State) (f : Flight), (s.seq k).flight = [f] → f.due ≤ (s.seq k).icount → f.mac = false →
     (f.reg < 36 → answers (.multiplierResultLand k) s fun u => (u.seq k).flight = [] ∧
       (u.seq k).reg f.reg = ⟨f.tag, extend f.tag f.width (wrapInt f.width f.val)⟩ ∧ (∀ r, r ≠ f.reg → (u.seq k).reg r = (s.seq k).reg r) ∧ u.mem = s.mem) ∧
     (36 ≤ f.reg → answers (.dividerResultLand k) s fun u => (u.seq k).flight = [] ∧
       (u.seq k).reg f.reg = ⟨f.tag, extend f.tag f.width (wrapInt f.width f.val)⟩ ∧ (∀ r, r ≠ f.reg → (u.seq k).reg r = (s.seq k).reg r) ∧ u.mem = s.mem)) ∧
   (∀ (q : Seq) (f : Flight), f.mac = true → (q.land1 f).reg f.reg = (narrow f.tag f.width (tagVal f.tag f.width (q.reg f.reg).val + f.val)).1))

/-- Floating-point results (R96, R97, R130, R512, R519): equal floating tags give a result of that tag, lane by lane; FFMA adds a product to rd; ICVT
gives a value of the tag asked for. In part the model's choices: log entry 137. -/
def Obligations.FloatingResults : Prop :=
  (∀ (k : Nat) (s : State) (e : Enc) (c : Nat → Nat → Instr) (op kind w n : Nat) (f : Fmt),
    (c, op, kind) ∈ ([(.fadd, 0x50, 0), (.fsub, 0x51, 1), (.fmul, 0x52, 2), (.ffma, 0x53, 3), (.fmin, 0x54, 4), (.fmax, 0x55, 5)] : List ((Nat → Nat → Instr) × Nat × Nat)) →
    s.executes k op e → fpTag (((s.issuing k e).seq k).reg e.a).tag = some (f, w, n) → (((s.issuing k e).seq k).reg e.b).tag = (((s.issuing k e).seq k).reg e.a).tag →
    (kind = 3 → (((s.issuing k e).seq k).reg e.rd).tag = (((s.issuing k e).seq k).reg e.a).tag) → e.rnd.getD 0 < 6 →
    ∃ v fl, (answers (c k 0) s fun u => (s.issuing k e).wrote u k e v fl) ∧ v.tag = (((s.issuing k e).seq k).reg e.a).tag ∧
      ∀ i, i < n → fld v.val (w * i) w =
        (fpLane kind f (e.mode ((s.issuing k e).seq k)) ((s.issuing k e).seq k).sat (fld (((s.issuing k e).seq k).reg e.a).val (w * i) w)
          (fld (((s.issuing k e).seq k).reg e.b).val (w * i) w) (fld (((s.issuing k e).seq k).reg e.rd).val (w * i) w)).1 % 2 ^ w) ∧
  (∀ (k x : Nat) (s : State) (e : Enc), s.executes k 0x59 e → ((s.issuing k e).seq k).reg e.a = ⟨tgUint, x⟩ → e.rnd.getD 0 < 6 → x < 2 ^ 63 →
    (e.imm = tgInt → answers (.icvt k 0) s fun u => (s.issuing k e).wrote u k e ⟨tgInt, x⟩ 0) ∧
    (e.imm = tgF64 → ∃ v fl, (answers (.icvt k 0) s fun u => (s.issuing k e).wrote u k e v fl) ∧ v.tag = tgF64)) ∧
  (∀ (k x : Nat) (s : State) (e : Enc), s.executes k 0x59 e → ((s.issuing k e).seq k).reg e.a = ⟨tgF64, x⟩ → e.rnd.getD 0 < 6 → e.imm = tgInt →
    (Fmt.binary64.decode x).isNan = true → ∃ v, answers (.icvt k 0) s fun u => (s.issuing k e).wrote u k e v fOV)

/-- (1) Control flow (R129, R130, R142): branches go to the instruction's own byte plus the offset; a conditional branch that does not hold goes on; CALL
leaves the next instruction's offset in rd; TRET goes back to epc and opens traps again; WEND ends the cell's part of the wave. (2) Traps of a cell
(R140, R142, R143): with CS.TI = 0 and a handler, epc is the pc, cause and tval say why, CS.TI is set and the pc is tvec; with none, the cell's part
ends and the cell is LOADED. BRK is such a trap with its immediate as tval. In part the model's choices: log entry 23. -/
def Obligations.ControlFlowAndTraps : Prop :=
  ((∀ (k : Nat) (s : State) (e : Enc), s.executes k 0x60 e →
     answers (.br k 0) s fun t => (s.issuing k e).branched t k (wrapInt 21 ((((s.issuing k e).seq k).pc : Int) + signed 32 e.imm)) ∧ (t.seq k).r = ((s.issuing k e).seq k).r) ∧
   (∀ (k v : Nat) (s : State) (e : Enc), ((s.issuing k e).seq k).reg e.rd = ⟨tgBool, v⟩ →
     (s.executes k 0x61 e → v % 2 = 1 → answers (.brt k 0) s fun t => (s.issuing k e).branched t k (wrapInt 21 ((((s.issuing k e).seq k).pc : Int) + signed 32 e.imm)) ∧ (t.seq k).r = ((s.issuing k e).seq k).r) ∧
     (s.executes k 0x61 e → v % 2 = 0 → answers (.brt k 0) s fun t => (s.issuing k e).wentOn t k e 1 0 ∧ (t.seq k).r = ((s.issuing k e).seq k).r) ∧
     (s.executes k 0x62 e → v % 2 = 0 → answers (.brf k 0) s fun t => (s.issuing k e).branched t k (wrapInt 21 ((((s.issuing k e).seq k).pc : Int) + signed 32 e.imm)) ∧ (t.seq k).r = ((s.issuing k e).seq k).r) ∧
     (s.executes k 0x62 e → v % 2 = 1 → answers (.brf k 0) s fun t => (s.issuing k e).wentOn t k e 1 0 ∧ (t.seq k).r = ((s.issuing k e).seq k).r)) ∧
   (∀ (k v : Nat) (s : State) (e : Enc), s.executes k 0x63 e → ((s.issuing k e).seq k).reg e.rd = ⟨tgUint, v⟩ →
     answers (.jmp k 0) s fun t => (s.issuing k e).branched t k v ∧ (t.seq k).r = ((s.issuing k e).seq k).r) ∧
   (∀ (k : Nat) (s : State) (e : Enc), s.executes k 0x64 e →
     answers (.call k 0) s fun t => (s.issuing k e).branched t k (wrapInt 21 ((((s.issuing k e).seq k).pc : Int) + signed 32 e.imm)) ∧
       (t.seq k).reg e.rd = ⟨tgUint, (((s.issuing k e).seq k).pc + e.len) % 2 ^ 21⟩ ∧ (∀ r, r ≠ e.rd → (t.seq k).reg r = ((s.issuing k e).seq k).reg r)) ∧
   (∀ (k : Nat) (s : State) (e : Enc), s.executes k 0x66 e → e.imm = 0 →
     answers (.tret k 0) s fun t => (s.issuing k e).branched t k ((s.issuing k e).seq k).epc ∧ (t.seq k).ti = false ∧ (t.seq k).r = ((s.issuing k e).seq k).r) ∧
   (∀ (k : Nat) (s : State) (e : Enc), s.executes k 0x67 e → ((s.issuing k e).seq k).units = [] →
     answers (.wend k 0) s fun t => (t.seq k).ended = true ∧ (t.seq k).flight = [] ∧ s.memStands t ∧ (∀ j, j ≠ k → t.seq j = s.seq j))) ∧
  ((∀ (k cause tval len : Nat) (s : State), k < 1536 → (s.seq k).flight = [] → (s.seq k).ti = false → (s.seq k).tvec ≠ 0 →
     ((s.takeTrap k cause tval len).seq k).epc = (s.seq k).pc ∧ ((s.takeTrap k cause tval len).seq k).cause = cause + (len - 1) % 16 * 256 ∧
     ((s.takeTrap k cause tval len).seq k).tval = tval % 2 ^ 64 ∧ ((s.takeTrap k cause tval len).seq k).ti = true ∧
     ((s.takeTrap k cause tval len).seq k).pc = (s.seq k).tvec % 2 ^ 21 ∧ ((s.takeTrap k cause tval len).seq k).r = (s.seq k).r ∧
     (s.takeTrap k cause tval len).mem = s.mem ∧ (∀ j, j ≠ k → (s.takeTrap k cause tval len).seq j = s.seq j)) ∧
   (∀ (k cause tval len : Nat) (s : State), k < 1536 → (s.seq k).flight = [] → ((s.seq k).ti = true ∨ (s.seq k).tvec = 0) → (s.seq k).pipe = none →
     ((s.takeTrap k cause tval len).seq k).ended = true ∧ (s.takeTrap k cause tval len).cellState k = csLoaded ∧ (s.takeTrap k cause tval len).mem = s.mem) ∧
   (∀ (k : Nat) (s : State) (e : Enc), s.executes k 0x65 e → exec (.brk k 0) s = .next ((s.issuing k e).takeTrap k cBrk e.imm e.len)) ∧
   (∀ (k cause tval len : Nat) (s : State) (rest : List (Nat × Nat × Nat)), k < 1536 → (s.seq k).deferred = (cause, tval, len) :: rest →
     s.hubAwake (k / 128) = true → s.cellState k = csRunning → (s.seq k).ended = false → (s.seq k).stall = none →
     exec (.deferredTrap k) s = .next ((s.updSeq k (fun q => { q with deferred := rest })).takeTrap k cause tval len)) ∧
   (∀ (k : Nat) (s : State) (bs : List Byte), k < 1536 → s.canIssue k false = true → s.fetchAt k (s.seq k) = .undef bs →
     exec (.undefinedEncoding k) s = .next (s.undefTrap k bs)))

/-- Control cores (R437, R517): an interrupt saves pc and mode in iepc, names its cause and enters kernel mode at ivec; IRET goes back to them; WFI stops
issue behind it; LDD and STD reach memory by device address. In part the model's choices: log entries 26, 98 and 121. -/
def Obligations.ControlCoreInstructions : Prop :=
  (∀ (c cause val : Nat) (s : State) (rest : List (Nat × Nat)), c < 16 → s.coreRuns c = true → (s.seq (1536 + c)).stall = none →
    takeFirst (fun p => decide (0x10 ≤ p.1) && bit (s.seq (1536 + c)).imask (p.1 - 0x10)) (s.seq (1536 + c)).pend = some ((cause, val), rest) → ¬(c = 1 ∧ cause = 0x12) →
    answers (.interruptEntry c) s fun t =>
      (t.seq (1536 + c)).iepc = (s.seq (1536 + c)).pc + b2n (s.seq (1536 + c)).kernel * 2 ^ 63 ∧ (t.seq (1536 + c)).icause = cause ∧
      (t.seq (1536 + c)).ival = val % 2 ^ 64 ∧ (t.seq (1536 + c)).kernel = true ∧ (t.seq (1536 + c)).pc = (s.seq (1536 + c)).ivec % 2 ^ 21 ∧
      (t.seq (1536 + c)).pend = rest ∧ (t.seq (1536 + c)).r = (s.seq (1536 + c)).r ∧ t.mem = s.mem) ∧
  (∀ (k : Nat) (s : State) (e : Enc), 1536 ≤ k → s.executes k 0xF301 e →
    answers (.iret k 0) s fun t => (t.seq k).pc = fld ((s.issuing k e).seq k).iepc 0 21 ∧ (t.seq k).kernel = bit ((s.issuing k e).seq k).iepc 63 ∧
      (t.seq k).r = ((s.issuing k e).seq k).r ∧ s.memStands t) ∧
  (∀ (k : Nat) (s : State) (e : Enc), 1536 ≤ k → s.executes k 0xF300 e →
    answers (.wfi k 0) s fun t => (t.seq k).stall = some .wfi ∧ (s.issuing k e).wentOn t k e 1 0 ∧ (t.seq k).r = ((s.issuing k e).seq k).r) ∧
  (∀ (k a : Nat) (s : State) (e : Enc), 1536 ≤ k → ((s.issuing k e).seq k).reg e.a = ⟨tgUint, a⟩ → e.disp = 0 → e.form = 4 → a % 8 = 0 →
    a % 64 ≤ 56 → a < 12 * hubBytes → s.eccOn (a - a % 64) = false → ((s.issuing k e).seq k).kernel = true → s.guarded a = false →
    s.mem.bad.contains (hubStoreAt (a / hubBytes) (0x400000 + a % hubBytes / 4096 / 64 * 8)) = false →
    (s.executes k 0xF302 e → answers (.ldd k 0) s fun t => (t.seq k).reg e.rd = ⟨tgUint, leNat (Mem.bytes s.mem.bytes a 8)⟩ ∧
      (∀ r, r ≠ e.rd → (t.seq k).reg r = ((s.issuing k e).seq k).reg r) ∧ t.mem.bytes = s.mem.bytes) ∧
    (∀ w, s.executes k 0xF303 e → ((s.issuing k e).seq k).reg e.rd = ⟨tgUint, w⟩ →
      answers (.std k 0) s fun t => t.mem.bytes = Mem.write s.mem.bytes a (leBytes 8 w) ∧ (t.seq k).r = ((s.issuing k e).seq k).r)) ∧
  (∀ (k off : Nat) (s : State) (e : Enc), 1536 ≤ k → e.memTags ((s.issuing k e).seq k) (· = tgUint) = none → e.storeAddr ((s.issuing k e).seq k) % 8 = 0 →
    place (e.storeAddr ((s.issuing k e).seq k)) = .regs off → ((s.issuing k e).seq k).kernel = true →
    (s.executes k 0xF302 e → (regAddr off < R.CRC_CFG 0 ∨ R.CRC_CFG 0 + 0x1000 ≤ regAddr off) →
      answers (.ldd k 0) s fun t => (s.issuing k e).wrote t k e ⟨tgUint, (s.issuing k e).readWide false (regAddr off) 8⟩ 0) ∧
    (∀ w, s.executes k 0xF303 e → ((s.issuing k e).seq k).reg e.rd = ⟨tgUint, w⟩ →
      exec (.std k 0) s = .next (((s.issuing k e).softWrite (regAddr off) 8 w).retire k e.len 1 0)))

/-- A component cannot act for the kernel (R145, R436, R517): outside kernel mode RETAG, WFI, IRET, LDD, STD, anything under WAIVE and a move of a
privileged special register take PRIV, and none of them has its effect. -/
def Obligations.PrivilegeHolds : Prop :=
  ∀ p ∈ instructionRows, ∀ (k u : Nat) (s : State) (e : Enc) (bs : List Byte), 1536 ≤ k → s.finds k p.2.1 e bs → (s.seq k).macUpset u = none →
    ((s.issuing k e).seq k).kernel = false → e.legal true ((s.issuing k e).seq k).ti = true →
    (e.waive = true ∨ e.op = 0x09 ∨ 0xF300 ≤ e.op ∨ ((e.op = 0x07 ∨ e.op = 0x08) ∧ 0x80 ≤ e.imm)) →
    (((s.issuing k e).seq k).mpuOk 0 ((s.issuing k e).seq k).pc e.len 3 = true → exec (p.1 k u) s = .next ((s.issuing k e).takeTrap k cPriv (leNat (bs.take 8)) e.len)) ∧
    (((s.issuing k e).seq k).mpuOk 0 ((s.issuing k e).seq k).pc e.len 3 = false → exec (p.1 k u) s = .next ((s.issuing k e).coreFault k 0x14 ((s.issuing k e).seq k).pc))

/-- (1) Store accesses (R65, R120, R137): LD gives rd the tagged word at the aligned address, EMPTY being 0; ST puts rd's word there with its tag; an
atomic gives rd the old word and leaves the new one; every other byte and register stands. (2) A misaligned or forbidden access (R120, R137, R140):
ALIGN with the address as tval, and nothing is stored; a store address that leads nowhere is a machine-check PROTECTION on a cell. (3) Pool accesses
(R84, R137): LDP and the pool atomics stall the sequencer until their access returns, with a grant for it; STP hands its bytes to stream S1 and goes
on; the return of a load gives rd the bytes and goes on behind the instruction. In part the model's choices: log entry 133. (4) Stream waits and
channels (R74, R82, R130, R137): SWAIT goes on once its stream is idle with no write pending; SFENCE holds later lines while writes are pending;
CHWAIT answers the oldest entry not freed, CHFREE frees entries and sends their credits, CHSPACE answers the next free entry and CHPUT releases
entries for sending. In part the model's choices: log entries 27 and 28. -/
def Obligations.MemoryInstructions : Prop :=
  (∀ (k a m : Nat) (s : State) (e : Enc), e.memTags ((s.issuing k e).seq k) (· = tgUint) = none → e.storeAddr ((s.issuing k e).seq k) = a → a % 8 = 0 →
     (∀ perm, coreMayTouch k ((s.issuing k e).seq k) a 8 perm = true) → (∀ wr, (s.issuing k e).storeAt k a 8 wr = .own m) →
     (s.issuing k e).mem.bad.contains m = false → (s.issuing k e).mem.weak.contains m = false →
     (isCore k = true ∨ ∀ wr, (s.issuing k e).ringWaits k (fld a 0 21) wr = false) →
     (s.executes k 0x10 e → answers (.ld k 0) s fun t =>
       (t.seq k).reg e.rd = ⟨Tbl.get s.mem.tags m 0, if Tbl.get s.mem.tags m 0 = 0 then 0 else Mem.num s.mem.bytes m 8⟩ ∧
       (∀ r, r ≠ e.rd → (t.seq k).reg r = ((s.issuing k e).seq k).reg r) ∧ s.memStands t ∧ (t.seq k).pc = (((s.issuing k e).seq k).pc + e.len) % 2 ^ 21) ∧
     (s.executes k 0x11 e → answers (.st k 0) s fun t =>
       t.mem.bytes = Mem.write s.mem.bytes m (leBytes 8 (((s.issuing k e).seq k).reg e.rd).val) ∧
       t.mem.tags = Tbl.set s.mem.tags m (((s.issuing k e).seq k).reg e.rd).tag 0 ∧ (t.seq k).r = ((s.issuing k e).seq k).r ∧
       (t.seq k).pc = (((s.issuing k e).seq k).pc + e.len) % 2 ^ 21) ∧
     (∀ (c : Nat → Nat → Instr) (op kind d o t0 : Nat), (c, op, kind) ∈ ([(.xadd, 0x14, 0), (.xchg, 0x15, 1), (.xcas, 0x16, 2)] : List ((Nat → Nat → Instr) × Nat × Nat)) →
       s.executes k op e → (t0 = tgInt ∨ t0 = tgUint) → ((s.issuing k e).seq k).reg e.rd = ⟨t0, d⟩ → (kind = 2 → isInt (((s.issuing k e).seq k).reg (e.rd + 1)).tag = true) →
       (((s.issuing k e).seq k).reg e.a).tag = tgUint → Tbl.get s.mem.tags m 0 = t0 → Mem.num s.mem.bytes m 8 = o →
       answers (c k 0) s fun t =>
         (t.seq k).reg e.rd = ⟨t0, o⟩ ∧ (∀ r, r ≠ e.rd → (t.seq k).reg r = ((s.issuing k e).seq k).reg r) ∧
         t.mem.bytes = Mem.write s.mem.bytes m (leBytes 8 (if kind = 0 then (o + d) % 2 ^ 64 else if kind = 1 then d else
           if o = d then (((s.issuing k e).seq k).reg (e.rd + 1)).val else o)))) ∧
  (∀ (k a : Nat) (s : State) (e : Enc) (c : Nat → Nat → Instr) (op : Nat), (c, op) ∈ ([(.ld, 0x10), (.st, 0x11)] : List ((Nat → Nat → Instr) × Nat)) →
     s.executes k op e → e.memTags ((s.issuing k e).seq k) (· = tgUint) = none → e.storeAddr ((s.issuing k e).seq k) = a →
     (a % 8 ≠ 0 → exec (c k 0) s = .next ((s.issuing k e).takeTrap k cAlign a e.len)) ∧
     (a % 8 = 0 → k < 1536 → (∀ wr, (s.issuing k e).storeAt k a 8 wr = .bad) → exec (c k 0) s = .next ((s.issuing k e).machineCheck k mcProtection a))) ∧
  ((∀ (k a n : Nat) (s : State) (e : Enc) (g : Region × Nat), s.executes k 0x12 e → e.memTags ((s.issuing k e).seq k) (· = tgAddr) = none →
     e.poolAddr ((s.issuing k e).seq k) = a → n = 2 ^ (e.imm / 16 % 4) → a % n = 0 → (s.issuing k e).grant k a n 33 = some g →
     answers (.ldp k 0) s fun t => (t.seq k).stall = some (.load e.rd (e.imm % 16) n a) ∧ (t.seq k).stallLen = e.len ∧
       (t.seq k).pc = ((s.issuing k e).seq k).pc ∧ (t.seq k).r = ((s.issuing k e).seq k).r ∧ s.memStands t) ∧
   (∀ (k a n w off : Nat) (s : State) (e : Enc) (r : Region), s.executes k 0x13 e → e.memTags ((s.issuing k e).seq k) (· = tgAddr) = none →
     ((s.issuing k e).seq k).reg e.rd = ⟨tgUint, w⟩ → e.poolAddr ((s.issuing k e).seq k) = a → n = 2 ^ (e.imm / 16 % 4) → a % n = 0 →
     (s.issuing k e).grant k a n 34 = some (r, off) →
     answers (.stp k 0) s fun t => (s.issuing k e).wentOn t k e 1 0 ∧ (t.seq k).r = ((s.issuing k e).seq k).r ∧
       (t.seq k).wq = ((s.issuing k e).seq k).wq ++ [(1, a, r.splitWrite off (leBytes n w))]) ∧
   (∀ (k a d : Nat) (s : State) (e : Enc) (g : Region × Nat) (c : Nat → Nat → Instr) (op kind : Nat),
     (c, op, kind) ∈ ([(.xadd, 0x14, 0), (.xchg, 0x15, 1), (.xcas, 0x16, 2)] : List ((Nat → Nat → Instr) × Nat × Nat)) → k < 1536 →
     s.executes k op e → e.memTags ((s.issuing k e).seq k) (· = tgAddr) = none → ((s.issuing k e).seq k).reg e.rd = ⟨tgUint, d⟩ →
     (kind = 2 → isInt (((s.issuing k e).seq k).reg (e.rd + 1)).tag = true) → e.poolAddr ((s.issuing k e).seq k) = a → a % 8 = 0 → (s.issuing k e).grant k a 8 35 = some g →
     answers (c k 0) s fun t => (t.seq k).stall = some (.atomic kind e.rd tgUint d (((s.issuing k e).seq k).reg (e.rd + 1)).val a) ∧
       (t.seq k).pc = ((s.issuing k e).seq k).pc ∧ (t.seq k).r = ((s.issuing k e).seq k).r ∧ s.memStands t) ∧
   (∀ (k rd n a off : Nat) (s s1 : State) (r : Region) (bs : List Byte), s.cellPending k 1 = 0 → (s.seq k).stall = some (.load rd tgUint n a) →
     s.grant k a n 33 = some (r, off) → s.regionWaits r off n = false → s.readRegion r off n = .ok s1 bs → s1.seqs = s.seqs →
     answers (.poolAccessReturn k) s fun t => (t.seq k).reg rd = ⟨tgUint, leNat bs⟩ ∧ (t.seq k).stall = none ∧
       (t.seq k).pc = ((s.seq k).pc + (s.seq k).stallLen) % 2 ^ 21 ∧ s1.memStands t ∧ (∀ q, q ≠ rd → (t.seq k).reg q = (s.seq k).reg q)) ∧
   (∀ (k rd a off d x : Nat) (s s1 s2 : State) (r : Region) (bs : List Byte), s.cellPending k 1 = 0 → (s.seq k).stall = some (.atomic 0 rd tgUint d x a) →
     s.grant k a 8 35 = some (r, off) → s.regionWaits r off 8 = false → (s.seq k).s1.contains true = false → s.guarded (r.dpa off) = false → s.readRegion r off 8 = .ok s1 bs →
     s1.writeRegion r off (leBytes 8 ((leNat bs + d) % 2 ^ 64)) = (s2, 8, none) → exec (.poolAccessReturn k) s = .next (s2.resume k rd ⟨tgUint, leNat bs⟩))) ∧
  ((∀ (k : Nat) (s : State) (e : Enc), s.executes k 0x70 e → (((s.issuing k e).seq k).stream e.imm).busy = false → (s.issuing k e).cellPending k e.imm = 0 →
     answers (.swait k 0) s fun t => (s.issuing k e).wentOn t k e 1 0 ∧ (t.seq k).r = ((s.issuing k e).seq k).r) ∧
   (∀ (k : Nat) (s : State) (e : Enc), s.executes k 0x70 e → (((s.issuing k e).seq k).stream e.imm).busy = true → exec (.swait k 0) s = .next ((s.issuing k e).updSeq k (fun q => { q with waits := true }))) ∧
   (∀ (k : Nat) (s : State) (e : Enc), s.executes k 0x71 e →
     answers (.sfence k 0) s fun t => (s.issuing k e).wentOn t k e 1 0 ∧
       ((t.seq k).fence = true ↔ (s.issuing k e).cellPending k 0 ≠ 0 ∨ (s.issuing k e).cellPending k 1 ≠ 0) ∧ (t.seq k).r = ((s.issuing k e).seq k).r) ∧
   (∀ (k n pn i : Nat) (s : State) (e : Enc) (ch : Chan), ((s.issuing k e).seq k).reg e.a = ⟨tgUint, n⟩ → n ≠ 0 → n ≤ ch.size →
     (s.executes k 0x72 e → (s.issuing k e).localChan k e.imm false = some (pn, i, ch) → n ≤ ch.recv - ch.freed →
       answers (.chwait k 0) s fun t => (s.issuing k e).wrote t k e ⟨tgUint, ch.buf + 64 * (ch.freed % ch.size)⟩ 0) ∧
     (s.executes k 0x72 e → (s.issuing k e).localChan k e.imm false = some (pn, i, ch) → ch.recv - ch.freed < n → exec (.chwait k 0) s = .next ((s.issuing k e).updSeq k (fun q => { q with waits := true }))) ∧
     (s.executes k 0x73 e → (s.issuing k e).localChan k e.imm false = some (pn, i, ch) → n ≤ ch.recv - ch.freed →
       answers (.chfree k 0) s fun t => (s.issuing k e).wentOn t k e 1 0 ∧ (t.seq k).r = ((s.issuing k e).seq k).r ∧
         (Tbl.get t.chans pn [])[i]? = some { ch with freed := ch.freed + n } ∧
         t.lat.credits = s.lat.credits ++ (creditRecords n n).map (fun m => (pn, i, m))) ∧
     (∀ p, s.executes k 0x74 e → (s.issuing k e).localChan k e.imm true = some (pn, i, ch) → Tbl.find s.pipes.tab pn = some p → n ≤ ch.size - (ch.put - ch.sent) →
       answers (.chspace k 0) s fun t => (s.issuing k e).wrote t k e ⟨tgUint, 64 * Config.sendBase p.img.digest k ch.sIdx + 64 * (ch.put % ch.size)⟩ 0) ∧
     (s.executes k 0x75 e → (s.issuing k e).localChan k e.imm true = some (pn, i, ch) → n ≤ ch.size - (ch.put - ch.sent) →
       answers (.chput k 0) s fun t => (s.issuing k e).wentOn t k e 1 0 ∧ (t.seq k).r = ((s.issuing k e).seq k).r ∧
         (Tbl.get t.chans pn [])[i]? = some { ch with put := ch.put + n })) ∧
   (∀ n, (creditRecords n n).sum = n ∧ ∀ m ∈ creditRecords n n, 1 ≤ m ∧ m ≤ 16))

/-- (1) Unit instructions issue (R124, R131, R133 to R136): with its address registers UINT and aligned to 64 bytes, its unit free, its source words
readable, its destination writable and the request slots for words in neighbours' stores had, a vector, tensor or special-function instruction goes on
in one issue cycle and occupies its unit; no byte outside its destination's words changes, no register does, and its flags wait for the unit's finish.
(2) Vector lanes (R98, R131, R135): VADD, VSUB, VMUL, VMIN and VMAX write each enabled lane with the operation on the same lanes of the sources, and
leave the disabled lanes. In part the model's choices: log entries 5, 29, 30, 31, 114, 139, 140, 141 and 142. (3) A unit's finish (R124, R133, R140):
its flags are set in CS, the unit is free, and a trap raised inside it waits behind those deferred before. In part the model's choices: log entry 114. -/
def Obligations.UnitInstructions : Prop :=
  (∀ p ∈ instructionRows, 0xF000 ≤ p.2.1 → p.2.1 < 0xF300 → ∀ (k : Nat) (s s1 : State) (e : Enc) (rs : List (List Byte × Option Nat)), k < 1536 →
     s.executes k p.2.1 e → e.rnd.getD 0 < 6 → Tbl.has ((s.issuing k e).seq k).units (if p.2.1 < 0xF100 then 0 else if p.2.1 < 0xF200 then 1 else 2) = false →
     (∀ r ∈ e.unitRegs, (((s.issuing k e).seq k).reg r).tag = tgUint ∧ (((s.issuing k e).seq k).reg r).val % 64 = 0) →
     (s.issuing k e).readOpnds k (e.unitSources ((s.issuing k e).seq k)) [] = .ok (s1, rs) →
     (∀ d ∈ e.unitDests ((s.issuing k e).seq k), (match (s.issuing k e).writeCheck k d with | .fine => true | _ => false) = true) →
     (((s.issuing k e).seq k).slotsDone = some ((s.issuing k e).seq k).pc ∨
       ∀ o ∈ e.unitSources ((s.issuing k e).seq k) ++ e.unitDests ((s.issuing k e).seq k), nbrLines o (List.range o.words) = []) →
     (∀ d ∈ e.unitDests ((s.issuing k e).seq k), ∀ i, i < d.words → ∀ x, ((s.issuing k e).storeAt k (d.word i) 8 true).addr = some x →
       (s.issuing k e).mem.bad.contains x = false) →
     (e.countOf ((s.issuing k e).seq k)).getD ((s.issuing k e).seq k).vl ≠ 0 →
     answers (p.1 k 0) s fun t =>
       Tbl.has (t.seq k).units (if p.2.1 < 0xF100 then 0 else if p.2.1 < 0xF200 then 1 else 2) = true ∧
       (t.seq k).pc = (((s.issuing k e).seq k).pc + e.len) % 2 ^ 21 ∧ (t.seq k).r = ((s.issuing k e).seq k).r ∧
       (t.seq k).icount = ((s.issuing k e).seq k).icount + 1 ∧ (t.seq k).cs = ((s.issuing k e).seq k).cs ∧
       (∀ m, (∀ d ∈ e.unitDests ((s.issuing k e).seq k), ∀ i, i < d.words → ∀ x, ((s.issuing k e).storeAt k (d.word i) 8 true).addr = some x → m < x ∨ x + 8 ≤ m) →
         Mem.get t.mem.bytes m = Mem.get s.mem.bytes m)) ∧
  (∀ (c : Nat → Nat → Instr) (op kind k : Nat) (s s1 : State) (e : Enc) (a b : List Byte),
     (c, op, kind) ∈ ([(.vadd, 0xF000, 0), (.vsub, 0xF001, 1), (.vmul, 0xF002, 2), (.vmin, 0xF004, 4), (.vmax, 0xF005, 5)] : List ((Nat → Nat → Instr) × Nat × Nat)) →
     k < 1536 → s.executes k op e → e.rnd.getD 0 < 6 → Tbl.has ((s.issuing k e).seq k).units 0 = false → ((s.issuing k e).seq k).dzTrap = false →
     (∀ r ∈ e.unitRegs, (((s.issuing k e).seq k).reg r).tag = tgUint ∧ (((s.issuing k e).seq k).reg r).val % 64 = 0) →
     (s.issuing k e).readOpnds k (e.unitSources ((s.issuing k e).seq k)) [] = .ok (s1, [(a, none), (b, none)]) →
     (∀ d ∈ e.unitDests ((s.issuing k e).seq k), (match (s.issuing k e).writeCheck k d with | .fine => true | _ => false) = true) →
     (((s.issuing k e).seq k).slotsDone = some ((s.issuing k e).seq k).pc ∨
       ∀ o ∈ e.unitSources ((s.issuing k e).seq k) ++ e.unitDests ((s.issuing k e).seq k), nbrLines o (List.range o.words) = []) →
     (∀ d ∈ e.unitDests ((s.issuing k e).seq k), ∀ i, i < d.words → ∀ x, ((s.issuing k e).storeAt k (d.word i) 8 true).addr = some x →
       (s.issuing k e).mem.bad.contains x = false) →
     0 < e.elems ((s.issuing k e).seq k) (lanesOf (e.imm % 16)) →
     answers (c k 0) s fun t => ∃ d, e.unitDests ((s.issuing k e).seq k) = [d] ∧
       (s1.writeFields k d (((List.range (e.elems ((s.issuing k e).seq k) (lanesOf (e.imm % 16)))).filter
         (e.laneOn ((s.issuing k e).seq k) (lanesOf (e.imm % 16)))).map (fun i => (i * codeBits (e.imm % 16), codeBits (e.imm % 16),
           (vecLane kind (e.imm % 16) (e.mode ((s.issuing k e).seq k)) ((s.issuing k e).seq k).sat
             [elemAt a (codeBits (e.imm % 16)) i, elemAt b (codeBits (e.imm % 16)) i]).1)))).memStands t) ∧
  (∀ (k u : Nat) (s : State) (w : UnitWork), Tbl.find (s.seq k).units u = some w →
     answers (.unitInstructionFinish k u) s fun t =>
       Tbl.has (t.seq k).units u = false ∧ (t.seq k).cs = (s.seq k).cs ||| (w.flags % 16) <<< 8 ∧
       (t.seq k).deferred = (s.seq k).deferred ++ w.trap.toList ∧ (t.seq k).r = (s.seq k).r ∧ t.mem = s.mem ∧ (∀ j, j ≠ k → t.seq j = s.seq j))

/-- Pipeline descriptors (R150, R153, R154, R157 to R159, R162): each with a current handle of the slice and a body that passes its checks does what its
opcode says and leaves every other pipeline. In part the model's choices: log entry 120. -/
def Obligations.PipelineDescriptors : Prop :=
  ∀ (sr tag pn : Nat) (s : State) (j : Job) (p : Pipe), s.pipeOf (dby j.desc 8 4) j.slice = some (pn, p) →
    (s.ready sr tag 0x10 j → rsvdZero j.desc [(8, 4), (12, 1), (14, 1), (16, 12), (36, 28)] = true → dby j.desc 14 1 = 0 → s.waveBad j p = none →
      p.state = .loaded → p.arm = none → p.queue = [] → p.wave = none →
      answers (.pipeLaunch sr tag) s fun t =>
        Tbl.find t.pipes.tab pn = some { p with state := .running, wave := some ⟨waveReq j false, p.waves, false, []⟩ } ∧
        (∀ n, n ≠ pn → Tbl.find t.pipes.tab n = Tbl.find s.pipes.tab n) ∧ t.mem = s.mem ∧ State.sameUnits { s with pipes := t.pipes } t) ∧
    (s.ready sr tag 0x12 j → rsvdZero j.desc [(8, 4)] = true → p.state = .loaded →
      answers (.pipeUnload sr tag) s fun t => t.reports sr tag stSuccess ∧ Tbl.find t.pipes.tab pn = none ∧
        Tbl.get t.pipes.gen pn 0 = (Tbl.get s.pipes.gen pn 0 + 1) % 65536) ∧
    (∀ src, s.ready sr tag 0x13 j → rsvdZero j.desc [(8, 4), (12, 3), (16, 48)] = true → dby j.desc 13 1 = src → src = 2 → dby j.desc 14 1 = 0 →
      fld (dby j.desc 28 4) 20 12 = 0 → s.waveBad j p = none → p.state = .loaded →
      answers (.pipeArm sr tag) s fun t => ∃ a, Tbl.find t.pipes.tab pn = some { p with state := .armed, arm := some a, pending := 0 } ∧
        a.req = waveReq j true ∧ a.source = 2 ∧ a.sourceId = dby j.desc 28 4 ∧ a.limit = dby j.desc 32 4 ∧ a.run = 0 ∧ t.mem = s.mem ∧
        State.sameUnits { s with pipes := t.pipes } t) ∧
    (∀ a k, s.ready sr tag 0x14 j → rsvdZero j.desc [(8, 4)] = true → p.state = .armed → p.wave = none → p.arm = some a → a.disarm = none → a.overrun = false →
      s.job a.req.sr a.req.tag = some k → ¬(a.req.sr = sr ∧ a.req.tag = tag) →
      answers (.pipeDisarm sr tag) s fun t => t.reportsWith a.req.sr a.req.tag stSuccess (a.run % 2 ^ 64) ∧ t.reports sr tag stSuccess ∧
        Tbl.find t.pipes.tab pn = some { p with state := .loaded, arm := none, pending := 0 }) ∧
    (s.ready sr tag 0x15 j → rsvdZero j.desc [(8, 4), (12, 1)] = true → dby j.desc 12 1 = 0 → p.state ≠ .stopped → p.state ≠ .halted →
      answers (.pipeHalt sr tag) s fun t => t.reports sr tag stSuccess ∧ Tbl.find t.pipes.tab pn = some { p with prev := p.state, state := .halted } ∧
        t.seqs = (s.haltAll p false).seqs) ∧
    (∀ c ∈ p.cells, (s.seq c).stall = none → (s.haltAll p false).cellState c ≠ csRunning) ∧
    (s.ready sr tag 0x16 j → rsvdZero j.desc [(8, 4)] = true → p.state = .stopped →
      answers (.pipeReset sr tag) s fun t => t.reports sr tag stSuccess ∧ Tbl.find t.pipes.tab pn = some { p with state := .loaded } ∧
        t.seqs = (s.resetPipe pn p).seqs ∧ t.lat.crumbs.any (fun c => c.pipe = pn) = false) ∧
    (∀ c ∈ p.cells, (s.resetPipe pn p).rd (R.LAT_CELL_MCA c) = 0 ∧ (s.resetPipe pn p).cellState c = csLoaded)

/-- (1) Loading (R149, R150): an image that passes the checks is installed under the lowest free number, LOADING, for the descriptor; once the commits it
waits for have taken effect the pipeline is LOADED, its cells LOADED at their reset values and its handle the result. In part the model's choices: log
entries 15, 17, 18 and 143. (2) Waves (R148, R154 to R157): a decided wave starts once its cell arrays run; a wave whose instances have ended and
whose writes and crumbs have landed ends, its launch completing with the wave's number in the result's low half; a matching beat triggers the next
wave. In part the model's choices: log entries 19 and 120. -/
def Obligations.PipelineLoadingAndWaves : Prop :=
  ((∀ (sr tag pn : Nat) (s s1 : State) (j : Job) (img : Image), s.ready sr tag 0x11 j → rsvdZero j.desc [(8, 12), (20, 32)] = true →
     s.checkImage j.slice (dby j.desc 8 8) (dby j.desc 16 4) ((List.range 8).map (fun i => dby j.desc (20 + 4 * i) 4)) = .ok s1 img →
     s1.hubsReady img = true → lowestFree s1.pipes.tab 0 1024 = some pn →
     answers (.pipeLoad sr tag) s fun t => ∃ p, Tbl.find t.pipes.tab pn = some p ∧ p.state = .loading ∧ p.slice = j.slice ∧ p.img = img ∧ p.plan = none ∧
       p.loader = (sr, tag) ∧ p.wave = none ∧ (∀ n, n ≠ pn → Tbl.find t.pipes.tab n = Tbl.find s1.pipes.tab n)) ∧
   (∀ (pn : Nat) (s : State) (p : Pipe) (j : Job), Tbl.find s.pipes.tab pn = some p → p.state = .loading → s.commitsDone p.img = true → p.plan = none →
     s.job p.loader.1 p.loader.2 = some j →
     answers (.pipeLoadCommit pn) s fun t => t.reportsWith p.loader.1 p.loader.2 stSuccess ((pn + Tbl.get s.pipes.gen pn 0 * 1024) % 2 ^ 64) ∧
       Tbl.find t.pipes.tab pn = some { p with state := .loaded } ∧ t.seqs = (s.loadCells pn p).seqs) ∧
   (∀ (pn c : Nat) (s : State) (p : Pipe), c ∈ p.img.cells →
     (s.loadCells pn p).cellState c = csLoaded ∧ (s.loadCells pn p).cellOwner c = p.slice % 64 ∧ ((s.loadCells pn p).seq c).r = [] ∧
     ((s.loadCells pn p).seq c).pc = 0 ∧ ((s.loadCells pn p).seq c).cs = 0)) ∧
  ((∀ (pn : Nat) (s : State) (p : Pipe) (w : Wave), Tbl.find s.pipes.tab pn = some p → p.wave = some w → w.started = false → p.state = .running →
     s.hubsReady p.img = true →
     answers (.waveStart pn) s fun t => ∃ cells, Tbl.find t.pipes.tab pn = some { p with wave := some { w with started := true, cells := cells } } ∧
       (∀ x ∈ cells, x.1 ∈ p.img.cells) ∧ t.mem = s.mem) ∧
   (∀ (pn : Nat) (s : State) (p : Pipe) (w : Wave) (j : Job), Tbl.find s.pipes.tab pn = some p → p.wave = some w → s.waveOver pn p w = true → p.state = .running →
     p.plan = none → p.arm = none → p.queue = [] → w.req.onDone = none → s.armsOn 3 pn = [] → s.job w.req.sr w.req.tag = some j →
     answers (.waveEnd pn) s fun t => Tbl.find t.pipes.tab pn = some { p with state := .loaded, wave := none, waves := p.waves + 1 } ∧
       ∃ r, t.reportsWith w.req.sr w.req.tag stSuccess r ∧ r % 2 ^ 32 = w.number % 2 ^ 32) ∧
   (∀ (pn : Nat) (s : State) (p : Pipe) (a : Arm), Tbl.find s.pipes.tab pn = some p → p.arm = some a → a.source = 2 → a.nextBeat ≤ s.timeNs → p.state = .armed →
     p.wave = none → p.queue = [] → p.pending = 0 → a.overrun = false → a.disarm = none → a.lost = false → (a.limit = 0 ∨ a.run < a.limit) →
     answers (.beatTrigger pn) s fun t => ∃ q r, Tbl.find t.pipes.tab pn = some q ∧ q.state = .running ∧ q.wave = some ⟨r, p.waves, false, []⟩ ∧
       r.index = a.run ∧ r.step = (a.req.step + a.run) % 2 ^ 32 ∧
       q.arm = some { a with run := a.run + 1, nextBeat := a.nextBeat + (if fld a.sourceId 0 10 = 0 then 1024 else fld a.sourceId 0 10) * 1024 } ∧ t.mem = s.mem))

/-- PIPE_QUERY (R165): the result carries the pipeline's state, its pending triggers, its late waves up to 0xFFFF and the low bits of its waves; a handle
that names no pipeline of the slice is refused. -/
def Obligations.PipelineQuery : Prop :=
  ∀ (sr tag : Nat) (s : State) (j : Job), s.ready sr tag 0x17 j → rsvdZero j.desc [(8, 4)] = true →
    (∀ (pn : Nat) (p : Pipe), s.pipeOf (dby j.desc 8 4) j.slice = some (pn, p) → answers (.pipeQuery sr tag) s fun t =>
      (∃ r, t.reportsWith sr tag stSuccess r ∧ r < 2 ^ 64 ∧
        fld r 0 3 = (match p.state with | .absent => 0 | .loading => 1 | .loaded => 2 | .armed => 3 | .running => 4 | .halted => 5 | .stopped => 6) ∧
        fld r 3 5 = 0 ∧ fld r 8 16 = p.pending % 65536 ∧ fld r 24 16 = min p.late 0xFFFF ∧ fld r 40 24 = p.waves % 2 ^ 24) ∧ s.sameUnits t) ∧
    (s.pipeOf (dby j.desc 8 4) j.slice = none → answers (.pipeQuery sr tag) s fun t => t.reports sr tag stPipeInvalid ∧ s.sameUnits t)

/-- (1) The timeline's clock (R167, R169 to R172): enabling runs it and gives the station its role, disabling closes the gates and drops what is armed; a
read of the low half of the time latches its high half; a message or a beat steers by the offset found, backward only within a beat and else by a
slew; losing the reference is HOLDOVER, and its expiry, not before its time, is counted and reported. A grandmaster steers by no message. In part the
model's choices: log entries 148, 149 and 151. (2) Gates and windows (R173, R176, R189): the entry of a gate list whose interval the time is in takes
effect, a cycle beginning at the epoch boundary; a transmit window opens unless the station is SPARE or DETACHED; crumbs left unsent at its close are
the QP's arrears and counted late. In part the model's choices: log entries 108 and 147. -/
def Obligations.TimelineClockAndGates : Prop :=
  ((∀ (s : State), (∀ m, s.tln.map = some m → ∀ e ∈ s.tmt.qps, e.2.sched = false) →
     answers .tlnEnable s fun t => t.rf R.TLN_CTRL 0 1 = 1 ∧ t.tln.closed = false ∧ t.tln.sched = s.tln.sched ∧ t.mem = s.mem ∧ t.timeNs = s.timeNs ∧ t.seqs = s.seqs ∧
       (∀ m, s.tln.map = some m → t.rf R.TLN_STATUS 2 2 = newRole m (s.rf R.TLN_DOMAIN 16 10) (s.rf R.TLN_STATUS 2 2)) ∧
       (s.aloneInDomain = true → t.rf R.TLN_STATUS 0 2 = 2)) ∧
   (∀ (s : State), answers .tlnDisable s fun t => t.rf R.TLN_CTRL 0 1 = 0 ∧ t.rf R.TLN_STATUS 0 2 = 0 ∧ t.rf R.TLN_STATUS 2 2 = roleUnmapped ∧ t.tln.closed = true ∧
     t.tln.openWins = [] ∧ (∀ e ∈ t.tln.slots, e.2.armed = none) ∧ t.tln.sched = s.tln.sched ∧ t.mem = s.mem) ∧
   (∀ (s : State),
     (answers (.tlnTimeRead 0 4) s fun t => t.out = s.out ++ [.readData R.TLN_TIME 4 (s.timeNs % 2 ^ 32)] ∧ t.tln.latch = s.timeNs % 2 ^ 64 / 2 ^ 32 ∧ t.regs = s.regs ∧ t.mem = s.mem) ∧
     (answers (.tlnTimeRead 4 4) s fun t => t.out = s.out ++ [.readData (R.TLN_TIME + 4) 4 s.tln.latch] ∧ t.tln = s.tln ∧ t.regs = s.regs ∧ t.mem = s.mem)) ∧
   (∀ (port kind : Nat) (off : Int) (s : State), s.rf R.TLN_CTRL 0 1 = 1 →
     (kind ∈ [0, 3, 8, 9, 10] → s.rf R.TLN_CTRL 2 2 = 0 ∨ s.rf R.TLN_CTRL 2 2 = 3 → s.coreState 1 ≠ 3 →
       answers (.ptpMessage ⟨port, kind, off⟩) s fun t => t.tln.est = off ∧ t.mem = s.mem ∧ t.tln.sched = s.tln.sched ∧
         t.rf R.TLN_STATUS 0 2 = (if -16 ≤ off ∧ off ≤ 16 ∧ s.rf R.TLN_STATUS 0 2 ≠ 0 then 2 else 1) ∧
         (off ≤ 0 → t.timeNs = s.timeNs + off.natAbs ∧ t.tln.slew = 0) ∧
         (0 < off → off.toNat ≤ s.timeNs % 1024 → t.timeNs = s.timeNs - off.toNat ∧ t.tln.slew = 0) ∧
         (s.timeNs % 1024 < off.toNat → t.timeNs = s.timeNs ∧ t.tln.slew = off.toNat)) ∧
     (kind < 4 → answers (.ptpMessage ⟨port, kind, off⟩) s fun t => Tbl.find t.tln.stamps port = some (s.stampNow port)) ∧
     (kind = 1 → s.rf R.TLN_CTRL 2 2 ≠ 2 → answers (.ptpMessage ⟨port, kind, off⟩) s fun t => t.out = s.out ++ [.ptp port 9 [s.stampNow port]] ∧ t.timeNs = s.timeNs ∧ t.regs = s.regs) ∧
     (s.rf R.TLN_CTRL 2 2 = 1 → answers (.ptpMessage ⟨port, kind, off⟩) s fun t => t.timeNs = s.timeNs ∧ t.regs = s.regs ∧ t.mem = s.mem)) ∧
   (∀ (marks : List (Nat × Nat × Nat)) (offs : List Int) (s : State), s.rf R.TLN_CTRL 0 1 = 1 → s.aloneInDomain = false → s.coreState 1 ≠ 3 →
     offs = s.beatOffsets (marks.filter (fun m => m.2.1 % 2 ^ 16 = s.rf R.TLN_DOMAIN 0 16)) →
     answers (.beatAlignment marks) s fun t => t.mem = s.mem ∧ t.tln.beats = [] ∧
       (s.tln.fine = true → offs ≠ [] → offs.sum / (offs.length : Int) ≤ 0 →
         t.timeNs = s.timeNs + (offs.sum / (offs.length : Int)).natAbs ∧ t.rd R.TLN_OFFSET = wrapInt 32 (offs.sum / (offs.length : Int))) ∧
       (s.tln.fine = false → t.timeNs = s.timeNs ∧ t.rd R.TLN_OFFSET = wrapInt 32 s.tln.est) ∧
       (∀ l < 16, s.rf (R.DNX_LINK l) 1 1 = 1 → s.dnxState l = 5 →
         ∃ q, Tbl.find t.ports.links l = some q ∧ q.sendQ.getLast? = some (beatMsg (s.epoch * epochNs)))) ∧
   (∀ (s : State), s.aloneInDomain = false → s.rf R.TLN_STATUS 0 2 = 2 →
     answers .referenceLoss s fun t => t.rf R.TLN_STATUS 0 2 = 3 ∧ (∀ a, a ≠ R.TLN_STATUS → t.rd a = s.rd a) ∧ t.tln.holdSince = s.timeNs ∧
       t.tln.sched = s.tln.sched ∧ t.tln.openWins = s.tln.openWins ∧ t.mem = s.mem) ∧
   (∀ (s : State) (ms : Nat), s.rf R.TLN_STATUS 0 2 = 3 → ms = (if s.rf R.TLN_HOLDOVER 0 16 = 0 then 200 else s.rf R.TLN_HOLDOVER 0 16) →
     (s.tln.holdSince + ms * 10 ^ 6 ≤ s.timeNs → s.mgt.events.length < 255 →
       answers .holdoverExpiry s fun t => t.rf R.TLN_STATUS 0 2 = 0 ∧ t.ctrVal R.TLN_ALIGN_LOSS = min (s.ctrVal R.TLN_ALIGN_LOSS + 1) 0xFFFFFFFF ∧
         (∃ e ∈ t.mgt.events, e.code = 2 ∧ e.detail = 1) ∧ t.tln.sched = s.tln.sched ∧ t.mem = s.mem) ∧
     (s.timeNs < s.tln.holdSince + ms * 10 ^ 6 → exec .holdoverExpiry s = .next s))) ∧
  ((∀ (port : Nat) (s : State) (d : Sched) (es : List (Nat × Nat)), s.tln.sched = some d → Tbl.find d.gates port = some es →
     0 < d.cycle → (es.map Prod.snd).sum = d.cycle →
     answers (.gateChange port) s fun t =>
       (∃ i e since, Tbl.find t.tln.gatePos port = some (i, since) ∧ es[i]? = some e ∧ since ≤ s.timeNs ∧ s.timeNs < since + e.2 ∧
         since = s.timeNs - s.timeNs % epochNs % d.cycle + ((es.take i).map Prod.snd).sum) ∧
       (∀ q, q ≠ port → Tbl.find t.tln.gatePos q = Tbl.find s.tln.gatePos q) ∧ t.tln.openWins = s.tln.openWins ∧ t.regs = s.regs ∧ t.mem = s.mem) ∧
   (∀ (w : Nat) (s : State) (d : Sched) (x : Win), s.tln.sched = some d → d.wins[w]? = some x → x.rx = false → s.tln.closed = false →
     (s.rf R.TLN_STATUS 2 2 ≠ roleDetached → s.rf R.TLN_STATUS 2 2 ≠ roleSpare →
       answers (.txWindowOpen w) s fun t => t.tln.openWins = Tbl.put s.tln.openWins w 0 ∧ t.regs = s.regs ∧ t.mem = s.mem) ∧
     (s.rf R.TLN_STATUS 2 2 = roleDetached ∨ s.rf R.TLN_STATUS 2 2 = roleSpare → exec (.txWindowOpen w) s = .next s)) ∧
   (∀ (w sent : Nat) (s : State) (d : Sched) (x : Win), s.tln.sched = some d → d.wins[w]? = some x → Tbl.find s.tln.openWins w = some sent →
     (answers (.txWindowClose w) s fun t => Tbl.find t.tln.openWins w = none ∧ t.mem = s.mem) ∧
     ((s.pull (fun _ v => v = w)).2 = [] →
       (x.crumbs ≤ sent → answers (.txWindowClose w) s fun t => t.tln.arrears = s.tln.arrears ∧ t.ctr = s.ctr) ∧
       (sent < x.crumbs → answers (.txWindowClose w) s fun t =>
         Tbl.get t.tln.arrears x.qp 0 = Tbl.get s.tln.arrears x.qp 0 + (x.crumbs - sent) ∧ bit (t.rd R.TLN_LATE_FIRST) 63 = true))))

/-- Staging and activation (R183 to R186): a record staged is copied and checked; only a held record arms, for an epoch at least two ahead, while LOCKED,
each refusal having its code in the order the rule lists; a cancel more than an epoch ahead disarms; at its epoch an armed schedule is in force. In
part the model's choices: log entry 108. -/
def Obligations.StagingAndActivation : Prop :=
  (∀ (s s1 s2 : State) (h b : List Byte), s.stageKind = 0 → (s.tlnSlot 0).code ≠ 1 → (s.tlnSlot 0).armed = none →
    s.rf R.TLN_STAGE_BASE 12 52 * 4096 + 128 ≤ 0x48000000000 → s.readDpa (s.rf R.TLN_STAGE_BASE 12 52 * 4096) 128 = .ok s1 h →
    s.rf R.TLN_STAGE_BASE 12 52 * 4096 + max 128 (leAt h 24 4) ≤ 0x48000000000 →
    s1.readDpa (s.rf R.TLN_STAGE_BASE 12 52 * 4096) (max 128 (leAt h 24 4)) = .ok s2 b →
    exec .scheduleStage s = .next (s2.setTlnSlot 0 ⟨1, 0, b, false, none⟩)) ∧
  (∀ (s : State), (s.tlnSlot 0).code = 1 →
    (s.schedBad 0 (s.tlnSlot 0).bytes = none → answers (.stageCheckDone 0) s fun t => t.tlnSlot 0 = { s.tlnSlot 0 with code := 2, held := true } ∧ t.tln.sched = s.tln.sched ∧ t.regs = s.regs) ∧
    (∀ d, s.schedBad 0 (s.tlnSlot 0).bytes = some d → answers (.stageCheckDone 0) s fun t => (t.tlnSlot 0).code = 3 ∧ (t.tlnSlot 0).detail = d ∧ (t.tlnSlot 0).held = false)) ∧
  (∀ (s : State), s.stageKind < 2 →
    answers .scheduleArm s fun t => t.tln.sched = s.tln.sched ∧ t.regs = s.regs ∧ (∀ k, k ≠ s.stageKind → t.tlnSlot k = s.tlnSlot k) ∧
      t.tlnSlot s.stageKind =
        (if s.rf R.TLN_STAGE_EPOCH 0 44 < s.epoch + 2 then { s.tlnSlot s.stageKind with code := 6 }
         else if (s.tlnSlot s.stageKind).held = false then { s.tlnSlot s.stageKind with code := 7 }
         else if s.rf R.TLN_STATUS 0 2 ≠ 2 then { s.tlnSlot s.stageKind with code := 8 }
         else if (s.tlnSlot s.stageKind).armed.isSome then { s.tlnSlot s.stageKind with code := 9 }
         else { s.tlnSlot s.stageKind with code := 4, armed := some (s.rf R.TLN_STAGE_EPOCH 0 44) })) ∧
  (∀ (s : State) (e : Nat), (s.tlnSlot s.stageKind).armed = some e →
    (s.epoch + 1 < e → answers .scheduleCancel s fun t => t.tlnSlot s.stageKind = { s.tlnSlot s.stageKind with armed := none, code := 2 } ∧ t.tln.sched = s.tln.sched) ∧
    (e ≤ s.epoch + 1 → exec .scheduleCancel s = .next s)) ∧
  (∀ (s : State) (e : Nat), (s.tlnSlot 0).armed = some e → e ≤ s.epoch → (s.tlnSlot 1).armed = none →
    answers .activation s fun t => t.tln.sched = some (schedOf (s.tlnSlot 0).bytes) ∧ t.tln.openWins = [] ∧ t.tln.gatePos = (schedOf (s.tlnSlot 0).bytes).gates.map (fun g => (g.1, gateEntry (schedOf (s.tlnSlot 0).bytes).cycle g.2 s.timeNs)) ∧ (t.tlnSlot 0).code = 5 ∧
      (t.tlnSlot 0).armed = none ∧ (t.tlnSlot 0).held = false ∧ t.tln.map = s.tln.map ∧ t.mem = s.mem)

/-- (1) Collective descriptors (R203, R208 to R212, R215): a plan that passes every check is loaded under the lowest free number; a step starts its
pipeline's wave on an idle plan; unload, reset, the residuals' clearing, saving and restoring and a query act on a plan that runs nothing. In part the
model's choices: log entries 41, 43, 153 and 154. (2) Steps (R195, R196, R199, R201, R210, R213): the next queued step of an idle plan starts, and
stops with COLL_MISMATCH where the check of a peer that has come is another; a step whose transfers have come and whose wave has ended sends its data,
writes its output and its residuals and completes with the bytes sent; a silent peer stops the step with COLL_PEER_TIMEOUT and the plan is STOPPED. In
part the model's choices: log entries 33, 109, 138, 152 and 155. -/
def Obligations.Collectives : Prop :=
  ((∀ (sr tag pn n : Nat) (s s1 s2 s3 s4 : State) (j : Job) (r : Region) (h b : List Byte) (img : Image), s.ready sr tag 0x20 j → s.feature 3 = true →
     rsvdZero j.desc [(8, 12), (20, 32)] = true → s.region (dby j.desc 16 4) j.slice = some r → dby j.desc 8 8 + 128 ≤ r.dataBytes →
     s.readRegion r (dby j.desc 8 8) 128 = .ok s1 h → 128 ≤ leAt h 16 4 → dby j.desc 8 8 + leAt h 16 4 ≤ r.dataBytes →
     s1.readRegion r (dby j.desc 8 8) (leAt h 16 4) = .ok s2 b → planOk b = true → s2.rf R.TLN_STATUS 2 2 = 1 → s2.rf R.TLN_STATUS 4 10 = leAt b 6 2 →
     (planOf j.slice b ((List.range 8).map (fun i => dby j.desc (20 + 4 * i) 4)) 0).phases.any (comboBad (leAt b 12 2)) = false →
     s2.cryptBad (planOf j.slice b ((List.range 8).map (fun i => dby j.desc (20 + 4 * i) 4)) 0) = false →
     (planOf j.slice b ((List.range 8).map (fun i => dby j.desc (20 + 4 * i) 4)) 0).qps.all
       (s2.planQpOk (planOf j.slice b ((List.range 8).map (fun i => dby j.desc (20 + 4 * i) 4)) 0)) = true →
     s2.checkImage j.slice (dby j.desc 8 8 + leAt b 28 4) (dby j.desc 16 4) ((List.range 8).map (fun i => dby j.desc (20 + 4 * i) 4)) = .ok s3 img →
     lowestFree s3.pipes.tab 0 1024 = some pn → lowestFree s3.colls.plans 0 256 = some n → s3.quotaRoom j.slice 7 1 = true → s3.hubsReady img = true →
     s3.residOut (ownerNum j.sr j.tag) j.slice (planOf j.slice b ((List.range 8).map (fun i => dby j.desc (20 + 4 * i) 4)) 0) [0, 1] = (s4, none) →
     answers (.collLoad sr tag) s fun t =>
       Tbl.find t.colls.plans n = some (planOf j.slice b ((List.range 8).map (fun i => dby j.desc (20 + 4 * i) 4)) pn) ∧
       (∀ m, m ≠ n → Tbl.find t.colls.plans m = Tbl.find s4.colls.plans m) ∧ ∃ p, Tbl.find t.pipes.tab pn = some p ∧ p.state = .loading ∧ p.plan = some n) ∧
   (∀ (sr tag n : Nat) (s : State) (j : Job) (p : Plan), s.feature 3 = true → s.collOf (dby j.desc 8 4) j.slice = some (n, p) →
     (∀ q, s.ready sr tag 0x21 j → rsvdZero j.desc [(8, 4), (12, 1), (16, 40)] = true → dby j.desc 12 1 < 2 →
       (∀ k, (stepOf j p).onDone = some k → (s.counterOf k j.slice).isSome = true) → dby j.desc 16 8 ≠ 0 →
       dby j.desc 16 8 ≤ 2 ^ 40 → dby j.desc 32 8 % 64 = 0 → dby j.desc 48 8 % 64 = 0 → (s.region (dby j.desc 28 4) j.slice).isSome = true →
       (s.region (dby j.desc 40 4) j.slice).isSome = true → s.bound (dby j.desc 40 4) = false → p.stopped.contains (dby j.desc 24 4) = false → p.state = 1 →
       p.checked = [] → Tbl.find s.pipes.tab p.pipe = some q →
       answers (.collStep sr tag) s fun t =>
         Tbl.find t.colls.plans n = some { p with state := 2, current := some (stepOf j p), checked := [], matched := [], done := setDel p.done (dby j.desc 24 4) } ∧
         (∃ w, Tbl.find t.pipes.tab p.pipe = some { q with state := .running, wave := some w } ∧ w.req.items = dby j.desc 16 8 ∧ w.started = false) ∧ t.mem = s.mem) ∧
     (s.ready sr tag 0x22 j → rsvdZero j.desc [(8, 4)] = true → p.state ≠ 2 →
       answers (.collUnload sr tag) s fun t => t.reports sr tag stSuccess ∧ Tbl.find t.colls.plans n = none ∧ Tbl.find t.pipes.tab p.pipe = none ∧
         Tbl.get t.colls.gen n 0 = (Tbl.get s.colls.gen n 0 + 1) % 65536) ∧
     (s.ready sr tag 0x23 j → rsvdZero j.desc [(8, 4)] = true → p.state = 3 →
       answers (.collReset sr tag) s fun t => t.reports sr tag stSuccess ∧
         Tbl.find t.colls.plans n = some { p with state := 1, stopped := [], checked := [], matched := [], owed := [] }) ∧
     (∀ s1, s.ready sr tag 0x24 j → rsvdZero j.desc [(8, 4), (12, 1), (16, 4), (24, 8)] = true → dby j.desc 12 1 = 0 → p.state ≠ 2 →
       s.residOut (ownerNum j.sr j.tag) j.slice { p with resid := p.resid.map (fun _ => []) } [0, 1] = (s1, none) → s1.allLanded sr tag →
       answers (.collResid sr tag) s fun t => t.reportsWith sr tag stSuccess 0 ∧
         Tbl.find t.colls.plans n = some { p with resid := p.resid.map (fun _ => []) } ∧ State.sameUnits { s1 with colls := t.colls } t) ∧
     (∀ s1 s2 p1 m r, s.ready sr tag 0x24 j → rsvdZero j.desc [(8, 4), (12, 1), (16, 4), (24, 8)] = true → dby j.desc 12 1 = 1 → p.state ≠ 2 →
       s.region (dby j.desc 16 4) j.slice = some r → s.bound (dby j.desc 16 4) = false → s.residIn p = .ok s1 p1 →
       s1.writeRegion r (dby j.desc 24 8) p1.residBytes (ownerNum sr tag) = (s2, m, none) → s2.allLanded sr tag →
       answers (.collResid sr tag) s fun t => t.reportsWith sr tag stSuccess (m % 2 ^ 64) ∧ s2.sameUnits t) ∧
     (∀ s1 s2 b r, s.ready sr tag 0x24 j → rsvdZero j.desc [(8, 4), (12, 1), (16, 4), (24, 8)] = true → dby j.desc 12 1 = 2 → p.state ≠ 2 →
       s.region (dby j.desc 16 4) j.slice = some r → s.readRegion r (dby j.desc 24 8) (8 * p.residCount) = .ok s1 b →
       s1.residOut (ownerNum j.sr j.tag) j.slice (p.fromBytes b) [0, 1] = (s2, none) → s2.allLanded sr tag →
       answers (.collResid sr tag) s fun t => t.reportsWith sr tag stSuccess (b.length % 2 ^ 64) ∧ Tbl.find t.colls.plans n = some (p.fromBytes b)) ∧
     (s.ready sr tag 0x25 j → rsvdZero j.desc [(8, 4)] = true →
       answers (.collQuery sr tag) s fun t => t.reportsWith sr tag stSuccess ((p.state + p.queue.length * 4 + p.residCount % 2 ^ 32 * 2 ^ 32) % 2 ^ 64) ∧ s.sameUnits t))) ∧
  ((∀ (n : Nat) (s : State) (p : Plan) (c : CStep) (rest : List CStep) (q : Pipe), Tbl.find s.colls.plans n = some p → p.current = none → p.queue = c :: rest →
     p.state ≠ 3 → Tbl.find s.pipes.tab p.pipe = some q →
     (p.checked = [] → answers (.collStepStart n) s fun t => Tbl.find t.colls.plans n =
       some { p with state := 2, current := some c, queue := rest, checked := [], matched := [], done := setDel p.done c.step } ∧ t.mem = s.mem) ∧
     (∀ r qn x j, p.qps = [(r, qn)] → p.checked = [(qn, x)] → x % 2 ^ 64 ≠ Config.stepCheck p.planId c.step c.count % 2 ^ 64 → s.job c.sr c.tag = some j →
       answers (.collStepStart n) s fun t => t.reports c.sr c.tag stCollMismatch ∧
         ∃ p', Tbl.find t.colls.plans n = some p' ∧ p'.state = 3 ∧ p'.current = none ∧ p'.queue = [])) ∧
   (∀ (n : Nat) (arr : List (List Byte)) (s s1 s2 s3 s4 : State) (p p2 : Plan) (c : CStep) (q : Pipe) (ri ro : Region) (e : Elems) (d0 d : Done) (ps : Pieces)
     (j : Job) (f l : CPhase),
     Tbl.find s.colls.plans n = some p → p.current = some c → Tbl.find s.pipes.tab p.pipe = some q → q.wave = none →
     s.region c.inRegion p.slice = some ri → s.region c.outRegion p.slice = some ro → p.phases.head? = some f → p.phases.getLast? = some l →
     s.readElems ri c.inOff f.elem (CEnv.inLen ⟨f, p.ranks.length, p.ranks.idxOf p.deviceIndex, c.count, p.seed, c.step, 0⟩) = .ok s1 e →
     p.compute c e arr = some d0 → s1.residIn (p.withCounts d0) = .ok s2 p2 → p2.compute c e arr = some d → d.out = some ps →
     s2.writeElems (ownerNum c.sr c.tag) ro c.outOff l.elem d.len ps = (s3, none) →
     s3.residOut (ownerNum c.sr c.tag) p2.slice { p2 with resid := d.resids } [1 - c.step % 2] = (s4, none) →
     c.onDone = none → s4.job c.sr c.tag = some j → s4.allLanded c.sr c.tag → Tbl.find s4.colls.plans n = some p →
     answers (.collStepCommit n arr) s fun t => t.reportsWith c.sr c.tag stSuccess (d.run.sent % 2 ^ 64) ∧
       (∀ o ∈ d.run.outs, ∀ x, p2.qps.find? (fun y => y.1 = o.1) = some x → .tmt x.2 0 o.2 ∈ t.out) ∧
       ∃ p', Tbl.find t.colls.plans n = some p' ∧ p'.state = (if p.queue.isEmpty then 1 else 2) ∧ p'.current = none ∧ p'.resid = d.resids ∧
         p'.done = setIns p.done c.step) ∧
   (∀ (n : Nat) (s : State) (p : Plan) (c : CStep) (j : Job), Tbl.find s.colls.plans n = some p → p.current = some c → s.job c.sr c.tag = some j →
     answers (.collPeerTimeout n) s fun t => t.reports c.sr c.tag stCollPeerTimeout ∧
       Tbl.find t.colls.plans n = some { p with state := 3, current := none, queue := [], checked := [], matched := [], owed := [], done := p.steps.foldl (fun d k => setIns d k.step) p.done }))

/-- Copies and transforms (R236 to R239): with a good body, its source read, no overlap and its output written, each completes with the bytes written;
MEM_COPY writes the source bytes and MEM_FILL its pattern repeated; a destination that lies over the source under another name gets free values. In
part the model's choices: log entries 44, 50 and 159. -/
def Obligations.CopyDescriptors : Prop :=
  (∀ (c : Nat → Nat → Instr) (op sr tag n : Nat) (s s1 s2 s3 : State) (j : Job) (bs sc : List Byte) (put : List (Nat × List Byte)),
    (c, op) ∈ ([(.memCopy, 1), (.memFill, 2), (.memConvert, 3), (.memEncode, 4), (.memDecode, 5)] : List ((Nat → Nat → Instr) × Nat)) →
    s.ready sr tag op j → rsvdZero j.desc (copyUsed op) = true → dby j.desc 48 1 < 16 → copyLenOk op (copyArgs j.desc) = true →
    s.readSource j op (copyArgs j.desc) (s.copyReq j op (copyArgs j.desc)) = .ok s1 (bs, sc) →
    (op < 3 ∨ ((copyArgs j.desc).output op bs sc).1.any ((copyArgs j.desc).overlaps op) = false) →
    (if s1.aliased j op (copyArgs j.desc) (s.copyReq j op (copyArgs j.desc)) ((copyArgs j.desc).output op bs sc).1 = true
      then s1.freePieces ((copyArgs j.desc).output op bs sc).1 else (s1, ((copyArgs j.desc).output op bs sc).1)) = (s2, put) →
    s2.writeOut j (copyArgs j.desc) (s.copyReq j op (copyArgs j.desc)) put 0 = (.ok s3, n) →
    ((copyArgs j.desc).output op bs sc).2 = none → exec (c sr tag) s = .next (s3.succeed j n)) ∧
  (∀ (a : CopyArgs) (bs sc : List Byte), a.output 1 bs sc = ([(a.dstOff, bs)], none)) ∧
  (∀ (a : CopyArgs) (i : Nat), i < a.len → ∃ fill, a.output 2 [] [] = ([(a.dstOff, fill)], none) ∧ fill.length = a.len ∧
    fill[i]? = some (BitVec.ofNat 8 (a.srcOff / 256 ^ (i % 8)))) ∧
  (∀ (c : Nat → Nat → Instr) (op sr tag : Nat) (s : State) (j : Job),
    (c, op) ∈ ([(.memCopy, 1), (.memFill, 2), (.memConvert, 3), (.memEncode, 4), (.memDecode, 5)] : List ((Nat → Nat → Instr) × Nat)) →
    s.ready sr tag op j → copyLenOk op (copyArgs j.desc) = false →
    answers (c sr tag) s fun t => t.reports sr tag stInvalidDescriptor ∧ t.pcie.host = s.pcie.host ∧ s.sameUnits t)

/-- MEM_DECODE of what MEM_ENCODE makes (R112 to R116): the ZR frames of any whole elements, and the LZS frames of any bytes, decode to the bytes they
were made from, with no error. -/
def Obligations.EncodedStreamsDecode : Prop :=
  (∀ (w : Nat) (bs : List Byte), w ∈ [1, 2, 4, 8] → bs.length % w = 0 →
    decodeFrames zrDecodeFrame ((zrEncode w bs).length + 1) (zrEncode w bs) [] = (bs, none)) ∧
  (∀ (bs : List Byte), decodeFrames lzsDecodeFrame ((lzsEncode bs).length + 1) (lzsEncode bs) [] = (bs, none))

/-- (1) Zeroing (R222): when it is done every byte of the region's granules reads as 0, every other byte of memory stands, and the allocation completes
with the region's handle. (2) Scrubs and upkeep (R217, R233, R235): the patrol moves on by one line and starts again after its last, counting a pass;
a hub-store scrub that finds a good word changes nothing, one that finds a word with a single-bit error writes it back and counts it, and one that
finds a port buffer's word uncorrectable ends the descriptor that owns it; refresh changes nothing a program can see; a poll and a power-down change
their channel alone. No byte of memory changes. In part the model's choices: log entries 11, 61 and 157. -/
def Obligations.ScrubsAndZeroing : Prop :=
  (∀ (n : Nat) (s : State) (z : Nat × Nat × Nat) (r : Region) (j : Job), s.mem.zeroing.find? (fun z => z.1 = n) = some z → Tbl.find s.mem.regions n = some r →
     s.job z.2.1 z.2.2 = some j → s.noSnap z.2.1 z.2.2 →
     answers (.regionZeroDone n) s fun t =>
       t.reportsWith z.2.1 z.2.2 stSuccess ((n + r.gen * 65536) % 2 ^ 64) ∧ t.mem.zeroing = s.mem.zeroing.filter (fun z => z.1 ≠ n) ∧
       (∀ a, r.granules.contains (a / 2097152) = true → Mem.get t.mem.bytes a = 0) ∧
       (∀ a, r.granules.contains (a / 2097152) = false → Mem.get t.mem.bytes a = Mem.get s.mem.bytes a)) ∧
  ((∀ (h o : Nat) (s : State), h < 12 → s.rf (R.MEM_CTRL h) 1 1 = 1 → s.rf (R.MEM_STATUS h) 1 1 = 0 → s.dev ≠ .retention →
     (s.scrubNext h (s.rf (R.MEM_SCRUB_POS h) 0 39) = some o → s.mem.bad.contains (checkWord (h * hubBytes + o)) = false →
       answers (.patrolScrub h) s fun t => t.rd (R.MEM_SCRUB_POS h) = o + 64 ∧ t.mem.bytes = s.mem.bytes ∧ t.seqs = s.seqs) ∧
     (s.scrubNext h (s.rf (R.MEM_SCRUB_POS h) 0 39) = none →
       answers (.patrolScrub h) s fun t => t.rd (R.MEM_SCRUB_POS h) = 0 ∧ t.rf (R.MEM_STATUS h) 2 1 = 0 ∧
         t.ctrVal (R.MEM_SCRUB_PASSES h) = (s.ctrVal (R.MEM_SCRUB_PASSES h) + 1) % 2 ^ 64 ∧ t.mem = s.mem)) ∧
   (∀ (a sr tag k u : Nat) (s : State), (s.strike (a - a % 8) u).mem.bad.contains (a - a % 8) = false → (s.strike (a - a % 8) u).mem.weak.contains (a - a % 8) = false →
     exec (.hubStoreScrub a sr tag k u) s = .next s) ∧
   (∀ (a sr tag k u h o : Nat) (s : State), place (a - a % 8) = .hubStore h o → (s.strike (a - a % 8) u).mem.bad.contains (a - a % 8) = false → (s.strike (a - a % 8) u).mem.weak.contains (a - a % 8) = true →
     answers (.hubStoreScrub a sr tag k u) s fun t => t.mem = { (s.strike (a - a % 8) u).mem with weak := setDel (s.strike (a - a % 8) u).mem.weak (a - a % 8) } ∧
       t.ctrVal (R.MEM_STORE_CE h) = min (s.ctrVal (R.MEM_STORE_CE h) + 1) 0xFFFFFFFF ∧ s.sameUnits t) ∧
   (∀ (a sr tag k u p o : Nat) (s : State) (j : Job), place (a - a % 8) = .portBuf p o → (s.strike (a - a % 8) u).mem.bad.contains (a - a % 8) = true → s.job sr tag = some j →
     s.allLanded sr tag →
     answers (.hubStoreScrub a sr tag k u) s fun t => t.reports sr tag stMemUncorrectable ∧ t.mem.bad = setDel (s.strike (a - a % 8) u).mem.bad (a - a % 8)) ∧
   (∀ (h ch : Nat) (s : State), exec (.dramRefresh h ch) s = .next s) ∧
   (∀ (h ch rate : Nat) (s : State), h < 12 → ch < 96 →
     answers (.mr4Poll h ch rate) s fun t => Tbl.get t.mem.refreshRate (96 * h + ch) 0 = rate ∧
       (∀ c, c ≠ 96 * h + ch → Tbl.get t.mem.refreshRate c 0 = Tbl.get s.mem.refreshRate c 0) ∧ t.mem.bytes = s.mem.bytes ∧ t.regs = s.regs) ∧
   (∀ (h ch : Nat) (s : State), h < 12 → ch < 96 →
     answers (.dramPowerDown h ch) s fun t => t.mem.chDown.contains (96 * h + ch) = true ∧ (∀ c, s.mem.chDown.contains c = true → t.mem.chDown.contains c = true) ∧
       t.mem.bytes = s.mem.bytes ∧ t.regs = s.regs))

/-- (1) Translation on and off (R253, R257): setting enable locks the set-up registers, holds the table region and starts the fault ring at record 0;
clearing it waits until no fault is open. (2) Invalidations (R244, R249 to R251): a write queues one, or is dropped and flagged when 64 wait; done,
every cached translation of the ASID is gone, its entry is in effect where it passes the checks, and XLT_INVAL_DONE holds its sequence number and
result; an access of an ASID that is unbound ends with TRANSLATION_FAULT though it waits without a slot. In part the model's choices: log entry 112. -/
def Obligations.TranslationAndInvalidation : Prop :=
  ((∀ (word : Nat) (s : State), s.rf R.XLT_CTRL 0 1 = 0 → bit word 0 = true →
     answers (.translationEnable word) s fun t => t.rf R.XLT_CTRL 0 1 = 1 ∧ t.rd R.XLT_FAULT_TAIL = 0 ∧ t.xlt.records = 0 ∧ R.XLT_CTRL ∈ t.locks ∧
       t.xlt.cache = s.xlt.cache ∧ t.xlt.asids = s.xlt.asids ∧ t.mem.bytes = s.mem.bytes) ∧
   (∀ (word : Nat) (s : State), s.rf R.XLT_CTRL 0 1 = 1 → bit word 0 = false → s.xlt.faults = [] → s.xlt.spill = [] →
     answers (.translationEnable word) s fun t => t.rf R.XLT_CTRL 0 1 = 0 ∧ t.mem.bytes = s.mem.bytes) ∧
   (∀ (word : Nat) (s : State), s.rf R.XLT_CTRL 0 1 = 1 → bit word 0 = false → s.xlt.faults.any (fun f => !f.2.late) = true →
     answers (.translationEnable word) s fun t => t.rf R.XLT_CTRL 0 1 = 1 ∧ t.xlt = s.xlt)) ∧
  ((∀ (word : Nat) (s : State), s.xlt.invals.length < 64 →
     exec (.invalidate word) s = .next { s with xlt := { s.xlt with invals := s.xlt.invals ++ [(fld word 0 16, fld word 16 16)] } }) ∧
   (∀ (word : Nat) (s : State), 64 ≤ s.xlt.invals.length →
     answers (.invalidate word) s fun t => t.rf R.XLT_STATUS 2 1 = 1 ∧ t.xlt = s.xlt ∧ t.ctrVal R.XLT_INVAL_DROP = min (s.ctrVal R.XLT_INVAL_DROP + 1) 0xFFFFFFFF) ∧
   (∀ (num seq : Nat) (rest : List (Nat × Nat)) (s s1 : State) (rg : Region) (bs : List Byte) (a : Asid), s.xlt.invals = (num, seq) :: rest →
     s.rf R.XLT_INVAL_CPL 2 62 = 0 → s.region (s.rd R.XLT_TABLE_REGION) 0 = some rg →
     State.readRegion { s with xlt := { s.xlt with invals := rest, cache := s.xlt.cache.filter (fun c => c.asid ≠ num) } } rg
       (s.rf R.XLT_ASID_OFFSET 12 52 * 4096 + 32 * num) 32 = .ok s1 bs →
     s1.checkAsid num (leNat bs) rg.dataBytes = (0, some a) →
     answers .invalidationDone s fun t => Tbl.find t.xlt.asids num = some a ∧ (∀ m, m ≠ num → Tbl.find t.xlt.asids m = Tbl.find s1.xlt.asids m) ∧
       t.rd R.XLT_INVAL_DONE = seq ∧ t.xlt.cache = s1.xlt.cache ∧ t.xlt.invals = s1.xlt.invals ∧ t.mem = s1.mem) ∧
   (∀ (num seq : Nat) (rest : List (Nat × Nat)) (s : State), s.xlt.invals = (num, seq) :: rest → s.rf R.XLT_INVAL_CPL 2 62 = 0 →
     s.region (s.rd R.XLT_TABLE_REGION) 0 = none → s.xlt.faults = [] →
     (s.xlt.spill = [] → answers .invalidationDone s fun t => Tbl.find t.xlt.asids num = none ∧ t.rd R.XLT_INVAL_DONE = seq + 5 * 65536 ∧
       t.xlt.cache = s.xlt.cache.filter (fun c => c.asid ≠ num) ∧ t.xlt.invals = rest ∧ t.mem = s.mem) ∧
     (∀ e j, s.xlt.spill = [e] → e.asid = num → e.waiter.ring = false → s.job e.waiter.sr e.waiter.tag = some j → (dOpcode j.desc < 0x30 ∨ 0x36 < dOpcode j.desc) →
       s.allLanded e.waiter.sr e.waiter.tag →
       answers .invalidationDone s fun t => t.reports e.waiter.sr e.waiter.tag stTranslationFault ∧ t.xlt.spill = [] ∧ Tbl.find t.xlt.asids num = none)))

/-- (1) Faults (R252 to R256): the record of an open fault is written once, at the ring's next place with the phase of its pass, and announced; a full
ring keeps it and sets FAULT_OVF; an answer with the slot's generation closes the fault, retry starting its descriptor again; a stale answer is
counted alone; a timeout, once its time has passed, ends its descriptor. In part the model's choices: log entries 112 and 158. (2) ATS and PRI (R258):
a translation that allows the access is cached and its access runs again; an invalidation drops every cached translation of the PASID's ASID and is
answered; a page response that succeeds closes its fault, and one that matches none is stale. -/
def Obligations.FaultsAndPages : Prop :=
  ((∀ (slot : Nat) (s : State) (f : Fault') (a : Asid), slot < 4096 → Tbl.find s.xlt.faults slot = some f → Tbl.find s.xlt.asids f.asid = some a →
     f.written = false → f.ats = false → f.late = false →
     s.rf R.XLT_CTRL 0 1 = 1 → (s.slice 0).state ≠ .orphaned → s.dmaOk 0 = true → f.time + s.rf R.XLT_CTRL 8 8 * 64 ≤ s.timeNs →
     (s.rf R.XLT_FAULT_TAIL 0 12 + 1) % 4096 ≠ s.rf R.XLT_FAULT_HEAD 0 12 →
     answers (.faultRecordWrite slot) s fun t => t.rd R.XLT_FAULT_TAIL = (s.xlt.records + 1) % 4096 ∧ t.xlt.records = s.xlt.records + 1 ∧
       Tbl.find t.xlt.faults slot = some { f with written := true } ∧
       (∀ a, a < s.rf R.XLT_FAULT_BASE 12 52 * 4096 + 32 * (s.xlt.records % 4096) ∨ s.rf R.XLT_FAULT_BASE 12 52 * 4096 + 32 * (s.xlt.records % 4096) + 32 ≤ a →
         Mem.get t.pcie.host a = Mem.get s.pcie.host a) ∧
       Mem.bytes t.pcie.host (s.rf R.XLT_FAULT_BASE 12 52 * 4096 + 32 * (s.xlt.records % 4096)) 32 =
         leBytes 32 (faultRecord (f.page * 4096) f.asid (slot + f.gen * 4096) a.pasid f.rd f.wr f.level f.reason false f.reqs a.slice f.time +
           (if s.xlt.records / 4096 % 2 = 0 then 2 ^ 255 else 0)) ∧ t.mem = s.mem) ∧
   (∀ (slot : Nat) (s : State) (f : Fault'), slot < 4096 → Tbl.find s.xlt.faults slot = some f → f.written = false → f.ats = false → f.late = false →
     s.rf R.XLT_CTRL 0 1 = 1 → (s.slice 0).state ≠ .orphaned → s.dmaOk 0 = true → f.time + s.rf R.XLT_CTRL 8 8 * 64 ≤ s.timeNs →
     (s.rf R.XLT_FAULT_TAIL 0 12 + 1) % 4096 = s.rf R.XLT_FAULT_HEAD 0 12 →
     exec (.faultRecordWrite slot) s = .next (s.wf R.XLT_STATUS 0 1 1)) ∧
   (∀ (slot : Nat) (s : State) (f : Fault'), slot < 4096 → Tbl.find s.xlt.faults slot = some f → s.timeNs < f.time + s.rf R.XLT_CTRL 8 8 * 64 →
     exec (.faultRecordWrite slot) s = .next s) ∧
   (∀ (word : Nat) (s : State) (f : Fault') (w : Waiter) (j : Job), Tbl.find s.xlt.faults (fld word 0 12) = some f → f.gen = fld word 12 4 → fld word 16 2 = 0 →
     f.late = false → f.waiters = [w] → w.ring = false → w.sr < 65536 → s.xlt.spill = [] → s.job w.sr w.tag = some j → j.phase = .faulted →
     answers (.faultResponse word) s fun t => Tbl.find t.xlt.faults (fld word 0 12) = none ∧
       Tbl.get t.xlt.slotGen (fld word 0 12) 0 = (Tbl.get s.xlt.slotGen (fld word 0 12) 0 + 1) % 16 ∧
       t.job w.sr w.tag = some { j with phase := .started } ∧ t.mem = s.mem ∧ t.regs = s.regs) ∧
   (∀ (word : Nat) (s : State), Tbl.find s.xlt.faults (fld word 0 12) = none → exec (.faultResponse word) s = .next (s.cnt R.XLT_STALE_RESP)) ∧
   (∀ (word : Nat) (s : State) (f : Fault'), Tbl.find s.xlt.faults (fld word 0 12) = some f → f.gen ≠ fld word 12 4 →
     exec (.faultResponse word) s = .next (s.cnt R.XLT_STALE_RESP)) ∧
   (∀ (sr tag slot : Nat) (s : State) (f : Fault') (w : Waiter) (j : Job), s.xlt.faults = [(slot, f)] → f.waiters = [w] → w.ring = false → w.sr = sr → w.tag = tag →
     w.stopped = false → s.xlt.spill = [] → s.job sr tag = some j → (dOpcode j.desc < 0x30 ∨ 0x36 < dOpcode j.desc) →
     (w.since + (if s.rf R.XLT_CTRL 16 16 = 0 then 50 else s.rf R.XLT_CTRL 16 16) * 10 ^ 6 ≤ s.timeNs → s.allLanded sr tag →
       answers (.stallTimeout sr tag) s fun t => t.reports sr tag stTranslationTimeout ∧ t.job sr tag = none ∧ (f.ats = false → t.xlt.faults = [])) ∧
     (s.timeNs < w.since + (if s.rf R.XLT_CTRL 16 16 = 0 then 50 else s.rf R.XLT_CTRL 16 16) * 10 ^ 6 → exec (.stallTimeout sr tag) s = .next s))) ∧
  ((∀ (asid page addr : Nat) (wr : Bool) (s : State) (w : Waiter) (rest : List (Nat × Nat × Waiter)),
     takeFirst (fun (q : Nat × Nat × Waiter) => q.1 = asid && q.2.1 = page) s.xlt.atsOut = some ((asid, page, w), rest) → w.isWrite = false → w.ring = false → w.sr < 65536 →
     answers (.atsTranslationCompletion asid page true wr addr) s fun t => t.xlt.atsOut = rest ∧ (t.xlt.cached (walkerOf w.req) asid 1 (page * 4096)).isSome = true ∧
       (∀ j, s.job w.sr w.tag = some j → j.phase = .faulted → t.job w.sr w.tag = some { j with phase := .started }) ∧ t.xlt.faults = s.xlt.faults ∧ t.mem = s.mem) ∧
   (∀ (pasid itag num : Nat) (a : Asid) (s : State), s.asidOf pasid = some (num, a) →
     answers (.atsInvalidateRequest pasid itag) s fun t => t.out = s.out ++ [.ats 2 [pasid, itag]] ∧ t.xlt.cache = s.xlt.cache.filter (fun c => c.asid ≠ num) ∧
       t.xlt.faults = s.xlt.faults ∧ t.mem = s.mem) ∧
   (∀ (index pasid : Nat) (s : State) (f : Fault') (a : Asid) (w : Waiter) (j : Job), Tbl.find s.xlt.faults index = some f → f.ats = true → f.late = false →
     Tbl.find s.xlt.asids f.asid = some a → a.pasid = pasid → f.waiters = [w] → w.ring = false → w.sr < 65536 → s.xlt.spill = [] → s.job w.sr w.tag = some j →
     j.phase = .faulted →
     answers (.prgResponse index pasid 0) s fun t => Tbl.find t.xlt.faults index = none ∧ t.job w.sr w.tag = some { j with phase := .started } ∧ t.mem = s.mem) ∧
   (∀ (index pasid code : Nat) (s : State), Tbl.find s.xlt.faults index = none →
     answers (.prgResponse index pasid code) s fun t => t.ctrVal R.XLT_STALE_RESP = min (s.ctrVal R.XLT_STALE_RESP + 1) 0xFFFFFFFF ∧ t.xlt.faults = s.xlt.faults ∧ t.mem = s.mem))

/-- (1) Work requests (R264, R270 to R273, R291): one that passes its checks goes behind the others of its QP, a RECV behind the receive WRs under the
next number; posted, its data is gathered; held, it goes onto its counter's list and not to its QP; a READ of no bytes at the head commits at once; a
QP that is not there is TMT_QP_INVALID, and a body that no QP could take INVALID_DESCRIPTOR before that. ARM sets the threshold and arms, and a list
that is met at once disarms. In part the model's choices: log entries 116 and 161. (2) QPs, keys and counters (R264 to R267, R288, R289, R292): what
each command makes of the QP, the key slot or the counter it names, and the result it commits. Connect zeroes every number; error flushes every work
request; a destroyed number is not free at once; an unbound key slot's generation goes up. In part the model's choices: log entries 116 and 162. -/
def Obligations.TransportCommands : Prop :=
  ((∀ (c : Nat → Nat → Instr) (op sr tag : Nat) (s : State) (j : Job) (q : Qp),
     (c, op) ∈ ([(.tmtWrite, 0x30), (.tmtWriteImm, 0x31), (.tmtRead, 0x32), (.tmtSend, 0x33), (.tmtFetchAdd, 0x34), (.tmtCompareSwap, 0x35), (.tmtAccumulate, 0x36)] :
       List ((Nat → Nat → Instr) × Nat)) →
     s.ready sr tag op j → j.p 0 ≠ 1 → Tbl.find s.tmt.qps (fld j.desc 64 20) = some q → q.slice = j.slice → wrOk j.desc q.payload q.compAllowed = true →
     (op ∈ [0x32, 0x34, 0x35] → dby j.desc 14 2 = 0 ∨ (s.counterOf (dby j.desc 14 2) j.slice).isSome = true) → s.wrRoom (fld j.desc 64 20) q op = true → bit j.desc 96 = false → q.state ≠ .error →
     (∀ m, (q.msgs ++ [wrMsg j q.payload]).head? = some m → m.finished q.ackBase = false) →
     answers (c sr tag) s fun t =>
       Tbl.find t.tmt.qps (fld j.desc 64 20) = some { q with msgs := q.msgs ++ [wrMsg j q.payload] } ∧
       (∀ n, n ≠ fld j.desc 64 20 → Tbl.find t.tmt.qps n = Tbl.find s.tmt.qps n) ∧ t.job sr tag = some { j with phase := .started, prog := [1] } ∧
       t.mem = s.mem ∧ t.regs = s.regs ∧ t.pcie = s.pcie ∧ s.sameUnits t) ∧
   (∀ (c : Nat → Nat → Instr) (op sr tag : Nat) (s s1 : State) (j : Job) (q : Qp) (m : Msg) (bs : List Byte),
     (c, op) ∈ ([(.tmtWrite, 0x30), (.tmtWriteImm, 0x31), (.tmtSend, 0x33), (.tmtAccumulate, 0x36)] : List ((Nat → Nat → Instr) × Nat)) →
     s.ready sr tag op j → j.p 0 = 1 → Tbl.find s.tmt.qps (fld j.desc 64 20) = some q → q.msgs.find? (fun m => m.sr = sr && m.tag = tag) = some m →
     m.data = none → s.readOperand j m.lloc m.lhandle m.laddr m.len q.req = .ok s1 bs →
     exec (c sr tag) s = .next ((s1.updQp (fld j.desc 64 20) (fun q =>
       { q with msgs := q.msgs.map (fun x => if x.sr = sr && x.tag = tag then { x with data := some bs } else x) })).updJob sr tag (fun k => { k with phase := .running }))) ∧
   (∀ (sr tag : Nat) (s : State) (j : Job) (q : Qp), s.ready sr tag 0x38 j → j.p 0 ≠ 1 → Tbl.find s.tmt.qps (fld j.desc 64 20) = some q → q.slice = j.slice →
     wrOk j.desc q.payload q.compAllowed = true → s.wrRoom (fld j.desc 64 20) q 0x38 = true → bit j.desc 96 = false → q.state ≠ .error →
     (∀ m, q.msgs.head? = some m → m.finished q.ackBase = false) →
     answers (.tmtRecv sr tag) s fun t =>
       Tbl.find t.tmt.qps (fld j.desc 64 20) = some { q with recvNext := q.recvNext + 1, recvs := q.recvs ++ [⟨sr, tag, q.recvNext, dby j.desc 44 4, fld j.desc 224 2, dby j.desc 24 4, dby j.desc 16 8, 0⟩] } ∧
       t.job sr tag = some { j with phase := .running, prog := [1] } ∧ t.mem = s.mem ∧ t.regs = s.regs ∧ t.pcie = s.pcie) ∧
   (∀ (c : Nat → Nat → Instr) (op sr tag : Nat) (s : State) (j : Job) (q : Qp) (k : Ctr),
     (c, op) ∈ ([(.tmtWrite, 0x30), (.tmtWriteImm, 0x31), (.tmtRead, 0x32), (.tmtSend, 0x33), (.tmtFetchAdd, 0x34), (.tmtCompareSwap, 0x35), (.tmtAccumulate, 0x36),
       (.tmtRecv, 0x38)] : List ((Nat → Nat → Instr) × Nat)) →
     s.ready sr tag op j → j.p 0 ≠ 1 → Tbl.find s.tmt.qps (fld j.desc 64 20) = some q → q.slice = j.slice → wrOk j.desc q.payload q.compAllowed = true →
     (op ∈ [0x32, 0x34, 0x35] → dby j.desc 14 2 = 0 ∨ (s.counterOf (dby j.desc 14 2) j.slice).isSome = true) → s.wrRoom (fld j.desc 64 20) q op = true → bit j.desc 96 = true →
     s.counterOf (dby j.desc 30 2) j.slice = some k → k.held.length < 65536 →
     answers (c sr tag) s fun t => Tbl.find t.tmt.ctrs (dby j.desc 30 2) = some { k with held := k.held ++ [(sr, tag)] } ∧ t.tmt.qps = s.tmt.qps ∧
       t.job sr tag = some { j with phase := .running, prog := [2] } ∧ t.mem = s.mem ∧ t.regs = s.regs ∧ t.pcie = s.pcie) ∧
   (∀ (sr tag : Nat) (s : State) (j : Job) (q : Qp), s.ready sr tag 0x32 j → j.p 0 ≠ 1 → Tbl.find s.tmt.qps (fld j.desc 64 20) = some q → q.slice = j.slice →
     wrOk j.desc q.payload q.compAllowed = true → dby j.desc 44 4 = 0 → dby j.desc 14 2 = 0 → s.wrRoom (fld j.desc 64 20) q 0x32 = true → bit j.desc 96 = false → q.state ≠ .error →
     q.msgs = [] → answers (.tmtRead sr tag) s fun t => t.reportsWith sr tag stSuccess 0 ∧ Tbl.find t.tmt.qps (fld j.desc 64 20) = some q) ∧
   (∀ (c : Nat → Nat → Instr) (op sr tag : Nat) (s : State) (j : Job),
     (c, op) ∈ ([(.tmtWrite, 0x30), (.tmtWriteImm, 0x31), (.tmtRead, 0x32), (.tmtSend, 0x33), (.tmtFetchAdd, 0x34), (.tmtCompareSwap, 0x35), (.tmtAccumulate, 0x36),
       (.tmtRecv, 0x38)] : List ((Nat → Nat → Instr) × Nat)) →
     s.ready sr tag op j → j.p 0 ≠ 1 →
     (wrOk j.desc (2 ^ 30) 15 = true → Tbl.find s.tmt.qps (fld j.desc 64 20) = none →
       answers (c sr tag) s fun t => t.reports sr tag stQpInvalid ∧ t.tmt.ctrs = s.tmt.ctrs ∧ s.sameUnits t) ∧
     (wrOk j.desc (2 ^ 30) 15 = false → answers (c sr tag) s fun t => t.reports sr tag stInvalidDescriptor ∧ t.tmt.ctrs = s.tmt.ctrs ∧ s.sameUnits t)) ∧
   (∀ (sr tag : Nat) (s : State) (j : Job) (k k' : Ctr), s.ready sr tag 0x37 j → wrOk j.desc 1024 0 = true → s.counterOf (dby j.desc 14 2) j.slice = some k →
     bit j.desc 96 = false → k' = { k with threshold := dby j.desc 44 4, armed := true, value := if bit (dby j.desc 48 8) 0 then 0 else k.value } →
     (k'.met = false → answers (.tmtArm sr tag) s fun t => t.reportsWith sr tag stSuccess 0 ∧ Tbl.find t.tmt.ctrs (dby j.desc 14 2) = some k') ∧
     (k'.met = true → k.held = [] → answers (.tmtArm sr tag) s fun t =>
       t.reportsWith sr tag stSuccess 0 ∧ Tbl.find t.tmt.ctrs (dby j.desc 14 2) = some { k' with armed := false, held := [] }))) ∧
  ((∀ (sr tag n : Nat) (s : State) (j : Job), s.ready sr tag 0x40 j → qpFieldsOk j.desc = true →
     (bit j.desc 98 = true → bit j.desc 120 = false ∧ s.ethPort (fld j.desc 112 5) (fld j.desc 117 3) = true) →
     (fld j.desc 96 2 = 1 → s.feature 8 = true ∧ bit j.desc 120 = false) → (bit j.desc 99 = true → bit j.desc 120 = false ∧ s.lineKeyBad (dby j.desc 24 4) j.slice = none) →
     s.quotaRoom j.slice 2 1 = true → Tbl.find s.tmt.qps n = none → Tbl.find s.tmt.cooling n = none →
     ((bit j.desc 95 = false ∧ n = dby j.desc 8 4) ∨ (bit j.desc 95 = true ∧ n = 1)) →
     answers (.tmtQpCreate sr tag) s fun t => t.reportsWith sr tag stSuccess n ∧ Tbl.find t.tmt.qps n = some (s.newQp j.slice j.desc) ∧
       (∀ m q, m ≠ n → Tbl.find s.tmt.qps m = some q → ∃ q', Tbl.find t.tmt.qps m = some q' ∧ q'.state = q.state ∧ q'.nextPsn = q.nextPsn)) ∧
   (∀ (sr tag n : Nat) (s : State) (j : Job) (q : Qp), s.ready sr tag 0x41 j → n = dby j.desc 8 4 → n < 2 ^ 20 → Tbl.find s.tmt.qps n = some q → q.slice = j.slice →
     (dby j.desc 12 1 = 0 → rsvdZero j.desc [(8, 4), (12, 1)] = true → q.state = .init →
       (q.sched = false ∨ (s.rf R.TLN_STATUS 2 2 = 1 ∧ s.rf R.TLN_STATUS 4 10 = q.localIndex)) → (∀ m, q.msgs.head? = some m → m.finished 0 = false) →
       answers (.tmtQpModify sr tag) s fun t => t.reportsWith sr tag stSuccess 0 ∧ ∃ q', Tbl.find t.tmt.qps n = some q' ∧ q'.state = .rts ∧ q'.nextPsn = 0 ∧
         q'.nextMsn = 0 ∧ q'.nextSsn = 0 ∧ q'.base = 0 ∧ q'.rxMsn = 0 ∧ q'.rxSet = [] ∧ q'.recvs.map (fun r => r.ssn) = List.range q.recvs.length) ∧
     (dby j.desc 12 1 = 1 → rsvdZero j.desc [(8, 4), (12, 1)] = true → q.state = .rts →
       answers (.tmtQpModify sr tag) s fun t => t.reportsWith sr tag stSuccess 0 ∧ (∃ q', Tbl.find t.tmt.qps n = some q' ∧ q'.state = .error ∧ q'.recvs = [] ∧ q'.unacked = []) ∧
         (∀ k ∈ s.wrTags n q, (s.job k.1 k.2).isSome = true → t.reports k.1 k.2 stFlushed)) ∧
     (dby j.desc 12 1 = 2 → rsvdZero j.desc [(8, 4), (12, 1)] = true → q.state = .error → q.closing = none →
       answers (.tmtQpModify sr tag) s fun t => t.reportsWith sr tag stSuccess 0 ∧ ∃ q', Tbl.find t.tmt.qps n = some q' ∧ q'.state = .init ∧ q'.msgs = []) ∧
     (dby j.desc 12 1 = 3 → rsvdZero j.desc [(8, 4), (12, 1), (24, 4)] = true → q.state = .rts → q.encrypt = true → q.nextKey = 0 →
       s.lineKeyBad (dby j.desc 24 4) j.slice = none →
       answers (.tmtQpModify sr tag) s fun t => t.reportsWith sr tag stSuccess 0 ∧ ∃ q', Tbl.find t.tmt.qps n = some q' ∧ q'.nextKey = dby j.desc 24 4 ∧ q'.key = q.key ∧
         q'.keyPhase = !q.rxPhase ∧ q'.keyPkts = 0 ∧ q'.rekey = false) ∧
     (dby j.desc 12 1 < 3 → rsvdZero j.desc [(8, 4), (12, 1)] = true → ¬((dby j.desc 12 1 = 0 ∧ q.state = .init) ∨ (dby j.desc 12 1 = 1 ∧ q.state = .rts) ∨ (dby j.desc 12 1 = 2 ∧ q.state = .error)) →
       answers (.tmtQpModify sr tag) s fun t => t.reports sr tag stQpState ∧ ∃ q', Tbl.find t.tmt.qps n = some q' ∧ q'.state = q.state)) ∧
   (∀ (sr tag n : Nat) (s : State) (j : Job) (q : Qp), s.ready sr tag 0x42 j → rsvdZero j.desc [(8, 4)] = true → n = dby j.desc 8 4 → n < 2 ^ 20 →
     Tbl.find s.tmt.qps n = some q → q.slice = j.slice → q.state ≠ .rts → s.wrIdle n q = true →
     answers (.tmtQpDestroy sr tag) s fun t => t.reportsWith sr tag stSuccess 0 ∧ Tbl.find t.tmt.qps n = none ∧ Tbl.find t.tmt.cooling n = some s.timeNs) ∧
   (∀ (sr tag n : Nat) (s : State) (j : Job) (q : Qp), s.ready sr tag 0x43 j → rsvdZero j.desc [(8, 4)] = true → n = dby j.desc 8 4 → n < 2 ^ 20 →
     Tbl.find s.tmt.qps n = some q → q.slice = j.slice →
     answers (.tmtQpQuery sr tag) s fun t => t.reportsWith sr tag stSuccess ((q.state.code + 8 * b2n q.rekey +
       (s.wrTags n q).length % 65536 * 2 ^ 16 + q.nextPsn * 2 ^ 32) % 2 ^ 64) ∧ t.tmt.aks = s.tmt.aks ∧ t.tmt.ctrs = s.tmt.ctrs) ∧
   (∀ (sr tag n : Nat) (s : State) (j : Job), s.ready sr tag 0x44 j → rsvdZero j.desc [(8, 6), (16, 4)] = true → dby j.desc 12 1 ≤ 2 → dby j.desc 13 1 < 8 →
     ((dby j.desc 8 4 = 0xFFFFFFFF ∧ lowestFree s.tmt.aks 0 262144 = some n) ∨ (dby j.desc 8 4 = n ∧ n < 262144 ∧ Tbl.find s.tmt.aks n = none)) →
     (dby j.desc 12 1 = 0 → dby j.desc 16 4 < 2 ^ 20 ∧ Tbl.find s.pasids (dby j.desc 16 4) = some j.slice) →
     (dby j.desc 12 1 = 1 → (s.region (dby j.desc 16 4) j.slice).isSome = true ∧ (dby j.desc 13 1 % 2 + dby j.desc 13 1 / 4 = 0 ∨ s.bound (dby j.desc 16 4) = false)) →
     (dby j.desc 12 1 = 2 → dby j.desc 16 4 < 16) → s.quotaRoom j.slice 3 1 = true →
     answers (.tmtKeyBind sr tag) s fun t => t.reportsWith sr tag stSuccess ((n * 16384 + Tbl.get s.tmt.akGen n 0) % 2 ^ 64) ∧
       Tbl.find t.tmt.aks n = some ⟨j.slice, dby j.desc 12 1, dby j.desc 13 1, dby j.desc 16 4⟩ ∧ (∀ m, m ≠ n → Tbl.find t.tmt.aks m = Tbl.find s.tmt.aks m) ∧
       t.tmt.akGen = s.tmt.akGen) ∧
   (∀ (sr tag : Nat) (s : State) (j : Job) (k : Ak), s.ready sr tag 0x45 j → rsvdZero j.desc [(8, 4)] = true → j.p 0 ≠ 1 → s.akFor j.slice (dby j.desc 8 4) 0 = some k →
     answers (.tmtKeyRevoke sr tag) s fun t =>
       (s.placing j.slice = false → (∀ w ∈ s.pcie.wroteLinks, ∀ e ∈ s.tmt.qps, e.2.slice = j.slice → w.1 ≠ 65536 + e.1) → t.reportsWith sr tag stSuccess 0) ∧
       (s.placing j.slice = true ∨ (∃ w ∈ s.pcie.wroteLinks, ∃ e ∈ s.tmt.qps, e.2.slice = j.slice ∧ w.1 = 65536 + e.1) → t.ring.unwritten = s.ring.unwritten) ∧
       Tbl.find t.tmt.aks (dby j.desc 8 4 / 16384) = none ∧
       Tbl.get t.tmt.akGen (dby j.desc 8 4 / 16384) 0 = (Tbl.get s.tmt.akGen (dby j.desc 8 4 / 16384) 0 + 1) % 16384) ∧
   (∀ (sr tag : Nat) (s : State) (j : Job), s.ready sr tag 0x45 j → rsvdZero j.desc [(8, 4)] = true → j.p 0 = 1 → s.placing j.slice = false →
     (∀ w ∈ s.pcie.wroteLinks, ∀ e ∈ s.tmt.qps, e.2.slice = j.slice → w.1 ≠ 65536 + e.1) →
     answers (.tmtKeyRevoke sr tag) s fun t => t.reportsWith sr tag stSuccess 0 ∧ t.tmt.aks = s.tmt.aks) ∧
   (∀ (sr tag c : Nat) (s : State) (j : Job), s.ready sr tag 0x46 j → c = dby j.desc 14 2 →
     (dby j.desc 12 1 = 0 → rsvdZero j.desc [(12, 1), (14, 2)] = true → c ≠ 0 → Tbl.find s.tmt.ctrs c = none → s.quotaRoom j.slice 4 1 = true →
       answers (.tmtCounter sr tag) s fun t => t.reportsWith sr tag stSuccess c ∧ Tbl.find t.tmt.ctrs c = some ⟨j.slice, 0, 0, false, []⟩) ∧
     (∀ k, s.counterOf c j.slice = some k →
       (dby j.desc 12 1 = 1 → rsvdZero j.desc [(12, 1), (14, 2)] = true → s.counterBusy c = false →
         answers (.tmtCounter sr tag) s fun t => t.reportsWith sr tag stSuccess 0 ∧ Tbl.find t.tmt.ctrs c = none) ∧
       (dby j.desc 12 1 = 2 → rsvdZero j.desc [(12, 1), (14, 2), (48, 4)] = true → Ctr.met { k with value := dby j.desc 48 4 } = false →
         answers (.tmtCounter sr tag) s fun t => t.reportsWith sr tag stSuccess 0 ∧ Tbl.find t.tmt.ctrs c = some { k with value := dby j.desc 48 4 }) ∧
       (dby j.desc 12 1 = 3 → rsvdZero j.desc [(12, 1), (14, 2)] = true →
         answers (.tmtCounter sr tag) s fun t => t.reportsWith sr tag stSuccess ((k.value + k.threshold * 2 ^ 32) % 2 ^ 64) ∧ t.tmt.ctrs = s.tmt.ctrs))))

/-- Arriving packets (R274, R275, R277, R280, R281, R293): a packet of a message in the window is placed where it says, noted and acknowledged; a
duplicate, and one beyond the window, is counted and answered and changes no memory; a response is placed or counted as a duplicate; acknowledgements
free what they cover and commit the work request they complete, whatever their syndrome, and then do what it says; a QP that is not there counts the
packet as bad. In part the model's choices: log entries 116, 150 and 161. -/
def Obligations.PacketsArrive : Prop :=
  (∀ (c : Pkt → Instr) (ty : Nat) (p : Pkt) (s s2 : State) (q : Qp) (k : Ak) (bs : List Byte), (c, ty) ∈ ([(.rxWrite, 1), (.rxWriteImm, 2)] : List ((Pkt → Instr) × Nat)) →
    p.ptype = ty → s.hears p q → (s.heard p).inWindow p (q.heard s.timeNs p) → p.decoded = some bs → (s.heard p).akFor q.slice p.w18 1 = some k →
    (s.heard p).akHolds k (p.addr + p.off) bs.length 1 = true → (q.rxFault = none ∨ k.kind ≠ 0) →
    (s.heard p).rxWrite p.dstQp (q.heard s.timeNs p) p.msn k.loc k.handle (p.addr + p.off) bs = .ok s2 () →
    exec (c p) s = .next ((s2.rxNote p.dstQp p bs.length).rxAck p.dstQp p)) ∧
  (∀ (p : Pkt) (s s2 : State) (q : Qp) (r : RecvWr) (bs : List Byte), p.ptype = 3 → s.hears p q → (s.heard p).inWindow p (q.heard s.timeNs p) →
    q.recvs.find? (fun r => r.ssn = p.w18) = some r → p.decoded = some bs → p.off + bs.length ≤ r.len → (q.rxFault = none ∨ r.loc ≠ 0) →
    (s.heard p).rxWrite p.dstQp (q.heard s.timeNs p) p.msn r.loc r.handle (r.addr + p.off) bs = .ok s2 () →
    exec (.rxSend p) s = .next ((s2.rxNote p.dstQp p bs.length).rxAck p.dstQp p)) ∧
  (∀ (p : Pkt) (s : State) (q : Qp), p.ptype = 3 → s.hears p q → (s.heard p).inWindow p (q.heard s.timeNs p) → q.recvs.find? (fun r => r.ssn = p.w18) = none →
    exec (.rxSend p) s = .next (((s.heard p).cnt R.TMT_RNR).sendAck p.dstQp 1 (p.psn0 q.payload))) ∧
  (∀ (p : Pkt) (s s1 s2 : State) (q : Qp) (k : Ak) (bs old now : List Byte), p.ptype = 4 → s.hears p q → (s.heard p).inWindow p (q.heard s.timeNs p) → p.decoded = some bs →
    (s.heard p).akFor q.slice p.w18 5 = some k → (s.heard p).akHolds k (p.addr + p.off) bs.length 4 = true → k.kind = 1 → p.comp < 2 →
    (s.heard p).rxRead p.dstQp (q.heard s.timeNs p) p.msn 2 k.handle (p.addr + p.off) bs.length = .ok s1 old →
    now = (match s1.region k.handle q.slice with | some r => s1.ahead r (p.addr + p.off) old | none => old) →
    s1.rxWrite p.dstQp (q.heard s.timeNs p) p.msn 2 k.handle (p.addr + p.off) (accBytes p.comp now bs) = .ok s2 () →
    exec (.rxAccumulate p) s = .next ((s2.rxNote p.dstQp p (accBytes p.comp now bs).length).rxAck p.dstQp p)) ∧
  (∀ (p : Pkt) (s s1 : State) (q : Qp) (k : Ak) (bs : List Byte), p.ptype = 5 → s.hears p q → (s.heard p).inWindow p (q.heard s.timeNs p) → (s.heard p).akFor q.slice p.w18 2 = some k →
    (s.heard p).akHolds k p.addr (p.off + 1) 2 = true → (q.rxFault = none ∨ k.kind ≠ 0) →
    (s.heard p).rxRead p.dstQp (q.heard s.timeNs p) p.psn k.loc k.handle p.addr (p.off + 1) = .ok s1 bs →
    exec (.rxReadReq p) s = .next ((((s1.dropGather p.dstQp p.psn).readResponses p.dstQp p bs).rxNote p.dstQp p 0).rxAck p.dstQp p)) ∧
  (∀ (p : Pkt) (s s1 s2 : State) (q : Qp) (k : Ak) (bs : List Byte), p.ptype = 7 → s.hears p q → (s.heard p).inWindow p (q.heard s.timeNs p) → (s.heard p).akFor q.slice p.w18 4 = some k →
    p.payload.length = 16 → fld p.w28 0 4 < 2 → p.addr % 8 = 0 → (s.heard p).akHolds k p.addr 8 4 = true → k.kind = 1 →
    (s.heard p).atomicGuard (q.heard s.timeNs p) p k.handle = none →
    (s.heard p).rxRead p.dstQp (q.heard s.timeNs p) p.psn 2 k.handle p.addr 8 = .ok s1 bs →
    s1.rxWrite p.dstQp (q.heard s.timeNs p) p.msn 2 k.handle p.addr (leBytes 8 (if fld p.w28 0 4 = 0 then (leNat bs + leAt p.payload 0 8) % 2 ^ 64
      else if leNat bs = leAt p.payload 8 8 then leAt p.payload 0 8 else leNat bs)) = .ok s2 () →
    exec (.rxAtomicReq p) s = .next (((s2.atomicResponse p.dstQp p (leNat bs) true).rxNote p.dstQp p 0).rxAck p.dstQp p)) ∧
  (∀ (c : Pkt → Instr) (ty : Nat) (p : Pkt) (s : State) (q : Qp), (c, ty) ∈ ([(.rxWrite, 1), (.rxWriteImm, 2), (.rxSend, 3), (.rxAccumulate, 4)] : List ((Pkt → Instr) × Nat)) →
    p.ptype = ty → s.hears p q →
    ((2 ^ 31 ≤ psnDiff p.psn q.base ∨ (psnDiff p.psn q.base < 65536 ∧ q.rxSet.contains p.psn = true)) →
      exec (c p) s = .next (((s.heard p).cnt R.TMT_RX_DUP).sendAck p.dstQp 0 0)) ∧
    (65536 ≤ psnDiff p.psn q.base → psnDiff p.psn q.base < 2 ^ 31 → exec (c p) s = .next (((s.heard p).cnt R.TMT_RX_OUT_WINDOW).sendAck p.dstQp 0 0)) ∧
    (((s.heard p).cnt R.TMT_RX_DUP).sendAck p.dstQp 0 0).mem = s.mem ∧ (((s.heard p).cnt R.TMT_RX_DUP).sendAck p.dstQp 0 0).pcie = s.pcie) ∧
  (∀ (c : Pkt → Instr) (ty : Nat) (p : Pkt) (s : State) (q : Qp), (c, ty) ∈ ([(.rxReadResp, 6), (.rxAtomicResp, 8)] : List ((Pkt → Instr) × Nat)) →
    p.ptype = ty → s.hears p q → q.msgOf p.psn = none → exec (c p) s = .next ((s.heard p).cnt R.TMT_RX_DUP)) ∧
  (∀ (p : Pkt) (s s2 : State) (q : Qp) (m : Msg) (bs : List Byte) (j : Job), p.ptype = 6 → s.hears p q → q.msgOf p.psn = some m → m.op = 0x32 → m.inner = false →
    m.got.contains (psnDiff p.psn m.psn0) = false → (s.heard p).blockFor (q.heard s.timeNs p) (m.got.map (fun i => m.psn0 + i)) p.psn = true → s.job m.sr m.tag = some j →
    decodeData p.comp p.payload (some (min m.per (m.len - psnDiff p.psn m.psn0 * m.per))) = some bs →
    (s.heard p).writeOperand j m.lloc m.lhandle (m.laddr + psnDiff p.psn m.psn0 * m.per) bs q.req = .ok s2 →
    exec (.rxReadResp p) s = .next ((((s2.updQp p.dstQp (fun q => { q with
      msgs := q.msgs.map (fun x => if x.started && x.psn0 = m.psn0 then { x with got := setIns x.got (psnDiff p.psn m.psn0) } else x) })).dropAnswered p.dstQp).tmtDue p.dstQp).rxAck p.dstQp p)) ∧
  (∀ (p : Pkt) (s : State) (q : Qp) (m : Msg) (j : Job), p.ptype = 8 → s.hears p q → q.msgs = [m] → m.started = true → psnDiff p.psn m.psn0 = 0 → m.npkt = 1 →
    (m.op = 0x34 ∨ m.op = 0x35) → m.done = false → m.inner = false → m.ctr = 0 → s.job m.sr m.tag = some j → s.allLanded m.sr m.tag →
    (s.heard p).blockFor (q.heard s.timeNs p) q.atomicPsns p.psn = true →
    answers (.rxAtomicResp p) s fun t => t.reportsWith m.sr m.tag stSuccess (leAt p.payload 0 8) ∧ ∃ q', Tbl.find t.tmt.qps p.dstQp = some q' ∧ q'.msgs = []) ∧
  (∀ (p : Pkt) (s : State) (q : Qp) (m : Msg) (j : Job), p.ptype = 9 → s.hears p q → fld p.addr 0 8 = 0 → q.msgs = [m] → m.op ∈ [0x30, 0x31, 0x33, 0x36] → m.started = true →
    m.sent = m.npkt → m.inner = false → psnBefore p.psn q.ackBase = false → psnBefore p.psn (m.psn0 + m.npkt) = false → s.job m.sr m.tag = some j → s.allLanded m.sr m.tag →
    answers (.rxAck p) s fun t => t.reportsWith m.sr m.tag stSuccess (m.len % 2 ^ 64) ∧
      ∃ q', Tbl.find t.tmt.qps p.dstQp = some q' ∧ q'.msgs = [] ∧ q'.ackBase = p.psn ∧ q'.paused = false) ∧
  (∀ (p : Pkt) (s : State) (q : Qp) (m : Msg) (st : Nat), p.ptype = 9 → s.hears p q → (fld p.addr 0 8, st) ∈ [(2, stRemoteAccess), (3, stRemoteError), (4, stRemoteFault)] →
    q.msgOf p.w28 = some m → m.op < 0x100 → (s.job m.sr m.tag).isSome = true →
    (∀ x, q.msgs.head? = some x → x.finished (if psnBefore p.psn q.ackBase then q.ackBase else p.psn) = false) →
    answers (.rxAck p) s fun t => t.reports m.sr m.tag st ∧ ∃ q', Tbl.find t.tmt.qps p.dstQp = some q' ∧ q'.state = .error) ∧
  (∀ (p : Pkt) (s : State) (q : Qp), p.ptype = 9 → s.hears p q → fld p.addr 0 8 = 5 →
    (∀ x, q.msgs.head? = some x → x.finished (if psnBefore p.psn q.ackBase then q.ackBase else p.psn) = false) →
    answers (.rxAck p) s fun t => t.mem = s.mem ∧ ∃ q', Tbl.find t.tmt.qps p.dstQp = some q' ∧ q'.expiries = 0 ∧ q'.paused = true ∧ q'.msgs = q.msgs ∧
      q'.ackBase = (if psnBefore p.psn q.ackBase then q.ackBase else p.psn)) ∧
  (∀ (p : Pkt) (s : State) (q : Qp) (m : Msg), p.ptype = 9 → s.hears p q → fld p.addr 0 8 = 1 → q.msgOf p.w28 = some m → (q.rnrRetry = 15 ∨ m.rnr + 1 < q.rnrRetry) →
    (∀ x, q.msgs.head? = some x → x.finished (if psnBefore p.psn q.ackBase then q.ackBase else p.psn) = false) →
    answers (.rxAck p) s fun t => t.mem = s.mem ∧ ∃ q', Tbl.find t.tmt.qps p.dstQp = some q' ∧ q'.state = .rts ∧
      { m with rnr := m.rnr + 1, rnrWait := true, rnrSince := s.timeNs } ∈ q'.msgs) ∧
  (∀ (c : Pkt → Instr) (sub : Nat) (p : Pkt) (s : State) (q : Qp),
    (c, sub) ∈ ([(.rxCtrlStopNotice, 1), (.rxCtrlStepCheck, 2), (.rxCtrlClose, 3)] : List ((Pkt → Instr) × Nat)) → p.ptype = 0xA → fld p.w18 0 16 = sub → s.hears p q →
    (s.heard p).inWindow p (q.heard s.timeNs p) →
    exec (c p) s = .next (if q.rxMsn % 65536 = p.msn then (((s.heard p).rxNote p.dstQp p 0).rxAck p.dstQp p).rxDeliver p.dstQp
      else ((s.heard p).rxNote p.dstQp p 0).rxAck p.dstQp p)) ∧
  (∀ (c : Pkt → Instr) (ty : Nat) (p : Pkt) (s : State),
    (c, ty) ∈ ([(.rxWrite, 1), (.rxWriteImm, 2), (.rxSend, 3), (.rxAccumulate, 4), (.rxReadReq, 5), (.rxReadResp, 6), (.rxAtomicReq, 7), (.rxAtomicResp, 8), (.rxAck, 9)] :
      List ((Pkt → Instr) × Nat)) →
    p.ptype = ty → s.rf R.TMT_CTRL 16 1 = 1 → p.ce = false → Tbl.find s.tmt.qps p.dstQp = none → exec (c p) s = .next ((s.cnt R.TMT_RX_PKTS).cnt R.TMT_RX_BAD))

/-- (1) Delivery (R276 to R278): the next message in MSN order, once complete, moves the receive base behind its last PSN, commits the SEND's receive WR
or the WRITE_IMM's arrival entry and counts its counter up; a message that is not complete, and every later one, waits; what it wrote to accelerator
memory lands first (R333). In part the model's choices: log entry 39. (2) Sending and the transport's timers (R264, R281 to R286, R289): a packet
leaves in post order and takes the next PSN; an acknowledgement answers all that came; an expired timer marks its PSN lost and its path suspect until
the retry limit ends the QP; waits end, none of them before its time; the key pair of the new phase takes over; congestion parameters raise rates to
the new least. In part the model's choices: log entries 116 and 160. -/
def Obligations.DeliveryAndTimers : Prop :=
  (∀ (qn e : Nat) (s : State) (q : Qp) (m : RxMsg), Tbl.find s.tmt.qps qn = some q → q.state = .rts → q.rxMsgs.find? (fun m => m.msn = q.rxMsn % 65536) = some m →
     (s.rxComplete qn q m = false → exec (.messageDelivery qn) s = .next s) ∧
     (s.rxComplete qn q m = true → Tbl.has s.mem.guardFail (ownerNum (65536 + qn) (m.msn % 65536)) = false →
       s.pcie.wroteLinks.any (fun w => w.1 = 65536 + qn && w.2.1 = m.msn % 65536) = true → exec (.messageDelivery qn) s = .next (s.rxLand qn m.msn)) ∧
     (s.rxComplete qn q m = true → m.psnEnd = some e → Tbl.has s.mem.guardFail (ownerNum (65536 + qn) (m.msn % 65536)) = false →
       s.pcie.wroteLinks.any (fun w => w.1 = 65536 + qn && w.2.1 = m.msn % 65536) = false →
       (m.ptype = 1 → m.ctr = 0 → answers (.messageDelivery qn) s fun t => t.ring = s.ring ∧ t.mem = s.mem ∧
         ∃ q', Tbl.find t.tmt.qps qn = some q' ∧ q'.base = (e + 1) % 2 ^ 32 ∧ q'.rxMsn = (q.rxMsn + 1) % 2 ^ 32 ∧ q'.rxMsgs.any (fun k => k.msn = m.msn) = false) ∧
       (m.ptype = 1 → m.ctr ≠ 0 → s.armsOn 1 m.ctr = [] → ∀ k, s.counterOf m.ctr q.slice = some k → k.armed = false →
         answers (.messageDelivery qn) s fun t => Tbl.find t.tmt.ctrs m.ctr = some { k with value := (k.value + 1) % 2 ^ 32 } ∧
           ∃ q', Tbl.find t.tmt.qps qn = some q' ∧ q'.base = (e + 1) % 2 ^ 32) ∧
       (m.ptype = 2 → m.ctr = 0 → Tbl.find s.ring.crs q.recvCr = none → answers (.messageDelivery qn) s fun t =>
         (∃ c ∈ t.ring.unwritten, c.sr = 0xFFFF ∧ c.tag = 0xFFFF ∧ c.cr = q.recvCr ∧ c.status = stArrival ∧ c.detail = qn ∧ c.result = m.imm + m.len * 2 ^ 32) ∧
           ∃ q', Tbl.find t.tmt.qps qn = some q' ∧ q'.base = (e + 1) % 2 ^ 32) ∧
       (∀ (r : RecvWr), m.ptype = 3 → m.ctr = 0 → q.recvs.find? (fun r => r.ssn = m.ssn) = some r → (s.job r.sr r.tag).isSome = true →
         answers (.messageDelivery qn) s fun t => t.reportsWith r.sr r.tag stSuccess (m.len % 2 ^ 64) ∧
           ∃ q', Tbl.find t.tmt.qps qn = some q' ∧ q'.base = (e + 1) % 2 ^ 32 ∧ q'.recvs = q.recvs.filter (fun x => x.ssn ≠ m.ssn)))) ∧
  ((∀ (qn k : Nat) (s : State) (q : Qp) (m : Msg), Tbl.find s.tmt.qps qn = some q → s.rf R.TMT_CTRL 16 1 = 1 → q.state = .rts → q.responses = [] → q.unacked = [] → q.encrypt = false →
     q.sched = false → q.msgs = [m] → m.op ∈ [0x30, 0x31, 0x33, 0x36] → m.npkt ≠ 0 → m.started = false → m.sent = 0 → m.data.isSome = true → m.rnrWait = false →
     q.nextPsn < 2 ^ 32 → psnDiff q.nextPsn q.ackBase < 65536 → (s.txQueue q q.pcp).isSome = true →
     q.pickPath s.timeNs = some k → q.paced k s.timeNs = true →
     answers (.tmtPacketTransmit qn false) s fun t => t.mem = s.mem ∧ ∃ q', Tbl.find t.tmt.qps qn = some q' ∧ q'.nextPsn = (q.nextPsn + 1) % 2 ^ 32 ∧
       q'.nextMsn = q.nextMsn + 1 ∧ q'.unacked.map (fun u => u.psn) = [q.nextPsn] ∧
       q'.msgs = [{ m with started := true, msn := q.nextMsn, psn0 := q.nextPsn, ssn := q.nextSsn, sent := 1 }]) ∧
   (∀ (qn k : Nat) (s : State) (q : Qp) (p : Pkt) (rest : List Pkt), Tbl.find s.tmt.qps qn = some q → s.rf R.TMT_CTRL 16 1 = 1 → q.state = .rts → q.responses = p :: rest →
     q.sched = false → (s.txQueue q q.pcp).isSome = true → q.pickPath s.timeNs = some k → q.paced k s.timeNs = true →
     answers (.tmtPacketTransmit qn false) s fun t => t.mem = s.mem ∧ ∃ q', Tbl.find t.tmt.qps qn = some q' ∧ q'.responses = rest ∧ q'.nextPsn = q.nextPsn) ∧
   (∀ (qn : Nat) (s : State) (q : Qp), Tbl.find s.tmt.qps qn = some q → q.state = .rts → q.sinceAck ≠ 0 →
     (q.ackSince + 2000 ≤ s.timeNs → s.rf R.TMT_CTRL 16 1 = 1 →
       answers (.ackTimer qn) s fun t => t.mem = s.mem ∧ ∃ q', Tbl.find t.tmt.qps qn = some q' ∧ q'.sinceAck = 0 ∧ q'.ceCount = 0 ∧ q'.base = q.base) ∧
     (s.timeNs < q.ackSince + 2000 → exec (.ackTimer qn) s = .next s)) ∧
   (∀ (qn k : Nat) (s : State) (q : Qp) (u : Unacked), Tbl.find s.tmt.qps qn = some q → q.unacked.find? (fun u => u.path = k && !u.lost) = some u →
     (s.timeNs < u.time + q.rto k → exec (.retransmitTimeout qn k) s = .next s) ∧
     (u.time + q.rto k ≤ s.timeNs → q.expiries + 1 < q.retry → answers (.retransmitTimeout qn k) s fun t => t.mem = s.mem ∧ t.ring = s.ring ∧
       ∃ q', Tbl.find t.tmt.qps qn = some q' ∧ q'.expiries = q.expiries + 1 ∧ (∀ p, q'.paths[k]? = some p → p.suspect = true) ∧
         (∀ v ∈ q'.unacked, v.psn = u.psn → v.lost = true) ∧ q'.msgs = q.msgs) ∧
     (∀ m, u.time + q.rto k ≤ s.timeNs → q.retry ≤ q.expiries + 1 → q.state = .rts → q.msgOf u.psn = some m → m.op < 0x100 → (s.job m.sr m.tag).isSome = true →
       answers (.retransmitTimeout qn k) s fun t => t.reports m.sr m.tag stRetryExceeded ∧ ∃ q', Tbl.find t.tmt.qps qn = some q' ∧ q'.state = .error)) ∧
   (∀ (qn : Nat) (s : State) (q : Qp) (m : Msg), Tbl.find s.tmt.qps qn = some q → q.msgs.find? (fun m => m.rnrWait && m.rnrSince + 20000 ≤ s.timeNs) = some m → m.started = true →
     answers (.rnrWaitExpiry qn) s fun t => t.mem = s.mem ∧ t.ring = s.ring ∧ ∃ q', Tbl.find t.tmt.qps qn = some q' ∧
       (∀ x ∈ q'.msgs, x.started = true → x.psn0 = m.psn0 → x.rnrWait = false) ∧ (∀ u ∈ q'.unacked, psnDiff u.psn m.psn0 < max 1 m.npkt → u.lost = true)) ∧
   (∀ (qn : Nat) (s : State) (q : Qp), Tbl.find s.tmt.qps qn = some q → (∀ m ∈ q.msgs, m.rnrWait = true → s.timeNs < m.rnrSince + 20000) →
     exec (.rnrWaitExpiry qn) s = .next s) ∧
   (∀ (qn k : Nat) (s : State) (q : Qp) (p : Path), Tbl.find s.tmt.qps qn = some q → q.paths[k]? = some p →
     answers (.pathSuspectExpiry qn k) s fun t => t.mem = s.mem ∧ t.ring = s.ring ∧ ∃ q', Tbl.find t.tmt.qps qn = some q' ∧ q'.paths.length = q.paths.length ∧
       (p.since + 10 ^ 6 ≤ s.timeNs → q'.paths[k]? = some { p with suspect := false }) ∧ (s.timeNs < p.since + 10 ^ 6 → q'.paths[k]? = some p) ∧
       (∀ i, i ≠ k → q'.paths[i]? = q.paths[i]?)) ∧
   (∀ (qn : Nat) (s : State) (q : Qp), Tbl.find s.tmt.qps qn = some q → q.grace = true → q.nextKey ≠ 0 →
     answers (.rekeyGraceExpiry qn) s fun t => t.mem = s.mem ∧ t.ring = s.ring ∧
       Tbl.find t.tmt.qps qn = some (if q.graceSince + 8 * 10 ^ 6 ≤ s.timeNs then { q with key := q.nextKey, nextKey := 0, rxPhase := !q.rxPhase, grace := false } else q)) ∧
   (∀ (qn t0 : Nat) (s : State), Tbl.find s.tmt.cooling qn = some t0 →
     (t0 + 16 * 10 ^ 6 ≤ s.timeNs → answers (.qpNumberRelease qn) s fun t => Tbl.find t.tmt.cooling qn = none ∧
       (∀ n, n ≠ qn → Tbl.find t.tmt.cooling n = Tbl.find s.tmt.cooling n) ∧ t.tmt.qps = s.tmt.qps ∧ t.mem = s.mem ∧ t.ring = s.ring ∧ t.regs = s.regs) ∧
     (s.timeNs < t0 + 16 * 10 ^ 6 → exec (.qpNumberRelease qn) s = .next s)) ∧
   (∀ (sl n : Nat) (s : State) (q : Qp), Tbl.find s.tmt.qps n = some q →
     answers (.ccParameterApply sl) s fun t => t.mem = s.mem ∧ t.ring = s.ring ∧ t.regs = s.regs ∧
       Tbl.find t.tmt.qps n = some (if q.slice = sl then { q with paths := q.paths.map (fun p => { p with rate := max (10 * s.rf (R.TMT_CC sl) 64 16) p.rate }) } else q)))

/-- (1) Frames that arrive and leave (R298, R304, R308, R315, R320): a bad FCS, a pause and an oversize frame are counted and go no further; every other
frame enters classification at pass 0 with its parse; one whose parse fails is dropped where its port says so; a transmit selection takes the chosen
queue's head frame, sends its edited bytes and leaves the queue without it; firmware's frames enter their queue at step 7; a received PFC frame pauses
the classes it names; a pause ends when its time is over and not before; a pause sent is sent again half its time later, and not before, while its
class stands above xoff. In part the model's choices: log entries 103 and 105. (2) Settings of a port die (R303, R316, R319): a graph commit asks for
a swap and a swap between frames makes the other copy active; a shaper takes its new rate and depth with its tokens kept up to the depth; a meter's
entry keeps no Rsvd bit; one that is switched on starts with full buckets, one that was on keeps what it has up to the new sizes. In part the model's
choices: log entries 111 and 163. -/
def Obligations.Packets : Prop :=
  ((∀ (o j : Nat) (bytes : List Byte) (parity : Bool) (s : State), s.portUp o j = true →
     exec (.frameReceive o j bytes false parity) s = .next (s.cnt (R.PRT_RX_FCS o)) ∧
     (beNat (bsub bytes 12 2) = 0x8808 → beNat (bsub bytes 14 2) = 1 →
       exec (.frameReceive o j bytes true parity) s = .next ((s.cnt (R.PKT_RX_FRAMES (dieOf o))).cnt (R.TSH_PAUSE_RX (dieOf o)))) ∧
     (beNat (bsub bytes 12 2) ≠ 0x8808 → (s.cnt (R.PKT_RX_FRAMES (dieOf o))).mtu (dieOf o) (subOf o j) < bytes.length + 4 →
       exec (.frameReceive o j bytes true parity) s = .next ((s.cnt (R.PKT_RX_FRAMES (dieOf o))).cnt (R.PKT_RX_OVERSIZE (dieOf o)))) ∧
     (beNat (bsub bytes 12 2) ≠ 0x8808 → bytes.length + 4 ≤ (s.cnt (R.PKT_RX_FRAMES (dieOf o))).mtu (dieOf o) (subOf o j) →
       exec (.frameReceive o j bytes true parity) s = .next ((s.cnt (R.PKT_RX_FRAMES (dieOf o))).passes 0 4 (Arrived.mk o j bytes bytes
         ((s.cnt (R.PKT_RX_FRAMES (dieOf o))).parse (dieOf o) (subOf o j) bytes) (s.timeNs % 2 ^ 32) parity) Cls.start))) ∧
   (∀ (s : State) (pass left : Nat) (a : Arrived) (c : Cls), a.parsed.ok = false → (s.cnt (R.PKT_PARSE_FAIL a.p)).rf (R.PKT_PORT a.p a.n) 12 1 = 1 →
     s.passes pass (left + 1) a c = s.cnt (R.PKT_PARSE_FAIL a.p)) ∧
   (∀ (p n q sl : Nat) (committed : Bool) (k : Pick) (f : QFrame) (s : State), n < 64 → s.portUp (p * 8 + n / 8) (n % 8) = true → (s.die p).queues = [(q, [f])] →
     s.rf (R.TSH_QUEUE p q) 0 6 = n → s.eligible p n q = true → s.gateAdmits (p * 8 + n / 8) (n % 8) (s.rf (R.TSH_QUEUE p q) 12 3) ((s.egress p f).bytes.length + 4) = true →
     s.pickSlice p n [(q, s.countedLen (p * 8 + n / 8) (n % 8) (s.egress p f).bytes)] = some (sl, committed, k) → k.q = q → (s.egress p f).control = false →
     (s.egress p f).bytes.length + 4 ≤ s.mtu p n → f.ingress = none →
     answers (.transmitSelect p n) s fun t => t.out = s.out ++ [.frame (p * 8 + n / 8) (n % 8) (s.egress p f).bytes] ∧ (t.die p).queues = [] ∧
       (∀ d, d ≠ p → t.die d = s.die d) ∧ t.mem = s.mem ∧ t.tmt = s.tmt) ∧
   (∀ (p q : Nat) (bytes : List Byte) (s : State), p < 4 → q < 4096 → s.queueOk p q = true →
     answers (.firmwareFrameSend p q bytes) s fun t => Tbl.get (t.die p).queues q [] = Tbl.get (s.die p).queues q [] ++ [QFrame.own bytes] ∧
       (∀ r, r ≠ q → Tbl.find (t.die p).queues r = Tbl.find (s.die p).queues r) ∧ (∀ d, d ≠ p → t.die d = s.die d) ∧ t.mem = s.mem ∧ t.regs = s.regs ∧ t.out = s.out) ∧
   (∀ (o j vector : Nat) (quanta : List Nat) (s : State), s.portUp o j = true →
     answers (.pfcReceive o j vector quanta) s fun t =>
       (∀ c, c < 8 → bit vector c = true → s.pfcOn (dieOf o) (subOf o j) c = true →
         Tbl.find (t.die (dieOf o)).paused (subOf o j * 8 + c) = if nth quanta c 0 = 0 then none else some (s.timeNs + ceilDiv (nth quanta c 0 * 64) (s.portRate o))) ∧
       (∀ k, ¬(∃ c, c < 8 ∧ k = subOf o j * 8 + c ∧ bit vector c = true ∧ s.pfcOn (dieOf o) (subOf o j) c = true) →
         Tbl.find (t.die (dieOf o)).paused k = Tbl.find (s.die (dieOf o)).paused k) ∧
       (t.die (dieOf o)).queues = (s.die (dieOf o)).queues ∧ t.mem = s.mem ∧ t.regs = s.regs) ∧
   (∀ (p n c t : Nat) (s : State), Tbl.find (s.die p).paused (n * 8 + c) = some t → s.timeNs < t → exec (.pfcPauseExpiry p n c) s = .next s) ∧
   (∀ (p n c : Nat) (s : State), s.pausedNow p n c = false → answers (.pfcPauseExpiry p n c) s fun t => Tbl.find (t.die p).paused (n * 8 + c) = none ∧
     (∀ k, k ≠ n * 8 + c → Tbl.find (t.die p).paused k = Tbl.find (s.die p).paused k) ∧ (t.die p).queues = (s.die p).queues ∧ t.mem = s.mem ∧ t.regs = s.regs) ∧
   (∀ (p n c t0 : Nat) (s : State), Tbl.find (s.die p).xoff (n * 8 + c) = some t0 → s.pfcOn p n c = true →
     (t0 + 0xFFFF * 64 / s.portRate (p * 8 + n / 8) / 2 ≤ s.timeNs →
       exec (.pfcRefresh p n c) s = .next ((s.setDie p { s.die p with xoff := Tbl.put (s.die p).xoff (n * 8 + c) s.timeNs }).sendPfc p n c 0xFFFF)) ∧
     (s.timeNs < t0 + 0xFFFF * 64 / s.portRate (p * 8 + n / 8) / 2 → exec (.pfcRefresh p n c) s = .next s))) ∧
  ((∀ (p : Nat) (s : State), p < 4 → answers (.graphCommit p) s fun t => t.rf (R.PKT_CTRL p) 2 1 = 1 ∧ t.rf (R.PKT_CTRL p) 3 1 = s.rf (R.PKT_CTRL p) 3 1 ∧
     (∀ a, a ≠ R.PKT_CTRL p → t.rd a = s.rd a) ∧ t.mem = s.mem ∧ t.pkt = s.pkt) ∧
   (∀ (p : Nat) (s : State), p < 4 → s.rf (R.PKT_CTRL p) 2 1 = 1 →
     answers (.graphSwap p) s fun t => t.rf (R.PKT_CTRL p) 2 1 = 0 ∧ t.rf (R.PKT_CTRL p) 3 1 = 1 - s.rf (R.PKT_CTRL p) 3 1 ∧
       (∀ a, a ≠ R.PKT_CTRL p → t.rd a = s.rd a) ∧ t.mem = s.mem ∧ t.pkt = s.pkt) ∧
   (∀ (p : Nat) (s : State), s.rf (R.PKT_CTRL p) 2 1 = 0 → exec (.graphSwap p) s = .next s) ∧
   (∀ (p kind i : Nat) (s : State), answers (.shaperWriteApply p kind i) s fun t =>
     Tbl.find (t.die p).shapers (shaperKey kind i) = some ⟨fld (s.shaperEntry p kind i) 0 32, fld (s.shaperEntry p kind i) 32 24,
       min (s.shaper p kind i).tokens ((fld (s.shaperEntry p kind i) 32 24 * 10 ^ 6 : Nat) : Int), s.timeNs⟩ ∧
     (∀ k, k ≠ shaperKey kind i → Tbl.find (t.die p).shapers k = Tbl.find (s.die p).shapers k) ∧ (t.die p).queues = (s.die p).queues ∧ t.mem = s.mem ∧ t.regs = s.regs) ∧
   (∀ (p m entry e : Nat) (s : State), p < 4 → m < 16384 → e = entry &&& meterBits entry →
     (Tbl.find (s.die p).meters m = none → answers (.meterWrite p m entry) s fun t => t.rd (R.TSH_METER p m) = e ∧
       Tbl.find (t.die p).meters m = some ⟨e, dby e 16 4 * 10 ^ 6, dby e 20 4 * 10 ^ 6, s.timeNs⟩ ∧
       (∀ k, k ≠ m → Tbl.find (t.die p).meters k = Tbl.find (s.die p).meters k) ∧ t.mem = s.mem) ∧
     (∀ k, Tbl.find (s.die p).meters m = some k → fld k.entry 0 2 = 1 ∨ fld k.entry 0 2 = 2 →
       answers (.meterWrite p m entry) s fun t => t.rd (R.TSH_METER p m) = e ∧ ∃ k', Tbl.find (t.die p).meters m = some k' ∧ k'.entry = e ∧
         k'.c = min (k.upTo s.timeNs).c (dby e 16 4 * 10 ^ 6) ∧ k'.e = min (k.upTo s.timeNs).e (dby e 20 4 * 10 ^ 6))))

/-- (1) Octets, Ethernet links and the states of Denux links (R322 to R324, R337, R338): each event takes a link from the state R337 names to the next
one; an octet whose lane maps repeat a lane is in error; training for 100 ms, retraining for 2 ms, and not sooner, and a peer that does not match, end
in DOWN. In part the model's choices: log entry 102. (2) Flits (R326 to R328, R331): a link flit goes out at positions 0, 17 and 34 of the round, a
data flit of the burst at the others; a link flit that is whole acknowledges and brings the credits and the CRCs of the flits that follow; a bad one
is answered with a NAK; a data flit in order is taken, one whose CRC differs is discarded and asked for again. In part the model's choices: log entry
102. -/
def Obligations.LinkStatesAndFlits : Prop :=
  ((∀ (o : Nat) (s : State), o < 32 → s.rf (R.PRT_OCTET o) 0 1 = 0 →
     answers (.octetEnable o) s fun t => t.rf (R.PRT_OCTET o) 0 1 = 1 ∧ R.PRT_OCTET o ∈ t.locks ∧
       t.rf (R.PRT_OCTET_STATUS o) 0 3 = (if s.octetMode o = 0 then 0 else if s.rf R.CLK_STATUS (1 + dieOf o) 1 = 1 && mapOk (s.rf (R.PRT_OCTET o) 32 24) && mapOk (s.rf (R.PRT_OCTET o) 64 24) then 1 else 4) ∧
       t.mem = s.mem ∧ t.ports = s.ports) ∧
   (∀ (o : Nat) (s : State), o < 32 → s.rf (R.PRT_OCTET o) 0 1 = 1 → s.octetMode o ≠ 5 →
     answers (.octetDisable o) s fun t => t.rf (R.PRT_OCTET o) 0 1 = 0 ∧ t.rd (R.PRT_OCTET_STATUS o) = 0 ∧ t.mem = s.mem ∧ t.ports = s.ports) ∧
   (∀ (o j : Nat) (s : State), s.ethPort o j = true → s.rf (R.PRT_OCTET_STATUS o) 0 3 ≠ 0 → s.rf (R.PRT_OCTET_STATUS o) 0 3 ≠ 4 →
     answers (.ethernetLinkUp o j) s fun t => t.portUp o j = true ∧ (∀ k, k < 8 → k ≠ j → t.portUp o k = s.portUp o k) ∧ t.mem = s.mem ∧ t.ports = s.ports) ∧
   (∀ (o j : Nat) (s : State), s.portUp o j = true →
     answers (.ethernetLinkDown o j) s fun t => t.portUp o j = false ∧ (∀ k, k < 8 → k ≠ j → t.portUp o k = s.portUp o k) ∧ t.mem = s.mem ∧ t.ports = s.ports) ∧
   (∀ (n : Nat) (s : State), n < 16 → s.linkOn n = false → s.dnxState n = 0 →
     answers (.denuxLinkEnable n) s fun t => t.linkOn n = true ∧ t.dnxState n = 1 ∧ R.DNX_LINK n ∈ t.locks ∧ t.mem = s.mem ∧ t.ports = s.ports) ∧
   (∀ (n : Nat) (s : State), n < 16 → s.linkOn n = true → s.dnxState n ≠ 5 → s.dnxState n ≠ 6 →
     answers (.denuxLinkDisable n) s fun t => t.linkOn n = false ∧ t.dnxState n = 0 ∧ t.mem = s.mem ∧ t.ports = s.ports) ∧
   (∀ (n : Nat) (s : State), n < 16 → s.dnxState n = 1 → s.canTrain n = true →
     answers (.denuxSignalDetect n) s fun t => t.dnxState n = 2 ∧ (t.link n).since = s.timeNs ∧ (t.link n).sendQ = (s.link n).sendQ ∧ t.mem = s.mem) ∧
   (∀ (n : Nat) (s : State), n < 16 → s.dnxState n = 2 → answers (.denuxTrainLock n) s fun t => t.dnxState n = 3 ∧ t.rf (R.PRT_OCTET_STATUS (s.linkOctet n)) 11 9 = 0x1FF ∧ t.mem = s.mem ∧ t.ports = s.ports) ∧
   (∀ (n : Nat) (s : State), n < 16 → s.dnxState n = 2 → (s.link n).since + 10 ^ 8 ≤ s.timeNs → (s.link n).reqs = [] → (s.link n).sendQ = [] → s.pcie.wroteLinks = [] →
     answers (.denuxTrainTimeout n) s fun t => t.dnxState n = 7 ∧ t.mem = s.mem) ∧
   (∀ (n : Nat) (s : State), s.dnxState n = 2 → s.timeNs < (s.link n).since + 10 ^ 8 → exec (.denuxTrainTimeout n) s = .next s) ∧
   (∀ (n : Nat) (rev : Bool) (s : State), n < 16 → s.dnxState n = 3 →
     answers (.denuxAlignDone n rev) s fun t => t.dnxState n = 4 ∧ (t.link n).rxNext = 0 ∧ (t.link n).txSeq = 0 ∧ (t.link n).replay = [] ∧
       (t.link n).initSeen = false ∧ (t.link n).sendQ = (s.link n).sendQ ∧ t.mem = s.mem) ∧
   (∀ (n : Nat) (s : State), n < 16 → s.dnxState n = 4 → (s.link n).initSeen = true → (s.rf (R.DNX_STATUS n) 3 1 = 1 ↔ s.linkPeer n = true) →
     answers (.denuxInitDone n) s fun t => t.dnxState n = 5 ∧ (t.link n).reqs = (s.link n).reqs.map (fun r => { r with since := s.timeNs }) ∧ (t.link n).sendQ = (s.link n).sendQ ∧ t.mem = s.mem) ∧
   (∀ (n : Nat) (s : State), n < 16 → s.dnxState n = 4 → (s.link n).initSeen = true → (s.rf (R.DNX_STATUS n) 3 1 = 1 ↔ s.linkPeer n = false) →
     (s.link n).reqs = [] → (s.link n).sendQ = [] → s.pcie.wroteLinks = [] → answers (.denuxInitDone n) s fun t => t.dnxState n = 7 ∧ t.mem = s.mem) ∧
   (∀ (n : Nat) (s : State), n < 16 → s.dnxState n = 5 →
     answers (.denuxRetrainEntry n) s fun t => t.dnxState n = 6 ∧ (t.link n).replay = (s.link n).replay ∧ (t.link n).burst = [] ∧ (t.link n).since = s.timeNs ∧ t.rf (R.PRT_OCTET_STATUS (s.linkOctet n)) 11 9 = 0 ∧ (t.link n).sendQ = (s.link n).sendQ ∧ t.mem = s.mem) ∧
   (∀ (n ack : Nat) (s : State), n < 16 → s.dnxState n = 6 → s.canTrain n = true →
     answers (.denuxRetrainDone n ack) s fun t => t.dnxState n = 5 ∧ (t.link n).replay = ((s.link n).ackTo ack).replay ∧
       (t.link n).resend = ((s.link n).ackTo ack).replay.head?.map (fun r => r.1) ∧ (t.link n).discarding = true ∧ t.mem = s.mem) ∧
   (∀ (n : Nat) (s : State), n < 16 → s.dnxState n = 6 → (s.link n).since + 2 * 10 ^ 6 ≤ s.timeNs → (s.link n).reqs = [] → (s.link n).sendQ = [] → s.pcie.wroteLinks = [] →
     answers (.denuxRetrainTimeout n) s fun t => t.dnxState n = 7 ∧ t.mem = s.mem) ∧
   (∀ (n : Nat) (s : State), s.dnxState n = 6 → s.timeNs < (s.link n).since + 2 * 10 ^ 6 → exec (.denuxRetrainTimeout n) s = .next s)) ∧
  ((∀ (n : Nat) (s : State), n < 16 → s.dnxState n = 5 →
     ((s.link n).pos ∈ [0, 17, 34] → answers (.flitTransmit n) s fun t => (t.link n).pos = (s.link n).pos + 1 ∧ (t.link n).nakDue = false ∧
       t.out.length = s.out.length + 1 ∧ t.mem = s.mem ∧ t.regs = s.regs) ∧
     (∀ f rest, (s.link n).pos ∉ [0, 17, 34] → (s.link n).burst = f :: rest → answers (.flitTransmit n) s fun t =>
       t.out = s.out ++ [.dnx n f.2.2] ∧ (t.link n).burst = rest ∧ (t.link n).pos = ((s.link n).pos + 1) % 50 ∧ (t.link n).replay = (s.link n).replay ∧ t.mem = s.mem)) ∧
   (∀ (n : Nat) (bytes : List Byte) (s : State), n < 16 → s.dnxState n = 5 → bytes.length = 256 → leAt bytes 0 2 = 0x444C →
     leAt bytes 252 4 = crc32c (bytes.take 252) → leAt bytes 3 1 = 0 →
     answers (.linkFlitReceive n bytes) s fun t => (t.link n).ret = ⟨leAt bytes 12 4, leAt bytes 16 4, leAt bytes 20 4⟩ ∧
       (t.link n).expect = (List.range 16).map (fun i => leAt bytes (24 + 4 * i) 4) ∧ (t.link n).expSeq = leAt bytes 8 4 ∧
       (∀ r, r ∈ (t.link n).replay ↔ r ∈ (s.link n).replay ∧ 0 < seqDiff r.1 (leAt bytes 4 4) ∧ seqDiff r.1 (leAt bytes 4 4) < 2 ^ 31) ∧
       t.dnxState n = 5 ∧ t.mem = s.mem ∧ t.regs = s.regs) ∧
   (∀ (n : Nat) (bytes : List Byte) (s : State), n < 16 → s.dnxState n = 5 → leAt bytes 252 4 ≠ crc32c (bytes.take 252) →
     answers (.linkFlitReceive n bytes) s fun t => t.mem = s.mem ∧ (t.link n).replay = (s.link n).replay ∧ (t.link n).expect = [] ∧
       ((s.link n).badFlits < 3 → t.dnxState n = 5 ∧ (t.link n).nakDue = true) ∧ (3 ≤ (s.link n).badFlits → t.dnxState n = 6)) ∧
   (∀ (n c : Nat) (bytes : List Byte) (parity : Bool) (rest : List Nat) (s : State), n < 16 → s.dnxState n = 5 → (s.link n).expect = c :: rest → c ≠ 0 →
     (bytes.length = 256 → crc32c bytes = c → seqDiff (s.link n).expSeq (s.link n).rxNext = 0 → (unpack 20 ((s.link n).partial' ++ bytes)).1 = [] →
       answers (.dataFlitReceive n bytes parity) s fun t => (t.link n).rxNext = ((s.link n).rxNext + 1) % 2 ^ 32 ∧ (t.link n).expect = rest ∧ (t.link n).discarding = false ∧
         (t.link n).partial' = (unpack 20 ((s.link n).partial' ++ bytes)).2 ∧ t.mem = s.mem) ∧
     (crc32c bytes ≠ c → answers (.dataFlitReceive n bytes parity) s fun t => (t.link n).rxNext = (s.link n).rxNext ∧ (t.link n).discarding = true ∧
       (seqDiff (s.link n).expSeq (s.link n).rxNext = 0 → (t.link n).nakDue = true) ∧ t.mem = s.mem ∧
       t.ctrVal (R.DNX_CRC_ERR n) = min (s.ctrVal (R.DNX_CRC_ERR n) + 1) 0xFFFFFFFF)))

/-- Messages of a Denux link (R42, R171, R260, R329, R330, R333 to R336): a request that its inbound window admits is done in its region and answered; one
that no window admits is counted and answered with status 1 and changes no memory; a completion brings its request's data or its end; a beat of this
timing domain is kept with its time, one of another is counted; a malformed message is counted alone; while a write from the link waits on the copy
guard later messages wait behind it; a request that takes too long completes LINK_ERROR. In part the model's choices: log entries 66, 102 and 166. -/
def Obligations.DenuxMessages : Prop :=
  (∀ (n : Nat) (m : List Byte) (s : State), s.linkTakes n 1 m →
    (∀ w r off, (s.took n m).inbound n (mAddr m) (mLen m) 2 = some (w, r, off) →
      exec (.dnxWrite n m) s = .next (State.served ((s.took n m).writeRegion r off (bsub m 32 (mLen m)) (windowOwner w)).1 n)) ∧
    ((s.took n m).inbound n (mAddr m) (mLen m) 2 = none → answers (.dnxWrite n m) s fun t => t.mem = s.mem ∧ t.pcie = s.pcie)) ∧
  (∀ (n : Nat) (m : List Byte) (s : State), s.linkTakes n 2 m →
    (∀ w r off s1 bs, (s.took n m).inbound n (mAddr m) (mLen m) 1 = some (w, r, off) → (s.took n m).readRegion r off (mLen m) = .ok s1 bs →
      exec (.dnxReadReq n m) s = .next ((s1.dnxSend n (readCpl (mTag m) 0 bs)).served n)) ∧
    ((s.took n m).inbound n (mAddr m) (mLen m) 1 = none → answers (.dnxReadReq n m) s fun t => t.mem = s.mem ∧
      (t.link n).sendQ = (s.link n).sendQ ++ [readCpl (mTag m) 1 []])) ∧
  (∀ (n w off : Nat) (m : List Byte) (s s1 s2 : State) (r : Region) (bs : List Byte) (c : Nat), s.linkTakes n 4 m → mAddr m % 8 = 0 →
    (s.took n m).inbound n (mAddr m) 8 3 = some (w, r, off) → (s.took n m).readRegion r off 8 = .ok s1 bs →
    s1.writeRegion r off (leBytes 8 (if mFlags m = 0 then leNat bs + mOperand m else if mFlags m = 1 then mOperand m else if leNat bs = mCompare m then mOperand m else leNat bs))
      (windowOwner w) = (s2, c, none) →
    exec (.dnxAtomicReq n m) s = .next ((s2.dnxSend n (atomicCpl (mTag m) 0 (leNat bs))).served n)) ∧
  (∀ (n : Nat) (m : List Byte) (s : State) (r : DnxReq), s.linkTakes n 3 m → (s.link n).reqs.find? (fun r => r.tag = mTag m) = some r → r.reported = false → fld (mFlags m) 1 2 = 0 →
    mAddr m = r.data.length → bit (mFlags m) 0 = true → (r.data ++ bsub m 32 (mLen m)).length = r.len →
    exec (.dnxReadCpl n m) s = .next ((((s.took n m).updLink n (fun l => { l with reqs := l.reqs.filter (fun x => x.tag ≠ r.tag) })).reqDone n r (r.data ++ bsub m 32 (mLen m))).served n)) ∧
  (∀ (n : Nat) (m : List Byte) (s : State) (r : DnxReq), s.linkTakes n 5 m → (s.link n).reqs.find? (fun r => r.tag = mTag m) = some r → r.reported = false → fld (mFlags m) 1 2 = 0 →
    exec (.dnxAtomicCpl n m) s = .next ((((s.took n m).updLink n (fun l => { l with reqs := l.reqs.filter (fun x => x.tag ≠ r.tag) })).reqDone n r (leBytes 8 (mOperand m))).served n)) ∧
  (∀ (c : Nat → List Byte → Instr) (ty st n : Nat) (m : List Byte) (s : State) (r : DnxReq), (c, ty) ∈ ([(.dnxReadCpl, 3), (.dnxAtomicCpl, 5)] : List ((Nat → List Byte → Instr) × Nat)) →
    s.linkTakes n ty m → (s.link n).reqs.find? (fun r => r.tag = mTag m) = some r → r.reported = false → (fld (mFlags m) 1 2, st) ∈ [(1, stAddressError), (2, stLinkError)] →
    exec (c n m) s = .next ((((s.took n m).updLink n (fun l => { l with reqs := l.reqs.filter (fun x => x.tag ≠ r.tag) })).reqFails r st
      (if fld (mFlags m) 1 2 = 1 then 0 else linkDetail n 1)).served n)) ∧
  (∀ (c : Nat → List Byte → Instr) (ty n : Nat) (m : List Byte) (s : State), (c, ty) ∈ ([(.dnxReadCpl, 3), (.dnxAtomicCpl, 5)] : List ((Nat → List Byte → Instr) × Nat)) →
    s.linkTakes n ty m → (s.link n).reqs.find? (fun r => r.tag = mTag m) = none → exec (c n m) s = .next (((s.took n m).cnt (R.DNX_LATE_CPL n)).served n)) ∧
  (∀ (n : Nat) (m : List Byte) (s : State) (r : Sr), s.linkTakes n 6 m → Tbl.find s.ring.srs (mCompare m) = some r → mOperand m < 2 ^ 32 →
    fld (mOperand m) 16 16 = Tbl.get s.ring.srGen (mCompare m) 0 → ringState (s.slice r.slice).state ≠ 2 → ringState (s.slice r.slice).state ≠ 4 →
    fld (mOperand m) 0 16 < 2 ^ r.at'.log2 →
    (List.range 64).any (fun w => bit (s.rd (R.DNX_IN_WINDOW (n * 64 + w))) 0 && fld (s.rd (R.DNX_IN_WINDOW (n * 64 + w))) 4 6 = r.slice) = true →
    answers (.dnxDoorbell n m) s fun t => Tbl.find t.ring.srs (mCompare m) = some { r with tail := fld (mOperand m) 0 16 } ∧ t.mem = s.mem ∧ t.regs = s.regs) ∧
  (∀ (n : Nat) (m : List Byte) (parity : Bool) (s : State) (p : Pkt), s.linkTakes n 8 m → parsePkt (bsub m 32 (mLen m)) false = some p →
    exec (.dnxTmtMessage n m parity) s = .next (((s.took n m).tmtArrive p parity).served n)) ∧
  (∀ (n : Nat) (m : List Byte) (s : State), s.linkTakes n 9 m → Config.domainOf m % 2 ^ 16 ≠ s.rf R.TLN_DOMAIN 0 16 →
    exec (.dnxBeat n m) s = .next (((s.took n m).cnt R.TLN_STALE_MAP).served n)) ∧
  (∀ (n : Nat) (m : List Byte) (s : State), s.dnxHeld n = true → n < 16 → s.dnxState n = 5 → mType m = 1 →
    exec (.dnxWrite n m) s = .next (s.updLink n (fun l => { l with held := (s.link n).held ++ [(m, false)] }))) ∧
  (∀ (n : Nat) (m : List Byte) (s : State), s.linkTakes n 9 m → Config.domainOf m % 2 ^ 16 = s.rf R.TLN_DOMAIN 0 16 →
    answers (.dnxBeat n m) s fun t => Tbl.find t.tln.beats n = some (mOperand m, s.timeNs) ∧ t.mem = s.mem ∧ t.regs = s.regs) ∧
  (∀ (c : Nat → List Byte → Instr) (ty n : Nat) (m : List Byte) (s : State),
    (c, ty) ∈ ([(.dnxWrite, 1), (.dnxReadReq, 2), (.dnxReadCpl, 3), (.dnxAtomicReq, 4), (.dnxAtomicCpl, 5), (.dnxDoorbell, 6), (.dnxBeat, 9)] : List ((Nat → List Byte → Instr) × Nat)) →
    n < 16 → s.dnxState n = 5 → mType m = ty → msgOk (s.linkPeer n) m = false → s.linkFree n m → exec (c n m) s = .next (((s.took n m).cnt (R.DNX_BAD_MSG n)).served n)) ∧
  (∀ (n tag : Nat) (s : State) (r : DnxReq), (s.link n).reqs.find? (fun r => r.tag = tag && !r.reported) = some r → r.ofRing = false →
    (s.timeNs < r.since + (if s.rf (R.DNX_LINK n) 16 16 = 0 then 10000 else s.rf (R.DNX_LINK n) 16 16) * 1000 → exec (.dnxCplTimeout n tag) s = .next s) ∧
    (r.since + (if s.rf (R.DNX_LINK n) 16 16 = 0 then 10000 else s.rf (R.DNX_LINK n) 16 16) * 1000 ≤ s.timeNs → exec (.dnxCplTimeout n tag) s = .next ((s.updLink n (fun l => { l with reqs := l.reqs.map (fun x => if x.tag = tag then { x with reported := true } else x) })).reqFails r
      stLinkError (linkDetail n 2)))) ∧
  (∀ (w : Nat) (s : State) (b : Nat × Nat) (r : Region), s.ports.windowBusy.find? (fun b => b.1 = w) = some b → s.mem.guardWait.any (fun g => g.owner = windowOwner w) = false →
    Tbl.find s.mem.regions (b.2 % 65536) = some r →
    answers (.windowReduceDone w) s fun t => t.ports.windowBusy = s.ports.windowBusy.erase b ∧ Tbl.find t.mem.regions (b.2 % 65536) = some { r with refs := r.refs - 1 } ∧
      t.mem.bytes = s.mem.bytes ∧ t.regs = s.regs)

/-- Admin commands and the PF1 controller (R340, R344, R349, R352 to R354, R427): each command that the admin queue gives next has the effect NVMe and
R340 give it; enabling makes the controller ready once nothing is left to replay; a reset takes the queues and the commands and keeps what the cache
holds; doorbells move tail and head; a self-test runs, pauses while commands wait, and ends in the log. In part the model's choices: log entries 49,
51, 53 and 73. -/
def Obligations.AdminQueueAndController : Prop :=
  (∀ (cmd : Nat) (prps : List Nat) (s : State), s.nvmeNext 0 cmd 0x06 → cdw cmd 10 % 256 = 1 →
    exec (.identify 0 cmd prps) s = .next (((s.nvmeTaken 0).toPrps prps ctrlIdentify).nvmeDone 0 (nvCid cmd) nvOk 0)) ∧
  (∀ (cmd : Nat) (prps : List Nat) (s : State) (x : Ns), s.nvmeNext 0 cmd 0x06 → cdw cmd 10 % 256 = 0 → 1 ≤ nvNsid cmd → nvNsid cmd ≤ 256 → s.pf1Ns (nvNsid cmd) = some x →
    exec (.identify 0 cmd prps) s = .next (((s.nvmeTaken 0).toPrps prps x.identify).nvmeDone 0 (nvCid cmd) nvOk 0)) ∧
  (∀ (cmd : Nat) (prps : List Nat) (s s1 : State) (b : List Byte), s.nvmeNext 0 cmd 0x02 → cdw cmd 10 % 256 ≠ 4 → (s.nvmeTaken 0).logPage (cdw cmd 10 % 256) = some (b, s1) →
    exec (.getLogPage 0 cmd prps) s = .next ((s1.toPrps prps (fitBytes (b.drop (cdw cmd 12 + cdw cmd 13 * 2 ^ 32))
      (4 * (fld (cdw cmd 10) 16 16 + fld (cdw cmd 11) 0 16 * 65536 + 1)))).nvmeDone 0 (nvCid cmd) nvOk 0)) ∧
  (∀ (cmd : Nat) (s : State), s.nvmeNext 0 cmd 0x09 → cdw cmd 10 % 256 ∈ [1, 6, 8, 0x0B] →
    answers (.setFeatures 0 cmd) s fun t => Tbl.find t.stor.features (cdw cmd 10 % 256) = some (cdw cmd 11) ∧
      (∀ f, f ≠ cdw cmd 10 % 256 → Tbl.find t.stor.features f = Tbl.find s.stor.features f) ∧ t.stor.nss = s.stor.nss ∧ t.mem = s.mem) ∧
  (∀ (cmd d : Nat) (s : State), s.nvmeNext 0 cmd 0x0A → nvFeature (cdw cmd 10 % 256) = some d →
    exec (.getFeatures 0 cmd) s = .next ((s.nvmeTaken 0).nvmeDone 0 (nvCid cmd) nvOk (Tbl.get s.stor.features (cdw cmd 10 % 256) d))) ∧
  (∀ (cmd q n : Nat) (s : State), s.nvmeNext 0 cmd 0x05 → q = fld (cdw cmd 10) 0 16 → n = fld (cdw cmd 10) 16 16 + 1 → 1 ≤ q → q ≤ 1024 → Tbl.find s.stor.cqs q = none →
    2 ≤ n → n ≤ 16384 → bit (cdw cmd 11) 0 = true → fld (cdw cmd 11) 16 16 ≤ 1024 →
    answers (.createIoCq 0 cmd) s fun t => (∃ c, Tbl.find t.stor.cqs q = some c ∧ c.base = nvPrp1 cmd ∧ c.size = n ∧ c.head = 0 ∧ c.vec = fld (cdw cmd 11) 16 16) ∧ t.stor.nss = s.stor.nss) ∧
  (∀ (cmd q n : Nat) (s : State), s.nvmeNext 0 cmd 0x01 → q = fld (cdw cmd 10) 0 16 → n = fld (cdw cmd 10) 16 16 + 1 → 1 ≤ q → q ≤ 1024 → Tbl.find s.stor.sqs q = none →
    fld (cdw cmd 11) 16 16 ≠ 0 → Tbl.has s.stor.cqs (fld (cdw cmd 11) 16 16) = true → 2 ≤ n → n ≤ 16384 → bit (cdw cmd 11) 0 = true →
    answers (.createIoSq 0 cmd) s fun t => Tbl.find t.stor.sqs q = some ⟨nvPrp1 cmd, n, fld (cdw cmd 11) 16 16, 0, 0⟩ ∧ t.stor.nss = s.stor.nss) ∧
  (∀ (cmd q : Nat) (s : State), s.nvmeNext 0 cmd 0x00 → q = fld (cdw cmd 10) 0 16 → 1 ≤ q → Tbl.has s.stor.sqs q = true →
    answers (.deleteIoSq 0 cmd) s fun t => Tbl.find t.stor.sqs q = none ∧ (∀ w ∈ t.stor.held, w.by'.fromSq q = false) ∧ (∀ w ∈ t.stor.waits, w.by'.fromSq q = false)) ∧
  (∀ (cmd q : Nat) (s : State), s.nvmeNext 0 cmd 0x04 → q = fld (cdw cmd 10) 0 16 → 1 ≤ q → Tbl.has s.stor.cqs q = true → (∀ x ∈ s.stor.sqs, x.2.cq ≠ q) →
    answers (.deleteIoCq 0 cmd) s fun t => Tbl.find t.stor.cqs q = none ∧ (∀ w ∈ t.stor.cqWait, w.1 ≠ q)) ∧
  (∀ (cmd q c : Nat) (s : State), s.nvmeNext 0 cmd 0x08 → q = fld (cdw cmd 10) 0 16 → c = fld (cdw cmd 10) 16 16 →
    (∀ w ∈ s.stor.held, ∀ p, w.by' ≠ .nvme q c p) → exec (.nvmeAbort 0 cmd) s = .next ((s.nvmeTaken 0).nvmeDone 0 (nvCid cmd) nvOk 1)) ∧
  (∀ (cmd q c : Nat) (s : State) (w : StorHeld) (p : List Nat), s.nvmeNext 0 cmd 0x08 → q = fld (cdw cmd 10) 0 16 → c = fld (cdw cmd 10) 16 16 → w ∈ s.stor.held → w.by' = .nvme q c p → w.op ≠ 1 → w.op ≠ 3 →
    answers (.nvmeAbort 0 cmd) s fun t => (∀ w ∈ t.stor.held, ∀ p, w.by' ≠ .nvme q c p) ∧ t.stor.nss = s.stor.nss ∧ t.mem = s.mem) ∧
  (∀ (cmd : Nat) (s : State), s.nvmeNext 0 cmd 0x0C → s.stor.changed = [] →
    answers (.asynchronousEventRequest 0 cmd) s fun t => t.stor.aers = s.stor.aers ++ [nvCid cmd] ∧ t.pcie = s.pcie ∧ t.mem = s.mem) ∧
  (∀ (cmd : Nat) (s : State), s.nvmeNext 0 cmd 0x14 → (cdw cmd 10 % 16 = 1 ∨ cdw cmd 10 % 16 = 2) → nvNsid cmd = 0xFFFFFFFF → s.stor.selfTest = none →
    (s.stBusy = true → answers (.deviceSelfTest 0 cmd) s fun t => t.stor.selfTest = some ⟨cdw cmd 10 % 16, 0xFFFFFFFF, true, false⟩ ∧ t.stor.nss = s.stor.nss ∧ t.mem = s.mem) ∧
    (s.stBusy = false → (∀ x ∈ s.stor.nss, x.2.kind = 0) → answers (.deviceSelfTest 0 cmd) s fun t =>
      t.stor.selfTest = some ⟨cdw cmd 10 % 16, 0xFFFFFFFF, false, true⟩ ∧ t.stor.nss = s.stor.nss ∧ t.mem = s.mem ∧
      ∀ x ∈ s.stor.nss, Out.drive x.2.port 5 0 0 [] ∈ t.out ∧ Out.drive x.2.port 2 x.2.logLba 1 [] ∈ t.out)) ∧
  (∀ (s : State) (k : SelfTest), s.stor.selfTest = some k →
    (s.timeNs < s.stor.lastUse + 1000000 → exec .selfTestResume s = .next s) ∧
    (s.stBusy = false → s.stor.lastUse + 1000000 ≤ s.timeNs → k.issued = true → answers .selfTestResume s fun t =>
      t.stor.selfTest = some { k with paused := false } ∧ t.regs = s.regs ∧ t.mem = s.mem)) ∧
  (∀ (seg : Nat) (s : State) (k : SelfTest), s.stBusy = false → s.stor.selfTest = some k → k.paused = false →
    (seg = 0 → ∀ w ∈ s.stor.waits, ∀ g, w.by' ≠ .test g) →
    answers (.selfTestDone seg) s fun t => t.stor.selfTest = none ∧ t.stor.stLog = ((if seg = 0 then 0 else 7) + 16 * k.code, seg, k.nsid) :: s.stor.stLog ∧
      fld t.storStatus 1 2 = 0 ∧ t.mem = s.mem) ∧
  (∀ (mps aqa asq acq : Nat) (s : State), s.stor.enabled = false → mps ≤ 4 → s.stor.cfs = false →
    (s.rd R.NVM_CACHE ≠ 0 → s.region (s.rd R.NVM_CACHE) 0 = none → answers (.nvmeControllerEnable mps aqa asq acq) s fun t => t.stor.enabled = true ∧ t.mem = s.mem ∧
      ∀ n x, s.ns n = some x → x.kind = 0 → x.pending ≠ [] → t.stor.rdy = s.stor.rdy ∧ ∃ y, t.ns n = some y ∧ y.needReplay = true ∧ y.pending = []) ∧
    (s.rd R.NVM_CACHE = 0 ∨ (s.region (s.rd R.NVM_CACHE) 0).isSome = true →
    answers (.nvmeControllerEnable mps aqa asq acq) s fun t => t.stor.enabled = true ∧ t.stor.mps = mps ∧ t.stor.nss = s.stor.nss ∧ t.mem = s.mem ∧
      Tbl.find t.stor.sqs 0 = some ⟨asq, fld aqa 0 12 + 1, 0, 0, 0⟩ ∧ (∃ c, Tbl.find t.stor.cqs 0 = some c ∧ c.base = acq ∧ c.size = fld aqa 16 12 + 1) ∧
      (s.stor.nss.any (fun x => x.2.needReplay) = false → t.stor.rdy = true) ∧ (s.stor.nss.any (fun x => x.2.needReplay) = true → t.stor.rdy = s.stor.rdy))) ∧
  (∀ (s : State), s.stor.enabled = true →
    answers .nvmeControllerReset s fun t => t.stor.enabled = false ∧ t.stor.rdy = false ∧ t.stor.sqs = [] ∧ t.stor.cqs = [] ∧ t.stor.drives = s.stor.drives ∧ t.mem = s.mem ∧
      (∀ n x, s.ns n = some x → ∃ y, t.ns n = some y ∧ y.opened = x.opened ∧ y.closed = x.closed ∧ y.homing = x.homing)) ∧
  (∀ (s : State), s.stor.enabled = true → exec .nvmeShutdown s = .next { s with stor := { s.stor with shut := true } }) ∧
  (∀ (q tail : Nat) (s : State) (x : NvSq), Tbl.find s.stor.sqs q = some x → tail < x.size →
    answers (.nvmeSqDoorbell q tail) s fun t => Tbl.find t.stor.sqs q = some { x with tail := tail } ∧
      (∀ k, k ≠ q → Tbl.find t.stor.sqs k = Tbl.find s.stor.sqs k) ∧ t.stor.cqs = s.stor.cqs ∧ t.mem = s.mem ∧ t.regs = s.regs) ∧
  (∀ (q head : Nat) (s : State) (x : NvCq), Tbl.find s.stor.cqs q = some x → head < x.size → (∀ w ∈ s.stor.cqWait, w.1 ≠ q) →
    answers (.nvmeCqDoorbell q head) s fun t => Tbl.find t.stor.cqs q = some { x with head := head } ∧
      (∀ k, k ≠ q → Tbl.find t.stor.cqs k = Tbl.find s.stor.cqs k) ∧ t.stor.sqs = s.stor.sqs ∧ t.mem = s.mem ∧ t.regs = s.regs) ∧
  (∀ (q : Nat) (s : State) (c : NvCq), Tbl.find s.stor.cqs q = some c → s.timeNs < c.since + fld (Tbl.get s.stor.features 8 0) 8 8 * 100000 →
    exec (.interruptCoalescingTime q) s = .next s) ∧
  (∀ (q : Nat) (s : State) (c : NvCq), Tbl.find s.stor.cqs q = some c → c.due ≠ 0 → c.since + fld (Tbl.get s.stor.features 8 0) 8 8 * 100000 ≤ s.timeNs →
    answers (.interruptCoalescingTime q) s fun t => Tbl.find t.stor.cqs q = some { c with due := 0 } ∧ t.stor.sqs = s.stor.sqs ∧ t.mem = s.mem)

/-- I/O commands and storage-direct descriptors (R340, R346, R348, R351, R352, R356): a command that passes its checks reads what the namespace holds,
joins the open batch of a drive namespace, or waits for the batches before a flush; the newest pending entry of a block is what a read returns; a read
of a block that a held command writes is held behind it; a write that is forced, or made without the volatile cache, waits for its batch; one whose
data cannot be read changes nothing. In part the model's choices: log entries 48, 49, 51, 52, 164, 165 and 168. -/
def Obligations.StorageCommands : Prop :=
  (∀ (es : List NsEntry) (e : NsEntry) (b : Nat), cachedBlock (es ++ [e]) b =
    if e.lba ≤ b ∧ b < e.lba + e.count then some (if e.zero then zeroBytes blk else bsub e.data ((b - e.lba) * blk) blk) else cachedBlock es b) ∧
  (∀ (b : StorBy) (n slba nlb : Nat) (s : State) (x : Ns), s.ns n = some x → x.kind ≠ 2 → s.stor.held = [] →
    (x.kind = 1 → (s.poolPages ⟨b, n, 1, slba, nlb, [], false, nlb * blk⟩ x).any (fun p => s.mem.guardWait.any (fun w => w.dpa / 4096 = p)) = false) →
    s.storReadCmd b n slba nlb = s.storRead b n x slba nlb) ∧
  (∀ (b : StorBy) (n slba nlb : Nat) (s : State) (x : Ns) (h : StorHeld), s.ns n = some x → h ∈ s.stor.held → h.nsid = n →
    h.entries.any (fun e => decide (slba < e.lba + e.count) && decide (e.lba < slba + nlb)) = true →
    s.storReadCmd b n slba nlb = { s with stor := { s.stor with held := s.stor.held ++ [⟨b, n, 1, slba, nlb, [], false, nlb * blk⟩] } }) ∧
  (∀ (sq cmd : Nat) (prps : List Nat) (s : State) (x : Ns), s.nvmeIoNext sq cmd 0x02 x → nvNlb cmd ≤ 256 → nvSlba cmd + nvNlb cmd ≤ x.blocks →
    exec (.nvmeRead sq cmd prps) s = .next ((s.nvmeTaken sq).storReadCmd (.nvme sq (nvCid cmd) prps) (nvNsid cmd) (nvSlba cmd) (nvNlb cmd)).stPause) ∧
  (∀ (sq cmd : Nat) (data : List Byte) (s : State) (x : Ns), s.nvmeIoNext sq cmd 0x01 x → nvNlb cmd ≤ 256 → nvSlba cmd + nvNlb cmd ≤ x.blocks → x.ro = false → x.kind = 0 →
    s.stor.held = [] → (∀ k, s.cacheBlocks = some k → s.cacheUse + nvNlb cmd ≤ k) → x.opened.length < 240 → dataBlocks x.opened + nvNlb cmd < 8064 →
    (bit (cdw cmd 12) 30 = false → s.vwcOn = true → answers (.nvmeWrite sq cmd ⟨0, data⟩) s fun t => t.mem = s.mem ∧ t.stor.drives = s.stor.drives ∧ t.stor.waits = s.stor.waits ∧
      ∃ y, t.ns (nvNsid cmd) = some y ∧ y.closed = x.closed ∧ y.homing = x.homing ∧
      y.opened = x.opened ++ nsPieces (nvSlba cmd) (nvNlb cmd) 32 false (fitBytes data (nvNlb cmd * blk))) ∧
    (bit (cdw cmd 12) 30 = true ∨ s.vwcOn = false → answers (.nvmeWrite sq cmd ⟨0, data⟩) s fun t => t.mem = s.mem ∧ t.stor.drives = s.stor.drives ∧
      t.stor.waits = s.stor.waits ++ [⟨.nvme sq (nvCid cmd) [], nvNsid cmd, none, some x.seq, none, false, [], nvNlb cmd * blk⟩] ∧
      ∃ y, t.ns (nvNsid cmd) = some y ∧ y.opened = [] ∧ y.homing = x.homing ∧
        y.closed = x.closed ++ [⟨x.seq, x.pos, x.opened ++ nsPieces (nvSlba cmd) (nvNlb cmd) 32 false (fitBytes data (nvNlb cmd * blk)), false⟩])) ∧
  (∀ (sq cmd bad : Nat) (data : List Byte) (s : State) (x : Ns), s.nvmeIoNext sq cmd 0x01 x → nvNlb cmd ≤ 256 → nvSlba cmd + nvNlb cmd ≤ x.blocks → x.ro = false → 1 ≤ bad →
    answers (.nvmeWrite sq cmd ⟨bad, data⟩) s fun t => t.mem = s.mem ∧ t.stor.nss = s.stor.nss ∧ t.stor.waits = s.stor.waits ∧ t.stor.drives = s.stor.drives) ∧
  (∀ (sq cmd : Nat) (s : State) (x : Ns), s.nvmeIoNext sq cmd 0x08 x → nvSlba cmd + nvNlb cmd ≤ x.blocks → x.ro = false → x.kind = 0 → bit (cdw cmd 12) 30 = false → s.vwcOn = true →
    s.stor.held = [] → (∀ k, s.cacheBlocks = some k → s.cacheUse ≤ k) → x.opened.length < 251 → dataBlocks x.opened < 8064 →
    answers (.writeZeroes sq cmd) s fun t => t.mem = s.mem ∧ t.stor.drives = s.stor.drives ∧ ∃ y, t.ns (nvNsid cmd) = some y ∧
      y.opened = x.opened ++ [⟨nvSlba cmd, nvNlb cmd, true, []⟩]) ∧
  (∀ (sq cmd : Nat) (s : State) (x : Ns), s.nvmeIoNext sq cmd 0x00 x → x.kind = 0 →
    (x.opened = [] → x.closed = [] → exec (.nvmeFlush sq cmd) s = .next ((s.nvmeTaken sq).nvmeDone sq (nvCid cmd) nvOk 0).stPause) ∧
    (x.opened ≠ [] → answers (.nvmeFlush sq cmd) s fun t => t.stor.waits = s.stor.waits ++ [⟨.nvme sq (nvCid cmd) [], nvNsid cmd, none, some x.seq, none, false, [], 0⟩] ∧
      t.mem = s.mem ∧ t.stor.drives = s.stor.drives ∧ ∃ y, t.ns (nvNsid cmd) = some y ∧ y.opened = [] ∧ y.seq = x.seq + 1 ∧ y.pending = x.pending)) ∧
  (∀ (sq cmd : Nat) (data : List Byte) (s : State) (x : Ns), s.nvmeIoNext sq cmd 0x09 x →
    (bit (cdw cmd 11) 2 = false → exec (.datasetManagement sq cmd ⟨0, data⟩) s = .next ((s.nvmeTaken sq).nvmeDone sq (nvCid cmd) nvOk 0).stPause) ∧
    (bit (cdw cmd 11) 2 = true → cdw cmd 10 % 256 = 0 → leAt data 8 8 + leAt data 4 4 ≤ x.blocks → x.ro = false →
      exec (.datasetManagement sq cmd ⟨0, data⟩) s =
        .next ((s.nvmeTaken sq).storAccept ⟨.nvme sq (nvCid cmd) [], nvNsid cmd, 5, 0, x.blocks, nsPieces (leAt data 8 8) (leAt data 4 4) 65536 true [], false, 0⟩).stPause)) ∧
  (∀ (sr tag : Nat) (s : State) (j : Job) (x : Ns), s.storNext sr tag 0x50 j x →
    exec (.storRead sr tag) s = .next ((s.storStart j).storReadCmd (.desc sr tag) (dby j.desc 8 4) (sdSlba j.desc) (sdNlb j.desc)).stPause) ∧
  (∀ (sr tag : Nat) (s s1 : State) (j : Job) (x : Ns) (bs : List Byte), s.storNext sr tag 0x51 j x →
    s.readOperand j (dby j.desc 28 1) (dby j.desc 32 4) (dby j.desc 40 8) (sdNlb j.desc * blk) reqStorage = .ok s1 bs →
    exec (.storWrite sr tag) s = .next ((s1.storStart j).storWrite (.desc sr tag) (dby j.desc 8 4) (sdSlba j.desc) (sdNlb j.desc) false (bit (dby j.desc 12 1) 0) bs 2).stPause) ∧
  (∀ (sr tag : Nat) (s : State) (j : Job) (x : Ns), s.storNext sr tag 0x52 j x → x.kind = 0 → x.opened = [] → x.closed = [] →
    answers (.storFlush sr tag) s fun t => t.reportsWith sr tag stSuccess 0 ∧ t.stor.nss = s.stor.nss ∧ t.stor.drives = s.stor.drives) ∧
  (∀ (c : Nat → Nat → Instr) (op p sr tag : Nat) (s : State) (j : Job) (x : Ns),
    (c, op, p) ∈ ([(.storWriteZeroes, 0x53, 4), (.storDeallocate, 0x54, 5)] : List ((Nat → Nat → Instr) × Nat × Nat)) → s.storNext sr tag op j x →
    exec (c sr tag) s = .next ((s.storStart j).storWrite (.desc sr tag) (dby j.desc 8 4) (sdSlba j.desc) (sdNlb j.desc) true (bit (dby j.desc 12 1) 0) [] p).stPause)

/-- (1) Batches and the log (R343, R346, R348 to R350): a batch closes under the next sequence number at the log's position; committed, it waits to go
home; a superblock names the oldest batch that is not home; a replay with no record to accept leaves the log where the superblock says, and a bad
superblock stops the controller; a drive's completion of a batch's data brings a Flush where the drive has a volatile write cache, and the last
completion makes its batch ready. In part the model's choices: log entries 54 and 164. (2) Namespaces and exports (R344, R345, R350, R357, R358): a
definition that fits makes the namespace, a deletion takes an idle one away, a query tells its type and what is cached; an export binds it to a QP and
is undone; a capsule over that QP does what its opcode says, one over another QP does not; a response ends the importer's command. In part the model's
choices: log entries 55, 56 and 164. -/
def Obligations.BatchesAndNamespaces : Prop :=
  ((∀ (n : Nat) (s : State) (x : Ns), s.ns n = some x → s.timeNs < x.since + 50000 → exec (.batchClose n) s = .next s) ∧
   (∀ (n : Nat) (s : State) (x : Ns), s.ns n = some x → x.opened ≠ [] → x.since + 50000 ≤ s.timeNs →
     answers (.batchClose n) s fun t => t.mem = s.mem ∧ t.stor.drives = s.stor.drives ∧ ∃ y, t.ns n = some y ∧ y.opened = [] ∧ y.seq = x.seq + 1 ∧
       y.pos = x.logPos x.pos (1 + dataBlocks x.opened) ∧ y.closed = x.closed ++ [⟨x.seq, x.pos, x.opened, decide (dataBlocks x.opened = 0)⟩] ∧ y.pending = x.pending) ∧
   (∀ (n : Nat) (s : State) (x : Ns) (b : Batch) (rest : List Batch), s.ns n = some x → x.closed = b :: rest → b.ready = true → x.logUsed b ≤ x.logBlocks - 1 → 1 ≤ b.recPos →
     (∀ w ∈ s.stor.waits, w.nsid ≠ n) →
     answers (.batchCommit n) s fun t => t.mem = s.mem ∧ t.stor.waits = s.stor.waits ∧ Out.drive x.port (if x.vwc then 3 else 1) (x.logLba + b.recPos) 1 [] ∈ t.out ∧
       t.driveBlock x.drive (x.logLba + b.recPos) = b.record n x ∧ ∃ y, t.ns n = some y ∧ y.closed = rest ∧ y.homing = x.homing ++ [b] ∧ y.pending = x.pending) ∧
   (∀ (n : Nat) (s : State) (x : Ns), s.ns n = some x → x.kind = 0 →
     answers (.superblockWrite n) s fun t => t.mem = s.mem ∧ t.driveBlock x.drive x.logLba = superblock n x.lowest.1 x.lowest.2 x.logId ∧
       ∃ y, t.ns n = some y ∧ y.sbSeq = x.lowest.1 ∧ y.sbPos = x.lowest.2 ∧ y.sbAt = x.seq ∧ y.pending = x.pending) ∧
   (∀ (n : Nat) (s : State) (x : Ns), s.ns n = some x → x.kind = 0 → x.needReplay = true →
     (∀ bad, bad = true ∨ leAt (s.driveBlock x.drive x.logLba) 0 4 ≠ 0x4253564E → answers (.replay ⟨n, bad⟩) s fun t => t.stor.cfs = true ∧ t.mem = s.mem ∧
       ∃ y, t.ns n = some y ∧ y.notReady = true) ∧
     (∀ b, s.driveBlock x.drive x.logLba = b → leAt b 0 4 = 0x4253564E → leAt b 4 4 = n → checkOk b 32 = true →
       leAt (s.driveBlock x.drive (x.logLba + leAt b 16 8)) 0 4 ≠ 0x5243564E →
       answers (.replay ⟨n, false⟩) s fun t => t.mem = s.mem ∧ ∃ y, t.ns n = some y ∧ y.seq = leAt b 8 8 ∧ y.pos = leAt b 16 8 ∧ y.logId = leAt b 24 8 ∧ y.needReplay = false ∧ y.pending = [])) ∧
   (∀ (id n seq : Nat) (f : Bool) (s : State) (x : Ns), (∀ w ∈ s.stor.waits, w.drive ≠ some id) → s.stor.driveOps.find? (fun o => o.1 = id) = some (id, n, seq, f) → s.ns n = some x →
     (f = true ∨ x.vwc = false → answers (.driveCompletion id 0) s fun t => (∀ o ∈ s.stor.driveOps, o.1 ≠ id → o ∈ t.stor.driveOps) ∧ t.mem = s.mem ∧
       ∃ y, t.ns n = some y ∧ (∀ b ∈ y.closed, b.seq = seq → b.ready = true) ∧ y.pending = x.pending) ∧
     (f = false → x.vwc = true → (∃ b ∈ x.closed, b.seq = seq) → answers (.driveCompletion id 0) s fun t => t.out = s.out ++ [.drive x.port 4 0 0 []] ∧
       (s.stor.nextDrive, n, seq, true) ∈ t.stor.driveOps ∧ t.stor.nss = s.stor.nss ∧ t.mem = s.mem))) ∧
  ((∀ (sr tag size n : Nat) (fmt vwc : Bool) (s : State) (j : Job) (r : Region), s.ready sr tag 0x58 j → rsvdZero j.desc [(8, 48)] = true → n = dby j.desc 8 4 → 1 ≤ n → n ≤ 256 →
     dby j.desc 12 1 = 1 → dby j.desc 13 1 < 4 → dby j.desc 14 1 = 0 → dby j.desc 15 1 < 64 → dby j.desc 32 8 ≠ 0 → s.ns n = none →
     s.region (dby j.desc 16 4) (dby j.desc 15 1) = some r → dby j.desc 32 8 * blk ≤ r.dataBytes →
     answers (.nsDefine sr tag size fmt vwc) s fun t => t.reportsWith sr tag stSuccess 0 ∧
       (∃ y, t.ns n = some y ∧ y.kind = 1 ∧ y.owner = dby j.desc 15 1 ∧ y.backing = dby j.desc 16 4 ∧ y.blocks = dby j.desc 32 8 ∧ y.vis = bit (dby j.desc 13 1) 0 ∧ y.ro = bit (dby j.desc 13 1) 1) ∧
       (∀ m, m ≠ n → t.ns m = s.ns m)) ∧
   (∀ (sr tag n : Nat) (s : State) (j : Job) (x : Ns), s.ready sr tag 0x59 j → rsvdZero j.desc [(8, 4)] = true → n = dby j.desc 8 4 → s.ns n = some x →
     (j.slice = 0 ∨ x.owner = j.slice) → s.nsBusy n = false → x.needReplay = false →
     answers (.nsDelete sr tag) s fun t => t.reportsWith sr tag stSuccess 0 ∧ t.ns n = none ∧ (∀ m, m ≠ n → t.ns m = s.ns m)) ∧
   (∀ (sr tag n : Nat) (s : State) (j : Job) (x : Ns), s.ready sr tag 0x59 j → rsvdZero j.desc [(8, 4)] = true → n = dby j.desc 8 4 → s.ns n = some x →
     (j.slice = 0 ∨ x.owner = j.slice) → s.nsBusy n = true → answers (.nsDelete sr tag) s fun t => t.reports sr tag stNsBusy ∧ t.ns n = some x) ∧
   (∀ (sr tag n : Nat) (s : State) (j : Job), s.ready sr tag 0x5A j → rsvdZero j.desc [(8, 4)] = true → n = dby j.desc 8 4 →
     (s.ns n = none → answers (.nsQuery sr tag) s fun t => t.reportsWith sr tag stSuccess 0 ∧ t.stor.nss = s.stor.nss) ∧
     (∀ x, s.ns n = some x → s.stor.selfTest = none → answers (.nsQuery sr tag) s fun t =>
       t.reportsWith sr tag stSuccess ((x.kind + 1 + 8 * b2n x.lost + dataBlocks x.pending * 2 ^ 32) % 2 ^ 64) ∧ t.stor.nss = s.stor.nss)) ∧
   (∀ (sr tag n : Nat) (s : State) (j : Job) (x : Ns), s.ready sr tag 0x5B j → rsvdZero j.desc [(8, 4), (13, 1), (16, 4)] = true → clearBits (dby j.desc 13 1) 2 = 0 →
     n = dby j.desc 8 4 → s.ns n = some x → (j.slice = 0 ∨ x.owner = j.slice) → x.kind ≠ 2 → s.capsuleQp (dby j.desc 16 4) = true →
     answers (.peerExport sr tag) s fun t => t.reportsWith sr tag stSuccess 0 ∧ t.ns n = some { x with exported := some (dby j.desc 16 4, bit (dby j.desc 13 1) 1) }) ∧
   (∀ (sr tag n : Nat) (s : State) (j : Job) (x : Ns), s.ready sr tag 0x5C j → rsvdZero j.desc [(8, 4)] = true → n = dby j.desc 8 4 → s.ns n = some x →
     (j.slice = 0 ∨ x.owner = j.slice) → x.exported.isSome = true → (∀ w ∈ s.stor.waits, w.nsid ≠ n) → (∀ w ∈ s.stor.held, w.nsid ≠ n) →
     answers (.peerUnexport sr tag) s fun t => t.reportsWith sr tag stSuccess 0 ∧ t.ns n = some { x with exported := none }) ∧
   (∀ (qn q : Nat) (cap data : List Byte) (ro : Bool) (s : State) (x : Ns), s.ns (leAt cap 4 4) = some x → x.exported = some (q, ro) →
     (q ≠ qn → exec (.capsuleCommand qn cap data) s = .next (s.storDone (.capsule qn (leAt cap 2 2) (leAt cap 20 4) (leAt cap 24 8)) nvBadNs 0 0 false [] 0)) ∧
     (q = qn → x.notReady = false → x.needReplay = false → leAt cap 0 1 = 1 → 1 ≤ leAt cap 16 4 → leAt cap 16 4 ≤ 256 → leAt cap 8 8 + leAt cap 16 4 ≤ x.blocks →
       exec (.capsuleCommand qn cap data) s = .next (s.storReadCmd (.capsule qn (leAt cap 2 2) (leAt cap 20 4) (leAt cap 24 8)) (leAt cap 4 4) (leAt cap 8 8) (leAt cap 16 4))) ∧
     (q = qn → x.notReady = false → x.needReplay = false → leAt cap 0 1 = 2 → 1 ≤ leAt cap 16 4 → leAt cap 16 4 ≤ 256 → leAt cap 8 8 + leAt cap 16 4 ≤ x.blocks →
       (ro = true ∨ x.ro = true → exec (.capsuleCommand qn cap data) s = .next (s.storDone (.capsule qn (leAt cap 2 2) (leAt cap 20 4) (leAt cap 24 8)) nvProtected 0 0 false [] 0)) ∧
       (ro = false → x.ro = false → exec (.capsuleCommand qn cap data) s = .next (s.storWrite (.capsule qn (leAt cap 2 2) (leAt cap 20 4) (leAt cap 24 8)) (leAt cap 4 4)
         (leAt cap 8 8) (leAt cap 16 4) false (bit (leAt cap 1 1) 0) (fitBytes data (leAt cap 16 4 * blk)) 2)))) ∧
   (∀ (qn : Nat) (cap : List Byte) (s : State) (x : Ns) (w : StorWait) (sr tag : Nat) (j : Job), s.stor.waits = [w] → s.stor.held = [] → w.peer = some (leAt cap 0 2) → s.ns w.nsid = some x → x.kind = 2 →
     x.backing = qn → w.by' = .desc sr tag → s.job sr tag = some j → s.allLanded sr tag →
     (leAt cap 2 2 = 0 → w.reads = false → answers (.capsuleResponse qn cap) s fun t => t.reportsWith sr tag stSuccess (w.bytes % 2 ^ 64) ∧ t.stor.waits = []) ∧
     (leAt cap 2 2 ≠ 0 → answers (.capsuleResponse qn cap) s fun t => t.reports sr tag stMediaError ∧ t.stor.waits = [])))

/-- Home writes keep what is read (R346, R351): once the oldest committed batch of a namespace is home it leaves the cache, and every block of the
namespace reads as it did. -/
def Obligations.HomeWritesKeepReads : Prop :=
  ∀ (n : Nat) (s : State) (x : Ns) (b : Batch) (rest : List Batch), s.ns n = some x → x.homing = b :: rest → s.stor.held = [] →
    (∀ e ∈ b.entries, e.zero = true ∨ e.data.length = e.count * blk) → (x.logLba < x.start ∨ x.start + x.blocks ≤ x.logLba) →
    answers (.homeWriteDone n) s fun t => t.mem = s.mem ∧ ∃ y, t.ns n = some y ∧ y.homing = rest ∧ y.closed = x.closed ∧ y.opened = x.opened ∧
      (∀ slba k, slba + k ≤ x.blocks → (t.nsBlocks y slba k).1 = (s.nsBlocks x slba k).1)

/-- Jobs and snapshots (R361 to R366, R379): loading a good record makes a job under the next generation and unloading takes it away; a snapshot waits for
the beat boundary after its acceptance, where every page of every shard comes under the guard; the copier takes the pages in image order; the last
WRITE's commit commits the snapshot with the bytes sent; a query tells the last step and what is left to copy. In part the model's choices: log
entries 57, 58 and 107. -/
def Obligations.JobsAndSnapshots : Prop :=
  (∀ (sr tag n : Nat) (s s1 s2 : State) (j : Job) (r : Region) (h b : List Byte) (k : CkJob), s.ready sr tag 0x60 j → rsvdZero j.desc [(8, 12)] = true →
    s.region (dby j.desc 16 4) j.slice = some r → s.readRegion r (dby j.desc 8 8) 128 = .ok s1 h → headerFits h = true →
    s1.readRegion r (dby j.desc 8 8 + 128) (16 * leAt h 13 1 + 128 * leAt h 12 1) = .ok s2 b →
    k = ckJobOf j.slice h ((List.range (leAt h 13 1)).map (sect b 0 16)) ((List.range (leAt h 12 1)).map (sect b (16 * leAt h 13 1) 128)) →
    ((List.range (leAt h 13 1)).map (sect b 0 16)).all peerFits = true → ((List.range (leAt h 12 1)).map (sect b (16 * leAt h 13 1) 128)).all shardFits = true →
    s2.ckJobOk k = true → s2.sealKeyBad k.key j.slice = none → lowestFree s2.ckp.jobs 0 16 = some n → s2.allLanded sr tag →
    answers (.ckpJobLoad sr tag) s fun t => t.reportsWith sr tag stSuccess ((n + 256 * Tbl.get s2.ckp.gen n 0) % 2 ^ 64) ∧ Tbl.find t.ckp.jobs n = some { k with hbAt := s2.timeNs, tickAt := s2.timeNs }) ∧
  (∀ (sr tag n : Nat) (s : State) (j : Job) (k : CkJob), s.ready sr tag 0x61 j → rsvdZero j.desc [(8, 4)] = true → s.ckJob (dby j.desc 8 4) j.slice = some (n, k) →
    (∀ i ∈ s.ring.jobs, dOpcode i.desc < 0x62 ∨ 0x67 < dOpcode i.desc) →
    answers (.ckpJobUnload sr tag) s fun t => t.reportsWith sr tag stSuccess 0 ∧ Tbl.find t.ckp.jobs n = none ∧ Tbl.get t.ckp.gen n 0 = (Tbl.get s.ckp.gen n 0 + 1) % 65536) ∧
  (∀ (sr tag n : Nat) (b : Bool) (s : State) (j : Job) (k : CkJob), s.ckNext sr tag 0x62 [(12, 4)] j n k → s.ckBusy j [0x62, 0x64, 0x66] = false →
    (k.first = true → answers (.ckpSnapshot sr tag b) s fun t => Tbl.find t.ckp.jobs n = some { k with run := some ⟨sr, tag, dby j.desc 12 4, 1, [], [], [], 0, false, s.timeNs⟩ } ∧
      t.mem = s.mem ∧ t.ring.unwritten = s.ring.unwritten) ∧
    (k.first = false → k.holder = false ∨ k.second = true → b = false → answers (.ckpSnapshot sr tag b) s fun t => t.reports sr tag stUnsealed)) ∧
  (∀ (n : Nat) (s : State) (k : CkJob) (r : CkSnap), Tbl.find s.ckp.jobs n = some k → k.run = some r → r.phase = 1 →
    (s.timeNs < (r.since / 1024 + 1) * 1024 → exec (.guardArm n) s = .next s) ∧
    ((r.since / 1024 + 1) * 1024 ≤ s.timeNs → answers (.guardArm n) s fun t => (∀ p ∈ s.jobPages k, t.mem.guard.contains p.page = true) ∧ (∀ a, s.mem.guard.contains a = true → t.mem.guard.contains a = true) ∧
      Tbl.find t.ckp.jobs n = some { k with holds := none, run := some { r with phase := 2, left := s.jobPages k } } ∧ t.mem.bytes = s.mem.bytes ∧ t.regs = s.regs)) ∧
  (∀ (n h c : Nat) (s s1 s2 : State) (k : CkJob) (r : CkSnap) (p : CkPage) (rest : List CkPage) (b : List Byte) (a : Region), Tbl.find s.ckp.jobs n = some k → k.run = some r →
    r.phase = 2 → r.reading.any (fun p => p.hub = h) = false → r.left.filter (fun p => p.hub = h) = p :: rest → s.mem.guardWait = [] →
    s.readDpa (p.page * 4096) 4096 = .ok s1 b → s1.region k.snap k.slice = some a → s1.writeRegion a p.out (packPage p.code b).1 (ownerNum r.sr r.tag) = (s2, c, none) →
    exec (.copierPage n h) s = .next (((s2.cnt R.CKP_BYTES_COPIED (packPage p.code b).1.length).cnt R.CKP_SATURATED (packPage p.code b).2).updCk n
      (fun k => { k with run := some { r with left := r.left.filter (fun q => q.num ≠ p.num), reading := r.reading ++ [p] } }))) ∧
  (∀ (n h : Nat) (s s1 : State) (k : CkJob) (r : CkSnap) (p : CkPage), Tbl.find s.ckp.jobs n = some k → k.run = some r → r.reading.find? (fun p => p.hub = h) = some p → r.left ≠ [] →
    s1 = s.updCk n (fun k => { k with run := some { r with reading := r.reading.filter (fun q => q.num ≠ p.num), copied := r.copied ++ [p] } }) →
    (s1.pageRuns p.page = false → exec (.pageCopyDone n h) s = .next (((s1.releaseGuard p.page).settleWrites.storRetry).rxHeldAtomics)) ∧
    (s1.pageRuns p.page = true → exec (.pageCopyDone n h) s = .next s1)) ∧
  (∀ (n : Nat) (s : State) (k : CkJob) (r : CkSnap) (j : Job), Tbl.find s.ckp.jobs n = some k → k.run = some r → r.phase = 4 → s.innerLeft r.sr r.tag = false →
    s.job r.sr r.tag = some j →
    ((s.cnt R.CKP_SNAPSHOTS).updCk n (fun k => { k with run := none, last := r.step, first := false, holds := some r.step })).allLanded r.sr r.tag →
    answers (.snapshotStreamDone n) s fun t => t.reportsWith r.sr r.tag stSuccess (r.sent % 2 ^ 64) ∧
      Tbl.find t.ckp.jobs n = some { k with run := none, last := r.step, first := false, holds := some r.step }) ∧
  (∀ (sr tag n : Nat) (s : State) (j : Job) (k : CkJob), s.ready sr tag 0x67 j → rsvdZero j.desc [(8, 4)] = true → s.ckJob (dby j.desc 8 4) j.slice = some (n, k) →
    (k.run = none → answers (.ckpQuery sr tag) s fun t => t.reportsWith sr tag stSuccess (k.last % 2 ^ 32) ∧ Tbl.find t.ckp.jobs n = some k) ∧
    (∀ r, k.run = some r → r.left.length + r.reading.length ≠ 0 → answers (.ckpQuery sr tag) s fun t =>
      t.reportsWith sr tag stSuccess ((k.last % 2 ^ 32 + 2 ^ 32 + 2 ^ 33 + (r.left.length + r.reading.length) * 2 ^ 34) % 2 ^ 64)))

/-- Verifying, sealing, restoring, watching, persisting (R367, R370, R373, R376, R378): the buddy tells both holders whether an image has its digest; a
seal is written once every entry is there and verified; a restore takes a sealed slot and the images at hand, and fails where no slot is a candidate;
a heartbeat tells each watcher the last step once a period; a watch that meets a silent index at a tick of its period completes PEER_FAILED with it.
In part the model's choices: log entries 45, 46, 47, 59, 107 and 165. -/
def Obligations.SealsRestoresWatches : Prop :=
  (∀ (n slot : Nat) (s s1 s2 : State) (k : CkJob) (r : Region) (t b : List Byte), Tbl.find s.ckp.jobs n = some k → s.region k.buddy k.slice = some r →
    s.readRegion r (slot % 2 * k.slotBytes + k.slotBytes - 8192) (64 * 80) = .ok s1 t → bit (leAt (sect t 0 80 0) 3 1) 0 = true →
    (∀ i, i < 64 → i ≠ 0 → bit (leAt (sect t 0 80 i) 3 1) 0 = false) → s1.readRegion r (slot % 2 * k.slotBytes) (leAt (sect t 0 80 0) 8 8) = .ok s2 b →
    (sha384 b = bsub (sect t 0 80 0) 24 48 →
      exec (.buddyVerify n slot) s = .next (s2.toHolders k ((sect t 0 80 0).take 3 ++ leBytes 1 3 ++ (sect t 0 80 0).drop 4))) ∧
    (sha384 b ≠ bsub (sect t 0 80 0) 24 48 →
      exec (.buddyVerify n slot) s = .next ((s2.cnt R.CKP_DIGEST_FAIL).toHolders k ((sect t 0 80 0).take 3 ++ leBytes 1 1 ++ (sect t 0 80 0).drop 4)))) ∧
  (∀ (sr tag n c : Nat) (s s1 s2 : State) (j : Job) (k : CkJob) (r : Region) (b : List Byte) (key : KeySlot), s.ckNext sr tag 0x63 [(12, 4)] j n k → k.holder = true →
    s.region k.manifest k.slice = some r → s.readRegion r (dby j.desc 12 4 % 2 * manifestBytes) manifestBytes = .ok s1 b →
    (countEntries b (dby j.desc 12 4) = (k.total, true) → s1.sealKeyBad k.key k.slice = none → s1.kceSlot k.key k.slice = some key →
      s1.writeRegion r (dby j.desc 12 4 % 2 * manifestBytes) ((leBytes 4 0x4E4D4B43 ++ leBytes 4 k.jobId ++ leBytes 4 (dby j.desc 12 4) ++ leBytes 4 k.total) ++ leBytes 1 1 ++
        zeroBytes 15 ++ sha384 (b.drop 128) ++
        sealOf key.key (leBytes 4 0x4E4D4B43 ++ leBytes 4 k.jobId ++ leBytes 4 (dby j.desc 12 4) ++ leBytes 4 k.total) (sha384 (b.drop 128))) (ownerNum sr tag) = (s2, c, none) →
      exec (.ckpSeal sr tag) s = .next (s2.succeed j 0)) ∧
    (countEntries b (dby j.desc 12 4) = (k.total, false) → exec (.ckpSeal sr tag) s = .next (s1.failJob j stDigestMismatch 0))) ∧
  (∀ (sr tag n : Nat) (s s2 : State) (j : Job) (k : CkJob) (key : KeySlot) (slots mine : List (List Byte)), s.ckNext sr tag 0x64 [(12, 5), (20, 12)] j n k → dby j.desc 16 1 = 0 →
    j.prog = [] → s.ckBusy j [0x62, 0x64, 0x66] = false → s.sealKeyBad k.key k.slice = none → s.kceSlot k.key k.slice = some key →
    (k.holder = true → k.second = false ∨ slots = [] → s2 = ((s.slotRead k 0 manifestBytes).1.slotRead k 1 manifestBytes).1 ∧
      mine = [(s.slotRead k 0 manifestBytes).2, ((s.slotRead k 0 manifestBytes).1.slotRead k 1 manifestBytes).2]) → (k.holder = false ∨ (k.second = true ∧ slots ≠ []) → s2 = s ∧ mine = slots) →
    ((∀ m ∈ mine, candidate k key.key m (dby j.desc 12 4) = false) → exec (.ckpRestore sr tag slots) s = .next (s2.failJob j stNoConsistentStep 0)) ∧
    (∀ m a s3 b, mine.filter (fun m => candidate k key.key m (dby j.desc 12 4)) = [m] → k.holds = some (leAt m 8 4) →
      s2.region k.snap k.slice = some a → s2.readRegion a 0 (s.imagesBytes k) = .ok s3 b →
      exec (.ckpRestore sr tag slots) s = .next (s3.restoreFrom j n k (leAt m 8 4) (k.digests m) b true))) ∧
  (∀ (sr tag n : Nat) (s : State) (j : Job) (k : CkJob) (idx : List Nat), s.ckNext sr tag 0x65 [(16, 8)] j n k →
    idx = ((List.range 4).map (fun i => dby j.desc (16 + 2 * i) 2)).filter (fun i => i ≠ 0xFFFF) → idx ≠ [] → (∀ i ∈ idx, i < 1024) →
    answers (.ckpWatch sr tag) s fun t => t.ckp.watches = s.ckp.watches ++ [⟨sr, tag, n, idx, s.timeNs⟩] ∧ t.ring.unwritten = s.ring.unwritten ∧ t.mem = s.mem ∧ t.regs = s.regs) ∧
  (∀ (n : Nat) (s : State) (k : CkJob) (p : CkPeer), Tbl.find s.ckp.jobs n = some k → (k.standby = false ∨ s.ckIndexOk k = true) → k.peers.filter (fun p => p.role = 4) = [p] →
    (s.timeNs < k.hbAt + s.hbPeriod → exec (.heartbeatSend n) s = .next s) ∧
    (k.hbAt + s.hbPeriod ≤ s.timeNs → exec (.heartbeatSend n) s =
      .next ((s.updCk n (fun k => { k with hbAt := s.timeNs })).sendOver p noJob 0 (k.index * 16) 0 (leBytes 8 k.last ++ leBytes 8 s.timeNs)))) ∧
  (∀ (n : Nat) (s : State) (k : CkJob), Tbl.find s.ckp.jobs n = some k → s.timeNs < k.tickAt + s.hbPeriod → exec (.watchTick n) s = .next s) ∧
  (∀ (n i : Nat) (s s0 s1 : State) (k : CkJob) (w : CkWatch) (r : Region) (b : List Byte) (j : Job), Tbl.find s.ckp.jobs n = some k → s.ckp.watches = [w] → w.job = n → w.idx = [i] →
    k.tickAt + s.hbPeriod ≤ s.timeNs → s0 = s.updCk n (fun k => { k with tickAt := s.timeNs }) →
    s0.region k.hb k.slice = some r → s0.readRegion r (i * 16 + 8) 8 = .ok s1 b → s1.job w.sr w.tag = some j → s1.allLanded w.sr w.tag →
    (max (leNat b) w.since + s.hbLimit * s.hbPeriod ≤ s1.timeNs → answers (.watchTick n) s fun t => t.reports w.sr w.tag stPeerFailed ∧ t.ckp.watches = []) ∧
    (s1.timeNs < max (leNat b) w.since + s.hbLimit * s.hbPeriod → exec (.watchTick n) s = .next s1)) ∧
  (∀ (sr tag n : Nat) (s s1 s2 : State) (j : Job) (k : CkJob) (x : Ns) (a : Region) (slot m b : List Byte), s.ckNext sr tag 0x66 [(12, 4), (20, 12)] j n k →
    s.ckBusy j [0x62, 0x64, 0x66] = false → (k.holder = true → s.slotRead k (dby j.desc 12 4) manifestBytes = (s1, m)) →
    (k.holder = false → s1 = s ∧ m = fitBytes slot manifestBytes) → k.holds = some (dby j.desc 12 4) →
    sealedFor m k (dby j.desc 12 4) = true → s1.ns (dby j.desc 20 4) = some x → s1.region k.snap k.slice = some a → x.kind = 0 → x.owner = j.slice → x.ro = false → x.needReplay = false → x.notReady = false →
    dby j.desc 24 8 + (slotBlocks + s1.imagesBytes k / blk) ≤ x.blocks → s1.readRegion a 0 (s1.imagesBytes k) = .ok s2 b →
    (∀ c, s2.cacheBlocks = some c → slotBlocks + s1.imagesBytes k / blk ≤ c) →
    exec (.ckpPersist sr tag slot) s = .next ((s2.park j .running).storWrite (.desc sr tag) (dby j.desc 20 4) (dby j.desc 24 8) (slotBlocks + s1.imagesBytes k / blk) false true
      (fitBytes m (slotBlocks * blk) ++ b) 2))

/-- Cipher, MAC and hash descriptors (R388 to R391): GCM releases its text with the tag behind it, or on decryption the text if the tag agrees and
AUTH_FAIL with no output if not; CTR and XTS release their text; a MAC is released, or compared with the one given; a hash is released. In part the
model's choices: log entries 6 and 106. -/
def Obligations.CryptoComputes : Prop :=
  (∀ (sr tag n x : Nat) (s s1 s2 : State) (j : Job) (k : KeySlot) (a b : List Byte), s.kceNext sr tag 0x70 ([(8, 5)] ++ srcUsed ++ dstUsed ++ auxUsed) true j →
    n = kLen j.desc → x = kAux j.desc → s.readOperand j (kSrc j.desc) (dby j.desc 16 4) (dby j.desc 48 8) (if kAlg j.desc = 1 then x else 16) reqKce = .ok s1 a →
    s1.readOperand j (kSrc j.desc) (dby j.desc 16 4) (dby j.desc 24 8) n reqKce = .ok s2 b → s.holdsKey j (some (b2n (kDir j.desc))) (if kAlg j.desc = 3 then [3, 4] else [1, 2]) k →
    (kAlg j.desc = 1 → kDir j.desc = false → 12 ≤ x → x ≤ 65547 → answers (.kceCipher sr tag true) s fun t =>
      s2.computes t j (fitBytes (Config.cipher 1 true k.key (a.take 12) b) n ++
        fitBytes (Config.macTag 1 k.key (a.take 12) (a.drop 12) (fitBytes (Config.cipher 1 true k.key (a.take 12) b) n)) 16) none stSuccess (n + 16)) ∧
    (kAlg j.desc = 1 → kDir j.desc = true → 12 ≤ x → x ≤ 65547 → 16 ≤ n → n ≤ 2 ^ 20 + 16 → answers (.kceCipher sr tag true) s fun t =>
      (Config.macTag 1 k.key (a.take 12) (a.drop 12) (b.take (n - 16)) = b.drop (n - 16) →
        s2.computes t j (fitBytes (Config.cipher 1 false k.key (a.take 12) (b.take (n - 16))) (n - 16)) none stSuccess (n - 16)) ∧
      (Config.macTag 1 k.key (a.take 12) (a.drop 12) (b.take (n - 16)) ≠ b.drop (n - 16) → s2.computes t j [] none stAuthFail 0)) ∧
    (kAlg j.desc = 2 → x = 16 → answers (.kceCipher sr tag true) s fun t =>
      s2.computes t j (fitBytes (Config.cipher 2 (!kDir j.desc) k.key a b) n) none stSuccess n) ∧
    (kAlg j.desc = 3 → 16 ≤ x → x ≤ 2 ^ 24 → n % x = 0 → answers (.kceCipher sr tag true) s fun t =>
      s2.computes t j (fitBytes (Config.cipher 3 (!kDir j.desc) k.key (a ++ leBytes 4 x) b) n) none stSuccess n)) ∧
  (∀ (sr tag : Nat) (s s1 s2 : State) (j : Job) (k : KeySlot) (a b : List Byte), s.kceNext sr tag 0x71 ([(8, 5)] ++ srcUsed ++ dstUsed ++ auxUsed) true j →
    kAlg j.desc ∈ [0x04, 0x18, 0x19] → s.holdsKey j (some 2) (if kAlg j.desc = 4 then [1, 2] else [5, 6]) k →
    s.readOperand j (kSrc j.desc) (dby j.desc 16 4) (dby j.desc 48 8) (kAux j.desc) reqKce = .ok s1 a →
    s1.readOperand j (kSrc j.desc) (dby j.desc 16 4) (dby j.desc 24 8) (kLen j.desc) reqKce = .ok s2 b →
    (kDir j.desc = false → kAux j.desc = 0 → dby j.desc 48 8 = 0 → answers (.kceMac sr tag true) s fun t =>
      s2.computes t j (macOf (kAlg j.desc) k.key b) none stSuccess (macBytes (kAlg j.desc))) ∧
    (kDir j.desc = true → kAux j.desc = macBytes (kAlg j.desc) → dby j.desc 20 4 = 0 → dby j.desc 32 8 = 0 → answers (.kceMac sr tag true) s fun t =>
      s2.computes t j [] none (if macOf (kAlg j.desc) k.key b = a then stSuccess else stVerifyFail) 0)) ∧
  (∀ (sr tag : Nat) (s s1 : State) (j : Job) (b : List Byte), s.kceNext sr tag 0x72 ([(12, 1), (44, 4)] ++ srcUsed ++ dstUsed) false j →
    (kAlg j.desc ∈ [0x10, 0x11, 0x12, 0x13, 0x14] ∧ kAux j.desc = 0 ∨ kAlg j.desc ∈ [0x15, 0x16] ∧ 1 ≤ kAux j.desc ∧ kAux j.desc ≤ 65535) →
    s.readOperand j (kSrc j.desc) (dby j.desc 16 4) (dby j.desc 24 8) (kLen j.desc) reqKce = .ok s1 b →
    answers (.kceHash sr tag) s fun t => s1.computes t j (digestOf (kAlg j.desc) (digestBytes (kAlg j.desc) (kAux j.desc)) b) none stSuccess (digestBytes (kAlg j.desc) (kAux j.desc)))

/-- Signatures and keys (R384, R386, R387, R390): Ed25519 signs without randomness and ML-DSA-65 with it; a verification tells whether the signature
holds; an import stores the unwrapped key and fails UNWRAP_FAIL where it does not unwrap; a generated or agreed key goes to a free slot; a key with
references stays, one without is zeroed and its generation moves on. In part the model's choices: log entries 62 and 106. -/
def Obligations.SignaturesAndKeys : Prop :=
  (∀ (sr tag : Nat) (s s1 s2 : State) (j : Job) (k : KeySlot) (c b : List Byte), s.kceNext sr tag 0x73 ([(8, 5), (56, 2)] ++ srcUsed ++ dstUsed ++ auxUsed) false j →
    kLen j.desc ≤ 2 ^ 26 → kAux j.desc = kCtx j.desc → s.holdsKey j (some 3) (if kAlg j.desc = 0x20 then [9] else [10]) k →
    s.readOperand j (kSrc j.desc) (dby j.desc 16 4) (dby j.desc 48 8) (kAux j.desc) reqKce = .ok s1 c →
    s1.readOperand j (kSrc j.desc) (dby j.desc 16 4) (dby j.desc 24 8) (kLen j.desc) reqKce = .ok s2 b →
    (kAlg j.desc = 0x20 → kCtx j.desc = 0 → answers (.kceSign sr tag true) s fun t => s2.computes t j (fitBytes (Config.sign 0x20 k.key b 0) 64) none stSuccess 64) ∧
    (kAlg j.desc = 0x21 → kCtx j.desc ≤ 255 → answers (.kceSign sr tag true) s fun t =>
      s2.computes t j (fitBytes (Config.sign 0x21 k.key (leBytes 1 0 ++ leBytes 1 c.length ++ c ++ b) (Config.randomBits s2.freeCtr % 2 ^ 256)) 3309) none stSuccess 3309)) ∧
  (∀ (sr tag kind p : Nat) (s s1 s2 : State) (j : Job) (k : KeySlot) (a b c pub : List Byte), s.kceNext sr tag 0x74 ([(8, 5), (56, 2)] ++ srcUsed ++ auxUsed) true j →
    s1.readOperand j (kSrc j.desc) (dby j.desc 16 4) (dby j.desc 24 8) (kLen j.desc) reqKce = .ok s2 b →
    s.readOperand j (kSrc j.desc) (dby j.desc 16 4) (dby j.desc 48 8) (kAux j.desc) reqKce = .ok s1 a →
    (kAlg j.desc = 0x20 ∧ kCtx j.desc = 0 ∧ kind = 9 ∨ kAlg j.desc = 0x21 ∧ kCtx j.desc ≤ 255 ∧ kind = 10) →
    p = (if kKey j.desc = 0xFFFFFFFF then pubBytes kind else 0) → kAux j.desc = p + kCtx j.desc + sigBytes (kAlg j.desc) →
    (kKey j.desc ≠ 0xFFFFFFFF → s.holdsKey j none [kind] k) → pub = (if kKey j.desc = 0xFFFFFFFF then a.take p else k.pub) → c = bsub a p (kCtx j.desc) →
    answers (.kceVerify sr tag true) s fun t => s2.computes t j [] none
      (if Config.verify (kAlg j.desc) pub (if kAlg j.desc = 0x20 then b else leBytes 1 0 ++ leBytes 1 c.length ++ c ++ b) (a.drop (p + kCtx j.desc)) then stSuccess else stVerifyFail) 0) ∧
  (∀ (sr tag n at' : Nat) (s s1 : State) (j : Job) (k : KeySlot) (kek b : List Byte), s.kceNext sr tag 0x75 ([(8, 4)] ++ srcUsed) false j → s.roomAt j.slice n →
    s.readOperand j (kSrc j.desc) (dby j.desc 16 4) (dby j.desc 24 8) (kLen j.desc) reqKce = .ok s1 b →
    leAt b 0 4 = 0x424B4346 → 1 ≤ leAt b 4 1 → leAt b 4 1 ≤ 11 → allZero (bsub b 18 14) = true → leAt b 16 2 = roundUp (keyBytes (leAt b 4 1)) 8 + 8 →
    (leAt b 5 1 = 0 ∧ at' = 32 ∧ s1.holdsKey j (some 4) [7] k ∧ kek = k.key ∨
      leAt b 5 1 = 1 ∧ at' = 1120 ∧ s1.feature 9 = true ∧ kek = shake256 32 (Config.kemDecaps (Tbl.get s1.kce.secrets 1 []) (bsub b 32 1088) ++ b.take 16)) →
    b.length = at' + leAt b 16 2 →
    usageOk (leAt b 4 1) (leAt b 6 2) = true → s1.allLanded sr tag →
    answers (.kceKeyImport sr tag true) s fun t =>
      (∀ key, Config.unwrap kek (bsub b at' (leAt b 16 2)) = some key → key.length = keyBytes (leAt b 4 1) →
        s1.computes t j [] (some (newSlot j.slice (leAt b 4 1) (leAt b 6 2) key)) stSuccess 0) ∧
      (Config.unwrap kek (bsub b at' (leAt b 16 2)) = none → t.reports sr tag stUnwrapFail ∧ t.kce.slots = s1.kce.slots)) ∧
  (∀ (sr tag n kind : Nat) (s : State) (j : Job), s.kceNext sr tag 0x76 ([(58, 3)] ++ dstUsed) false j → kind = kType j.desc → 1 ≤ kind → kind ≤ 11 →
    usageOk kind (kUsage j.desc) = true → s.roomAt j.slice n →
    answers (.kceKeyGenerate sr tag) s fun t =>
      s.computes t j (newSlot j.slice kind (kUsage j.desc) (leBytes (keyBytes kind) (Config.randomBits s.freeCtr % 2 ^ (8 * keyBytes kind)))).pub
        (some (newSlot j.slice kind (kUsage j.desc) (leBytes (keyBytes kind) (Config.randomBits s.freeCtr % 2 ^ (8 * keyBytes kind))))) stSuccess 0) ∧
  (∀ (sr tag n kind u : Nat) (s s1 s2 : State) (j : Job) (k : KeySlot) (c b : List Byte), s.kceNext sr tag 0x77 ([(8, 4), (58, 3)] ++ srcUsed ++ dstUsed ++ auxUsed) true j →
    kind = kType j.desc → 1 ≤ kind → kind ≤ 11 → u = (if kind = 8 then setBit (kUsage j.desc) 8 (kDir j.desc) else kUsage j.desc) → usageOk kind u = true → s.roomAt j.slice n →
    s.readOperand j (kSrc j.desc) (dby j.desc 16 4) (dby j.desc 48 8) (kAux j.desc) reqKce = .ok s1 c →
    s1.readOperand j (kSrc j.desc) (dby j.desc 16 4) (dby j.desc 24 8) (kLen j.desc) reqKce = .ok s2 b →
    (kDir j.desc = false → kLen j.desc = 1184 → kKey j.desc = 0 → ∀ (r : Bool), answers (.kceKem sr tag r) s fun t =>
      s2.computes t j (fitBytes (Config.kemEncaps b (Config.randomBits s2.freeCtr % 2 ^ 256)).1 1088)
        (some (newSlot j.slice kind u (shake256 (keyBytes kind) ((Config.kemEncaps b (Config.randomBits s2.freeCtr % 2 ^ 256)).2 ++ c)))) stSuccess 0) ∧
    (kDir j.desc = true → kLen j.desc = 1088 → dby j.desc 20 4 = 0 → dby j.desc 32 8 = 0 → s.holdsKey j (some 5) [11] k → answers (.kceKem sr tag true) s fun t =>
      s2.computes t j [] (some (newSlot j.slice kind u (shake256 (keyBytes kind) (Config.kemDecaps k.key b ++ c)))) stSuccess 0)) ∧
  (∀ (sr tag : Nat) (s : State) (j : Job) (k : KeySlot), s.kceNext sr tag 0x78 [(8, 4)] false j → s.kceSlot (kKey j.desc) j.slice = some k →
    (s.keyRefs (kKey j.desc) = 0 → answers (.kceKeyDestroy sr tag) s fun t => t.reports sr tag stSuccess ∧ Tbl.find t.kce.slots (kKey j.desc % 2 ^ 20) = none ∧
      Tbl.get t.kce.gen (kKey j.desc % 2 ^ 20) 0 = (kKey j.desc / 2 ^ 20 + 1) % 4096 ∧ (∀ m, m ≠ kKey j.desc % 2 ^ 20 → Tbl.find t.kce.slots m = Tbl.find s.kce.slots m)) ∧
    (0 < s.keyRefs (kKey j.desc) → answers (.kceKeyDestroy sr tag) s fun t => t.reports sr tag stKeyBusy ∧ t.kce.slots = s.kce.slots)) ∧
  (∀ (sr tag : Nat) (s : State) (j : Job) (k : KeySlot), s.kceNext sr tag 0x79 ([(8, 4)] ++ dstUsed) false j → s.holdsKey j none (List.range 12) k →
    answers (.kceKeyQuery sr tag true) s fun t => s.computes t j (leBytes 4 k.kind ++ leBytes 4 k.usage ++ leBytes 4 k.slice ++ leBytes 4 (s.keyRefs (kKey j.desc)) ++ k.pub)
      none stSuccess (16 + k.pub.length))

/-- (1) The engine's units and queues (R391 to R394): checked output goes out 4 KiB at a time, in order; the last unit ends the message; a first mismatch
of the two datapaths starts the message again and a second one is KCE_FAULT; a message of higher priority than every one that runs displaces the
lowest and latest of them; a free pair takes a suspended one; a failed health test halts the engine. In part the model's choices: log entry 106. (2)
The check-value units (R401, R402): a data write of its register's size goes to the end of the unit's FIFO and another size sets size_err; the unit
folds its entries in order; a configuration write waits for the FIFO and restarts the register at CRC_INIT; a result read answers with what every
earlier write has made of the register. -/
def Obligations.CryptoUnitsAndChecks : Prop :=
  ((∀ (sr tag : Nat) (s s0 : State) (j : Job) (m : KceMsg) (out : List Byte), s0 = s.kceFill 4 → s0.kce.msgs.find? (fun m => m.sr = sr && m.tag = tag) = some m →
     s0.job sr tag = some j → m.phase = .running → j.phase ≠ .faulted → m.out = some out →
     (∀ s1, 4096 < out.length - m.released →
       s0.writeOperand j (kDst j.desc) (dby j.desc 20 4) (dby j.desc 32 8 + m.released) (bsub out m.released 4096) reqKce = .ok s1 → (bsub out m.released 4096).length = 4096 →
       exec (.kceUnitRelease sr tag true) s = .next (s1.updMsg m (fun _ => { m with released := m.released + 4096 }))) ∧
     (∀ s1, (out.length ≤ m.released ∧ s1 = s0 ∨ m.released < out.length ∧ m.released + (bsub out m.released 4096).length = out.length ∧
         s0.writeOperand j (kDst j.desc) (dby j.desc 20 4) (dby j.desc 32 8 + m.released) (bsub out m.released 4096) reqKce = .ok s1) → s1.allLanded j.sr j.tag →
       (m.newKey = none → answers (.kceUnitRelease sr tag true) s fun t => t.reportsWith j.sr j.tag m.status (m.result % 2 ^ 64) ∧ t.kce.slots = s1.kce.slots ∧
         (∀ m ∈ t.kce.msgs, ¬(m.sr = j.sr ∧ m.tag = j.tag))) ∧
       (∀ k n, m.newKey = some k → s1.roomAt j.slice n → answers (.kceUnitRelease sr tag true) s fun t =>
         t.reportsWith j.sr j.tag stSuccess ((n + Tbl.get s1.kce.gen n 0 * 2 ^ 20) % 2 ^ 64) ∧ Tbl.find t.kce.slots n = some k)) ∧
     (m.retried = false → exec (.kceUnitRelease sr tag false) s =
       .next ((s0.cnt R.KCE_DUAL_RETRY).updMsg m (fun x => { x with retried := true, released := 0 }))) ∧
     (m.retried = true → (∀ x ∈ s0.kce.msgs, s0.allLanded x.sr x.tag) → s0.allLanded j.sr j.tag →
       answers (.kceUnitRelease sr tag false) s fun t => t.reports j.sr j.tag stKceFault ∧ t.kce.slots = s0.kce.slots)) ∧
   (∀ (s : State) (w m : KceMsg) (j : Job), firstOf (s.kce.msgs.filter KceMsg.waits) = some w → latestLow (s.kce.msgs.filter KceMsg.runs) = some m →
     4 ≤ (s.kce.msgs.filter KceMsg.runs).length → (s.kce.msgs.filter KceMsg.held).length < 16 → s.job m.sr m.tag = some j → indivisible j.desc = false →
     ((∀ x ∈ s.kce.msgs, x.runs = true → x.prio < w.prio) → exec .kceSuspend s =
       .next (((s.updMsg m (fun x => { x with phase := .suspended })).cnt R.KCE_SUSPENDS).kceStart w)) ∧
     ((∃ x ∈ s.kce.msgs, x.runs = true ∧ w.prio ≤ x.prio) → exec .kceSuspend s = .next s)) ∧
   (∀ (s : State) (m : KceMsg), firstOf (s.kce.msgs.filter KceMsg.held) = some m → (s.kce.msgs.filter KceMsg.runs).length < 4 →
     (∀ w ∈ s.kce.msgs, w.waits = true → w.prio ≤ m.prio) → exec .kceResume s = .next ((s.kceStart m).kceFill 4)) ∧
   (∀ s : State, s.kceState ≠ 2 → s.kce.msgs = [] → answers .entropyHealthFail s fun t => t.kceState = 2 ∧ t.rf R.KCE_STATUS 4 4 = 1 ∧ t.kce.slots = s.kce.slots ∧ t.mem = s.mem) ∧
   (∀ (s : State) (m : KceMsg) (j : Job), s.kceState ≠ 2 → (∀ x ∈ s.kce.msgs, s.allLanded x.sr x.tag) → m ∈ s.kce.msgs → s.job m.sr m.tag = some j →
     answers .entropyHealthFail s fun t => t.reports m.sr m.tag stKceHalted) ∧
   (∀ s : State, s.kceState = 2 → exec .entropyHealthFail s = .next s)) ∧
  ((∀ (u n v : Nat) (s : State), u < 4 → ∀ cw ∈ ([(Instr.crcData8, 1), (Instr.crcData16, 2), (Instr.crcData32, 4)] : List ((Nat → Nat → Nat → Instr) × Nat)),
     (n = cw.2 → answers (cw.1 u n v) s fun t => t.crcUnit u = { s.crcUnit u with fifo := (s.crcUnit u).fifo ++ [(cw.2, v % 2 ^ (8 * cw.2))] } ∧
       (∀ x, x ≠ u → t.crcUnit x = s.crcUnit x) ∧ s.sameUnits t ∧ t.mem = s.mem) ∧
     (n ≠ cw.2 → answers (cw.1 u n v) s fun t => t.rf (R.CRC_CFG u) 10 1 = 1 ∧ t.kce = s.kce ∧ (∀ b, b ≠ R.CRC_CFG u → t.rd b = s.rd b))) ∧
   (∀ (u : Nat) (e : Nat × Nat) (rest : List (Nat × Nat)) (s : State), u < 4 → (s.crcUnit u).fifo = e :: rest →
     answers (.crcFifoProcess u) s fun t => t.crcUnit u = ⟨s.crcFold u (s.crcUnit u).reg e, rest⟩ ∧ (∀ x, x ≠ u → t.crcUnit x = s.crcUnit x)) ∧
   (∀ (u off n v : Nat) (s : State), u < 4 → ((off = 8 ∨ off = 12) ∧ n = 4 ∨ off = 8 ∧ n = 8) → answers (.crcConfigWrite u off n v) s fun t =>
     t.rd (R.CRC_POLY u) = setFld (s.rd (R.CRC_POLY u)) (8 * (off - 8)) (8 * n) (v % 2 ^ (8 * n)) % 2 ^ 64 ∧
     t.crcUnit u = ⟨s.rd (R.CRC_INIT u) % 2 ^ s.crcWidth u, []⟩ ∧ (∀ x, x ≠ u → t.crcUnit x = s.crcUnit x)) ∧
   (∀ (u off n v : Nat) (s : State), u < 4 → ((off = 16 ∨ off = 20) ∧ n = 4 ∨ off = 16 ∧ n = 8) → answers (.crcConfigWrite u off n v) s fun t =>
     t.rd (R.CRC_INIT u) = setFld (s.rd (R.CRC_INIT u)) (8 * (off - 16)) (8 * n) (v % 2 ^ (8 * n)) % 2 ^ 64 ∧
     t.crcUnit u = ⟨t.rd (R.CRC_INIT u) % 2 ^ s.crcWidth u, []⟩) ∧
   (∀ (u v : Nat) (s : State), u < 4 → answers (.crcConfigWrite u 0 4 v) s fun t => t.rf (R.CRC_CFG u) 0 9 = v % 512 ∧
     t.crcUnit u = ⟨s.rd (R.CRC_INIT u) % 2 ^ (v % 64 + 1), []⟩) ∧
   (∀ (u : Nat) (s : State), u < 4 → answers (.crcResultRead u) s fun t => (t.crcUnit u) = ⟨(s.crcUnit u).fifo.foldl (s.crcFold u) (s.crcUnit u).reg, []⟩ ∧
     t.out = s.out ++ [.readData (R.CRC_RESULT u) 8 (t.crcResult u)] ∧ t.mem = s.mem ∧ s.sameUnits t))

/-- Slice states (R407, R410, R412, R414): a created slice is ACTIVE with sched_weight 1 and every other quota 0; a quiesce stops it and completes once
what its doorbells covered is fetched; reset and destroy are accepted in QUIESCED or ERROR only, wait until every tag of the slice has its entry, and
leave no object of the slice, and destroy unbinds its PASIDs and returns its quotas; a QUIESCING slice with nothing in flight is QUIESCED. In part the
model's choices: log entries 100 and 125. -/
def Obligations.SliceStates : Prop :=
  (∀ (sr tag a sl : Nat) (s : State) (j : Job), s.sliceNext sr tag 0x88 [(8, 1)] j → j.p 0 = 0 → a = dby j.desc 8 1 → sl = j.slice →
    (a = 0 → (s.slice sl).state = .absent → answers (.sliceCtl sr tag) s fun t => t.reports sr tag stSuccess ∧ (t.slice sl).state = .active ∧ t.rd (R.SLC_QUOTA sl) = 2 ^ 192 ∧
      (∀ n, n ≠ sl → t.slice n = s.slice n)) ∧
    (a = 0 → (s.slice sl).state ≠ .absent → answers (.sliceCtl sr tag) s fun t => t.reports sr tag stSliceState ∧ t.slices = s.slices) ∧
    (1 ≤ a → a ≤ 4 → sl = 0 → answers (.sliceCtl sr tag) s fun t => t.reports sr tag stSliceState ∧ t.slices = s.slices) ∧
    (a = 1 → sl ≠ 0 → (s.slice sl).state = .active → answers (.sliceCtl sr tag) s fun t => (t.slice sl).state = .quiescing ∧ (∀ n, n ≠ sl → t.slice n = s.slice n) ∧
      (s.allFetched sl = true → t.reports sr tag stSuccess) ∧ (s.allFetched sl = false → t.ring.unwritten = s.ring.unwritten)) ∧
    (a = 2 → sl ≠ 0 → ((s.slice sl).state = .quiescing ∨ (s.slice sl).state = .quiesced) →
      answers (.sliceCtl sr tag) s fun t => t.reports sr tag stSuccess ∧ (t.slice sl).state = .active) ∧
    ((a = 3 ∨ a = 4) → sl ≠ 0 → ((s.slice sl).state = .active ∨ (s.slice sl).state = .quiescing ∨ (s.slice sl).state = .orphaned) →
      answers (.sliceCtl sr tag) s fun t => t.reports sr tag stSliceBusy ∧ t.slices = s.slices) ∧
    (a = 3 → sl ≠ 0 → ((s.slice sl).state = .quiesced ∨ (s.slice sl).state = .error) →
      exec (.sliceCtl sr tag) s = .next (s.updJob sr tag (fun k => { k with phase := .running, prog := [3] }))) ∧
    (a = 4 → sl ≠ 0 → ((s.slice sl).state = .quiesced ∨ (s.slice sl).state = .error) → (∀ x ∈ s.xlt.asids, x.2.slice ≠ sl) → s.drained sl = false →
      exec (.sliceCtl sr tag) s = .next s) ∧
    (a = 4 → sl ≠ 0 → ((s.slice sl).state = .quiesced ∨ (s.slice sl).state = .error) → (∀ x ∈ s.xlt.asids, x.2.slice ≠ sl) → s.drained sl = true →
      answers (.sliceCtl sr tag) s fun t => t.reports sr tag stSuccess ∧ (t.slice sl).state = .absent ∧ t.emptied sl ∧ (∀ p ∈ t.pasids, p.2 ≠ sl) ∧
        t.rd (R.SLC_QUOTA sl) = 0)) ∧
  (∀ (sr tag : Nat) (s : State) (j : Job), s.job sr tag = some j → j.phase = .running → dOpcode j.desc = 0x88 → j.p 0 = 3 →
    ((s.clk.dieResets ≠ [] ∨ s.drained j.slice = false) → exec (.sliceResetDone sr tag) s = .next s) ∧
    (s.clk.dieResets = [] → s.drained j.slice = true → answers (.sliceResetDone sr tag) s fun t => t.reports sr tag stSuccess ∧ (t.slice j.slice).state = .active ∧ t.emptied j.slice ∧ t.pasids = s.pasids ∧ t.ring.unwritten.length = s.ring.unwritten.length + 1)) ∧
  (∀ (sl : Nat) (s : State),
    ((s.slice sl).state = .quiescing → s.quiet sl = true → answers (.sliceQuiesced sl) s fun t => (t.slice sl).state = .quiesced ∧ t.mem = s.mem ∧ t.tmt = s.tmt ∧ t.pipes = s.pipes ∧
      t.kce = s.kce ∧ t.ring.unwritten = s.ring.unwritten) ∧
    (s.quiet sl = false → exec (.sliceQuiesced sl) s = .next s))

/-- (1) Quotas and PASIDs (R404 to R406, R408): a count quota in range is set; a share or a group mask that another slice holds completes SHARE_CONFLICT
and changes nothing; a weight waits until it is applied; a PASID is bound to one slice at most and stays while something names it. In part the model's
choices: log entry 100. (2) Regions (R220, R222, R223, R407): an allocation takes free granules of the named hubs for its slice, writes their list
into the system reservation and no other byte, and is zeroed before it completes; it completes QUOTA_EXCEEDED beyond the granules quota and
RESOURCE_EXHAUSTED where granules lack; a region with references is REGION_BUSY, one without is gone and its number's generation moves on; a query
gives the region entry. In part the model's choices: log entry 101. -/
def Obligations.QuotasAndRegions : Prop :=
  ((∀ (sr tag c v m sl : Nat) (s : State) (j : Job), s.sliceNext sr tag 0x89 [(8, 1), (16, 20)] j → c = dby j.desc 8 1 → v = dby j.desc 16 8 → m = dby j.desc 24 12 → sl = j.slice →
     (c < 8 → v ≤ quotaMax c → m = 0 → answers (.sliceQuota sr tag) s fun t =>
       t.reports sr tag stSuccess ∧ t.rf (R.SLC_QUOTA sl) (quotaField c).1 (quotaField c).2 = v ∧ t.slices = s.slices) ∧
     (c < 8 → quotaMax c < v → answers (.sliceQuota sr tag) s fun t => t.reports sr tag stInvalidDescriptor ∧ t.rd (R.SLC_QUOTA sl) = s.rd (R.SLC_QUOTA sl)) ∧
     (c = 8 → v = 0 → (∀ x ∈ s.others sl, (s.groups x ||| (s.slice x).retGroups) &&& m = 0) → answers (.sliceQuota sr tag) s fun t =>
       t.reports sr tag stSuccess ∧ t.rf (R.SLC_QUOTA sl) 288 96 = m) ∧
     (c = 8 → v = 0 → (∃ x ∈ s.others sl, (s.groups x ||| (s.slice x).retGroups) &&& m ≠ 0) → answers (.sliceQuota sr tag) s fun t =>
       t.reports sr tag stShareConflict ∧ t.slices = s.slices ∧ t.rd (R.SLC_QUOTA sl) = s.rd (R.SLC_QUOTA sl)) ∧
     (c = 9 → m = 0 → clearBits v 0x03FF03FF = 0 → fld v 0 10 ≤ 255 → fld v 16 10 ≤ 256 →
       (s.latticeTaken sl (fld v 0 10) (fld v 16 10) = false → answers (.sliceQuota sr tag) s fun t => t.reports sr tag stSuccess ∧
         t.rf (R.SLC_QUOTA sl) 224 8 = fld v 0 10 ∧ t.rf (R.SLC_QUOTA sl) 232 9 = fld v 16 10) ∧
       (s.latticeTaken sl (fld v 0 10) (fld v 16 10) = true → answers (.sliceQuota sr tag) s fun t => t.reports sr tag stShareConflict ∧
         t.rd (R.SLC_QUOTA sl) = s.rd (R.SLC_QUOTA sl))) ∧
     (c = 10 → m = 0 → clearBits v 0x03FF03FF = 0 → fld v 0 10 ≤ 999 → fld v 16 10 ≤ 750 → fld v 0 10 + fld v 16 10 ≤ 1000 →
       (s.spineTaken sl (fld v 0 10) (fld v 16 10) = false → answers (.sliceQuota sr tag) s fun t => t.reports sr tag stSuccess ∧
         t.rf (R.SLC_QUOTA sl) 256 10 = fld v 0 10 ∧ t.rf (R.SLC_QUOTA sl) 266 10 = fld v 16 10) ∧
       (s.spineTaken sl (fld v 0 10) (fld v 16 10) = true → answers (.sliceQuota sr tag) s fun t => t.reports sr tag stShareConflict ∧
         t.rd (R.SLC_QUOTA sl) = s.rd (R.SLC_QUOTA sl))) ∧
     (c = 11 → m = 0 → 1 ≤ v → v ≤ 255 → answers (.sliceQuota sr tag) s fun t => t.reports sr tag stSuccess ∧ t.rf (R.SLC_QUOTA sl) 192 8 = v ∧ t.slices = s.slices) ∧
     (c = 12 → m = 0 → v ≤ 65535 → answers (.sliceQuota sr tag) s fun t => t.reports sr tag stSuccess ∧ t.rf (R.SLC_QUOTA sl) 208 16 = v ∧ t.slices = s.slices)) ∧
   (∀ (sl : Nat) (s : State) (r : Slice), Tbl.find s.slices sl = some r → answers (.schedWeightApply sl) s fun t =>
     Tbl.find t.slices sl = some { r with weight := s.rf (R.SLC_QUOTA sl) 192 8, rate := s.rf (R.SLC_QUOTA sl) 208 16 } ∧ (∀ n, n ≠ sl → Tbl.find t.slices n = Tbl.find s.slices n) ∧
     t.regs = s.regs ∧ t.mem = s.mem ∧ t.ring = s.ring) ∧
   (∀ (sr tag a p : Nat) (s : State) (j : Job), s.sliceNext sr tag 0x8A [(8, 1), (12, 4)] j → a = dby j.desc 8 1 → p = dby j.desc 12 4 → p < 2 ^ 20 →
     (a = 0 → Tbl.find s.pasids p = none → answers (.slicePasid sr tag) s fun t => t.reports sr tag stSuccess ∧ Tbl.find t.pasids p = some j.slice ∧
       (∀ q, q ≠ p → Tbl.find t.pasids q = Tbl.find s.pasids q)) ∧
     (a = 0 → ∀ sl, Tbl.find s.pasids p = some sl → answers (.slicePasid sr tag) s fun t => t.reports sr tag stPasidInvalid ∧ t.pasids = s.pasids) ∧
     (a = 1 → Tbl.find s.pasids p ≠ some j.slice → answers (.slicePasid sr tag) s fun t => t.reports sr tag stPasidInvalid ∧ t.pasids = s.pasids) ∧
     (a = 1 → Tbl.find s.pasids p = some j.slice → s.pasidBusy j.slice p = true → answers (.slicePasid sr tag) s fun t => t.reports sr tag stSliceBusy ∧ t.pasids = s.pasids) ∧
     (a = 1 → Tbl.find s.pasids p = some j.slice → s.pasidBusy j.slice p = false → answers (.slicePasid sr tag) s fun t => t.reports sr tag stSuccess ∧ Tbl.find t.pasids p = none ∧
       (∀ q, q ≠ p → Tbl.find t.pasids q = Tbl.find s.pasids q)))) ∧
  ((∀ (sr tag count mask fl : Nat) (s : State) (j : Job), s.sliceNext sr tag 0x8B [(8, 1), (12, 4), (16, 2)] j → fl = dby j.desc 8 1 → count = dby j.desc 12 4 → mask = dby j.desc 16 2 →
     fl < 4 → 1 ≤ count → count ≤ 2359296 → mask < 4096 → bitsOf 12 mask ≠ [] → (bit fl 1 = false → (bitsOf 12 mask).length = 1) →
     (s.quotaRoom j.slice 0 count = false → answers (.regionAlloc sr tag) s fun t => t.reports sr tag stQuotaExceeded ∧ t.mem.regions = s.mem.regions) ∧
     (∀ n gs, s.quotaRoom j.slice 0 count = true → lowestFree s.mem.regions 1 65535 = some n → s.pickGranules (bitsOf 12 mask) count = some gs →
       answers (.regionAlloc sr tag) s fun t =>
         (∃ r, Tbl.find t.mem.regions n = some r ∧ r.ecc = bit fl 0 ∧ r.interleave = bit fl 1 ∧ r.slice = j.slice ∧ r.gen = Tbl.get s.mem.regionGen n 0 ∧ r.granules = gs ∧ r.refs = 0 ∧
           gs.length = count ∧ (∀ i, i < count → nth gs i 0 / 196608 = nth (bitsOf 12 mask) (i % (bitsOf 12 mask).length) 0)) ∧
         (∀ m, m ≠ n → Tbl.find t.mem.regions m = Tbl.find s.mem.regions m) ∧ (n, sr, tag) ∈ t.mem.zeroing ∧
         (∀ i, i < count → Mem.bytes t.mem.bytes (s.listEntry count i) 4 = leBytes 4 (nth gs i 0)) ∧
         (∀ a, (∀ i, i < count → a < s.listEntry count i ∨ s.listEntry count i + 4 ≤ a) → Mem.get t.mem.bytes a = Mem.get s.mem.bytes a) ∧
         t.ring.unwritten = s.ring.unwritten ∧ t.regs = s.regs) ∧
     (s.quotaRoom j.slice 0 count = true → s.pickGranules (bitsOf 12 mask) count = none → answers (.regionAlloc sr tag) s fun t =>
       t.reports sr tag stResExhausted ∧ t.mem.regions = s.mem.regions)) ∧
   (∀ (sr tag h : Nat) (s : State) (j : Job) (r : Region), s.sliceNext sr tag 0x8C [(8, 4)] j → h = dby j.desc 8 4 → s.region h j.slice = some r →
     ((0 < r.refs ∨ s.bound h = true) → answers (.regionFree sr tag) s fun t => t.reports sr tag stRegionBusy ∧ t.mem.regions = s.mem.regions) ∧
     (r.refs = 0 → s.bound h = false → answers (.regionFree sr tag) s fun t => t.reports sr tag stSuccess ∧ Tbl.find t.mem.regions (h % 65536) = none ∧
       Tbl.get t.mem.regionGen (h % 65536) 0 = (r.gen + 1) % 65536 ∧ (∀ m, m ≠ h % 65536 → Tbl.find t.mem.regions m = Tbl.find s.mem.regions m))) ∧
   (∀ (sr tag : Nat) (s s1 : State) (j : Job) (r : Region), s.sliceNext sr tag 0x8D [(8, 4), (16, 9), (28, 4)] j → (dby j.desc 24 1 = 0 ∨ dby j.desc 24 1 = 2) →
     s.region (dby j.desc 8 4) j.slice = some r → s.writeOperand j (dby j.desc 24 1) (dby j.desc 28 4) (dby j.desc 16 8) r.entry 0 = .ok s1 →
     exec (.regionQuery sr tag) s = .next (s1.succeed j 64)))

/-- (1) Windows (R421, R423, R424): an access of a wrong size or alignment to BAR0 is counted and a read of it ends Unsupported Request; an access through
a window that its entry does not allow changes nothing, is counted, and a read of it ends Unsupported Request; one that it allows reads or writes the
pool memory, the cell store or the registers that the entry names, or waits for a hub under warm reset or with no clock (R495, R468); a sync is done
once every request before it is. In part the model's choices: log entry 96. (2) Host reads and messages (R425, R432, R433): a completion with its data
goes to what asked for it; an unexpected one is counted and reported; a failed or missing one ends what asked for it with HOST_DMA_ERROR and the
reason; a poisoned write is counted and dropped; unmasking a vector sends the message that its PBA bit holds. In part the model's choices: log entries
10 and 167. -/
def Obligations.WindowsAndHostReads : Prop :=
  ((∀ (fn a n : Nat) (rd : Bool) (s : State), s.pcie.perst = false → s.pcie.linkUp = true → s.barOk (min fn 1) = true →
     ((n = 4 ∨ n = 8) → a % n = 0 → exec (.bar0AccessBad fn a n rd) s = .next s) ∧
     (¬((n = 4 ∨ n = 8) ∧ a % n = 0) → exec (.bar0AccessBad fn a n rd) s =
       .next (if rd then (s.cnt R.PCI_BAR_BAD).hostRefuse (min fn 1) 1 else s.cnt R.PCI_BAR_BAD))) ∧
   (∀ (w off n : Nat) (s : State), w < 4096 → s.barOk 0 = true → s.pcie.held = [] →
     (s.winCheck (s.rd (R.PCI_WINDOW w)) off n false = none → exec (.bar4Read w off n) s = .next ((s.cnt R.PCI_WIN_DENIED).hostRefuse 0 1)) ∧
     (∀ r h a, s.hostBlocked = false → s.winCheck (s.rd (R.PCI_WINDOW w)) off n false = some (.region r h a) → s.regionWaits r a n = true →
       exec (.bar4Read w off n) s = .next { s with pcie := { s.pcie with held := [.read (s.rd (R.PCI_WINDOW w)) off n] } }) ∧
     (∀ r h a s1 bs, s.hostBlocked = false → s.winCheck (s.rd (R.PCI_WINDOW w)) off n false = some (.region r h a) → s.regionWaits r a n = false → s.readRegion r a n = .ok s1 bs →
       answers (.bar4Read w off n) s fun t => t.out = s1.out ++ [.hostCpl 0 bs] ∧ t.mem = s1.mem ∧ t.regs = s1.regs) ∧
     (∀ c a s1 bs, s.hostBlocked = false → s.winCheck (s.rd (R.PCI_WINDOW w)) off n false = some (.cell c a) → s.cellWaits c = false → s.readDpa (cellDpa c a) n = .ok s1 bs →
       answers (.bar4Read w off n) s fun t => t.out = s1.out ++ [.hostCpl 0 bs] ∧ t.mem = s1.mem ∧ t.regs = s1.regs) ∧
     (∀ a, s.hostBlocked = false → s.winCheck (s.rd (R.PCI_WINDOW w)) off n false = some (.regs a) → answers (.bar4Read w off n) s fun t => t.mem = s.mem ∧ t.regs = s.regs ∧
       t.out = s.out ++ [.hostCpl 0 ((pieces 4 (n / 4 + 2) a n).map (fun p => leBytes p.2 (s.readReg false (regAddr p.1) p.2))).flatten])) ∧
   (∀ (w off : Nat) (data : List Byte) (s : State), w < 4096 → s.barOk 0 = true → s.pcie.held = [] →
     (s.winCheck (s.rd (R.PCI_WINDOW w)) off data.length true = none → exec (.bar4Write w off data) s = .next (s.cnt R.PCI_WIN_DENIED)) ∧
     (∀ r h a, s.hostBlocked = false → s.winCheck (s.rd (R.PCI_WINDOW w)) off data.length true = some (.region r h a) → s.regionWaits r a data.length = false →
       answers (.bar4Write w off data) s fun t => t.mem = (s.writeRegion r a data hostOwner).1.mem ∧ t.out = (s.writeRegion r a data hostOwner).1.out) ∧
     (∀ c a, s.hostBlocked = false → s.winCheck (s.rd (R.PCI_WINDOW w)) off data.length true = some (.cell c a) → s.cellWaits c = false →
       answers (.bar4Write w off data) s fun t => t.mem = (s.writeDpa (cellDpa c a) data hostOwner).1.mem ∧ t.out = (s.writeDpa (cellDpa c a) data hostOwner).1.out)) ∧
   (∀ (e w n : Nat) (wr : Bool) (s : State), (bit e 0 = false ∨ bit e (if wr then 2 else 1) = false ∨ fld e 128 32 < w + n) → s.winCheck e w n wr = none) ∧
   (∀ (seq : Nat) (s : State), s.barOk 0 = true → s.hostBlocked = false → s.pcie.held = [] → s.pcie.syncWait = [] →
     answers (.winSync seq) s fun t => t.pcie.syncWait = [seq % 65536] ∧ t.regs = s.regs ∧ t.mem = s.mem ∧
       answers .winSyncDone t fun u => u.rf R.PCI_WIN_SYNC 16 16 = seq % 65536 ∧ u.pcie.syncWait = [] ∧ u.mem = s.mem)) ∧
  ((∀ (fn tag status : Nat) (data : List Byte) (s : State), Tbl.find s.pcie.reads tag = none →
     exec (.hostReadCompletion fn tag status data) s = .next ((s.cnt R.PCI_UNEXP_CPL).aer (min fn 1) Aer.unexpCpl)) ∧
   (∀ (fn tag sr jt : Nat) (data : List Byte) (s : State) (r : HostRead) (j : Job) (g : Gather), Tbl.find s.pcie.reads tag = some r → r.fn = fn → r.discard = false → data.length = r.len → s.pcie.readWait = [] →
     r.what = .job sr jt → sr < 65536 → s.pcie.gathers = [g] → g.sr = sr → g.tag = jt → s.job sr jt = some j → j.phase = .reading →
     answers (.hostReadCompletion fn tag 0 data) s fun t => Tbl.find t.pcie.reads tag = none ∧ t.pcie.host = Mem.write s.pcie.host r.addr data ∧
       (1 < g.missing → t.ring.jobs = s.ring.jobs) ∧
       (g.missing = 1 → t.pcie.gathers = [{ g with data := g.data.take r.pos ++ data ++ g.data.drop (r.pos + data.length), missing := 0 }] ∧
         t.job sr jt = some { j with phase := .started })) ∧
   (∀ (fn tag status sr jt : Nat) (data : List Byte) (s : State) (r : HostRead) (j : Job), Tbl.find s.pcie.reads tag = some r → r.fn = fn → r.discard = false → status ∈ [1, 2, 4] →
     r.what = .job sr jt → sr < 65536 → s.job sr jt = some j → ¬(0x30 ≤ dOpcode j.desc ∧ dOpcode j.desc ≤ 0x36) → s.pcie.readWait = [] → s.allLanded sr jt →
     answers (.hostReadCompletion fn tag status data) s fun t =>
       (∃ c ∈ t.ring.unwritten, c.sr = sr ∧ c.tag = jt ∧ c.status = stHostDmaError ∧ c.detail = status) ∧ Tbl.find t.pcie.reads tag = none) ∧
   (∀ (tag sr jt : Nat) (s : State) (r : HostRead) (j : Job), Tbl.find s.pcie.reads tag = some r → r.discard = false → r.what = .job sr jt → sr < 65536 → s.job sr jt = some j →
     ¬(0x30 ≤ dOpcode j.desc ∧ dOpcode j.desc ≤ 0x36) → s.pcie.readWait = [] → s.allLanded sr jt →
     (∀ lim, s.pcie.cplTime = some lim → s.timeNs < r.since + lim → exec (.completionTimeout tag) s = .next s) ∧ (s.pcie.cplTime = none → exec (.completionTimeout tag) s = .next s) ∧
     (∀ lim, s.pcie.cplTime = some lim → r.since + lim ≤ s.timeNs → answers (.completionTimeout tag) s fun t =>
       (∃ c ∈ t.ring.unwritten, c.sr = sr ∧ c.tag = jt ∧ c.status = stHostDmaError ∧ c.detail = 3) ∧ Tbl.find t.pcie.reads tag = none)) ∧
   (∀ (fn : Nat) (s : State), exec (.poisonedWrite fn) s = .next ((s.cnt R.PCI_POISON_WR).aer (min fn 1) Aer.poisoned) ∧
     answers (.poisonedWrite fn) s fun t => t.mem = s.mem ∧ t.out = s.out) ∧
   (∀ (v : Nat) (s : State), v < 2048 → s.pcie.fnMask0 = false → s.dmaOk 0 = true →
     answers (.msixUnmask 0 v) s fun t => t.rf (msixEntry 0 v) 96 1 = 0 ∧ t.rf (pbaWord 0 v) (v % 64) 1 = 0 ∧
       t.out = s.out ++ (if s.rf (pbaWord 0 v) (v % 64) 1 = 1 then [.msix 0 v] else [])) ∧
   (∀ (v : Nat) (s : State), 2048 ≤ v → (∀ w, w < 2048 → s.rf (pbaWord 0 w) (w % 64) 1 = 0) → exec (.msixUnmask 0 v) s = .next { s with pcie := { s.pcie with fnMask0 := false } }))

/-- Bus Master Enable, resets and power states of the functions and of the link (R427 to R431, R490, R492): a cut function sends no more; a function reset
clears its BARs' blocks and orphans the slices; PERST# and a hot reset take the link down, and what it trains to is what the status shows; D3hot and
D0, L1 (with the LTR value reported) and the width follow the commands; a function answers again 100 ms after its reset. In part the model's choices:
log entries 94, 95, 96, 167 and 169. -/
def Obligations.EndpointStates : Prop :=
  (∀ (fn : Nat) (s : State), fn < 2 → s.bme fn = true → answers (.bmeClear fn) s fun t => t.bme fn = false ∧ t.dmaOk fn = false) ∧
  (∀ (fn : Nat) (s : State), s.bme (min fn 1) = false → exec (.bmeClear fn) s = .next s) ∧
  (∀ (opts prg : Nat) (s : State), s.pcie.perst = false → s.pcie.linkUp = true → s.barOk 0 = false → answers (.bmeSet 0 opts prg) s fun t =>
    t.bme 0 = true ∧ t.pcie.atomicEnabled = bit opts 0 ∧ t.pcie.fnMask0 = bit opts 3 ∧ t.xlt.atsEnabled = bit opts 1 ∧ t.xlt.pasidEnabled = bit opts 2 ∧
      t.xlt.prgCredits = min prg 512 - s.xlt.prgOut.length ∧
      t.pcie.mrrs = 128 * 2 ^ min 5 (fld opts 4 3) ∧ t.pcie.cplTime = (if bit opts 11 then none else some (cplTimeOf (fld opts 7 4)))) ∧
  (∀ (opts prg : Nat) (s : State), s.pcie.perst = false → s.pcie.linkUp = true → s.barOk 1 = false → answers (.bmeSet 1 opts prg) s fun t =>
    t.bme 1 = true ∧ t.pcie.fnMask1 = bit opts 3 ∧ t.xlt = s.xlt) ∧
  (∀ (prg : Nat) (s : State), s.barOk 0 = true → s.bme 0 = false → s.ring.unwritten = [] → s.ring.events = [] → (∀ v, v < 2048 → s.rf (pbaWord 0 v) (v % 64) 1 = 0) →
    answers (.bmeSet 0 0 prg) s fun t => t.dmaOk 0 = true ∧ t.out = s.out) ∧
  (∀ (fn : Nat) (s : State), fn < 2 → s.pcie.perst = false → s.pcie.linkUp = true → s.pcie.flr0 = false → s.pcie.flr1 = false → answers (.flr fn) s fun t =>
    (fn = 0 → t.pcie.flr0 = true ∧ t.pcie.retry0 = true ∧ t.pcie.flr1 = false) ∧ (fn = 1 → t.pcie.flr1 = true ∧ t.pcie.retry1 = true ∧ t.pcie.flr0 = false) ∧
    t.barOk fn = false) ∧
  (∀ (s : State), s.pcie.flr0 = true → s.pcie.flrAt0 + 100000000 ≤ s.timeNs → answers (.flrDone 0) s fun t => t.pcie.flr0 = false ∧ t.pcie.retry0 = false ∧ t.rf R.RST_CAUSE 5 1 = 1 ∧ t.bme 0 = false ∧
    (∀ w, w < 4096 → t.rd (R.PCI_WINDOW w) = 0) ∧ (∀ n, n < 64 → (s.slice n).state = .active → (t.slice n).state = .orphaned)) ∧
  (∀ (s : State), s.pcie.flr1 = true → s.pcie.flrAt1 + 100000000 ≤ s.timeNs → answers (.flrDone 1) s fun t => t.pcie.flr1 = false ∧ t.pcie.retry1 = false ∧ t.rf R.RST_CAUSE 6 1 = 1 ∧ t.slices = s.slices) ∧
  (∀ (fn : Nat) (s : State), fn < 2 → (if fn = 0 then s.pcie.flr0 else s.pcie.flr1) = false → exec (.flrDone fn) s = .next s) ∧
  (∀ (fn : Nat) (s : State), fn < 2 → s.timeNs < (if fn = 0 then s.pcie.flrAt0 else s.pcie.flrAt1) + 100000000 → exec (.flrDone fn) s = .next s) ∧
  (∀ (s : State), s.pcie.perst = false → s.dev = .run → ¬(s.rf R.PCI_STATUS 7 2 = 3 ∧ s.rf R.PCI_STATUS 9 2 = 3) → answers .perstAssert s fun t =>
    t.pcie.perst = true ∧ t.pcie.linkUp = false ∧ t.rf R.RST_CAUSE 3 1 = 1 ∧ t.dev = .run ∧ t.kce.secrets = s.kce.secrets) ∧
  (∀ (s : State), s.pcie.perst = false → s.dev = .run → s.rf R.PCI_STATUS 7 2 = 3 → s.rf R.PCI_STATUS 9 2 = 3 → answers .perstAssert s fun t =>
    t.pcie.perst = true ∧ t.dev = .meringue ∧ t.mem.bytes = [] ∧ t.ring.jobs = [] ∧ t.pending = s.pending) ∧
  (∀ (w x : Nat) (f : Bool) (s : State), w ≤ 4 → 1 ≤ x → x ≤ 6 → s.clk.linksUp = true → s.rf R.CLK_STATUS 0 1 = 1 → s.pcie.perst = true →
    answers (.perstDeassert w x f) s fun t => t.pcie.perst = false ∧ t.pcie.linkUp = true ∧ t.pcie.negWidth = w ∧ t.pcie.link = .l0 ∧ t.pcie.perstAt = s.timeNs ∧ t.rf R.PCI_STATUS 0 3 = w ∧
      t.rf R.PCI_STATUS 3 3 = x ∧ t.rf R.PCI_STATUS 6 1 = b2n (f || decide (x = 6)) ∧ t.mem = s.mem) ∧
  (∀ (w x : Nat) (f : Bool) (s : State), w ≤ 4 → 1 ≤ x → x ≤ 6 → s.clk.linksUp = true → s.rf R.CLK_STATUS 0 1 = 1 → s.pcie.perst = false → s.pcie.linkUp = true →
    answers (.hotReset w x f) s fun t => t.pcie.linkUp = true ∧ t.pcie.negWidth = w ∧ t.rf R.RST_CAUSE 4 1 = 1 ∧ t.bme 0 = false ∧ t.bme 1 = false ∧ t.pcie.retry0 = true ∧
      t.pcie.retry1 = true) ∧
  (∀ (s : State), s.pcie.perst = false → s.pcie.linkUp = true →
    (s.rf R.CTL_ADMIN_STATUS 2 1 = 1 → s.pcie.perstAt + 100000000 ≤ s.timeNs → exec .configurationRetryEnd s = .next { s with pcie := { s.pcie with retry0 := s.pcie.flr0, retry1 := s.pcie.flr1 } }) ∧
    ((s.rf R.CTL_ADMIN_STATUS 2 1 = 0 ∨ s.timeNs < s.pcie.perstAt + 100000000) → exec .configurationRetryEnd s = .next s)) ∧
  (∀ (fn : Nat) (s : State), fn < 2 → s.pcie.linkUp = true → s.rf R.PCI_STATUS (7 + 2 * fn) 2 = 0 → answers (.d3hotEntry fn) s fun t =>
    t.rf R.PCI_STATUS (7 + 2 * fn) 2 = 3 ∧ t.barOk fn = false) ∧
  (∀ (fn : Nat) (s : State), fn < 2 → s.rf R.PCI_STATUS (7 + 2 * fn) 2 = 3 → s.bme fn = false →
    answers (.d0Entry fn) s fun t => t.rf R.PCI_STATUS (7 + 2 * fn) 2 = 0 ∧ t.mem = s.mem ∧ t.out = s.out) ∧
  (∀ (sub : Nat) (s : State), s.pcie.linkUp = true → s.pcie.link = .l0 → s.pcie.reads = [] →
    answers (.l1Entry sub) s fun t => t.pcie = { s.pcie with link := if sub = 1 then .l11 else if sub = 2 then .l12 else .l1 } ∧ t.mem = s.mem ∧ t.ring = s.ring ∧
      ((∃ x ∈ s.ring.srs, x.2.at'.loc = 0) → t.out = s.out ++ [.ltr 10]) ∧ ((∀ x ∈ s.ring.srs, x.2.at'.loc ≠ 0) → t.out = s.out ++ [.ltr 50])) ∧
  (∀ (s : State), exec .l1Exit s = .next { s with pcie := { s.pcie with link := .l0 } }) ∧
  (∀ (s : State), s.pcie.linkUp = true → s.rf R.PCI_PM 19 1 = 1 →
    (min 4 (s.rf R.PCI_PM 16 3) < s.rf R.PCI_STATUS 0 3 → answers .l0pNarrow s fun t => t.rf R.PCI_STATUS 0 3 + 1 = s.rf R.PCI_STATUS 0 3 ∧ t.pcie = s.pcie ∧ t.mem = s.mem) ∧
    (s.rf R.PCI_STATUS 0 3 < s.pcie.negWidth → s.pcie.negWidth ≤ 4 → answers .l0pWiden s fun t => t.rf R.PCI_STATUS 0 3 = s.rf R.PCI_STATUS 0 3 + 1 ∧ t.pcie = s.pcie ∧ t.mem = s.mem))

/-- The control cores (R435, R439 to R441, R443, R446): an expired watchdog is a crash; a crash holds the core in reset with its cause, the third one
within 60 s takes it OFFLINE and the slices it serves to ERROR; a restarted core runs from its entry with its local memory reloaded; commands restart
a core, bring an OFFLINE one back, and never touch CC0 to CC3. In part the model's choices: log entries 89 and 170. -/
def Obligations.ControlCores : Prop :=
  (∀ (k : Nat) (s : State), k < 16 → s.coreState k = 1 →
    (Tbl.get s.fw.wdog k 0 + 10 ^ 7 ≤ s.timeNs → exec (.watchdogExpiry k) s = exec (.coreCrash k 0xFF) s) ∧
    (s.timeNs < Tbl.get s.fw.wdog k 0 + 10 ^ 7 → exec (.watchdogExpiry k) s = .next s)) ∧
  (∀ (k c n : Nat) (s : State), k < 16 → s.coreState k = 1 → n = ((Tbl.get s.fw.crashTimes k []).filter (fun t => s.timeNs < t + minuteNs)).length →
    (n < 2 → answers (.coreCrash k c) s fun t => t.coreState k = 2 ∧ t.rf (R.FWC_CORE_STATUS k) 4 8 = c % 256 ∧ t.rf (R.FWC_CORE_STATUS k) 2 2 = n + 1 ∧
      Tbl.find t.fw.lastCrash k = some s.timeNs ∧ (∀ j, j < 16 → j ≠ k → t.coreState j = s.coreState j) ∧ t.mem = s.mem ∧ t.ring.jobs = s.ring.jobs ∧ t.slices = s.slices) ∧
    (2 ≤ n → 4 ≤ k → s.pipes.tab = [] → s.colls.plans = [] → s.tmt.qps = [] → s.ring.jobs = [] → answers (.coreCrash k c) s fun t => t.coreState k = 3 ∧ Tbl.find t.fw.lastCrash k = some s.timeNs ∧
      (∀ sl, 1 ≤ sl → sl < 64 → s.serves k sl = true → (s.slice sl).state = .active → (t.slice sl).state = .error)) ∧
    (2 ≤ n → k = 2 → s.ring.jobs = [] → answers (.coreCrash k c) s fun t => t.coreState 2 = 3 ∧ t.stor.cfs = true) ∧
    (2 ≤ n → k = 1 → s.rf R.TLN_STATUS 0 2 = 2 → answers (.coreCrash k c) s fun t => t.coreState 1 = 3 ∧ t.rf R.TLN_STATUS 0 2 = 3 ∧ t.ring.jobs = s.ring.jobs) ∧
    (2 ≤ n → k = 0 → s.ring.jobs = [] → answers (.coreCrash k c) s fun t => t.coreState 0 = 3 ∧ t.rf R.FWC_STATUS 0 2 = 2) ∧
    (∀ j, 2 ≤ n → k = 3 → s.ring.jobs = [j] → j.sr = 0 → 0x60 ≤ dOpcode j.desc → dOpcode j.desc < 0x70 → answers (.coreCrash k c) s fun t =>
      t.coreState 3 = 3 ∧ t.reports 0 j.tag stFirmwareError)) ∧
  (∀ (k : Nat) (s : State), s.coreState k ≠ 1 → ∀ (c : Nat), exec (.coreCrash k c) s = .next s) ∧
  (∀ (k : Nat) (ue : Bool) (s : State), k < 16 → s.coreState k = 2 → (∀ j, j < 16 → j ≠ k → s.coreState j ≠ 2) → s.upd.restarting = false →
    answers (.coreRestartDone k ue) s fun t => t.coreState k = 1 ∧ t.seq (1536 + k) = { Seq.fresh with cs := 2 ^ 13, pend := (s.seq (1536 + k)).pend } ∧
      Tbl.find t.fw.wdog k = some s.timeNs ∧ (∀ a, memBase (1536 + k) ≤ a → a < memBase (1536 + k) + 0x40000 → Mem.get t.mem.bytes a = 0) ∧
      (∀ a, a < memBase (1536 + k) ∨ memBase (1536 + k) + 0x40000 ≤ a → Mem.get t.mem.bytes a = Mem.get s.mem.bytes a)) ∧
  (∀ (sr tag a k : Nat) (s : State) (j : Job), s.ready sr tag 0x8F j → rsvdZero j.desc [(8, 1), (12, 1)] = true → a = dby j.desc 8 1 → k = dby j.desc 12 1 → k < 16 →
    (a = 0 → 4 ≤ k → s.coreState k ≠ 3 → answers (.fwCore sr tag) s fun t => t.reports sr tag stSuccess ∧ t.coreState k = 2 ∧ t.fw = s.fw) ∧
    (a = 1 → 4 ≤ k → s.coreState k = 3 → answers (.fwCore sr tag) s fun t => t.reports sr tag stSuccess ∧ t.coreState k = 2 ∧ t.rf (R.FWC_CORE_STATUS k) 2 2 = 0 ∧
      Tbl.find t.fw.crashTimes k = none) ∧
    (a ≤ 1 → (k < 4 ∨ a = 1 ∧ s.coreState k ≠ 3 ∨ a = 0 ∧ s.coreState k = 3) → answers (.fwCore sr tag) s fun t => t.reports sr tag stFwCoreState ∧ t.fw = s.fw))

/-- FW_QUERY (R447): 256 bytes go to the destination that the descriptor names, by PASID or by region, and record k of 16 bytes gives core k's state, its
crashes of the last 60 s, its last cause, its component restarts and the time of its last crash. -/
def Obligations.FirmwareRecords : Prop :=
  (∀ (sr tag : Nat) (s s1 : State) (j : Job), s.ready sr tag 0x8E j → rsvdZero j.desc [(16, 9), (28, 4)] = true → (dby j.desc 24 1 = 0 ∨ dby j.desc 24 1 = 2) →
    s.writeOperand j (dby j.desc 24 1) (dby j.desc 28 4) (dby j.desc 16 8) s.fwRecords 0 = .ok s1 → exec (.fwQuery sr tag) s = .next (s1.succeed j 256)) ∧
  (∀ (s : State), s.fwRecords.length = 256) ∧
  (∀ (k : Nat) (s : State), k < 16 →
    leAt s.fwRecords (16 * k) 1 = s.coreState k ∧
    leAt s.fwRecords (16 * k + 1) 1 = min 3 ((Tbl.get s.fw.crashTimes k []).filter (fun t => s.timeNs < t + minuteNs)).length ∧
    leAt s.fwRecords (16 * k + 2) 1 = s.rf (R.FWC_CORE_STATUS k) 4 8 ∧ leAt s.fwRecords (16 * k + 3) 1 = 0 ∧
    leAt s.fwRecords (16 * k + 4) 4 = min 0xFFFFFFFF (Tbl.get s.fw.compFaults k 0) ∧ leAt s.fwRecords (16 * k + 8) 8 = Tbl.get s.fw.lastCrash k 0 % 2 ^ 64)

/-- (1) The management controller's messages (R449, R452 to R454, R458): on a binding it answers it drops and counts bad packets, replies to the control,
discovery and platform commands with what they ask for, sets its endpoint ID, its terminus ID, the power cap and the requested power state (one
request at a time, in arrival order), and refuses values out of range; a binding it does not answer changes nothing. In part the model's choices: log
entries 70, 71 and 90. (2) The controller's events and vendor commands (R455, R458, R476, R479): a receiver is noted; events leave the queue in order,
to a poll or to the receiver; registers and captured counters are read 8 bytes at a time; the other bank is armed, and a trial image confirmed. In
part the model's choices: log entries 86 and 91. -/
def Obligations.ControllerCommands : Prop :=
  ((∀ (b : Nat) (x y : Nat) (r : List Byte) (s : State), ∀ c ∈ ([fun ok => .setEndpointId b x y ok, fun ok => .getEndpointId b ok, fun ok => .getEndpointUuid b ok,
       fun ok => .getMctpVersionSupport b x ok, fun ok => .getMessageTypeSupport b ok, fun ok => .getTid b ok, fun ok => .setTid b x ok, fun ok => .getPldmVersion b x ok,
       fun ok => .getPldmTypes b ok, fun ok => .getPldmCommands b x ok, fun ok => .getPdrRepositoryInfo b ok, fun ok => .getPdr b x ok, fun ok => .getSensorReading b x ok,
       fun ok => .getStateSensorReadings b ok, fun ok => .setNumericEffecterValue b x y ok, fun ok => .getNumericEffecterValue b x ok,
       fun ok => .setStateEffecterStates b x y ok, fun ok => .getStateEffecterStates b x ok, fun ok => .setEventReceiver b x y true ok,
       fun ok => .pollForPlatformEventMessage b ok, fun ok => .mcRegisterRead b x y ok, fun ok => .mcCapture b x ok, fun ok => .mcArmActivation b x ok, fun ok => .mcConfirm b ok,
       fun ok => .getVersion b x ok r, fun ok => .challenge b x ok r, fun ok => .spdmPqChain b x ok, fun ok => .queryDeviceIdentifiers b ok, fun ok => .getStatus b ok] :
       List (Bool → Instr)),
     (s.mcAnswers b = true → exec (c false) s = .next (s.cnt R.MGT_MCTP_DROP)) ∧ (s.mcAnswers b = false → ∀ (ok : Bool), exec (c ok) s = .next s)) ∧
   (∀ (b : Nat) (s : State), s.mcAnswers b = true → ∀ r ∈ ([
       (.getEndpointId b true, 0, 2, [0, BitVec.ofNat 8 (s.rf R.MGT_EID (eidLo b) 8), 0, 0]),
       (.getEndpointUuid b true, 0, 3, 0 :: fitBytes (Config.mcItem 0) 16),
       (.getMessageTypeSupport b true, 0, 5, [0, 4, 0, 1, 5, 0x7E]),
       (.getTid b true, 1, 2, 0 :: leBytes 1 s.mgt.tid),
       (.getPldmTypes b true, 1, 4, 0 :: leBytes 8 0x25),
       (.getPdrRepositoryInfo b true, 1, 0x250, 0 :: 0 :: leBytes 4 recordCount ++ Config.mcItem 30),
       (.getStateSensorReadings b true, 1, 0x221, [0x80]),
       (.getNumericEffecterValue b 1 true, 1, 0x232, 0 :: ([2, 0] ++ leBytes 2 s.mgt.capW ++ leBytes 2 s.mgt.capW)),
       (.getStateEffecterStates b 2 true, 1, 0x23A, [0, 1, 0, BitVec.ofNat 8 (if s.mgt.powerCmd = 0 then s.powerState else s.mgt.powerCmd), BitVec.ofNat 8 s.powerState])] :
       List (Instr × Nat × Nat × List Byte)), exec r.1 s = .next (s.emit (.mctp b r.2.1 r.2.2.1 r.2.2.2))) ∧
   (∀ (b n : Nat) (s : State), s.mcAnswers b = true →
     (n ∈ [0, 1, 5, 0x7E, 0xFF] → exec (.getMctpVersionSupport b n true) s = .next (s.emit (.mctp b 0 4 (0 :: 1 :: fitBytes (Config.mcItem (256 + n)) 4)))) ∧
     (n ∉ [0, 1, 5, 0x7E, 0xFF] → exec (.getMctpVersionSupport b n true) s = .next (s.emit (.mctp b 0 4 [0x80]))) ∧
     (n ∈ [0, 2, 5] → exec (.getPldmVersion b n true) s = .next (s.emit (.mctp b 1 3 (0 :: (leBytes 4 0 ++ [5] ++ fitBytes (Config.mcItem (512 + n)) 8))))) ∧
     (∀ l, pldmCommands n = some l → exec (.getPldmCommands b n true) s = .next (s.emit (.mctp b 1 5 (0 :: leBytes 32 (bitSet l))))) ∧
     (1 ≤ n → n ≤ 143 → exec (.getPdr b n true) s = .next (s.emit (.mctp b 1 0x251 (0 :: (leBytes 4 (if n = 143 then 0 else n + 1) ++ Config.mcItem (1024 + n)))))) ∧
     (∀ v, n < 141 → s.sensorValue n = some v → exec (.getSensorReading b n true) s = .next (s.emit (.mctp b 1 0x211 (0 :: BitVec.ofNat 8 v.length :: 0 :: v)))) ∧
     (n < 141 → s.sensorValue n = none → exec (.getSensorReading b n true) s = .next (s.emit (.mctp b 1 0x211 [0, 0, 2]))) ∧
     (141 ≤ n → exec (.getSensorReading b n true) s = .next (s.emit (.mctp b 1 0x211 [0x80])))) ∧
   (∀ (b n : Nat) (s : State), s.mcAnswers b = true →
     (1 ≤ n → n < 255 → (∀ (op : Nat), op < 2 → answers (.setEndpointId b op n true) s fun t => t.rf R.MGT_EID (eidLo b) 8 = n ∧ t.out = s.out ++ [.mctp b 0 1 [0, 0, BitVec.ofNat 8 n, 0]] ∧
         t.mgt = s.mgt) ∧
       answers (.setTid b n true) s fun t => t.mgt = { s.mgt with tid := n } ∧ t.out = s.out ++ [.mctp b 1 1 [0]] ∧ t.regs = s.regs) ∧
     ((n = 0 ∨ 255 ≤ n) → exec (.setTid b n true) s = .next (s.emit (.mctp b 1 1 [2]))) ∧
     ((n = 0 ∨ 255 ≤ n) → ∀ (op : Nat), op < 2 → exec (.setEndpointId b op n true) s = .next (s.emit (.mctp b 0 1 [2]))) ∧
     (1000 ≤ n → n ≤ 2700 → answers (.setNumericEffecterValue b 1 n true) s fun t => t.mgt = { s.mgt with capW := n } ∧ t.out = s.out ++ [.mctp b 1 0x231 [0]]) ∧
     ((n < 1000 ∨ 2700 < n) → exec (.setNumericEffecterValue b 1 n true) s = .next (s.emit (.mctp b 1 0x231 [2]))) ∧
     (s.mgt.powerCmd ≠ 0 → answers (.setStateEffecterStates b 2 n true) s fun t => t.mgt = { s.mgt with powerWait := s.mgt.powerWait ++ [(b, 2, n)] } ∧ t.out = s.out ∧ t.regs = s.regs) ∧
     (s.mgt.powerCmd = 0 → (n = 1 ∨ n = 5) → s.dev = .run → exec (.setStateEffecterStates b 2 n true) s = .next (s.emit (.mctp b 1 0x239 [0]))) ∧
     (s.mgt.powerCmd = 0 → (n = 3 ∨ n = 4 ∨ n = 2 ∧ s.mayRetain = true ∨ (n = 1 ∨ n = 5) ∧ s.dev = .retention) →
       answers (.setStateEffecterStates b 2 n true) s fun t => t.mgt = { s.mgt with powerCmd := n } ∧ t.out = s.out ++ [.mctp b 1 0x239 [0]]) ∧
     (s.mgt.powerCmd = 0 → s.mayRetain = false → exec (.setStateEffecterStates b 2 2 true) s = .next (s.emit (.mctp b 1 0x239 [4])))) ∧
   (∀ (a : Nat) (s : State), s.rf R.MGT_STATUS 0 2 = 1 → s.dev ≠ .off → s.mgt.fastClock = true → a < 128 →
     answers (.dynamicAddressAssign a) s fun t => t.rf R.MGT_STATUS 2 1 = 1 ∧ t.rf R.MGT_STATUS 11 7 = a ∧ t.mcAnswers 0 = true ∧ t.mcAnswers 1 = false) ∧
   (∀ s : State, s.rf R.MGT_STATUS 2 1 = 1 → s.dev ≠ .off → answers .rstdaa s fun t => t.rf R.MGT_STATUS 2 1 = 0 ∧ t.rf R.MGT_STATUS 11 7 = 0 ∧ t.mcAnswers 0 = false) ∧
   (∀ s : State, s.dev = .meringue → exec .mcClockWake s = .next { s with mgt := { s.mgt with fastClock := true } })) ∧
  ((∀ (b tid eid : Nat) (s : State), s.mcAnswers b = true →
     (answers (.setEventReceiver b tid eid true true) s fun t => t.mgt.receiver = some (tid % 256, eid % 256) ∧ t.rf R.MGT_STATUS 3 1 = 1) ∧
     (answers (.setEventReceiver b tid eid false true) s fun t => t.mgt.receiver = none ∧ t.rf R.MGT_STATUS 3 1 = 0)) ∧
   (∀ (b : Nat) (s : State) (e : McEvent) (es : List McEvent), s.mgt.events = e :: es → s.mgt.lost = 0 →
     (s.mcAnswers b = true → answers (.pollForPlatformEventMessage b true) s fun t => t.mgt.events = es ∧
       t.out = s.out ++ [.mctp b 1 0x20B (0 :: (leBytes 1 s.mgt.tid ++ e.data))]) ∧
     (∀ r, s.mgt.receiver = some r → s.rf R.MGT_STATUS 0 2 = 1 → s.dev ≠ .off → s.mgt.fastClock = true →
       answers .platformEventMessage s fun t => t.mgt.events = es ∧ t.out = s.out ++ [.mcEvent r.2 (leBytes 1 s.mgt.tid ++ e.data)])) ∧
   (∀ s : State, (s.mgt.receiver = none ∨ s.mgt.events = []) → exec .platformEventMessage s = .next s) ∧
   (∀ (b dpa n : Nat) (s : State), s.mcAnswers b = true → s.dev = .run → 1 ≤ n → n ≤ 16 → regSpace ≤ dpa → dpa + 8 * n ≤ regSpace + 2 ^ 31 → dpa % 8 = 0 →
     exec (.mcRegisterRead b dpa n true) s = .next (s.emit (.mctp b 0x7E 1 (0 :: ((List.range n).map (fun i =>
       (1 : Byte) :: leBytes 8 (s.readWide true (regAddr (dpa - regSpace + 8 * i)) 8))).flatten)))) ∧
   (∀ (b dpa u : Nat) (c : CtrBlock) (s : State), s.mcAnswers b = true → s.dev = .run → regSpace ≤ dpa → blockOfSnap (regAddr (dpa - regSpace)) = some (c, u) →
     answers (.mcCapture b dpa true) s fun t => t.ctrMc = s.captured s.ctrMc c u ∧ t.ctrHost = s.ctrHost ∧ t.ctr = s.ctr ∧ t.out = s.out ++ [.mctp b 0x7E 2 [0]]) ∧
   (∀ (b : Nat) (s : State), s.mcAnswers b = true → s.upd.trial = true →
     answers (.mcConfirm b true) s fun t => t.upd.trial = false ∧ t.upd.rollback = max s.upd.rollback (hdrSvn (s.upd.hdr s.upd.active)) ∧ t.mem = s.mem) ∧
   (∀ (b w : Nat) (s : State), s.mcAnswers b = true → bit w 0 = true → s.armCode (fld w 2 2) (bit w 4) (fld w 16 16) (fld w 64 64) = actArmed →
     answers (.mcArmActivation b w true) s fun t => t.upd.armed = some ⟨fld w 2 2, fld w 64 64⟩ ∧ t.rf R.CFG_ACT_STATUS 0 4 = actArmed ∧ t.mem = s.mem))

/-- Attestation (R459 to R461): a connection goes through version, capabilities and algorithms; a request that comes before its turn is an
UnexpectedRequest; digests, chains, challenges and measurements carry what they are of, signed by the Alias-2 key over the transcript; the hash of the
last signed response is what the post-quantum signature is made over; other requests are refused and counted. In part the model's choices: log entry
70. -/
def Obligations.Attestation : Prop :=
  (∀ (b eid : Nat) (r : List Byte) (s : State), s.mcAnswers b = true → (s.spdm b eid).phase < 3 →
    ∀ c ∈ ([.getDigests b eid true r, .getCertificate b eid true r, .challenge b eid true r, .getMeasurements b eid true r, .spdmPqChain b eid true] : List Instr),
      answers c s fun t => t.out = s.out ++ [.mctp b 5 0x7F (spdmBytes 0x7F 4 0 [])] ∧ (t.spdm b eid).signedHash = none) ∧
  (∀ (b eid : Nat) (r : List Byte) (s : State), s.mcAnswers b = true →
    (answers (.getVersion b eid true r) s fun t => (t.spdm b eid).phase = 1 ∧ (t.spdm b eid).vca = r ++ [0x10, 0x04, 0, 0, 0, 1, 0, 0x13] ∧ (t.spdm b eid).certs = [] ∧
      t.out = s.out ++ [.mctp b 5 4 [0x10, 0x04, 0, 0, 0, 1, 0, 0x13]]) ∧
    ((s.spdm b eid).phase = 1 → answers (.getCapabilities b eid true r) s fun t => (t.spdm b eid).phase = 2 ∧
      t.out = s.out ++ [.mctp b 5 0x61 (spdmBytes 0x61 0 0 (fitBytes (Config.mcItem 40) 16))]) ∧
    ((s.spdm b eid).phase = 2 → bit (leAt r 8 4) 9 = true → bit (leAt r 12 4) 1 = true → answers (.negotiateAlgorithms b eid true r) s fun t => (t.spdm b eid).phase = 3 ∧
      (∃ rsp, t.out = s.out ++ [.mctp b 5 0x63 rsp] ∧ leAt rsp 12 4 = 2 ^ 9 ∧ leAt rsp 16 4 = 2 ∧ (t.spdm b eid).vca = (s.spdm b eid).vca ++ r ++ rsp)) ∧
    ((s.spdm b eid).phase = 2 → (bit (leAt r 8 4) 9 = false ∨ bit (leAt r 12 4) 1 = false) → answers (.negotiateAlgorithms b eid true r) s fun t => (t.spdm b eid).phase = 2 ∧
      t.out = s.out ++ [.mctp b 5 0x7F (spdmBytes 0x7F 1 0 [])])) ∧
  (∀ (b eid : Nat) (r : List Byte) (s : State), s.mcAnswers b = true → 3 ≤ (s.spdm b eid).phase →
    (answers (.getDigests b eid true r) s fun t => t.out = s.out ++ [.mctp b 5 1 (spdmBytes 1 1 1 (sha384 (s.chain 0x20)))] ∧ (t.spdm b eid).meas = []) ∧
    (leAt r 2 1 = 0 → answers (.getCertificate b eid true r) s fun t =>
      (leAt r 4 2 < (s.chain 0x20).length → t.out = s.out ++ [.mctp b 5 2 (spdmBytes 2 0 0 (chainPart (s.chain 0x20) (leAt r 4 2) (leAt r 6 2)))]) ∧
      ((s.chain 0x20).length ≤ leAt r 4 2 → t.out = s.out ++ [.mctp b 5 0x7F (spdmBytes 0x7F 1 0 [])])) ∧
    (leAt r 2 1 = 0 → answers (.challenge b eid true r) s fun t => ∃ head h, (t.spdm b eid).signedHash = some h ∧ t.out = s.out ++ [.mctp b 5 3 (head ++ s.spdmSign h)] ∧
      h = sha384 ((s.spdm b eid).vca ++ (s.spdm b eid).certs ++ r ++ head) ∧ bsub head 4 48 = sha384 (s.chain 0x20) ∧
      bsub head 52 32 = leBytes 32 (Config.randomBits s.freeCtr % 2 ^ 256)) ∧
    (∀ (op : Nat), op = leAt r 3 1 → (op ≤ 4 ∨ op = 0xFF) → bit (leAt r 2 1) 0 = true → answers (.getMeasurements b eid true r) s fun t => ∃ head h, (t.spdm b eid).signedHash = some h ∧
      t.out = s.out ++ [.mctp b 5 0x60 (head ++ s.spdmSign h)] ∧ h = sha384 ((s.spdm b eid).vca ++ (s.spdm b eid).meas ++ r ++ head) ∧
      (1 ≤ op → op ≤ 4 → ∃ rest, head.drop 8 = s.measBlock op ++ rest)) ∧
    (∀ (op : Nat), op = leAt r 3 1 → (op ≤ 4 ∨ op = 0xFF) → bit (leAt r 2 1) 0 = false → answers (.getMeasurements b eid true r) s fun t => ∃ head, (t.spdm b eid).signedHash = none ∧
      t.out = s.out ++ [.mctp b 5 0x60 head] ∧ (t.spdm b eid).meas = (s.spdm b eid).meas ++ r ++ head) ∧
    (answers (.spdmPqChain b eid true) s fun t => t.out = s.out ++ [.mctp b 5 0x7E (vendorRsp (s.chain 0x21))])) ∧
  (∀ (b eid : Nat) (s : State), s.mcAnswers b = true →
    (∀ h, (s.spdm b eid).signedHash = some h → answers (.spdmPqSignature b eid true) s fun t => t.mgt = s.mgt ∧
      t.out = s.out ++ [.mctp b 5 0x7E (vendorRsp (Config.sign 0x21 (s.secret 7) (withContext "FJT9-SPDM" h) (Config.randomBits s.freeCtr % 2 ^ 256)))]) ∧
    ((s.spdm b eid).signedHash = none → exec (.spdmPqSignature b eid true) s = .next (s.emit (.mctp b 5 0x7F (spdmBytes 0x7F 4 0 [])))) ∧
    (∀ (code : Nat), answers (.unsupportedSpdmRequest b eid code true) s fun t => t.out = s.out ++ [.mctp b 5 0x7F (spdmBytes 0x7F 7 code [])]))

/-- Sensors, rails and flow records (R456, R457, R462, R463, R500 to R502): a reading is shown as sampled and its crossing of a threshold is an event; a
trip takes the main rails off; power and energy are shown by rail; an enabled die starts with no flow and sends its templates; a flow that idled,
lasted or was ended leaves one record, and a message waits 1 s from its first record. In part the model's choices: log entries 86, 104, 172 and 173. -/
def Obligations.SensorsAndFlows : Prop :=
  (∀ (l : List Int) (s : State), s.timeNs < s.phys.nextTemp → exec (.sensorSample l) s = .next s) ∧
  (∀ (l : List (List Nat)) (s : State), s.timeNs < s.phys.nextRail → exec (.railSample l) s = .next s) ∧
  (∀ (t0 : Int) (s : State), s.dev = .run → s.clk.brownOut = true → s.phys.nextTemp ≤ s.timeNs → s.rf R.PWR_THERM 0 1 = 0 → answers (.sensorSample [t0]) s fun t => t.temp 0 = some (signed 16 (wrapInt 16 t0)) ∧
    (levelOf 0 t0 ≠ Tbl.get s.mgt.levels 0 0 → s.mgt.events.length < 256 → t.mgt.events = s.mgt.events ++ [⟨0x100 + levelOf 0 t0, 0, s.timeNs⟩]) ∧
    (levelOf 0 t0 = Tbl.get s.mgt.levels 0 0 → t.mgt.events = s.mgt.events)) ∧
  (∀ (s : State), s.dev = .run → s.clk.brownOut = false → s.clk.tripped = false → s.phys.nextTemp ≤ s.timeNs → answers (.sensorSample [tripAt 0]) s fun t => t.dev = .railsOff ∧ t.clk.tripped = true ∧
    t.rf R.PWR_THERM 4 1 = 1 ∧ t.ring.jobs = [] ∧ t.mem.bytes = []) ∧
  (∀ (a v p q e : Nat) (s : State), s.dev ≠ .off → s.phys.nextRail ≤ s.timeNs → a < 65536 → v < 2 ^ 32 → p < 2 ^ 32 → q < 2 ^ 32 → answers (.railSample [[a, v, p, q, e]]) s fun t =>
    t.rf (R.MGT_RAIL 0) 0 16 = a ∧ t.rf (R.MGT_RAIL 0) 32 32 = v ∧ t.rf (R.MGT_RAIL 0) 64 32 = p ∧ t.rf (R.MGT_RAIL 0) 96 32 = q ∧ t.phys = { s.phys with nextRail := s.timeNs + 100000 } ∧ t.mem = s.mem) ∧
  (∀ (p i : Nat) (s : State) (f : Flow), (s.flowDie p).flows[i]? = some f →
    (s.timeNs < f.last + s.flowSpan p 16 10 → exec (.flowIdleTimeout p i) s = .next s) ∧
    (∀ rs, rs = (if f.v6 then (s.flowDie p).recs6 else (s.flowDie p).recs4) → rs.length + 1 < flowRecs f.v6 →
      (f.last + s.flowSpan p 16 10 ≤ s.timeNs → answers (.flowIdleTimeout p i) s fun t => (t.flowDie p).flows = (s.flowDie p).flows.eraseIdx i ∧
        (if f.v6 then (t.flowDie p).recs6 else (t.flowDie p).recs4) = rs ++ [f.record 1] ∧ t.regs = s.regs) ∧
      (f.first + s.flowSpan p 32 60 ≤ s.timeNs → answers (.flowActiveTimeout p i) s fun t =>
        (t.flowDie p).flows = (s.flowDie p).flows.set i { f with packets := 0, octets := 0, first := s.timeNs } ∧
        (if f.v6 then (t.flowDie p).recs6 else (t.flowDie p).recs4) = rs ++ [f.record 2] ∧ t.regs = s.regs)) ∧
    (s.timeNs < f.first + s.flowSpan p 32 60 → exec (.flowActiveTimeout p i) s = .next s)) ∧
  (∀ (p : Nat) (s : State), p < 4 →
    (s.flowOn p = false → answers (.flowExportEnable p) s fun t => (t.flowDie p).flows = [] ∧ (t.flowDie p).seen = []) ∧
    (s.flowOn p = true → (s.flowDie p).flows = [] → answers (.flowExportDisable p) s fun t => t.flowOn p = false ∧ (t.flowDie p).flows = []) ∧
    (s.flowOn p = true → exec (.flowExportEnable p) s = .next s) ∧
    (s.timeNs < (s.flowDie p).tmplAt + s.flowSpan p 80 60 → exec (.templateTimer p) s = .next s) ∧
    (s.flowOn p = true → (s.flowDie p).tmplAt + s.flowSpan p 80 60 ≤ s.timeNs → answers (.templateTimer p) s fun t => (t.flowDie p).flows = (s.flowDie p).flows ∧
      (t.flowDie p).tmplAt = s.timeNs ∧ (t.flowDie p).seqNo = (s.flowDie p).seqNo % 2 ^ 32)) ∧
  (∀ (p : Nat) (s : State), p < 4 →
    ((s.flowDie p).recs4 ≠ [] → (s.flowDie p).at4 + 10 ^ 9 ≤ s.timeNs → answers (.ipfixMessageFlush p false) s fun t => (t.flowDie p).recs4 = [] ∧ (t.flowDie p).recs6 = (s.flowDie p).recs6 ∧
      (t.flowDie p).seqNo = ((s.flowDie p).seqNo + (s.flowDie p).recs4.length) % 2 ^ 32) ∧
    (((s.flowDie p).recs4 = [] ∨ s.timeNs < (s.flowDie p).at4 + 10 ^ 9) → exec (.ipfixMessageFlush p false) s = .next s))

/-- Firmware update messages (R472 to R475): one session at a time, to the other bank; components the table names; a session's requests ask for the
header, for the missing units in ascending order, or for the configuration image; what comes is written to the other bank only, and a body whose
digest is not its header's leaves that bank empty. In part the model's choices: log entry 70. -/
def Obligations.UpdateSessions : Prop :=
  (∀ (b : Nat) (s : State), s.mcAnswers b = true →
    exec (.queryDeviceIdentifiers b true) s = .next (s.emit (.mctp b 1 0x501 (0 :: Config.mcItem 20))) ∧
    exec (.getFirmwareParameters b true) s = .next (s.emit (.mctp b 1 0x502 (0 :: (leBytes 2 2 ++ hdrVersion (s.upd.hdr s.upd.active) ++
      (if s.upd.applied.contains s.upd.target then hdrVersion (s.upd.hdr s.upd.target) else []) ++ Config.mcItem 21)))) ∧
    exec (.getStatus b true) s = .next (s.emit (.mctp b 1 0x51B (0 :: leBytes 1 (s.rf R.CFG_UPDATE 0 3)))) ∧
    (∀ (m c : Nat), s.upd.session = none → s.upd.armed = none → 1 ≤ m → 12 ≤ c → c ≤ 16 → answers (.requestUpdate b m c true) s fun t =>
      t.upd = { s.upd with session := some { binding := b, stage := 0, maxXfer := m, chunk := c, comp := 0, size := 0, request := none }, table := [], recv := [] } ∧
      t.out = s.out ++ [.mctp b 1 0x510 [0, 0, 0, 0]]) ∧
    (∀ (m c : Nat), (s.upd.session ≠ none ∨ s.upd.armed ≠ none) → exec (.requestUpdate b m c true) s = .next (s.emit (.mctp b 1 0x510 [0x81])))) ∧
  (∀ (b : Nat) (s : State), s.mcAnswers b = true → (s.upd.session = none ∨ ∃ x, s.upd.session = some x ∧ x.binding ≠ b) →
    ∀ r ∈ ([(.passComponentTable b true [1], 0x513), (.updateComponent b 1 0 true, 0x514), (.activateFirmware b true true, 0x51A), (.cancelUpdateComponent b true, 0x51C),
      (.cancelUpdate b true, 0x51D)] : List (Instr × Nat)), exec r.1 s = .next (s.emit (.mctp b 1 r.2 [0x80]))) ∧
  (∀ (b : Nat) (s : State) (x : UpdSession), s.mcAnswers b = true → s.upd.session = some x → x.binding = b →
    (answers (.passComponentTable b true [1, 2]) s fun t => t.upd = { s.upd with table := setIns (setIns s.upd.table 1) 2 } ∧ t.out = s.out ++ [.mctp b 1 0x513 [0, 0, 0]]) ∧
    (∀ (n : Nat), x.stage = 0 → s.upd.table.contains 1 = true → answers (.updateComponent b 1 n true) s fun t =>
      t.upd = { s.upd with recv := [], session := some { x with stage := 1, comp := 1, size := n, request := none } } ∧ t.out = s.out ++ [.mctp b 1 0x514 [0, 0, 0]]) ∧
    (∀ (n : Nat), x.stage = 0 → s.upd.table = [2] → answers (.updateComponent b 2 n true) s fun t => (∃ y, t.upd.session = some y ∧ y.stage = 2 ∧ y.comp = 2) ∧
      t.upd.flash = s.upd.copyFirmware.flash ∧ t.upd.active = s.upd.active) ∧
    (∀ (c n : Nat), c ∈ [1, 2] → x.stage ≠ 0 → exec (.updateComponent b c n true) s = .next (s.emit (.mctp b 1 0x514 [0x84]))) ∧
    (1 ≤ x.stage → answers (.cancelUpdateComponent b true) s fun t => t.upd = { s.upd with recv := [], session := some { x with stage := 0, comp := 0, request := none } } ∧
      t.out = s.out ++ [.mctp b 1 0x51C [0]]) ∧
    (answers (.cancelUpdate b true) s fun t => t.upd = { s.upd with session := none, recv := [], table := [], persisted := s.upd.bitmap })) ∧
  (∀ (s : State) (x : UpdSession), s.upd.session = some x → s.mcAnswers x.binding = true →
    (∀ r, x.request = none → s.upd.nextRequest x = some r → answers .requestFirmwareData s fun t => t.upd = { s.upd with session := some { x with request := some r } } ∧
      t.out = s.out ++ [.mctp x.binding 1 0x515 (leBytes 4 r.1 ++ leBytes 4 r.2)]) ∧
    (x.stage = 1 → s.upd.recv.length < hdrBytes → s.upd.nextRequest x = some (s.upd.recv.length, min x.maxXfer (hdrBytes - s.upd.recv.length))) ∧
    (∀ (r : Nat × Nat) (d : List Byte), x.request = some r → d.length ≠ r.2 → answers (.firmwareDataReceive x.binding true d) s fun t => t.upd = { s.upd with session := some { x with request := none } }) ∧
    (∀ (r : Nat × Nat) (d : List Byte), x.request = some r → d.length = r.2 → x.stage = 1 → (s.upd.recv ++ d).length < hdrBytes → answers (.firmwareDataReceive x.binding true d) s fun t =>
      t.upd = { s.upd with recv := s.upd.recv ++ d, session := some { x with request := none } }) ∧
    (∀ (r : Nat × Nat) (d : List Byte), x.request = some r → d.length = r.2 → x.stage = 1 → hdrBytes ≤ (s.upd.recv ++ d).length → answers (.firmwareDataReceive x.binding true d) s fun t =>
      (s.upd.hdrOk (s.upd.recv ++ d) = false → t.upd.flash = s.upd.flash ∧ (∃ y, t.upd.session = some y ∧ y.stage = 0) ∧ t.out = s.out ++ [.mctp x.binding 1 0x516 [1]]) ∧
      (s.upd.hdrOk (s.upd.recv ++ d) = true → t.upd.flash = (s.upd.write (bankBase s.upd.target) (s.upd.recv ++ d)).flash ∧
        t.upd.header = s.upd.recv ++ d ∧ t.upd.applied = setDel s.upd.applied s.upd.target ∧ t.upd.active = s.upd.active)) ∧
    (x.stage = 3 → x.comp = 1 → s.upd.bodyOk s.upd.target = true → answers .verifyComplete s fun t => t.upd.applied = setIns s.upd.applied s.upd.target ∧
      t.upd.flash = s.upd.flash ∧ t.out = s.out ++ [.mctp x.binding 1 0x517 [0], .mctp x.binding 1 0x518 [0]]) ∧
    (x.stage = 3 → x.comp = 1 → s.upd.bodyOk s.upd.target = false → answers .verifyComplete s fun t => t.upd.applied = setDel s.upd.applied s.upd.target ∧
      t.upd.flash = (s.upd.write (bankBase s.upd.target) (zeroBytes hdrBytes)).flash ∧ t.upd.active = s.upd.active ∧ t.out = s.out ++ [.mctp x.binding 1 0x517 [1]]))

/-- Activation and trial (R476, R477, R479): an arm is accepted where the other bank holds an applied image, nothing is armed, the group, the time and the
lock allow it, and is refused with its reason otherwise; an early cancel takes it away; at its time the other bank becomes active, on trial;
confirming ends the trial and raises the anti-rollback counter; 24 h without it return to the other bank, the trial bank emptied. In part the model's
choices: log entries 75, 76 and 92. -/
def Obligations.Activation : Prop :=
  (∀ (b : Nat) (sc : Bool) (s : State) (x : UpdSession), s.mcAnswers b = true → s.upd.session = some x → x.binding = b → x.stage = 0 →
    s.upd.applied.contains s.upd.target = true → s.upd.armed = none → (sc = true → s.needsReset s.upd.target = false) →
    answers (.activateFirmware b sc true) s fun t => t.upd = { s.upd with session := none, armed := some ⟨if sc then 0 else 3, 0⟩ } ∧ t.rf R.CFG_ACT_STATUS 0 4 = actArmed ∧
      t.out = s.out ++ [.mctp b 1 0x51A [0, 0, 0]]) ∧
  (∀ (w : Nat) (s : State), s.armCode (fld w 2 2) (bit w 4) (fld w 16 16) (fld w 64 64) = actArmed →
    answers (.activationArm w) s fun t => t.upd = { s.upd with armed := some ⟨fld w 2 2, fld w 64 64⟩ } ∧ t.rf R.CFG_ACT_STATUS 0 4 = actArmed ∧ t.mem = s.mem) ∧
  (∀ (w c : Nat) (s : State), s.armCode (fld w 2 2) (bit w 4) (fld w 16 16) (fld w 64 64) = c → c ≠ actArmed → c < 16 →
    answers (.activationArm w) s fun t => t.upd = s.upd ∧ t.rf R.CFG_ACT_STATUS 0 4 = c ∧ t.mem = s.mem) ∧
  (∀ (mode g x : Nat) (al : Bool) (s : State),
    (s.upd.applied.contains s.upd.target = false → s.armCode mode al g x = actNoImage) ∧
    (mode < 3 → s.upd.applied.contains s.upd.target = true → s.upd.armed = none → (g = 0 ∨ s.upd.conf.groups.contains g = true) →
      (mode = 1 → x < s.timeNs + 10 ^ 7 → s.armCode mode al g x = actTooSoon) ∧ (mode = 2 → s.epoch + 2 ≤ x → s.rf R.TLN_STATUS 0 2 ≠ 2 → s.armCode mode al g x = actNotLocked) ∧
      (mode = 0 → s.needsReset s.upd.target = true → al = false → s.armCode mode al g x = actResetRequired) ∧ (mode = 0 → al = true → s.armCode mode al g x = actArmed))) ∧
  (∀ (w : Nat) (s : State) (a : Armed), s.upd.armed = some a →
    (a.mode = 1 → s.timeNs + 10 ^ 6 ≤ a.when' → answers (.activationCancel w) s fun t => t.upd = { s.upd with armed := none } ∧ t.rf R.CFG_ACT_STATUS 0 4 = actNone) ∧
    (a.mode = 0 → answers (.activationCancel w) s fun t => t.upd = s.upd)) ∧
  (∀ (straps : Nat) (s : State) (a : Armed), s.upd.armed = some a → s.dev = .run → a.mode = 1 →
    (s.timeNs < a.when' → exec (.firmwareActivation straps) s = .next s) ∧
    (a.when' ≤ s.timeNs → s.needsReset s.upd.target = false → answers (.firmwareActivation straps) s fun t => t.upd.active = s.upd.target ∧ t.upd.trial = true ∧
      t.upd.trialBoots = 1 ∧ t.upd.armed = none ∧ t.upd.restarting = true ∧ (∀ k, k < 16 → t.coreState k = 2) ∧ t.mem = s.mem)) ∧
  (∀ (s : State), (s.upd.trial = true → answers .trialConfirm s fun t => t.upd.trial = false ∧ t.upd.rollback = max s.upd.rollback (hdrSvn (s.upd.hdr s.upd.active)) ∧
      t.upd.active = s.upd.active ∧ t.upd.flash = s.upd.flash) ∧
    (s.upd.trial = false → exec .trialConfirm s = .next s)) ∧
  (∀ (straps : Nat) (s : State), s.upd.trial = true → s.dev = .run →
    (s.upd.trialMs < trialLimit → exec (.trialTimeout straps) s = .next s) ∧
    (trialLimit ≤ s.upd.trialMs → s.needsReset s.upd.target = false → answers (.trialTimeout straps) s fun t => t.upd.active = s.upd.target ∧ t.upd.trial = false ∧
      t.upd.flash = (s.upd.write (bankBase s.upd.active) (zeroBytes hdrBytes)).flash ∧ t.rf R.CFG_STATUS 6 1 = 1))

/-- (1) Power-on, resets and their causes (R488 to R492, R494 to R496): power-on samples the straps and runs the boot ROM; firmware readies the clocks,
the cores and the PCIe link; a device reset, a brown-out and an input collapse lose what lies on the main side and keep what lies in the flash; a die
under warm reset loses its octets or its array and comes back with stores of zeros and cells IDLE; and the device keeps the waiting commands
throughout. In part the model's choices: log entries 8, 76 and 84. (2) Power states of cell arrays and of the device (R33 to R36, R454): a quiet array
clock-gates with its PLLs locked, an idle one power-gates with them stopped and its stores kept, a woken one runs again; the device enters and leaves
retention standby and meringue. In part the model's choices: log entry 82. -/
def Obligations.PowerAndResets : Prop :=
  ((∀ (x c : Nat) (puf : Bool) (s : State), s.dev = .off → bit c 5 = true → answers (.powerOn x c puf) s fun t => (t.dev = .boot ∨ t.dev = .recovery) ∧
     (t.dev = .boot ↔ t.upd.runBank ≠ none) ∧ t.rd R.CFG_STRAPS = x % 16 ∧ t.clk.puf = puf ∧ t.rf R.MGT_STATUS 0 2 = 1 ∧ t.mem.bytes = [] ∧ t.ring.jobs = [] ∧ t.pending = s.pending) ∧
   (∀ (x c : Nat) (puf : Bool) (s : State), s.dev ≠ .off → exec (.powerOn x c puf) s = .next s) ∧
   (∀ (w x b : Nat) (f : Bool) (s : State), s.dev = .boot → s.upd.runBank = some b → w ≤ 4 → 1 ≤ x → x ≤ 6 → s.pcie.perst = false → s.rf R.CLK_STATUS 0 1 = 1 →
     s.stor.recorded = [] → s.upd.conf.octets = none → s.upd.toConvert = [] → answers (.firmwareReady w x f) s fun t => t.dev = .run ∧ (∀ k, k < 16 → t.coreState k = 1) ∧
       t.clk.linksUp = true ∧ t.pcie.linkUp = true ∧ t.pcie.negWidth = w ∧ t.rf R.CTL_ADMIN_STATUS 2 1 = 1 ∧ t.rf R.FWC_STATUS 0 2 = 1 ∧ t.rd R.FWC_FW_FEAT = 0x3FF ∧
       t.kceState = (if s.clk.puf then 0 else 1)) ∧
   (∀ (w x : Nat) (f : Bool) (s : State), s.dev ≠ .boot → exec (.firmwareReady w x f) s = .next s) ∧
   (∀ (x : Nat) (s : State), s.mgt.powerCmd = 4 → s.dev = .run → s.clk.tripped = false → s.upd.armed = none → s.upd.trial = false → answers (.deviceReset x) s fun t => (t.dev = .boot ∨ t.dev = .recovery) ∧
     t.rf R.RST_CAUSE 0 3 = 2 ∧ t.rd R.CFG_STRAPS = x % 16 ∧ t.mem.bytes = [] ∧ t.ring.jobs = [] ∧ t.tmt.qps = [] ∧ t.mgt.powerCmd = 0 ∧ t.upd.flash = s.upd.flash) ∧
   (∀ (s : State), s.dev = .run → s.clk.brownOut = false → answers .brownOut s fun t => t.dev = .railsOff ∧ t.clk.brownOut = true ∧ t.rf R.PWR_STATUS 0 1 = 1 ∧ t.mem.bytes = [] ∧
     t.ring.jobs = [] ∧ t.upd = s.upd ∧ t.pending = s.pending) ∧
   (∀ (x : Nat) (s : State), s.clk.brownOut = true → s.clk.tripped = false → answers (.brownOutRecovery x) s fun t => (t.dev = .boot ∨ t.dev = .recovery) ∧ t.clk.brownOut = false ∧
     t.rf R.RST_CAUSE 0 3 = 1) ∧
   (∀ (x : Nat) (s : State), s.clk.brownOut = false → exec (.brownOutRecovery x) s = .next s) ∧
   (∀ (s : State), s.dev ≠ .off → answers .inputCollapse s fun t => t.dev = .off ∧ t.mem.bytes = [] ∧ t.ring.jobs = [] ∧ t.upd.flash = s.upd.flash ∧ t.upd.active = s.upd.active ∧
     t.stor.drives = s.stor.drives ∧ t.pending = s.pending) ∧
   (∀ (w d : Nat) (s : State), d = fld w 0 5 → bit w 5 = true → s.dev = .run → 13 ≤ d → d ≤ 16 → s.clk.dieResets = [] → s.tmt.qps = [] → (s.die (d - 13)).queues = [] →
     (∀ i, i < 8 → s.rf (R.PRT_OCTET_STATUS (8 * (d - 13) + i)) 0 3 = 0 ∧ s.linkOf (8 * (d - 13) + i) = none) →
     answers (.dieWarmReset w) s fun t => t.clk.dieResets = [d] ∧ t.rf R.RST_DIE 6 1 = 1 ∧ t.rf R.RST_DIE 0 5 = d ∧ t.rf R.CLK_PLL_LOCK (24 + (d - 13)) 1 = 0 ∧ t.mem = s.mem ∧
       answers (.dieWarmResetDone d) t fun u => u.clk.dieResets = [] ∧ u.rf R.RST_DIE 6 1 = 0 ∧ u.rf R.CLK_PLL_LOCK (24 + (d - 13)) 1 = 1 ∧ u.mem = s.mem) ∧
   (∀ (w d : Nat) (s : State), d = fld w 0 5 → bit w 5 = true → s.dev = .run → 1 ≤ d → d ≤ 12 → s.clk.dieResets = [] → s.pipes.tab = [] → s.ckp.jobs = [] → s.mem.guard = [] → s.pcie.landings = [] →
     answers (.dieWarmReset w) s fun t => t.clk.dieResets = [d] ∧ t.rf (R.MEM_STATUS (d - 1)) 0 2 = 2 ∧ t.rf R.CLK_PLL_LOCK (d - 1) 1 = 0 ∧ t.mem.bytes = s.mem.bytes ∧
       answers (.dieWarmResetDone d) t fun u => u.clk.dieResets = [] ∧ (∀ i, i < 128 → u.cellState (128 * (d - 1) + i) = csIdle ∧ u.cellOwner (128 * (d - 1) + i) = 0) ∧
         (∀ i a, i < 128 → a < 0x200000 → Mem.get u.mem.bytes (cellDpa (128 * (d - 1) + i) a) = 0) ∧ u.rf (R.MEM_STATUS (d - 1)) 0 2 = 1 ∧ u.rf R.CLK_PLL_LOCK (d - 1) 1 = 1 ∧ u.ctrVal (R.LAT_HUB_FRAMES (d - 1)) = 0) ∧
   (∀ (w : Nat) (s : State), (bit w 5 = false ∨ fld w 0 5 = 0 ∨ 16 < fld w 0 5 ∨ s.dev ≠ .run) → answers (.dieWarmReset w) s fun t =>
     t.rf R.RST_DIE 0 5 = fld w 0 5 ∧ t.clk = s.clk ∧ t.mem = s.mem ∧ t.ring = s.ring)) ∧
  ((∀ (h : Nat) (s : State), h < 12 → s.hubQuiet h = true → s.hubAwake h = true →
     answers (.cellArrayClockGate h) s fun t => Tbl.get t.hubPow h .run = .clockGated ∧ t.regs = s.regs ∧ t.mem = s.mem ∧ t.seqs = s.seqs) ∧
   (∀ (h : Nat) (s : State), h < 12 → s.hubIdle h = true → (Tbl.get s.hubPow h .run = .run ∨ Tbl.get s.hubPow h .run = .clockGated) →
     answers (.cellArrayPowerGate h) s fun t =>
       Tbl.get t.hubPow h .run = .powerGated ∧ t.rf R.CLK_PLL_LOCK h 1 = 0 ∧ t.mem = s.mem ∧ t.seqs = s.seqs) ∧
   (∀ (h : Nat) (s : State), Tbl.get s.hubPow h .run = .waking →
     answers (.unitWakeDone h) s fun t => Tbl.get t.hubPow h .run = .run ∧ t.rf R.CLK_PLL_LOCK h 1 = 1 ∧ t.mem = s.mem ∧ t.seqs = s.seqs) ∧
   (∀ (s : State), s.mgt.powerCmd = 2 → s.dev = .run →
     answers .retentionStandbyEntry s fun t => t.dev = .retention ∧ t.mgt.powerCmd = 0 ∧ t.pcie.linkUp = false ∧ t.mem.tags = []) ∧
   (∀ (w v : Nat) (f : Bool) (s : State), s.dev = .retention → (s.mgt.powerCmd = 1 ∨ s.mgt.powerCmd = 5) →
     answers (.retentionStandbyExit w v f) s fun t => t.dev = .run ∧ t.mgt.powerCmd = 0) ∧
   (∀ (s : State), s.mgt.powerCmd = 3 → s.dev ≠ .off → s.dev ≠ .meringue →
     answers .meringueEntry s fun t => t.dev = .meringue ∧ t.mgt.powerCmd = 0 ∧ t.mem = MemSt.empty ∧ t.rd R.CLK_PLL_LOCK = 0) ∧
   (∀ (s : State), s.dev = .meringue →
     answers (.meringueExit 0) s fun t => (t.dev = .boot ∨ t.dev = .recovery) ∧ t.mgt.powerCmd = 0 ∧ t.mgt.fastClock = true))

/-- Clocks, crossings, DVFS and the limiter (R77, R480 to R483, R486, R501): a lost always-on crystal stops the main-side clocks and takes the time base
out of LOCKED; a lost PLL shows; a stall at a crossing is counted and ends what waits there; pulses and edges of the time pins; a requested point is
taken at a frame boundary 20 µs on or more, a loaded image's own point whatever is asked, no higher than the limiter holds it; above a limit every
working hub is held one step lower and after 100 ms below it one higher. In part the model's choices: log entries 85, 87, 171, 173 and 174. -/
def Obligations.ClocksAndLimits : Prop :=
  (∀ (s : State), s.dev = .run → s.rf R.CLK_STATUS 5 1 = 1 → answers .xtalAonLoss s fun t => t.rf R.CLK_STATUS 5 1 = 0 ∧ t.rf R.CLK_STATUS 6 1 = 1 ∧ t.rd R.CLK_PLL_LOCK = 0 ∧
    t.clk.aonStopped = true ∧ t.rf R.TLN_STATUS 0 2 ≠ 2 ∧ t.mem = s.mem) ∧
  (∀ (s : State), (s.dev = .off ∨ s.dev = .meringue ∨ s.rf R.CLK_STATUS 5 1 = 0) → exec .xtalAonLoss s = .next s) ∧
  (∀ (n : Nat) (s : State), n < 31 → answers (.pllLockLoss n) s fun t => t.rf R.CLK_PLL_LOCK n 1 = 0 ∧ (∀ m, m ≠ n → t.rf R.CLK_PLL_LOCK m 1 = s.rf R.CLK_PLL_LOCK m 1) ∧
    (∀ a, a ≠ R.CLK_PLL_LOCK → t.rd a = s.rd a) ∧ t.mem = s.mem ∧
    (s.rf R.CLK_PLL_LOCK n 1 = 1 → t.clockStops n = true)) ∧
  (∀ (d a b : Nat) (s : State), d ≤ 16 → s.dev = .run → a < 3 → answers (.crossingTimeout d 4 a b) s fun t => t.rf R.CLK_XING_STALL d 1 = 1 ∧
    t.ctrVal R.CLK_STALLS = min (s.ctrVal R.CLK_STALLS + 1) 0xFFFFFFFF ∧ t.mem = s.mem ∧ t.out = s.out ++ [.mctp a 0x7E 1 [0, 0]]) ∧
  (∀ (d a b : Nat) (s : State), d ≤ 16 → s.dev = .run → a < 1536 → s.cellState a ≠ csFaulted → (s.seq a).pipe = none → answers (.crossingTimeout d 0 a b) s fun t =>
    t.cellState a = csFaulted ∧ t.rd (R.LAT_CELL_MCA a) = mcCrossing + 256 ∧ t.rd (R.LAT_CELL_MCA_ADDR a) = b % 2 ^ 64 ∧ (t.seq a).wq = (s.seq a).wq.filter (fun w => w.2.1 ≠ b) ∧ t.mem = s.mem) ∧
  (∀ (d a b e w n : Nat) (rest : List HostReq) (s : State), d ≤ 16 → s.dev = .run → s.pcie.held = .read e w n :: rest → answers (.crossingTimeout d 3 a b) s fun t =>
    t.pcie.held = rest ∧ .hostCpl 2 [] ∈ t.out ∧ t.mem = s.mem) ∧
  (∀ (a b : Nat) (s : State), a < 12 → b < 4 → s.dev = .run → answers (.crossingTimeout (spineTo a b + 1) 5 a b) s fun t => 4 * a + b ∈ t.clk.xings ∧
    (∀ g ∈ t.lat.gates, ¬(g.hub = a ∧ g.link = b ∧ g.inb = true)) ∧ (∀ x ∈ s.gateCells a b, t.cellState x.1 = csFaulted)) ∧
  (∀ (d sr tag : Nat) (s : State) (j : Job), d ≤ 16 → s.dev = .run → s.job sr tag = some j → ¬(0x30 ≤ dOpcode j.desc ∧ dOpcode j.desc ≤ 0x36) → s.allLanded sr tag →
    answers (.crossingTimeout d 1 sr tag) s fun t => ∃ c ∈ t.ring.unwritten, c.sr = sr ∧ c.tag = tag ∧ c.status = stClockStall ∧ c.detail = d) ∧
  (∀ (d k : Nat) (s : State), d ≤ 16 → k < 16 → s.dev = .run → answers (.crossingTimeout d 2 k 0) s fun t =>
    (t.seq (1536 + k)).pend = (s.seq (1536 + k)).pend ++ [(0x11, d)] ∧ t.mem = s.mem) ∧
  (∀ (off : Int) (s : State), s.dev = .run → (s.rf R.TLN_CTRL 0 1 = 0 ∨ s.rf R.TLN_CTRL 2 2 ≠ 1) → answers (.timePpsEdge off) s fun t => t.rf R.CLK_STATUS 8 1 = 1 ∧ t.tln = s.tln ∧
    t.timeNs = s.timeNs ∧ t.clk.ppsAt = s.timeNs) ∧
  (∀ (off : Int) (s : State), s.dev = .run → s.rf R.TLN_CTRL 0 1 = 1 → s.rf R.TLN_CTRL 2 2 = 1 → answers (.timePpsEdge off) s fun t => t.clk.ppsAt = t.timeNs ∧
    t.timeNs = ((s.wf R.CLK_STATUS 8 1 1).steer off).timeNs ∧ t.tln = ((s.wf R.CLK_STATUS 8 1 1).steer off).tln ∧ t.regs = ((s.wf R.CLK_STATUS 8 1 1).steer off).regs ∧ t.mem = s.mem) ∧
  (∀ (s : State), (s.rf R.TLN_CTRL 4 1 = 1 → s.timeNs / 10 ^ 9 ≠ s.clk.ppsSec → answers .timePpsOutPulse s fun t => t.out = s.out ++ [.pin pinPps true, .pin pinPps false] ∧ t.clk.ppsSec = s.timeNs / 10 ^ 9 ∧ t.regs = s.regs ∧ t.mem = s.mem) ∧
    ((s.rf R.TLN_CTRL 4 1 = 0 ∨ s.timeNs / 10 ^ 9 = s.clk.ppsSec) → exec .timePpsOutPulse s = .next s)) ∧
  (∀ (p : Nat) (s : State), p < 4 →
    ((∀ i, i < 8 → s.rf (R.PRT_OCTET_STATUS (8 * p + i)) 0 3 = 0) → Tbl.get s.clk.octAt p 0 + 50000 ≤ s.timeNs → answers (.portDieCoreGate p) s fun t => p ∈ t.clk.gated ∧ t.regs = s.regs ∧ t.mem = s.mem) ∧
    (s.timeNs < Tbl.get s.clk.octAt p 0 + 50000 → exec (.portDieCoreGate p) s = .next s) ∧
    (∀ i, i < 8 → s.rf (R.PRT_OCTET_STATUS (8 * p + i)) 0 3 ≠ 0 → exec (.portDieCoreGate p) s = .next s)) ∧
  (∀ (h v : Nat) (s : State), h < 12 → answers (.dvfsRequest h v) s fun t => t.rf (R.LAT_HUB_CTRL h) 0 3 = min (v % 8) 4 ∧ t.rf (R.LAT_HUB_CTRL h) 4 3 = s.rf (R.LAT_HUB_CTRL h) 4 3 ∧
    (∀ a, a ≠ R.LAT_HUB_CTRL h → t.rd a = s.rd a) ∧ t.mem = s.mem ∧ exec (.dvfsSwitch h) t = .next t) ∧
  (∀ (h : Nat) (s : State), h < 12 → (∀ x, Tbl.find s.clk.dvfsAt h = some x → x + 20000 ≤ s.timeNs) → answers (.dvfsSwitch h) s fun t =>
    (s.hubPoint h = none → t.rf (R.LAT_HUB_CTRL h) 4 3 = min (s.rf (R.LAT_HUB_CTRL h) 0 3) (Tbl.get s.phys.hold h 4)) ∧
    (∀ q, s.hubPoint h = some q → q < 8 → t.rf (R.LAT_HUB_CTRL h) 4 3 = min q (Tbl.get s.phys.hold h 4)) ∧
    t.rf (R.LAT_HUB_CTRL h) 0 3 = s.rf (R.LAT_HUB_CTRL h) 0 3 ∧ (∀ a, a ≠ R.LAT_HUB_CTRL h → t.rd a = s.rd a)) ∧
  (∀ (s : State), s.dev = .run → (s.hot = true ∨ s.overPower = true) → s.phys.nextStep ≤ s.timeNs → answers .throttleStep s fun t =>
    (∀ h, h < 12 → s.hubWorks h = true → Tbl.find t.phys.hold h = some (s.dvfsTarget h - 1)) ∧ (∀ h, h < 12 → s.hubWorks h = false → Tbl.find t.phys.hold h = Tbl.find s.phys.hold h) ∧
      t.phys.coolMs = 0 ∧ t.phys.nextStep = s.timeNs + 1000000 ∧ t.mem = s.mem) ∧
  (∀ (s : State), s.hot = false → s.overPower = false → exec .throttleStep s = .next s) ∧
  (∀ (s : State), s.timeNs < s.phys.nextStep → exec .throttleStep s = .next s) ∧
  (∀ (s : State) (h v : Nat), s.dev = .run → 100 ≤ s.phys.coolMs → s.cool = true → s.overPower = false → Tbl.find s.phys.hold h = some v → answers .throttleRaise s fun t =>
    (v + 1 < s.dvfsWanted h → Tbl.find t.phys.hold h = some (v + 1)) ∧ (s.phys.hold = [(h, v)] → s.dvfsWanted h ≤ v + 1 → Tbl.find t.phys.hold h = none) ∧
      t.phys.coolMs = 0 ∧ t.mem = s.mem) ∧
  (∀ (s : State), s.phys.coolMs < 100 → exec .throttleRaise s = .next s)
end

