-- ==== Sys2Proof/Laws/Tables.lean ====
section
/-! SUPPORT. Laws of sparse tables, byte memories and sets of numbers (Machine/Bits.lean): reading after writing, the frame of a write, and the
canonical form that every operation keeps. -/

namespace Sys2Proof.Machine

variable {α : Type}

@[simp] theorem Tbl.find_nil (k : Nat) : Tbl.find ([] : Tbl α) k = none := rfl

theorem Tbl.find_cons (j k : Nat) (v : α) (t : Tbl α) :
    Tbl.find ((j, v) :: t) k = if j = k then some v else Tbl.find t k := rfl

@[simp] theorem Tbl.find_put_same (t : Tbl α) (k : Nat) (v : α) : Tbl.find (Tbl.put t k v) k = some v := by
  induction t with
  | nil => simp [Tbl.put, Tbl.find_cons]
  | cons e r ih =>
    obtain ⟨j, w⟩ := e
    simp only [Tbl.put]
    split
    · simp [Tbl.find_cons]
    · split
      · simp [Tbl.find_cons]
      · rename_i h; simp [Tbl.find_cons, Ne.symm h, ih]

theorem Tbl.find_put_ne (t : Tbl α) {k a : Nat} (v : α) (h : a ≠ k) : Tbl.find (Tbl.put t k v) a = Tbl.find t a := by
  induction t with
  | nil => simp [Tbl.put, Tbl.find_cons, Ne.symm h]
  | cons e r ih =>
    obtain ⟨j, w⟩ := e
    simp only [Tbl.put]
    split
    · simp [Tbl.find_cons, Ne.symm h]
    · split
      · rename_i e; subst e; simp [Tbl.find_cons, Ne.symm h]
      · simp [Tbl.find_cons, ih]

theorem Tbl.del_cons (j k : Nat) (w : α) (t : Tbl α) :
    Tbl.del ((j, w) :: t) k = if j = k then Tbl.del t k else (j, w) :: Tbl.del t k := by
  by_cases h : j = k <;> simp [Tbl.del, h]

@[simp] theorem Tbl.find_del_same (t : Tbl α) (k : Nat) : Tbl.find (Tbl.del t k) k = none := by
  induction t with
  | nil => rfl
  | cons e r ih =>
    obtain ⟨j, w⟩ := e
    rw [Tbl.del_cons]; split
    · exact ih
    · rename_i h; simp [Tbl.find_cons, h, ih]

theorem Tbl.find_del_ne (t : Tbl α) {k a : Nat} (h : a ≠ k) : Tbl.find (Tbl.del t k) a = Tbl.find t a := by
  induction t with
  | nil => rfl
  | cons e r ih =>
    obtain ⟨j, w⟩ := e
    rw [Tbl.del_cons]; split
    · rename_i e; subst e; simp [Tbl.find_cons, Ne.symm h, ih]
    · simp [Tbl.find_cons, ih]

/-- A table that leaves out its default reads back what was set. -/
theorem Tbl.get_set_same [DecidableEq α] (t : Tbl α) (k : Nat) (v d : α) : Tbl.get (Tbl.set t k v d) k d = v := by
  unfold Tbl.get Tbl.set
  split
  · rename_i h; subst h; simp
  · simp

theorem Tbl.get_set_ne [DecidableEq α] (t : Tbl α) {k a : Nat} (v d e : α) (h : a ≠ k) :
    Tbl.get (Tbl.set t k v d) a e = Tbl.get t a e := by
  unfold Tbl.get Tbl.set
  split
  · rw [Tbl.find_del_ne t h]
  · rw [Tbl.find_put_ne t v h]

/-! ## The canonical form -/

theorem risingFrom_mono {t : Tbl α} {a b : Nat} (h : risingFrom b t = true) (hab : a ≤ b) : risingFrom a t = true := by
  cases t with
  | nil => rfl
  | cons e r => simp only [risingFrom, Bool.and_eq_true, decide_eq_true_eq] at h ⊢; exact ⟨by omega, h.2⟩

theorem risingFrom_put {t : Tbl α} {b k : Nat} (v : α) (h : risingFrom b t = true) (hk : b ≤ k) :
    risingFrom b (Tbl.put t k v) = true := by
  induction t generalizing b with
  | nil => simp [Tbl.put, risingFrom, hk]
  | cons e r ih =>
    obtain ⟨j, w⟩ := e
    simp only [risingFrom, Bool.and_eq_true, decide_eq_true_eq] at h
    simp only [Tbl.put]
    split
    · simp only [risingFrom, Bool.and_eq_true, decide_eq_true_eq]; exact ⟨hk, by omega, h.2⟩
    · split
      · rename_i e; subst e; simp only [risingFrom, Bool.and_eq_true, decide_eq_true_eq]; exact h
      · simp only [risingFrom, Bool.and_eq_true, decide_eq_true_eq]; exact ⟨h.1, ih h.2 (by omega)⟩

theorem risingFrom_filter {t : Tbl α} {b : Nat} (p : Nat × α → Bool) (h : risingFrom b t = true) :
    risingFrom b (List.filter p t) = true := by
  induction t generalizing b with
  | nil => rfl
  | cons e r ih =>
    obtain ⟨j, w⟩ := e
    simp only [risingFrom, Bool.and_eq_true, decide_eq_true_eq] at h
    by_cases hp : p (j, w) = true
    · simp only [List.filter_cons, hp, if_true, risingFrom, Bool.and_eq_true, decide_eq_true_eq]; exact ⟨h.1, ih h.2⟩
    · simp only [List.filter_cons, hp]; exact risingFrom_mono (ih h.2) (by omega)

theorem Tbl.wf_put {t : Tbl α} (k : Nat) (v : α) (h : Tbl.wf t = true) : Tbl.wf (Tbl.put t k v) = true :=
  risingFrom_put v h (Nat.zero_le k)

theorem Tbl.wf_del {t : Tbl α} (k : Nat) (h : Tbl.wf t = true) : Tbl.wf (Tbl.del t k) = true := risingFrom_filter _ h

theorem Tbl.wf_set [DecidableEq α] {t : Tbl α} (k : Nat) (v d : α) (h : Tbl.wf t = true) : Tbl.wf (Tbl.set t k v d) = true := by
  unfold Tbl.set; split
  · exact Tbl.wf_del k h
  · exact Tbl.wf_put k v h

/-! ## Byte memories -/

@[simp] theorem Mem.get_set_same (m : Mem) (a : Nat) (v : Byte) : Mem.get (Mem.set m a v) a = v := Tbl.get_set_same m a v _

theorem Mem.get_set_ne (m : Mem) {a b : Nat} (v : Byte) (h : b ≠ a) : Mem.get (Mem.set m a v) b = Mem.get m b :=
  Tbl.get_set_ne m v _ _ h

/-- A write leaves every byte outside it alone. -/
theorem Mem.get_write_out (m : Mem) (a : Nat) (bs : List Byte) {b : Nat} (h : b < a ∨ a + bs.length ≤ b) :
    Mem.get (Mem.write m a bs) b = Mem.get m b := by
  induction bs generalizing m a with
  | nil => rfl
  | cons x r ih =>
    simp only [List.length_cons] at h
    rw [Mem.write, ih _ _ (by omega), Mem.get_set_ne _ _ (by omega)]

/-- A byte inside a write reads back as written. -/
theorem Mem.get_write_in (m : Mem) (a : Nat) (bs : List Byte) {i : Nat} (h : i < bs.length) :
    Mem.get (Mem.write m a bs) (a + i) = bs[i] := by
  induction bs generalizing m a i with
  | nil => simp at h
  | cons x r ih =>
    cases i with
    | zero =>
      show Mem.get (Mem.write (Mem.set m a x) (a + 1) r) a = x
      rw [Mem.get_write_out _ _ _ (by omega), Mem.get_set_same]
    | succ i =>
      have := ih (Mem.set m a x) (a + 1) (by simpa using h)
      rw [Mem.write, show a + (i + 1) = a + 1 + i by omega, this]; rfl

theorem all_put {t : Tbl α} {p : Nat × α → Bool} (k : Nat) (v : α) (h : List.all t p = true) (hv : p (k, v) = true) :
    List.all (Tbl.put t k v) p = true := by
  induction t with
  | nil => simp [Tbl.put, hv]
  | cons e r ih =>
    obtain ⟨j, w⟩ := e
    simp only [List.all_cons, Bool.and_eq_true] at h
    simp only [Tbl.put]
    split
    · simp [hv, h.1, h.2]
    · split
      · simp [hv, h.2]
      · simp [h.1, ih h.2]

theorem all_filter {β : Type} {l : List β} {p q : β → Bool} (h : List.all l p = true) : List.all (List.filter q l) p = true := by
  simp only [List.all_eq_true] at h ⊢
  intro x hx; exact h x (List.mem_filter.1 hx).1

theorem Mem.wf_set {m : Mem} (a : Nat) (v : Byte) (h : Mem.wf m = true) : Mem.wf (Mem.set m a v) = true := by
  simp only [Mem.wf, Bool.and_eq_true] at h ⊢
  refine ⟨Tbl.wf_set a v _ h.1, ?_⟩
  unfold Mem.set Tbl.set
  split
  · exact all_filter h.2
  · rename_i hv; exact all_put a v h.2 (by simpa using hv)

theorem Mem.wf_write {m : Mem} (a : Nat) (bs : List Byte) (h : Mem.wf m = true) : Mem.wf (Mem.write m a bs) = true := by
  induction bs generalizing m a with
  | nil => exact h
  | cons x r ih => exact ih _ (Mem.wf_set a x h)

theorem Mem.wf_filter {m : Mem} (p : Nat × Byte → Bool) (h : Mem.wf m = true) : Mem.wf (List.filter p m : Mem) = true := by
  simp only [Mem.wf, Bool.and_eq_true] at h ⊢
  exact ⟨risingFrom_filter p h.1, all_filter h.2⟩

theorem Mem.wf_clear {m : Mem} (a n : Nat) (h : Mem.wf m = true) : Mem.wf (Mem.clear m a n) = true := Mem.wf_filter _ h

end Sys2Proof.Machine
end

