-- ==== Sys2Proof/Laws/State.lean ====
section
/-! SUPPORT. Laws of State: what each shared update leaves alone, one lemma for a field, and what it writes. Later proofs cite these and
unfold no record update. -/

namespace Sys2Proof.Machine

/-! ## A register written (R5): every other field stands -/

@[simp] theorem State.wr_pending (s : State) (a v : Nat) : (s.wr a v).pending = s.pending := rfl
@[simp] theorem State.wr_timeNs (s : State) (a v : Nat) : (s.wr a v).timeNs = s.timeNs := rfl
@[simp] theorem State.wr_freeCtr (s : State) (a v : Nat) : (s.wr a v).freeCtr = s.freeCtr := rfl
@[simp] theorem State.wr_locks (s : State) (a v : Nat) : (s.wr a v).locks = s.locks := rfl
@[simp] theorem State.wr_badBases (s : State) (a v : Nat) : (s.wr a v).badBases = s.badBases := rfl
@[simp] theorem State.wr_ctr (s : State) (a v : Nat) : (s.wr a v).ctr = s.ctr := rfl
@[simp] theorem State.wr_ctrHost (s : State) (a v : Nat) : (s.wr a v).ctrHost = s.ctrHost := rfl
@[simp] theorem State.wr_ctrMc (s : State) (a v : Nat) : (s.wr a v).ctrMc = s.ctrMc := rfl
@[simp] theorem State.wr_mem (s : State) (a v : Nat) : (s.wr a v).mem = s.mem := rfl
@[simp] theorem State.wr_ring (s : State) (a v : Nat) : (s.wr a v).ring = s.ring := rfl
@[simp] theorem State.wr_slices (s : State) (a v : Nat) : (s.wr a v).slices = s.slices := rfl
@[simp] theorem State.wr_pasids (s : State) (a v : Nat) : (s.wr a v).pasids = s.pasids := rfl
@[simp] theorem State.wr_feus (s : State) (a v : Nat) : (s.wr a v).feus = s.feus := rfl
@[simp] theorem State.wr_feuWork (s : State) (a v : Nat) : (s.wr a v).feuWork = s.feuWork := rfl
@[simp] theorem State.wr_seqs (s : State) (a v : Nat) : (s.wr a v).seqs = s.seqs := rfl
@[simp] theorem State.wr_lat (s : State) (a v : Nat) : (s.wr a v).lat = s.lat := rfl
@[simp] theorem State.wr_pipes (s : State) (a v : Nat) : (s.wr a v).pipes = s.pipes := rfl
@[simp] theorem State.wr_chans (s : State) (a v : Nat) : (s.wr a v).chans = s.chans := rfl
@[simp] theorem State.wr_tmt (s : State) (a v : Nat) : (s.wr a v).tmt = s.tmt := rfl
@[simp] theorem State.wr_colls (s : State) (a v : Nat) : (s.wr a v).colls = s.colls := rfl
@[simp] theorem State.wr_fw (s : State) (a v : Nat) : (s.wr a v).fw = s.fw := rfl
@[simp] theorem State.wr_stor (s : State) (a v : Nat) : (s.wr a v).stor = s.stor := rfl
@[simp] theorem State.wr_ckp (s : State) (a v : Nat) : (s.wr a v).ckp = s.ckp := rfl
@[simp] theorem State.wr_tln (s : State) (a v : Nat) : (s.wr a v).tln = s.tln := rfl
@[simp] theorem State.wr_kce (s : State) (a v : Nat) : (s.wr a v).kce = s.kce := rfl
@[simp] theorem State.wr_pkt (s : State) (a v : Nat) : (s.wr a v).pkt = s.pkt := rfl
@[simp] theorem State.wr_hubPow (s : State) (a v : Nat) : (s.wr a v).hubPow = s.hubPow := rfl
@[simp] theorem State.wr_dev (s : State) (a v : Nat) : (s.wr a v).dev = s.dev := rfl
@[simp] theorem State.wr_xlt (s : State) (a v : Nat) : (s.wr a v).xlt = s.xlt := rfl
@[simp] theorem State.wr_pcie (s : State) (a v : Nat) : (s.wr a v).pcie = s.pcie := rfl
@[simp] theorem State.wr_ports (s : State) (a v : Nat) : (s.wr a v).ports = s.ports := rfl
@[simp] theorem State.wr_mgt (s : State) (a v : Nat) : (s.wr a v).mgt = s.mgt := rfl
@[simp] theorem State.wr_upd (s : State) (a v : Nat) : (s.wr a v).upd = s.upd := rfl
@[simp] theorem State.wr_clk (s : State) (a v : Nat) : (s.wr a v).clk = s.clk := rfl
@[simp] theorem State.wr_phys (s : State) (a v : Nat) : (s.wr a v).phys = s.phys := rfl
@[simp] theorem State.wr_out (s : State) (a v : Nat) : (s.wr a v).out = s.out := rfl

/-! ## A register field written -/

@[simp] theorem State.wf_pending (s : State) (a lo w v : Nat) : (s.wf a lo w v).pending = s.pending := rfl
@[simp] theorem State.wf_timeNs (s : State) (a lo w v : Nat) : (s.wf a lo w v).timeNs = s.timeNs := rfl
@[simp] theorem State.wf_freeCtr (s : State) (a lo w v : Nat) : (s.wf a lo w v).freeCtr = s.freeCtr := rfl
@[simp] theorem State.wf_locks (s : State) (a lo w v : Nat) : (s.wf a lo w v).locks = s.locks := rfl
@[simp] theorem State.wf_badBases (s : State) (a lo w v : Nat) : (s.wf a lo w v).badBases = s.badBases := rfl
@[simp] theorem State.wf_ctr (s : State) (a lo w v : Nat) : (s.wf a lo w v).ctr = s.ctr := rfl
@[simp] theorem State.wf_ctrHost (s : State) (a lo w v : Nat) : (s.wf a lo w v).ctrHost = s.ctrHost := rfl
@[simp] theorem State.wf_ctrMc (s : State) (a lo w v : Nat) : (s.wf a lo w v).ctrMc = s.ctrMc := rfl
@[simp] theorem State.wf_mem (s : State) (a lo w v : Nat) : (s.wf a lo w v).mem = s.mem := rfl
@[simp] theorem State.wf_ring (s : State) (a lo w v : Nat) : (s.wf a lo w v).ring = s.ring := rfl
@[simp] theorem State.wf_slices (s : State) (a lo w v : Nat) : (s.wf a lo w v).slices = s.slices := rfl
@[simp] theorem State.wf_pasids (s : State) (a lo w v : Nat) : (s.wf a lo w v).pasids = s.pasids := rfl
@[simp] theorem State.wf_feus (s : State) (a lo w v : Nat) : (s.wf a lo w v).feus = s.feus := rfl
@[simp] theorem State.wf_feuWork (s : State) (a lo w v : Nat) : (s.wf a lo w v).feuWork = s.feuWork := rfl
@[simp] theorem State.wf_seqs (s : State) (a lo w v : Nat) : (s.wf a lo w v).seqs = s.seqs := rfl
@[simp] theorem State.wf_lat (s : State) (a lo w v : Nat) : (s.wf a lo w v).lat = s.lat := rfl
@[simp] theorem State.wf_pipes (s : State) (a lo w v : Nat) : (s.wf a lo w v).pipes = s.pipes := rfl
@[simp] theorem State.wf_chans (s : State) (a lo w v : Nat) : (s.wf a lo w v).chans = s.chans := rfl
@[simp] theorem State.wf_tmt (s : State) (a lo w v : Nat) : (s.wf a lo w v).tmt = s.tmt := rfl
@[simp] theorem State.wf_colls (s : State) (a lo w v : Nat) : (s.wf a lo w v).colls = s.colls := rfl
@[simp] theorem State.wf_fw (s : State) (a lo w v : Nat) : (s.wf a lo w v).fw = s.fw := rfl
@[simp] theorem State.wf_stor (s : State) (a lo w v : Nat) : (s.wf a lo w v).stor = s.stor := rfl
@[simp] theorem State.wf_ckp (s : State) (a lo w v : Nat) : (s.wf a lo w v).ckp = s.ckp := rfl
@[simp] theorem State.wf_tln (s : State) (a lo w v : Nat) : (s.wf a lo w v).tln = s.tln := rfl
@[simp] theorem State.wf_kce (s : State) (a lo w v : Nat) : (s.wf a lo w v).kce = s.kce := rfl
@[simp] theorem State.wf_pkt (s : State) (a lo w v : Nat) : (s.wf a lo w v).pkt = s.pkt := rfl
@[simp] theorem State.wf_hubPow (s : State) (a lo w v : Nat) : (s.wf a lo w v).hubPow = s.hubPow := rfl
@[simp] theorem State.wf_dev (s : State) (a lo w v : Nat) : (s.wf a lo w v).dev = s.dev := rfl
@[simp] theorem State.wf_xlt (s : State) (a lo w v : Nat) : (s.wf a lo w v).xlt = s.xlt := rfl
@[simp] theorem State.wf_pcie (s : State) (a lo w v : Nat) : (s.wf a lo w v).pcie = s.pcie := rfl
@[simp] theorem State.wf_ports (s : State) (a lo w v : Nat) : (s.wf a lo w v).ports = s.ports := rfl
@[simp] theorem State.wf_mgt (s : State) (a lo w v : Nat) : (s.wf a lo w v).mgt = s.mgt := rfl
@[simp] theorem State.wf_upd (s : State) (a lo w v : Nat) : (s.wf a lo w v).upd = s.upd := rfl
@[simp] theorem State.wf_clk (s : State) (a lo w v : Nat) : (s.wf a lo w v).clk = s.clk := rfl
@[simp] theorem State.wf_phys (s : State) (a lo w v : Nat) : (s.wf a lo w v).phys = s.phys := rfl
@[simp] theorem State.wf_out (s : State) (a lo w v : Nat) : (s.wf a lo w v).out = s.out := rfl

/-! ## Something sent -/

@[simp] theorem State.emit_pending (s : State) (o : Out) : (s.emit o).pending = s.pending := rfl
@[simp] theorem State.emit_timeNs (s : State) (o : Out) : (s.emit o).timeNs = s.timeNs := rfl
@[simp] theorem State.emit_freeCtr (s : State) (o : Out) : (s.emit o).freeCtr = s.freeCtr := rfl
@[simp] theorem State.emit_regs (s : State) (o : Out) : (s.emit o).regs = s.regs := rfl
@[simp] theorem State.emit_locks (s : State) (o : Out) : (s.emit o).locks = s.locks := rfl
@[simp] theorem State.emit_badBases (s : State) (o : Out) : (s.emit o).badBases = s.badBases := rfl
@[simp] theorem State.emit_ctr (s : State) (o : Out) : (s.emit o).ctr = s.ctr := rfl
@[simp] theorem State.emit_ctrHost (s : State) (o : Out) : (s.emit o).ctrHost = s.ctrHost := rfl
@[simp] theorem State.emit_ctrMc (s : State) (o : Out) : (s.emit o).ctrMc = s.ctrMc := rfl
@[simp] theorem State.emit_mem (s : State) (o : Out) : (s.emit o).mem = s.mem := rfl
@[simp] theorem State.emit_ring (s : State) (o : Out) : (s.emit o).ring = s.ring := rfl
@[simp] theorem State.emit_slices (s : State) (o : Out) : (s.emit o).slices = s.slices := rfl
@[simp] theorem State.emit_pasids (s : State) (o : Out) : (s.emit o).pasids = s.pasids := rfl
@[simp] theorem State.emit_feus (s : State) (o : Out) : (s.emit o).feus = s.feus := rfl
@[simp] theorem State.emit_feuWork (s : State) (o : Out) : (s.emit o).feuWork = s.feuWork := rfl
@[simp] theorem State.emit_seqs (s : State) (o : Out) : (s.emit o).seqs = s.seqs := rfl
@[simp] theorem State.emit_lat (s : State) (o : Out) : (s.emit o).lat = s.lat := rfl
@[simp] theorem State.emit_pipes (s : State) (o : Out) : (s.emit o).pipes = s.pipes := rfl
@[simp] theorem State.emit_chans (s : State) (o : Out) : (s.emit o).chans = s.chans := rfl
@[simp] theorem State.emit_tmt (s : State) (o : Out) : (s.emit o).tmt = s.tmt := rfl
@[simp] theorem State.emit_colls (s : State) (o : Out) : (s.emit o).colls = s.colls := rfl
@[simp] theorem State.emit_fw (s : State) (o : Out) : (s.emit o).fw = s.fw := rfl
@[simp] theorem State.emit_stor (s : State) (o : Out) : (s.emit o).stor = s.stor := rfl
@[simp] theorem State.emit_ckp (s : State) (o : Out) : (s.emit o).ckp = s.ckp := rfl
@[simp] theorem State.emit_tln (s : State) (o : Out) : (s.emit o).tln = s.tln := rfl
@[simp] theorem State.emit_kce (s : State) (o : Out) : (s.emit o).kce = s.kce := rfl
@[simp] theorem State.emit_pkt (s : State) (o : Out) : (s.emit o).pkt = s.pkt := rfl
@[simp] theorem State.emit_hubPow (s : State) (o : Out) : (s.emit o).hubPow = s.hubPow := rfl
@[simp] theorem State.emit_dev (s : State) (o : Out) : (s.emit o).dev = s.dev := rfl
@[simp] theorem State.emit_xlt (s : State) (o : Out) : (s.emit o).xlt = s.xlt := rfl
@[simp] theorem State.emit_pcie (s : State) (o : Out) : (s.emit o).pcie = s.pcie := rfl
@[simp] theorem State.emit_ports (s : State) (o : Out) : (s.emit o).ports = s.ports := rfl
@[simp] theorem State.emit_mgt (s : State) (o : Out) : (s.emit o).mgt = s.mgt := rfl
@[simp] theorem State.emit_upd (s : State) (o : Out) : (s.emit o).upd = s.upd := rfl
@[simp] theorem State.emit_clk (s : State) (o : Out) : (s.emit o).clk = s.clk := rfl
@[simp] theorem State.emit_phys (s : State) (o : Out) : (s.emit o).phys = s.phys := rfl

/-! ## A counter cleared (R7) -/

@[simp] theorem State.ctrClear_pending (s : State) (a : Nat) : (s.ctrClear a).pending = s.pending := rfl
@[simp] theorem State.ctrClear_timeNs (s : State) (a : Nat) : (s.ctrClear a).timeNs = s.timeNs := rfl
@[simp] theorem State.ctrClear_freeCtr (s : State) (a : Nat) : (s.ctrClear a).freeCtr = s.freeCtr := rfl
@[simp] theorem State.ctrClear_regs (s : State) (a : Nat) : (s.ctrClear a).regs = s.regs := rfl
@[simp] theorem State.ctrClear_locks (s : State) (a : Nat) : (s.ctrClear a).locks = s.locks := rfl
@[simp] theorem State.ctrClear_badBases (s : State) (a : Nat) : (s.ctrClear a).badBases = s.badBases := rfl
@[simp] theorem State.ctrClear_ctrHost (s : State) (a : Nat) : (s.ctrClear a).ctrHost = s.ctrHost := rfl
@[simp] theorem State.ctrClear_ctrMc (s : State) (a : Nat) : (s.ctrClear a).ctrMc = s.ctrMc := rfl
@[simp] theorem State.ctrClear_mem (s : State) (a : Nat) : (s.ctrClear a).mem = s.mem := rfl
@[simp] theorem State.ctrClear_ring (s : State) (a : Nat) : (s.ctrClear a).ring = s.ring := rfl
@[simp] theorem State.ctrClear_slices (s : State) (a : Nat) : (s.ctrClear a).slices = s.slices := rfl
@[simp] theorem State.ctrClear_pasids (s : State) (a : Nat) : (s.ctrClear a).pasids = s.pasids := rfl
@[simp] theorem State.ctrClear_feus (s : State) (a : Nat) : (s.ctrClear a).feus = s.feus := rfl
@[simp] theorem State.ctrClear_feuWork (s : State) (a : Nat) : (s.ctrClear a).feuWork = s.feuWork := rfl
@[simp] theorem State.ctrClear_seqs (s : State) (a : Nat) : (s.ctrClear a).seqs = s.seqs := rfl
@[simp] theorem State.ctrClear_lat (s : State) (a : Nat) : (s.ctrClear a).lat = s.lat := rfl
@[simp] theorem State.ctrClear_pipes (s : State) (a : Nat) : (s.ctrClear a).pipes = s.pipes := rfl
@[simp] theorem State.ctrClear_chans (s : State) (a : Nat) : (s.ctrClear a).chans = s.chans := rfl
@[simp] theorem State.ctrClear_tmt (s : State) (a : Nat) : (s.ctrClear a).tmt = s.tmt := rfl
@[simp] theorem State.ctrClear_colls (s : State) (a : Nat) : (s.ctrClear a).colls = s.colls := rfl
@[simp] theorem State.ctrClear_fw (s : State) (a : Nat) : (s.ctrClear a).fw = s.fw := rfl
@[simp] theorem State.ctrClear_stor (s : State) (a : Nat) : (s.ctrClear a).stor = s.stor := rfl
@[simp] theorem State.ctrClear_ckp (s : State) (a : Nat) : (s.ctrClear a).ckp = s.ckp := rfl
@[simp] theorem State.ctrClear_tln (s : State) (a : Nat) : (s.ctrClear a).tln = s.tln := rfl
@[simp] theorem State.ctrClear_kce (s : State) (a : Nat) : (s.ctrClear a).kce = s.kce := rfl
@[simp] theorem State.ctrClear_pkt (s : State) (a : Nat) : (s.ctrClear a).pkt = s.pkt := rfl
@[simp] theorem State.ctrClear_hubPow (s : State) (a : Nat) : (s.ctrClear a).hubPow = s.hubPow := rfl
@[simp] theorem State.ctrClear_dev (s : State) (a : Nat) : (s.ctrClear a).dev = s.dev := rfl
@[simp] theorem State.ctrClear_xlt (s : State) (a : Nat) : (s.ctrClear a).xlt = s.xlt := rfl
@[simp] theorem State.ctrClear_pcie (s : State) (a : Nat) : (s.ctrClear a).pcie = s.pcie := rfl
@[simp] theorem State.ctrClear_ports (s : State) (a : Nat) : (s.ctrClear a).ports = s.ports := rfl
@[simp] theorem State.ctrClear_mgt (s : State) (a : Nat) : (s.ctrClear a).mgt = s.mgt := rfl
@[simp] theorem State.ctrClear_upd (s : State) (a : Nat) : (s.ctrClear a).upd = s.upd := rfl
@[simp] theorem State.ctrClear_clk (s : State) (a : Nat) : (s.ctrClear a).clk = s.clk := rfl
@[simp] theorem State.ctrClear_phys (s : State) (a : Nat) : (s.ctrClear a).phys = s.phys := rfl
@[simp] theorem State.ctrClear_out (s : State) (a : Nat) : (s.ctrClear a).out = s.out := rfl

/-! ## An outstanding descriptor changed -/

@[simp] theorem State.updJob_pending (s : State) (sr tag : Nat) (f : Job → Job) : (s.updJob sr tag f).pending = s.pending := rfl
@[simp] theorem State.updJob_timeNs (s : State) (sr tag : Nat) (f : Job → Job) : (s.updJob sr tag f).timeNs = s.timeNs := rfl
@[simp] theorem State.updJob_freeCtr (s : State) (sr tag : Nat) (f : Job → Job) : (s.updJob sr tag f).freeCtr = s.freeCtr := rfl
@[simp] theorem State.updJob_regs (s : State) (sr tag : Nat) (f : Job → Job) : (s.updJob sr tag f).regs = s.regs := rfl
@[simp] theorem State.updJob_locks (s : State) (sr tag : Nat) (f : Job → Job) : (s.updJob sr tag f).locks = s.locks := rfl
@[simp] theorem State.updJob_badBases (s : State) (sr tag : Nat) (f : Job → Job) : (s.updJob sr tag f).badBases = s.badBases := rfl
@[simp] theorem State.updJob_ctr (s : State) (sr tag : Nat) (f : Job → Job) : (s.updJob sr tag f).ctr = s.ctr := rfl
@[simp] theorem State.updJob_ctrHost (s : State) (sr tag : Nat) (f : Job → Job) : (s.updJob sr tag f).ctrHost = s.ctrHost := rfl
@[simp] theorem State.updJob_ctrMc (s : State) (sr tag : Nat) (f : Job → Job) : (s.updJob sr tag f).ctrMc = s.ctrMc := rfl
@[simp] theorem State.updJob_mem (s : State) (sr tag : Nat) (f : Job → Job) : (s.updJob sr tag f).mem = s.mem := rfl
@[simp] theorem State.updJob_slices (s : State) (sr tag : Nat) (f : Job → Job) : (s.updJob sr tag f).slices = s.slices := rfl
@[simp] theorem State.updJob_pasids (s : State) (sr tag : Nat) (f : Job → Job) : (s.updJob sr tag f).pasids = s.pasids := rfl
@[simp] theorem State.updJob_feus (s : State) (sr tag : Nat) (f : Job → Job) : (s.updJob sr tag f).feus = s.feus := rfl
@[simp] theorem State.updJob_feuWork (s : State) (sr tag : Nat) (f : Job → Job) : (s.updJob sr tag f).feuWork = s.feuWork := rfl
@[simp] theorem State.updJob_seqs (s : State) (sr tag : Nat) (f : Job → Job) : (s.updJob sr tag f).seqs = s.seqs := rfl
@[simp] theorem State.updJob_lat (s : State) (sr tag : Nat) (f : Job → Job) : (s.updJob sr tag f).lat = s.lat := rfl
@[simp] theorem State.updJob_pipes (s : State) (sr tag : Nat) (f : Job → Job) : (s.updJob sr tag f).pipes = s.pipes := rfl
@[simp] theorem State.updJob_chans (s : State) (sr tag : Nat) (f : Job → Job) : (s.updJob sr tag f).chans = s.chans := rfl
@[simp] theorem State.updJob_tmt (s : State) (sr tag : Nat) (f : Job → Job) : (s.updJob sr tag f).tmt = s.tmt := rfl
@[simp] theorem State.updJob_colls (s : State) (sr tag : Nat) (f : Job → Job) : (s.updJob sr tag f).colls = s.colls := rfl
@[simp] theorem State.updJob_fw (s : State) (sr tag : Nat) (f : Job → Job) : (s.updJob sr tag f).fw = s.fw := rfl
@[simp] theorem State.updJob_stor (s : State) (sr tag : Nat) (f : Job → Job) : (s.updJob sr tag f).stor = s.stor := rfl
@[simp] theorem State.updJob_ckp (s : State) (sr tag : Nat) (f : Job → Job) : (s.updJob sr tag f).ckp = s.ckp := rfl
@[simp] theorem State.updJob_tln (s : State) (sr tag : Nat) (f : Job → Job) : (s.updJob sr tag f).tln = s.tln := rfl
@[simp] theorem State.updJob_kce (s : State) (sr tag : Nat) (f : Job → Job) : (s.updJob sr tag f).kce = s.kce := rfl
@[simp] theorem State.updJob_pkt (s : State) (sr tag : Nat) (f : Job → Job) : (s.updJob sr tag f).pkt = s.pkt := rfl
@[simp] theorem State.updJob_hubPow (s : State) (sr tag : Nat) (f : Job → Job) : (s.updJob sr tag f).hubPow = s.hubPow := rfl
@[simp] theorem State.updJob_dev (s : State) (sr tag : Nat) (f : Job → Job) : (s.updJob sr tag f).dev = s.dev := rfl
@[simp] theorem State.updJob_xlt (s : State) (sr tag : Nat) (f : Job → Job) : (s.updJob sr tag f).xlt = s.xlt := rfl
@[simp] theorem State.updJob_pcie (s : State) (sr tag : Nat) (f : Job → Job) : (s.updJob sr tag f).pcie = s.pcie := rfl
@[simp] theorem State.updJob_ports (s : State) (sr tag : Nat) (f : Job → Job) : (s.updJob sr tag f).ports = s.ports := rfl
@[simp] theorem State.updJob_mgt (s : State) (sr tag : Nat) (f : Job → Job) : (s.updJob sr tag f).mgt = s.mgt := rfl
@[simp] theorem State.updJob_upd (s : State) (sr tag : Nat) (f : Job → Job) : (s.updJob sr tag f).upd = s.upd := rfl
@[simp] theorem State.updJob_clk (s : State) (sr tag : Nat) (f : Job → Job) : (s.updJob sr tag f).clk = s.clk := rfl
@[simp] theorem State.updJob_phys (s : State) (sr tag : Nat) (f : Job → Job) : (s.updJob sr tag f).phys = s.phys := rfl
@[simp] theorem State.updJob_out (s : State) (sr tag : Nat) (f : Job → Job) : (s.updJob sr tag f).out = s.out := rfl

/-! ## Descriptors of a ring started -/

@[simp] theorem State.release_pending (s : State) (n : Nat) : (s.release n).pending = s.pending := rfl
@[simp] theorem State.release_timeNs (s : State) (n : Nat) : (s.release n).timeNs = s.timeNs := rfl
@[simp] theorem State.release_freeCtr (s : State) (n : Nat) : (s.release n).freeCtr = s.freeCtr := rfl
@[simp] theorem State.release_regs (s : State) (n : Nat) : (s.release n).regs = s.regs := rfl
@[simp] theorem State.release_locks (s : State) (n : Nat) : (s.release n).locks = s.locks := rfl
@[simp] theorem State.release_badBases (s : State) (n : Nat) : (s.release n).badBases = s.badBases := rfl
@[simp] theorem State.release_ctr (s : State) (n : Nat) : (s.release n).ctr = s.ctr := rfl
@[simp] theorem State.release_ctrHost (s : State) (n : Nat) : (s.release n).ctrHost = s.ctrHost := rfl
@[simp] theorem State.release_ctrMc (s : State) (n : Nat) : (s.release n).ctrMc = s.ctrMc := rfl
@[simp] theorem State.release_mem (s : State) (n : Nat) : (s.release n).mem = s.mem := rfl
@[simp] theorem State.release_slices (s : State) (n : Nat) : (s.release n).slices = s.slices := rfl
@[simp] theorem State.release_pasids (s : State) (n : Nat) : (s.release n).pasids = s.pasids := rfl
@[simp] theorem State.release_feus (s : State) (n : Nat) : (s.release n).feus = s.feus := rfl
@[simp] theorem State.release_feuWork (s : State) (n : Nat) : (s.release n).feuWork = s.feuWork := rfl
@[simp] theorem State.release_seqs (s : State) (n : Nat) : (s.release n).seqs = s.seqs := rfl
@[simp] theorem State.release_lat (s : State) (n : Nat) : (s.release n).lat = s.lat := rfl
@[simp] theorem State.release_pipes (s : State) (n : Nat) : (s.release n).pipes = s.pipes := rfl
@[simp] theorem State.release_chans (s : State) (n : Nat) : (s.release n).chans = s.chans := rfl
@[simp] theorem State.release_tmt (s : State) (n : Nat) : (s.release n).tmt = s.tmt := rfl
@[simp] theorem State.release_colls (s : State) (n : Nat) : (s.release n).colls = s.colls := rfl
@[simp] theorem State.release_fw (s : State) (n : Nat) : (s.release n).fw = s.fw := rfl
@[simp] theorem State.release_stor (s : State) (n : Nat) : (s.release n).stor = s.stor := rfl
@[simp] theorem State.release_ckp (s : State) (n : Nat) : (s.release n).ckp = s.ckp := rfl
@[simp] theorem State.release_tln (s : State) (n : Nat) : (s.release n).tln = s.tln := rfl
@[simp] theorem State.release_kce (s : State) (n : Nat) : (s.release n).kce = s.kce := rfl
@[simp] theorem State.release_pkt (s : State) (n : Nat) : (s.release n).pkt = s.pkt := rfl
@[simp] theorem State.release_hubPow (s : State) (n : Nat) : (s.release n).hubPow = s.hubPow := rfl
@[simp] theorem State.release_dev (s : State) (n : Nat) : (s.release n).dev = s.dev := rfl
@[simp] theorem State.release_xlt (s : State) (n : Nat) : (s.release n).xlt = s.xlt := rfl
@[simp] theorem State.release_pcie (s : State) (n : Nat) : (s.release n).pcie = s.pcie := rfl
@[simp] theorem State.release_ports (s : State) (n : Nat) : (s.release n).ports = s.ports := rfl
@[simp] theorem State.release_mgt (s : State) (n : Nat) : (s.release n).mgt = s.mgt := rfl
@[simp] theorem State.release_upd (s : State) (n : Nat) : (s.release n).upd = s.upd := rfl
@[simp] theorem State.release_clk (s : State) (n : Nat) : (s.release n).clk = s.clk := rfl
@[simp] theorem State.release_phys (s : State) (n : Nat) : (s.release n).phys = s.phys := rfl
@[simp] theorem State.release_out (s : State) (n : Nat) : (s.release n).out = s.out := rfl

/-! ## What a register reads back as -/

@[simp] theorem State.rd_wr_same (s : State) (a v : Nat) : (s.wr a v).rd a = v := by
  have h : ∀ t : State, t.rd a = Tbl.get t.regs a (resetAt a) := fun t => by
    unfold State.rd Tbl.get; cases Tbl.find t.regs a <;> rfl
  rw [h]; exact Tbl.get_set_same _ _ _ _

theorem State.rd_wr_ne (s : State) {a b : Nat} (v : Nat) (h : b ≠ a) : (s.wr a v).rd b = s.rd b := by
  have k : ∀ t : State, t.rd b = Tbl.get t.regs b (resetAt b) := fun t => by
    unfold State.rd Tbl.get; cases Tbl.find t.regs b <;> rfl
  rw [k, k]; exact Tbl.get_set_ne _ _ _ _ h

theorem State.rd_wf_ne (s : State) {a b : Nat} (lo w v : Nat) (h : b ≠ a) : (s.wf a lo w v).rd b = s.rd b := State.rd_wr_ne s _ h

theorem State.rf_wf_ne (s : State) {a b : Nat} (lo w v lo' w' : Nat) (h : b ≠ a) : (s.wf a lo w v).rf b lo' w' = s.rf b lo' w' := by
  unfold State.rf; rw [State.rd_wf_ne s lo w v h]

/-- The field a field write replaces holds the low bits of what was written. -/
theorem fld_setFld (x lo w v : Nat) : fld (setFld x lo w v) lo w = v % 2 ^ w := by
  unfold fld setFld fld
  simp only [Nat.shiftRight_eq_div_pow, Nat.shiftLeft_eq]
  generalize hP : 2 ^ lo = P
  generalize hQ : 2 ^ w = Q
  have hp : 0 < P := by subst hP; exact Nat.two_pow_pos lo
  have hq : 0 < Q := by subst hQ; exact Nat.two_pow_pos w
  have e1 : x = P * (x / P) + x % P := (Nat.div_add_mod x P).symm
  have e2 : x / P = Q * (x / P / Q) + x / P % Q := (Nat.div_add_mod (x / P) Q).symm
  have hr : x % P < P := Nat.mod_lt _ hp
  have hv : v % Q < Q := Nat.mod_lt _ hq
  generalize x % P = r at *
  generalize x / P / Q = t at *
  generalize x / P % Q = m at *
  generalize v % Q = u at *
  have e3 : x - m * P + u * P = P * (Q * t + u) + r := by
    have : x = P * (Q * t) + m * P + r := by rw [e1, e2, Nat.mul_add, Nat.mul_comm P m]
    rw [this, Nat.mul_add, Nat.mul_comm P u]; omega
  rw [e3, Nat.mul_add_div hp, Nat.div_eq_of_lt hr, Nat.add_zero, Nat.mul_add_mod, Nat.mod_eq_of_lt hv]

@[simp] theorem State.rf_wf_same (s : State) (a lo w v : Nat) : (s.wf a lo w v).rf a lo w = v % 2 ^ w := by
  unfold State.rf State.wf; rw [State.rd_wr_same]; exact fld_setFld _ _ _ _

@[simp] theorem State.rd_emit (s : State) (o : Out) (a : Nat) : (s.emit o).rd a = s.rd a := rfl
@[simp] theorem State.rf_emit (s : State) (o : Out) (a lo w : Nat) : (s.emit o).rf a lo w = s.rf a lo w := rfl
@[simp] theorem State.out_emit (s : State) (o : Out) : (s.emit o).out = s.out ++ [o] := rfl

end Sys2Proof.Machine
end

