-- ==== Sys2Proof/Laws/Count.lean ====
section
/-! SUPPORT. Laws of counters, events and slices: what counting, signalling and a slice's change of state leave alone, one lemma for a
field. -/

namespace Sys2Proof.Machine

/-! ## A counter bumped (R7): only the counters and the wrap bits in the registers move -/

@[simp] theorem State.bump_pending (s : State) (a n : Nat) : ((s.bump a n).1).pending = s.pending := by unfold State.bump; repeat (first | rfl | split | dsimp only)
@[simp] theorem State.bump_timeNs (s : State) (a n : Nat) : ((s.bump a n).1).timeNs = s.timeNs := by unfold State.bump; repeat (first | rfl | split | dsimp only)
@[simp] theorem State.bump_freeCtr (s : State) (a n : Nat) : ((s.bump a n).1).freeCtr = s.freeCtr := by unfold State.bump; repeat (first | rfl | split | dsimp only)
@[simp] theorem State.bump_locks (s : State) (a n : Nat) : ((s.bump a n).1).locks = s.locks := by unfold State.bump; repeat (first | rfl | split | dsimp only)
@[simp] theorem State.bump_badBases (s : State) (a n : Nat) : ((s.bump a n).1).badBases = s.badBases := by unfold State.bump; repeat (first | rfl | split | dsimp only)
@[simp] theorem State.bump_ctrHost (s : State) (a n : Nat) : ((s.bump a n).1).ctrHost = s.ctrHost := by unfold State.bump; repeat (first | rfl | split | dsimp only)
@[simp] theorem State.bump_ctrMc (s : State) (a n : Nat) : ((s.bump a n).1).ctrMc = s.ctrMc := by unfold State.bump; repeat (first | rfl | split | dsimp only)
@[simp] theorem State.bump_mem (s : State) (a n : Nat) : ((s.bump a n).1).mem = s.mem := by unfold State.bump; repeat (first | rfl | split | dsimp only)
@[simp] theorem State.bump_ring (s : State) (a n : Nat) : ((s.bump a n).1).ring = s.ring := by unfold State.bump; repeat (first | rfl | split | dsimp only)
@[simp] theorem State.bump_slices (s : State) (a n : Nat) : ((s.bump a n).1).slices = s.slices := by unfold State.bump; repeat (first | rfl | split | dsimp only)
@[simp] theorem State.bump_pasids (s : State) (a n : Nat) : ((s.bump a n).1).pasids = s.pasids := by unfold State.bump; repeat (first | rfl | split | dsimp only)
@[simp] theorem State.bump_feus (s : State) (a n : Nat) : ((s.bump a n).1).feus = s.feus := by unfold State.bump; repeat (first | rfl | split | dsimp only)
@[simp] theorem State.bump_feuWork (s : State) (a n : Nat) : ((s.bump a n).1).feuWork = s.feuWork := by unfold State.bump; repeat (first | rfl | split | dsimp only)
@[simp] theorem State.bump_seqs (s : State) (a n : Nat) : ((s.bump a n).1).seqs = s.seqs := by unfold State.bump; repeat (first | rfl | split | dsimp only)
@[simp] theorem State.bump_lat (s : State) (a n : Nat) : ((s.bump a n).1).lat = s.lat := by unfold State.bump; repeat (first | rfl | split | dsimp only)
@[simp] theorem State.bump_pipes (s : State) (a n : Nat) : ((s.bump a n).1).pipes = s.pipes := by unfold State.bump; repeat (first | rfl | split | dsimp only)
@[simp] theorem State.bump_chans (s : State) (a n : Nat) : ((s.bump a n).1).chans = s.chans := by unfold State.bump; repeat (first | rfl | split | dsimp only)
@[simp] theorem State.bump_tmt (s : State) (a n : Nat) : ((s.bump a n).1).tmt = s.tmt := by unfold State.bump; repeat (first | rfl | split | dsimp only)
@[simp] theorem State.bump_colls (s : State) (a n : Nat) : ((s.bump a n).1).colls = s.colls := by unfold State.bump; repeat (first | rfl | split | dsimp only)
@[simp] theorem State.bump_fw (s : State) (a n : Nat) : ((s.bump a n).1).fw = s.fw := by unfold State.bump; repeat (first | rfl | split | dsimp only)
@[simp] theorem State.bump_stor (s : State) (a n : Nat) : ((s.bump a n).1).stor = s.stor := by unfold State.bump; repeat (first | rfl | split | dsimp only)
@[simp] theorem State.bump_ckp (s : State) (a n : Nat) : ((s.bump a n).1).ckp = s.ckp := by unfold State.bump; repeat (first | rfl | split | dsimp only)
@[simp] theorem State.bump_tln (s : State) (a n : Nat) : ((s.bump a n).1).tln = s.tln := by unfold State.bump; repeat (first | rfl | split | dsimp only)
@[simp] theorem State.bump_kce (s : State) (a n : Nat) : ((s.bump a n).1).kce = s.kce := by unfold State.bump; repeat (first | rfl | split | dsimp only)
@[simp] theorem State.bump_pkt (s : State) (a n : Nat) : ((s.bump a n).1).pkt = s.pkt := by unfold State.bump; repeat (first | rfl | split | dsimp only)
@[simp] theorem State.bump_hubPow (s : State) (a n : Nat) : ((s.bump a n).1).hubPow = s.hubPow := by unfold State.bump; repeat (first | rfl | split | dsimp only)
@[simp] theorem State.bump_dev (s : State) (a n : Nat) : ((s.bump a n).1).dev = s.dev := by unfold State.bump; repeat (first | rfl | split | dsimp only)
@[simp] theorem State.bump_xlt (s : State) (a n : Nat) : ((s.bump a n).1).xlt = s.xlt := by unfold State.bump; repeat (first | rfl | split | dsimp only)
@[simp] theorem State.bump_pcie (s : State) (a n : Nat) : ((s.bump a n).1).pcie = s.pcie := by unfold State.bump; repeat (first | rfl | split | dsimp only)
@[simp] theorem State.bump_ports (s : State) (a n : Nat) : ((s.bump a n).1).ports = s.ports := by unfold State.bump; repeat (first | rfl | split | dsimp only)
@[simp] theorem State.bump_mgt (s : State) (a n : Nat) : ((s.bump a n).1).mgt = s.mgt := by unfold State.bump; repeat (first | rfl | split | dsimp only)
@[simp] theorem State.bump_upd (s : State) (a n : Nat) : ((s.bump a n).1).upd = s.upd := by unfold State.bump; repeat (first | rfl | split | dsimp only)
@[simp] theorem State.bump_clk (s : State) (a n : Nat) : ((s.bump a n).1).clk = s.clk := by unfold State.bump; repeat (first | rfl | split | dsimp only)
@[simp] theorem State.bump_phys (s : State) (a n : Nat) : ((s.bump a n).1).phys = s.phys := by unfold State.bump; repeat (first | rfl | split | dsimp only)
@[simp] theorem State.bump_out (s : State) (a n : Nat) : ((s.bump a n).1).out = s.out := by unfold State.bump; repeat (first | rfl | split | dsimp only)

/-! ## An event posted (R54, R56) -/

@[simp] theorem State.postEvent_pending (s : State) (q a k d : Nat) : (s.postEvent q a k d).pending = s.pending := by unfold State.postEvent; repeat (first | rfl | split)
@[simp] theorem State.postEvent_timeNs (s : State) (q a k d : Nat) : (s.postEvent q a k d).timeNs = s.timeNs := by unfold State.postEvent; repeat (first | rfl | split)
@[simp] theorem State.postEvent_freeCtr (s : State) (q a k d : Nat) : (s.postEvent q a k d).freeCtr = s.freeCtr := by unfold State.postEvent; repeat (first | rfl | split)
@[simp] theorem State.postEvent_regs (s : State) (q a k d : Nat) : (s.postEvent q a k d).regs = s.regs := by unfold State.postEvent; repeat (first | rfl | split)
@[simp] theorem State.postEvent_locks (s : State) (q a k d : Nat) : (s.postEvent q a k d).locks = s.locks := by unfold State.postEvent; repeat (first | rfl | split)
@[simp] theorem State.postEvent_badBases (s : State) (q a k d : Nat) : (s.postEvent q a k d).badBases = s.badBases := by unfold State.postEvent; repeat (first | rfl | split)
@[simp] theorem State.postEvent_ctr (s : State) (q a k d : Nat) : (s.postEvent q a k d).ctr = s.ctr := by unfold State.postEvent; repeat (first | rfl | split)
@[simp] theorem State.postEvent_ctrHost (s : State) (q a k d : Nat) : (s.postEvent q a k d).ctrHost = s.ctrHost := by unfold State.postEvent; repeat (first | rfl | split)
@[simp] theorem State.postEvent_ctrMc (s : State) (q a k d : Nat) : (s.postEvent q a k d).ctrMc = s.ctrMc := by unfold State.postEvent; repeat (first | rfl | split)
@[simp] theorem State.postEvent_mem (s : State) (q a k d : Nat) : (s.postEvent q a k d).mem = s.mem := by unfold State.postEvent; repeat (first | rfl | split)
@[simp] theorem State.postEvent_slices (s : State) (q a k d : Nat) : (s.postEvent q a k d).slices = s.slices := by unfold State.postEvent; repeat (first | rfl | split)
@[simp] theorem State.postEvent_pasids (s : State) (q a k d : Nat) : (s.postEvent q a k d).pasids = s.pasids := by unfold State.postEvent; repeat (first | rfl | split)
@[simp] theorem State.postEvent_feus (s : State) (q a k d : Nat) : (s.postEvent q a k d).feus = s.feus := by unfold State.postEvent; repeat (first | rfl | split)
@[simp] theorem State.postEvent_feuWork (s : State) (q a k d : Nat) : (s.postEvent q a k d).feuWork = s.feuWork := by unfold State.postEvent; repeat (first | rfl | split)
@[simp] theorem State.postEvent_seqs (s : State) (q a k d : Nat) : (s.postEvent q a k d).seqs = s.seqs := by unfold State.postEvent; repeat (first | rfl | split)
@[simp] theorem State.postEvent_lat (s : State) (q a k d : Nat) : (s.postEvent q a k d).lat = s.lat := by unfold State.postEvent; repeat (first | rfl | split)
@[simp] theorem State.postEvent_pipes (s : State) (q a k d : Nat) : (s.postEvent q a k d).pipes = s.pipes := by unfold State.postEvent; repeat (first | rfl | split)
@[simp] theorem State.postEvent_chans (s : State) (q a k d : Nat) : (s.postEvent q a k d).chans = s.chans := by unfold State.postEvent; repeat (first | rfl | split)
@[simp] theorem State.postEvent_tmt (s : State) (q a k d : Nat) : (s.postEvent q a k d).tmt = s.tmt := by unfold State.postEvent; repeat (first | rfl | split)
@[simp] theorem State.postEvent_colls (s : State) (q a k d : Nat) : (s.postEvent q a k d).colls = s.colls := by unfold State.postEvent; repeat (first | rfl | split)
@[simp] theorem State.postEvent_fw (s : State) (q a k d : Nat) : (s.postEvent q a k d).fw = s.fw := by unfold State.postEvent; repeat (first | rfl | split)
@[simp] theorem State.postEvent_stor (s : State) (q a k d : Nat) : (s.postEvent q a k d).stor = s.stor := by unfold State.postEvent; repeat (first | rfl | split)
@[simp] theorem State.postEvent_ckp (s : State) (q a k d : Nat) : (s.postEvent q a k d).ckp = s.ckp := by unfold State.postEvent; repeat (first | rfl | split)
@[simp] theorem State.postEvent_tln (s : State) (q a k d : Nat) : (s.postEvent q a k d).tln = s.tln := by unfold State.postEvent; repeat (first | rfl | split)
@[simp] theorem State.postEvent_kce (s : State) (q a k d : Nat) : (s.postEvent q a k d).kce = s.kce := by unfold State.postEvent; repeat (first | rfl | split)
@[simp] theorem State.postEvent_pkt (s : State) (q a k d : Nat) : (s.postEvent q a k d).pkt = s.pkt := by unfold State.postEvent; repeat (first | rfl | split)
@[simp] theorem State.postEvent_hubPow (s : State) (q a k d : Nat) : (s.postEvent q a k d).hubPow = s.hubPow := by unfold State.postEvent; repeat (first | rfl | split)
@[simp] theorem State.postEvent_dev (s : State) (q a k d : Nat) : (s.postEvent q a k d).dev = s.dev := by unfold State.postEvent; repeat (first | rfl | split)
@[simp] theorem State.postEvent_xlt (s : State) (q a k d : Nat) : (s.postEvent q a k d).xlt = s.xlt := by unfold State.postEvent; repeat (first | rfl | split)
@[simp] theorem State.postEvent_pcie (s : State) (q a k d : Nat) : (s.postEvent q a k d).pcie = s.pcie := by unfold State.postEvent; repeat (first | rfl | split)
@[simp] theorem State.postEvent_ports (s : State) (q a k d : Nat) : (s.postEvent q a k d).ports = s.ports := by unfold State.postEvent; repeat (first | rfl | split)
@[simp] theorem State.postEvent_mgt (s : State) (q a k d : Nat) : (s.postEvent q a k d).mgt = s.mgt := by unfold State.postEvent; repeat (first | rfl | split)
@[simp] theorem State.postEvent_upd (s : State) (q a k d : Nat) : (s.postEvent q a k d).upd = s.upd := by unfold State.postEvent; repeat (first | rfl | split)
@[simp] theorem State.postEvent_clk (s : State) (q a k d : Nat) : (s.postEvent q a k d).clk = s.clk := by unfold State.postEvent; repeat (first | rfl | split)
@[simp] theorem State.postEvent_phys (s : State) (q a k d : Nat) : (s.postEvent q a k d).phys = s.phys := by unfold State.postEvent; repeat (first | rfl | split)
@[simp] theorem State.postEvent_out (s : State) (q a k d : Nat) : (s.postEvent q a k d).out = s.out := by unfold State.postEvent; repeat (first | rfl | split)

/-! ## The management controller told (R455) -/

@[simp] theorem State.mcSignal_pending (s : State) (c d : Nat) : (s.mcSignal c d).pending = s.pending := by 
  have h := State.bump_pending ({ s with mgt := { s.mgt with lost := s.mgt.lost + 1 } } : State) R.MGT_EVENT_LOST 1
  unfold State.mcSignal; split
  · rfl
  · split <;> simp_all
@[simp] theorem State.mcSignal_timeNs (s : State) (c d : Nat) : (s.mcSignal c d).timeNs = s.timeNs := by 
  have h := State.bump_timeNs ({ s with mgt := { s.mgt with lost := s.mgt.lost + 1 } } : State) R.MGT_EVENT_LOST 1
  unfold State.mcSignal; split
  · rfl
  · split <;> simp_all
@[simp] theorem State.mcSignal_freeCtr (s : State) (c d : Nat) : (s.mcSignal c d).freeCtr = s.freeCtr := by 
  have h := State.bump_freeCtr ({ s with mgt := { s.mgt with lost := s.mgt.lost + 1 } } : State) R.MGT_EVENT_LOST 1
  unfold State.mcSignal; split
  · rfl
  · split <;> simp_all
@[simp] theorem State.mcSignal_locks (s : State) (c d : Nat) : (s.mcSignal c d).locks = s.locks := by 
  have h := State.bump_locks ({ s with mgt := { s.mgt with lost := s.mgt.lost + 1 } } : State) R.MGT_EVENT_LOST 1
  unfold State.mcSignal; split
  · rfl
  · split <;> simp_all
@[simp] theorem State.mcSignal_badBases (s : State) (c d : Nat) : (s.mcSignal c d).badBases = s.badBases := by 
  have h := State.bump_badBases ({ s with mgt := { s.mgt with lost := s.mgt.lost + 1 } } : State) R.MGT_EVENT_LOST 1
  unfold State.mcSignal; split
  · rfl
  · split <;> simp_all
@[simp] theorem State.mcSignal_ctrHost (s : State) (c d : Nat) : (s.mcSignal c d).ctrHost = s.ctrHost := by 
  have h := State.bump_ctrHost ({ s with mgt := { s.mgt with lost := s.mgt.lost + 1 } } : State) R.MGT_EVENT_LOST 1
  unfold State.mcSignal; split
  · rfl
  · split <;> simp_all
@[simp] theorem State.mcSignal_ctrMc (s : State) (c d : Nat) : (s.mcSignal c d).ctrMc = s.ctrMc := by 
  have h := State.bump_ctrMc ({ s with mgt := { s.mgt with lost := s.mgt.lost + 1 } } : State) R.MGT_EVENT_LOST 1
  unfold State.mcSignal; split
  · rfl
  · split <;> simp_all
@[simp] theorem State.mcSignal_mem (s : State) (c d : Nat) : (s.mcSignal c d).mem = s.mem := by 
  have h := State.bump_mem ({ s with mgt := { s.mgt with lost := s.mgt.lost + 1 } } : State) R.MGT_EVENT_LOST 1
  unfold State.mcSignal; split
  · rfl
  · split <;> simp_all
@[simp] theorem State.mcSignal_slices (s : State) (c d : Nat) : (s.mcSignal c d).slices = s.slices := by 
  have h := State.bump_slices ({ s with mgt := { s.mgt with lost := s.mgt.lost + 1 } } : State) R.MGT_EVENT_LOST 1
  unfold State.mcSignal; split
  · rfl
  · split <;> simp_all
@[simp] theorem State.mcSignal_pasids (s : State) (c d : Nat) : (s.mcSignal c d).pasids = s.pasids := by 
  have h := State.bump_pasids ({ s with mgt := { s.mgt with lost := s.mgt.lost + 1 } } : State) R.MGT_EVENT_LOST 1
  unfold State.mcSignal; split
  · rfl
  · split <;> simp_all
@[simp] theorem State.mcSignal_feus (s : State) (c d : Nat) : (s.mcSignal c d).feus = s.feus := by 
  have h := State.bump_feus ({ s with mgt := { s.mgt with lost := s.mgt.lost + 1 } } : State) R.MGT_EVENT_LOST 1
  unfold State.mcSignal; split
  · rfl
  · split <;> simp_all
@[simp] theorem State.mcSignal_feuWork (s : State) (c d : Nat) : (s.mcSignal c d).feuWork = s.feuWork := by 
  have h := State.bump_feuWork ({ s with mgt := { s.mgt with lost := s.mgt.lost + 1 } } : State) R.MGT_EVENT_LOST 1
  unfold State.mcSignal; split
  · rfl
  · split <;> simp_all
@[simp] theorem State.mcSignal_seqs (s : State) (c d : Nat) : (s.mcSignal c d).seqs = s.seqs := by 
  have h := State.bump_seqs ({ s with mgt := { s.mgt with lost := s.mgt.lost + 1 } } : State) R.MGT_EVENT_LOST 1
  unfold State.mcSignal; split
  · rfl
  · split <;> simp_all
@[simp] theorem State.mcSignal_lat (s : State) (c d : Nat) : (s.mcSignal c d).lat = s.lat := by 
  have h := State.bump_lat ({ s with mgt := { s.mgt with lost := s.mgt.lost + 1 } } : State) R.MGT_EVENT_LOST 1
  unfold State.mcSignal; split
  · rfl
  · split <;> simp_all
@[simp] theorem State.mcSignal_pipes (s : State) (c d : Nat) : (s.mcSignal c d).pipes = s.pipes := by 
  have h := State.bump_pipes ({ s with mgt := { s.mgt with lost := s.mgt.lost + 1 } } : State) R.MGT_EVENT_LOST 1
  unfold State.mcSignal; split
  · rfl
  · split <;> simp_all
@[simp] theorem State.mcSignal_chans (s : State) (c d : Nat) : (s.mcSignal c d).chans = s.chans := by 
  have h := State.bump_chans ({ s with mgt := { s.mgt with lost := s.mgt.lost + 1 } } : State) R.MGT_EVENT_LOST 1
  unfold State.mcSignal; split
  · rfl
  · split <;> simp_all
@[simp] theorem State.mcSignal_tmt (s : State) (c d : Nat) : (s.mcSignal c d).tmt = s.tmt := by 
  have h := State.bump_tmt ({ s with mgt := { s.mgt with lost := s.mgt.lost + 1 } } : State) R.MGT_EVENT_LOST 1
  unfold State.mcSignal; split
  · rfl
  · split <;> simp_all
@[simp] theorem State.mcSignal_colls (s : State) (c d : Nat) : (s.mcSignal c d).colls = s.colls := by 
  have h := State.bump_colls ({ s with mgt := { s.mgt with lost := s.mgt.lost + 1 } } : State) R.MGT_EVENT_LOST 1
  unfold State.mcSignal; split
  · rfl
  · split <;> simp_all
@[simp] theorem State.mcSignal_fw (s : State) (c d : Nat) : (s.mcSignal c d).fw = s.fw := by 
  have h := State.bump_fw ({ s with mgt := { s.mgt with lost := s.mgt.lost + 1 } } : State) R.MGT_EVENT_LOST 1
  unfold State.mcSignal; split
  · rfl
  · split <;> simp_all
@[simp] theorem State.mcSignal_stor (s : State) (c d : Nat) : (s.mcSignal c d).stor = s.stor := by 
  have h := State.bump_stor ({ s with mgt := { s.mgt with lost := s.mgt.lost + 1 } } : State) R.MGT_EVENT_LOST 1
  unfold State.mcSignal; split
  · rfl
  · split <;> simp_all
@[simp] theorem State.mcSignal_ckp (s : State) (c d : Nat) : (s.mcSignal c d).ckp = s.ckp := by 
  have h := State.bump_ckp ({ s with mgt := { s.mgt with lost := s.mgt.lost + 1 } } : State) R.MGT_EVENT_LOST 1
  unfold State.mcSignal; split
  · rfl
  · split <;> simp_all
@[simp] theorem State.mcSignal_tln (s : State) (c d : Nat) : (s.mcSignal c d).tln = s.tln := by 
  have h := State.bump_tln ({ s with mgt := { s.mgt with lost := s.mgt.lost + 1 } } : State) R.MGT_EVENT_LOST 1
  unfold State.mcSignal; split
  · rfl
  · split <;> simp_all
@[simp] theorem State.mcSignal_kce (s : State) (c d : Nat) : (s.mcSignal c d).kce = s.kce := by 
  have h := State.bump_kce ({ s with mgt := { s.mgt with lost := s.mgt.lost + 1 } } : State) R.MGT_EVENT_LOST 1
  unfold State.mcSignal; split
  · rfl
  · split <;> simp_all
@[simp] theorem State.mcSignal_pkt (s : State) (c d : Nat) : (s.mcSignal c d).pkt = s.pkt := by 
  have h := State.bump_pkt ({ s with mgt := { s.mgt with lost := s.mgt.lost + 1 } } : State) R.MGT_EVENT_LOST 1
  unfold State.mcSignal; split
  · rfl
  · split <;> simp_all
@[simp] theorem State.mcSignal_hubPow (s : State) (c d : Nat) : (s.mcSignal c d).hubPow = s.hubPow := by 
  have h := State.bump_hubPow ({ s with mgt := { s.mgt with lost := s.mgt.lost + 1 } } : State) R.MGT_EVENT_LOST 1
  unfold State.mcSignal; split
  · rfl
  · split <;> simp_all
@[simp] theorem State.mcSignal_dev (s : State) (c d : Nat) : (s.mcSignal c d).dev = s.dev := by 
  have h := State.bump_dev ({ s with mgt := { s.mgt with lost := s.mgt.lost + 1 } } : State) R.MGT_EVENT_LOST 1
  unfold State.mcSignal; split
  · rfl
  · split <;> simp_all
@[simp] theorem State.mcSignal_xlt (s : State) (c d : Nat) : (s.mcSignal c d).xlt = s.xlt := by 
  have h := State.bump_xlt ({ s with mgt := { s.mgt with lost := s.mgt.lost + 1 } } : State) R.MGT_EVENT_LOST 1
  unfold State.mcSignal; split
  · rfl
  · split <;> simp_all
@[simp] theorem State.mcSignal_pcie (s : State) (c d : Nat) : (s.mcSignal c d).pcie = s.pcie := by 
  have h := State.bump_pcie ({ s with mgt := { s.mgt with lost := s.mgt.lost + 1 } } : State) R.MGT_EVENT_LOST 1
  unfold State.mcSignal; split
  · rfl
  · split <;> simp_all
@[simp] theorem State.mcSignal_ports (s : State) (c d : Nat) : (s.mcSignal c d).ports = s.ports := by 
  have h := State.bump_ports ({ s with mgt := { s.mgt with lost := s.mgt.lost + 1 } } : State) R.MGT_EVENT_LOST 1
  unfold State.mcSignal; split
  · rfl
  · split <;> simp_all
@[simp] theorem State.mcSignal_upd (s : State) (c d : Nat) : (s.mcSignal c d).upd = s.upd := by 
  have h := State.bump_upd ({ s with mgt := { s.mgt with lost := s.mgt.lost + 1 } } : State) R.MGT_EVENT_LOST 1
  unfold State.mcSignal; split
  · rfl
  · split <;> simp_all
@[simp] theorem State.mcSignal_clk (s : State) (c d : Nat) : (s.mcSignal c d).clk = s.clk := by 
  have h := State.bump_clk ({ s with mgt := { s.mgt with lost := s.mgt.lost + 1 } } : State) R.MGT_EVENT_LOST 1
  unfold State.mcSignal; split
  · rfl
  · split <;> simp_all
@[simp] theorem State.mcSignal_phys (s : State) (c d : Nat) : (s.mcSignal c d).phys = s.phys := by 
  have h := State.bump_phys ({ s with mgt := { s.mgt with lost := s.mgt.lost + 1 } } : State) R.MGT_EVENT_LOST 1
  unfold State.mcSignal; split
  · rfl
  · split <;> simp_all
@[simp] theorem State.mcSignal_out (s : State) (c d : Nat) : (s.mcSignal c d).out = s.out := by 
  have h := State.bump_out ({ s with mgt := { s.mgt with lost := s.mgt.lost + 1 } } : State) R.MGT_EVENT_LOST 1
  unfold State.mcSignal; split
  · rfl
  · split <;> simp_all

/-! ## A counter counted, with the event of its saturation (R7) -/

@[simp] theorem State.cnt_pending (s : State) (a n : Nat) : (s.cnt a n).pending = s.pending := by have h := State.bump_pending s a n; unfold State.cnt; split <;> simp_all
@[simp] theorem State.cnt_timeNs (s : State) (a n : Nat) : (s.cnt a n).timeNs = s.timeNs := by have h := State.bump_timeNs s a n; unfold State.cnt; split <;> simp_all
@[simp] theorem State.cnt_freeCtr (s : State) (a n : Nat) : (s.cnt a n).freeCtr = s.freeCtr := by have h := State.bump_freeCtr s a n; unfold State.cnt; split <;> simp_all
@[simp] theorem State.cnt_locks (s : State) (a n : Nat) : (s.cnt a n).locks = s.locks := by have h := State.bump_locks s a n; unfold State.cnt; split <;> simp_all
@[simp] theorem State.cnt_badBases (s : State) (a n : Nat) : (s.cnt a n).badBases = s.badBases := by have h := State.bump_badBases s a n; unfold State.cnt; split <;> simp_all
@[simp] theorem State.cnt_ctrHost (s : State) (a n : Nat) : (s.cnt a n).ctrHost = s.ctrHost := by have h := State.bump_ctrHost s a n; unfold State.cnt; split <;> simp_all
@[simp] theorem State.cnt_ctrMc (s : State) (a n : Nat) : (s.cnt a n).ctrMc = s.ctrMc := by have h := State.bump_ctrMc s a n; unfold State.cnt; split <;> simp_all
@[simp] theorem State.cnt_mem (s : State) (a n : Nat) : (s.cnt a n).mem = s.mem := by have h := State.bump_mem s a n; unfold State.cnt; split <;> simp_all
@[simp] theorem State.cnt_slices (s : State) (a n : Nat) : (s.cnt a n).slices = s.slices := by have h := State.bump_slices s a n; unfold State.cnt; split <;> simp_all
@[simp] theorem State.cnt_pasids (s : State) (a n : Nat) : (s.cnt a n).pasids = s.pasids := by have h := State.bump_pasids s a n; unfold State.cnt; split <;> simp_all
@[simp] theorem State.cnt_feus (s : State) (a n : Nat) : (s.cnt a n).feus = s.feus := by have h := State.bump_feus s a n; unfold State.cnt; split <;> simp_all
@[simp] theorem State.cnt_feuWork (s : State) (a n : Nat) : (s.cnt a n).feuWork = s.feuWork := by have h := State.bump_feuWork s a n; unfold State.cnt; split <;> simp_all
@[simp] theorem State.cnt_seqs (s : State) (a n : Nat) : (s.cnt a n).seqs = s.seqs := by have h := State.bump_seqs s a n; unfold State.cnt; split <;> simp_all
@[simp] theorem State.cnt_lat (s : State) (a n : Nat) : (s.cnt a n).lat = s.lat := by have h := State.bump_lat s a n; unfold State.cnt; split <;> simp_all
@[simp] theorem State.cnt_pipes (s : State) (a n : Nat) : (s.cnt a n).pipes = s.pipes := by have h := State.bump_pipes s a n; unfold State.cnt; split <;> simp_all
@[simp] theorem State.cnt_chans (s : State) (a n : Nat) : (s.cnt a n).chans = s.chans := by have h := State.bump_chans s a n; unfold State.cnt; split <;> simp_all
@[simp] theorem State.cnt_tmt (s : State) (a n : Nat) : (s.cnt a n).tmt = s.tmt := by have h := State.bump_tmt s a n; unfold State.cnt; split <;> simp_all
@[simp] theorem State.cnt_colls (s : State) (a n : Nat) : (s.cnt a n).colls = s.colls := by have h := State.bump_colls s a n; unfold State.cnt; split <;> simp_all
@[simp] theorem State.cnt_fw (s : State) (a n : Nat) : (s.cnt a n).fw = s.fw := by have h := State.bump_fw s a n; unfold State.cnt; split <;> simp_all
@[simp] theorem State.cnt_stor (s : State) (a n : Nat) : (s.cnt a n).stor = s.stor := by have h := State.bump_stor s a n; unfold State.cnt; split <;> simp_all
@[simp] theorem State.cnt_ckp (s : State) (a n : Nat) : (s.cnt a n).ckp = s.ckp := by have h := State.bump_ckp s a n; unfold State.cnt; split <;> simp_all
@[simp] theorem State.cnt_tln (s : State) (a n : Nat) : (s.cnt a n).tln = s.tln := by have h := State.bump_tln s a n; unfold State.cnt; split <;> simp_all
@[simp] theorem State.cnt_kce (s : State) (a n : Nat) : (s.cnt a n).kce = s.kce := by have h := State.bump_kce s a n; unfold State.cnt; split <;> simp_all
@[simp] theorem State.cnt_pkt (s : State) (a n : Nat) : (s.cnt a n).pkt = s.pkt := by have h := State.bump_pkt s a n; unfold State.cnt; split <;> simp_all
@[simp] theorem State.cnt_hubPow (s : State) (a n : Nat) : (s.cnt a n).hubPow = s.hubPow := by have h := State.bump_hubPow s a n; unfold State.cnt; split <;> simp_all
@[simp] theorem State.cnt_dev (s : State) (a n : Nat) : (s.cnt a n).dev = s.dev := by have h := State.bump_dev s a n; unfold State.cnt; split <;> simp_all
@[simp] theorem State.cnt_xlt (s : State) (a n : Nat) : (s.cnt a n).xlt = s.xlt := by have h := State.bump_xlt s a n; unfold State.cnt; split <;> simp_all
@[simp] theorem State.cnt_pcie (s : State) (a n : Nat) : (s.cnt a n).pcie = s.pcie := by have h := State.bump_pcie s a n; unfold State.cnt; split <;> simp_all
@[simp] theorem State.cnt_ports (s : State) (a n : Nat) : (s.cnt a n).ports = s.ports := by have h := State.bump_ports s a n; unfold State.cnt; split <;> simp_all
@[simp] theorem State.cnt_upd (s : State) (a n : Nat) : (s.cnt a n).upd = s.upd := by have h := State.bump_upd s a n; unfold State.cnt; split <;> simp_all
@[simp] theorem State.cnt_clk (s : State) (a n : Nat) : (s.cnt a n).clk = s.clk := by have h := State.bump_clk s a n; unfold State.cnt; split <;> simp_all
@[simp] theorem State.cnt_phys (s : State) (a n : Nat) : (s.cnt a n).phys = s.phys := by have h := State.bump_phys s a n; unfold State.cnt; split <;> simp_all
@[simp] theorem State.cnt_out (s : State) (a n : Nat) : (s.cnt a n).out = s.out := by have h := State.bump_out s a n; unfold State.cnt; split <;> simp_all

/-! ## A slice in a new state (R410) -/

@[simp] theorem State.setSlice_pending (s : State) (n : Nat) (st : SlState) : (s.setSlice n st).pending = s.pending := by unfold State.setSlice; rw [State.postEvent_pending]
@[simp] theorem State.setSlice_timeNs (s : State) (n : Nat) (st : SlState) : (s.setSlice n st).timeNs = s.timeNs := by unfold State.setSlice; rw [State.postEvent_timeNs]
@[simp] theorem State.setSlice_freeCtr (s : State) (n : Nat) (st : SlState) : (s.setSlice n st).freeCtr = s.freeCtr := by unfold State.setSlice; rw [State.postEvent_freeCtr]
@[simp] theorem State.setSlice_regs (s : State) (n : Nat) (st : SlState) : (s.setSlice n st).regs = s.regs := by unfold State.setSlice; rw [State.postEvent_regs]
@[simp] theorem State.setSlice_locks (s : State) (n : Nat) (st : SlState) : (s.setSlice n st).locks = s.locks := by unfold State.setSlice; rw [State.postEvent_locks]
@[simp] theorem State.setSlice_badBases (s : State) (n : Nat) (st : SlState) : (s.setSlice n st).badBases = s.badBases := by unfold State.setSlice; rw [State.postEvent_badBases]
@[simp] theorem State.setSlice_ctr (s : State) (n : Nat) (st : SlState) : (s.setSlice n st).ctr = s.ctr := by unfold State.setSlice; rw [State.postEvent_ctr]
@[simp] theorem State.setSlice_ctrHost (s : State) (n : Nat) (st : SlState) : (s.setSlice n st).ctrHost = s.ctrHost := by unfold State.setSlice; rw [State.postEvent_ctrHost]
@[simp] theorem State.setSlice_ctrMc (s : State) (n : Nat) (st : SlState) : (s.setSlice n st).ctrMc = s.ctrMc := by unfold State.setSlice; rw [State.postEvent_ctrMc]
@[simp] theorem State.setSlice_mem (s : State) (n : Nat) (st : SlState) : (s.setSlice n st).mem = s.mem := by unfold State.setSlice; rw [State.postEvent_mem]
@[simp] theorem State.setSlice_pasids (s : State) (n : Nat) (st : SlState) : (s.setSlice n st).pasids = s.pasids := by unfold State.setSlice; rw [State.postEvent_pasids]
@[simp] theorem State.setSlice_feus (s : State) (n : Nat) (st : SlState) : (s.setSlice n st).feus = s.feus := by unfold State.setSlice; rw [State.postEvent_feus]
@[simp] theorem State.setSlice_feuWork (s : State) (n : Nat) (st : SlState) : (s.setSlice n st).feuWork = s.feuWork := by unfold State.setSlice; rw [State.postEvent_feuWork]
@[simp] theorem State.setSlice_seqs (s : State) (n : Nat) (st : SlState) : (s.setSlice n st).seqs = s.seqs := by unfold State.setSlice; rw [State.postEvent_seqs]
@[simp] theorem State.setSlice_lat (s : State) (n : Nat) (st : SlState) : (s.setSlice n st).lat = s.lat := by unfold State.setSlice; rw [State.postEvent_lat]
@[simp] theorem State.setSlice_pipes (s : State) (n : Nat) (st : SlState) : (s.setSlice n st).pipes = s.pipes := by unfold State.setSlice; rw [State.postEvent_pipes]
@[simp] theorem State.setSlice_chans (s : State) (n : Nat) (st : SlState) : (s.setSlice n st).chans = s.chans := by unfold State.setSlice; rw [State.postEvent_chans]
@[simp] theorem State.setSlice_tmt (s : State) (n : Nat) (st : SlState) : (s.setSlice n st).tmt = s.tmt := by unfold State.setSlice; rw [State.postEvent_tmt]
@[simp] theorem State.setSlice_colls (s : State) (n : Nat) (st : SlState) : (s.setSlice n st).colls = s.colls := by unfold State.setSlice; rw [State.postEvent_colls]
@[simp] theorem State.setSlice_fw (s : State) (n : Nat) (st : SlState) : (s.setSlice n st).fw = s.fw := by unfold State.setSlice; rw [State.postEvent_fw]
@[simp] theorem State.setSlice_stor (s : State) (n : Nat) (st : SlState) : (s.setSlice n st).stor = s.stor := by unfold State.setSlice; rw [State.postEvent_stor]
@[simp] theorem State.setSlice_ckp (s : State) (n : Nat) (st : SlState) : (s.setSlice n st).ckp = s.ckp := by unfold State.setSlice; rw [State.postEvent_ckp]
@[simp] theorem State.setSlice_tln (s : State) (n : Nat) (st : SlState) : (s.setSlice n st).tln = s.tln := by unfold State.setSlice; rw [State.postEvent_tln]
@[simp] theorem State.setSlice_kce (s : State) (n : Nat) (st : SlState) : (s.setSlice n st).kce = s.kce := by unfold State.setSlice; rw [State.postEvent_kce]
@[simp] theorem State.setSlice_pkt (s : State) (n : Nat) (st : SlState) : (s.setSlice n st).pkt = s.pkt := by unfold State.setSlice; rw [State.postEvent_pkt]
@[simp] theorem State.setSlice_hubPow (s : State) (n : Nat) (st : SlState) : (s.setSlice n st).hubPow = s.hubPow := by unfold State.setSlice; rw [State.postEvent_hubPow]
@[simp] theorem State.setSlice_dev (s : State) (n : Nat) (st : SlState) : (s.setSlice n st).dev = s.dev := by unfold State.setSlice; rw [State.postEvent_dev]
@[simp] theorem State.setSlice_xlt (s : State) (n : Nat) (st : SlState) : (s.setSlice n st).xlt = s.xlt := by unfold State.setSlice; rw [State.postEvent_xlt]
@[simp] theorem State.setSlice_pcie (s : State) (n : Nat) (st : SlState) : (s.setSlice n st).pcie = s.pcie := by unfold State.setSlice; rw [State.postEvent_pcie]
@[simp] theorem State.setSlice_ports (s : State) (n : Nat) (st : SlState) : (s.setSlice n st).ports = s.ports := by unfold State.setSlice; rw [State.postEvent_ports]
@[simp] theorem State.setSlice_mgt (s : State) (n : Nat) (st : SlState) : (s.setSlice n st).mgt = s.mgt := by unfold State.setSlice; rw [State.postEvent_mgt]
@[simp] theorem State.setSlice_upd (s : State) (n : Nat) (st : SlState) : (s.setSlice n st).upd = s.upd := by unfold State.setSlice; rw [State.postEvent_upd]
@[simp] theorem State.setSlice_clk (s : State) (n : Nat) (st : SlState) : (s.setSlice n st).clk = s.clk := by unfold State.setSlice; rw [State.postEvent_clk]
@[simp] theorem State.setSlice_phys (s : State) (n : Nat) (st : SlState) : (s.setSlice n st).phys = s.phys := by unfold State.setSlice; rw [State.postEvent_phys]
@[simp] theorem State.setSlice_out (s : State) (n : Nat) (st : SlState) : (s.setSlice n st).out = s.out := by unfold State.setSlice; rw [State.postEvent_out]

end Sys2Proof.Machine
end

