-- ==== Sys2Proof/Laws/Commit.lean ====
section
/-! SUPPORT. Laws of descriptors and completions: running a descriptor that is ready, and what its commit leaves behind. -/

namespace Sys2Proof.Machine

/-- A descriptor found at (sr, tag) carries that ring and that tag. -/
theorem State.job_key {s : State} {sr tag : Nat} {j : Job} (h : s.job sr tag = some j) : j.sr = sr ∧ j.tag = tag := by
  have := List.find?_some h; simpa using this

/-- A descriptor that is ready runs. -/
theorem State.withJob_ready {s : State} {sr tag op : Nat} {j : Job} (f : State → Job → State) (h : s.ready sr tag op j) :
    s.withJob sr tag op f = f s j := by
  obtain ⟨h1, h2, h3, h4, -⟩ := h
  unfold State.withJob
  rw [h1]
  cases hk : acceptingCore op with
  | none => simp [h2, h3]
  | some k => simp [h2, h3, h4 k hk]

@[simp] theorem State.release_unwritten (s : State) (n : Nat) : (s.release n).ring.unwritten = s.ring.unwritten := rfl

@[simp] theorem State.bump_ring' (s : State) (a n : Nat) : (s.bump a n).1.ring = s.ring := State.bump_ring s a n

theorem State.postEvent_unwritten (s : State) (q a k d : Nat) : (s.postEvent q a k d).ring.unwritten = s.ring.unwritten := by
  unfold State.postEvent; repeat (first | rfl | split)

theorem State.mcSignal_unwritten (s : State) (c d : Nat) : (s.mcSignal c d).ring.unwritten = s.ring.unwritten := by
  have h := State.bump_ring ({ s with mgt := { s.mgt with lost := s.mgt.lost + 1 } } : State) R.MGT_EVENT_LOST 1
  unfold State.mcSignal
  split
  · rfl
  · split
    · simp_all
    · rw [State.postEvent_unwritten]; simp_all

@[simp] theorem State.cnt_unwritten (s : State) (a n : Nat) : (s.cnt a n).ring.unwritten = s.ring.unwritten := by
  have h := State.bump_ring s a n
  unfold State.cnt
  split
  · simp_all
  · rename_i s' e; rw [State.mcSignal_unwritten, State.postEvent_unwritten]; simp_all

/-- Whether the completion ring of a completion is full (R49). -/
def State.crFull (s : State) (n : Nat) : Bool := match Tbl.find s.ring.crs n with | some r => decide (r.free = 0) | none => false

/-- A committed completion goes behind the unwritten ones, with the time of its commit point (R47, R49). -/
theorem State.addCpl_unwritten (s : State) (c : Cpl) :
    (s.addCpl c).ring.unwritten = s.ring.unwritten ++ [{ c with counted := s.crFull c.cr, time := s.timeNs % 2 ^ 32 }] := by
  have key : ∀ (t : State) (b : Bool), (if b then t.cnt R.RNG_CR_FULL else t).ring.unwritten = t.ring.unwritten := by
    intro t b; cases b <;> simp
  exact key _ _

/-- A committed completion stands among the unwritten ones. -/
theorem State.addCpl_mem (s : State) (c : Cpl) :
    ∃ e ∈ (s.addCpl c).ring.unwritten, e.sr = c.sr ∧ e.tag = c.tag ∧ e.status = c.status ∧ e.unit = c.unit ∧ e.detail = c.detail ∧ e.result = c.result ∧
      e.cr = c.cr ∧ e.slice = c.slice := by
  rw [State.addCpl_unwritten]
  exact ⟨_, List.mem_append_right _ (List.mem_singleton_self _), rfl, rfl, rfl, rfl, rfl, rfl, rfl, rfl⟩

/-- The commit point leaves the completion with its status, its detail and its result (R47). -/
theorem State.commitNow_mem (s : State) (j : Job) (st un de re : Nat) :
    ∃ e ∈ (s.commitNow j st un de re).ring.unwritten, e.sr = j.sr ∧ e.tag = j.tag ∧ e.status = st ∧ e.unit = un ∧ e.detail = de % 2 ^ 32 ∧
      e.result = re % 2 ^ 64 ∧ e.cr = j.cr ∧ e.slice = j.slice := by
  unfold State.commitNow
  exact State.addCpl_mem _ _

/-- A descriptor of which no snapshot runs commits alone (R366). -/
theorem State.commit_now {s : State} {j : Job} (st un de re : Nat) (h : s.noSnap j.sr j.tag) : s.commit j st un de re = s.commitNow j st un de re := by
  unfold State.commit
  refine if_neg fun hs => ?_
  obtain ⟨k, hk, hr⟩ := List.any_eq_true.mp hs
  split at hr
  · rename_i r e
    exact h k hk r e (by simpa using hr)
  · cases hr

/-- A descriptor that has written no accelerator memory, and of which no write has waited on the copy guard, commits at once (R53, R333). -/
theorem State.finish_now {s : State} {j : Job} (st un de re : Nat)
    (h : (s.pcie.wroteLinks.filter (fun w => w.1 = j.sr && w.2.1 = j.tag)) = []) (g : s.guardHolds j.sr j.tag = false)
    (f : Tbl.find s.mem.guardFail (ownerNum j.sr j.tag) = none) : s.finish j st un de re = s.commit j st un de re := by
  unfold State.finish; simp only [h, g, f, List.isEmpty_nil, Bool.not_false, Bool.and_self, if_true]

theorem State.commit_reports {s : State} {j : Job} (st un de re : Nat) (h : s.noSnap j.sr j.tag) : (s.commit j st un de re).reports j.sr j.tag st := by
  obtain ⟨e, m, h1, h2, h3, -⟩ := State.commitNow_mem s j st un de re
  rw [State.commit_now _ _ _ _ h]
  exact ⟨e, m, h1, h2, h3⟩

theorem State.commit_reportsWith {s : State} {j : Job} (st un de re : Nat) (h : s.noSnap j.sr j.tag) :
    (s.commit j st un de re).reportsWith j.sr j.tag st (re % 2 ^ 64) := by
  obtain ⟨e, m, h1, h2, h3, -, -, h4, -⟩ := State.commitNow_mem s j st un de re
  rw [State.commit_now _ _ _ _ h]
  exact ⟨e, m, h1, h2, h3, h4⟩

end Sys2Proof.Machine
end

