-- ==== Sys2Proof/Machine/Lands.lean ====
section
/-! DEFINITION. The land grid of the module (R505 to R508): which positions are populated, how a land is named, and what it carries. -/

namespace Sys2Proof.Machine

/-- The letters that name rows (R505). -/
def rowLetters : List Char := ['A', 'B', 'C', 'D', 'E', 'F', 'G', 'H', 'J', 'K', 'L', 'M', 'N', 'P', 'T', 'U', 'V', 'W', 'Y']

/-- The letter of an index into that set. -/
def rowLetter (i : Nat) : Char := rowLetters.getD i 'A'

/-- The name of row n, from 1 at the north edge to 228 (R505). -/
def rowName (n : Nat) : List Char := if n < 20 then [rowLetter (n - 1)] else [rowLetter ((n - 20) / 19), rowLetter ((n - 20) % 19)]

/-- The populated positions (R505): rows A to P and LF to LY, the edge columns of the rows between, and the central block. -/
def populated (r c : Nat) : Bool :=
  decide (1 ≤ r) && decide (r ≤ 228) && decide (1 ≤ c) && decide (c ≤ 228) &&
  (decide (r ≤ 14) || decide (215 ≤ r) || decide (c ≤ 14) || decide (215 ≤ c) || (decide (109 ≤ r) && decide (r ≤ 119) && decide (107 ≤ c) && decide (c ≤ 122)))

/-- One of the four lands of a lane: transmit or receive, positive or negative. -/
inductive LanePin
  | txp | txn | rxp | rxn
deriving DecidableEq, Repr

/-- What a land carries (R506 to R508). -/
inductive Land
  | vin56 | vrtn56 | gnd | rsvd
  | serdes (pin : LanePin) (lane : Nat)
  | pcie (pin : LanePin) (lane : Nat)
  | rootPort (port : Nat) (pin : LanePin) (lane : Nat)
  | refclkPcie (neg : Bool)
  | refclkRp (port : Nat) (neg : Bool)
  | refclkSd (die : Nat) (neg : Bool)
  | perstRp (port : Nat)
  | perst | wake | clkreq | xtalIn | xtalOut | time10m | timePps | timePpsOut | mgtScl | mgtSda | thermAlert
  | strapBoot (n : Nat) | strapSbaddr | strapFlashwp
  | spiClk | spiCs | spiDqs | spiDq (n : Nat) | spiReset
deriving DecidableEq, Repr

/-- The pins of a lane in the order in which R508 lists them. -/
def lanePin (i : Nat) : LanePin := match i % 4 with
  | 0 => .txp
  | 1 => .txn
  | 2 => .rxp
  | _ => .rxn

/-- Position (r, c) turned back by one rotation of R507, which maps (r, c) to (c, 229 - r). -/
def unrotate (rc : Nat × Nat) : Nat × Nat := (229 - rc.2, rc.1)

/-- The SerDes land at a position of PD0 (R507). -/
def serdesOf0 (r c : Nat) : Option (LanePin × Nat) :=
  let lane := (c - 19) / 3
  if c < 19 || (c - 19) % 3 ≠ 0 || 64 ≤ lane then none
  else match r with
    | 2 => some (.txp, lane)
    | 3 => some (.txn, lane)
    | 6 => some (.rxp, lane)
    | 7 => some (.rxn, lane)
    | _ => none

/-- The SerDes land at a position: PDp's are PD0's turned p times clockwise (R507). -/
def serdesAt (r c : Nat) : Option Land :=
  let p1 := unrotate (r, c)
  let p2 := unrotate p1
  let p3 := unrotate p2
  match serdesOf0 r c, serdesOf0 p1.1 p1.2, serdesOf0 p2.1 p2.2, serdesOf0 p3.1 p3.2 with
  | some e, _, _, _ => some (.serdes e.1 e.2)
  | _, some e, _, _ => some (.serdes e.1 (64 + e.2))
  | _, _, some e, _ => some (.serdes e.1 (128 + e.2))
  | _, _, _, some e => some (.serdes e.1 (192 + e.2))
  | _, _, _, _ => none

/-- Land k of the NE block, counted from 1 (R508). -/
def neLand (k : Nat) : Land :=
  if k ≤ 64 then .pcie (lanePin (k - 1)) ((k - 1) / 4)
  else match k with
    | 65 => .refclkPcie false
    | 66 => .refclkPcie true
    | 67 => .perst
    | 68 => .wake
    | 69 => .clkreq
    | 70 => .xtalIn
    | 71 => .xtalOut
    | 72 => .time10m
    | 73 => .timePps
    | 74 => .timePpsOut
    | 75 => .mgtScl
    | 76 => .mgtSda
    | 77 => .thermAlert
    | 78 => .strapBoot 0
    | 79 => .strapBoot 1
    | 80 => .strapSbaddr
    | 81 => .strapFlashwp
    | 82 => .spiClk
    | 83 => .spiCs
    | 84 => .spiDqs
    | 93 => .spiReset
    | _ => if k < 93 then .spiDq (k - 85) else .rsvd

/-- Land k of the SE block, counted from 1 (R508). -/
def seLand (k : Nat) : Land :=
  if k ≤ 64 then .rootPort ((k - 1) / 16) (lanePin (k - 1)) ((k - 1) / 4 % 4)
  else if k ≤ 72 then .refclkRp ((k - 65) / 2) ((k - 65) % 2 = 1)
  else if k ≤ 76 then .perstRp (k - 73)
  else if k ≤ 84 then .refclkSd ((k - 77) / 2) ((k - 77) % 2 = 1)
  else .rsvd

/-- The number of a land in a block whose first row is r0, where its column is one that takes a signal (R508). -/
def blockLand (r0 r c : Nat) : Option Nat := if c % 2 = 1 then some (7 * (r - r0) + (c - 215) / 2 + 1) else none

/-- What the land at row r, column c carries (R505 to R508); none where the position is not populated. -/
def land (r c : Nat) : Option Land :=
  if !populated r c then none
  else if (r ≤ 8 || 221 ≤ r) && c ≤ 6 then some .vin56
  else if (r ≤ 8 || 221 ≤ r) && c ≤ 12 then some .vrtn56
  else if 215 ≤ c && r ≤ 14 then some ((blockLand 1 r c).elim .gnd neLand)
  else if 215 ≤ c && 215 ≤ r then some ((blockLand 215 r c).elim .gnd seLand)
  else some ((serdesAt r c).getD .gnd)

end Sys2Proof.Machine
end

