-- ==== Sys2Proof/Tests/Slice0.lean ====
section
/-! SUPPORT. The tests: states for them, the checks that refuse an ill-formed command, the worked examples of the manual, and for each statement a
witness of every clause that has hypotheses: a state and operands that meet all of them together. -/

open Sys2Proof Sys2Proof.Machine Host

namespace Sys2Proof.Tests

set_option maxRecDepth 100000
set_option exponentiation.threshold 1000
set_option Elab.async false
set_option linter.unusedVariables false

/-! ## States and readings of results -/

/-- Descriptor bytes from (offset, value) pairs. -/
def D (l : List (Nat × Nat)) : Nat := (l.map (fun e => e.2 * 2 ^ (8 * e.1))).sum

/-- A descriptor that has started. -/
def jb (sr tag sl d : Nat) : Job :=
  { sr := sr, tag := tag, seq := 9, slice := sl, cr := 1, fence := false, irq := false, desc := d, phase := .started, moved := 0, prog := [] }

def slA : Slice := { Slice.none with state := .active }

/-- A device that runs, with slices 0 and 1, and the host's functions enabled. -/
def base : State := { State.reset with
  dev := .run, timeNs := 10 ^ 9, slices := [(0, slA), (1, slA)]
  regs := [(R.MGT_STATUS, 1)] ++ (List.range 16).map (fun k => (R.FWC_CORE_STATUS k, 1)) ++ [(R.PCI_STATUS, 0x1800)]
  pcie := { Pcie.empty with linkUp := true, retry0 := false, retry1 := false }
  clk := { State.reset.clk with linksUp := true } }

/-- base with these descriptors outstanding. -/
def jobs (l : List Job) : State := { base with ring := { base.ring with jobs := l } }

/-- A host ring of 16 entries at a bus or virtual address. -/
def loc0 : RingLoc := { loc := 0, link := 0, base := 4096, log2 := 4, por := 7 }

def sr0 : Sr := { slice := 0, at' := loc0, weight := 1, fallback := 0, fetched := 0, tail := 0, doomed := 0 }

def cr0 : Cr := { slice := 0, at' := loc0, eq := 0, modCount := 1, modTime := 5, head := 0, freed := 0, written := 0, since := 0, timer := none, stuck := false }

def eq0 : Sys2Proof.Machine.Eq := { slice := 0, at' := loc0, vector := 3, head := 0, freed := 0, written := 0, stuck := false }

/-- A region of slice sl that holds granule g, of generation 1. -/
def rgA (sl g : Nat) : Region := { ecc := false, interleave := false, slice := sl, gen := 1, granules := [g], refs := 0, listDpa := 0, hubMask := 1 }

/-- base with rings 0 and with region 1 of slice 1 (handle 0x10001), region 2 of slice 0 (0x10002) and region 3 of slice 1 (0x10003). -/
def full : State := { base with
  pasids := [(7, 0), (8, 1)], xlt := { base.xlt with asids := [(0, ⟨2, 0, 7, 0⟩), (1, ⟨2, 1, 8, 0⟩)] }
  ring := { base.ring with srs := [(0, sr0)], crs := [(0, cr0)], eqs := [(0, eq0)] }
  mem := { base.mem with regions := [(1, rgA 1 5), (2, rgA 0 6), (3, rgA 1 7)] } }

/-- full with these descriptors outstanding. -/
def fjobs (l : List Job) : State := { full with ring := { full.ring with jobs := l } }

/-- s with registers written. -/
def setRegs (s : State) (l : List (Nat × Nat)) : State := l.foldl (fun s e => s.wr e.1 e.2) s

def ioSt : Io (List Byte) → State | .ok s _ => s | .wait s => s | .fail s _ _ => s

def ioVal : Io (List Byte) → List Byte | .ok _ b => b | .wait _ => [] | .fail _ _ _ => []

def ioOk : Io (List Byte) → Bool | .ok _ _ => true | .wait _ => false | .fail _ _ _ => false

def resSt {α : Type} : Res α → State | .ok s _ => s | .fail s _ _ => s

def resVal : Res (List Byte) → List Byte | .ok _ b => b | .fail _ _ _ => []

def resOk {α : Type} : Res α → Bool | .ok _ _ => true | .fail _ _ _ => false

def wioSt : Wio → State | .ok s => s | .wait s => s | .fail s _ _ _ => s

def wioOk : Wio → Bool | .ok _ => true | .wait _ => false | .fail _ _ _ _ => false

theorem io_ok (r : Io (List Byte)) (h : ioOk r = true) : r = .ok (ioSt r) (ioVal r) := by cases r <;> simp_all [ioOk, ioSt, ioVal]

theorem res_ok (r : Res (List Byte)) (h : resOk r = true) : r = .ok (resSt r) (resVal r) := by cases r <;> simp_all [resOk, resSt, resVal]

theorem src_ok (r : Io (List Byte × List Byte)) (h : (match r with | .ok _ _ => true | _ => false) = true) (s : State) : r = .ok (match (generalizing := false) r with | .ok t _ => t | _ => s) ((match (generalizing := false) r with | .ok _ y => y.1 | _ => []), (match (generalizing := false) r with | .ok _ y => y.2 | _ => [])) := by cases r <;> simp_all

theorem wn_ok (r : Wio × Nat) (h : wioOk r.1 = true) : r = (.ok (wioSt r.1), r.2) := by rcases r with ⟨_ | _ | _, _⟩ <;> simp_all [wioOk, wioSt]

theorem resU_ok (r : Res Unit) (h : resOk r = true) : r = .ok (resSt r) () := by cases r <;> simp_all [resOk, resSt]

theorem wio_ok (r : Wio) (h : wioOk r = true) : r = .ok (wioSt r) := by cases r <;> simp_all [wioOk, wioSt]

/-- The check behind State.ready. -/
def readyB (s : State) (sr tag op : Nat) (j : Job) : Bool :=
  decide (s.job sr tag = some j) && decide (j.phase = .started) && decide (dOpcode j.desc = op) &&
  (match acceptingCore op with | some k => decide (s.coreState k = 1) | none => true) &&
  (s.pcie.wroteLinks.filter (fun w => w.1 = sr && w.2.1 = tag)).isEmpty && !s.guardHolds sr tag && (Tbl.find s.mem.guardFail (ownerNum sr tag)).isNone &&
  s.ckp.jobs.all (fun k => match k.2.run with | some r => !(r.sr = sr && r.tag = tag) | none => true)

theorem ready_of {s : State} {sr tag op : Nat} {j : Job} (h : readyB s sr tag op j = true) : s.ready sr tag op j := by
  unfold readyB at h
  simp only [Bool.and_eq_true, decide_eq_true_eq, List.isEmpty_iff, Bool.not_eq_true', Option.isNone_iff_eq_none] at h
  obtain ⟨⟨⟨⟨⟨⟨⟨h1, h2⟩, h3⟩, h4⟩, h5⟩, h6⟩, h7⟩, h8⟩ := h
  refine ⟨h1, h2, h3, ?_, h5, h6, h7, ?_⟩
  · intro k hk
    rw [hk] at h4
    simpa using h4
  · intro k hk r hr
    have := List.all_eq_true.1 h8 k hk
    rw [hr] at this
    intro hc
    simp [hc.1, hc.2] at this

/-- The check behind State.allLanded. -/
def landedB (s : State) (sr tag : Nat) : Bool :=
  (s.pcie.wroteLinks.filter (fun w => w.1 = sr && w.2.1 = tag)).isEmpty && !s.guardHolds sr tag && (Tbl.find s.mem.guardFail (ownerNum sr tag)).isNone &&
  s.ckp.jobs.all (fun k => match k.2.run with | some r => !(r.sr = sr && r.tag = tag) | none => true)

theorem landed_of {s : State} {sr tag : Nat} (h : landedB s sr tag = true) : s.allLanded sr tag := by
  unfold landedB at h
  simp only [Bool.and_eq_true, List.isEmpty_iff, Bool.not_eq_true', Option.isNone_iff_eq_none] at h
  obtain ⟨⟨⟨h5, h6⟩, h7⟩, h8⟩ := h
  refine ⟨h5, h6, h7, ?_⟩
  intro k hk r hr
  have := List.all_eq_true.1 h8 k hk
  rw [hr] at this
  intro hc
  simp [hc.1, hc.2] at this

theorem landeds {s : State} {l : List KceMsg} (h : l.all (fun x => landedB s x.sr x.tag) = true) : ∀ x ∈ l, s.allLanded x.sr x.tag :=
  fun x hx => landed_of (List.all_eq_true.1 h x hx)

/-- A channel of hub 0 from cell 7 to cell 8 of one hub, and a pipeline of slice 1 that has it. -/
def ch0 : Chan := { hub := 0, num := 5, sCell := 7, sIdx := 0, rCell := 8, rIdx := 0, buf := 128, size := 4, credits := 2, put := 3, sent := 1, recv := 1, freed := 0 }

def st0 : Stage := { unit := 7, always := false, progOff := 0, progLen := 64, loadOff := 0, nbr := 0, weight := 1, cells := [7, 8] }

def img0 : Image := { stages := [st0], chans := [ch0], frames := [], spines := [], grants := [], entryCount := 1, entries := [0], inits := [], dvfs := [], programs := [zeroBytes 64], digest := 9 }

def pipe0 : Pipe := { state := .loaded, prev := .loaded, slice := 1, img := img0, regions := [], pending := 0, late := 0, waves := 0, wave := none, queue := [], arm := none, plan := none, loader := (0, 1), bound := [] }

/-- full with pipeline 1 (handle 0x10001) loaded. -/
def withPipe (p : Pipe) : State := { full with pipes := { full.pipes with tab := [(1, p)], gen := [(1, 1)] }, chans := [(1, p.img.chans)] }

/-- Memory that holds bytes from an address. -/
def memAt (a : Nat) (bs : List Byte) : Mem := ((bs.zip (List.range bs.length)).filter (fun p => p.1 != 0)).map (fun p => (a + p.2, p.1))

theorem res_eq {r : Res (List Byte)} {s : State} {b : List Byte} (h : (match r with | .ok t y => decide (t = s) && decide (y = b) | _ => false) = true) : r = .ok s b := by
  cases r <;> simp_all

/-- The image of one stage on cell 7, with one entry and no channel. -/
def imgRest : List Byte := zeroBytes 112 ++ (leBytes 4 7 ++ zeroBytes 4 ++ leBytes 4 324 ++ leBytes 4 60 ++ zeroBytes 8 ++ leBytes 2 1 ++ zeroBytes 38) ++ zeroBytes 4 ++ zeroBytes 60

def imgBytes : List Byte :=
  leBytes 4 0x39504946 ++ [0, 1, 0, 0] ++ leBytes 4 384 ++ leBytes 2 1 ++ leBytes 2 0 ++ [0, 1, 0, 0] ++ [0] ++ List.replicate 11 255 ++ zeroBytes 16 ++ leBytes 4 256 ++ zeroBytes 16 ++
    leBytes 4 320 ++ zeroBytes 24 ++ leBytes 48 0x6db6c5e9e9ebf8c695c653cc5bc0f19ea53e3b1b27a33ce6f6c81bd1698c5f2d386beae3571d1e06b531f429ae743503 ++ imgRest

/-- The record of a plan of one rank, device index 5, with one phase and the image above. -/
def planRest : List Byte := leBytes 2 5 ++ zeroBytes 2 ++ ([0, 0, 0, 1] ++ zeroBytes 12 ++ leBytes 4 32 ++ zeroBytes 44) ++ zeroBytes 60 ++ imgBytes

def planBytes : List Byte :=
  leBytes 4 0x4C504343 ++ [0, 1] ++ leBytes 2 5 ++ leBytes 4 7 ++ leBytes 2 1 ++ [1, 0] ++ leBytes 4 640 ++ leBytes 4 128 ++ leBytes 4 132 ++ leBytes 4 256 ++ leBytes 4 128 ++
    zeroBytes 12 ++ leBytes 48 0x14d193f027fc79670abb02b519e8ddb27d2627cbbbcc420240f92efe6e7739a79068df714e49bda111ca353a5b08708a ++ zeroBytes 32 ++ planRest

def ph0 : CPhase := collPhase ([0, 0, 0, 1] ++ zeroBytes 12 ++ leBytes 4 32 ++ zeroBytes 44)

def plan0 : Plan :=
  { state := 1, slice := 1, planId := 7, deviceIndex := 5, ranks := [5], qps := [], phases := [ph0], timeoutMs := 1000, seed := 0, pipe := 1, regions := []
    current := none, checked := [], matched := [], owed := [], queue := [], stopped := [], done := [], resid := [], residN := [] }

def cst0 : CStep := { sr := 0, tag := 6, count := 2, step := 3, inRegion := 0x10001, inOff := 0, outRegion := 0x10003, outOff := 64, outBytes := 0, onDone := none }

/-- Plan 0 (handle 0) over pipeline 1, with these descriptors outstanding and the features agreed. -/
def withPlan (p : Plan) (q : Pipe) (l : List Job) : State :=
  let s := withPipe q
  { s with colls := { s.colls with plans := [(0, p)] }, ring := { s.ring with jobs := l }, regs := (R.FWC_AGREED, 255) :: s.regs }

/-- A connected QP of slice 1. -/
def qp0 : Qp :=
  { slice := 1, rm := false, sched := false, encrypt := false, ipv6 := false, vlan := false, payload := 4096, port := 0, subport := 0, denux := false
    compAllowed := 3, pasid := 8, recvCr := 0, key := 0, nextKey := 0, dscp := 0, pcp := 0, peerIndex := 0, localIndex := 0, peerIp := zeroBytes 16, peerMac := 0
    peerQp := 77, retry := 3, rnrRetry := 3, ackCoalesce := 1, state := .rts, paths := [⟨0, 0, 0, 0, false, 0, 0, 0, 0⟩, ⟨0, 0, 0, 0, false, 0, 0, 0, 0⟩]
    nextPsn := 0, nextMsn := 0, nextSsn := 0, ackBase := 0, unacked := [], msgs := [], expiries := 0, paused := false, keyPhase := false, keyPkts := 0, rekey := false
    closing := none, flushing := [], base := 0, rxMsn := 0, rxSet := [], rxMsgs := [], recvs := [], recvNext := 0, atomics := [], sinceAck := 0, ceCount := 0
    echoTs := 0, echoPath := 0, rxPhase := false, grace := false, responses := [], waiting := [], rxFault := none, parity := 0, ackSince := 0, graceSince := 0 }

/-- The record of a schedule with no gate list and no window. -/
def schedBytes : List Byte := leBytes 4 0x31534C54 ++ leBytes 2 3 ++ leBytes 2 0 ++ leBytes 4 1048576 ++ zeroBytes 12 ++ leBytes 4 128 ++ zeroBytes 4 ++ leBytes 48 0x5bb99848f1d21ad5fb656fe7bfde4e27dae1f663bfc70c4c4307be1411b7fd216ae3b1b17e32d94c3896ac51a760b038 ++ zeroBytes 48

theorem img_of {r : ImgRes} {s : State} {i : Image} (h : (match r with | .ok t k => decide (t = s) && decide (k = i) | .fail _ _ _ => false) = true) : r = .ok s i := by
  cases r <;> simp_all

/-- Instruction bytes, filled up to 16. -/
def ib (l : List Nat) : List Byte := (l.map (BitVec.ofNat 8)) ++ List.replicate (16 - l.length) 0

def en (l : List Nat) : Enc := (decode (ib l)).getD Enc.start

/-- Sequencer k runs, slice 1 owning it, with these bytes next at its pc and these registers. -/
def atSeq (k : Nat) (l : List Nat) (r : List (Nat × TW)) : State :=
  let s : State := { full with seqs := [(k, { Seq.fresh with pre := ib l, r := r, pc := 64, icount := 7, pipe := some (1, 0, 0), cs := if 1536 ≤ k then 2 ^ 13 else 0 })] }
  if k < 1536 then s.wr (R.LAT_CELL_STATE k) (2 + 256) else s

/-- The check behind State.clearsChecks. -/
def clearB (s : State) (k : Nat) (e : Enc) : Bool :=
  (!isCore k || (s.seq k).mpuOk 0 (s.seq k).pc e.len 3) && e.legal (isCore k) (s.seq k).ti && (!e.privileged || (s.seq k).kernel) && (e.op != 0x09 || e.waive) &&
  (match e.pred with | none => true | some p => decide (((s.seq k).reg (p % 32)).tag = tgBool) && decide (((s.seq k).reg (p % 32)).val % 2 = 1 - b2n (bit p 5))) &&
  (match e.cntr with | none => true | some c => decide (((s.seq k).reg (c % 32)).tag = tgUint) && decide (0 < ((s.seq k).reg (c % 32)).val) && decide (((s.seq k).reg (c % 32)).val ≤ 2 ^ 20))

theorem clear_of {s : State} {k : Nat} {e : Enc} (h : clearB s k e = true) : s.clearsChecks k e := by
  unfold clearB at h
  simp only [Bool.and_eq_true, Bool.or_eq_true, Bool.not_eq_true', bne_iff_ne, ne_eq] at h
  obtain ⟨⟨⟨⟨⟨h1, h2⟩, h3⟩, h4⟩, h5⟩, h6⟩ := h
  refine ⟨?_, h2, ?_, ?_, ?_, ?_⟩
  · intro a; rcases h1 with b | b
    · simp_all
    · exact b
  · intro a; rcases h3 with b | b
    · simp_all
    · exact b
  · intro a; rcases h4 with b | b
    · exact absurd a b
    · exact b
  · intro p hp; rw [hp] at h5; simpa using h5
  · intro p hp; rw [hp] at h6; simpa [and_assoc] using h6

/-- The instruction found, as data. -/
def foundB (s : State) (k op : Nat) (e : Enc) (bs : List Byte) : Bool :=
  s.canIssue k false && (match s.fetchAt k (s.seq k) with | .instr e' bs' => decide (e' = e) && decide (bs' = bs) | _ => false) && decide (e.op = op)

theorem fetch_of {s : State} {k : Nat} {e : Enc} {bs : List Byte}
    (h : (match s.fetchAt k (s.seq k) with | .instr e' bs' => decide (e' = e) && decide (bs' = bs) | _ => false) = true) : s.fetchAt k (s.seq k) = .instr e bs := by
  cases e1 : s.fetchAt k (s.seq k) <;> rw [e1] at h <;> simp_all

theorem finds_of {s : State} {k op : Nat} {e : Enc} {bs : List Byte} (h : foundB s k op e bs = true) : s.finds k op e bs := by
  unfold foundB at h
  simp only [Bool.and_eq_true, decide_eq_true_eq] at h
  exact ⟨h.1.1, fetch_of h.1.2, h.2⟩

def foundBytes (s : State) (k : Nat) : List Byte := match s.fetchAt k (s.seq k) with | .instr _ bs => bs | _ => []

theorem executes_of {s : State} {k op : Nat} {e : Enc} (h : (foundB s k op e (foundBytes s k) && clearB (s.issuing k e) k e && !e.waive) = true) :
    s.executes k op e := by
  simp only [Bool.and_eq_true, Bool.not_eq_true'] at h
  exact ⟨⟨foundBytes s k, finds_of h.1.1⟩, clear_of h.1.2, h.2⟩

theorem isrc_of {x : Except Nat (Nat × Int × Bool)} {v : Nat × Int × Bool} (h : (match x with | .ok w => decide (w = v) | .error _ => false) = true) : x = .ok v := by
  cases x <;> simp_all

theorem opnds_of {r : Except VRead (State × List (List Byte × Option Nat))} {s : State} {l : List (List Byte × Option Nat)}
    (h : (match r with | .ok p => decide (p = (s, l)) | .error _ => false) = true) : r = .ok (s, l) := by
  cases r <;> simp_all

/-- The next state of an outcome. -/
def nextOf (o : Host.Outcome State Fault Refusal) : State := match o with | .next s => s | _ => State.reset

def isNext (o : Host.Outcome State Fault Refusal) : Bool := match o with | .next _ => true | _ => false

theorem next_of {o : Host.Outcome State Fault Refusal} {t : State} (h : isNext o = true) (hp : nextOf o = t) : o = .next t := by
  cases o with
  | next s => exact congrArg _ hp
  | fault f => cases h
  | refused r => cases h

def rxSt {α : Type} : Rx α → State | .ok s _ => s | .pause s => s | .wait s => s | .bad s _ => s

def rxVal : Rx (List Byte) → List Byte | .ok _ b => b | .pause _ => [] | .wait _ => [] | .bad _ _ => []

def rxOk {α : Type} : Rx α → Bool | .ok _ _ => true | .pause _ => false | .wait _ => false | .bad _ _ => false

theorem rx_ok (r : Rx (List Byte)) (h : rxOk r = true) : r = .ok (rxSt r) (rxVal r) := by cases r <;> simp_all [rxOk, rxSt, rxVal]

theorem rxU_ok (r : Rx Unit) (h : rxOk r = true) : r = .ok (rxSt r) () := by cases r <;> simp_all [rxOk, rxSt]

theorem pick_ok {α β γ : Type} {o : Option (α × β × γ)} (h : o.isSome = true) : o = some ((o.get h).1, (o.get h).2.1, (o.get h).2.2) := (Option.some_get h).symm

/-- A message of QP 9 whose one packet has been sent, and a packet that arrives for it; key 3 of slice 1 is its region 1. -/
def msg0 : Msg :=
  { sr := 0, tag := 5, op := 0x30, remote := 0, ak := 0, len := 4, per := 4096, npkt := 1, comp := 0, zrw := 0, ctr := 0, imm := 0, operand := 0, compare := 0, lloc := 2
    lhandle := 0x10001, laddr := 64, data := some [1, 2, 3, 4], started := true, msn := 0, psn0 := 0, ssn := 0, sent := 1, got := [], old := 0, rnr := 0, rnrWait := false, rnrSince := 0
    done := false, inner := false }

def pk (ty : Nat) : Pkt := { Pkt.ofType ty with dstQp := 9, tstamp := 10 ^ 9, w18 := 49154, addr := 64, payload := [1, 2, 3, 4] }

/-- 100 of each object kind. -/
def quota1 : Nat := 0x40003f0064006400000064000000640000006400000064

/-- fjobs with the transport running, QP 9, key 3 (0xC002) for region 1, and counter 6. -/
def tmSt (q : Qp) (l : List Job) : State := setRegs
  { fjobs l with tmt := { qps := [(9, q)], cooling := [], aks := [(3, ⟨1, 1, 7, 0x10001⟩)], akGen := [(3, 2)], ctrs := [(6, ⟨1, 0, 0, false, []⟩)] } } [(R.TMT_CTRL, 70327), (R.SLC_QUOTA 1, quota1)]

def qpD : Qp := { qp0 with denux := true }

/-- Namespace 5 of slice 1 on a drive, and a PF1 controller that is ready: queue 0, and queue 1 with a command to fetch. -/
def ns0 : Ns :=
  { kind := 0, vis := true, ro := false, port := 0, owner := 1, backing := 0, remote := 0, start := 0, blocks := 1000, logLba := 2000, logBlocks := 64, staging := 0
    vwc := true, logId := 5, seq := 3, pos := 7, sbSeq := 3, sbPos := 7, opened := [], closed := [], homing := [], lost := false, notReady := false
    needReplay := false, exported := none, sbAt := 0, since := 0 }

def stor0 (x : Ns) : Stor := { State.reset.stor with
  rdy := true, enabled := true, sqs := [(0, ⟨0x100000, 16, 0, 0, 1⟩), (1, ⟨0x200000, 16, 1, 0, 1⟩)]
  cqs := [(0, ⟨0x300000, 16, 0, 0, true, 0, true, 0, 0⟩), (1, ⟨0x400000, 16, 0, 0, true, 1, true, 0, 0⟩)], nss := [(5, x)] }

def withStor (t : Stor) (l : List Job) : State := { fjobs l with stor := t }

/-- A command of PF1: opcode, namespace, CDW10 to CDW13. -/
def nvc (op ns : Nat) (c : List Nat) : Nat := D ([(0, op), (2, 77), (4, ns), (24, 0x500000)] ++ (c.zip (List.range c.length)).map (fun e => (40 + 4 * e.2, e.1)))

/-- s with a write cache of 600 granules in region 9. -/
def cached (s : State) : State := setRegs
  { s with mem := { s.mem with regions := s.mem.regions ++ [(9, { rgA 0 0 with ecc := true, granules := List.range' 1000 600 })] } } [(R.NVM_CACHE, 0x10009)]

/-- s in a timing domain with number v. -/
def inDomain (s : State) (v : Nat) : State := { s with regs := Tbl.put s.regs R.TLN_DOMAIN v }

/-- A domain number compares with the one the device has, and with another. -/
theorem dom_ok {s : State} {x : Nat} (h : s.rd R.TLN_DOMAIN = x) : x % 2 ^ 16 = s.rf R.TLN_DOMAIN 0 16 := by
  unfold State.rf fld
  rw [h, Nat.shiftRight_zero]

theorem dom_ne {s : State} {x : Nat} (h : s.rd R.TLN_DOMAIN = x + 1) : x % 2 ^ 16 ≠ s.rf R.TLN_DOMAIN 0 16 := by
  unfold State.rf fld
  rw [h, Nat.shiftRight_zero]
  omega

/-- No vector is pending when every word of the pending bits is zero. -/
theorem pba_clear {s : State} (h : ∀ w, w < 32 → s.rd (pbaWord 0 (64 * w)) = 0) (v : Nat) (hv : v < 2048) : s.rf (pbaWord 0 v) (v % 64) 1 = 0 := by
  have e : pbaWord 0 v = pbaWord 0 (64 * (v / 64)) := by
    unfold pbaWord
    rw [if_pos rfl, if_pos rfl, Nat.mul_div_cancel_left _ (by decide)]
  unfold State.rf fld
  rw [e, h _ (by omega), Nat.zero_shiftRight, Nat.zero_mod]

/-! ## Reads of regions without ECC -/

theorem touch_plain {s : State} {h o : Nat} (hc : s.mem.chDown = []) : s.touchChannel h o = s := by
  have e : ({ s.mem with chDown := setDel s.mem.chDown (96 * h + channelOf o) } : MemSt) = s.mem := by
    rw [hc]
    show ({ s.mem with chDown := [] } : MemSt) = s.mem
    rw [← hc]
  unfold State.touchChannel
  rw [e]

theorem readPieces_plain {s : State} {d : Nat → Nat} {st : Nat} (hc : s.mem.chDown = []) : ∀ (ps : List (Nat × Nat)) (acc : List Byte),
    (∀ p ∈ ps, d p.1 < 0x48000000000 ∧ s.eccOn (d p.1 - d p.1 % 64) = false) →
    s.readPieces d st ps acc = .ok s (acc ++ (ps.map (fun p => Mem.bytes s.mem.bytes (d p.1) p.2)).flatten)
  | [], acc, _ => by simp [State.readPieces]
  | p :: ps, acc, h => by
    obtain ⟨h1, h2⟩ := h p (by simp)
    have h3 : s.checkArea (d p.1) = false := by
      have q : (d p.1 - d p.1 % 64) / 2097152 = d p.1 / 2097152 := by omega
      unfold State.eccOn at h2
      rw [q] at h2
      unfold State.checkArea State.eccOn
      rw [h2, Bool.and_false]
    have e : s.readPiece (d p.1) p.2 (p.1 - st) 1 = .ok s (Mem.bytes s.mem.bytes (d p.1) p.2) := by
      simp [State.readPiece, place, h1, touch_plain hc, State.readLine, h2, h3]
    simp only [State.readPieces, e]
    rw [readPieces_plain hc ps _ (fun q hq => h q (by simp [hq]))]
    simp

theorem bytes_add (m : Mem) (a n k : Nat) : Mem.bytes m a (n + k) = Mem.bytes m a n ++ Mem.bytes m (a + n) k := by
  unfold Mem.bytes
  rw [List.range_add, List.map_append, List.map_map]
  simp [Function.comp_def, Nat.add_assoc]

theorem pieces_bytes (m : Mem) (base : Nat) : ∀ fuel a n, (n = 0 ∨ n + a % 64 ≤ 64 * fuel) →
    ((pieces 64 fuel a n).map (fun p => Mem.bytes m (base + p.1) p.2)).flatten = Mem.bytes m (base + a) n
  | 0, a, n, h => by
    have : n = 0 := by omega
    subst this; simp [pieces, Mem.bytes]
  | fuel + 1, a, n, h => by
    unfold pieces
    by_cases h0 : n = 0
    · subst h0; simp [Mem.bytes]
    · simp only [h0, if_false, List.map_cons, List.flatten_cons]
      rw [pieces_bytes m base fuel _ _ (by rcases Nat.le_total n (64 - a % 64) with h1 | h1 <;> simp only [Nat.min_eq_left, Nat.min_eq_right, h1] <;> omega), ← Nat.add_assoc, ← bytes_add]
      congr 1
      omega

theorem pieces_mem : ∀ fuel a n, ∀ p ∈ pieces 64 fuel a n, p.1 < a + n
  | 0, a, n, p, h => by simp [pieces] at h
  | fuel + 1, a, n, p, h => by
    unfold pieces at h
    by_cases h0 : n = 0
    · simp [h0] at h
    · simp only [h0, if_false, List.mem_cons] at h
      rcases h with h | h
      · subst h; show a < a + n; omega
      · have := pieces_mem fuel _ _ p h; omega

/-- A region without ECC of granules in a row reads as its memory holds it, and no state changes. -/
theorem readRegion_plain {s : State} {r : Region} {g0 : Nat} (off n : Nat) (hr : r.ecc = false) (hc : s.mem.chDown = [])
    (hg : ∀ i, i < r.granules.length → nth r.granules i 0 = g0 + i ∧ g0 + i < 2000000 ∧ s.eccOn ((g0 + i) * 2097152) = false)
    (hn : off + n ≤ r.dataBytes) : s.readRegion r off n = .ok s (Mem.bytes s.mem.bytes (g0 * 2097152 + off) n) := by
  have hd : r.dataBytes = r.granules.length * 2097152 := by simp [Region.dataBytes, granData, hr]
  have dpa : ∀ a, a < r.dataBytes → r.dpa a = g0 * 2097152 + a ∧ a / 2097152 < r.granules.length := by
    intro a ha
    have hl : a / 2097152 < r.granules.length := by omega
    refine ⟨?_, hl⟩
    have e : granData r.ecc = 2097152 := by simp [granData, hr]
    unfold Region.dpa
    rw [e, (hg _ hl).1]
    omega
  have hm := pieces_mem (n / 64 + 2) off n
  unfold State.readRegion linePieces
  rw [if_neg (by omega), readPieces_plain hc]
  · rw [List.nil_append]
    refine congrArg (Res.ok s) ?_
    rw [← pieces_bytes s.mem.bytes (g0 * 2097152) (n / 64 + 2) off n (by omega)]
    refine congrArg List.flatten (List.map_congr_left ?_)
    intro p hp
    rw [(dpa p.1 (by have := hm p hp; omega)).1]
  · intro p hp
    obtain ⟨h1, h2⟩ := dpa p.1 (by have := hm p hp; omega)
    obtain ⟨_, h4, h5⟩ := hg _ h2
    rw [h1]
    refine ⟨by omega, ?_⟩
    have e : (g0 * 2097152 + p.1 - (g0 * 2097152 + p.1) % 64) / 2097152 = g0 + p.1 / 2097152 := by omega
    unfold State.eccOn at h5 ⊢
    rw [e]
    rwa [Nat.mul_div_cancel _ (by omega)] at h5

theorem bytes_sub (m : Mem) (a N i n : Nat) (h : i + n ≤ N) : bsub (Mem.bytes m a N) i n = Mem.bytes m (a + i) n := by
  obtain ⟨k, rfl⟩ : ∃ k, N = i + (n + k) := ⟨N - i - n, by omega⟩
  have l1 : (Mem.bytes m a i).length = i := by simp [Mem.bytes]
  have l2 : (Mem.bytes m (a + i) n).length = n := by simp [Mem.bytes]
  unfold bsub
  rw [bytes_add m a i, bytes_add m (a + i) n]
  rw [List.drop_append_of_le_length (by omega), List.drop_of_length_le (by omega), List.nil_append, List.take_append_of_le_length (by omega), List.take_of_length_le (by omega)]

/-! ## Checkpoint fixtures -/

/-- Job 0 (handle 768) of slice 1: shard region 3, snapshot area 4, buddy region 5, heartbeat region 6, manifest region 7, seal key 0x100007. -/
def ck0 : CkJob :=
  { slice := 1, index := 2, jobId := 77, standby := false, holder := true, second := false, key := 0x100007, snap := 0x10004, buddy := 0x10005, manifest := 0x10007
    hb := 0x10006, slotBytes := 1048576, total := 1, peers := [⟨3, 1, [9], 49154⟩, ⟨4, 4, [9], 49154⟩], shards := [[(0x10003, 2)]], last := 6, first := true
    holds := none, run := none, hbAt := 0, tickAt := 0 }

def mfR : Region := { rgA 1 0 with granules := [16, 17, 18, 19, 20, 21] }

def keyS (kind usage : Nat) (key : List Byte) : KeySlot := { slice := 1, kind := kind, usage := usage, key := key, pub := [], dead := false }

def ckSt (k : CkJob) (l : List Job) (m : Mem) : State := { tmSt qpD l with
  mem := { full.mem with bytes := m, regions := full.mem.regions ++ [(4, rgA 1 8), (5, rgA 1 9), (6, rgA 1 10), (7, mfR)] }
  kce := { full.kce with slots := [(7, keyS 5 128 [1, 2, 3])], gen := [(7, 1)] }, ckp := { jobs := [(0, k)], gen := [(0, 3)], watches := [] } }

theorem mf_read {s : State} (off n : Nat) (hc : s.mem.chDown = []) (h6 : ∀ i, i < 6 → s.eccOn ((16 + i) * 2097152) = false) (hn : off + n ≤ 6 * 2097152) :
    s.readRegion mfR off n = .ok s (Mem.bytes s.mem.bytes (16 * 2097152 + off) n) := by
  refine readRegion_plain off n rfl hc ?_ hn
  intro i hi
  have hi : i < 6 := hi
  refine ⟨?_, by omega, h6 i hi⟩
  match i, hi with
  | 0, _ => rfl
  | 1, _ => rfl
  | 2, _ => rfl
  | 3, _ => rfl
  | 4, _ => rfl
  | 5, _ => rfl

theorem ck_ecc (k : CkJob) (l : List Job) (m : Mem) : ∀ i, i < 6 → (ckSt k l m).eccOn ((16 + i) * 2097152) = false
  | 0, _ => rfl
  | 1, _ => rfl
  | 2, _ => rfl
  | 3, _ => rfl
  | 4, _ => rfl
  | 5, _ => rfl
  | n + 6, h => by omega

theorem entry_of (m : Mem) (a i j n : Nat) (hi : i < 65536) (hj : j + n ≤ 80) :
    leAt (sect (Mem.bytes m a manifestBytes) 128 80 i) j n = leNat (Mem.bytes m (a + (128 + i * 80) + j) n) := by
  unfold leAt sect
  rw [bytes_sub m a manifestBytes _ 80 (by simp only [manifestBytes]; omega), bytes_sub _ _ _ _ _ hj]

theorem zero_byte (m : Mem) (a : Nat) (h : Mem.get m a = 0) : leNat (Mem.bytes m a 1) = 0 := by
  simp [Mem.bytes, h, leNat]

theorem entries_none (m : Mem) (a T : Nat) (h : ∀ x, a + 128 ≤ x → Mem.get m x = 0) : countEntries (Mem.bytes m a manifestBytes) T = (0, true) := by
  have e : ((List.range 65536).map (sect (Mem.bytes m a manifestBytes) 128 80)).filter (fun e => bit (leAt e 3 1) 0 && leAt e 4 4 = T) = [] := by
    rw [List.filter_eq_nil_iff]
    intro e he
    obtain ⟨i, hi, rfl⟩ := List.mem_map.1 he
    rw [entry_of m a i 3 1 (List.mem_range.1 hi) (by omega), zero_byte _ _ (h _ (by omega))]
    simp [bit]
  unfold countEntries
  rw [e]
  rfl

theorem entries_one (m : Mem) (a T : Nat) (h : ∀ x, a + 132 ≤ x → Mem.get m x = 0) (h3 : leNat (Mem.bytes m (a + 128 + 3) 1) = 1)
    (h4 : leNat (Mem.bytes m (a + 128 + 4) 4) = T) : countEntries (Mem.bytes m a manifestBytes) T = (1, false) := by
  have hr : List.range 65536 = 0 :: (List.range 65535).map Nat.succ := List.range_succ_eq_map
  have e : ((List.range 65536).map (sect (Mem.bytes m a manifestBytes) 128 80)).filter (fun e => bit (leAt e 3 1) 0 && leAt e 4 4 = T) =
      [sect (Mem.bytes m a manifestBytes) 128 80 0] := by
    rw [hr, List.map_cons, List.filter_cons]
    rw [entry_of m a 0 3 1 (by omega) (by omega), entry_of m a 0 4 4 (by omega) (by omega)]
    rw [h3, h4]
    simp only [bit, Nat.testBit_zero, decide_true, Bool.and_self, if_true, Nat.one_mod]
    refine congrArg (List.cons _) ?_
    rw [List.filter_eq_nil_iff]
    intro e he
    obtain ⟨i, hi, rfl⟩ := List.mem_map.1 he
    obtain ⟨k, hk, rfl⟩ := List.mem_map.1 hi
    have hk := List.mem_range.1 hk
    rw [entry_of m a (Nat.succ k) 3 1 (by omega) (by omega), zero_byte _ _ (h _ (by omega))]
    simp
  unfold countEntries
  rw [e]
  have e3 : leAt (sect (Mem.bytes m a manifestBytes) 128 80 0) 3 1 = 1 := by rw [entry_of m a 0 3 1 (by omega) (by omega)]; exact h3
  simp [e3, bit, Nat.testBit]

theorem shaBlock_length {h : List Nat} (bs : List Byte) (hl : h.length = 8) : (shaBlock h bs).length = 8 := by
  have hr : ∀ (l : List (Nat × Nat)) (h : List Nat), h.length = 8 → (l.foldl shaRound h).length = 8 := by
    intro l
    induction l with
    | nil => intro h hl; exact hl
    | cons p l ih =>
      intro h hl
      rw [List.foldl_cons]
      apply ih
      unfold shaRound
      split <;> simp_all
  unfold shaBlock
  simp [hl, hr _ _ hl]

theorem sha384_length (bs : List Byte) : (sha384 bs).length = 48 := by
  have hb : ∀ n (h : List Nat) (bs : List Byte), h.length = 8 → (shaBlocks n h bs).length = 8 := by
    intro n
    induction n with
    | zero => intro h bs hl; exact hl
    | succ n ih => intro h bs hl; exact ih _ _ (shaBlock_length _ hl)
  have hw : (shaWords shaH bs).length = 8 := hb _ _ _ rfl
  have hle : ∀ n x, (leBytes n x).length = n := by
    intro n
    induction n with
    | zero => intro x; rfl
    | succ n ih => intro x; simp [leBytes, ih]
  unfold sha384
  match shaWords shaH bs, hw with
  | [a, b, c, d, e, f, g, i], _ => simp [beBytes, hle]

theorem leBytes_length : ∀ n x, (leBytes n x).length = n
  | 0, _ => rfl
  | n + 1, x => congrArg (· + 1) (leBytes_length n (x / 256))

theorem seal_length (key head d : List Byte) : (sealOf key head d).length = 48 := sha384_length _

/-- A sealed manifest slot of step 6 of job 77 with no entry, under the key [1, 2, 3]. -/
def slot6 : List Byte :=
  let head := leBytes 4 0x4E4D4B43 ++ leBytes 4 77 ++ leBytes 4 6 ++ leBytes 4 0
  let digest := sha384 (zeroBytes 5242880)
  head ++ leBytes 1 1 ++ zeroBytes 15 ++ digest ++ sealOf [1, 2, 3] head digest ++ zeroBytes 5242880

def head6 : List Byte := leBytes 4 0x4E4D4B43 ++ leBytes 4 77 ++ leBytes 4 6 ++ leBytes 4 0

theorem slot6_parts : ∃ d q : List Byte, d.length = 48 ∧ q.length = 48 ∧ d = sha384 (zeroBytes 5242880) ∧ q = sealOf [1, 2, 3] head6 d ∧
    slot6 = head6 ++ (leBytes 1 1 ++ zeroBytes 15) ++ d ++ q ++ zeroBytes 5242880 :=
  ⟨_, _, sha384_length _, by unfold sealOf hmac384 hmacOf; exact sha384_length _, rfl, rfl, by simp only [slot6, head6, List.append_assoc]⟩

theorem slot6_candidate : candidate { ck0 with total := 0 } [1, 2, 3] slot6 9 = true := by
  obtain ⟨d, q, hd, hq, ed, eq, e⟩ := slot6_parts
  have h32 : (head6 ++ (leBytes 1 1 ++ zeroBytes 15)).length = 32 := rfl
  have hz : (zeroBytes 5242880).length = 5242880 := List.length_replicate
  have hlen : slot6.length = manifestBytes := by rw [e]; simp only [List.length_append, h32, hd, hq, hz]; rfl
  have hdrop : (slot6.take manifestBytes).drop 128 = zeroBytes 5242880 := by
    rw [← hlen, List.take_length, e, List.drop_left' (by simp only [List.length_append, h32, hd, hq])]
  have hsub : ∀ i n, i + n ≤ 32 → bsub slot6 i n = bsub (head6 ++ (leBytes 1 1 ++ zeroBytes 15)) i n := by
    intro i n h
    unfold bsub
    rw [e, List.append_assoc, List.append_assoc, List.drop_append_of_le_length (by omega), List.take_append_of_le_length (by rw [List.length_drop]; omega)]
  have hd' : bsub slot6 32 48 = d := by
    unfold bsub
    rw [e, List.append_assoc, List.append_assoc, List.drop_left' h32, List.take_left' hd]
  have hq' : bsub slot6 80 48 = q := by
    unfold bsub
    rw [e, List.append_assoc, List.drop_left' (by simp only [List.length_append, h32, hd]), List.take_left' hq]
  have h16 : slot6.take 16 = head6 := by
    have := hsub 0 16 (by omega)
    unfold bsub at this
    rw [List.drop_zero] at this
    rw [this]; rfl
  have h8 : leAt slot6 8 4 = 6 := by unfold leAt; rw [hsub 8 4 (by omega)]; rfl
  have hs : sealedFor slot6 { ck0 with total := 0 } 6 = true := by
    unfold sealedFor leAt
    rw [hsub 0 4 (by omega), hsub 4 4 (by omega), hsub 8 4 (by omega), hsub 16 1 (by omega)]
    rfl
  have hc : countEntries slot6 6 = (0, true) := by
    have e' : ((List.range 65536).map (sect slot6 128 80)).filter (fun e => bit (leAt e 3 1) 0 && leAt e 4 4 = 6) = [] := by
      rw [List.filter_eq_nil_iff]
      intro x hx
      obtain ⟨i, hi, rfl⟩ := List.mem_map.1 hx
      have hz : sect slot6 128 80 i = ((zeroBytes 5242880).drop (i * 80)).take 80 := by
        unfold sect bsub
        rw [← List.drop_drop, e, List.drop_left' (by simp only [List.length_append, h32, hd, hq])]
      have hl : leAt (sect slot6 128 80 i) 3 1 = 0 := by
        rw [hz]
        unfold leAt bsub zeroBytes
        simp only [List.drop_replicate, List.take_replicate]
        generalize min 1 _ = k
        have : ∀ k, leNat (List.replicate k (0 : Byte)) = 0 := by
          intro k
          induction k with
          | zero => rfl
          | succ k ih => rw [List.replicate_succ, leNat, ih]; rfl
        exact this _
      rw [hl]
      simp [bit]
    unfold countEntries
    rw [e']
    rfl
  unfold candidate
  simp only [h8, hlen, hs, hdrop, hd', hq', hc]
  have hseal : sealOf [1, 2, 3] slot6 (sha384 (zeroBytes 5242880)) = q := by
    rw [eq, ed]
    unfold sealOf
    rw [h16]
    rfl
  rw [hseal, ed]
  simp

theorem slot_read {s : State} {k : CkJob} (N : Nat) (hr : s.region k.manifest k.slice = some mfR) (hc : s.mem.chDown = [])
    (h6 : ∀ i, i < 6 → s.eccOn ((16 + i) * 2097152) = false) (hN : N ≤ 6 * 2097152) :
    s.slotRead k 0 N = (s, Mem.bytes s.mem.bytes (16 * 2097152) N) := by
  have e := mf_read 0 N hc h6 (by omega)
  unfold State.slotRead
  rw [hr]
  show (match s.readRegion mfR 0 N with | .ok s b => (s, b) | .fail s _ _ => (s, [])) = _
  rw [e]

/-- 128 bytes at the front of the manifest region are written whatever they are. -/
theorem mf_write {s : State} {bs : List Byte} {own : Nat} (hl : bs.length = 128) (hg : s.mem.guard = []) (hb : s.mem.bad = []) (hw : s.mem.weak = [])
    (h6 : s.eccOn (16 * 2097152) = false) : (s.writeRegion mfR 0 bs own).2.2 = none := by
  have hp : linePieces 0 128 = [(0, 64), (64, 64)] := rfl
  have h7 : s.eccOn (16 * 2097152 + 64) = false := h6
  have one : ∀ (t : State) (a : Nat) (b : List Byte) (f w : Nat), t.mem.guard = [] → t.mem.bad = [] → t.mem.weak = [] → a < 0x48000000000 → t.eccOn a = false →
      ∃ u, t.writePiece a b f w = .ok u () ∧ u.mem.guard = [] ∧ u.mem.bad = [] ∧ u.mem.weak = [] ∧ u.mem.regions = t.mem.regions := by
    intro t a b f w h1 hb hw h2 h3
    have h4 : (t.touchChannel (a / hubBytes) (a % hubBytes)).eccOn a = t.eccOn a := rfl
    have hl : t.guardLook a = t := by simp [State.guardLook, State.hubWord, hb, hw]
    have hc : t.checkArea a = false := by unfold State.checkArea; rw [h3, Bool.and_false]
    refine ⟨(t.touchChannel (a / hubBytes) (a % hubBytes)).poke a b, ?_, h1, ?_, ?_, rfl⟩
    · simp [State.writePiece, place, h2, State.guarded, h1, h3, h4, hl, hc]
    · show (if _ then setDelRange t.mem.bad _ _ else t.mem.bad) = []
      rw [hb]; simp [setDelRange]
    · show (if _ then setDelRange t.mem.weak _ _ else t.mem.weak) = []
      rw [hw]; simp [setDelRange]
  unfold State.writeRegion
  rw [hl, hp]
  obtain ⟨u, e1, g1, b1, w1, r1⟩ := one s (mfR.dpa 0) (bs.take 64) 0 own hg hb hw (by decide) h6
  have h8 : u.eccOn (mfR.dpa 64) = false := by
    have : u.eccOn (mfR.dpa 64) = s.eccOn (mfR.dpa 64) := by unfold State.eccOn State.granuleRegion; rw [r1]
    rw [this]; exact h7
  obtain ⟨v, e2, _⟩ := one u (mfR.dpa 64) ((bs.drop 64).take 64) 64 own g1 b1 w1 (by decide) h8
  rw [if_neg (by decide)]
  simp only [State.writePieces, Nat.sub_self, Nat.sub_zero, e1, e2]

theorem sealed_of (m : Mem) (a : Nat) (k : CkJob) (T : Nat) (h : (leNat (Mem.bytes m a 4), leNat (Mem.bytes m (a + 4) 4), leNat (Mem.bytes m (a + 8) 4), leNat (Mem.bytes m (a + 16) 1)) =
    (0x4E4D4B43, k.jobId, T, 1)) : sealedFor (Mem.bytes m a manifestBytes) k T = true := by
  simp only [Prod.mk.injEq] at h
  unfold sealedFor leAt
  rw [bytes_sub m a manifestBytes 0 4 (by simp only [manifestBytes]; omega), bytes_sub m a manifestBytes 4 4 (by simp only [manifestBytes]; omega),
    bytes_sub m a manifestBytes 8 4 (by simp only [manifestBytes]; omega), bytes_sub m a manifestBytes 16 1 (by simp only [manifestBytes]; omega), Nat.add_zero, h.1, h.2.1, h.2.2.1, h.2.2.2]
  simp [bit]

theorem mf_read0 {s : State} {o n : Nat} (ho : o = 0) (hc : s.mem.chDown = []) (h6 : ∀ i, i < 6 → s.eccOn ((16 + i) * 2097152) = false) (hn : n ≤ 6 * 2097152) :
    s.readRegion mfR o n = .ok s (Mem.bytes s.mem.bytes (16 * 2097152) n) := by
  subst ho
  exact mf_read 0 n hc h6 (by omega)

theorem slot_read0 {s : State} {k : CkJob} {o N : Nat} (ho : o = 0) (hr : s.region k.manifest k.slice = some mfR) (hc : s.mem.chDown = [])
    (h6 : ∀ i, i < 6 → s.eccOn ((16 + i) * 2097152) = false) (hN : N ≤ 6 * 2097152) :
    s.slotRead k o N = (s, Mem.bytes s.mem.bytes (16 * 2097152) N) := by
  subst ho
  exact slot_read N hr hc h6 hN

theorem mf_write0 {s : State} {bs : List Byte} {o own : Nat} (ho : o = 0) (hl : bs.length = 128) (hg : s.mem.guard = []) (hb : s.mem.bad = []) (hw : s.mem.weak = [])
    (h6 : s.eccOn (16 * 2097152) = false) : s.writeRegion mfR o bs own = ((s.writeRegion mfR o bs own).1, (s.writeRegion mfR o bs own).2.1, none) := by
  subst ho
  have e := mf_write (own := own) hl hg hb hw h6
  generalize s.writeRegion mfR 0 bs own = x at e ⊢
  obtain ⟨a, b, c⟩ := x
  exact congrArg (fun c => (a, b, c)) e

theorem slot6_filter : [slot6].filter (fun m => candidate { ck0 with total := 0, holder := false, holds := some 6, shards := [] } [1, 2, 3] m 9) = [slot6] := by
  rw [List.filter_cons, show candidate { ck0 with total := 0, holder := false, holds := some 6, shards := [] } [1, 2, 3] slot6 9 = true from slot6_candidate]
  rfl

theorem slot6_step : leAt slot6 8 4 = 6 := by
  obtain ⟨d, q, hd, hq, ed, eq, e⟩ := slot6_parts
  unfold leAt bsub
  rw [e, List.append_assoc, List.append_assoc, List.append_assoc, List.drop_append_of_le_length (by decide), List.take_append_of_le_length (by decide)]
  rfl

theorem bd_read {s : State} {r : Region} {o n : Nat} (hr : r = rgA 1 9) (ho : o = 1040384) (hc : s.mem.chDown = []) (h9 : s.eccOn (9 * 2097152) = false) (hn : n ≤ 1048576) :
    s.readRegion r o n = .ok s (Mem.bytes s.mem.bytes (9 * 2097152 + 1040384) n) := by
  subst hr ho
  refine readRegion_plain (g0 := 9) 1040384 n rfl hc ?_ (by show 1040384 + n ≤ 2097152; omega)
  intro i hi
  have hi : i < 1 := hi
  obtain rfl : i = 0 := by omega
  exact ⟨rfl, by decide, h9⟩

theorem later_zero (m : Mem) (a i : Nat) (hi : i < 64) (h0 : i ≠ 0) (h : ∀ x, a + 80 ≤ x → Mem.get m x = 0) :
    bit (leAt (sect (Mem.bytes m a 5120) 0 80 i) 3 1) 0 = false := by
  unfold leAt sect
  rw [bytes_sub m a 5120 _ 80 (by omega), bytes_sub _ _ _ _ _ (by omega), zero_byte _ _ (h _ (by omega))]
  simp [bit]

theorem get_zero : ∀ (m : Mem) (k x : Nat), m.all (fun e => decide (e.1 < k)) = true → k ≤ x → Mem.get m x = 0
  | [], _, _, _, _ => rfl
  | e :: m, k, x, h, hx => by
    simp only [List.all_cons, Bool.and_eq_true, decide_eq_true_eq] at h
    have := get_zero m k x h.2 hx
    unfold Mem.get Tbl.get at this ⊢
    obtain ⟨j, v⟩ := e
    simp only [Tbl.find]
    rw [if_neg (by have := h.1; simp only [] at this; omega)]
    exact this

/-- The manifest region with one entry of step 0 that is not verified; and one sealed for step 0 of job 77. -/
def mf1 : Mem := [(33554563, 1)]

def mfS : Mem := [(33554432, 0x43), (33554433, 0x4B), (33554434, 0x4D), (33554435, 0x4E), (33554436, 77), (33554448, 1)]

theorem mf1_zero (x : Nat) (h : 16 * 2097152 + 132 ≤ x) : Mem.get mf1 x = 0 := by
  show (if 33554563 = x then some (1 : Byte) else none).getD unwrittenByte = 0
  rw [if_neg (by omega)]
  rfl

/-! ## What is well formed -/

/-- A packet with each field in turn out of its width. -/
def illPkts : List Pkt :=
  let p := Pkt.ofType 0
  [{ p with ptype := 16 }, { p with path := 16 }, { p with mapGen := 65536 }, { p with dstQp := 2 ^ 20 }, { p with srcStation := 1024 }, { p with version := 4 },
   { p with psn := 2 ^ 32 }, { p with tstamp := 2 ^ 32 }, { p with msn := 65536 }, { p with w18 := 2 ^ 32 }, { p with addr := 2 ^ 48 }, { p with w28 := 2 ^ 32 },
   { p with payload := zeroBytes 4097 }]

def badPkt : Pkt := { Pkt.ofType 0 with dstQp := 2 ^ 20 }

theorem test_wf_packet : illPkts.any Pkt.wf = false := by decide +kernel

/-! ### Commands with every operand in range, one for each constructor -/

theorem test_wf_accepts0 :
    ([.registerWrite 0 1 0, .counterSnap 0, .sCounterClear 0, .cellArrayClockGate 0, .cellArrayPowerGate 0, .unitWakeDone 0, .retentionStandbyEntry,
     .retentionStandbyExit 0 0 false, .meringueEntry, .meringueExit 0, .feuilleWrite 0 0, .feuilleRead 0 0, .feuilleCompletion 0 0,
     .srDoorbell 0 0 0 0, .crDoorbell 0 0 0 0, .eqDoorbell 0 0 0 0, .descriptorFetch 0, .crEntryWrite 0, .moderationTimerExpiry 0, .eventWrite 0,
     .abort 0 0, .adminRingEnable 0, .adminRingRelease 0, .leaseRenew 0, .leaseExpiry, .createSr 0 0, .createCr 0 0, .createEq 0 0,
     .destroyRing 0 0, .adoptSlice 0 0, .queryRing 0 0, .cellStoreCeRewrite 0 0, .cellStoreScrub 0 0, .crumbSend 0 0 0 0, .crumbHop 0 0 false,
     .creditReturn 0, .storeSlotAccess 0 ⟨0, 0, 0, 0⟩, .frameTableCommit 0, .frameTableApply 0, .spineTableCommit 0, .spineTableApply 0,
     .spineSlot 0 0 0 none, .dvfsRequest 0 0, .dvfsSwitch 0, .streamLineIssue 0 0] : List Instr).all Instr.wf = true := by decide +kernel

theorem test_wf_accepts1 :
    ([.streamLineReturn 0 0, .streamWriteVisible 0 0, .cellHaltRequest 0, .cellResume 0, .cellStep 0 0, .cellFaultClear 0, .nop 0 0, .mov 0 0,
     .movi 0 0, .moviu 0 0, .clr 0 0, .cast 0 0, .mkaddr 0 0, .movs 0 0, .movg 0 0, .retag 0 0, .ld 0 0, .st 0 0, .ldp 0 0, .stp 0 0, .xadd 0 0,
     .xchg 0 0, .xcas 0 0, .poolAccessReturn 0, .add 0 0, .sub 0 0, .and 0 0, .or 0 0, .xor 0 0, .not 0 0, .neg 0 0, .abs 0 0, .shl 0 0, .shr 0 0,
     .sar 0 0, .rol 0 0, .ror 0 0, .min 0 0, .max 0 0, .cmpeq 0 0, .cmpne 0 0, .cmplt 0 0, .cmple 0 0, .popc 0 0, .clz 0 0] : List Instr).all Instr.wf = true := by decide +kernel

theorem test_wf_accepts2 :
    ([.ctz 0 0, .mul 0 0, .mulh 0 0, .mac 0 0, .div 0 0, .multiplierResultLand 0, .dividerResultLand 0, .fadd 0 0, .fsub 0 0, .fmul 0 0, .ffma 0 0,
     .fmin 0 0, .fmax 0 0, .fcmpeq 0 0, .fcmplt 0 0, .fcmple 0 0, .icvt 0 0, .br 0 0, .brt 0 0, .brf 0 0, .jmp 0 0, .call 0 0, .brk 0 0, .tret 0 0,
     .wend 0 0, .swait 0 0, .sfence 0 0, .chwait 0 0, .chfree 0 0, .chspace 0 0, .chput 0 0, .vadd 0 0, .vsub 0 0, .vmul 0 0, .vfma 0 0, .vmin 0 0,
     .vmax 0 0, .vabs 0 0, .vneg 0 0, .vcmpeq 0 0, .vcmplt 0 0, .vcmple 0 0, .vsel 0 0, .vadds 0 0, .vsubs 0 0] : List Instr).all Instr.wf = true := by decide +kernel

theorem test_wf_accepts3 :
    ([.vcvt 0 0, .vredsum 0 0, .vredmax 0 0, .vqtb8 0 0, .vqtb4 0 0, .vdqtb8 0 0, .vdqtb4 0 0, .vqmx 0 0, .vdqmx 0 0, .tzero 0 0, .tmma 0 0,
     .tmmax 0 0, .tload 0 0, .tread 0 0, .sfnExp2 0 0, .sfnLog2 0 0, .sfnRcp 0 0, .sfnRsqrt 0 0, .sfnSin 0 0, .sfnCos 0 0, .sfnTanh 0 0,
     .sfnErf 0 0, .unitInstructionFinish 0 0, .wfi 0 0, .iret 0 0, .ldd 0 0, .std 0 0, .deferredTrap 0, .interruptEntry 0, .pipeLaunch 0 0,
     .pipeLoad 0 0, .pipeLoadCommit 0, .pipeUnload 0 0, .pipeArm 0 0, .pipeDisarm 0 0, .pipeHalt 0 0, .pipeReset 0 0, .pipeQuery 0 0, .waveStart 0,
     .waveEnd 0, .beatTrigger 0, .tlnEnable, .tlnDisable, .tlnTimeRead 0 1, .ptpMessage ⟨0, 0, 0⟩] : List Instr).all Instr.wf = true := by decide +kernel

theorem test_wf_accepts4 :
    ([.beatAlignment [], .referenceLoss, .holdoverExpiry, .gateChange 0, .txWindowOpen 0, .txWindowClose 0, .scheduleStage, .stageCheckDone 0,
     .scheduleArm, .scheduleCancel, .activation, .collLoad 0 0, .collStep 0 0, .collStepStart 0, .collStepCommit 0 [], .collUnload 0 0,
     .collReset 0 0, .collResid 0 0, .collQuery 0 0, .collPeerTimeout 0, .regionZeroDone 0, .memCopy 0 0, .memFill 0 0, .memConvert 0 0,
     .memEncode 0 0, .memDecode 0 0, .patrolScrub 0, .hubStoreScrub 0 0 0 0 0, .dramRefresh 0 0, .mr4Poll 0 0 0, .dramPowerDown 0 0,
     .translationEnable 0, .faultRecordWrite 0, .faultResponse 0, .stallTimeout 0 0, .invalidate 0, .invalidationDone,
     .atsTranslationCompletion 0 0 false false 0, .atsInvalidateRequest 0 0, .prgResponse 0 0 0, .tmtWrite 0 0, .tmtWriteImm 0 0, .tmtRead 0 0,
     .tmtSend 0 0, .tmtFetchAdd 0 0] : List Instr).all Instr.wf = true := by decide +kernel

theorem test_wf_accepts5 :
    ([.tmtCompareSwap 0 0, .tmtAccumulate 0 0, .tmtArm 0 0, .tmtRecv 0 0, .tmtQpCreate 0 0, .tmtQpModify 0 0, .tmtQpDestroy 0 0, .tmtQpQuery 0 0,
     .tmtKeyBind 0 0, .tmtKeyRevoke 0 0, .tmtCounter 0 0, .tmtPacketTransmit 0 false, .rxWrite (Pkt.ofType 0), .rxWriteImm (Pkt.ofType 0),
     .rxSend (Pkt.ofType 0), .rxAccumulate (Pkt.ofType 0), .rxReadReq (Pkt.ofType 0), .rxReadResp (Pkt.ofType 0), .rxAtomicReq (Pkt.ofType 0),
     .rxAtomicResp (Pkt.ofType 0), .rxAck (Pkt.ofType 0), .rxCtrlStopNotice (Pkt.ofType 0), .rxCtrlStepCheck (Pkt.ofType 0),
     .rxCtrlClose (Pkt.ofType 0), .messageDelivery 0, .ackTimer 0, .retransmitTimeout 0 0, .rnrWaitExpiry 0, .pathSuspectExpiry 0 0,
     .rekeyGraceExpiry 0, .qpNumberRelease 0, .ccParameterApply 0, .frameReceive 0 0 [] false false, .pfcRefresh 0 0 0,
     .pfcReceive 0 0 0 (List.replicate 8 0), .pfcPauseExpiry 0 0 0, .transmitSelect 0 0, .firmwareFrameSend 0 0 [], .graphCommit 0, .graphSwap 0,
     .shaperWriteApply 0 0 0, .meterWrite 0 0 0, .octetEnable 0, .octetDisable 0, .ethernetLinkUp 0 0] : List Instr).all Instr.wf = true := by decide +kernel

theorem test_wf_accepts6 :
    ([.ethernetLinkDown 0 0, .denuxLinkEnable 0, .denuxLinkDisable 0, .denuxSignalDetect 0, .denuxTrainLock 0, .denuxTrainTimeout 0,
     .denuxAlignDone 0 false, .denuxInitDone 0, .denuxRetrainEntry 0, .denuxRetrainDone 0 0, .denuxRetrainTimeout 0, .flitTransmit 0,
     .linkFlitReceive 0 (List.replicate 256 0), .dataFlitReceive 0 (List.replicate 256 0) false, .dnxWrite 0 [], .dnxReadReq 0 [],
     .dnxReadCpl 0 [], .dnxAtomicReq 0 [], .dnxAtomicCpl 0 [], .dnxDoorbell 0 [], .dnxTmtMessage 0 [] false, .dnxBeat 0 [], .dnxCplTimeout 0 0,
     .windowReduceDone 0, .nvmeControllerEnable 0 0 0 0, .nvmeControllerReset, .nvmeShutdown, .nvmeSqDoorbell 0 0, .nvmeCqDoorbell 0 0,
     .identify 0 0 [], .getLogPage 0 0 [], .setFeatures 0 0, .getFeatures 0 0, .createIoSq 0 0, .createIoCq 0 0, .deleteIoSq 0 0, .deleteIoCq 0 0,
     .nvmeAbort 0 0, .asynchronousEventRequest 0 0, .deviceSelfTest 0 0, .selfTestResume, .selfTestDone 0, .nvmeRead 0 0 [],
     .nvmeWrite 0 0 ⟨0, []⟩, .nvmeFlush 0 0] : List Instr).all Instr.wf = true := by decide +kernel

theorem test_wf_accepts7 :
    ([.writeZeroes 0 0, .datasetManagement 0 0 ⟨0, []⟩, .batchClose 0, .batchCommit 0, .homeWriteDone 0, .superblockWrite 0, .replay ⟨0, false⟩,
     .driveCompletion 0 0, .storRead 0 0, .storWrite 0 0, .storFlush 0 0, .storWriteZeroes 0 0, .storDeallocate 0 0, .nsDefine 0 0 0 false false,
     .nsDelete 0 0, .nsQuery 0 0, .peerExport 0 0, .peerUnexport 0 0, .capsuleCommand 0 [] [], .capsuleResponse 0 [], .ckpJobLoad 0 0,
     .ckpJobUnload 0 0, .ckpSnapshot 0 0 false, .guardArm 0, .copierPage 0 0, .pageCopyDone 0 0, .snapshotStreamDone 0, .buddyVerify 0 0,
     .ckpSeal 0 0, .ckpRestore 0 0 [], .ckpWatch 0 0, .ckpPersist 0 0 [], .ckpQuery 0 0, .heartbeatSend 0, .watchTick 0, .kceCipher 0 0 false,
     .kceMac 0 0 false, .kceHash 0 0, .kceSign 0 0 false, .kceVerify 0 0 false, .kceKeyImport 0 0 false, .kceKeyGenerate 0 0, .kceKem 0 0 false,
     .kceKeyDestroy 0 0, .kceKeyQuery 0 0 false] : List Instr).all Instr.wf = true := by decide +kernel

theorem test_wf_accepts8 :
    ([.kceUnitRelease 0 0 false, .kceSuspend, .kceResume, .entropyHealthFail, .crcData8 0 0 0, .crcData16 0 0 0, .crcData32 0 0 0,
     .crcFifoProcess 0, .crcConfigWrite 0 0 0 0, .crcResultRead 0, .sliceCtl 0 0, .sliceQuota 0 0, .slicePasid 0 0, .regionAlloc 0 0,
     .regionFree 0 0, .regionQuery 0 0, .sliceQuiesced 0, .schedWeightApply 0, .bar0AccessBad 0 0 0 false, .bar4Read 0 0 0, .bar4Write 0 0 [],
     .winSync 0, .winSyncDone, .msixUnmask 0 0, .hostReadCompletion 0 0 0 [], .completionTimeout 0, .poisonedWrite 0, .bmeClear 0, .bmeSet 0 0 0,
     .flr 0, .flrDone 0, .d3hotEntry 0, .d0Entry 0, .perstAssert, .perstDeassert 0 0 false, .hotReset 0 0 false, .l1Entry 0, .l1Exit, .l0pNarrow,
     .l0pWiden, .watchdogExpiry 0, .coreCrash 0 0, .coreRestartDone 0 false, .fwQuery 0 0, .fwCore 0 0] : List Instr).all Instr.wf = true := by decide +kernel

theorem test_wf_accepts9 :
    ([.setEndpointId 0 0 0 false, .getEndpointId 0 false, .getEndpointUuid 0 false, .getMctpVersionSupport 0 0 false,
     .getMessageTypeSupport 0 false, .dynamicAddressAssign 0, .rstdaa, .mcClockWake, .getTid 0 false, .setTid 0 0 false, .getPldmVersion 0 0 false,
     .getPldmTypes 0 false, .getPldmCommands 0 0 false, .getPdrRepositoryInfo 0 false, .getPdr 0 0 false, .getSensorReading 0 0 false,
     .getStateSensorReadings 0 false, .setNumericEffecterValue 0 0 0 false, .getNumericEffecterValue 0 0 false,
     .setStateEffecterStates 0 0 0 false, .getStateEffecterStates 0 0 false, .setEventReceiver 0 0 0 false false,
     .pollForPlatformEventMessage 0 false, .platformEventMessage, .mcRegisterRead 0 0 1 false, .mcCapture 0 0 false, .mcArmActivation 0 0 false,
     .mcConfirm 0 false, .getVersion 0 0 false [], .getCapabilities 0 0 false [], .negotiateAlgorithms 0 0 false [], .getDigests 0 0 false [],
     .getCertificate 0 0 false [], .challenge 0 0 false [], .getMeasurements 0 0 false [], .spdmPqSignature 0 0 false, .spdmPqChain 0 0 false,
     .sensorSample (List.replicate 96 0), .railSample (List.replicate 9 []), .flowIdleTimeout 0 0, .flowActiveTimeout 0 0, .flowExportEnable 0,
     .flowExportDisable 0, .ipfixMessageFlush 0 false, .templateTimer 0] : List Instr).all Instr.wf = true := by decide +kernel

theorem test_wf_accepts10 :
    ([.queryDeviceIdentifiers 0 false, .getFirmwareParameters 0 false, .requestUpdate 0 0 0 false, .passComponentTable 0 false [],
     .updateComponent 0 0 0 false, .requestFirmwareData, .firmwareDataReceive 0 false [], .verifyComplete, .activateFirmware 0 false false,
     .getStatus 0 false, .cancelUpdateComponent 0 false, .cancelUpdate 0 false, .activationArm 0, .activationCancel 0, .firmwareActivation 0,
     .trialConfirm, .trialTimeout 0, .xtalAonLoss, .pllLockLoss 0, .crossingTimeout 0 0 0 0, .powerOn 0 0 false, .firmwareReady 0 0 false,
     .deviceReset 0, .dieWarmReset 0, .dieWarmResetDone 0, .sliceResetDone 0 0, .brownOut, .brownOutRecovery 0, .inputCollapse, .throttleStep,
     .throttleRaise, .timePpsEdge 0, .timePpsOutPulse, .portDieCoreGate 0, .configurationRetryEnd, .undefinedEncoding 0,
     .unsupportedSpdmRequest 0 0 0 false, .interruptCoalescingTime 0] : List Instr).all Instr.wf = true := by decide +kernel

/-! ### Commands with one operand out of its range, one for each check of each command -/

theorem test_wf_refuses0 :
    ([.registerWrite (2 ^ 64) 1 0, .registerWrite 0 0 0, .registerWrite 0 9 0, .registerWrite 0 1 (2 ^ 64), .counterSnap (2 ^ 64),
     .sCounterClear (2 ^ 64), .cellArrayClockGate 12, .cellArrayPowerGate 12, .unitWakeDone 12, .retentionStandbyExit 5 0 false,
     .retentionStandbyExit 0 7 false, .meringueExit 3, .feuilleWrite 65536 0, .feuilleWrite 0 65536, .feuilleRead 65536 0, .feuilleRead 0 65536,
     .feuilleCompletion 65536 0, .feuilleCompletion 0 65536, .srDoorbell 65536 0 0 0, .srDoorbell 0 4096 0 0, .srDoorbell 0 0 65 0,
     .srDoorbell 0 0 0 (2 ^ 64), .crDoorbell 65536 0 0 0, .crDoorbell 0 4096 0 0, .crDoorbell 0 0 65 0, .crDoorbell 0 0 0 (2 ^ 64),
     .eqDoorbell 65536 0 0 0, .eqDoorbell 0 4096 0 0, .eqDoorbell 0 0 65 0, .eqDoorbell 0 0 0 (2 ^ 64), .descriptorFetch 65536,
     .crEntryWrite 65536, .moderationTimerExpiry 65536, .eventWrite 4096, .abort 65536 0, .abort 0 65536, .adminRingEnable (2 ^ 32),
     .adminRingRelease (2 ^ 32), .leaseRenew (2 ^ 32), .createSr 65536 0, .createSr 0 65536, .createCr 65536 0, .createCr 0 65536,
     .createEq 65536 0, .createEq 0 65536] : List Instr).any Instr.wf = false := by decide +kernel

theorem test_wf_refuses1 :
    ([.destroyRing 65536 0, .destroyRing 0 65536, .adoptSlice 65536 0, .adoptSlice 0 65536, .queryRing 65536 0, .queryRing 0 65536,
     .cellStoreCeRewrite 1536 0, .cellStoreCeRewrite 0 (2 ^ 21), .cellStoreScrub 1536 0, .cellStoreScrub 0 (2 ^ 21), .crumbSend 12 0 0 0,
     .storeSlotAccess 0 ⟨0, 0, 0, 3⟩, .storeSlotAccess 1536 ⟨0, 0, 0, 0⟩, .frameTableCommit 12, .frameTableApply 12, .spineTableCommit 12,
     .spineTableApply 12, .spineSlot 0 0 0 (some (17, 0, false)), .spineSlot 0 0 0 (some (0, 12, false)), .spineSlot 12 0 0 none,
     .dvfsRequest 12 0, .dvfsRequest 0 8, .dvfsSwitch 12, .streamLineIssue 1536 0, .streamLineIssue 0 32, .streamLineReturn 1536 0,
     .streamLineReturn 0 32, .streamWriteVisible 1536 0, .streamWriteVisible 0 32, .cellHaltRequest 1536, .cellResume 1536, .cellStep 1536 0,
     .cellFaultClear 1536, .nop 1552 0, .mov 1552 0, .movi 1552 0, .moviu 1552 0, .clr 1552 0, .cast 1552 0, .mkaddr 1552 0, .movs 1552 0,
     .movg 1552 0, .retag 1552 0, .ld 1552 0, .st 1552 0] : List Instr).any Instr.wf = false := by decide +kernel

theorem test_wf_refuses2 :
    ([.ldp 1552 0, .stp 1552 0, .xadd 1552 0, .xchg 1552 0, .xcas 1552 0, .poolAccessReturn 1552, .add 1552 0, .sub 1552 0, .and 1552 0, .or 1552 0,
     .xor 1552 0, .not 1552 0, .neg 1552 0, .abs 1552 0, .shl 1552 0, .shr 1552 0, .sar 1552 0, .rol 1552 0, .ror 1552 0, .min 1552 0, .max 1552 0,
     .cmpeq 1552 0, .cmpne 1552 0, .cmplt 1552 0, .cmple 1552 0, .popc 1552 0, .clz 1552 0, .ctz 1552 0, .mul 1552 0, .mulh 1552 0, .mac 1552 0,
     .div 1552 0, .multiplierResultLand 1552, .dividerResultLand 1552, .fadd 1552 0, .fsub 1552 0, .fmul 1552 0, .ffma 1552 0, .fmin 1552 0,
     .fmax 1552 0, .fcmpeq 1552 0, .fcmplt 1552 0, .fcmple 1552 0, .icvt 1552 0, .br 1552 0] : List Instr).any Instr.wf = false := by decide +kernel

theorem test_wf_refuses3 :
    ([.brt 1552 0, .brf 1552 0, .jmp 1552 0, .call 1552 0, .brk 1552 0, .tret 1552 0, .wend 1552 0, .swait 1552 0, .sfence 1552 0, .chwait 1552 0,
     .chfree 1552 0, .chspace 1552 0, .chput 1552 0, .vadd 1552 0, .vsub 1552 0, .vmul 1552 0, .vfma 1552 0, .vmin 1552 0, .vmax 1552 0,
     .vabs 1552 0, .vneg 1552 0, .vcmpeq 1552 0, .vcmplt 1552 0, .vcmple 1552 0, .vsel 1552 0, .vadds 1552 0, .vsubs 1552 0, .vcvt 1552 0,
     .vredsum 1552 0, .vredmax 1552 0, .vqtb8 1552 0, .vqtb4 1552 0, .vdqtb8 1552 0, .vdqtb4 1552 0, .vqmx 1552 0, .vdqmx 1552 0, .tzero 1552 0,
     .tmma 1552 0, .tmmax 1552 0, .tload 1552 0, .tread 1552 0, .sfnExp2 1552 0, .sfnLog2 1552 0, .sfnRcp 1552 0, .sfnRsqrt 1552 0] : List Instr).any Instr.wf = false := by decide +kernel

theorem test_wf_refuses4 :
    ([.sfnSin 1552 0, .sfnCos 1552 0, .sfnTanh 1552 0, .sfnErf 1552 0, .unitInstructionFinish 1552 0, .unitInstructionFinish 0 3, .wfi 1552 0,
     .iret 1552 0, .ldd 1552 0, .std 1552 0, .deferredTrap 1552, .interruptEntry 16, .pipeLaunch 65536 0, .pipeLaunch 0 65536, .pipeLoad 65536 0,
     .pipeLoad 0 65536, .pipeLoadCommit 1024, .pipeUnload 65536 0, .pipeUnload 0 65536, .pipeArm 65536 0, .pipeArm 0 65536, .pipeDisarm 65536 0,
     .pipeDisarm 0 65536, .pipeHalt 65536 0, .pipeHalt 0 65536, .pipeReset 65536 0, .pipeReset 0 65536, .pipeQuery 65536 0, .pipeQuery 0 65536,
     .waveStart 1024, .waveEnd 1024, .beatTrigger 1024, .tlnTimeRead 8 1, .tlnTimeRead 0 0, .tlnTimeRead 0 9, .ptpMessage ⟨256, 0, 0⟩,
     .ptpMessage ⟨0, 16, 0⟩, .beatAlignment [(256, 0, 0)], .beatAlignment [(0, 65536, 0)], .beatAlignment [(0, 0, 2 ^ 64)], .gateChange 65536,
     .txWindowOpen 4096, .txWindowClose 4096, .stageCheckDone 3, .collLoad 65536 0] : List Instr).any Instr.wf = false := by decide +kernel

theorem test_wf_refuses5 :
    ([.collLoad 0 65536, .collStep 65536 0, .collStep 0 65536, .collStepStart 4096, .collStepCommit 4096 [], .collUnload 65536 0,
     .collUnload 0 65536, .collReset 65536 0, .collReset 0 65536, .collResid 65536 0, .collResid 0 65536, .collQuery 65536 0, .collQuery 0 65536,
     .collPeerTimeout 4096, .regionZeroDone 65536, .memCopy 65536 0, .memCopy 0 65536, .memFill 65536 0, .memFill 0 65536, .memConvert 65536 0,
     .memConvert 0 65536, .memEncode 65536 0, .memEncode 0 65536, .memDecode 65536 0, .memDecode 0 65536, .patrolScrub 12,
     .hubStoreScrub (2 ^ 64) 0 0 0 0, .hubStoreScrub 0 65536 0 0 0, .hubStoreScrub 0 0 65536 0 0, .hubStoreScrub 0 0 0 16 0,
     .hubStoreScrub 0 0 0 0 3, .dramRefresh 12 0, .dramRefresh 0 96, .mr4Poll 12 0 0, .mr4Poll 0 96 0, .mr4Poll 0 0 16, .dramPowerDown 12 0,
     .dramPowerDown 0 96, .translationEnable (2 ^ 64), .faultRecordWrite 4097, .faultResponse (2 ^ 64), .stallTimeout 65536 0,
     .stallTimeout 0 65536, .invalidate (2 ^ 64), .atsTranslationCompletion 65536 0 false false 0] : List Instr).any Instr.wf = false := by decide +kernel

theorem test_wf_refuses6 :
    ([.atsTranslationCompletion 0 (2 ^ 52) false false 0, .atsTranslationCompletion 0 0 false false (2 ^ 64), .atsInvalidateRequest (2 ^ 20) 0,
     .atsInvalidateRequest 0 32, .prgResponse 512 0 0, .prgResponse 0 (2 ^ 20) 0, .prgResponse 0 0 16, .tmtWrite 65536 0, .tmtWrite 0 65536,
     .tmtWriteImm 65536 0, .tmtWriteImm 0 65536, .tmtRead 65536 0, .tmtRead 0 65536, .tmtSend 65536 0, .tmtSend 0 65536, .tmtFetchAdd 65536 0,
     .tmtFetchAdd 0 65536, .tmtCompareSwap 65536 0, .tmtCompareSwap 0 65536, .tmtAccumulate 65536 0, .tmtAccumulate 0 65536, .tmtArm 65536 0,
     .tmtArm 0 65536, .tmtRecv 65536 0, .tmtRecv 0 65536, .tmtQpCreate 65536 0, .tmtQpCreate 0 65536, .tmtQpModify 65536 0, .tmtQpModify 0 65536,
     .tmtQpDestroy 65536 0, .tmtQpDestroy 0 65536, .tmtQpQuery 65536 0, .tmtQpQuery 0 65536, .tmtKeyBind 65536 0, .tmtKeyBind 0 65536,
     .tmtKeyRevoke 65536 0, .tmtKeyRevoke 0 65536, .tmtCounter 65536 0, .tmtCounter 0 65536, .tmtPacketTransmit (2 ^ 20) false, .rxWrite badPkt,
     .rxWriteImm badPkt, .rxSend badPkt, .rxAccumulate badPkt, .rxReadReq badPkt] : List Instr).any Instr.wf = false := by decide +kernel

theorem test_wf_refuses7 :
    ([.rxReadResp badPkt, .rxAtomicReq badPkt, .rxAtomicResp badPkt, .rxAck badPkt, .rxCtrlStopNotice badPkt, .rxCtrlStepCheck badPkt,
     .rxCtrlClose badPkt, .messageDelivery (2 ^ 20), .ackTimer (2 ^ 20), .retransmitTimeout (2 ^ 20) 0, .retransmitTimeout 0 16,
     .rnrWaitExpiry (2 ^ 20), .pathSuspectExpiry (2 ^ 20) 0, .pathSuspectExpiry 0 16, .rekeyGraceExpiry (2 ^ 20), .qpNumberRelease (2 ^ 20),
     .ccParameterApply 64, .frameReceive 32 0 [] false false, .frameReceive 0 8 [] false false, .pfcRefresh 4 0 0, .pfcRefresh 0 64 0,
     .pfcRefresh 0 0 8, .pfcReceive 32 0 0 (List.replicate 8 0), .pfcReceive 0 8 0 (List.replicate 8 0), .pfcReceive 0 0 256 (List.replicate 8 0),
     .pfcReceive 0 0 0 (List.replicate 7 0), .pfcPauseExpiry 4 0 0, .pfcPauseExpiry 0 64 0, .pfcPauseExpiry 0 0 8, .transmitSelect 4 0,
     .transmitSelect 0 64, .firmwareFrameSend 4 0 [], .graphCommit 4, .graphSwap 4, .shaperWriteApply 4 0 0, .shaperWriteApply 0 4 0,
     .meterWrite 4 0 0, .meterWrite 0 0 (2 ^ 256), .octetEnable 32, .octetDisable 32, .ethernetLinkUp 32 0, .ethernetLinkUp 0 8,
     .ethernetLinkDown 32 0, .ethernetLinkDown 0 8, .denuxLinkEnable 16] : List Instr).any Instr.wf = false := by decide +kernel

theorem test_wf_refuses8 :
    ([.denuxLinkDisable 16, .denuxSignalDetect 16, .denuxTrainLock 16, .denuxTrainTimeout 16, .denuxAlignDone 16 false, .denuxInitDone 16,
     .denuxRetrainEntry 16, .denuxRetrainDone 16 0, .denuxRetrainDone 0 (2 ^ 32), .denuxRetrainTimeout 16, .flitTransmit 16,
     .linkFlitReceive 16 (List.replicate 256 0), .linkFlitReceive 0 (List.replicate 255 0), .dataFlitReceive 16 (List.replicate 256 0) false,
     .dataFlitReceive 0 (List.replicate 255 0) false, .dnxWrite 16 [], .dnxReadReq 16 [], .dnxReadCpl 16 [], .dnxAtomicReq 16 [],
     .dnxAtomicCpl 16 [], .dnxDoorbell 16 [], .dnxTmtMessage 16 [] false, .dnxBeat 16 [], .dnxCplTimeout 16 0, .dnxCplTimeout 0 65536,
     .windowReduceDone 1024, .nvmeControllerEnable 16 0 0 0, .nvmeControllerEnable 0 (2 ^ 32) 0 0, .nvmeControllerEnable 0 0 (2 ^ 64) 0,
     .nvmeControllerEnable 0 0 0 (2 ^ 64), .nvmeSqDoorbell 65 0, .nvmeSqDoorbell 0 65536, .nvmeCqDoorbell 65 0, .nvmeCqDoorbell 0 65536,
     .identify 65 0 [], .identify 0 (2 ^ 512) [], .getLogPage 65 0 [], .getLogPage 0 (2 ^ 512) [], .setFeatures 65 0, .setFeatures 0 (2 ^ 512),
     .getFeatures 65 0, .getFeatures 0 (2 ^ 512), .createIoSq 65 0, .createIoSq 0 (2 ^ 512), .createIoCq 65 0] : List Instr).any Instr.wf = false := by decide +kernel

theorem test_wf_refuses9 :
    ([.createIoCq 0 (2 ^ 512), .deleteIoSq 65 0, .deleteIoSq 0 (2 ^ 512), .deleteIoCq 65 0, .deleteIoCq 0 (2 ^ 512), .nvmeAbort 65 0,
     .nvmeAbort 0 (2 ^ 512), .asynchronousEventRequest 65 0, .asynchronousEventRequest 0 (2 ^ 512), .deviceSelfTest 65 0,
     .deviceSelfTest 0 (2 ^ 512), .nvmeRead 65 0 [], .nvmeRead 0 (2 ^ 512) [], .nvmeWrite 0 0 ⟨5, []⟩, .nvmeWrite 65 0 ⟨0, []⟩,
     .nvmeWrite 0 (2 ^ 512) ⟨0, []⟩, .nvmeFlush 65 0, .nvmeFlush 0 (2 ^ 512), .writeZeroes 65 0, .writeZeroes 0 (2 ^ 512),
     .datasetManagement 0 0 ⟨5, []⟩, .datasetManagement 65 0 ⟨0, []⟩, .datasetManagement 0 (2 ^ 512) ⟨0, []⟩, .batchClose 257, .batchCommit 257,
     .homeWriteDone 257, .superblockWrite 257, .replay ⟨257, false⟩, .driveCompletion 0 32768, .storRead 65536 0, .storRead 0 65536,
     .storWrite 65536 0, .storWrite 0 65536, .storFlush 65536 0, .storFlush 0 65536, .storWriteZeroes 65536 0, .storWriteZeroes 0 65536,
     .storDeallocate 65536 0, .storDeallocate 0 65536, .nsDefine 65536 0 0 false false, .nsDefine 0 65536 0 false false, .nsDelete 65536 0,
     .nsDelete 0 65536, .nsQuery 65536 0, .nsQuery 0 65536] : List Instr).any Instr.wf = false := by decide +kernel

theorem test_wf_refuses10 :
    ([.peerExport 65536 0, .peerExport 0 65536, .peerUnexport 65536 0, .peerUnexport 0 65536, .capsuleCommand (2 ^ 20) [] [],
     .capsuleResponse (2 ^ 20) [], .ckpJobLoad 65536 0, .ckpJobLoad 0 65536, .ckpJobUnload 65536 0, .ckpJobUnload 0 65536,
     .ckpSnapshot 65536 0 false, .ckpSnapshot 0 65536 false, .guardArm 16, .copierPage 16 0, .copierPage 0 12, .pageCopyDone 16 0,
     .pageCopyDone 0 12, .snapshotStreamDone 16, .buddyVerify 16 0, .ckpSeal 65536 0, .ckpSeal 0 65536, .ckpRestore 65536 0 [],
     .ckpRestore 0 65536 [], .ckpWatch 65536 0, .ckpWatch 0 65536, .ckpPersist 65536 0 [], .ckpPersist 0 65536 [], .ckpQuery 65536 0,
     .ckpQuery 0 65536, .heartbeatSend 16, .watchTick 16, .kceCipher 65536 0 false, .kceCipher 0 65536 false, .kceMac 65536 0 false,
     .kceMac 0 65536 false, .kceHash 65536 0, .kceHash 0 65536, .kceSign 65536 0 false, .kceSign 0 65536 false, .kceVerify 65536 0 false,
     .kceVerify 0 65536 false, .kceKeyImport 65536 0 false, .kceKeyImport 0 65536 false, .kceKeyGenerate 65536 0, .kceKeyGenerate 0 65536] : List Instr).any Instr.wf = false := by decide +kernel

theorem test_wf_refuses11 :
    ([.kceKem 65536 0 false, .kceKem 0 65536 false, .kceKeyDestroy 65536 0, .kceKeyDestroy 0 65536, .kceKeyQuery 65536 0 false,
     .kceKeyQuery 0 65536 false, .kceUnitRelease 65536 0 false, .kceUnitRelease 0 65536 false, .sliceCtl 65536 0, .sliceCtl 0 65536,
     .sliceQuota 65536 0, .sliceQuota 0 65536, .slicePasid 65536 0, .slicePasid 0 65536, .regionAlloc 65536 0, .regionAlloc 0 65536,
     .regionFree 65536 0, .regionFree 0 65536, .regionQuery 65536 0, .regionQuery 0 65536, .sliceQuiesced 64, .schedWeightApply 64,
     .bar0AccessBad 2 0 0 false, .bar0AccessBad 0 (2 ^ 64) 0 false, .bar4Read 4096 0 0, .bar4Read 0 (2 ^ 24) 0, .bar4Write 4096 0 [],
     .bar4Write 0 (2 ^ 24) [], .winSync (2 ^ 32), .msixUnmask 2 0, .msixUnmask 0 2049, .hostReadCompletion 2 0 0 [],
     .hostReadCompletion 0 16384 0 [], .hostReadCompletion 0 0 5 [], .completionTimeout 16384, .poisonedWrite 2, .bmeClear 2, .bmeSet 2 0 0,
     .bmeSet 0 4096 0, .flr 2, .flrDone 2, .d3hotEntry 2, .d0Entry 2, .perstDeassert 5 0 false, .perstDeassert 0 7 false] : List Instr).any Instr.wf = false := by decide +kernel

theorem test_wf_refuses12 :
    ([.hotReset 5 0 false, .hotReset 0 7 false, .l1Entry 3, .watchdogExpiry 16, .coreCrash 16 0, .coreCrash 0 256, .coreRestartDone 16 false,
     .fwQuery 65536 0, .fwQuery 0 65536, .fwCore 65536 0, .fwCore 0 65536, .setEndpointId 3 0 0 false, .setEndpointId 0 4 0 false,
     .setEndpointId 0 0 256 false, .getEndpointId 3 false, .getEndpointUuid 3 false, .getMctpVersionSupport 3 0 false,
     .getMctpVersionSupport 0 256 false, .getMessageTypeSupport 3 false, .dynamicAddressAssign 128, .getTid 3 false, .setTid 3 0 false,
     .setTid 0 256 false, .getPldmVersion 3 0 false, .getPldmVersion 0 256 false, .getPldmTypes 3 false, .getPldmCommands 3 0 false,
     .getPldmCommands 0 256 false, .getPdrRepositoryInfo 3 false, .getPdr 3 0 false, .getPdr 0 (2 ^ 32) false, .getSensorReading 3 0 false,
     .getSensorReading 0 65536 false, .getStateSensorReadings 3 false, .setNumericEffecterValue 3 0 0 false,
     .setNumericEffecterValue 0 65536 0 false, .setNumericEffecterValue 0 0 (2 ^ 32) false, .getNumericEffecterValue 3 0 false,
     .getNumericEffecterValue 0 65536 false, .setStateEffecterStates 3 0 0 false, .setStateEffecterStates 0 65536 0 false,
     .setStateEffecterStates 0 0 256 false, .getStateEffecterStates 3 0 false, .getStateEffecterStates 0 65536 false,
     .setEventReceiver 3 0 0 false false] : List Instr).any Instr.wf = false := by decide +kernel

theorem test_wf_refuses13 :
    ([.setEventReceiver 0 256 0 false false, .setEventReceiver 0 0 256 false false, .pollForPlatformEventMessage 3 false,
     .mcRegisterRead 3 0 1 false, .mcRegisterRead 0 (2 ^ 64) 1 false, .mcRegisterRead 0 0 0 false, .mcRegisterRead 0 0 9 false,
     .mcCapture 3 0 false, .mcCapture 0 (2 ^ 64) false, .mcArmActivation 3 0 false, .mcArmActivation 0 (2 ^ 128) false, .mcConfirm 3 false,
     .getVersion 3 0 false [], .getVersion 0 256 false [], .getCapabilities 3 0 false [], .getCapabilities 0 256 false [],
     .negotiateAlgorithms 3 0 false [], .negotiateAlgorithms 0 256 false [], .getDigests 3 0 false [], .getDigests 0 256 false [],
     .getCertificate 3 0 false [], .getCertificate 0 256 false [], .challenge 3 0 false [], .challenge 0 256 false [],
     .getMeasurements 3 0 false [], .getMeasurements 0 256 false [], .spdmPqSignature 3 0 false, .spdmPqSignature 0 256 false,
     .spdmPqChain 3 0 false, .spdmPqChain 0 256 false, .sensorSample (List.replicate 95 0), .railSample (List.replicate 8 []),
     .flowIdleTimeout 4 0, .flowIdleTimeout 0 65536, .flowActiveTimeout 4 0, .flowActiveTimeout 0 65536, .flowExportEnable 4, .flowExportDisable 4,
     .ipfixMessageFlush 4 false, .templateTimer 4, .queryDeviceIdentifiers 3 false, .getFirmwareParameters 3 false, .requestUpdate 3 0 0 false,
     .requestUpdate 0 (2 ^ 32) 0 false, .requestUpdate 0 0 (2 ^ 32) false] : List Instr).any Instr.wf = false := by decide +kernel

theorem test_wf_refuses14 :
    ([.passComponentTable 3 false [], .updateComponent 3 0 0 false, .updateComponent 0 65536 0 false, .updateComponent 0 0 (2 ^ 32) false,
     .firmwareDataReceive 3 false [], .activateFirmware 3 false false, .getStatus 3 false, .cancelUpdateComponent 3 false, .cancelUpdate 3 false,
     .activationArm (2 ^ 128), .activationCancel (2 ^ 128), .firmwareActivation 16, .trialTimeout 16, .pllLockLoss 64, .crossingTimeout 17 0 0 0,
     .crossingTimeout 0 6 0 0, .powerOn 16 0 false, .powerOn 0 256 false, .firmwareReady 5 0 false, .firmwareReady 0 7 false, .deviceReset 16,
     .dieWarmReset (2 ^ 32), .dieWarmResetDone 17, .sliceResetDone 65536 0, .sliceResetDone 0 65536, .brownOutRecovery 16, .portDieCoreGate 4,
     .undefinedEncoding 1552, .unsupportedSpdmRequest 3 0 0 false, .unsupportedSpdmRequest 0 256 0 false, .unsupportedSpdmRequest 0 0 256 false,
     .interruptCoalescingTime 65] : List Instr).any Instr.wf = false := by decide +kernel

/-! ## Tests: the manual's worked examples, and single steps whose results follow by hand from a rule -/

def runOf (cs : List Instr) (s : State) : State := cs.foldl (fun s c => nextOf (exec c s)) s

/-- The last value read out. -/
def lastRead (s : State) : Option Nat := match s.out.getLast? with
  | some (.readData _ _ v) => some v
  | _ => none

/-- 00_scope.md, names: cell H3.F5.C9 is cell 473, a member of the natural group FT:42, whose handle is 0x8000002A. -/
theorem test_group_of_a_cell : feuHandle 42 = 0x8000002A ∧ 473 ∈ (preFeu 42).members := by decide +kernel

/-- 01_module.md, the address example: DPA 0x3A212345678 lies in HD9 at hub offset 0x4212345678. -/
theorem test_place_of_dpa : place 0x3A212345678 = .pool 9 0x4212345678 := by decide +kernel

/-- 01_module.md, the partition example: 1,000,000 items in blocks of 4,096 over 12 members. -/
theorem test_partition : (memberItems 2 12 4096 1000000 0).1 = 86016 ∧ (memberItems 2 12 4096 1000000 11).1 = 78400 ∧
    (memberItems 2 12 4096 1000000 11).2 0 = 921600 := by decide +kernel

/-- 02_rings.md, the doorbell example: ring 1,234 of 1,024 entries and generation 7 has its tail at 1,022 and word 0x70003 sets it to 3. -/
theorem test_doorbell_wraps : ((nextOf (exec (.srDoorbell 1234 0 8 0x70003) { full with
    ring := { full.ring with srGen := [(1234, 7)], srs := [(1234, { sr0 with at' := { loc0 with log2 := 10, por := 7 }, fetched := 1022, tail := 1022 })] } })).ring.srs.map
      (fun p => (p.1, p.2.head, p.2.tail))) = [(1234, 1022, 3)] := by decide +kernel

/-- 04_arithmetic.md, the stochastic example: 1.00390625 to bfloat16 with 0x6C000000 gives 1.0, and with 0x80000000 gives 1.0078125. -/
theorem test_stochastic : (Fmt.bfloat16.round rmSR true 0x6C000000 (Fmt.binary32.decode 0x3F808000)).1 = 0x3F80 ∧
    (Fmt.bfloat16.round rmSR true 0x80000000 (Fmt.binary32.decode 0x3F808000)).1 = 0x3F81 := by decide +kernel

/-- 04_arithmetic.md, the MXFP4 example: 7.9, 5.2, 0.3 and 0.2 become 6, 6, 0.5 and 0 under scale byte 0x7F, and OV is set. -/
theorem test_mxfp4 : (mxQuant 4 rmRNE (fun _ => 0) ([0x40FCCCCD, 0x40A66666, 0x3E99999A, 0x3E4CCCCD].map Fmt.binary32.decode)).1 = 0x7F ∧
    (mxQuant 4 rmRNE (fun _ => 0) ([0x40FCCCCD, 0x40A66666, 0x3E99999A, 0x3E4CCCCD].map Fmt.binary32.decode)).2.1 = [7, 7, 1, 0] ∧
    (mxQuant 4 rmRNE (fun _ => 0) ([0x40FCCCCD, 0x40A66666, 0x3E99999A, 0x3E4CCCCD].map Fmt.binary32.decode)).2.2.testBit 0 = true := by decide +kernel

/-- 04_arithmetic.md, the TB8 example: the block of 3.0, -1.23, 0.1, 0.015625 and 0.01 under RNE. -/
theorem test_tb8 : (tbEncode false rmRNE (fun _ => 0) ([0x40400000, 0xBF9D70A4, 0x3DCCCCCD, 0x3C800000, 0x3C23D70A].map Fmt.binary32.decode)).1.take 6 =
    [0x7F, 0x60, 0xD9, 0x03, 0x00, 0x00] := by decide +kernel

/-- 05_isa.md, the first encoding example: PRED g7 false, W32 MUL g3 g4 into m1, with 70,000 in both, due 3 issue cycles after issue 7. -/
theorem test_mul_w32_predicated : ((nextOf (exec (.mul 7 0)
      (atSeq 7 [0xE3, 0x27, 0xE2, 0x40, 0x01, 0x03, 0x04] [(3, ⟨tgInt, 70000⟩), (4, ⟨tgInt, 70000⟩), (7, ⟨tgBool, 0⟩)]))).seq 7).flight.map
        (fun f => (f.reg, f.due, f.tag, f.val, f.ov)) = [(33, 10, tgInt, 4900000000, true)] := by decide +kernel

/-- The same example: m1 becomes INT 0x24101100 and OV (bit 8 of CS) is set when the product lands. -/
theorem test_mul_lands : (fun q : Seq => (q.reg 33, q.cs.testBit 8)) ((nextOf (exec (.multiplierResultLand 7)
      (full.updSeq 7 (fun q => { q with icount := 10, flight := [⟨33, 10, tgInt, 4900000000, false, 32, true, 64⟩] })))).seq 7) = (⟨tgInt, 0x24101100⟩, true) := by decide +kernel

/-- 05_isa.md, the second encoding example: a 16-bit load of -2 into g5. -/
theorem test_movi_w16 : ((nextOf (exec (.movi 7 0) (atSeq 7 [0xE1, 0x02, 0x65, 0xFE, 0xFF] []))).seq 7).reg 5 = ⟨tgInt, 0xFFFFFFFFFFFFFFFE⟩ := by decide +kernel

/-- 05_isa.md, the timing example: a DIV at issue 0 falls due at issue 20, its quotient in d0 and its remainder in d1. -/
theorem test_div_due : (((nextOf (exec (.div 7 0)
      ((atSeq 7 [0x43, 0, 1, 2] [(1, ⟨tgInt, 1000003⟩), (2, ⟨tgInt, 7⟩)]).updSeq 7 (fun q => { q with icount := 0 })))).seq 7).flight.map
        (fun f => (f.reg, f.due, f.val))) = [(36, 20, 142857), (37, 20, 4)] := by decide +kernel

/-- R132: INT_MAX + 1 wraps to INT_MIN at 8 bits, sign extended. -/
theorem test_add_wraps : ((nextOf (exec (.add 7 0) (atSeq 7 [0xE0, 0x20, 3, 1, 2] [(1, ⟨tgInt, 127⟩), (2, ⟨tgInt, 1⟩)]))).seq 7).reg 3 =
    ⟨tgInt, 0xFFFFFFFFFFFFFF80⟩ := by decide +kernel

/-- R137: a source that is also the destination. -/
theorem test_sub_own_source : ((nextOf (exec (.sub 7 0) (atSeq 7 [0x21, 1, 1, 2] [(1, ⟨tgInt, 3⟩), (2, ⟨tgInt, 5⟩)]))).seq 7).reg 1 =
    ⟨tgInt, 0xFFFFFFFFFFFFFFFE⟩ := by decide +kernel

/-- 09_memory.md, the address example: the DPA, channel, channel address and check line of region offset 5,000,000. -/
theorem test_region_address : Region.dpa { rgA 1 0 with ecc := true, granules := [0, 0, 1002345] } 5000000 = 0x1E96D304B40 ∧ channelOf 40486587200 = 60 ∧
    channelAddr 40486587200 = 0x19232B40 ∧ checkLine 0x1E96D304B40 = 0x1E96D3F0480 := by decide +kernel

/-- 15_checkpoint.md, the example of code 2: 0.0123, 0.00001, 5e-8 and 2e-8 in a block become 416, 0.3125, 2^-9 and 0 under scale 0x70. -/
theorem test_checkpoint_code2 : (packBlock ([0x3C4985F0, 0x3727C5AC, 0x3356BF95, 0x32ABCC77].map Fmt.binary32.decode ++ List.replicate 124 FV.zero)).take 5 =
    [0x70, 0x7D, 0x2A, 0x01, 0x00] := by decide +kernel

/-- 16_security.md, the CRC example: CRC-32C of the nine digits on CRC2. -/
theorem test_crc32c : lastRead (runOf [.crcConfigWrite 2 0 4 0x1DF, .crcConfigWrite 2 8 8 0x1EDC6F41, .crcConfigWrite 2 16 8 0xFFFFFFFF, .crcData32 2 4 0x34333231,
    .crcData32 2 4 0x38373635, .crcData8 2 1 0x39, .crcResultRead 2] full) = some 0xE3069283 := by decide +kernel

/-- R505 to R508, lands by their positions: the first PCIe lane's transmit pair begins the NE block, and XTAL_OUT and THERM_ALERT# lie where
the list of that block counts to 71 and 77. -/
theorem test_lands : land 1 215 = some (.pcie .txp 0) ∧ land 11 215 = some .xtalOut ∧ land 11 227 = some .thermAlert ∧ land 1 1 = some .vin56 ∧
    land 100 100 = none ∧ (rowName 1, rowName 20) = (['A'], ['A', 'A']) := by decide +kernel

/-- R402 rests on SHA-384; its value for the three bytes "abc" is the one that FIPS 180-4 publishes. -/
theorem test_sha384 : leNat (sha384 [0x61, 0x62, 0x63]).reverse =
    0xcb00753f45a35e8bb5a03d699ac65007272c32ab0eded1631a8b605a43ff5bed8086072ba1e7cc2358baeca134c825a7 := by decide +kernel

/-- The register tables: KCE_CTRL resets to 0x800 and PRT_CTRL to 0. -/
theorem test_reset_registers : State.reset.rd R.KCE_CTRL = 0x800 ∧ State.reset.rd R.PRT_CTRL = 0 := by decide +kernel

/-- The state after reset meets the invariants. -/
theorem test_reset_inv : State.reset.waitingWf ∧ State.reset.memOk := ⟨by intro c h; simp [State.reset] at h, by unfold State.memOk; decide +kernel⟩

/-- Log entry 72: an empty queue passes a nanosecond. -/
theorem test_idle_passes_time : (nextOf (step full)).timeNs = full.timeNs + 1 := by decide +kernel

/-- A step takes the front command and leaves the rest of the queue. -/
theorem test_step_takes_the_front : (nextOf (step { full with pending := [.crcResultRead 2, .brownOut] })).pending = [.brownOut] := by decide +kernel

/-! ## The invariants -/

/-- A state that meets both invariants and takes a step. -/
def twoWaiting : State := { full with mem := { full.mem with bytes := memAt 4096 [1, 2, 3] }, pending := [.sCounterClear 5, .cellResume 7] }

theorem witness_StepsKeepQueueForm : ∃ (s t : State), s.waitingWf ∧ s.stepsTo t :=
  ⟨twoWaiting, nextOf (step twoWaiting), by unfold State.waitingWf; decide +kernel, next_of (by decide +kernel) rfl⟩

theorem witness_StepsKeepMemoryForm : ∃ (s t : State), s.memOk ∧ s.stepsTo t ∧ s.mem.bytes ≠ [] :=
  ⟨twoWaiting, nextOf (step twoWaiting), by unfold State.memOk; decide +kernel, next_of (by decide +kernel) rfl, by decide +kernel⟩

/-! ## The hypotheses of the statements -/

theorem witness_StepRunsFrontCommand :
    (∃ (s : State), s.pending = []) :=
  ⟨(full), by decide +kernel⟩

def va_RegisterWriteByAccessCodes_0 : Nat := R.MEM_CE_THRESH 3
def vr_RegisterWriteByAccessCodes_0 : RegSpec := ((findReg (R.MEM_CE_THRESH 3)).get (by decide +kernel)).1
def vown_RegisterWriteByAccessCodes_0 : Nat := ((findReg (R.MEM_CE_THRESH 3)).get (by decide +kernel)).2.1
def vu_RegisterWriteByAccessCodes_0 : Nat := ((findReg (R.MEM_CE_THRESH 3)).get (by decide +kernel)).2.2.1
def vi_RegisterWriteByAccessCodes_0 : Nat := ((findReg (R.MEM_CE_THRESH 3)).get (by decide +kernel)).2.2.2
def va_RegisterWriteByAccessCodes_2 : Nat := R.MEM_CE_THRESH 3 + 1
def vs_CounterClear_0 : State := (base.cnt R.RNG_DB_STALE 7)
def vb_CounterClear_0 : CtrBlock := ((findCtr (R.RNG_DB_STALE)).get (by decide +kernel)).1
def vu_CounterClear_0 : Nat := ((findCtr (R.RNG_DB_STALE)).get (by decide +kernel)).2.1
def vi_CounterClear_0 : Nat := ((findCtr (R.RNG_DB_STALE)).get (by decide +kernel)).2.2.2
def vc_CounterClear_0 : CtrSpec := ((findCtr (R.RNG_DB_STALE)).get (by decide +kernel)).2.2.1
def vs_CountersCount_0 : State := (base.cnt R.RNG_DB_STALE 0xFFFFFFFA)
def vb_CountersCount_0 : CtrBlock := ((findCtr (R.RNG_DB_STALE)).get (by decide +kernel)).1
def vu_CountersCount_0 : Nat := ((findCtr (R.RNG_DB_STALE)).get (by decide +kernel)).2.1
def vi_CountersCount_0 : Nat := ((findCtr (R.RNG_DB_STALE)).get (by decide +kernel)).2.2.2
def vc_CountersCount_0 : CtrSpec := ((findCtr (R.RNG_DB_STALE)).get (by decide +kernel)).2.2.1
def vs_CountersCount_1 : State := (base.cnt R.RNG_FETCHED 0xFFFFFFFFFFFFFFFA)
def vb_CountersCount_1 : CtrBlock := ((findCtr (R.RNG_FETCHED)).get (by decide +kernel)).1
def vu_CountersCount_1 : Nat := ((findCtr (R.RNG_FETCHED)).get (by decide +kernel)).2.1
def vi_CountersCount_1 : Nat := ((findCtr (R.RNG_FETCHED)).get (by decide +kernel)).2.2.2
def vc_CountersCount_1 : CtrSpec := ((findCtr (R.RNG_FETCHED)).get (by decide +kernel)).2.2.1
theorem witness_RegistersAndCounters :
    (∃ (a : Nat), ∃ (n : Nat), ∃ (v : Nat), ∃ (s : State), ∃ (r : RegSpec), ∃ (own : Nat), ∃ (u : Nat), ∃ (i : Nat), (a < R.CRC_CFG 0 ∨ R.CRC_CFG 4 ≤ a) ∧ findCtr a = none ∧ findReg a = some (r, own, u, i) ∧ (n = 4 ∨ n = 8) ∧ a % n = 0 ∧ own ≤ a ∧ a + n ≤ own + r.bytes ∧ r.base ∉ [R.CTL_ADMIN_SR_BASE, R.CTL_ADMIN_CR_BASE, R.CTL_ADMIN_EQ_BASE, R.PCI_WINDOW 0, R.DNX_IN_WINDOW 0, R.LAT_CELL_STRM 0 0, R.CFG_STATUS] ∧ own ∉ [R.CTL_ADMIN_SR_BASE, R.CTL_ADMIN_CR_BASE, R.CTL_ADMIN_EQ_BASE]) ∧
    (∃ (a : Nat), ∃ (n : Nat), ∃ (v : Nat), ∃ (s : State), (a + n ≤ R.CRC_CFG 0 ∨ R.CRC_CFG 4 ≤ a) ∧ (∀ b, a ≤ b → b < a + n → findCtr b = none ∧ findReg b = none)) ∧
    (∃ (a : Nat), ∃ (n : Nat), ∃ (v : Nat), ∃ (s : State), (¬((n = 4 ∨ n = 8) ∧ a % n = 0))) ∧
    (∃ (a : Nat), ∃ (s : State), ∃ (b : CtrBlock), ∃ (u : Nat), ∃ (i : Nat), ∃ (c : CtrSpec), findCtr a = some (b, u, c, i) ∧ c.cls = .s) ∧
    (∃ (s : State), ∃ (a : Nat), ∃ (n : Nat), ∃ (b : CtrBlock), ∃ (u : Nat), ∃ (i : Nat), ∃ (c : CtrSpec), findCtr a = some (b, u, c, i) ∧ c.cls = .s ∧ R.MGT_EVENT_LOST ≠ a) ∧
    (∃ (s : State), ∃ (a : Nat), ∃ (n : Nat), ∃ (b : CtrBlock), ∃ (u : Nat), ∃ (i : Nat), ∃ (c : CtrSpec), findCtr a = some (b, u, c, i) ∧ c.cls = .e) ∧
    (∃ (s : State), ∃ (a : Nat), ∃ (n : Nat), ∃ (k : Nat), k ≠ a ∧ k ≠ R.MGT_EVENT_LOST) :=
  ⟨⟨(va_RegisterWriteByAccessCodes_0), (4), (0x12345), (base), (vr_RegisterWriteByAccessCodes_0), (vown_RegisterWriteByAccessCodes_0), (vu_RegisterWriteByAccessCodes_0), (vi_RegisterWriteByAccessCodes_0), by decide +kernel, by decide +kernel, by decide +kernel, by decide +kernel, by decide +kernel, by decide +kernel, by decide +kernel, by decide +kernel, by decide +kernel⟩,
   ⟨(0xFFFFFFFC), (4), (7), (base), by decide +kernel, fun b h1 h2 => by obtain rfl | rfl | rfl | rfl : b = 0xFFFFFFFC ∨ b = 0xFFFFFFFD ∨ b = 0xFFFFFFFE ∨ b = 0xFFFFFFFF := (by omega) <;> exact ⟨by decide +kernel, by decide +kernel⟩⟩,
   ⟨(va_RegisterWriteByAccessCodes_2), (4), (7), (base), by decide +kernel⟩,
   ⟨(R.RNG_DB_STALE), (vs_CounterClear_0), (vb_CounterClear_0), (vu_CounterClear_0), (vi_CounterClear_0), (vc_CounterClear_0), by decide +kernel, by decide +kernel⟩,
   ⟨(vs_CountersCount_0), (R.RNG_DB_STALE), (9), (vb_CountersCount_0), (vu_CountersCount_0), (vi_CountersCount_0), (vc_CountersCount_0), by decide +kernel, by decide +kernel, by decide +kernel⟩,
   ⟨(vs_CountersCount_1), (R.RNG_FETCHED), (9), (vb_CountersCount_1), (vu_CountersCount_1), (vi_CountersCount_1), (vc_CountersCount_1), by decide +kernel, by decide +kernel⟩,
   ⟨(base), (R.RNG_FETCHED), (9), (R.RNG_DB_STALE), by decide +kernel, by decide +kernel⟩⟩

def vs_CounterReads_0 : State := { full with ctr := [(0x10200, 7)], ctrHost := [(0x10200, 3)], ctrMc := [(0x10200, 5), (0x90000410, 6)] }
def vb_CounterReads_0 : CtrBlock := (((findCtr R.RNG_DB_RANGE).get (by decide +kernel))).1
def vi_CounterReads_0 : Nat := (((findCtr R.RNG_DB_RANGE).get (by decide +kernel))).2.2.2
def vc_CounterReads_0 : CtrSpec := (((findCtr R.RNG_DB_RANGE).get (by decide +kernel))).2.2.1
def vs_CounterReads_1 : State := { full with ctr := [(0x10200, 7)], ctrHost := [(0x10200, 3)], ctrMc := [(0x10200, 5), (0x90000410, 6)] }
def vr_CounterReads_1 : RegSpec := ((findReg (R.SLC_USE 63)).get (by decide +kernel)).1
def vu_CounterReads_1 : Nat := ((findReg (R.SLC_USE 63)).get (by decide +kernel)).2.2.1
def vi_CounterReads_1 : Nat := ((findReg (R.SLC_USE 63)).get (by decide +kernel)).2.2.2
def vs_CounterReads_2 : State := { full with ctr := [(0x10200, 7)], ctrHost := [(0x10200, 3)], ctrMc := [(0x10200, 5), (0x90000410, 6)] }
def vs_CounterReads_4 : State := { full with ctr := [(0x10200, 7)], ctrHost := [(0x10200, 3)], ctrMc := [(0x10200, 5), (0x90000410, 6)] }
def vb_CounterReads_4 : CtrBlock := ⟨0x10000, 1, 0x10000000000, ctrsRng⟩
def vdpa_CounterReads_5 : Nat := regSpace + 0x10000
def vs_CounterReads_5 : State := { full with ctr := [(0x10200, 7)], ctrHost := [(0x10200, 3)], ctrMc := [(0x10200, 5), (0x90000410, 6)] }
def vb_CounterReads_5 : CtrBlock := ⟨0x10000, 1, 0x10000000000, ctrsRng⟩
def vi_CounterReads_6 : Nat := ((findReg 0x10000).get (by decide +kernel)).2.2.2
def vw_CounterReads_6 : Nat := ((findReg 0x10000).get (by decide +kernel)).2.2.1
def vs_CounterReads_6 : State := { full with ctr := [(0x10200, 7)], ctrHost := [(0x10200, 3)], ctrMc := [(0x10200, 5), (0x90000410, 6)] }
def vb_CounterReads_6 : CtrBlock := ⟨0x10000, 1, 0x10000000000, ctrsRng⟩
def vr_CounterReads_6 : RegSpec := ((findReg 0x10000).get (by decide +kernel)).1
theorem witness_CounterReads :
    (∃ (a : Nat), ∃ (n : Nat), ∃ (s : State), ∃ (b : CtrBlock), ∃ (u : Nat), ∃ (i : Nat), ∃ (own : Nat), ∃ (c : CtrSpec), ∃ (mc : Bool), findCtr a = some (b, u, c, i) ∧ own = c.base + u * c.s1 + i * c.s2) ∧
    (∃ (a : Nat), ∃ (n : Nat), ∃ (s : State), ∃ (r : RegSpec), ∃ (own : Nat), ∃ (u : Nat), ∃ (i : Nat), ∃ (mc : Bool), findCtr a = none ∧ findReg a = some (r, own, u, i) ∧ isGauge own = true) ∧
    (∃ (c : Nat), ∃ (s : State), isGauge c = false) ∧
    (∃ (a : Nat), ∃ (s : State), ∃ (b : CtrBlock), ∃ (u : Nat), blockOfSnap a = some (b, u)) ∧
    (∃ (m : Nat), ∃ (dpa : Nat), ∃ (u : Nat), ∃ (s : State), ∃ (b : CtrBlock), s.mcAnswers m = true ∧ s.dev = .run ∧ regSpace ≤ dpa ∧ blockOfSnap (regAddr (dpa - regSpace)) = some (b, u)) ∧
    (∃ (a : Nat), ∃ (v : Nat), ∃ (u : Nat), ∃ (i : Nat), ∃ (w : Nat), ∃ (s : State), ∃ (b : CtrBlock), ∃ (r : RegSpec), blockOfSnap a = some (b, u) ∧ bit v (snapBit a) = true ∧ a % 4 = 0 ∧ v < 2 ^ 32 ∧ findCtr a = none ∧ findReg a = some (r, a, w, i) ∧ readSpan a 4 = 4 ∧ (a < R.CRC_CFG 0 ∨ R.CRC_CFG 4 ≤ a)) :=
  ⟨⟨(R.RNG_DB_RANGE), (8), (vs_CounterReads_0), (vb_CounterReads_0), (0), (vi_CounterReads_0), (R.RNG_DB_RANGE), (vc_CounterReads_0), (true), by decide +kernel, by decide +kernel⟩,
   ⟨(R.SLC_USE 63), (8), (vs_CounterReads_1), (vr_CounterReads_1), (R.SLC_USE 63), (vu_CounterReads_1), (vi_CounterReads_1), (false), by decide +kernel, by decide +kernel, by decide +kernel⟩,
   ⟨(0x10200), (vs_CounterReads_2), by decide +kernel⟩,
   ⟨(0x10000), (vs_CounterReads_4), (vb_CounterReads_4), (0), by decide +kernel⟩,
   ⟨(1), (vdpa_CounterReads_5), (0), (vs_CounterReads_5), (vb_CounterReads_5), by decide +kernel, by decide +kernel, by decide +kernel, by decide +kernel⟩,
   ⟨(0x10000), (1), (0), (vi_CounterReads_6), (vw_CounterReads_6), (vs_CounterReads_6), (vb_CounterReads_6), (vr_CounterReads_6), by decide +kernel, by decide +kernel, by decide +kernel, by decide +kernel, by decide +kernel, by decide +kernel, by decide +kernel, .inl (by decide +kernel)⟩⟩

def vs_FeuilleCommands_0 : State := { jobs [jb 0 5 0 (D [(0, 0x85), (8, 109), (16, 4096), (28, 7)])] with pcie := { base.pcie with gathers := [⟨0, 5, 0, 7, 4096, leBytes 4 (1 + 1 * 8) ++ leBytes 4 1 ++ leBytes 4 0 ++ leBytes 4 0 ++ leBytes 4 17 ++ zeroBytes 108, 0⟩] }, regs := (R.SLC_QUOTA 0, slice0Quota) :: base.regs }
def vj_FeuilleCommands_0 : Job := jb 0 5 0 (D [(0, 0x85), (8, 109), (16, 4096), (28, 7)])
def vb_FeuilleCommands_0 : List Byte := ioVal (vs_FeuilleCommands_0.readOperand vj_FeuilleCommands_0 (dby vj_FeuilleCommands_0.desc 24 1) (dby vj_FeuilleCommands_0.desc 28 4) (dby vj_FeuilleCommands_0.desc 16 8) 128 0)
def vs1_FeuilleCommands_0 : State := ioSt (vs_FeuilleCommands_0.readOperand vj_FeuilleCommands_0 (dby vj_FeuilleCommands_0.desc 24 1) (dby vj_FeuilleCommands_0.desc 28 4) (dby vj_FeuilleCommands_0.desc 16 8) 128 0)
def vs2_FeuilleCommands_0 : State := (match vs1_FeuilleCommands_0.feuWrite 0 109 vb_FeuilleCommands_0 with | .ok t => t | .error _ => vs1_FeuilleCommands_0)
def vs_FeuilleCommands_1 : State := { fjobs [jb 0 5 0 (D [(0, 0x86), (8, 109), (16, 4096), (28, 7)])] with freeCtr := 1 }
def vj_FeuilleCommands_1 : Job := jb 0 5 0 (D [(0, 0x86), (8, 109), (16, 4096), (28, 7)])
def vs1_FeuilleCommands_1 : State := wioSt (vs_FeuilleCommands_1.writeOperand vj_FeuilleCommands_1 (dby vj_FeuilleCommands_1.desc 24 1) (dby vj_FeuilleCommands_1.desc 28 4) (dby vj_FeuilleCommands_1.desc 16 8) (vs_FeuilleCommands_1.feuBytes (dby vj_FeuilleCommands_1.desc 8 4)) 0)
def vs_FeuilleCommands_2 : State := { base with feuWork := [⟨0, 5, [109], [(17, [], some 0)]⟩] }
def vs_FeuilleReadIsolation_0 : State := { jobs [jb 0 5 1 (D [(0, 0x86), (8, 109), (16, 4096), (28, 7)])] with feus := [(109, { Feu.free with valid := true, owner := 2 })] }
def vj_FeuilleReadIsolation_0 : Job := jb 0 5 1 (D [(0, 0x86), (8, 109), (16, 4096), (28, 7)])
theorem witness_Feuilles :
    (∃ (sr : Nat), ∃ (tag : Nat), ∃ (s : State), ∃ (s1 : State), ∃ (s2 : State), ∃ (j : Job), ∃ (b : List Byte), s.ready sr tag 0x85 j ∧ rsvdZero j.desc [(8, 4), (16, 9), (28, 4)] = true ∧ dby j.desc 8 4 < 4096 ∧ (dby j.desc 24 1 = 0 ∨ dby j.desc 24 1 = 2) ∧ (dby j.desc 24 1 = 2 → ∀ r, s.region (dby j.desc 28 4) j.slice = some r → dby j.desc 16 8 + 128 ≤ r.dataBytes) ∧ s.readOperand j (dby j.desc 24 1) (dby j.desc 28 4) (dby j.desc 16 8) 128 0 = .ok s1 b ∧ s1.feuWrite j.slice (dby j.desc 8 4) b = .ok s2) ∧
    (∃ (sr : Nat), ∃ (tag : Nat), ∃ (s : State), ∃ (s1 : State), ∃ (j : Job), s.ready sr tag 0x86 j ∧ rsvdZero j.desc [(8, 4), (16, 9), (28, 4)] = true ∧ dby j.desc 8 4 < 4096 ∧ (dby j.desc 24 1 = 0 ∨ dby j.desc 24 1 = 2) ∧ (dby j.desc 24 1 = 2 → ∀ r, s.region (dby j.desc 28 4) j.slice = some r → dby j.desc 16 8 + 128 ≤ r.dataBytes) ∧ (j.slice = 0 ∨ dby j.desc 8 4 < 109 ∨ (s.feu (dby j.desc 8 4)).valid = false ∨ (s.feu (dby j.desc 8 4)).owner = j.slice) ∧ s.writeOperand j (dby j.desc 24 1) (dby j.desc 28 4) (dby j.desc 16 8) (s.feuBytes (dby j.desc 8 4)) 0 = .ok s1) ∧
    (∃ (sr : Nat), ∃ (tag : Nat), ∃ (s : State), (s.feuWork.any (fun f => f.sr = sr && f.tag = tag) = true) ∧ (∀ f ∈ s.feuWork, f.sr = sr → f.tag = tag → f.parts.all (fun p => p.2.2.isSome) = true)) ∧
    (∃ (sr : Nat), ∃ (tag : Nat), ∃ (s : State), ∃ (j : Job), s.ready sr tag 0x86 j ∧ rsvdZero j.desc [(8, 4), (16, 9), (28, 4)] = true ∧ dby j.desc 24 1 = 0 ∧ dby j.desc 8 4 < 4096 ∧ j.slice ≠ 0 ∧ 109 ≤ dby j.desc 8 4 ∧ (s.feu (dby j.desc 8 4)).valid = true ∧ (s.feu (dby j.desc 8 4)).owner ≠ j.slice) :=
  ⟨⟨(0), (5), (vs_FeuilleCommands_0), (vs1_FeuilleCommands_0), (vs2_FeuilleCommands_0), (vj_FeuilleCommands_0), (vb_FeuilleCommands_0), ready_of (by decide +kernel), by decide +kernel, by decide +kernel, by decide +kernel, by decide +kernel, by rfl, rfl⟩,
   ⟨(0), (5), (vs_FeuilleCommands_1), (vs1_FeuilleCommands_1), (vj_FeuilleCommands_1), ready_of (by decide +kernel), by decide +kernel, by decide +kernel, by decide +kernel, by decide +kernel, by decide +kernel, wio_ok _ (by decide +kernel)⟩,
   ⟨(0), (5), (vs_FeuilleCommands_2), by decide +kernel, by decide +kernel⟩,
   ⟨(0), (5), (vs_FeuilleReadIsolation_0), (vj_FeuilleReadIsolation_0), ready_of (by decide +kernel), by decide +kernel, by decide +kernel, by decide +kernel, by decide +kernel, by decide +kernel, by decide +kernel, by decide +kernel⟩⟩

def vr_DoorbellsAct_0 : Sr := (Tbl.find full.ring.srs 0).get (by decide +kernel)
def vr_DoorbellsAct_1 : Cr := (Tbl.find full.ring.crs 0).get (by decide +kernel)
def vr_DoorbellsAct_2 : Eq := (Tbl.find full.ring.eqs 0).get (by decide +kernel)
def vr_DoorbellChecks_2 : Sr := (Tbl.find full.ring.srs 0).get (by decide +kernel)
def vs_DoorbellChecks_3 : State := { full with slices := [(0, { slA with state := .quiesced })] }
def vr_DoorbellChecks_3 : Sr := (Tbl.find vs_DoorbellChecks_3.ring.srs 0).get (by decide +kernel)
def vr_DoorbellChecks_4 : Sr := (Tbl.find full.ring.srs 0).get (by decide +kernel)
theorem witness_Doorbells :
    (∃ (n : Nat), ∃ (word : Nat), ∃ (s : State), ∃ (r : Sr), s.barOk 0 = true ∧ Tbl.find s.ring.srs n = some r ∧ word < 2 ^ 32 ∧ fld word 16 16 = Tbl.get s.ring.srGen n 0 ∧ ringState (s.slice r.slice).state ≠ 2 ∧ ringState (s.slice r.slice).state ≠ 4 ∧ fld word 0 16 < 2 ^ r.at'.log2) ∧
    (∃ (n : Nat), ∃ (word : Nat), ∃ (s : State), ∃ (r : Cr), s.barOk 0 = true ∧ Tbl.find s.ring.crs n = some r ∧ word < 2 ^ 32 ∧ fld word 16 16 = Tbl.get s.ring.crGen n 0 ∧ ringState (s.slice r.slice).state ≠ 2 ∧ ringState (s.slice r.slice).state ≠ 4 ∧ fld word 0 16 < 2 ^ r.at'.log2) ∧
    (∃ (n : Nat), ∃ (word : Nat), ∃ (s : State), ∃ (r : Eq), s.barOk 0 = true ∧ n < 4096 ∧ Tbl.find s.ring.eqs n = some r ∧ word < 2 ^ 32 ∧ fld word 16 16 = Tbl.get s.ring.eqGen n 0 ∧ ringState (s.slice r.slice).state ≠ 2 ∧ ringState (s.slice r.slice).state ≠ 4 ∧ fld word 0 16 < 2 ^ r.at'.log2) ∧
    (∃ (n : Nat), ∃ (off : Nat), ∃ (size : Nat), ∃ (word : Nat), ∃ (s : State), s.barOk 0 = true ∧ onWord 0 off size = true ∧ (¬(off = 0 ∧ size = 8) ∨ 2 ^ 32 ≤ word)) ∧
    (∃ (n : Nat), ∃ (word : Nat), ∃ (s : State), s.barOk 0 = true ∧ word < 2 ^ 32 ∧ Tbl.find s.ring.srs n = none) ∧
    (∃ (n : Nat), ∃ (word : Nat), ∃ (s : State), ∃ (r : Sr), s.barOk 0 = true ∧ word < 2 ^ 32 ∧ Tbl.find s.ring.srs n = some r ∧ fld word 16 16 ≠ Tbl.get s.ring.srGen n 0) ∧
    (∃ (n : Nat), ∃ (word : Nat), ∃ (s : State), ∃ (r : Sr), s.barOk 0 = true ∧ word < 2 ^ 32 ∧ Tbl.find s.ring.srs n = some r ∧ fld word 16 16 = Tbl.get s.ring.srGen n 0 ∧ (ringState (s.slice r.slice).state = 2 ∨ ringState (s.slice r.slice).state = 4)) ∧
    (∃ (n : Nat), ∃ (word : Nat), ∃ (s : State), ∃ (r : Sr), s.barOk 0 = true ∧ word < 2 ^ 32 ∧ Tbl.find s.ring.srs n = some r ∧ fld word 16 16 = Tbl.get s.ring.srGen n 0 ∧ ringState (s.slice r.slice).state ≠ 2 ∧ ringState (s.slice r.slice).state ≠ 4 ∧ 2 ^ r.at'.log2 ≤ fld word 0 16) :=
  ⟨⟨(0), (15), (full), (vr_DoorbellsAct_0), by decide +kernel, by decide +kernel, by decide +kernel, by decide +kernel, by decide +kernel, by decide +kernel, by decide +kernel⟩,
   ⟨(0), (15), (full), (vr_DoorbellsAct_1), by decide +kernel, by decide +kernel, by decide +kernel, by decide +kernel, by decide +kernel, by decide +kernel, by decide +kernel⟩,
   ⟨(0), (15), (full), (vr_DoorbellsAct_2), by decide +kernel, by decide +kernel, by decide +kernel, by decide +kernel, by decide +kernel, by decide +kernel, by decide +kernel, by decide +kernel⟩,
   ⟨(0), (4), (4), (15), (full), by decide +kernel, by decide +kernel, by decide +kernel⟩,
   ⟨(3), (15), (full), by decide +kernel, by decide +kernel, by decide +kernel⟩,
   ⟨(0), (65536), (full), (vr_DoorbellChecks_2), by decide +kernel, by decide +kernel, by decide +kernel, by decide +kernel⟩,
   ⟨(0), (15), (vs_DoorbellChecks_3), (vr_DoorbellChecks_3), by decide +kernel, by decide +kernel, by decide +kernel, by decide +kernel, by decide +kernel⟩,
   ⟨(0), (16), (full), (vr_DoorbellChecks_4), by decide +kernel, by decide +kernel, by decide +kernel, by decide +kernel, by decide +kernel, by decide +kernel, by decide +kernel⟩⟩

def vs_DescriptorFetch_0 : State := { full with regs := (R.CTL_ADMIN_CTRL, 3) :: full.regs, ring := { full.ring with srs := [(0, { sr0 with tail := 3, fetched := 15 })] } }
def vr_DescriptorFetch_0 : Sr := (Tbl.find vs_DescriptorFetch_0.ring.srs 0).get (by decide +kernel)
def vs_DescriptorFetch_2 : State := fjobs [jb 0 5 0 0]
def vd_DescriptorFetch_2 : Nat := (D [(0, 1 + 5 * 2^16)])
def vr_DescriptorFetch_2 : Sr := (Tbl.find vs_DescriptorFetch_2.ring.srs 0).get (by decide +kernel)
def vs_DescriptorFetch_4 : State := fjobs [jb 0 4 0 0]
def vd_DescriptorFetch_4 : Nat := (D [(0, 1 + 5 * 2^16)])
def vr_DescriptorFetch_4 : Sr := (Tbl.find vs_DescriptorFetch_4.ring.srs 0).get (by decide +kernel)
def vs_RingEntriesWritten_0 : State := { full with ring := { full.ring with unwritten := [⟨0, 5, 0, 0, 3, 0xFFFFFFFF, 1, 2, 9, false, false, none⟩], crs := [(0, { cr0 with written := 17, freed := 2 })] } }
def vr_RingEntriesWritten_0 : Cr := (Tbl.find vs_RingEntriesWritten_0.ring.crs 0).get (by decide +kernel)
def vc_RingEntriesWritten_0 : Cpl := ⟨0, 5, 0, 0, 3, 0xFFFFFFFF, 1, 2, 9, false, false, none⟩
def vs_RingEntriesWritten_1 : State := { full with ring := { full.ring with crs := [(0, { cr0 with timer := some 10, since := 1 })] } }
def vc_RingEntriesWritten_1 : Cr := (Tbl.find vs_RingEntriesWritten_1.ring.crs 0).get (by decide +kernel)
def vs_RingEntriesWritten_2 : State := { full with ring := { full.ring with events := [⟨0, 4, 5, 6, 7⟩] } }
def vq_RingEntriesWritten_2 : Eq := (Tbl.find vs_RingEntriesWritten_2.ring.eqs 0).get (by decide +kernel)
def ve_RingEntriesWritten_2 : Ev := ⟨0, 4, 5, 6, 7⟩
theorem witness_FetchAndWriteback :
    (∃ (s : State), ∃ (r : Sr), Tbl.find s.ring.srs 0 = some r ∧ r.at'.loc = 0 ∧ s.fetchTurn = some 0 ∧ s.pcie.readWait = [] ∧ 0 < s.readRoom 0) ∧
    (∃ (n : Nat), ∃ (s : State), s.fetchTurn ≠ some n) ∧
    (∃ (s : State), ∃ (n : Nat), ∃ (d : Nat), ∃ (r : Sr), Tbl.find s.ring.srs n = some r ∧ (s.slice r.slice).state ≠ .error ∧ r.doomed ≤ r.fetched ∧ s.rejectStatus n r d = some stTagInUse) ∧
    (∃ (s : State), ∃ (n : Nat), ∃ (d : Nat), ∃ (r : Sr), Tbl.find s.ring.srs n = some r ∧ (s.slice r.slice).state ≠ .error ∧ r.doomed ≤ r.fetched ∧ s.rejectStatus n r d = none) ∧
    (∃ (s : State), ∃ (r : Cr), ∃ (c : Cpl), ∃ (rest : List Cpl), Tbl.find s.ring.crs 0 = some r ∧ (takeFirst (fun c => c.cr = 0) s.ring.unwritten = some (c, rest)) ∧ r.at'.loc = 0 ∧ r.free ≠ 0 ∧ r.stuck = false ∧ s.ringStalled 0 1 = false ∧ s.writesPending c = false ∧ (s.slice r.slice).state ≠ .orphaned ∧ s.dmaOk 0 = true) ∧
    (∃ (n : Nat), ∃ (a : Nat), ∃ (s : State), ∃ (c : Cr), Tbl.find s.ring.crs n = some c ∧ c.timer = some a ∧ a + c.modTime * 1000 ≤ s.timeNs ∧ 0 < c.since ∧ Tbl.has s.ring.eqs c.eq = true) ∧
    (∃ (s : State), ∃ (q : Eq), ∃ (e : Ev), ∃ (rest : List Ev), Tbl.find s.ring.eqs 0 = some q ∧ (takeFirst (fun e => e.eq = 0) s.ring.events = some (e, rest)) ∧ e.kind ≠ 1 ∧ q.at'.loc = 0 ∧ q.written - q.freed < 2 ^ q.at'.log2 ∧ q.stuck = false ∧ s.ringStalled 0 2 = false ∧ (s.slice q.slice).state ≠ .orphaned ∧ s.dmaOk 0 = true) :=
  ⟨⟨(vs_DescriptorFetch_0), (vr_DescriptorFetch_0), by decide +kernel, by decide +kernel, by decide +kernel, by decide +kernel, by decide +kernel⟩,
   ⟨(0), (full), by decide +kernel⟩,
   ⟨(vs_DescriptorFetch_2), (0), (vd_DescriptorFetch_2), (vr_DescriptorFetch_2), by decide +kernel, by decide +kernel, by decide +kernel, by decide +kernel⟩,
   ⟨(vs_DescriptorFetch_4), (0), (vd_DescriptorFetch_4), (vr_DescriptorFetch_4), by decide +kernel, by decide +kernel, by decide +kernel, by decide +kernel⟩,
   ⟨(vs_RingEntriesWritten_0), (vr_RingEntriesWritten_0), (vc_RingEntriesWritten_0), ([]), by decide +kernel, by decide +kernel, by decide +kernel, by decide +kernel, by decide +kernel, by decide +kernel, by decide +kernel, by decide +kernel, by decide +kernel⟩,
   ⟨(0), (10), (vs_RingEntriesWritten_1), (vc_RingEntriesWritten_1), by decide +kernel, by decide +kernel, by decide +kernel, by decide +kernel, by decide +kernel⟩,
   ⟨(vs_RingEntriesWritten_2), (vq_RingEntriesWritten_2), (ve_RingEntriesWritten_2), ([]), by decide +kernel, by decide +kernel, by decide +kernel, by decide +kernel, by decide +kernel, by decide +kernel, by decide +kernel, by decide +kernel, by decide +kernel⟩⟩

def vword_AdminRingAndLease_0 : Nat := 1 + 4 * 16 + 12 * 256 + 5 * 4096
def vs_AdminRingAndLease_1 : State := ({ full with slices := [(0, { slA with state := .orphaned })] }).wr R.CTL_ADMIN_CTRL 3
def vs_AdminRingAndLease_3 : State := { full with ring := { full.ring with leaseArmed := true, leaseEnd := 10 } }
def vs_AdminRingAndLease_4 : State := { full with ring := { full.ring with leaseArmed := true, leaseEnd := 10 ^ 12 } }
def vs_RingCommands_0 : State := { fjobs [jb 0 5 0 (D ([(0, 128), (8, 4096), (18, 4), (20, 7)] ++ [(19, 1), (24, 9)]))] with regs := (R.SLC_QUOTA 0, slice0Quota) :: full.regs }
def vj_RingCommands_0 : Job := jb 0 5 0 (D ([(0, 128), (8, 4096), (18, 4), (20, 7)] ++ [(19, 1), (24, 9)]))
def vs_RingCommands_1 : State := { fjobs [jb 0 5 0 (D ([(0, 129), (8, 4096), (18, 4), (20, 7)] ++ [(29, 1)]))] with regs := (R.SLC_QUOTA 0, slice0Quota) :: full.regs }
def vj_RingCommands_1 : Job := jb 0 5 0 (D ([(0, 129), (8, 4096), (18, 4), (20, 7)] ++ [(29, 1)]))
def vs_RingCommands_2 : State := { fjobs [jb 0 5 0 (D ([(0, 130), (8, 4096), (18, 4), (20, 7)] ++ [(24, 4095)]))] with regs := (R.SLC_QUOTA 0, slice0Quota) :: full.regs }
def vj_RingCommands_2 : Job := jb 0 5 0 (D ([(0, 130), (8, 4096), (18, 4), (20, 7)] ++ [(24, 4095)]))
def vs_RingCommands_3 : State := { fjobs [jb 0 5 0 (D [(0, 0x83), (8, 2)])] with ring := { full.ring with jobs := [jb 0 5 0 (D [(0, 0x83), (8, 2)])], srs := [(0, sr0), (2, sr0)] } }
def vj_RingCommands_3 : Job := jb 0 5 0 (D [(0, 0x83), (8, 2)])
def vr_RingCommands_3 : Sr := (Tbl.find vs_RingCommands_3.ring.srs 2).get (by decide +kernel)
def vs_RingCommands_4 : State := { fjobs [jb 0 5 0 (D [(0, 0x83), (8, 3), (10, 1)])] with ring := { full.ring with jobs := [jb 0 5 0 (D [(0, 0x83), (8, 3), (10, 1)])], crs := [(0, cr0), (3, cr0)] } }
def vj_RingCommands_4 : Job := jb 0 5 0 (D [(0, 0x83), (8, 3), (10, 1)])
def vr_RingCommands_4 : Cr := (Tbl.find vs_RingCommands_4.ring.crs 3).get (by decide +kernel)
def vs_RingCommands_5 : State := { fjobs [jb 0 5 0 (D [(0, 0x83), (8, 4), (10, 2)])] with ring := { full.ring with jobs := [jb 0 5 0 (D [(0, 0x83), (8, 4), (10, 2)])], eqs := [(0, eq0), (4, eq0)] } }
def vj_RingCommands_5 : Job := jb 0 5 0 (D [(0, 0x83), (8, 4), (10, 2)])
def vr_RingCommands_5 : Eq := (Tbl.find vs_RingCommands_5.ring.eqs 4).get (by decide +kernel)
def vs_RingCommands_6 : State := { fjobs [jb 0 5 0 (D [(0, 0x87), (8, 2)])] with ring := { full.ring with jobs := [jb 0 5 0 (D [(0, 0x87), (8, 2)])], srs := [(0, sr0), (2, { sr0 with fetched := 20 })] } }
def vj_RingCommands_6 : Job := jb 0 5 0 (D [(0, 0x87), (8, 2)])
def vr_RingCommands_6 : Sr := (Tbl.find vs_RingCommands_6.ring.srs 2).get (by decide +kernel)
def vs_RingCommands_7 : State := fjobs [jb 0 5 0 (D [(0, 0x87), (8, 2)])]
def vj_RingCommands_7 : Job := jb 0 5 0 (D [(0, 0x87), (8, 2)])
def vs_AbortAndAdopt_0 : State := fjobs [{ jb 0 5 0 (D [(0, 0xF0), (10, 9)]) with prog := [0, 0, 0] }, jb 0 6 0 1]
def vj_AbortAndAdopt_0 : Job := { jb 0 5 0 (D [(0, 0xF0), (10, 9)]) with prog := [0, 0, 0] }
def vs_AbortAndAdopt_1 : State := fjobs [{ jb 0 5 0 (D [(0, 0xF0), (10, 6)]) with prog := [0, 0, 0] }, jb 0 6 0 0x40]
def vj_AbortAndAdopt_1 : Job := { jb 0 5 0 (D [(0, 0xF0), (10, 6)]) with prog := [0, 0, 0] }
def vs_AbortAndAdopt_2 : State := { fjobs [{ jb 0 5 0 (D [(0, 0xF0), (10, 6)]) with prog := [0, 0, 0] }, jb 0 6 0 0x30] with tmt := { full.tmt with qps := [(9, { qp0 with msgs := [{ msg0 with tag := 6, started := false }] })] } }
def vj_AbortAndAdopt_2 : Job := { jb 0 5 0 (D [(0, 0xF0), (10, 6)]) with prog := [0, 0, 0] }
def vq_AbortAndAdopt_2 : Qp := { qp0 with msgs := [{ msg0 with tag := 6, started := false }] }
def vs_AbortAndAdopt_3 : State := { fjobs [jb 0 5 1 (D [(0, 0x84)])] with slices := [(0, slA), (1, { slA with state := .orphaned, prev := .quiesced })] }
def vj_AbortAndAdopt_3 : Job := jb 0 5 1 (D [(0, 0x84)])
def vs_AbortAndAdopt_4 : State := { fjobs [jb 0 5 1 (D [(0, 0x84), (8, 1), (16, 64), (28, 4)])] with slices := [(0, slA), (1, { slA with state := .orphaned, prev := .quiesced })], ring := { full.ring with jobs := [jb 0 5 1 (D [(0, 0x84), (8, 1), (16, 64), (28, 4)])], srs := [(0, sr0), (2, { sr0 with slice := 1 })], crs := [(0, cr0), (1, { cr0 with slice := 1 })], unwritten := [⟨2, 5, 1, 1, 3, 0xFFFFFFFF, 1, 2, 9, false, false, none⟩] } }
def vj_AbortAndAdopt_4 : Job := jb 0 5 1 (D [(0, 0x84), (8, 1), (16, 64), (28, 4)])
theorem witness_RingsAndLease :
    (∃ (word : Nat), ∃ (s : State), s.rf R.CTL_ADMIN_CTRL 0 1 = 0 ∧ bit word 0 = true ∧ s.badBases = [] ∧ (∀ lo ∈ [4, 8, 12], 4 ≤ fld word lo 4 ∧ fld word lo 4 ≤ 12)) ∧
    (∃ (word : Nat), ∃ (s : State), s.rf R.CTL_ADMIN_CTRL 0 1 = 1 ∧ bit word 0 = false ∧ (∀ j ∈ s.ring.jobs, j.sr ≠ 0) ∧ s.fetching 0 = false ∧ (∀ r, Tbl.find s.ring.srs 0 = some r → r.head = r.tail)) ∧
    (∃ (word : Nat), ∃ (s : State), bit word 31 = true) ∧
    (∃ (s : State), s.ring.leaseArmed = true ∧ s.ring.leaseEnd ≤ s.timeNs ∧ (s.slice 0).state = .active) ∧
    (∃ (s : State), s.timeNs < s.ring.leaseEnd) ∧
    (∃ (sr : Nat), ∃ (tag : Nat), ∃ (n : Nat), ∃ (s : State), ∃ (j : Job), s.ready sr tag 0x80 j ∧ (s.createCheck j 0 (fun n => Tbl.has s.ring.srs n) = none) ∧ dby j.desc 19 1 ≠ 0 ∧ (∃ c, Tbl.find s.ring.crs (dby j.desc 26 2) = some c ∧ c.slice = j.slice) ∧ createNumber s.ring.srs j.desc 65536 = some n ∧ s.sliceUse j.slice 1 + 1 ≤ s.quota j.slice 1) ∧
    (∃ (sr : Nat), ∃ (tag : Nat), ∃ (n : Nat), ∃ (s : State), ∃ (j : Job), s.ready sr tag 0x81 j ∧ (s.createCheck j 1 (fun n => Tbl.has s.ring.crs n) = none) ∧ dby j.desc 30 2 ≤ 1023 ∧ (∃ c, Tbl.find s.ring.eqs (dby j.desc 26 2) = some c ∧ c.slice = j.slice) ∧ createNumber s.ring.crs j.desc 65536 = some n ∧ s.sliceUse j.slice 1 + 1 ≤ s.quota j.slice 1) ∧
    (∃ (sr : Nat), ∃ (tag : Nat), ∃ (n : Nat), ∃ (s : State), ∃ (j : Job), s.ready sr tag 0x82 j ∧ (s.createCheck j 2 (fun n => Tbl.has s.ring.eqs n) = none) ∧ (fld j.desc 128 2 = 1 ∨ dby j.desc 32 2 ≤ 2047) ∧ createNumber s.ring.eqs j.desc 4096 = some n ∧ s.sliceUse j.slice 1 + 1 ≤ s.quota j.slice 1) ∧
    (∃ (sr : Nat), ∃ (tag : Nat), ∃ (n : Nat), ∃ (s : State), ∃ (j : Job), ∃ (r : Sr), s.ready sr tag 0x83 j ∧ rsvdZero j.desc [(8, 3)] = true ∧ dby j.desc 8 2 = n ∧ n ≠ 0 ∧ dby j.desc 10 1 = 0 ∧ Tbl.find s.ring.srs n = some r ∧ r.slice = j.slice ∧ (∀ k ∈ s.ring.jobs, k.sr ≠ n) ∧ r.head = r.tail ∧ s.fetching n = false) ∧
    (∃ (sr : Nat), ∃ (tag : Nat), ∃ (n : Nat), ∃ (s : State), ∃ (j : Job), ∃ (r : Cr), s.ready sr tag 0x83 j ∧ rsvdZero j.desc [(8, 3)] = true ∧ dby j.desc 8 2 = n ∧ n ≠ 0 ∧ dby j.desc 10 1 = 1 ∧ Tbl.find s.ring.crs n = some r ∧ r.slice = j.slice ∧ (∀ q ∈ s.ring.srs, q.2.fallback ≠ n) ∧ (∀ k ∈ s.ring.jobs, k.cr ≠ n) ∧ (∀ c ∈ s.ring.unwritten, c.cr ≠ n) ∧ s.allFetched r.slice = true) ∧
    (∃ (sr : Nat), ∃ (tag : Nat), ∃ (n : Nat), ∃ (s : State), ∃ (j : Job), ∃ (r : Eq), s.ready sr tag 0x83 j ∧ rsvdZero j.desc [(8, 3)] = true ∧ dby j.desc 8 2 = n ∧ n ≠ 0 ∧ dby j.desc 10 1 = 2 ∧ Tbl.find s.ring.eqs n = some r ∧ r.slice = j.slice ∧ (∀ q ∈ s.ring.crs, q.2.eq ≠ n)) ∧
    (∃ (sr : Nat), ∃ (tag : Nat), ∃ (n : Nat), ∃ (s : State), ∃ (j : Job), ∃ (r : Sr), s.ready sr tag 0x87 j ∧ rsvdZero j.desc [(8, 3)] = true ∧ dby j.desc 8 2 = n ∧ dby j.desc 10 1 = 0 ∧ Tbl.find s.ring.srs n = some r ∧ r.slice = j.slice) ∧
    (∃ (sr : Nat), ∃ (tag : Nat), ∃ (n : Nat), ∃ (s : State), ∃ (j : Job), s.ready sr tag 0x87 j ∧ rsvdZero j.desc [(8, 3)] = true ∧ dby j.desc 8 2 = n ∧ dby j.desc 10 1 = 0 ∧ Tbl.find s.ring.srs n = none) ∧
    (∃ (sr : Nat), ∃ (tag : Nat), ∃ (n : Nat), ∃ (k : Nat), ∃ (s : State), ∃ (j : Job), ∃ (r : Sr), s.ready sr tag 0xF0 j ∧ dby j.desc 8 2 = n ∧ dby j.desc 10 2 = k ∧ rsvdZero j.desc [(8, 4)] = true ∧ Tbl.find s.ring.srs n = some r ∧ (r.slice = j.slice ∨ j.sr = 0 ∨ j.slice = 0) ∧ ¬(n = sr ∧ k = tag) ∧ j.p 0 ≠ 1 ∧ s.coreState (s.ringCore n) ≠ 2 ∧ s.abortFetched n r j = true ∧ s.job n k = none) ∧
    (∃ (sr : Nat), ∃ (tag : Nat), ∃ (n : Nat), ∃ (k : Nat), ∃ (s : State), ∃ (j : Job), ∃ (target : Job), ∃ (r : Sr), s.ready sr tag 0xF0 j ∧ dby j.desc 8 2 = n ∧ dby j.desc 10 2 = k ∧ rsvdZero j.desc [(8, 4)] = true ∧ Tbl.find s.ring.srs n = some r ∧ (r.slice = j.slice ∨ j.sr = 0 ∨ j.slice = 0) ∧ ¬(n = sr ∧ k = tag) ∧ j.p 0 ≠ 1 ∧ s.coreState (s.ringCore n) ≠ 2 ∧ s.abortFetched n r j = true ∧ s.job n k = some target ∧ s.feuEnded target = false ∧ s.noSnap n k ∧ 0x38 < dOpcode target.desc ∧ dOpcode target.desc ≠ 0x8B) ∧
    (∃ (sr : Nat), ∃ (tag : Nat), ∃ (n : Nat), ∃ (k : Nat), ∃ (m : Nat), ∃ (s : State), ∃ (j : Job), ∃ (target : Job), ∃ (r : Sr), ∃ (q : Qp), s.ready sr tag 0xF0 j ∧ dby j.desc 8 2 = n ∧ dby j.desc 10 2 = k ∧ rsvdZero j.desc [(8, 4)] = true ∧ Tbl.find s.ring.srs n = some r ∧ (r.slice = j.slice ∨ j.sr = 0 ∨ j.slice = 0) ∧ ¬(n = sr ∧ k = tag) ∧ j.p 0 ≠ 1 ∧ s.coreState (s.ringCore n) ≠ 2 ∧ s.abortFetched n r j = true ∧ s.job n k = some target ∧ s.feuEnded target = false ∧ s.noSnap n k ∧ 0x30 ≤ dOpcode target.desc ∧ dOpcode target.desc ≤ 0x38 ∧ s.tmt.qps = [(m, q)] ∧ (q.msgs.any (fun x => x.op < 0x100 && x.sr = n && x.tag = k) = true) ∧ (∀ x ∈ q.msgs, x.sr = n → x.tag = k → x.started = false ∧ x.op < 0x100) ∧ (∀ x ∈ q.msgs, ¬(x.sr = sr ∧ x.tag = tag))) ∧
    (∃ (sr : Nat), ∃ (tag : Nat), ∃ (s : State), ∃ (j : Job), s.ready sr tag 0x84 j ∧ rsvdZero j.desc [(8, 1)] = true ∧ dby j.desc 8 1 = 0 ∧ j.slice ≠ 0 ∧ (s.slice j.slice).state = .orphaned ∧ (s.slice j.slice).tearing = false ∧ (∀ c ∈ s.ring.unwritten, c.ofSlice j.slice = false)) ∧
    (∃ (sr : Nat), ∃ (tag : Nat), ∃ (s : State), ∃ (j : Job), s.ready sr tag 0x84 j ∧ rsvdZero j.desc [(8, 1), (16, 9), (28, 8)] = true ∧ dby j.desc 8 1 = 1 ∧ j.slice ≠ 0 ∧ sr = 0 ∧ (s.slice j.slice).state = .orphaned ∧ (s.slice j.slice).tearing = false ∧ dby j.desc 24 1 = 0 ∧ dby j.desc 32 4 = 0 ∧ dby j.desc 16 8 % 32 = 0 ∧ s.dmaOk 0 = true ∧ (∀ q ∈ s.ring.srs, q.2.slice = j.slice → q.2.covered = 0) ∧ (∀ q ∈ s.ring.jobs, q.slice = j.slice → q.sr = 0) ∧ (s.ring.unwritten.filter (fun c => c.ofSlice j.slice)).length ≤ dby j.desc 28 4 ∧ (s.ring.unwritten.filter (fun c => c.ofSlice j.slice)).length < 2 ^ 32) :=
  ⟨⟨(vword_AdminRingAndLease_0), (base), by decide +kernel, by decide +kernel, by decide +kernel, by decide +kernel⟩,
   ⟨(0), (vs_AdminRingAndLease_1), by decide +kernel, by decide +kernel, by decide +kernel, by decide +kernel, by decide +kernel⟩,
   ⟨(2^31 + 60001), (base), by decide +kernel⟩,
   ⟨(vs_AdminRingAndLease_3), by decide +kernel, by decide +kernel, by decide +kernel⟩,
   ⟨(vs_AdminRingAndLease_4), by decide +kernel⟩,
   ⟨(0), (5), (9), (vs_RingCommands_0), (vj_RingCommands_0), ready_of (by decide +kernel), by decide +kernel, by decide +kernel, by decide +kernel, by decide +kernel, by decide +kernel⟩,
   ⟨(0), (5), (1), (vs_RingCommands_1), (vj_RingCommands_1), ready_of (by decide +kernel), by decide +kernel, by decide +kernel, by decide +kernel, by decide +kernel, by decide +kernel⟩,
   ⟨(0), (5), (4095), (vs_RingCommands_2), (vj_RingCommands_2), ready_of (by decide +kernel), by decide +kernel, by decide +kernel, by decide +kernel, by decide +kernel⟩,
   ⟨(0), (5), (2), (vs_RingCommands_3), (vj_RingCommands_3), (vr_RingCommands_3), ready_of (by decide +kernel), by decide +kernel, by decide +kernel, by decide +kernel, by decide +kernel, by decide +kernel, by decide +kernel, by decide +kernel, by decide +kernel, by decide +kernel⟩,
   ⟨(0), (5), (3), (vs_RingCommands_4), (vj_RingCommands_4), (vr_RingCommands_4), ready_of (by decide +kernel), by decide +kernel, by decide +kernel, by decide +kernel, by decide +kernel, by decide +kernel, by decide +kernel, by decide +kernel, by decide +kernel, by decide +kernel, by decide +kernel⟩,
   ⟨(0), (5), (4), (vs_RingCommands_5), (vj_RingCommands_5), (vr_RingCommands_5), ready_of (by decide +kernel), by decide +kernel, by decide +kernel, by decide +kernel, by decide +kernel, by decide +kernel, by decide +kernel, by decide +kernel⟩,
   ⟨(0), (5), (2), (vs_RingCommands_6), (vj_RingCommands_6), (vr_RingCommands_6), ready_of (by decide +kernel), by decide +kernel, by decide +kernel, by decide +kernel, by decide +kernel, by decide +kernel⟩,
   ⟨(0), (5), (2), (vs_RingCommands_7), (vj_RingCommands_7), ready_of (by decide +kernel), by decide +kernel, by decide +kernel, by decide +kernel, by decide +kernel⟩,
   ⟨(0), (5), (0), (9), (vs_AbortAndAdopt_0), (vj_AbortAndAdopt_0), (sr0), ready_of (by decide +kernel), by decide +kernel, by decide +kernel, by decide +kernel, by decide +kernel, by decide +kernel, by decide +kernel, by decide +kernel, by decide +kernel, by decide +kernel, by decide +kernel⟩,
   ⟨(0), (5), (0), (6), (vs_AbortAndAdopt_1), (vj_AbortAndAdopt_1), (jb 0 6 0 0x40), (sr0), ready_of (by decide +kernel), by decide +kernel, by decide +kernel, by decide +kernel, by decide +kernel, by decide +kernel, by decide +kernel, by decide +kernel, by decide +kernel, by decide +kernel, by decide +kernel, by decide +kernel, (fun _ h => nomatch h), by decide +kernel, by decide +kernel⟩,
   ⟨(0), (5), (0), (6), (9), (vs_AbortAndAdopt_2), (vj_AbortAndAdopt_2), (jb 0 6 0 0x30), (sr0), (vq_AbortAndAdopt_2), ready_of (by decide +kernel), by decide +kernel, by decide +kernel, by decide +kernel, by decide +kernel, by decide +kernel, by decide +kernel, by decide +kernel, by decide +kernel, by decide +kernel, by decide +kernel, by decide +kernel, (fun _ h => nomatch h), by decide +kernel, by decide +kernel, by decide +kernel, by decide +kernel, by decide +kernel, by decide +kernel⟩,
   ⟨(0), (5), (vs_AbortAndAdopt_3), (vj_AbortAndAdopt_3), ready_of (by decide +kernel), by decide +kernel, by decide +kernel, by decide +kernel, by decide +kernel, by decide +kernel, by decide +kernel⟩,
   ⟨(0), (5), (vs_AbortAndAdopt_4), (vj_AbortAndAdopt_4), ready_of (by decide +kernel), by decide +kernel, by decide +kernel, by decide +kernel, by decide +kernel, by decide +kernel, by decide +kernel, by decide +kernel, by decide +kernel, by decide +kernel, by decide +kernel, by decide +kernel, by decide +kernel, by decide +kernel, by decide +kernel⟩⟩

def vs_CellCommands_0 : State := (base.wr (R.LAT_CELL_STATE 1535) (2 + 256))
def vs_CellCommands_1 : State := (base.wr (R.LAT_CELL_STATE 1535) (2 + 256)).updSeq 1535 (fun q => { q with stall := some .wfi })
def vs_CellCommands_2 : State := (base.wr (R.LAT_CELL_STATE 1535) (3 + 256))
def vs_CellCommands_3 : State := (base.wr (R.LAT_CELL_STATE 1535) (4 + 256)).wr (R.LAT_CELL_MCA 1535) 256
def vs_CellCommands_4 : State := (atSeq 7 [0xE0, 2, 99, 128] []).wr (R.LAT_CELL_STATE 7) (3 + 256)
def ve_CellCommands_4 : Enc := en [0xE0, 2, 99, 128]
def vbs_CellCommands_4 : List Byte := ib [0xE0, 2, 99, 128]
def vs_CellStoreScrub_0 : State := { base with mem := { base.mem with rewrite := [cellDpa 1535 0x17FFF8], weak := [cellDpa 1535 0x17FFF8] } }
def vs_CellStoreScrub_1 : State := { base with mem := { base.mem with bad := [cellDpa 1535 0x17FFF8] } }
def vs_CellStoreScrub_2 : State := { base with mem := { base.mem with weak := [cellDpa 1535 0x17FFF8] } }
theorem witness_CellCommandsAndStores :
    (∃ (c : Nat), ∃ (s : State), c < 1536 ∧ s.cellState c = csRunning ∧ (s.seq c).stall = none) ∧
    (∃ (c : Nat), ∃ (s : State), c < 1536 ∧ s.cellState c = csRunning ∧ (s.seq c).stall ≠ none) ∧
    (∃ (c : Nat), ∃ (s : State), c < 1536 ∧ s.cellState c = csHalted) ∧
    (∃ (c : Nat), ∃ (s : State), c < 1536 ∧ s.cellState c = csFaulted) ∧
    (∃ (c : Nat), ∃ (s : State), ∃ (e : Enc), ∃ (bs : List Byte), c < 1536 ∧ s.canIssue c true = true ∧ s.fetchAt c (s.seq c) = .instr e bs ∧ e.op = 0x02 ∧ (s.land c).clearsChecks c e ∧ e.waive = false) ∧
    (∃ (c : Nat), ∃ (off : Nat), ∃ (s : State), s.mem.rewrite.contains (cellDpa c (off / 8 * 8)) = true) ∧
    (∃ (c : Nat), ∃ (off : Nat), ∃ (s : State), c < 1536 ∧ off < 0x180000 ∧ s.hubAwake (c / 128) = true ∧ s.mem.bad.contains (cellDpa c (off / 8 * 8)) = true) ∧
    (∃ (c : Nat), ∃ (off : Nat), ∃ (s : State), c < 1536 ∧ off < 0x180000 ∧ s.hubAwake (c / 128) = true ∧ s.mem.bad.contains (cellDpa c (off / 8 * 8)) = false ∧ s.mem.weak.contains (cellDpa c (off / 8 * 8)) = true) :=
  ⟨⟨(1535), (vs_CellCommands_0), by decide +kernel, by decide +kernel, by decide +kernel⟩,
   ⟨(1535), (vs_CellCommands_1), by decide +kernel, by decide +kernel, by decide +kernel⟩,
   ⟨(1535), (vs_CellCommands_2), by decide +kernel, by decide +kernel⟩,
   ⟨(1535), (vs_CellCommands_3), by decide +kernel, by decide +kernel⟩,
   ⟨(7), (vs_CellCommands_4), (ve_CellCommands_4), (vbs_CellCommands_4), by decide +kernel, by decide +kernel, fetch_of (by decide +kernel), by decide +kernel, clear_of (by decide +kernel), by decide +kernel⟩,
   ⟨(1535), (0x17FFFF), (vs_CellStoreScrub_0), by decide +kernel⟩,
   ⟨(1535), (0x17FFFF), (vs_CellStoreScrub_1), by decide +kernel, by decide +kernel, by decide +kernel, by decide +kernel⟩,
   ⟨(1535), (0x17FFFF), (vs_CellStoreScrub_2), by decide +kernel, by decide +kernel, by decide +kernel, by decide +kernel, by decide +kernel⟩⟩

def vs_FrameTablesTakeEffect_2 : State := setRegs base [(R.LAT_HUB_FRAME_ENTRY 11 0 + 2 * frameKey 279 1 255, 0x405), (R.LAT_HUB_COMMIT 11, 2)]
def vs_FrameTablesTakeEffect_3 : State := setRegs base [(R.SPN_TABLE_ENTRY 11 0 + 2 * spineKey 3 999, 0x405), (R.SPN_CTRL 11, 2)]
def vs_CrumbsAndCredits_0 : State := ({ (withPipe pipe0) with lat := { base.lat with frames := [(0, [(frameKey 7 0 9, 0x405)])] } } : State).wr (R.LAT_CELL_STATE 7) 258
def vs1_CrumbsAndCredits_0 : State := vs_CrumbsAndCredits_0
def vws_CrumbsAndCredits_0 : List TW := List.replicate 8 (TW.mk 0 0)
def vs_CrumbsAndCredits_1 : State := ({ (withPipe pipe0) with lat := { base.lat with crumbs := [⟨1, 0, 0, 7, 0, 9, List.replicate 8 (TW.mk 2 77)⟩] } } : State)
def vc_CrumbsAndCredits_1 : Crumb := ⟨1, 0, 0, 7, 0, 9, List.replicate 8 (TW.mk 2 77)⟩
def vs_CrumbsAndCredits_2 : State := ({ (withPipe pipe0) with lat := { base.lat with credits := [(1, 0, 9)] } } : State)
def vk_CrumbsAndCredits_3 : Chan := { ch0 with hub := 1, rCell := 135 }
def vs_CrumbsAndCredits_3 : State := ({ withPipe pipe0 with chans := [(1, [{ ch0 with hub := 1, rCell := 135 }])], pipes := { full.pipes with tab := [(1, { pipe0 with img := { img0 with chans := [{ ch0 with hub := 1, rCell := 135 }] } })] }, lat := { base.lat with spines := [(0, [(spineKey 0 999, 0x405)])], gates := [⟨0, 0, false, 1, 0, []⟩] } } : State)
def vg_CrumbsAndCredits_3 : GateCrumb := ⟨0, 0, false, 1, 0, []⟩
def vk_CrumbsAndCredits_4 : Chan := { ch0 with hub := 1, rCell := 263 }
def vs_CrumbsAndCredits_4 : State := ({ withPipe pipe0 with chans := [(1, [{ ch0 with hub := 1, rCell := 263 }])], pipes := { full.pipes with tab := [(1, { pipe0 with img := { img0 with chans := [{ ch0 with hub := 1, rCell := 263 }] } })] }, lat := { base.lat with spines := [(0, [(spineKey 0 999, 0x405)])], gates := [⟨0, 0, false, 1, 0, []⟩] } } : State)
def vg_CrumbsAndCredits_4 : GateCrumb := ⟨0, 0, false, 1, 0, []⟩
def vs_CrumbsAndCredits_7 : State := ({ (atSeq 7 [] []).updSeq 7 (fun q => { q with stall := some (.nbr 3 2 64 3 2 0 ⟨0, 0⟩) }) with lat := { base.lat with frames := [(0, [(frameKey 7 0 255, 0x3FE), (frameKey 7 1 3, 0x3FE)])] } } : State)
def vs1_CrumbsAndCredits_7 : State := vs_CrumbsAndCredits_7
def vs_CrumbsAndCredits_8 : State := ({ (atSeq 7 [] []).updSeq 7 (fun q => { q with stall := some (.nbr 4 2 64 3 2 9 ⟨0, 0⟩) }) with lat := { base.lat with frames := [(0, [(frameKey 7 0 255, 0x3FE), (frameKey 7 1 3, 0x3FE)])] } } : State)
def vs_StreamsMoveLines_0 : State := setRegs ((atSeq 7 [] []).updSeq 7 (fun q => { q with wq := [], strm := [(1, { Strm.idle with busy := true, issued := 3, cons := 1, col := 2 })] })) [(R.LAT_CELL_GRANT 7 0, 1 + 2^16 + 2^32 + 2^33 + 2^34 + 100 * 2^134), (R.LAT_CELL_STRM 7 1, 2^8 + 128 * 2^32 + 64 * 2^64 + 3 * 2^128)]
def vg_StreamsMoveLines_0 : Region × Nat := (vs_StreamsMoveLines_0.grant 7 (strmAddr (vs_StreamsMoveLines_0.strmReg 7 1) ((vs_StreamsMoveLines_0.seq 7).stream 1).row ((vs_StreamsMoveLines_0.seq 7).stream 1).col) 64 33).get (by decide +kernel)
def vs_StreamsMoveLines_1 : State := setRegs ((atSeq 7 [] []).updSeq 7 (fun q => { q with wq := [], strm := [(1, { Strm.idle with busy := true, issued := 4, cons := 1, prod := 3, inFlight := [(3, 192)] })] })) [(R.LAT_CELL_GRANT 7 0, 1 + 2^16 + 2^32 + 2^33 + 2^34 + 100 * 2^134), (R.LAT_CELL_STRM 7 1, 2^8 + 128 * 2^32 + 64 * 2^64 + 3 * 2^128)]
def vbs_StreamsMoveLines_1 : List Byte := resVal ((vs_StreamsMoveLines_1.updSeq 7 (fun q => { (q.setStream 1 { ((vs_StreamsMoveLines_1.seq 7).stream 1) with inFlight := ([]) }) with s1 := if 1 = 1 then q.s1.drop 1 else q.s1 })).readRegion ((rgA 1 5, 192)).1 ((rgA 1 5, 192)).2 64)
def vu_StreamsMoveLines_1 : State := resSt ((vs_StreamsMoveLines_1.updSeq 7 (fun q => { (q.setStream 1 { ((vs_StreamsMoveLines_1.seq 7).stream 1) with inFlight := ([]) }) with s1 := if 1 = 1 then q.s1.drop 1 else q.s1 })).readRegion ((rgA 1 5, 192)).1 ((rgA 1 5, 192)).2 64)
def vbs_StreamsMoveLines_2 : List Byte := zeroBytes 63 ++ [7]
def vs_StreamsMoveLines_2 : State := setRegs ((atSeq 7 [] []).updSeq 7 (fun q => { q with wq := [(1, 192, [(5 * 2097152, zeroBytes 63 ++ [7])])], strm := [(1, Strm.idle)] })) [(R.LAT_CELL_GRANT 7 0, 1 + 2^16 + 2^32 + 2^33 + 2^34 + 100 * 2^134), (R.LAT_CELL_STRM 7 1, 2^8 + 128 * 2^32 + 64 * 2^64 + 3 * 2^128)]
def vu_StreamsMoveLines_2 : State := resSt ((vs_StreamsMoveLines_2.updSeq 7 (fun q => { q with wq := ([]), s1 := if 1 = 1 then q.s1.drop 1 else q.s1 })).writePiece (5 * 2097152) vbs_StreamsMoveLines_2 192 (cellOwnerNum 7 1))
theorem witness_LatticeMoves :
    (∃ (h : Nat), ∃ (s : State), h < 12) ∧
    (∃ (h : Nat), ∃ (s : State), h < 12 ∧ Tbl.wf s.regs = true ∧ s.rf (R.LAT_HUB_COMMIT h) 1 1 = 1) ∧
    (∃ (h : Nat), ∃ (s : State), h < 12 ∧ Tbl.wf s.regs = true ∧ s.rf (R.SPN_CTRL h) 1 1 = 1) ∧
    (∃ (h : Nat), ∃ (l : Nat), ∃ (d : Nat), ∃ (slot : Nat), ∃ (x : Nat), ∃ (pn : Nat), ∃ (i : Nat), ∃ (k : Chan), ∃ (s : State), ∃ (s1 : State), ∃ (p : Pipe), ∃ (ws : List TW), h < 12 ∧ l < 280 ∧ d < 2 ∧ slot < 256 ∧ linkFrom l d = .cell x ∧ entryChan (s.frame h l d slot) < 0x3FE ∧ s.chanAt h (entryChan (s.frame h l d slot)) = some (pn, i, k) ∧ k.sCell = h * 128 + x ∧ s.sends (h * 128 + x) = true ∧ k.sent < k.put ∧ s.gateFull h pn i k = false ∧ k.credits ≠ 0 ∧ Tbl.find s.pipes.tab pn = some p ∧ s.wordsAt (cellDpa (h * 128 + x) (64 * Config.sendBase p.img.digest (h * 128 + x) k.sIdx + 64 * (k.sent % k.size))) 8 [] = (s1, some ws)) ∧
    (∃ (i : Nat), ∃ (s : State), ∃ (c : Crumb), ∃ (ch : Chan), ∃ (p : Pipe), ∃ (x : Nat), s.lat.crumbs[i]? = some c ∧ (Tbl.get s.chans c.pipe [])[c.chan]? = some ch ∧ Tbl.find s.pipes.tab c.pipe = some p ∧ linkTo c.link c.dir = .cell x ∧ ch.rCell = c.hub * 128 + x) ∧
    (∃ (i : Nat), ∃ (pn : Nat), ∃ (c : Nat), ∃ (n : Nat), ∃ (s : State), ∃ (ch : Chan), s.lat.credits[i]? = some (pn, c, n) ∧ (Tbl.get s.chans pn [])[c]? = some ch) ∧
    (∃ (h : Nat), ∃ (n : Nat), ∃ (slot : Nat), ∃ (pn : Nat), ∃ (i : Nat), ∃ (arb : Option (Nat × Nat × Bool)), ∃ (k : Chan), ∃ (s : State), ∃ (g : GateCrumb), ∃ (rest : List GateCrumb), h < 12 ∧ n < 4 ∧ slot < 1000 ∧ entryChan (s.spine h n slot) ≠ 0x3FF ∧ s.chanAt (spineTo h n) (entryChan (s.spine h n slot)) = some (pn, i, k) ∧ (takeFirst (fun g => g.hub = h && g.link = n && !g.inb && g.pipe = pn && g.chan = i) s.lat.gates = some (g, rest)) ∧ s.clk.xings.contains (4 * spineTo h n + acrossLink n) = false ∧ routeLink (spineTo h n) (k.rCell / 128) = none ∧ s.gateCount (spineTo h n) (acrossLink n) true pn i < 16) ∧
    (∃ (h : Nat), ∃ (n : Nat), ∃ (slot : Nat), ∃ (pn : Nat), ∃ (i : Nat), ∃ (arb : Option (Nat × Nat × Bool)), ∃ (k : Chan), ∃ (s : State), ∃ (g : GateCrumb), ∃ (rest : List GateCrumb), ∃ m, h < 12 ∧ n < 4 ∧ slot < 1000 ∧ entryChan (s.spine h n slot) ≠ 0x3FF ∧ s.chanAt (spineTo h n) (entryChan (s.spine h n slot)) = some (pn, i, k) ∧ (takeFirst (fun g => g.hub = h && g.link = n && !g.inb && g.pipe = pn && g.chan = i) s.lat.gates = some (g, rest)) ∧ s.clk.xings.contains (4 * spineTo h n + acrossLink n) = false ∧ routeLink (spineTo h n) (k.rCell / 128) = some m ∧ s.gateCount (spineTo h n) m false pn i < 16) ∧
    (∃ (h : Nat), ∃ (n : Nat), ∃ (slot : Nat), ∃ (s : State), h < 12 ∧ n < 4 ∧ slot < 1000 ∧ entryChan (s.spine h n slot) = 0x3FF) ∧
    (∃ (h : Nat), ∃ (n : Nat), ∃ (slot : Nat), ∃ (s : State), ∃ src, ∃ dst, ∃ back, h < 12 ∧ n < 4 ∧ slot < 1000 ∧ entryChan (s.spine h n slot) = 0x3FF ∧ (trafficHops src dst back).contains (h, n) = true ∧ s.hubDown (spineTo h n) = false) ∧
    (∃ (k : Nat), ∃ (slot : Nat), ∃ (win : Nat), ∃ (off : Nat), ∃ (rd : Nat), ∃ (tag : Nat), ∃ (data : Nat), ∃ (x : Nat), ∃ (swap : TW), ∃ (old : TW), ∃ (s : State), ∃ (s1 : State), (s.seq k).stall = some (.nbr 3 win off rd tag data swap) ∧ s.storeSlotAt k win slot = true ∧ nbrCell k win = some x ∧ s.wordAt (cellDpa x off) = (s1, some old)) ∧
    (∃ (k : Nat), ∃ (slot : Nat), ∃ (win : Nat), ∃ (off : Nat), ∃ (rd : Nat), ∃ (tag : Nat), ∃ (data : Nat), ∃ (x : Nat), ∃ (swap : TW), ∃ (s : State), (s.seq k).stall = some (.nbr 4 win off rd tag data swap) ∧ s.storeSlotAt k win slot = true ∧ nbrCell k win = some x) ∧
    (∃ (k : Nat), ∃ (j : Nat), ∃ (s : State), ∃ (g : Region × Nat), k < 1536 ∧ j < 2 ∧ s.strmMayIssue k j = true ∧ (s.seq k).fence = false ∧ strmWrites (s.strmReg k j) = false ∧ ((s.seq k).stream j).issued - ((s.seq k).stream j).cons < strmCap (s.strmReg k j) ∧ s.grant k (strmAddr (s.strmReg k j) ((s.seq k).stream j).row ((s.seq k).stream j).col) 64 33 = some g) ∧
    (∃ (k : Nat), ∃ (j : Nat), ∃ (i : Nat), ∃ (a : Nat), ∃ (rest : List (Nat × Nat)), ∃ (s : State), ∃ (u : State), ∃ (g : Region × Nat), ∃ (bs : List Byte), ((s.seq k).stream j).inFlight = (i, a) :: rest ∧ s.grant k a 64 33 = some g ∧ s.regionWaits g.1 g.2 64 = false ∧ (j = 1 → (s.seq k).s1.head? ≠ some false ∧ s.mem.guardWait.any (fun w => w.owner = cellOwnerNum k 1) = false) ∧ (s.updSeq k (fun q => { (q.setStream j { ((s.seq k).stream j) with inFlight := rest }) with s1 := if j = 1 then q.s1.drop 1 else q.s1 })).readRegion g.1 g.2 64 = .ok u bs) ∧
    (∃ (k : Nat), ∃ (j : Nat), ∃ (a : Nat), ∃ (dpa : Nat), ∃ (bs : List Byte), ∃ (rest : List (Nat × Nat × List (Nat × List Byte))), ∃ (s : State), ∃ (u : State), (s.mem.guardWait.any (fun w => w.owner = cellOwnerNum k j) = false) ∧ Tbl.find s.mem.guardFail (cellOwnerNum k j) = none ∧ (takeFirst (fun w => w.1 = j) (s.seq k).wq = some ((j, a, [(dpa, bs)]), rest)) ∧ s.hubDown (dpa / hubBytes) = false ∧ (j = 1 → (s.seq k).s1.head? ≠ some true) ∧ (s.updSeq k (fun q => { q with wq := rest, s1 := if j = 1 then q.s1.drop 1 else q.s1 })).writePiece dpa bs a (cellOwnerNum k j) = .ok u ()) :=
  ⟨⟨(11), (base), by decide +kernel⟩,
   ⟨(11), (vs_FrameTablesTakeEffect_2), by decide +kernel, by decide +kernel, by decide +kernel⟩,
   ⟨(11), (vs_FrameTablesTakeEffect_3), by decide +kernel, by decide +kernel, by decide +kernel⟩,
   ⟨(0), (7), (0), (9), (7), (1), (0), (ch0), (vs_CrumbsAndCredits_0), (vs1_CrumbsAndCredits_0), (pipe0), (vws_CrumbsAndCredits_0), by decide +kernel, by decide +kernel, by decide +kernel, by decide +kernel, by decide +kernel, by decide +kernel, by decide +kernel, by decide +kernel, by decide +kernel, by decide +kernel, by decide +kernel, by decide +kernel, by rfl, by decide +kernel⟩,
   ⟨(0), (vs_CrumbsAndCredits_1), (vc_CrumbsAndCredits_1), (ch0), (pipe0), (8), by decide +kernel, by decide +kernel, by decide +kernel, by decide +kernel, by decide +kernel⟩,
   ⟨(0), (1), (0), (9), (vs_CrumbsAndCredits_2), (ch0), by decide +kernel, by decide +kernel⟩,
   ⟨(0), (0), (999), (1), (0), (none), (vk_CrumbsAndCredits_3), (vs_CrumbsAndCredits_3), (vg_CrumbsAndCredits_3), ([]), by decide +kernel, by decide +kernel, by decide +kernel, by decide +kernel, by decide +kernel, by decide +kernel, by decide +kernel, by decide +kernel, by decide +kernel⟩,
   ⟨(0), (0), (999), (1), (0), (none), (vk_CrumbsAndCredits_4), (vs_CrumbsAndCredits_4), (vg_CrumbsAndCredits_4), ([]), (0), by decide +kernel, by decide +kernel, by decide +kernel, by decide +kernel, by decide +kernel, by decide +kernel, by decide +kernel, by decide +kernel, by decide +kernel⟩,
   ⟨(11), (3), (999), (full), by decide +kernel, by decide +kernel, by decide +kernel, by decide +kernel⟩,
   ⟨(0), (3), (0), (full), (3), (8), (false), by decide +kernel, by decide +kernel, by decide +kernel, by decide +kernel, by decide +kernel, by decide +kernel⟩,
   ⟨(7), (255), (2), (64), (3), (2), (0), (8), (⟨0, 0⟩), (⟨0, 0⟩), (vs_CrumbsAndCredits_7), (vs1_CrumbsAndCredits_7), by decide +kernel, by decide +kernel, by decide +kernel, by decide +kernel⟩,
   ⟨(7), (255), (2), (64), (3), (2), (9), (8), (⟨0, 0⟩), (vs_CrumbsAndCredits_8), by decide +kernel, by decide +kernel, by decide +kernel⟩,
   ⟨(7), (1), (vs_StreamsMoveLines_0), (vg_StreamsMoveLines_0), by decide +kernel, by decide +kernel, by decide +kernel, by decide +kernel, by decide +kernel, by decide +kernel, by decide +kernel⟩,
   ⟨(7), (1), (3), (192), ([]), (vs_StreamsMoveLines_1), (vu_StreamsMoveLines_1), ((rgA 1 5, 192)), (vbs_StreamsMoveLines_1), by decide +kernel, by decide +kernel, by decide +kernel, by decide +kernel, res_ok _ (by decide +kernel)⟩,
   ⟨(7), (1), (192), (5 * 2097152), (vbs_StreamsMoveLines_2), ([]), (vs_StreamsMoveLines_2), (vu_StreamsMoveLines_2), by decide +kernel, by decide +kernel, rfl, by decide +kernel, by decide +kernel, resU_ok _ (by decide +kernel)⟩⟩

def vs_InstructionCommandsIssue_0 : State := atSeq 7 [32, 3, 1, 2] [(1, ⟨tgInt, 5⟩), (2, ⟨tgInt, 2^64 - 7⟩)]
def vs_InstructionCommandsIssue_1 : State := atSeq 7 [33, 3, 1, 2] [(1, ⟨tgInt, 5⟩), (2, ⟨tgInt, 2^64 - 7⟩)]
def vs_InstructionCommandsIssue_3 : State := (atSeq 7 [32, 3, 1, 2] [(1, ⟨tgInt, 5⟩), (2, ⟨tgInt, 2^64 - 7⟩)]).wr (R.LAT_CELL_STATE 7) (3 + 256)
def vs_ChecksBeforeTheEffect_0 : State := atSeq 7 [32, 227] [(1, ⟨tgInt, 5⟩), (2, ⟨tgInt, 2^64 - 7⟩)]
def ve_ChecksBeforeTheEffect_0 : Enc := { en [0x20, 3, 1, 2] with form := 7 }
def vbs_ChecksBeforeTheEffect_0 : List Byte := ib [0x20, 0xE3]
def vs_ChecksBeforeTheEffect_1 : State := atSeq 7 [9, 35, 1, 2] [(1, ⟨tgInt, 5⟩), (2, ⟨tgInt, 2^64 - 7⟩)]
def ve_ChecksBeforeTheEffect_1 : Enc := { en [9, 0x23, 1, 2] with waive := true }
def vs_ChecksBeforeTheEffect_2 : State := atSeq 7 [227, 4, 32, 3, 1, 2] [(1, ⟨tgInt, 5⟩), (2, ⟨tgInt, 2^64 - 7⟩)]
def ve_ChecksBeforeTheEffect_2 : Enc := en [227, 4, 32, 3, 1, 2]
def vs_ChecksBeforeTheEffect_3 : State := atSeq 7 [227, 36, 32, 3, 1, 2] [(1, ⟨tgInt, 5⟩), (2, ⟨tgInt, 2^64 - 7⟩), (4, ⟨tgBool, 1⟩)]
def ve_ChecksBeforeTheEffect_3 : Enc := en [227, 36, 32, 3, 1, 2]
def vs_TagTraps_0 : State := atSeq 7 [40, 3, 1, 2] [(1, ⟨tgF64, 5⟩)]
def ve_TagTraps_0 : Enc := en [40, 3, 1, 2]
theorem witness_InstructionChecks :
    (∃ p, ∃ (k : Nat), ∃ (u : Nat), ∃ (s : State), ∃ e, ∃ bs, p ∈ instructionRows ∧ s.finds k p.2.1 e bs) ∧
    (∃ p, ∃ (k : Nat), ∃ (u : Nat), ∃ (s : State), ∃ e, ∃ bs, p ∈ instructionRows ∧ s.canIssue k false = true ∧ s.fetchAt k (s.seq k) = .instr e bs ∧ e.op ≠ p.2.1) ∧
    (∃ p, ∃ (k : Nat), ∃ (u : Nat), ∃ (s : State), p ∈ instructionRows ∧ s.canIssue k false = false) ∧
    (∃ p, ∃ (k : Nat), ∃ (u : Nat), ∃ (s : State), ∃ e, ∃ bs, p ∈ instructionRows ∧ p.2.1 < 0xF300 ∧ k < 1536 ∧ s.canIssue k true = true ∧ s.fetchAt k (s.seq k) = .instr e bs ∧ e.op = p.2.1) ∧
    (∃ (k : Nat), ∃ (u : Nat), ∃ (s : State), ∃ (e : Enc), ∃ (bs : List Byte), ∃ (body : State → Nat → Seq → Enc → Did), k < 1536 ∧ (s.seq k).macUpset u = none ∧ e.legal false ((s.issuing k e).seq k).ti = false) ∧
    (∃ (k : Nat), ∃ (u : Nat), ∃ (s : State), ∃ (e : Enc), ∃ (bs : List Byte), ∃ (body : State → Nat → Seq → Enc → Did), k < 1536 ∧ (s.seq k).macUpset u = none ∧ e.legal false ((s.issuing k e).seq k).ti = true ∧ e.privileged = true ∧ ((s.issuing k e).seq k).kernel = false) ∧
    (∃ (k : Nat), ∃ (u : Nat), ∃ (s : State), ∃ (e : Enc), ∃ (bs : List Byte), ∃ (body : State → Nat → Seq → Enc → Did), ∃ p, k < 1536 ∧ (s.seq k).macUpset u = none ∧ e.legal false ((s.issuing k e).seq k).ti = true ∧ e.privileged = false ∧ e.pred = some p ∧ (((s.issuing k e).seq k).reg (p % 32)).tag ≠ tgBool) ∧
    (∃ (k : Nat), ∃ (u : Nat), ∃ (s : State), ∃ (e : Enc), ∃ (bs : List Byte), ∃ (body : State → Nat → Seq → Enc → Did), ∃ p, k < 1536 ∧ (s.seq k).macUpset u = none ∧ e.legal false ((s.issuing k e).seq k).ti = true ∧ e.privileged = false ∧ e.pred = some p ∧ e.cntr = none ∧ (((s.issuing k e).seq k).reg (p % 32)).tag = tgBool ∧ (((s.issuing k e).seq k).reg (p % 32)).val % 2 = b2n (bit p 5)) ∧
    (∃ (k : Nat), ∃ (s : State), ∃ (e : Enc), ∃ (c : Nat → Nat → Instr), ∃ (op : Nat), (c, op) ∈ ([(.shl, 0x28), (.shr, 0x29), (.sar, 0x2A), (.rol, 0x2B), (.ror, 0x2C), (.min, 0x2D), (.max, 0x2E), (.cmplt, 0x32), (.cmple, 0x33), (.popc, 0x34), (.clz, 0x35), (.ctz, 0x36), (.neg, 0x26), (.abs, 0x27), (.not, 0x25)] : List ((Nat → Nat → Instr) × Nat)) ∧ s.executes k op e ∧ (((s.issuing k e).seq k).reg e.a).tag = tgF64) :=
  ⟨⟨(((.add, 0x20, opAdd) : InstructionRow)), (7), (0), (vs_InstructionCommandsIssue_0), (en [32, 3, 1, 2]), (ib [0x20, 3, 1, 2]), by simp [instructionRows, instructionRows0], finds_of (by decide +kernel)⟩,
   ⟨(((.add, 0x20, opAdd) : InstructionRow)), (7), (0), (vs_InstructionCommandsIssue_1), (en [33, 3, 1, 2]), (ib [0x21, 3, 1, 2]), by simp [instructionRows, instructionRows0], by decide +kernel, fetch_of (by decide +kernel), by decide +kernel⟩,
   ⟨(((.add, 0x20, opAdd) : InstructionRow)), (7), (0), (full), by simp [instructionRows, instructionRows0], by decide +kernel⟩,
   ⟨(((.add, 0x20, opAdd) : InstructionRow)), (7), (0), (vs_InstructionCommandsIssue_3), (en [32, 3, 1, 2]), (ib [0x20, 3, 1, 2]), by simp [instructionRows, instructionRows0], by decide +kernel, by decide +kernel, by decide +kernel, fetch_of (by decide +kernel), by decide +kernel⟩,
   ⟨(7), (0), (vs_ChecksBeforeTheEffect_0), (ve_ChecksBeforeTheEffect_0), (vbs_ChecksBeforeTheEffect_0), (opAdd), by decide +kernel, by decide +kernel, by decide +kernel⟩,
   ⟨(7), (0), (vs_ChecksBeforeTheEffect_1), (ve_ChecksBeforeTheEffect_1), (ib [9]), (opAdd), by decide +kernel, by decide +kernel, by decide +kernel, by decide +kernel, by decide +kernel⟩,
   ⟨(7), (0), (vs_ChecksBeforeTheEffect_2), (ve_ChecksBeforeTheEffect_2), (ib [9]), (opAdd), (4), by decide +kernel, by decide +kernel, by decide +kernel, by decide +kernel, by decide +kernel, by decide +kernel⟩,
   ⟨(7), (0), (vs_ChecksBeforeTheEffect_3), (ve_ChecksBeforeTheEffect_3), (ib [9]), (opAdd), (0x24), by decide +kernel, by decide +kernel, by decide +kernel, by decide +kernel, by decide +kernel, by decide +kernel, by decide +kernel, by decide +kernel⟩,
   ⟨(7), (vs_TagTraps_0), (ve_TagTraps_0), (.shl), (0x28), by simp, executes_of (by decide +kernel), by decide +kernel⟩⟩

def vs_Moves_0 : State := atSeq 7 [228, 3, 0, 224] []
def ve_Moves_0 : Enc := en [228, 3, 0, 224]
def vs_Moves_1 : State := atSeq 7 [1, 67, 1] [(1, ⟨tgInt, 5⟩), (2, ⟨tgInt, 2^64 - 7⟩)]
def vs_Moves_2 : State := atSeq 7 [224, 2, 99, 128] []
def ve_Moves_2 : Enc := en [224, 2, 99, 128]
def vs_Moves_3 : State := atSeq 7 [224, 3, 99, 128] []
def ve_Moves_3 : Enc := en [224, 3, 99, 128]
def vs_Moves_4 : State := atSeq 7 [4, 227] []
def vs_Moves_5 : State := atSeq 7 [5, 67, 1] [(1, ⟨tgInt, 5⟩), (2, ⟨tgInt, 2^64 - 7⟩)]
def vs_Moves_6 : State := atSeq 7 [5, 67, 1] [(1, ⟨tgUint, 2^63⟩)]
def vs_Moves_7 : State := atSeq 7 [6, 35, 1, 5] [(1, ⟨tgUint, 2^63 + 9⟩)]
def ve_Moves_7 : Enc := en [6, 35, 1, 5]
def vs_Moves_8 : State := atSeq 7 [8, 99, 3] []
def vs_Moves_9 : State := atSeq 7 [7, 99, 36] [(3, ⟨tgUint, 2^63⟩)]
def vs_Moves_10 : State := atSeq 7 [7, 99, 2] [(3, ⟨tgUint, 2^20⟩)]
def vs_RetagInKernelMode_0 : State := atSeq 1538 [232, 9, 35, 1, 2] [(1, ⟨tgInt, 5⟩), (2, ⟨tgInt, 2^64 - 7⟩)]
def ve_RetagInKernelMode_0 : Enc := en [232, 9, 35, 1, 2]
def vbs_RetagInKernelMode_0 : List Byte := foundBytes (vs_RetagInKernelMode_0) (1538)
theorem witness_MovesAndRetag :
    (∃ (k : Nat), ∃ (s : State), ∃ (e : Enc), s.executes k 0x00 e) ∧
    (∃ (k : Nat), ∃ (s : State), ∃ (e : Enc), s.executes k 0x01 e) ∧
    (∃ (k : Nat), ∃ (s : State), ∃ (e : Enc), s.executes k 0x02 e) ∧
    (∃ (k : Nat), ∃ (s : State), ∃ (e : Enc), s.executes k 0x03 e) ∧
    (∃ (k : Nat), ∃ (s : State), ∃ (e : Enc), s.executes k 0x04 e) ∧
    (∃ (k : Nat), ∃ (s : State), ∃ (e : Enc), s.executes k 0x05 e ∧ (((s.issuing k e).seq k).reg e.a).tag = tgInt) ∧
    (∃ (k : Nat), ∃ (s : State), ∃ (e : Enc), s.executes k 0x05 e ∧ (((s.issuing k e).seq k).reg e.a).tag = tgUint) ∧
    (∃ (k : Nat), ∃ (s : State), ∃ (e : Enc), s.executes k 0x06 e ∧ (((s.issuing k e).seq k).reg e.a).tag = tgUint) ∧
    (∃ (k : Nat), ∃ (s : State), ∃ (e : Enc), ∃ t, ∃ v, s.executes k 0x08 e ∧ (e.imm = 0 → ((s.issuing k e).seq k).units = []) ∧ (s.issuing k e).special k ((s.issuing k e).seq k) e.imm = (t, v)) ∧
    (∃ (k : Nat), ∃ (s : State), ∃ (e : Enc), s.executes k 0x07 e ∧ specialTag e.imm = some tgUint ∧ e.imm ≠ 0 ∧ e.imm ≠ 2 ∧ e.imm ≠ 0x87 ∧ ¬(0x40 ≤ e.imm ∧ e.imm ≤ 0x4F) ∧ (((s.issuing k e).seq k).reg e.rd).tag = tgUint) ∧
    (∃ (k : Nat), ∃ (s : State), ∃ (e : Enc), s.executes k 0x07 e ∧ e.imm = 2 ∧ (((s.issuing k e).seq k).reg e.rd).tag = tgUint ∧ (((s.issuing k e).seq k).reg e.rd).val ≤ 2 ^ 20) ∧
    (∃ (k : Nat), ∃ (s : State), ∃ (e : Enc), ∃ (bs : List Byte), s.finds k 0x09 e bs ∧ (s.issuing k e).clearsChecks k e) :=
  ⟨⟨(7), (vs_Moves_0), (ve_Moves_0), executes_of (by decide +kernel)⟩,
   ⟨(7), (vs_Moves_1), (en [1, 67, 1]), executes_of (by decide +kernel)⟩,
   ⟨(7), (vs_Moves_2), (ve_Moves_2), executes_of (by decide +kernel)⟩,
   ⟨(7), (vs_Moves_3), (ve_Moves_3), executes_of (by decide +kernel)⟩,
   ⟨(7), (vs_Moves_4), (en [4, 227]), executes_of (by decide +kernel)⟩,
   ⟨(7), (vs_Moves_5), (en [5, 67, 1]), executes_of (by decide +kernel), by decide +kernel⟩,
   ⟨(7), (vs_Moves_6), (en [5, 67, 1]), executes_of (by decide +kernel), by decide +kernel⟩,
   ⟨(7), (vs_Moves_7), (ve_Moves_7), executes_of (by decide +kernel), by decide +kernel⟩,
   ⟨(7), (vs_Moves_8), (en [8, 99, 3]), ((((vs_Moves_8.issuing 7 (en [8, 99, 3])).special 7 ((vs_Moves_8.issuing 7 (en [8, 99, 3])).seq 7) ((en [8, 99, 3])).imm)).1), ((((vs_Moves_8.issuing 7 (en [8, 99, 3])).special 7 ((vs_Moves_8.issuing 7 (en [8, 99, 3])).seq 7) ((en [8, 99, 3])).imm)).2), executes_of (by decide +kernel), by decide +kernel, by decide +kernel⟩,
   ⟨(7), (vs_Moves_9), (en [7, 99, 36]), executes_of (by decide +kernel), by decide +kernel, by decide +kernel, by decide +kernel, by decide +kernel, by decide +kernel, by decide +kernel⟩,
   ⟨(7), (vs_Moves_10), (en [7, 99, 2]), executes_of (by decide +kernel), by decide +kernel, by decide +kernel, by decide +kernel⟩,
   ⟨(1538), (vs_RetagInKernelMode_0), (ve_RetagInKernelMode_0), (vbs_RetagInKernelMode_0), finds_of (by decide +kernel), clear_of (by decide +kernel)⟩⟩

def vs_IntegerResults_0 : State := atSeq 7 [32, 3, 1, 2] [(1, ⟨tgInt, 5⟩), (2, ⟨tgInt, 2^64 - 7⟩)]
def ve_IntegerResults_0 : Enc := en [32, 3, 1, 2]
def vs_IntegerResults_1 : State := atSeq 7 [34, 3, 1, 2] [(1, ⟨tgInt, 5⟩), (2, ⟨tgInt, 2^64 - 7⟩)]
def ve_IntegerResults_1 : Enc := en [34, 3, 1, 2]
def vs_IntegerResults_2 : State := atSeq 7 [37, 67, 1] [(1, ⟨tgBool, 1⟩)]
def vs_IntegerResults_3 : State := atSeq 7 [225, 37, 67, 1] [(1, ⟨tgInt, 5⟩), (2, ⟨tgInt, 2^64 - 7⟩)]
def ve_IntegerResults_3 : Enc := en [225, 37, 67, 1]
def vs_IntegerResults_4 : State := atSeq 7 [32, 3, 1, 2] [(1, ⟨tgAddr, 3 * 2^60 + 1⟩), (2, ⟨tgInt, 2^64 - 7⟩)]
def ve_IntegerResults_4 : Enc := en [32, 3, 1, 2]
def vs_IntegerResults_5 : State := atSeq 7 [224, 38, 67, 1] [(1, ⟨tgInt, 2^64 - 128⟩)]
def ve_IntegerResults_5 : Enc := en [224, 38, 67, 1]
def vs_IntegerResults_6 : State := atSeq 7 [224, 39, 67, 1] [(1, ⟨tgInt, 2^64 - 128⟩)]
def ve_IntegerResults_6 : Enc := en [224, 39, 67, 1]
def vs_IntegerResults_7 : State := atSeq 7 [40, 3, 1, 2] [(1, ⟨tgInt, 2^63 + 5⟩), (2, ⟨tgUint, 5⟩)]
def ve_IntegerResults_7 : Enc := en [40, 3, 1, 2]
def vs_IntegerResults_8 : State := atSeq 7 [41, 3, 1, 2] [(1, ⟨tgInt, 2^63 + 5⟩), (2, ⟨tgUint, 5⟩)]
def ve_IntegerResults_8 : Enc := en [41, 3, 1, 2]
def vs_IntegerResults_9 : State := atSeq 7 [42, 3, 1, 2] [(1, ⟨tgInt, 2^63 + 5⟩), (2, ⟨tgUint, 5⟩)]
def ve_IntegerResults_9 : Enc := en [42, 3, 1, 2]
def vs_IntegerResults_10 : State := atSeq 7 [43, 3, 1, 2] [(1, ⟨tgInt, 2^63 + 5⟩), (2, ⟨tgUint, 5⟩)]
def ve_IntegerResults_10 : Enc := en [43, 3, 1, 2]
def vs_IntegerResults_11 : State := atSeq 7 [44, 3, 1, 2] [(1, ⟨tgInt, 2^63 + 5⟩), (2, ⟨tgUint, 5⟩)]
def ve_IntegerResults_11 : Enc := en [44, 3, 1, 2]
def vs_IntegerResults_12 : State := atSeq 7 [225, 52, 67, 1] [(1, ⟨tgUint, 0x0f10⟩)]
def ve_IntegerResults_12 : Enc := en [225, 52, 67, 1]
def vs_IntegerResults_13 : State := atSeq 7 [225, 53, 67, 1] [(1, ⟨tgUint, 0x0f10⟩)]
def ve_IntegerResults_13 : Enc := en [225, 53, 67, 1]
def vs_IntegerResults_14 : State := atSeq 7 [225, 54, 67, 1] [(1, ⟨tgUint, 0x0f10⟩)]
def ve_IntegerResults_14 : Enc := en [225, 54, 67, 1]
def vs_Comparisons_0 : State := atSeq 7 [48, 3, 1, 2] [(1, ⟨tgInt, 5⟩), (2, ⟨tgInt, 2^64 - 7⟩)]
def ve_Comparisons_0 : Enc := en [48, 3, 1, 2]
def vs_Comparisons_1 : State := atSeq 7 [49, 3, 1, 2] [(1, ⟨tgInt, 5⟩), (2, ⟨tgInt, 2^64 - 7⟩)]
def ve_Comparisons_1 : Enc := en [49, 3, 1, 2]
def vs_Comparisons_2 : State := atSeq 7 [50, 3, 1, 2] [(1, ⟨tgInt, 5⟩), (2, ⟨tgInt, 2^64 - 7⟩)]
def ve_Comparisons_2 : Enc := en [50, 3, 1, 2]
def vs_Comparisons_3 : State := atSeq 7 [51, 3, 1, 2] [(1, ⟨tgInt, 5⟩), (2, ⟨tgInt, 2^64 - 7⟩)]
def ve_Comparisons_3 : Enc := en [51, 3, 1, 2]
def vx_Comparisons_4 : Nat := 0x7FF8000000000000
def vs_Comparisons_4 : State := atSeq 7 [86, 3, 1, 2] [(1, ⟨tgF64, 0x7FF8000000000000⟩), (2, ⟨tgF64, 5⟩)]
def ve_Comparisons_4 : Enc := en [86, 3, 1, 2]
def vx_Comparisons_5 : Nat := 0x7FF8000000000000
def vs_Comparisons_5 : State := atSeq 7 [87, 3, 1, 2] [(1, ⟨tgF64, 0x7FF8000000000000⟩), (2, ⟨tgF64, 5⟩)]
def ve_Comparisons_5 : Enc := en [87, 3, 1, 2]
def vx_Comparisons_6 : Nat := 0x7FF8000000000000
def vs_Comparisons_6 : State := atSeq 7 [88, 3, 1, 2] [(1, ⟨tgF64, 0x7FF8000000000000⟩), (2, ⟨tgF64, 5⟩)]
def ve_Comparisons_6 : Enc := en [88, 3, 1, 2]
def vx_Comparisons_7 : Nat := 0x3FF8000000000000
def vs_Comparisons_7 : State := atSeq 7 [86, 3, 1, 2] [(1, ⟨tgF64, 0x3FF8000000000000⟩), (2, ⟨tgF64, 0x3FF8000000000000⟩)]
def ve_Comparisons_7 : Enc := en [86, 3, 1, 2]
def vx_Comparisons_8 : Nat := 0x3FF8000000000000
def vs_Comparisons_8 : State := atSeq 7 [87, 3, 1, 2] [(1, ⟨tgF64, 0x3FF8000000000000⟩), (2, ⟨tgF64, 0x3FF8000000000000⟩)]
def ve_Comparisons_8 : Enc := en [87, 3, 1, 2]
def vx_Comparisons_9 : Nat := 0x3FF8000000000000
def vs_Comparisons_9 : State := atSeq 7 [88, 3, 1, 2] [(1, ⟨tgF64, 0x3FF8000000000000⟩), (2, ⟨tgF64, 0x3FF8000000000000⟩)]
def ve_Comparisons_9 : Enc := en [88, 3, 1, 2]
def vs_MultiplyAndDivide_0 : State := atSeq 7 [66, 2, 1, 2] [(1, ⟨tgInt, 5⟩), (2, ⟨tgInt, 2^64 - 7⟩)]
def ve_MultiplyAndDivide_0 : Enc := en [66, 2, 1, 2]
def vv_MultiplyAndDivide_0 : Nat × Int × Bool := (tgInt, -35, false)
def vv_MultiplyAndDivide_1 : Nat × Int × Bool := (tgInt, 2^126, true)
def vv_MultiplyAndDivide_3 : Nat × Int × Bool := (tgInt, 2^62, false)
def vv_MultiplyAndDivide_5 : Nat × Int × Bool := (tgInt, 2^126, false)
def vs_MultiplyAndDivide_7 : State := atSeq 7 [67, 0, 1, 2] [(1, ⟨tgInt, 5⟩), (2, ⟨tgInt, 2^64 - 7⟩)]
def ve_MultiplyAndDivide_7 : Enc := en [67, 0, 1, 2]
def vs_MultiplyAndDivide_8 : State := atSeq 7 [67, 0, 1, 2] [(1, ⟨tgInt, 5⟩), (2, ⟨tgInt, 0⟩)]
def ve_MultiplyAndDivide_8 : Enc := en [67, 0, 1, 2]
def vs_MultiplyAndDivide_9 : State := (atSeq 7 [67, 0, 1, 2] [(1, ⟨tgInt, 5⟩), (2, ⟨tgInt, 0⟩)]).updSeq 7 (fun q => { q with cs := 16 })
def ve_MultiplyAndDivide_9 : Enc := en [67, 0, 1, 2]
def vs_MultiplyAndDivide_10 : State := (full.updSeq 7 (fun q => { q with icount := 9, flight := [⟨33, 9, tgInt, 300, false, 8, false, 64⟩] }))
def vf_MultiplyAndDivide_10 : Flight := ⟨33, 9, tgInt, 300, false, 8, false, 64⟩
def vs_MultiplyAndDivide_11 : State := (full.updSeq 7 (fun q => { q with icount := 9, flight := [⟨36, 9, tgInt, -300, false, 8, false, 64⟩] }))
def vf_MultiplyAndDivide_11 : Flight := ⟨36, 9, tgInt, -300, false, 8, false, 64⟩
def vf_MultiplyAndDivide_12 : Flight := ⟨33, 9, tgInt, 300, true, 8, false, 64⟩
theorem witness_IntegerArithmetic :
    (∃ (k : Nat), ∃ (t : Nat), ∃ (s : State), ∃ (e : Enc), ∃ (c : Nat → Nat → Instr), ∃ (op : Nat), ∃ (f : Int → Int → Int), (c, op, f) ∈ ([(.add, 0x20, (· + ·)), (.sub, 0x21, (· - ·)), (.min, 0x2D, min), (.max, 0x2E, max)] : List ((Nat → Nat → Instr) × Nat × (Int → Int → Int))) ∧ s.executes k op e ∧ e.reps ((s.issuing k e).seq k) = 1 ∧ (t = tgInt ∨ t = tgUint) ∧ (((s.issuing k e).seq k).reg e.a).tag = t ∧ (e.src2 ((s.issuing k e).seq k)).tag = t) ∧
    (∃ (k : Nat), ∃ (t : Nat), ∃ (s : State), ∃ (e : Enc), ∃ (c : Nat → Nat → Instr), ∃ (op : Nat), ∃ (f : Nat → Nat → Nat), (c, op, f) ∈ ([(.and, 0x22, Nat.land), (.or, 0x23, Nat.lor), (.xor, 0x24, Nat.xor)] : List ((Nat → Nat → Instr) × Nat × (Nat → Nat → Nat))) ∧ s.executes k op e ∧ e.reps ((s.issuing k e).seq k) = 1 ∧ (t = tgInt ∨ t = tgUint ∨ t = tgBool) ∧ (((s.issuing k e).seq k).reg e.a).tag = t ∧ (e.src2 ((s.issuing k e).seq k)).tag = t) ∧
    (∃ (k : Nat), ∃ (s : State), ∃ (e : Enc), s.executes k 0x25 e ∧ (((s.issuing k e).seq k).reg e.a).tag = tgBool) ∧
    (∃ (k : Nat), ∃ (t : Nat), ∃ (s : State), ∃ (e : Enc), s.executes k 0x25 e ∧ (t = tgInt ∨ t = tgUint) ∧ (((s.issuing k e).seq k).reg e.a).tag = t) ∧
    (∃ (k : Nat), ∃ (x : Nat), ∃ (y : Nat), ∃ (t : Nat), ∃ (s : State), ∃ (e : Enc), s.executes k 0x20 e ∧ e.reps ((s.issuing k e).seq k) = 1 ∧ ((s.issuing k e).seq k).reg e.a = ⟨tgAddr, x⟩ ∧ e.src2 ((s.issuing k e).seq k) = ⟨t, y⟩ ∧ (t = tgInt ∨ t = tgUint)) ∧
    (∃ (k : Nat), ∃ (s : State), ∃ (e : Enc), s.executes k 0x26 e ∧ (((s.issuing k e).seq k).reg e.a).tag = tgInt) ∧
    (∃ (k : Nat), ∃ (s : State), ∃ (e : Enc), s.executes k 0x27 e ∧ (((s.issuing k e).seq k).reg e.a).tag = tgInt) ∧
    (∃ (k : Nat), ∃ (t : Nat), ∃ (x : Nat), ∃ (c : Nat), ∃ (s : State), ∃ (e : Enc), (t = tgInt ∨ t = tgUint) ∧ ((s.issuing k e).seq k).reg e.a = ⟨t, x⟩ ∧ (e.count2 ((s.issuing k e).seq k)).val = c ∧ isInt (e.count2 ((s.issuing k e).seq k)).tag = true ∧ s.executes k 0x28 e) ∧
    (∃ (k : Nat), ∃ (t : Nat), ∃ (x : Nat), ∃ (c : Nat), ∃ (s : State), ∃ (e : Enc), (t = tgInt ∨ t = tgUint) ∧ ((s.issuing k e).seq k).reg e.a = ⟨t, x⟩ ∧ (e.count2 ((s.issuing k e).seq k)).val = c ∧ isInt (e.count2 ((s.issuing k e).seq k)).tag = true ∧ s.executes k 0x29 e) ∧
    (∃ (k : Nat), ∃ (t : Nat), ∃ (x : Nat), ∃ (c : Nat), ∃ (s : State), ∃ (e : Enc), (t = tgInt ∨ t = tgUint) ∧ ((s.issuing k e).seq k).reg e.a = ⟨t, x⟩ ∧ (e.count2 ((s.issuing k e).seq k)).val = c ∧ isInt (e.count2 ((s.issuing k e).seq k)).tag = true ∧ s.executes k 0x2A e) ∧
    (∃ (k : Nat), ∃ (t : Nat), ∃ (x : Nat), ∃ (c : Nat), ∃ (s : State), ∃ (e : Enc), (t = tgInt ∨ t = tgUint) ∧ ((s.issuing k e).seq k).reg e.a = ⟨t, x⟩ ∧ (e.count2 ((s.issuing k e).seq k)).val = c ∧ isInt (e.count2 ((s.issuing k e).seq k)).tag = true ∧ s.executes k 0x2B e) ∧
    (∃ (k : Nat), ∃ (t : Nat), ∃ (x : Nat), ∃ (c : Nat), ∃ (s : State), ∃ (e : Enc), (t = tgInt ∨ t = tgUint) ∧ ((s.issuing k e).seq k).reg e.a = ⟨t, x⟩ ∧ (e.count2 ((s.issuing k e).seq k)).val = c ∧ isInt (e.count2 ((s.issuing k e).seq k)).tag = true ∧ s.executes k 0x2C e) ∧
    (∃ (k : Nat), ∃ (t : Nat), ∃ (x : Nat), ∃ (s : State), ∃ (e : Enc), (t = tgInt ∨ t = tgUint) ∧ ((s.issuing k e).seq k).reg e.a = ⟨t, x⟩ ∧ s.executes k 0x34 e) ∧
    (∃ (k : Nat), ∃ (t : Nat), ∃ (x : Nat), ∃ (s : State), ∃ (e : Enc), (t = tgInt ∨ t = tgUint) ∧ ((s.issuing k e).seq k).reg e.a = ⟨t, x⟩ ∧ s.executes k 0x35 e) ∧
    (∃ (k : Nat), ∃ (t : Nat), ∃ (x : Nat), ∃ (s : State), ∃ (e : Enc), (t = tgInt ∨ t = tgUint) ∧ ((s.issuing k e).seq k).reg e.a = ⟨t, x⟩ ∧ s.executes k 0x36 e) ∧
    (∃ (k : Nat), ∃ (t : Nat), ∃ (s : State), ∃ (e : Enc), ∃ (x : Int), ∃ (y : Int), (t = tgInt ∨ t = tgUint) ∧ (((s.issuing k e).seq k).reg e.a).tag = t ∧ (e.src2 ((s.issuing k e).seq k)).tag = t ∧ tagVal t e.width (((s.issuing k e).seq k).reg e.a).val = x ∧ tagVal t e.width (e.src2 ((s.issuing k e).seq k)).val = y ∧ s.executes k 0x30 e) ∧
    (∃ (k : Nat), ∃ (t : Nat), ∃ (s : State), ∃ (e : Enc), ∃ (x : Int), ∃ (y : Int), (t = tgInt ∨ t = tgUint) ∧ (((s.issuing k e).seq k).reg e.a).tag = t ∧ (e.src2 ((s.issuing k e).seq k)).tag = t ∧ tagVal t e.width (((s.issuing k e).seq k).reg e.a).val = x ∧ tagVal t e.width (e.src2 ((s.issuing k e).seq k)).val = y ∧ s.executes k 0x31 e) ∧
    (∃ (k : Nat), ∃ (t : Nat), ∃ (s : State), ∃ (e : Enc), ∃ (x : Int), ∃ (y : Int), (t = tgInt ∨ t = tgUint) ∧ (((s.issuing k e).seq k).reg e.a).tag = t ∧ (e.src2 ((s.issuing k e).seq k)).tag = t ∧ tagVal t e.width (((s.issuing k e).seq k).reg e.a).val = x ∧ tagVal t e.width (e.src2 ((s.issuing k e).seq k)).val = y ∧ s.executes k 0x32 e) ∧
    (∃ (k : Nat), ∃ (t : Nat), ∃ (s : State), ∃ (e : Enc), ∃ (x : Int), ∃ (y : Int), (t = tgInt ∨ t = tgUint) ∧ (((s.issuing k e).seq k).reg e.a).tag = t ∧ (e.src2 ((s.issuing k e).seq k)).tag = t ∧ tagVal t e.width (((s.issuing k e).seq k).reg e.a).val = x ∧ tagVal t e.width (e.src2 ((s.issuing k e).seq k)).val = y ∧ s.executes k 0x33 e) ∧
    (∃ (k : Nat), ∃ (x : Nat), ∃ (y : Nat), ∃ (s : State), ∃ (e : Enc), ((s.issuing k e).seq k).reg e.a = ⟨tgF64, x⟩ ∧ ((s.issuing k e).seq k).reg e.b = ⟨tgF64, y⟩ ∧ ((Fmt.binary64.decode x).isNan || (Fmt.binary64.decode y).isNan) = true ∧ s.executes k 0x56 e) ∧
    (∃ (k : Nat), ∃ (x : Nat), ∃ (y : Nat), ∃ (s : State), ∃ (e : Enc), ((s.issuing k e).seq k).reg e.a = ⟨tgF64, x⟩ ∧ ((s.issuing k e).seq k).reg e.b = ⟨tgF64, y⟩ ∧ ((Fmt.binary64.decode x).isNan || (Fmt.binary64.decode y).isNan) = true ∧ s.executes k 0x57 e) ∧
    (∃ (k : Nat), ∃ (x : Nat), ∃ (y : Nat), ∃ (s : State), ∃ (e : Enc), ((s.issuing k e).seq k).reg e.a = ⟨tgF64, x⟩ ∧ ((s.issuing k e).seq k).reg e.b = ⟨tgF64, y⟩ ∧ ((Fmt.binary64.decode x).isNan || (Fmt.binary64.decode y).isNan) = true ∧ s.executes k 0x58 e) ∧
    (∃ (k : Nat), ∃ (x : Nat), ∃ (s : State), ∃ (e : Enc), ((s.issuing k e).seq k).reg e.a = ⟨tgF64, x⟩ ∧ ((s.issuing k e).seq k).reg e.b = ⟨tgF64, x⟩ ∧ (Fmt.binary64.decode x).isNan = false ∧ s.executes k 0x56 e) ∧
    (∃ (k : Nat), ∃ (x : Nat), ∃ (s : State), ∃ (e : Enc), ((s.issuing k e).seq k).reg e.a = ⟨tgF64, x⟩ ∧ ((s.issuing k e).seq k).reg e.b = ⟨tgF64, x⟩ ∧ (Fmt.binary64.decode x).isNan = false ∧ s.executes k 0x57 e) ∧
    (∃ (k : Nat), ∃ (x : Nat), ∃ (s : State), ∃ (e : Enc), ((s.issuing k e).seq k).reg e.a = ⟨tgF64, x⟩ ∧ ((s.issuing k e).seq k).reg e.b = ⟨tgF64, x⟩ ∧ (Fmt.binary64.decode x).isNan = false ∧ s.executes k 0x58 e) ∧
    (∃ (k : Nat), ∃ (t : Nat), ∃ (s : State), ∃ (e : Enc), ∃ (c : Nat → Nat → Instr), ∃ (op : Nat), ∃ (kind : Nat), ∃ (v : Nat × Int × Bool), (c, op, kind) ∈ ([(.mul, 0x40, 0), (.mulh, 0x41, 1), (.mac, 0x42, 2)] : List ((Nat → Nat → Instr) × Nat × Nat)) ∧ s.executes k op e ∧ e.reps ((s.issuing k e).seq k) = 1 ∧ (t = tgInt ∨ t = tgUint) ∧ (((s.issuing k e).seq k).reg e.a).tag = t ∧ (((s.issuing k e).seq k).reg e.b).tag = t ∧ mulValue kind e.width (((s.issuing k e).seq k).reg e.a) (((s.issuing k e).seq k).reg e.b) = .ok v) ∧
    (∃ (w : Nat), ∃ (t : Nat), ∃ (x : Nat), ∃ (y : Nat), ∃ (v : Nat × Int × Bool), (t = tgInt ∨ t = tgUint) ∧ mulValue 0 w ⟨t, x⟩ ⟨t, y⟩ = .ok v) ∧
    (∃ (w : Nat), ∃ (t : Nat), ∃ (x : Nat), ∃ (y : Nat), ∃ (v : Nat × Int × Bool), (t = tgInt ∨ t = tgUint) ∧ mulValue 1 w ⟨t, x⟩ ⟨t, y⟩ = .ok v) ∧
    (∃ (w : Nat), ∃ (t : Nat), ∃ (x : Nat), ∃ (y : Nat), ∃ (v : Nat × Int × Bool), (t = tgInt ∨ t = tgUint) ∧ mulValue 2 w ⟨t, x⟩ ⟨t, y⟩ = .ok v) ∧
    (∃ (k : Nat), ∃ (t : Nat), ∃ (x : Nat), ∃ (y : Nat), ∃ (s : State), ∃ (e : Enc), s.executes k 0x43 e ∧ (t = tgInt ∨ t = tgUint) ∧ ((s.issuing k e).seq k).reg e.a = ⟨t, x⟩ ∧ ((s.issuing k e).seq k).reg e.b = ⟨t, y⟩ ∧ tagVal t e.width y ≠ 0) ∧
    (∃ (k : Nat), ∃ (t : Nat), ∃ (x : Nat), ∃ (y : Nat), ∃ (s : State), ∃ (e : Enc), s.executes k 0x43 e ∧ (t = tgInt ∨ t = tgUint) ∧ ((s.issuing k e).seq k).reg e.a = ⟨t, x⟩ ∧ ((s.issuing k e).seq k).reg e.b = ⟨t, y⟩ ∧ tagVal t e.width y = 0 ∧ ((s.issuing k e).seq k).dzTrap = false) ∧
    (∃ (k : Nat), ∃ (t : Nat), ∃ (x : Nat), ∃ (y : Nat), ∃ (s : State), ∃ (e : Enc), s.executes k 0x43 e ∧ (t = tgInt ∨ t = tgUint) ∧ ((s.issuing k e).seq k).reg e.a = ⟨t, x⟩ ∧ ((s.issuing k e).seq k).reg e.b = ⟨t, y⟩ ∧ tagVal t e.width y = 0 ∧ ((s.issuing k e).seq k).dzTrap = true) ∧
    (∃ (k : Nat), ∃ (s : State), ∃ (f : Flight), (s.seq k).flight = [f] ∧ f.due ≤ (s.seq k).icount ∧ f.mac = false ∧ f.reg < 36) ∧
    (∃ (k : Nat), ∃ (s : State), ∃ (f : Flight), (s.seq k).flight = [f] ∧ f.due ≤ (s.seq k).icount ∧ f.mac = false ∧ 36 ≤ f.reg) ∧
    (∃ (q : Seq), ∃ (f : Flight), f.mac = true) :=
  ⟨⟨(7), (tgInt), (vs_IntegerResults_0), (ve_IntegerResults_0), (.add), (0x20), ((· + ·)), by simp, executes_of (by decide +kernel), by decide +kernel, by decide +kernel, by decide +kernel, by decide +kernel⟩,
   ⟨(7), (tgInt), (vs_IntegerResults_1), (ve_IntegerResults_1), (.and), (0x22), (Nat.land), by simp, executes_of (by decide +kernel), by decide +kernel, by decide +kernel, by decide +kernel, by decide +kernel⟩,
   ⟨(7), (vs_IntegerResults_2), (en [37, 67, 1]), executes_of (by decide +kernel), by decide +kernel⟩,
   ⟨(7), (tgInt), (vs_IntegerResults_3), (ve_IntegerResults_3), executes_of (by decide +kernel), by decide +kernel, by decide +kernel⟩,
   ⟨(7), (3 * 2^60 + 1), (2^64 - 7), (tgInt), (vs_IntegerResults_4), (ve_IntegerResults_4), executes_of (by decide +kernel), by decide +kernel, by decide +kernel, by decide +kernel, by decide +kernel⟩,
   ⟨(7), (vs_IntegerResults_5), (ve_IntegerResults_5), executes_of (by decide +kernel), by decide +kernel⟩,
   ⟨(7), (vs_IntegerResults_6), (ve_IntegerResults_6), executes_of (by decide +kernel), by decide +kernel⟩,
   ⟨(7), (tgInt), (2^63 + 5), (5), (vs_IntegerResults_7), (ve_IntegerResults_7), by decide +kernel, by decide +kernel, by decide +kernel, by decide +kernel, executes_of (by decide +kernel)⟩,
   ⟨(7), (tgInt), (2^63 + 5), (5), (vs_IntegerResults_8), (ve_IntegerResults_8), by decide +kernel, by decide +kernel, by decide +kernel, by decide +kernel, executes_of (by decide +kernel)⟩,
   ⟨(7), (tgInt), (2^63 + 5), (5), (vs_IntegerResults_9), (ve_IntegerResults_9), by decide +kernel, by decide +kernel, by decide +kernel, by decide +kernel, executes_of (by decide +kernel)⟩,
   ⟨(7), (tgInt), (2^63 + 5), (5), (vs_IntegerResults_10), (ve_IntegerResults_10), by decide +kernel, by decide +kernel, by decide +kernel, by decide +kernel, executes_of (by decide +kernel)⟩,
   ⟨(7), (tgInt), (2^63 + 5), (5), (vs_IntegerResults_11), (ve_IntegerResults_11), by decide +kernel, by decide +kernel, by decide +kernel, by decide +kernel, executes_of (by decide +kernel)⟩,
   ⟨(7), (tgUint), (0x0f10), (vs_IntegerResults_12), (ve_IntegerResults_12), by decide +kernel, by decide +kernel, executes_of (by decide +kernel)⟩,
   ⟨(7), (tgUint), (0x0f10), (vs_IntegerResults_13), (ve_IntegerResults_13), by decide +kernel, by decide +kernel, executes_of (by decide +kernel)⟩,
   ⟨(7), (tgUint), (0x0f10), (vs_IntegerResults_14), (ve_IntegerResults_14), by decide +kernel, by decide +kernel, executes_of (by decide +kernel)⟩,
   ⟨(7), (tgInt), (vs_Comparisons_0), (ve_Comparisons_0), (5), (-7), by decide +kernel, by decide +kernel, by decide +kernel, by decide +kernel, by decide +kernel, executes_of (by decide +kernel)⟩,
   ⟨(7), (tgInt), (vs_Comparisons_1), (ve_Comparisons_1), (5), (-7), by decide +kernel, by decide +kernel, by decide +kernel, by decide +kernel, by decide +kernel, executes_of (by decide +kernel)⟩,
   ⟨(7), (tgInt), (vs_Comparisons_2), (ve_Comparisons_2), (5), (-7), by decide +kernel, by decide +kernel, by decide +kernel, by decide +kernel, by decide +kernel, executes_of (by decide +kernel)⟩,
   ⟨(7), (tgInt), (vs_Comparisons_3), (ve_Comparisons_3), (5), (-7), by decide +kernel, by decide +kernel, by decide +kernel, by decide +kernel, by decide +kernel, executes_of (by decide +kernel)⟩,
   ⟨(7), (vx_Comparisons_4), (5), (vs_Comparisons_4), (ve_Comparisons_4), by decide +kernel, by decide +kernel, by decide +kernel, executes_of (by decide +kernel)⟩,
   ⟨(7), (vx_Comparisons_5), (5), (vs_Comparisons_5), (ve_Comparisons_5), by decide +kernel, by decide +kernel, by decide +kernel, executes_of (by decide +kernel)⟩,
   ⟨(7), (vx_Comparisons_6), (5), (vs_Comparisons_6), (ve_Comparisons_6), by decide +kernel, by decide +kernel, by decide +kernel, executes_of (by decide +kernel)⟩,
   ⟨(7), (vx_Comparisons_7), (vs_Comparisons_7), (ve_Comparisons_7), by decide +kernel, by decide +kernel, by decide +kernel, executes_of (by decide +kernel)⟩,
   ⟨(7), (vx_Comparisons_8), (vs_Comparisons_8), (ve_Comparisons_8), by decide +kernel, by decide +kernel, by decide +kernel, executes_of (by decide +kernel)⟩,
   ⟨(7), (vx_Comparisons_9), (vs_Comparisons_9), (ve_Comparisons_9), by decide +kernel, by decide +kernel, by decide +kernel, executes_of (by decide +kernel)⟩,
   ⟨(7), (tgInt), (vs_MultiplyAndDivide_0), (ve_MultiplyAndDivide_0), (.mac), (0x42), (2), (vv_MultiplyAndDivide_0), by simp, executes_of (by decide +kernel), by decide +kernel, by decide +kernel, by decide +kernel, by decide +kernel, isrc_of (by decide +kernel)⟩,
   ⟨(64), (tgInt), (2^63), (2^63), (vv_MultiplyAndDivide_1), by decide +kernel, isrc_of (by decide +kernel)⟩,
   ⟨(64), (tgInt), (2^63), (2^63), (vv_MultiplyAndDivide_3), by decide +kernel, isrc_of (by decide +kernel)⟩,
   ⟨(64), (tgInt), (2^63), (2^63), (vv_MultiplyAndDivide_5), by decide +kernel, isrc_of (by decide +kernel)⟩,
   ⟨(7), (tgInt), (5), (2^64 - 7), (vs_MultiplyAndDivide_7), (ve_MultiplyAndDivide_7), executes_of (by decide +kernel), by decide +kernel, by decide +kernel, by decide +kernel, by decide +kernel⟩,
   ⟨(7), (tgInt), (5), (0), (vs_MultiplyAndDivide_8), (ve_MultiplyAndDivide_8), executes_of (by decide +kernel), by decide +kernel, by decide +kernel, by decide +kernel, by decide +kernel, by decide +kernel⟩,
   ⟨(7), (tgInt), (5), (0), (vs_MultiplyAndDivide_9), (ve_MultiplyAndDivide_9), executes_of (by decide +kernel), by decide +kernel, by decide +kernel, by decide +kernel, by decide +kernel, by decide +kernel⟩,
   ⟨(7), (vs_MultiplyAndDivide_10), (vf_MultiplyAndDivide_10), by decide +kernel, by decide +kernel, by decide +kernel, by decide +kernel⟩,
   ⟨(7), (vs_MultiplyAndDivide_11), (vf_MultiplyAndDivide_11), by decide +kernel, by decide +kernel, by decide +kernel, by decide +kernel⟩,
   ⟨(Seq.fresh), (vf_MultiplyAndDivide_12), by decide +kernel⟩⟩

def vs_FloatingResults_0 : State := atSeq 7 [83, 3, 1, 2] [(1, ⟨tgF64, 0x3FF8000000000000⟩), (2, ⟨tgF64, 0x4008000000000001⟩), (3, ⟨tgF64, 5⟩)]
def ve_FloatingResults_0 : Enc := en [83, 3, 1, 2]
def vs_FloatingResults_1 : State := atSeq 7 [89, 35, 1, tgInt] [(1, ⟨tgUint, 2^63 - 1⟩)]
def ve_FloatingResults_1 : Enc := en [89, 35, 1, tgInt]
def vs_FloatingResults_2 : State := atSeq 7 [89, 35, 1, tgF64] [(1, ⟨tgUint, 2^63 - 1⟩)]
def ve_FloatingResults_2 : Enc := en [89, 35, 1, tgF64]
def vx_FloatingResults_3 : Nat := 0x7FF8000000000000
def vs_FloatingResults_3 : State := atSeq 7 [89, 35, 1, tgInt] [(1, ⟨tgF64, 0x7FF8000000000000⟩)]
def ve_FloatingResults_3 : Enc := en [89, 35, 1, tgInt]
theorem witness_FloatingResults :
    (∃ (k : Nat), ∃ (s : State), ∃ (e : Enc), ∃ (c : Nat → Nat → Instr), ∃ (op : Nat), ∃ (kind : Nat), ∃ (w : Nat), ∃ (n : Nat), ∃ (f : Fmt), (c, op, kind) ∈ ([(.fadd, 0x50, 0), (.fsub, 0x51, 1), (.fmul, 0x52, 2), (.ffma, 0x53, 3), (.fmin, 0x54, 4), (.fmax, 0x55, 5)] : List ((Nat → Nat → Instr) × Nat × Nat)) ∧ s.executes k op e ∧ fpTag (((s.issuing k e).seq k).reg e.a).tag = some (f, w, n) ∧ (((s.issuing k e).seq k).reg e.b).tag = (((s.issuing k e).seq k).reg e.a).tag ∧ (kind = 3 → (((s.issuing k e).seq k).reg e.rd).tag = (((s.issuing k e).seq k).reg e.a).tag) ∧ e.rnd.getD 0 < 6) ∧
    (∃ (k : Nat), ∃ (x : Nat), ∃ (s : State), ∃ (e : Enc), s.executes k 0x59 e ∧ ((s.issuing k e).seq k).reg e.a = ⟨tgUint, x⟩ ∧ e.rnd.getD 0 < 6 ∧ x < 2 ^ 63 ∧ e.imm = tgInt) ∧
    (∃ (k : Nat), ∃ (x : Nat), ∃ (s : State), ∃ (e : Enc), s.executes k 0x59 e ∧ ((s.issuing k e).seq k).reg e.a = ⟨tgUint, x⟩ ∧ e.rnd.getD 0 < 6 ∧ x < 2 ^ 63 ∧ e.imm = tgF64) ∧
    (∃ (k : Nat), ∃ (x : Nat), ∃ (s : State), ∃ (e : Enc), s.executes k 0x59 e ∧ ((s.issuing k e).seq k).reg e.a = ⟨tgF64, x⟩ ∧ e.rnd.getD 0 < 6 ∧ e.imm = tgInt ∧ (Fmt.binary64.decode x).isNan = true) :=
  ⟨⟨(7), (vs_FloatingResults_0), (ve_FloatingResults_0), (.ffma), (0x53), (3), (64), (1), (Fmt.binary64), by simp, executes_of (by decide +kernel), by decide +kernel, by decide +kernel, by decide +kernel, by decide +kernel⟩,
   ⟨(7), (2^63 - 1), (vs_FloatingResults_1), (ve_FloatingResults_1), executes_of (by decide +kernel), by decide +kernel, by decide +kernel, by decide +kernel, by decide +kernel⟩,
   ⟨(7), (2^63 - 1), (vs_FloatingResults_2), (ve_FloatingResults_2), executes_of (by decide +kernel), by decide +kernel, by decide +kernel, by decide +kernel, by decide +kernel⟩,
   ⟨(7), (vx_FloatingResults_3), (vs_FloatingResults_3), (ve_FloatingResults_3), executes_of (by decide +kernel), by decide +kernel, by decide +kernel, by decide +kernel, by decide +kernel⟩⟩

def vs_ControlFlow_0 : State := atSeq 7 [96, 96, 240, 255, 255, 255] []
def ve_ControlFlow_0 : Enc := en [96, 96, 240, 255, 255, 255]
def vs_ControlFlow_1 : State := atSeq 7 [97, 99, 240, 255, 255, 255] [(3, ⟨tgBool, 1⟩)]
def ve_ControlFlow_1 : Enc := en [97, 99, 240, 255, 255, 255]
def vs_ControlFlow_2 : State := atSeq 7 [97, 99, 240, 255, 255, 255] [(3, ⟨tgBool, 0⟩)]
def ve_ControlFlow_2 : Enc := en [97, 99, 240, 255, 255, 255]
def vs_ControlFlow_3 : State := atSeq 7 [98, 99, 240, 255, 255, 255] [(3, ⟨tgBool, 0⟩)]
def ve_ControlFlow_3 : Enc := en [98, 99, 240, 255, 255, 255]
def vs_ControlFlow_4 : State := atSeq 7 [98, 99, 240, 255, 255, 255] [(3, ⟨tgBool, 1⟩)]
def ve_ControlFlow_4 : Enc := en [98, 99, 240, 255, 255, 255]
def vs_ControlFlow_5 : State := atSeq 7 [99, 227] [(3, ⟨tgUint, 2^21 + 64⟩)]
def vs_ControlFlow_6 : State := atSeq 7 [100, 99, 240, 255, 255, 255] []
def ve_ControlFlow_6 : Enc := en [100, 99, 240, 255, 255, 255]
def vs_ControlFlow_7 : State := (atSeq 7 [102, 96, 0] []).updSeq 7 (fun q => { q with cs := 4096, epc := 96 })
def ve_ControlFlow_7 : Enc := en [102, 96, 0]
def vs_ControlFlow_8 : State := atSeq 7 [103, 224] []
def vs_TrapsOfACell_0 : State := (atSeq 7 [] []).updSeq 7 (fun q => { q with tvec := 256 })
def vs_TrapsOfACell_7 : State := (atSeq 7 [] []).updSeq 7 (fun q => { q with tvec := 256 })
def vs_TrapsOfACell_8 : State := (atSeq 7 [] []).updSeq 7 (fun q => { q with pipe := none })
def vs_TrapsOfACell_11 : State := atSeq 7 [101, 96, 9] []
def ve_TrapsOfACell_11 : Enc := en [101, 96, 9]
def vs_TrapsOfACell_12 : State := (atSeq 7 [] []).updSeq 7 (fun q => { q with deferred := [(cTag, 9, 4)] })
def vs_TrapsOfACell_13 : State := atSeq 7 [0xEA] []
theorem witness_ControlFlowAndTraps :
    (∃ (k : Nat), ∃ (s : State), ∃ (e : Enc), s.executes k 0x60 e) ∧
    (∃ (k : Nat), ∃ (v : Nat), ∃ (s : State), ∃ (e : Enc), ((s.issuing k e).seq k).reg e.rd = ⟨tgBool, v⟩ ∧ s.executes k 0x61 e ∧ v % 2 = 1) ∧
    (∃ (k : Nat), ∃ (v : Nat), ∃ (s : State), ∃ (e : Enc), ((s.issuing k e).seq k).reg e.rd = ⟨tgBool, v⟩ ∧ s.executes k 0x61 e ∧ v % 2 = 0) ∧
    (∃ (k : Nat), ∃ (v : Nat), ∃ (s : State), ∃ (e : Enc), ((s.issuing k e).seq k).reg e.rd = ⟨tgBool, v⟩ ∧ s.executes k 0x62 e ∧ v % 2 = 0) ∧
    (∃ (k : Nat), ∃ (v : Nat), ∃ (s : State), ∃ (e : Enc), ((s.issuing k e).seq k).reg e.rd = ⟨tgBool, v⟩ ∧ s.executes k 0x62 e ∧ v % 2 = 1) ∧
    (∃ (k : Nat), ∃ (v : Nat), ∃ (s : State), ∃ (e : Enc), s.executes k 0x63 e ∧ ((s.issuing k e).seq k).reg e.rd = ⟨tgUint, v⟩) ∧
    (∃ (k : Nat), ∃ (s : State), ∃ (e : Enc), s.executes k 0x64 e) ∧
    (∃ (k : Nat), ∃ (s : State), ∃ (e : Enc), s.executes k 0x66 e ∧ e.imm = 0) ∧
    (∃ (k : Nat), ∃ (s : State), ∃ (e : Enc), s.executes k 0x67 e ∧ ((s.issuing k e).seq k).units = []) ∧
    (∃ (k : Nat), ∃ (cause : Nat), ∃ (tval : Nat), ∃ (len : Nat), ∃ (s : State), k < 1536 ∧ (s.seq k).flight = [] ∧ (s.seq k).ti = false ∧ (s.seq k).tvec ≠ 0) ∧
    (∃ (k : Nat), ∃ (cause : Nat), ∃ (tval : Nat), ∃ (len : Nat), ∃ (s : State), ∃ j, k < 1536 ∧ (s.seq k).flight = [] ∧ (s.seq k).ti = false ∧ (s.seq k).tvec ≠ 0 ∧ j ≠ k) ∧
    (∃ (k : Nat), ∃ (cause : Nat), ∃ (tval : Nat), ∃ (len : Nat), ∃ (s : State), k < 1536 ∧ (s.seq k).flight = [] ∧ ((s.seq k).ti = true ∨ (s.seq k).tvec = 0) ∧ (s.seq k).pipe = none) ∧
    (∃ (k : Nat), ∃ (s : State), ∃ (e : Enc), s.executes k 0x65 e) ∧
    (∃ (k : Nat), ∃ (cause : Nat), ∃ (tval : Nat), ∃ (len : Nat), ∃ (s : State), ∃ (rest : List (Nat × Nat × Nat)), k < 1536 ∧ (s.seq k).deferred = (cause, tval, len) :: rest ∧ s.hubAwake (k / 128) = true ∧ s.cellState k = csRunning ∧ (s.seq k).ended = false ∧ (s.seq k).stall = none) ∧
    (∃ (k : Nat), ∃ (s : State), ∃ (bs : List Byte), k < 1536 ∧ s.canIssue k false = true ∧ s.fetchAt k (s.seq k) = .undef bs) :=
  ⟨⟨(7), (vs_ControlFlow_0), (ve_ControlFlow_0), executes_of (by decide +kernel)⟩,
   ⟨(7), (1), (vs_ControlFlow_1), (ve_ControlFlow_1), by decide +kernel, executes_of (by decide +kernel), by decide +kernel⟩,
   ⟨(7), (0), (vs_ControlFlow_2), (ve_ControlFlow_2), by decide +kernel, executes_of (by decide +kernel), by decide +kernel⟩,
   ⟨(7), (0), (vs_ControlFlow_3), (ve_ControlFlow_3), by decide +kernel, executes_of (by decide +kernel), by decide +kernel⟩,
   ⟨(7), (1), (vs_ControlFlow_4), (ve_ControlFlow_4), by decide +kernel, executes_of (by decide +kernel), by decide +kernel⟩,
   ⟨(7), (2^21 + 64), (vs_ControlFlow_5), (en [99, 227]), executes_of (by decide +kernel), by decide +kernel⟩,
   ⟨(7), (vs_ControlFlow_6), (ve_ControlFlow_6), executes_of (by decide +kernel)⟩,
   ⟨(7), (vs_ControlFlow_7), (ve_ControlFlow_7), executes_of (by decide +kernel), by decide +kernel⟩,
   ⟨(7), (vs_ControlFlow_8), (en [103, 224]), executes_of (by decide +kernel), by decide +kernel⟩,
   ⟨(7), (cTag), (9), (4), (vs_TrapsOfACell_0), by decide +kernel, by decide +kernel, by decide +kernel, by decide +kernel⟩,
   ⟨(7), (cTag), (9), (4), (vs_TrapsOfACell_7), (9), by decide +kernel, by decide +kernel, by decide +kernel, by decide +kernel, by decide +kernel⟩,
   ⟨(7), (cTag), (9), (4), (vs_TrapsOfACell_8), by decide +kernel, by decide +kernel, by decide +kernel, by decide +kernel⟩,
   ⟨(7), (vs_TrapsOfACell_11), (ve_TrapsOfACell_11), executes_of (by decide +kernel)⟩,
   ⟨(7), (cTag), (9), (4), (vs_TrapsOfACell_12), ([]), by decide +kernel, by decide +kernel, by decide +kernel, by decide +kernel, by decide +kernel, by decide +kernel⟩,
   ⟨(7), (vs_TrapsOfACell_13), (ib [0xEA]), by decide +kernel, by decide +kernel, rfl⟩⟩

def vs_ControlCoreInstructions_0 : State := (atSeq 1538 [] []).updSeq 1538 (fun q => { q with imask := 8, ivec := 512, pend := [(0x13, 2^64 + 5)] })
def vs_ControlCoreInstructions_1 : State := (atSeq 1538 [243, 1, 224] []).updSeq 1538 (fun q => { q with iepc := 2^63 + 96 })
def ve_ControlCoreInstructions_1 : Enc := en [243, 1, 224]
def vs_ControlCoreInstructions_2 : State := atSeq 1538 [243, 0, 224] []
def ve_ControlCoreInstructions_2 : Enc := en [243, 0, 224]
def vs_ControlCoreInstructions_3 : State := atSeq 1538 [243, 2, 131, 1, 0, 0, 0, 0] [(1, ⟨tgUint, 4096⟩)]
def ve_ControlCoreInstructions_3 : Enc := en [243, 2, 131, 1, 0, 0, 0, 0]
def vs_ControlCoreInstructions_4 : State := atSeq 1538 [243, 3, 131, 1, 0, 0, 0, 0] [(1, ⟨tgUint, 4096⟩), (3, ⟨tgUint, 2^63 + 9⟩)]
def ve_ControlCoreInstructions_4 : Enc := en [243, 3, 131, 1, 0, 0, 0, 0]
def vs_ControlCoreInstructions_5 : State := atSeq 1538 [243, 2, 131, 1, 0, 0, 0, 0] [(1, ⟨tgUint, 0x800400000000⟩)]
def ve_ControlCoreInstructions_5 : Enc := en [243, 2, 131, 1, 0, 0, 0, 0]
def vs_ControlCoreInstructions_6 : State := atSeq 1538 [243, 3, 131, 1, 0, 0, 0, 0] [(1, ⟨tgUint, 0x800400000000⟩), (3, ⟨tgUint, 2^63 + 9⟩)]
def ve_ControlCoreInstructions_6 : Enc := en [243, 3, 131, 1, 0, 0, 0, 0]
theorem witness_ControlCoreInstructions :
    (∃ (c : Nat), ∃ (cause : Nat), ∃ (val : Nat), ∃ (s : State), ∃ (rest : List (Nat × Nat)), c < 16 ∧ s.coreRuns c = true ∧ (s.seq (1536 + c)).stall = none ∧ (takeFirst (fun p => decide (0x10 ≤ p.1) && bit (s.seq (1536 + c)).imask (p.1 - 0x10)) (s.seq (1536 + c)).pend = some ((cause, val), rest)) ∧ ¬(c = 1 ∧ cause = 0x12)) ∧
    (∃ (k : Nat), ∃ (s : State), ∃ (e : Enc), 1536 ≤ k ∧ s.executes k 0xF301 e) ∧
    (∃ (k : Nat), ∃ (s : State), ∃ (e : Enc), 1536 ≤ k ∧ s.executes k 0xF300 e) ∧
    (∃ (k : Nat), ∃ (a : Nat), ∃ (s : State), ∃ (e : Enc), 1536 ≤ k ∧ ((s.issuing k e).seq k).reg e.a = ⟨tgUint, a⟩ ∧ e.disp = 0 ∧ e.form = 4 ∧ a % 8 = 0 ∧ a % 64 ≤ 56 ∧ a < 12 * hubBytes ∧ s.eccOn (a - a % 64) = false ∧ ((s.issuing k e).seq k).kernel = true ∧ s.guarded a = false ∧ s.mem.bad.contains (hubStoreAt (a / hubBytes) (0x400000 + a % hubBytes / 4096 / 64 * 8)) = false ∧ s.executes k 0xF302 e) ∧
    (∃ (k : Nat), ∃ (a : Nat), ∃ (s : State), ∃ (e : Enc), ∃ w, 1536 ≤ k ∧ ((s.issuing k e).seq k).reg e.a = ⟨tgUint, a⟩ ∧ e.disp = 0 ∧ e.form = 4 ∧ a % 8 = 0 ∧ a % 64 ≤ 56 ∧ a < 12 * hubBytes ∧ s.eccOn (a - a % 64) = false ∧ ((s.issuing k e).seq k).kernel = true ∧ s.guarded a = false ∧ s.mem.bad.contains (hubStoreAt (a / hubBytes) (0x400000 + a % hubBytes / 4096 / 64 * 8)) = false ∧ s.executes k 0xF303 e ∧ ((s.issuing k e).seq k).reg e.rd = ⟨tgUint, w⟩) ∧
    (∃ (k : Nat), ∃ (off : Nat), ∃ (s : State), ∃ (e : Enc), 1536 ≤ k ∧ e.memTags ((s.issuing k e).seq k) (· = tgUint) = none ∧ e.storeAddr ((s.issuing k e).seq k) % 8 = 0 ∧ place (e.storeAddr ((s.issuing k e).seq k)) = .regs off ∧ ((s.issuing k e).seq k).kernel = true ∧ s.executes k 0xF302 e ∧ (regAddr off < R.CRC_CFG 0 ∨ R.CRC_CFG 0 + 0x1000 ≤ regAddr off)) ∧
    (∃ (k : Nat), ∃ (off : Nat), ∃ (s : State), ∃ (e : Enc), ∃ w, 1536 ≤ k ∧ e.memTags ((s.issuing k e).seq k) (· = tgUint) = none ∧ e.storeAddr ((s.issuing k e).seq k) % 8 = 0 ∧ place (e.storeAddr ((s.issuing k e).seq k)) = .regs off ∧ ((s.issuing k e).seq k).kernel = true ∧ s.executes k 0xF303 e ∧ ((s.issuing k e).seq k).reg e.rd = ⟨tgUint, w⟩) :=
  ⟨⟨(2), (0x13), (2^64 + 5), (vs_ControlCoreInstructions_0), ([]), by decide +kernel, by decide +kernel, by decide +kernel, by decide +kernel, by decide +kernel⟩,
   ⟨(1538), (vs_ControlCoreInstructions_1), (ve_ControlCoreInstructions_1), by decide +kernel, executes_of (by decide +kernel)⟩,
   ⟨(1538), (vs_ControlCoreInstructions_2), (ve_ControlCoreInstructions_2), by decide +kernel, executes_of (by decide +kernel)⟩,
   ⟨(1538), (4096), (vs_ControlCoreInstructions_3), (ve_ControlCoreInstructions_3), by decide +kernel, by decide +kernel, by decide +kernel, by decide +kernel, by decide +kernel, by decide +kernel, by decide +kernel, by decide +kernel, by decide +kernel, by decide +kernel, by decide +kernel, executes_of (by decide +kernel)⟩,
   ⟨(1538), (4096), (vs_ControlCoreInstructions_4), (ve_ControlCoreInstructions_4), (2^63 + 9), by decide +kernel, by decide +kernel, by decide +kernel, by decide +kernel, by decide +kernel, by decide +kernel, by decide +kernel, by decide +kernel, by decide +kernel, by decide +kernel, by decide +kernel, executes_of (by decide +kernel), by decide +kernel⟩,
   ⟨(1538), (0), (vs_ControlCoreInstructions_5), (ve_ControlCoreInstructions_5), by decide +kernel, by decide +kernel, by decide +kernel, by decide +kernel, by decide +kernel, executes_of (by decide +kernel), by decide +kernel⟩,
   ⟨(1538), (0), (vs_ControlCoreInstructions_6), (ve_ControlCoreInstructions_6), (2^63 + 9), by decide +kernel, by decide +kernel, by decide +kernel, by decide +kernel, by decide +kernel, executes_of (by decide +kernel), by decide +kernel⟩⟩

def vs_PrivilegeHolds_0 : State := (atSeq 1538 [232, 9, 35, 1, 2] []).updSeq 1538 (fun q => { q with cs := 0, mpu := [(0, 1 + 2^3 + 20 * 2^10)] })
def ve_PrivilegeHolds_0 : Enc := en [232, 9, 35, 1, 2]
def vbs_PrivilegeHolds_0 : List Byte := foundBytes (vs_PrivilegeHolds_0) (1538)
def vs_PrivilegeHolds_1 : State := (atSeq 1538 [232, 9, 35, 1, 2] []).updSeq 1538 (fun q => { q with cs := 0, mpu := [] })
def ve_PrivilegeHolds_1 : Enc := en [232, 9, 35, 1, 2]
def vbs_PrivilegeHolds_1 : List Byte := foundBytes (vs_PrivilegeHolds_1) (1538)
theorem witness_PrivilegeHolds :
    (∃ p, ∃ (k : Nat), ∃ (u : Nat), ∃ (s : State), ∃ (e : Enc), ∃ (bs : List Byte), p ∈ instructionRows ∧ 1536 ≤ k ∧ s.finds k p.2.1 e bs ∧ (s.seq k).macUpset u = none ∧ ((s.issuing k e).seq k).kernel = false ∧ e.legal true ((s.issuing k e).seq k).ti = true ∧ (e.waive = true ∨ e.op = 0x09 ∨ 0xF300 ≤ e.op ∨ ((e.op = 0x07 ∨ e.op = 0x08) ∧ 0x80 ≤ e.imm)) ∧ ((s.issuing k e).seq k).mpuOk 0 ((s.issuing k e).seq k).pc e.len 3 = true) ∧
    (∃ p, ∃ (k : Nat), ∃ (u : Nat), ∃ (s : State), ∃ (e : Enc), ∃ (bs : List Byte), p ∈ instructionRows ∧ 1536 ≤ k ∧ s.finds k p.2.1 e bs ∧ (s.seq k).macUpset u = none ∧ ((s.issuing k e).seq k).kernel = false ∧ e.legal true ((s.issuing k e).seq k).ti = true ∧ (e.waive = true ∨ e.op = 0x09 ∨ 0xF300 ≤ e.op ∨ ((e.op = 0x07 ∨ e.op = 0x08) ∧ 0x80 ≤ e.imm)) ∧ ((s.issuing k e).seq k).mpuOk 0 ((s.issuing k e).seq k).pc e.len 3 = false) :=
  ⟨⟨(((.retag, 0x09, opRetag) : InstructionRow)), (1538), (0), (vs_PrivilegeHolds_0), (ve_PrivilegeHolds_0), (vbs_PrivilegeHolds_0), by simp [instructionRows, instructionRows0], by decide +kernel, finds_of (by decide +kernel), by decide +kernel, by decide +kernel, by decide +kernel, by decide +kernel, by decide +kernel⟩,
   ⟨(((.retag, 0x09, opRetag) : InstructionRow)), (1538), (0), (vs_PrivilegeHolds_1), (ve_PrivilegeHolds_1), (vbs_PrivilegeHolds_1), by simp [instructionRows, instructionRows0], by decide +kernel, finds_of (by decide +kernel), by decide +kernel, by decide +kernel, by decide +kernel, by decide +kernel, by decide +kernel⟩⟩

def vm_StoreAccesses_0 : Nat := cellDpa 7 0x17FFF8
def vs_StoreAccesses_0 : State := ({ atSeq 7 [16, 131, 1, 248, 255, 255, 255] [(1, ⟨tgUint, 0x180000⟩), (3, ⟨tgInt, 2^64 - 1⟩), (2, ⟨tgInt, 5⟩)] with mem := { full.mem with bytes := Mem.write [] (cellDpa 7 0x17FFF8) (leBytes 8 9), tags := [(cellDpa 7 0x17FFF8, tgInt)] } } : State)
def ve_StoreAccesses_0 : Enc := en [16, 131, 1, 248, 255, 255, 255]
def vm_StoreAccesses_1 : Nat := cellDpa 7 0x17FFF8
def vs_StoreAccesses_1 : State := ({ atSeq 7 [17, 131, 1, 248, 255, 255, 255] [(1, ⟨tgUint, 0x180000⟩), (3, ⟨tgInt, 2^64 - 1⟩), (2, ⟨tgInt, 5⟩)] with mem := { full.mem with bytes := Mem.write [] (cellDpa 7 0x17FFF8) (leBytes 8 9), tags := [(cellDpa 7 0x17FFF8, tgInt)] } } : State)
def ve_StoreAccesses_1 : Enc := en [17, 131, 1, 248, 255, 255, 255]
def vm_StoreAccesses_2 : Nat := cellDpa 7 0x17FFF8
def vs_StoreAccesses_2 : State := ({ atSeq 7 [231, 22, 130, 1, 248, 255, 255, 255] [(1, ⟨tgUint, 0x180000⟩), (2, ⟨tgInt, 9⟩), (3, ⟨tgInt, 77⟩)] with mem := { full.mem with bytes := Mem.write [] (cellDpa 7 0x17FFF8) (leBytes 8 9), tags := [(cellDpa 7 0x17FFF8, tgInt)] } } : State)
def ve_StoreAccesses_2 : Enc := en [231, 22, 130, 1, 248, 255, 255, 255]
def vs_BadAccessesStop_0 : State := atSeq 7 [16, 131, 1, 248, 255, 255, 255] [(1, ⟨tgUint, 0x180001⟩)]
def ve_BadAccessesStop_0 : Enc := en [16, 131, 1, 248, 255, 255, 255]
def vs_BadAccessesStop_1 : State := atSeq 7 [17, 131, 1, 248, 255, 255, 255] [(1, ⟨tgUint, 0x180008⟩)]
def ve_BadAccessesStop_1 : Enc := en [17, 131, 1, 248, 255, 255, 255]
def vs_PoolAccesses_0 : State := setRegs (atSeq 7 [18, 131, 1, 248, 255, 255, 255, 50] [(1, ⟨tgAddr, 200⟩)]) [(R.LAT_CELL_GRANT 7 0, 1 + 2^16 + 2^32 + 2^33 + 2^34 + 2^35 + 100 * 2^134)]
def ve_PoolAccesses_0 : Enc := en [18, 131, 1, 248, 255, 255, 255, 50]
def vg_PoolAccesses_0 : Region × Nat := ((vs_PoolAccesses_0.issuing 7 ve_PoolAccesses_0).grant 7 192 8 33).get (by decide +kernel)
def vs_PoolAccesses_1 : State := setRegs (atSeq 7 [19, 131, 1, 248, 255, 255, 255, 34] [(1, ⟨tgAddr, 200⟩), (3, ⟨tgUint, 2^40 + 7⟩)]) [(R.LAT_CELL_GRANT 7 0, 1 + 2^16 + 2^32 + 2^33 + 2^34 + 2^35 + 100 * 2^134)]
def ve_PoolAccesses_1 : Enc := en [19, 131, 1, 248, 255, 255, 255, 34]
def vr_PoolAccesses_1 : Region := (((vs_PoolAccesses_1.issuing 7 ve_PoolAccesses_1).grant 7 192 4 34).get (by decide +kernel)).1
def voff_PoolAccesses_1 : Nat := (((vs_PoolAccesses_1.issuing 7 ve_PoolAccesses_1).grant 7 192 4 34).get (by decide +kernel)).2
def vs_PoolAccesses_2 : State := setRegs (atSeq 7 [231, 22, 130, 1, 248, 255, 255, 255] [(1, ⟨tgAddr, 200⟩), (2, ⟨tgUint, 9⟩), (3, ⟨tgInt, 77⟩)]) [(R.LAT_CELL_GRANT 7 0, 1 + 2^16 + 2^32 + 2^33 + 2^34 + 2^35 + 100 * 2^134)]
def ve_PoolAccesses_2 : Enc := en [231, 22, 130, 1, 248, 255, 255, 255]
def vg_PoolAccesses_2 : Region × Nat := ((vs_PoolAccesses_2.issuing 7 ve_PoolAccesses_2).grant 7 192 8 35).get (by decide +kernel)
def vs_PoolAccesses_3 : State := setRegs ((atSeq 7 [] []).updSeq 7 (fun q => { q with stall := some (.load 3 tgUint 4 192), stallLen := 8 })) [(R.LAT_CELL_GRANT 7 0, 1 + 2^16 + 2^32 + 2^33 + 2^34 + 2^35 + 100 * 2^134)]
def vr_PoolAccesses_3 : Region := ((vs_PoolAccesses_3.grant 7 192 4 33).get (by decide +kernel)).1
def voff_PoolAccesses_3 : Nat := ((vs_PoolAccesses_3.grant 7 192 4 33).get (by decide +kernel)).2
def vs1_PoolAccesses_3 : State := resSt (vs_PoolAccesses_3.readRegion vr_PoolAccesses_3 voff_PoolAccesses_3 4)
def vbs_PoolAccesses_3 : List Byte := resVal (vs_PoolAccesses_3.readRegion vr_PoolAccesses_3 voff_PoolAccesses_3 4)
def vs_PoolAccesses_4 : State := setRegs ((atSeq 7 [] []).updSeq 7 (fun q => { q with stall := some (.atomic 0 3 tgUint 5 0 192), stallLen := 8 })) [(R.LAT_CELL_GRANT 7 0, 1 + 2^16 + 2^32 + 2^33 + 2^34 + 2^35 + 100 * 2^134)]
def vr_PoolAccesses_4 : Region := ((vs_PoolAccesses_4.grant 7 192 8 35).get (by decide +kernel)).1
def voff_PoolAccesses_4 : Nat := ((vs_PoolAccesses_4.grant 7 192 8 35).get (by decide +kernel)).2
def vs1_PoolAccesses_4 : State := resSt (vs_PoolAccesses_4.readRegion vr_PoolAccesses_4 voff_PoolAccesses_4 8)
def vbs_PoolAccesses_4 : List Byte := resVal (vs_PoolAccesses_4.readRegion vr_PoolAccesses_4 voff_PoolAccesses_4 8)
def vs2_PoolAccesses_4 : State := ((vs1_PoolAccesses_4).writeRegion (vr_PoolAccesses_4) (voff_PoolAccesses_4) (leBytes 8 ((leNat (vbs_PoolAccesses_4) + 5) % 2 ^ 64))).1
def vs_ChannelInstructions_0 : State := atSeq 7 [112, 96, 1] []
def ve_ChannelInstructions_0 : Enc := en [112, 96, 1]
def vs_ChannelInstructions_1 : State := (atSeq 7 [112, 96, 1] []).updSeq 7 (fun q => { q with strm := [(1, { Strm.idle with busy := true })] })
def ve_ChannelInstructions_1 : Enc := en [112, 96, 1]
def vs_ChannelInstructions_2 : State := atSeq 7 [113, 224] []
def vs_ChannelInstructions_3 : State := ({ atSeq 8 [114, 35, 1, 0] [(1, ⟨tgUint, 1⟩)] with chans := [(1, [ch0])], pipes := (withPipe pipe0).pipes } : State)
def ve_ChannelInstructions_3 : Enc := en [114, 35, 1, 0]
def vs_ChannelInstructions_4 : State := ({ atSeq 8 [114, 35, 1, 0] [(1, ⟨tgUint, 2⟩)] with chans := [(1, [ch0])], pipes := (withPipe pipe0).pipes } : State)
def ve_ChannelInstructions_4 : Enc := en [0x72, 35, 1, 0]
def vs_ChannelInstructions_5 : State := ({ atSeq 8 [115, 32, 1, 0] [(1, ⟨tgUint, 1⟩)] with chans := [(1, [ch0])], pipes := (withPipe pipe0).pipes } : State)
def ve_ChannelInstructions_5 : Enc := en [115, 32, 1, 0]
def vs_ChannelInstructions_6 : State := ({ atSeq 7 [116, 35, 1, 0] [(1, ⟨tgUint, 2⟩)] with chans := [(1, [ch0])], pipes := (withPipe pipe0).pipes } : State)
def ve_ChannelInstructions_6 : Enc := en [116, 35, 1, 0]
def vs_ChannelInstructions_7 : State := ({ atSeq 7 [117, 32, 1, 0] [(1, ⟨tgUint, 2⟩)] with chans := [(1, [ch0])], pipes := (withPipe pipe0).pipes } : State)
def ve_ChannelInstructions_7 : Enc := en [117, 32, 1, 0]
theorem witness_MemoryInstructions :
    (∃ (k : Nat), ∃ (a : Nat), ∃ (m : Nat), ∃ (s : State), ∃ (e : Enc), e.memTags ((s.issuing k e).seq k) (· = tgUint) = none ∧ e.storeAddr ((s.issuing k e).seq k) = a ∧ a % 8 = 0 ∧ (∀ perm, coreMayTouch k ((s.issuing k e).seq k) a 8 perm = true) ∧ (∀ wr, (s.issuing k e).storeAt k a 8 wr = .own m) ∧ (s.issuing k e).mem.bad.contains m = false ∧ (s.issuing k e).mem.weak.contains m = false ∧ (isCore k = true ∨ ∀ wr, (s.issuing k e).ringWaits k (fld a 0 21) wr = false) ∧ s.executes k 0x10 e) ∧
    (∃ (k : Nat), ∃ (a : Nat), ∃ (m : Nat), ∃ (s : State), ∃ (e : Enc), e.memTags ((s.issuing k e).seq k) (· = tgUint) = none ∧ e.storeAddr ((s.issuing k e).seq k) = a ∧ a % 8 = 0 ∧ (∀ perm, coreMayTouch k ((s.issuing k e).seq k) a 8 perm = true) ∧ (∀ wr, (s.issuing k e).storeAt k a 8 wr = .own m) ∧ (s.issuing k e).mem.bad.contains m = false ∧ (s.issuing k e).mem.weak.contains m = false ∧ (isCore k = true ∨ ∀ wr, (s.issuing k e).ringWaits k (fld a 0 21) wr = false) ∧ s.executes k 0x11 e) ∧
    (∃ (k : Nat), ∃ (a : Nat), ∃ (m : Nat), ∃ (s : State), ∃ (e : Enc), ∃ (c : Nat → Nat → Instr), ∃ (op : Nat), ∃ (kind : Nat), ∃ (d : Nat), ∃ (o : Nat), ∃ (t0 : Nat), e.memTags ((s.issuing k e).seq k) (· = tgUint) = none ∧ e.storeAddr ((s.issuing k e).seq k) = a ∧ a % 8 = 0 ∧ (∀ perm, coreMayTouch k ((s.issuing k e).seq k) a 8 perm = true) ∧ (∀ wr, (s.issuing k e).storeAt k a 8 wr = .own m) ∧ (s.issuing k e).mem.bad.contains m = false ∧ (s.issuing k e).mem.weak.contains m = false ∧ (isCore k = true ∨ ∀ wr, (s.issuing k e).ringWaits k (fld a 0 21) wr = false) ∧ (c, op, kind) ∈ ([(.xadd, 0x14, 0), (.xchg, 0x15, 1), (.xcas, 0x16, 2)] : List ((Nat → Nat → Instr) × Nat × Nat)) ∧ s.executes k op e ∧ (t0 = tgInt ∨ t0 = tgUint) ∧ ((s.issuing k e).seq k).reg e.rd = ⟨t0, d⟩ ∧ (kind = 2 → isInt (((s.issuing k e).seq k).reg (e.rd + 1)).tag = true) ∧ (((s.issuing k e).seq k).reg e.a).tag = tgUint ∧ Tbl.get s.mem.tags m 0 = t0 ∧ Mem.num s.mem.bytes m 8 = o) ∧
    (∃ (k : Nat), ∃ (a : Nat), ∃ (s : State), ∃ (e : Enc), ∃ (c : Nat → Nat → Instr), ∃ (op : Nat), (c, op) ∈ ([(.ld, 0x10), (.st, 0x11)] : List ((Nat → Nat → Instr) × Nat)) ∧ s.executes k op e ∧ e.memTags ((s.issuing k e).seq k) (· = tgUint) = none ∧ e.storeAddr ((s.issuing k e).seq k) = a ∧ a % 8 ≠ 0) ∧
    (∃ (k : Nat), ∃ (a : Nat), ∃ (s : State), ∃ (e : Enc), ∃ (c : Nat → Nat → Instr), ∃ (op : Nat), (c, op) ∈ ([(.ld, 0x10), (.st, 0x11)] : List ((Nat → Nat → Instr) × Nat)) ∧ s.executes k op e ∧ e.memTags ((s.issuing k e).seq k) (· = tgUint) = none ∧ e.storeAddr ((s.issuing k e).seq k) = a ∧ a % 8 = 0 ∧ k < 1536 ∧ (∀ wr, (s.issuing k e).storeAt k a 8 wr = .bad)) ∧
    (∃ (k : Nat), ∃ (a : Nat), ∃ (n : Nat), ∃ (s : State), ∃ (e : Enc), ∃ (g : Region × Nat), s.executes k 0x12 e ∧ e.memTags ((s.issuing k e).seq k) (· = tgAddr) = none ∧ e.poolAddr ((s.issuing k e).seq k) = a ∧ n = 2 ^ (e.imm / 16 % 4) ∧ a % n = 0 ∧ (s.issuing k e).grant k a n 33 = some g) ∧
    (∃ (k : Nat), ∃ (a : Nat), ∃ (n : Nat), ∃ (w : Nat), ∃ (off : Nat), ∃ (s : State), ∃ (e : Enc), ∃ (r : Region), s.executes k 0x13 e ∧ e.memTags ((s.issuing k e).seq k) (· = tgAddr) = none ∧ ((s.issuing k e).seq k).reg e.rd = ⟨tgUint, w⟩ ∧ e.poolAddr ((s.issuing k e).seq k) = a ∧ n = 2 ^ (e.imm / 16 % 4) ∧ a % n = 0 ∧ (s.issuing k e).grant k a n 34 = some (r, off)) ∧
    (∃ (k : Nat), ∃ (a : Nat), ∃ (d : Nat), ∃ (s : State), ∃ (e : Enc), ∃ (g : Region × Nat), ∃ (c : Nat → Nat → Instr), ∃ (op : Nat), ∃ (kind : Nat), (c, op, kind) ∈ ([(.xadd, 0x14, 0), (.xchg, 0x15, 1), (.xcas, 0x16, 2)] : List ((Nat → Nat → Instr) × Nat × Nat)) ∧ k < 1536 ∧ s.executes k op e ∧ e.memTags ((s.issuing k e).seq k) (· = tgAddr) = none ∧ ((s.issuing k e).seq k).reg e.rd = ⟨tgUint, d⟩ ∧ (kind = 2 → isInt (((s.issuing k e).seq k).reg (e.rd + 1)).tag = true) ∧ e.poolAddr ((s.issuing k e).seq k) = a ∧ a % 8 = 0 ∧ (s.issuing k e).grant k a 8 35 = some g) ∧
    (∃ (k : Nat), ∃ (rd : Nat), ∃ (n : Nat), ∃ (a : Nat), ∃ (off : Nat), ∃ (s : State), ∃ (s1 : State), ∃ (r : Region), ∃ (bs : List Byte), s.cellPending k 1 = 0 ∧ (s.seq k).stall = some (.load rd tgUint n a) ∧ s.grant k a n 33 = some (r, off) ∧ s.regionWaits r off n = false ∧ s.readRegion r off n = .ok s1 bs ∧ s1.seqs = s.seqs) ∧
    (∃ (k : Nat), ∃ (rd : Nat), ∃ (a : Nat), ∃ (off : Nat), ∃ (d : Nat), ∃ (x : Nat), ∃ (s : State), ∃ (s1 : State), ∃ (s2 : State), ∃ (r : Region), ∃ (bs : List Byte), s.cellPending k 1 = 0 ∧ (s.seq k).stall = some (.atomic 0 rd tgUint d x a) ∧ s.grant k a 8 35 = some (r, off) ∧ s.regionWaits r off 8 = false ∧ (s.seq k).s1.contains true = false ∧ s.guarded (r.dpa off) = false ∧ s.readRegion r off 8 = .ok s1 bs ∧ s1.writeRegion r off (leBytes 8 ((leNat bs + d) % 2 ^ 64)) = (s2, 8, none)) ∧
    (∃ (k : Nat), ∃ (s : State), ∃ (e : Enc), s.executes k 0x70 e ∧ (((s.issuing k e).seq k).stream e.imm).busy = false ∧ (s.issuing k e).cellPending k e.imm = 0) ∧
    (∃ (k : Nat), ∃ (s : State), ∃ (e : Enc), s.executes k 0x70 e ∧ (((s.issuing k e).seq k).stream e.imm).busy = true) ∧
    (∃ (k : Nat), ∃ (s : State), ∃ (e : Enc), s.executes k 0x71 e) ∧
    (∃ (k : Nat), ∃ (n : Nat), ∃ (pn : Nat), ∃ (i : Nat), ∃ (s : State), ∃ (e : Enc), ∃ (ch : Chan), ((s.issuing k e).seq k).reg e.a = ⟨tgUint, n⟩ ∧ n ≠ 0 ∧ n ≤ ch.size ∧ s.executes k 0x72 e ∧ (s.issuing k e).localChan k e.imm false = some (pn, i, ch) ∧ n ≤ ch.recv - ch.freed) ∧
    (∃ (k : Nat), ∃ (n : Nat), ∃ (pn : Nat), ∃ (i : Nat), ∃ (s : State), ∃ (e : Enc), ∃ (ch : Chan), ((s.issuing k e).seq k).reg e.a = ⟨tgUint, n⟩ ∧ n ≠ 0 ∧ n ≤ ch.size ∧ s.executes k 0x72 e ∧ (s.issuing k e).localChan k e.imm false = some (pn, i, ch) ∧ ch.recv - ch.freed < n) ∧
    (∃ (k : Nat), ∃ (n : Nat), ∃ (pn : Nat), ∃ (i : Nat), ∃ (s : State), ∃ (e : Enc), ∃ (ch : Chan), ((s.issuing k e).seq k).reg e.a = ⟨tgUint, n⟩ ∧ n ≠ 0 ∧ n ≤ ch.size ∧ s.executes k 0x73 e ∧ (s.issuing k e).localChan k e.imm false = some (pn, i, ch) ∧ n ≤ ch.recv - ch.freed) ∧
    (∃ (k : Nat), ∃ (n : Nat), ∃ (pn : Nat), ∃ (i : Nat), ∃ (s : State), ∃ (e : Enc), ∃ (ch : Chan), ∃ p, ((s.issuing k e).seq k).reg e.a = ⟨tgUint, n⟩ ∧ n ≠ 0 ∧ n ≤ ch.size ∧ s.executes k 0x74 e ∧ (s.issuing k e).localChan k e.imm true = some (pn, i, ch) ∧ Tbl.find s.pipes.tab pn = some p ∧ n ≤ ch.size - (ch.put - ch.sent)) ∧
    (∃ (k : Nat), ∃ (n : Nat), ∃ (pn : Nat), ∃ (i : Nat), ∃ (s : State), ∃ (e : Enc), ∃ (ch : Chan), ((s.issuing k e).seq k).reg e.a = ⟨tgUint, n⟩ ∧ n ≠ 0 ∧ n ≤ ch.size ∧ s.executes k 0x75 e ∧ (s.issuing k e).localChan k e.imm true = some (pn, i, ch) ∧ n ≤ ch.size - (ch.put - ch.sent)) ∧
    (∃ n, ∃ m, m ∈ creditRecords n n) :=
  ⟨⟨(7), (0x17FFF8), (vm_StoreAccesses_0), (vs_StoreAccesses_0), (ve_StoreAccesses_0), by decide +kernel, by decide +kernel, by decide +kernel, by intro p; rfl, by intro wr; cases wr <;> rfl, by decide +kernel, by decide +kernel, by decide +kernel, executes_of (by decide +kernel)⟩,
   ⟨(7), (0x17FFF8), (vm_StoreAccesses_1), (vs_StoreAccesses_1), (ve_StoreAccesses_1), by decide +kernel, by decide +kernel, by decide +kernel, by intro p; rfl, by intro wr; cases wr <;> rfl, by decide +kernel, by decide +kernel, by decide +kernel, executes_of (by decide +kernel)⟩,
   ⟨(7), (0x17FFF8), (vm_StoreAccesses_2), (vs_StoreAccesses_2), (ve_StoreAccesses_2), (.xcas), (0x16), (2), (9), (9), (tgInt), by decide +kernel, by decide +kernel, by decide +kernel, by intro p; rfl, by intro wr; cases wr <;> rfl, by decide +kernel, by decide +kernel, by decide +kernel, by simp, executes_of (by decide +kernel), by decide +kernel, by decide +kernel, by decide +kernel, by decide +kernel, by decide +kernel, by decide +kernel⟩,
   ⟨(7), (0x17FFF9), (vs_BadAccessesStop_0), (ve_BadAccessesStop_0), (.ld), (0x10), by simp, executes_of (by decide +kernel), by decide +kernel, by decide +kernel, by decide +kernel⟩,
   ⟨(7), (0x180000), (vs_BadAccessesStop_1), (ve_BadAccessesStop_1), (.st), (0x11), by simp, executes_of (by decide +kernel), by decide +kernel, by decide +kernel, by decide +kernel, by decide +kernel, by intro wr; cases wr <;> rfl⟩,
   ⟨(7), (192), (8), (vs_PoolAccesses_0), (ve_PoolAccesses_0), (vg_PoolAccesses_0), executes_of (by decide +kernel), by decide +kernel, by decide +kernel, by decide +kernel, by decide +kernel, by decide +kernel⟩,
   ⟨(7), (192), (4), (2^40 + 7), (voff_PoolAccesses_1), (vs_PoolAccesses_1), (ve_PoolAccesses_1), (vr_PoolAccesses_1), executes_of (by decide +kernel), by decide +kernel, by decide +kernel, by decide +kernel, by decide +kernel, by decide +kernel, by decide +kernel⟩,
   ⟨(7), (192), (9), (vs_PoolAccesses_2), (ve_PoolAccesses_2), (vg_PoolAccesses_2), (.xcas), (0x16), (2), by simp, by decide +kernel, executes_of (by decide +kernel), by decide +kernel, by decide +kernel, by decide +kernel, by decide +kernel, by decide +kernel, by decide +kernel⟩,
   ⟨(7), (3), (4), (192), (voff_PoolAccesses_3), (vs_PoolAccesses_3), (vs1_PoolAccesses_3), (vr_PoolAccesses_3), (vbs_PoolAccesses_3), by decide +kernel, by decide +kernel, by decide +kernel, by decide +kernel, res_ok _ (by decide +kernel), by decide +kernel⟩,
   ⟨(7), (3), (192), (voff_PoolAccesses_4), (5), (0), (vs_PoolAccesses_4), (vs1_PoolAccesses_4), (vs2_PoolAccesses_4), (vr_PoolAccesses_4), (vbs_PoolAccesses_4), by decide +kernel, by decide +kernel, by decide +kernel, by decide +kernel, by decide +kernel, by decide +kernel, res_ok _ (by decide +kernel), by decide +kernel⟩,
   ⟨(7), (vs_ChannelInstructions_0), (ve_ChannelInstructions_0), executes_of (by decide +kernel), by decide +kernel, by decide +kernel⟩,
   ⟨(7), (vs_ChannelInstructions_1), (ve_ChannelInstructions_1), executes_of (by decide +kernel), by decide +kernel⟩,
   ⟨(7), (vs_ChannelInstructions_2), (en [113, 224]), executes_of (by decide +kernel)⟩,
   ⟨(8), (1), (1), (0), (vs_ChannelInstructions_3), (ve_ChannelInstructions_3), (ch0), by decide +kernel, by decide +kernel, by decide +kernel, executes_of (by decide +kernel), by decide +kernel, by decide +kernel⟩,
   ⟨(8), (2), (1), (0), (vs_ChannelInstructions_4), (ve_ChannelInstructions_4), (ch0), by decide +kernel, by decide +kernel, by decide +kernel, executes_of (by decide +kernel), by decide +kernel, by decide +kernel⟩,
   ⟨(8), (1), (1), (0), (vs_ChannelInstructions_5), (ve_ChannelInstructions_5), (ch0), by decide +kernel, by decide +kernel, by decide +kernel, executes_of (by decide +kernel), by decide +kernel, by decide +kernel⟩,
   ⟨(7), (2), (1), (0), (vs_ChannelInstructions_6), (ve_ChannelInstructions_6), (ch0), ((Tbl.find vs_ChannelInstructions_6.pipes.tab 1).get (by decide +kernel)), by decide +kernel, by decide +kernel, by decide +kernel, executes_of (by decide +kernel), by decide +kernel, by decide +kernel, by decide +kernel⟩,
   ⟨(7), (2), (1), (0), (vs_ChannelInstructions_7), (ve_ChannelInstructions_7), (ch0), by decide +kernel, by decide +kernel, by decide +kernel, executes_of (by decide +kernel), by decide +kernel, by decide +kernel⟩,
   ⟨(37), (5), by decide +kernel⟩⟩

def vs_UnitInstructionsIssue_0 : State := ({ (atSeq 7 [240, 0, 195, 1, 2, 1] [(1, ⟨tgUint, 0⟩), (2, ⟨tgUint, 64⟩), (3, ⟨tgUint, 128⟩)]).updSeq 7 (fun q => { q with vl := 1 }) with mem := { full.mem with tags := [(cellDpa 7 0, 4), (cellDpa 7 64, 4)] } } : State)
def ve_UnitInstructionsIssue_0 : Enc := en [240, 0, 195, 1, 2, 1]
def vrs_UnitInstructionsIssue_0 : List (List Byte × Option Nat) := (match ((vs_UnitInstructionsIssue_0).issuing 7 (ve_UnitInstructionsIssue_0)).readOpnds 7 ((ve_UnitInstructionsIssue_0).unitSources (((vs_UnitInstructionsIssue_0).issuing 7 (ve_UnitInstructionsIssue_0)).seq 7)) [] with | .ok y => y | .error _ => (vs_UnitInstructionsIssue_0, [])).2
def vs1_UnitInstructionsIssue_0 : State := (match ((vs_UnitInstructionsIssue_0).issuing 7 (ve_UnitInstructionsIssue_0)).readOpnds 7 ((ve_UnitInstructionsIssue_0).unitSources (((vs_UnitInstructionsIssue_0).issuing 7 (ve_UnitInstructionsIssue_0)).seq 7)) [] with | .ok y => y | .error _ => (vs_UnitInstructionsIssue_0, [])).1
def vs_VectorLanes_0 : State := ({ (atSeq 7 [240, 0, 195, 1, 2, 1] [(1, ⟨tgUint, 0⟩), (2, ⟨tgUint, 64⟩), (3, ⟨tgUint, 128⟩)]).updSeq 7 (fun q => { q with vl := 1 }) with mem := { full.mem with tags := [(cellDpa 7 0, 4), (cellDpa 7 64, 4)] } } : State)
def ve_VectorLanes_0 : Enc := en [240, 0, 195, 1, 2, 1]
def vs1_VectorLanes_0 : State := (match ((vs_VectorLanes_0).issuing 7 (ve_VectorLanes_0)).readOpnds 7 ((ve_VectorLanes_0).unitSources (((vs_VectorLanes_0).issuing 7 (ve_VectorLanes_0)).seq 7)) [] with | .ok y => y | .error _ => (vs_VectorLanes_0, [])).1
def vs_UnitsFinish_0 : State := ((atSeq 7 [] []).updSeq 7 (fun q => { q with units := [(1, ⟨3, some (cTag, 5, 4)⟩)] }))
def vw_UnitsFinish_0 : UnitWork := ⟨3, some (cTag, 5, 4)⟩
theorem witness_UnitInstructions :
    (∃ p, ∃ (k : Nat), ∃ (s : State), ∃ (s1 : State), ∃ (e : Enc), ∃ (rs : List (List Byte × Option Nat)), p ∈ instructionRows ∧ 0xF000 ≤ p.2.1 ∧ p.2.1 < 0xF300 ∧ k < 1536 ∧ s.executes k p.2.1 e ∧ e.rnd.getD 0 < 6 ∧ Tbl.has ((s.issuing k e).seq k).units (if p.2.1 < 0xF100 then 0 else if p.2.1 < 0xF200 then 1 else 2) = false ∧ (∀ r ∈ e.unitRegs, (((s.issuing k e).seq k).reg r).tag = tgUint ∧ (((s.issuing k e).seq k).reg r).val % 64 = 0) ∧ (s.issuing k e).readOpnds k (e.unitSources ((s.issuing k e).seq k)) [] = .ok (s1, rs) ∧ (∀ d ∈ e.unitDests ((s.issuing k e).seq k), (match (s.issuing k e).writeCheck k d with | .fine => true | _ => false) = true) ∧ (((s.issuing k e).seq k).slotsDone = some ((s.issuing k e).seq k).pc ∨ ∀ o ∈ e.unitSources ((s.issuing k e).seq k) ++ e.unitDests ((s.issuing k e).seq k), nbrLines o (List.range o.words) = []) ∧ (∀ d ∈ e.unitDests ((s.issuing k e).seq k), ∀ i, i < d.words → ∀ x, ((s.issuing k e).storeAt k (d.word i) 8 true).addr = some x → (s.issuing k e).mem.bad.contains x = false) ∧ (e.countOf ((s.issuing k e).seq k)).getD ((s.issuing k e).seq k).vl ≠ 0) ∧
    (∃ (c : Nat → Nat → Instr), ∃ (op : Nat), ∃ (kind : Nat), ∃ (k : Nat), ∃ (s : State), ∃ (s1 : State), ∃ (e : Enc), ∃ (a : List Byte), ∃ (b : List Byte), (c, op, kind) ∈ ([(.vadd, 0xF000, 0), (.vsub, 0xF001, 1), (.vmul, 0xF002, 2), (.vmin, 0xF004, 4), (.vmax, 0xF005, 5)] : List ((Nat → Nat → Instr) × Nat × Nat)) ∧ k < 1536 ∧ s.executes k op e ∧ e.rnd.getD 0 < 6 ∧ Tbl.has ((s.issuing k e).seq k).units 0 = false ∧ ((s.issuing k e).seq k).dzTrap = false ∧ (∀ r ∈ e.unitRegs, (((s.issuing k e).seq k).reg r).tag = tgUint ∧ (((s.issuing k e).seq k).reg r).val % 64 = 0) ∧ (s.issuing k e).readOpnds k (e.unitSources ((s.issuing k e).seq k)) [] = .ok (s1, [(a, none), (b, none)]) ∧ (∀ d ∈ e.unitDests ((s.issuing k e).seq k), (match (s.issuing k e).writeCheck k d with | .fine => true | _ => false) = true) ∧ (((s.issuing k e).seq k).slotsDone = some ((s.issuing k e).seq k).pc ∨ ∀ o ∈ e.unitSources ((s.issuing k e).seq k) ++ e.unitDests ((s.issuing k e).seq k), nbrLines o (List.range o.words) = []) ∧ (∀ d ∈ e.unitDests ((s.issuing k e).seq k), ∀ i, i < d.words → ∀ x, ((s.issuing k e).storeAt k (d.word i) 8 true).addr = some x → (s.issuing k e).mem.bad.contains x = false) ∧ 0 < e.elems ((s.issuing k e).seq k) (lanesOf (e.imm % 16))) ∧
    (∃ (k : Nat), ∃ (u : Nat), ∃ (s : State), ∃ (w : UnitWork), Tbl.find (s.seq k).units u = some w) :=
  ⟨⟨(((.vadd, 0xF000, opVadd) : InstructionRow)), (7), (vs_UnitInstructionsIssue_0), (vs1_UnitInstructionsIssue_0), (ve_UnitInstructionsIssue_0), (vrs_UnitInstructionsIssue_0), by simp [instructionRows, instructionRows0, instructionRows1, instructionRows2], by decide +kernel, by decide +kernel, by decide +kernel, executes_of (by decide +kernel), by decide +kernel, by decide +kernel, by decide +kernel, opnds_of (by decide +kernel), by decide +kernel, by decide +kernel, by decide +kernel, by decide +kernel⟩,
   ⟨(.vadd), (0xF000), (0), (7), (vs_VectorLanes_0), (vs1_VectorLanes_0), (ve_VectorLanes_0), (zeroBytes 8), (zeroBytes 8), by simp, by decide +kernel, executes_of (by decide +kernel), by decide +kernel, by decide +kernel, by decide +kernel, by decide +kernel, opnds_of (by decide +kernel), by decide +kernel, by decide +kernel, by decide +kernel, by decide +kernel⟩,
   ⟨(7), (1), (vs_UnitsFinish_0), (vw_UnitsFinish_0), by decide +kernel⟩⟩

def vs_PipelineDescriptors_0 : State := ({ withPipe (pipe0) with ring := { full.ring with jobs := [jb 0 5 1 (D [(0, 16), (8, 1025), (16, 9)])] } } : State)
def vj_PipelineDescriptors_0 : Job := jb 0 5 1 (D [(0, 16), (8, 1025), (16, 9)])
def vs_PipelineDescriptors_1 : State := ({ withPipe (pipe0) with ring := { full.ring with jobs := [jb 0 5 1 (D [(0, 18), (8, 1025)])] } } : State)
def vj_PipelineDescriptors_1 : Job := jb 0 5 1 (D [(0, 18), (8, 1025)])
def vs_PipelineDescriptors_2 : State := ({ withPipe (pipe0) with ring := { full.ring with jobs := [jb 0 5 1 (D [(0, 19), (8, 1025), (13, 2), (32, 4)])] } } : State)
def vj_PipelineDescriptors_2 : Job := jb 0 5 1 (D [(0, 19), (8, 1025), (13, 2), (32, 4)])
def vs_PipelineDescriptors_3 : State := ({ withPipe ({ pipe0 with state := .armed, arm := some (⟨(⟨0, 6, 0, 9, 3, [1, 2, 3], 0, false, none⟩ : WaveReq), 2, 0, 0, 0, 4, none, false, false, 0⟩ : Arm) }) with ring := { full.ring with jobs := [jb 0 5 1 (D [(0, 20), (8, 1025)]), jb 0 6 1 0] } } : State)
def vj_PipelineDescriptors_3 : Job := jb 0 5 1 (D [(0, 20), (8, 1025)])
def vp_PipelineDescriptors_3 : Pipe := { pipe0 with state := .armed, arm := some (⟨(⟨0, 6, 0, 9, 3, [1, 2, 3], 0, false, none⟩ : WaveReq), 2, 0, 0, 0, 4, none, false, false, 0⟩ : Arm) }
def vs_PipelineDescriptors_4 : State := ({ withPipe ({ pipe0 with state := .running }) with ring := { full.ring with jobs := [jb 0 5 1 (D [(0, 21), (8, 1025)])] } } : State)
def vj_PipelineDescriptors_4 : Job := jb 0 5 1 (D [(0, 21), (8, 1025)])
def vp_PipelineDescriptors_4 : Pipe := { pipe0 with state := .running }
def vs_PipelineDescriptors_5 : State := ({ withPipe ({ pipe0 with state := .running }) with ring := { full.ring with jobs := [jb 0 5 1 (D [(0, 21), (8, 1025)])] } } : State)
def vj_PipelineDescriptors_5 : Job := jb 0 5 1 (D [(0, 21), (8, 1025)])
def vp_PipelineDescriptors_5 : Pipe := { pipe0 with state := .running }
def vs_PipelineDescriptors_6 : State := ({ withPipe ({ pipe0 with state := .stopped }) with ring := { full.ring with jobs := [jb 0 5 1 (D [(0, 22), (8, 1025)])] } } : State)
def vj_PipelineDescriptors_6 : Job := jb 0 5 1 (D [(0, 22), (8, 1025)])
def vp_PipelineDescriptors_6 : Pipe := { pipe0 with state := .stopped }
def vs_PipelineDescriptors_7 : State := ({ withPipe ({ pipe0 with state := .stopped }) with ring := { full.ring with jobs := [jb 0 5 1 (D [(0, 22), (8, 1025)])] } } : State)
def vj_PipelineDescriptors_7 : Job := jb 0 5 1 (D [(0, 22), (8, 1025)])
def vp_PipelineDescriptors_7 : Pipe := { pipe0 with state := .stopped }
theorem witness_PipelineDescriptors :
    (∃ (sr : Nat), ∃ (tag : Nat), ∃ (pn : Nat), ∃ (s : State), ∃ (j : Job), ∃ (p : Pipe), s.pipeOf (dby j.desc 8 4) j.slice = some (pn, p) ∧ s.ready sr tag 0x10 j ∧ rsvdZero j.desc [(8, 4), (12, 1), (14, 1), (16, 12), (36, 28)] = true ∧ dby j.desc 14 1 = 0 ∧ s.waveBad j p = none ∧ p.state = .loaded ∧ p.arm = none ∧ p.queue = [] ∧ p.wave = none) ∧
    (∃ (sr : Nat), ∃ (tag : Nat), ∃ (pn : Nat), ∃ (s : State), ∃ (j : Job), ∃ (p : Pipe), s.pipeOf (dby j.desc 8 4) j.slice = some (pn, p) ∧ s.ready sr tag 0x12 j ∧ rsvdZero j.desc [(8, 4)] = true ∧ p.state = .loaded) ∧
    (∃ (sr : Nat), ∃ (tag : Nat), ∃ (pn : Nat), ∃ (s : State), ∃ (j : Job), ∃ (p : Pipe), ∃ src, s.pipeOf (dby j.desc 8 4) j.slice = some (pn, p) ∧ s.ready sr tag 0x13 j ∧ rsvdZero j.desc [(8, 4), (12, 3), (16, 48)] = true ∧ dby j.desc 13 1 = src ∧ src = 2 ∧ dby j.desc 14 1 = 0 ∧ fld (dby j.desc 28 4) 20 12 = 0 ∧ s.waveBad j p = none ∧ p.state = .loaded) ∧
    (∃ (sr : Nat), ∃ (tag : Nat), ∃ (pn : Nat), ∃ (s : State), ∃ (j : Job), ∃ (p : Pipe), ∃ a, ∃ k, s.pipeOf (dby j.desc 8 4) j.slice = some (pn, p) ∧ s.ready sr tag 0x14 j ∧ rsvdZero j.desc [(8, 4)] = true ∧ p.state = .armed ∧ p.wave = none ∧ p.arm = some a ∧ a.disarm = none ∧ a.overrun = false ∧ s.job a.req.sr a.req.tag = some k ∧ ¬(a.req.sr = sr ∧ a.req.tag = tag)) ∧
    (∃ (sr : Nat), ∃ (tag : Nat), ∃ (pn : Nat), ∃ (s : State), ∃ (j : Job), ∃ (p : Pipe), s.pipeOf (dby j.desc 8 4) j.slice = some (pn, p) ∧ s.ready sr tag 0x15 j ∧ rsvdZero j.desc [(8, 4), (12, 1)] = true ∧ dby j.desc 12 1 = 0 ∧ p.state ≠ .stopped ∧ p.state ≠ .halted) ∧
    (∃ (sr : Nat), ∃ (tag : Nat), ∃ (pn : Nat), ∃ (s : State), ∃ (j : Job), ∃ (p : Pipe), ∃ c, s.pipeOf (dby j.desc 8 4) j.slice = some (pn, p) ∧ c ∈ p.cells ∧ (s.seq c).stall = none) ∧
    (∃ (sr : Nat), ∃ (tag : Nat), ∃ (pn : Nat), ∃ (s : State), ∃ (j : Job), ∃ (p : Pipe), s.pipeOf (dby j.desc 8 4) j.slice = some (pn, p) ∧ s.ready sr tag 0x16 j ∧ rsvdZero j.desc [(8, 4)] = true ∧ p.state = .stopped) ∧
    (∃ (sr : Nat), ∃ (tag : Nat), ∃ (pn : Nat), ∃ (s : State), ∃ (j : Job), ∃ (p : Pipe), ∃ c, s.pipeOf (dby j.desc 8 4) j.slice = some (pn, p) ∧ c ∈ p.cells) :=
  ⟨⟨(0), (5), (1), (vs_PipelineDescriptors_0), (vj_PipelineDescriptors_0), (pipe0), by decide +kernel, ready_of (by decide +kernel), by decide +kernel, by decide +kernel, by decide +kernel, by decide +kernel, by decide +kernel, by decide +kernel, by decide +kernel⟩,
   ⟨(0), (5), (1), (vs_PipelineDescriptors_1), (vj_PipelineDescriptors_1), (pipe0), by decide +kernel, ready_of (by decide +kernel), by decide +kernel, by decide +kernel⟩,
   ⟨(0), (5), (1), (vs_PipelineDescriptors_2), (vj_PipelineDescriptors_2), (pipe0), (2), by decide +kernel, ready_of (by decide +kernel), by decide +kernel, by decide +kernel, by decide +kernel, by decide +kernel, by decide +kernel, by decide +kernel, by decide +kernel⟩,
   ⟨(0), (5), (1), (vs_PipelineDescriptors_3), (vj_PipelineDescriptors_3), (vp_PipelineDescriptors_3), ((⟨(⟨0, 6, 0, 9, 3, [1, 2, 3], 0, false, none⟩ : WaveReq), 2, 0, 0, 0, 4, none, false, false, 0⟩ : Arm)), (jb 0 6 1 0), by decide +kernel, ready_of (by decide +kernel), by decide +kernel, by decide +kernel, by decide +kernel, by decide +kernel, by decide +kernel, by decide +kernel, by decide +kernel, by decide +kernel⟩,
   ⟨(0), (5), (1), (vs_PipelineDescriptors_4), (vj_PipelineDescriptors_4), (vp_PipelineDescriptors_4), by decide +kernel, ready_of (by decide +kernel), by decide +kernel, by decide +kernel, by decide +kernel, by decide +kernel⟩,
   ⟨(0), (5), (1), (vs_PipelineDescriptors_5), (vj_PipelineDescriptors_5), (vp_PipelineDescriptors_5), (7), by decide +kernel, by decide +kernel, by decide +kernel⟩,
   ⟨(0), (5), (1), (vs_PipelineDescriptors_6), (vj_PipelineDescriptors_6), (vp_PipelineDescriptors_6), by decide +kernel, ready_of (by decide +kernel), by decide +kernel, by decide +kernel⟩,
   ⟨(0), (5), (1), (vs_PipelineDescriptors_7), (vj_PipelineDescriptors_7), (vp_PipelineDescriptors_7), (8), by decide +kernel, by decide +kernel⟩⟩

def vs_PipelineLoading_0 : State := setRegs ({ fjobs [jb 0 5 1 (D [(0, 17), (16, 65537)])] with mem := { full.mem with bytes := memAt (5 * 2097152) imgBytes } }) [(R.SLC_QUOTA 1, slice0Quota)]
def vs1_PipelineLoading_0 : State := vs_PipelineLoading_0
def vj_PipelineLoading_0 : Job := jb 0 5 1 (D [(0, 17), (16, 65537)])
def vimg_PipelineLoading_0 : Image := imageOf (vs_PipelineLoading_0) imgBytes
def vs_PipelineLoading_1 : State := ({ withPipe ({ pipe0 with state := .loading }) with ring := { full.ring with jobs := [jb 0 5 1 (D [(0, 17), (16, 65537)])] } , pipes := { (withPipe pipe0).pipes with tab := [(1, { pipe0 with state := .loading, loader := (0, 5) })] } } : State)
def vp_PipelineLoading_1 : Pipe := { pipe0 with state := .loading, loader := (0, 5) }
def vj_PipelineLoading_1 : Job := jb 0 5 1 (D [(0, 17), (16, 65537)])
def vs_Waves_0 : State := withPipe ({ pipe0 with state := .running, wave := some (⟨(⟨0, 6, 0, 9, 3, [1, 2, 3], 0, false, none⟩ : WaveReq), 4, false, []⟩ : Wave) })
def vp_Waves_0 : Pipe := { pipe0 with state := .running, wave := some (⟨(⟨0, 6, 0, 9, 3, [1, 2, 3], 0, false, none⟩ : WaveReq), 4, false, []⟩ : Wave) }
def vw_Waves_0 : Wave := (⟨(⟨0, 6, 0, 9, 3, [1, 2, 3], 0, false, none⟩ : WaveReq), 4, false, []⟩ : Wave)
def vs_Waves_1 : State := ({ withPipe ({ pipe0 with state := .running, wave := some (⟨(⟨0, 6, 0, 9, 3, [1, 2, 3], 0, false, none⟩ : WaveReq), 4, true, [(7, 0)]⟩ : Wave) }) with ring := { full.ring with jobs := [jb 0 6 1 0] }, seqs := [(7, { Seq.fresh with ended := true })] } : State)
def vp_Waves_1 : Pipe := { pipe0 with state := .running, wave := some (⟨(⟨0, 6, 0, 9, 3, [1, 2, 3], 0, false, none⟩ : WaveReq), 4, true, [(7, 0)]⟩ : Wave) }
def vw_Waves_1 : Wave := (⟨(⟨0, 6, 0, 9, 3, [1, 2, 3], 0, false, none⟩ : WaveReq), 4, true, [(7, 0)]⟩ : Wave)
def vs_Waves_2 : State := ({ withPipe ({ pipe0 with state := .armed, arm := some (⟨(⟨0, 6, 0, 9, 3, [1, 2, 3], 0, false, none⟩ : WaveReq), 2, 0, 0, 0, 4, none, false, false, 0⟩ : Arm) }) with ring := { full.ring with jobs := [jb 0 6 1 0] } } : State)
def vp_Waves_2 : Pipe := { pipe0 with state := .armed, arm := some (⟨(⟨0, 6, 0, 9, 3, [1, 2, 3], 0, false, none⟩ : WaveReq), 2, 0, 0, 0, 4, none, false, false, 0⟩ : Arm) }
def va_Waves_2 : Arm := (⟨(⟨0, 6, 0, 9, 3, [1, 2, 3], 0, false, none⟩ : WaveReq), 2, 0, 0, 0, 4, none, false, false, 0⟩ : Arm)
theorem witness_PipelineLoadingAndWaves :
    (∃ (sr : Nat), ∃ (tag : Nat), ∃ (pn : Nat), ∃ (s : State), ∃ (s1 : State), ∃ (j : Job), ∃ (img : Image), s.ready sr tag 0x11 j ∧ rsvdZero j.desc [(8, 12), (20, 32)] = true ∧ (s.checkImage j.slice (dby j.desc 8 8) (dby j.desc 16 4) ((List.range 8).map (fun i => dby j.desc (20 + 4 * i) 4)) = .ok s1 img) ∧ s1.hubsReady img = true ∧ lowestFree s1.pipes.tab 0 1024 = some pn) ∧
    (∃ (pn : Nat), ∃ (s : State), ∃ (p : Pipe), ∃ (j : Job), Tbl.find s.pipes.tab pn = some p ∧ p.state = .loading ∧ s.commitsDone p.img = true ∧ p.plan = none ∧ s.job p.loader.1 p.loader.2 = some j) ∧
    (∃ (pn : Nat), ∃ (c : Nat), ∃ (s : State), ∃ (p : Pipe), c ∈ p.img.cells) ∧
    (∃ (pn : Nat), ∃ (s : State), ∃ (p : Pipe), ∃ (w : Wave), Tbl.find s.pipes.tab pn = some p ∧ p.wave = some w ∧ w.started = false ∧ p.state = .running ∧ s.hubsReady p.img = true) ∧
    (∃ (pn : Nat), ∃ (s : State), ∃ (p : Pipe), ∃ (w : Wave), ∃ (j : Job), Tbl.find s.pipes.tab pn = some p ∧ p.wave = some w ∧ s.waveOver pn p w = true ∧ p.state = .running ∧ p.plan = none ∧ p.arm = none ∧ p.queue = [] ∧ w.req.onDone = none ∧ s.armsOn 3 pn = [] ∧ s.job w.req.sr w.req.tag = some j) ∧
    (∃ (pn : Nat), ∃ (s : State), ∃ (p : Pipe), ∃ (a : Arm), Tbl.find s.pipes.tab pn = some p ∧ p.arm = some a ∧ a.source = 2 ∧ a.nextBeat ≤ s.timeNs ∧ p.state = .armed ∧ p.wave = none ∧ p.queue = [] ∧ p.pending = 0 ∧ a.overrun = false ∧ a.disarm = none ∧ a.lost = false ∧ (a.limit = 0 ∨ a.run < a.limit)) :=
  ⟨⟨(0), (5), (0), (vs_PipelineLoading_0), (vs1_PipelineLoading_0), (vj_PipelineLoading_0), (vimg_PipelineLoading_0), ready_of (by decide +kernel), by decide +kernel, img_of (by decide +kernel), by decide +kernel, by decide +kernel⟩,
   ⟨(1), (vs_PipelineLoading_1), (vp_PipelineLoading_1), (vj_PipelineLoading_1), by decide +kernel, by decide +kernel, by decide +kernel, by decide +kernel, by decide +kernel⟩,
   ⟨(1), (8), (withPipe pipe0), (pipe0), by decide +kernel⟩,
   ⟨(1), (vs_Waves_0), (vp_Waves_0), (vw_Waves_0), by decide +kernel, by decide +kernel, by decide +kernel, by decide +kernel, by decide +kernel⟩,
   ⟨(1), (vs_Waves_1), (vp_Waves_1), (vw_Waves_1), (jb 0 6 1 0), by decide +kernel, by decide +kernel, by decide +kernel, by decide +kernel, by decide +kernel, by decide +kernel, by decide +kernel, by decide +kernel, by decide +kernel, by decide +kernel⟩,
   ⟨(1), (vs_Waves_2), (vp_Waves_2), (va_Waves_2), by decide +kernel, by decide +kernel, by decide +kernel, by decide +kernel, by decide +kernel, by decide +kernel, by decide +kernel, by decide +kernel, by decide +kernel, by decide +kernel, by decide +kernel, by decide +kernel⟩⟩

def vj_PipelineQuery_0 : Job := jb 0 5 1 (D [(0, 0x17), (8, 1025)])
def vp_PipelineQuery_0 : Pipe := { pipe0 with waves := 2 ^ 24 + 3, pending := 5, late := 70000 }
def vs_PipelineQuery_0 : State := { withPipe vp_PipelineQuery_0 with ring := { full.ring with jobs := [vj_PipelineQuery_0] } }
def vj_PipelineQuery_1 : Job := jb 0 5 1 (D [(0, 0x17), (8, 1025)])
def vs_PipelineQuery_1 : State := fjobs [vj_PipelineQuery_1]
theorem witness_PipelineQuery :
    (∃ (sr : Nat), ∃ (tag : Nat), ∃ (s : State), ∃ (j : Job), ∃ (pn : Nat), ∃ (p : Pipe), s.ready sr tag 0x17 j ∧ rsvdZero j.desc [(8, 4)] = true ∧ s.pipeOf (dby j.desc 8 4) j.slice = some (pn, p)) ∧
    (∃ (sr : Nat), ∃ (tag : Nat), ∃ (s : State), ∃ (j : Job), s.ready sr tag 0x17 j ∧ rsvdZero j.desc [(8, 4)] = true ∧ s.pipeOf (dby j.desc 8 4) j.slice = none) :=
  ⟨⟨(0), (5), (vs_PipelineQuery_0), (vj_PipelineQuery_0), (1), (vp_PipelineQuery_0), ready_of (by decide +kernel), by decide +kernel, by decide +kernel⟩,
   ⟨(0), (5), (vs_PipelineQuery_1), (vj_PipelineQuery_1), ready_of (by decide +kernel), by decide +kernel, by decide +kernel⟩⟩

def vs_TimelineClock_0 : State := ({ base with tln := { base.tln with map := some ({ gen := 4, stations := [⟨zeroBytes 16, 0, true⟩, ⟨zeroBytes 16, 0, true⟩], map := [(5, 0)] } : Remap) } } : State)
def vs_TimelineClock_4 : State := setRegs (base) [(R.TLN_CTRL, 1), (R.TLN_STATUS, 1)]
def vs_TimelineClock_5 : State := setRegs (base) [(R.TLN_CTRL, 1), (R.TLN_STATUS, 1)]
def vs_TimelineClock_6 : State := setRegs (base) [(R.TLN_CTRL, 1), (R.TLN_STATUS, 1)]
def vs_TimelineClock_7 : State := setRegs (base) [(R.TLN_CTRL, 5), (R.TLN_STATUS, 1)]
def vmarks_TimelineClock_8 : List (Nat × Nat × Nat) := [(3, 0, 1000000100)]
def voffs_TimelineClock_8 : List Int := [(-1000000100 + (base.timeNs : Int)) - (Config.pathDelay 19 : Int)]
def vs_TimelineClock_8 : State := setRegs (base) [(R.TLN_CTRL, 1), (R.TLN_STATUS, 2), (R.DNX_LINK 15, 2), (R.DNX_STATUS 15, 5)]
def vs_TimelineClock_9 : State := setRegs (base) [(R.TLN_STATUS, 2)]
def vs_TimelineClock_10 : State := setRegs (base) [(R.TLN_STATUS, 3)]
def vs_TimelineClock_11 : State := setRegs (base) [(R.TLN_STATUS, 3), (R.TLN_HOLDOVER, 2000)]
def vs_GatesAndWindows_0 : State := ({ base with tln := { base.tln with sched := some ({ id := 3, index := 0, cycle := 1048576, gates := [(1, [(3, 524288), (5, 524288)])], wins := [⟨0, 4096, 1, 0, false, 9, 8⟩] } : Sched), gatePos := [(1, (1, 5))] } } : State)
def vd_GatesAndWindows_0 : Sched := ({ id := 3, index := 0, cycle := 1048576, gates := [(1, [(3, 524288), (5, 524288)])], wins := [⟨0, 4096, 1, 0, false, 9, 8⟩] } : Sched)
def ves_GatesAndWindows_0 : List (Nat × Nat) := [(3, 524288), (5, 524288)]
def vs_GatesAndWindows_1 : State := ({ base with tln := { base.tln with sched := some ({ id := 3, index := 0, cycle := 1048576, gates := [(1, [(3, 524288), (5, 524288)])], wins := [⟨0, 4096, 1, 0, false, 9, 8⟩] } : Sched) } } : State)
def vd_GatesAndWindows_1 : Sched := ({ id := 3, index := 0, cycle := 1048576, gates := [(1, [(3, 524288), (5, 524288)])], wins := [⟨0, 4096, 1, 0, false, 9, 8⟩] } : Sched)
def vx_GatesAndWindows_1 : Win := ⟨0, 4096, 1, 0, false, 9, 8⟩
def vs_GatesAndWindows_2 : State := setRegs (({ base with tln := { base.tln with sched := some ({ id := 3, index := 0, cycle := 1048576, gates := [(1, [(3, 524288), (5, 524288)])], wins := [⟨0, 4096, 1, 0, false, 9, 8⟩] } : Sched) } } : State)) [(R.TLN_STATUS, 12)]
def vd_GatesAndWindows_2 : Sched := ({ id := 3, index := 0, cycle := 1048576, gates := [(1, [(3, 524288), (5, 524288)])], wins := [⟨0, 4096, 1, 0, false, 9, 8⟩] } : Sched)
def vx_GatesAndWindows_2 : Win := ⟨0, 4096, 1, 0, false, 9, 8⟩
def vs_GatesAndWindows_3 : State := ({ base with tln := { base.tln with sched := some ({ id := 3, index := 0, cycle := 1048576, gates := [(1, [(3, 524288), (5, 524288)])], wins := [⟨0, 4096, 1, 0, false, 9, 8⟩] } : Sched), openWins := [(0, 8)] } } : State)
def vd_GatesAndWindows_3 : Sched := ({ id := 3, index := 0, cycle := 1048576, gates := [(1, [(3, 524288), (5, 524288)])], wins := [⟨0, 4096, 1, 0, false, 9, 8⟩] } : Sched)
def vx_GatesAndWindows_3 : Win := ⟨0, 4096, 1, 0, false, 9, 8⟩
def vs_GatesAndWindows_4 : State := ({ base with tln := { base.tln with sched := some ({ id := 3, index := 0, cycle := 1048576, gates := [(1, [(3, 524288), (5, 524288)])], wins := [⟨0, 4096, 1, 0, false, 9, 8⟩] } : Sched), openWins := [(0, 8)] } } : State)
def vd_GatesAndWindows_4 : Sched := ({ id := 3, index := 0, cycle := 1048576, gates := [(1, [(3, 524288), (5, 524288)])], wins := [⟨0, 4096, 1, 0, false, 9, 8⟩] } : Sched)
def vx_GatesAndWindows_4 : Win := ⟨0, 4096, 1, 0, false, 9, 8⟩
def vs_GatesAndWindows_5 : State := ({ base with tln := { base.tln with sched := some ({ id := 3, index := 0, cycle := 1048576, gates := [(1, [(3, 524288), (5, 524288)])], wins := [⟨0, 4096, 1, 0, false, 9, 8⟩] } : Sched), openWins := [(0, 7)] } } : State)
def vd_GatesAndWindows_5 : Sched := ({ id := 3, index := 0, cycle := 1048576, gates := [(1, [(3, 524288), (5, 524288)])], wins := [⟨0, 4096, 1, 0, false, 9, 8⟩] } : Sched)
def vx_GatesAndWindows_5 : Win := ⟨0, 4096, 1, 0, false, 9, 8⟩
theorem witness_TimelineClockAndGates :
    (∃ (s : State), (∀ m, s.tln.map = some m → ∀ e ∈ s.tmt.qps, e.2.sched = false)) ∧
    (∃ (port : Nat), ∃ (kind : Nat), ∃ (off : Int), ∃ (s : State), s.rf R.TLN_CTRL 0 1 = 1 ∧ kind ∈ [0, 3, 8, 9, 10] ∧ (s.rf R.TLN_CTRL 2 2 = 0 ∨ s.rf R.TLN_CTRL 2 2 = 3) ∧ s.coreState 1 ≠ 3) ∧
    (∃ (port : Nat), ∃ (kind : Nat), ∃ (off : Int), ∃ (s : State), s.rf R.TLN_CTRL 0 1 = 1 ∧ kind < 4) ∧
    (∃ (port : Nat), ∃ (kind : Nat), ∃ (off : Int), ∃ (s : State), s.rf R.TLN_CTRL 0 1 = 1 ∧ kind = 1 ∧ s.rf R.TLN_CTRL 2 2 ≠ 2) ∧
    (∃ (port : Nat), ∃ (kind : Nat), ∃ (off : Int), ∃ (s : State), s.rf R.TLN_CTRL 0 1 = 1 ∧ s.rf R.TLN_CTRL 2 2 = 1) ∧
    (∃ (marks : List (Nat × Nat × Nat)), ∃ (offs : List Int), ∃ (s : State), s.rf R.TLN_CTRL 0 1 = 1 ∧ s.aloneInDomain = false ∧ s.coreState 1 ≠ 3 ∧ (offs = s.beatOffsets (marks.filter (fun m => m.2.1 % 2 ^ 16 = s.rf R.TLN_DOMAIN 0 16)))) ∧
    (∃ (s : State), s.aloneInDomain = false ∧ s.rf R.TLN_STATUS 0 2 = 2) ∧
    (∃ (s : State), ∃ (ms : Nat), s.rf R.TLN_STATUS 0 2 = 3 ∧ ms = (if s.rf R.TLN_HOLDOVER 0 16 = 0 then 200 else s.rf R.TLN_HOLDOVER 0 16) ∧ s.tln.holdSince + ms * 10 ^ 6 ≤ s.timeNs ∧ s.mgt.events.length < 255) ∧
    (∃ (s : State), ∃ (ms : Nat), s.rf R.TLN_STATUS 0 2 = 3 ∧ ms = (if s.rf R.TLN_HOLDOVER 0 16 = 0 then 200 else s.rf R.TLN_HOLDOVER 0 16) ∧ s.timeNs < s.tln.holdSince + ms * 10 ^ 6) ∧
    (∃ (port : Nat), ∃ (s : State), ∃ (d : Sched), ∃ (es : List (Nat × Nat)), s.tln.sched = some d ∧ Tbl.find d.gates port = some es ∧ 0 < d.cycle ∧ (es.map Prod.snd).sum = d.cycle) ∧
    (∃ (w : Nat), ∃ (s : State), ∃ (d : Sched), ∃ (x : Win), s.tln.sched = some d ∧ d.wins[w]? = some x ∧ x.rx = false ∧ s.tln.closed = false ∧ s.rf R.TLN_STATUS 2 2 ≠ roleDetached ∧ s.rf R.TLN_STATUS 2 2 ≠ roleSpare) ∧
    (∃ (w : Nat), ∃ (s : State), ∃ (d : Sched), ∃ (x : Win), s.tln.sched = some d ∧ d.wins[w]? = some x ∧ x.rx = false ∧ s.tln.closed = false ∧ (s.rf R.TLN_STATUS 2 2 = roleDetached ∨ s.rf R.TLN_STATUS 2 2 = roleSpare)) ∧
    (∃ (w : Nat), ∃ (sent : Nat), ∃ (s : State), ∃ (d : Sched), ∃ (x : Win), s.tln.sched = some d ∧ d.wins[w]? = some x ∧ Tbl.find s.tln.openWins w = some sent) ∧
    (∃ (w : Nat), ∃ (sent : Nat), ∃ (s : State), ∃ (d : Sched), ∃ (x : Win), s.tln.sched = some d ∧ d.wins[w]? = some x ∧ Tbl.find s.tln.openWins w = some sent ∧ (s.pull (fun _ v => v = w)).2 = [] ∧ x.crumbs ≤ sent) ∧
    (∃ (w : Nat), ∃ (sent : Nat), ∃ (s : State), ∃ (d : Sched), ∃ (x : Win), s.tln.sched = some d ∧ d.wins[w]? = some x ∧ Tbl.find s.tln.openWins w = some sent ∧ (s.pull (fun _ v => v = w)).2 = [] ∧ sent < x.crumbs) :=
  ⟨⟨(vs_TimelineClock_0), by decide +kernel⟩,
   ⟨(3), (0), (-16), (vs_TimelineClock_4), by decide +kernel, by decide +kernel, by decide +kernel, by decide +kernel⟩,
   ⟨(3), (0), (-16), (vs_TimelineClock_5), by decide +kernel, by decide +kernel⟩,
   ⟨(3), (1), (-16), (vs_TimelineClock_6), by decide +kernel, by decide +kernel, by decide +kernel⟩,
   ⟨(3), (0), (-16), (vs_TimelineClock_7), by decide +kernel, by decide +kernel⟩,
   ⟨(vmarks_TimelineClock_8), (voffs_TimelineClock_8), (vs_TimelineClock_8), by decide +kernel, by decide +kernel, by decide +kernel, rfl⟩,
   ⟨(vs_TimelineClock_9), by decide +kernel, by decide +kernel⟩,
   ⟨(vs_TimelineClock_10), (200), by decide +kernel, by decide +kernel, by decide +kernel, by decide +kernel⟩,
   ⟨(vs_TimelineClock_11), (2000), by decide +kernel, by decide +kernel, by decide +kernel⟩,
   ⟨(1), (vs_GatesAndWindows_0), (vd_GatesAndWindows_0), (ves_GatesAndWindows_0), by decide +kernel, by decide +kernel, by decide +kernel, by decide +kernel⟩,
   ⟨(0), (vs_GatesAndWindows_1), (vd_GatesAndWindows_1), (vx_GatesAndWindows_1), by decide +kernel, by decide +kernel, by decide +kernel, by decide +kernel, by decide +kernel, by decide +kernel⟩,
   ⟨(0), (vs_GatesAndWindows_2), (vd_GatesAndWindows_2), (vx_GatesAndWindows_2), by decide +kernel, by decide +kernel, by decide +kernel, by decide +kernel, by decide +kernel⟩,
   ⟨(0), (8), (vs_GatesAndWindows_3), (vd_GatesAndWindows_3), (vx_GatesAndWindows_3), by decide +kernel, by decide +kernel, by decide +kernel⟩,
   ⟨(0), (8), (vs_GatesAndWindows_4), (vd_GatesAndWindows_4), (vx_GatesAndWindows_4), by decide +kernel, by decide +kernel, by decide +kernel, by decide +kernel, by decide +kernel⟩,
   ⟨(0), (7), (vs_GatesAndWindows_5), (vd_GatesAndWindows_5), (vx_GatesAndWindows_5), by decide +kernel, by decide +kernel, by decide +kernel, by decide +kernel, by decide +kernel⟩⟩

def vs_StagingAndActivation_0 : State := setRegs ({ full with mem := { full.mem with bytes := Mem.write [] (5 * 2097152) schedBytes } }) [(R.TLN_STAGE_BASE, 5 * 2097152)]
def vs1_StagingAndActivation_0 : State := resSt (vs_StagingAndActivation_0.readDpa (vs_StagingAndActivation_0.rf R.TLN_STAGE_BASE 12 52 * 4096) 128)
def vh_StagingAndActivation_0 : List Byte := resVal (vs_StagingAndActivation_0.readDpa (vs_StagingAndActivation_0.rf R.TLN_STAGE_BASE 12 52 * 4096) 128)
def vb_StagingAndActivation_0 : List Byte := resVal (vs1_StagingAndActivation_0.readDpa (vs_StagingAndActivation_0.rf R.TLN_STAGE_BASE 12 52 * 4096) (max 128 (leAt vh_StagingAndActivation_0 24 4)))
def vs2_StagingAndActivation_0 : State := resSt (vs1_StagingAndActivation_0.readDpa (vs_StagingAndActivation_0.rf R.TLN_STAGE_BASE 12 52 * 4096) (max 128 (leAt vh_StagingAndActivation_0 24 4)))
def vs_StagingAndActivation_1 : State := ({ base with tln := { base.tln with slots := [(0, ⟨1, 0, schedBytes, false, none⟩)] } } : State)
def vs_StagingAndActivation_2 : State := ({ base with tln := { base.tln with slots := [(0, ⟨1, 0, zeroBytes 128, false, none⟩)] } } : State)
def vs_StagingAndActivation_3 : State := setRegs (({ base with tln := { base.tln with slots := [(0, ⟨2, 0, schedBytes, true, none⟩)] } } : State)) [(R.TLN_STATUS, 2), (R.TLN_STAGE_EPOCH, 2000)]
def vs_StagingAndActivation_4 : State := ({ base with tln := { base.tln with slots := [(0, ⟨4, 0, schedBytes, true, some 955⟩)] } } : State)
def vs_StagingAndActivation_5 : State := ({ base with tln := { base.tln with slots := [(0, ⟨4, 0, schedBytes, true, some 954⟩)] } } : State)
def vs_StagingAndActivation_6 : State := ({ base with tln := { base.tln with slots := [(0, ⟨4, 0, schedBytes, true, some 953⟩)] } } : State)
theorem witness_StagingAndActivation :
    (∃ (s : State), ∃ (s1 : State), ∃ (s2 : State), ∃ (h : List Byte), ∃ (b : List Byte), s.stageKind = 0 ∧ (s.tlnSlot 0).code ≠ 1 ∧ (s.tlnSlot 0).armed = none ∧ s.rf R.TLN_STAGE_BASE 12 52 * 4096 + 128 ≤ 0x48000000000 ∧ s.readDpa (s.rf R.TLN_STAGE_BASE 12 52 * 4096) 128 = .ok s1 h ∧ s.rf R.TLN_STAGE_BASE 12 52 * 4096 + max 128 (leAt h 24 4) ≤ 0x48000000000 ∧ s1.readDpa (s.rf R.TLN_STAGE_BASE 12 52 * 4096) (max 128 (leAt h 24 4)) = .ok s2 b) ∧
    (∃ (s : State), (s.tlnSlot 0).code = 1 ∧ s.schedBad 0 (s.tlnSlot 0).bytes = none) ∧
    (∃ (s : State), ∃ d, (s.tlnSlot 0).code = 1 ∧ s.schedBad 0 (s.tlnSlot 0).bytes = some d) ∧
    (∃ (s : State), s.stageKind < 2) ∧
    (∃ (s : State), ∃ (e : Nat), (s.tlnSlot s.stageKind).armed = some e ∧ s.epoch + 1 < e) ∧
    (∃ (s : State), ∃ (e : Nat), (s.tlnSlot s.stageKind).armed = some e ∧ e ≤ s.epoch + 1) ∧
    (∃ (s : State), ∃ (e : Nat), (s.tlnSlot 0).armed = some e ∧ e ≤ s.epoch ∧ (s.tlnSlot 1).armed = none) :=
  ⟨⟨(vs_StagingAndActivation_0), (vs1_StagingAndActivation_0), (vs2_StagingAndActivation_0), (vh_StagingAndActivation_0), (vb_StagingAndActivation_0), by decide +kernel, by decide +kernel, by decide +kernel, by decide +kernel, res_ok _ (by decide +kernel), by decide +kernel, res_ok _ (by decide +kernel)⟩,
   ⟨(vs_StagingAndActivation_1), by decide +kernel, by decide +kernel⟩,
   ⟨(vs_StagingAndActivation_2), ((vs_StagingAndActivation_2.schedBad 0 (vs_StagingAndActivation_2.tlnSlot 0).bytes).get (by decide +kernel)), by decide +kernel, by decide +kernel⟩,
   ⟨(vs_StagingAndActivation_3), by decide +kernel⟩,
   ⟨(vs_StagingAndActivation_4), (955), by decide +kernel, by decide +kernel⟩,
   ⟨(vs_StagingAndActivation_5), (954), by decide +kernel, by decide +kernel⟩,
   ⟨(vs_StagingAndActivation_6), (953), by decide +kernel, by decide +kernel, by decide +kernel⟩⟩

def vs_CollectiveDescriptors_0 : State := setRegs ({ fjobs [jb 0 5 1 (D [(0, 32), (16, 65537)])] with mem := { full.mem with bytes := memAt (5 * 2097152) planBytes } }) [(R.SLC_QUOTA 1, slice0Quota), (R.FWC_AGREED, 255), (R.TLN_STATUS, 4 + 5 * 16)]
def vs1_CollectiveDescriptors_0 : State := vs_CollectiveDescriptors_0
def vs2_CollectiveDescriptors_0 : State := vs_CollectiveDescriptors_0
def vs3_CollectiveDescriptors_0 : State := vs_CollectiveDescriptors_0
def vs4_CollectiveDescriptors_0 : State := vs_CollectiveDescriptors_0
def vj_CollectiveDescriptors_0 : Job := jb 0 5 1 (D [(0, 32), (16, 65537)])
def vh_CollectiveDescriptors_0 : List Byte := planBytes.take 128
def vimg_CollectiveDescriptors_0 : Image := imageOf (vs_CollectiveDescriptors_0) imgBytes
def vs_CollectiveDescriptors_1 : State := withPlan (plan0) pipe0 [jb 0 5 1 (D [(0, 33), (16, 2), (24, 3), (28, 65537), (40, 65539), (48, 64)])]
def vj_CollectiveDescriptors_1 : Job := jb 0 5 1 (D [(0, 33), (16, 2), (24, 3), (28, 65537), (40, 65539), (48, 64)])
def vs_CollectiveDescriptors_2 : State := withPlan (plan0) pipe0 [jb 0 5 1 (D [(0, 34)])]
def vj_CollectiveDescriptors_2 : Job := jb 0 5 1 (D [(0, 34)])
def vs_CollectiveDescriptors_3 : State := withPlan ({ plan0 with state := 3, stopped := [3] }) pipe0 [jb 0 5 1 (D [(0, 35)])]
def vj_CollectiveDescriptors_3 : Job := jb 0 5 1 (D [(0, 35)])
def vp_CollectiveDescriptors_3 : Plan := { plan0 with state := 3, stopped := [3] }
def vs_CollectiveDescriptors_4 : State := withPlan ({ plan0 with resid := [[(0, 5)]], residN := [1] }) pipe0 [jb 0 5 1 (D [(0, 36)])]
def vj_CollectiveDescriptors_4 : Job := jb 0 5 1 (D [(0, 36)])
def vp_CollectiveDescriptors_4 : Plan := { plan0 with resid := [[(0, 5)]], residN := [1] }
def vs_CollectiveDescriptors_5 : State := withPlan ({ plan0 with resid := [[(0, 5)]], residN := [1] }) pipe0 [jb 0 5 1 (D [(0, 36), (12, 1), (16, 65537), (24, 64)])]
def vj_CollectiveDescriptors_5 : Job := jb 0 5 1 (D [(0, 36), (12, 1), (16, 65537), (24, 64)])
def vp_CollectiveDescriptors_5 : Plan := { plan0 with resid := [[(0, 5)]], residN := [1] }
def vs_CollectiveDescriptors_6 : State := withPlan ({ plan0 with resid := [[(0, 5)]], residN := [1] }) pipe0 [jb 0 5 1 (D [(0, 36), (12, 2), (16, 65537), (24, 64)])]
def vj_CollectiveDescriptors_6 : Job := jb 0 5 1 (D [(0, 36), (12, 2), (16, 65537), (24, 64)])
def vp_CollectiveDescriptors_6 : Plan := { plan0 with resid := [[(0, 5)]], residN := [1] }
def vs_CollectiveDescriptors_7 : State := withPlan ({ plan0 with residN := [2^32, 1], queue := [cst0] }) pipe0 [jb 0 5 1 (D [(0, 37)])]
def vj_CollectiveDescriptors_7 : Job := jb 0 5 1 (D [(0, 37)])
def vp_CollectiveDescriptors_7 : Plan := { plan0 with residN := [2^32, 1], queue := [cst0] }
def vs_CollectiveSteps_0 : State := withPlan ({ plan0 with queue := [cst0] }) pipe0 []
def vp_CollectiveSteps_0 : Plan := { plan0 with queue := [cst0] }
def vs_CollectiveSteps_1 : State := withPlan ({ plan0 with queue := [cst0], qps := [(3, 9)], checked := [(9, Config.stepCheck 7 3 2 + 1)] }) pipe0 [jb 0 6 1 0x21]
def vp_CollectiveSteps_1 : Plan := { plan0 with queue := [cst0], qps := [(3, 9)], checked := [(9, Config.stepCheck 7 3 2 + 1)] }
def vs_CollectiveSteps_2 : State := { withPlan ({ plan0 with state := 2, current := some cst0 }) pipe0 [jb 0 6 1 0x21] with freeCtr := 2 }
def vs1_CollectiveSteps_2 : State := vs_CollectiveSteps_2
def vs2_CollectiveSteps_2 : State := vs_CollectiveSteps_2
def vp_CollectiveSteps_2 : Plan := { plan0 with state := 2, current := some cst0 }
def vp2_CollectiveSteps_2 : Plan := { plan0 with state := 2, current := some cst0 }
def vd0_CollectiveSteps_2 : Done := ((({ plan0 with state := 2, current := some cst0 } : Plan).compute cst0 ⟨[0, 0], []⟩ []).get (by decide +kernel))
def vd_CollectiveSteps_2 : Done := ((({ plan0 with state := 2, current := some cst0 } : Plan).compute cst0 ⟨[0, 0], []⟩ []).get (by decide +kernel))
def vps_CollectiveSteps_2 : Pieces := (((({ plan0 with state := 2, current := some cst0 } : Plan).compute cst0 ⟨[0, 0], []⟩ []).get (by decide +kernel)).out).get (by decide +kernel)
def vs3_CollectiveSteps_2 : State := ((vs_CollectiveSteps_2).writeElems (ownerNum 0 6) (rgA 1 7) 64 1 (vd_CollectiveSteps_2).len (vps_CollectiveSteps_2)).1
def vs4_CollectiveSteps_2 : State := vs3_CollectiveSteps_2
def vs_CollectiveSteps_3 : State := { withPlan ({ plan0 with state := 2, current := some cst0 }) pipe0 [jb 0 6 1 0x21] with freeCtr := 2 }
def vp_CollectiveSteps_3 : Plan := { plan0 with state := 2, current := some cst0 }
theorem witness_Collectives :
    (∃ (sr : Nat), ∃ (tag : Nat), ∃ (pn : Nat), ∃ (n : Nat), ∃ (s : State), ∃ (s1 : State), ∃ (s2 : State), ∃ (s3 : State), ∃ (s4 : State), ∃ (j : Job), ∃ (r : Region), ∃ (h : List Byte), ∃ (b : List Byte), ∃ (img : Image), s.ready sr tag 0x20 j ∧ s.feature 3 = true ∧ rsvdZero j.desc [(8, 12), (20, 32)] = true ∧ s.region (dby j.desc 16 4) j.slice = some r ∧ dby j.desc 8 8 + 128 ≤ r.dataBytes ∧ s.readRegion r (dby j.desc 8 8) 128 = .ok s1 h ∧ 128 ≤ leAt h 16 4 ∧ dby j.desc 8 8 + leAt h 16 4 ≤ r.dataBytes ∧ s1.readRegion r (dby j.desc 8 8) (leAt h 16 4) = .ok s2 b ∧ planOk b = true ∧ s2.rf R.TLN_STATUS 2 2 = 1 ∧ s2.rf R.TLN_STATUS 4 10 = leAt b 6 2 ∧ (planOf j.slice b ((List.range 8).map (fun i => dby j.desc (20 + 4 * i) 4)) 0).phases.any (comboBad (leAt b 12 2)) = false ∧ (s2.cryptBad (planOf j.slice b ((List.range 8).map (fun i => dby j.desc (20 + 4 * i) 4)) 0) = false) ∧ (planOf j.slice b ((List.range 8).map (fun i => dby j.desc (20 + 4 * i) 4)) 0).qps.all (s2.planQpOk (planOf j.slice b ((List.range 8).map (fun i => dby j.desc (20 + 4 * i) 4)) 0)) = true ∧ (s2.checkImage j.slice (dby j.desc 8 8 + leAt b 28 4) (dby j.desc 16 4) ((List.range 8).map (fun i => dby j.desc (20 + 4 * i) 4)) = .ok s3 img) ∧ lowestFree s3.pipes.tab 0 1024 = some pn ∧ lowestFree s3.colls.plans 0 256 = some n ∧ s3.quotaRoom j.slice 7 1 = true ∧ s3.hubsReady img = true ∧ (s3.residOut (ownerNum j.sr j.tag) j.slice (planOf j.slice b ((List.range 8).map (fun i => dby j.desc (20 + 4 * i) 4)) 0) [0, 1] = (s4, none))) ∧
    (∃ (sr : Nat), ∃ (tag : Nat), ∃ (n : Nat), ∃ (s : State), ∃ (j : Job), ∃ (p : Plan), ∃ q, s.feature 3 = true ∧ s.collOf (dby j.desc 8 4) j.slice = some (n, p) ∧ s.ready sr tag 0x21 j ∧ rsvdZero j.desc [(8, 4), (12, 1), (16, 40)] = true ∧ dby j.desc 12 1 < 2 ∧ (∀ k, (stepOf j p).onDone = some k → (s.counterOf k j.slice).isSome = true) ∧ dby j.desc 16 8 ≠ 0 ∧ dby j.desc 16 8 ≤ 2 ^ 40 ∧ dby j.desc 32 8 % 64 = 0 ∧ dby j.desc 48 8 % 64 = 0 ∧ (s.region (dby j.desc 28 4) j.slice).isSome = true ∧ (s.region (dby j.desc 40 4) j.slice).isSome = true ∧ s.bound (dby j.desc 40 4) = false ∧ p.stopped.contains (dby j.desc 24 4) = false ∧ p.state = 1 ∧ p.checked = [] ∧ Tbl.find s.pipes.tab p.pipe = some q) ∧
    (∃ (sr : Nat), ∃ (tag : Nat), ∃ (n : Nat), ∃ (s : State), ∃ (j : Job), ∃ (p : Plan), s.feature 3 = true ∧ s.collOf (dby j.desc 8 4) j.slice = some (n, p) ∧ s.ready sr tag 0x22 j ∧ rsvdZero j.desc [(8, 4)] = true ∧ p.state ≠ 2) ∧
    (∃ (sr : Nat), ∃ (tag : Nat), ∃ (n : Nat), ∃ (s : State), ∃ (j : Job), ∃ (p : Plan), s.feature 3 = true ∧ s.collOf (dby j.desc 8 4) j.slice = some (n, p) ∧ s.ready sr tag 0x23 j ∧ rsvdZero j.desc [(8, 4)] = true ∧ p.state = 3) ∧
    (∃ (sr : Nat), ∃ (tag : Nat), ∃ (n : Nat), ∃ (s : State), ∃ (j : Job), ∃ (p : Plan), ∃ s1, s.feature 3 = true ∧ s.collOf (dby j.desc 8 4) j.slice = some (n, p) ∧ s.ready sr tag 0x24 j ∧ rsvdZero j.desc [(8, 4), (12, 1), (16, 4), (24, 8)] = true ∧ dby j.desc 12 1 = 0 ∧ p.state ≠ 2 ∧ (s.residOut (ownerNum j.sr j.tag) j.slice { p with resid := p.resid.map (fun _ => []) } [0, 1] = (s1, none)) ∧ s1.allLanded sr tag) ∧
    (∃ (sr : Nat), ∃ (tag : Nat), ∃ (n : Nat), ∃ (s : State), ∃ (j : Job), ∃ (p : Plan), ∃ s1, ∃ s2, ∃ p1, ∃ m, ∃ r, s.feature 3 = true ∧ s.collOf (dby j.desc 8 4) j.slice = some (n, p) ∧ s.ready sr tag 0x24 j ∧ rsvdZero j.desc [(8, 4), (12, 1), (16, 4), (24, 8)] = true ∧ dby j.desc 12 1 = 1 ∧ p.state ≠ 2 ∧ s.region (dby j.desc 16 4) j.slice = some r ∧ s.bound (dby j.desc 16 4) = false ∧ s.residIn p = .ok s1 p1 ∧ s1.writeRegion r (dby j.desc 24 8) p1.residBytes (ownerNum sr tag) = (s2, m, none) ∧ s2.allLanded sr tag) ∧
    (∃ (sr : Nat), ∃ (tag : Nat), ∃ (n : Nat), ∃ (s : State), ∃ (j : Job), ∃ (p : Plan), ∃ s1, ∃ s2, ∃ b, ∃ r, s.feature 3 = true ∧ s.collOf (dby j.desc 8 4) j.slice = some (n, p) ∧ s.ready sr tag 0x24 j ∧ rsvdZero j.desc [(8, 4), (12, 1), (16, 4), (24, 8)] = true ∧ dby j.desc 12 1 = 2 ∧ p.state ≠ 2 ∧ s.region (dby j.desc 16 4) j.slice = some r ∧ s.readRegion r (dby j.desc 24 8) (8 * p.residCount) = .ok s1 b ∧ s1.residOut (ownerNum j.sr j.tag) j.slice (p.fromBytes b) [0, 1] = (s2, none) ∧ s2.allLanded sr tag) ∧
    (∃ (sr : Nat), ∃ (tag : Nat), ∃ (n : Nat), ∃ (s : State), ∃ (j : Job), ∃ (p : Plan), s.feature 3 = true ∧ s.collOf (dby j.desc 8 4) j.slice = some (n, p) ∧ s.ready sr tag 0x25 j ∧ rsvdZero j.desc [(8, 4)] = true) ∧
    (∃ (n : Nat), ∃ (s : State), ∃ (p : Plan), ∃ (c : CStep), ∃ (rest : List CStep), ∃ (q : Pipe), Tbl.find s.colls.plans n = some p ∧ p.current = none ∧ p.queue = c :: rest ∧ p.state ≠ 3 ∧ Tbl.find s.pipes.tab p.pipe = some q ∧ p.checked = []) ∧
    (∃ (n : Nat), ∃ (s : State), ∃ (p : Plan), ∃ (c : CStep), ∃ (rest : List CStep), ∃ (q : Pipe), ∃ r, ∃ qn, ∃ x, ∃ j, Tbl.find s.colls.plans n = some p ∧ p.current = none ∧ p.queue = c :: rest ∧ p.state ≠ 3 ∧ Tbl.find s.pipes.tab p.pipe = some q ∧ p.qps = [(r, qn)] ∧ p.checked = [(qn, x)] ∧ x % 2 ^ 64 ≠ Config.stepCheck p.planId c.step c.count % 2 ^ 64 ∧ s.job c.sr c.tag = some j) ∧
    (∃ (n : Nat), ∃ (arr : List (List Byte)), ∃ (s : State), ∃ (s1 : State), ∃ (s2 : State), ∃ (s3 : State), ∃ (s4 : State), ∃ (p : Plan), ∃ (p2 : Plan), ∃ (c : CStep), ∃ (q : Pipe), ∃ (ri : Region), ∃ (ro : Region), ∃ (e : Elems), ∃ (d0 : Done), ∃ (d : Done), ∃ (ps : Pieces), ∃ (j : Job), ∃ (f : CPhase), ∃ (l : CPhase), Tbl.find s.colls.plans n = some p ∧ p.current = some c ∧ Tbl.find s.pipes.tab p.pipe = some q ∧ q.wave = none ∧ s.region c.inRegion p.slice = some ri ∧ s.region c.outRegion p.slice = some ro ∧ p.phases.head? = some f ∧ p.phases.getLast? = some l ∧ s.readElems ri c.inOff f.elem (CEnv.inLen ⟨f, p.ranks.length, p.ranks.idxOf p.deviceIndex, c.count, p.seed, c.step, 0⟩) = .ok s1 e ∧ p.compute c e arr = some d0 ∧ s1.residIn (p.withCounts d0) = .ok s2 p2 ∧ p2.compute c e arr = some d ∧ d.out = some ps ∧ s2.writeElems (ownerNum c.sr c.tag) ro c.outOff l.elem d.len ps = (s3, none) ∧ s3.residOut (ownerNum c.sr c.tag) p2.slice { p2 with resid := d.resids } [1 - c.step % 2] = (s4, none) ∧ c.onDone = none ∧ s4.job c.sr c.tag = some j ∧ s4.allLanded c.sr c.tag ∧ Tbl.find s4.colls.plans n = some p) ∧
    (∃ (n : Nat), ∃ (s : State), ∃ (p : Plan), ∃ (c : CStep), ∃ (j : Job), Tbl.find s.colls.plans n = some p ∧ p.current = some c ∧ s.job c.sr c.tag = some j) :=
  ⟨⟨(0), (5), (0), (0), (vs_CollectiveDescriptors_0), (vs1_CollectiveDescriptors_0), (vs2_CollectiveDescriptors_0), (vs3_CollectiveDescriptors_0), (vs4_CollectiveDescriptors_0), (vj_CollectiveDescriptors_0), (rgA 1 5), (vh_CollectiveDescriptors_0), (planBytes), (vimg_CollectiveDescriptors_0), ready_of (by decide +kernel), by decide +kernel, by decide +kernel, by decide +kernel, by decide +kernel, res_eq (by decide +kernel), by decide +kernel, by decide +kernel, res_eq (by decide +kernel), by decide +kernel, by decide +kernel, by decide +kernel, by decide +kernel, by decide +kernel, by decide +kernel, img_of (by decide +kernel), by decide +kernel, by decide +kernel, by decide +kernel, by decide +kernel, by decide +kernel⟩,
   ⟨(0), (5), (0), (vs_CollectiveDescriptors_1), (vj_CollectiveDescriptors_1), (plan0), (pipe0), by decide +kernel, by decide +kernel, ready_of (by decide +kernel), by decide +kernel, by decide +kernel, by decide +kernel, by decide +kernel, by decide +kernel, by decide +kernel, by decide +kernel, by decide +kernel, by decide +kernel, by decide +kernel, by decide +kernel, by decide +kernel, by decide +kernel, by decide +kernel⟩,
   ⟨(0), (5), (0), (vs_CollectiveDescriptors_2), (vj_CollectiveDescriptors_2), (plan0), by decide +kernel, by decide +kernel, ready_of (by decide +kernel), by decide +kernel, by decide +kernel⟩,
   ⟨(0), (5), (0), (vs_CollectiveDescriptors_3), (vj_CollectiveDescriptors_3), (vp_CollectiveDescriptors_3), by decide +kernel, by decide +kernel, ready_of (by decide +kernel), by decide +kernel, by decide +kernel⟩,
   ⟨(0), (5), (0), (vs_CollectiveDescriptors_4), (vj_CollectiveDescriptors_4), (vp_CollectiveDescriptors_4), (vs_CollectiveDescriptors_4), by decide +kernel, by decide +kernel, ready_of (by decide +kernel), by decide +kernel, by decide +kernel, by decide +kernel, by decide +kernel, landed_of (by decide +kernel)⟩,
   ⟨(0), (5), (0), (vs_CollectiveDescriptors_5), (vj_CollectiveDescriptors_5), (vp_CollectiveDescriptors_5), (vs_CollectiveDescriptors_5), (((vs_CollectiveDescriptors_5).writeRegion (rgA 1 5) 64 (({ plan0 with resid := [[(0, 5)]], residN := [1] } : Plan).residBytes) (ownerNum 0 5)).1), ({ plan0 with resid := [[(0, 5)]], residN := [1] }), (8), (rgA 1 5), by decide +kernel, by decide +kernel, ready_of (by decide +kernel), by decide +kernel, by decide +kernel, by decide +kernel, by decide +kernel, by decide +kernel, rfl, by decide +kernel, landed_of (by decide +kernel)⟩,
   ⟨(0), (5), (0), (vs_CollectiveDescriptors_6), (vj_CollectiveDescriptors_6), (vp_CollectiveDescriptors_6), (vs_CollectiveDescriptors_6), (vs_CollectiveDescriptors_6), (zeroBytes 8), (rgA 1 5), by decide +kernel, by decide +kernel, ready_of (by decide +kernel), by decide +kernel, by decide +kernel, by decide +kernel, by decide +kernel, res_ok _ (by decide +kernel), by decide +kernel, landed_of (by decide +kernel)⟩,
   ⟨(0), (5), (0), (vs_CollectiveDescriptors_7), (vj_CollectiveDescriptors_7), (vp_CollectiveDescriptors_7), by decide +kernel, by decide +kernel, ready_of (by decide +kernel), by decide +kernel⟩,
   ⟨(0), (vs_CollectiveSteps_0), (vp_CollectiveSteps_0), (cst0), ([]), (pipe0), by decide +kernel, by decide +kernel, by decide +kernel, by decide +kernel, by decide +kernel, by decide +kernel⟩,
   ⟨(0), (vs_CollectiveSteps_1), (vp_CollectiveSteps_1), (cst0), ([]), (pipe0), (3), (9), (Config.stepCheck 7 3 2 + 1), (jb 0 6 1 0x21), rfl, by decide +kernel, by decide +kernel, by decide +kernel, by decide +kernel, by decide +kernel, rfl, by show (Config.stepCheck 7 3 2 + 1) % 2 ^ 64 ≠ Config.stepCheck 7 3 2 % 2 ^ 64; omega, by decide +kernel⟩,
   ⟨(0), ([]), (vs_CollectiveSteps_2), (vs1_CollectiveSteps_2), (vs2_CollectiveSteps_2), (vs3_CollectiveSteps_2), (vs4_CollectiveSteps_2), (vp_CollectiveSteps_2), (vp2_CollectiveSteps_2), (cst0), (pipe0), (rgA 1 5), (rgA 1 7), (⟨[0, 0], []⟩), (vd0_CollectiveSteps_2), (vd_CollectiveSteps_2), (vps_CollectiveSteps_2), (jb 0 6 1 0x21), (ph0), (ph0), by decide +kernel, by decide +kernel, by decide +kernel, by decide +kernel, by decide +kernel, by decide +kernel, by decide +kernel, by decide +kernel, by rfl, by decide +kernel, rfl, by decide +kernel, by decide +kernel, by decide +kernel, by decide +kernel, by decide +kernel, by decide +kernel, landed_of (by decide +kernel), by decide +kernel⟩,
   ⟨(0), (vs_CollectiveSteps_3), (vp_CollectiveSteps_3), (cst0), (jb 0 6 1 0x21), by decide +kernel, by decide +kernel, by decide +kernel⟩⟩

def vs_CopyDescriptors_0 : State := { fjobs [jb 0 5 1 (D [(0, 1), (16, 65537), (20, 2), (32, 65539), (36, 2), (40, 4)])] with mem := { full.mem with bytes := Mem.write [] (5 * 2097152) [1, 2, 3, 4] } }
def vj_CopyDescriptors_0 : Job := jb 0 5 1 (D [(0, 1), (16, 65537), (20, 2), (32, 65539), (36, 2), (40, 4)])
def vbs_CopyDescriptors_0 : List Byte := (match (vs_CopyDescriptors_0).readSource (vj_CopyDescriptors_0) 1 (copyArgs (vj_CopyDescriptors_0).desc) ((vs_CopyDescriptors_0).copyReq (vj_CopyDescriptors_0) 1 (copyArgs (vj_CopyDescriptors_0).desc)) with | .ok _ y => y.1 | _ => [])
def vsc_CopyDescriptors_0 : List Byte := (match (vs_CopyDescriptors_0).readSource (vj_CopyDescriptors_0) 1 (copyArgs (vj_CopyDescriptors_0).desc) ((vs_CopyDescriptors_0).copyReq (vj_CopyDescriptors_0) 1 (copyArgs (vj_CopyDescriptors_0).desc)) with | .ok _ y => y.2 | _ => [])
def vput_CopyDescriptors_0 : List (Nat × List Byte) := ((copyArgs (vj_CopyDescriptors_0).desc).output 1 vbs_CopyDescriptors_0 vsc_CopyDescriptors_0).1
def vs1_CopyDescriptors_0 : State := (match (vs_CopyDescriptors_0).readSource (vj_CopyDescriptors_0) 1 (copyArgs (vj_CopyDescriptors_0).desc) ((vs_CopyDescriptors_0).copyReq (vj_CopyDescriptors_0) 1 (copyArgs (vj_CopyDescriptors_0).desc)) with | .ok t _ => t | _ => base)
def vs2_CopyDescriptors_0 : State := vs1_CopyDescriptors_0
def vs3_CopyDescriptors_0 : State := wioSt ((vs2_CopyDescriptors_0).writeOut (vj_CopyDescriptors_0) (copyArgs (vj_CopyDescriptors_0).desc) ((vs_CopyDescriptors_0).copyReq (vj_CopyDescriptors_0) 1 (copyArgs (vj_CopyDescriptors_0).desc)) (vput_CopyDescriptors_0) 0).1
def vn_CopyDescriptors_0 : Nat := ((vs2_CopyDescriptors_0).writeOut (vj_CopyDescriptors_0) (copyArgs (vj_CopyDescriptors_0).desc) ((vs_CopyDescriptors_0).copyReq (vj_CopyDescriptors_0) 1 (copyArgs (vj_CopyDescriptors_0).desc)) (vput_CopyDescriptors_0) 0).2
def va_CopyDescriptors_2 : CopyArgs := copyArgs (D [(8, 0x0807060504030201), (40, 9)])
def vs_CopyDescriptors_3 : State := fjobs [jb 0 5 1 (D [(0, 2)])]
def vj_CopyDescriptors_3 : Job := jb 0 5 1 (D [(0, 2)])
theorem witness_CopyDescriptors :
    (∃ (c : Nat → Nat → Instr), ∃ (op : Nat), ∃ (sr : Nat), ∃ (tag : Nat), ∃ (n : Nat), ∃ (s : State), ∃ (s1 : State), ∃ (s2 : State), ∃ (s3 : State), ∃ (j : Job), ∃ (bs : List Byte), ∃ (sc : List Byte), ∃ (put : List (Nat × List Byte)), (c, op) ∈ ([(.memCopy, 1), (.memFill, 2), (.memConvert, 3), (.memEncode, 4), (.memDecode, 5)] : List ((Nat → Nat → Instr) × Nat)) ∧ s.ready sr tag op j ∧ rsvdZero j.desc (copyUsed op) = true ∧ dby j.desc 48 1 < 16 ∧ copyLenOk op (copyArgs j.desc) = true ∧ s.readSource j op (copyArgs j.desc) (s.copyReq j op (copyArgs j.desc)) = .ok s1 (bs, sc) ∧ (op < 3 ∨ ((copyArgs j.desc).output op bs sc).1.any ((copyArgs j.desc).overlaps op) = false) ∧ (if s1.aliased j op (copyArgs j.desc) (s.copyReq j op (copyArgs j.desc)) ((copyArgs j.desc).output op bs sc).1 = true then s1.freePieces ((copyArgs j.desc).output op bs sc).1 else (s1, ((copyArgs j.desc).output op bs sc).1)) = (s2, put) ∧ s2.writeOut j (copyArgs j.desc) (s.copyReq j op (copyArgs j.desc)) put 0 = (.ok s3, n) ∧ ((copyArgs j.desc).output op bs sc).2 = none) ∧
    (∃ (a : CopyArgs), ∃ (i : Nat), i < a.len) ∧
    (∃ (c : Nat → Nat → Instr), ∃ (op : Nat), ∃ (sr : Nat), ∃ (tag : Nat), ∃ (s : State), ∃ (j : Job), (c, op) ∈ ([(.memCopy, 1), (.memFill, 2), (.memConvert, 3), (.memEncode, 4), (.memDecode, 5)] : List ((Nat → Nat → Instr) × Nat)) ∧ s.ready sr tag op j ∧ copyLenOk op (copyArgs j.desc) = false) :=
  ⟨⟨(.memCopy), (1), (0), (5), (vn_CopyDescriptors_0), (vs_CopyDescriptors_0), (vs1_CopyDescriptors_0), (vs2_CopyDescriptors_0), (vs3_CopyDescriptors_0), (vj_CopyDescriptors_0), (vbs_CopyDescriptors_0), (vsc_CopyDescriptors_0), (vput_CopyDescriptors_0), by simp, ready_of (by decide +kernel), by decide +kernel, by decide +kernel, by decide +kernel, src_ok _ (by decide +kernel) base, by decide +kernel, by decide +kernel, wn_ok _ (by decide +kernel), by decide +kernel⟩,
   ⟨(va_CopyDescriptors_2), (8), by decide +kernel⟩,
   ⟨(.memFill), (2), (0), (5), (vs_CopyDescriptors_3), (vj_CopyDescriptors_3), by simp, ready_of (by decide +kernel), by decide +kernel⟩⟩

def vbs_EncodedStreamsDecode_0 : List Byte := [0, 0, 1, 2, 3, 0, 0, 0, 0, 0]
theorem witness_EncodedStreamsDecode :
    (∃ (w : Nat), ∃ (bs : List Byte), w ∈ [1, 2, 4, 8] ∧ bs.length % w = 0) :=
  ⟨(2), (vbs_EncodedStreamsDecode_0), by decide +kernel, by decide +kernel⟩

def vs_RegionZeroing_0 : State := { fjobs [jb 0 5 1 0] with mem := { full.mem with zeroing := [(1, 0, 5)], bytes := Mem.write [] (6 * 2097152 - 1) [1, 2] } }
def vo_ScrubsAndUpkeep_0 : Nat := 5 * 2097152 + 64
def vs_ScrubsAndUpkeep_0 : State := { setRegs full [(R.MEM_CTRL 0, 2), (R.MEM_SCRUB_POS 0, 5 * 2097152 + 64)] with mem := { full.mem with regions := [(1, { rgA 1 5 with ecc := true })] } }
def vs_ScrubsAndUpkeep_1 : State := { setRegs full [(R.MEM_CTRL 0, 2), (R.MEM_SCRUB_POS 0, 0x6000000000)] with mem := { full.mem with regions := [(1, { rgA 1 5 with ecc := true })] } }
def vs_ScrubsAndUpkeep_4 : State := fjobs [jb 0 5 1 0]
theorem witness_ScrubsAndZeroing :
    (∃ (n : Nat), ∃ (s : State), ∃ (z : Nat × Nat × Nat), ∃ (r : Region), ∃ (j : Job), (s.mem.zeroing.find? (fun z => z.1 = n) = some z) ∧ Tbl.find s.mem.regions n = some r ∧ s.job z.2.1 z.2.2 = some j ∧ s.noSnap z.2.1 z.2.2) ∧
    (∃ (h : Nat), ∃ (o : Nat), ∃ (s : State), h < 12 ∧ s.rf (R.MEM_CTRL h) 1 1 = 1 ∧ s.rf (R.MEM_STATUS h) 1 1 = 0 ∧ s.dev ≠ .retention ∧ s.scrubNext h (s.rf (R.MEM_SCRUB_POS h) 0 39) = some o ∧ s.mem.bad.contains (checkWord (h * hubBytes + o)) = false) ∧
    (∃ (h : Nat), ∃ (o : Nat), ∃ (s : State), h < 12 ∧ s.rf (R.MEM_CTRL h) 1 1 = 1 ∧ s.rf (R.MEM_STATUS h) 1 1 = 0 ∧ s.dev ≠ .retention ∧ s.scrubNext h (s.rf (R.MEM_SCRUB_POS h) 0 39) = none) ∧
    (∃ (a : Nat), ∃ (sr : Nat), ∃ (tag : Nat), ∃ (k : Nat), ∃ (u : Nat), ∃ (s : State), (s.strike (a - a % 8) u).mem.bad.contains (a - a % 8) = false ∧ (s.strike (a - a % 8) u).mem.weak.contains (a - a % 8) = false) ∧
    (∃ (a : Nat), ∃ (sr : Nat), ∃ (tag : Nat), ∃ (k : Nat), ∃ (u : Nat), ∃ (h : Nat), ∃ (o : Nat), ∃ (s : State), place (a - a % 8) = .hubStore h o ∧ (s.strike (a - a % 8) u).mem.bad.contains (a - a % 8) = false ∧ (s.strike (a - a % 8) u).mem.weak.contains (a - a % 8) = true) ∧
    (∃ (a : Nat), ∃ (sr : Nat), ∃ (tag : Nat), ∃ (k : Nat), ∃ (u : Nat), ∃ (p : Nat), ∃ (o : Nat), ∃ (s : State), ∃ (j : Job), place (a - a % 8) = .portBuf p o ∧ (s.strike (a - a % 8) u).mem.bad.contains (a - a % 8) = true ∧ s.job sr tag = some j ∧ s.allLanded sr tag) ∧
    (∃ (h : Nat), ∃ (ch : Nat), ∃ (rate : Nat), ∃ (s : State), h < 12 ∧ ch < 96) ∧
    (∃ (h : Nat), ∃ (ch : Nat), ∃ (s : State), h < 12 ∧ ch < 96) :=
  ⟨⟨(1), (vs_RegionZeroing_0), ((1, 0, 5)), (rgA 1 5), (jb 0 5 1 0), by decide +kernel, by decide +kernel, by decide +kernel, by intro k hk; cases hk⟩,
   ⟨(0), (vo_ScrubsAndUpkeep_0), (vs_ScrubsAndUpkeep_0), by decide +kernel, by decide +kernel, by decide +kernel, by decide +kernel, by decide +kernel, by decide +kernel⟩,
   ⟨(0), (0), (vs_ScrubsAndUpkeep_1), by decide +kernel, by decide +kernel, by decide +kernel, by decide +kernel, by decide +kernel⟩,
   ⟨(0x800200000008), (0), (5), (0), (0), (full), by decide +kernel, by decide +kernel⟩,
   ⟨(0x80010000001B), (0), (5), (0), (1), (0), (24), (full), by decide +kernel, by decide +kernel, by decide +kernel⟩,
   ⟨(0x800200000008), (0), (5), (0), (2), (0), (8), (vs_ScrubsAndUpkeep_4), (jb 0 5 1 0), by decide +kernel, by decide +kernel, by decide +kernel, landed_of (by decide +kernel)⟩,
   ⟨(11), (95), (3), (full), by decide +kernel, by decide +kernel⟩,
   ⟨(11), (95), (full), by decide +kernel, by decide +kernel⟩⟩

def vs_TranslationEnables_1 : State := setRegs (full) [(R.XLT_CTRL, 1)]
def vs_TranslationEnables_2 : State := setRegs (({ full with xlt := { full.xlt with faults := [(600, ({ gen := 2, asid := 1, page := 9, level := 1, reason := 1, reqs := 4, rd := true, wr := false, written := false, ats := false, late := false, time := 5, waiters := [] } : Fault'))] } } : State)) [(R.XLT_CTRL, 1)]
def vs_Invalidations_1 : State := ({ full with xlt := { full.xlt with invals := List.replicate 64 (1, 2) } } : State)
def vs_Invalidations_2 : State := setRegs (({ ({ full with xlt := { full.xlt with invals := [(0, 9)] } } : State) with mem := { full.mem with bytes := memAt (6 * 2097152) (leBytes 8 (1 + 2 * 2 + 0 * 256 + 7 * 2^32) ++ zeroBytes 24) } } : State)) [(R.XLT_TABLE_REGION, 0x10002)]
def vbs_Invalidations_2 : List Byte := resVal (State.readRegion { vs_Invalidations_2 with xlt := { vs_Invalidations_2.xlt with invals := ([]), cache := vs_Invalidations_2.xlt.cache.filter (fun c => c.asid ≠ 0) } } (rgA 0 6) (vs_Invalidations_2.rf R.XLT_ASID_OFFSET 12 52 * 4096 + 32 * 0) 32)
def vs1_Invalidations_2 : State := resSt (State.readRegion { vs_Invalidations_2 with xlt := { vs_Invalidations_2.xlt with invals := ([]), cache := vs_Invalidations_2.xlt.cache.filter (fun c => c.asid ≠ 0) } } (rgA 0 6) (vs_Invalidations_2.rf R.XLT_ASID_OFFSET 12 52 * 4096 + 32 * 0) 32)
def vs_Invalidations_3 : State := ({ full with xlt := { full.xlt with invals := [(0, 9)], cache := [⟨0, 1, 3, 7, 0⟩, ⟨1, 1, 3, 7, 0⟩] } } : State)
def vs_Invalidations_4 : State := ({ fjobs [{ jb 0 5 1 0 with phase := .faulted }] with xlt := { full.xlt with invals := [(0, 9)], spill := [⟨0, 9, 1, 1, false, 5, ⟨false, 0, 5, 2, false, false, 0⟩⟩] } } : State)
theorem witness_TranslationAndInvalidation :
    (∃ (word : Nat), ∃ (s : State), s.rf R.XLT_CTRL 0 1 = 0 ∧ bit word 0 = true) ∧
    (∃ (word : Nat), ∃ (s : State), s.rf R.XLT_CTRL 0 1 = 1 ∧ bit word 0 = false ∧ s.xlt.faults = [] ∧ s.xlt.spill = []) ∧
    (∃ (word : Nat), ∃ (s : State), s.rf R.XLT_CTRL 0 1 = 1 ∧ bit word 0 = false ∧ (s.xlt.faults.any (fun f => !f.2.late) = true)) ∧
    (∃ (word : Nat), ∃ (s : State), s.xlt.invals.length < 64) ∧
    (∃ (word : Nat), ∃ (s : State), 64 ≤ s.xlt.invals.length) ∧
    (∃ (num : Nat), ∃ (seq : Nat), ∃ (rest : List (Nat × Nat)), ∃ (s : State), ∃ (s1 : State), ∃ (rg : Region), ∃ (bs : List Byte), ∃ (a : Asid), s.xlt.invals = (num, seq) :: rest ∧ s.rf R.XLT_INVAL_CPL 2 62 = 0 ∧ s.region (s.rd R.XLT_TABLE_REGION) 0 = some rg ∧ (State.readRegion { s with xlt := { s.xlt with invals := rest, cache := s.xlt.cache.filter (fun c => c.asid ≠ num) } } rg (s.rf R.XLT_ASID_OFFSET 12 52 * 4096 + 32 * num) 32 = .ok s1 bs) ∧ s1.checkAsid num (leNat bs) rg.dataBytes = (0, some a)) ∧
    (∃ (num : Nat), ∃ (seq : Nat), ∃ (rest : List (Nat × Nat)), ∃ (s : State), s.xlt.invals = (num, seq) :: rest ∧ s.rf R.XLT_INVAL_CPL 2 62 = 0 ∧ s.region (s.rd R.XLT_TABLE_REGION) 0 = none ∧ s.xlt.faults = [] ∧ s.xlt.spill = []) ∧
    (∃ (num : Nat), ∃ (seq : Nat), ∃ (rest : List (Nat × Nat)), ∃ (s : State), ∃ e, ∃ j, s.xlt.invals = (num, seq) :: rest ∧ s.rf R.XLT_INVAL_CPL 2 62 = 0 ∧ s.region (s.rd R.XLT_TABLE_REGION) 0 = none ∧ s.xlt.faults = [] ∧ s.xlt.spill = [e] ∧ e.asid = num ∧ e.waiter.ring = false ∧ s.job e.waiter.sr e.waiter.tag = some j ∧ (dOpcode j.desc < 0x30 ∨ 0x36 < dOpcode j.desc) ∧ s.allLanded e.waiter.sr e.waiter.tag) :=
  ⟨⟨(1), (full), by decide +kernel, by decide +kernel⟩,
   ⟨(0), (vs_TranslationEnables_1), by decide +kernel, by decide +kernel, by decide +kernel, by decide +kernel⟩,
   ⟨(0), (vs_TranslationEnables_2), by decide +kernel, by decide +kernel, by decide +kernel⟩,
   ⟨(3 + 9 * 65536), (full), by decide +kernel⟩,
   ⟨(3), (vs_Invalidations_1), by decide +kernel⟩,
   ⟨(0), (9), ([]), (vs_Invalidations_2), (vs1_Invalidations_2), (rgA 0 6), (vbs_Invalidations_2), (⟨2, 0, 7, 0⟩), by decide +kernel, by decide +kernel, by decide +kernel, res_ok _ (by decide +kernel), by decide +kernel⟩,
   ⟨(0), (9), ([]), (vs_Invalidations_3), by decide +kernel, by decide +kernel, by decide +kernel, by decide +kernel, by decide +kernel⟩,
   ⟨(0), (9), ([]), (vs_Invalidations_4), ((⟨0, 9, 1, 1, false, 5, ⟨false, 0, 5, 2, false, false, 0⟩⟩ : Spilled)), ({ jb 0 5 1 0 with phase := .faulted }), by decide +kernel, by decide +kernel, by decide +kernel, by decide +kernel, by decide +kernel, by decide +kernel, by decide +kernel, by decide +kernel, by decide +kernel, landed_of (by decide +kernel)⟩⟩

def vs_FaultsAreAnswered_0 : State := setRegs (({ full with xlt := { full.xlt with records := 4095, faults := [(4095, ({ gen := 2, asid := 1, page := 9, level := 1, reason := 1, reqs := 4, rd := true, wr := false, written := false, ats := false, late := false, time := 5, waiters := [] } : Fault'))] } } : State)) [(R.XLT_CTRL, 1), (R.XLT_FAULT_HEAD, 7), (R.XLT_FAULT_TAIL, 4095), (R.XLT_FAULT_BASE, 65536)]
def vf_FaultsAreAnswered_0 : Fault' := ({ gen := 2, asid := 1, page := 9, level := 1, reason := 1, reqs := 4, rd := true, wr := false, written := false, ats := false, late := false, time := 5, waiters := [] } : Fault')
def vs_FaultsAreAnswered_1 : State := setRegs (({ full with xlt := { full.xlt with records := 4095, faults := [(4095, ({ gen := 2, asid := 1, page := 9, level := 1, reason := 1, reqs := 4, rd := true, wr := false, written := false, ats := false, late := false, time := 5, waiters := [] } : Fault'))] } } : State)) [(R.XLT_CTRL, 1), (R.XLT_FAULT_TAIL, 4095)]
def vf_FaultsAreAnswered_1 : Fault' := ({ gen := 2, asid := 1, page := 9, level := 1, reason := 1, reqs := 4, rd := true, wr := false, written := false, ats := false, late := false, time := 5, waiters := [] } : Fault')
def vs_FaultsAreAnswered_2 : State := setRegs (({ ({ full with xlt := { full.xlt with faults := [(4095, ({ gen := 2, asid := 1, page := 9, level := 1, reason := 1, reqs := 4, rd := true, wr := false, written := false, ats := false, late := false, time := 5, waiters := [] } : Fault'))] } } : State) with timeNs := 16324 } : State)) [(R.XLT_CTRL, 65281)]
def vf_FaultsAreAnswered_2 : Fault' := ({ gen := 2, asid := 1, page := 9, level := 1, reason := 1, reqs := 4, rd := true, wr := false, written := false, ats := false, late := false, time := 5, waiters := [] } : Fault')
def vs_FaultsAreAnswered_3 : State := ({ fjobs [{ jb 0 5 1 0 with phase := .faulted }] with xlt := { full.xlt with faults := [(600, ({ gen := 2, asid := 1, page := 9, level := 1, reason := 1, reqs := 4, rd := true, wr := false, written := false, ats := false, late := false, time := 5, waiters := [⟨false, 0, 5, 2, false, false, 0⟩] } : Fault'))] } } : State)
def vf_FaultsAreAnswered_3 : Fault' := ({ gen := 2, asid := 1, page := 9, level := 1, reason := 1, reqs := 4, rd := true, wr := false, written := false, ats := false, late := false, time := 5, waiters := [⟨false, 0, 5, 2, false, false, 0⟩] } : Fault')
def vw_FaultsAreAnswered_3 : Waiter := ⟨false, 0, 5, 2, false, false, 0⟩
def vj_FaultsAreAnswered_3 : Job := { jb 0 5 1 0 with phase := .faulted }
def vs_FaultsAreAnswered_5 : State := ({ full with xlt := { full.xlt with faults := [(600, ({ gen := 2, asid := 1, page := 9, level := 1, reason := 1, reqs := 4, rd := true, wr := false, written := false, ats := false, late := false, time := 5, waiters := [] } : Fault'))] } } : State)
def vf_FaultsAreAnswered_5 : Fault' := ({ gen := 2, asid := 1, page := 9, level := 1, reason := 1, reqs := 4, rd := true, wr := false, written := false, ats := false, late := false, time := 5, waiters := [] } : Fault')
def vs_FaultsAreAnswered_6 : State := ({ fjobs [{ jb 0 5 1 0 with phase := .faulted }] with xlt := { full.xlt with faults := [(600, ({ gen := 2, asid := 1, page := 9, level := 1, reason := 1, reqs := 4, rd := true, wr := false, written := false, ats := false, late := false, time := 5, waiters := [⟨false, 0, 5, 2, false, false, 0⟩] } : Fault'))] } } : State)
def vf_FaultsAreAnswered_6 : Fault' := ({ gen := 2, asid := 1, page := 9, level := 1, reason := 1, reqs := 4, rd := true, wr := false, written := false, ats := false, late := false, time := 5, waiters := [⟨false, 0, 5, 2, false, false, 0⟩] } : Fault')
def vw_FaultsAreAnswered_6 : Waiter := ⟨false, 0, 5, 2, false, false, 0⟩
def vj_FaultsAreAnswered_6 : Job := { jb 0 5 1 0 with phase := .faulted }
def vs_FaultsAreAnswered_7 : State := ({ ({ fjobs [{ jb 0 5 1 0 with phase := .faulted }] with xlt := { full.xlt with faults := [(600, ({ gen := 2, asid := 1, page := 9, level := 1, reason := 1, reqs := 4, rd := true, wr := false, written := false, ats := false, late := false, time := 5, waiters := [⟨false, 0, 5, 2, false, false, 0⟩] } : Fault'))] } } : State) with timeNs := 49999999 } : State)
def vf_FaultsAreAnswered_7 : Fault' := ({ gen := 2, asid := 1, page := 9, level := 1, reason := 1, reqs := 4, rd := true, wr := false, written := false, ats := false, late := false, time := 5, waiters := [⟨false, 0, 5, 2, false, false, 0⟩] } : Fault')
def vw_FaultsAreAnswered_7 : Waiter := ⟨false, 0, 5, 2, false, false, 0⟩
def vj_FaultsAreAnswered_7 : Job := { jb 0 5 1 0 with phase := .faulted }
def vs_AtsAndPri_0 : State := ({ fjobs [{ jb 0 5 1 0 with phase := .faulted }] with xlt := { full.xlt with atsOut := [(1, 9, ⟨false, 0, 5, 2, false, false, 0⟩)] } } : State)
def vw_AtsAndPri_0 : Waiter := ⟨false, 0, 5, 2, false, false, 0⟩
def vs_AtsAndPri_1 : State := ({ full with xlt := { full.xlt with cache := [⟨0, 1, 3, 7, 0⟩, ⟨1, 1, 3, 7, 0⟩] } } : State)
def vs_AtsAndPri_2 : State := ({ fjobs [{ jb 0 5 1 0 with phase := .faulted }] with xlt := { full.xlt with faults := [(6, ({ gen := 2, asid := 1, page := 9, level := 1, reason := 1, reqs := 4, rd := true, wr := false, written := false, ats := true, late := false, time := 5, waiters := [⟨false, 0, 5, 2, false, false, 0⟩] } : Fault'))] } } : State)
def vf_AtsAndPri_2 : Fault' := ({ gen := 2, asid := 1, page := 9, level := 1, reason := 1, reqs := 4, rd := true, wr := false, written := false, ats := true, late := false, time := 5, waiters := [⟨false, 0, 5, 2, false, false, 0⟩] } : Fault')
def vw_AtsAndPri_2 : Waiter := ⟨false, 0, 5, 2, false, false, 0⟩
def vj_AtsAndPri_2 : Job := { jb 0 5 1 0 with phase := .faulted }
theorem witness_FaultsAndPages :
    (∃ (slot : Nat), ∃ (s : State), ∃ (f : Fault'), ∃ (a : Asid), slot < 4096 ∧ Tbl.find s.xlt.faults slot = some f ∧ Tbl.find s.xlt.asids f.asid = some a ∧ f.written = false ∧ f.ats = false ∧ f.late = false ∧ s.rf R.XLT_CTRL 0 1 = 1 ∧ (s.slice 0).state ≠ .orphaned ∧ s.dmaOk 0 = true ∧ f.time + s.rf R.XLT_CTRL 8 8 * 64 ≤ s.timeNs ∧ (s.rf R.XLT_FAULT_TAIL 0 12 + 1) % 4096 ≠ s.rf R.XLT_FAULT_HEAD 0 12) ∧
    (∃ (slot : Nat), ∃ (s : State), ∃ (f : Fault'), slot < 4096 ∧ Tbl.find s.xlt.faults slot = some f ∧ f.written = false ∧ f.ats = false ∧ f.late = false ∧ s.rf R.XLT_CTRL 0 1 = 1 ∧ (s.slice 0).state ≠ .orphaned ∧ s.dmaOk 0 = true ∧ f.time + s.rf R.XLT_CTRL 8 8 * 64 ≤ s.timeNs ∧ (s.rf R.XLT_FAULT_TAIL 0 12 + 1) % 4096 = s.rf R.XLT_FAULT_HEAD 0 12) ∧
    (∃ (slot : Nat), ∃ (s : State), ∃ (f : Fault'), slot < 4096 ∧ Tbl.find s.xlt.faults slot = some f ∧ s.timeNs < f.time + s.rf R.XLT_CTRL 8 8 * 64) ∧
    (∃ (word : Nat), ∃ (s : State), ∃ (f : Fault'), ∃ (w : Waiter), ∃ (j : Job), Tbl.find s.xlt.faults (fld word 0 12) = some f ∧ f.gen = fld word 12 4 ∧ fld word 16 2 = 0 ∧ f.late = false ∧ f.waiters = [w] ∧ w.ring = false ∧ w.sr < 65536 ∧ s.xlt.spill = [] ∧ s.job w.sr w.tag = some j ∧ j.phase = .faulted) ∧
    (∃ (word : Nat), ∃ (s : State), Tbl.find s.xlt.faults (fld word 0 12) = none) ∧
    (∃ (word : Nat), ∃ (s : State), ∃ (f : Fault'), Tbl.find s.xlt.faults (fld word 0 12) = some f ∧ f.gen ≠ fld word 12 4) ∧
    (∃ (sr : Nat), ∃ (tag : Nat), ∃ (slot : Nat), ∃ (s : State), ∃ (f : Fault'), ∃ (w : Waiter), ∃ (j : Job), s.xlt.faults = [(slot, f)] ∧ f.waiters = [w] ∧ w.ring = false ∧ w.sr = sr ∧ w.tag = tag ∧ w.stopped = false ∧ s.xlt.spill = [] ∧ s.job sr tag = some j ∧ (dOpcode j.desc < 0x30 ∨ 0x36 < dOpcode j.desc) ∧ w.since + (if s.rf R.XLT_CTRL 16 16 = 0 then 50 else s.rf R.XLT_CTRL 16 16) * 10 ^ 6 ≤ s.timeNs ∧ s.allLanded sr tag) ∧
    (∃ (sr : Nat), ∃ (tag : Nat), ∃ (slot : Nat), ∃ (s : State), ∃ (f : Fault'), ∃ (w : Waiter), ∃ (j : Job), s.xlt.faults = [(slot, f)] ∧ f.waiters = [w] ∧ w.ring = false ∧ w.sr = sr ∧ w.tag = tag ∧ w.stopped = false ∧ s.xlt.spill = [] ∧ s.job sr tag = some j ∧ (dOpcode j.desc < 0x30 ∨ 0x36 < dOpcode j.desc) ∧ s.timeNs < w.since + (if s.rf R.XLT_CTRL 16 16 = 0 then 50 else s.rf R.XLT_CTRL 16 16) * 10 ^ 6) ∧
    (∃ (asid : Nat), ∃ (page : Nat), ∃ (addr : Nat), ∃ (wr : Bool), ∃ (s : State), ∃ (w : Waiter), ∃ (rest : List (Nat × Nat × Waiter)), (takeFirst (fun (q : Nat × Nat × Waiter) => q.1 = asid && q.2.1 = page) s.xlt.atsOut = some ((asid, page, w), rest)) ∧ w.isWrite = false ∧ w.ring = false ∧ w.sr < 65536) ∧
    (∃ (pasid : Nat), ∃ (itag : Nat), ∃ (num : Nat), ∃ (a : Asid), ∃ (s : State), s.asidOf pasid = some (num, a)) ∧
    (∃ (index : Nat), ∃ (pasid : Nat), ∃ (s : State), ∃ (f : Fault'), ∃ (a : Asid), ∃ (w : Waiter), ∃ (j : Job), Tbl.find s.xlt.faults index = some f ∧ f.ats = true ∧ f.late = false ∧ Tbl.find s.xlt.asids f.asid = some a ∧ a.pasid = pasid ∧ f.waiters = [w] ∧ w.ring = false ∧ w.sr < 65536 ∧ s.xlt.spill = [] ∧ s.job w.sr w.tag = some j ∧ j.phase = .faulted) ∧
    (∃ (index : Nat), ∃ (pasid : Nat), ∃ (code : Nat), ∃ (s : State), Tbl.find s.xlt.faults index = none) :=
  ⟨⟨(4095), (vs_FaultsAreAnswered_0), (vf_FaultsAreAnswered_0), (⟨2, 1, 8, 0⟩), by decide +kernel, by decide +kernel, by decide +kernel, by decide +kernel, by decide +kernel, by decide +kernel, by decide +kernel, by decide +kernel, by decide +kernel, by decide +kernel, by decide +kernel⟩,
   ⟨(4095), (vs_FaultsAreAnswered_1), (vf_FaultsAreAnswered_1), by decide +kernel, by decide +kernel, by decide +kernel, by decide +kernel, by decide +kernel, by decide +kernel, by decide +kernel, by decide +kernel, by decide +kernel, by decide +kernel⟩,
   ⟨(4095), (vs_FaultsAreAnswered_2), (vf_FaultsAreAnswered_2), by decide +kernel, by decide +kernel, by decide +kernel⟩,
   ⟨(600 + 2 * 4096), (vs_FaultsAreAnswered_3), (vf_FaultsAreAnswered_3), (vw_FaultsAreAnswered_3), (vj_FaultsAreAnswered_3), by decide +kernel, by decide +kernel, by decide +kernel, by decide +kernel, by decide +kernel, by decide +kernel, by decide +kernel, by decide +kernel, by decide +kernel, by decide +kernel⟩,
   ⟨(600), (full), by decide +kernel⟩,
   ⟨(600 + 3 * 4096), (vs_FaultsAreAnswered_5), (vf_FaultsAreAnswered_5), by decide +kernel, by decide +kernel⟩,
   ⟨(0), (5), (600), (vs_FaultsAreAnswered_6), (vf_FaultsAreAnswered_6), (vw_FaultsAreAnswered_6), (vj_FaultsAreAnswered_6), by decide +kernel, by decide +kernel, by decide +kernel, by decide +kernel, by decide +kernel, by decide +kernel, by decide +kernel, by decide +kernel, by decide +kernel, by decide +kernel, landed_of (by decide +kernel)⟩,
   ⟨(0), (5), (600), (vs_FaultsAreAnswered_7), (vf_FaultsAreAnswered_7), (vw_FaultsAreAnswered_7), (vj_FaultsAreAnswered_7), by decide +kernel, by decide +kernel, by decide +kernel, by decide +kernel, by decide +kernel, by decide +kernel, by decide +kernel, by decide +kernel, by decide +kernel, by decide +kernel⟩,
   ⟨(1), (9), (4096), (false), (vs_AtsAndPri_0), (vw_AtsAndPri_0), ([]), by decide +kernel, by decide +kernel, by decide +kernel, by decide +kernel⟩,
   ⟨(8), (3), (1), (⟨2, 1, 8, 0⟩), (vs_AtsAndPri_1), by decide +kernel⟩,
   ⟨(6), (8), (vs_AtsAndPri_2), (vf_AtsAndPri_2), (⟨2, 1, 8, 0⟩), (vw_AtsAndPri_2), (vj_AtsAndPri_2), by decide +kernel, by decide +kernel, by decide +kernel, by decide +kernel, by decide +kernel, by decide +kernel, by decide +kernel, by decide +kernel, by decide +kernel, by decide +kernel, by decide +kernel⟩,
   ⟨(6), (8), (0), (full), by decide +kernel⟩⟩

def vj_WorkRequests_0 : Job := jb 0 5 1 (D [(0, 0x30), (8, 9), (28, 2), (24, 0x10001), (16, 64), (32, 128), (40, 49154), (44, 8)])
def vs_WorkRequests_0 : State := tmSt (qpD) [vj_WorkRequests_0]
def vj_WorkRequests_1 : Job := { jb 0 5 1 (D [(0, 0x30), (8, 9)]) with prog := [1] }
def vq_WorkRequests_1 : Qp := { qpD with msgs := [{ msg0 with data := none, started := false, len := 8 }] }
def vm_WorkRequests_1 : Msg := { msg0 with data := none, started := false, len := 8 }
def vs_WorkRequests_1 : State := tmSt (vq_WorkRequests_1) [vj_WorkRequests_1]
def vs1_WorkRequests_1 : State := ioSt (vs_WorkRequests_1.readOperand vj_WorkRequests_1 vm_WorkRequests_1.lloc vm_WorkRequests_1.lhandle vm_WorkRequests_1.laddr vm_WorkRequests_1.len vq_WorkRequests_1.req)
def vbs_WorkRequests_1 : List Byte := ioVal (vs_WorkRequests_1.readOperand vj_WorkRequests_1 vm_WorkRequests_1.lloc vm_WorkRequests_1.lhandle vm_WorkRequests_1.laddr vm_WorkRequests_1.len vq_WorkRequests_1.req)
def vj_WorkRequests_2 : Job := jb 0 5 1 (D [(0, 0x38), (8, 9), (28, 2), (24, 0x10001), (16, 64), (44, 8)])
def vs_WorkRequests_2 : State := tmSt (qpD) [vj_WorkRequests_2]
def vj_WorkRequests_3 : Job := jb 0 5 1 (D [(0, 0x32), (8, 9), (28, 2), (24, 0x10001), (16, 64), (32, 128), (40, 49154), (44, 8), (14, 6), (12, 1), (30, 6)])
def vs_WorkRequests_3 : State := tmSt (qpD) [vj_WorkRequests_3]
def vk_WorkRequests_3 : Ctr := (vs_WorkRequests_3.counterOf (dby vj_WorkRequests_3.desc 30 2) vj_WorkRequests_3.slice).get (by decide +kernel)
def vj_WorkRequests_4 : Job := jb 0 5 1 (D [(0, 0x32), (8, 9), (28, 2), (24, 0x10001), (16, 64), (32, 128), (40, 49154)])
def vs_WorkRequests_4 : State := tmSt (qpD) [vj_WorkRequests_4]
def vj_WorkRequests_5 : Job := jb 0 5 1 (D [(0, 0x33), (8, 10)])
def vs_WorkRequests_5 : State := tmSt (qpD) [vj_WorkRequests_5]
def vj_WorkRequests_6 : Job := jb 0 5 1 (D [(0, 0x33), (8, 10), (13, 1)])
def vs_WorkRequests_6 : State := tmSt (qpD) [vj_WorkRequests_6]
def vj_WorkRequests_7 : Job := jb 0 5 1 (D [(0, 0x37), (14, 6), (44, 3), (48, 1)])
def vs_WorkRequests_7 : State := tmSt (qpD) [vj_WorkRequests_7]
def vk_WorkRequests_7 : Ctr := (vs_WorkRequests_7.counterOf (dby vj_WorkRequests_7.desc 14 2) vj_WorkRequests_7.slice).get (by decide +kernel)
def vkp_WorkRequests_7 : Ctr := { vk_WorkRequests_7 with threshold := dby vj_WorkRequests_7.desc 44 4, armed := true, value := if bit (dby vj_WorkRequests_7.desc 48 8) 0 then 0 else vk_WorkRequests_7.value }
def vj_WorkRequests_8 : Job := jb 0 5 1 (D [(0, 0x37), (14, 6), (44, 0)])
def vs_WorkRequests_8 : State := tmSt (qpD) [vj_WorkRequests_8]
def vk_WorkRequests_8 : Ctr := (vs_WorkRequests_8.counterOf (dby vj_WorkRequests_8.desc 14 2) vj_WorkRequests_8.slice).get (by decide +kernel)
def vkp_WorkRequests_8 : Ctr := { vk_WorkRequests_8 with threshold := dby vj_WorkRequests_8.desc 44 4, armed := true, value := if bit (dby vj_WorkRequests_8.desc 48 8) 0 then 0 else vk_WorkRequests_8.value }
def vj_QueuePairsKeysCounters_0 : Job := jb 0 5 1 (D [(0, 0x40), (8, 12), (60, 55), (61, 1)])
def vs_QueuePairsKeysCounters_0 : State := tmSt (qpD) [vj_QueuePairsKeysCounters_0]
def vj_QueuePairsKeysCounters_1 : Job := jb 0 5 1 (D [(0, 0x41), (8, 9)])
def vq_QueuePairsKeysCounters_1 : Qp := { qpD with state := .init, recvs := [⟨0, 8, 7, 0, 0, 0, 0, 0⟩] }
def vs_QueuePairsKeysCounters_1 : State := tmSt (vq_QueuePairsKeysCounters_1) [vj_QueuePairsKeysCounters_1]
def vj_QueuePairsKeysCounters_2 : Job := jb 0 5 1 (D [(0, 0x41), (8, 9), (12, 1)])
def vq_QueuePairsKeysCounters_2 : Qp := { qpD with msgs := [{ msg0 with tag := 6 }] }
def vs_QueuePairsKeysCounters_2 : State := tmSt (vq_QueuePairsKeysCounters_2) [vj_QueuePairsKeysCounters_2, jb 0 6 1 0]
def vj_QueuePairsKeysCounters_3 : Job := jb 0 5 1 (D [(0, 0x41), (8, 9), (12, 2)])
def vq_QueuePairsKeysCounters_3 : Qp := { qpD with state := .error }
def vs_QueuePairsKeysCounters_3 : State := tmSt (vq_QueuePairsKeysCounters_3) [vj_QueuePairsKeysCounters_3]
def vj_QueuePairsKeysCounters_4 : Job := jb 0 5 1 (D [(0, 0x41), (8, 9), (12, 3), (24, 0x100007)])
def vq_QueuePairsKeysCounters_4 : Qp := { qpD with encrypt := true }
def vs_QueuePairsKeysCounters_4 : State := ({ (tmSt (vq_QueuePairsKeysCounters_4) [vj_QueuePairsKeysCounters_4]) with kce := { full.kce with slots := [(7, { slice := 1, kind := 8, usage := 64, key := [], pub := [], dead := false })], gen := [(7, 1)] } } : State)
def vj_QueuePairsKeysCounters_5 : Job := jb 0 5 1 (D [(0, 0x41), (8, 9), (12, 2)])
def vs_QueuePairsKeysCounters_5 : State := tmSt (qpD) [vj_QueuePairsKeysCounters_5]
def vj_QueuePairsKeysCounters_6 : Job := jb 0 5 1 (D [(0, 0x42), (8, 9)])
def vq_QueuePairsKeysCounters_6 : Qp := { qpD with state := .init }
def vs_QueuePairsKeysCounters_6 : State := tmSt (vq_QueuePairsKeysCounters_6) [vj_QueuePairsKeysCounters_6]
def vj_QueuePairsKeysCounters_7 : Job := jb 0 5 1 (D [(0, 0x43), (8, 9)])
def vs_QueuePairsKeysCounters_7 : State := tmSt (qpD) [vj_QueuePairsKeysCounters_7]
def vj_QueuePairsKeysCounters_8 : Job := jb 0 5 1 (D [(0, 0x44), (8, 0xFFFFFFFF), (12, 1), (13, 2), (16, 0x10003)])
def vs_QueuePairsKeysCounters_8 : State := tmSt (qpD) [vj_QueuePairsKeysCounters_8]
def vj_QueuePairsKeysCounters_9 : Job := jb 0 5 1 (D [(0, 0x45), (8, 49154)])
def vs_QueuePairsKeysCounters_9 : State := tmSt (qpD) [vj_QueuePairsKeysCounters_9]
def vk_QueuePairsKeysCounters_9 : Ak := (vs_QueuePairsKeysCounters_9.akFor vj_QueuePairsKeysCounters_9.slice (dby vj_QueuePairsKeysCounters_9.desc 8 4) 0).get (by decide +kernel)
def vj_QueuePairsKeysCounters_10 : Job := { jb 0 5 1 (D [(0, 0x45), (8, 49154)]) with prog := [1] }
def vs_QueuePairsKeysCounters_10 : State := tmSt (qpD) [vj_QueuePairsKeysCounters_10]
def vj_QueuePairsKeysCounters_11 : Job := jb 0 5 1 (D [(0, 0x46), (14, 7)])
def vc_QueuePairsKeysCounters_11 : Nat := dby vj_QueuePairsKeysCounters_11.desc 14 2
def vs_QueuePairsKeysCounters_11 : State := tmSt (qpD) [vj_QueuePairsKeysCounters_11]
def vj_QueuePairsKeysCounters_12 : Job := jb 0 5 1 (D [(0, 0x46), (12, 1), (14, 6)])
def vc_QueuePairsKeysCounters_12 : Nat := dby vj_QueuePairsKeysCounters_12.desc 14 2
def vs_QueuePairsKeysCounters_12 : State := tmSt (qpD) [vj_QueuePairsKeysCounters_12]
def vj_QueuePairsKeysCounters_13 : Job := jb 0 5 1 (D [(0, 0x46), (12, 2), (14, 6), (48, 9)])
def vc_QueuePairsKeysCounters_13 : Nat := dby vj_QueuePairsKeysCounters_13.desc 14 2
def vs_QueuePairsKeysCounters_13 : State := ({ (tmSt qpD [vj_QueuePairsKeysCounters_13]) with tmt := { (tmSt qpD []).tmt with ctrs := [(6, ⟨1, 0, 20, true, []⟩)] } } : State)
def vj_QueuePairsKeysCounters_14 : Job := jb 0 5 1 (D [(0, 0x46), (12, 3), (14, 6)])
def vc_QueuePairsKeysCounters_14 : Nat := dby vj_QueuePairsKeysCounters_14.desc 14 2
def vs_QueuePairsKeysCounters_14 : State := tmSt (qpD) [vj_QueuePairsKeysCounters_14]
theorem witness_TransportCommands :
    (∃ (c : Nat → Nat → Instr), ∃ (op : Nat), ∃ (sr : Nat), ∃ (tag : Nat), ∃ (s : State), ∃ (j : Job), ∃ (q : Qp), (c, op) ∈ ([(.tmtWrite, 0x30), (.tmtWriteImm, 0x31), (.tmtRead, 0x32), (.tmtSend, 0x33), (.tmtFetchAdd, 0x34), (.tmtCompareSwap, 0x35), (.tmtAccumulate, 0x36)] : List ((Nat → Nat → Instr) × Nat)) ∧ s.ready sr tag op j ∧ j.p 0 ≠ 1 ∧ Tbl.find s.tmt.qps (fld j.desc 64 20) = some q ∧ q.slice = j.slice ∧ wrOk j.desc q.payload q.compAllowed = true ∧ (op ∈ [0x32, 0x34, 0x35] → dby j.desc 14 2 = 0 ∨ (s.counterOf (dby j.desc 14 2) j.slice).isSome = true) ∧ s.wrRoom (fld j.desc 64 20) q op = true ∧ bit j.desc 96 = false ∧ q.state ≠ .error ∧ (∀ m, (q.msgs ++ [wrMsg j q.payload]).head? = some m → m.finished q.ackBase = false)) ∧
    (∃ (c : Nat → Nat → Instr), ∃ (op : Nat), ∃ (sr : Nat), ∃ (tag : Nat), ∃ (s : State), ∃ (s1 : State), ∃ (j : Job), ∃ (q : Qp), ∃ (m : Msg), ∃ (bs : List Byte), (c, op) ∈ ([(.tmtWrite, 0x30), (.tmtWriteImm, 0x31), (.tmtSend, 0x33), (.tmtAccumulate, 0x36)] : List ((Nat → Nat → Instr) × Nat)) ∧ s.ready sr tag op j ∧ j.p 0 = 1 ∧ Tbl.find s.tmt.qps (fld j.desc 64 20) = some q ∧ (q.msgs.find? (fun m => m.sr = sr && m.tag = tag) = some m) ∧ m.data = none ∧ s.readOperand j m.lloc m.lhandle m.laddr m.len q.req = .ok s1 bs) ∧
    (∃ (sr : Nat), ∃ (tag : Nat), ∃ (s : State), ∃ (j : Job), ∃ (q : Qp), s.ready sr tag 0x38 j ∧ j.p 0 ≠ 1 ∧ Tbl.find s.tmt.qps (fld j.desc 64 20) = some q ∧ q.slice = j.slice ∧ wrOk j.desc q.payload q.compAllowed = true ∧ s.wrRoom (fld j.desc 64 20) q 0x38 = true ∧ bit j.desc 96 = false ∧ q.state ≠ .error ∧ (∀ m, q.msgs.head? = some m → m.finished q.ackBase = false)) ∧
    (∃ (c : Nat → Nat → Instr), ∃ (op : Nat), ∃ (sr : Nat), ∃ (tag : Nat), ∃ (s : State), ∃ (j : Job), ∃ (q : Qp), ∃ (k : Ctr), (c, op) ∈ ([(.tmtWrite, 0x30), (.tmtWriteImm, 0x31), (.tmtRead, 0x32), (.tmtSend, 0x33), (.tmtFetchAdd, 0x34), (.tmtCompareSwap, 0x35), (.tmtAccumulate, 0x36), (.tmtRecv, 0x38)] : List ((Nat → Nat → Instr) × Nat)) ∧ s.ready sr tag op j ∧ j.p 0 ≠ 1 ∧ Tbl.find s.tmt.qps (fld j.desc 64 20) = some q ∧ q.slice = j.slice ∧ wrOk j.desc q.payload q.compAllowed = true ∧ (op ∈ [0x32, 0x34, 0x35] → dby j.desc 14 2 = 0 ∨ (s.counterOf (dby j.desc 14 2) j.slice).isSome = true) ∧ s.wrRoom (fld j.desc 64 20) q op = true ∧ bit j.desc 96 = true ∧ s.counterOf (dby j.desc 30 2) j.slice = some k ∧ k.held.length < 65536) ∧
    (∃ (sr : Nat), ∃ (tag : Nat), ∃ (s : State), ∃ (j : Job), ∃ (q : Qp), s.ready sr tag 0x32 j ∧ j.p 0 ≠ 1 ∧ Tbl.find s.tmt.qps (fld j.desc 64 20) = some q ∧ q.slice = j.slice ∧ wrOk j.desc q.payload q.compAllowed = true ∧ dby j.desc 44 4 = 0 ∧ dby j.desc 14 2 = 0 ∧ s.wrRoom (fld j.desc 64 20) q 0x32 = true ∧ bit j.desc 96 = false ∧ q.state ≠ .error ∧ q.msgs = []) ∧
    (∃ (c : Nat → Nat → Instr), ∃ (op : Nat), ∃ (sr : Nat), ∃ (tag : Nat), ∃ (s : State), ∃ (j : Job), (c, op) ∈ ([(.tmtWrite, 0x30), (.tmtWriteImm, 0x31), (.tmtRead, 0x32), (.tmtSend, 0x33), (.tmtFetchAdd, 0x34), (.tmtCompareSwap, 0x35), (.tmtAccumulate, 0x36), (.tmtRecv, 0x38)] : List ((Nat → Nat → Instr) × Nat)) ∧ s.ready sr tag op j ∧ j.p 0 ≠ 1 ∧ wrOk j.desc (2 ^ 30) 15 = true ∧ Tbl.find s.tmt.qps (fld j.desc 64 20) = none) ∧
    (∃ (c : Nat → Nat → Instr), ∃ (op : Nat), ∃ (sr : Nat), ∃ (tag : Nat), ∃ (s : State), ∃ (j : Job), (c, op) ∈ ([(.tmtWrite, 0x30), (.tmtWriteImm, 0x31), (.tmtRead, 0x32), (.tmtSend, 0x33), (.tmtFetchAdd, 0x34), (.tmtCompareSwap, 0x35), (.tmtAccumulate, 0x36), (.tmtRecv, 0x38)] : List ((Nat → Nat → Instr) × Nat)) ∧ s.ready sr tag op j ∧ j.p 0 ≠ 1 ∧ wrOk j.desc (2 ^ 30) 15 = false) ∧
    (∃ (sr : Nat), ∃ (tag : Nat), ∃ (s : State), ∃ (j : Job), ∃ (k : Ctr), ∃ (k' : Ctr), s.ready sr tag 0x37 j ∧ wrOk j.desc 1024 0 = true ∧ s.counterOf (dby j.desc 14 2) j.slice = some k ∧ bit j.desc 96 = false ∧ k' = { k with threshold := dby j.desc 44 4, armed := true, value := if bit (dby j.desc 48 8) 0 then 0 else k.value } ∧ k'.met = false) ∧
    (∃ (sr : Nat), ∃ (tag : Nat), ∃ (s : State), ∃ (j : Job), ∃ (k : Ctr), ∃ (k' : Ctr), s.ready sr tag 0x37 j ∧ wrOk j.desc 1024 0 = true ∧ s.counterOf (dby j.desc 14 2) j.slice = some k ∧ bit j.desc 96 = false ∧ k' = { k with threshold := dby j.desc 44 4, armed := true, value := if bit (dby j.desc 48 8) 0 then 0 else k.value } ∧ k'.met = true ∧ k.held = []) ∧
    (∃ (sr : Nat), ∃ (tag : Nat), ∃ (n : Nat), ∃ (s : State), ∃ (j : Job), s.ready sr tag 0x40 j ∧ qpFieldsOk j.desc = true ∧ (bit j.desc 98 = true → bit j.desc 120 = false ∧ s.ethPort (fld j.desc 112 5) (fld j.desc 117 3) = true) ∧ (fld j.desc 96 2 = 1 → s.feature 8 = true ∧ bit j.desc 120 = false) ∧ (bit j.desc 99 = true → bit j.desc 120 = false ∧ s.lineKeyBad (dby j.desc 24 4) j.slice = none) ∧ s.quotaRoom j.slice 2 1 = true ∧ Tbl.find s.tmt.qps n = none ∧ Tbl.find s.tmt.cooling n = none ∧ ((bit j.desc 95 = false ∧ n = dby j.desc 8 4) ∨ (bit j.desc 95 = true ∧ n = 1))) ∧
    (∃ (sr : Nat), ∃ (tag : Nat), ∃ (n : Nat), ∃ (s : State), ∃ (j : Job), ∃ (q : Qp), s.ready sr tag 0x41 j ∧ n = dby j.desc 8 4 ∧ n < 2 ^ 20 ∧ Tbl.find s.tmt.qps n = some q ∧ q.slice = j.slice ∧ dby j.desc 12 1 = 0 ∧ rsvdZero j.desc [(8, 4), (12, 1)] = true ∧ q.state = .init ∧ (q.sched = false ∨ (s.rf R.TLN_STATUS 2 2 = 1 ∧ s.rf R.TLN_STATUS 4 10 = q.localIndex)) ∧ (∀ m, q.msgs.head? = some m → m.finished 0 = false)) ∧
    (∃ (sr : Nat), ∃ (tag : Nat), ∃ (n : Nat), ∃ (s : State), ∃ (j : Job), ∃ (q : Qp), s.ready sr tag 0x41 j ∧ n = dby j.desc 8 4 ∧ n < 2 ^ 20 ∧ Tbl.find s.tmt.qps n = some q ∧ q.slice = j.slice ∧ dby j.desc 12 1 = 1 ∧ rsvdZero j.desc [(8, 4), (12, 1)] = true ∧ q.state = .rts) ∧
    (∃ (sr : Nat), ∃ (tag : Nat), ∃ (n : Nat), ∃ (s : State), ∃ (j : Job), ∃ (q : Qp), s.ready sr tag 0x41 j ∧ n = dby j.desc 8 4 ∧ n < 2 ^ 20 ∧ Tbl.find s.tmt.qps n = some q ∧ q.slice = j.slice ∧ dby j.desc 12 1 = 2 ∧ rsvdZero j.desc [(8, 4), (12, 1)] = true ∧ q.state = .error ∧ q.closing = none) ∧
    (∃ (sr : Nat), ∃ (tag : Nat), ∃ (n : Nat), ∃ (s : State), ∃ (j : Job), ∃ (q : Qp), s.ready sr tag 0x41 j ∧ n = dby j.desc 8 4 ∧ n < 2 ^ 20 ∧ Tbl.find s.tmt.qps n = some q ∧ q.slice = j.slice ∧ dby j.desc 12 1 = 3 ∧ rsvdZero j.desc [(8, 4), (12, 1), (24, 4)] = true ∧ q.state = .rts ∧ q.encrypt = true ∧ q.nextKey = 0 ∧ s.lineKeyBad (dby j.desc 24 4) j.slice = none) ∧
    (∃ (sr : Nat), ∃ (tag : Nat), ∃ (n : Nat), ∃ (s : State), ∃ (j : Job), ∃ (q : Qp), s.ready sr tag 0x41 j ∧ n = dby j.desc 8 4 ∧ n < 2 ^ 20 ∧ Tbl.find s.tmt.qps n = some q ∧ q.slice = j.slice ∧ dby j.desc 12 1 < 3 ∧ rsvdZero j.desc [(8, 4), (12, 1)] = true ∧ (¬((dby j.desc 12 1 = 0 ∧ q.state = .init) ∨ (dby j.desc 12 1 = 1 ∧ q.state = .rts) ∨ (dby j.desc 12 1 = 2 ∧ q.state = .error)))) ∧
    (∃ (sr : Nat), ∃ (tag : Nat), ∃ (n : Nat), ∃ (s : State), ∃ (j : Job), ∃ (q : Qp), s.ready sr tag 0x42 j ∧ rsvdZero j.desc [(8, 4)] = true ∧ n = dby j.desc 8 4 ∧ n < 2 ^ 20 ∧ Tbl.find s.tmt.qps n = some q ∧ q.slice = j.slice ∧ q.state ≠ .rts ∧ s.wrIdle n q = true) ∧
    (∃ (sr : Nat), ∃ (tag : Nat), ∃ (n : Nat), ∃ (s : State), ∃ (j : Job), ∃ (q : Qp), s.ready sr tag 0x43 j ∧ rsvdZero j.desc [(8, 4)] = true ∧ n = dby j.desc 8 4 ∧ n < 2 ^ 20 ∧ Tbl.find s.tmt.qps n = some q ∧ q.slice = j.slice) ∧
    (∃ (sr : Nat), ∃ (tag : Nat), ∃ (n : Nat), ∃ (s : State), ∃ (j : Job), s.ready sr tag 0x44 j ∧ rsvdZero j.desc [(8, 6), (16, 4)] = true ∧ dby j.desc 12 1 ≤ 2 ∧ dby j.desc 13 1 < 8 ∧ ((dby j.desc 8 4 = 0xFFFFFFFF ∧ lowestFree s.tmt.aks 0 262144 = some n) ∨ (dby j.desc 8 4 = n ∧ n < 262144 ∧ Tbl.find s.tmt.aks n = none)) ∧ (dby j.desc 12 1 = 0 → dby j.desc 16 4 < 2 ^ 20 ∧ Tbl.find s.pasids (dby j.desc 16 4) = some j.slice) ∧ (dby j.desc 12 1 = 1 → (s.region (dby j.desc 16 4) j.slice).isSome = true ∧ (dby j.desc 13 1 % 2 + dby j.desc 13 1 / 4 = 0 ∨ s.bound (dby j.desc 16 4) = false)) ∧ (dby j.desc 12 1 = 2 → dby j.desc 16 4 < 16) ∧ s.quotaRoom j.slice 3 1 = true) ∧
    (∃ (sr : Nat), ∃ (tag : Nat), ∃ (s : State), ∃ (j : Job), ∃ (k : Ak), s.ready sr tag 0x45 j ∧ rsvdZero j.desc [(8, 4)] = true ∧ j.p 0 ≠ 1 ∧ s.akFor j.slice (dby j.desc 8 4) 0 = some k) ∧
    (∃ (sr : Nat), ∃ (tag : Nat), ∃ (s : State), ∃ (j : Job), s.ready sr tag 0x45 j ∧ rsvdZero j.desc [(8, 4)] = true ∧ j.p 0 = 1 ∧ s.placing j.slice = false ∧ (∀ w ∈ s.pcie.wroteLinks, ∀ e ∈ s.tmt.qps, e.2.slice = j.slice → w.1 ≠ 65536 + e.1)) ∧
    (∃ (sr : Nat), ∃ (tag : Nat), ∃ (c : Nat), ∃ (s : State), ∃ (j : Job), s.ready sr tag 0x46 j ∧ c = dby j.desc 14 2 ∧ dby j.desc 12 1 = 0 ∧ rsvdZero j.desc [(12, 1), (14, 2)] = true ∧ c ≠ 0 ∧ Tbl.find s.tmt.ctrs c = none ∧ s.quotaRoom j.slice 4 1 = true) ∧
    (∃ (sr : Nat), ∃ (tag : Nat), ∃ (c : Nat), ∃ (s : State), ∃ (j : Job), ∃ k, s.ready sr tag 0x46 j ∧ c = dby j.desc 14 2 ∧ s.counterOf c j.slice = some k ∧ dby j.desc 12 1 = 1 ∧ rsvdZero j.desc [(12, 1), (14, 2)] = true ∧ s.counterBusy c = false) ∧
    (∃ (sr : Nat), ∃ (tag : Nat), ∃ (c : Nat), ∃ (s : State), ∃ (j : Job), ∃ k, s.ready sr tag 0x46 j ∧ c = dby j.desc 14 2 ∧ s.counterOf c j.slice = some k ∧ dby j.desc 12 1 = 2 ∧ rsvdZero j.desc [(12, 1), (14, 2), (48, 4)] = true ∧ Ctr.met { k with value := dby j.desc 48 4 } = false) ∧
    (∃ (sr : Nat), ∃ (tag : Nat), ∃ (c : Nat), ∃ (s : State), ∃ (j : Job), ∃ k, s.ready sr tag 0x46 j ∧ c = dby j.desc 14 2 ∧ s.counterOf c j.slice = some k ∧ dby j.desc 12 1 = 3 ∧ rsvdZero j.desc [(12, 1), (14, 2)] = true) :=
  ⟨⟨(.tmtWrite), (0x30), (0), (5), (vs_WorkRequests_0), (vj_WorkRequests_0), (qpD), by simp, ready_of (by decide +kernel), by decide +kernel, by decide +kernel, by decide +kernel, by decide +kernel, by decide +kernel, by decide +kernel, by decide +kernel, by decide +kernel, by decide +kernel⟩,
   ⟨(.tmtWrite), (0x30), (0), (5), (vs_WorkRequests_1), (vs1_WorkRequests_1), (vj_WorkRequests_1), (vq_WorkRequests_1), (vm_WorkRequests_1), (vbs_WorkRequests_1), by simp, ready_of (by decide +kernel), by decide +kernel, by decide +kernel, by decide +kernel, by decide +kernel, io_ok _ (by decide +kernel)⟩,
   ⟨(0), (5), (vs_WorkRequests_2), (vj_WorkRequests_2), (qpD), ready_of (by decide +kernel), by decide +kernel, by decide +kernel, by decide +kernel, by decide +kernel, by decide +kernel, by decide +kernel, by decide +kernel, by decide +kernel⟩,
   ⟨(.tmtRead), (0x32), (0), (5), (vs_WorkRequests_3), (vj_WorkRequests_3), (qpD), (vk_WorkRequests_3), by simp, ready_of (by decide +kernel), by decide +kernel, by decide +kernel, by decide +kernel, by decide +kernel, by decide +kernel, by decide +kernel, by decide +kernel, by decide +kernel, by decide +kernel⟩,
   ⟨(0), (5), (vs_WorkRequests_4), (vj_WorkRequests_4), (qpD), ready_of (by decide +kernel), by decide +kernel, by decide +kernel, by decide +kernel, by decide +kernel, by decide +kernel, by decide +kernel, by decide +kernel, by decide +kernel, by decide +kernel, by decide +kernel⟩,
   ⟨(.tmtSend), (0x33), (0), (5), (vs_WorkRequests_5), (vj_WorkRequests_5), by simp, ready_of (by decide +kernel), by decide +kernel, by decide +kernel, by decide +kernel⟩,
   ⟨(.tmtSend), (0x33), (0), (5), (vs_WorkRequests_6), (vj_WorkRequests_6), by simp, ready_of (by decide +kernel), by decide +kernel, by decide +kernel⟩,
   ⟨(0), (5), (vs_WorkRequests_7), (vj_WorkRequests_7), (vk_WorkRequests_7), (vkp_WorkRequests_7), ready_of (by decide +kernel), by decide +kernel, by decide +kernel, by decide +kernel, by decide +kernel, by decide +kernel⟩,
   ⟨(0), (5), (vs_WorkRequests_8), (vj_WorkRequests_8), (vk_WorkRequests_8), (vkp_WorkRequests_8), ready_of (by decide +kernel), by decide +kernel, by decide +kernel, by decide +kernel, by decide +kernel, by decide +kernel, by decide +kernel⟩,
   ⟨(0), (5), (12), (vs_QueuePairsKeysCounters_0), (vj_QueuePairsKeysCounters_0), ready_of (by decide +kernel), by decide +kernel, by decide +kernel, by decide +kernel, by decide +kernel, by decide +kernel, by decide +kernel, by decide +kernel, by decide +kernel⟩,
   ⟨(0), (5), (9), (vs_QueuePairsKeysCounters_1), (vj_QueuePairsKeysCounters_1), (vq_QueuePairsKeysCounters_1), ready_of (by decide +kernel), by decide +kernel, by decide +kernel, by decide +kernel, by decide +kernel, by decide +kernel, by decide +kernel, by decide +kernel, by decide +kernel, by decide +kernel⟩,
   ⟨(0), (5), (9), (vs_QueuePairsKeysCounters_2), (vj_QueuePairsKeysCounters_2), (vq_QueuePairsKeysCounters_2), ready_of (by decide +kernel), by decide +kernel, by decide +kernel, by decide +kernel, by decide +kernel, by decide +kernel, by decide +kernel, by decide +kernel⟩,
   ⟨(0), (5), (9), (vs_QueuePairsKeysCounters_3), (vj_QueuePairsKeysCounters_3), (vq_QueuePairsKeysCounters_3), ready_of (by decide +kernel), by decide +kernel, by decide +kernel, by decide +kernel, by decide +kernel, by decide +kernel, by decide +kernel, by decide +kernel, by decide +kernel⟩,
   ⟨(0), (5), (9), (vs_QueuePairsKeysCounters_4), (vj_QueuePairsKeysCounters_4), (vq_QueuePairsKeysCounters_4), ready_of (by decide +kernel), by decide +kernel, by decide +kernel, by decide +kernel, by decide +kernel, by decide +kernel, by decide +kernel, by decide +kernel, by decide +kernel, by decide +kernel, by decide +kernel⟩,
   ⟨(0), (5), (9), (vs_QueuePairsKeysCounters_5), (vj_QueuePairsKeysCounters_5), (qpD), ready_of (by decide +kernel), by decide +kernel, by decide +kernel, by decide +kernel, by decide +kernel, by decide +kernel, by decide +kernel, by decide +kernel⟩,
   ⟨(0), (5), (9), (vs_QueuePairsKeysCounters_6), (vj_QueuePairsKeysCounters_6), (vq_QueuePairsKeysCounters_6), ready_of (by decide +kernel), by decide +kernel, by decide +kernel, by decide +kernel, by decide +kernel, by decide +kernel, by decide +kernel, by decide +kernel⟩,
   ⟨(0), (5), (9), (vs_QueuePairsKeysCounters_7), (vj_QueuePairsKeysCounters_7), (qpD), ready_of (by decide +kernel), by decide +kernel, by decide +kernel, by decide +kernel, by decide +kernel, by decide +kernel⟩,
   ⟨(0), (5), (0), (vs_QueuePairsKeysCounters_8), (vj_QueuePairsKeysCounters_8), ready_of (by decide +kernel), by decide +kernel, by decide +kernel, by decide +kernel, by decide +kernel, by decide +kernel, by decide +kernel, by decide +kernel, by decide +kernel⟩,
   ⟨(0), (5), (vs_QueuePairsKeysCounters_9), (vj_QueuePairsKeysCounters_9), (vk_QueuePairsKeysCounters_9), ready_of (by decide +kernel), by decide +kernel, by decide +kernel, by decide +kernel⟩,
   ⟨(0), (5), (vs_QueuePairsKeysCounters_10), (vj_QueuePairsKeysCounters_10), ready_of (by decide +kernel), by decide +kernel, by decide +kernel, by decide +kernel, by decide +kernel⟩,
   ⟨(0), (5), (vc_QueuePairsKeysCounters_11), (vs_QueuePairsKeysCounters_11), (vj_QueuePairsKeysCounters_11), ready_of (by decide +kernel), by decide +kernel, by decide +kernel, by decide +kernel, by decide +kernel, by decide +kernel, by decide +kernel⟩,
   ⟨(0), (5), (vc_QueuePairsKeysCounters_12), (vs_QueuePairsKeysCounters_12), (vj_QueuePairsKeysCounters_12), ((vs_QueuePairsKeysCounters_12.counterOf vc_QueuePairsKeysCounters_12 vj_QueuePairsKeysCounters_12.slice).get (by decide +kernel)), ready_of (by decide +kernel), by decide +kernel, by decide +kernel, by decide +kernel, by decide +kernel, by decide +kernel⟩,
   ⟨(0), (5), (vc_QueuePairsKeysCounters_13), (vs_QueuePairsKeysCounters_13), (vj_QueuePairsKeysCounters_13), ((vs_QueuePairsKeysCounters_13.counterOf vc_QueuePairsKeysCounters_13 vj_QueuePairsKeysCounters_13.slice).get (by decide +kernel)), ready_of (by decide +kernel), by decide +kernel, by decide +kernel, by decide +kernel, by decide +kernel, by decide +kernel⟩,
   ⟨(0), (5), (vc_QueuePairsKeysCounters_14), (vs_QueuePairsKeysCounters_14), (vj_QueuePairsKeysCounters_14), ((vs_QueuePairsKeysCounters_14.counterOf vc_QueuePairsKeysCounters_14 vj_QueuePairsKeysCounters_14.slice).get (by decide +kernel)), ready_of (by decide +kernel), by decide +kernel, by decide +kernel, by decide +kernel, by decide +kernel⟩⟩

def vp_PacketsArrive_0 : Pkt := { pk 1 with trailer := [0, 0, 0, 0, 0, 0, 4, 0] }
def vbs_PacketsArrive_0 : List Byte := (vp_PacketsArrive_0.decoded).get (by decide +kernel)
def vk_PacketsArrive_0 : Ak := (((tmSt (qpD) []).heard vp_PacketsArrive_0).akFor qpD.slice vp_PacketsArrive_0.w18 1).get (by decide +kernel)
def vs2_PacketsArrive_0 : State := rxSt (((tmSt (qpD) []).heard vp_PacketsArrive_0).rxWrite vp_PacketsArrive_0.dstQp (qpD.heard (tmSt (qpD) []).timeNs vp_PacketsArrive_0) vp_PacketsArrive_0.msn vk_PacketsArrive_0.loc vk_PacketsArrive_0.handle (vp_PacketsArrive_0.addr + vp_PacketsArrive_0.off) vbs_PacketsArrive_0)
def vp_PacketsArrive_1 : Pkt := { pk 3 with trailer := [0, 0, 0, 0, 0, 0, 4, 0], w18 := 3 }
def vq_PacketsArrive_1 : Qp := { qpD with recvs := [⟨0, 5, 3, 64, 2, 0x10001, 128, 0⟩] }
def vr_PacketsArrive_1 : RecvWr := (⟨0, 5, 3, 64, 2, 0x10001, 128, 0⟩ : RecvWr)
def vbs_PacketsArrive_1 : List Byte := (vp_PacketsArrive_1.decoded).get (by decide +kernel)
def vs_PacketsArrive_1 : State := tmSt (vq_PacketsArrive_1) []
def vs2_PacketsArrive_1 : State := rxSt ((vs_PacketsArrive_1.heard vp_PacketsArrive_1).rxWrite vp_PacketsArrive_1.dstQp (vq_PacketsArrive_1.heard vs_PacketsArrive_1.timeNs vp_PacketsArrive_1) vp_PacketsArrive_1.msn vr_PacketsArrive_1.loc vr_PacketsArrive_1.handle (vr_PacketsArrive_1.addr + vp_PacketsArrive_1.off) vbs_PacketsArrive_1)
def vp_PacketsArrive_2 : Pkt := { pk 3 with w18 := 3 }
def vp_PacketsArrive_3 : Pkt := { pk 4 with trailer := [0, 0, 0, 0, 0, 0, 4, 0] }
def vbs_PacketsArrive_3 : List Byte := (vp_PacketsArrive_3.decoded).get (by decide +kernel)
def vk_PacketsArrive_3 : Ak := (((tmSt (qpD) []).heard vp_PacketsArrive_3).akFor qpD.slice vp_PacketsArrive_3.w18 5).get (by decide +kernel)
def vold_PacketsArrive_3 : List Byte := rxVal (((tmSt (qpD) []).heard vp_PacketsArrive_3).rxRead vp_PacketsArrive_3.dstQp (qpD.heard (tmSt (qpD) []).timeNs vp_PacketsArrive_3) vp_PacketsArrive_3.msn 2 vk_PacketsArrive_3.handle (vp_PacketsArrive_3.addr + vp_PacketsArrive_3.off) vbs_PacketsArrive_3.length)
def vnow_PacketsArrive_3 : List Byte := vold_PacketsArrive_3
def vs1_PacketsArrive_3 : State := rxSt (((tmSt (qpD) []).heard vp_PacketsArrive_3).rxRead vp_PacketsArrive_3.dstQp (qpD.heard (tmSt (qpD) []).timeNs vp_PacketsArrive_3) vp_PacketsArrive_3.msn 2 vk_PacketsArrive_3.handle (vp_PacketsArrive_3.addr + vp_PacketsArrive_3.off) vbs_PacketsArrive_3.length)
def vs2_PacketsArrive_3 : State := rxSt (vs1_PacketsArrive_3.rxWrite vp_PacketsArrive_3.dstQp (qpD.heard (tmSt (qpD) []).timeNs vp_PacketsArrive_3) vp_PacketsArrive_3.msn 2 vk_PacketsArrive_3.handle (vp_PacketsArrive_3.addr + vp_PacketsArrive_3.off) (accBytes vp_PacketsArrive_3.comp vnow_PacketsArrive_3 vbs_PacketsArrive_3))
def vp_PacketsArrive_4 : Pkt := { pk 5 with payload := [], w28 := 3 }
def vk_PacketsArrive_4 : Ak := (((tmSt (qpD) []).heard vp_PacketsArrive_4).akFor qpD.slice vp_PacketsArrive_4.w18 2).get (by decide +kernel)
def vbs_PacketsArrive_4 : List Byte := rxVal (((tmSt (qpD) []).heard vp_PacketsArrive_4).rxRead vp_PacketsArrive_4.dstQp (qpD.heard (tmSt (qpD) []).timeNs vp_PacketsArrive_4) vp_PacketsArrive_4.psn vk_PacketsArrive_4.loc vk_PacketsArrive_4.handle vp_PacketsArrive_4.addr (vp_PacketsArrive_4.off + 1))
def vs1_PacketsArrive_4 : State := rxSt (((tmSt (qpD) []).heard vp_PacketsArrive_4).rxRead vp_PacketsArrive_4.dstQp (qpD.heard (tmSt (qpD) []).timeNs vp_PacketsArrive_4) vp_PacketsArrive_4.psn vk_PacketsArrive_4.loc vk_PacketsArrive_4.handle vp_PacketsArrive_4.addr (vp_PacketsArrive_4.off + 1))
def vp_PacketsArrive_5 : Pkt := { pk 7 with payload := leBytes 8 1 ++ leBytes 8 2 }
def vk_PacketsArrive_5 : Ak := (((tmSt (qpD) []).heard vp_PacketsArrive_5).akFor qpD.slice vp_PacketsArrive_5.w18 4).get (by decide +kernel)
def vbs_PacketsArrive_5 : List Byte := rxVal (((tmSt (qpD) []).heard vp_PacketsArrive_5).rxRead vp_PacketsArrive_5.dstQp (qpD.heard (tmSt (qpD) []).timeNs vp_PacketsArrive_5) vp_PacketsArrive_5.psn 2 vk_PacketsArrive_5.handle vp_PacketsArrive_5.addr 8)
def vs1_PacketsArrive_5 : State := rxSt (((tmSt (qpD) []).heard vp_PacketsArrive_5).rxRead vp_PacketsArrive_5.dstQp (qpD.heard (tmSt (qpD) []).timeNs vp_PacketsArrive_5) vp_PacketsArrive_5.psn 2 vk_PacketsArrive_5.handle vp_PacketsArrive_5.addr 8)
def vs2_PacketsArrive_5 : State := rxSt (vs1_PacketsArrive_5.rxWrite vp_PacketsArrive_5.dstQp (qpD.heard (tmSt (qpD) []).timeNs vp_PacketsArrive_5) vp_PacketsArrive_5.msn 2 vk_PacketsArrive_5.handle vp_PacketsArrive_5.addr (leBytes 8 (if fld vp_PacketsArrive_5.w28 0 4 = 0 then (leNat vbs_PacketsArrive_5 + leAt vp_PacketsArrive_5.payload 0 8) % 2 ^ 64 else if leNat vbs_PacketsArrive_5 = leAt vp_PacketsArrive_5.payload 8 8 then leAt vp_PacketsArrive_5.payload 0 8 else leNat vbs_PacketsArrive_5)))
def vq_PacketsArrive_6 : Qp := { qpD with rxSet := [0] }
def vs_PacketsArrive_6 : State := tmSt (vq_PacketsArrive_6) []
def vp_PacketsArrive_7 : Pkt := { pk 3 with psn := 65536 }
def vq_PacketsArrive_11 : Qp := { qpD with msgs := [{ msg0 with op := 0x32 }] }
def vm_PacketsArrive_11 : Msg := (vq_PacketsArrive_11.msgOf (pk 6).psn).get (by decide +kernel)
def vbs_PacketsArrive_11 : List Byte := (decodeData (pk 6).comp (pk 6).payload (some (min vm_PacketsArrive_11.per (vm_PacketsArrive_11.len - psnDiff (pk 6).psn vm_PacketsArrive_11.psn0 * vm_PacketsArrive_11.per)))).get (by decide +kernel)
def vs_PacketsArrive_11 : State := tmSt (vq_PacketsArrive_11) [(jb 0 5 1 0)]
def vs2_PacketsArrive_11 : State := wioSt ((vs_PacketsArrive_11.heard (pk 6)).writeOperand (jb 0 5 1 0) vm_PacketsArrive_11.lloc vm_PacketsArrive_11.lhandle (vm_PacketsArrive_11.laddr + psnDiff (pk 6).psn vm_PacketsArrive_11.psn0 * vm_PacketsArrive_11.per) vbs_PacketsArrive_11 vq_PacketsArrive_11.req)
def vp_PacketsArrive_12 : Pkt := { pk 8 with payload := leBytes 8 77 }
def vq_PacketsArrive_12 : Qp := { qpD with msgs := [{ msg0 with op := 0x34 }] }
def vm_PacketsArrive_12 : Msg := { msg0 with op := 0x34 }
def vs_PacketsArrive_12 : State := tmSt (vq_PacketsArrive_12) [(jb 0 5 1 0)]
def vp_PacketsArrive_13 : Pkt := { pk 9 with psn := 1, addr := 0 }
def vq_PacketsArrive_13 : Qp := { qpD with msgs := [msg0] }
def vs_PacketsArrive_13 : State := tmSt (vq_PacketsArrive_13) [(jb 0 5 1 0)]
def vp_PacketsArrive_14 : Pkt := { pk 9 with addr := 2, w28 := 0 }
def vq_PacketsArrive_14 : Qp := { qpD with msgs := [msg0] }
def vs_PacketsArrive_14 : State := tmSt (vq_PacketsArrive_14) [jb 0 5 1 0]
def vp_PacketsArrive_15 : Pkt := { pk 9 with addr := 5 }
def vp_PacketsArrive_16 : Pkt := { pk 9 with addr := 1, w28 := 0 }
def vq_PacketsArrive_16 : Qp := { qpD with msgs := [msg0] }
def vs_PacketsArrive_16 : State := tmSt (vq_PacketsArrive_16) []
def vp_PacketsArrive_17 : Pkt := { pk 10 with w18 := 3 }
def vp_PacketsArrive_18 : Pkt := { pk 5 with dstQp := 10 }
theorem witness_PacketsArrive :
    (∃ (c : Pkt → Instr), ∃ (ty : Nat), ∃ (p : Pkt), ∃ (s : State), ∃ (s2 : State), ∃ (q : Qp), ∃ (k : Ak), ∃ (bs : List Byte), (c, ty) ∈ ([(.rxWrite, 1), (.rxWriteImm, 2)] : List ((Pkt → Instr) × Nat)) ∧ p.ptype = ty ∧ s.hears p q ∧ (s.heard p).inWindow p (q.heard s.timeNs p) ∧ p.decoded = some bs ∧ (s.heard p).akFor q.slice p.w18 1 = some k ∧ (s.heard p).akHolds k (p.addr + p.off) bs.length 1 = true ∧ (q.rxFault = none ∨ k.kind ≠ 0) ∧ (s.heard p).rxWrite p.dstQp (q.heard s.timeNs p) p.msn k.loc k.handle (p.addr + p.off) bs = .ok s2 ()) ∧
    (∃ (p : Pkt), ∃ (s : State), ∃ (s2 : State), ∃ (q : Qp), ∃ (r : RecvWr), ∃ (bs : List Byte), p.ptype = 3 ∧ s.hears p q ∧ (s.heard p).inWindow p (q.heard s.timeNs p) ∧ (q.recvs.find? (fun r => r.ssn = p.w18) = some r) ∧ p.decoded = some bs ∧ p.off + bs.length ≤ r.len ∧ (q.rxFault = none ∨ r.loc ≠ 0) ∧ (s.heard p).rxWrite p.dstQp (q.heard s.timeNs p) p.msn r.loc r.handle (r.addr + p.off) bs = .ok s2 ()) ∧
    (∃ (p : Pkt), ∃ (s : State), ∃ (q : Qp), p.ptype = 3 ∧ s.hears p q ∧ (s.heard p).inWindow p (q.heard s.timeNs p) ∧ (q.recvs.find? (fun r => r.ssn = p.w18) = none)) ∧
    (∃ (p : Pkt), ∃ (s : State), ∃ (s1 : State), ∃ (s2 : State), ∃ (q : Qp), ∃ (k : Ak), ∃ (bs : List Byte), ∃ (old : List Byte), ∃ (now : List Byte), p.ptype = 4 ∧ s.hears p q ∧ (s.heard p).inWindow p (q.heard s.timeNs p) ∧ p.decoded = some bs ∧ (s.heard p).akFor q.slice p.w18 5 = some k ∧ (s.heard p).akHolds k (p.addr + p.off) bs.length 4 = true ∧ k.kind = 1 ∧ p.comp < 2 ∧ (s.heard p).rxRead p.dstQp (q.heard s.timeNs p) p.msn 2 k.handle (p.addr + p.off) bs.length = .ok s1 old ∧ now = (match s1.region k.handle q.slice with | some r => s1.ahead r (p.addr + p.off) old | none => old) ∧ s1.rxWrite p.dstQp (q.heard s.timeNs p) p.msn 2 k.handle (p.addr + p.off) (accBytes p.comp now bs) = .ok s2 ()) ∧
    (∃ (p : Pkt), ∃ (s : State), ∃ (s1 : State), ∃ (q : Qp), ∃ (k : Ak), ∃ (bs : List Byte), p.ptype = 5 ∧ s.hears p q ∧ (s.heard p).inWindow p (q.heard s.timeNs p) ∧ (s.heard p).akFor q.slice p.w18 2 = some k ∧ (s.heard p).akHolds k p.addr (p.off + 1) 2 = true ∧ (q.rxFault = none ∨ k.kind ≠ 0) ∧ (s.heard p).rxRead p.dstQp (q.heard s.timeNs p) p.psn k.loc k.handle p.addr (p.off + 1) = .ok s1 bs) ∧
    (∃ (p : Pkt), ∃ (s : State), ∃ (s1 : State), ∃ (s2 : State), ∃ (q : Qp), ∃ (k : Ak), ∃ (bs : List Byte), p.ptype = 7 ∧ s.hears p q ∧ (s.heard p).inWindow p (q.heard s.timeNs p) ∧ (s.heard p).akFor q.slice p.w18 4 = some k ∧ p.payload.length = 16 ∧ fld p.w28 0 4 < 2 ∧ p.addr % 8 = 0 ∧ (s.heard p).akHolds k p.addr 8 4 = true ∧ k.kind = 1 ∧ (s.heard p).atomicGuard (q.heard s.timeNs p) p k.handle = none ∧ (s.heard p).rxRead p.dstQp (q.heard s.timeNs p) p.psn 2 k.handle p.addr 8 = .ok s1 bs ∧ s1.rxWrite p.dstQp (q.heard s.timeNs p) p.msn 2 k.handle p.addr (leBytes 8 (if fld p.w28 0 4 = 0 then (leNat bs + leAt p.payload 0 8) % 2 ^ 64 else if leNat bs = leAt p.payload 8 8 then leAt p.payload 0 8 else leNat bs)) = .ok s2 ()) ∧
    (∃ (c : Pkt → Instr), ∃ (ty : Nat), ∃ (p : Pkt), ∃ (s : State), ∃ (q : Qp), (c, ty) ∈ ([(.rxWrite, 1), (.rxWriteImm, 2), (.rxSend, 3), (.rxAccumulate, 4)] : List ((Pkt → Instr) × Nat)) ∧ p.ptype = ty ∧ s.hears p q ∧ (2 ^ 31 ≤ psnDiff p.psn q.base ∨ (psnDiff p.psn q.base < 65536 ∧ q.rxSet.contains p.psn = true))) ∧
    (∃ (c : Pkt → Instr), ∃ (ty : Nat), ∃ (p : Pkt), ∃ (s : State), ∃ (q : Qp), (c, ty) ∈ ([(.rxWrite, 1), (.rxWriteImm, 2), (.rxSend, 3), (.rxAccumulate, 4)] : List ((Pkt → Instr) × Nat)) ∧ p.ptype = ty ∧ s.hears p q ∧ 65536 ≤ psnDiff p.psn q.base ∧ psnDiff p.psn q.base < 2 ^ 31) ∧
    (∃ (c : Pkt → Instr), ∃ (ty : Nat), ∃ (p : Pkt), ∃ (s : State), ∃ (q : Qp), (c, ty) ∈ ([(.rxWrite, 1), (.rxWriteImm, 2), (.rxSend, 3), (.rxAccumulate, 4)] : List ((Pkt → Instr) × Nat)) ∧ p.ptype = ty ∧ s.hears p q) ∧
    (∃ (c : Pkt → Instr), ∃ (ty : Nat), ∃ (p : Pkt), ∃ (s : State), ∃ (q : Qp), (c, ty) ∈ ([(.rxWrite, 1), (.rxWriteImm, 2), (.rxSend, 3), (.rxAccumulate, 4)] : List ((Pkt → Instr) × Nat)) ∧ p.ptype = ty ∧ s.hears p q) ∧
    (∃ (c : Pkt → Instr), ∃ (ty : Nat), ∃ (p : Pkt), ∃ (s : State), ∃ (q : Qp), (c, ty) ∈ ([(.rxReadResp, 6), (.rxAtomicResp, 8)] : List ((Pkt → Instr) × Nat)) ∧ p.ptype = ty ∧ s.hears p q ∧ q.msgOf p.psn = none) ∧
    (∃ (p : Pkt), ∃ (s : State), ∃ (s2 : State), ∃ (q : Qp), ∃ (m : Msg), ∃ (bs : List Byte), ∃ (j : Job), p.ptype = 6 ∧ s.hears p q ∧ q.msgOf p.psn = some m ∧ m.op = 0x32 ∧ m.inner = false ∧ m.got.contains (psnDiff p.psn m.psn0) = false ∧ (s.heard p).blockFor (q.heard s.timeNs p) (m.got.map (fun i => m.psn0 + i)) p.psn = true ∧ s.job m.sr m.tag = some j ∧ decodeData p.comp p.payload (some (min m.per (m.len - psnDiff p.psn m.psn0 * m.per))) = some bs ∧ (s.heard p).writeOperand j m.lloc m.lhandle (m.laddr + psnDiff p.psn m.psn0 * m.per) bs q.req = .ok s2) ∧
    (∃ (p : Pkt), ∃ (s : State), ∃ (q : Qp), ∃ (m : Msg), ∃ (j : Job), p.ptype = 8 ∧ s.hears p q ∧ q.msgs = [m] ∧ m.started = true ∧ psnDiff p.psn m.psn0 = 0 ∧ m.npkt = 1 ∧ (m.op = 0x34 ∨ m.op = 0x35) ∧ m.done = false ∧ m.inner = false ∧ m.ctr = 0 ∧ s.job m.sr m.tag = some j ∧ s.allLanded m.sr m.tag ∧ (s.heard p).blockFor (q.heard s.timeNs p) q.atomicPsns p.psn = true) ∧
    (∃ (p : Pkt), ∃ (s : State), ∃ (q : Qp), ∃ (m : Msg), ∃ (j : Job), p.ptype = 9 ∧ s.hears p q ∧ fld p.addr 0 8 = 0 ∧ q.msgs = [m] ∧ m.op ∈ [0x30, 0x31, 0x33, 0x36] ∧ m.started = true ∧ m.sent = m.npkt ∧ m.inner = false ∧ psnBefore p.psn q.ackBase = false ∧ psnBefore p.psn (m.psn0 + m.npkt) = false ∧ s.job m.sr m.tag = some j ∧ s.allLanded m.sr m.tag) ∧
    (∃ (p : Pkt), ∃ (s : State), ∃ (q : Qp), ∃ (m : Msg), ∃ (st : Nat), p.ptype = 9 ∧ s.hears p q ∧ (fld p.addr 0 8, st) ∈ [(2, stRemoteAccess), (3, stRemoteError), (4, stRemoteFault)] ∧ q.msgOf p.w28 = some m ∧ m.op < 0x100 ∧ (s.job m.sr m.tag).isSome = true ∧ (∀ x, q.msgs.head? = some x → x.finished (if psnBefore p.psn q.ackBase then q.ackBase else p.psn) = false)) ∧
    (∃ (p : Pkt), ∃ (s : State), ∃ (q : Qp), p.ptype = 9 ∧ s.hears p q ∧ fld p.addr 0 8 = 5 ∧ (∀ x, q.msgs.head? = some x → x.finished (if psnBefore p.psn q.ackBase then q.ackBase else p.psn) = false)) ∧
    (∃ (p : Pkt), ∃ (s : State), ∃ (q : Qp), ∃ (m : Msg), p.ptype = 9 ∧ s.hears p q ∧ fld p.addr 0 8 = 1 ∧ q.msgOf p.w28 = some m ∧ (q.rnrRetry = 15 ∨ m.rnr + 1 < q.rnrRetry) ∧ (∀ x, q.msgs.head? = some x → x.finished (if psnBefore p.psn q.ackBase then q.ackBase else p.psn) = false)) ∧
    (∃ (c : Pkt → Instr), ∃ (sub : Nat), ∃ (p : Pkt), ∃ (s : State), ∃ (q : Qp), (c, sub) ∈ ([(.rxCtrlStopNotice, 1), (.rxCtrlStepCheck, 2), (.rxCtrlClose, 3)] : List ((Pkt → Instr) × Nat)) ∧ p.ptype = 0xA ∧ fld p.w18 0 16 = sub ∧ s.hears p q ∧ (s.heard p).inWindow p (q.heard s.timeNs p)) ∧
    (∃ (c : Pkt → Instr), ∃ (ty : Nat), ∃ (p : Pkt), ∃ (s : State), (c, ty) ∈ ([(.rxWrite, 1), (.rxWriteImm, 2), (.rxSend, 3), (.rxAccumulate, 4), (.rxReadReq, 5), (.rxReadResp, 6), (.rxAtomicReq, 7), (.rxAtomicResp, 8), (.rxAck, 9)] : List ((Pkt → Instr) × Nat)) ∧ p.ptype = ty ∧ s.rf R.TMT_CTRL 16 1 = 1 ∧ p.ce = false ∧ Tbl.find s.tmt.qps p.dstQp = none) :=
  ⟨⟨(.rxWrite), (1), (vp_PacketsArrive_0), (tmSt (qpD) []), (vs2_PacketsArrive_0), (qpD), (vk_PacketsArrive_0), (vbs_PacketsArrive_0), by simp, by decide +kernel, ⟨by decide +kernel, by decide +kernel⟩, ⟨by decide +kernel, by decide +kernel⟩, by decide +kernel, by decide +kernel, by decide +kernel, by decide +kernel, rxU_ok _ (by decide +kernel)⟩,
   ⟨(vp_PacketsArrive_1), (vs_PacketsArrive_1), (vs2_PacketsArrive_1), (vq_PacketsArrive_1), (vr_PacketsArrive_1), (vbs_PacketsArrive_1), by decide +kernel, ⟨by decide +kernel, by decide +kernel⟩, ⟨by decide +kernel, by decide +kernel⟩, by decide +kernel, by decide +kernel, by decide +kernel, by decide +kernel, rxU_ok _ (by decide +kernel)⟩,
   ⟨(vp_PacketsArrive_2), (tmSt (qpD) []), (qpD), by decide +kernel, ⟨by decide +kernel, by decide +kernel⟩, ⟨by decide +kernel, by decide +kernel⟩, by decide +kernel⟩,
   ⟨(vp_PacketsArrive_3), (tmSt (qpD) []), (vs1_PacketsArrive_3), (vs2_PacketsArrive_3), (qpD), (vk_PacketsArrive_3), (vbs_PacketsArrive_3), (vold_PacketsArrive_3), (vnow_PacketsArrive_3), by decide +kernel, ⟨by decide +kernel, by decide +kernel⟩, ⟨by decide +kernel, by decide +kernel⟩, by decide +kernel, by decide +kernel, by decide +kernel, by decide +kernel, by decide +kernel, rx_ok _ (by decide +kernel), by decide +kernel, rxU_ok _ (by decide +kernel)⟩,
   ⟨(vp_PacketsArrive_4), (tmSt (qpD) []), (vs1_PacketsArrive_4), (qpD), (vk_PacketsArrive_4), (vbs_PacketsArrive_4), by decide +kernel, ⟨by decide +kernel, by decide +kernel⟩, ⟨by decide +kernel, by decide +kernel⟩, by decide +kernel, by decide +kernel, by decide +kernel, rx_ok _ (by decide +kernel)⟩,
   ⟨(vp_PacketsArrive_5), (tmSt (qpD) []), (vs1_PacketsArrive_5), (vs2_PacketsArrive_5), (qpD), (vk_PacketsArrive_5), (vbs_PacketsArrive_5), by decide +kernel, ⟨by decide +kernel, by decide +kernel⟩, ⟨by decide +kernel, by decide +kernel⟩, by decide +kernel, by decide +kernel, by decide +kernel, by decide +kernel, by decide +kernel, by decide +kernel, by decide +kernel, rx_ok _ (by decide +kernel), rxU_ok _ (by decide +kernel)⟩,
   ⟨(.rxWrite), (1), (pk 1), (vs_PacketsArrive_6), (vq_PacketsArrive_6), by simp, by decide +kernel, ⟨by decide +kernel, by decide +kernel⟩, by decide +kernel⟩,
   ⟨(.rxSend), (3), (vp_PacketsArrive_7), (tmSt (qpD) []), (qpD), by simp, by decide +kernel, ⟨by decide +kernel, by decide +kernel⟩, by decide +kernel, by decide +kernel⟩,
   ⟨(.rxWriteImm), (2), (pk 2), (tmSt (qpD) []), (qpD), by simp, by decide +kernel, ⟨by decide +kernel, by decide +kernel⟩⟩,
   ⟨(.rxAccumulate), (4), (pk 4), (tmSt (qpD) []), (qpD), by simp, by decide +kernel, ⟨by decide +kernel, by decide +kernel⟩⟩,
   ⟨(.rxReadResp), (6), (pk 6), (tmSt (qpD) []), (qpD), by simp, by decide +kernel, ⟨by decide +kernel, by decide +kernel⟩, by decide +kernel⟩,
   ⟨(pk 6), (vs_PacketsArrive_11), (vs2_PacketsArrive_11), (vq_PacketsArrive_11), (vm_PacketsArrive_11), (vbs_PacketsArrive_11), (jb 0 5 1 0), by decide +kernel, ⟨by decide +kernel, by decide +kernel⟩, by decide +kernel, by decide +kernel, by decide +kernel, by decide +kernel, by decide +kernel, by decide +kernel, by decide +kernel, wio_ok _ (by decide +kernel)⟩,
   ⟨(vp_PacketsArrive_12), (vs_PacketsArrive_12), (vq_PacketsArrive_12), (vm_PacketsArrive_12), (jb 0 5 1 0), by decide +kernel, ⟨by decide +kernel, by decide +kernel⟩, by decide +kernel, by decide +kernel, by decide +kernel, by decide +kernel, by decide +kernel, by decide +kernel, by decide +kernel, by decide +kernel, by decide +kernel, landed_of (by decide +kernel), by decide +kernel⟩,
   ⟨(vp_PacketsArrive_13), (vs_PacketsArrive_13), (vq_PacketsArrive_13), (msg0), (jb 0 5 1 0), by decide +kernel, ⟨by decide +kernel, by decide +kernel⟩, by decide +kernel, by decide +kernel, by decide +kernel, by decide +kernel, by decide +kernel, by decide +kernel, by decide +kernel, by decide +kernel, by decide +kernel, landed_of (by decide +kernel)⟩,
   ⟨(vp_PacketsArrive_14), (vs_PacketsArrive_14), (vq_PacketsArrive_14), (msg0), (stRemoteAccess), by decide +kernel, ⟨by decide +kernel, by decide +kernel⟩, by decide +kernel, by decide +kernel, by decide +kernel, by decide +kernel, by decide +kernel⟩,
   ⟨(vp_PacketsArrive_15), (tmSt (qpD) []), (qpD), by decide +kernel, ⟨by decide +kernel, by decide +kernel⟩, by decide +kernel, by decide +kernel⟩,
   ⟨(vp_PacketsArrive_16), (vs_PacketsArrive_16), (vq_PacketsArrive_16), (msg0), by decide +kernel, ⟨by decide +kernel, by decide +kernel⟩, by decide +kernel, by decide +kernel, by decide +kernel, by decide +kernel⟩,
   ⟨(.rxCtrlClose), (3), (vp_PacketsArrive_17), (tmSt (qpD) []), (qpD), by simp, by decide +kernel, by decide +kernel, ⟨by decide +kernel, by decide +kernel⟩, ⟨by decide +kernel, by decide +kernel⟩⟩,
   ⟨(.rxReadReq), (5), (vp_PacketsArrive_18), (tmSt qpD []), by simp, by decide +kernel, by decide +kernel, by decide +kernel, by decide +kernel⟩⟩

def vm_DeliveryInOrder_0 : RxMsg := ({ msn := 0, ptype := 1, psn0 := 0, psnEnd := none, ssn := 3, imm := 7, ctr := 0, len := 4, body := [] } : RxMsg)
def vq_DeliveryInOrder_0 : Qp := { qpD with rxSet := [0], rxMsgs := [vm_DeliveryInOrder_0] }
def vs_DeliveryInOrder_0 : State := tmSt (vq_DeliveryInOrder_0) []
def vm_DeliveryInOrder_1 : RxMsg := ({ msn := 0, ptype := 1, psn0 := 0, psnEnd := some 0, ssn := 3, imm := 7, ctr := 0, len := 4, body := [] } : RxMsg)
def vq_DeliveryInOrder_1 : Qp := { qpD with rxSet := [0], rxMsgs := [vm_DeliveryInOrder_1] }
def vs_DeliveryInOrder_1 : State := ({ tmSt (vq_DeliveryInOrder_1) [] with pcie := { (tmSt (vq_DeliveryInOrder_1) []).pcie with wroteLinks := [(65545, 0, 3, 64)] } } : State)
def vm_DeliveryInOrder_2 : RxMsg := ({ msn := 0, ptype := 1, psn0 := 0, psnEnd := some 0, ssn := 3, imm := 7, ctr := 0, len := 4, body := [] } : RxMsg)
def vq_DeliveryInOrder_2 : Qp := { qpD with rxSet := [0], rxMsgs := [vm_DeliveryInOrder_2] }
def vs_DeliveryInOrder_2 : State := tmSt (vq_DeliveryInOrder_2) []
def vm_DeliveryInOrder_3 : RxMsg := ({ msn := 0, ptype := 1, psn0 := 0, psnEnd := some 0, ssn := 3, imm := 7, ctr := 6, len := 4, body := [] } : RxMsg)
def vq_DeliveryInOrder_3 : Qp := { qpD with rxSet := [0], rxMsgs := [vm_DeliveryInOrder_3] }
def vs_DeliveryInOrder_3 : State := tmSt (vq_DeliveryInOrder_3) []
def vm_DeliveryInOrder_4 : RxMsg := ({ msn := 0, ptype := 2, psn0 := 0, psnEnd := some 0, ssn := 3, imm := 7, ctr := 0, len := 4, body := [] } : RxMsg)
def vq_DeliveryInOrder_4 : Qp := { qpD with rxSet := [0], rxMsgs := [vm_DeliveryInOrder_4], recvCr := 4 }
def vs_DeliveryInOrder_4 : State := tmSt (vq_DeliveryInOrder_4) []
def vm_DeliveryInOrder_5 : RxMsg := ({ msn := 0, ptype := 3, psn0 := 0, psnEnd := some 0, ssn := 3, imm := 7, ctr := 0, len := 4, body := [] } : RxMsg)
def vr_DeliveryInOrder_5 : RecvWr := ⟨0, 5, 3, 64, 2, 0x10001, 128, 0⟩
def vq_DeliveryInOrder_5 : Qp := { qpD with rxSet := [0], rxMsgs := [vm_DeliveryInOrder_5], recvs := [vr_DeliveryInOrder_5] }
def vs_DeliveryInOrder_5 : State := tmSt (vq_DeliveryInOrder_5) [jb 0 5 1 0]
def vm_TransportTimers_0 : Msg := { msg0 with started := false, sent := 0 }
def vq_TransportTimers_0 : Qp := { qpD with msgs := [vm_TransportTimers_0] }
def vs_TransportTimers_0 : State := tmSt (vq_TransportTimers_0) []
def vq_TransportTimers_1 : Qp := { qpD with responses := [pk 6] }
def vs_TransportTimers_1 : State := tmSt (vq_TransportTimers_1) []
def vq_TransportTimers_2 : Qp := { qpD with sinceAck := 2 }
def vs_TransportTimers_2 : State := tmSt (vq_TransportTimers_2) []
def vq_TransportTimers_3 : Qp := { qpD with sinceAck := 2, ackSince := 10^9 - 1999 }
def vs_TransportTimers_3 : State := tmSt (vq_TransportTimers_3) []
def vq_TransportTimers_4 : Qp := { qpD with unacked := [(⟨0, 0, 10^9 - 49999, 0, false, false⟩ : Unacked)] }
def vu_TransportTimers_4 : Unacked := (⟨0, 0, 10^9 - 49999, 0, false, false⟩ : Unacked)
def vs_TransportTimers_4 : State := tmSt (vq_TransportTimers_4) []
def vq_TransportTimers_5 : Qp := { qpD with unacked := [(⟨0, 0, 5, 0, false, false⟩ : Unacked)] }
def vu_TransportTimers_5 : Unacked := (⟨0, 0, 5, 0, false, false⟩ : Unacked)
def vs_TransportTimers_5 : State := tmSt (vq_TransportTimers_5) []
def vq_TransportTimers_6 : Qp := { qpD with unacked := [(⟨0, 0, 5, 0, false, false⟩ : Unacked)], msgs := [msg0], expiries := 2 }
def vu_TransportTimers_6 : Unacked := (⟨0, 0, 5, 0, false, false⟩ : Unacked)
def vs_TransportTimers_6 : State := tmSt (vq_TransportTimers_6) [jb 0 5 1 0]
def vq_TransportTimers_7 : Qp := { qpD with msgs := [{ msg0 with rnrWait := true }], unacked := [(⟨0, 0, 5, 0, false, false⟩ : Unacked)] }
def vm_TransportTimers_7 : Msg := { msg0 with rnrWait := true }
def vs_TransportTimers_7 : State := tmSt (vq_TransportTimers_7) []
def vq_TransportTimers_8 : Qp := { qpD with msgs := [{ msg0 with rnrWait := true, rnrSince := 10^9 - 19999 }] }
def vs_TransportTimers_8 : State := tmSt (vq_TransportTimers_8) []
def vq_TransportTimers_9 : Qp := { qpD with paths := [⟨10, 0, 0, 0, true, 3, 4, 5, 6⟩, ⟨10, 0, 0, 0, true, 3, 4, 5, 6⟩] }
def vp_TransportTimers_9 : Path := (⟨10, 0, 0, 0, true, 3, 4, 5, 6⟩ : Path)
def vs_TransportTimers_9 : State := tmSt (vq_TransportTimers_9) []
def vq_TransportTimers_10 : Qp := { qpD with grace := true, nextKey := 5 }
def vs_TransportTimers_10 : State := tmSt (vq_TransportTimers_10) []
def vs_TransportTimers_11 : State := { tmSt qpD [] with tmt := { (tmSt qpD []).tmt with cooling := [(9, 5), (10, 7)] } }
def vt0_TransportTimers_12 : Nat := 10^9 - 15999999
def vs_TransportTimers_12 : State := { tmSt qpD [] with tmt := { (tmSt qpD []).tmt with cooling := [(9, 10^9 - 15999999), (10, 7)] } }
theorem witness_DeliveryAndTimers :
    (∃ (qn : Nat), ∃ (e : Nat), ∃ (s : State), ∃ (q : Qp), ∃ (m : RxMsg), Tbl.find s.tmt.qps qn = some q ∧ q.state = .rts ∧ (q.rxMsgs.find? (fun m => m.msn = q.rxMsn % 65536) = some m) ∧ s.rxComplete qn q m = false) ∧
    (∃ (qn : Nat), ∃ (e : Nat), ∃ (s : State), ∃ (q : Qp), ∃ (m : RxMsg), Tbl.find s.tmt.qps qn = some q ∧ q.state = .rts ∧ (q.rxMsgs.find? (fun m => m.msn = q.rxMsn % 65536) = some m) ∧ s.rxComplete qn q m = true ∧ Tbl.has s.mem.guardFail (ownerNum (65536 + qn) (m.msn % 65536)) = false ∧ (s.pcie.wroteLinks.any (fun w => w.1 = 65536 + qn && w.2.1 = m.msn % 65536) = true)) ∧
    (∃ (qn : Nat), ∃ (e : Nat), ∃ (s : State), ∃ (q : Qp), ∃ (m : RxMsg), Tbl.find s.tmt.qps qn = some q ∧ q.state = .rts ∧ (q.rxMsgs.find? (fun m => m.msn = q.rxMsn % 65536) = some m) ∧ s.rxComplete qn q m = true ∧ m.psnEnd = some e ∧ Tbl.has s.mem.guardFail (ownerNum (65536 + qn) (m.msn % 65536)) = false ∧ (s.pcie.wroteLinks.any (fun w => w.1 = 65536 + qn && w.2.1 = m.msn % 65536) = false) ∧ m.ptype = 1 ∧ m.ctr = 0) ∧
    (∃ (qn : Nat), ∃ (e : Nat), ∃ (s : State), ∃ (q : Qp), ∃ (m : RxMsg), ∃ k, Tbl.find s.tmt.qps qn = some q ∧ q.state = .rts ∧ (q.rxMsgs.find? (fun m => m.msn = q.rxMsn % 65536) = some m) ∧ s.rxComplete qn q m = true ∧ m.psnEnd = some e ∧ Tbl.has s.mem.guardFail (ownerNum (65536 + qn) (m.msn % 65536)) = false ∧ (s.pcie.wroteLinks.any (fun w => w.1 = 65536 + qn && w.2.1 = m.msn % 65536) = false) ∧ m.ptype = 1 ∧ m.ctr ≠ 0 ∧ s.armsOn 1 m.ctr = [] ∧ s.counterOf m.ctr q.slice = some k ∧ k.armed = false) ∧
    (∃ (qn : Nat), ∃ (e : Nat), ∃ (s : State), ∃ (q : Qp), ∃ (m : RxMsg), Tbl.find s.tmt.qps qn = some q ∧ q.state = .rts ∧ (q.rxMsgs.find? (fun m => m.msn = q.rxMsn % 65536) = some m) ∧ s.rxComplete qn q m = true ∧ m.psnEnd = some e ∧ Tbl.has s.mem.guardFail (ownerNum (65536 + qn) (m.msn % 65536)) = false ∧ (s.pcie.wroteLinks.any (fun w => w.1 = 65536 + qn && w.2.1 = m.msn % 65536) = false) ∧ m.ptype = 2 ∧ m.ctr = 0 ∧ Tbl.find s.ring.crs q.recvCr = none) ∧
    (∃ (qn : Nat), ∃ (e : Nat), ∃ (s : State), ∃ (q : Qp), ∃ (m : RxMsg), ∃ (r : RecvWr), Tbl.find s.tmt.qps qn = some q ∧ q.state = .rts ∧ (q.rxMsgs.find? (fun m => m.msn = q.rxMsn % 65536) = some m) ∧ s.rxComplete qn q m = true ∧ m.psnEnd = some e ∧ Tbl.has s.mem.guardFail (ownerNum (65536 + qn) (m.msn % 65536)) = false ∧ (s.pcie.wroteLinks.any (fun w => w.1 = 65536 + qn && w.2.1 = m.msn % 65536) = false) ∧ m.ptype = 3 ∧ m.ctr = 0 ∧ (q.recvs.find? (fun r => r.ssn = m.ssn) = some r) ∧ (s.job r.sr r.tag).isSome = true) ∧
    (∃ (qn : Nat), ∃ (k : Nat), ∃ (s : State), ∃ (q : Qp), ∃ (m : Msg), Tbl.find s.tmt.qps qn = some q ∧ s.rf R.TMT_CTRL 16 1 = 1 ∧ q.state = .rts ∧ q.responses = [] ∧ q.unacked = [] ∧ q.encrypt = false ∧ q.sched = false ∧ q.msgs = [m] ∧ m.op ∈ [0x30, 0x31, 0x33, 0x36] ∧ m.npkt ≠ 0 ∧ m.started = false ∧ m.sent = 0 ∧ m.data.isSome = true ∧ m.rnrWait = false ∧ q.nextPsn < 2 ^ 32 ∧ psnDiff q.nextPsn q.ackBase < 65536 ∧ (s.txQueue q q.pcp).isSome = true ∧ q.pickPath s.timeNs = some k ∧ q.paced k s.timeNs = true) ∧
    (∃ (qn : Nat), ∃ (k : Nat), ∃ (s : State), ∃ (q : Qp), ∃ (p : Pkt), ∃ (rest : List Pkt), Tbl.find s.tmt.qps qn = some q ∧ s.rf R.TMT_CTRL 16 1 = 1 ∧ q.state = .rts ∧ q.responses = p :: rest ∧ q.sched = false ∧ (s.txQueue q q.pcp).isSome = true ∧ q.pickPath s.timeNs = some k ∧ q.paced k s.timeNs = true) ∧
    (∃ (qn : Nat), ∃ (s : State), ∃ (q : Qp), Tbl.find s.tmt.qps qn = some q ∧ q.state = .rts ∧ q.sinceAck ≠ 0 ∧ q.ackSince + 2000 ≤ s.timeNs ∧ s.rf R.TMT_CTRL 16 1 = 1) ∧
    (∃ (qn : Nat), ∃ (s : State), ∃ (q : Qp), Tbl.find s.tmt.qps qn = some q ∧ q.state = .rts ∧ q.sinceAck ≠ 0 ∧ s.timeNs < q.ackSince + 2000) ∧
    (∃ (qn : Nat), ∃ (k : Nat), ∃ (s : State), ∃ (q : Qp), ∃ (u : Unacked), Tbl.find s.tmt.qps qn = some q ∧ (q.unacked.find? (fun u => u.path = k && !u.lost) = some u) ∧ s.timeNs < u.time + q.rto k) ∧
    (∃ (qn : Nat), ∃ (k : Nat), ∃ (s : State), ∃ (q : Qp), ∃ (u : Unacked), Tbl.find s.tmt.qps qn = some q ∧ (q.unacked.find? (fun u => u.path = k && !u.lost) = some u) ∧ u.time + q.rto k ≤ s.timeNs ∧ q.expiries + 1 < q.retry) ∧
    (∃ (qn : Nat), ∃ (k : Nat), ∃ (s : State), ∃ (q : Qp), ∃ (u : Unacked), ∃ m, Tbl.find s.tmt.qps qn = some q ∧ (q.unacked.find? (fun u => u.path = k && !u.lost) = some u) ∧ u.time + q.rto k ≤ s.timeNs ∧ q.retry ≤ q.expiries + 1 ∧ q.state = .rts ∧ q.msgOf u.psn = some m ∧ m.op < 0x100 ∧ (s.job m.sr m.tag).isSome = true) ∧
    (∃ (qn : Nat), ∃ (s : State), ∃ (q : Qp), ∃ (m : Msg), Tbl.find s.tmt.qps qn = some q ∧ (q.msgs.find? (fun m => m.rnrWait && m.rnrSince + 20000 ≤ s.timeNs) = some m) ∧ m.started = true) ∧
    (∃ (qn : Nat), ∃ (s : State), ∃ (q : Qp), Tbl.find s.tmt.qps qn = some q ∧ (∀ m ∈ q.msgs, m.rnrWait = true → s.timeNs < m.rnrSince + 20000)) ∧
    (∃ (qn : Nat), ∃ (k : Nat), ∃ (s : State), ∃ (q : Qp), ∃ (p : Path), Tbl.find s.tmt.qps qn = some q ∧ q.paths[k]? = some p) ∧
    (∃ (qn : Nat), ∃ (s : State), ∃ (q : Qp), Tbl.find s.tmt.qps qn = some q ∧ q.grace = true ∧ q.nextKey ≠ 0) ∧
    (∃ (qn : Nat), ∃ (t0 : Nat), ∃ (s : State), Tbl.find s.tmt.cooling qn = some t0 ∧ t0 + 16 * 10 ^ 6 ≤ s.timeNs) ∧
    (∃ (qn : Nat), ∃ (t0 : Nat), ∃ (s : State), Tbl.find s.tmt.cooling qn = some t0 ∧ s.timeNs < t0 + 16 * 10 ^ 6) ∧
    (∃ (sl : Nat), ∃ (n : Nat), ∃ (s : State), ∃ (q : Qp), Tbl.find s.tmt.qps n = some q) :=
  ⟨⟨(9), (0), (vs_DeliveryInOrder_0), (vq_DeliveryInOrder_0), (vm_DeliveryInOrder_0), by decide +kernel, by decide +kernel, by decide +kernel, by decide +kernel⟩,
   ⟨(9), (0), (vs_DeliveryInOrder_1), (vq_DeliveryInOrder_1), (vm_DeliveryInOrder_1), by decide +kernel, by decide +kernel, by decide +kernel, by decide +kernel, by decide +kernel, by decide +kernel⟩,
   ⟨(9), (0), (vs_DeliveryInOrder_2), (vq_DeliveryInOrder_2), (vm_DeliveryInOrder_2), by decide +kernel, by decide +kernel, by decide +kernel, by decide +kernel, by decide +kernel, by decide +kernel, by decide +kernel, by decide +kernel, by decide +kernel⟩,
   ⟨(9), (0), (vs_DeliveryInOrder_3), (vq_DeliveryInOrder_3), (vm_DeliveryInOrder_3), ((vs_DeliveryInOrder_3.counterOf vm_DeliveryInOrder_3.ctr vq_DeliveryInOrder_3.slice).get (by decide +kernel)), by decide +kernel, by decide +kernel, by decide +kernel, by decide +kernel, by decide +kernel, by decide +kernel, by decide +kernel, by decide +kernel, by decide +kernel, by decide +kernel, by decide +kernel, by decide +kernel⟩,
   ⟨(9), (0), (vs_DeliveryInOrder_4), (vq_DeliveryInOrder_4), (vm_DeliveryInOrder_4), by decide +kernel, by decide +kernel, by decide +kernel, by decide +kernel, by decide +kernel, by decide +kernel, by decide +kernel, by decide +kernel, by decide +kernel, by decide +kernel⟩,
   ⟨(9), (0), (vs_DeliveryInOrder_5), (vq_DeliveryInOrder_5), (vm_DeliveryInOrder_5), (vr_DeliveryInOrder_5), by decide +kernel, by decide +kernel, by decide +kernel, by decide +kernel, by decide +kernel, by decide +kernel, by decide +kernel, by decide +kernel, by decide +kernel, by decide +kernel, by decide +kernel⟩,
   ⟨(9), (0), (vs_TransportTimers_0), (vq_TransportTimers_0), (vm_TransportTimers_0), by decide +kernel, by decide +kernel, by decide +kernel, by decide +kernel, by decide +kernel, by decide +kernel, by decide +kernel, by decide +kernel, by decide +kernel, by decide +kernel, by decide +kernel, by decide +kernel, by decide +kernel, by decide +kernel, by decide +kernel, by decide +kernel, by decide +kernel, by decide +kernel, by decide +kernel⟩,
   ⟨(9), (0), (vs_TransportTimers_1), (vq_TransportTimers_1), (pk 6), ([]), by decide +kernel, by decide +kernel, by decide +kernel, by decide +kernel, by decide +kernel, by decide +kernel, by decide +kernel, by decide +kernel⟩,
   ⟨(9), (vs_TransportTimers_2), (vq_TransportTimers_2), by decide +kernel, by decide +kernel, by decide +kernel, by decide +kernel, by decide +kernel⟩,
   ⟨(9), (vs_TransportTimers_3), (vq_TransportTimers_3), by decide +kernel, by decide +kernel, by decide +kernel, by decide +kernel⟩,
   ⟨(9), (0), (vs_TransportTimers_4), (vq_TransportTimers_4), (vu_TransportTimers_4), by decide +kernel, by decide +kernel, by decide +kernel⟩,
   ⟨(9), (0), (vs_TransportTimers_5), (vq_TransportTimers_5), (vu_TransportTimers_5), by decide +kernel, by decide +kernel, by decide +kernel, by decide +kernel⟩,
   ⟨(9), (0), (vs_TransportTimers_6), (vq_TransportTimers_6), (vu_TransportTimers_6), (msg0), by decide +kernel, by decide +kernel, by decide +kernel, by decide +kernel, by decide +kernel, by decide +kernel, by decide +kernel, by decide +kernel⟩,
   ⟨(9), (vs_TransportTimers_7), (vq_TransportTimers_7), (vm_TransportTimers_7), by decide +kernel, by decide +kernel, by decide +kernel⟩,
   ⟨(9), (vs_TransportTimers_8), (vq_TransportTimers_8), by decide +kernel, by decide +kernel⟩,
   ⟨(9), (0), (vs_TransportTimers_9), (vq_TransportTimers_9), (vp_TransportTimers_9), by decide +kernel, by decide +kernel⟩,
   ⟨(9), (vs_TransportTimers_10), (vq_TransportTimers_10), by decide +kernel, by decide +kernel, by decide +kernel⟩,
   ⟨(9), (5), (vs_TransportTimers_11), by decide +kernel, by decide +kernel⟩,
   ⟨(9), (vt0_TransportTimers_12), (vs_TransportTimers_12), by decide +kernel, by decide +kernel⟩,
   ⟨(1), (9), (tmSt (qpD) []), (qpD), by decide +kernel⟩⟩

def vbytes_FramesMoveOn_0 : List Byte := (zeroBytes 12 ++ [8, 0] ++ zeroBytes 50)
def vs_FramesMoveOn_0 : State := setRegs (full) [(R.PRT_OCTET 0, 3), (R.PRT_OCTET_STATUS 0, 9)]
def vbytes_FramesMoveOn_1 : List Byte := zeroBytes 12 ++ [0x88, 8, 0, 1] ++ zeroBytes 44
def vs_FramesMoveOn_1 : State := setRegs (full) [(R.PRT_OCTET 0, 3), (R.PRT_OCTET_STATUS 0, 9)]
def vbytes_FramesMoveOn_2 : List Byte := (zeroBytes 12 ++ [8, 0] ++ zeroBytes 50) ++ zeroBytes 64
def vs_FramesMoveOn_2 : State := setRegs (full) [(R.PKT_PORT 0 0, 64 * 2^32), (R.PRT_OCTET 0, 3), (R.PRT_OCTET_STATUS 0, 9)]
def vbytes_FramesMoveOn_3 : List Byte := (zeroBytes 12 ++ [8, 0] ++ zeroBytes 50)
def vs_FramesMoveOn_3 : State := setRegs (full) [(R.PRT_OCTET 0, 3), (R.PRT_OCTET_STATUS 0, 9)]
def vs_FramesMoveOn_4 : State := setRegs (full) [(R.PKT_PORT 0 0, 4096)]
def va_FramesMoveOn_4 : Arrived := (Arrived.mk 0 0 (zeroBytes 12 ++ [8, 0] ++ zeroBytes 50) (zeroBytes 12 ++ [8, 0] ++ zeroBytes 50) ({ ok := false, off := 0, node := 0, reason := 1, heads := [], ext := [] } : Parsed) 5 false)
def vf_FramesMoveOn_5 : QFrame := QFrame.own (zeroBytes 12 ++ [8, 0] ++ zeroBytes 50)
def vs_FramesMoveOn_5 : State := setRegs (({ full with pkt := { full.pkt with dies := [(0, { PktDie.fresh with queues := [(5, [QFrame.own (zeroBytes 12 ++ [8, 0] ++ zeroBytes 50)])] })] } } : State)) [(R.TSH_QUEUE 0 5, 64), (R.PRT_OCTET 0, 3), (R.PRT_OCTET_STATUS 0, 9)]
def vsl_FramesMoveOn_5 : Nat := ((vs_FramesMoveOn_5.pickSlice 0 0 [(5, vs_FramesMoveOn_5.countedLen (0 * 8 + 0 / 8) (0 % 8) (vs_FramesMoveOn_5.egress 0 vf_FramesMoveOn_5).bytes)]).get (by decide +kernel)).1
def vcommitted_FramesMoveOn_5 : Bool := ((vs_FramesMoveOn_5.pickSlice 0 0 [(5, vs_FramesMoveOn_5.countedLen (0 * 8 + 0 / 8) (0 % 8) (vs_FramesMoveOn_5.egress 0 vf_FramesMoveOn_5).bytes)]).get (by decide +kernel)).2.1
def vk_FramesMoveOn_5 : Pick := ((vs_FramesMoveOn_5.pickSlice 0 0 [(5, vs_FramesMoveOn_5.countedLen (0 * 8 + 0 / 8) (0 % 8) (vs_FramesMoveOn_5.egress 0 vf_FramesMoveOn_5).bytes)]).get (by decide +kernel)).2.2
def vbytes_FramesMoveOn_6 : List Byte := (zeroBytes 12 ++ [8, 0] ++ zeroBytes 50)
def vs_FramesMoveOn_6 : State := setRegs (full) [(R.PRT_OCTET 0, 3), (R.PRT_OCTET_STATUS 0, 9)]
def vs_FramesMoveOn_7 : State := setRegs (({ full with pkt := { full.pkt with dies := [(0, { PktDie.fresh with paused := [(1, 5), (2, 6)] })] } } : State)) [(R.TSH_PFC 0 0, 3), (R.PRT_OCTET 0, 3), (R.PRT_OCTET_STATUS 0, 9)]
def vs_FramesMoveOn_8 : State := ({ full with pkt := { full.pkt with dies := [(0, { PktDie.fresh with paused := [(1, 10^12), (2, 6)] })] } } : State)
def vs_FramesMoveOn_9 : State := ({ full with pkt := { full.pkt with dies := [(0, { PktDie.fresh with paused := [(1, 5), (2, 6)] })] } } : State)
def vs_FramesMoveOn_10 : State := setRegs (({ full with pkt := { full.pkt with dies := [(0, { PktDie.fresh with xoff := [(1, 0)] })] } } : State)) [(R.TSH_PFC 0 0, 3), (R.PRT_OCTET 0, 3), (R.PRT_OCTET_STATUS 0, 9)]
def vs_FramesMoveOn_11 : State := setRegs (({ full with pkt := { full.pkt with dies := [(0, { PktDie.fresh with xoff := [(1, full.timeNs)] })] } } : State)) [(R.TSH_PFC 0 0, 3), (R.PRT_OCTET 0, 3), (R.PRT_OCTET_STATUS 0, 9)]
def vs_PacketSettings_0 : State := setRegs (full) [(R.PKT_CTRL 1, 4)]
def vs_PacketSettings_1 : State := setRegs (full) [(R.PKT_CTRL 1, 4)]
def ventry_PacketSettings_4 : Nat := 1 + 7 * 2^5 + 100 * 2^128 + 50 * 2^160
def ve_PacketSettings_4 : Nat := 1 + 100 * 2^128 + 50 * 2^160
def ventry_PacketSettings_5 : Nat := 2 + 100 * 2^128 + 50 * 2^160
def ve_PacketSettings_5 : Nat := 2 + 100 * 2^128 + 50 * 2^160
def vs_PacketSettings_5 : State := ({ full with pkt := { full.pkt with dies := [(0, { PktDie.fresh with meters := [(7, ⟨1 + 200 * 2^128, 200000000, 0, 10^9⟩)] })] } } : State)
theorem witness_Packets :
    (∃ (o : Nat), ∃ (j : Nat), ∃ (bytes : List Byte), ∃ (parity : Bool), ∃ (s : State), s.portUp o j = true) ∧
    (∃ (o : Nat), ∃ (j : Nat), ∃ (bytes : List Byte), ∃ (parity : Bool), ∃ (s : State), s.portUp o j = true ∧ beNat (bsub bytes 12 2) = 0x8808 ∧ beNat (bsub bytes 14 2) = 1) ∧
    (∃ (o : Nat), ∃ (j : Nat), ∃ (bytes : List Byte), ∃ (parity : Bool), ∃ (s : State), s.portUp o j = true ∧ beNat (bsub bytes 12 2) ≠ 0x8808 ∧ (s.cnt (R.PKT_RX_FRAMES (dieOf o))).mtu (dieOf o) (subOf o j) < bytes.length + 4) ∧
    (∃ (o : Nat), ∃ (j : Nat), ∃ (bytes : List Byte), ∃ (parity : Bool), ∃ (s : State), s.portUp o j = true ∧ beNat (bsub bytes 12 2) ≠ 0x8808 ∧ bytes.length + 4 ≤ (s.cnt (R.PKT_RX_FRAMES (dieOf o))).mtu (dieOf o) (subOf o j)) ∧
    (∃ (s : State), ∃ (pass : Nat), ∃ (left : Nat), ∃ (a : Arrived), ∃ (c : Cls), a.parsed.ok = false ∧ (s.cnt (R.PKT_PARSE_FAIL a.p)).rf (R.PKT_PORT a.p a.n) 12 1 = 1) ∧
    (∃ (p : Nat), ∃ (n : Nat), ∃ (q : Nat), ∃ (sl : Nat), ∃ (committed : Bool), ∃ (k : Pick), ∃ (f : QFrame), ∃ (s : State), n < 64 ∧ s.portUp (p * 8 + n / 8) (n % 8) = true ∧ (s.die p).queues = [(q, [f])] ∧ s.rf (R.TSH_QUEUE p q) 0 6 = n ∧ s.eligible p n q = true ∧ s.gateAdmits (p * 8 + n / 8) (n % 8) (s.rf (R.TSH_QUEUE p q) 12 3) ((s.egress p f).bytes.length + 4) = true ∧ s.pickSlice p n [(q, s.countedLen (p * 8 + n / 8) (n % 8) (s.egress p f).bytes)] = some (sl, committed, k) ∧ k.q = q ∧ (s.egress p f).control = false ∧ (s.egress p f).bytes.length + 4 ≤ s.mtu p n ∧ f.ingress = none) ∧
    (∃ (p : Nat), ∃ (q : Nat), ∃ (bytes : List Byte), ∃ (s : State), p < 4 ∧ q < 4096 ∧ s.queueOk p q = true) ∧
    (∃ (o : Nat), ∃ (j : Nat), ∃ (vector : Nat), ∃ (quanta : List Nat), ∃ (s : State), s.portUp o j = true) ∧
    (∃ (p : Nat), ∃ (n : Nat), ∃ (c : Nat), ∃ (t : Nat), ∃ (s : State), Tbl.find (s.die p).paused (n * 8 + c) = some t ∧ s.timeNs < t) ∧
    (∃ (p : Nat), ∃ (n : Nat), ∃ (c : Nat), ∃ (s : State), s.pausedNow p n c = false) ∧
    (∃ (p : Nat), ∃ (n : Nat), ∃ (c : Nat), ∃ (t0 : Nat), ∃ (s : State), Tbl.find (s.die p).xoff (n * 8 + c) = some t0 ∧ s.pfcOn p n c = true ∧ t0 + 0xFFFF * 64 / s.portRate (p * 8 + n / 8) / 2 ≤ s.timeNs) ∧
    (∃ (p : Nat), ∃ (n : Nat), ∃ (c : Nat), ∃ (t0 : Nat), ∃ (s : State), Tbl.find (s.die p).xoff (n * 8 + c) = some t0 ∧ s.pfcOn p n c = true ∧ s.timeNs < t0 + 0xFFFF * 64 / s.portRate (p * 8 + n / 8) / 2) ∧
    (∃ (p : Nat), ∃ (s : State), p < 4) ∧
    (∃ (p : Nat), ∃ (s : State), p < 4 ∧ s.rf (R.PKT_CTRL p) 2 1 = 1) ∧
    (∃ (p : Nat), ∃ (s : State), s.rf (R.PKT_CTRL p) 2 1 = 0) ∧
    (∃ (p : Nat), ∃ (m : Nat), ∃ (entry : Nat), ∃ (e : Nat), ∃ (s : State), p < 4 ∧ m < 16384 ∧ e = entry &&& meterBits entry ∧ Tbl.find (s.die p).meters m = none) ∧
    (∃ (p : Nat), ∃ (m : Nat), ∃ (entry : Nat), ∃ (e : Nat), ∃ (s : State), ∃ k, p < 4 ∧ m < 16384 ∧ e = entry &&& meterBits entry ∧ Tbl.find (s.die p).meters m = some k ∧ (fld k.entry 0 2 = 1 ∨ fld k.entry 0 2 = 2)) :=
  ⟨⟨(0), (0), (vbytes_FramesMoveOn_0), (false), (vs_FramesMoveOn_0), by decide +kernel⟩,
   ⟨(0), (0), (vbytes_FramesMoveOn_1), (false), (vs_FramesMoveOn_1), by decide +kernel, by decide +kernel, by decide +kernel⟩,
   ⟨(0), (0), (vbytes_FramesMoveOn_2), (false), (vs_FramesMoveOn_2), by decide +kernel, by decide +kernel, by decide +kernel⟩,
   ⟨(0), (0), (vbytes_FramesMoveOn_3), (false), (vs_FramesMoveOn_3), by decide +kernel, by decide +kernel, by decide +kernel⟩,
   ⟨(vs_FramesMoveOn_4), (0), (3), (va_FramesMoveOn_4), (Cls.start), by decide +kernel, by decide +kernel⟩,
   ⟨(0), (0), (5), (vsl_FramesMoveOn_5), (vcommitted_FramesMoveOn_5), (vk_FramesMoveOn_5), (vf_FramesMoveOn_5), (vs_FramesMoveOn_5), by decide +kernel, by decide +kernel, by decide +kernel, by decide +kernel, by decide +kernel, by decide +kernel, pick_ok (by decide +kernel), by decide +kernel, by decide +kernel, by decide +kernel, by decide +kernel⟩,
   ⟨(0), (5), (vbytes_FramesMoveOn_6), (vs_FramesMoveOn_6), by decide +kernel, by decide +kernel, by decide +kernel⟩,
   ⟨(0), (0), (3), ([4, 0, 9]), (vs_FramesMoveOn_7), by decide +kernel⟩,
   ⟨(0), (0), (1), (10^12), (vs_FramesMoveOn_8), by decide +kernel, by decide +kernel⟩,
   ⟨(0), (0), (1), (vs_FramesMoveOn_9), by decide +kernel⟩,
   ⟨(0), (0), (1), (0), (vs_FramesMoveOn_10), by decide +kernel, by decide +kernel, by decide +kernel⟩,
   ⟨(0), (0), (1), (full.timeNs), (vs_FramesMoveOn_11), by decide +kernel, by decide +kernel, by decide +kernel⟩,
   ⟨(1), (vs_PacketSettings_0), by decide +kernel⟩,
   ⟨(1), (vs_PacketSettings_1), by decide +kernel, by decide +kernel⟩,
   ⟨(1), (full), by decide +kernel⟩,
   ⟨(0), (7), (ventry_PacketSettings_4), (ve_PacketSettings_4), (full), by decide +kernel, by decide +kernel, by decide +kernel, by decide +kernel⟩,
   ⟨(0), (7), (ventry_PacketSettings_5), (ve_PacketSettings_5), (vs_PacketSettings_5), ((Tbl.find (vs_PacketSettings_5.die 0).meters 7).get (by decide +kernel)), by decide +kernel, by decide +kernel, by decide +kernel, by decide +kernel, by decide +kernel⟩⟩

def vs_LinkStates_0 : State := setRegs (full) [(R.PRT_OCTET 3, 10 + 16434824 * 2^32 + 16434824 * 2^64)]
def vs_LinkStates_1 : State := setRegs (full) [(R.PRT_OCTET 3, 5 + 16434824 * 2^32 + 16434824 * 2^64), (R.PRT_OCTET_STATUS 3, 10)]
def vs_LinkStates_2 : State := setRegs (full) [(R.PRT_OCTET 3, 5 + 16434824 * 2^32 + 16434824 * 2^64), (R.PRT_OCTET_STATUS 3, 9)]
def vs_LinkStates_3 : State := setRegs (full) [(R.PRT_OCTET 3, 5 + 16434824 * 2^32 + 16434824 * 2^64), (R.PRT_OCTET_STATUS 3, 26)]
def vs_LinkStates_4 : State := setRegs (({ full with ports := { full.ports with links := [(2, DnxLink.fresh)] } } : State)) [(R.DNX_LINK 2, 768), (R.DNX_STATUS 2, 0), (R.PRT_OCTET 3, 11 + 16434824 * 2^32 + 16434824 * 2^64), (R.PRT_OCTET_STATUS 3, 2)]
def vs_LinkStates_5 : State := setRegs (({ full with ports := { full.ports with links := [(2, DnxLink.fresh)] } } : State)) [(R.DNX_LINK 2, 769), (R.DNX_STATUS 2, 3), (R.PRT_OCTET 3, 11 + 16434824 * 2^32 + 16434824 * 2^64), (R.PRT_OCTET_STATUS 3, 2)]
def vs_LinkStates_6 : State := setRegs (({ full with ports := { full.ports with links := [(2, DnxLink.fresh)] } } : State)) [(R.DNX_LINK 2, 769), (R.DNX_STATUS 2, 1), (R.PRT_OCTET 3, 11 + 16434824 * 2^32 + 16434824 * 2^64), (R.PRT_OCTET_STATUS 3, 2)]
def vs_LinkStates_7 : State := setRegs (({ full with ports := { full.ports with links := [(2, DnxLink.fresh)] } } : State)) [(R.DNX_LINK 2, 769), (R.DNX_STATUS 2, 2), (R.PRT_OCTET 3, 11 + 16434824 * 2^32 + 16434824 * 2^64), (R.PRT_OCTET_STATUS 3, 2)]
def vs_LinkStates_8 : State := setRegs (({ full with ports := { full.ports with links := [(2, DnxLink.fresh)] } } : State)) [(R.DNX_LINK 2, 769), (R.DNX_STATUS 2, 2), (R.PRT_OCTET 3, 11 + 16434824 * 2^32 + 16434824 * 2^64), (R.PRT_OCTET_STATUS 3, 2)]
def vs_LinkStates_9 : State := setRegs (({ full with ports := { full.ports with links := [(2, { DnxLink.fresh with since := full.timeNs })] } } : State)) [(R.DNX_LINK 2, 769), (R.DNX_STATUS 2, 2), (R.PRT_OCTET 3, 11 + 16434824 * 2^32 + 16434824 * 2^64), (R.PRT_OCTET_STATUS 3, 2)]
def vs_LinkStates_10 : State := setRegs (({ full with ports := { full.ports with links := [(2, { DnxLink.fresh with sendQ := [zeroBytes 32], rxNext := 7 })] } } : State)) [(R.DNX_LINK 2, 769), (R.DNX_STATUS 2, 3), (R.PRT_OCTET 3, 11 + 16434824 * 2^32 + 16434824 * 2^64), (R.PRT_OCTET_STATUS 3, 2)]
def vs_LinkStates_11 : State := setRegs (({ full with ports := { full.ports with links := [(2, { DnxLink.fresh with initSeen := true })] } } : State)) [(R.DNX_LINK 2, 769), (R.DNX_STATUS 2, 4), (R.PRT_OCTET 3, 11 + 16434824 * 2^32 + 16434824 * 2^64), (R.PRT_OCTET_STATUS 3, 2)]
def vs_LinkStates_12 : State := setRegs (({ full with ports := { full.ports with links := [(2, { DnxLink.fresh with initSeen := true })] } } : State)) [(R.DNX_LINK 2, 769), (R.DNX_STATUS 2, 12), (R.PRT_OCTET 3, 11 + 16434824 * 2^32 + 16434824 * 2^64), (R.PRT_OCTET_STATUS 3, 2)]
def vs_LinkStates_13 : State := setRegs (({ full with ports := { full.ports with links := [(2, { DnxLink.fresh with replay := [(3, zeroBytes 8), (4, zeroBytes 8)], burst := [(5, false, zeroBytes 8)] })] } } : State)) [(R.DNX_LINK 2, 769), (R.DNX_STATUS 2, 5), (R.PRT_OCTET 3, 11 + 16434824 * 2^32 + 16434824 * 2^64), (R.PRT_OCTET_STATUS 3, 2)]
def vs_LinkStates_14 : State := setRegs (({ full with ports := { full.ports with links := [(2, { DnxLink.fresh with replay := [(3, zeroBytes 8), (4, zeroBytes 8)] })] } } : State)) [(R.DNX_LINK 2, 769), (R.DNX_STATUS 2, 6), (R.PRT_OCTET 3, 11 + 16434824 * 2^32 + 16434824 * 2^64), (R.PRT_OCTET_STATUS 3, 2)]
def vs_LinkStates_15 : State := setRegs (({ full with ports := { full.ports with links := [(2, DnxLink.fresh)] } } : State)) [(R.DNX_LINK 2, 769), (R.DNX_STATUS 2, 6), (R.PRT_OCTET 3, 11 + 16434824 * 2^32 + 16434824 * 2^64), (R.PRT_OCTET_STATUS 3, 2)]
def vs_LinkStates_16 : State := setRegs (({ full with ports := { full.ports with links := [(2, { DnxLink.fresh with since := full.timeNs })] } } : State)) [(R.DNX_LINK 2, 769), (R.DNX_STATUS 2, 6), (R.PRT_OCTET 3, 11 + 16434824 * 2^32 + 16434824 * 2^64), (R.PRT_OCTET_STATUS 3, 2)]
def vs_FlitsInOrder_0 : State := setRegs (({ full with ports := { full.ports with links := [(2, { DnxLink.fresh with nakDue := true, pos := 17 })] } } : State)) [(R.DNX_LINK 2, 769), (R.DNX_STATUS 2, 5), (R.PRT_OCTET 3, 11 + 16434824 * 2^32 + 16434824 * 2^64), (R.PRT_OCTET_STATUS 3, 2)]
def vs_FlitsInOrder_1 : State := setRegs (({ full with ports := { full.ports with links := [(2, { DnxLink.fresh with pos := 16, burst := [(5, false, (zeroBytes 256))], replay := [(3, zeroBytes 8), (4, zeroBytes 8)] })] } } : State)) [(R.DNX_LINK 2, 769), (R.DNX_STATUS 2, 5), (R.PRT_OCTET 3, 11 + 16434824 * 2^32 + 16434824 * 2^64), (R.PRT_OCTET_STATUS 3, 2)]
def vbytes_FlitsInOrder_2 : List Byte := ([0x4C, 0x44, 0, 0] ++ leBytes 4 3 ++ leBytes 4 9 ++ leBytes 4 11 ++ leBytes 4 12 ++ leBytes 4 13 ++ zeroBytes 228) ++ leBytes 4 (crc32c ([0x4C, 0x44, 0, 0] ++ leBytes 4 3 ++ leBytes 4 9 ++ leBytes 4 11 ++ leBytes 4 12 ++ leBytes 4 13 ++ zeroBytes 228))
def vs_FlitsInOrder_2 : State := setRegs (({ full with ports := { full.ports with links := [(2, { DnxLink.fresh with replay := [(3, zeroBytes 8), (4, zeroBytes 8)] })] } } : State)) [(R.DNX_LINK 2, 769), (R.DNX_STATUS 2, 5), (R.PRT_OCTET 3, 11 + 16434824 * 2^32 + 16434824 * 2^64), (R.PRT_OCTET_STATUS 3, 2)]
def vbytes_FlitsInOrder_3 : List Byte := (zeroBytes 256)
def vs_FlitsInOrder_3 : State := setRegs (({ full with ports := { full.ports with links := [(2, { DnxLink.fresh with badFlits := 3, expect := [1] })] } } : State)) [(R.DNX_LINK 2, 769), (R.DNX_STATUS 2, 5), (R.PRT_OCTET 3, 11 + 16434824 * 2^32 + 16434824 * 2^64), (R.PRT_OCTET_STATUS 3, 2)]
def vbytes_FlitsInOrder_4 : List Byte := (zeroBytes 255 ++ [7])
def vs_FlitsInOrder_4 : State := setRegs (({ full with ports := { full.ports with links := [(2, { DnxLink.fresh with expect := [crc32c (zeroBytes 255 ++ [7]), 4] })] } } : State)) [(R.DNX_LINK 2, 769), (R.DNX_STATUS 2, 5), (R.PRT_OCTET 3, 11 + 16434824 * 2^32 + 16434824 * 2^64), (R.PRT_OCTET_STATUS 3, 2)]
def vc_FlitsInOrder_4 : Nat := crc32c vbytes_FlitsInOrder_4
def vbytes_FlitsInOrder_5 : List Byte := (zeroBytes 255 ++ [7])
def vs_FlitsInOrder_5 : State := setRegs (({ full with ports := { full.ports with links := [(2, { DnxLink.fresh with expect := [9, 4] })] } } : State)) [(R.DNX_LINK 2, 769), (R.DNX_STATUS 2, 5), (R.PRT_OCTET 3, 11 + 16434824 * 2^32 + 16434824 * 2^64), (R.PRT_OCTET_STATUS 3, 2)]
theorem witness_LinkStatesAndFlits :
    (∃ (o : Nat), ∃ (s : State), o < 32 ∧ s.rf (R.PRT_OCTET o) 0 1 = 0) ∧
    (∃ (o : Nat), ∃ (s : State), o < 32 ∧ s.rf (R.PRT_OCTET o) 0 1 = 1 ∧ s.octetMode o ≠ 5) ∧
    (∃ (o : Nat), ∃ (j : Nat), ∃ (s : State), s.ethPort o j = true ∧ s.rf (R.PRT_OCTET_STATUS o) 0 3 ≠ 0 ∧ s.rf (R.PRT_OCTET_STATUS o) 0 3 ≠ 4) ∧
    (∃ (o : Nat), ∃ (j : Nat), ∃ (s : State), s.portUp o j = true) ∧
    (∃ (n : Nat), ∃ (s : State), n < 16 ∧ s.linkOn n = false ∧ s.dnxState n = 0) ∧
    (∃ (n : Nat), ∃ (s : State), n < 16 ∧ s.linkOn n = true ∧ s.dnxState n ≠ 5 ∧ s.dnxState n ≠ 6) ∧
    (∃ (n : Nat), ∃ (s : State), n < 16 ∧ s.dnxState n = 1 ∧ s.canTrain n = true) ∧
    (∃ (n : Nat), ∃ (s : State), n < 16 ∧ s.dnxState n = 2) ∧
    (∃ (n : Nat), ∃ (s : State), n < 16 ∧ s.dnxState n = 2 ∧ (s.link n).since + 10 ^ 8 ≤ s.timeNs ∧ (s.link n).reqs = [] ∧ (s.link n).sendQ = [] ∧ s.pcie.wroteLinks = []) ∧
    (∃ (n : Nat), ∃ (s : State), s.dnxState n = 2 ∧ s.timeNs < (s.link n).since + 10 ^ 8) ∧
    (∃ (n : Nat), ∃ (rev : Bool), ∃ (s : State), n < 16 ∧ s.dnxState n = 3) ∧
    (∃ (n : Nat), ∃ (s : State), n < 16 ∧ s.dnxState n = 4 ∧ (s.link n).initSeen = true ∧ (s.rf (R.DNX_STATUS n) 3 1 = 1 ↔ s.linkPeer n = true)) ∧
    (∃ (n : Nat), ∃ (s : State), n < 16 ∧ s.dnxState n = 4 ∧ (s.link n).initSeen = true ∧ (s.rf (R.DNX_STATUS n) 3 1 = 1 ↔ s.linkPeer n = false) ∧ (s.link n).reqs = [] ∧ (s.link n).sendQ = [] ∧ s.pcie.wroteLinks = []) ∧
    (∃ (n : Nat), ∃ (s : State), n < 16 ∧ s.dnxState n = 5) ∧
    (∃ (n : Nat), ∃ (ack : Nat), ∃ (s : State), n < 16 ∧ s.dnxState n = 6 ∧ s.canTrain n = true) ∧
    (∃ (n : Nat), ∃ (s : State), n < 16 ∧ s.dnxState n = 6 ∧ (s.link n).since + 2 * 10 ^ 6 ≤ s.timeNs ∧ (s.link n).reqs = [] ∧ (s.link n).sendQ = [] ∧ s.pcie.wroteLinks = []) ∧
    (∃ (n : Nat), ∃ (s : State), s.dnxState n = 6 ∧ s.timeNs < (s.link n).since + 2 * 10 ^ 6) ∧
    (∃ (n : Nat), ∃ (s : State), n < 16 ∧ s.dnxState n = 5 ∧ (s.link n).pos ∈ [0, 17, 34]) ∧
    (∃ (n : Nat), ∃ (s : State), ∃ f, ∃ rest, n < 16 ∧ s.dnxState n = 5 ∧ (s.link n).pos ∉ [0, 17, 34] ∧ (s.link n).burst = f :: rest) ∧
    (∃ (n : Nat), ∃ (bytes : List Byte), ∃ (s : State), n < 16 ∧ s.dnxState n = 5 ∧ bytes.length = 256 ∧ leAt bytes 0 2 = 0x444C ∧ leAt bytes 252 4 = crc32c (bytes.take 252) ∧ leAt bytes 3 1 = 0) ∧
    (∃ (n : Nat), ∃ (bytes : List Byte), ∃ (s : State), n < 16 ∧ s.dnxState n = 5 ∧ leAt bytes 252 4 ≠ crc32c (bytes.take 252)) ∧
    (∃ (n : Nat), ∃ (c : Nat), ∃ (bytes : List Byte), ∃ (parity : Bool), ∃ (rest : List Nat), ∃ (s : State), n < 16 ∧ s.dnxState n = 5 ∧ (s.link n).expect = c :: rest ∧ c ≠ 0 ∧ bytes.length = 256 ∧ crc32c bytes = c ∧ seqDiff (s.link n).expSeq (s.link n).rxNext = 0 ∧ (unpack 20 ((s.link n).partial' ++ bytes)).1 = []) ∧
    (∃ (n : Nat), ∃ (c : Nat), ∃ (bytes : List Byte), ∃ (parity : Bool), ∃ (rest : List Nat), ∃ (s : State), n < 16 ∧ s.dnxState n = 5 ∧ (s.link n).expect = c :: rest ∧ c ≠ 0 ∧ crc32c bytes ≠ c) :=
  ⟨⟨(3), (vs_LinkStates_0), by decide +kernel, by decide +kernel⟩,
   ⟨(3), (vs_LinkStates_1), by decide +kernel, by decide +kernel, by decide +kernel⟩,
   ⟨(3), (1), (vs_LinkStates_2), by decide +kernel, by decide +kernel, by decide +kernel⟩,
   ⟨(3), (1), (vs_LinkStates_3), by decide +kernel⟩,
   ⟨(2), (vs_LinkStates_4), by decide +kernel, by decide +kernel, by decide +kernel⟩,
   ⟨(2), (vs_LinkStates_5), by decide +kernel, by decide +kernel, by decide +kernel, by decide +kernel⟩,
   ⟨(2), (vs_LinkStates_6), by decide +kernel, by decide +kernel, by decide +kernel⟩,
   ⟨(2), (vs_LinkStates_7), by decide +kernel, by decide +kernel⟩,
   ⟨(2), (vs_LinkStates_8), by decide +kernel, by decide +kernel, by decide +kernel, by decide +kernel, by decide +kernel, by decide +kernel⟩,
   ⟨(2), (vs_LinkStates_9), by decide +kernel, by decide +kernel⟩,
   ⟨(2), (true), (vs_LinkStates_10), by decide +kernel, by decide +kernel⟩,
   ⟨(2), (vs_LinkStates_11), by decide +kernel, by decide +kernel, by decide +kernel, by decide +kernel⟩,
   ⟨(2), (vs_LinkStates_12), by decide +kernel, by decide +kernel, by decide +kernel, by decide +kernel, by decide +kernel, by decide +kernel, by decide +kernel⟩,
   ⟨(2), (vs_LinkStates_13), by decide +kernel, by decide +kernel⟩,
   ⟨(2), (3), (vs_LinkStates_14), by decide +kernel, by decide +kernel, by decide +kernel⟩,
   ⟨(2), (vs_LinkStates_15), by decide +kernel, by decide +kernel, by decide +kernel, by decide +kernel, by decide +kernel, by decide +kernel⟩,
   ⟨(2), (vs_LinkStates_16), by decide +kernel, by decide +kernel⟩,
   ⟨(2), (vs_FlitsInOrder_0), by decide +kernel, by decide +kernel, by decide +kernel⟩,
   ⟨(2), (vs_FlitsInOrder_1), ((5, false, (zeroBytes 256))), ([]), by decide +kernel, by decide +kernel, by decide +kernel, by decide +kernel⟩,
   ⟨(2), (vbytes_FlitsInOrder_2), (vs_FlitsInOrder_2), by decide +kernel, by decide +kernel, by decide +kernel, by decide +kernel, by decide +kernel, by decide +kernel⟩,
   ⟨(2), (vbytes_FlitsInOrder_3), (vs_FlitsInOrder_3), by decide +kernel, by decide +kernel, by decide +kernel⟩,
   ⟨(2), (vc_FlitsInOrder_4), (vbytes_FlitsInOrder_4), (false), ([4]), (vs_FlitsInOrder_4), by decide +kernel, by decide +kernel, by decide +kernel, by decide +kernel, by decide +kernel, by decide +kernel, by decide +kernel, by decide +kernel⟩,
   ⟨(2), (9), (vbytes_FlitsInOrder_5), (false), ([4]), (vs_FlitsInOrder_5), by decide +kernel, by decide +kernel, by decide +kernel, by decide +kernel, by decide +kernel⟩⟩

def vm_DenuxMessages_0 : List Byte := dnxMsg 1 0 0 4 4160 0 0 ([1, 2, 3, 4])
def vs_DenuxMessages_0 : State := setRegs (({ full with ports := { full.ports with links := [(2, DnxLink.fresh)] } } : State)) [(R.DNX_LINK 2, 769), (R.DNX_STATUS 2, 5), (R.PRT_OCTET 3, 11 + 16434824 * 2^32 + 16434824 * 2^64), (R.PRT_OCTET_STATUS 3, 2), (R.DNX_IN_WINDOW 128, 15 + 16 + 4096 + 4096 * 2^64 + 0x10001 * 2^128)]
def vm_DenuxMessages_1 : List Byte := dnxMsg 1 0 0 4 64 0 0 ([1, 2, 3, 4])
def vs_DenuxMessages_1 : State := setRegs (({ full with ports := { full.ports with links := [(2, DnxLink.fresh)] } } : State)) [(R.DNX_LINK 2, 769), (R.DNX_STATUS 2, 5), (R.PRT_OCTET 3, 11 + 16434824 * 2^32 + 16434824 * 2^64), (R.PRT_OCTET_STATUS 3, 2), (R.DNX_IN_WINDOW 128, 15 + 16 + 4096 + 4096 * 2^64 + 0x10001 * 2^128)]
def vm_DenuxMessages_2 : List Byte := dnxMsg 2 0 3 4 4160 0 0 ([])
def vs_DenuxMessages_2 : State := setRegs (({ full with ports := { full.ports with links := [(2, DnxLink.fresh)] } } : State)) [(R.DNX_LINK 2, 769), (R.DNX_STATUS 2, 5), (R.PRT_OCTET 3, 11 + 16434824 * 2^32 + 16434824 * 2^64), (R.PRT_OCTET_STATUS 3, 2), (R.DNX_IN_WINDOW 128, 15 + 16 + 4096 + 4096 * 2^64 + 0x10001 * 2^128)]
def vm_DenuxMessages_3 : List Byte := dnxMsg 2 0 3 4 64 0 0 ([])
def vs_DenuxMessages_3 : State := setRegs (({ full with ports := { full.ports with links := [(2, DnxLink.fresh)] } } : State)) [(R.DNX_LINK 2, 769), (R.DNX_STATUS 2, 5), (R.PRT_OCTET 3, 11 + 16434824 * 2^32 + 16434824 * 2^64), (R.PRT_OCTET_STATUS 3, 2), (R.DNX_IN_WINDOW 128, 15 + 16 + 4096 + 4096 * 2^64 + 0x10001 * 2^128)]
def vm_DenuxMessages_4 : List Byte := dnxMsg 4 0 3 0 4160 5 0 ([])
def vs_DenuxMessages_4 : State := setRegs (({ full with ports := { full.ports with links := [(2, DnxLink.fresh)] } } : State)) [(R.DNX_LINK 2, 769), (R.DNX_STATUS 2, 5), (R.PRT_OCTET 3, 11 + 16434824 * 2^32 + 16434824 * 2^64), (R.PRT_OCTET_STATUS 3, 2), (R.DNX_IN_WINDOW 128, 15 + 16 + 4096 + 4096 * 2^64 + 0x10001 * 2^128)]
def vr_DenuxMessages_4 : Region := (((vs_DenuxMessages_4.took 2 vm_DenuxMessages_4).inbound 2 (mAddr vm_DenuxMessages_4) 8 3).get (by decide +kernel)).2.1
def vw_DenuxMessages_4 : Nat := (((vs_DenuxMessages_4.took 2 vm_DenuxMessages_4).inbound 2 (mAddr vm_DenuxMessages_4) 8 3).get (by decide +kernel)).1
def voff_DenuxMessages_4 : Nat := (((vs_DenuxMessages_4.took 2 vm_DenuxMessages_4).inbound 2 (mAddr vm_DenuxMessages_4) 8 3).get (by decide +kernel)).2.2
def vs1_DenuxMessages_4 : State := resSt ((vs_DenuxMessages_4.took 2 vm_DenuxMessages_4).readRegion vr_DenuxMessages_4 voff_DenuxMessages_4 8)
def vbs_DenuxMessages_4 : List Byte := resVal ((vs_DenuxMessages_4.took 2 vm_DenuxMessages_4).readRegion vr_DenuxMessages_4 voff_DenuxMessages_4 8)
def vc_DenuxMessages_4 : Nat := (vs1_DenuxMessages_4.writeRegion vr_DenuxMessages_4 voff_DenuxMessages_4 (leBytes 8 (if mFlags vm_DenuxMessages_4 = 0 then leNat vbs_DenuxMessages_4 + mOperand vm_DenuxMessages_4 else if mFlags vm_DenuxMessages_4 = 1 then mOperand vm_DenuxMessages_4 else if leNat vbs_DenuxMessages_4 = mCompare vm_DenuxMessages_4 then mOperand vm_DenuxMessages_4 else leNat vbs_DenuxMessages_4)) (windowOwner vw_DenuxMessages_4)).2.1
def vs2_DenuxMessages_4 : State := (vs1_DenuxMessages_4.writeRegion vr_DenuxMessages_4 voff_DenuxMessages_4 (leBytes 8 (if mFlags vm_DenuxMessages_4 = 0 then leNat vbs_DenuxMessages_4 + mOperand vm_DenuxMessages_4 else if mFlags vm_DenuxMessages_4 = 1 then mOperand vm_DenuxMessages_4 else if leNat vbs_DenuxMessages_4 = mCompare vm_DenuxMessages_4 then mOperand vm_DenuxMessages_4 else leNat vbs_DenuxMessages_4)) (windowOwner vw_DenuxMessages_4)).1
def vm_DenuxMessages_5 : List Byte := dnxMsg 3 1 7 4 0 0 0 ([1, 2, 3, 4])
def vs_DenuxMessages_5 : State := setRegs (({ full with ports := { full.ports with links := [(2, { DnxLink.fresh with reqs := [({ tag := 7, addr := 0, len := 4, what := .landing 0 5, data := [], reported := false, since := 0 } : DnxReq)] })] } } : State)) [(R.DNX_LINK 2, 769), (R.DNX_STATUS 2, 5), (R.PRT_OCTET 3, 11 + 16434824 * 2^32 + 16434824 * 2^64), (R.PRT_OCTET_STATUS 3, 2)]
def vr_DenuxMessages_5 : DnxReq := ({ tag := 7, addr := 0, len := 4, what := .landing 0 5, data := [], reported := false, since := 0 } : DnxReq)
def vm_DenuxMessages_6 : List Byte := dnxMsg 5 0 7 0 0 9 0 ([])
def vs_DenuxMessages_6 : State := setRegs (({ full with ports := { full.ports with links := [(2, { DnxLink.fresh with reqs := [({ tag := 7, addr := 0, len := 8, what := .landing 0 5, data := [], reported := false, since := 0 } : DnxReq)] })] } } : State)) [(R.DNX_LINK 2, 769), (R.DNX_STATUS 2, 5), (R.PRT_OCTET 3, 11 + 16434824 * 2^32 + 16434824 * 2^64), (R.PRT_OCTET_STATUS 3, 2)]
def vr_DenuxMessages_6 : DnxReq := ({ tag := 7, addr := 0, len := 8, what := .landing 0 5, data := [], reported := false, since := 0 } : DnxReq)
def vm_DenuxMessages_7 : List Byte := dnxMsg 3 3 7 0 0 0 0 ([])
def vs_DenuxMessages_7 : State := setRegs (({ full with ports := { full.ports with links := [(2, { DnxLink.fresh with reqs := [({ tag := 7, addr := 0, len := 4, what := .landing 0 5, data := [], reported := false, since := 0 } : DnxReq)] })] } } : State)) [(R.DNX_LINK 2, 769), (R.DNX_STATUS 2, 5), (R.PRT_OCTET 3, 11 + 16434824 * 2^32 + 16434824 * 2^64), (R.PRT_OCTET_STATUS 3, 2)]
def vr_DenuxMessages_7 : DnxReq := ({ tag := 7, addr := 0, len := 4, what := .landing 0 5, data := [], reported := false, since := 0 } : DnxReq)
def vm_DenuxMessages_8 : List Byte := dnxMsg 3 1 7 4 0 0 0 ([1, 2, 3, 4])
def vs_DenuxMessages_8 : State := setRegs (({ full with ports := { full.ports with links := [(2, { DnxLink.fresh with reqs := [({ tag := 8, addr := 0, len := 4, what := .landing 0 5, data := [], reported := false, since := 0 } : DnxReq)] })] } } : State)) [(R.DNX_LINK 2, 769), (R.DNX_STATUS 2, 5), (R.PRT_OCTET 3, 11 + 16434824 * 2^32 + 16434824 * 2^64), (R.PRT_OCTET_STATUS 3, 2)]
def vm_DenuxMessages_9 : List Byte := dnxMsg 6 0 0 0 0 5 0 ([])
def vs_DenuxMessages_9 : State := setRegs (({ full with ports := { full.ports with links := [(2, DnxLink.fresh)] } } : State)) [(R.DNX_LINK 2, 769), (R.DNX_STATUS 2, 5), (R.PRT_OCTET 3, 11 + 16434824 * 2^32 + 16434824 * 2^64), (R.PRT_OCTET_STATUS 3, 2), (R.DNX_IN_WINDOW 130, 1)]
def vm_DenuxMessages_10 : List Byte := dnxMsg 8 0 0 32 0 0 0 ((pk 6).header)
def vs_DenuxMessages_10 : State := setRegs (({ full with ports := { full.ports with links := [(2, DnxLink.fresh)] } } : State)) [(R.DNX_LINK 2, 771), (R.DNX_STATUS 2, 5), (R.PRT_OCTET 3, 11 + 16434824 * 2^32 + 16434824 * 2^64), (R.PRT_OCTET_STATUS 3, 2)]
def vp_DenuxMessages_10 : Pkt := (parsePkt (bsub vm_DenuxMessages_10 32 (mLen vm_DenuxMessages_10)) false).get (by decide +kernel)
def vm_DenuxMessages_11 : List Byte := dnxMsg 9 0 0 0 0 77 0 ([])
def vs_DenuxMessages_11 : State := inDomain (setRegs (({ full with ports := { full.ports with links := [(2, DnxLink.fresh)] } } : State)) [(R.DNX_LINK 2, 771), (R.DNX_STATUS 2, 5), (R.PRT_OCTET 3, 11 + 16434824 * 2^32 + 16434824 * 2^64), (R.PRT_OCTET_STATUS 3, 2)]) (Config.domainOf (dnxMsg 9 0 0 0 0 77 0 ([])) + 1)
def vm_DenuxMessages_12 : List Byte := dnxMsg 1 0 0 4 4160 0 0 ([1, 2, 3, 4])
def vs_DenuxMessages_12 : State := ({ setRegs (({ full with ports := { full.ports with links := [(2, DnxLink.fresh)] } } : State)) [(R.DNX_LINK 2, 769), (R.DNX_STATUS 2, 5), (R.PRT_OCTET 3, 11 + 16434824 * 2^32 + 16434824 * 2^64), (R.PRT_OCTET_STATUS 3, 2)] with mem := { full.mem with guardWait := [{ dpa := 5, bytes := [1], owner := windowOwner 129 }] } } : State)
def vm_DenuxMessages_13 : List Byte := dnxMsg 9 0 0 0 0 77 0 ([])
def vs_DenuxMessages_13 : State := inDomain (setRegs (({ full with ports := { full.ports with links := [(2, DnxLink.fresh)] } } : State)) [(R.DNX_LINK 2, 771), (R.DNX_STATUS 2, 5), (R.PRT_OCTET 3, 11 + 16434824 * 2^32 + 16434824 * 2^64), (R.PRT_OCTET_STATUS 3, 2)]) (Config.domainOf (dnxMsg 9 0 0 0 0 77 0 ([])))
def vm_DenuxMessages_14 : List Byte := dnxMsg 1 1 0 4 0 0 0 ([1, 2, 3, 4])
def vs_DenuxMessages_14 : State := setRegs (({ full with ports := { full.ports with links := [(2, DnxLink.fresh)] } } : State)) [(R.DNX_LINK 2, 769), (R.DNX_STATUS 2, 5), (R.PRT_OCTET 3, 11 + 16434824 * 2^32 + 16434824 * 2^64), (R.PRT_OCTET_STATUS 3, 2), (R.DNX_IN_WINDOW 128, 15 + 16 + 4096 + 4096 * 2^64 + 0x10001 * 2^128)]
def vs_DenuxMessages_15 : State := setRegs (({ full with ports := { full.ports with links := [(2, { DnxLink.fresh with reqs := [({ tag := 7, addr := 0, len := 4, what := .landing 0 5, data := [], reported := false, since := full.timeNs } : DnxReq)] })] } } : State)) [(R.DNX_LINK 2, 769), (R.DNX_STATUS 2, 6), (R.PRT_OCTET 3, 11 + 16434824 * 2^32 + 16434824 * 2^64), (R.PRT_OCTET_STATUS 3, 2)]
def vr_DenuxMessages_15 : DnxReq := ({ tag := 7, addr := 0, len := 4, what := .landing 0 5, data := [], reported := false, since := full.timeNs } : DnxReq)
def vs_DenuxMessages_16 : State := setRegs (({ full with ports := { full.ports with links := [(2, { DnxLink.fresh with reqs := [({ tag := 7, addr := 0, len := 4, what := .landing 0 5, data := [], reported := false, since := 0 } : DnxReq)] })] } } : State)) [(R.DNX_LINK 2, 769), (R.DNX_STATUS 2, 6), (R.PRT_OCTET 3, 11 + 16434824 * 2^32 + 16434824 * 2^64), (R.PRT_OCTET_STATUS 3, 2)]
def vr_DenuxMessages_16 : DnxReq := ({ tag := 7, addr := 0, len := 4, what := .landing 0 5, data := [], reported := false, since := 0 } : DnxReq)
def vs_DenuxMessages_17 : State := ({ full with mem := { full.mem with regions := [(1, { rgA 1 5 with refs := 1 })] }, ports := { full.ports with windowBusy := [(127, 1), (128, 0x10001)] } } : State)
def vr_DenuxMessages_17 : Region := { rgA 1 5 with refs := 1 }
theorem witness_DenuxMessages :
    (∃ (n : Nat), ∃ (m : List Byte), ∃ (s : State), ∃ w, ∃ r, ∃ off, s.linkTakes n 1 m ∧ (s.took n m).inbound n (mAddr m) (mLen m) 2 = some (w, r, off)) ∧
    (∃ (n : Nat), ∃ (m : List Byte), ∃ (s : State), s.linkTakes n 1 m ∧ (s.took n m).inbound n (mAddr m) (mLen m) 2 = none) ∧
    (∃ (n : Nat), ∃ (m : List Byte), ∃ (s : State), ∃ w, ∃ r, ∃ off, ∃ s1, ∃ bs, s.linkTakes n 2 m ∧ (s.took n m).inbound n (mAddr m) (mLen m) 1 = some (w, r, off) ∧ (s.took n m).readRegion r off (mLen m) = .ok s1 bs) ∧
    (∃ (n : Nat), ∃ (m : List Byte), ∃ (s : State), s.linkTakes n 2 m ∧ (s.took n m).inbound n (mAddr m) (mLen m) 1 = none) ∧
    (∃ (n : Nat), ∃ (w : Nat), ∃ (off : Nat), ∃ (m : List Byte), ∃ (s : State), ∃ (s1 : State), ∃ (s2 : State), ∃ (r : Region), ∃ (bs : List Byte), ∃ (c : Nat), s.linkTakes n 4 m ∧ mAddr m % 8 = 0 ∧ (s.took n m).inbound n (mAddr m) 8 3 = some (w, r, off) ∧ (s.took n m).readRegion r off 8 = .ok s1 bs ∧ s1.writeRegion r off (leBytes 8 (if mFlags m = 0 then leNat bs + mOperand m else if mFlags m = 1 then mOperand m else if leNat bs = mCompare m then mOperand m else leNat bs)) (windowOwner w) = (s2, c, none)) ∧
    (∃ (n : Nat), ∃ (m : List Byte), ∃ (s : State), ∃ (r : DnxReq), s.linkTakes n 3 m ∧ (s.link n).reqs.find? (fun r => r.tag = mTag m) = some r ∧ r.reported = false ∧ fld (mFlags m) 1 2 = 0 ∧ mAddr m = r.data.length ∧ bit (mFlags m) 0 = true ∧ (r.data ++ bsub m 32 (mLen m)).length = r.len) ∧
    (∃ (n : Nat), ∃ (m : List Byte), ∃ (s : State), ∃ (r : DnxReq), s.linkTakes n 5 m ∧ (s.link n).reqs.find? (fun r => r.tag = mTag m) = some r ∧ r.reported = false ∧ fld (mFlags m) 1 2 = 0) ∧
    (∃ (c : Nat → List Byte → Instr), ∃ (ty : Nat), ∃ (st : Nat), ∃ (n : Nat), ∃ (m : List Byte), ∃ (s : State), ∃ (r : DnxReq), (c, ty) ∈ ([(.dnxReadCpl, 3), (.dnxAtomicCpl, 5)] : List ((Nat → List Byte → Instr) × Nat)) ∧ s.linkTakes n ty m ∧ (s.link n).reqs.find? (fun r => r.tag = mTag m) = some r ∧ r.reported = false ∧ (fld (mFlags m) 1 2, st) ∈ [(1, stAddressError), (2, stLinkError)]) ∧
    (∃ (c : Nat → List Byte → Instr), ∃ (ty : Nat), ∃ (n : Nat), ∃ (m : List Byte), ∃ (s : State), (c, ty) ∈ ([(.dnxReadCpl, 3), (.dnxAtomicCpl, 5)] : List ((Nat → List Byte → Instr) × Nat)) ∧ s.linkTakes n ty m ∧ (s.link n).reqs.find? (fun r => r.tag = mTag m) = none) ∧
    (∃ (n : Nat), ∃ (m : List Byte), ∃ (s : State), ∃ (r : Sr), s.linkTakes n 6 m ∧ Tbl.find s.ring.srs (mCompare m) = some r ∧ mOperand m < 2 ^ 32 ∧ fld (mOperand m) 16 16 = Tbl.get s.ring.srGen (mCompare m) 0 ∧ ringState (s.slice r.slice).state ≠ 2 ∧ ringState (s.slice r.slice).state ≠ 4 ∧ fld (mOperand m) 0 16 < 2 ^ r.at'.log2 ∧ (List.range 64).any (fun w => bit (s.rd (R.DNX_IN_WINDOW (n * 64 + w))) 0 && fld (s.rd (R.DNX_IN_WINDOW (n * 64 + w))) 4 6 = r.slice) = true) ∧
    (∃ (n : Nat), ∃ (m : List Byte), ∃ (parity : Bool), ∃ (s : State), ∃ (p : Pkt), s.linkTakes n 8 m ∧ parsePkt (bsub m 32 (mLen m)) false = some p) ∧
    (∃ (n : Nat), ∃ (m : List Byte), ∃ (s : State), s.linkTakes n 9 m ∧ Config.domainOf m % 2 ^ 16 ≠ s.rf R.TLN_DOMAIN 0 16) ∧
    (∃ (n : Nat), ∃ (m : List Byte), ∃ (s : State), s.dnxHeld n = true ∧ n < 16 ∧ s.dnxState n = 5 ∧ mType m = 1) ∧
    (∃ (n : Nat), ∃ (m : List Byte), ∃ (s : State), s.linkTakes n 9 m ∧ Config.domainOf m % 2 ^ 16 = s.rf R.TLN_DOMAIN 0 16) ∧
    (∃ (c : Nat → List Byte → Instr), ∃ (ty : Nat), ∃ (n : Nat), ∃ (m : List Byte), ∃ (s : State), (c, ty) ∈ ([(.dnxWrite, 1), (.dnxReadReq, 2), (.dnxReadCpl, 3), (.dnxAtomicReq, 4), (.dnxAtomicCpl, 5), (.dnxDoorbell, 6), (.dnxBeat, 9)] : List ((Nat → List Byte → Instr) × Nat)) ∧ n < 16 ∧ s.dnxState n = 5 ∧ mType m = ty ∧ msgOk (s.linkPeer n) m = false ∧ s.linkFree n m) ∧
    (∃ (n : Nat), ∃ (tag : Nat), ∃ (s : State), ∃ (r : DnxReq), (s.link n).reqs.find? (fun r => r.tag = tag && !r.reported) = some r ∧ r.ofRing = false ∧ s.timeNs < r.since + (if s.rf (R.DNX_LINK n) 16 16 = 0 then 10000 else s.rf (R.DNX_LINK n) 16 16) * 1000) ∧
    (∃ (n : Nat), ∃ (tag : Nat), ∃ (s : State), ∃ (r : DnxReq), (s.link n).reqs.find? (fun r => r.tag = tag && !r.reported) = some r ∧ r.ofRing = false ∧ r.since + (if s.rf (R.DNX_LINK n) 16 16 = 0 then 10000 else s.rf (R.DNX_LINK n) 16 16) * 1000 ≤ s.timeNs) ∧
    (∃ (w : Nat), ∃ (s : State), ∃ (b : Nat × Nat), ∃ (r : Region), (s.ports.windowBusy.find? (fun b => b.1 = w) = some b) ∧ (s.mem.guardWait.any (fun g => g.owner = windowOwner w) = false) ∧ Tbl.find s.mem.regions (b.2 % 65536) = some r) :=
  ⟨⟨(2), (vm_DenuxMessages_0), (vs_DenuxMessages_0), ((((vs_DenuxMessages_0.took 2 vm_DenuxMessages_0).inbound 2 (mAddr vm_DenuxMessages_0) (mLen vm_DenuxMessages_0) 2).get (by decide +kernel)).1), ((((vs_DenuxMessages_0.took 2 vm_DenuxMessages_0).inbound 2 (mAddr vm_DenuxMessages_0) (mLen vm_DenuxMessages_0) 2).get (by decide +kernel)).2.1), ((((vs_DenuxMessages_0.took 2 vm_DenuxMessages_0).inbound 2 (mAddr vm_DenuxMessages_0) (mLen vm_DenuxMessages_0) 2).get (by decide +kernel)).2.2), ⟨by decide +kernel, by decide +kernel, by decide +kernel, by decide +kernel, by decide +kernel, by decide +kernel⟩, by decide +kernel⟩,
   ⟨(2), (vm_DenuxMessages_1), (vs_DenuxMessages_1), ⟨by decide +kernel, by decide +kernel, by decide +kernel, by decide +kernel, by decide +kernel, by decide +kernel⟩, by decide +kernel⟩,
   ⟨(2), (vm_DenuxMessages_2), (vs_DenuxMessages_2), ((((vs_DenuxMessages_2.took 2 vm_DenuxMessages_2).inbound 2 (mAddr vm_DenuxMessages_2) (mLen vm_DenuxMessages_2) 1).get (by decide +kernel)).1), ((((vs_DenuxMessages_2.took 2 vm_DenuxMessages_2).inbound 2 (mAddr vm_DenuxMessages_2) (mLen vm_DenuxMessages_2) 1).get (by decide +kernel)).2.1), ((((vs_DenuxMessages_2.took 2 vm_DenuxMessages_2).inbound 2 (mAddr vm_DenuxMessages_2) (mLen vm_DenuxMessages_2) 1).get (by decide +kernel)).2.2), (resSt ((vs_DenuxMessages_2.took 2 vm_DenuxMessages_2).readRegion ((((vs_DenuxMessages_2.took 2 vm_DenuxMessages_2).inbound 2 (mAddr vm_DenuxMessages_2) (mLen vm_DenuxMessages_2) 1).get (by decide +kernel)).2.1) ((((vs_DenuxMessages_2.took 2 vm_DenuxMessages_2).inbound 2 (mAddr vm_DenuxMessages_2) (mLen vm_DenuxMessages_2) 1).get (by decide +kernel)).2.2) (mLen vm_DenuxMessages_2))), (resVal ((vs_DenuxMessages_2.took 2 vm_DenuxMessages_2).readRegion ((((vs_DenuxMessages_2.took 2 vm_DenuxMessages_2).inbound 2 (mAddr vm_DenuxMessages_2) (mLen vm_DenuxMessages_2) 1).get (by decide +kernel)).2.1) ((((vs_DenuxMessages_2.took 2 vm_DenuxMessages_2).inbound 2 (mAddr vm_DenuxMessages_2) (mLen vm_DenuxMessages_2) 1).get (by decide +kernel)).2.2) (mLen vm_DenuxMessages_2))), ⟨by decide +kernel, by decide +kernel, by decide +kernel, by decide +kernel, by decide +kernel, by decide +kernel⟩, by decide +kernel, res_ok _ (by decide +kernel)⟩,
   ⟨(2), (vm_DenuxMessages_3), (vs_DenuxMessages_3), ⟨by decide +kernel, by decide +kernel, by decide +kernel, by decide +kernel, by decide +kernel, by decide +kernel⟩, by decide +kernel⟩,
   ⟨(2), (vw_DenuxMessages_4), (voff_DenuxMessages_4), (vm_DenuxMessages_4), (vs_DenuxMessages_4), (vs1_DenuxMessages_4), (vs2_DenuxMessages_4), (vr_DenuxMessages_4), (vbs_DenuxMessages_4), (vc_DenuxMessages_4), ⟨by decide +kernel, by decide +kernel, by decide +kernel, by decide +kernel, by decide +kernel, by decide +kernel⟩, by decide +kernel, by decide +kernel, res_ok _ (by decide +kernel), by decide +kernel⟩,
   ⟨(2), (vm_DenuxMessages_5), (vs_DenuxMessages_5), (vr_DenuxMessages_5), ⟨by decide +kernel, by decide +kernel, by decide +kernel, by decide +kernel, by decide +kernel, by decide +kernel⟩, by decide +kernel, by decide +kernel, by decide +kernel, by decide +kernel, by decide +kernel, by decide +kernel⟩,
   ⟨(2), (vm_DenuxMessages_6), (vs_DenuxMessages_6), (vr_DenuxMessages_6), ⟨by decide +kernel, by decide +kernel, by decide +kernel, by decide +kernel, by decide +kernel, by decide +kernel⟩, by decide +kernel, by decide +kernel, by decide +kernel⟩,
   ⟨(.dnxReadCpl), (3), (stAddressError), (2), (vm_DenuxMessages_7), (vs_DenuxMessages_7), (vr_DenuxMessages_7), by simp, ⟨by decide +kernel, by decide +kernel, by decide +kernel, by decide +kernel, by decide +kernel, by decide +kernel⟩, by decide +kernel, by decide +kernel, by decide +kernel⟩,
   ⟨(.dnxReadCpl), (3), (2), (vm_DenuxMessages_8), (vs_DenuxMessages_8), by simp, ⟨by decide +kernel, by decide +kernel, by decide +kernel, by decide +kernel, by decide +kernel, by decide +kernel⟩, by decide +kernel⟩,
   ⟨(2), (vm_DenuxMessages_9), (vs_DenuxMessages_9), (sr0), ⟨by decide +kernel, by decide +kernel, by decide +kernel, by decide +kernel, by decide +kernel, by decide +kernel⟩, by decide +kernel, by decide +kernel, by decide +kernel, by decide +kernel, by decide +kernel, by decide +kernel, by decide +kernel⟩,
   ⟨(2), (vm_DenuxMessages_10), (false), (vs_DenuxMessages_10), (vp_DenuxMessages_10), ⟨by decide +kernel, by decide +kernel, by decide +kernel, by decide +kernel, by decide +kernel, by decide +kernel⟩, by decide +kernel⟩,
   ⟨(2), (vm_DenuxMessages_11), (vs_DenuxMessages_11), ⟨by decide +kernel, by decide +kernel, by decide +kernel, by decide +kernel, by decide +kernel, by decide +kernel⟩, dom_ne rfl⟩,
   ⟨(2), (vm_DenuxMessages_12), (vs_DenuxMessages_12), by decide +kernel, by decide +kernel, by decide +kernel, by decide +kernel⟩,
   ⟨(2), (vm_DenuxMessages_13), (vs_DenuxMessages_13), ⟨by decide +kernel, by decide +kernel, by decide +kernel, by decide +kernel, by decide +kernel, by decide +kernel⟩, dom_ok rfl⟩,
   ⟨(.dnxWrite), (1), (2), (vm_DenuxMessages_14), (vs_DenuxMessages_14), by simp, by decide +kernel, by decide +kernel, by decide +kernel, by decide +kernel, ⟨by decide +kernel, by decide +kernel⟩⟩,
   ⟨(2), (7), (vs_DenuxMessages_15), (vr_DenuxMessages_15), by decide +kernel, by decide +kernel, by decide +kernel⟩,
   ⟨(2), (7), (vs_DenuxMessages_16), (vr_DenuxMessages_16), by decide +kernel, by decide +kernel, by decide +kernel⟩,
   ⟨(128), (vs_DenuxMessages_17), ((128, 0x10001)), (vr_DenuxMessages_17), by decide +kernel, by decide +kernel, by decide +kernel⟩⟩

def vs_AdminQueueAndController_0 : State := withStor (stor0 (ns0)) []
def vs_AdminQueueAndController_1 : State := withStor (stor0 (ns0)) []
def vx_AdminQueueAndController_1 : Ns := (vs_AdminQueueAndController_1.pf1Ns (nvNsid (nvc 6 5 [0]))).get (by decide +kernel)
def vcmd_AdminQueueAndController_2 : Nat := nvc 2 0 [3 + 127 * 65536]
def vs_AdminQueueAndController_2 : State := withStor (stor0 (ns0)) []
def vs1_AdminQueueAndController_2 : State := (vs_AdminQueueAndController_2).nvmeTaken 0
def vb_AdminQueueAndController_2 : List Byte := blob 512 [(0, 1, 1)]
def vcmd_AdminQueueAndController_3 : Nat := nvc 9 0 [8, 0x304]
def vs_AdminQueueAndController_3 : State := withStor (stor0 (ns0)) []
def vd_AdminQueueAndController_4 : Nat := (nvFeature (cdw (nvc 10 0 [6]) 10 % 256)).get (by decide +kernel)
def vs_AdminQueueAndController_4 : State := withStor (stor0 (ns0)) []
def vcmd_AdminQueueAndController_5 : Nat := nvc 5 0 [2 + 15 * 65536, 3 + 2 * 65536]
def vs_AdminQueueAndController_5 : State := withStor (stor0 (ns0)) []
def vcmd_AdminQueueAndController_6 : Nat := nvc 1 0 [2 + 15 * 65536, 1 + 65536]
def vs_AdminQueueAndController_6 : State := withStor (stor0 (ns0)) []
def vs_AdminQueueAndController_7 : State := withStor ({ stor0 (ns0) with held := [(⟨.nvme 1 9 [], 5, 2, 3, 1, [⟨3, 1, false, zeroBytes 4096⟩], false, 4096⟩ : StorHeld)] }) []
def vs_AdminQueueAndController_8 : State := withStor ({ stor0 (ns0) with sqs := [(0, ⟨0x100000, 16, 0, 0, 1⟩)], cqWait := [(1, 7)] }) []
def vcmd_AdminQueueAndController_9 : Nat := nvc 8 0 [1 + 9 * 65536]
def vs_AdminQueueAndController_9 : State := withStor (stor0 (ns0)) []
def vcmd_AdminQueueAndController_10 : Nat := nvc 8 0 [1 + 9 * 65536]
def vs_AdminQueueAndController_10 : State := withStor ({ stor0 (ns0) with held := [(⟨.nvme 1 9 [], 5, 2, 3, 1, [⟨3, 1, false, zeroBytes 4096⟩], false, 4096⟩ : StorHeld)] }) []
def vw_AdminQueueAndController_10 : StorHeld := (⟨.nvme 1 9 [], 5, 2, 3, 1, [⟨3, 1, false, zeroBytes 4096⟩], false, 4096⟩ : StorHeld)
def vs_AdminQueueAndController_11 : State := withStor (stor0 (ns0)) []
def vcmd_AdminQueueAndController_12 : Nat := nvc 20 0xFFFFFFFF [1]
def vs_AdminQueueAndController_12 : State := withStor (stor0 (ns0)) []
def vcmd_AdminQueueAndController_13 : Nat := nvc 20 0xFFFFFFFF [1]
def vs_AdminQueueAndController_13 : State := withStor ({ stor0 (ns0) with sqs := [(0, ⟨0x100000, 16, 0, 0, 1⟩)] }) []
def vs_AdminQueueAndController_14 : State := withStor ({ stor0 (ns0) with lastUse := full.timeNs, selfTest := some ⟨1, 0xFFFFFFFF, true, false⟩ }) []
def vk_AdminQueueAndController_14 : SelfTest := ⟨1, 0xFFFFFFFF, true, false⟩
def vs_AdminQueueAndController_15 : State := withStor ({ stor0 (ns0) with sqs := [], selfTest := some ⟨1, 0xFFFFFFFF, true, true⟩ }) []
def vk_AdminQueueAndController_15 : SelfTest := ⟨1, 0xFFFFFFFF, true, true⟩
def vs_AdminQueueAndController_16 : State := withStor ({ stor0 (ns0) with sqs := [], selfTest := some ⟨1, 0xFFFFFFFF, false, true⟩ }) []
def vk_AdminQueueAndController_16 : SelfTest := ⟨1, 0xFFFFFFFF, false, true⟩
def vaqa_AdminQueueAndController_17 : Nat := 15 + 15 * 65536
def vs_AdminQueueAndController_17 : State := setRegs (withStor ({ stor0 ({ ns0 with opened := [⟨3, 1, true, []⟩] }) with enabled := false }) []) [(R.NVM_CACHE, 0x10009)]
def vaqa_AdminQueueAndController_18 : Nat := 15 + 15 * 65536
def vs_AdminQueueAndController_18 : State := withStor ({ stor0 (ns0) with enabled := false }) []
def vs_AdminQueueAndController_19 : State := withStor (stor0 (ns0)) []
def vs_AdminQueueAndController_21 : State := withStor (stor0 (ns0)) []
def vx_AdminQueueAndController_21 : NvSq := ⟨0x200000, 16, 1, 0, 1⟩
def vs_AdminQueueAndController_22 : State := withStor (stor0 (ns0)) []
def vx_AdminQueueAndController_22 : NvCq := ⟨0x400000, 16, 0, 0, true, 1, true, 0, 0⟩
def vs_AdminQueueAndController_23 : State := withStor ({ stor0 (ns0) with cqs := [(1, ⟨0x400000, 16, 0, 0, true, 1, true, 2, full.timeNs⟩)], features := [(8, 0x304)] }) []
def vc_AdminQueueAndController_23 : NvCq := ⟨0x400000, 16, 0, 0, true, 1, true, 2, full.timeNs⟩
def vs_AdminQueueAndController_24 : State := withStor ({ stor0 (ns0) with cqs := [(1, ⟨0x400000, 16, 0, 0, true, 1, true, 2, 0⟩)], features := [(8, 0x304)] }) []
def vc_AdminQueueAndController_24 : NvCq := ⟨0x400000, 16, 0, 0, true, 1, true, 2, 0⟩
theorem witness_AdminQueueAndController :
    (∃ (cmd : Nat), ∃ (prps : List Nat), ∃ (s : State), s.nvmeNext 0 cmd 0x06 ∧ cdw cmd 10 % 256 = 1) ∧
    (∃ (cmd : Nat), ∃ (prps : List Nat), ∃ (s : State), ∃ (x : Ns), s.nvmeNext 0 cmd 0x06 ∧ cdw cmd 10 % 256 = 0 ∧ 1 ≤ nvNsid cmd ∧ nvNsid cmd ≤ 256 ∧ s.pf1Ns (nvNsid cmd) = some x) ∧
    (∃ (cmd : Nat), ∃ (prps : List Nat), ∃ (s : State), ∃ (s1 : State), ∃ (b : List Byte), s.nvmeNext 0 cmd 0x02 ∧ cdw cmd 10 % 256 ≠ 4 ∧ (s.nvmeTaken 0).logPage (cdw cmd 10 % 256) = some (b, s1)) ∧
    (∃ (cmd : Nat), ∃ (s : State), s.nvmeNext 0 cmd 0x09 ∧ cdw cmd 10 % 256 ∈ [1, 6, 8, 0x0B]) ∧
    (∃ (cmd : Nat), ∃ (d : Nat), ∃ (s : State), s.nvmeNext 0 cmd 0x0A ∧ nvFeature (cdw cmd 10 % 256) = some d) ∧
    (∃ (cmd : Nat), ∃ (q : Nat), ∃ (n : Nat), ∃ (s : State), s.nvmeNext 0 cmd 0x05 ∧ q = fld (cdw cmd 10) 0 16 ∧ n = fld (cdw cmd 10) 16 16 + 1 ∧ 1 ≤ q ∧ q ≤ 1024 ∧ Tbl.find s.stor.cqs q = none ∧ 2 ≤ n ∧ n ≤ 16384 ∧ bit (cdw cmd 11) 0 = true ∧ fld (cdw cmd 11) 16 16 ≤ 1024) ∧
    (∃ (cmd : Nat), ∃ (q : Nat), ∃ (n : Nat), ∃ (s : State), s.nvmeNext 0 cmd 0x01 ∧ q = fld (cdw cmd 10) 0 16 ∧ n = fld (cdw cmd 10) 16 16 + 1 ∧ 1 ≤ q ∧ q ≤ 1024 ∧ Tbl.find s.stor.sqs q = none ∧ fld (cdw cmd 11) 16 16 ≠ 0 ∧ Tbl.has s.stor.cqs (fld (cdw cmd 11) 16 16) = true ∧ 2 ≤ n ∧ n ≤ 16384 ∧ bit (cdw cmd 11) 0 = true) ∧
    (∃ (cmd : Nat), ∃ (q : Nat), ∃ (s : State), s.nvmeNext 0 cmd 0x00 ∧ q = fld (cdw cmd 10) 0 16 ∧ 1 ≤ q ∧ Tbl.has s.stor.sqs q = true) ∧
    (∃ (cmd : Nat), ∃ (q : Nat), ∃ (s : State), s.nvmeNext 0 cmd 0x04 ∧ q = fld (cdw cmd 10) 0 16 ∧ 1 ≤ q ∧ Tbl.has s.stor.cqs q = true ∧ (∀ x ∈ s.stor.sqs, x.2.cq ≠ q)) ∧
    (∃ (cmd : Nat), ∃ (q : Nat), ∃ (c : Nat), ∃ (s : State), s.nvmeNext 0 cmd 0x08 ∧ q = fld (cdw cmd 10) 0 16 ∧ c = fld (cdw cmd 10) 16 16 ∧ (∀ w ∈ s.stor.held, ∀ p, w.by' ≠ .nvme q c p)) ∧
    (∃ (cmd : Nat), ∃ (q : Nat), ∃ (c : Nat), ∃ (s : State), ∃ (w : StorHeld), ∃ (p : List Nat), s.nvmeNext 0 cmd 0x08 ∧ q = fld (cdw cmd 10) 0 16 ∧ c = fld (cdw cmd 10) 16 16 ∧ w ∈ s.stor.held ∧ w.by' = .nvme q c p ∧ w.op ≠ 1 ∧ w.op ≠ 3) ∧
    (∃ (cmd : Nat), ∃ (s : State), s.nvmeNext 0 cmd 0x0C ∧ s.stor.changed = []) ∧
    (∃ (cmd : Nat), ∃ (s : State), s.nvmeNext 0 cmd 0x14 ∧ (cdw cmd 10 % 16 = 1 ∨ cdw cmd 10 % 16 = 2) ∧ nvNsid cmd = 0xFFFFFFFF ∧ s.stor.selfTest = none ∧ s.stBusy = true) ∧
    (∃ (cmd : Nat), ∃ (s : State), s.nvmeNext 0 cmd 0x14 ∧ (cdw cmd 10 % 16 = 1 ∨ cdw cmd 10 % 16 = 2) ∧ nvNsid cmd = 0xFFFFFFFF ∧ s.stor.selfTest = none ∧ s.stBusy = false ∧ (∀ x ∈ s.stor.nss, x.2.kind = 0)) ∧
    (∃ (s : State), ∃ (k : SelfTest), s.stor.selfTest = some k ∧ s.timeNs < s.stor.lastUse + 1000000) ∧
    (∃ (s : State), ∃ (k : SelfTest), s.stor.selfTest = some k ∧ s.stBusy = false ∧ s.stor.lastUse + 1000000 ≤ s.timeNs ∧ k.issued = true) ∧
    (∃ (seg : Nat), ∃ (s : State), ∃ (k : SelfTest), s.stBusy = false ∧ s.stor.selfTest = some k ∧ k.paused = false ∧ (seg = 0 → ∀ w ∈ s.stor.waits, ∀ g, w.by' ≠ .test g)) ∧
    (∃ (mps : Nat), ∃ (aqa : Nat), ∃ (asq : Nat), ∃ (acq : Nat), ∃ (s : State), s.stor.enabled = false ∧ mps ≤ 4 ∧ s.stor.cfs = false ∧ s.rd R.NVM_CACHE ≠ 0 ∧ s.region (s.rd R.NVM_CACHE) 0 = none) ∧
    (∃ (mps : Nat), ∃ (aqa : Nat), ∃ (asq : Nat), ∃ (acq : Nat), ∃ (s : State), s.stor.enabled = false ∧ mps ≤ 4 ∧ s.stor.cfs = false ∧ (s.rd R.NVM_CACHE = 0 ∨ (s.region (s.rd R.NVM_CACHE) 0).isSome = true)) ∧
    (∃ (s : State), s.stor.enabled = true) ∧
    (∃ (q : Nat), ∃ (tail : Nat), ∃ (s : State), ∃ (x : NvSq), Tbl.find s.stor.sqs q = some x ∧ tail < x.size) ∧
    (∃ (q : Nat), ∃ (head : Nat), ∃ (s : State), ∃ (x : NvCq), Tbl.find s.stor.cqs q = some x ∧ head < x.size ∧ (∀ w ∈ s.stor.cqWait, w.1 ≠ q)) ∧
    (∃ (q : Nat), ∃ (s : State), ∃ (c : NvCq), Tbl.find s.stor.cqs q = some c ∧ s.timeNs < c.since + fld (Tbl.get s.stor.features 8 0) 8 8 * 100000) ∧
    (∃ (q : Nat), ∃ (s : State), ∃ (c : NvCq), Tbl.find s.stor.cqs q = some c ∧ c.due ≠ 0 ∧ c.since + fld (Tbl.get s.stor.features 8 0) 8 8 * 100000 ≤ s.timeNs) :=
  ⟨⟨(nvc 6 0 [1]), ([0x700000]), (vs_AdminQueueAndController_0), ⟨by decide +kernel, by decide +kernel⟩, by decide +kernel⟩,
   ⟨(nvc 6 5 [0]), ([0x700000]), (vs_AdminQueueAndController_1), (vx_AdminQueueAndController_1), ⟨by decide +kernel, by decide +kernel⟩, by decide +kernel, by decide +kernel, by decide +kernel, by decide +kernel⟩,
   ⟨(vcmd_AdminQueueAndController_2), ([0x700000]), (vs_AdminQueueAndController_2), (vs1_AdminQueueAndController_2), (vb_AdminQueueAndController_2), ⟨by decide +kernel, by decide +kernel⟩, by decide +kernel, by decide +kernel⟩,
   ⟨(vcmd_AdminQueueAndController_3), (vs_AdminQueueAndController_3), ⟨by decide +kernel, by decide +kernel⟩, by decide +kernel⟩,
   ⟨(nvc 10 0 [6]), (vd_AdminQueueAndController_4), (vs_AdminQueueAndController_4), ⟨by decide +kernel, by decide +kernel⟩, by decide +kernel⟩,
   ⟨(vcmd_AdminQueueAndController_5), (2), (16), (vs_AdminQueueAndController_5), ⟨by decide +kernel, by decide +kernel⟩, by decide +kernel, by decide +kernel, by decide +kernel, by decide +kernel, by decide +kernel, by decide +kernel, by decide +kernel, by decide +kernel, by decide +kernel⟩,
   ⟨(vcmd_AdminQueueAndController_6), (2), (16), (vs_AdminQueueAndController_6), ⟨by decide +kernel, by decide +kernel⟩, by decide +kernel, by decide +kernel, by decide +kernel, by decide +kernel, by decide +kernel, by decide +kernel, by decide +kernel, by decide +kernel, by decide +kernel, by decide +kernel⟩,
   ⟨(nvc 0 0 [1]), (1), (vs_AdminQueueAndController_7), ⟨by decide +kernel, by decide +kernel⟩, by decide +kernel, by decide +kernel, by decide +kernel⟩,
   ⟨(nvc 4 0 [1]), (1), (vs_AdminQueueAndController_8), ⟨by decide +kernel, by decide +kernel⟩, by decide +kernel, by decide +kernel, by decide +kernel, by decide +kernel⟩,
   ⟨(vcmd_AdminQueueAndController_9), (1), (9), (vs_AdminQueueAndController_9), ⟨by decide +kernel, by decide +kernel⟩, by decide +kernel, by decide +kernel, fun w h => absurd h List.not_mem_nil⟩,
   ⟨(vcmd_AdminQueueAndController_10), (1), (9), (vs_AdminQueueAndController_10), (vw_AdminQueueAndController_10), ([]), ⟨by decide +kernel, by decide +kernel⟩, by decide +kernel, by decide +kernel, by decide +kernel, by decide +kernel, by decide +kernel, by decide +kernel⟩,
   ⟨(nvc 12 0 []), (vs_AdminQueueAndController_11), ⟨by decide +kernel, by decide +kernel⟩, by decide +kernel⟩,
   ⟨(vcmd_AdminQueueAndController_12), (vs_AdminQueueAndController_12), ⟨by decide +kernel, by decide +kernel⟩, by decide +kernel, by decide +kernel, by decide +kernel, by decide +kernel⟩,
   ⟨(vcmd_AdminQueueAndController_13), (vs_AdminQueueAndController_13), ⟨by decide +kernel, by decide +kernel⟩, by decide +kernel, by decide +kernel, by decide +kernel, by decide +kernel, by decide +kernel⟩,
   ⟨(vs_AdminQueueAndController_14), (vk_AdminQueueAndController_14), by decide +kernel, by decide +kernel⟩,
   ⟨(vs_AdminQueueAndController_15), (vk_AdminQueueAndController_15), by decide +kernel, by decide +kernel, by decide +kernel, by decide +kernel⟩,
   ⟨(2), (vs_AdminQueueAndController_16), (vk_AdminQueueAndController_16), by decide +kernel, by decide +kernel, by decide +kernel, fun h => nomatch h⟩,
   ⟨(1), (vaqa_AdminQueueAndController_17), (0x100000), (0x200000), (vs_AdminQueueAndController_17), by decide +kernel, by decide +kernel, by decide +kernel, by decide +kernel, by decide +kernel⟩,
   ⟨(1), (vaqa_AdminQueueAndController_18), (0x100000), (0x200000), (vs_AdminQueueAndController_18), by decide +kernel, by decide +kernel, by decide +kernel, by decide +kernel⟩,
   ⟨(vs_AdminQueueAndController_19), by decide +kernel⟩,
   ⟨(1), (3), (vs_AdminQueueAndController_21), (vx_AdminQueueAndController_21), by decide +kernel, by decide +kernel⟩,
   ⟨(1), (3), (vs_AdminQueueAndController_22), (vx_AdminQueueAndController_22), by decide +kernel, by decide +kernel, by decide +kernel⟩,
   ⟨(1), (vs_AdminQueueAndController_23), (vc_AdminQueueAndController_23), by decide +kernel, by decide +kernel⟩,
   ⟨(1), (vs_AdminQueueAndController_24), (vc_AdminQueueAndController_24), by decide +kernel, by decide +kernel, by decide +kernel⟩⟩

def vx_StorageCommands_2 : Ns := { ns0 with opened := [⟨3, 1, true, []⟩] }
def vs_StorageCommands_2 : State := withStor (stor0 (vx_StorageCommands_2)) []
def vh_StorageCommands_3 : StorHeld := (⟨.nvme 1 9 [], 5, 2, 3, 1, [⟨3, 1, false, zeroBytes 4096⟩], false, 4096⟩ : StorHeld)
def vs_StorageCommands_3 : State := withStor ({ stor0 (ns0) with held := [(⟨.nvme 1 9 [], 5, 2, 3, 1, [⟨3, 1, false, zeroBytes 4096⟩], false, 4096⟩ : StorHeld)] }) []
def vcmd_StorageCommands_4 : Nat := nvc 2 5 [3, 0, 0]
def vx_StorageCommands_4 : Ns := { ns0 with opened := [⟨3, 1, true, []⟩] }
def vs_StorageCommands_4 : State := withStor (stor0 (vx_StorageCommands_4)) []
def vcmd_StorageCommands_5 : Nat := nvc 1 5 [3, 0, 1]
def vs_StorageCommands_5 : State := cached (withStor (stor0 (ns0)) [])
def vcmd_StorageCommands_6 : Nat := nvc 1 5 [3, 0, 1 + 2^30]
def vx_StorageCommands_6 : Ns := { ns0 with opened := [⟨3, 1, true, []⟩] }
def vs_StorageCommands_6 : State := cached (withStor (stor0 (vx_StorageCommands_6)) [])
def vcmd_StorageCommands_7 : Nat := nvc 1 5 [3, 0, 1]
def vs_StorageCommands_7 : State := withStor (stor0 (ns0)) []
def vcmd_StorageCommands_8 : Nat := nvc 8 5 [3, 0, 1]
def vs_StorageCommands_8 : State := cached (withStor (stor0 (ns0)) [])
def vs_StorageCommands_9 : State := withStor (stor0 (ns0)) []
def vx_StorageCommands_10 : Ns := { ns0 with opened := [⟨3, 1, true, []⟩] }
def vs_StorageCommands_10 : State := withStor (stor0 (vx_StorageCommands_10)) []
def vs_StorageCommands_11 : State := withStor (stor0 (ns0)) []
def vdata_StorageCommands_12 : List Byte := zeroBytes 4 ++ leBytes 4 2 ++ leBytes 8 7
def vs_StorageCommands_12 : State := withStor (stor0 (ns0)) []
def vj_StorageCommands_13 : Job := jb 0 5 1 (D [(0, 0x50), (8, 5), (16, 3), (24, 1), (28, 2), (32, 0x10001)])
def vx_StorageCommands_13 : Ns := { ns0 with opened := [⟨3, 1, true, []⟩] }
def vs_StorageCommands_13 : State := withStor (stor0 (vx_StorageCommands_13)) [vj_StorageCommands_13]
def vj_StorageCommands_14 : Job := jb 0 5 1 (D [(0, 0x51), (8, 5), (16, 3), (24, 1), (28, 2), (32, 0x10001)])
def vs_StorageCommands_14 : State := withStor (stor0 (ns0)) [vj_StorageCommands_14]
def vs1_StorageCommands_14 : State := ioSt (vs_StorageCommands_14.readOperand vj_StorageCommands_14 (dby vj_StorageCommands_14.desc 28 1) (dby vj_StorageCommands_14.desc 32 4) (dby vj_StorageCommands_14.desc 40 8) (sdNlb vj_StorageCommands_14.desc * blk) reqStorage)
def vbs_StorageCommands_14 : List Byte := ioVal (vs_StorageCommands_14.readOperand vj_StorageCommands_14 (dby vj_StorageCommands_14.desc 28 1) (dby vj_StorageCommands_14.desc 32 4) (dby vj_StorageCommands_14.desc 40 8) (sdNlb vj_StorageCommands_14.desc * blk) reqStorage)
def vj_StorageCommands_15 : Job := jb 0 5 1 (D [(0, 0x52), (8, 5)])
def vs_StorageCommands_15 : State := withStor (stor0 (ns0)) [vj_StorageCommands_15]
def vj_StorageCommands_16 : Job := jb 0 5 1 (D [(0, 0x53), (8, 5), (16, 3), (24, 2)])
def vs_StorageCommands_16 : State := withStor (stor0 (ns0)) [vj_StorageCommands_16]
theorem witness_StorageCommands :
    (∃ (b : StorBy), ∃ (n : Nat), ∃ (slba : Nat), ∃ (nlb : Nat), ∃ (s : State), ∃ (x : Ns), s.ns n = some x ∧ x.kind ≠ 2 ∧ s.stor.held = [] ∧ (x.kind = 1 → (s.poolPages ⟨b, n, 1, slba, nlb, [], false, nlb * blk⟩ x).any (fun p => s.mem.guardWait.any (fun w => w.dpa / 4096 = p)) = false)) ∧
    (∃ (b : StorBy), ∃ (n : Nat), ∃ (slba : Nat), ∃ (nlb : Nat), ∃ (s : State), ∃ (x : Ns), ∃ (h : StorHeld), s.ns n = some x ∧ h ∈ s.stor.held ∧ h.nsid = n ∧ (h.entries.any (fun e => decide (slba < e.lba + e.count) && decide (e.lba < slba + nlb)) = true)) ∧
    (∃ (sq : Nat), ∃ (cmd : Nat), ∃ (prps : List Nat), ∃ (s : State), ∃ (x : Ns), s.nvmeIoNext sq cmd 0x02 x ∧ nvNlb cmd ≤ 256 ∧ nvSlba cmd + nvNlb cmd ≤ x.blocks) ∧
    (∃ (sq : Nat), ∃ (cmd : Nat), ∃ (data : List Byte), ∃ (s : State), ∃ (x : Ns), s.nvmeIoNext sq cmd 0x01 x ∧ nvNlb cmd ≤ 256 ∧ nvSlba cmd + nvNlb cmd ≤ x.blocks ∧ x.ro = false ∧ x.kind = 0 ∧ s.stor.held = [] ∧ (∀ k, s.cacheBlocks = some k → s.cacheUse + nvNlb cmd ≤ k) ∧ x.opened.length < 240 ∧ dataBlocks x.opened + nvNlb cmd < 8064 ∧ bit (cdw cmd 12) 30 = false ∧ s.vwcOn = true) ∧
    (∃ (sq : Nat), ∃ (cmd : Nat), ∃ (data : List Byte), ∃ (s : State), ∃ (x : Ns), s.nvmeIoNext sq cmd 0x01 x ∧ nvNlb cmd ≤ 256 ∧ nvSlba cmd + nvNlb cmd ≤ x.blocks ∧ x.ro = false ∧ x.kind = 0 ∧ s.stor.held = [] ∧ (∀ k, s.cacheBlocks = some k → s.cacheUse + nvNlb cmd ≤ k) ∧ x.opened.length < 240 ∧ dataBlocks x.opened + nvNlb cmd < 8064 ∧ (bit (cdw cmd 12) 30 = true ∨ s.vwcOn = false)) ∧
    (∃ (sq : Nat), ∃ (cmd : Nat), ∃ (bad : Nat), ∃ (data : List Byte), ∃ (s : State), ∃ (x : Ns), s.nvmeIoNext sq cmd 0x01 x ∧ nvNlb cmd ≤ 256 ∧ nvSlba cmd + nvNlb cmd ≤ x.blocks ∧ x.ro = false ∧ 1 ≤ bad) ∧
    (∃ (sq : Nat), ∃ (cmd : Nat), ∃ (s : State), ∃ (x : Ns), s.nvmeIoNext sq cmd 0x08 x ∧ nvSlba cmd + nvNlb cmd ≤ x.blocks ∧ x.ro = false ∧ x.kind = 0 ∧ bit (cdw cmd 12) 30 = false ∧ s.vwcOn = true ∧ s.stor.held = [] ∧ (∀ k, s.cacheBlocks = some k → s.cacheUse ≤ k) ∧ x.opened.length < 251 ∧ dataBlocks x.opened < 8064) ∧
    (∃ (sq : Nat), ∃ (cmd : Nat), ∃ (s : State), ∃ (x : Ns), s.nvmeIoNext sq cmd 0x00 x ∧ x.kind = 0 ∧ x.opened = [] ∧ x.closed = []) ∧
    (∃ (sq : Nat), ∃ (cmd : Nat), ∃ (s : State), ∃ (x : Ns), s.nvmeIoNext sq cmd 0x00 x ∧ x.kind = 0 ∧ x.opened ≠ []) ∧
    (∃ (sq : Nat), ∃ (cmd : Nat), ∃ (data : List Byte), ∃ (s : State), ∃ (x : Ns), s.nvmeIoNext sq cmd 0x09 x ∧ bit (cdw cmd 11) 2 = false) ∧
    (∃ (sq : Nat), ∃ (cmd : Nat), ∃ (data : List Byte), ∃ (s : State), ∃ (x : Ns), s.nvmeIoNext sq cmd 0x09 x ∧ bit (cdw cmd 11) 2 = true ∧ cdw cmd 10 % 256 = 0 ∧ leAt data 8 8 + leAt data 4 4 ≤ x.blocks ∧ x.ro = false) ∧
    (∃ (sr : Nat), ∃ (tag : Nat), ∃ (s : State), ∃ (j : Job), ∃ (x : Ns), s.storNext sr tag 0x50 j x) ∧
    (∃ (sr : Nat), ∃ (tag : Nat), ∃ (s : State), ∃ (s1 : State), ∃ (j : Job), ∃ (x : Ns), ∃ (bs : List Byte), s.storNext sr tag 0x51 j x ∧ s.readOperand j (dby j.desc 28 1) (dby j.desc 32 4) (dby j.desc 40 8) (sdNlb j.desc * blk) reqStorage = .ok s1 bs) ∧
    (∃ (sr : Nat), ∃ (tag : Nat), ∃ (s : State), ∃ (j : Job), ∃ (x : Ns), s.storNext sr tag 0x52 j x ∧ x.kind = 0 ∧ x.opened = [] ∧ x.closed = []) ∧
    (∃ (c : Nat → Nat → Instr), ∃ (op : Nat), ∃ (p : Nat), ∃ (sr : Nat), ∃ (tag : Nat), ∃ (s : State), ∃ (j : Job), ∃ (x : Ns), (c, op, p) ∈ ([(.storWriteZeroes, 0x53, 4), (.storDeallocate, 0x54, 5)] : List ((Nat → Nat → Instr) × Nat × Nat)) ∧ s.storNext sr tag op j x) :=
  ⟨⟨(.desc 0 5), (5), (3), (1), (vs_StorageCommands_2), (vx_StorageCommands_2), by decide +kernel, by decide +kernel, by decide +kernel, by decide +kernel⟩,
   ⟨(.desc 0 5), (5), (3), (1), (vs_StorageCommands_3), (ns0), (vh_StorageCommands_3), by decide +kernel, by decide +kernel, by decide +kernel, by decide +kernel⟩,
   ⟨(1), (vcmd_StorageCommands_4), ([0x700000]), (vs_StorageCommands_4), (vx_StorageCommands_4), ⟨⟨by decide +kernel, by decide +kernel⟩, by decide +kernel⟩, by decide +kernel, by decide +kernel⟩,
   ⟨(1), (vcmd_StorageCommands_5), ([1, 2]), (vs_StorageCommands_5), (ns0), ⟨⟨by decide +kernel, by decide +kernel⟩, by decide +kernel⟩, by decide +kernel, by decide +kernel, by decide +kernel, by decide +kernel, by decide +kernel, by decide +kernel, by decide +kernel, by decide +kernel, by decide +kernel, by decide +kernel⟩,
   ⟨(1), (vcmd_StorageCommands_6), ([1, 2]), (vs_StorageCommands_6), (vx_StorageCommands_6), ⟨⟨by decide +kernel, by decide +kernel⟩, by decide +kernel⟩, by decide +kernel, by decide +kernel, by decide +kernel, by decide +kernel, by decide +kernel, by decide +kernel, by decide +kernel, by decide +kernel, by decide +kernel⟩,
   ⟨(1), (vcmd_StorageCommands_7), (3), ([1, 2]), (vs_StorageCommands_7), (ns0), ⟨⟨by decide +kernel, by decide +kernel⟩, by decide +kernel⟩, by decide +kernel, by decide +kernel, by decide +kernel, by decide +kernel⟩,
   ⟨(1), (vcmd_StorageCommands_8), (vs_StorageCommands_8), (ns0), ⟨⟨by decide +kernel, by decide +kernel⟩, by decide +kernel⟩, by decide +kernel, by decide +kernel, by decide +kernel, by decide +kernel, by decide +kernel, by decide +kernel, by decide +kernel, by decide +kernel, by decide +kernel⟩,
   ⟨(1), (nvc 0 5 []), (vs_StorageCommands_9), (ns0), ⟨⟨by decide +kernel, by decide +kernel⟩, by decide +kernel⟩, by decide +kernel, by decide +kernel, by decide +kernel⟩,
   ⟨(1), (nvc 0 5 []), (vs_StorageCommands_10), (vx_StorageCommands_10), ⟨⟨by decide +kernel, by decide +kernel⟩, by decide +kernel⟩, by decide +kernel, by decide +kernel⟩,
   ⟨(1), (nvc 9 5 [0, 3]), ([]), (vs_StorageCommands_11), (ns0), ⟨⟨by decide +kernel, by decide +kernel⟩, by decide +kernel⟩, by decide +kernel⟩,
   ⟨(1), (nvc 9 5 [0, 4]), (vdata_StorageCommands_12), (vs_StorageCommands_12), (ns0), ⟨⟨by decide +kernel, by decide +kernel⟩, by decide +kernel⟩, by decide +kernel, by decide +kernel, by decide +kernel, by decide +kernel⟩,
   ⟨(0), (5), (vs_StorageCommands_13), (vj_StorageCommands_13), (vx_StorageCommands_13), ⟨ready_of (by decide +kernel), by decide +kernel⟩⟩,
   ⟨(0), (5), (vs_StorageCommands_14), (vs1_StorageCommands_14), (vj_StorageCommands_14), (ns0), (vbs_StorageCommands_14), ⟨ready_of (by decide +kernel), by decide +kernel⟩, io_ok _ (by decide +kernel)⟩,
   ⟨(0), (5), (vs_StorageCommands_15), (vj_StorageCommands_15), (ns0), ⟨ready_of (by decide +kernel), by decide +kernel⟩, by decide +kernel, by decide +kernel, by decide +kernel⟩,
   ⟨(.storWriteZeroes), (0x53), (4), (0), (5), (vs_StorageCommands_16), (vj_StorageCommands_16), (ns0), by simp, ⟨ready_of (by decide +kernel), by decide +kernel⟩⟩⟩

def vx_BatchesAndLog_0 : Ns := { ns0 with opened := [⟨3, 1, true, []⟩], since := full.timeNs }
def vs_BatchesAndLog_0 : State := withStor (stor0 (vx_BatchesAndLog_0)) []
def vx_BatchesAndLog_1 : Ns := { ns0 with opened := [⟨3, 1, true, []⟩] }
def vs_BatchesAndLog_1 : State := withStor (stor0 (vx_BatchesAndLog_1)) []
def vx_BatchesAndLog_2 : Ns := { ns0 with closed := [(⟨3, 7, [⟨3, 1, true, []⟩], true⟩ : Batch)], seq := 4, pos := 8 }
def vb_BatchesAndLog_2 : Batch := (⟨3, 7, [⟨3, 1, true, []⟩], true⟩ : Batch)
def vs_BatchesAndLog_2 : State := withStor (stor0 (vx_BatchesAndLog_2)) []
def vs_BatchesAndLog_3 : State := withStor (stor0 (ns0)) []
def vx_BatchesAndLog_4 : Ns := { ns0 with needReplay := true }
def vs_BatchesAndLog_4 : State := withStor (stor0 (vx_BatchesAndLog_4)) []
def vx_BatchesAndLog_5 : Ns := { ns0 with needReplay := true }
def vs_BatchesAndLog_5 : State := withStor ({ stor0 (vx_BatchesAndLog_5) with drives := [(0, [(2000, superblock 5 3 7 5)])] }) []
def vx_BatchesAndLog_6 : Ns := { ns0 with closed := [{ (⟨3, 7, [⟨3, 1, true, []⟩], true⟩ : Batch) with ready := false }] }
def vs_BatchesAndLog_6 : State := withStor ({ stor0 (vx_BatchesAndLog_6) with driveOps := [(4, 5, 3, true)] }) []
def vx_BatchesAndLog_7 : Ns := { ns0 with closed := [{ (⟨3, 7, [⟨3, 1, true, []⟩], true⟩ : Batch) with ready := false }] }
def vs_BatchesAndLog_7 : State := withStor ({ stor0 (vx_BatchesAndLog_7) with driveOps := [(4, 5, 3, false)] }) []
def vj_Namespaces_0 : Job := jb 0 5 1 (D [(0, 0x58), (8, 6), (12, 1), (13, 1), (15, 1), (16, 0x10003), (32, 100)])
def vs_Namespaces_0 : State := withStor (stor0 (ns0)) [vj_Namespaces_0]
def vr_Namespaces_0 : Region := (vs_Namespaces_0.region (dby vj_Namespaces_0.desc 16 4) (dby vj_Namespaces_0.desc 15 1)).get (by decide +kernel)
def vj_Namespaces_1 : Job := jb 0 5 1 (D [(0, 0x59), (8, 5)])
def vs_Namespaces_1 : State := withStor (stor0 (ns0)) [vj_Namespaces_1]
def vj_Namespaces_2 : Job := jb 0 5 1 (D [(0, 0x59), (8, 5)])
def vs_Namespaces_2 : State := withStor ({ stor0 (ns0) with waits := [(⟨.desc 0 5, 5, none, none, some 9, false, [], 4096⟩ : StorWait)] }) [vj_Namespaces_2]
def vj_Namespaces_3 : Job := jb 0 5 1 (D [(0, 0x5A), (8, 6)])
def vs_Namespaces_3 : State := withStor (stor0 (ns0)) [vj_Namespaces_3]
def vj_Namespaces_4 : Job := jb 0 5 1 (D [(0, 0x5A), (8, 5)])
def vs_Namespaces_4 : State := withStor (stor0 (({ ns0 with opened := [⟨3, 1, true, []⟩] }))) [vj_Namespaces_4]
def vj_Namespaces_5 : Job := jb 0 5 1 (D [(0, 0x5B), (8, 5), (13, 2), (16, 9)])
def vs_Namespaces_5 : State := ({ withStor (stor0 (ns0)) [vj_Namespaces_5] with tmt := { full.tmt with qps := [(9, { qpD with slice := 0 })] } } : State)
def vj_Namespaces_6 : Job := jb 0 5 1 (D [(0, 0x5C), (8, 5)])
def vx_Namespaces_6 : Ns := { ns0 with exported := some (9, true) }
def vs_Namespaces_6 : State := withStor (stor0 (vx_Namespaces_6)) [vj_Namespaces_6]
def vcap_Namespaces_7 : List Byte := leBytes 1 1 ++ [0] ++ leBytes 2 9 ++ leBytes 4 5 ++ leBytes 8 3 ++ leBytes 4 1 ++ leBytes 4 49154 ++ zeroBytes 40
def vx_Namespaces_7 : Ns := { ns0 with exported := some (9, false) }
def vs_Namespaces_7 : State := ({ withStor (stor0 (vx_Namespaces_7)) [] with tmt := { full.tmt with qps := [(9, { qpD with slice := 0 })] } } : State)
def vcap_Namespaces_8 : List Byte := leBytes 1 1 ++ [0] ++ leBytes 2 9 ++ leBytes 4 5 ++ leBytes 8 3 ++ leBytes 4 1 ++ leBytes 4 49154 ++ zeroBytes 40
def vx_Namespaces_8 : Ns := { ns0 with exported := some (9, false) }
def vs_Namespaces_8 : State := ({ withStor (stor0 (vx_Namespaces_8)) [] with tmt := { full.tmt with qps := [(9, { qpD with slice := 0 })] } } : State)
def vcap_Namespaces_9 : List Byte := leBytes 1 2 ++ [0] ++ leBytes 2 9 ++ leBytes 4 5 ++ leBytes 8 3 ++ leBytes 4 1 ++ leBytes 4 49154 ++ zeroBytes 40
def vx_Namespaces_9 : Ns := { ns0 with exported := some (9, true) }
def vs_Namespaces_9 : State := ({ withStor (stor0 (vx_Namespaces_9)) [] with tmt := { full.tmt with qps := [(9, { qpD with slice := 0 })] } } : State)
def vcap_Namespaces_10 : List Byte := leBytes 1 2 ++ [0] ++ leBytes 2 9 ++ leBytes 4 5 ++ leBytes 8 3 ++ leBytes 4 1 ++ leBytes 4 49154 ++ zeroBytes 40
def vx_Namespaces_10 : Ns := { ns0 with exported := some (9, false) }
def vs_Namespaces_10 : State := ({ withStor (stor0 (vx_Namespaces_10)) [] with tmt := { full.tmt with qps := [(9, { qpD with slice := 0 })] } } : State)
def vcap_Namespaces_11 : List Byte := leBytes 2 9 ++ zeroBytes 30
def vx_Namespaces_11 : Ns := { ns0 with kind := 2, backing := 9, exported := none }
def vw_Namespaces_11 : StorWait := (⟨.desc 0 5, 5, none, none, some 9, false, [], 4096⟩ : StorWait)
def vs_Namespaces_11 : State := ({ withStor ({ stor0 (vx_Namespaces_11) with waits := [(⟨.desc 0 5, 5, none, none, some 9, false, [], 4096⟩ : StorWait)] }) [(jb 0 5 1 0)] with tmt := { full.tmt with qps := [(9, { qpD with slice := 0 })] } } : State)
def vcap_Namespaces_12 : List Byte := leBytes 2 9 ++ leBytes 2 7 ++ zeroBytes 28
def vx_Namespaces_12 : Ns := { ns0 with kind := 2, backing := 9, exported := none }
def vw_Namespaces_12 : StorWait := (⟨.desc 0 5, 5, none, none, some 9, false, [], 4096⟩ : StorWait)
def vs_Namespaces_12 : State := ({ withStor ({ stor0 (vx_Namespaces_12) with waits := [(⟨.desc 0 5, 5, none, none, some 9, false, [], 4096⟩ : StorWait)] }) [(jb 0 5 1 0)] with tmt := { full.tmt with qps := [(9, { qpD with slice := 0 })] } } : State)
theorem witness_BatchesAndNamespaces :
    (∃ (n : Nat), ∃ (s : State), ∃ (x : Ns), s.ns n = some x ∧ s.timeNs < x.since + 50000) ∧
    (∃ (n : Nat), ∃ (s : State), ∃ (x : Ns), s.ns n = some x ∧ x.opened ≠ [] ∧ x.since + 50000 ≤ s.timeNs) ∧
    (∃ (n : Nat), ∃ (s : State), ∃ (x : Ns), ∃ (b : Batch), ∃ (rest : List Batch), s.ns n = some x ∧ x.closed = b :: rest ∧ b.ready = true ∧ x.logUsed b ≤ x.logBlocks - 1 ∧ 1 ≤ b.recPos ∧ (∀ w ∈ s.stor.waits, w.nsid ≠ n)) ∧
    (∃ (n : Nat), ∃ (s : State), ∃ (x : Ns), s.ns n = some x ∧ x.kind = 0) ∧
    (∃ (n : Nat), ∃ (s : State), ∃ (x : Ns), ∃ bad, s.ns n = some x ∧ x.kind = 0 ∧ x.needReplay = true ∧ (bad = true ∨ leAt (s.driveBlock x.drive x.logLba) 0 4 ≠ 0x4253564E)) ∧
    (∃ (n : Nat), ∃ (s : State), ∃ (x : Ns), ∃ b, s.ns n = some x ∧ x.kind = 0 ∧ x.needReplay = true ∧ s.driveBlock x.drive x.logLba = b ∧ leAt b 0 4 = 0x4253564E ∧ leAt b 4 4 = n ∧ checkOk b 32 = true ∧ leAt (s.driveBlock x.drive (x.logLba + leAt b 16 8)) 0 4 ≠ 0x5243564E) ∧
    (∃ (id : Nat), ∃ (n : Nat), ∃ (seq : Nat), ∃ (f : Bool), ∃ (s : State), ∃ (x : Ns), (∀ w ∈ s.stor.waits, w.drive ≠ some id) ∧ (s.stor.driveOps.find? (fun o => o.1 = id) = some (id, n, seq, f)) ∧ s.ns n = some x ∧ (f = true ∨ x.vwc = false)) ∧
    (∃ (id : Nat), ∃ (n : Nat), ∃ (seq : Nat), ∃ (f : Bool), ∃ (s : State), ∃ (x : Ns), (∀ w ∈ s.stor.waits, w.drive ≠ some id) ∧ (s.stor.driveOps.find? (fun o => o.1 = id) = some (id, n, seq, f)) ∧ s.ns n = some x ∧ f = false ∧ x.vwc = true ∧ (∃ b ∈ x.closed, b.seq = seq)) ∧
    (∃ (sr : Nat), ∃ (tag : Nat), ∃ (size : Nat), ∃ (n : Nat), ∃ (fmt : Bool), ∃ (vwc : Bool), ∃ (s : State), ∃ (j : Job), ∃ (r : Region), s.ready sr tag 0x58 j ∧ rsvdZero j.desc [(8, 48)] = true ∧ n = dby j.desc 8 4 ∧ 1 ≤ n ∧ n ≤ 256 ∧ dby j.desc 12 1 = 1 ∧ dby j.desc 13 1 < 4 ∧ dby j.desc 14 1 = 0 ∧ dby j.desc 15 1 < 64 ∧ dby j.desc 32 8 ≠ 0 ∧ s.ns n = none ∧ s.region (dby j.desc 16 4) (dby j.desc 15 1) = some r ∧ dby j.desc 32 8 * blk ≤ r.dataBytes) ∧
    (∃ (sr : Nat), ∃ (tag : Nat), ∃ (n : Nat), ∃ (s : State), ∃ (j : Job), ∃ (x : Ns), s.ready sr tag 0x59 j ∧ rsvdZero j.desc [(8, 4)] = true ∧ n = dby j.desc 8 4 ∧ s.ns n = some x ∧ (j.slice = 0 ∨ x.owner = j.slice) ∧ s.nsBusy n = false ∧ x.needReplay = false) ∧
    (∃ (sr : Nat), ∃ (tag : Nat), ∃ (n : Nat), ∃ (s : State), ∃ (j : Job), ∃ (x : Ns), s.ready sr tag 0x59 j ∧ rsvdZero j.desc [(8, 4)] = true ∧ n = dby j.desc 8 4 ∧ s.ns n = some x ∧ (j.slice = 0 ∨ x.owner = j.slice) ∧ s.nsBusy n = true) ∧
    (∃ (sr : Nat), ∃ (tag : Nat), ∃ (n : Nat), ∃ (s : State), ∃ (j : Job), s.ready sr tag 0x5A j ∧ rsvdZero j.desc [(8, 4)] = true ∧ n = dby j.desc 8 4 ∧ s.ns n = none) ∧
    (∃ (sr : Nat), ∃ (tag : Nat), ∃ (n : Nat), ∃ (s : State), ∃ (j : Job), ∃ x, s.ready sr tag 0x5A j ∧ rsvdZero j.desc [(8, 4)] = true ∧ n = dby j.desc 8 4 ∧ s.ns n = some x ∧ s.stor.selfTest = none) ∧
    (∃ (sr : Nat), ∃ (tag : Nat), ∃ (n : Nat), ∃ (s : State), ∃ (j : Job), ∃ (x : Ns), s.ready sr tag 0x5B j ∧ rsvdZero j.desc [(8, 4), (13, 1), (16, 4)] = true ∧ clearBits (dby j.desc 13 1) 2 = 0 ∧ n = dby j.desc 8 4 ∧ s.ns n = some x ∧ (j.slice = 0 ∨ x.owner = j.slice) ∧ x.kind ≠ 2 ∧ s.capsuleQp (dby j.desc 16 4) = true) ∧
    (∃ (sr : Nat), ∃ (tag : Nat), ∃ (n : Nat), ∃ (s : State), ∃ (j : Job), ∃ (x : Ns), s.ready sr tag 0x5C j ∧ rsvdZero j.desc [(8, 4)] = true ∧ n = dby j.desc 8 4 ∧ s.ns n = some x ∧ (j.slice = 0 ∨ x.owner = j.slice) ∧ x.exported.isSome = true ∧ (∀ w ∈ s.stor.waits, w.nsid ≠ n) ∧ (∀ w ∈ s.stor.held, w.nsid ≠ n)) ∧
    (∃ (qn : Nat), ∃ (q : Nat), ∃ (cap : List Byte), ∃ (data : List Byte), ∃ (ro : Bool), ∃ (s : State), ∃ (x : Ns), s.ns (leAt cap 4 4) = some x ∧ x.exported = some (q, ro) ∧ q ≠ qn) ∧
    (∃ (qn : Nat), ∃ (q : Nat), ∃ (cap : List Byte), ∃ (data : List Byte), ∃ (ro : Bool), ∃ (s : State), ∃ (x : Ns), s.ns (leAt cap 4 4) = some x ∧ x.exported = some (q, ro) ∧ q = qn ∧ x.notReady = false ∧ x.needReplay = false ∧ leAt cap 0 1 = 1 ∧ 1 ≤ leAt cap 16 4 ∧ leAt cap 16 4 ≤ 256 ∧ leAt cap 8 8 + leAt cap 16 4 ≤ x.blocks) ∧
    (∃ (qn : Nat), ∃ (q : Nat), ∃ (cap : List Byte), ∃ (data : List Byte), ∃ (ro : Bool), ∃ (s : State), ∃ (x : Ns), s.ns (leAt cap 4 4) = some x ∧ x.exported = some (q, ro) ∧ q = qn ∧ x.notReady = false ∧ x.needReplay = false ∧ leAt cap 0 1 = 2 ∧ 1 ≤ leAt cap 16 4 ∧ leAt cap 16 4 ≤ 256 ∧ leAt cap 8 8 + leAt cap 16 4 ≤ x.blocks ∧ (ro = true ∨ x.ro = true)) ∧
    (∃ (qn : Nat), ∃ (q : Nat), ∃ (cap : List Byte), ∃ (data : List Byte), ∃ (ro : Bool), ∃ (s : State), ∃ (x : Ns), s.ns (leAt cap 4 4) = some x ∧ x.exported = some (q, ro) ∧ q = qn ∧ x.notReady = false ∧ x.needReplay = false ∧ leAt cap 0 1 = 2 ∧ 1 ≤ leAt cap 16 4 ∧ leAt cap 16 4 ≤ 256 ∧ leAt cap 8 8 + leAt cap 16 4 ≤ x.blocks ∧ ro = false ∧ x.ro = false) ∧
    (∃ (qn : Nat), ∃ (cap : List Byte), ∃ (s : State), ∃ (x : Ns), ∃ (w : StorWait), ∃ (sr : Nat), ∃ (tag : Nat), ∃ (j : Job), s.stor.waits = [w] ∧ s.stor.held = [] ∧ w.peer = some (leAt cap 0 2) ∧ s.ns w.nsid = some x ∧ x.kind = 2 ∧ x.backing = qn ∧ w.by' = .desc sr tag ∧ s.job sr tag = some j ∧ s.allLanded sr tag ∧ leAt cap 2 2 = 0 ∧ w.reads = false) ∧
    (∃ (qn : Nat), ∃ (cap : List Byte), ∃ (s : State), ∃ (x : Ns), ∃ (w : StorWait), ∃ (sr : Nat), ∃ (tag : Nat), ∃ (j : Job), s.stor.waits = [w] ∧ s.stor.held = [] ∧ w.peer = some (leAt cap 0 2) ∧ s.ns w.nsid = some x ∧ x.kind = 2 ∧ x.backing = qn ∧ w.by' = .desc sr tag ∧ s.job sr tag = some j ∧ s.allLanded sr tag ∧ leAt cap 2 2 ≠ 0) :=
  ⟨⟨(5), (vs_BatchesAndLog_0), (vx_BatchesAndLog_0), by decide +kernel, by decide +kernel⟩,
   ⟨(5), (vs_BatchesAndLog_1), (vx_BatchesAndLog_1), by decide +kernel, by decide +kernel, by decide +kernel⟩,
   ⟨(5), (vs_BatchesAndLog_2), (vx_BatchesAndLog_2), (vb_BatchesAndLog_2), ([]), by decide +kernel, by decide +kernel, by decide +kernel, by decide +kernel, by decide +kernel, by decide +kernel⟩,
   ⟨(5), (vs_BatchesAndLog_3), (ns0), by decide +kernel, by decide +kernel⟩,
   ⟨(5), (vs_BatchesAndLog_4), (vx_BatchesAndLog_4), (true), by decide +kernel, by decide +kernel, by decide +kernel, by decide +kernel⟩,
   ⟨(5), (vs_BatchesAndLog_5), (vx_BatchesAndLog_5), (superblock 5 3 7 5), by decide +kernel, by decide +kernel, by decide +kernel, by decide +kernel, by decide +kernel, by decide +kernel, by decide +kernel, by decide +kernel⟩,
   ⟨(4), (5), (3), (true), (vs_BatchesAndLog_6), (vx_BatchesAndLog_6), by decide +kernel, by decide +kernel, by decide +kernel, by decide +kernel⟩,
   ⟨(4), (5), (3), (false), (vs_BatchesAndLog_7), (vx_BatchesAndLog_7), by decide +kernel, by decide +kernel, by decide +kernel, by decide +kernel, by decide +kernel, by decide +kernel⟩,
   ⟨(0), (5), (1000), (6), (true), (false), (vs_Namespaces_0), (vj_Namespaces_0), (vr_Namespaces_0), ready_of (by decide +kernel), by decide +kernel, by decide +kernel, by decide +kernel, by decide +kernel, by decide +kernel, by decide +kernel, by decide +kernel, by decide +kernel, by decide +kernel, by decide +kernel, by decide +kernel, by decide +kernel⟩,
   ⟨(0), (5), (5), (vs_Namespaces_1), (vj_Namespaces_1), (ns0), ready_of (by decide +kernel), by decide +kernel, by decide +kernel, by decide +kernel, by decide +kernel, by decide +kernel, by decide +kernel⟩,
   ⟨(0), (5), (5), (vs_Namespaces_2), (vj_Namespaces_2), (ns0), ready_of (by decide +kernel), by decide +kernel, by decide +kernel, by decide +kernel, by decide +kernel, by decide +kernel⟩,
   ⟨(0), (5), (6), (vs_Namespaces_3), (vj_Namespaces_3), ready_of (by decide +kernel), by decide +kernel, by decide +kernel, by decide +kernel⟩,
   ⟨(0), (5), (5), (vs_Namespaces_4), (vj_Namespaces_4), ({ ns0 with opened := [⟨3, 1, true, []⟩] }), ready_of (by decide +kernel), by decide +kernel, by decide +kernel, by decide +kernel, by decide +kernel⟩,
   ⟨(0), (5), (5), (vs_Namespaces_5), (vj_Namespaces_5), (ns0), ready_of (by decide +kernel), by decide +kernel, by decide +kernel, by decide +kernel, by decide +kernel, by decide +kernel, by decide +kernel, by decide +kernel⟩,
   ⟨(0), (5), (5), (vs_Namespaces_6), (vj_Namespaces_6), (vx_Namespaces_6), ready_of (by decide +kernel), by decide +kernel, by decide +kernel, by decide +kernel, by decide +kernel, by decide +kernel, by decide +kernel, by decide +kernel⟩,
   ⟨(8), (9), (vcap_Namespaces_7), ([]), (false), (vs_Namespaces_7), (vx_Namespaces_7), by decide +kernel, by decide +kernel, by decide +kernel⟩,
   ⟨(9), (9), (vcap_Namespaces_8), ([]), (false), (vs_Namespaces_8), (vx_Namespaces_8), by decide +kernel, by decide +kernel, by decide +kernel, by decide +kernel, by decide +kernel, by decide +kernel, by decide +kernel, by decide +kernel, by decide +kernel⟩,
   ⟨(9), (9), (vcap_Namespaces_9), ([1]), (true), (vs_Namespaces_9), (vx_Namespaces_9), by decide +kernel, by decide +kernel, by decide +kernel, by decide +kernel, by decide +kernel, by decide +kernel, by decide +kernel, by decide +kernel, by decide +kernel, by decide +kernel⟩,
   ⟨(9), (9), (vcap_Namespaces_10), ([1]), (false), (vs_Namespaces_10), (vx_Namespaces_10), by decide +kernel, by decide +kernel, by decide +kernel, by decide +kernel, by decide +kernel, by decide +kernel, by decide +kernel, by decide +kernel, by decide +kernel, by decide +kernel, by decide +kernel⟩,
   ⟨(9), (vcap_Namespaces_11), (vs_Namespaces_11), (vx_Namespaces_11), (vw_Namespaces_11), (0), (5), (jb 0 5 1 0), by decide +kernel, by decide +kernel, by decide +kernel, by decide +kernel, by decide +kernel, by decide +kernel, by decide +kernel, by decide +kernel, landed_of (by decide +kernel), by decide +kernel, by decide +kernel⟩,
   ⟨(9), (vcap_Namespaces_12), (vs_Namespaces_12), (vx_Namespaces_12), (vw_Namespaces_12), (0), (5), (jb 0 5 1 0), by decide +kernel, by decide +kernel, by decide +kernel, by decide +kernel, by decide +kernel, by decide +kernel, by decide +kernel, by decide +kernel, landed_of (by decide +kernel), by decide +kernel⟩⟩

def vx_HomeWritesKeepReads_0 : Ns := { ns0 with homing := [(⟨3, 7, [⟨3, 1, true, []⟩], true⟩ : Batch)] }
def vb_HomeWritesKeepReads_0 : Batch := (⟨3, 7, [⟨3, 1, true, []⟩], true⟩ : Batch)
def vs_HomeWritesKeepReads_0 : State := withStor (stor0 (vx_HomeWritesKeepReads_0)) []
theorem witness_HomeWritesKeepReads :
    (∃ (n : Nat), ∃ (s : State), ∃ (x : Ns), ∃ (b : Batch), ∃ (rest : List Batch), s.ns n = some x ∧ x.homing = b :: rest ∧ s.stor.held = [] ∧ (∀ e ∈ b.entries, e.zero = true ∨ e.data.length = e.count * blk) ∧ (x.logLba < x.start ∨ x.start + x.blocks ≤ x.logLba)) :=
  ⟨(5), (vs_HomeWritesKeepReads_0), (vx_HomeWritesKeepReads_0), (vb_HomeWritesKeepReads_0), ([]), by decide +kernel, by decide +kernel, by decide +kernel, by decide +kernel, by decide +kernel⟩

def vj_JobsAndSnapshots_0 : Job := jb 0 5 1 (D [(0, 0x60), (8, 0), (16, 0x10001)])
def vh_JobsAndSnapshots_0 : List Byte := (leBytes 4 0x504B4343 ++ [0, 1] ++ leBytes 2 2 ++ leBytes 4 77 ++ [1, 2, 1, 0] ++ leBytes 4 0x100007 ++ leBytes 4 0x10004 ++ leBytes 4 0x10005 ++ zeroBytes 4 ++ leBytes 4 0x10006 ++ leBytes 8 1048576 ++ leBytes 4 1 ++ zeroBytes 80)
def vb_JobsAndSnapshots_0 : List Byte := (leBytes 2 3 ++ [1, 1] ++ leBytes 4 9 ++ leBytes 4 49154 ++ zeroBytes 4 ++ leBytes 2 4 ++ [3, 1] ++ leBytes 4 9 ++ leBytes 4 49154 ++ zeroBytes 4 ++ [1] ++ zeroBytes 7 ++ leBytes 4 0x10003 ++ [2] ++ zeroBytes 115)
def vk_JobsAndSnapshots_0 : CkJob := ckJobOf (vj_JobsAndSnapshots_0).slice vh_JobsAndSnapshots_0 ((List.range (leAt vh_JobsAndSnapshots_0 13 1)).map (sect vb_JobsAndSnapshots_0 0 16)) ((List.range (leAt vh_JobsAndSnapshots_0 12 1)).map (sect vb_JobsAndSnapshots_0 (16 * leAt vh_JobsAndSnapshots_0 13 1) 128))
def vs_JobsAndSnapshots_0 : State := { (ckSt ck0 [vj_JobsAndSnapshots_0] []) with mem := { (ckSt ck0 [] []).mem with bytes := memAt (5 * 2097152) ((leBytes 4 0x504B4343 ++ [0, 1] ++ leBytes 2 2 ++ leBytes 4 77 ++ [1, 2, 1, 0] ++ leBytes 4 0x100007 ++ leBytes 4 0x10004 ++ leBytes 4 0x10005 ++ zeroBytes 4 ++ leBytes 4 0x10006 ++ leBytes 8 1048576 ++ leBytes 4 1 ++ zeroBytes 80) ++ (leBytes 2 3 ++ [1, 1] ++ leBytes 4 9 ++ leBytes 4 49154 ++ zeroBytes 4 ++ leBytes 2 4 ++ [3, 1] ++ leBytes 4 9 ++ leBytes 4 49154 ++ zeroBytes 4 ++ [1] ++ zeroBytes 7 ++ leBytes 4 0x10003 ++ [2] ++ zeroBytes 115)) } }
def vs1_JobsAndSnapshots_0 : State := vs_JobsAndSnapshots_0
def vs2_JobsAndSnapshots_0 : State := vs_JobsAndSnapshots_0
def vj_JobsAndSnapshots_1 : Job := jb 0 5 1 (D [(0, 0x61), (8, 768)])
def vs_JobsAndSnapshots_1 : State := ckSt (ck0) [vj_JobsAndSnapshots_1] ([])
def vj_JobsAndSnapshots_2 : Job := jb 0 5 1 (D [(0, 0x62), (8, 768), (12, 7)])
def vs_JobsAndSnapshots_2 : State := ckSt (ck0) [vj_JobsAndSnapshots_2] ([])
def vj_JobsAndSnapshots_3 : Job := jb 0 5 1 (D [(0, 0x62), (8, 768), (12, 7)])
def vk_JobsAndSnapshots_3 : CkJob := { ck0 with first := false, holder := false }
def vs_JobsAndSnapshots_3 : State := ckSt (vk_JobsAndSnapshots_3) [vj_JobsAndSnapshots_3] ([])
def vr_JobsAndSnapshots_4 : CkSnap := ({ sr := 0, tag := 5, step := 7, phase := 1, left := [], reading := [], copied := [], sent := 9, lost := false, since := 10^9 } : CkSnap)
def vk_JobsAndSnapshots_4 : CkJob := { ck0 with run := some vr_JobsAndSnapshots_4 }
def vs_JobsAndSnapshots_4 : State := { (ckSt (vk_JobsAndSnapshots_4) [] ([])) with timeNs := 10^9 }
def vr_JobsAndSnapshots_5 : CkSnap := ({ sr := 0, tag := 5, step := 7, phase := 1, left := [], reading := [], copied := [], sent := 9, lost := false, since := 5 } : CkSnap)
def vk_JobsAndSnapshots_5 : CkJob := { ck0 with run := some vr_JobsAndSnapshots_5 }
def vs_JobsAndSnapshots_5 : State := { (ckSt (vk_JobsAndSnapshots_5) [] ([])) with timeNs := 10^9 }
def vr_JobsAndSnapshots_6 : CkSnap := ({ sr := 0, tag := 5, step := 7, phase := 2, left := [(⟨0, 7 * 512, 0, 0⟩ : CkPage), (⟨1, 7 * 512 + 1, 4096, 0⟩ : CkPage)], reading := [], copied := [], sent := 9, lost := false, since := 5 } : CkSnap)
def vp_JobsAndSnapshots_6 : CkPage := (⟨0, 7 * 512, 0, 0⟩ : CkPage)
def vrest_JobsAndSnapshots_6 : List CkPage := [(⟨1, 7 * 512 + 1, 4096, 0⟩ : CkPage)]
def vk_JobsAndSnapshots_6 : CkJob := { ck0 with run := some vr_JobsAndSnapshots_6 }
def vs_JobsAndSnapshots_6 : State := ckSt (vk_JobsAndSnapshots_6) [] ([])
def vs1_JobsAndSnapshots_6 : State := resSt (vs_JobsAndSnapshots_6.readDpa (vp_JobsAndSnapshots_6.page * 4096) 4096)
def vb_JobsAndSnapshots_6 : List Byte := resVal (vs_JobsAndSnapshots_6.readDpa (vp_JobsAndSnapshots_6.page * 4096) 4096)
def va_JobsAndSnapshots_6 : Region := (vs1_JobsAndSnapshots_6.region vk_JobsAndSnapshots_6.snap vk_JobsAndSnapshots_6.slice).get (by decide +kernel)
def vc_JobsAndSnapshots_6 : Nat := ((vs1_JobsAndSnapshots_6).writeRegion va_JobsAndSnapshots_6 vp_JobsAndSnapshots_6.out (packPage vp_JobsAndSnapshots_6.code vb_JobsAndSnapshots_6).1 (ownerNum vr_JobsAndSnapshots_6.sr vr_JobsAndSnapshots_6.tag)).2.1
def vs2_JobsAndSnapshots_6 : State := ((vs1_JobsAndSnapshots_6).writeRegion va_JobsAndSnapshots_6 vp_JobsAndSnapshots_6.out (packPage vp_JobsAndSnapshots_6.code vb_JobsAndSnapshots_6).1 (ownerNum vr_JobsAndSnapshots_6.sr vr_JobsAndSnapshots_6.tag)).1
def vr_JobsAndSnapshots_7 : CkSnap := ({ sr := 0, tag := 5, step := 7, phase := 2, left := [(⟨1, 7 * 512 + 1, 4096, 0⟩ : CkPage)], reading := [(⟨0, 7 * 512, 0, 0⟩ : CkPage)], copied := [], sent := 9, lost := false, since := 5 } : CkSnap)
def vp_JobsAndSnapshots_7 : CkPage := (⟨0, 7 * 512, 0, 0⟩ : CkPage)
def vk_JobsAndSnapshots_7 : CkJob := { ck0 with run := some vr_JobsAndSnapshots_7 }
def vs_JobsAndSnapshots_7 : State := ckSt (vk_JobsAndSnapshots_7) [] ([])
def vs1_JobsAndSnapshots_7 : State := vs_JobsAndSnapshots_7.updCk 0 (fun vk_JobsAndSnapshots_7 => { vk_JobsAndSnapshots_7 with run := some { vr_JobsAndSnapshots_7 with reading := vr_JobsAndSnapshots_7.reading.filter (fun q => q.num ≠ vp_JobsAndSnapshots_7.num), copied := vr_JobsAndSnapshots_7.copied ++ [vp_JobsAndSnapshots_7] } })
def vr_JobsAndSnapshots_8 : CkSnap := ({ sr := 0, tag := 5, step := 7, phase := 2, left := [(⟨1, 7 * 512 + 1, 4096, 0⟩ : CkPage)], reading := [(⟨0, 7 * 512, 0, 0⟩ : CkPage)], copied := [], sent := 9, lost := false, since := 5 } : CkSnap)
def vp_JobsAndSnapshots_8 : CkPage := (⟨0, 7 * 512, 0, 0⟩ : CkPage)
def vk_JobsAndSnapshots_8 : CkJob := { ck0 with run := some vr_JobsAndSnapshots_8 }
def vs_JobsAndSnapshots_8 : State := { (ckSt (vk_JobsAndSnapshots_8) [] []) with ckp := { (ckSt (vk_JobsAndSnapshots_8) [] []).ckp with jobs := [(0, vk_JobsAndSnapshots_8), (1, { ck0 with run := some ({ sr := 0, tag := 9, step := 7, phase := 2, left := [(⟨0, 7 * 512, 0, 0⟩ : CkPage)], reading := [], copied := [], sent := 9, lost := false, since := 5 } : CkSnap) })] } }
def vs1_JobsAndSnapshots_8 : State := vs_JobsAndSnapshots_8.updCk 0 (fun vk_JobsAndSnapshots_8 => { vk_JobsAndSnapshots_8 with run := some { vr_JobsAndSnapshots_8 with reading := vr_JobsAndSnapshots_8.reading.filter (fun q => q.num ≠ vp_JobsAndSnapshots_8.num), copied := vr_JobsAndSnapshots_8.copied ++ [vp_JobsAndSnapshots_8] } })
def vr_JobsAndSnapshots_9 : CkSnap := ({ sr := 0, tag := 5, step := 7, phase := 4, left := [], reading := [], copied := [], sent := 9, lost := false, since := 5 } : CkSnap)
def vk_JobsAndSnapshots_9 : CkJob := { ck0 with run := some vr_JobsAndSnapshots_9 }
def vs_JobsAndSnapshots_9 : State := ckSt (vk_JobsAndSnapshots_9) [(jb 0 5 1 0)] ([])
def vj_JobsAndSnapshots_10 : Job := jb 0 5 1 (D [(0, 0x67), (8, 768)])
def vs_JobsAndSnapshots_10 : State := ckSt (ck0) [vj_JobsAndSnapshots_10] ([])
def vj_JobsAndSnapshots_11 : Job := jb 0 5 1 (D [(0, 0x67), (8, 768)])
def vk_JobsAndSnapshots_11 : CkJob := { ck0 with run := some (({ sr := 0, tag := 6, step := 7, phase := 2, left := [(⟨1, 7 * 512 + 1, 4096, 0⟩ : CkPage)], reading := [(⟨0, 7 * 512, 0, 0⟩ : CkPage)], copied := [], sent := 9, lost := false, since := 5 } : CkSnap)) }
def vs_JobsAndSnapshots_11 : State := ckSt (vk_JobsAndSnapshots_11) [vj_JobsAndSnapshots_11] ([])
theorem witness_JobsAndSnapshots :
    (∃ (sr : Nat), ∃ (tag : Nat), ∃ (n : Nat), ∃ (s : State), ∃ (s1 : State), ∃ (s2 : State), ∃ (j : Job), ∃ (r : Region), ∃ (h : List Byte), ∃ (b : List Byte), ∃ (k : CkJob), s.ready sr tag 0x60 j ∧ rsvdZero j.desc [(8, 12)] = true ∧ s.region (dby j.desc 16 4) j.slice = some r ∧ s.readRegion r (dby j.desc 8 8) 128 = .ok s1 h ∧ headerFits h = true ∧ s1.readRegion r (dby j.desc 8 8 + 128) (16 * leAt h 13 1 + 128 * leAt h 12 1) = .ok s2 b ∧ k = ckJobOf j.slice h ((List.range (leAt h 13 1)).map (sect b 0 16)) ((List.range (leAt h 12 1)).map (sect b (16 * leAt h 13 1) 128)) ∧ ((List.range (leAt h 13 1)).map (sect b 0 16)).all peerFits = true ∧ ((List.range (leAt h 12 1)).map (sect b (16 * leAt h 13 1) 128)).all shardFits = true ∧ s2.ckJobOk k = true ∧ s2.sealKeyBad k.key j.slice = none ∧ lowestFree s2.ckp.jobs 0 16 = some n ∧ s2.allLanded sr tag) ∧
    (∃ (sr : Nat), ∃ (tag : Nat), ∃ (n : Nat), ∃ (s : State), ∃ (j : Job), ∃ (k : CkJob), s.ready sr tag 0x61 j ∧ rsvdZero j.desc [(8, 4)] = true ∧ s.ckJob (dby j.desc 8 4) j.slice = some (n, k) ∧ (∀ i ∈ s.ring.jobs, dOpcode i.desc < 0x62 ∨ 0x67 < dOpcode i.desc)) ∧
    (∃ (sr : Nat), ∃ (tag : Nat), ∃ (n : Nat), ∃ (b : Bool), ∃ (s : State), ∃ (j : Job), ∃ (k : CkJob), s.ckNext sr tag 0x62 [(12, 4)] j n k ∧ s.ckBusy j [0x62, 0x64, 0x66] = false ∧ k.first = true) ∧
    (∃ (sr : Nat), ∃ (tag : Nat), ∃ (n : Nat), ∃ (b : Bool), ∃ (s : State), ∃ (j : Job), ∃ (k : CkJob), s.ckNext sr tag 0x62 [(12, 4)] j n k ∧ s.ckBusy j [0x62, 0x64, 0x66] = false ∧ k.first = false ∧ (k.holder = false ∨ k.second = true) ∧ b = false) ∧
    (∃ (n : Nat), ∃ (s : State), ∃ (k : CkJob), ∃ (r : CkSnap), Tbl.find s.ckp.jobs n = some k ∧ k.run = some r ∧ r.phase = 1 ∧ s.timeNs < (r.since / 1024 + 1) * 1024) ∧
    (∃ (n : Nat), ∃ (s : State), ∃ (k : CkJob), ∃ (r : CkSnap), Tbl.find s.ckp.jobs n = some k ∧ k.run = some r ∧ r.phase = 1 ∧ (r.since / 1024 + 1) * 1024 ≤ s.timeNs) ∧
    (∃ (n : Nat), ∃ (h : Nat), ∃ (c : Nat), ∃ (s : State), ∃ (s1 : State), ∃ (s2 : State), ∃ (k : CkJob), ∃ (r : CkSnap), ∃ (p : CkPage), ∃ (rest : List CkPage), ∃ (b : List Byte), ∃ (a : Region), Tbl.find s.ckp.jobs n = some k ∧ k.run = some r ∧ r.phase = 2 ∧ (r.reading.any (fun p => p.hub = h) = false) ∧ (r.left.filter (fun p => p.hub = h) = p :: rest) ∧ s.mem.guardWait = [] ∧ s.readDpa (p.page * 4096) 4096 = .ok s1 b ∧ s1.region k.snap k.slice = some a ∧ s1.writeRegion a p.out (packPage p.code b).1 (ownerNum r.sr r.tag) = (s2, c, none)) ∧
    (∃ (n : Nat), ∃ (h : Nat), ∃ (s : State), ∃ (s1 : State), ∃ (k : CkJob), ∃ (r : CkSnap), ∃ (p : CkPage), Tbl.find s.ckp.jobs n = some k ∧ k.run = some r ∧ (r.reading.find? (fun p => p.hub = h) = some p) ∧ r.left ≠ [] ∧ (s1 = s.updCk n (fun k => { k with run := some { r with reading := r.reading.filter (fun q => q.num ≠ p.num), copied := r.copied ++ [p] } })) ∧ s1.pageRuns p.page = false) ∧
    (∃ (n : Nat), ∃ (h : Nat), ∃ (s : State), ∃ (s1 : State), ∃ (k : CkJob), ∃ (r : CkSnap), ∃ (p : CkPage), Tbl.find s.ckp.jobs n = some k ∧ k.run = some r ∧ (r.reading.find? (fun p => p.hub = h) = some p) ∧ r.left ≠ [] ∧ (s1 = s.updCk n (fun k => { k with run := some { r with reading := r.reading.filter (fun q => q.num ≠ p.num), copied := r.copied ++ [p] } })) ∧ s1.pageRuns p.page = true) ∧
    (∃ (n : Nat), ∃ (s : State), ∃ (k : CkJob), ∃ (r : CkSnap), ∃ (j : Job), Tbl.find s.ckp.jobs n = some k ∧ k.run = some r ∧ r.phase = 4 ∧ s.innerLeft r.sr r.tag = false ∧ s.job r.sr r.tag = some j ∧ ((s.cnt R.CKP_SNAPSHOTS).updCk n (fun k => { k with run := none, last := r.step, first := false, holds := some r.step })).allLanded r.sr r.tag) ∧
    (∃ (sr : Nat), ∃ (tag : Nat), ∃ (n : Nat), ∃ (s : State), ∃ (j : Job), ∃ (k : CkJob), s.ready sr tag 0x67 j ∧ rsvdZero j.desc [(8, 4)] = true ∧ s.ckJob (dby j.desc 8 4) j.slice = some (n, k) ∧ k.run = none) ∧
    (∃ (sr : Nat), ∃ (tag : Nat), ∃ (n : Nat), ∃ (s : State), ∃ (j : Job), ∃ (k : CkJob), ∃ r, s.ready sr tag 0x67 j ∧ rsvdZero j.desc [(8, 4)] = true ∧ s.ckJob (dby j.desc 8 4) j.slice = some (n, k) ∧ k.run = some r ∧ r.left.length + r.reading.length ≠ 0) :=
  ⟨⟨(0), (5), (1), (vs_JobsAndSnapshots_0), (vs1_JobsAndSnapshots_0), (vs2_JobsAndSnapshots_0), (vj_JobsAndSnapshots_0), (rgA 1 5), (vh_JobsAndSnapshots_0), (vb_JobsAndSnapshots_0), (vk_JobsAndSnapshots_0), ready_of (by decide +kernel), by decide +kernel, by decide +kernel, res_eq (by decide +kernel), by decide +kernel, res_eq (by decide +kernel), by decide +kernel, by decide +kernel, by decide +kernel, by decide +kernel, by decide +kernel, by decide +kernel, landed_of (by decide +kernel)⟩,
   ⟨(0), (5), (0), (vs_JobsAndSnapshots_1), (vj_JobsAndSnapshots_1), (ck0), ready_of (by decide +kernel), by decide +kernel, by decide +kernel, by decide +kernel⟩,
   ⟨(0), (5), (0), (true), (vs_JobsAndSnapshots_2), (vj_JobsAndSnapshots_2), (ck0), ⟨ready_of (by decide +kernel), by decide +kernel⟩, by decide +kernel, by decide +kernel⟩,
   ⟨(0), (5), (0), (false), (vs_JobsAndSnapshots_3), (vj_JobsAndSnapshots_3), (vk_JobsAndSnapshots_3), ⟨ready_of (by decide +kernel), by decide +kernel⟩, by decide +kernel, by decide +kernel, by decide +kernel, by decide +kernel⟩,
   ⟨(0), (vs_JobsAndSnapshots_4), (vk_JobsAndSnapshots_4), (vr_JobsAndSnapshots_4), by decide +kernel, by decide +kernel, by decide +kernel, by decide +kernel⟩,
   ⟨(0), (vs_JobsAndSnapshots_5), (vk_JobsAndSnapshots_5), (vr_JobsAndSnapshots_5), by decide +kernel, by decide +kernel, by decide +kernel, by decide +kernel⟩,
   ⟨(0), (0), (vc_JobsAndSnapshots_6), (vs_JobsAndSnapshots_6), (vs1_JobsAndSnapshots_6), (vs2_JobsAndSnapshots_6), (vk_JobsAndSnapshots_6), (vr_JobsAndSnapshots_6), (vp_JobsAndSnapshots_6), (vrest_JobsAndSnapshots_6), (vb_JobsAndSnapshots_6), (va_JobsAndSnapshots_6), by decide +kernel, by decide +kernel, by decide +kernel, by decide +kernel, by decide +kernel, by decide +kernel, res_ok _ (by decide +kernel), by decide +kernel, by decide +kernel⟩,
   ⟨(0), (0), (vs_JobsAndSnapshots_7), (vs1_JobsAndSnapshots_7), (vk_JobsAndSnapshots_7), (vr_JobsAndSnapshots_7), (vp_JobsAndSnapshots_7), by decide +kernel, by decide +kernel, by decide +kernel, by decide +kernel, by decide +kernel, by decide +kernel⟩,
   ⟨(0), (0), (vs_JobsAndSnapshots_8), (vs1_JobsAndSnapshots_8), (vk_JobsAndSnapshots_8), (vr_JobsAndSnapshots_8), (vp_JobsAndSnapshots_8), by decide +kernel, by decide +kernel, by decide +kernel, by decide +kernel, by decide +kernel, by decide +kernel⟩,
   ⟨(0), (vs_JobsAndSnapshots_9), (vk_JobsAndSnapshots_9), (vr_JobsAndSnapshots_9), (jb 0 5 1 0), by decide +kernel, by decide +kernel, by decide +kernel, by decide +kernel, by decide +kernel, landed_of (by decide +kernel)⟩,
   ⟨(0), (5), (0), (vs_JobsAndSnapshots_10), (vj_JobsAndSnapshots_10), (ck0), ready_of (by decide +kernel), by decide +kernel, by decide +kernel, by decide +kernel⟩,
   ⟨(0), (5), (0), (vs_JobsAndSnapshots_11), (vj_JobsAndSnapshots_11), (vk_JobsAndSnapshots_11), (({ sr := 0, tag := 6, step := 7, phase := 2, left := [(⟨1, 7 * 512 + 1, 4096, 0⟩ : CkPage)], reading := [(⟨0, 7 * 512, 0, 0⟩ : CkPage)], copied := [], sent := 9, lost := false, since := 5 } : CkSnap)), ready_of (by decide +kernel), by decide +kernel, by decide +kernel, by decide +kernel, by decide +kernel⟩⟩

def vs_SealsRestoresWatches_0 : State := { (ckSt ck0 [] []) with mem := { (ckSt ck0 [] []).mem with bytes := memAt (9 * 2097152 + 1048576 - 8192) (leBytes 2 2 ++ [0, 1] ++ leBytes 4 6 ++ zeroBytes 8 ++ zeroBytes 8 ++ leBytes 48 0x5bb99848f1d21ad5fb656fe7bfde4e27dae1f663bfc70c4c4307be1411b7fd216ae3b1b17e32d94c3896ac51a760b038 ++ zeroBytes 8) } }
def vs1_SealsRestoresWatches_0 : State := vs_SealsRestoresWatches_0
def vs2_SealsRestoresWatches_0 : State := vs_SealsRestoresWatches_0
def vt_SealsRestoresWatches_0 : List Byte := Mem.bytes vs_SealsRestoresWatches_0.mem.bytes (9 * 2097152 + 1040384) 5120
def vs_SealsRestoresWatches_1 : State := { (ckSt ck0 [] []) with mem := { (ckSt ck0 [] []).mem with bytes := memAt (9 * 2097152 + 1048576 - 8192) (leBytes 2 2 ++ [0, 1] ++ leBytes 4 6 ++ zeroBytes 8 ++ zeroBytes 8 ++ zeroBytes 48 ++ zeroBytes 8) } }
def vs1_SealsRestoresWatches_1 : State := vs_SealsRestoresWatches_1
def vs2_SealsRestoresWatches_1 : State := vs_SealsRestoresWatches_1
def vt_SealsRestoresWatches_1 : List Byte := Mem.bytes vs_SealsRestoresWatches_1.mem.bytes (9 * 2097152 + 1040384) 5120
def vj_SealsRestoresWatches_2 : Job := jb 0 5 1 (D [(0, 0x63), (8, 768)])
def vk_SealsRestoresWatches_2 : CkJob := { ck0 with total := 0 }
def vb_SealsRestoresWatches_2 : List Byte := Mem.bytes [] (16 * 2097152) manifestBytes
def vkey_SealsRestoresWatches_2 : KeySlot := keyS 5 128 [1, 2, 3]
def vs_SealsRestoresWatches_2 : State := ckSt (vk_SealsRestoresWatches_2) [vj_SealsRestoresWatches_2] ([])
def vj_SealsRestoresWatches_3 : Job := jb 0 5 1 (D [(0, 0x63), (8, 768)])
def vb_SealsRestoresWatches_3 : List Byte := Mem.bytes mf1 (16 * 2097152) manifestBytes
def vs_SealsRestoresWatches_3 : State := ckSt (ck0) [vj_SealsRestoresWatches_3] (mf1)
def vs1_SealsRestoresWatches_3 : State := vs_SealsRestoresWatches_3
def vs2_SealsRestoresWatches_3 : State := vs_SealsRestoresWatches_3
def vj_SealsRestoresWatches_4 : Job := jb 0 5 1 (D [(0, 0x64), (8, 768), (12, 9)])
def vk_SealsRestoresWatches_4 : CkJob := { ck0 with holder := false }
def vkey_SealsRestoresWatches_4 : KeySlot := keyS 5 128 [1, 2, 3]
def vs_SealsRestoresWatches_4 : State := ckSt (vk_SealsRestoresWatches_4) [vj_SealsRestoresWatches_4] ([])
def vs2_SealsRestoresWatches_4 : State := vs_SealsRestoresWatches_4
def vj_SealsRestoresWatches_5 : Job := jb 0 5 1 (D [(0, 0x64), (8, 768), (12, 9)])
def vk_SealsRestoresWatches_5 : CkJob := { ck0 with total := 0, holder := false, holds := some 6, shards := [] }
def vkey_SealsRestoresWatches_5 : KeySlot := keyS 5 128 [1, 2, 3]
def vs_SealsRestoresWatches_5 : State := ckSt (vk_SealsRestoresWatches_5) [vj_SealsRestoresWatches_5] ([])
def vs2_SealsRestoresWatches_5 : State := vs_SealsRestoresWatches_5
def vj_SealsRestoresWatches_6 : Job := jb 0 5 1 (D [(0, 0x65), (8, 768), (16, 3), (18, 0xFFFF), (20, 0xFFFF), (22, 0xFFFF)])
def vs_SealsRestoresWatches_6 : State := ckSt (ck0) [vj_SealsRestoresWatches_6] ([])
def vk_SealsRestoresWatches_7 : CkJob := { ck0 with hbAt := 10^9 }
def vp_SealsRestoresWatches_7 : CkPeer := ⟨4, 4, [9], 49154⟩
def vs_SealsRestoresWatches_7 : State := { (ckSt (vk_SealsRestoresWatches_7) [] ([])) with timeNs := 10^9 }
def vp_SealsRestoresWatches_8 : CkPeer := ⟨4, 4, [9], 49154⟩
def vs_SealsRestoresWatches_8 : State := { (ckSt (ck0) [] ([])) with timeNs := 10^9 }
def vk_SealsRestoresWatches_9 : CkJob := { ck0 with tickAt := 10^9 }
def vs_SealsRestoresWatches_9 : State := { (ckSt (vk_SealsRestoresWatches_9) [] ([])) with timeNs := 10^9 }
def vw_SealsRestoresWatches_10 : CkWatch := (⟨0, 5, 0, [3], 5⟩ : CkWatch)
def vs_SealsRestoresWatches_10 : State := { (ckSt ck0 [jb 0 5 1 0] []) with ckp := { (ckSt ck0 [] []).ckp with watches := [vw_SealsRestoresWatches_10] }, timeNs := 10 ^ 9 }
def vs0_SealsRestoresWatches_10 : State := vs_SealsRestoresWatches_10.updCk 0 (fun ck0 => { ck0 with tickAt := vs_SealsRestoresWatches_10.timeNs })
def vs1_SealsRestoresWatches_10 : State := resSt (vs0_SealsRestoresWatches_10.readRegion (rgA 1 10) (3 * 16 + 8) 8)
def vb_SealsRestoresWatches_10 : List Byte := resVal (vs0_SealsRestoresWatches_10.readRegion (rgA 1 10) (3 * 16 + 8) 8)
def vw_SealsRestoresWatches_11 : CkWatch := (⟨0, 5, 0, [3], 10^9⟩ : CkWatch)
def vs_SealsRestoresWatches_11 : State := { (ckSt ck0 [jb 0 5 1 0] []) with ckp := { (ckSt ck0 [] []).ckp with watches := [vw_SealsRestoresWatches_11] }, timeNs := 10 ^ 9 }
def vs0_SealsRestoresWatches_11 : State := vs_SealsRestoresWatches_11.updCk 0 (fun ck0 => { ck0 with tickAt := vs_SealsRestoresWatches_11.timeNs })
def vs1_SealsRestoresWatches_11 : State := resSt (vs0_SealsRestoresWatches_11.readRegion (rgA 1 10) (3 * 16 + 8) 8)
def vb_SealsRestoresWatches_11 : List Byte := resVal (vs0_SealsRestoresWatches_11.readRegion (rgA 1 10) (3 * 16 + 8) 8)
def vj_SealsRestoresWatches_12 : Job := jb 0 5 1 (D [(0, 0x66), (8, 768), (20, 5), (24, 9)])
def vk_SealsRestoresWatches_12 : CkJob := { ck0 with holds := some 0, shards := [] }
def vx_SealsRestoresWatches_12 : Ns := { ns0 with blocks := 100000 }
def vm_SealsRestoresWatches_12 : List Byte := Mem.bytes mfS (16 * 2097152) manifestBytes
def vs_SealsRestoresWatches_12 : State := { (ckSt (vk_SealsRestoresWatches_12) [vj_SealsRestoresWatches_12] mfS) with mem := { (ckSt (vk_SealsRestoresWatches_12) [vj_SealsRestoresWatches_12] mfS).mem with regions := (ckSt (vk_SealsRestoresWatches_12) [vj_SealsRestoresWatches_12] mfS).mem.regions ++ [(8, { rgA 0 0 with ecc := true, granules := List.range' 1000 547 })] }, stor := stor0 { ns0 with blocks := 100000 }, regs := (R.NVM_CACHE, 0x10008) :: (ckSt (vk_SealsRestoresWatches_12) [vj_SealsRestoresWatches_12] mfS).regs }
def vs1_SealsRestoresWatches_12 : State := vs_SealsRestoresWatches_12
def vs2_SealsRestoresWatches_12 : State := vs_SealsRestoresWatches_12
theorem witness_SealsRestoresWatches :
    (∃ (n : Nat), ∃ (slot : Nat), ∃ (s : State), ∃ (s1 : State), ∃ (s2 : State), ∃ (k : CkJob), ∃ (r : Region), ∃ (t : List Byte), ∃ (b : List Byte), Tbl.find s.ckp.jobs n = some k ∧ s.region k.buddy k.slice = some r ∧ s.readRegion r (slot % 2 * k.slotBytes + k.slotBytes - 8192) (64 * 80) = .ok s1 t ∧ bit (leAt (sect t 0 80 0) 3 1) 0 = true ∧ (∀ i, i < 64 → i ≠ 0 → bit (leAt (sect t 0 80 i) 3 1) 0 = false) ∧ s1.readRegion r (slot % 2 * k.slotBytes) (leAt (sect t 0 80 0) 8 8) = .ok s2 b ∧ sha384 b = bsub (sect t 0 80 0) 24 48) ∧
    (∃ (n : Nat), ∃ (slot : Nat), ∃ (s : State), ∃ (s1 : State), ∃ (s2 : State), ∃ (k : CkJob), ∃ (r : Region), ∃ (t : List Byte), ∃ (b : List Byte), Tbl.find s.ckp.jobs n = some k ∧ s.region k.buddy k.slice = some r ∧ s.readRegion r (slot % 2 * k.slotBytes + k.slotBytes - 8192) (64 * 80) = .ok s1 t ∧ bit (leAt (sect t 0 80 0) 3 1) 0 = true ∧ (∀ i, i < 64 → i ≠ 0 → bit (leAt (sect t 0 80 i) 3 1) 0 = false) ∧ s1.readRegion r (slot % 2 * k.slotBytes) (leAt (sect t 0 80 0) 8 8) = .ok s2 b ∧ sha384 b ≠ bsub (sect t 0 80 0) 24 48) ∧
    (∃ (sr : Nat), ∃ (tag : Nat), ∃ (n : Nat), ∃ (c : Nat), ∃ (s : State), ∃ (s1 : State), ∃ (s2 : State), ∃ (j : Job), ∃ (k : CkJob), ∃ (r : Region), ∃ (b : List Byte), ∃ (key : KeySlot), s.ckNext sr tag 0x63 [(12, 4)] j n k ∧ k.holder = true ∧ s.region k.manifest k.slice = some r ∧ s.readRegion r (dby j.desc 12 4 % 2 * manifestBytes) manifestBytes = .ok s1 b ∧ countEntries b (dby j.desc 12 4) = (k.total, true) ∧ s1.sealKeyBad k.key k.slice = none ∧ s1.kceSlot k.key k.slice = some key ∧ s1.writeRegion r (dby j.desc 12 4 % 2 * manifestBytes) ((leBytes 4 0x4E4D4B43 ++ leBytes 4 k.jobId ++ leBytes 4 (dby j.desc 12 4) ++ leBytes 4 k.total) ++ leBytes 1 1 ++ zeroBytes 15 ++ sha384 (b.drop 128) ++ sealOf key.key (leBytes 4 0x4E4D4B43 ++ leBytes 4 k.jobId ++ leBytes 4 (dby j.desc 12 4) ++ leBytes 4 k.total) (sha384 (b.drop 128))) (ownerNum sr tag) = (s2, c, none)) ∧
    (∃ (sr : Nat), ∃ (tag : Nat), ∃ (n : Nat), ∃ (c : Nat), ∃ (s : State), ∃ (s1 : State), ∃ (s2 : State), ∃ (j : Job), ∃ (k : CkJob), ∃ (r : Region), ∃ (b : List Byte), ∃ (key : KeySlot), s.ckNext sr tag 0x63 [(12, 4)] j n k ∧ k.holder = true ∧ s.region k.manifest k.slice = some r ∧ s.readRegion r (dby j.desc 12 4 % 2 * manifestBytes) manifestBytes = .ok s1 b ∧ countEntries b (dby j.desc 12 4) = (k.total, false)) ∧
    (∃ (sr : Nat), ∃ (tag : Nat), ∃ (n : Nat), ∃ (s : State), ∃ (s2 : State), ∃ (j : Job), ∃ (k : CkJob), ∃ (key : KeySlot), ∃ (slots : List (List Byte)), ∃ (mine : List (List Byte)), s.ckNext sr tag 0x64 [(12, 5), (20, 12)] j n k ∧ dby j.desc 16 1 = 0 ∧ j.prog = [] ∧ s.ckBusy j [0x62, 0x64, 0x66] = false ∧ s.sealKeyBad k.key k.slice = none ∧ s.kceSlot k.key k.slice = some key ∧ (k.holder = true → k.second = false ∨ slots = [] → s2 = ((s.slotRead k 0 manifestBytes).1.slotRead k 1 manifestBytes).1 ∧ mine = [(s.slotRead k 0 manifestBytes).2, ((s.slotRead k 0 manifestBytes).1.slotRead k 1 manifestBytes).2]) ∧ (k.holder = false ∨ (k.second = true ∧ slots ≠ []) → s2 = s ∧ mine = slots) ∧ (∀ m ∈ mine, candidate k key.key m (dby j.desc 12 4) = false)) ∧
    (∃ (sr : Nat), ∃ (tag : Nat), ∃ (n : Nat), ∃ (s : State), ∃ (s2 : State), ∃ (j : Job), ∃ (k : CkJob), ∃ (key : KeySlot), ∃ (slots : List (List Byte)), ∃ (mine : List (List Byte)), ∃ m, ∃ a, ∃ s3, ∃ b, s.ckNext sr tag 0x64 [(12, 5), (20, 12)] j n k ∧ dby j.desc 16 1 = 0 ∧ j.prog = [] ∧ s.ckBusy j [0x62, 0x64, 0x66] = false ∧ s.sealKeyBad k.key k.slice = none ∧ s.kceSlot k.key k.slice = some key ∧ (k.holder = true → k.second = false ∨ slots = [] → s2 = ((s.slotRead k 0 manifestBytes).1.slotRead k 1 manifestBytes).1 ∧ mine = [(s.slotRead k 0 manifestBytes).2, ((s.slotRead k 0 manifestBytes).1.slotRead k 1 manifestBytes).2]) ∧ (k.holder = false ∨ (k.second = true ∧ slots ≠ []) → s2 = s ∧ mine = slots) ∧ (mine.filter (fun m => candidate k key.key m (dby j.desc 12 4)) = [m]) ∧ k.holds = some (leAt m 8 4) ∧ s2.region k.snap k.slice = some a ∧ s2.readRegion a 0 (s.imagesBytes k) = .ok s3 b) ∧
    (∃ (sr : Nat), ∃ (tag : Nat), ∃ (n : Nat), ∃ (s : State), ∃ (j : Job), ∃ (k : CkJob), ∃ (idx : List Nat), s.ckNext sr tag 0x65 [(16, 8)] j n k ∧ (idx = ((List.range 4).map (fun i => dby j.desc (16 + 2 * i) 2)).filter (fun i => i ≠ 0xFFFF)) ∧ idx ≠ [] ∧ (∀ i ∈ idx, i < 1024)) ∧
    (∃ (n : Nat), ∃ (s : State), ∃ (k : CkJob), ∃ (p : CkPeer), Tbl.find s.ckp.jobs n = some k ∧ (k.standby = false ∨ s.ckIndexOk k = true) ∧ (k.peers.filter (fun p => p.role = 4) = [p]) ∧ s.timeNs < k.hbAt + s.hbPeriod) ∧
    (∃ (n : Nat), ∃ (s : State), ∃ (k : CkJob), ∃ (p : CkPeer), Tbl.find s.ckp.jobs n = some k ∧ (k.standby = false ∨ s.ckIndexOk k = true) ∧ (k.peers.filter (fun p => p.role = 4) = [p]) ∧ k.hbAt + s.hbPeriod ≤ s.timeNs) ∧
    (∃ (n : Nat), ∃ (s : State), ∃ (k : CkJob), Tbl.find s.ckp.jobs n = some k ∧ s.timeNs < k.tickAt + s.hbPeriod) ∧
    (∃ (n : Nat), ∃ (i : Nat), ∃ (s : State), ∃ (s0 : State), ∃ (s1 : State), ∃ (k : CkJob), ∃ (w : CkWatch), ∃ (r : Region), ∃ (b : List Byte), ∃ (j : Job), Tbl.find s.ckp.jobs n = some k ∧ s.ckp.watches = [w] ∧ w.job = n ∧ w.idx = [i] ∧ k.tickAt + s.hbPeriod ≤ s.timeNs ∧ (s0 = s.updCk n (fun k => { k with tickAt := s.timeNs })) ∧ s0.region k.hb k.slice = some r ∧ s0.readRegion r (i * 16 + 8) 8 = .ok s1 b ∧ s1.job w.sr w.tag = some j ∧ s1.allLanded w.sr w.tag ∧ max (leNat b) w.since + s.hbLimit * s.hbPeriod ≤ s1.timeNs) ∧
    (∃ (n : Nat), ∃ (i : Nat), ∃ (s : State), ∃ (s0 : State), ∃ (s1 : State), ∃ (k : CkJob), ∃ (w : CkWatch), ∃ (r : Region), ∃ (b : List Byte), ∃ (j : Job), Tbl.find s.ckp.jobs n = some k ∧ s.ckp.watches = [w] ∧ w.job = n ∧ w.idx = [i] ∧ k.tickAt + s.hbPeriod ≤ s.timeNs ∧ (s0 = s.updCk n (fun k => { k with tickAt := s.timeNs })) ∧ s0.region k.hb k.slice = some r ∧ s0.readRegion r (i * 16 + 8) 8 = .ok s1 b ∧ s1.job w.sr w.tag = some j ∧ s1.allLanded w.sr w.tag ∧ s1.timeNs < max (leNat b) w.since + s.hbLimit * s.hbPeriod) ∧
    (∃ (sr : Nat), ∃ (tag : Nat), ∃ (n : Nat), ∃ (s : State), ∃ (s1 : State), ∃ (s2 : State), ∃ (j : Job), ∃ (k : CkJob), ∃ (x : Ns), ∃ (a : Region), ∃ (slot : List Byte), ∃ (m : List Byte), ∃ (b : List Byte), s.ckNext sr tag 0x66 [(12, 4), (20, 12)] j n k ∧ s.ckBusy j [0x62, 0x64, 0x66] = false ∧ (k.holder = true → s.slotRead k (dby j.desc 12 4) manifestBytes = (s1, m)) ∧ (k.holder = false → s1 = s ∧ m = fitBytes slot manifestBytes) ∧ k.holds = some (dby j.desc 12 4) ∧ sealedFor m k (dby j.desc 12 4) = true ∧ s1.ns (dby j.desc 20 4) = some x ∧ s1.region k.snap k.slice = some a ∧ x.kind = 0 ∧ x.owner = j.slice ∧ x.ro = false ∧ x.needReplay = false ∧ x.notReady = false ∧ dby j.desc 24 8 + (slotBlocks + s1.imagesBytes k / blk) ≤ x.blocks ∧ s1.readRegion a 0 (s1.imagesBytes k) = .ok s2 b ∧ (∀ c, s2.cacheBlocks = some c → slotBlocks + s1.imagesBytes k / blk ≤ c)) :=
  ⟨⟨(0), (0), (vs_SealsRestoresWatches_0), (vs1_SealsRestoresWatches_0), (vs2_SealsRestoresWatches_0), (ck0), (rgA 1 9), (vt_SealsRestoresWatches_0), ([]), by decide +kernel, by decide +kernel, bd_read rfl rfl rfl rfl (by decide), by decide +kernel, fun i hi h0 => later_zero _ _ i hi h0 (fun x => get_zero _ _ x (by decide +kernel)), res_eq (by decide +kernel), by decide +kernel⟩,
   ⟨(0), (0), (vs_SealsRestoresWatches_1), (vs1_SealsRestoresWatches_1), (vs2_SealsRestoresWatches_1), (ck0), (rgA 1 9), (vt_SealsRestoresWatches_1), ([]), by decide +kernel, by decide +kernel, bd_read rfl rfl rfl rfl (by decide), by decide +kernel, fun i hi h0 => later_zero _ _ i hi h0 (fun x => get_zero _ _ x (by decide +kernel)), res_eq (by decide +kernel), by decide +kernel⟩,
   ⟨(0), (5), (0), ((vs_SealsRestoresWatches_2.writeRegion mfR (dby vj_SealsRestoresWatches_2.desc 12 4 % 2 * manifestBytes) ((leBytes 4 0x4E4D4B43 ++ leBytes 4 vk_SealsRestoresWatches_2.jobId ++ leBytes 4 (dby vj_SealsRestoresWatches_2.desc 12 4) ++ leBytes 4 vk_SealsRestoresWatches_2.total) ++ leBytes 1 1 ++ zeroBytes 15 ++ sha384 (vb_SealsRestoresWatches_2.drop 128) ++ sealOf vkey_SealsRestoresWatches_2.key (leBytes 4 0x4E4D4B43 ++ leBytes 4 vk_SealsRestoresWatches_2.jobId ++ leBytes 4 (dby vj_SealsRestoresWatches_2.desc 12 4) ++ leBytes 4 vk_SealsRestoresWatches_2.total) (sha384 (vb_SealsRestoresWatches_2.drop 128))) (ownerNum 0 5)).2.1), (vs_SealsRestoresWatches_2), (vs_SealsRestoresWatches_2), ((vs_SealsRestoresWatches_2.writeRegion mfR (dby vj_SealsRestoresWatches_2.desc 12 4 % 2 * manifestBytes) ((leBytes 4 0x4E4D4B43 ++ leBytes 4 vk_SealsRestoresWatches_2.jobId ++ leBytes 4 (dby vj_SealsRestoresWatches_2.desc 12 4) ++ leBytes 4 vk_SealsRestoresWatches_2.total) ++ leBytes 1 1 ++ zeroBytes 15 ++ sha384 (vb_SealsRestoresWatches_2.drop 128) ++ sealOf vkey_SealsRestoresWatches_2.key (leBytes 4 0x4E4D4B43 ++ leBytes 4 vk_SealsRestoresWatches_2.jobId ++ leBytes 4 (dby vj_SealsRestoresWatches_2.desc 12 4) ++ leBytes 4 vk_SealsRestoresWatches_2.total) (sha384 (vb_SealsRestoresWatches_2.drop 128))) (ownerNum 0 5)).1), (vj_SealsRestoresWatches_2), (vk_SealsRestoresWatches_2), (mfR), (vb_SealsRestoresWatches_2), (vkey_SealsRestoresWatches_2), ⟨ready_of (by decide +kernel), by decide +kernel⟩, by decide +kernel, by decide +kernel, mf_read0 (by decide +kernel) rfl (ck_ecc _ _ _) (by decide), entries_none _ _ _ (fun _ _ => rfl), by decide +kernel, by decide +kernel, mf_write0 (by decide +kernel) (by simp only [List.length_append, sha384_length, seal_length, leBytes_length, zeroBytes, List.length_replicate]) rfl rfl rfl rfl⟩,
   ⟨(0), (5), (0), (0), (vs_SealsRestoresWatches_3), (vs1_SealsRestoresWatches_3), (vs2_SealsRestoresWatches_3), (vj_SealsRestoresWatches_3), (ck0), (mfR), (vb_SealsRestoresWatches_3), (keyS 5 128 []), ⟨ready_of (by decide +kernel), by decide +kernel⟩, by decide +kernel, by decide +kernel, mf_read0 (by decide +kernel) rfl (ck_ecc _ _ _) (by decide), entries_one _ _ _ mf1_zero (by decide +kernel) (by decide +kernel)⟩,
   ⟨(0), (5), (0), (vs_SealsRestoresWatches_4), (vs2_SealsRestoresWatches_4), (vj_SealsRestoresWatches_4), (vk_SealsRestoresWatches_4), (vkey_SealsRestoresWatches_4), ([]), ([]), ⟨ready_of (by decide +kernel), by decide +kernel⟩, by decide +kernel, by decide +kernel, by decide +kernel, by decide +kernel, by decide +kernel, fun h _ => absurd h (by decide +kernel), fun _ => ⟨rfl, rfl⟩, fun _ h => absurd h List.not_mem_nil⟩,
   ⟨(0), (5), (0), (vs_SealsRestoresWatches_5), (vs2_SealsRestoresWatches_5), (vj_SealsRestoresWatches_5), (vk_SealsRestoresWatches_5), (vkey_SealsRestoresWatches_5), ([slot6]), ([slot6]), (slot6), (rgA 1 8), (vs_SealsRestoresWatches_5), ([]), ⟨ready_of (by decide +kernel), by decide +kernel⟩, by decide +kernel, by decide +kernel, by decide +kernel, by decide +kernel, by decide +kernel, fun h _ => absurd h (by decide +kernel), fun _ => ⟨rfl, rfl⟩, slot6_filter, congrArg some slot6_step.symm, by decide +kernel, res_eq (by decide +kernel)⟩,
   ⟨(0), (5), (0), (vs_SealsRestoresWatches_6), (vj_SealsRestoresWatches_6), (ck0), ([3]), ⟨ready_of (by decide +kernel), by decide +kernel⟩, by decide +kernel, by decide +kernel, by decide +kernel⟩,
   ⟨(0), (vs_SealsRestoresWatches_7), (vk_SealsRestoresWatches_7), (vp_SealsRestoresWatches_7), by decide +kernel, by decide +kernel, by decide +kernel, by decide +kernel⟩,
   ⟨(0), (vs_SealsRestoresWatches_8), (ck0), (vp_SealsRestoresWatches_8), by decide +kernel, by decide +kernel, by decide +kernel, by decide +kernel⟩,
   ⟨(0), (vs_SealsRestoresWatches_9), (vk_SealsRestoresWatches_9), by decide +kernel, by decide +kernel⟩,
   ⟨(0), (3), (vs_SealsRestoresWatches_10), (vs0_SealsRestoresWatches_10), (vs1_SealsRestoresWatches_10), (ck0), (vw_SealsRestoresWatches_10), (rgA 1 10), (vb_SealsRestoresWatches_10), (jb 0 5 1 0), by decide +kernel, by decide +kernel, by decide +kernel, by decide +kernel, by decide +kernel, by decide +kernel, by decide +kernel, res_ok _ (by decide +kernel), by decide +kernel, landed_of (by decide +kernel), by decide +kernel⟩,
   ⟨(0), (3), (vs_SealsRestoresWatches_11), (vs0_SealsRestoresWatches_11), (vs1_SealsRestoresWatches_11), (ck0), (vw_SealsRestoresWatches_11), (rgA 1 10), (vb_SealsRestoresWatches_11), (jb 0 5 1 0), by decide +kernel, by decide +kernel, by decide +kernel, by decide +kernel, by decide +kernel, by decide +kernel, by decide +kernel, res_ok _ (by decide +kernel), by decide +kernel, landed_of (by decide +kernel), by decide +kernel⟩,
   ⟨(0), (5), (0), (vs_SealsRestoresWatches_12), (vs1_SealsRestoresWatches_12), (vs2_SealsRestoresWatches_12), (vj_SealsRestoresWatches_12), (vk_SealsRestoresWatches_12), (vx_SealsRestoresWatches_12), (rgA 1 8), ([]), (vm_SealsRestoresWatches_12), ([]), ⟨ready_of (by decide +kernel), by decide +kernel⟩, by decide +kernel, fun _ => slot_read0 (by decide +kernel) rfl rfl (by decide +kernel) (by decide), fun h => absurd h (by decide +kernel), by decide +kernel, sealed_of _ _ _ _ (by decide +kernel), by decide +kernel, by decide +kernel, by decide +kernel, by decide +kernel, by decide +kernel, by decide +kernel, by decide +kernel, by decide +kernel, res_eq (by decide +kernel), by decide +kernel⟩⟩

def vj_CryptoComputes_0 : Job := jb 0 5 1 (D [(0, 0x70), (12, 1), (15, 10), (8, 0x100007), (16, 0x10001), (24, 4096), (20, 0x10003), (32, 8192), (40, 40), (44, 20), (48, 128)])
def vk_CryptoComputes_0 : KeySlot := keyS 1 7 [1, 2, 3]
def vn_CryptoComputes_0 : Nat := kLen vj_CryptoComputes_0.desc
def vx_CryptoComputes_0 : Nat := kAux vj_CryptoComputes_0.desc
def vs_CryptoComputes_0 : State := { ckSt ck0 [vj_CryptoComputes_0] (memAt (5 * 2097152 + 4096) (List.range 40 |>.map (fun i => BitVec.ofNat 8 (3 * i + 1)))) with kce := { (ckSt ck0 [] []).kce with slots := [(7, keyS 1 7 [1, 2, 3])], gen := [(7, 1), (256, 3)] } }
def vs1_CryptoComputes_0 : State := ioSt (vs_CryptoComputes_0.readOperand vj_CryptoComputes_0 (kSrc vj_CryptoComputes_0.desc) (dby vj_CryptoComputes_0.desc 16 4) (dby vj_CryptoComputes_0.desc 48 8) (if kAlg vj_CryptoComputes_0.desc = 1 then vx_CryptoComputes_0 else 16) reqKce)
def vs2_CryptoComputes_0 : State := ioSt (vs1_CryptoComputes_0.readOperand vj_CryptoComputes_0 (kSrc vj_CryptoComputes_0.desc) (dby vj_CryptoComputes_0.desc 16 4) (dby vj_CryptoComputes_0.desc 24 8) vn_CryptoComputes_0 reqKce)
def va_CryptoComputes_0 : List Byte := ioVal (vs_CryptoComputes_0.readOperand vj_CryptoComputes_0 (kSrc vj_CryptoComputes_0.desc) (dby vj_CryptoComputes_0.desc 16 4) (dby vj_CryptoComputes_0.desc 48 8) (if kAlg vj_CryptoComputes_0.desc = 1 then vx_CryptoComputes_0 else 16) reqKce)
def vb_CryptoComputes_0 : List Byte := ioVal (vs1_CryptoComputes_0.readOperand vj_CryptoComputes_0 (kSrc vj_CryptoComputes_0.desc) (dby vj_CryptoComputes_0.desc 16 4) (dby vj_CryptoComputes_0.desc 24 8) vn_CryptoComputes_0 reqKce)
def vj_CryptoComputes_1 : Job := jb 0 5 1 (D [(0, 0x70), (12, 1), (15, 10), (8, 0x100007), (16, 0x10001), (24, 4096), (20, 0x10003), (32, 8192), (13, 1), (40, 40), (44, 20), (48, 128)])
def vk_CryptoComputes_1 : KeySlot := keyS 1 7 [1, 2, 3]
def vn_CryptoComputes_1 : Nat := kLen vj_CryptoComputes_1.desc
def vx_CryptoComputes_1 : Nat := kAux vj_CryptoComputes_1.desc
def vs_CryptoComputes_1 : State := { ckSt ck0 [vj_CryptoComputes_1] (memAt (5 * 2097152 + 4096) (List.range 40 |>.map (fun i => BitVec.ofNat 8 (3 * i + 1)))) with kce := { (ckSt ck0 [] []).kce with slots := [(7, keyS 1 7 [1, 2, 3])], gen := [(7, 1), (256, 3)] } }
def vs1_CryptoComputes_1 : State := ioSt (vs_CryptoComputes_1.readOperand vj_CryptoComputes_1 (kSrc vj_CryptoComputes_1.desc) (dby vj_CryptoComputes_1.desc 16 4) (dby vj_CryptoComputes_1.desc 48 8) (if kAlg vj_CryptoComputes_1.desc = 1 then vx_CryptoComputes_1 else 16) reqKce)
def vs2_CryptoComputes_1 : State := ioSt (vs1_CryptoComputes_1.readOperand vj_CryptoComputes_1 (kSrc vj_CryptoComputes_1.desc) (dby vj_CryptoComputes_1.desc 16 4) (dby vj_CryptoComputes_1.desc 24 8) vn_CryptoComputes_1 reqKce)
def va_CryptoComputes_1 : List Byte := ioVal (vs_CryptoComputes_1.readOperand vj_CryptoComputes_1 (kSrc vj_CryptoComputes_1.desc) (dby vj_CryptoComputes_1.desc 16 4) (dby vj_CryptoComputes_1.desc 48 8) (if kAlg vj_CryptoComputes_1.desc = 1 then vx_CryptoComputes_1 else 16) reqKce)
def vb_CryptoComputes_1 : List Byte := ioVal (vs1_CryptoComputes_1.readOperand vj_CryptoComputes_1 (kSrc vj_CryptoComputes_1.desc) (dby vj_CryptoComputes_1.desc 16 4) (dby vj_CryptoComputes_1.desc 24 8) vn_CryptoComputes_1 reqKce)
def vj_CryptoComputes_2 : Job := jb 0 5 1 (D [(0, 0x70), (12, 2), (15, 10), (8, 0x100007), (16, 0x10001), (24, 4096), (20, 0x10003), (32, 8192), (13, 1), (40, 40), (44, 16), (48, 128)])
def vk_CryptoComputes_2 : KeySlot := keyS 1 7 [1, 2, 3]
def vn_CryptoComputes_2 : Nat := kLen vj_CryptoComputes_2.desc
def vx_CryptoComputes_2 : Nat := kAux vj_CryptoComputes_2.desc
def vs_CryptoComputes_2 : State := { ckSt ck0 [vj_CryptoComputes_2] (memAt (5 * 2097152 + 4096) (List.range 40 |>.map (fun i => BitVec.ofNat 8 (3 * i + 1)))) with kce := { (ckSt ck0 [] []).kce with slots := [(7, keyS 1 7 [1, 2, 3])], gen := [(7, 1), (256, 3)] } }
def vs1_CryptoComputes_2 : State := ioSt (vs_CryptoComputes_2.readOperand vj_CryptoComputes_2 (kSrc vj_CryptoComputes_2.desc) (dby vj_CryptoComputes_2.desc 16 4) (dby vj_CryptoComputes_2.desc 48 8) (if kAlg vj_CryptoComputes_2.desc = 1 then vx_CryptoComputes_2 else 16) reqKce)
def vs2_CryptoComputes_2 : State := ioSt (vs1_CryptoComputes_2.readOperand vj_CryptoComputes_2 (kSrc vj_CryptoComputes_2.desc) (dby vj_CryptoComputes_2.desc 16 4) (dby vj_CryptoComputes_2.desc 24 8) vn_CryptoComputes_2 reqKce)
def va_CryptoComputes_2 : List Byte := ioVal (vs_CryptoComputes_2.readOperand vj_CryptoComputes_2 (kSrc vj_CryptoComputes_2.desc) (dby vj_CryptoComputes_2.desc 16 4) (dby vj_CryptoComputes_2.desc 48 8) (if kAlg vj_CryptoComputes_2.desc = 1 then vx_CryptoComputes_2 else 16) reqKce)
def vb_CryptoComputes_2 : List Byte := ioVal (vs1_CryptoComputes_2.readOperand vj_CryptoComputes_2 (kSrc vj_CryptoComputes_2.desc) (dby vj_CryptoComputes_2.desc 16 4) (dby vj_CryptoComputes_2.desc 24 8) vn_CryptoComputes_2 reqKce)
def vj_CryptoComputes_3 : Job := jb 0 5 1 (D [(0, 0x70), (12, 3), (15, 10), (8, 0x100007), (16, 0x10001), (24, 4096), (20, 0x10003), (32, 8192), (40, 64), (44, 32), (48, 128)])
def vk_CryptoComputes_3 : KeySlot := keyS 3 3 [1, 2]
def vn_CryptoComputes_3 : Nat := kLen vj_CryptoComputes_3.desc
def vx_CryptoComputes_3 : Nat := kAux vj_CryptoComputes_3.desc
def vs_CryptoComputes_3 : State := { ckSt ck0 [vj_CryptoComputes_3] (memAt (5 * 2097152 + 4096) (List.range 40 |>.map (fun i => BitVec.ofNat 8 (3 * i + 1)))) with kce := { (ckSt ck0 [] []).kce with slots := [(7, keyS 3 3 [1, 2])], gen := [(7, 1), (256, 3)] } }
def vs1_CryptoComputes_3 : State := ioSt (vs_CryptoComputes_3.readOperand vj_CryptoComputes_3 (kSrc vj_CryptoComputes_3.desc) (dby vj_CryptoComputes_3.desc 16 4) (dby vj_CryptoComputes_3.desc 48 8) (if kAlg vj_CryptoComputes_3.desc = 1 then vx_CryptoComputes_3 else 16) reqKce)
def vs2_CryptoComputes_3 : State := ioSt (vs1_CryptoComputes_3.readOperand vj_CryptoComputes_3 (kSrc vj_CryptoComputes_3.desc) (dby vj_CryptoComputes_3.desc 16 4) (dby vj_CryptoComputes_3.desc 24 8) vn_CryptoComputes_3 reqKce)
def va_CryptoComputes_3 : List Byte := ioVal (vs_CryptoComputes_3.readOperand vj_CryptoComputes_3 (kSrc vj_CryptoComputes_3.desc) (dby vj_CryptoComputes_3.desc 16 4) (dby vj_CryptoComputes_3.desc 48 8) (if kAlg vj_CryptoComputes_3.desc = 1 then vx_CryptoComputes_3 else 16) reqKce)
def vb_CryptoComputes_3 : List Byte := ioVal (vs1_CryptoComputes_3.readOperand vj_CryptoComputes_3 (kSrc vj_CryptoComputes_3.desc) (dby vj_CryptoComputes_3.desc 16 4) (dby vj_CryptoComputes_3.desc 24 8) vn_CryptoComputes_3 reqKce)
def vj_CryptoComputes_4 : Job := jb 0 5 1 (D [(0, 0x71), (12, 0x18), (15, 10), (8, 0x100007), (16, 0x10001), (24, 4096), (20, 0x10003), (32, 8192), (40, 40)])
def vk_CryptoComputes_4 : KeySlot := keyS 5 132 [1, 2]
def vs_CryptoComputes_4 : State := { ckSt ck0 [vj_CryptoComputes_4] (memAt (5 * 2097152 + 4096) (List.range 40 |>.map (fun i => BitVec.ofNat 8 (3 * i + 1)))) with kce := { (ckSt ck0 [] []).kce with slots := [(7, keyS 5 132 [1, 2])], gen := [(7, 1), (256, 3)] } }
def vs1_CryptoComputes_4 : State := ioSt (vs_CryptoComputes_4.readOperand vj_CryptoComputes_4 (kSrc vj_CryptoComputes_4.desc) (dby vj_CryptoComputes_4.desc 16 4) (dby vj_CryptoComputes_4.desc 48 8) (kAux vj_CryptoComputes_4.desc) reqKce)
def vs2_CryptoComputes_4 : State := ioSt (vs1_CryptoComputes_4.readOperand vj_CryptoComputes_4 (kSrc vj_CryptoComputes_4.desc) (dby vj_CryptoComputes_4.desc 16 4) (dby vj_CryptoComputes_4.desc 24 8) (kLen vj_CryptoComputes_4.desc) reqKce)
def va_CryptoComputes_4 : List Byte := ioVal (vs_CryptoComputes_4.readOperand vj_CryptoComputes_4 (kSrc vj_CryptoComputes_4.desc) (dby vj_CryptoComputes_4.desc 16 4) (dby vj_CryptoComputes_4.desc 48 8) (kAux vj_CryptoComputes_4.desc) reqKce)
def vb_CryptoComputes_4 : List Byte := ioVal (vs1_CryptoComputes_4.readOperand vj_CryptoComputes_4 (kSrc vj_CryptoComputes_4.desc) (dby vj_CryptoComputes_4.desc 16 4) (dby vj_CryptoComputes_4.desc 24 8) (kLen vj_CryptoComputes_4.desc) reqKce)
def vj_CryptoComputes_5 : Job := jb 0 5 1 (D [(0, 0x71), (12, 0x19), (15, 10), (8, 0x100007), (16, 0x10001), (24, 4096), (13, 1), (40, 40), (44, 64), (48, 128)])
def vk_CryptoComputes_5 : KeySlot := keyS 6 4 [1, 2]
def vs_CryptoComputes_5 : State := { ckSt ck0 [vj_CryptoComputes_5] (memAt (5 * 2097152 + 4096) (List.range 40 |>.map (fun i => BitVec.ofNat 8 (3 * i + 1)))) with kce := { (ckSt ck0 [] []).kce with slots := [(7, keyS 6 4 [1, 2])], gen := [(7, 1), (256, 3)] } }
def vs1_CryptoComputes_5 : State := ioSt (vs_CryptoComputes_5.readOperand vj_CryptoComputes_5 (kSrc vj_CryptoComputes_5.desc) (dby vj_CryptoComputes_5.desc 16 4) (dby vj_CryptoComputes_5.desc 48 8) (kAux vj_CryptoComputes_5.desc) reqKce)
def vs2_CryptoComputes_5 : State := ioSt (vs1_CryptoComputes_5.readOperand vj_CryptoComputes_5 (kSrc vj_CryptoComputes_5.desc) (dby vj_CryptoComputes_5.desc 16 4) (dby vj_CryptoComputes_5.desc 24 8) (kLen vj_CryptoComputes_5.desc) reqKce)
def va_CryptoComputes_5 : List Byte := ioVal (vs_CryptoComputes_5.readOperand vj_CryptoComputes_5 (kSrc vj_CryptoComputes_5.desc) (dby vj_CryptoComputes_5.desc 16 4) (dby vj_CryptoComputes_5.desc 48 8) (kAux vj_CryptoComputes_5.desc) reqKce)
def vb_CryptoComputes_5 : List Byte := ioVal (vs1_CryptoComputes_5.readOperand vj_CryptoComputes_5 (kSrc vj_CryptoComputes_5.desc) (dby vj_CryptoComputes_5.desc 16 4) (dby vj_CryptoComputes_5.desc 24 8) (kLen vj_CryptoComputes_5.desc) reqKce)
def vj_CryptoComputes_6 : Job := jb 0 5 1 (D [(0, 0x72), (12, 0x10), (15, 10), (16, 0x10001), (24, 4096), (20, 0x10003), (32, 8192), (40, 40)])
def vs_CryptoComputes_6 : State := { ckSt ck0 [vj_CryptoComputes_6] (memAt (5 * 2097152 + 4096) (List.range 40 |>.map (fun i => BitVec.ofNat 8 (3 * i + 1)))) with kce := { (ckSt ck0 [] []).kce with slots := [(7, keyS 1 7 [1, 2, 3])], gen := [(7, 1), (256, 3)] } }
def vs1_CryptoComputes_6 : State := ioSt (vs_CryptoComputes_6.readOperand vj_CryptoComputes_6 (kSrc vj_CryptoComputes_6.desc) (dby vj_CryptoComputes_6.desc 16 4) (dby vj_CryptoComputes_6.desc 24 8) (kLen vj_CryptoComputes_6.desc) reqKce)
def vb_CryptoComputes_6 : List Byte := ioVal (vs_CryptoComputes_6.readOperand vj_CryptoComputes_6 (kSrc vj_CryptoComputes_6.desc) (dby vj_CryptoComputes_6.desc 16 4) (dby vj_CryptoComputes_6.desc 24 8) (kLen vj_CryptoComputes_6.desc) reqKce)
theorem witness_CryptoComputes :
    (∃ (sr : Nat), ∃ (tag : Nat), ∃ (n : Nat), ∃ (x : Nat), ∃ (s : State), ∃ (s1 : State), ∃ (s2 : State), ∃ (j : Job), ∃ (k : KeySlot), ∃ (a : List Byte), ∃ (b : List Byte), s.kceNext sr tag 0x70 ([(8, 5)] ++ srcUsed ++ dstUsed ++ auxUsed) true j ∧ n = kLen j.desc ∧ x = kAux j.desc ∧ s.readOperand j (kSrc j.desc) (dby j.desc 16 4) (dby j.desc 48 8) (if kAlg j.desc = 1 then x else 16) reqKce = .ok s1 a ∧ s1.readOperand j (kSrc j.desc) (dby j.desc 16 4) (dby j.desc 24 8) n reqKce = .ok s2 b ∧ s.holdsKey j (some (b2n (kDir j.desc))) (if kAlg j.desc = 3 then [3, 4] else [1, 2]) k ∧ kAlg j.desc = 1 ∧ kDir j.desc = false ∧ 12 ≤ x ∧ x ≤ 65547) ∧
    (∃ (sr : Nat), ∃ (tag : Nat), ∃ (n : Nat), ∃ (x : Nat), ∃ (s : State), ∃ (s1 : State), ∃ (s2 : State), ∃ (j : Job), ∃ (k : KeySlot), ∃ (a : List Byte), ∃ (b : List Byte), s.kceNext sr tag 0x70 ([(8, 5)] ++ srcUsed ++ dstUsed ++ auxUsed) true j ∧ n = kLen j.desc ∧ x = kAux j.desc ∧ s.readOperand j (kSrc j.desc) (dby j.desc 16 4) (dby j.desc 48 8) (if kAlg j.desc = 1 then x else 16) reqKce = .ok s1 a ∧ s1.readOperand j (kSrc j.desc) (dby j.desc 16 4) (dby j.desc 24 8) n reqKce = .ok s2 b ∧ s.holdsKey j (some (b2n (kDir j.desc))) (if kAlg j.desc = 3 then [3, 4] else [1, 2]) k ∧ kAlg j.desc = 1 ∧ kDir j.desc = true ∧ 12 ≤ x ∧ x ≤ 65547 ∧ 16 ≤ n ∧ n ≤ 2 ^ 20 + 16) ∧
    (∃ (sr : Nat), ∃ (tag : Nat), ∃ (n : Nat), ∃ (x : Nat), ∃ (s : State), ∃ (s1 : State), ∃ (s2 : State), ∃ (j : Job), ∃ (k : KeySlot), ∃ (a : List Byte), ∃ (b : List Byte), s.kceNext sr tag 0x70 ([(8, 5)] ++ srcUsed ++ dstUsed ++ auxUsed) true j ∧ n = kLen j.desc ∧ x = kAux j.desc ∧ s.readOperand j (kSrc j.desc) (dby j.desc 16 4) (dby j.desc 48 8) (if kAlg j.desc = 1 then x else 16) reqKce = .ok s1 a ∧ s1.readOperand j (kSrc j.desc) (dby j.desc 16 4) (dby j.desc 24 8) n reqKce = .ok s2 b ∧ s.holdsKey j (some (b2n (kDir j.desc))) (if kAlg j.desc = 3 then [3, 4] else [1, 2]) k ∧ kAlg j.desc = 2 ∧ x = 16) ∧
    (∃ (sr : Nat), ∃ (tag : Nat), ∃ (n : Nat), ∃ (x : Nat), ∃ (s : State), ∃ (s1 : State), ∃ (s2 : State), ∃ (j : Job), ∃ (k : KeySlot), ∃ (a : List Byte), ∃ (b : List Byte), s.kceNext sr tag 0x70 ([(8, 5)] ++ srcUsed ++ dstUsed ++ auxUsed) true j ∧ n = kLen j.desc ∧ x = kAux j.desc ∧ s.readOperand j (kSrc j.desc) (dby j.desc 16 4) (dby j.desc 48 8) (if kAlg j.desc = 1 then x else 16) reqKce = .ok s1 a ∧ s1.readOperand j (kSrc j.desc) (dby j.desc 16 4) (dby j.desc 24 8) n reqKce = .ok s2 b ∧ s.holdsKey j (some (b2n (kDir j.desc))) (if kAlg j.desc = 3 then [3, 4] else [1, 2]) k ∧ kAlg j.desc = 3 ∧ 16 ≤ x ∧ x ≤ 2 ^ 24 ∧ n % x = 0) ∧
    (∃ (sr : Nat), ∃ (tag : Nat), ∃ (s : State), ∃ (s1 : State), ∃ (s2 : State), ∃ (j : Job), ∃ (k : KeySlot), ∃ (a : List Byte), ∃ (b : List Byte), s.kceNext sr tag 0x71 ([(8, 5)] ++ srcUsed ++ dstUsed ++ auxUsed) true j ∧ kAlg j.desc ∈ [0x04, 0x18, 0x19] ∧ s.holdsKey j (some 2) (if kAlg j.desc = 4 then [1, 2] else [5, 6]) k ∧ s.readOperand j (kSrc j.desc) (dby j.desc 16 4) (dby j.desc 48 8) (kAux j.desc) reqKce = .ok s1 a ∧ s1.readOperand j (kSrc j.desc) (dby j.desc 16 4) (dby j.desc 24 8) (kLen j.desc) reqKce = .ok s2 b ∧ kDir j.desc = false ∧ kAux j.desc = 0 ∧ dby j.desc 48 8 = 0) ∧
    (∃ (sr : Nat), ∃ (tag : Nat), ∃ (s : State), ∃ (s1 : State), ∃ (s2 : State), ∃ (j : Job), ∃ (k : KeySlot), ∃ (a : List Byte), ∃ (b : List Byte), s.kceNext sr tag 0x71 ([(8, 5)] ++ srcUsed ++ dstUsed ++ auxUsed) true j ∧ kAlg j.desc ∈ [0x04, 0x18, 0x19] ∧ s.holdsKey j (some 2) (if kAlg j.desc = 4 then [1, 2] else [5, 6]) k ∧ s.readOperand j (kSrc j.desc) (dby j.desc 16 4) (dby j.desc 48 8) (kAux j.desc) reqKce = .ok s1 a ∧ s1.readOperand j (kSrc j.desc) (dby j.desc 16 4) (dby j.desc 24 8) (kLen j.desc) reqKce = .ok s2 b ∧ kDir j.desc = true ∧ kAux j.desc = macBytes (kAlg j.desc) ∧ dby j.desc 20 4 = 0 ∧ dby j.desc 32 8 = 0) ∧
    (∃ (sr : Nat), ∃ (tag : Nat), ∃ (s : State), ∃ (s1 : State), ∃ (j : Job), ∃ (b : List Byte), s.kceNext sr tag 0x72 ([(12, 1), (44, 4)] ++ srcUsed ++ dstUsed) false j ∧ (kAlg j.desc ∈ [0x10, 0x11, 0x12, 0x13, 0x14] ∧ kAux j.desc = 0 ∨ kAlg j.desc ∈ [0x15, 0x16] ∧ 1 ≤ kAux j.desc ∧ kAux j.desc ≤ 65535) ∧ s.readOperand j (kSrc j.desc) (dby j.desc 16 4) (dby j.desc 24 8) (kLen j.desc) reqKce = .ok s1 b) :=
  ⟨⟨(0), (5), (vn_CryptoComputes_0), (vx_CryptoComputes_0), (vs_CryptoComputes_0), (vs1_CryptoComputes_0), (vs2_CryptoComputes_0), (vj_CryptoComputes_0), (vk_CryptoComputes_0), (va_CryptoComputes_0), (vb_CryptoComputes_0), ⟨ready_of (by decide +kernel), by decide +kernel⟩, by decide +kernel, by decide +kernel, io_ok _ (by decide +kernel), io_ok _ (by decide +kernel), ⟨by decide +kernel, by decide +kernel⟩, by decide +kernel, by decide +kernel, by decide +kernel, by decide +kernel⟩,
   ⟨(0), (5), (vn_CryptoComputes_1), (vx_CryptoComputes_1), (vs_CryptoComputes_1), (vs1_CryptoComputes_1), (vs2_CryptoComputes_1), (vj_CryptoComputes_1), (vk_CryptoComputes_1), (va_CryptoComputes_1), (vb_CryptoComputes_1), ⟨ready_of (by decide +kernel), by decide +kernel⟩, by decide +kernel, by decide +kernel, io_ok _ (by decide +kernel), io_ok _ (by decide +kernel), ⟨by decide +kernel, by decide +kernel⟩, by decide +kernel, by decide +kernel, by decide +kernel, by decide +kernel, by decide +kernel, by decide +kernel⟩,
   ⟨(0), (5), (vn_CryptoComputes_2), (vx_CryptoComputes_2), (vs_CryptoComputes_2), (vs1_CryptoComputes_2), (vs2_CryptoComputes_2), (vj_CryptoComputes_2), (vk_CryptoComputes_2), (va_CryptoComputes_2), (vb_CryptoComputes_2), ⟨ready_of (by decide +kernel), by decide +kernel⟩, by decide +kernel, by decide +kernel, io_ok _ (by decide +kernel), io_ok _ (by decide +kernel), ⟨by decide +kernel, by decide +kernel⟩, by decide +kernel, by decide +kernel⟩,
   ⟨(0), (5), (vn_CryptoComputes_3), (vx_CryptoComputes_3), (vs_CryptoComputes_3), (vs1_CryptoComputes_3), (vs2_CryptoComputes_3), (vj_CryptoComputes_3), (vk_CryptoComputes_3), (va_CryptoComputes_3), (vb_CryptoComputes_3), ⟨ready_of (by decide +kernel), by decide +kernel⟩, by decide +kernel, by decide +kernel, io_ok _ (by decide +kernel), io_ok _ (by decide +kernel), ⟨by decide +kernel, by decide +kernel⟩, by decide +kernel, by decide +kernel, by decide +kernel, by decide +kernel⟩,
   ⟨(0), (5), (vs_CryptoComputes_4), (vs1_CryptoComputes_4), (vs2_CryptoComputes_4), (vj_CryptoComputes_4), (vk_CryptoComputes_4), (va_CryptoComputes_4), (vb_CryptoComputes_4), ⟨ready_of (by decide +kernel), by decide +kernel⟩, by decide +kernel, ⟨by decide +kernel, by decide +kernel⟩, io_ok _ (by decide +kernel), io_ok _ (by decide +kernel), by decide +kernel, by decide +kernel, by decide +kernel⟩,
   ⟨(0), (5), (vs_CryptoComputes_5), (vs1_CryptoComputes_5), (vs2_CryptoComputes_5), (vj_CryptoComputes_5), (vk_CryptoComputes_5), (va_CryptoComputes_5), (vb_CryptoComputes_5), ⟨ready_of (by decide +kernel), by decide +kernel⟩, by decide +kernel, ⟨by decide +kernel, by decide +kernel⟩, io_ok _ (by decide +kernel), io_ok _ (by decide +kernel), by decide +kernel, by decide +kernel, by decide +kernel, by decide +kernel⟩,
   ⟨(0), (5), (vs_CryptoComputes_6), (vs1_CryptoComputes_6), (vj_CryptoComputes_6), (vb_CryptoComputes_6), ⟨ready_of (by decide +kernel), by decide +kernel⟩, by decide +kernel, io_ok _ (by decide +kernel)⟩⟩

def vj_SignaturesAndKeys_0 : Job := jb 0 5 1 (D [(0, 0x73), (12, 0x20), (15, 10), (8, 0x100007), (16, 0x10001), (24, 4096), (20, 0x10003), (32, 8192), (40, 40)])
def vk_SignaturesAndKeys_0 : KeySlot := keyS 9 8 [1, 2, 3]
def vs_SignaturesAndKeys_0 : State := { ckSt ck0 [vj_SignaturesAndKeys_0] (memAt (5 * 2097152 + 4096) (List.range 40 |>.map (fun i => BitVec.ofNat 8 (3 * i + 1)))) with kce := { (ckSt ck0 [] []).kce with slots := [(7, keyS 9 8 [1, 2, 3])], gen := [(7, 1), (256, 3)] } }
def vs1_SignaturesAndKeys_0 : State := ioSt (vs_SignaturesAndKeys_0.readOperand vj_SignaturesAndKeys_0 (kSrc vj_SignaturesAndKeys_0.desc) (dby vj_SignaturesAndKeys_0.desc 16 4) (dby vj_SignaturesAndKeys_0.desc 48 8) (kAux vj_SignaturesAndKeys_0.desc) reqKce)
def vs2_SignaturesAndKeys_0 : State := ioSt (vs1_SignaturesAndKeys_0.readOperand vj_SignaturesAndKeys_0 (kSrc vj_SignaturesAndKeys_0.desc) (dby vj_SignaturesAndKeys_0.desc 16 4) (dby vj_SignaturesAndKeys_0.desc 24 8) (kLen vj_SignaturesAndKeys_0.desc) reqKce)
def vc_SignaturesAndKeys_0 : List Byte := ioVal (vs_SignaturesAndKeys_0.readOperand vj_SignaturesAndKeys_0 (kSrc vj_SignaturesAndKeys_0.desc) (dby vj_SignaturesAndKeys_0.desc 16 4) (dby vj_SignaturesAndKeys_0.desc 48 8) (kAux vj_SignaturesAndKeys_0.desc) reqKce)
def vb_SignaturesAndKeys_0 : List Byte := ioVal (vs1_SignaturesAndKeys_0.readOperand vj_SignaturesAndKeys_0 (kSrc vj_SignaturesAndKeys_0.desc) (dby vj_SignaturesAndKeys_0.desc 16 4) (dby vj_SignaturesAndKeys_0.desc 24 8) (kLen vj_SignaturesAndKeys_0.desc) reqKce)
def vj_SignaturesAndKeys_1 : Job := jb 0 5 1 (D [(0, 0x73), (12, 0x21), (15, 10), (8, 0x100007), (16, 0x10001), (24, 4096), (20, 0x10003), (32, 8192), (40, 40), (44, 255), (48, 128), (56, 255)])
def vs_SignaturesAndKeys_1 : State := { ckSt ck0 [vj_SignaturesAndKeys_1] (memAt (5 * 2097152 + 4096) (List.range 40 |>.map (fun i => BitVec.ofNat 8 (3 * i + 1)))) with kce := { (ckSt ck0 [] []).kce with slots := [(7, keyS 10 8 [4])], gen := [(7, 1), (256, 3)] } }
def vs1_SignaturesAndKeys_1 : State := ioSt (vs_SignaturesAndKeys_1.readOperand vj_SignaturesAndKeys_1 (kSrc vj_SignaturesAndKeys_1.desc) (dby vj_SignaturesAndKeys_1.desc 16 4) (dby vj_SignaturesAndKeys_1.desc 48 8) (kAux vj_SignaturesAndKeys_1.desc) reqKce)
def vs2_SignaturesAndKeys_1 : State := ioSt (vs1_SignaturesAndKeys_1.readOperand vj_SignaturesAndKeys_1 (kSrc vj_SignaturesAndKeys_1.desc) (dby vj_SignaturesAndKeys_1.desc 16 4) (dby vj_SignaturesAndKeys_1.desc 24 8) (kLen vj_SignaturesAndKeys_1.desc) reqKce)
def vc_SignaturesAndKeys_1 : List Byte := ioVal (vs_SignaturesAndKeys_1.readOperand vj_SignaturesAndKeys_1 (kSrc vj_SignaturesAndKeys_1.desc) (dby vj_SignaturesAndKeys_1.desc 16 4) (dby vj_SignaturesAndKeys_1.desc 48 8) (kAux vj_SignaturesAndKeys_1.desc) reqKce)
def vb_SignaturesAndKeys_1 : List Byte := ioVal (vs1_SignaturesAndKeys_1.readOperand vj_SignaturesAndKeys_1 (kSrc vj_SignaturesAndKeys_1.desc) (dby vj_SignaturesAndKeys_1.desc 16 4) (dby vj_SignaturesAndKeys_1.desc 24 8) (kLen vj_SignaturesAndKeys_1.desc) reqKce)
def vj_SignaturesAndKeys_2 : Job := jb 0 5 1 (D [(0, 0x74), (12, 0x20), (15, 10), (8, 0x100007), (16, 0x10001), (24, 4096), (40, 40), (44, 64), (48, 128)])
def vk_SignaturesAndKeys_2 : KeySlot := keyS 9 8 [1, 2, 3]
def vp_SignaturesAndKeys_2 : Nat := (if kKey vj_SignaturesAndKeys_2.desc = 0xFFFFFFFF then pubBytes 9 else 0)
def vs_SignaturesAndKeys_2 : State := { ckSt ck0 [vj_SignaturesAndKeys_2] (memAt (5 * 2097152 + 4096) (List.range 40 |>.map (fun i => BitVec.ofNat 8 (3 * i + 1)))) with kce := { (ckSt ck0 [] []).kce with slots := [(7, keyS 9 8 [1, 2, 3])], gen := [(7, 1), (256, 3)] } }
def vs1_SignaturesAndKeys_2 : State := ioSt (vs_SignaturesAndKeys_2.readOperand vj_SignaturesAndKeys_2 (kSrc vj_SignaturesAndKeys_2.desc) (dby vj_SignaturesAndKeys_2.desc 16 4) (dby vj_SignaturesAndKeys_2.desc 48 8) (kAux vj_SignaturesAndKeys_2.desc) reqKce)
def vs2_SignaturesAndKeys_2 : State := ioSt (vs1_SignaturesAndKeys_2.readOperand vj_SignaturesAndKeys_2 (kSrc vj_SignaturesAndKeys_2.desc) (dby vj_SignaturesAndKeys_2.desc 16 4) (dby vj_SignaturesAndKeys_2.desc 24 8) (kLen vj_SignaturesAndKeys_2.desc) reqKce)
def va_SignaturesAndKeys_2 : List Byte := ioVal (vs_SignaturesAndKeys_2.readOperand vj_SignaturesAndKeys_2 (kSrc vj_SignaturesAndKeys_2.desc) (dby vj_SignaturesAndKeys_2.desc 16 4) (dby vj_SignaturesAndKeys_2.desc 48 8) (kAux vj_SignaturesAndKeys_2.desc) reqKce)
def vb_SignaturesAndKeys_2 : List Byte := ioVal (vs1_SignaturesAndKeys_2.readOperand vj_SignaturesAndKeys_2 (kSrc vj_SignaturesAndKeys_2.desc) (dby vj_SignaturesAndKeys_2.desc 16 4) (dby vj_SignaturesAndKeys_2.desc 24 8) (kLen vj_SignaturesAndKeys_2.desc) reqKce)
def vc_SignaturesAndKeys_2 : List Byte := bsub va_SignaturesAndKeys_2 vp_SignaturesAndKeys_2 (kCtx vj_SignaturesAndKeys_2.desc)
def vpub_SignaturesAndKeys_2 : List Byte := (if kKey vj_SignaturesAndKeys_2.desc = 0xFFFFFFFF then va_SignaturesAndKeys_2.take vp_SignaturesAndKeys_2 else vk_SignaturesAndKeys_2.pub)
def vj_SignaturesAndKeys_3 : Job := jb 0 5 1 (D [(0, 0x75), (12, 0), (15, 10), (8, 0x100007), (16, 0x10001), (24, 4096), (40, 72)])
def vs_SignaturesAndKeys_3 : State := { ckSt ck0 [vj_SignaturesAndKeys_3] (memAt (5 * 2097152 + 4096) (leBytes 4 0x424B4346 ++ [2, 0] ++ leBytes 2 7 ++ zeroBytes 8 ++ leBytes 2 40 ++ zeroBytes 14)) with kce := { (ckSt ck0 [] []).kce with slots := [(7, keyS 7 16 [5])], gen := [(7, 1), (256, 3)] } }
def vs1_SignaturesAndKeys_3 : State := ioSt (vs_SignaturesAndKeys_3.readOperand vj_SignaturesAndKeys_3 (kSrc vj_SignaturesAndKeys_3.desc) (dby vj_SignaturesAndKeys_3.desc 16 4) (dby vj_SignaturesAndKeys_3.desc 24 8) (kLen vj_SignaturesAndKeys_3.desc) reqKce)
def vb_SignaturesAndKeys_3 : List Byte := ioVal (vs_SignaturesAndKeys_3.readOperand vj_SignaturesAndKeys_3 (kSrc vj_SignaturesAndKeys_3.desc) (dby vj_SignaturesAndKeys_3.desc 16 4) (dby vj_SignaturesAndKeys_3.desc 24 8) (kLen vj_SignaturesAndKeys_3.desc) reqKce)
def vj_SignaturesAndKeys_4 : Job := jb 0 5 1 (D [(0, 0x76), (12, 0), (15, 10), (20, 0x10003), (32, 8192), (58, 8), (60, 9)])
def vs_SignaturesAndKeys_4 : State := { ckSt ck0 [vj_SignaturesAndKeys_4] (memAt (5 * 2097152 + 4096) (List.range 40 |>.map (fun i => BitVec.ofNat 8 (3 * i + 1)))) with kce := { (ckSt ck0 [] []).kce with slots := [(7, keyS 9 8 [1, 2, 3])], gen := [(7, 1), (256, 3)] } }
def vj_SignaturesAndKeys_5 : Job := jb 0 5 1 (D [(0, 0x77), (12, 0), (15, 10), (16, 0x10001), (24, 4096), (20, 0x10003), (32, 8192), (40, 1184), (44, 3), (48, 128), (58, 7), (60, 2)])
def vk_SignaturesAndKeys_5 : KeySlot := keyS 9 8 [1, 2, 3]
def vs_SignaturesAndKeys_5 : State := { ckSt ck0 [vj_SignaturesAndKeys_5] (memAt (5 * 2097152 + 4096) (List.range 40 |>.map (fun i => BitVec.ofNat 8 (3 * i + 1)))) with kce := { (ckSt ck0 [] []).kce with slots := [(7, keyS 9 8 [1, 2, 3])], gen := [(7, 1), (256, 3)] } }
def vs1_SignaturesAndKeys_5 : State := ioSt (vs_SignaturesAndKeys_5.readOperand vj_SignaturesAndKeys_5 (kSrc vj_SignaturesAndKeys_5.desc) (dby vj_SignaturesAndKeys_5.desc 16 4) (dby vj_SignaturesAndKeys_5.desc 48 8) (kAux vj_SignaturesAndKeys_5.desc) reqKce)
def vs2_SignaturesAndKeys_5 : State := ioSt (vs1_SignaturesAndKeys_5.readOperand vj_SignaturesAndKeys_5 (kSrc vj_SignaturesAndKeys_5.desc) (dby vj_SignaturesAndKeys_5.desc 16 4) (dby vj_SignaturesAndKeys_5.desc 24 8) (kLen vj_SignaturesAndKeys_5.desc) reqKce)
def vc_SignaturesAndKeys_5 : List Byte := ioVal (vs_SignaturesAndKeys_5.readOperand vj_SignaturesAndKeys_5 (kSrc vj_SignaturesAndKeys_5.desc) (dby vj_SignaturesAndKeys_5.desc 16 4) (dby vj_SignaturesAndKeys_5.desc 48 8) (kAux vj_SignaturesAndKeys_5.desc) reqKce)
def vb_SignaturesAndKeys_5 : List Byte := ioVal (vs1_SignaturesAndKeys_5.readOperand vj_SignaturesAndKeys_5 (kSrc vj_SignaturesAndKeys_5.desc) (dby vj_SignaturesAndKeys_5.desc 16 4) (dby vj_SignaturesAndKeys_5.desc 24 8) (kLen vj_SignaturesAndKeys_5.desc) reqKce)
def vj_SignaturesAndKeys_6 : Job := jb 0 5 1 (D [(0, 0x77), (12, 0), (15, 10), (8, 0x100007), (16, 0x10001), (24, 4096), (13, 1), (40, 1088), (44, 3), (48, 128), (58, 0), (60, 8)])
def vs_SignaturesAndKeys_6 : State := { ckSt ck0 [vj_SignaturesAndKeys_6] (memAt (5 * 2097152 + 4096) (List.range 40 |>.map (fun i => BitVec.ofNat 8 (3 * i + 1)))) with kce := { (ckSt ck0 [] []).kce with slots := [(7, keyS 11 32 [3])], gen := [(7, 1), (256, 3)] } }
def vs1_SignaturesAndKeys_6 : State := ioSt (vs_SignaturesAndKeys_6.readOperand vj_SignaturesAndKeys_6 (kSrc vj_SignaturesAndKeys_6.desc) (dby vj_SignaturesAndKeys_6.desc 16 4) (dby vj_SignaturesAndKeys_6.desc 48 8) (kAux vj_SignaturesAndKeys_6.desc) reqKce)
def vs2_SignaturesAndKeys_6 : State := ioSt (vs1_SignaturesAndKeys_6.readOperand vj_SignaturesAndKeys_6 (kSrc vj_SignaturesAndKeys_6.desc) (dby vj_SignaturesAndKeys_6.desc 16 4) (dby vj_SignaturesAndKeys_6.desc 24 8) (kLen vj_SignaturesAndKeys_6.desc) reqKce)
def vc_SignaturesAndKeys_6 : List Byte := ioVal (vs_SignaturesAndKeys_6.readOperand vj_SignaturesAndKeys_6 (kSrc vj_SignaturesAndKeys_6.desc) (dby vj_SignaturesAndKeys_6.desc 16 4) (dby vj_SignaturesAndKeys_6.desc 48 8) (kAux vj_SignaturesAndKeys_6.desc) reqKce)
def vb_SignaturesAndKeys_6 : List Byte := ioVal (vs1_SignaturesAndKeys_6.readOperand vj_SignaturesAndKeys_6 (kSrc vj_SignaturesAndKeys_6.desc) (dby vj_SignaturesAndKeys_6.desc 16 4) (dby vj_SignaturesAndKeys_6.desc 24 8) (kLen vj_SignaturesAndKeys_6.desc) reqKce)
def vj_SignaturesAndKeys_7 : Job := jb 0 5 1 (D [(0, 0x78), (8, 0x100007)])
def vk_SignaturesAndKeys_7 : KeySlot := keyS 9 8 [1, 2, 3]
def vs_SignaturesAndKeys_7 : State := { ckSt { ck0 with key := 0 } [vj_SignaturesAndKeys_7] ([]) with kce := { (ckSt ck0 [] []).kce with slots := [(7, keyS 9 8 [1, 2, 3])], gen := [(7, 1), (256, 3)] } }
def vj_SignaturesAndKeys_8 : Job := jb 0 5 1 (D [(0, 0x78), (8, 0x100007)])
def vk_SignaturesAndKeys_8 : KeySlot := keyS 9 8 [1, 2, 3]
def vs_SignaturesAndKeys_8 : State := { ckSt ck0 [vj_SignaturesAndKeys_8] (memAt (5 * 2097152 + 4096) (List.range 40 |>.map (fun i => BitVec.ofNat 8 (3 * i + 1)))) with kce := { (ckSt ck0 [] []).kce with slots := [(7, keyS 9 8 [1, 2, 3])], gen := [(7, 1), (256, 3)] } }
def vj_SignaturesAndKeys_9 : Job := jb 0 5 1 (D [(0, 0x79), (12, 0), (15, 10), (8, 0x100007), (20, 0x10003), (32, 8192)])
def vk_SignaturesAndKeys_9 : KeySlot := keyS 9 8 [1, 2, 3]
def vs_SignaturesAndKeys_9 : State := { ckSt ck0 [vj_SignaturesAndKeys_9] (memAt (5 * 2097152 + 4096) (List.range 40 |>.map (fun i => BitVec.ofNat 8 (3 * i + 1)))) with kce := { (ckSt ck0 [] []).kce with slots := [(7, keyS 9 8 [1, 2, 3])], gen := [(7, 1), (256, 3)] } }
theorem witness_SignaturesAndKeys :
    (∃ (sr : Nat), ∃ (tag : Nat), ∃ (s : State), ∃ (s1 : State), ∃ (s2 : State), ∃ (j : Job), ∃ (k : KeySlot), ∃ (c : List Byte), ∃ (b : List Byte), s.kceNext sr tag 0x73 ([(8, 5), (56, 2)] ++ srcUsed ++ dstUsed ++ auxUsed) false j ∧ kLen j.desc ≤ 2 ^ 26 ∧ kAux j.desc = kCtx j.desc ∧ s.holdsKey j (some 3) (if kAlg j.desc = 0x20 then [9] else [10]) k ∧ s.readOperand j (kSrc j.desc) (dby j.desc 16 4) (dby j.desc 48 8) (kAux j.desc) reqKce = .ok s1 c ∧ s1.readOperand j (kSrc j.desc) (dby j.desc 16 4) (dby j.desc 24 8) (kLen j.desc) reqKce = .ok s2 b ∧ kAlg j.desc = 0x20 ∧ kCtx j.desc = 0) ∧
    (∃ (sr : Nat), ∃ (tag : Nat), ∃ (s : State), ∃ (s1 : State), ∃ (s2 : State), ∃ (j : Job), ∃ (k : KeySlot), ∃ (c : List Byte), ∃ (b : List Byte), s.kceNext sr tag 0x73 ([(8, 5), (56, 2)] ++ srcUsed ++ dstUsed ++ auxUsed) false j ∧ kLen j.desc ≤ 2 ^ 26 ∧ kAux j.desc = kCtx j.desc ∧ s.holdsKey j (some 3) (if kAlg j.desc = 0x20 then [9] else [10]) k ∧ s.readOperand j (kSrc j.desc) (dby j.desc 16 4) (dby j.desc 48 8) (kAux j.desc) reqKce = .ok s1 c ∧ s1.readOperand j (kSrc j.desc) (dby j.desc 16 4) (dby j.desc 24 8) (kLen j.desc) reqKce = .ok s2 b ∧ kAlg j.desc = 0x21 ∧ kCtx j.desc ≤ 255) ∧
    (∃ (sr : Nat), ∃ (tag : Nat), ∃ (kind : Nat), ∃ (p : Nat), ∃ (s : State), ∃ (s1 : State), ∃ (s2 : State), ∃ (j : Job), ∃ (k : KeySlot), ∃ (a : List Byte), ∃ (b : List Byte), ∃ (c : List Byte), ∃ (pub : List Byte), s.kceNext sr tag 0x74 ([(8, 5), (56, 2)] ++ srcUsed ++ auxUsed) true j ∧ s1.readOperand j (kSrc j.desc) (dby j.desc 16 4) (dby j.desc 24 8) (kLen j.desc) reqKce = .ok s2 b ∧ s.readOperand j (kSrc j.desc) (dby j.desc 16 4) (dby j.desc 48 8) (kAux j.desc) reqKce = .ok s1 a ∧ (kAlg j.desc = 0x20 ∧ kCtx j.desc = 0 ∧ kind = 9 ∨ kAlg j.desc = 0x21 ∧ kCtx j.desc ≤ 255 ∧ kind = 10) ∧ p = (if kKey j.desc = 0xFFFFFFFF then pubBytes kind else 0) ∧ kAux j.desc = p + kCtx j.desc + sigBytes (kAlg j.desc) ∧ (kKey j.desc ≠ 0xFFFFFFFF → s.holdsKey j none [kind] k) ∧ pub = (if kKey j.desc = 0xFFFFFFFF then a.take p else k.pub) ∧ c = bsub a p (kCtx j.desc)) ∧
    (∃ (sr : Nat), ∃ (tag : Nat), ∃ (n : Nat), ∃ (at' : Nat), ∃ (s : State), ∃ (s1 : State), ∃ (j : Job), ∃ (k : KeySlot), ∃ (kek : List Byte), ∃ (b : List Byte), s.kceNext sr tag 0x75 ([(8, 4)] ++ srcUsed) false j ∧ s.roomAt j.slice n ∧ s.readOperand j (kSrc j.desc) (dby j.desc 16 4) (dby j.desc 24 8) (kLen j.desc) reqKce = .ok s1 b ∧ leAt b 0 4 = 0x424B4346 ∧ 1 ≤ leAt b 4 1 ∧ leAt b 4 1 ≤ 11 ∧ allZero (bsub b 18 14) = true ∧ leAt b 16 2 = roundUp (keyBytes (leAt b 4 1)) 8 + 8 ∧ (leAt b 5 1 = 0 ∧ at' = 32 ∧ s1.holdsKey j (some 4) [7] k ∧ kek = k.key ∨ leAt b 5 1 = 1 ∧ at' = 1120 ∧ s1.feature 9 = true ∧ kek = shake256 32 (Config.kemDecaps (Tbl.get s1.kce.secrets 1 []) (bsub b 32 1088) ++ b.take 16)) ∧ b.length = at' + leAt b 16 2 ∧ usageOk (leAt b 4 1) (leAt b 6 2) = true ∧ s1.allLanded sr tag) ∧
    (∃ (sr : Nat), ∃ (tag : Nat), ∃ (n : Nat), ∃ (kind : Nat), ∃ (s : State), ∃ (j : Job), s.kceNext sr tag 0x76 ([(58, 3)] ++ dstUsed) false j ∧ kind = kType j.desc ∧ 1 ≤ kind ∧ kind ≤ 11 ∧ usageOk kind (kUsage j.desc) = true ∧ s.roomAt j.slice n) ∧
    (∃ (sr : Nat), ∃ (tag : Nat), ∃ (n : Nat), ∃ (kind : Nat), ∃ (u : Nat), ∃ (s : State), ∃ (s1 : State), ∃ (s2 : State), ∃ (j : Job), ∃ (k : KeySlot), ∃ (c : List Byte), ∃ (b : List Byte), ∃ (r : Bool), s.kceNext sr tag 0x77 ([(8, 4), (58, 3)] ++ srcUsed ++ dstUsed ++ auxUsed) true j ∧ kind = kType j.desc ∧ 1 ≤ kind ∧ kind ≤ 11 ∧ u = (if kind = 8 then setBit (kUsage j.desc) 8 (kDir j.desc) else kUsage j.desc) ∧ usageOk kind u = true ∧ s.roomAt j.slice n ∧ s.readOperand j (kSrc j.desc) (dby j.desc 16 4) (dby j.desc 48 8) (kAux j.desc) reqKce = .ok s1 c ∧ s1.readOperand j (kSrc j.desc) (dby j.desc 16 4) (dby j.desc 24 8) (kLen j.desc) reqKce = .ok s2 b ∧ kDir j.desc = false ∧ kLen j.desc = 1184 ∧ kKey j.desc = 0) ∧
    (∃ (sr : Nat), ∃ (tag : Nat), ∃ (n : Nat), ∃ (kind : Nat), ∃ (u : Nat), ∃ (s : State), ∃ (s1 : State), ∃ (s2 : State), ∃ (j : Job), ∃ (k : KeySlot), ∃ (c : List Byte), ∃ (b : List Byte), s.kceNext sr tag 0x77 ([(8, 4), (58, 3)] ++ srcUsed ++ dstUsed ++ auxUsed) true j ∧ kind = kType j.desc ∧ 1 ≤ kind ∧ kind ≤ 11 ∧ u = (if kind = 8 then setBit (kUsage j.desc) 8 (kDir j.desc) else kUsage j.desc) ∧ usageOk kind u = true ∧ s.roomAt j.slice n ∧ s.readOperand j (kSrc j.desc) (dby j.desc 16 4) (dby j.desc 48 8) (kAux j.desc) reqKce = .ok s1 c ∧ s1.readOperand j (kSrc j.desc) (dby j.desc 16 4) (dby j.desc 24 8) (kLen j.desc) reqKce = .ok s2 b ∧ kDir j.desc = true ∧ kLen j.desc = 1088 ∧ dby j.desc 20 4 = 0 ∧ dby j.desc 32 8 = 0 ∧ s.holdsKey j (some 5) [11] k) ∧
    (∃ (sr : Nat), ∃ (tag : Nat), ∃ (s : State), ∃ (j : Job), ∃ (k : KeySlot), s.kceNext sr tag 0x78 [(8, 4)] false j ∧ s.kceSlot (kKey j.desc) j.slice = some k ∧ s.keyRefs (kKey j.desc) = 0) ∧
    (∃ (sr : Nat), ∃ (tag : Nat), ∃ (s : State), ∃ (j : Job), ∃ (k : KeySlot), s.kceNext sr tag 0x78 [(8, 4)] false j ∧ s.kceSlot (kKey j.desc) j.slice = some k ∧ 0 < s.keyRefs (kKey j.desc)) ∧
    (∃ (sr : Nat), ∃ (tag : Nat), ∃ (s : State), ∃ (j : Job), ∃ (k : KeySlot), s.kceNext sr tag 0x79 ([(8, 4)] ++ dstUsed) false j ∧ s.holdsKey j none (List.range 12) k) :=
  ⟨⟨(0), (5), (vs_SignaturesAndKeys_0), (vs1_SignaturesAndKeys_0), (vs2_SignaturesAndKeys_0), (vj_SignaturesAndKeys_0), (vk_SignaturesAndKeys_0), (vc_SignaturesAndKeys_0), (vb_SignaturesAndKeys_0), ⟨ready_of (by decide +kernel), by decide +kernel⟩, by decide +kernel, by decide +kernel, ⟨by decide +kernel, by decide +kernel⟩, io_ok _ (by decide +kernel), io_ok _ (by decide +kernel), by decide +kernel, by decide +kernel⟩,
   ⟨(0), (5), (vs_SignaturesAndKeys_1), (vs1_SignaturesAndKeys_1), (vs2_SignaturesAndKeys_1), (vj_SignaturesAndKeys_1), (keyS 10 8 [4]), (vc_SignaturesAndKeys_1), (vb_SignaturesAndKeys_1), ⟨ready_of (by decide +kernel), by decide +kernel⟩, by decide +kernel, by decide +kernel, ⟨by decide +kernel, by decide +kernel⟩, io_ok _ (by decide +kernel), io_ok _ (by decide +kernel), by decide +kernel, by decide +kernel⟩,
   ⟨(0), (5), (9), (vp_SignaturesAndKeys_2), (vs_SignaturesAndKeys_2), (vs1_SignaturesAndKeys_2), (vs2_SignaturesAndKeys_2), (vj_SignaturesAndKeys_2), (vk_SignaturesAndKeys_2), (va_SignaturesAndKeys_2), (vb_SignaturesAndKeys_2), (vc_SignaturesAndKeys_2), (vpub_SignaturesAndKeys_2), ⟨ready_of (by decide +kernel), by decide +kernel⟩, io_ok _ (by decide +kernel), io_ok _ (by decide +kernel), by decide +kernel, by decide +kernel, by decide +kernel, fun _ => ⟨by decide +kernel, by decide +kernel, by decide +kernel, fun u h => nomatch h⟩, by decide +kernel, by decide +kernel⟩,
   ⟨(0), (5), (256), (32), (vs_SignaturesAndKeys_3), (vs1_SignaturesAndKeys_3), (vj_SignaturesAndKeys_3), (keyS 7 16 [5]), ([5]), (vb_SignaturesAndKeys_3), ⟨ready_of (by decide +kernel), by decide +kernel⟩, ⟨by decide +kernel, by decide +kernel⟩, io_ok _ (by decide +kernel), by decide +kernel, by decide +kernel, by decide +kernel, by decide +kernel, by decide +kernel, .inl ⟨by decide +kernel, rfl, ⟨by decide +kernel, by decide +kernel, by decide +kernel, fun u h => by cases h; decide +kernel⟩, by decide +kernel⟩, by decide +kernel, by decide +kernel, landed_of (by decide +kernel)⟩,
   ⟨(0), (5), (256), (9), (vs_SignaturesAndKeys_4), (vj_SignaturesAndKeys_4), ⟨ready_of (by decide +kernel), by decide +kernel⟩, by decide +kernel, by decide +kernel, by decide +kernel, by decide +kernel, ⟨by decide +kernel, by decide +kernel⟩⟩,
   ⟨(0), (5), (256), (2), (7), (vs_SignaturesAndKeys_5), (vs1_SignaturesAndKeys_5), (vs2_SignaturesAndKeys_5), (vj_SignaturesAndKeys_5), (vk_SignaturesAndKeys_5), (vc_SignaturesAndKeys_5), (vb_SignaturesAndKeys_5), (true), ⟨ready_of (by decide +kernel), by decide +kernel⟩, by decide +kernel, by decide +kernel, by decide +kernel, by decide +kernel, by decide +kernel, ⟨by decide +kernel, by decide +kernel⟩, io_ok _ (by decide +kernel), io_ok _ (by decide +kernel), by decide +kernel, by decide +kernel, by decide +kernel⟩,
   ⟨(0), (5), (256), (8), (256), (vs_SignaturesAndKeys_6), (vs1_SignaturesAndKeys_6), (vs2_SignaturesAndKeys_6), (vj_SignaturesAndKeys_6), (keyS 11 32 [3]), (vc_SignaturesAndKeys_6), (vb_SignaturesAndKeys_6), ⟨ready_of (by decide +kernel), by decide +kernel⟩, by decide +kernel, by decide +kernel, by decide +kernel, by decide +kernel, by decide +kernel, ⟨by decide +kernel, by decide +kernel⟩, io_ok _ (by decide +kernel), io_ok _ (by decide +kernel), by decide +kernel, by decide +kernel, by decide +kernel, by decide +kernel, ⟨by decide +kernel, by decide +kernel⟩⟩,
   ⟨(0), (5), (vs_SignaturesAndKeys_7), (vj_SignaturesAndKeys_7), (vk_SignaturesAndKeys_7), ⟨ready_of (by decide +kernel), by decide +kernel⟩, by decide +kernel, by decide +kernel⟩,
   ⟨(0), (5), (vs_SignaturesAndKeys_8), (vj_SignaturesAndKeys_8), (vk_SignaturesAndKeys_8), ⟨ready_of (by decide +kernel), by decide +kernel⟩, by decide +kernel, by decide +kernel⟩,
   ⟨(0), (5), (vs_SignaturesAndKeys_9), (vj_SignaturesAndKeys_9), (vk_SignaturesAndKeys_9), ⟨ready_of (by decide +kernel), by decide +kernel⟩, ⟨by decide +kernel, by decide +kernel⟩⟩⟩

def vj_CryptoUnits_0 : Job := jb 0 5 1 (D [(0, 0x72), (12, 0x10), (15, 10), (16, 0x10001), (24, 4096), (20, 0x10003), (32, 8192), (40, 40)])
def vm_CryptoUnits_0 : KceMsg := ({ sr := 0, tag := 5, prio := 1, order := 9, started := 2, phase := .running, out := some ((List.range 5000).map (fun i => BitVec.ofNat 8 (7 * i))), released := 0, newKey := none, status := stSuccess, result := 3, retried := false } : KceMsg)
def vout_CryptoUnits_0 : List Byte := ((List.range 5000).map (fun i => BitVec.ofNat 8 (7 * i)))
def vs_CryptoUnits_0 : State := { ckSt ck0 [vj_CryptoUnits_0] ([]) with kce := { (ckSt ck0 [] []).kce with slots := [(7, keyS 1 7 [1, 2, 3])], gen := [(7, 1), (256, 3)], msgs := [vm_CryptoUnits_0] } }
def vs0_CryptoUnits_0 : State := vs_CryptoUnits_0.kceFill 4
def vj_CryptoUnits_1 : Job := jb 0 5 1 (D [(0, 0x72), (12, 0x10), (15, 10), (16, 0x10001), (24, 4096), (20, 0x10003), (32, 8192), (40, 40)])
def vm_CryptoUnits_1 : KceMsg := ({ sr := 0, tag := 5, prio := 1, order := 9, started := 2, phase := .running, out := some [1, 2, 3], released := 0, newKey := none, status := stSuccess, result := 3, retried := false } : KceMsg)
def vs_CryptoUnits_1 : State := { ckSt ck0 [vj_CryptoUnits_1] ([]) with kce := { (ckSt ck0 [] []).kce with slots := [(7, keyS 1 7 [1, 2, 3])], gen := [(7, 1), (256, 3)], msgs := [vm_CryptoUnits_1] } }
def vs0_CryptoUnits_1 : State := vs_CryptoUnits_1.kceFill 4
def vj_CryptoUnits_2 : Job := jb 0 5 1 (D [(0, 0x72), (12, 0x10), (15, 10), (16, 0x10001), (24, 4096), (20, 0x10003), (32, 8192), (40, 40)])
def vm_CryptoUnits_2 : KceMsg := ({ sr := 0, tag := 5, prio := 1, order := 9, started := 2, phase := .running, out := some [], released := 0, newKey := some (keyS 2 7 [8]), status := stSuccess, result := 3, retried := false } : KceMsg)
def vs_CryptoUnits_2 : State := { ckSt ck0 [vj_CryptoUnits_2] ([]) with kce := { (ckSt ck0 [] []).kce with slots := [(7, keyS 1 7 [1, 2, 3])], gen := [(7, 1), (256, 3)], msgs := [vm_CryptoUnits_2] } }
def vs0_CryptoUnits_2 : State := vs_CryptoUnits_2.kceFill 4
def vj_CryptoUnits_3 : Job := jb 0 5 1 (D [(0, 0x72), (12, 0x10), (15, 10), (16, 0x10001), (24, 4096), (20, 0x10003), (32, 8192), (40, 40)])
def vm_CryptoUnits_3 : KceMsg := ({ sr := 0, tag := 5, prio := 1, order := 9, started := 2, phase := .running, out := some [1, 2, 3], released := 0, newKey := none, status := stSuccess, result := 3, retried := false } : KceMsg)
def vs_CryptoUnits_3 : State := { ckSt ck0 [vj_CryptoUnits_3] ([]) with kce := { (ckSt ck0 [] []).kce with slots := [(7, keyS 1 7 [1, 2, 3])], gen := [(7, 1), (256, 3)], msgs := [vm_CryptoUnits_3] } }
def vs0_CryptoUnits_3 : State := vs_CryptoUnits_3.kceFill 4
def vj_CryptoUnits_4 : Job := jb 0 5 1 (D [(0, 0x72), (12, 0x10), (15, 10), (16, 0x10001), (24, 4096), (20, 0x10003), (32, 8192), (40, 40)])
def vm_CryptoUnits_4 : KceMsg := ({ sr := 0, tag := 5, prio := 1, order := 9, started := 2, phase := .running, out := some [1, 2, 3], released := 1, newKey := none, status := stSuccess, result := 3, retried := true } : KceMsg)
def vs_CryptoUnits_4 : State := { ckSt ck0 [vj_CryptoUnits_4] ([]) with kce := { (ckSt ck0 [] []).kce with slots := [(7, keyS 1 7 [1, 2, 3])], gen := [(7, 1), (256, 3)], msgs := [vm_CryptoUnits_4] } }
def vs0_CryptoUnits_4 : State := vs_CryptoUnits_4.kceFill 4
def vw_CryptoUnits_5 : KceMsg := ({ sr := 0, tag := 20, prio := 2, order := 9, started := 2, phase := .queued, out := some [1, 2, 3], released := 0, newKey := none, status := stSuccess, result := 3, retried := false } : KceMsg)
def vm_CryptoUnits_5 : KceMsg := ({ sr := 0, tag := 5, prio := 0, order := 9, started := 2, phase := .running, out := some [1, 2, 3], released := 0, newKey := none, status := stSuccess, result := 3, retried := false } : KceMsg)
def vj_CryptoUnits_5 : Job := jb 0 5 1 (D [(0, 0x72), (12, 0x10), (15, 10), (16, 0x10001), (24, 4096), (20, 0x10003), (32, 8192), (40, 40)])
def vs_CryptoUnits_5 : State := { ckSt ck0 [vj_CryptoUnits_5] ([]) with kce := { (ckSt ck0 [] []).kce with slots := [(7, keyS 1 7 [1, 2, 3])], gen := [(7, 1), (256, 3)], msgs := [vm_CryptoUnits_5, ({ sr := 0, tag := 11, prio := 1, order := 9, started := 11, phase := .running, out := some [1, 2, 3], released := 0, newKey := none, status := stSuccess, result := 3, retried := false } : KceMsg), ({ sr := 0, tag := 12, prio := 1, order := 9, started := 12, phase := .running, out := some [1, 2, 3], released := 0, newKey := none, status := stSuccess, result := 3, retried := false } : KceMsg), ({ sr := 0, tag := 13, prio := 1, order := 9, started := 13, phase := .running, out := some [1, 2, 3], released := 0, newKey := none, status := stSuccess, result := 3, retried := false } : KceMsg), vw_CryptoUnits_5] } }
def vw_CryptoUnits_6 : KceMsg := ({ sr := 0, tag := 20, prio := 2, order := 9, started := 2, phase := .queued, out := some [1, 2, 3], released := 0, newKey := none, status := stSuccess, result := 3, retried := false } : KceMsg)
def vm_CryptoUnits_6 : KceMsg := ({ sr := 0, tag := 5, prio := 2, order := 9, started := 40, phase := .running, out := some [1, 2, 3], released := 0, newKey := none, status := stSuccess, result := 3, retried := false } : KceMsg)
def vj_CryptoUnits_6 : Job := jb 0 5 1 (D [(0, 0x72), (12, 0x10), (15, 10), (16, 0x10001), (24, 4096), (20, 0x10003), (32, 8192), (40, 40)])
def vs_CryptoUnits_6 : State := { ckSt ck0 [vj_CryptoUnits_6] ([]) with kce := { (ckSt ck0 [] []).kce with slots := [(7, keyS 1 7 [1, 2, 3])], gen := [(7, 1), (256, 3)], msgs := [vm_CryptoUnits_6, ({ sr := 0, tag := 11, prio := 3, order := 9, started := 11, phase := .running, out := some [1, 2, 3], released := 0, newKey := none, status := stSuccess, result := 3, retried := false } : KceMsg), ({ sr := 0, tag := 12, prio := 3, order := 9, started := 12, phase := .running, out := some [1, 2, 3], released := 0, newKey := none, status := stSuccess, result := 3, retried := false } : KceMsg), ({ sr := 0, tag := 13, prio := 3, order := 9, started := 13, phase := .running, out := some [1, 2, 3], released := 0, newKey := none, status := stSuccess, result := 3, retried := false } : KceMsg), vw_CryptoUnits_6] } }
def vm_CryptoUnits_7 : KceMsg := ({ sr := 0, tag := 5, prio := 1, order := 9, started := 2, phase := .suspended, out := some [1, 2, 3], released := 0, newKey := none, status := stSuccess, result := 3, retried := false } : KceMsg)
def vs_CryptoUnits_7 : State := { ckSt ck0 [jb 0 5 1 (D [(0, 0x72), (12, 0x10), (15, 10), (16, 0x10001), (24, 4096), (20, 0x10003), (32, 8192), (40, 40)])] ([]) with kce := { (ckSt ck0 [] []).kce with slots := [(7, keyS 1 7 [1, 2, 3])], gen := [(7, 1), (256, 3)], msgs := [({ sr := 0, tag := 30, prio := 1, order := 9, started := 2, phase := .queued, out := some [1, 2, 3], released := 0, newKey := none, status := stSuccess, result := 3, retried := false } : KceMsg), vm_CryptoUnits_7, ({ sr := 0, tag := 31, prio := 1, order := 12, started := 2, phase := .suspended, out := some [1, 2, 3], released := 0, newKey := none, status := stSuccess, result := 3, retried := false } : KceMsg)] } }
def vs_CryptoUnits_8 : State := setRegs full [(R.KCE_STATUS, 1)]
def vm_CryptoUnits_9 : KceMsg := ({ sr := 0, tag := 5, prio := 1, order := 9, started := 2, phase := .running, out := some [1, 2, 3], released := 0, newKey := none, status := stSuccess, result := 3, retried := false } : KceMsg)
def vj_CryptoUnits_9 : Job := jb 0 5 1 (D [(0, 0x72), (12, 0x10), (15, 10), (16, 0x10001), (24, 4096), (20, 0x10003), (32, 8192), (40, 40)])
def vs_CryptoUnits_9 : State := { ckSt ck0 [vj_CryptoUnits_9, jb 0 30 1 0] ([]) with kce := { (ckSt ck0 [] []).kce with slots := [(7, keyS 1 7 [1, 2, 3])], gen := [(7, 1), (256, 3)], msgs := [({ sr := 0, tag := 30, prio := 1, order := 9, started := 2, phase := .running, out := some [1, 2, 3], released := 0, newKey := none, status := stSuccess, result := 3, retried := false } : KceMsg), vm_CryptoUnits_9] } }
def vs_CryptoUnits_10 : State := setRegs full [(R.KCE_STATUS, 2)]
def vs_CheckValues_0 : State := { setRegs full [(R.CRC_CFG 1, 0x1DF), (R.CRC_POLY 1, 0x04C11DB7), (R.CRC_INIT 1, 0xFFFFFFFF), (R.CRC_CFG 2, 0x1DF)] with kce := { full.kce with crcs := [(1, ⟨77, [(1, 5), (2, 513), (4, 9)]⟩), (2, ⟨3, []⟩)] } }
def vs_CheckValues_1 : State := { setRegs full [(R.CRC_CFG 1, 0x1DF), (R.CRC_POLY 1, 0x04C11DB7), (R.CRC_INIT 1, 0xFFFFFFFF), (R.CRC_CFG 2, 0x1DF)] with kce := { full.kce with crcs := [(1, ⟨77, [(1, 5), (2, 513), (4, 9)]⟩), (2, ⟨3, []⟩)] } }
def vrest_CheckValues_2 : List (Nat × Nat) := [(2, 513), (4, 9)]
def vs_CheckValues_2 : State := { setRegs full [(R.CRC_CFG 1, 0x1DF), (R.CRC_POLY 1, 0x04C11DB7), (R.CRC_INIT 1, 0xFFFFFFFF), (R.CRC_CFG 2, 0x1DF)] with kce := { full.kce with crcs := [(1, ⟨77, [(1, 5), (2, 513), (4, 9)]⟩), (2, ⟨3, []⟩)] } }
def vs_CheckValues_3 : State := { setRegs full [(R.CRC_CFG 1, 0x1DF), (R.CRC_POLY 1, 0x04C11DB7), (R.CRC_INIT 1, 0xFFFFFFFF), (R.CRC_CFG 2, 0x1DF)] with kce := { full.kce with crcs := [(1, ⟨77, [(1, 5), (2, 513), (4, 9)]⟩), (2, ⟨3, []⟩)] } }
def vs_CheckValues_4 : State := { setRegs full [(R.CRC_CFG 1, 0x1DF), (R.CRC_POLY 1, 0x04C11DB7), (R.CRC_INIT 1, 0xFFFFFFFF), (R.CRC_CFG 2, 0x1DF)] with kce := { full.kce with crcs := [(1, ⟨77, [(1, 5), (2, 513), (4, 9)]⟩), (2, ⟨3, []⟩)] } }
def vs_CheckValues_5 : State := { setRegs full [(R.CRC_CFG 1, 0x1DF), (R.CRC_POLY 1, 0x04C11DB7), (R.CRC_INIT 1, 0xFFFFFFFF), (R.CRC_CFG 2, 0x1DF)] with kce := { full.kce with crcs := [(1, ⟨77, [(1, 5), (2, 513), (4, 9)]⟩), (2, ⟨3, []⟩)] } }
def vs_CheckValues_6 : State := { setRegs full [(R.CRC_CFG 1, 0x1DF), (R.CRC_POLY 1, 0x04C11DB7), (R.CRC_INIT 1, 0xFFFFFFFF), (R.CRC_CFG 2, 0x1DF)] with kce := { full.kce with crcs := [(1, ⟨77, [(1, 5), (2, 513), (4, 9)]⟩), (2, ⟨3, []⟩)] } }
theorem witness_CryptoUnitsAndChecks :
    (∃ (sr : Nat), ∃ (tag : Nat), ∃ (s : State), ∃ (s0 : State), ∃ (j : Job), ∃ (m : KceMsg), ∃ (out : List Byte), ∃ s1, s0 = s.kceFill 4 ∧ (s0.kce.msgs.find? (fun m => m.sr = sr && m.tag = tag) = some m) ∧ s0.job sr tag = some j ∧ m.phase = .running ∧ j.phase ≠ .faulted ∧ m.out = some out ∧ 4096 < out.length - m.released ∧ s0.writeOperand j (kDst j.desc) (dby j.desc 20 4) (dby j.desc 32 8 + m.released) (bsub out m.released 4096) reqKce = .ok s1 ∧ (bsub out m.released 4096).length = 4096) ∧
    (∃ (sr : Nat), ∃ (tag : Nat), ∃ (s : State), ∃ (s0 : State), ∃ (j : Job), ∃ (m : KceMsg), ∃ (out : List Byte), ∃ s1, s0 = s.kceFill 4 ∧ (s0.kce.msgs.find? (fun m => m.sr = sr && m.tag = tag) = some m) ∧ s0.job sr tag = some j ∧ m.phase = .running ∧ j.phase ≠ .faulted ∧ m.out = some out ∧ (out.length ≤ m.released ∧ s1 = s0 ∨ m.released < out.length ∧ m.released + (bsub out m.released 4096).length = out.length ∧ s0.writeOperand j (kDst j.desc) (dby j.desc 20 4) (dby j.desc 32 8 + m.released) (bsub out m.released 4096) reqKce = .ok s1) ∧ s1.allLanded j.sr j.tag ∧ m.newKey = none) ∧
    (∃ (sr : Nat), ∃ (tag : Nat), ∃ (s : State), ∃ (s0 : State), ∃ (j : Job), ∃ (m : KceMsg), ∃ (out : List Byte), ∃ s1, ∃ k, ∃ n, s0 = s.kceFill 4 ∧ (s0.kce.msgs.find? (fun m => m.sr = sr && m.tag = tag) = some m) ∧ s0.job sr tag = some j ∧ m.phase = .running ∧ j.phase ≠ .faulted ∧ m.out = some out ∧ (out.length ≤ m.released ∧ s1 = s0 ∨ m.released < out.length ∧ m.released + (bsub out m.released 4096).length = out.length ∧ s0.writeOperand j (kDst j.desc) (dby j.desc 20 4) (dby j.desc 32 8 + m.released) (bsub out m.released 4096) reqKce = .ok s1) ∧ s1.allLanded j.sr j.tag ∧ m.newKey = some k ∧ s1.roomAt j.slice n) ∧
    (∃ (sr : Nat), ∃ (tag : Nat), ∃ (s : State), ∃ (s0 : State), ∃ (j : Job), ∃ (m : KceMsg), ∃ (out : List Byte), s0 = s.kceFill 4 ∧ (s0.kce.msgs.find? (fun m => m.sr = sr && m.tag = tag) = some m) ∧ s0.job sr tag = some j ∧ m.phase = .running ∧ j.phase ≠ .faulted ∧ m.out = some out ∧ m.retried = false) ∧
    (∃ (sr : Nat), ∃ (tag : Nat), ∃ (s : State), ∃ (s0 : State), ∃ (j : Job), ∃ (m : KceMsg), ∃ (out : List Byte), s0 = s.kceFill 4 ∧ (s0.kce.msgs.find? (fun m => m.sr = sr && m.tag = tag) = some m) ∧ s0.job sr tag = some j ∧ m.phase = .running ∧ j.phase ≠ .faulted ∧ m.out = some out ∧ m.retried = true ∧ (∀ x ∈ s0.kce.msgs, s0.allLanded x.sr x.tag) ∧ s0.allLanded j.sr j.tag) ∧
    (∃ (s : State), ∃ (w : KceMsg), ∃ (m : KceMsg), ∃ (j : Job), firstOf (s.kce.msgs.filter KceMsg.waits) = some w ∧ latestLow (s.kce.msgs.filter KceMsg.runs) = some m ∧ 4 ≤ (s.kce.msgs.filter KceMsg.runs).length ∧ (s.kce.msgs.filter KceMsg.held).length < 16 ∧ s.job m.sr m.tag = some j ∧ indivisible j.desc = false ∧ (∀ x ∈ s.kce.msgs, x.runs = true → x.prio < w.prio)) ∧
    (∃ (s : State), ∃ (w : KceMsg), ∃ (m : KceMsg), ∃ (j : Job), firstOf (s.kce.msgs.filter KceMsg.waits) = some w ∧ latestLow (s.kce.msgs.filter KceMsg.runs) = some m ∧ 4 ≤ (s.kce.msgs.filter KceMsg.runs).length ∧ (s.kce.msgs.filter KceMsg.held).length < 16 ∧ s.job m.sr m.tag = some j ∧ indivisible j.desc = false ∧ (∃ x ∈ s.kce.msgs, x.runs = true ∧ w.prio ≤ x.prio)) ∧
    (∃ (s : State), ∃ (m : KceMsg), firstOf (s.kce.msgs.filter KceMsg.held) = some m ∧ (s.kce.msgs.filter KceMsg.runs).length < 4 ∧ (∀ w ∈ s.kce.msgs, w.waits = true → w.prio ≤ m.prio)) ∧
    (∃ (s : State), s.kceState ≠ 2 ∧ s.kce.msgs = []) ∧
    (∃ (s : State), ∃ (m : KceMsg), ∃ (j : Job), s.kceState ≠ 2 ∧ (∀ x ∈ s.kce.msgs, s.allLanded x.sr x.tag) ∧ m ∈ s.kce.msgs ∧ s.job m.sr m.tag = some j) ∧
    (∃ (s : State), s.kceState = 2) ∧
    (∃ (u : Nat), ∃ (n : Nat), ∃ (v : Nat), ∃ (s : State), ∃ cw, u < 4 ∧ (cw ∈ ([(Instr.crcData8, 1), (Instr.crcData16, 2), (Instr.crcData32, 4)] : List ((Nat → Nat → Nat → Instr) × Nat))) ∧ n = cw.2) ∧
    (∃ (u : Nat), ∃ (n : Nat), ∃ (v : Nat), ∃ (s : State), ∃ cw, u < 4 ∧ (cw ∈ ([(Instr.crcData8, 1), (Instr.crcData16, 2), (Instr.crcData32, 4)] : List ((Nat → Nat → Nat → Instr) × Nat))) ∧ n ≠ cw.2) ∧
    (∃ (u : Nat), ∃ (e : Nat × Nat), ∃ (rest : List (Nat × Nat)), ∃ (s : State), u < 4 ∧ (s.crcUnit u).fifo = e :: rest) ∧
    (∃ (u : Nat), ∃ (off : Nat), ∃ (n : Nat), ∃ (v : Nat), ∃ (s : State), u < 4 ∧ ((off = 8 ∨ off = 12) ∧ n = 4 ∨ off = 8 ∧ n = 8)) ∧
    (∃ (u : Nat), ∃ (off : Nat), ∃ (n : Nat), ∃ (v : Nat), ∃ (s : State), u < 4 ∧ ((off = 16 ∨ off = 20) ∧ n = 4 ∨ off = 16 ∧ n = 8)) ∧
    (∃ (u : Nat), ∃ (v : Nat), ∃ (s : State), u < 4) ∧
    (∃ (u : Nat), ∃ (s : State), u < 4) :=
  ⟨⟨(0), (5), (vs_CryptoUnits_0), (vs0_CryptoUnits_0), (vj_CryptoUnits_0), (vm_CryptoUnits_0), (vout_CryptoUnits_0), (wioSt (vs0_CryptoUnits_0.writeOperand vj_CryptoUnits_0 (kDst vj_CryptoUnits_0.desc) (dby vj_CryptoUnits_0.desc 20 4) (dby vj_CryptoUnits_0.desc 32 8 + vm_CryptoUnits_0.released) (bsub vout_CryptoUnits_0 vm_CryptoUnits_0.released 4096) reqKce)), by decide +kernel, by decide +kernel, by decide +kernel, by decide +kernel, by decide +kernel, by decide +kernel, by decide +kernel, wio_ok _ (by decide +kernel), by decide +kernel⟩,
   ⟨(0), (5), (vs_CryptoUnits_1), (vs0_CryptoUnits_1), (vj_CryptoUnits_1), (vm_CryptoUnits_1), ([1, 2, 3]), (wioSt ((vs0_CryptoUnits_1).writeOperand vj_CryptoUnits_1 (kDst (vj_CryptoUnits_1).desc) (dby (vj_CryptoUnits_1).desc 20 4) (dby (vj_CryptoUnits_1).desc 32 8 + (vm_CryptoUnits_1).released) (bsub ([1, 2, 3]) (vm_CryptoUnits_1).released 4096) reqKce)), by decide +kernel, by decide +kernel, by decide +kernel, by decide +kernel, by decide +kernel, by decide +kernel, .inr ⟨by decide +kernel, by decide +kernel, wio_ok _ (by decide +kernel)⟩, landed_of (by decide +kernel), by decide +kernel⟩,
   ⟨(0), (5), (vs_CryptoUnits_2), (vs0_CryptoUnits_2), (vj_CryptoUnits_2), (vm_CryptoUnits_2), ([]), (vs0_CryptoUnits_2), (keyS 2 7 [8]), (256), by decide +kernel, by decide +kernel, by decide +kernel, by decide +kernel, by decide +kernel, by decide +kernel, .inl ⟨by decide +kernel, rfl⟩, landed_of (by decide +kernel), by decide +kernel, ⟨by decide +kernel, by decide +kernel⟩⟩,
   ⟨(0), (5), (vs_CryptoUnits_3), (vs0_CryptoUnits_3), (vj_CryptoUnits_3), (vm_CryptoUnits_3), ([1, 2, 3]), by decide +kernel, by decide +kernel, by decide +kernel, by decide +kernel, by decide +kernel, by decide +kernel, by decide +kernel⟩,
   ⟨(0), (5), (vs_CryptoUnits_4), (vs0_CryptoUnits_4), (vj_CryptoUnits_4), (vm_CryptoUnits_4), ([1, 2, 3]), by decide +kernel, by decide +kernel, by decide +kernel, by decide +kernel, by decide +kernel, by decide +kernel, by decide +kernel, landeds (by decide +kernel), landed_of (by decide +kernel)⟩,
   ⟨(vs_CryptoUnits_5), (vw_CryptoUnits_5), (vm_CryptoUnits_5), (vj_CryptoUnits_5), by decide +kernel, by decide +kernel, by decide +kernel, by decide +kernel, by decide +kernel, by decide +kernel, by decide +kernel⟩,
   ⟨(vs_CryptoUnits_6), (vw_CryptoUnits_6), (vm_CryptoUnits_6), (vj_CryptoUnits_6), by decide +kernel, by decide +kernel, by decide +kernel, by decide +kernel, by decide +kernel, by decide +kernel, by decide +kernel⟩,
   ⟨(vs_CryptoUnits_7), (vm_CryptoUnits_7), by decide +kernel, by decide +kernel, by decide +kernel⟩,
   ⟨(vs_CryptoUnits_8), by decide +kernel, by decide +kernel⟩,
   ⟨(vs_CryptoUnits_9), (vm_CryptoUnits_9), (vj_CryptoUnits_9), by decide +kernel, landeds (by decide +kernel), by decide +kernel, by decide +kernel⟩,
   ⟨(vs_CryptoUnits_10), by decide +kernel⟩,
   ⟨(1), (2), (20015998343868), (vs_CheckValues_0), ((Instr.crcData16, 2)), by decide +kernel, by simp, by decide +kernel⟩,
   ⟨(1), (8), (20015998343868), (vs_CheckValues_1), ((Instr.crcData32, 4)), by decide +kernel, by simp, by decide +kernel⟩,
   ⟨(1), ((1, 5)), (vrest_CheckValues_2), (vs_CheckValues_2), by decide +kernel, by decide +kernel⟩,
   ⟨(1), (12), (4), (20015998343868), (vs_CheckValues_3), by decide +kernel, by decide +kernel⟩,
   ⟨(1), (16), (8), (20015998343868), (vs_CheckValues_4), by decide +kernel, by decide +kernel⟩,
   ⟨(1), (20015998343868), (vs_CheckValues_5), by decide +kernel⟩,
   ⟨(1), (vs_CheckValues_6), by decide +kernel⟩⟩

def vs_SliceStates_0 : State := { jobs [jb 0 5 63 (D [(0, 0x88)])] with pending := [] }
def vj_SliceStates_0 : Job := jb 0 5 63 (D [(0, 0x88)])
def va_SliceStates_0 : Nat := dby vj_SliceStates_0.desc 8 1
def vsl_SliceStates_0 : Nat := vj_SliceStates_0.slice
def vs_SliceStates_1 : State := { jobs [jb 0 5 1 (D [(0, 0x88), (8, 0)])] with slices := [(0, slA), (1, { slA with state := .active })] }
def vj_SliceStates_1 : Job := jb 0 5 1 (D [(0, 0x88), (8, 0)])
def va_SliceStates_1 : Nat := dby vj_SliceStates_1.desc 8 1
def vsl_SliceStates_1 : Nat := vj_SliceStates_1.slice
def vs_SliceStates_2 : State := jobs [jb 0 5 0 (D [(0, 0x88), (8, 4)])]
def vj_SliceStates_2 : Job := jb 0 5 0 (D [(0, 0x88), (8, 4)])
def va_SliceStates_2 : Nat := dby vj_SliceStates_2.desc 8 1
def vsl_SliceStates_2 : Nat := vj_SliceStates_2.slice
def vs_SliceStates_3 : State := { jobs [jb 0 5 1 (D [(0, 0x88), (8, 1)])] with slices := [(0, slA), (1, { slA with state := .active })] }
def vj_SliceStates_3 : Job := jb 0 5 1 (D [(0, 0x88), (8, 1)])
def va_SliceStates_3 : Nat := dby vj_SliceStates_3.desc 8 1
def vsl_SliceStates_3 : Nat := vj_SliceStates_3.slice
def vs_SliceStates_4 : State := { jobs [jb 0 5 1 (D [(0, 0x88), (8, 2)])] with slices := [(0, slA), (1, { slA with state := .quiesced })] }
def vj_SliceStates_4 : Job := jb 0 5 1 (D [(0, 0x88), (8, 2)])
def va_SliceStates_4 : Nat := dby vj_SliceStates_4.desc 8 1
def vsl_SliceStates_4 : Nat := vj_SliceStates_4.slice
def vs_SliceStates_5 : State := { jobs [jb 0 5 1 (D [(0, 0x88), (8, 3)])] with slices := [(0, slA), (1, { slA with state := .orphaned })] }
def vj_SliceStates_5 : Job := jb 0 5 1 (D [(0, 0x88), (8, 3)])
def va_SliceStates_5 : Nat := dby vj_SliceStates_5.desc 8 1
def vsl_SliceStates_5 : Nat := vj_SliceStates_5.slice
def vs_SliceStates_6 : State := { jobs [jb 0 5 1 (D [(0, 0x88), (8, 3)])] with slices := [(0, slA), (1, { slA with state := .error })] }
def vj_SliceStates_6 : Job := jb 0 5 1 (D [(0, 0x88), (8, 3)])
def va_SliceStates_6 : Nat := dby vj_SliceStates_6.desc 8 1
def vsl_SliceStates_6 : Nat := vj_SliceStates_6.slice
def vs_SliceStates_7 : State := { jobs [jb 0 5 1 (D [(0, 0x88), (8, 4)]), jb 3 6 1 (D [(0, 1)])] with slices := [(0, slA), (1, { slA with state := .quiesced })] }
def vj_SliceStates_7 : Job := jb 0 5 1 (D [(0, 0x88), (8, 4)])
def va_SliceStates_7 : Nat := dby vj_SliceStates_7.desc 8 1
def vsl_SliceStates_7 : Nat := vj_SliceStates_7.slice
def vs_SliceStates_8 : State := { jobs [jb 0 5 1 (D [(0, 0x88), (8, 4)])] with slices := [(0, slA), (1, { slA with state := .quiesced })] }
def vj_SliceStates_8 : Job := jb 0 5 1 (D [(0, 0x88), (8, 4)])
def va_SliceStates_8 : Nat := dby vj_SliceStates_8.desc 8 1
def vsl_SliceStates_8 : Nat := vj_SliceStates_8.slice
def vs_SliceStates_9 : State := { jobs [{ jb 0 5 1 (D [(0, 0x88)]) with phase := .running, prog := [3] }, jb 3 6 1 (D [(0, 1)])] with slices := [(1, { slA with state := .quiesced })] }
def vj_SliceStates_9 : Job := { jb 0 5 1 (D [(0, 0x88)]) with phase := .running, prog := [3] }
def vs_SliceStates_10 : State := { jobs [{ jb 0 5 1 (D [(0, 0x88)]) with phase := .running, prog := [3] }] with slices := [(1, { slA with state := .quiesced })] }
def vj_SliceStates_10 : Job := { jb 0 5 1 (D [(0, 0x88)]) with phase := .running, prog := [3] }
def vs_SliceStates_11 : State := { base with slices := [(0, slA), (1, { slA with state := .quiescing })] }
def vs_SliceStates_12 : State := jobs [jb 3 5 1 0]
theorem witness_SliceStates :
    (∃ (sr : Nat), ∃ (tag : Nat), ∃ (a : Nat), ∃ (sl : Nat), ∃ (s : State), ∃ (j : Job), s.sliceNext sr tag 0x88 [(8, 1)] j ∧ j.p 0 = 0 ∧ a = dby j.desc 8 1 ∧ sl = j.slice ∧ a = 0 ∧ (s.slice sl).state = .absent) ∧
    (∃ (sr : Nat), ∃ (tag : Nat), ∃ (a : Nat), ∃ (sl : Nat), ∃ (s : State), ∃ (j : Job), s.sliceNext sr tag 0x88 [(8, 1)] j ∧ j.p 0 = 0 ∧ a = dby j.desc 8 1 ∧ sl = j.slice ∧ a = 0 ∧ (s.slice sl).state ≠ .absent) ∧
    (∃ (sr : Nat), ∃ (tag : Nat), ∃ (a : Nat), ∃ (sl : Nat), ∃ (s : State), ∃ (j : Job), s.sliceNext sr tag 0x88 [(8, 1)] j ∧ j.p 0 = 0 ∧ a = dby j.desc 8 1 ∧ sl = j.slice ∧ 1 ≤ a ∧ a ≤ 4 ∧ sl = 0) ∧
    (∃ (sr : Nat), ∃ (tag : Nat), ∃ (a : Nat), ∃ (sl : Nat), ∃ (s : State), ∃ (j : Job), s.sliceNext sr tag 0x88 [(8, 1)] j ∧ j.p 0 = 0 ∧ a = dby j.desc 8 1 ∧ sl = j.slice ∧ a = 1 ∧ sl ≠ 0 ∧ (s.slice sl).state = .active) ∧
    (∃ (sr : Nat), ∃ (tag : Nat), ∃ (a : Nat), ∃ (sl : Nat), ∃ (s : State), ∃ (j : Job), s.sliceNext sr tag 0x88 [(8, 1)] j ∧ j.p 0 = 0 ∧ a = dby j.desc 8 1 ∧ sl = j.slice ∧ a = 2 ∧ sl ≠ 0 ∧ ((s.slice sl).state = .quiescing ∨ (s.slice sl).state = .quiesced)) ∧
    (∃ (sr : Nat), ∃ (tag : Nat), ∃ (a : Nat), ∃ (sl : Nat), ∃ (s : State), ∃ (j : Job), s.sliceNext sr tag 0x88 [(8, 1)] j ∧ j.p 0 = 0 ∧ a = dby j.desc 8 1 ∧ sl = j.slice ∧ (a = 3 ∨ a = 4) ∧ sl ≠ 0 ∧ ((s.slice sl).state = .active ∨ (s.slice sl).state = .quiescing ∨ (s.slice sl).state = .orphaned)) ∧
    (∃ (sr : Nat), ∃ (tag : Nat), ∃ (a : Nat), ∃ (sl : Nat), ∃ (s : State), ∃ (j : Job), s.sliceNext sr tag 0x88 [(8, 1)] j ∧ j.p 0 = 0 ∧ a = dby j.desc 8 1 ∧ sl = j.slice ∧ a = 3 ∧ sl ≠ 0 ∧ ((s.slice sl).state = .quiesced ∨ (s.slice sl).state = .error)) ∧
    (∃ (sr : Nat), ∃ (tag : Nat), ∃ (a : Nat), ∃ (sl : Nat), ∃ (s : State), ∃ (j : Job), s.sliceNext sr tag 0x88 [(8, 1)] j ∧ j.p 0 = 0 ∧ a = dby j.desc 8 1 ∧ sl = j.slice ∧ a = 4 ∧ sl ≠ 0 ∧ ((s.slice sl).state = .quiesced ∨ (s.slice sl).state = .error) ∧ (∀ x ∈ s.xlt.asids, x.2.slice ≠ sl) ∧ s.drained sl = false) ∧
    (∃ (sr : Nat), ∃ (tag : Nat), ∃ (a : Nat), ∃ (sl : Nat), ∃ (s : State), ∃ (j : Job), s.sliceNext sr tag 0x88 [(8, 1)] j ∧ j.p 0 = 0 ∧ a = dby j.desc 8 1 ∧ sl = j.slice ∧ a = 4 ∧ sl ≠ 0 ∧ ((s.slice sl).state = .quiesced ∨ (s.slice sl).state = .error) ∧ (∀ x ∈ s.xlt.asids, x.2.slice ≠ sl) ∧ s.drained sl = true) ∧
    (∃ (sr : Nat), ∃ (tag : Nat), ∃ (s : State), ∃ (j : Job), s.job sr tag = some j ∧ j.phase = .running ∧ dOpcode j.desc = 0x88 ∧ j.p 0 = 3 ∧ (s.clk.dieResets ≠ [] ∨ s.drained j.slice = false)) ∧
    (∃ (sr : Nat), ∃ (tag : Nat), ∃ (s : State), ∃ (j : Job), s.job sr tag = some j ∧ j.phase = .running ∧ dOpcode j.desc = 0x88 ∧ j.p 0 = 3 ∧ s.clk.dieResets = [] ∧ s.drained j.slice = true) ∧
    (∃ (sl : Nat), ∃ (s : State), (s.slice sl).state = .quiescing ∧ s.quiet sl = true) ∧
    (∃ (sl : Nat), ∃ (s : State), s.quiet sl = false) :=
  ⟨⟨(0), (5), (va_SliceStates_0), (vsl_SliceStates_0), (vs_SliceStates_0), (vj_SliceStates_0), ⟨ready_of (by decide +kernel), by decide +kernel⟩, by decide +kernel, by decide +kernel, by decide +kernel, by decide +kernel, by decide +kernel⟩,
   ⟨(0), (5), (va_SliceStates_1), (vsl_SliceStates_1), (vs_SliceStates_1), (vj_SliceStates_1), ⟨ready_of (by decide +kernel), by decide +kernel⟩, by decide +kernel, by decide +kernel, by decide +kernel, by decide +kernel, by decide +kernel⟩,
   ⟨(0), (5), (va_SliceStates_2), (vsl_SliceStates_2), (vs_SliceStates_2), (vj_SliceStates_2), ⟨ready_of (by decide +kernel), by decide +kernel⟩, by decide +kernel, by decide +kernel, by decide +kernel, by decide +kernel, by decide +kernel, by decide +kernel⟩,
   ⟨(0), (5), (va_SliceStates_3), (vsl_SliceStates_3), (vs_SliceStates_3), (vj_SliceStates_3), ⟨ready_of (by decide +kernel), by decide +kernel⟩, by decide +kernel, by decide +kernel, by decide +kernel, by decide +kernel, by decide +kernel, by decide +kernel⟩,
   ⟨(0), (5), (va_SliceStates_4), (vsl_SliceStates_4), (vs_SliceStates_4), (vj_SliceStates_4), ⟨ready_of (by decide +kernel), by decide +kernel⟩, by decide +kernel, by decide +kernel, by decide +kernel, by decide +kernel, by decide +kernel, by decide +kernel⟩,
   ⟨(0), (5), (va_SliceStates_5), (vsl_SliceStates_5), (vs_SliceStates_5), (vj_SliceStates_5), ⟨ready_of (by decide +kernel), by decide +kernel⟩, by decide +kernel, by decide +kernel, by decide +kernel, by decide +kernel, by decide +kernel, by decide +kernel⟩,
   ⟨(0), (5), (va_SliceStates_6), (vsl_SliceStates_6), (vs_SliceStates_6), (vj_SliceStates_6), ⟨ready_of (by decide +kernel), by decide +kernel⟩, by decide +kernel, by decide +kernel, by decide +kernel, by decide +kernel, by decide +kernel, by decide +kernel⟩,
   ⟨(0), (5), (va_SliceStates_7), (vsl_SliceStates_7), (vs_SliceStates_7), (vj_SliceStates_7), ⟨ready_of (by decide +kernel), by decide +kernel⟩, by decide +kernel, by decide +kernel, by decide +kernel, by decide +kernel, by decide +kernel, by decide +kernel, by decide +kernel, by decide +kernel⟩,
   ⟨(0), (5), (va_SliceStates_8), (vsl_SliceStates_8), (vs_SliceStates_8), (vj_SliceStates_8), ⟨ready_of (by decide +kernel), by decide +kernel⟩, by decide +kernel, by decide +kernel, by decide +kernel, by decide +kernel, by decide +kernel, by decide +kernel, by decide +kernel, by decide +kernel⟩,
   ⟨(0), (5), (vs_SliceStates_9), (vj_SliceStates_9), by decide +kernel, by decide +kernel, by decide +kernel, by decide +kernel, by decide +kernel⟩,
   ⟨(0), (5), (vs_SliceStates_10), (vj_SliceStates_10), by decide +kernel, by decide +kernel, by decide +kernel, by decide +kernel, by decide +kernel, by decide +kernel⟩,
   ⟨(1), (vs_SliceStates_11), by decide +kernel, by decide +kernel⟩,
   ⟨(1), (vs_SliceStates_12), by decide +kernel⟩⟩

def vj_QuotasAndPasids_0 : Job := jb 0 5 1 (D [(0, 0x89), (8, 3), (16, 1310464), (24, 0)])
def vc_QuotasAndPasids_0 : Nat := dby vj_QuotasAndPasids_0.desc 8 1
def vv_QuotasAndPasids_0 : Nat := dby vj_QuotasAndPasids_0.desc 16 8
def vm_QuotasAndPasids_0 : Nat := dby vj_QuotasAndPasids_0.desc 24 12
def vsl_QuotasAndPasids_0 : Nat := vj_QuotasAndPasids_0.slice
def vs_QuotasAndPasids_0 : State := setRegs (fjobs [vj_QuotasAndPasids_0]) [(R.SLC_QUOTA 0, 0x1000000000000000000000000000000000000000000000000000000000000000000000000 * 6 + 2^224 * 9 + 2^232 * 4 + 0x10000000000000000000000000000000000000000000000000000000000000000 * 100 + 0x4000000000000000000000000000000000000000000000000000000000000000000 * 50), (R.SLC_QUOTA 1, 0x0140003f0064006400000064000000640000006400000064)]
def vj_QuotasAndPasids_1 : Job := jb 0 5 1 (D [(0, 0x89), (8, 7), (16, 257), (24, 0)])
def vc_QuotasAndPasids_1 : Nat := dby vj_QuotasAndPasids_1.desc 8 1
def vv_QuotasAndPasids_1 : Nat := dby vj_QuotasAndPasids_1.desc 16 8
def vm_QuotasAndPasids_1 : Nat := dby vj_QuotasAndPasids_1.desc 24 12
def vsl_QuotasAndPasids_1 : Nat := vj_QuotasAndPasids_1.slice
def vs_QuotasAndPasids_1 : State := setRegs (fjobs [vj_QuotasAndPasids_1]) [(R.SLC_QUOTA 0, 0x1000000000000000000000000000000000000000000000000000000000000000000000000 * 6 + 2^224 * 9 + 2^232 * 4 + 0x10000000000000000000000000000000000000000000000000000000000000000 * 100 + 0x4000000000000000000000000000000000000000000000000000000000000000000 * 50), (R.SLC_QUOTA 1, 0x0140003f0064006400000064000000640000006400000064)]
def vj_QuotasAndPasids_2 : Job := jb 0 5 1 (D [(0, 0x89), (8, 8), (16, 0), (24, 2^95 + 9)])
def vc_QuotasAndPasids_2 : Nat := dby vj_QuotasAndPasids_2.desc 8 1
def vv_QuotasAndPasids_2 : Nat := dby vj_QuotasAndPasids_2.desc 16 8
def vm_QuotasAndPasids_2 : Nat := dby vj_QuotasAndPasids_2.desc 24 12
def vsl_QuotasAndPasids_2 : Nat := vj_QuotasAndPasids_2.slice
def vs_QuotasAndPasids_2 : State := setRegs (fjobs [vj_QuotasAndPasids_2]) [(R.SLC_QUOTA 0, 0x1000000000000000000000000000000000000000000000000000000000000000000000000 * 6 + 2^224 * 9 + 2^232 * 4 + 0x10000000000000000000000000000000000000000000000000000000000000000 * 100 + 0x4000000000000000000000000000000000000000000000000000000000000000000 * 50), (R.SLC_QUOTA 1, 0x0140003f0064006400000064000000640000006400000064)]
def vj_QuotasAndPasids_3 : Job := jb 0 5 1 (D [(0, 0x89), (8, 8), (16, 0), (24, 2^95 + 2)])
def vc_QuotasAndPasids_3 : Nat := dby vj_QuotasAndPasids_3.desc 8 1
def vv_QuotasAndPasids_3 : Nat := dby vj_QuotasAndPasids_3.desc 16 8
def vm_QuotasAndPasids_3 : Nat := dby vj_QuotasAndPasids_3.desc 24 12
def vsl_QuotasAndPasids_3 : Nat := vj_QuotasAndPasids_3.slice
def vs_QuotasAndPasids_3 : State := setRegs (fjobs [vj_QuotasAndPasids_3]) [(R.SLC_QUOTA 0, 0x1000000000000000000000000000000000000000000000000000000000000000000000000 * 6 + 2^224 * 9 + 2^232 * 4 + 0x10000000000000000000000000000000000000000000000000000000000000000 * 100 + 0x4000000000000000000000000000000000000000000000000000000000000000000 * 50), (R.SLC_QUOTA 1, 0x0140003f0064006400000064000000640000006400000064)]
def vj_QuotasAndPasids_4 : Job := jb 0 5 1 (D [(0, 0x89), (8, 9), (16, 13 + 200 * 65536), (24, 0)])
def vc_QuotasAndPasids_4 : Nat := dby vj_QuotasAndPasids_4.desc 8 1
def vv_QuotasAndPasids_4 : Nat := dby vj_QuotasAndPasids_4.desc 16 8
def vm_QuotasAndPasids_4 : Nat := dby vj_QuotasAndPasids_4.desc 24 12
def vsl_QuotasAndPasids_4 : Nat := vj_QuotasAndPasids_4.slice
def vs_QuotasAndPasids_4 : State := setRegs (fjobs [vj_QuotasAndPasids_4]) [(R.SLC_QUOTA 0, 0x1000000000000000000000000000000000000000000000000000000000000000000000000 * 6 + 2^224 * 9 + 2^232 * 4 + 0x10000000000000000000000000000000000000000000000000000000000000000 * 100 + 0x4000000000000000000000000000000000000000000000000000000000000000000 * 50), (R.SLC_QUOTA 1, 0x0140003f0064006400000064000000640000006400000064)]
def vj_QuotasAndPasids_5 : Job := jb 0 5 1 (D [(0, 0x89), (8, 9), (16, 9 + 1 * 65536), (24, 0)])
def vc_QuotasAndPasids_5 : Nat := dby vj_QuotasAndPasids_5.desc 8 1
def vv_QuotasAndPasids_5 : Nat := dby vj_QuotasAndPasids_5.desc 16 8
def vm_QuotasAndPasids_5 : Nat := dby vj_QuotasAndPasids_5.desc 24 12
def vsl_QuotasAndPasids_5 : Nat := vj_QuotasAndPasids_5.slice
def vs_QuotasAndPasids_5 : State := setRegs (fjobs [vj_QuotasAndPasids_5]) [(R.SLC_QUOTA 0, 0x1000000000000000000000000000000000000000000000000000000000000000000000000 * 6 + 2^224 * 9 + 2^232 * 4 + 0x10000000000000000000000000000000000000000000000000000000000000000 * 100 + 0x4000000000000000000000000000000000000000000000000000000000000000000 * 50), (R.SLC_QUOTA 1, 0x0140003f0064006400000064000000640000006400000064)]
def vj_QuotasAndPasids_6 : Job := jb 0 5 1 (D [(0, 0x89), (8, 10), (16, 200 + 750 * 65536), (24, 0)])
def vc_QuotasAndPasids_6 : Nat := dby vj_QuotasAndPasids_6.desc 8 1
def vv_QuotasAndPasids_6 : Nat := dby vj_QuotasAndPasids_6.desc 16 8
def vm_QuotasAndPasids_6 : Nat := dby vj_QuotasAndPasids_6.desc 24 12
def vsl_QuotasAndPasids_6 : Nat := vj_QuotasAndPasids_6.slice
def vs_QuotasAndPasids_6 : State := setRegs (fjobs [vj_QuotasAndPasids_6]) [(R.SLC_QUOTA 0, 0x1000000000000000000000000000000000000000000000000000000000000000000000000 * 6 + 2^224 * 9 + 2^232 * 4 + 0x10000000000000000000000000000000000000000000000000000000000000000 * 100 + 0x4000000000000000000000000000000000000000000000000000000000000000000 * 50), (R.SLC_QUOTA 1, 0x0140003f0064006400000064000000640000006400000064)]
def vj_QuotasAndPasids_7 : Job := jb 0 5 1 (D [(0, 0x89), (8, 10), (16, 149 + 2 * 65536), (24, 0)])
def vc_QuotasAndPasids_7 : Nat := dby vj_QuotasAndPasids_7.desc 8 1
def vv_QuotasAndPasids_7 : Nat := dby vj_QuotasAndPasids_7.desc 16 8
def vm_QuotasAndPasids_7 : Nat := dby vj_QuotasAndPasids_7.desc 24 12
def vsl_QuotasAndPasids_7 : Nat := vj_QuotasAndPasids_7.slice
def vs_QuotasAndPasids_7 : State := setRegs (fjobs [vj_QuotasAndPasids_7]) [(R.SLC_QUOTA 0, 0x1000000000000000000000000000000000000000000000000000000000000000000000000 * 6 + 2^224 * 9 + 2^232 * 4 + 0x10000000000000000000000000000000000000000000000000000000000000000 * 100 + 0x4000000000000000000000000000000000000000000000000000000000000000000 * 50), (R.SLC_QUOTA 1, 0x0140003f0064006400000064000000640000006400000064)]
def vj_QuotasAndPasids_8 : Job := jb 0 5 1 (D [(0, 0x89), (8, 11), (16, 255), (24, 0)])
def vc_QuotasAndPasids_8 : Nat := dby vj_QuotasAndPasids_8.desc 8 1
def vv_QuotasAndPasids_8 : Nat := dby vj_QuotasAndPasids_8.desc 16 8
def vm_QuotasAndPasids_8 : Nat := dby vj_QuotasAndPasids_8.desc 24 12
def vsl_QuotasAndPasids_8 : Nat := vj_QuotasAndPasids_8.slice
def vs_QuotasAndPasids_8 : State := setRegs (fjobs [vj_QuotasAndPasids_8]) [(R.SLC_QUOTA 0, 0x1000000000000000000000000000000000000000000000000000000000000000000000000 * 6 + 2^224 * 9 + 2^232 * 4 + 0x10000000000000000000000000000000000000000000000000000000000000000 * 100 + 0x4000000000000000000000000000000000000000000000000000000000000000000 * 50), (R.SLC_QUOTA 1, 0x0140003f0064006400000064000000640000006400000064)]
def vj_QuotasAndPasids_9 : Job := jb 0 5 1 (D [(0, 0x89), (8, 12), (16, 65535), (24, 0)])
def vc_QuotasAndPasids_9 : Nat := dby vj_QuotasAndPasids_9.desc 8 1
def vv_QuotasAndPasids_9 : Nat := dby vj_QuotasAndPasids_9.desc 16 8
def vm_QuotasAndPasids_9 : Nat := dby vj_QuotasAndPasids_9.desc 24 12
def vsl_QuotasAndPasids_9 : Nat := vj_QuotasAndPasids_9.slice
def vs_QuotasAndPasids_9 : State := setRegs (fjobs [vj_QuotasAndPasids_9]) [(R.SLC_QUOTA 0, 0x1000000000000000000000000000000000000000000000000000000000000000000000000 * 6 + 2^224 * 9 + 2^232 * 4 + 0x10000000000000000000000000000000000000000000000000000000000000000 * 100 + 0x4000000000000000000000000000000000000000000000000000000000000000000 * 50), (R.SLC_QUOTA 1, 0x0140003f0064006400000064000000640000006400000064)]
def vs_QuotasAndPasids_10 : State := setRegs (full) [(R.SLC_QUOTA 1, 0x0140003f0064006400000064000000640000006400000064)]
def vj_QuotasAndPasids_11 : Job := jb 0 5 1 (D [(0, 0x8A), (12, 2^20 - 1)])
def va_QuotasAndPasids_11 : Nat := dby vj_QuotasAndPasids_11.desc 8 1
def vp_QuotasAndPasids_11 : Nat := dby vj_QuotasAndPasids_11.desc 12 4
def vs_QuotasAndPasids_11 : State := setRegs (fjobs [vj_QuotasAndPasids_11]) [(R.SLC_QUOTA 0, 0x1000000000000000000000000000000000000000000000000000000000000000000000000 * 6 + 2^224 * 9 + 2^232 * 4 + 0x10000000000000000000000000000000000000000000000000000000000000000 * 100 + 0x4000000000000000000000000000000000000000000000000000000000000000000 * 50), (R.SLC_QUOTA 1, 0x0140003f0064006400000064000000640000006400000064)]
def vj_QuotasAndPasids_12 : Job := jb 0 5 1 (D [(0, 0x8A), (12, 7)])
def va_QuotasAndPasids_12 : Nat := dby vj_QuotasAndPasids_12.desc 8 1
def vp_QuotasAndPasids_12 : Nat := dby vj_QuotasAndPasids_12.desc 12 4
def vs_QuotasAndPasids_12 : State := setRegs (fjobs [vj_QuotasAndPasids_12]) [(R.SLC_QUOTA 0, 0x1000000000000000000000000000000000000000000000000000000000000000000000000 * 6 + 2^224 * 9 + 2^232 * 4 + 0x10000000000000000000000000000000000000000000000000000000000000000 * 100 + 0x4000000000000000000000000000000000000000000000000000000000000000000 * 50), (R.SLC_QUOTA 1, 0x0140003f0064006400000064000000640000006400000064)]
def vj_QuotasAndPasids_13 : Job := jb 0 5 1 (D [(0, 0x8A), (8, 1), (12, 7)])
def va_QuotasAndPasids_13 : Nat := dby vj_QuotasAndPasids_13.desc 8 1
def vp_QuotasAndPasids_13 : Nat := dby vj_QuotasAndPasids_13.desc 12 4
def vs_QuotasAndPasids_13 : State := setRegs (fjobs [vj_QuotasAndPasids_13]) [(R.SLC_QUOTA 0, 0x1000000000000000000000000000000000000000000000000000000000000000000000000 * 6 + 2^224 * 9 + 2^232 * 4 + 0x10000000000000000000000000000000000000000000000000000000000000000 * 100 + 0x4000000000000000000000000000000000000000000000000000000000000000000 * 50), (R.SLC_QUOTA 1, 0x0140003f0064006400000064000000640000006400000064)]
def vj_QuotasAndPasids_14 : Job := jb 0 5 1 (D [(0, 0x8A), (8, 1), (12, 8)])
def va_QuotasAndPasids_14 : Nat := dby vj_QuotasAndPasids_14.desc 8 1
def vp_QuotasAndPasids_14 : Nat := dby vj_QuotasAndPasids_14.desc 12 4
def vs_QuotasAndPasids_14 : State := setRegs (fjobs [vj_QuotasAndPasids_14]) [(R.SLC_QUOTA 0, 0x1000000000000000000000000000000000000000000000000000000000000000000000000 * 6 + 2^224 * 9 + 2^232 * 4 + 0x10000000000000000000000000000000000000000000000000000000000000000 * 100 + 0x4000000000000000000000000000000000000000000000000000000000000000000 * 50), (R.SLC_QUOTA 1, 0x0140003f0064006400000064000000640000006400000064)]
def vj_QuotasAndPasids_15 : Job := jb 0 5 1 (D [(0, 0x8A), (8, 1), (12, 9)])
def va_QuotasAndPasids_15 : Nat := dby vj_QuotasAndPasids_15.desc 8 1
def vp_QuotasAndPasids_15 : Nat := dby vj_QuotasAndPasids_15.desc 12 4
def vs_QuotasAndPasids_15 : State := { fjobs [vj_QuotasAndPasids_15] with pasids := [(9, 1), (10, 1)] }
def vj_Regions_0 : Job := jb 0 5 1 (D [(0, 0x8B), (12, 100), (16, 1)])
def vcount_Regions_0 : Nat := dby vj_Regions_0.desc 12 4
def vmask_Regions_0 : Nat := dby vj_Regions_0.desc 16 2
def vfl_Regions_0 : Nat := dby vj_Regions_0.desc 8 1
def vs_Regions_0 : State := setRegs (fjobs [vj_Regions_0]) [(R.SLC_QUOTA 1, 0x0140003f0064006400000064000000640000006400000064)]
def vj_Regions_1 : Job := jb 0 5 1 (D [(0, 0x8B), (8, 3), (12, 7), (16, 5)])
def vcount_Regions_1 : Nat := dby vj_Regions_1.desc 12 4
def vmask_Regions_1 : Nat := dby vj_Regions_1.desc 16 2
def vfl_Regions_1 : Nat := dby vj_Regions_1.desc 8 1
def vs_Regions_1 : State := setRegs (fjobs [vj_Regions_1]) [(R.SLC_QUOTA 1, 0x0140003f0064006400000064000000640000006400000064)]
def vj_Regions_2 : Job := jb 0 5 1 (D [(0, 0x8B), (12, 196512), (16, 1)])
def vcount_Regions_2 : Nat := dby vj_Regions_2.desc 12 4
def vmask_Regions_2 : Nat := dby vj_Regions_2.desc 16 2
def vfl_Regions_2 : Nat := dby vj_Regions_2.desc 8 1
def vs_Regions_2 : State := setRegs (fjobs [vj_Regions_2]) [(R.SLC_QUOTA 1, 0x0140003f006400640000006400000064000000640FFFFFFF)]
def vj_Regions_3 : Job := jb 0 5 1 (D [(0, 0x8C), (8, 0x10003)])
def vh_Regions_3 : Nat := dby vj_Regions_3.desc 8 4
def vs_Regions_3 : State := { fjobs [vj_Regions_3] with mem := { full.mem with regions := [(3, { rgA 1 7 with refs := 1 })] } }
def vr_Regions_3 : Region := (vs_Regions_3.region vh_Regions_3 vj_Regions_3.slice).get (by decide +kernel)
def vj_Regions_4 : Job := jb 0 5 1 (D [(0, 0x8C), (8, 0x10003)])
def vh_Regions_4 : Nat := dby vj_Regions_4.desc 8 4
def vs_Regions_4 : State := setRegs (fjobs [vj_Regions_4]) [(R.SLC_QUOTA 1, 0x0140003f0064006400000064000000640000006400000064)]
def vr_Regions_4 : Region := (vs_Regions_4.region vh_Regions_4 vj_Regions_4.slice).get (by decide +kernel)
def vj_Regions_5 : Job := jb 0 5 1 (D [(0, 0x8D), (8, 0x10003), (24, 2), (28, 0x10001), (16, 4096)])
def vs_Regions_5 : State := setRegs (fjobs [vj_Regions_5]) [(R.SLC_QUOTA 1, 0x0140003f0064006400000064000000640000006400000064)]
def vr_Regions_5 : Region := (vs_Regions_5.region (dby vj_Regions_5.desc 8 4) vj_Regions_5.slice).get (by decide +kernel)
def vs1_Regions_5 : State := wioSt (vs_Regions_5.writeOperand vj_Regions_5 (dby vj_Regions_5.desc 24 1) (dby vj_Regions_5.desc 28 4) (dby vj_Regions_5.desc 16 8) vr_Regions_5.entry 0)
theorem witness_QuotasAndRegions :
    (∃ (sr : Nat), ∃ (tag : Nat), ∃ (c : Nat), ∃ (v : Nat), ∃ (m : Nat), ∃ (sl : Nat), ∃ (s : State), ∃ (j : Job), s.sliceNext sr tag 0x89 [(8, 1), (16, 20)] j ∧ c = dby j.desc 8 1 ∧ v = dby j.desc 16 8 ∧ m = dby j.desc 24 12 ∧ sl = j.slice ∧ c < 8 ∧ v ≤ quotaMax c ∧ m = 0) ∧
    (∃ (sr : Nat), ∃ (tag : Nat), ∃ (c : Nat), ∃ (v : Nat), ∃ (m : Nat), ∃ (sl : Nat), ∃ (s : State), ∃ (j : Job), s.sliceNext sr tag 0x89 [(8, 1), (16, 20)] j ∧ c = dby j.desc 8 1 ∧ v = dby j.desc 16 8 ∧ m = dby j.desc 24 12 ∧ sl = j.slice ∧ c < 8 ∧ quotaMax c < v) ∧
    (∃ (sr : Nat), ∃ (tag : Nat), ∃ (c : Nat), ∃ (v : Nat), ∃ (m : Nat), ∃ (sl : Nat), ∃ (s : State), ∃ (j : Job), s.sliceNext sr tag 0x89 [(8, 1), (16, 20)] j ∧ c = dby j.desc 8 1 ∧ v = dby j.desc 16 8 ∧ m = dby j.desc 24 12 ∧ sl = j.slice ∧ c = 8 ∧ v = 0 ∧ (∀ x ∈ s.others sl, (s.groups x ||| (s.slice x).retGroups) &&& m = 0)) ∧
    (∃ (sr : Nat), ∃ (tag : Nat), ∃ (c : Nat), ∃ (v : Nat), ∃ (m : Nat), ∃ (sl : Nat), ∃ (s : State), ∃ (j : Job), s.sliceNext sr tag 0x89 [(8, 1), (16, 20)] j ∧ c = dby j.desc 8 1 ∧ v = dby j.desc 16 8 ∧ m = dby j.desc 24 12 ∧ sl = j.slice ∧ c = 8 ∧ v = 0 ∧ (∃ x ∈ s.others sl, (s.groups x ||| (s.slice x).retGroups) &&& m ≠ 0)) ∧
    (∃ (sr : Nat), ∃ (tag : Nat), ∃ (c : Nat), ∃ (v : Nat), ∃ (m : Nat), ∃ (sl : Nat), ∃ (s : State), ∃ (j : Job), s.sliceNext sr tag 0x89 [(8, 1), (16, 20)] j ∧ c = dby j.desc 8 1 ∧ v = dby j.desc 16 8 ∧ m = dby j.desc 24 12 ∧ sl = j.slice ∧ c = 9 ∧ m = 0 ∧ clearBits v 0x03FF03FF = 0 ∧ fld v 0 10 ≤ 255 ∧ fld v 16 10 ≤ 256 ∧ s.latticeTaken sl (fld v 0 10) (fld v 16 10) = false) ∧
    (∃ (sr : Nat), ∃ (tag : Nat), ∃ (c : Nat), ∃ (v : Nat), ∃ (m : Nat), ∃ (sl : Nat), ∃ (s : State), ∃ (j : Job), s.sliceNext sr tag 0x89 [(8, 1), (16, 20)] j ∧ c = dby j.desc 8 1 ∧ v = dby j.desc 16 8 ∧ m = dby j.desc 24 12 ∧ sl = j.slice ∧ c = 9 ∧ m = 0 ∧ clearBits v 0x03FF03FF = 0 ∧ fld v 0 10 ≤ 255 ∧ fld v 16 10 ≤ 256 ∧ s.latticeTaken sl (fld v 0 10) (fld v 16 10) = true) ∧
    (∃ (sr : Nat), ∃ (tag : Nat), ∃ (c : Nat), ∃ (v : Nat), ∃ (m : Nat), ∃ (sl : Nat), ∃ (s : State), ∃ (j : Job), s.sliceNext sr tag 0x89 [(8, 1), (16, 20)] j ∧ c = dby j.desc 8 1 ∧ v = dby j.desc 16 8 ∧ m = dby j.desc 24 12 ∧ sl = j.slice ∧ c = 10 ∧ m = 0 ∧ clearBits v 0x03FF03FF = 0 ∧ fld v 0 10 ≤ 999 ∧ fld v 16 10 ≤ 750 ∧ fld v 0 10 + fld v 16 10 ≤ 1000 ∧ s.spineTaken sl (fld v 0 10) (fld v 16 10) = false) ∧
    (∃ (sr : Nat), ∃ (tag : Nat), ∃ (c : Nat), ∃ (v : Nat), ∃ (m : Nat), ∃ (sl : Nat), ∃ (s : State), ∃ (j : Job), s.sliceNext sr tag 0x89 [(8, 1), (16, 20)] j ∧ c = dby j.desc 8 1 ∧ v = dby j.desc 16 8 ∧ m = dby j.desc 24 12 ∧ sl = j.slice ∧ c = 10 ∧ m = 0 ∧ clearBits v 0x03FF03FF = 0 ∧ fld v 0 10 ≤ 999 ∧ fld v 16 10 ≤ 750 ∧ fld v 0 10 + fld v 16 10 ≤ 1000 ∧ s.spineTaken sl (fld v 0 10) (fld v 16 10) = true) ∧
    (∃ (sr : Nat), ∃ (tag : Nat), ∃ (c : Nat), ∃ (v : Nat), ∃ (m : Nat), ∃ (sl : Nat), ∃ (s : State), ∃ (j : Job), s.sliceNext sr tag 0x89 [(8, 1), (16, 20)] j ∧ c = dby j.desc 8 1 ∧ v = dby j.desc 16 8 ∧ m = dby j.desc 24 12 ∧ sl = j.slice ∧ c = 11 ∧ m = 0 ∧ 1 ≤ v ∧ v ≤ 255) ∧
    (∃ (sr : Nat), ∃ (tag : Nat), ∃ (c : Nat), ∃ (v : Nat), ∃ (m : Nat), ∃ (sl : Nat), ∃ (s : State), ∃ (j : Job), s.sliceNext sr tag 0x89 [(8, 1), (16, 20)] j ∧ c = dby j.desc 8 1 ∧ v = dby j.desc 16 8 ∧ m = dby j.desc 24 12 ∧ sl = j.slice ∧ c = 12 ∧ m = 0 ∧ v ≤ 65535) ∧
    (∃ (sl : Nat), ∃ (s : State), ∃ (r : Slice), Tbl.find s.slices sl = some r) ∧
    (∃ (sr : Nat), ∃ (tag : Nat), ∃ (a : Nat), ∃ (p : Nat), ∃ (s : State), ∃ (j : Job), s.sliceNext sr tag 0x8A [(8, 1), (12, 4)] j ∧ a = dby j.desc 8 1 ∧ p = dby j.desc 12 4 ∧ p < 2 ^ 20 ∧ a = 0 ∧ Tbl.find s.pasids p = none) ∧
    (∃ (sr : Nat), ∃ (tag : Nat), ∃ (a : Nat), ∃ (p : Nat), ∃ (s : State), ∃ (j : Job), ∃ sl, s.sliceNext sr tag 0x8A [(8, 1), (12, 4)] j ∧ a = dby j.desc 8 1 ∧ p = dby j.desc 12 4 ∧ p < 2 ^ 20 ∧ a = 0 ∧ Tbl.find s.pasids p = some sl) ∧
    (∃ (sr : Nat), ∃ (tag : Nat), ∃ (a : Nat), ∃ (p : Nat), ∃ (s : State), ∃ (j : Job), s.sliceNext sr tag 0x8A [(8, 1), (12, 4)] j ∧ a = dby j.desc 8 1 ∧ p = dby j.desc 12 4 ∧ p < 2 ^ 20 ∧ a = 1 ∧ Tbl.find s.pasids p ≠ some j.slice) ∧
    (∃ (sr : Nat), ∃ (tag : Nat), ∃ (a : Nat), ∃ (p : Nat), ∃ (s : State), ∃ (j : Job), s.sliceNext sr tag 0x8A [(8, 1), (12, 4)] j ∧ a = dby j.desc 8 1 ∧ p = dby j.desc 12 4 ∧ p < 2 ^ 20 ∧ a = 1 ∧ Tbl.find s.pasids p = some j.slice ∧ s.pasidBusy j.slice p = true) ∧
    (∃ (sr : Nat), ∃ (tag : Nat), ∃ (a : Nat), ∃ (p : Nat), ∃ (s : State), ∃ (j : Job), s.sliceNext sr tag 0x8A [(8, 1), (12, 4)] j ∧ a = dby j.desc 8 1 ∧ p = dby j.desc 12 4 ∧ p < 2 ^ 20 ∧ a = 1 ∧ Tbl.find s.pasids p = some j.slice ∧ s.pasidBusy j.slice p = false) ∧
    (∃ (sr : Nat), ∃ (tag : Nat), ∃ (count : Nat), ∃ (mask : Nat), ∃ (fl : Nat), ∃ (s : State), ∃ (j : Job), s.sliceNext sr tag 0x8B [(8, 1), (12, 4), (16, 2)] j ∧ fl = dby j.desc 8 1 ∧ count = dby j.desc 12 4 ∧ mask = dby j.desc 16 2 ∧ fl < 4 ∧ 1 ≤ count ∧ count ≤ 2359296 ∧ mask < 4096 ∧ bitsOf 12 mask ≠ [] ∧ (bit fl 1 = false → (bitsOf 12 mask).length = 1) ∧ s.quotaRoom j.slice 0 count = false) ∧
    (∃ (sr : Nat), ∃ (tag : Nat), ∃ (count : Nat), ∃ (mask : Nat), ∃ (fl : Nat), ∃ (s : State), ∃ (j : Job), ∃ n, ∃ gs, s.sliceNext sr tag 0x8B [(8, 1), (12, 4), (16, 2)] j ∧ fl = dby j.desc 8 1 ∧ count = dby j.desc 12 4 ∧ mask = dby j.desc 16 2 ∧ fl < 4 ∧ 1 ≤ count ∧ count ≤ 2359296 ∧ mask < 4096 ∧ bitsOf 12 mask ≠ [] ∧ (bit fl 1 = false → (bitsOf 12 mask).length = 1) ∧ s.quotaRoom j.slice 0 count = true ∧ lowestFree s.mem.regions 1 65535 = some n ∧ s.pickGranules (bitsOf 12 mask) count = some gs) ∧
    (∃ (sr : Nat), ∃ (tag : Nat), ∃ (count : Nat), ∃ (mask : Nat), ∃ (fl : Nat), ∃ (s : State), ∃ (j : Job), s.sliceNext sr tag 0x8B [(8, 1), (12, 4), (16, 2)] j ∧ fl = dby j.desc 8 1 ∧ count = dby j.desc 12 4 ∧ mask = dby j.desc 16 2 ∧ fl < 4 ∧ 1 ≤ count ∧ count ≤ 2359296 ∧ mask < 4096 ∧ bitsOf 12 mask ≠ [] ∧ (bit fl 1 = false → (bitsOf 12 mask).length = 1) ∧ s.quotaRoom j.slice 0 count = true ∧ s.pickGranules (bitsOf 12 mask) count = none) ∧
    (∃ (sr : Nat), ∃ (tag : Nat), ∃ (h : Nat), ∃ (s : State), ∃ (j : Job), ∃ (r : Region), s.sliceNext sr tag 0x8C [(8, 4)] j ∧ h = dby j.desc 8 4 ∧ s.region h j.slice = some r ∧ (0 < r.refs ∨ s.bound h = true)) ∧
    (∃ (sr : Nat), ∃ (tag : Nat), ∃ (h : Nat), ∃ (s : State), ∃ (j : Job), ∃ (r : Region), s.sliceNext sr tag 0x8C [(8, 4)] j ∧ h = dby j.desc 8 4 ∧ s.region h j.slice = some r ∧ r.refs = 0 ∧ s.bound h = false) ∧
    (∃ (sr : Nat), ∃ (tag : Nat), ∃ (s : State), ∃ (s1 : State), ∃ (j : Job), ∃ (r : Region), s.sliceNext sr tag 0x8D [(8, 4), (16, 9), (28, 4)] j ∧ (dby j.desc 24 1 = 0 ∨ dby j.desc 24 1 = 2) ∧ s.region (dby j.desc 8 4) j.slice = some r ∧ s.writeOperand j (dby j.desc 24 1) (dby j.desc 28 4) (dby j.desc 16 8) r.entry 0 = .ok s1) :=
  ⟨⟨(0), (5), (vc_QuotasAndPasids_0), (vv_QuotasAndPasids_0), (vm_QuotasAndPasids_0), (vsl_QuotasAndPasids_0), (vs_QuotasAndPasids_0), (vj_QuotasAndPasids_0), ⟨ready_of (by decide +kernel), by decide +kernel⟩, by decide +kernel, by decide +kernel, by decide +kernel, by decide +kernel, by decide +kernel, by decide +kernel, by decide +kernel⟩,
   ⟨(0), (5), (vc_QuotasAndPasids_1), (vv_QuotasAndPasids_1), (vm_QuotasAndPasids_1), (vsl_QuotasAndPasids_1), (vs_QuotasAndPasids_1), (vj_QuotasAndPasids_1), ⟨ready_of (by decide +kernel), by decide +kernel⟩, by decide +kernel, by decide +kernel, by decide +kernel, by decide +kernel, by decide +kernel, by decide +kernel⟩,
   ⟨(0), (5), (vc_QuotasAndPasids_2), (vv_QuotasAndPasids_2), (vm_QuotasAndPasids_2), (vsl_QuotasAndPasids_2), (vs_QuotasAndPasids_2), (vj_QuotasAndPasids_2), ⟨ready_of (by decide +kernel), by decide +kernel⟩, by decide +kernel, by decide +kernel, by decide +kernel, by decide +kernel, by decide +kernel, by decide +kernel, by decide +kernel⟩,
   ⟨(0), (5), (vc_QuotasAndPasids_3), (vv_QuotasAndPasids_3), (vm_QuotasAndPasids_3), (vsl_QuotasAndPasids_3), (vs_QuotasAndPasids_3), (vj_QuotasAndPasids_3), ⟨ready_of (by decide +kernel), by decide +kernel⟩, by decide +kernel, by decide +kernel, by decide +kernel, by decide +kernel, by decide +kernel, by decide +kernel, by decide +kernel⟩,
   ⟨(0), (5), (vc_QuotasAndPasids_4), (vv_QuotasAndPasids_4), (vm_QuotasAndPasids_4), (vsl_QuotasAndPasids_4), (vs_QuotasAndPasids_4), (vj_QuotasAndPasids_4), ⟨ready_of (by decide +kernel), by decide +kernel⟩, by decide +kernel, by decide +kernel, by decide +kernel, by decide +kernel, by decide +kernel, by decide +kernel, by decide +kernel, by decide +kernel, by decide +kernel, by decide +kernel⟩,
   ⟨(0), (5), (vc_QuotasAndPasids_5), (vv_QuotasAndPasids_5), (vm_QuotasAndPasids_5), (vsl_QuotasAndPasids_5), (vs_QuotasAndPasids_5), (vj_QuotasAndPasids_5), ⟨ready_of (by decide +kernel), by decide +kernel⟩, by decide +kernel, by decide +kernel, by decide +kernel, by decide +kernel, by decide +kernel, by decide +kernel, by decide +kernel, by decide +kernel, by decide +kernel, by decide +kernel⟩,
   ⟨(0), (5), (vc_QuotasAndPasids_6), (vv_QuotasAndPasids_6), (vm_QuotasAndPasids_6), (vsl_QuotasAndPasids_6), (vs_QuotasAndPasids_6), (vj_QuotasAndPasids_6), ⟨ready_of (by decide +kernel), by decide +kernel⟩, by decide +kernel, by decide +kernel, by decide +kernel, by decide +kernel, by decide +kernel, by decide +kernel, by decide +kernel, by decide +kernel, by decide +kernel, by decide +kernel, by decide +kernel⟩,
   ⟨(0), (5), (vc_QuotasAndPasids_7), (vv_QuotasAndPasids_7), (vm_QuotasAndPasids_7), (vsl_QuotasAndPasids_7), (vs_QuotasAndPasids_7), (vj_QuotasAndPasids_7), ⟨ready_of (by decide +kernel), by decide +kernel⟩, by decide +kernel, by decide +kernel, by decide +kernel, by decide +kernel, by decide +kernel, by decide +kernel, by decide +kernel, by decide +kernel, by decide +kernel, by decide +kernel, by decide +kernel⟩,
   ⟨(0), (5), (vc_QuotasAndPasids_8), (vv_QuotasAndPasids_8), (vm_QuotasAndPasids_8), (vsl_QuotasAndPasids_8), (vs_QuotasAndPasids_8), (vj_QuotasAndPasids_8), ⟨ready_of (by decide +kernel), by decide +kernel⟩, by decide +kernel, by decide +kernel, by decide +kernel, by decide +kernel, by decide +kernel, by decide +kernel, by decide +kernel, by decide +kernel⟩,
   ⟨(0), (5), (vc_QuotasAndPasids_9), (vv_QuotasAndPasids_9), (vm_QuotasAndPasids_9), (vsl_QuotasAndPasids_9), (vs_QuotasAndPasids_9), (vj_QuotasAndPasids_9), ⟨ready_of (by decide +kernel), by decide +kernel⟩, by decide +kernel, by decide +kernel, by decide +kernel, by decide +kernel, by decide +kernel, by decide +kernel, by decide +kernel⟩,
   ⟨(1), (vs_QuotasAndPasids_10), (slA), by decide +kernel⟩,
   ⟨(0), (5), (va_QuotasAndPasids_11), (vp_QuotasAndPasids_11), (vs_QuotasAndPasids_11), (vj_QuotasAndPasids_11), ⟨ready_of (by decide +kernel), by decide +kernel⟩, by decide +kernel, by decide +kernel, by decide +kernel, by decide +kernel, by decide +kernel⟩,
   ⟨(0), (5), (va_QuotasAndPasids_12), (vp_QuotasAndPasids_12), (vs_QuotasAndPasids_12), (vj_QuotasAndPasids_12), (0), ⟨ready_of (by decide +kernel), by decide +kernel⟩, by decide +kernel, by decide +kernel, by decide +kernel, by decide +kernel, by decide +kernel⟩,
   ⟨(0), (5), (va_QuotasAndPasids_13), (vp_QuotasAndPasids_13), (vs_QuotasAndPasids_13), (vj_QuotasAndPasids_13), ⟨ready_of (by decide +kernel), by decide +kernel⟩, by decide +kernel, by decide +kernel, by decide +kernel, by decide +kernel, by decide +kernel⟩,
   ⟨(0), (5), (va_QuotasAndPasids_14), (vp_QuotasAndPasids_14), (vs_QuotasAndPasids_14), (vj_QuotasAndPasids_14), ⟨ready_of (by decide +kernel), by decide +kernel⟩, by decide +kernel, by decide +kernel, by decide +kernel, by decide +kernel, by decide +kernel, by decide +kernel⟩,
   ⟨(0), (5), (va_QuotasAndPasids_15), (vp_QuotasAndPasids_15), (vs_QuotasAndPasids_15), (vj_QuotasAndPasids_15), ⟨ready_of (by decide +kernel), by decide +kernel⟩, by decide +kernel, by decide +kernel, by decide +kernel, by decide +kernel, by decide +kernel, by decide +kernel⟩,
   ⟨(0), (5), (vcount_Regions_0), (vmask_Regions_0), (vfl_Regions_0), (vs_Regions_0), (vj_Regions_0), ⟨ready_of (by decide +kernel), by decide +kernel⟩, by decide +kernel, by decide +kernel, by decide +kernel, by decide +kernel, by decide +kernel, by decide +kernel, by decide +kernel, by decide +kernel, by decide +kernel, by decide +kernel⟩,
   ⟨(0), (5), (vcount_Regions_1), (vmask_Regions_1), (vfl_Regions_1), (vs_Regions_1), (vj_Regions_1), (4), ((vs_Regions_1.pickGranules (bitsOf 12 vmask_Regions_1) vcount_Regions_1).get (by decide +kernel)), ⟨ready_of (by decide +kernel), by decide +kernel⟩, by decide +kernel, by decide +kernel, by decide +kernel, by decide +kernel, by decide +kernel, by decide +kernel, by decide +kernel, by decide +kernel, by decide +kernel, by decide +kernel, by decide +kernel, by decide +kernel⟩,
   ⟨(0), (5), (vcount_Regions_2), (vmask_Regions_2), (vfl_Regions_2), (vs_Regions_2), (vj_Regions_2), ⟨ready_of (by decide +kernel), by decide +kernel⟩, by decide +kernel, by decide +kernel, by decide +kernel, by decide +kernel, by decide +kernel, by decide +kernel, by decide +kernel, by decide +kernel, by decide +kernel, by decide +kernel, by decide +kernel⟩,
   ⟨(0), (5), (vh_Regions_3), (vs_Regions_3), (vj_Regions_3), (vr_Regions_3), ⟨ready_of (by decide +kernel), by decide +kernel⟩, by decide +kernel, by decide +kernel, by decide +kernel⟩,
   ⟨(0), (5), (vh_Regions_4), (vs_Regions_4), (vj_Regions_4), (vr_Regions_4), ⟨ready_of (by decide +kernel), by decide +kernel⟩, by decide +kernel, by decide +kernel, by decide +kernel, by decide +kernel⟩,
   ⟨(0), (5), (vs_Regions_5), (vs1_Regions_5), (vj_Regions_5), (vr_Regions_5), ⟨ready_of (by decide +kernel), by decide +kernel⟩, by decide +kernel, by decide +kernel, wio_ok _ (by decide +kernel)⟩⟩

def vs_WindowAccesses_0 : State := setRegs (full) [(R.PCI_WINDOW 3, 0x100000000000000010000001000100000107)]
def vs_WindowAccesses_1 : State := setRegs (full) [(R.PCI_WINDOW 3, 0x100000000000000010000001000100000107)]
def vs_WindowAccesses_2 : State := setRegs (full) [(R.PCI_WINDOW 3, 0x100000000000000010000001000100000107)]
def vs_WindowAccesses_3 : State := { setRegs (full) [(R.PCI_WINDOW 3, 0x100000000000000010000001000100000107)] with clk := { full.clk with dieResets := [1] } }
def vs_WindowAccesses_4 : State := setRegs (full) [(R.PCI_WINDOW 3, 0x100000000000000010000001000100000107)]
def vs_WindowAccesses_5 : State := setRegs (full) [(R.PCI_WINDOW 3, 0x10000000000000000000000000070000010f), (R.LAT_CELL_STATE 7, 1 + 256)]
def vs_WindowAccesses_6 : State := setRegs (full) [(R.PCI_WINDOW 3, 0x10000000008004000000000000000000000013)]
def vdata_WindowAccesses_7 : List Byte := [1, 2, 3, 4, 5, 6]
def vs_WindowAccesses_7 : State := setRegs (full) [(R.PCI_WINDOW 3, 0x100000000000000010000001000100000103)]
def vdata_WindowAccesses_8 : List Byte := [1, 2, 3, 4, 5, 6]
def vs_WindowAccesses_8 : State := setRegs (full) [(R.PCI_WINDOW 3, 0x100000000000000010000001000100000107)]
def vdata_WindowAccesses_9 : List Byte := [1, 2, 3, 4, 5, 6]
def vs_WindowAccesses_9 : State := setRegs (full) [(R.PCI_WINDOW 3, 0x10000000000000000000000000070000010f), (R.LAT_CELL_STATE 7, 1 + 256)]
def vs_WindowAccesses_10 : State := setRegs (full) [(R.PCI_WINDOW 3, 0x100000000000000010000001000100000107)]
def vs_WindowAccesses_11 : State := setRegs (full) [(R.PCI_WINDOW 3, 0x100000000000000010000001000100000107)]
def vdata_HostReadsAndMessages_0 : List Byte := [9, 8, 7, 6, 5, 4, 3, 2]
def vdata_HostReadsAndMessages_1 : List Byte := [9, 8, 7, 6, 5, 4, 3, 2]
def vr_HostReadsAndMessages_1 : HostRead := (HostRead.mk 0 0x5000 8 (.job 0 5) 64 false 0 900000000)
def vj_HostReadsAndMessages_1 : Job := { jb 0 5 1 (D [(0, 1)]) with phase := .reading }
def vg_HostReadsAndMessages_1 : Gather := (Gather.mk 0 5 0 8 0 (zeroBytes 100) 1)
def vs_HostReadsAndMessages_1 : State := { fjobs [vj_HostReadsAndMessages_1] with pcie := { full.pcie with cplTime := some 50000000, reads := [(300, vr_HostReadsAndMessages_1), (301, (HostRead.mk 0 0x5000 64 (.ring 0 3) 0 false 0 900000000))], gathers := [vg_HostReadsAndMessages_1] } }
def vdata_HostReadsAndMessages_2 : List Byte := [9, 8, 7, 6, 5, 4, 3, 2]
def vr_HostReadsAndMessages_2 : HostRead := (HostRead.mk 0 0x5000 8 (.job 0 5) 64 false 0 900000000)
def vj_HostReadsAndMessages_2 : Job := { jb 0 5 1 (D [(0, 1)]) with phase := .reading }
def vs_HostReadsAndMessages_2 : State := { fjobs [vj_HostReadsAndMessages_2] with pcie := { full.pcie with cplTime := some 50000000, reads := [(300, vr_HostReadsAndMessages_2), (301, (HostRead.mk 0 0x5000 64 (.ring 0 3) 0 false 0 900000000))], gathers := [] } }
def vr_HostReadsAndMessages_3 : HostRead := (HostRead.mk 0 0x5000 8 (.job 0 5) 64 false 0 900000000)
def vj_HostReadsAndMessages_3 : Job := { jb 0 5 1 (D [(0, 1)]) with phase := .reading }
def vs_HostReadsAndMessages_3 : State := { fjobs [vj_HostReadsAndMessages_3] with pcie := { full.pcie with cplTime := some 200000000, reads := [(300, vr_HostReadsAndMessages_3), (301, (HostRead.mk 0 0x5000 64 (.ring 0 3) 0 false 0 900000000))], gathers := [] } }
def vr_HostReadsAndMessages_4 : HostRead := (HostRead.mk 0 0x5000 8 (.job 0 5) 64 false 0 900000000)
def vj_HostReadsAndMessages_4 : Job := { jb 0 5 1 (D [(0, 1)]) with phase := .reading }
def vs_HostReadsAndMessages_4 : State := { fjobs [vj_HostReadsAndMessages_4] with pcie := { full.pcie with cplTime := none, reads := [(300, vr_HostReadsAndMessages_4), (301, (HostRead.mk 0 0x5000 64 (.ring 0 3) 0 false 0 900000000))], gathers := [] } }
def vr_HostReadsAndMessages_5 : HostRead := (HostRead.mk 0 0x5000 8 (.job 0 5) 64 false 0 900000000)
def vj_HostReadsAndMessages_5 : Job := { jb 0 5 1 (D [(0, 1)]) with phase := .reading }
def vs_HostReadsAndMessages_5 : State := { fjobs [vj_HostReadsAndMessages_5] with pcie := { full.pcie with cplTime := some 50000000, reads := [(300, vr_HostReadsAndMessages_5), (301, (HostRead.mk 0 0x5000 64 (.ring 0 3) 0 false 0 900000000))], gathers := [] } }
def vs_HostReadsAndMessages_8 : State := setRegs (full) [(R.PCI_PBA 1, 0x55), (R.PCI_MSIX 70, 2^96 + 77)]
def vs_HostReadsAndMessages_9 : State := { full with pcie := { full.pcie with fnMask0 := true } }
theorem witness_WindowsAndHostReads :
    (∃ (fn : Nat), ∃ (a : Nat), ∃ (n : Nat), ∃ (rd : Bool), ∃ (s : State), s.pcie.perst = false ∧ s.pcie.linkUp = true ∧ s.barOk (min fn 1) = true ∧ (n = 4 ∨ n = 8) ∧ a % n = 0) ∧
    (∃ (fn : Nat), ∃ (a : Nat), ∃ (n : Nat), ∃ (rd : Bool), ∃ (s : State), s.pcie.perst = false ∧ s.pcie.linkUp = true ∧ s.barOk (min fn 1) = true ∧ (¬((n = 4 ∨ n = 8) ∧ a % n = 0))) ∧
    (∃ (w : Nat), ∃ (off : Nat), ∃ (n : Nat), ∃ (s : State), w < 4096 ∧ s.barOk 0 = true ∧ s.pcie.held = [] ∧ s.winCheck (s.rd (R.PCI_WINDOW w)) off n false = none) ∧
    (∃ (w : Nat), ∃ (off : Nat), ∃ (n : Nat), ∃ (s : State), ∃ r, ∃ h, ∃ a, w < 4096 ∧ s.barOk 0 = true ∧ s.pcie.held = [] ∧ s.hostBlocked = false ∧ s.winCheck (s.rd (R.PCI_WINDOW w)) off n false = some (.region r h a) ∧ s.regionWaits r a n = true) ∧
    (∃ (w : Nat), ∃ (off : Nat), ∃ (n : Nat), ∃ (s : State), ∃ r, ∃ h, ∃ a, ∃ s1, ∃ bs, w < 4096 ∧ s.barOk 0 = true ∧ s.pcie.held = [] ∧ s.hostBlocked = false ∧ s.winCheck (s.rd (R.PCI_WINDOW w)) off n false = some (.region r h a) ∧ s.regionWaits r a n = false ∧ s.readRegion r a n = .ok s1 bs) ∧
    (∃ (w : Nat), ∃ (off : Nat), ∃ (n : Nat), ∃ (s : State), ∃ c, ∃ a, ∃ s1, ∃ bs, w < 4096 ∧ s.barOk 0 = true ∧ s.pcie.held = [] ∧ s.hostBlocked = false ∧ s.winCheck (s.rd (R.PCI_WINDOW w)) off n false = some (.cell c a) ∧ s.cellWaits c = false ∧ s.readDpa (cellDpa c a) n = .ok s1 bs) ∧
    (∃ (w : Nat), ∃ (off : Nat), ∃ (n : Nat), ∃ (s : State), ∃ a, w < 4096 ∧ s.barOk 0 = true ∧ s.pcie.held = [] ∧ s.hostBlocked = false ∧ s.winCheck (s.rd (R.PCI_WINDOW w)) off n false = some (.regs a)) ∧
    (∃ (w : Nat), ∃ (off : Nat), ∃ (data : List Byte), ∃ (s : State), w < 4096 ∧ s.barOk 0 = true ∧ s.pcie.held = [] ∧ s.winCheck (s.rd (R.PCI_WINDOW w)) off data.length true = none) ∧
    (∃ (w : Nat), ∃ (off : Nat), ∃ (data : List Byte), ∃ (s : State), ∃ r, ∃ h, ∃ a, w < 4096 ∧ s.barOk 0 = true ∧ s.pcie.held = [] ∧ s.hostBlocked = false ∧ s.winCheck (s.rd (R.PCI_WINDOW w)) off data.length true = some (.region r h a) ∧ s.regionWaits r a data.length = false) ∧
    (∃ (w : Nat), ∃ (off : Nat), ∃ (data : List Byte), ∃ (s : State), ∃ c, ∃ a, w < 4096 ∧ s.barOk 0 = true ∧ s.pcie.held = [] ∧ s.hostBlocked = false ∧ s.winCheck (s.rd (R.PCI_WINDOW w)) off data.length true = some (.cell c a) ∧ s.cellWaits c = false) ∧
    (∃ (e : Nat), ∃ (w : Nat), ∃ (n : Nat), ∃ (wr : Bool), ∃ (s : State), (bit e 0 = false ∨ bit e (if wr then 2 else 1) = false ∨ fld e 128 32 < w + n)) ∧
    (∃ (seq : Nat), ∃ (s : State), s.barOk 0 = true ∧ s.hostBlocked = false ∧ s.pcie.held = [] ∧ s.pcie.syncWait = []) ∧
    (∃ (fn : Nat), ∃ (tag : Nat), ∃ (status : Nat), ∃ (data : List Byte), ∃ (s : State), Tbl.find s.pcie.reads tag = none) ∧
    (∃ (fn : Nat), ∃ (tag : Nat), ∃ (sr : Nat), ∃ (jt : Nat), ∃ (data : List Byte), ∃ (s : State), ∃ (r : HostRead), ∃ (j : Job), ∃ (g : Gather), Tbl.find s.pcie.reads tag = some r ∧ r.fn = fn ∧ r.discard = false ∧ data.length = r.len ∧ s.pcie.readWait = [] ∧ r.what = .job sr jt ∧ sr < 65536 ∧ s.pcie.gathers = [g] ∧ g.sr = sr ∧ g.tag = jt ∧ s.job sr jt = some j ∧ j.phase = .reading) ∧
    (∃ (fn : Nat), ∃ (tag : Nat), ∃ (status : Nat), ∃ (sr : Nat), ∃ (jt : Nat), ∃ (data : List Byte), ∃ (s : State), ∃ (r : HostRead), ∃ (j : Job), Tbl.find s.pcie.reads tag = some r ∧ r.fn = fn ∧ r.discard = false ∧ status ∈ [1, 2, 4] ∧ r.what = .job sr jt ∧ sr < 65536 ∧ s.job sr jt = some j ∧ ¬(0x30 ≤ dOpcode j.desc ∧ dOpcode j.desc ≤ 0x36) ∧ s.pcie.readWait = [] ∧ s.allLanded sr jt) ∧
    (∃ (tag : Nat), ∃ (sr : Nat), ∃ (jt : Nat), ∃ (s : State), ∃ (r : HostRead), ∃ (j : Job), ∃ lim, Tbl.find s.pcie.reads tag = some r ∧ r.discard = false ∧ r.what = .job sr jt ∧ sr < 65536 ∧ s.job sr jt = some j ∧ ¬(0x30 ≤ dOpcode j.desc ∧ dOpcode j.desc ≤ 0x36) ∧ s.pcie.readWait = [] ∧ s.allLanded sr jt ∧ s.pcie.cplTime = some lim ∧ s.timeNs < r.since + lim) ∧
    (∃ (tag : Nat), ∃ (sr : Nat), ∃ (jt : Nat), ∃ (s : State), ∃ (r : HostRead), ∃ (j : Job), Tbl.find s.pcie.reads tag = some r ∧ r.discard = false ∧ r.what = .job sr jt ∧ sr < 65536 ∧ s.job sr jt = some j ∧ ¬(0x30 ≤ dOpcode j.desc ∧ dOpcode j.desc ≤ 0x36) ∧ s.pcie.readWait = [] ∧ s.allLanded sr jt ∧ s.pcie.cplTime = none) ∧
    (∃ (tag : Nat), ∃ (sr : Nat), ∃ (jt : Nat), ∃ (s : State), ∃ (r : HostRead), ∃ (j : Job), ∃ lim, Tbl.find s.pcie.reads tag = some r ∧ r.discard = false ∧ r.what = .job sr jt ∧ sr < 65536 ∧ s.job sr jt = some j ∧ ¬(0x30 ≤ dOpcode j.desc ∧ dOpcode j.desc ≤ 0x36) ∧ s.pcie.readWait = [] ∧ s.allLanded sr jt ∧ s.pcie.cplTime = some lim ∧ r.since + lim ≤ s.timeNs) ∧
    (∃ (v : Nat), ∃ (s : State), v < 2048 ∧ s.pcie.fnMask0 = false ∧ s.dmaOk 0 = true) ∧
    (∃ (v : Nat), ∃ (s : State), 2048 ≤ v ∧ (∀ w, w < 2048 → s.rf (pbaWord 0 w) (w % 64) 1 = 0)) :=
  ⟨⟨(0), (8), (8), (true), (vs_WindowAccesses_0), by decide +kernel, by decide +kernel, by decide +kernel, by decide +kernel, by decide +kernel⟩,
   ⟨(1), (4), (8), (true), (vs_WindowAccesses_1), by decide +kernel, by decide +kernel, by decide +kernel, by decide +kernel⟩,
   ⟨(3), (4093), (4), (vs_WindowAccesses_2), by decide +kernel, by decide +kernel, by decide +kernel, by decide +kernel⟩,
   ⟨(3), (64), (4), (vs_WindowAccesses_3), (rgA 1 5), (0x10001), (4160), by decide +kernel, by decide +kernel, by decide +kernel, by decide +kernel, by decide +kernel, by decide +kernel⟩,
   ⟨(3), (64), (4), (vs_WindowAccesses_4), (rgA 1 5), (0x10001), (4160), (resSt (vs_WindowAccesses_4.readRegion (rgA 1 5) 4160 4)), (resVal (vs_WindowAccesses_4.readRegion (rgA 1 5) 4160 4)), by decide +kernel, by decide +kernel, by decide +kernel, by decide +kernel, by decide +kernel, by decide +kernel, res_ok _ (by decide +kernel)⟩,
   ⟨(3), (64), (4), (vs_WindowAccesses_5), (7), (64), (resSt (vs_WindowAccesses_5.readDpa (cellDpa 7 64) 4)), (resVal (vs_WindowAccesses_5.readDpa (cellDpa 7 64) 4)), by decide +kernel, by decide +kernel, by decide +kernel, by decide +kernel, by decide +kernel, by decide +kernel, res_ok _ (by decide +kernel)⟩,
   ⟨(3), (0x208), (12), (vs_WindowAccesses_6), (0x208), by decide +kernel, by decide +kernel, by decide +kernel, by decide +kernel, by decide +kernel⟩,
   ⟨(3), (64), (vdata_WindowAccesses_7), (vs_WindowAccesses_7), by decide +kernel, by decide +kernel, by decide +kernel, by decide +kernel⟩,
   ⟨(3), (64), (vdata_WindowAccesses_8), (vs_WindowAccesses_8), (rgA 1 5), (0x10001), (4160), by decide +kernel, by decide +kernel, by decide +kernel, by decide +kernel, by decide +kernel, by decide +kernel⟩,
   ⟨(3), (64), (vdata_WindowAccesses_9), (vs_WindowAccesses_9), (7), (64), by decide +kernel, by decide +kernel, by decide +kernel, by decide +kernel, by decide +kernel, by decide +kernel⟩,
   ⟨(6), (0), (4), (true), (vs_WindowAccesses_10), .inl (by decide)⟩,
   ⟨(70000), (vs_WindowAccesses_11), by decide +kernel, by decide +kernel, by decide +kernel, by decide +kernel⟩,
   ⟨(5), (300), (0), (vdata_HostReadsAndMessages_0), (full), by decide +kernel⟩,
   ⟨(0), (300), (0), (5), (vdata_HostReadsAndMessages_1), (vs_HostReadsAndMessages_1), (vr_HostReadsAndMessages_1), (vj_HostReadsAndMessages_1), (vg_HostReadsAndMessages_1), by decide +kernel, by decide +kernel, by decide +kernel, by decide +kernel, by decide +kernel, by decide +kernel, by decide +kernel, by decide +kernel, by decide +kernel, by decide +kernel, by decide +kernel, by decide +kernel⟩,
   ⟨(0), (300), (2), (0), (5), (vdata_HostReadsAndMessages_2), (vs_HostReadsAndMessages_2), (vr_HostReadsAndMessages_2), (vj_HostReadsAndMessages_2), by decide +kernel, by decide +kernel, by decide +kernel, by decide +kernel, by decide +kernel, by decide +kernel, by decide +kernel, by decide +kernel, by decide +kernel, landed_of (by decide +kernel)⟩,
   ⟨(300), (0), (5), (vs_HostReadsAndMessages_3), (vr_HostReadsAndMessages_3), (vj_HostReadsAndMessages_3), (200000000), by decide +kernel, by decide +kernel, by decide +kernel, by decide +kernel, by decide +kernel, by decide +kernel, by decide +kernel, landed_of (by decide +kernel), by decide +kernel, by decide +kernel⟩,
   ⟨(300), (0), (5), (vs_HostReadsAndMessages_4), (vr_HostReadsAndMessages_4), (vj_HostReadsAndMessages_4), by decide +kernel, by decide +kernel, by decide +kernel, by decide +kernel, by decide +kernel, by decide +kernel, by decide +kernel, landed_of (by decide +kernel), by decide +kernel⟩,
   ⟨(300), (0), (5), (vs_HostReadsAndMessages_5), (vr_HostReadsAndMessages_5), (vj_HostReadsAndMessages_5), (50000000), by decide +kernel, by decide +kernel, by decide +kernel, by decide +kernel, by decide +kernel, by decide +kernel, by decide +kernel, landed_of (by decide +kernel), by decide +kernel, by decide +kernel⟩,
   ⟨(70), (vs_HostReadsAndMessages_8), by decide +kernel, by decide +kernel, by decide +kernel⟩,
   ⟨(2048), (vs_HostReadsAndMessages_9), by decide +kernel, pba_clear (by decide +kernel)⟩⟩

def vs_EndpointStates_0 : State := { { fjobs [jb 0 5 1 0] with pcie := { full.pcie with cplTime := some 50000000, reads := [(300, (HostRead.mk 0 0x5000 8 (.job 0 5) 64 false 0 0)), (301, (HostRead.mk 0 0x5000 64 (.ring 0 3) 0 false 0 900000000))], gathers := [] } } with ring := { full.ring with jobs := [jb 0 5 1 (D [(0, 1)])] } }
def vs_EndpointStates_1 : State := setRegs (full) [(R.PCI_STATUS, 0)]
def vs_EndpointStates_2 : State := setRegs (full) [(R.PCI_STATUS, 3 * 128)]
def vs_EndpointStates_3 : State := setRegs (full) [(R.PCI_STATUS, 3 * 512)]
def vs_EndpointStates_4 : State := setRegs (full) [(R.PCI_STATUS, 0)]
def vs_EndpointStates_6 : State := { { full with pcie := { full.pcie with flr0 := true, retry0 := true } } with regs := (R.PCI_WINDOW 9, 0x100000000000000010000001000100000107) :: full.regs }
def vs_EndpointStates_7 : State := { full with pcie := { full.pcie with flr1 := true } }
def vs_EndpointStates_9 : State := { full with pcie := { full.pcie with flr1 := true, flrAt1 := 999999999 } }
def vs_EndpointStates_11 : State := setRegs (full) [(R.PCI_STATUS, 0x1800 + 3 * 128 + 3 * 512)]
def vs_EndpointStates_12 : State := setRegs ({ full with pcie := { full.pcie with perst := true, linkUp := false } }) [(R.CLK_STATUS, 1)]
def vs_EndpointStates_13 : State := setRegs (full) [(R.CLK_STATUS, 1)]
def vs_EndpointStates_14 : State := setRegs (full) [(R.CTL_ADMIN_STATUS, 4)]
def vs_EndpointStates_17 : State := setRegs (full) [(R.PCI_STATUS, 3 * 128)]
def vs_EndpointStates_20 : State := setRegs (full) [(R.PCI_STATUS, 4), (R.PCI_PM, 2^19 + 2 * 2^16)]
def vs_EndpointStates_21 : State := setRegs ({ full with pcie := { full.pcie with negWidth := 4 } }) [(R.PCI_STATUS, 2), (R.PCI_PM, 2^19)]
theorem witness_EndpointStates :
    (∃ (fn : Nat), ∃ (s : State), fn < 2 ∧ s.bme fn = true) ∧
    (∃ (fn : Nat), ∃ (s : State), s.bme (min fn 1) = false) ∧
    (∃ (opts : Nat), ∃ (prg : Nat), ∃ (s : State), s.pcie.perst = false ∧ s.pcie.linkUp = true ∧ s.barOk 0 = false) ∧
    (∃ (opts : Nat), ∃ (prg : Nat), ∃ (s : State), s.pcie.perst = false ∧ s.pcie.linkUp = true ∧ s.barOk 1 = false) ∧
    (∃ (prg : Nat), ∃ (s : State), s.barOk 0 = true ∧ s.bme 0 = false ∧ s.ring.unwritten = [] ∧ s.ring.events = [] ∧ (∀ v, v < 2048 → s.rf (pbaWord 0 v) (v % 64) 1 = 0)) ∧
    (∃ (fn : Nat), ∃ (s : State), fn < 2 ∧ s.pcie.perst = false ∧ s.pcie.linkUp = true ∧ s.pcie.flr0 = false ∧ s.pcie.flr1 = false) ∧
    (∃ (s : State), s.pcie.flr0 = true ∧ s.pcie.flrAt0 + 100000000 ≤ s.timeNs) ∧
    (∃ (s : State), s.pcie.flr1 = true ∧ s.pcie.flrAt1 + 100000000 ≤ s.timeNs) ∧
    (∃ (fn : Nat), ∃ (s : State), fn < 2 ∧ (if fn = 0 then s.pcie.flr0 else s.pcie.flr1) = false) ∧
    (∃ (fn : Nat), ∃ (s : State), fn < 2 ∧ s.timeNs < (if fn = 0 then s.pcie.flrAt0 else s.pcie.flrAt1) + 100000000) ∧
    (∃ (s : State), s.pcie.perst = false ∧ s.dev = .run ∧ ¬(s.rf R.PCI_STATUS 7 2 = 3 ∧ s.rf R.PCI_STATUS 9 2 = 3)) ∧
    (∃ (s : State), s.pcie.perst = false ∧ s.dev = .run ∧ s.rf R.PCI_STATUS 7 2 = 3 ∧ s.rf R.PCI_STATUS 9 2 = 3) ∧
    (∃ (w : Nat), ∃ (x : Nat), ∃ (f : Bool), ∃ (s : State), w ≤ 4 ∧ 1 ≤ x ∧ x ≤ 6 ∧ s.clk.linksUp = true ∧ s.rf R.CLK_STATUS 0 1 = 1 ∧ s.pcie.perst = true) ∧
    (∃ (w : Nat), ∃ (x : Nat), ∃ (f : Bool), ∃ (s : State), w ≤ 4 ∧ 1 ≤ x ∧ x ≤ 6 ∧ s.clk.linksUp = true ∧ s.rf R.CLK_STATUS 0 1 = 1 ∧ s.pcie.perst = false ∧ s.pcie.linkUp = true) ∧
    (∃ (s : State), s.pcie.perst = false ∧ s.pcie.linkUp = true ∧ s.rf R.CTL_ADMIN_STATUS 2 1 = 1 ∧ s.pcie.perstAt + 100000000 ≤ s.timeNs) ∧
    (∃ (s : State), s.pcie.perst = false ∧ s.pcie.linkUp = true ∧ (s.rf R.CTL_ADMIN_STATUS 2 1 = 0 ∨ s.timeNs < s.pcie.perstAt + 100000000)) ∧
    (∃ (fn : Nat), ∃ (s : State), fn < 2 ∧ s.pcie.linkUp = true ∧ s.rf R.PCI_STATUS (7 + 2 * fn) 2 = 0) ∧
    (∃ (fn : Nat), ∃ (s : State), fn < 2 ∧ s.rf R.PCI_STATUS (7 + 2 * fn) 2 = 3 ∧ s.bme fn = false) ∧
    (∃ (sub : Nat), ∃ (s : State), s.pcie.linkUp = true ∧ s.pcie.link = .l0 ∧ s.pcie.reads = []) ∧
    (∃ (s : State), s.pcie.linkUp = true ∧ s.rf R.PCI_PM 19 1 = 1 ∧ min 4 (s.rf R.PCI_PM 16 3) < s.rf R.PCI_STATUS 0 3) ∧
    (∃ (s : State), s.pcie.linkUp = true ∧ s.rf R.PCI_PM 19 1 = 1 ∧ s.rf R.PCI_STATUS 0 3 < s.pcie.negWidth ∧ s.pcie.negWidth ≤ 4) :=
  ⟨⟨(0), (vs_EndpointStates_0), by decide +kernel, by decide +kernel⟩,
   ⟨(7), (vs_EndpointStates_1), by decide +kernel⟩,
   ⟨(15), (600), (vs_EndpointStates_2), by decide +kernel, by decide +kernel, by decide +kernel⟩,
   ⟨(15), (600), (vs_EndpointStates_3), by decide +kernel, by decide +kernel, by decide +kernel⟩,
   ⟨(600), (vs_EndpointStates_4), by decide +kernel, by decide +kernel, by decide +kernel, by decide +kernel, pba_clear (by decide +kernel)⟩,
   ⟨(1), (full), by decide +kernel, by decide +kernel, by decide +kernel, by decide +kernel, by decide +kernel⟩,
   ⟨(vs_EndpointStates_6), by decide +kernel, by decide +kernel⟩,
   ⟨(vs_EndpointStates_7), by decide +kernel, by decide +kernel⟩,
   ⟨(1), (full), by decide +kernel, by decide +kernel⟩,
   ⟨(1), (vs_EndpointStates_9), by decide +kernel, by decide +kernel⟩,
   ⟨(full), by decide +kernel, by decide +kernel, by decide +kernel⟩,
   ⟨(vs_EndpointStates_11), by decide +kernel, by decide +kernel, by decide +kernel, by decide +kernel⟩,
   ⟨(4), (6), (false), (vs_EndpointStates_12), by decide +kernel, by decide +kernel, by decide +kernel, by decide +kernel, by decide +kernel, by decide +kernel⟩,
   ⟨(4), (6), (false), (vs_EndpointStates_13), by decide +kernel, by decide +kernel, by decide +kernel, by decide +kernel, by decide +kernel, by decide +kernel, by decide +kernel⟩,
   ⟨(vs_EndpointStates_14), by decide +kernel, by decide +kernel, by decide +kernel, by decide +kernel⟩,
   ⟨(full), by decide +kernel, by decide +kernel, by decide +kernel⟩,
   ⟨(0), (full), by decide +kernel, by decide +kernel, by decide +kernel⟩,
   ⟨(0), (vs_EndpointStates_17), by decide +kernel, by decide +kernel, by decide +kernel⟩,
   ⟨(2), (full), by decide +kernel, by decide +kernel, by decide +kernel⟩,
   ⟨(vs_EndpointStates_20), by decide +kernel, by decide +kernel, by decide +kernel⟩,
   ⟨(vs_EndpointStates_21), by decide +kernel, by decide +kernel, by decide +kernel, by decide +kernel⟩⟩

def vs_ControlCores_0 : State := { { full with fw := { full.fw with crashTimes := [(7, [])], wdog := [(7, 5)] } } with timeNs := 5 + 10^7 }
def vs_ControlCores_1 : State := { { full with fw := { full.fw with crashTimes := [(7, [])], wdog := [(7, 5)] } } with timeNs := 4 + 10^7 }
def vs_ControlCores_2 : State := { full with fw := { full.fw with crashTimes := [(7, [10^9 - 5])], wdog := [(7, 5)] } }
def vs_ControlCores_3 : State := { { full with fw := { full.fw with crashTimes := [(7, [10^9 - 5, 7])], wdog := [(7, 5)] } } with ring := { full.ring with srs := [(3, { sr0 with slice := 1 })] }, timeNs := 10^9 }
def vs_ControlCores_4 : State := { full with fw := { full.fw with crashTimes := [(2, [10^9 - 5, 7])], wdog := [(2, 5)] } }
def vs_ControlCores_5 : State := setRegs ({ full with fw := { full.fw with crashTimes := [(1, [10^9 - 5, 7])], wdog := [(1, 5)] } }) [(R.TLN_STATUS, 2)]
def vs_ControlCores_6 : State := { full with fw := { full.fw with crashTimes := [(0, [10^9 - 5, 7])], wdog := [(0, 5)] } }
def vs_ControlCores_7 : State := { fjobs [(jb 0 5 0 (D [(0, 0x62)]))] with fw := { full.fw with crashTimes := [(3, [10^9 - 5, 7])], wdog := [(3, 5)] } }
def vs_ControlCores_8 : State := setRegs (full) [(R.FWC_CORE_STATUS 7, 2)]
def vs_ControlCores_9 : State := { setRegs (full) [(R.FWC_CORE_STATUS 7, 2)] with seqs := [(1543, { Seq.fresh with pc := 64, cs := 5, pend := [(3, 4)] })], mem := { full.mem with bytes := [(5, 6), (memBase 1543 + 5, 9), (memBase 1543 + 0x40000, 7)] } }
def vj_ControlCores_10 : Job := jb 0 5 0 (D [(0, 0x8F), (8, 0), (12, 15)])
def vs_ControlCores_10 : State := fjobs [vj_ControlCores_10]
def vj_ControlCores_11 : Job := jb 0 5 0 (D [(0, 0x8F), (8, 1), (12, 4)])
def vs_ControlCores_11 : State := { setRegs (fjobs [vj_ControlCores_11]) [(R.FWC_CORE_STATUS 4, 15)] with fw := { full.fw with crashTimes := [(4, [7, 8, 9])] } }
def vj_ControlCores_12 : Job := jb 0 5 0 (D [(0, 0x8F), (8, 0), (12, 3)])
def vs_ControlCores_12 : State := fjobs [vj_ControlCores_12]
theorem witness_ControlCores :
    (∃ (k : Nat), ∃ (s : State), k < 16 ∧ s.coreState k = 1 ∧ Tbl.get s.fw.wdog k 0 + 10 ^ 7 ≤ s.timeNs) ∧
    (∃ (k : Nat), ∃ (s : State), k < 16 ∧ s.coreState k = 1 ∧ s.timeNs < Tbl.get s.fw.wdog k 0 + 10 ^ 7) ∧
    (∃ (k : Nat), ∃ (c : Nat), ∃ (n : Nat), ∃ (s : State), k < 16 ∧ s.coreState k = 1 ∧ (n = ((Tbl.get s.fw.crashTimes k []).filter (fun t => s.timeNs < t + minuteNs)).length) ∧ n < 2) ∧
    (∃ (k : Nat), ∃ (c : Nat), ∃ (n : Nat), ∃ (s : State), k < 16 ∧ s.coreState k = 1 ∧ (n = ((Tbl.get s.fw.crashTimes k []).filter (fun t => s.timeNs < t + minuteNs)).length) ∧ 2 ≤ n ∧ 4 ≤ k ∧ s.pipes.tab = [] ∧ s.colls.plans = [] ∧ s.tmt.qps = [] ∧ s.ring.jobs = []) ∧
    (∃ (k : Nat), ∃ (c : Nat), ∃ (n : Nat), ∃ (s : State), k < 16 ∧ s.coreState k = 1 ∧ (n = ((Tbl.get s.fw.crashTimes k []).filter (fun t => s.timeNs < t + minuteNs)).length) ∧ 2 ≤ n ∧ k = 2 ∧ s.ring.jobs = []) ∧
    (∃ (k : Nat), ∃ (c : Nat), ∃ (n : Nat), ∃ (s : State), k < 16 ∧ s.coreState k = 1 ∧ (n = ((Tbl.get s.fw.crashTimes k []).filter (fun t => s.timeNs < t + minuteNs)).length) ∧ 2 ≤ n ∧ k = 1 ∧ s.rf R.TLN_STATUS 0 2 = 2) ∧
    (∃ (k : Nat), ∃ (c : Nat), ∃ (n : Nat), ∃ (s : State), k < 16 ∧ s.coreState k = 1 ∧ (n = ((Tbl.get s.fw.crashTimes k []).filter (fun t => s.timeNs < t + minuteNs)).length) ∧ 2 ≤ n ∧ k = 0 ∧ s.ring.jobs = []) ∧
    (∃ (k : Nat), ∃ (c : Nat), ∃ (n : Nat), ∃ (s : State), ∃ j, k < 16 ∧ s.coreState k = 1 ∧ (n = ((Tbl.get s.fw.crashTimes k []).filter (fun t => s.timeNs < t + minuteNs)).length) ∧ 2 ≤ n ∧ k = 3 ∧ s.ring.jobs = [j] ∧ j.sr = 0 ∧ 0x60 ≤ dOpcode j.desc ∧ dOpcode j.desc < 0x70) ∧
    (∃ (k : Nat), ∃ (s : State), ∃ (c : Nat), s.coreState k ≠ 1) ∧
    (∃ (k : Nat), ∃ (ue : Bool), ∃ (s : State), k < 16 ∧ s.coreState k = 2 ∧ (∀ j, j < 16 → j ≠ k → s.coreState j ≠ 2) ∧ s.upd.restarting = false) ∧
    (∃ (sr : Nat), ∃ (tag : Nat), ∃ (a : Nat), ∃ (k : Nat), ∃ (s : State), ∃ (j : Job), s.ready sr tag 0x8F j ∧ rsvdZero j.desc [(8, 1), (12, 1)] = true ∧ a = dby j.desc 8 1 ∧ k = dby j.desc 12 1 ∧ k < 16 ∧ a = 0 ∧ 4 ≤ k ∧ s.coreState k ≠ 3) ∧
    (∃ (sr : Nat), ∃ (tag : Nat), ∃ (a : Nat), ∃ (k : Nat), ∃ (s : State), ∃ (j : Job), s.ready sr tag 0x8F j ∧ rsvdZero j.desc [(8, 1), (12, 1)] = true ∧ a = dby j.desc 8 1 ∧ k = dby j.desc 12 1 ∧ k < 16 ∧ a = 1 ∧ 4 ≤ k ∧ s.coreState k = 3) ∧
    (∃ (sr : Nat), ∃ (tag : Nat), ∃ (a : Nat), ∃ (k : Nat), ∃ (s : State), ∃ (j : Job), s.ready sr tag 0x8F j ∧ rsvdZero j.desc [(8, 1), (12, 1)] = true ∧ a = dby j.desc 8 1 ∧ k = dby j.desc 12 1 ∧ k < 16 ∧ a ≤ 1 ∧ (k < 4 ∨ a = 1 ∧ s.coreState k ≠ 3 ∨ a = 0 ∧ s.coreState k = 3)) :=
  ⟨⟨(7), (vs_ControlCores_0), by decide +kernel, by decide +kernel, by decide +kernel⟩,
   ⟨(7), (vs_ControlCores_1), by decide +kernel, by decide +kernel, by decide +kernel⟩,
   ⟨(7), (300), (1), (vs_ControlCores_2), by decide +kernel, by decide +kernel, by decide +kernel, by decide +kernel⟩,
   ⟨(7), (300), (2), (vs_ControlCores_3), by decide +kernel, by decide +kernel, by decide +kernel, by decide +kernel, by decide +kernel, by decide +kernel, by decide +kernel, by decide +kernel, by decide +kernel⟩,
   ⟨(2), (300), (2), (vs_ControlCores_4), by decide +kernel, by decide +kernel, by decide +kernel, by decide +kernel, by decide +kernel, by decide +kernel⟩,
   ⟨(1), (300), (2), (vs_ControlCores_5), by decide +kernel, by decide +kernel, by decide +kernel, by decide +kernel, by decide +kernel, by decide +kernel⟩,
   ⟨(0), (300), (2), (vs_ControlCores_6), by decide +kernel, by decide +kernel, by decide +kernel, by decide +kernel, by decide +kernel, by decide +kernel⟩,
   ⟨(3), (300), (2), (vs_ControlCores_7), (jb 0 5 0 (D [(0, 0x62)])), by decide +kernel, by decide +kernel, by decide +kernel, by decide +kernel, by decide +kernel, by decide +kernel, by decide +kernel, by decide +kernel, by decide +kernel⟩,
   ⟨(7), (vs_ControlCores_8), (300), by decide +kernel⟩,
   ⟨(7), (true), (vs_ControlCores_9), by decide +kernel, by decide +kernel, by decide +kernel, by decide +kernel⟩,
   ⟨(0), (5), (0), (15), (vs_ControlCores_10), (vj_ControlCores_10), ready_of (by decide +kernel), by decide +kernel, by decide +kernel, by decide +kernel, by decide +kernel, by decide +kernel, by decide +kernel, by decide +kernel⟩,
   ⟨(0), (5), (1), (4), (vs_ControlCores_11), (vj_ControlCores_11), ready_of (by decide +kernel), by decide +kernel, by decide +kernel, by decide +kernel, by decide +kernel, by decide +kernel, by decide +kernel, by decide +kernel⟩,
   ⟨(0), (5), (0), (3), (vs_ControlCores_12), (vj_ControlCores_12), ready_of (by decide +kernel), by decide +kernel, by decide +kernel, by decide +kernel, by decide +kernel, by decide +kernel, by decide +kernel⟩⟩

def vj_FirmwareRecords_0 : Job := jb 0 5 0 (D [(0, 0x8E), (24, 2), (28, 0x10002), (16, 4096)])
def vs_FirmwareRecords_0 : State := fjobs [vj_FirmwareRecords_0]
def vs1_FirmwareRecords_0 : State := wioSt (vs_FirmwareRecords_0.writeOperand vj_FirmwareRecords_0 (dby vj_FirmwareRecords_0.desc 24 1) (dby vj_FirmwareRecords_0.desc 28 4) (dby vj_FirmwareRecords_0.desc 16 8) vs_FirmwareRecords_0.fwRecords 0)
def vs_FirmwareRecords_2 : State := { full with fw := { full.fw with crashTimes := [(15, [7, 10 ^ 8, 10 ^ 9])], lastCrash := [(15, 2 ^ 64 + 5)], compFaults := [(15, 2 ^ 33)] } }
theorem witness_FirmwareRecords :
    (∃ (sr : Nat), ∃ (tag : Nat), ∃ (s : State), ∃ (s1 : State), ∃ (j : Job), s.ready sr tag 0x8E j ∧ rsvdZero j.desc [(16, 9), (28, 4)] = true ∧ (dby j.desc 24 1 = 0 ∨ dby j.desc 24 1 = 2) ∧ s.writeOperand j (dby j.desc 24 1) (dby j.desc 28 4) (dby j.desc 16 8) s.fwRecords 0 = .ok s1) ∧
    (∃ (k : Nat), ∃ (s : State), k < 16) :=
  ⟨⟨(0), (5), (vs_FirmwareRecords_0), (vs1_FirmwareRecords_0), (vj_FirmwareRecords_0), ready_of (by decide +kernel), by decide +kernel, by decide +kernel, wio_ok _ (by decide +kernel)⟩,
   ⟨(15), (vs_FirmwareRecords_2), by decide +kernel⟩⟩

def vs_ControllerMessages_17 : State := { full with mgt := { full.mgt with powerCmd := 4, powerWait := [(0, 2, 3)] } }
def vs_ControllerMessages_19 : State := { full with slices := [] }
def vs_ControllerMessages_22 : State := setRegs (full) [(R.MGT_STATUS, 10245)]
def vs_ControllerMessages_23 : State := { full with dev := .meringue }
def ve_ControllerEvents_2 : McEvent := (⟨0x0B, 7, 5⟩ : McEvent)
def ves_ControllerEvents_2 : List McEvent := [⟨0x101, 3, 5⟩]
def vs_ControllerEvents_2 : State := { full with mgt := { full.mgt with events := [ve_ControllerEvents_2, ⟨0x101, 3, 5⟩] } }
def ve_ControllerEvents_3 : McEvent := (⟨0x0B, 7, 5⟩ : McEvent)
def ves_ControllerEvents_3 : List McEvent := [⟨0x101, 3, 5⟩]
def vs_ControllerEvents_3 : State := { full with mgt := { full.mgt with events := [ve_ControllerEvents_3, ⟨0x101, 3, 5⟩], receiver := some ((5, 9)) } }
def vs_ControllerEvents_4 : State := { full with mgt := { full.mgt with events := [(⟨0x0B, 7, 5⟩ : McEvent)] } }
def vdpa_ControllerEvents_6 : Nat := regSpace + 0x10000
def vc_ControllerEvents_6 : CtrBlock := ⟨0x10000, 1, 0x10000000000, ctrsRng⟩
def vs_ControllerEvents_7 : State := { full with upd := { full.upd with trial := true, rollback := 7 } }
def vs_ControllerEvents_8 : State := { full with upd := { full.upd with applied := [otherBank full.upd.active], flash := [(bankBase 1 + 13, 3), (bankBase 1 + 20, 1)] } }
theorem witness_ControllerCommands :
    (∃ (b : Nat), ∃ (x : Nat), ∃ (y : Nat), ∃ (r : List Byte), ∃ (s : State), ∃ c, (c ∈ ([fun ok => .setEndpointId b x y ok, fun ok => .getEndpointId b ok, fun ok => .getEndpointUuid b ok, fun ok => .getMctpVersionSupport b x ok, fun ok => .getMessageTypeSupport b ok, fun ok => .getTid b ok, fun ok => .setTid b x ok, fun ok => .getPldmVersion b x ok, fun ok => .getPldmTypes b ok, fun ok => .getPldmCommands b x ok, fun ok => .getPdrRepositoryInfo b ok, fun ok => .getPdr b x ok, fun ok => .getSensorReading b x ok, fun ok => .getStateSensorReadings b ok, fun ok => .setNumericEffecterValue b x y ok, fun ok => .getNumericEffecterValue b x ok, fun ok => .setStateEffecterStates b x y ok, fun ok => .getStateEffecterStates b x ok, fun ok => .setEventReceiver b x y true ok, fun ok => .pollForPlatformEventMessage b ok, fun ok => .mcRegisterRead b x y ok, fun ok => .mcCapture b x ok, fun ok => .mcArmActivation b x ok, fun ok => .mcConfirm b ok, fun ok => .getVersion b x ok r, fun ok => .challenge b x ok r, fun ok => .spdmPqChain b x ok, fun ok => .queryDeviceIdentifiers b ok, fun ok => .getStatus b ok] : List (Bool → Instr))) ∧ s.mcAnswers b = true) ∧
    (∃ (b : Nat), ∃ (x : Nat), ∃ (y : Nat), ∃ (r : List Byte), ∃ (s : State), ∃ c, ∃ (ok : Bool), (c ∈ ([fun ok => .setEndpointId b x y ok, fun ok => .getEndpointId b ok, fun ok => .getEndpointUuid b ok, fun ok => .getMctpVersionSupport b x ok, fun ok => .getMessageTypeSupport b ok, fun ok => .getTid b ok, fun ok => .setTid b x ok, fun ok => .getPldmVersion b x ok, fun ok => .getPldmTypes b ok, fun ok => .getPldmCommands b x ok, fun ok => .getPdrRepositoryInfo b ok, fun ok => .getPdr b x ok, fun ok => .getSensorReading b x ok, fun ok => .getStateSensorReadings b ok, fun ok => .setNumericEffecterValue b x y ok, fun ok => .getNumericEffecterValue b x ok, fun ok => .setStateEffecterStates b x y ok, fun ok => .getStateEffecterStates b x ok, fun ok => .setEventReceiver b x y true ok, fun ok => .pollForPlatformEventMessage b ok, fun ok => .mcRegisterRead b x y ok, fun ok => .mcCapture b x ok, fun ok => .mcArmActivation b x ok, fun ok => .mcConfirm b ok, fun ok => .getVersion b x ok r, fun ok => .challenge b x ok r, fun ok => .spdmPqChain b x ok, fun ok => .queryDeviceIdentifiers b ok, fun ok => .getStatus b ok] : List (Bool → Instr))) ∧ s.mcAnswers b = false) ∧
    (∃ (b : Nat), ∃ (n : Nat), ∃ (s : State), s.mcAnswers b = true ∧ n ∈ [0, 1, 5, 0x7E, 0xFF]) ∧
    (∃ (b : Nat), ∃ (n : Nat), ∃ (s : State), s.mcAnswers b = true ∧ n ∉ [0, 1, 5, 0x7E, 0xFF]) ∧
    (∃ (b : Nat), ∃ (n : Nat), ∃ (s : State), s.mcAnswers b = true ∧ n ∈ [0, 2, 5]) ∧
    (∃ (b : Nat), ∃ (n : Nat), ∃ (s : State), ∃ l, s.mcAnswers b = true ∧ pldmCommands n = some l) ∧
    (∃ (b : Nat), ∃ (n : Nat), ∃ (s : State), s.mcAnswers b = true ∧ 1 ≤ n ∧ n ≤ 143) ∧
    (∃ (b : Nat), ∃ (n : Nat), ∃ (s : State), ∃ v, s.mcAnswers b = true ∧ n < 141 ∧ s.sensorValue n = some v) ∧
    (∃ (b : Nat), ∃ (n : Nat), ∃ (s : State), s.mcAnswers b = true ∧ n < 141 ∧ s.sensorValue n = none) ∧
    (∃ (b : Nat), ∃ (n : Nat), ∃ (s : State), s.mcAnswers b = true ∧ 141 ≤ n) ∧
    (∃ (b : Nat), ∃ (n : Nat), ∃ (s : State), ∃ (op : Nat), s.mcAnswers b = true ∧ 1 ≤ n ∧ n < 255 ∧ op < 2) ∧
    (∃ (b : Nat), ∃ (n : Nat), ∃ (s : State), s.mcAnswers b = true ∧ 1 ≤ n ∧ n < 255) ∧
    (∃ (b : Nat), ∃ (n : Nat), ∃ (s : State), s.mcAnswers b = true ∧ (n = 0 ∨ 255 ≤ n)) ∧
    (∃ (b : Nat), ∃ (n : Nat), ∃ (s : State), ∃ (op : Nat), s.mcAnswers b = true ∧ (n = 0 ∨ 255 ≤ n) ∧ op < 2) ∧
    (∃ (b : Nat), ∃ (n : Nat), ∃ (s : State), s.mcAnswers b = true ∧ 1000 ≤ n ∧ n ≤ 2700) ∧
    (∃ (b : Nat), ∃ (n : Nat), ∃ (s : State), s.mcAnswers b = true ∧ (n < 1000 ∨ 2700 < n)) ∧
    (∃ (b : Nat), ∃ (n : Nat), ∃ (s : State), s.mcAnswers b = true ∧ s.mgt.powerCmd ≠ 0) ∧
    (∃ (b : Nat), ∃ (n : Nat), ∃ (s : State), s.mcAnswers b = true ∧ s.mgt.powerCmd = 0 ∧ (n = 1 ∨ n = 5) ∧ s.dev = .run) ∧
    (∃ (b : Nat), ∃ (n : Nat), ∃ (s : State), s.mcAnswers b = true ∧ s.mgt.powerCmd = 0 ∧ (n = 3 ∨ n = 4 ∨ n = 2 ∧ s.mayRetain = true ∨ (n = 1 ∨ n = 5) ∧ s.dev = .retention)) ∧
    (∃ (b : Nat), ∃ (n : Nat), ∃ (s : State), s.mcAnswers b = true ∧ s.mgt.powerCmd = 0 ∧ s.mayRetain = false) ∧
    (∃ (a : Nat), ∃ (s : State), s.rf R.MGT_STATUS 0 2 = 1 ∧ s.dev ≠ .off ∧ s.mgt.fastClock = true ∧ a < 128) ∧
    (∃ (s : State), s.rf R.MGT_STATUS 2 1 = 1 ∧ s.dev ≠ .off) ∧
    (∃ (s : State), s.dev = .meringue) ∧
    (∃ (b : Nat), ∃ (tid : Nat), ∃ (eid : Nat), ∃ (s : State), s.mcAnswers b = true) ∧
    (∃ (b : Nat), ∃ (s : State), ∃ (e : McEvent), ∃ (es : List McEvent), s.mgt.events = e :: es ∧ s.mgt.lost = 0 ∧ s.mcAnswers b = true) ∧
    (∃ (b : Nat), ∃ (s : State), ∃ (e : McEvent), ∃ (es : List McEvent), ∃ r, s.mgt.events = e :: es ∧ s.mgt.lost = 0 ∧ s.mgt.receiver = some r ∧ s.rf R.MGT_STATUS 0 2 = 1 ∧ s.dev ≠ .off ∧ s.mgt.fastClock = true) ∧
    (∃ (s : State), (s.mgt.receiver = none ∨ s.mgt.events = [])) ∧
    (∃ (b : Nat), ∃ (dpa : Nat), ∃ (n : Nat), ∃ (s : State), s.mcAnswers b = true ∧ s.dev = .run ∧ 1 ≤ n ∧ n ≤ 16 ∧ regSpace ≤ dpa ∧ dpa + 8 * n ≤ regSpace + 2 ^ 31 ∧ dpa % 8 = 0) ∧
    (∃ (b : Nat), ∃ (dpa : Nat), ∃ (u : Nat), ∃ (c : CtrBlock), ∃ (s : State), s.mcAnswers b = true ∧ s.dev = .run ∧ regSpace ≤ dpa ∧ blockOfSnap (regAddr (dpa - regSpace)) = some (c, u)) ∧
    (∃ (b : Nat), ∃ (s : State), s.mcAnswers b = true ∧ s.upd.trial = true) ∧
    (∃ (b : Nat), ∃ (w : Nat), ∃ (s : State), s.mcAnswers b = true ∧ bit w 0 = true ∧ s.armCode (fld w 2 2) (bit w 4) (fld w 16 16) (fld w 64 64) = actArmed) :=
  ⟨⟨(1), (3), (4), ([1, 2, 3, 4]), (full), (fun ok => Instr.mcConfirm 1 ok), by simp, by decide +kernel⟩,
   ⟨(0), (3), (4), ([1, 2, 3, 4]), (full), (fun ok => Instr.getTid 0 ok), (true), by simp, by decide +kernel⟩,
   ⟨(1), (5), (full), by decide +kernel, by decide +kernel⟩,
   ⟨(1), (2), (full), by decide +kernel, by decide +kernel⟩,
   ⟨(1), (2), (full), by decide +kernel, by decide +kernel⟩,
   ⟨(1), (2), (full), ((pldmCommands 2).get (by decide +kernel)), by decide +kernel, by decide +kernel⟩,
   ⟨(1), (143), (full), by decide +kernel, by decide +kernel, by decide +kernel⟩,
   ⟨(1), (140), (full), ((full.sensorValue 140).get (by decide +kernel)), by decide +kernel, by decide +kernel, by decide +kernel⟩,
   ⟨(1), (3), (full), by decide +kernel, by decide +kernel, by decide +kernel⟩,
   ⟨(1), (141), (full), by decide +kernel, by decide +kernel⟩,
   ⟨(1), (254), (full), (1), by decide +kernel, by decide +kernel, by decide +kernel, by decide +kernel⟩,
   ⟨(1), (1), (full), by decide +kernel, by decide +kernel, by decide +kernel⟩,
   ⟨(1), (255), (full), by decide +kernel, by decide +kernel⟩,
   ⟨(1), (0), (full), (1), by decide +kernel, by decide +kernel, by decide +kernel⟩,
   ⟨(1), (2700), (full), by decide +kernel, by decide +kernel, by decide +kernel⟩,
   ⟨(1), (2701), (full), by decide +kernel, by decide +kernel⟩,
   ⟨(1), (2), (vs_ControllerMessages_17), by decide +kernel, by decide +kernel⟩,
   ⟨(1), (5), (full), by decide +kernel, by decide +kernel, by decide +kernel, by decide +kernel⟩,
   ⟨(1), (2), (vs_ControllerMessages_19), by decide +kernel, by decide +kernel, by decide +kernel⟩,
   ⟨(1), (5), (full), by decide +kernel, by decide +kernel, by decide +kernel⟩,
   ⟨(127), (full), by decide +kernel, by decide +kernel, by decide +kernel, by decide +kernel⟩,
   ⟨(vs_ControllerMessages_22), by decide +kernel, by decide +kernel⟩,
   ⟨(vs_ControllerMessages_23), by decide +kernel⟩,
   ⟨(1), (300), (9), (full), by decide +kernel⟩,
   ⟨(1), (vs_ControllerEvents_2), (ve_ControllerEvents_2), (ves_ControllerEvents_2), by decide +kernel, by decide +kernel, by decide +kernel⟩,
   ⟨(1), (vs_ControllerEvents_3), (ve_ControllerEvents_3), (ves_ControllerEvents_3), ((5, 9)), by decide +kernel, by decide +kernel, by decide +kernel, by decide +kernel, by decide +kernel, by decide +kernel⟩,
   ⟨(vs_ControllerEvents_4), by decide +kernel⟩,
   ⟨(1), (0x800400000200), (16), (full), by decide +kernel, by decide +kernel, by decide +kernel, by decide +kernel, by decide +kernel, by decide +kernel, by decide +kernel⟩,
   ⟨(1), (vdpa_ControllerEvents_6), (0), (vc_ControllerEvents_6), (full), by decide +kernel, by decide +kernel, by decide +kernel, by decide +kernel⟩,
   ⟨(1), (vs_ControllerEvents_7), by decide +kernel, by decide +kernel⟩,
   ⟨(1), (17), (vs_ControllerEvents_8), by decide +kernel, by decide +kernel, by decide +kernel⟩⟩

def vr_Attestation_0 : List Byte := ([0x13, 0, 1, 0xFF, 3, 0, 9, 0, 0, 2, 0, 0, 2, 0, 0, 0, 77] : List Byte)
def vs_Attestation_0 : State := { full with mgt := { full.mgt with spdm := [(spdmKey 1 9, { Spdm.none with phase := 2, vca := [1, 2], certs := [3], meas := [4], signedHash := some [5, 6] })] } }
def vr_Attestation_1 : List Byte := ([0x13, 0, 1, 0xFF, 3, 0, 9, 0, 0, 2, 0, 0, 2, 0, 0, 0, 77] : List Byte)
def vs_Attestation_1 : State := { full with mgt := { full.mgt with spdm := [(spdmKey 1 9, { Spdm.none with phase := 3, vca := [1, 2], certs := [3], meas := [4], signedHash := some [5, 6] })] } }
def vr_Attestation_2 : List Byte := ([0x13, 0, 1, 0xFF, 3, 0, 9, 0, 0, 2, 0, 0, 2, 0, 0, 0, 77] : List Byte)
def vs_Attestation_2 : State := { full with mgt := { full.mgt with spdm := [(spdmKey 1 9, { Spdm.none with phase := 1, vca := [1, 2], certs := [3], meas := [4], signedHash := some [5, 6] })] } }
def vr_Attestation_3 : List Byte := ([0x13, 0, 1, 0xFF, 3, 0, 9, 0, 0, 2, 0, 0, 2, 0, 0, 0, 77] : List Byte)
def vs_Attestation_3 : State := { full with mgt := { full.mgt with spdm := [(spdmKey 1 9, { Spdm.none with phase := 2, vca := [1, 2], certs := [3], meas := [4], signedHash := some [5, 6] })] } }
def vr_Attestation_4 : List Byte := ([0x13, 0, 0, 2, 3, 0, 9, 0, 0, 0, 0, 0, 2, 0, 0, 0, 77] : List Byte)
def vs_Attestation_4 : State := { full with mgt := { full.mgt with spdm := [(spdmKey 1 9, { Spdm.none with phase := 2, vca := [1, 2], certs := [3], meas := [4], signedHash := some [5, 6] })] } }
def vr_Attestation_5 : List Byte := ([0x13, 0, 1, 0xFF, 3, 0, 9, 0, 0, 2, 0, 0, 2, 0, 0, 0, 77] : List Byte)
def vs_Attestation_5 : State := { full with mgt := { full.mgt with spdm := [(spdmKey 1 9, { Spdm.none with phase := 3, vca := [1, 2], certs := [3], meas := [4], signedHash := some [5, 6] })] } }
def vr_Attestation_6 : List Byte := ([0x13, 0, 0, 2, 3, 0, 9, 0, 0, 0, 0, 0, 2, 0, 0, 0, 77] : List Byte)
def vs_Attestation_6 : State := { full with mgt := { full.mgt with spdm := [(spdmKey 1 9, { Spdm.none with phase := 3, vca := [1, 2], certs := [3], meas := [4], signedHash := some [5, 6] })] } }
def vr_Attestation_8 : List Byte := ([0x13, 0, 1, 0xFF, 3, 0, 9, 0, 0, 2, 0, 0, 2, 0, 0, 0, 77] : List Byte)
def vs_Attestation_8 : State := { full with mgt := { full.mgt with spdm := [(spdmKey 1 9, { Spdm.none with phase := 3, vca := [1, 2], certs := [3], meas := [4], signedHash := some [5, 6] })] } }
def vr_Attestation_9 : List Byte := ([0x13, 0, 0, 2, 3, 0, 9, 0, 0, 0, 0, 0, 2, 0, 0, 0, 77] : List Byte)
def vs_Attestation_9 : State := { full with mgt := { full.mgt with spdm := [(spdmKey 1 9, { Spdm.none with phase := 3, vca := [1, 2], certs := [3], meas := [4], signedHash := some [5, 6] })] } }
def vs_Attestation_11 : State := { full with mgt := { full.mgt with spdm := [(spdmKey 1 9, { Spdm.none with phase := 3, vca := [1, 2], certs := [3], meas := [4], signedHash := some [5, 6] })] } }
def vs_Attestation_12 : State := { full with mgt := { full.mgt with spdm := [(spdmKey 1 9, { Spdm.none with phase := 3 })] } }
def vs_Attestation_13 : State := { full with mgt := { full.mgt with spdm := [(spdmKey 1 9, { Spdm.none with phase := 3, vca := [1, 2], certs := [3], meas := [4], signedHash := some [5, 6] })] } }
theorem witness_Attestation :
    (∃ (b : Nat), ∃ (eid : Nat), ∃ (r : List Byte), ∃ (s : State), ∃ c, s.mcAnswers b = true ∧ (s.spdm b eid).phase < 3 ∧ c ∈ ([.getDigests b eid true r, .getCertificate b eid true r, .challenge b eid true r, .getMeasurements b eid true r, .spdmPqChain b eid true] : List Instr)) ∧
    (∃ (b : Nat), ∃ (eid : Nat), ∃ (r : List Byte), ∃ (s : State), s.mcAnswers b = true) ∧
    (∃ (b : Nat), ∃ (eid : Nat), ∃ (r : List Byte), ∃ (s : State), s.mcAnswers b = true ∧ (s.spdm b eid).phase = 1) ∧
    (∃ (b : Nat), ∃ (eid : Nat), ∃ (r : List Byte), ∃ (s : State), s.mcAnswers b = true ∧ (s.spdm b eid).phase = 2 ∧ bit (leAt r 8 4) 9 = true ∧ bit (leAt r 12 4) 1 = true) ∧
    (∃ (b : Nat), ∃ (eid : Nat), ∃ (r : List Byte), ∃ (s : State), s.mcAnswers b = true ∧ (s.spdm b eid).phase = 2 ∧ (bit (leAt r 8 4) 9 = false ∨ bit (leAt r 12 4) 1 = false)) ∧
    (∃ (b : Nat), ∃ (eid : Nat), ∃ (r : List Byte), ∃ (s : State), s.mcAnswers b = true ∧ 3 ≤ (s.spdm b eid).phase) ∧
    (∃ (b : Nat), ∃ (eid : Nat), ∃ (r : List Byte), ∃ (s : State), s.mcAnswers b = true ∧ 3 ≤ (s.spdm b eid).phase ∧ leAt r 2 1 = 0) ∧
    (∃ (b : Nat), ∃ (eid : Nat), ∃ (r : List Byte), ∃ (s : State), ∃ (op : Nat), s.mcAnswers b = true ∧ 3 ≤ (s.spdm b eid).phase ∧ op = leAt r 3 1 ∧ (op ≤ 4 ∨ op = 0xFF) ∧ bit (leAt r 2 1) 0 = true) ∧
    (∃ (b : Nat), ∃ (eid : Nat), ∃ (r : List Byte), ∃ (s : State), ∃ (op : Nat), s.mcAnswers b = true ∧ 3 ≤ (s.spdm b eid).phase ∧ op = leAt r 3 1 ∧ (op ≤ 4 ∨ op = 0xFF) ∧ bit (leAt r 2 1) 0 = false) ∧
    (∃ (b : Nat), ∃ (eid : Nat), ∃ (s : State), ∃ h, s.mcAnswers b = true ∧ (s.spdm b eid).signedHash = some h) ∧
    (∃ (b : Nat), ∃ (eid : Nat), ∃ (s : State), s.mcAnswers b = true ∧ (s.spdm b eid).signedHash = none) ∧
    (∃ (b : Nat), ∃ (eid : Nat), ∃ (s : State), ∃ (code : Nat), s.mcAnswers b = true) :=
  ⟨⟨(1), (9), (vr_Attestation_0), (vs_Attestation_0), (Instr.getDigests 1 9 true vr_Attestation_0), by decide +kernel, by decide +kernel, by simp⟩,
   ⟨(1), (9), (vr_Attestation_1), (vs_Attestation_1), by decide +kernel⟩,
   ⟨(1), (9), (vr_Attestation_2), (vs_Attestation_2), by decide +kernel, by decide +kernel⟩,
   ⟨(1), (9), (vr_Attestation_3), (vs_Attestation_3), by decide +kernel, by decide +kernel, by decide +kernel, by decide +kernel⟩,
   ⟨(1), (9), (vr_Attestation_4), (vs_Attestation_4), by decide +kernel, by decide +kernel, by decide +kernel⟩,
   ⟨(1), (9), (vr_Attestation_5), (vs_Attestation_5), by decide +kernel, by decide +kernel⟩,
   ⟨(1), (9), (vr_Attestation_6), (vs_Attestation_6), by decide +kernel, by decide +kernel, by decide +kernel⟩,
   ⟨(1), (9), (vr_Attestation_8), (vs_Attestation_8), (255), by decide +kernel, by decide +kernel, by decide +kernel, by decide +kernel, by decide +kernel⟩,
   ⟨(1), (9), (vr_Attestation_9), (vs_Attestation_9), (2), by decide +kernel, by decide +kernel, by decide +kernel, by decide +kernel, by decide +kernel⟩,
   ⟨(1), (9), (vs_Attestation_11), ([5, 6]), by decide +kernel, by decide +kernel⟩,
   ⟨(1), (9), (vs_Attestation_12), by decide +kernel, by decide +kernel⟩,
   ⟨(1), (9), (vs_Attestation_13), (153), by decide +kernel⟩⟩

def vs_SensorsAndFlows_0 : State := { full with phys := { full.phys with nextTemp := 10^9 + 1 } }
def vs_SensorsAndFlows_1 : State := { full with phys := { full.phys with nextRail := 10^9 + 1 } }
def vs_SensorsAndFlows_2 : State := { full with clk := { full.clk with brownOut := true } }
def vs_SensorsAndFlows_5 : State := { full with timeNs := 10^10 + 8, mgt := { full.mgt with flows := [(1, { FlowDie.none with flows := [({ key := [3, 4, 1, 2, 3, 4, 5, 6, 7, 8, 17, 0, 1, 0, 2], v6 := false, packets := 4, octets := 500, first := 7, last := 9 } : Flow)] })] } }
def vf_SensorsAndFlows_5 : Flow := ({ key := [3, 4, 1, 2, 3, 4, 5, 6, 7, 8, 17, 0, 1, 0, 2], v6 := false, packets := 4, octets := 500, first := 7, last := 9 } : Flow)
def vs_SensorsAndFlows_6 : State := { full with timeNs := 10^11, mgt := { full.mgt with flows := [(1, { FlowDie.none with flows := [({ key := [3, 4, 1, 2, 3, 4, 5, 6, 7, 8, 17, 0, 1, 0, 2], v6 := false, packets := 4, octets := 500, first := 7, last := 9 } : Flow)] })] } }
def vf_SensorsAndFlows_6 : Flow := ({ key := [3, 4, 1, 2, 3, 4, 5, 6, 7, 8, 17, 0, 1, 0, 2], v6 := false, packets := 4, octets := 500, first := 7, last := 9 } : Flow)
def vs_SensorsAndFlows_7 : State := { full with timeNs := 10^11, mgt := { full.mgt with flows := [(1, { FlowDie.none with flows := [({ key := [3, 4, 1, 2, 3, 4, 5, 6, 7, 8, 17, 0, 1, 0, 2], v6 := false, packets := 4, octets := 500, first := 7, last := 9 } : Flow)] })] } }
def vf_SensorsAndFlows_7 : Flow := ({ key := [3, 4, 1, 2, 3, 4, 5, 6, 7, 8, 17, 0, 1, 0, 2], v6 := false, packets := 4, octets := 500, first := 7, last := 9 } : Flow)
def vs_SensorsAndFlows_8 : State := { full with timeNs := 6 * 10^10 + 6, mgt := { full.mgt with flows := [(1, { FlowDie.none with flows := [({ key := [3, 4, 1, 2, 3, 4, 5, 6, 7, 8, 17, 0, 1, 0, 2], v6 := false, packets := 4, octets := 500, first := 7, last := 9 } : Flow)] })] } }
def vf_SensorsAndFlows_8 : Flow := ({ key := [3, 4, 1, 2, 3, 4, 5, 6, 7, 8, 17, 0, 1, 0, 2], v6 := false, packets := 4, octets := 500, first := 7, last := 9 } : Flow)
def vs_SensorsAndFlows_9 : State := { full with timeNs := 10^11, mgt := { full.mgt with flows := [(1, { FlowDie.none with flows := [({ key := [3, 4, 1, 2, 3, 4, 5, 6, 7, 8, 17, 0, 1, 0, 2], v6 := false, packets := 4, octets := 500, first := 7, last := 9 } : Flow)], seen := [(3, 4)] })] } }
def vs_SensorsAndFlows_10 : State := setRegs (full) [(R.MGT_FLOW 1, 1)]
def vs_SensorsAndFlows_11 : State := setRegs (full) [(R.MGT_FLOW 1, 1)]
def vs_SensorsAndFlows_12 : State := setRegs (full) [(R.MGT_FLOW 1, 1)]
def vs_SensorsAndFlows_13 : State := setRegs ({ full with timeNs := 10^11, mgt := { full.mgt with flows := [(1, { FlowDie.none with flows := [({ key := [3, 4, 1, 2, 3, 4, 5, 6, 7, 8, 17, 0, 1, 0, 2], v6 := false, packets := 4, octets := 500, first := 7, last := 9 } : Flow)], seqNo := 2^32 + 5 })] } }) [(R.MGT_FLOW 1, 1)]
def vs_SensorsAndFlows_14 : State := setRegs ({ full with timeNs := 10^11, mgt := { full.mgt with flows := [(1, { FlowDie.none with recs4 := [[1, 2], [3]], recs6 := [[4]], seqNo := 2^32 - 1 })] } }) [(R.MGT_FLOW 1, 1)]
def vs_SensorsAndFlows_15 : State := { full with timeNs := 10^11, mgt := { full.mgt with flows := [(1, { FlowDie.none with flows := [({ key := [3, 4, 1, 2, 3, 4, 5, 6, 7, 8, 17, 0, 1, 0, 2], v6 := false, packets := 4, octets := 500, first := 7, last := 9 } : Flow)] })] } }
theorem witness_SensorsAndFlows :
    (∃ (l : List Int), ∃ (s : State), s.timeNs < s.phys.nextTemp) ∧
    (∃ (l : List (List Nat)), ∃ (s : State), s.timeNs < s.phys.nextRail) ∧
    (∃ (t0 : Int), ∃ (s : State), s.dev = .run ∧ s.clk.brownOut = true ∧ s.phys.nextTemp ≤ s.timeNs ∧ s.rf R.PWR_THERM 0 1 = 0) ∧
    (∃ (s : State), s.dev = .run ∧ s.clk.brownOut = false ∧ s.clk.tripped = false ∧ s.phys.nextTemp ≤ s.timeNs) ∧
    (∃ (a : Nat), ∃ (v : Nat), ∃ (p : Nat), ∃ (q : Nat), ∃ (e : Nat), ∃ (s : State), s.dev ≠ .off ∧ s.phys.nextRail ≤ s.timeNs ∧ a < 65536 ∧ v < 2 ^ 32 ∧ p < 2 ^ 32 ∧ q < 2 ^ 32) ∧
    (∃ (p : Nat), ∃ (i : Nat), ∃ (s : State), ∃ (f : Flow), (s.flowDie p).flows[i]? = some f ∧ s.timeNs < f.last + s.flowSpan p 16 10) ∧
    (∃ (p : Nat), ∃ (i : Nat), ∃ (s : State), ∃ (f : Flow), ∃ rs, (s.flowDie p).flows[i]? = some f ∧ rs = (if f.v6 then (s.flowDie p).recs6 else (s.flowDie p).recs4) ∧ rs.length + 1 < flowRecs f.v6 ∧ f.last + s.flowSpan p 16 10 ≤ s.timeNs) ∧
    (∃ (p : Nat), ∃ (i : Nat), ∃ (s : State), ∃ (f : Flow), ∃ rs, (s.flowDie p).flows[i]? = some f ∧ rs = (if f.v6 then (s.flowDie p).recs6 else (s.flowDie p).recs4) ∧ rs.length + 1 < flowRecs f.v6 ∧ f.first + s.flowSpan p 32 60 ≤ s.timeNs) ∧
    (∃ (p : Nat), ∃ (i : Nat), ∃ (s : State), ∃ (f : Flow), (s.flowDie p).flows[i]? = some f ∧ s.timeNs < f.first + s.flowSpan p 32 60) ∧
    (∃ (p : Nat), ∃ (s : State), p < 4 ∧ s.flowOn p = false) ∧
    (∃ (p : Nat), ∃ (s : State), p < 4 ∧ s.flowOn p = true ∧ (s.flowDie p).flows = []) ∧
    (∃ (p : Nat), ∃ (s : State), p < 4 ∧ s.flowOn p = true) ∧
    (∃ (p : Nat), ∃ (s : State), p < 4 ∧ s.timeNs < (s.flowDie p).tmplAt + s.flowSpan p 80 60) ∧
    (∃ (p : Nat), ∃ (s : State), p < 4 ∧ s.flowOn p = true ∧ (s.flowDie p).tmplAt + s.flowSpan p 80 60 ≤ s.timeNs) ∧
    (∃ (p : Nat), ∃ (s : State), p < 4 ∧ (s.flowDie p).recs4 ≠ [] ∧ (s.flowDie p).at4 + 10 ^ 9 ≤ s.timeNs) ∧
    (∃ (p : Nat), ∃ (s : State), p < 4 ∧ ((s.flowDie p).recs4 = [] ∨ s.timeNs < (s.flowDie p).at4 + 10 ^ 9)) :=
  ⟨⟨([3]), (vs_SensorsAndFlows_0), by decide +kernel⟩,
   ⟨([[3]]), (vs_SensorsAndFlows_1), by decide +kernel⟩,
   ⟨(850), (vs_SensorsAndFlows_2), by decide +kernel, by decide +kernel, by decide +kernel, by decide +kernel⟩,
   ⟨(full), by decide +kernel, by decide +kernel, by decide +kernel, by decide +kernel⟩,
   ⟨(65535), (2^32-1), (2^32 - 1), (7), (9), (full), by decide +kernel, by decide +kernel, by decide +kernel, by decide +kernel, by decide +kernel, by decide +kernel⟩,
   ⟨(1), (0), (vs_SensorsAndFlows_5), (vf_SensorsAndFlows_5), by decide +kernel, by decide +kernel⟩,
   ⟨(1), (0), (vs_SensorsAndFlows_6), (vf_SensorsAndFlows_6), ((if vf_SensorsAndFlows_6.v6 then (vs_SensorsAndFlows_6.flowDie 1).recs6 else (vs_SensorsAndFlows_6.flowDie 1).recs4)), by decide +kernel, by decide +kernel, by decide +kernel, by decide +kernel⟩,
   ⟨(1), (0), (vs_SensorsAndFlows_7), (vf_SensorsAndFlows_7), ((if vf_SensorsAndFlows_7.v6 then (vs_SensorsAndFlows_7.flowDie 1).recs6 else (vs_SensorsAndFlows_7.flowDie 1).recs4)), by decide +kernel, by decide +kernel, by decide +kernel, by decide +kernel⟩,
   ⟨(1), (0), (vs_SensorsAndFlows_8), (vf_SensorsAndFlows_8), by decide +kernel, by decide +kernel⟩,
   ⟨(1), (vs_SensorsAndFlows_9), by decide +kernel, by decide +kernel⟩,
   ⟨(1), (vs_SensorsAndFlows_10), by decide +kernel, by decide +kernel, by decide +kernel⟩,
   ⟨(1), (vs_SensorsAndFlows_11), by decide +kernel, by decide +kernel⟩,
   ⟨(1), (vs_SensorsAndFlows_12), by decide +kernel, by decide +kernel⟩,
   ⟨(1), (vs_SensorsAndFlows_13), by decide +kernel, by decide +kernel, by decide +kernel⟩,
   ⟨(1), (vs_SensorsAndFlows_14), by decide +kernel, by decide +kernel, by decide +kernel⟩,
   ⟨(1), (vs_SensorsAndFlows_15), by decide +kernel, by decide +kernel⟩⟩

def vs_UpdateSessions_4 : State := { full with upd := { full.upd with session := some (⟨1, 0, 4096, 13, 1, 1000, none⟩ : UpdSession) } }
def vs_UpdateSessions_5 : State := { full with upd := { full.upd with session := some (⟨2, 0, 4096, 13, 1, 1000, none⟩ : UpdSession) } }
def vx_UpdateSessions_6 : UpdSession := (⟨1, 0, 4096, 13, 1, 1000, none⟩ : UpdSession)
def vs_UpdateSessions_6 : State := { full with upd := { full.upd with session := some vx_UpdateSessions_6, table := [1] } }
def vx_UpdateSessions_7 : UpdSession := (⟨1, 0, 4096, 13, 1, 1000, none⟩ : UpdSession)
def vs_UpdateSessions_7 : State := { full with upd := { full.upd with session := some vx_UpdateSessions_7, table := [1, 2] } }
def vx_UpdateSessions_8 : UpdSession := (⟨1, 0, 4096, 13, 1, 1000, none⟩ : UpdSession)
def vs_UpdateSessions_8 : State := { full with upd := { full.upd with session := some vx_UpdateSessions_8, table := [2], flash := [(bankBase 0 + 4, 0), (bankBase 0 + 5, 0), (bankBase 0 + 6, 0), (bankBase 0 + 7, 0), (bankBase 0 + 13, 0), (bankBase 0 + 16, 1), (bankBase 0 + 17, 0), (bankBase 0 + 18, 0), (bankBase 0 + 19, 0), (bankBase 0 + 20, 0), (bankBase 0 + 24, 241), (bankBase 0 + 25, 43), (bankBase 0 + 26, 233), (bankBase 0 + 27, 80), (bankBase 0 + 28, 17), (bankBase 0 + 29, 250), (bankBase 0 + 30, 55), (bankBase 0 + 31, 222), (bankBase 0 + 32, 129), (bankBase 0 + 33, 191), (bankBase 0 + 34, 118), (bankBase 0 + 35, 190), (bankBase 0 + 36, 228), (bankBase 0 + 37, 231), (bankBase 0 + 38, 58), (bankBase 0 + 39, 153), (bankBase 0 + 40, 47), (bankBase 0 + 41, 67), (bankBase 0 + 42, 26), (bankBase 0 + 43, 124), (bankBase 0 + 44, 105), (bankBase 0 + 45, 182), (bankBase 0 + 46, 13), (bankBase 0 + 47, 36), (bankBase 0 + 48, 149), (bankBase 0 + 49, 199), (bankBase 0 + 50, 56), (bankBase 0 + 51, 58), (bankBase 0 + 52, 224), (bankBase 0 + 53, 84), (bankBase 0 + 54, 85), (bankBase 0 + 55, 105), (bankBase 0 + 56, 132), (bankBase 0 + 57, 42), (bankBase 0 + 58, 12), (bankBase 0 + 59, 1), (bankBase 0 + 60, 157), (bankBase 0 + 61, 137), (bankBase 0 + 62, 194), (bankBase 0 + 63, 8), (bankBase 0 + 64, 174), (bankBase 0 + 65, 72), (bankBase 0 + 66, 248), (bankBase 0 + 67, 67), (bankBase 0 + 68, 86), (bankBase 0 + 69, 43), (bankBase 0 + 70, 86), (bankBase 0 + 71, 255), (bankBase 0 + 8192, 7)] } }
def vx_UpdateSessions_9 : UpdSession := (⟨1, 2, 4096, 13, 1, 1000, none⟩ : UpdSession)
def vs_UpdateSessions_9 : State := { full with upd := { full.upd with session := some vx_UpdateSessions_9 } }
def vx_UpdateSessions_10 : UpdSession := (⟨1, 3, 4096, 13, 1, 1000, none⟩ : UpdSession)
def vs_UpdateSessions_10 : State := { full with upd := { full.upd with session := some vx_UpdateSessions_10, recv := [1] } }
def vx_UpdateSessions_12 : UpdSession := (⟨1, 1, 4096, 13, 0, 1000, none⟩ : UpdSession)
def vs_UpdateSessions_12 : State := { full with upd := { full.upd with session := some vx_UpdateSessions_12 } }
def vx_UpdateSessions_13 : UpdSession := (⟨1, 1, 4096, 13, 1, 1000, none⟩ : UpdSession)
def vs_UpdateSessions_13 : State := { full with upd := { full.upd with session := some vx_UpdateSessions_13, recv := [1, 2, 3] } }
def vx_UpdateSessions_14 : UpdSession := (⟨1, 1, 4096, 13, 1, 1000, some (0, 4)⟩ : UpdSession)
def vs_UpdateSessions_14 : State := { full with upd := { full.upd with session := some vx_UpdateSessions_14 } }
def vx_UpdateSessions_15 : UpdSession := (⟨1, 1, 4096, 13, 1, 1000, some (0, 4)⟩ : UpdSession)
def vs_UpdateSessions_15 : State := { full with upd := { full.upd with session := some vx_UpdateSessions_15, recv := [9] } }
def vx_UpdateSessions_16 : UpdSession := (⟨1, 1, 4096, 13, 1, 1000, some (8188, 4)⟩ : UpdSession)
def vs_UpdateSessions_16 : State := { full with upd := { full.upd with session := some vx_UpdateSessions_16, recv := zeroBytes 8188 } }
def vx_UpdateSessions_17 : UpdSession := (⟨1, 3, 4096, 13, 1, 1000, none⟩ : UpdSession)
def vs_UpdateSessions_17 : State := { full with upd := { full.upd with session := some vx_UpdateSessions_17, flash := [(bankBase 1 + 4, 0), (bankBase 1 + 5, 0), (bankBase 1 + 6, 0), (bankBase 1 + 7, 0), (bankBase 1 + 13, 0), (bankBase 1 + 16, 1), (bankBase 1 + 17, 0), (bankBase 1 + 18, 0), (bankBase 1 + 19, 0), (bankBase 1 + 20, 0), (bankBase 1 + 24, 241), (bankBase 1 + 25, 43), (bankBase 1 + 26, 233), (bankBase 1 + 27, 80), (bankBase 1 + 28, 17), (bankBase 1 + 29, 250), (bankBase 1 + 30, 55), (bankBase 1 + 31, 222), (bankBase 1 + 32, 129), (bankBase 1 + 33, 191), (bankBase 1 + 34, 118), (bankBase 1 + 35, 190), (bankBase 1 + 36, 228), (bankBase 1 + 37, 231), (bankBase 1 + 38, 58), (bankBase 1 + 39, 153), (bankBase 1 + 40, 47), (bankBase 1 + 41, 67), (bankBase 1 + 42, 26), (bankBase 1 + 43, 124), (bankBase 1 + 44, 105), (bankBase 1 + 45, 182), (bankBase 1 + 46, 13), (bankBase 1 + 47, 36), (bankBase 1 + 48, 149), (bankBase 1 + 49, 199), (bankBase 1 + 50, 56), (bankBase 1 + 51, 58), (bankBase 1 + 52, 224), (bankBase 1 + 53, 84), (bankBase 1 + 54, 85), (bankBase 1 + 55, 105), (bankBase 1 + 56, 132), (bankBase 1 + 57, 42), (bankBase 1 + 58, 12), (bankBase 1 + 59, 1), (bankBase 1 + 60, 157), (bankBase 1 + 61, 137), (bankBase 1 + 62, 194), (bankBase 1 + 63, 8), (bankBase 1 + 64, 174), (bankBase 1 + 65, 72), (bankBase 1 + 66, 248), (bankBase 1 + 67, 67), (bankBase 1 + 68, 86), (bankBase 1 + 69, 43), (bankBase 1 + 70, 86), (bankBase 1 + 71, 255), (bankBase 1 + 8192, 7)] } }
def vx_UpdateSessions_18 : UpdSession := (⟨1, 3, 4096, 13, 1, 1000, none⟩ : UpdSession)
def vs_UpdateSessions_18 : State := { full with upd := { full.upd with session := some vx_UpdateSessions_18, flash := [(bankBase 1 + 4, 0), (bankBase 1 + 5, 0), (bankBase 1 + 6, 0), (bankBase 1 + 7, 0), (bankBase 1 + 13, 0), (bankBase 1 + 16, 1), (bankBase 1 + 17, 0), (bankBase 1 + 18, 0), (bankBase 1 + 19, 0), (bankBase 1 + 20, 0), (bankBase 1 + 24, 242), (bankBase 1 + 25, 44), (bankBase 1 + 26, 234), (bankBase 1 + 27, 81), (bankBase 1 + 28, 18), (bankBase 1 + 29, 251), (bankBase 1 + 30, 56), (bankBase 1 + 31, 223), (bankBase 1 + 32, 130), (bankBase 1 + 33, 192), (bankBase 1 + 34, 119), (bankBase 1 + 35, 191), (bankBase 1 + 36, 229), (bankBase 1 + 37, 232), (bankBase 1 + 38, 59), (bankBase 1 + 39, 154), (bankBase 1 + 40, 48), (bankBase 1 + 41, 68), (bankBase 1 + 42, 27), (bankBase 1 + 43, 125), (bankBase 1 + 44, 106), (bankBase 1 + 45, 183), (bankBase 1 + 46, 14), (bankBase 1 + 47, 37), (bankBase 1 + 48, 150), (bankBase 1 + 49, 200), (bankBase 1 + 50, 57), (bankBase 1 + 51, 59), (bankBase 1 + 52, 225), (bankBase 1 + 53, 85), (bankBase 1 + 54, 86), (bankBase 1 + 55, 106), (bankBase 1 + 56, 133), (bankBase 1 + 57, 43), (bankBase 1 + 58, 13), (bankBase 1 + 59, 2), (bankBase 1 + 60, 158), (bankBase 1 + 61, 138), (bankBase 1 + 62, 195), (bankBase 1 + 63, 9), (bankBase 1 + 64, 175), (bankBase 1 + 65, 73), (bankBase 1 + 66, 249), (bankBase 1 + 67, 68), (bankBase 1 + 68, 87), (bankBase 1 + 69, 44), (bankBase 1 + 70, 87), (bankBase 1 + 71, 0), (bankBase 1 + 8192, 7)] } }
theorem witness_UpdateSessions :
    (∃ (b : Nat), ∃ (s : State), s.mcAnswers b = true) ∧
    (∃ (b : Nat), ∃ (s : State), ∃ (m : Nat), ∃ (c : Nat), s.mcAnswers b = true ∧ s.upd.session = none ∧ s.upd.armed = none ∧ 1 ≤ m ∧ 12 ≤ c ∧ c ≤ 16) ∧
    (∃ (b : Nat), ∃ (s : State), ∃ (m : Nat), ∃ (c : Nat), s.mcAnswers b = true ∧ (s.upd.session ≠ none ∨ s.upd.armed ≠ none)) ∧
    (∃ (b : Nat), ∃ (s : State), ∃ r, s.mcAnswers b = true ∧ (s.upd.session = none ∨ ∃ x, s.upd.session = some x ∧ x.binding ≠ b) ∧ r ∈ ([(.passComponentTable b true [1], 0x513), (.updateComponent b 1 0 true, 0x514), (.activateFirmware b true true, 0x51A), (.cancelUpdateComponent b true, 0x51C), (.cancelUpdate b true, 0x51D)] : List (Instr × Nat))) ∧
    (∃ (b : Nat), ∃ (s : State), ∃ (x : UpdSession), s.mcAnswers b = true ∧ s.upd.session = some x ∧ x.binding = b) ∧
    (∃ (b : Nat), ∃ (s : State), ∃ (x : UpdSession), ∃ (n : Nat), s.mcAnswers b = true ∧ s.upd.session = some x ∧ x.binding = b ∧ x.stage = 0 ∧ s.upd.table.contains 1 = true) ∧
    (∃ (b : Nat), ∃ (s : State), ∃ (x : UpdSession), ∃ (n : Nat), s.mcAnswers b = true ∧ s.upd.session = some x ∧ x.binding = b ∧ x.stage = 0 ∧ s.upd.table = [2]) ∧
    (∃ (b : Nat), ∃ (s : State), ∃ (x : UpdSession), ∃ (c : Nat), ∃ (n : Nat), s.mcAnswers b = true ∧ s.upd.session = some x ∧ x.binding = b ∧ c ∈ [1, 2] ∧ x.stage ≠ 0) ∧
    (∃ (b : Nat), ∃ (s : State), ∃ (x : UpdSession), s.mcAnswers b = true ∧ s.upd.session = some x ∧ x.binding = b ∧ 1 ≤ x.stage) ∧
    (∃ (s : State), ∃ (x : UpdSession), ∃ r, s.upd.session = some x ∧ s.mcAnswers x.binding = true ∧ x.request = none ∧ s.upd.nextRequest x = some r) ∧
    (∃ (s : State), ∃ (x : UpdSession), s.upd.session = some x ∧ s.mcAnswers x.binding = true ∧ x.stage = 1 ∧ s.upd.recv.length < hdrBytes) ∧
    (∃ (s : State), ∃ (x : UpdSession), ∃ (r : Nat × Nat), ∃ (d : List Byte), s.upd.session = some x ∧ s.mcAnswers x.binding = true ∧ x.request = some r ∧ d.length ≠ r.2) ∧
    (∃ (s : State), ∃ (x : UpdSession), ∃ (r : Nat × Nat), ∃ (d : List Byte), s.upd.session = some x ∧ s.mcAnswers x.binding = true ∧ x.request = some r ∧ d.length = r.2 ∧ x.stage = 1 ∧ (s.upd.recv ++ d).length < hdrBytes) ∧
    (∃ (s : State), ∃ (x : UpdSession), ∃ (r : Nat × Nat), ∃ (d : List Byte), s.upd.session = some x ∧ s.mcAnswers x.binding = true ∧ x.request = some r ∧ d.length = r.2 ∧ x.stage = 1 ∧ hdrBytes ≤ (s.upd.recv ++ d).length) ∧
    (∃ (s : State), ∃ (x : UpdSession), s.upd.session = some x ∧ s.mcAnswers x.binding = true ∧ x.stage = 3 ∧ x.comp = 1 ∧ s.upd.bodyOk s.upd.target = true) ∧
    (∃ (s : State), ∃ (x : UpdSession), s.upd.session = some x ∧ s.mcAnswers x.binding = true ∧ x.stage = 3 ∧ x.comp = 1 ∧ s.upd.bodyOk s.upd.target = false) :=
  ⟨⟨(1), (full), by decide +kernel⟩,
   ⟨(1), (full), (1), (16), by decide +kernel, by decide +kernel, by decide +kernel, by decide +kernel, by decide +kernel, by decide +kernel⟩,
   ⟨(1), (vs_UpdateSessions_4), (1), (16), by decide +kernel, by decide +kernel⟩,
   ⟨(1), (vs_UpdateSessions_5), ((.cancelUpdate 1 true, 0x51D)), by decide +kernel, by decide +kernel, by simp⟩,
   ⟨(1), (vs_UpdateSessions_6), (vx_UpdateSessions_6), by decide +kernel, by decide +kernel, by decide +kernel⟩,
   ⟨(1), (vs_UpdateSessions_7), (vx_UpdateSessions_7), (77), by decide +kernel, by decide +kernel, by decide +kernel, by decide +kernel, by decide +kernel⟩,
   ⟨(1), (vs_UpdateSessions_8), (vx_UpdateSessions_8), (77), by decide +kernel, by decide +kernel, by decide +kernel, by decide +kernel, by decide +kernel⟩,
   ⟨(1), (vs_UpdateSessions_9), (vx_UpdateSessions_9), (2), (77), by decide +kernel, by decide +kernel, by decide +kernel, by decide +kernel, by decide +kernel⟩,
   ⟨(1), (vs_UpdateSessions_10), (vx_UpdateSessions_10), by decide +kernel, by decide +kernel, by decide +kernel, by decide +kernel⟩,
   ⟨(vs_UpdateSessions_12), (vx_UpdateSessions_12), ((vs_UpdateSessions_12.upd.nextRequest vx_UpdateSessions_12).get (by decide +kernel)), by decide +kernel, by decide +kernel, by decide +kernel, by decide +kernel⟩,
   ⟨(vs_UpdateSessions_13), (vx_UpdateSessions_13), by decide +kernel, by decide +kernel, by decide +kernel, by decide +kernel⟩,
   ⟨(vs_UpdateSessions_14), (vx_UpdateSessions_14), ((0, 4)), ([1, 2, 3]), by decide +kernel, by decide +kernel, by decide +kernel, by decide +kernel⟩,
   ⟨(vs_UpdateSessions_15), (vx_UpdateSessions_15), ((0, 4)), ([1, 2, 3, 4]), by decide +kernel, by decide +kernel, by decide +kernel, by decide +kernel, by decide +kernel, by decide +kernel⟩,
   ⟨(vs_UpdateSessions_16), (vx_UpdateSessions_16), ((8188, 4)), ([1, 2, 3, 4]), by decide +kernel, by decide +kernel, by decide +kernel, by decide +kernel, by decide +kernel, by decide +kernel⟩,
   ⟨(vs_UpdateSessions_17), (vx_UpdateSessions_17), by decide +kernel, by decide +kernel, by decide +kernel, by decide +kernel, by decide +kernel⟩,
   ⟨(vs_UpdateSessions_18), (vx_UpdateSessions_18), by decide +kernel, by decide +kernel, by decide +kernel, by decide +kernel, by decide +kernel⟩⟩

def vx_Activation_0 : UpdSession := (⟨1, 0, 4096, 13, 1, 1000, none⟩ : UpdSession)
def vs_Activation_0 : State := { full with upd := { full.upd with session := some vx_Activation_0, applied := [1] } }
def vs_Activation_1 : State := { full with upd := { full.upd with applied := [1], flash := [(bankBase 1 + 4, 0), (bankBase 1 + 5, 0), (bankBase 1 + 6, 0), (bankBase 1 + 7, 0), (bankBase 1 + 13, 0), (bankBase 1 + 16, 1), (bankBase 1 + 17, 0), (bankBase 1 + 18, 0), (bankBase 1 + 19, 0), (bankBase 1 + 20, 0), (bankBase 1 + 24, 241), (bankBase 1 + 25, 43), (bankBase 1 + 26, 233), (bankBase 1 + 27, 80), (bankBase 1 + 28, 17), (bankBase 1 + 29, 250), (bankBase 1 + 30, 55), (bankBase 1 + 31, 222), (bankBase 1 + 32, 129), (bankBase 1 + 33, 191), (bankBase 1 + 34, 118), (bankBase 1 + 35, 190), (bankBase 1 + 36, 228), (bankBase 1 + 37, 231), (bankBase 1 + 38, 58), (bankBase 1 + 39, 153), (bankBase 1 + 40, 47), (bankBase 1 + 41, 67), (bankBase 1 + 42, 26), (bankBase 1 + 43, 124), (bankBase 1 + 44, 105), (bankBase 1 + 45, 182), (bankBase 1 + 46, 13), (bankBase 1 + 47, 36), (bankBase 1 + 48, 149), (bankBase 1 + 49, 199), (bankBase 1 + 50, 56), (bankBase 1 + 51, 58), (bankBase 1 + 52, 224), (bankBase 1 + 53, 84), (bankBase 1 + 54, 85), (bankBase 1 + 55, 105), (bankBase 1 + 56, 132), (bankBase 1 + 57, 42), (bankBase 1 + 58, 12), (bankBase 1 + 59, 1), (bankBase 1 + 60, 157), (bankBase 1 + 61, 137), (bankBase 1 + 62, 194), (bankBase 1 + 63, 8), (bankBase 1 + 64, 174), (bankBase 1 + 65, 72), (bankBase 1 + 66, 248), (bankBase 1 + 67, 67), (bankBase 1 + 68, 86), (bankBase 1 + 69, 43), (bankBase 1 + 70, 86), (bankBase 1 + 71, 255), (bankBase 1 + 8192, 7)] } }
def vs_Activation_4 : State := { full with upd := { full.upd with applied := [1] } }
def vs_Activation_5 : State := { full with upd := { full.upd with applied := [1] } }
def vs_Activation_6 : State := { full with upd := { full.upd with applied := [1], flash := [(bankBase 1 + 4, 0), (bankBase 1 + 5, 0), (bankBase 1 + 6, 0), (bankBase 1 + 7, 0), (bankBase 1 + 13, 9), (bankBase 1 + 16, 1), (bankBase 1 + 17, 0), (bankBase 1 + 18, 0), (bankBase 1 + 19, 0), (bankBase 1 + 20, 0), (bankBase 1 + 24, 241), (bankBase 1 + 25, 43), (bankBase 1 + 26, 233), (bankBase 1 + 27, 80), (bankBase 1 + 28, 17), (bankBase 1 + 29, 250), (bankBase 1 + 30, 55), (bankBase 1 + 31, 222), (bankBase 1 + 32, 129), (bankBase 1 + 33, 191), (bankBase 1 + 34, 118), (bankBase 1 + 35, 190), (bankBase 1 + 36, 228), (bankBase 1 + 37, 231), (bankBase 1 + 38, 58), (bankBase 1 + 39, 153), (bankBase 1 + 40, 47), (bankBase 1 + 41, 67), (bankBase 1 + 42, 26), (bankBase 1 + 43, 124), (bankBase 1 + 44, 105), (bankBase 1 + 45, 182), (bankBase 1 + 46, 13), (bankBase 1 + 47, 36), (bankBase 1 + 48, 149), (bankBase 1 + 49, 199), (bankBase 1 + 50, 56), (bankBase 1 + 51, 58), (bankBase 1 + 52, 224), (bankBase 1 + 53, 84), (bankBase 1 + 54, 85), (bankBase 1 + 55, 105), (bankBase 1 + 56, 132), (bankBase 1 + 57, 42), (bankBase 1 + 58, 12), (bankBase 1 + 59, 1), (bankBase 1 + 60, 157), (bankBase 1 + 61, 137), (bankBase 1 + 62, 194), (bankBase 1 + 63, 8), (bankBase 1 + 64, 174), (bankBase 1 + 65, 72), (bankBase 1 + 66, 248), (bankBase 1 + 67, 67), (bankBase 1 + 68, 86), (bankBase 1 + 69, 43), (bankBase 1 + 70, 86), (bankBase 1 + 71, 255), (bankBase 1 + 8192, 7)] } }
def vs_Activation_7 : State := { full with upd := { full.upd with applied := [1], conf := { full.upd.conf with groups := [8] } } }
def va_Activation_8 : Armed := ⟨1, 10^9 + 10^6⟩
def vs_Activation_8 : State := { full with upd := { full.upd with armed := some va_Activation_8 } }
def vs_Activation_9 : State := { full with upd := { full.upd with armed := some (⟨0, 7⟩) } }
def vs_Activation_10 : State := { full with upd := { full.upd with armed := some (⟨1, 10^9 + 1⟩) } }
def vs_Activation_11 : State := { full with upd := { full.upd with armed := some (⟨1, 10^9⟩), flash := [(bankBase 1 + 4, 0), (bankBase 1 + 5, 0), (bankBase 1 + 6, 0), (bankBase 1 + 7, 0), (bankBase 1 + 13, 0), (bankBase 1 + 16, 1), (bankBase 1 + 17, 0), (bankBase 1 + 18, 0), (bankBase 1 + 19, 0), (bankBase 1 + 20, 0), (bankBase 1 + 24, 241), (bankBase 1 + 25, 43), (bankBase 1 + 26, 233), (bankBase 1 + 27, 80), (bankBase 1 + 28, 17), (bankBase 1 + 29, 250), (bankBase 1 + 30, 55), (bankBase 1 + 31, 222), (bankBase 1 + 32, 129), (bankBase 1 + 33, 191), (bankBase 1 + 34, 118), (bankBase 1 + 35, 190), (bankBase 1 + 36, 228), (bankBase 1 + 37, 231), (bankBase 1 + 38, 58), (bankBase 1 + 39, 153), (bankBase 1 + 40, 47), (bankBase 1 + 41, 67), (bankBase 1 + 42, 26), (bankBase 1 + 43, 124), (bankBase 1 + 44, 105), (bankBase 1 + 45, 182), (bankBase 1 + 46, 13), (bankBase 1 + 47, 36), (bankBase 1 + 48, 149), (bankBase 1 + 49, 199), (bankBase 1 + 50, 56), (bankBase 1 + 51, 58), (bankBase 1 + 52, 224), (bankBase 1 + 53, 84), (bankBase 1 + 54, 85), (bankBase 1 + 55, 105), (bankBase 1 + 56, 132), (bankBase 1 + 57, 42), (bankBase 1 + 58, 12), (bankBase 1 + 59, 1), (bankBase 1 + 60, 157), (bankBase 1 + 61, 137), (bankBase 1 + 62, 194), (bankBase 1 + 63, 8), (bankBase 1 + 64, 174), (bankBase 1 + 65, 72), (bankBase 1 + 66, 248), (bankBase 1 + 67, 67), (bankBase 1 + 68, 86), (bankBase 1 + 69, 43), (bankBase 1 + 70, 86), (bankBase 1 + 71, 255), (bankBase 1 + 8192, 7)] } }
def vs_Activation_12 : State := { full with upd := { full.upd with trial := true, rollback := 3 } }
def vs_Activation_14 : State := { full with upd := { full.upd with trial := true, trialMs := trialLimit - 1 } }
def vs_Activation_15 : State := { full with upd := { full.upd with trial := true, trialMs := trialLimit, flash := [(bankBase 1 + 4, 0), (bankBase 1 + 5, 0), (bankBase 1 + 6, 0), (bankBase 1 + 7, 0), (bankBase 1 + 13, 0), (bankBase 1 + 16, 1), (bankBase 1 + 17, 0), (bankBase 1 + 18, 0), (bankBase 1 + 19, 0), (bankBase 1 + 20, 0), (bankBase 1 + 24, 241), (bankBase 1 + 25, 43), (bankBase 1 + 26, 233), (bankBase 1 + 27, 80), (bankBase 1 + 28, 17), (bankBase 1 + 29, 250), (bankBase 1 + 30, 55), (bankBase 1 + 31, 222), (bankBase 1 + 32, 129), (bankBase 1 + 33, 191), (bankBase 1 + 34, 118), (bankBase 1 + 35, 190), (bankBase 1 + 36, 228), (bankBase 1 + 37, 231), (bankBase 1 + 38, 58), (bankBase 1 + 39, 153), (bankBase 1 + 40, 47), (bankBase 1 + 41, 67), (bankBase 1 + 42, 26), (bankBase 1 + 43, 124), (bankBase 1 + 44, 105), (bankBase 1 + 45, 182), (bankBase 1 + 46, 13), (bankBase 1 + 47, 36), (bankBase 1 + 48, 149), (bankBase 1 + 49, 199), (bankBase 1 + 50, 56), (bankBase 1 + 51, 58), (bankBase 1 + 52, 224), (bankBase 1 + 53, 84), (bankBase 1 + 54, 85), (bankBase 1 + 55, 105), (bankBase 1 + 56, 132), (bankBase 1 + 57, 42), (bankBase 1 + 58, 12), (bankBase 1 + 59, 1), (bankBase 1 + 60, 157), (bankBase 1 + 61, 137), (bankBase 1 + 62, 194), (bankBase 1 + 63, 8), (bankBase 1 + 64, 174), (bankBase 1 + 65, 72), (bankBase 1 + 66, 248), (bankBase 1 + 67, 67), (bankBase 1 + 68, 86), (bankBase 1 + 69, 43), (bankBase 1 + 70, 86), (bankBase 1 + 71, 255), (bankBase 1 + 8192, 7)] } }
theorem witness_Activation :
    (∃ (b : Nat), ∃ (sc : Bool), ∃ (s : State), ∃ (x : UpdSession), s.mcAnswers b = true ∧ s.upd.session = some x ∧ x.binding = b ∧ x.stage = 0 ∧ s.upd.applied.contains s.upd.target = true ∧ s.upd.armed = none ∧ (sc = true → s.needsReset s.upd.target = false)) ∧
    (∃ (w : Nat), ∃ (s : State), s.armCode (fld w 2 2) (bit w 4) (fld w 16 16) (fld w 64 64) = actArmed) ∧
    (∃ (w : Nat), ∃ (c : Nat), ∃ (s : State), s.armCode (fld w 2 2) (bit w 4) (fld w 16 16) (fld w 64 64) = c ∧ c ≠ actArmed ∧ c < 16) ∧
    (∃ (mode : Nat), ∃ (g : Nat), ∃ (x : Nat), ∃ (al : Bool), ∃ (s : State), s.upd.applied.contains s.upd.target = false) ∧
    (∃ (mode : Nat), ∃ (g : Nat), ∃ (x : Nat), ∃ (al : Bool), ∃ (s : State), mode < 3 ∧ s.upd.applied.contains s.upd.target = true ∧ s.upd.armed = none ∧ (g = 0 ∨ s.upd.conf.groups.contains g = true) ∧ mode = 1 ∧ x < s.timeNs + 10 ^ 7) ∧
    (∃ (mode : Nat), ∃ (g : Nat), ∃ (x : Nat), ∃ (al : Bool), ∃ (s : State), mode < 3 ∧ s.upd.applied.contains s.upd.target = true ∧ s.upd.armed = none ∧ (g = 0 ∨ s.upd.conf.groups.contains g = true) ∧ mode = 2 ∧ s.epoch + 2 ≤ x ∧ s.rf R.TLN_STATUS 0 2 ≠ 2) ∧
    (∃ (mode : Nat), ∃ (g : Nat), ∃ (x : Nat), ∃ (al : Bool), ∃ (s : State), mode < 3 ∧ s.upd.applied.contains s.upd.target = true ∧ s.upd.armed = none ∧ (g = 0 ∨ s.upd.conf.groups.contains g = true) ∧ mode = 0 ∧ s.needsReset s.upd.target = true ∧ al = false) ∧
    (∃ (mode : Nat), ∃ (g : Nat), ∃ (x : Nat), ∃ (al : Bool), ∃ (s : State), mode < 3 ∧ s.upd.applied.contains s.upd.target = true ∧ s.upd.armed = none ∧ (g = 0 ∨ s.upd.conf.groups.contains g = true) ∧ mode = 0 ∧ al = true) ∧
    (∃ (w : Nat), ∃ (s : State), ∃ (a : Armed), s.upd.armed = some a ∧ a.mode = 1 ∧ s.timeNs + 10 ^ 6 ≤ a.when') ∧
    (∃ (w : Nat), ∃ (s : State), ∃ (a : Armed), s.upd.armed = some a ∧ a.mode = 0) ∧
    (∃ (straps : Nat), ∃ (s : State), ∃ (a : Armed), s.upd.armed = some a ∧ s.dev = .run ∧ a.mode = 1 ∧ s.timeNs < a.when') ∧
    (∃ (straps : Nat), ∃ (s : State), ∃ (a : Armed), s.upd.armed = some a ∧ s.dev = .run ∧ a.mode = 1 ∧ a.when' ≤ s.timeNs ∧ s.needsReset s.upd.target = false) ∧
    (∃ (s : State), s.upd.trial = true) ∧
    (∃ (s : State), s.upd.trial = false) ∧
    (∃ (straps : Nat), ∃ (s : State), s.upd.trial = true ∧ s.dev = .run ∧ s.upd.trialMs < trialLimit) ∧
    (∃ (straps : Nat), ∃ (s : State), s.upd.trial = true ∧ s.dev = .run ∧ trialLimit ≤ s.upd.trialMs ∧ s.needsReset s.upd.target = false) :=
  ⟨⟨(1), (false), (vs_Activation_0), (vx_Activation_0), by decide +kernel, by decide +kernel, by decide +kernel, by decide +kernel, by decide +kernel, by decide +kernel, by decide +kernel⟩,
   ⟨(16 + 77 * 2^64), (vs_Activation_1), by decide +kernel⟩,
   ⟨(16 + 77 * 2^64), (3), (full), by decide +kernel, by decide +kernel, by decide +kernel⟩,
   ⟨(1), (0), (5), (true), (full), by decide +kernel⟩,
   ⟨(1), (0), (5), (true), (vs_Activation_4), by decide +kernel, by decide +kernel, by decide +kernel, by decide +kernel, by decide +kernel, by decide +kernel⟩,
   ⟨(2), (0), (9000000), (true), (vs_Activation_5), by decide +kernel, by decide +kernel, by decide +kernel, by decide +kernel, by decide +kernel, by decide +kernel, by decide +kernel⟩,
   ⟨(0), (0), (5), (false), (vs_Activation_6), by decide +kernel, by decide +kernel, by decide +kernel, by decide +kernel, by decide +kernel, by decide +kernel, by decide +kernel⟩,
   ⟨(0), (8), (5), (true), (vs_Activation_7), by decide +kernel, by decide +kernel, by decide +kernel, by decide +kernel, by decide +kernel, by decide +kernel⟩,
   ⟨(16 + 77 * 2^64), (vs_Activation_8), (va_Activation_8), by decide +kernel, by decide +kernel, by decide +kernel⟩,
   ⟨(16 + 77 * 2^64), (vs_Activation_9), (⟨0, 7⟩), by decide +kernel, by decide +kernel⟩,
   ⟨(0), (vs_Activation_10), (⟨1, 10^9 + 1⟩), by decide +kernel, by decide +kernel, by decide +kernel, by decide +kernel⟩,
   ⟨(0), (vs_Activation_11), (⟨1, 10^9⟩), by decide +kernel, by decide +kernel, by decide +kernel, by decide +kernel, by decide +kernel⟩,
   ⟨(vs_Activation_12), by decide +kernel⟩,
   ⟨(full), by decide +kernel⟩,
   ⟨(0), (vs_Activation_14), by decide +kernel, by decide +kernel, by decide +kernel⟩,
   ⟨(0), (vs_Activation_15), by decide +kernel, by decide +kernel, by decide +kernel, by decide +kernel⟩⟩

def vs_PowerAndResets_0 : State := { full with dev := .off }
def vs_PowerAndResets_2 : State := { setRegs (full) [(R.CLK_STATUS, 1)] with dev := .boot, upd := { full.upd with runBank := some 0 } }
def vs_PowerAndResets_4 : State := { full with mgt := { full.mgt with powerCmd := 4 }, ring := { full.ring with jobs := [jb 0 5 1 (D [(0, 1)])] }, mem := { full.mem with bytes := [(5, 6)] } }
def vs_PowerAndResets_5 : State := { full with mem := { full.mem with bytes := [(5, 6)] } }
def vs_PowerAndResets_6 : State := { full with dev := .railsOff, clk := { full.clk with brownOut := true } }
def vs_PowerAndResets_10 : State := setRegs ({ full with mem := { full.mem with bytes := [(5, 6), (cellDpa 7 64, 9), (cellDpa 128 0, 8)] } }) [(R.LAT_CELL_STATE 7, 1 + 256)]
def vs_PowerStates_2 : State := { base with hubPow := [(11, .waking)] }
def vs_PowerStates_3 : State := { base with slices := [], mgt := { base.mgt with powerCmd := 2 } }
def vs_PowerStates_4 : State := { base with dev := .retention, mgt := { base.mgt with powerCmd := 5 } }
def vs_PowerStates_5 : State := { full with mgt := { base.mgt with powerCmd := 3 } }
def vs_PowerStates_6 : State := { base with dev := .meringue, mgt := { base.mgt with powerCmd := 1 } }
theorem witness_PowerAndResets :
    (∃ (x : Nat), ∃ (c : Nat), ∃ (puf : Bool), ∃ (s : State), s.dev = .off ∧ bit c 5 = true) ∧
    (∃ (x : Nat), ∃ (c : Nat), ∃ (puf : Bool), ∃ (s : State), s.dev ≠ .off) ∧
    (∃ (w : Nat), ∃ (x : Nat), ∃ (b : Nat), ∃ (f : Bool), ∃ (s : State), s.dev = .boot ∧ s.upd.runBank = some b ∧ w ≤ 4 ∧ 1 ≤ x ∧ x ≤ 6 ∧ s.pcie.perst = false ∧ s.rf R.CLK_STATUS 0 1 = 1 ∧ s.stor.recorded = [] ∧ s.upd.conf.octets = none ∧ s.upd.toConvert = []) ∧
    (∃ (w : Nat), ∃ (x : Nat), ∃ (f : Bool), ∃ (s : State), s.dev ≠ .boot) ∧
    (∃ (x : Nat), ∃ (s : State), s.mgt.powerCmd = 4 ∧ s.dev = .run ∧ s.clk.tripped = false ∧ s.upd.armed = none ∧ s.upd.trial = false) ∧
    (∃ (s : State), s.dev = .run ∧ s.clk.brownOut = false) ∧
    (∃ (x : Nat), ∃ (s : State), s.clk.brownOut = true ∧ s.clk.tripped = false) ∧
    (∃ (x : Nat), ∃ (s : State), s.clk.brownOut = false) ∧
    (∃ (s : State), s.dev ≠ .off) ∧
    (∃ (w : Nat), ∃ (d : Nat), ∃ (s : State), d = fld w 0 5 ∧ bit w 5 = true ∧ s.dev = .run ∧ 13 ≤ d ∧ d ≤ 16 ∧ s.clk.dieResets = [] ∧ s.tmt.qps = [] ∧ (s.die (d - 13)).queues = [] ∧ (∀ i, i < 8 → s.rf (R.PRT_OCTET_STATUS (8 * (d - 13) + i)) 0 3 = 0 ∧ s.linkOf (8 * (d - 13) + i) = none)) ∧
    (∃ (w : Nat), ∃ (d : Nat), ∃ (s : State), d = fld w 0 5 ∧ bit w 5 = true ∧ s.dev = .run ∧ 1 ≤ d ∧ d ≤ 12 ∧ s.clk.dieResets = [] ∧ s.pipes.tab = [] ∧ s.ckp.jobs = [] ∧ s.mem.guard = [] ∧ s.pcie.landings = []) ∧
    (∃ (w : Nat), ∃ (s : State), (bit w 5 = false ∨ fld w 0 5 = 0 ∨ 16 < fld w 0 5 ∨ s.dev ≠ .run)) ∧
    (∃ (h : Nat), ∃ (s : State), h < 12 ∧ s.hubQuiet h = true ∧ s.hubAwake h = true) ∧
    (∃ (h : Nat), ∃ (s : State), h < 12 ∧ s.hubIdle h = true ∧ (Tbl.get s.hubPow h .run = .run ∨ Tbl.get s.hubPow h .run = .clockGated)) ∧
    (∃ (h : Nat), ∃ (s : State), Tbl.get s.hubPow h .run = .waking) ∧
    (∃ (s : State), s.mgt.powerCmd = 2 ∧ s.dev = .run) ∧
    (∃ (w : Nat), ∃ (v : Nat), ∃ (f : Bool), ∃ (s : State), s.dev = .retention ∧ (s.mgt.powerCmd = 1 ∨ s.mgt.powerCmd = 5)) ∧
    (∃ (s : State), s.mgt.powerCmd = 3 ∧ s.dev ≠ .off ∧ s.dev ≠ .meringue) ∧
    (∃ (s : State), s.dev = .meringue) :=
  ⟨⟨(21), (32), (true), (vs_PowerAndResets_0), by decide +kernel, by decide +kernel⟩,
   ⟨(21), (32), (true), (full), by decide +kernel⟩,
   ⟨(4), (6), (0), (false), (vs_PowerAndResets_2), by decide +kernel, by decide +kernel, by decide +kernel, by decide +kernel, by decide +kernel, by decide +kernel, by decide +kernel, by decide +kernel, by decide +kernel, by decide +kernel⟩,
   ⟨(4), (21), (false), (full), by decide +kernel⟩,
   ⟨(21), (vs_PowerAndResets_4), by decide +kernel, by decide +kernel, by decide +kernel, by decide +kernel, by decide +kernel⟩,
   ⟨(vs_PowerAndResets_5), by decide +kernel, by decide +kernel⟩,
   ⟨(21), (vs_PowerAndResets_6), by decide +kernel, by decide +kernel⟩,
   ⟨(21), (full), by decide +kernel⟩,
   ⟨(full), by decide +kernel⟩,
   ⟨(45), (13), (full), by decide +kernel, by decide +kernel, by decide +kernel, by decide +kernel, by decide +kernel, by decide +kernel, by decide +kernel, by decide +kernel, by decide +kernel⟩,
   ⟨(33), (1), (vs_PowerAndResets_10), by decide +kernel, by decide +kernel, by decide +kernel, by decide +kernel, by decide +kernel, by decide +kernel, by decide +kernel, by decide +kernel, by decide +kernel, by decide +kernel⟩,
   ⟨(5), (full), by decide +kernel⟩,
   ⟨(11), (base), by decide +kernel, by decide +kernel, by decide +kernel⟩,
   ⟨(11), (base), by decide +kernel, by decide +kernel, by decide +kernel⟩,
   ⟨(11), (vs_PowerStates_2), by decide +kernel⟩,
   ⟨(vs_PowerStates_3), by decide +kernel, by decide +kernel⟩,
   ⟨(1), (2), (true), (vs_PowerStates_4), by decide +kernel, by decide +kernel⟩,
   ⟨(vs_PowerStates_5), by decide +kernel, by decide +kernel, by decide +kernel⟩,
   ⟨(vs_PowerStates_6), by decide +kernel⟩⟩

def vs_ClocksAndLimits_0 : State := setRegs (full) [(R.CLK_STATUS, 33), (R.TLN_STATUS, 2), (R.CLK_PLL_LOCK, 0x7FFFFFFF)]
def vs_ClocksAndLimits_1 : State := { full with dev := .off }
def vs_ClocksAndLimits_2 : State := setRegs (full) [(R.CLK_PLL_LOCK, 0x7FFFFFFF)]
def vs_ClocksAndLimits_4 : State := { setRegs (full) [(R.LAT_CELL_STATE 7, 2 + 256)] with seqs := [(7, { Seq.fresh with pc := 64, wq := [(0, 64, [(5, [1])]), (0, 128, [(6, [2])])] })] }
def vs_ClocksAndLimits_5 : State := { full with pcie := { full.pcie with held := [.read 3 7 8, .sync 3] } }
def vs_ClocksAndLimits_6 : State := { withPipe { pipe0 with img := { img0 with chans := [{ ch0 with sCell := 7, rCell := 135, hub := 1 }] } } with lat := { full.lat with gates := [⟨1, 1, true, 1, 5, []⟩, ⟨1, 2, true, 1, 5, []⟩] } }
def vj_ClocksAndLimits_7 : Job := jb 0 5 1 (D [(0, 1)])
def vs_ClocksAndLimits_7 : State := fjobs [vj_ClocksAndLimits_7]
def vs_ClocksAndLimits_10 : State := setRegs (full) [(R.TLN_CTRL, 5)]
def vs_ClocksAndLimits_11 : State := setRegs (full) [(R.TLN_CTRL, 16)]
def vs_ClocksAndLimits_14 : State := { full with clk := { full.clk with octAt := [(3, 10^9 - 49999)] } }
def vs_ClocksAndLimits_15 : State := setRegs (full) [(R.PRT_OCTET_STATUS 31, 1)]
def vs_ClocksAndLimits_17 : State := setRegs ({ full with phys := { full.phys with hold := [(11, 2)] }, clk := { full.clk with dvfsAt := [(11, 10^9 - 20000)] } }) [(R.LAT_HUB_CTRL 11, 4)]
def vs_ClocksAndLimits_18 : State := setRegs (full) [(R.MGT_TEMP 3, 0x10000 + 900)]
def vs_ClocksAndLimits_20 : State := { full with phys := { full.phys with nextStep := 10^9 + 1 } }
def vs_ClocksAndLimits_21 : State := { setRegs (full) [(R.LAT_HUB_CTRL 3, 3)] with phys := { full.phys with hold := [(3, 2)], coolMs := 100 } }
theorem witness_ClocksAndLimits :
    (∃ (s : State), s.dev = .run ∧ s.rf R.CLK_STATUS 5 1 = 1) ∧
    (∃ (s : State), (s.dev = .off ∨ s.dev = .meringue ∨ s.rf R.CLK_STATUS 5 1 = 0)) ∧
    (∃ (n : Nat), ∃ (s : State), n < 31) ∧
    (∃ (d : Nat), ∃ (a : Nat), ∃ (b : Nat), ∃ (s : State), d ≤ 16 ∧ s.dev = .run ∧ a < 3) ∧
    (∃ (d : Nat), ∃ (a : Nat), ∃ (b : Nat), ∃ (s : State), d ≤ 16 ∧ s.dev = .run ∧ a < 1536 ∧ s.cellState a ≠ csFaulted ∧ (s.seq a).pipe = none) ∧
    (∃ (d : Nat), ∃ (a : Nat), ∃ (b : Nat), ∃ (e : Nat), ∃ (w : Nat), ∃ (n : Nat), ∃ (rest : List HostReq), ∃ (s : State), d ≤ 16 ∧ s.dev = .run ∧ s.pcie.held = .read e w n :: rest) ∧
    (∃ (a : Nat), ∃ (b : Nat), ∃ (s : State), a < 12 ∧ b < 4 ∧ s.dev = .run) ∧
    (∃ (d : Nat), ∃ (sr : Nat), ∃ (tag : Nat), ∃ (s : State), ∃ (j : Job), d ≤ 16 ∧ s.dev = .run ∧ s.job sr tag = some j ∧ ¬(0x30 ≤ dOpcode j.desc ∧ dOpcode j.desc ≤ 0x36) ∧ s.allLanded sr tag) ∧
    (∃ (d : Nat), ∃ (k : Nat), ∃ (s : State), d ≤ 16 ∧ k < 16 ∧ s.dev = .run) ∧
    (∃ (off : Int), ∃ (s : State), s.dev = .run ∧ (s.rf R.TLN_CTRL 0 1 = 0 ∨ s.rf R.TLN_CTRL 2 2 ≠ 1)) ∧
    (∃ (off : Int), ∃ (s : State), s.dev = .run ∧ s.rf R.TLN_CTRL 0 1 = 1 ∧ s.rf R.TLN_CTRL 2 2 = 1) ∧
    (∃ (s : State), s.rf R.TLN_CTRL 4 1 = 1 ∧ s.timeNs / 10 ^ 9 ≠ s.clk.ppsSec) ∧
    (∃ (s : State), (s.rf R.TLN_CTRL 4 1 = 0 ∨ s.timeNs / 10 ^ 9 = s.clk.ppsSec)) ∧
    (∃ (p : Nat), ∃ (s : State), p < 4 ∧ (∀ i, i < 8 → s.rf (R.PRT_OCTET_STATUS (8 * p + i)) 0 3 = 0) ∧ Tbl.get s.clk.octAt p 0 + 50000 ≤ s.timeNs) ∧
    (∃ (p : Nat), ∃ (s : State), p < 4 ∧ s.timeNs < Tbl.get s.clk.octAt p 0 + 50000) ∧
    (∃ (p : Nat), ∃ (s : State), ∃ i, p < 4 ∧ i < 8 ∧ s.rf (R.PRT_OCTET_STATUS (8 * p + i)) 0 3 ≠ 0) ∧
    (∃ (h : Nat), ∃ (v : Nat), ∃ (s : State), h < 12) ∧
    (∃ (h : Nat), ∃ (s : State), h < 12 ∧ (∀ x, Tbl.find s.clk.dvfsAt h = some x → x + 20000 ≤ s.timeNs)) ∧
    (∃ (s : State), s.dev = .run ∧ (s.hot = true ∨ s.overPower = true) ∧ s.phys.nextStep ≤ s.timeNs) ∧
    (∃ (s : State), s.hot = false ∧ s.overPower = false) ∧
    (∃ (s : State), s.timeNs < s.phys.nextStep) ∧
    (∃ (s : State), ∃ (h : Nat), ∃ (v : Nat), s.dev = .run ∧ 100 ≤ s.phys.coolMs ∧ s.cool = true ∧ s.overPower = false ∧ Tbl.find s.phys.hold h = some v) ∧
    (∃ (s : State), s.phys.coolMs < 100) :=
  ⟨⟨(vs_ClocksAndLimits_0), by decide +kernel, by decide +kernel⟩,
   ⟨(vs_ClocksAndLimits_1), by decide +kernel⟩,
   ⟨(30), (vs_ClocksAndLimits_2), by decide +kernel⟩,
   ⟨(16), (2), (7), (full), by decide +kernel, by decide +kernel, by decide +kernel⟩,
   ⟨(16), (7), (64), (vs_ClocksAndLimits_4), by decide +kernel, by decide +kernel, by decide +kernel, by decide +kernel, by decide +kernel⟩,
   ⟨(16), (0), (7), (3), (7), (8), ([.sync 3]), (vs_ClocksAndLimits_5), by decide +kernel, by decide +kernel, by decide +kernel⟩,
   ⟨(1), (1), (vs_ClocksAndLimits_6), by decide +kernel, by decide +kernel, by decide +kernel⟩,
   ⟨(16), (0), (5), (vs_ClocksAndLimits_7), (vj_ClocksAndLimits_7), by decide +kernel, by decide +kernel, by decide +kernel, by decide +kernel, landed_of (by decide +kernel)⟩,
   ⟨(16), (15), (full), by decide +kernel, by decide +kernel, by decide +kernel⟩,
   ⟨(-5), (full), by decide +kernel, by decide +kernel⟩,
   ⟨(-5), (vs_ClocksAndLimits_10), by decide +kernel, by decide +kernel, by decide +kernel⟩,
   ⟨(vs_ClocksAndLimits_11), by decide +kernel, by decide +kernel⟩,
   ⟨(full), by decide +kernel⟩,
   ⟨(3), (full), by decide +kernel, by decide +kernel, by decide +kernel⟩,
   ⟨(3), (vs_ClocksAndLimits_14), by decide +kernel, by decide +kernel⟩,
   ⟨(3), (vs_ClocksAndLimits_15), (7), by decide +kernel, by decide +kernel, by decide +kernel⟩,
   ⟨(11), (13), (full), by decide +kernel⟩,
   ⟨(11), (vs_ClocksAndLimits_17), by decide +kernel, by decide +kernel⟩,
   ⟨(vs_ClocksAndLimits_18), by decide +kernel, by decide +kernel, by decide +kernel⟩,
   ⟨(full), by decide +kernel, by decide +kernel⟩,
   ⟨(vs_ClocksAndLimits_20), by decide +kernel⟩,
   ⟨(vs_ClocksAndLimits_21), (3), (2), by decide +kernel, by decide +kernel, by decide +kernel, by decide +kernel, by decide +kernel⟩,
   ⟨(full), by decide +kernel⟩⟩

end Sys2Proof.Tests
end

section
/-! PROOFS. Registers and counters (R5 to R8): what a field write does to a bit, what a register write within one register does, what counting
moves, and what a capture puts into a latch copy. -/

namespace Sys2Proof.Machine

/-! ## Bits of a sum and of a number with bits cleared -/

theorem not_both_odd_of_disjoint {x y : Nat} (h : x &&& y = 0) : ¬(x % 2 = 1 ∧ y % 2 = 1) := by
  rw [← Nat.and_mod_two_eq_one, h]; decide

/-- Where two numbers share no bit, adding them carries nothing. -/
theorem testBit_add_of_disjoint (k : Nat) {x y : Nat} (h : x &&& y = 0) : (x + y).testBit k = (x.testBit k || y.testBit k) := by
  induction k generalizing x y with
  | zero =>
    have odd := not_both_odd_of_disjoint h
    simp only [Nat.testBit_zero, ← Bool.decide_or, decide_eq_decide]
    omega
  | succ k ih =>
    have odd := not_both_odd_of_disjoint h
    have halves : (x + y) / 2 = x / 2 + y / 2 := by omega
    rw [Nat.testBit_add_one, Nat.testBit_add_one, Nat.testBit_add_one, halves]
    exact ih (by rw [← Nat.and_div_two, h])

/-- Clearing bits is a subtraction that borrows nothing. -/
theorem clearBits_eq_xor (x m : Nat) : clearBits x m = x ^^^ (x &&& m) := by
  have disjoint : (x ^^^ (x &&& m)) &&& (x &&& m) = 0 := Nat.eq_of_testBit_eq fun i => by
    rw [Nat.testBit_and, Nat.testBit_xor, Nat.testBit_and, Nat.zero_testBit]
    cases x.testBit i <;> cases m.testBit i <;> rfl
  have whole : (x ^^^ (x &&& m)) + (x &&& m) = x := Nat.eq_of_testBit_eq fun i => by
    rw [testBit_add_of_disjoint i disjoint, Nat.testBit_xor, Nat.testBit_and]
    cases x.testBit i <;> cases m.testBit i <;> rfl
  unfold clearBits
  omega

@[simp] theorem testBit_clearBits (x m k : Nat) : (clearBits x m).testBit k = (x.testBit k && !m.testBit k) := by
  rw [clearBits_eq_xor, Nat.testBit_xor, Nat.testBit_and]
  cases x.testBit k <;> cases m.testBit k <;> rfl

@[simp] theorem testBit_ones (lo w k : Nat) : (ones lo w).testBit k = (decide (lo ≤ k) && decide (k < lo + w)) := by
  rw [ones, Nat.testBit_shiftLeft, Nat.testBit_two_pow_sub_one, Bool.eq_iff_iff]
  simp only [Bool.and_eq_true, decide_eq_true_eq]
  omega

/-- Replacing the bits of x under a mask by those of d. -/
theorem testBit_masked_write (x d m k : Nat) :
    (clearBits x m + (d &&& m)).testBit k = if m.testBit k then d.testBit k else x.testBit k := by
  have disjoint : clearBits x m &&& (d &&& m) = 0 := Nat.eq_of_testBit_eq fun i => by
    rw [Nat.testBit_and, testBit_clearBits, Nat.testBit_and, Nat.zero_testBit]
    cases m.testBit i <;> simp
  rw [testBit_add_of_disjoint k disjoint, testBit_clearBits, Nat.testBit_and]
  cases m.testBit k <;> simp

/-! ## A field written (R5) -/

/-- A bit of a register after a write to one of its fields, by the field's access code. -/
theorem FieldSpec.testBit_write (f : FieldSpec) (locked : Bool) (cur d m k : Nat) :
    (f.write locked cur d m).testBit k =
      if f.lo ≤ k ∧ k < f.lo + f.width ∧ m.testBit k = true then
        match f.acc with
        | .rw => d.testBit k
        | .rwl => if locked then cur.testBit k else d.testBit k
        | .w1c => cur.testBit k && !d.testBit k
        | .w1s => cur.testBit k || d.testBit k
        | .ro | .wo | .rc | .ev => cur.testBit k
      else cur.testBit k := by
  have mask : (ones f.lo f.width &&& m).testBit k = decide (f.lo ≤ k ∧ k < f.lo + f.width ∧ m.testBit k = true) := by
    rw [Nat.testBit_and, testBit_ones]; simp [Bool.and_assoc]
  unfold FieldSpec.write
  by_cases hk : f.lo ≤ k ∧ k < f.lo + f.width ∧ m.testBit k = true
  · rw [decide_eq_true hk] at mask
    rw [if_pos hk]
    cases f.acc <;> cases locked <;> simp [testBit_masked_write, mask]
  · rw [decide_eq_false hk] at mask
    rw [if_neg hk]
    cases f.acc <;> cases locked <;> simp [testBit_masked_write, mask]

/-! ## A register written (R5, R6) -/

/-- A write that one register or counter holds whole reaches nothing else. -/
theorem State.softWriteOver_one (k : Nat) (s : State) {a n : Nat} (v : Nat) (hn : n ≠ 0) (hspan : readSpan a n = n) :
    State.softWriteOver (k + 2) s a n v = s.softWriteOne a n (v % 2 ^ (8 * n)) := by
  simp [State.softWriteOver, hn, hspan]

/-- REGISTER_WRITE of a good size and alignment, apart from the check-value units. -/
theorem exec_registerWrite (s : State) {a n : Nat} (v : Nat) (hn : n = 4 ∨ n = 8) (ha : a % n = 0) (hcrc : a < R.CRC_CFG 0 ∨ R.CRC_CFG 4 ≤ a) :
    exec (.registerWrite a n v) s = .next (State.softWriteOver 4 s a n v) := by
  have good : ((n = 4 || n = 8) && a % n = 0) = true := by simpa using ⟨hn, ha⟩
  have plain : ¬(R.CRC_CFG 0 ≤ a && a < R.CRC_CFG 4) = true := by
    simp only [Bool.and_eq_true, decide_eq_true_eq]; omega
  show execRegisterWrite a n v s = _
  rw [execRegisterWrite, if_pos good, State.softWrite, if_neg plain]

theorem exec_registerWrite_ignored (s : State) {a n : Nat} (v : Nat) (h : ¬((n = 4 ∨ n = 8) ∧ a % n = 0)) :
    exec (.registerWrite a n v) s = .next s := by
  have bad : ¬((n = 4 || n = 8) && a % n = 0) = true := by simpa using h
  show execRegisterWrite a n v s = _
  rw [execRegisterWrite, if_neg bad]

/-- A write to one register that its own lock does not refuse, as its access codes and what it moves besides give it. -/
theorem State.softWriteOne_reg (s : State) {a own u i : Nat} (n v : Nat) {r : RegSpec} (hc : findCtr a = none) (hr : findReg a = some (r, own, u, i))
    (hown : own ∉ [R.CTL_ADMIN_SR_BASE, R.CTL_ADMIN_CR_BASE, R.CTL_ADMIN_EQ_BASE]) :
    s.softWriteOne a n v = (s.regWrite a n v).afterWrite r own u i a n v (s.rd own) := by
  simp only [List.mem_cons, List.not_mem_nil, or_false, not_or] at hown
  obtain ⟨h1, h2, h3⟩ := hown
  simp [State.softWriteOne, hc, hr, h1, h2, h3]

theorem State.softWriteOne_none (s : State) {a : Nat} (n v : Nat) (hc : findCtr a = none) (hr : findReg a = none) : s.softWriteOne a n v = s := by
  simp [State.softWriteOne, hc, hr]

theorem State.regWrite_reg (s : State) {a own u i n : Nat} (v : Nat) {r : RegSpec} (hr : findReg a = some (r, own, u, i)) (hle : own ≤ a)
    (hend : a + n ≤ own + r.bytes) : s.regWrite a n v = s.wr own (r.write (s.isLocked own) (s.rd own) (a - own) n v) := by
  have whole : min n (r.bytes - (a - own)) = n := by omega
  simp [State.regWrite, hr, whole]

/-- A register takes the low bits of the written value, as many as the write has. -/
theorem RegSpec.write_mod (r : RegSpec) (locked : Bool) (cur o n v : Nat) : r.write locked cur o n (v % 2 ^ (8 * n)) = r.write locked cur o n v := by
  simp [RegSpec.write]

/-- A write to a register that moves nothing else fills at most the host's latch copy (R8). -/
theorem State.afterWrite_plain (s : State) {r : RegSpec} (own u i a n v before : Nat)
    (h : r.base ∉ [R.CTL_ADMIN_SR_BASE, R.CTL_ADMIN_CR_BASE, R.CTL_ADMIN_EQ_BASE, R.PCI_WINDOW 0, R.DNX_IN_WINDOW 0, R.LAT_CELL_STRM 0 0, R.CFG_STATUS]) :
    ∃ latch, s.afterWrite r own u i a n v before = { s with ctrHost := latch } := by
  simp only [List.mem_cons, List.not_mem_nil, or_false, not_or] at h
  obtain ⟨hsr, hcr, heq, hpci, hdnx, hstrm, hcfg⟩ := h
  simp only [State.afterWrite, hsr, hcr, heq, hpci, hdnx, hstrm, hcfg, decide_false, Bool.or_false, Bool.false_and, Bool.false_eq_true, if_false]
  split
  · split
    · exact ⟨_, rfl⟩
    · exact ⟨_, rfl⟩
  · exact ⟨_, rfl⟩

/-- REGISTER_WRITE within one register that moves nothing else. -/
theorem registerWrite_within (s : State) {a n own u i : Nat} (v : Nat) {r : RegSpec} (hcrc : a < R.CRC_CFG 0 ∨ R.CRC_CFG 4 ≤ a)
    (hc : findCtr a = none) (hr : findReg a = some (r, own, u, i)) (hn : n = 4 ∨ n = 8) (ha : a % n = 0) (hle : own ≤ a)
    (hend : a + n ≤ own + r.bytes)
    (hbase : r.base ∉ [R.CTL_ADMIN_SR_BASE, R.CTL_ADMIN_CR_BASE, R.CTL_ADMIN_EQ_BASE, R.PCI_WINDOW 0, R.DNX_IN_WINDOW 0, R.LAT_CELL_STRM 0 0,
      R.CFG_STATUS])
    (hown : own ∉ [R.CTL_ADMIN_SR_BASE, R.CTL_ADMIN_CR_BASE, R.CTL_ADMIN_EQ_BASE]) :
    ∃ latch, exec (.registerWrite a n v) s =
      .next { s.wr own (r.write (s.isLocked own) (s.rd own) (a - own) n v) with ctrHost := latch } := by
  have hspan : readSpan a n = n := by simp only [readSpan, hc, regSpan, hr]; omega
  obtain ⟨latch, hw⟩ := State.afterWrite_plain (s.wr own (r.write (s.isLocked own) (s.rd own) (a - own) n v)) own u i a n (v % 2 ^ (8 * n)) (s.rd own) hbase
  refine ⟨latch, ?_⟩
  rw [exec_registerWrite s v hn ha hcrc, State.softWriteOver_one 2 s v (by omega) hspan, State.softWriteOne_reg s n _ hc hr hown,
    State.regWrite_reg s _ hr hle hend, RegSpec.write_mod, hw]

/-- A write over bytes of no register and no counter has no effect (R6). -/
theorem State.softWriteOver_none (k : Nat) (s : State) {a n : Nat} (v : Nat) (h : ∀ b, a ≤ b → b < a + n → findCtr b = none ∧ findReg b = none) :
    State.softWriteOver k s a n v = s := by
  induction k generalizing a n v with
  | zero => rfl
  | succ k ih =>
    simp only [State.softWriteOver]
    split
    · rfl
    · rename_i hn
      obtain ⟨hc, hr⟩ := h a (Nat.le_refl a) (by omega)
      rw [State.softWriteOne_none s _ _ hc hr]
      exact ih _ fun b hb hb' => h b (by omega) (by omega)

theorem registerWrite_none (s : State) {a n : Nat} (v : Nat) (hcrc : a + n ≤ R.CRC_CFG 0 ∨ R.CRC_CFG 4 ≤ a)
    (h : ∀ b, a ≤ b → b < a + n → findCtr b = none ∧ findReg b = none) : exec (.registerWrite a n v) s = .next s := by
  by_cases good : (n = 4 ∨ n = 8) ∧ a % n = 0
  · rw [exec_registerWrite s v good.1 good.2 (by omega), State.softWriteOver_none 4 s v h]
  · exact exec_registerWrite_ignored s v good

/-! ## Counting (R7, R511) -/

theorem State.ctrVal_of_ctr {s t : State} (h : t.ctr = s.ctr) (k : Nat) : t.ctrVal k = s.ctrVal k := by rw [State.ctrVal, h, State.ctrVal]

theorem State.ctrVal_ctrClear_same (s : State) (a : Nat) : (s.ctrClear a).ctrVal a = 0 := by
  unfold State.ctrVal State.ctrClear; exact Tbl.get_set_same s.ctr a 0 0

theorem State.ctrVal_ctrClear_ne (s : State) {a k : Nat} (h : k ≠ a) : (s.ctrClear a).ctrVal k = s.ctrVal k := by
  unfold State.ctrVal State.ctrClear; exact Tbl.get_set_ne s.ctr 0 0 0 h

/-- What counting can leave in the live counters: they stand, or the one counted holds a new value. -/
theorem State.bump_ctr (s : State) (a n : Nat) : (s.bump a n).1.ctr = s.ctr ∨ ∃ v, (s.bump a n).1.ctr = Tbl.set s.ctr a v 0 := by
  unfold State.bump
  split
  · exact .inl rfl
  · split
    · exact .inr ⟨_, rfl⟩
    · exact .inl rfl
    · refine .inr ⟨(s.ctrVal a + n) % 2 ^ 64, ?_⟩
      dsimp only; split <;> rfl
    · refine .inr ⟨(s.ctrVal a + n) % 2 ^ 64, ?_⟩
      dsimp only; split <;> rfl

theorem State.bump_ctrVal_ne (s : State) {a k : Nat} (n : Nat) (h : k ≠ a) : (s.bump a n).1.ctrVal k = s.ctrVal k := by
  obtain hs | ⟨v, hv⟩ := s.bump_ctr a n
  · exact State.ctrVal_of_ctr hs k
  · rw [State.ctrVal, hv]; exact Tbl.get_set_ne _ _ _ _ h

/-- A class S counter stops at its ceiling. -/
theorem State.bump_ctrVal_s (s : State) {a u i : Nat} (n : Nat) {b : CtrBlock} {c : CtrSpec} (h : findCtr a = some (b, u, c, i)) (hc : c.cls = .s) :
    (s.bump a n).1.ctrVal a = min (s.ctrVal a + n) 0xFFFFFFFF := by
  simp only [State.bump, h, hc]; exact Tbl.get_set_same _ _ _ _

/-- A class E counter wraps, and saturates never. -/
theorem State.bump_e (s : State) {a u i : Nat} (n : Nat) {b : CtrBlock} {c : CtrSpec} (h : findCtr a = some (b, u, c, i)) (hc : c.cls = .e) :
    (s.bump a n).1.ctrVal a = (s.ctrVal a + n) % 2 ^ 64 ∧ (s.bump a n).2 = false := by
  simp only [State.bump, h, hc, and_true]
  split <;> exact Tbl.get_set_same _ _ _ _

/-- Telling the management controller counts at most the events lost (R455). -/
theorem State.mcSignal_ctrVal (s : State) (code d : Nat) {k : Nat} (hk : k ≠ R.MGT_EVENT_LOST) : (s.mcSignal code d).ctrVal k = s.ctrVal k := by
  have counted := State.bump_ctrVal_ne { s with mgt := { s.mgt with lost := s.mgt.lost + 1 } } 1 hk
  unfold State.mcSignal
  split
  · rfl
  · split
    · rename_i hb; rw [hb] at counted; exact counted
    · rename_i hb; rw [hb] at counted
      rw [State.ctrVal_of_ctr (State.postEvent_ctr _ _ _ _ _)]
      exact counted

/-- The saturation of a counter moves no other counter than that of the events lost. -/
theorem State.cnt_ctrVal (s : State) (a n : Nat) {k : Nat} (hk : k ≠ R.MGT_EVENT_LOST) : (s.cnt a n).ctrVal k = (s.bump a n).1.ctrVal k := by
  unfold State.cnt
  split
  · rename_i hb; rw [hb]
  · rename_i hb
    rw [hb, State.mcSignal_ctrVal _ _ _ hk, State.ctrVal_of_ctr (State.postEvent_ctr _ _ _ _ _)]

theorem State.cnt_of_not_saturated {s : State} {a n : Nat} (h : (s.bump a n).2 = false) : s.cnt a n = (s.bump a n).1 := by
  unfold State.cnt
  split
  · rename_i hb; rw [hb]
  · rename_i hb; rw [hb] at h; cases h

theorem State.cnt_ctrVal_s (s : State) {a u i : Nat} (n : Nat) {b : CtrBlock} {c : CtrSpec} (h : findCtr a = some (b, u, c, i)) (hc : c.cls = .s)
    (ha : R.MGT_EVENT_LOST ≠ a) : (s.cnt a n).ctrVal a = min (s.ctrVal a + n) 0xFFFFFFFF := by
  rw [State.cnt_ctrVal s a n ha.symm, State.bump_ctrVal_s s n h hc]

theorem State.cnt_ctrVal_e (s : State) {a u i : Nat} (n : Nat) {b : CtrBlock} {c : CtrSpec} (h : findCtr a = some (b, u, c, i)) (hc : c.cls = .e) :
    (s.cnt a n).ctrVal a = (s.ctrVal a + n) % 2 ^ 64 := by
  obtain ⟨value, quiet⟩ := State.bump_e s n h hc
  rw [State.cnt_of_not_saturated quiet, value]

theorem State.cnt_ctrVal_ne (s : State) (a n : Nat) {k : Nat} (ha : k ≠ a) (hk : k ≠ R.MGT_EVENT_LOST) : (s.cnt a n).ctrVal k = s.ctrVal k := by
  rw [State.cnt_ctrVal s a n hk, State.bump_ctrVal_ne s n ha]

theorem exec_sCounterClear (s : State) {a u i : Nat} {b : CtrBlock} {c : CtrSpec} (h : findCtr a = some (b, u, c, i)) (hc : c.cls = .s) :
    exec (.sCounterClear a) s = .next (s.ctrClear (c.base + u * c.s1 + i * c.s2)) := by
  show execSCounterClear a s = _
  simp only [execSCounterClear, h, hc]

/-! ## Captures (R8) -/

/-- Keeping the entries of a table by their key. -/
theorem Tbl.find_filter_key {α : Type} (t : Tbl α) (p : Nat → Bool) (k : Nat) :
    Tbl.find (List.filter (fun e => p e.1) t : Tbl α) k = if p k then Tbl.find t k else none := by
  induction t with
  | nil => simp
  | cons e r ih =>
    obtain ⟨j, v⟩ := e
    rw [List.filter_cons, Tbl.find_cons]
    by_cases hk : j = k
    · subst hk; cases hp : p j <;> simp [Tbl.find_cons, ih, hp]
    · cases p j <;> simp [Tbl.find_cons, ih, hk]

/-- One table put over another: the first entry of a key wins, and what it lacks is the other's. -/
theorem Tbl.find_foldr_put {α : Type} (l t : Tbl α) (k : Nat) :
    Tbl.find (l.foldr (fun p t => Tbl.put t p.1 p.2) t) k = (Tbl.find l k).or (Tbl.find t k) := by
  induction l with
  | nil => rfl
  | cons e r ih =>
    obtain ⟨j, v⟩ := e
    rw [List.foldr_cons, Tbl.find_cons]
    by_cases hk : j = k
    · subst hk; simp
    · rw [Tbl.find_put_ne _ _ (Ne.symm hk), ih, if_neg hk]

/-- Values f put at every key of a list. -/
theorem Tbl.find_foldl_put {α : Type} (f : Nat → α) (gs : List Nat) (t : Tbl α) (k : Nat) :
    Tbl.find (gs.foldl (fun t g => Tbl.put t g (f g)) t) k = if k ∈ gs then some (f k) else Tbl.find t k := by
  induction gs generalizing t with
  | nil => simp
  | cons g r ih =>
    rw [List.foldl_cons, ih]
    by_cases hg : k = g
    · subst hg; simp
    · simp [hg, Tbl.find_put_ne _ _ hg]

theorem find_capture (live latch : Tbl Nat) (b : CtrBlock) (u c : Nat) :
    Tbl.find (capture live latch b u) c = if inBlock b u c then Tbl.find live c else Tbl.find latch c := by
  unfold capture
  rw [Tbl.find_foldr_put, Tbl.find_filter_key live (inBlock b u), Tbl.find_filter_key latch (fun a => !inBlock b u a)]
  cases inBlock b u c <;> simp

/-- A latch copy after a capture: a gauge of the block at its level, another counter of the block at its live value, the rest as before. -/
theorem State.get_captured (s : State) (latch : Tbl Nat) (b : CtrBlock) (u c : Nat) :
    Tbl.get (s.captured latch b u) c 0 =
      if c ∈ gaugesOf b.snap then s.shown c else if inBlock b u c then s.ctrVal c else Tbl.get latch c 0 := by
  unfold State.captured Tbl.get
  rw [Tbl.find_foldl_put, find_capture]
  split
  · rfl
  · split <;> rfl

/-- What a capture captures, and what of the latch copy it leaves (R8). -/
theorem State.captured_reads (s : State) (latch : Tbl Nat) (b : CtrBlock) (u : Nat) :
    (∀ c, inBlock b u c = true → c ∉ gaugesOf b.snap → Tbl.get (s.captured latch b u) c 0 = s.ctrVal c) ∧
    (∀ c, c ∈ gaugesOf b.snap → Tbl.get (s.captured latch b u) c 0 = s.shown c) ∧
    (∀ c, inBlock b u c = false → c ∉ gaugesOf b.snap → Tbl.get (s.captured latch b u) c 0 = Tbl.get latch c 0) := by
  refine ⟨fun c hin hg => ?_, fun c hg => ?_, fun c hout hg => ?_⟩
  · rw [State.get_captured, if_neg hg, if_pos hin]
  · rw [State.get_captured, if_pos hg]
  · rw [State.get_captured, if_neg hg, hout, if_neg Bool.false_ne_true]

theorem exec_counterSnap (s : State) {a u : Nat} {b : CtrBlock} (h : blockOfSnap a = some (b, u)) :
    exec (.counterSnap a) s = .next { s with ctrHost := s.captured s.ctrHost b u } := by
  show execCounterSnap a s = _
  simp only [execCounterSnap, h]

theorem exec_mcCapture (s : State) {m dpa u : Nat} {b : CtrBlock} (hm : s.mcAnswers m = true) (hrun : s.dev = .run) (hdpa : regSpace ≤ dpa)
    (h : blockOfSnap (regAddr (dpa - regSpace)) = some (b, u)) :
    exec (.mcCapture m dpa true) s = .next (State.reply { s with ctrMc := s.captured s.ctrMc b u } m mtVendor 2 ccOk []) := by
  have reads : s.mcReads (regAddr (dpa - regSpace)) = true := by simp [State.mcReads, hrun]
  show execMcCapture m dpa true s = _
  simp [execMcCapture, State.mc, hm, h, reads, Nat.not_lt.2 hdpa]

/-- The counters of the device: live, in the host's latch copy and in the management controller's. -/
def State.counters (s : State) : Tbl Nat × Tbl Nat × Tbl Nat := (s.ctr, s.ctrHost, s.ctrMc)

@[simp] theorem State.counters_addRef (s : State) (h : Nat) (up : Bool) : (s.addRef h up).counters = s.counters := rfl

@[simp] theorem State.counters_moveRef (s : State) (old new : Option Nat) : (s.moveRef old new).counters = s.counters := by
  unfold State.moveRef
  split
  · rfl
  · cases old <;> cases new <;> rfl

@[simp] theorem State.counters_strmStart (s : State) (c j len : Nat) : (s.strmStart c j len).counters = s.counters := by
  unfold State.strmStart
  split
  · rfl
  · split <;> rfl

/-- A 1 written to the snap bit captures the block; whatever else the write moves, no counter is part of it. -/
theorem State.counters_afterWrite_snap (s : State) (r : RegSpec) {a k : Nat} (u i n v before : Nat) {b : CtrBlock} (h : blockOfSnap a = some (b, k))
    (hv : bit v (snapBit a) = true) :
    (s.afterWrite r a u i a n v before).counters = (s.ctr, s.captured s.ctrHost b k, s.ctrMc) := by
  simp only [State.afterWrite, h, hv, decide_true, Bool.and_self, if_true]
  split
  · -- a window of the PCIe endpoint
    exact State.counters_moveRef _ _ _
  split
  · -- an inbound window of a Denux link
    split
    · rfl
    · split <;> split <;> rfl
  split
  · -- a base of the admin ring
    rfl
  split
  · -- CFG_STATUS
    rfl
  split
  · -- a stream of a cell
    exact State.counters_strmStart _ _ _ _
  · rfl

theorem blockOfSnap_adminBase : ∀ a ∈ [R.CTL_ADMIN_SR_BASE, R.CTL_ADMIN_CR_BASE, R.CTL_ADMIN_EQ_BASE], blockOfSnap a = none := by decide

/-- The bases of the admin ring are no snap registers. -/
theorem not_adminBase_of_snap {a u : Nat} {b : CtrBlock} (h : blockOfSnap a = some (b, u)) :
    a ∉ [R.CTL_ADMIN_SR_BASE, R.CTL_ADMIN_CR_BASE, R.CTL_ADMIN_EQ_BASE] := fun ha => by
  rw [blockOfSnap_adminBase a ha] at h; cases h

/-- REGISTER_WRITE of a 1 to a snap bit captures as COUNTER_SNAP does, after the register itself is written. -/
theorem registerWrite_snap (s : State) {a v u i w : Nat} {b : CtrBlock} {r : RegSpec} (hb : blockOfSnap a = some (b, u))
    (hv : bit v (snapBit a) = true) (ha : a % 4 = 0) (hlt : v < 2 ^ 32) (hc : findCtr a = none) (hr : findReg a = some (r, a, w, i))
    (hspan : readSpan a 4 = 4) (hcrc : a < R.CRC_CFG 0 ∨ R.CRC_CFG 4 ≤ a) :
    ∃ t, exec (.registerWrite a 4 v) s = .next t ∧ t.counters = (s.ctr, (s.regWrite a 4 v).captured s.ctrHost b u, s.ctrMc) := by
  refine ⟨_, exec_registerWrite s v (.inl rfl) ha hcrc, ?_⟩
  rw [State.softWriteOver_one 2 s v (by decide) hspan, Nat.mod_eq_of_lt hlt, State.softWriteOne_reg s 4 v hc hr (not_adminBase_of_snap hb),
    State.counters_afterWrite_snap _ r w i 4 v _ hb hv]
  simp [State.regWrite, hr]

end Sys2Proof.Machine
end

section
/-! PROOFS. The statements of the first chapter about registers and counters (R5 to R8, R402, R511). -/

namespace Sys2Proof.Machine

/-- Settles O5: a write reaches one register by its access codes or nothing, a field's bit follows its code, and counting moves the counter
counted and, where it saturates, at most the count of lost events. -/
theorem registersAndCounters : Obligations.RegistersAndCounters := by
  unfold Obligations.RegistersAndCounters
  refine ⟨⟨?within, ?nothing, ?size⟩, FieldSpec.testBit_write, ?clear, ?classS, ?classE, ?others⟩
  case within =>
    intro a n v s r own u i hcrc hc hr hn ha hle hend hbase hown
    obtain ⟨latch, hw⟩ := registerWrite_within s v hcrc hc hr hn ha hle hend hbase hown
    exact ⟨_, hw, State.rd_wr_same s own _, fun b hb => State.rd_wr_ne s _ hb, rfl, rfl⟩
  case nothing => exact fun a n v s hcrc h => registerWrite_none s v hcrc h
  case size => exact fun a n v s h => exec_registerWrite_ignored s v h
  case clear =>
    intro a s b u i c h hc
    exact ⟨_, exec_sCounterClear s h hc, State.ctrVal_ctrClear_same s _, fun k hk => State.ctrVal_ctrClear_ne s hk, rfl, rfl, rfl, rfl⟩
  case classS => exact fun s a n b u i c h hc ha => State.cnt_ctrVal_s s n h hc ha
  case classE => exact fun s a n b u i c h hc => State.cnt_ctrVal_e s n h hc
  case others => exact fun s a n k ha hk => State.cnt_ctrVal_ne s a n ha hk

/-- Settles O6: reads go to a latch copy alone, and only a capture writes one. -/
theorem counterReads : Obligations.CounterReads := by
  unfold Obligations.CounterReads
  refine ⟨?counter, ?gauge, ?copies, ?snap, ?mc, ?write, fun s a n => ⟨State.cnt_ctrHost s a n, State.cnt_ctrMc s a n⟩⟩
  case counter =>
    rintro a n s b u i own c mc h rfl
    simp only [State.readReg, h]
  case gauge =>
    intro a n s r own u i mc hc hr hg
    simp only [State.readReg, hc, hr, hg, if_true]
  case copies =>
    intro c s hg
    simp [State.latched, hg]
  case snap =>
    intro a s b u h
    obtain ⟨counters, gauges, rest⟩ := s.captured_reads s.ctrHost b u
    exact ⟨_, exec_counterSnap s h, counters, gauges, rest, rfl, rfl, rfl, rfl⟩
  case mc =>
    intro m dpa u s b hm hrun hdpa h
    obtain ⟨counters, gauges, rest⟩ := s.captured_reads s.ctrMc b u
    exact ⟨_, exec_mcCapture s hm hrun hdpa h, counters, gauges, rest, rfl, rfl, rfl, rfl⟩
  case write =>
    intro a v u i w s b r hb hv ha hlt hc hr hspan hcrc
    obtain ⟨t, ht, hcounters⟩ := registerWrite_snap s hb hv ha hlt hc hr hspan hcrc
    obtain ⟨hlive, hhost, hmc⟩ : t.ctr = s.ctr ∧ t.ctrHost = (s.regWrite a 4 v).captured s.ctrHost b u ∧ t.ctrMc = s.ctrMc := by
      simpa [State.counters] using hcounters
    have live : ∀ c, (s.regWrite a 4 v).ctrVal c = s.ctrVal c := State.ctrVal_of_ctr (by simp [State.regWrite, hr])
    obtain ⟨counters, -, rest⟩ := (s.regWrite a 4 v).captured_reads s.ctrHost b u
    rw [← hhost] at counters rest
    exact ⟨t, ht, fun c hin hg => (counters c hin hg).trans (live c), rest, hlive, hmc⟩

end Sys2Proof.Machine
end
